-- ==== Sys2Proof/Word.lean ====
section
/-! DEFINITION. Word.lean: the widths the manual computes in, and the plainest
operations on them. Registers are 32 bits wide (R3), a 64-bit value is two
registers, a queue entry is 64 bytes (R50), an HBM line is 64 bytes. -/
namespace Sys2Proof

/-- One byte. -/
abbrev Byte := BitVec 8
/-- A 16-bit field: node ids, endpoints, streams, flag counters. -/
abbrev Half := BitVec 16
/-- One BAR0 register (R3). -/
abbrev Word := BitVec 32
/-- A 64-bit value: two consecutive registers, low word first (R3). -/
abbrev DWord := BitVec 64

/-- Bits `hi:lo` of a number, as a number. -/
def bitsOf (x hi lo : Nat) : Nat := x / 2 ^ lo % 2 ^ (hi + 1 - lo)
/-- Bit `i` of a number. -/
def bitOf (x i : Nat) : Bool := x / 2 ^ i % 2 == 1
/-- A Boolean as the number a register shows. -/
def b2n (b : Bool) : Nat := if b then 1 else 0
/-- Division rounded up. -/
def ceilDiv (a b : Nat) : Nat := (a + b - 1) / b
/-- The nearer end of `lo..hi`, or the number itself when it lies inside. -/
def clampNat (lo hi x : Nat) : Nat := max lo (min hi x)
/-- A saturating count of `w` bits. -/
def satInc (w x : Nat) : Nat := min (x + 1) (2 ^ w - 1)
/-- A number as a register word. -/
def word (x : Nat) : Word := BitVec.ofNat 32 x
/-- The two's-complement pattern of an integer in `w` bits, as a number. -/
def twos (w : Nat) (x : Int) : Nat := (x % (2 ^ w : Int)).toNat
/-- The integer a `w`-bit two's-complement pattern names. -/
def ofTwos (w x : Nat) : Int :=
  if x % 2 ^ w < 2 ^ (w - 1) then (x % 2 ^ w : Nat) else (x % 2 ^ w : Nat) - (2 ^ w : Int)

end Sys2Proof
end

