-- ==== Sys2Proof/Machine/Types.lean ====
section
/-! DEFINITION. Machine/Types.lean: the small alternatives and records that commands
carry and the state holds: host ports, error outcomes, the ALP header and tail,
HELLO and time flits. -/
namespace Sys2Proof

/-- The two PCIe host ports (R325). -/
inductive HostPort where
  | a | b
  deriving DecidableEq, Repr

/-- What the ECC logic finds in one 32-byte burst of HBM, or in one 64-bit word of tun
memory, when it is read (R143, R145): the outcome is the memory's, so it comes with the command. -/
inductive EccOutcome where
  | clean            -- no error
  | onDie            -- the stack's on-die ECC corrected it
  | symbol           -- the controller corrected one symbol; in tun memory, a single bit
  | parityRetried    -- a command/address parity error whose retry succeeded
  | parityFailed     -- a command/address parity error whose retry failed
  | uncorrectable    -- an uncorrectable burst; in tun memory, a double-bit error
  deriving DecidableEq, Repr

/-- What an access finds: outcomes by the number of the burst, counted from the first burst
of the first line that the access touches, or by the number of the 64-bit word in an entry
of tun memory. What is not listed is clean. -/
abbrev Ecc := List (Nat × EccOutcome)

/-- How a transfer over the die-to-die ring went (chapter 16 after R347): good, good after a
link-level replay, or failed after four replays. -/
inductive RingOutcome where
  | good | replayed | failed
  deriving DecidableEq, Repr

/-- The data of an entry on its way into a tun queue (R144). -/
inductive Taint where
  | good                          -- good data
  | bad                           -- marked poisoned
  | burst (stack addr : Nat)      -- an uncorrectable burst met by a read whose data no unit has used yet
  deriving DecidableEq, Repr

/-- What a host has programmed into a port's configuration space (R325, R326): Max_Payload_Size
and Max_Read_Request_Size in bytes, the k of the Resizable BAR capability for BAR4, D3hot, MSI-X
Enable and Function Mask, and the range and disable of the completion timeout. PRESUMED from PCI Express Base 5.0 (log entry 13): the values
after a reset of the function. -/
structure PciCfg where
  mps      : Nat := 128
  mrrs     : Nat := 512
  bar4     : Nat := 0
  d3hot    : Bool := false
  msixEn   : Bool := false
  msixMask : Bool := false
  cplRange : Nat := 0              -- Completion Timeout Value of Device Control 2
  cplOff   : Bool := false         -- Completion Timeout Disable
  deriving DecidableEq, Repr

/-- What the FEC of a lane finds in a codeword (R256). -/
inductive FecOutcome where
  | clean
  | corrected
  | bad
  deriving DecidableEq, Repr

/-- Where a flit arrives: its lane, as the codeword header identifies it, the low 16 bits of
the lane's codeword count, and what the FEC found in that codeword (R256). -/
structure FlitSlot where
  lane : Fin 16
  cw   : BitVec 16
  fec  : FecOutcome
  deriving DecidableEq, Repr

/-- What a codeword header gives beside the lane (R256): the low 16 bits of the lane's codeword
count, with what the FEC found in the codeword. -/
structure Codeword where
  cw  : BitVec 16
  fec : FecOutcome
  deriving DecidableEq, Repr

/-- A control flit and where it arrives (R256, R259). -/
structure ControlFlit where
  slot  : FlitSlot
  bytes : List Byte
  deriving DecidableEq, Repr

/-- A BAR0 read: its offset and its size in bytes (R21). -/
structure BarRead where
  off  : Nat
  size : Nat
  deriving DecidableEq, Repr

/-- A transfer by a tun-to-tun crossing: tun × 16 + queue − 48 of its sender, and how the ring, where
the transfer takes it, carried it (R18, R61). -/
structure CrossingMove where
  key  : Fin 3072
  ring : RingOutcome
  deriving DecidableEq, Repr

/-- A frame that a service takes, and what the controllers find at the bursts that it writes (R143). -/
structure Taking where
  frame : Nat
  ecc   : Ecc
  deriving DecidableEq, Repr

/-- A tun that fetches from its tun memory, and what the fetch finds (R145). -/
structure Fetch where
  tun : Fin 192
  ecc : Ecc
  deriving DecidableEq, Repr

/-- What an access of a data mover finds in HBM, and how the ring carried it (R143). -/
structure MoverOutcome where
  ecc  : Ecc
  ring : RingOutcome
  deriving DecidableEq, Repr

/-- What a sparge read finds, and whether it has a cellar slot (R153, R154). -/
structure SpargeRead where
  ecc    : Ecc
  cellar : Bool
  deriving DecidableEq, Repr

/-- A frame for which the granary's counters are touched, and whether they show a parity error. -/
structure GranaryAct where
  frame  : Nat
  parity : Bool
  deriving DecidableEq, Repr

/-- What a host writes to AER's two status registers, whose bits clear on ones (R325). -/
structure AerClear where
  unc : Word
  cor : Word
  deriving DecidableEq, Repr

/-- A host port, the ticks for which the cause of its reset lasted, and what its host programs into
it afterwards (R325, R391). -/
structure PortSetup where
  port : HostPort
  held : Nat
  cfg  : PciCfg
  aer  : AerClear
  deriving DecidableEq, Repr

/-- The width of a host link that trains, and what its host programs then (R325, R343). -/
structure LinkSetup where
  width : Nat
  cfg   : PciCfg
  aer   : AerClear
  deriving DecidableEq, Repr

/-- The port that asks for the certificate chain, and what the write to HBM finds (R404). -/
structure ChainExport where
  port : HostPort
  ecc  : Ecc
  deriving DecidableEq, Repr

/-- A host port and the bit of its AER status that names an error (R325). -/
structure PortError where
  port : HostPort
  bit  : Fin 32
  deriving DecidableEq, Repr

/-- The ALP v3 header (R162), field by field. -/
structure Header where
  dest     : Half := 0
  inter    : Half := 0xFFFF#16
  src      : Half := 0
  endpoint : Half := 0
  cls      : BitVec 4 := 0
  vc       : BitVec 4 := 0
  op       : Byte := 0
  length   : Half := 0
  stream   : Half := 0
  epoch    : Byte := 0
  flags    : Byte := 0
  seq      : Word := 0
  hops     : Byte := 0
  version  : Byte := 3#8
  hchk     : Half := 0
  opx      : DWord := 0
  deriving DecidableEq, Repr

/-- The tail of a frame (R174). -/
structure Tail where
  crc     : Word := 0
  verdict : Byte := 0
  reason  : Byte := 0
  marker  : Half := 0xFFFF#16
  deriving DecidableEq, Repr

/-- A HELLO (R266), as the far port sent it. -/
structure Hello where
  certTag  : DWord := 0
  port     : Byte := 0
  alpMax   : BitVec 4 := 3#4
  alpMin   : BitVec 4 := 2#4
  coordOk  : Bool := false
  neg      : Bool := false
  root     : Bool := false
  grist    : Bool := false
  node     : Half := 0xFFFF#16
  coord    : Nat × Nat × Nat := (0, 0, 0)
  ring     : Nat × Nat × Nat := (0, 0, 0)
  count    : Word := 0
  deriving DecidableEq, Repr

/-- A SUBTYPE 1 time flit (R302). -/
structure TimeFlit where
  tx     : DWord := 0
  echoTx : DWord := 0
  echoRx : DWord := 0
  state  : BitVec 2 := 0
  depth  : Byte := 0xFF#8
  root   : Half := 0xFFFF#16
  deriving DecidableEq, Repr

/-- An agent that can wait on a flag (R67). -/
inductive Agent where
  | tun (t : Nat)
  | queue (q : Nat)
  deriving DecidableEq, Repr

/-- The outcome of one training attempt (R263), which the optics decide. -/
structure TrainOutcome where
  lanes   : Half        -- one bit for each lane that locked
  rate224 : Bool        -- 224 Gb/s (ALP v3) or 112 Gb/s (ALP v2)
  deriving DecidableEq, Repr

/-- The measured inputs of one second (R362): what the sensors read. -/
structure SecondInputs where
  inletC  : Nat      -- coolant inlet, whole °C
  flowCL  : Nat      -- flow, 0.01 L/min
  hot     : Bool     -- junction above 100 °C during the second
  deriving DecidableEq, Repr

/-- How a read that the IS960 sent to a host ended (R328, R337). -/
inductive HostCpl where
  | data (bytes : List Byte)        -- the data, good
  | poisoned (bytes : List Byte)    -- data with EP = 1
  | error                           -- UR or CA
  deriving DecidableEq, Repr

/-- The ways a host port can be reset (R391). -/
inductive PortResetCause where
  | perst | hotReset | linkDisable | flr
  deriving DecidableEq, Repr

/-- A PTP message's timestamps arrive as whole FTC ticks (R300). -/
structure PtpSync where
  domain    : Nat
  masterId  : Nat
  masterTicks : Nat      -- the master's time of sending, 4 × nanoseconds (R299)
  arrival   : Nat        -- FTC at the PCS when the Sync arrived
  followUp  : Bool       -- the message is the Follow_Up of a two-step Sync
  twoStep   : Bool       -- a Sync whose time comes in its Follow_Up
  deriving DecidableEq, Repr

end Sys2Proof

namespace Sys2Proof

/-- What sparge scrubs in one step (R153). -/
inductive SpargeTarget where
  | stack (n : Fin 16)
  | tunMem (t : Fin 192)
  deriving DecidableEq, Repr

/-- Who reserves reply space (R190, R368). -/
inductive Requester where
  | stream (st : Fin 1024)      -- data-mover stream, kettle × 256 + stream
  | queue (q : Fin 4096)        -- a host remote request of a stream queue
  | catchUp                     -- the catch-up engine
  deriving DecidableEq, Repr

/-- A source of collective chunks (R243): a collective binding, or a combining
context that holds a ready partial. -/
inductive ColSource where
  | binding (t : Fin 192) (q : Fin 64)
  | context (u : Fin 4) (x : Fin 256)
  deriving DecidableEq, Repr

end Sys2Proof
end

