-- ==== Sys2Proof/Syntax.lean ====
section
/-! DEFINITION. Syntax.lean: the commands of the block, one constructor for each row
of spec/opcode_table.json: those with operands in the table's order, then those without,
and last twelve more with operands (Lean's compiled code builds a term with operands only
from the first 245 constructors; the kernel knows no such bound). `p` is the host port
that gives a write, `t` a tun, `u` a lauter unit, `k` the number of a frame that the
Maltings holds, `e` what the ECC logic finds; a tun or recipe instruction is issued by
the sequencer of its tun or unit from the program that the state holds. -/
namespace Sys2Proof

/-- A command: one whole, indivisible step of the IS960 (95_what_each_step_holds). -/
inductive Instr where
  /-- LOW_WORD_READ (R4). -/
  | lowWordRead (p : HostPort) (r : BarRead)
  /-- HIGH_WORD_READ (R4). -/
  | highWordRead (p : HostPort) (r : BarRead)
  /-- LOW_WORD_WRITE (R4). -/
  | lowWordWrite (p : HostPort) (off : Nat) (v : Word)
  /-- HIGH_WORD_WRITE (R4). -/
  | highWordWrite (p : HostPort) (off : Nat) (v : Word)
  /-- REGISTER_WRITE (R6). -/
  | registerWrite (p : HostPort) (off size : Nat) (v : DWord)
  /-- CROSSING_DELIVER (R18). -/
  | crossingDeliver (x : CrossingMove)
  /-- GRIST_STAGE (R34). -/
  | gristStage (p : HostPort)
  /-- STAGE_COMPLETE (R35). -/
  | stageComplete (e : Ecc)
  /-- GRIST_CHECK (R34). -/
  | gristCheck (p : HostPort)
  /-- GRIST_ARM (R36). -/
  | gristArm (p : HostPort)
  /-- GRIST_DISARM (R34). -/
  | gristDisarm (p : HostPort)
  /-- GRIST_CLEAR (R34). -/
  | gristClear (p : HostPort)
  /-- RESOLVE_KEEP (R46). -/
  | resolveKeep (p : HostPort)
  /-- RESOLVE_APPLY (R46). -/
  | resolveApply (p : HostPort)
  /-- GRIST_PITCH_AT_WRITE (R33). -/
  | gristPitchAtWrite (p : HostPort) (high : Bool) (v : Word)
  /-- HBM_MAP_WRITE (R140). -/
  | hbmMapWrite (p : HostPort) (v : Word)
  /-- VOTE_CONTRIBUTION (R43). -/
  | voteContribution (k : Nat)
  /-- VOTE_RESULT (R45). -/
  | voteResult (k : Nat)
  /-- TUN_LOAD (R73). -/
  | tunLoad (p : HostPort) (t : Fin 192)
  /-- LOAD_COMPLETE (R73). -/
  | loadComplete (t : Fin 192) (e : Ecc)
  /-- ARM_LAUNCH (R74). -/
  | armLaunch (p : HostPort) (t : Fin 192)
  /-- TUN_HALT (R76). -/
  | tunHalt (p : HostPort) (t : Fin 192)
  /-- TUN_CLEAR (R76). -/
  | tunClear (p : HostPort) (t : Fin 192)
  /-- TUN_FLAG_WRITE (R76). -/
  | tunFlagWrite (p : HostPort) (t : Fin 192) (f : Fin 256) (v : Word)
  /-- LAUNCH (R51). -/
  | launch (t : Fin 192)
  /-- RESULT_PUSH (R55). -/
  | resultPush (t : Fin 192)
  /-- ISSUE_PAST_STORE (R80). -/
  | issuePastStore (t : Fin 192)
  /-- TUN_ENTER_DONE (R88). -/
  | tunEnterDone (t : Fin 192)
  /-- PORT_QUEUE_TRANSFER (R61). -/
  | portQueueTransfer (t : Fin 192) (q : Fin 64)
  /-- FLAG_WAIT_RESUME (R66). -/
  | flagWaitResume (a : Agent)
  /-- FLAG_WALK_HOP (R67). -/
  | flagWalkHop (a : Agent)
  /-- FLAG_CYCLE_RECHECK (R68). -/
  | flagCycleRecheck (a : Agent)
  /-- FLAG_WAIT_TIMEOUT (R69). -/
  | flagWaitTimeout (a : Agent)
  /-- MATRIX_PRODUCT_START (R94). -/
  | matrixProductStart (t : Fin 192) (sparse : Bool)
  /-- MATRIX_PRODUCT_COMPLETE (R94). -/
  | matrixProductComplete (t : Fin 192) (sparse : Bool)
  /-- NOP (R88). -/
  | nop (t : Fin 192)
  /-- WAIT_CYCLES (R51). -/
  | waitCycles (t : Fin 192)
  /-- END (R88). -/
  | tunEnd (t : Fin 192)
  /-- LOOP (R71). -/
  | tunLoop (t : Fin 192)
  /-- REPLAY (R72). -/
  | replay (t : Fetch)
  /-- SETF (R65). -/
  | setf (t : Fin 192)
  /-- WAITF (R66). -/
  | waitf (t : Fin 192)
  /-- SETP (R79). -/
  | setp (t : Fin 192)
  /-- RDCYC (R88). -/
  | rdcyc (t : Fin 192)
  /-- RDFTC (R88). -/
  | rdftc (t : Fin 192)
  /-- RDOCC (R88). -/
  | rdocc (t : Fin 192)
  /-- RDFLAG (R88). -/
  | rdflag (t : Fin 192)
  /-- MOVL (R89). -/
  | movl (t : Fin 192) (e : Ecc)
  /-- MOVS (R89). -/
  | movs (t : Fin 192)
  /-- MOVQ (R89). -/
  | movq (t : Fin 192)
  /-- MOVZ (R89). -/
  | movz (t : Fin 192)
  /-- MLDS (R91). -/
  | mlds (t : Fin 192)
  /-- MLDW (R91). -/
  | mldw (t : Fin 192)
  /-- MLDSC (R91). -/
  | mldsc (t : Fin 192)
  /-- MMT (R94). -/
  | mmt (t : Fin 192)
  /-- MMTB (R132). -/
  | mmtb (t : Fin 192)
  /-- MST (R92). -/
  | mst (t : Fin 192)
  /-- MZERO (R92). -/
  | mzero (t : Fin 192)
  /-- MSETF (R95). -/
  | msetf (t : Fin 192)
  /-- VLD (R97). -/
  | vld (t : Fin 192)
  /-- VST (R97). -/
  | vst (t : Fin 192)
  /-- VADD (R119). -/
  | vadd (t : Fin 192)
  /-- VSUB (R119). -/
  | vsub (t : Fin 192)
  /-- VMUL (R119). -/
  | vmul (t : Fin 192)
  /-- VFMA (R119). -/
  | vfma (t : Fin 192)
  /-- VMAX (R97). -/
  | vmax (t : Fin 192)
  /-- VMIN (R97). -/
  | vmin (t : Fin 192)
  /-- VCMP (R97). -/
  | vcmp (t : Fin 192)
  /-- VSEL (R97). -/
  | vsel (t : Fin 192)
  /-- VBCAST (R97). -/
  | vbcast (t : Fin 192)
  /-- VREDSUM (R97). -/
  | vredsum (t : Fin 192)
  /-- VREDMAX (R97). -/
  | vredmax (t : Fin 192)
  /-- VEXP (R97). -/
  | vexp (t : Fin 192)
  /-- VLOG (R97). -/
  | vlog (t : Fin 192)
  /-- VRCP (R97). -/
  | vrcp (t : Fin 192)
  /-- VRSQRT (R97). -/
  | vrsqrt (t : Fin 192)
  /-- VTANH (R97). -/
  | vtanh (t : Fin 192)
  /-- VSIGM (R97). -/
  | vsigm (t : Fin 192)
  /-- STREAM_READ_ISSUE (R147). -/
  | streamReadIssue (st : Fin 1024)
  /-- STREAM_READ_RETURN (R147). -/
  | streamReadReturn (st : Fin 1024) (e : MoverOutcome)
  /-- STREAM_WRITE_PERFORM (R149). -/
  | streamWritePerform (st : Fin 1024) (e : MoverOutcome)
  /-- SPARGE_STEP (R153). -/
  | spargeStep (g : SpargeTarget) (e : SpargeRead)
  /-- HBM_CALIBRATION (R154). -/
  | hbmCalibration (n : Fin 16) (cellar : Bool)
  /-- BAR4_READ (R327). -/
  | bar4Read (p : HostPort) (off len : Nat) (e : Ecc)
  /-- BAR4_WRITE (R327). -/
  | bar4Write (p : HostPort) (off : Nat) (bytes : List Byte) (e : Ecc)
  /-- JOURNAL_COPY (R156). -/
  | journalCopy (k : Taking)
  /-- JOURNAL_MIRROR (R159). -/
  | journalMirror (k : Taking)
  /-- JOURNAL_ACK (R159). -/
  | journalAck (k : Nat)
  /-- MLT_CJ_STEP_WRITE (R156). -/
  | mltCjStepWrite (p : HostPort) (high : Bool) (v : Word)
  /-- MLT_CJ_COMMIT_WRITE (R158). -/
  | mltCjCommitWrite (p : HostPort) (high : Bool) (v : Word)
  /-- FRAME_INGRESS (R167). -/
  | frameIngress (p : Fin 32)
  /-- FRAME_LOOKUP (R168). -/
  | frameLookup (k : Nat)
  /-- FRAME_ADMISSION (R185). -/
  | frameAdmission (k : GranaryAct)
  /-- FABRIC_DESCRIPTOR_HOP (R171). -/
  | fabricDescriptorHop (second : Bool) (plane : Fin 2) (place : Fin 32)
  /-- RESEQUENCER_RELEASE (R172). -/
  | resequencerRelease (p : Fin 32)
  /-- EGRESS_SLOT (R194). -/
  | egressSlot (p : Fin 32) (plane : Fin 2)
  /-- FRAME_TAIL (R175). -/
  | frameTail (k : Nat) (e : EccOutcome)
  /-- REFERENCE_RELEASE (R188). -/
  | referenceRelease (k : GranaryAct)
  /-- BINDING_FRAME_SEND (R178). -/
  | bindingFrameSend (t : Fin 192) (q : Fin 64)
  /-- WRITE_STREAM_RECEIVE (R178). -/
  | writeStreamReceive (k : Nat)
  /-- READ_REQ (R165). -/
  | readReq (k : Nat) (e : Ecc)
  /-- READ_REPLY (R191). -/
  | readReply (k : Nat)
  /-- HBM_WRITE (R165). -/
  | hbmWrite (k : Taking)
  /-- REPLY_RESERVE (R190). -/
  | replyReserve (r : Requester)
  /-- REPLY_TIMEOUT (R289). -/
  | replyTimeout (tag : Fin 16384)
  /-- TOKEN_BUCKET_PASS: the bucket `k` of R195 lets a frame go. -/
  | tokenBucketPass (k : Nat)
  /-- RECIPE_RUN_START (R198). -/
  | recipeRunStart (u : Fin 4)
  /-- RECIPE_RUN_END (R208). -/
  | recipeRunEnd (u : Fin 4)
  /-- RESIDUE_RETRY (R225). -/
  | residueRetry (u : Fin 4)
  /-- RECIPE_END (R207). -/
  | recEnd (u : Fin 4)
  /-- RECIPE_LOOP (R207). -/
  | recLoop (u : Fin 4)
  /-- LD (R211). -/
  | recLd (u : Fin 4)
  /-- LDR (R218). -/
  | recLdr (u : Fin 4)
  /-- EMIT (R211). -/
  | recEmit (u : Fin 4)
  /-- EMITR (R218). -/
  | recEmitr (u : Fin 4)
  /-- EMITC (R218). -/
  | recEmitc (u : Fin 4)
  /-- CAT (R211). -/
  | recCat (u : Fin 4)
  /-- CATA (R211). -/
  | recCata (u : Fin 4)
  /-- FACC (R212). -/
  | recFacc (u : Fin 4) (bad : Bool)
  /-- FADD (R212). -/
  | recFadd (u : Fin 4) (bad : Bool)
  /-- XADD (R213). -/
  | recXadd (u : Fin 4) (bad : Bool)
  /-- XEMIT (R213). -/
  | recXemit (u : Fin 4)
  /-- IADD (R215). -/
  | recIadd (u : Fin 4) (bad : Bool)
  /-- MIN (R216). -/
  | recMin (u : Fin 4)
  /-- MAX (R216). -/
  | recMax (u : Fin 4)
  /-- AND (R216). -/
  | recAnd (u : Fin 4)
  /-- OR (R216). -/
  | recOr (u : Fin 4)
  /-- XOR (R216). -/
  | recXor (u : Fin 4)
  /-- CMP (R216). -/
  | recCmp (u : Fin 4)
  /-- SEL (R216). -/
  | recSel (u : Fin 4)
  /-- MOVV (R211). -/
  | recMovv (u : Fin 4)
  /-- MOVC (R211). -/
  | recMovc (u : Fin 4)
  /-- COMPACT (R221). -/
  | recCompact (u : Fin 4)
  /-- SORT (R219). -/
  | recSort (u : Fin 4)
  /-- MERGE (R219). -/
  | recMerge (u : Fin 4)
  /-- TOPK (R220). -/
  | recTopk (u : Fin 4)
  /-- TOPKE (R220). -/
  | recTopke (u : Fin 4)
  /-- HATOM (R222). -/
  | recHatom (u : Fin 4)
  /-- HBM_ATOMIC_ADD (R222). -/
  | hbmAtomicAdd (k : Nat) (e : Ecc)
  /-- COLLECTIVE_SEND (R243). -/
  | collectiveSend (c : ColSource)
  /-- CHUNK_GRANT (R242). -/
  | chunkGrant (c : Fin 1024)
  /-- RESULT_RESERVE (R242). -/
  | resultReserve (g : Fin 4096)
  /-- CONTRIB (R246). -/
  | contrib (k : Nat)
  /-- RESULT (R234). -/
  | result (k : Nat)
  /-- GRANT (R243). -/
  | grant (k : Nat)
  /-- RETRACT (R248). -/
  | retract (k : Nat)
  /-- CONTEXT_ADVANCE (R241). -/
  | contextAdvance (c : Fin 1024)
  /-- COLLECTIVE_STALL (R244). -/
  | collectiveStall (c : Fin 1024)
  /-- COL_RESET (R249). -/
  | colReset (p : HostPort)
  /-- COL_RESUME (R249). -/
  | colResume (p : HostPort)
  /-- COL_RETRACT_GO (R247). -/
  | colRetractGo (p : HostPort) (epoch : Byte)
  /-- COL_ROUND_WRITE (R252). -/
  | colRoundWrite (p : HostPort) (high : Bool) (v : Word)
  /-- DATA_FLIT_RECEIVE (R260). -/
  | dataFlitReceive (p : Fin 14) (lane : Fin 16) (num : BitVec 12) (c : Codeword) (flit : List Byte)
  /-- CREDIT_FLIT_RECEIVE (R286). -/
  | creditFlitReceive (p : Fin 14) (flit : ControlFlit)
  /-- CREDIT_FLIT_SEND (R286). -/
  | creditFlitSend (p : Fin 14)
  /-- TIME_EXCHANGE_SEND (R302). -/
  | timeExchangeSend (p : Fin 14)
  /-- TIME_EXCHANGE_RECEIVE (R303). -/
  | timeExchangeReceive (p : Fin 14) (x : FlitSlot) (flit : List Byte)
  /-- HELLO_SEND (R266). -/
  | helloSend (p : Fin 14)
  /-- HELLO_RECEIVE (R268). -/
  | helloReceive (p : Fin 14) (flit : ControlFlit)
  /-- LANE_LOCK_LOST (R262). -/
  | laneLockLost (p : Fin 14) (lane : Fin 16)
  /-- LINK_DOWN (R262). -/
  | linkDown (p : Fin 14) (cause : Fin 6)
  /-- LINK_RETRAIN (R262). -/
  | linkRetrain (p : Fin 14)
  /-- TRAINING_COMPLETE (R263). -/
  | trainingComplete (p : Fin 14) (o : TrainOutcome)
  /-- LNK_RETRAIN (R276). -/
  | lnkRetrain (p : HostPort) (n : Fin 14)
  /-- LNK_ENABLE (R276). -/
  | lnkEnable (p : HostPort) (n : Fin 14) (v : Word)
  /-- DISC_ROOT (R269). -/
  | discRoot (p : HostPort)
  /-- DISC_FORGET (R277). -/
  | discForget (p : HostPort)
  /-- MLT_SAMP_CFG_WRITE (R296). -/
  | mltSampCfgWrite (p : HostPort) (v : Word)
  /-- PTP_SYNC (R300). -/
  | ptpSync (m : PtpSync)
  /-- PTP_DELAY_RESP (R300). -/
  | ptpDelayResp (domain masterId receiveTicks : Nat)
  /-- FTC_SET (R306). -/
  | ftcSet (p : HostPort)
  /-- CLEAR_TABLE (R323). -/
  | clearTable (p : HostPort)
  /-- DIGEST_CLOSURE_WRITE (R320). -/
  | digestClosureWrite (e : Ecc)
  /-- DIG_REDUCE (R322). -/
  | digReduce (p : HostPort) (layer : Half)
  /-- JOB_DIGEST_CONTRIBUTION (R322). -/
  | jobDigestContribution (k : Nat)
  /-- JOB_DIGEST_RESULT (R322). -/
  | jobDigestResult (k : Nat)
  /-- TOKEN_REQUEST (R330). -/
  | tokenRequest (p : HostPort)
  /-- TOKEN_GRANT (R330). -/
  | tokenGrant (p : HostPort)
  /-- TOKEN_DENY (R330). -/
  | tokenDeny (p : HostPort)
  /-- TOKEN_RELEASE (R330). -/
  | tokenRelease (p : HostPort)
  /-- AUTO_ON (R330). -/
  | autoOn (p : HostPort)
  /-- AUTO_OFF (R330). -/
  | autoOff (p : HostPort)
  /-- DESC_TAIL_DOORBELL (R333). -/
  | descTailDoorbell (p : HostPort) (q : Fin 4096) (v : Word)
  /-- CPL_HEAD_DOORBELL (R333). -/
  | cplHeadDoorbell (p : HostPort) (q : Fin 4096) (v : Word)
  /-- DESCRIPTOR_FETCH (R333). -/
  | descriptorFetch (q : Fin 4096)
  /-- DESC_NOP (R335). -/
  | descNop (q : Fin 4096)
  /-- DESC_LOAD (R335). -/
  | descLoad (q : Fin 4096)
  /-- DESC_STORE (R335). -/
  | descStore (q : Fin 4096) (e : Ecc)
  /-- DESC_SEND (R335). -/
  | descSend (q : Fin 4096)
  /-- DESC_RECV (R335). -/
  | descRecv (q : Fin 4096)
  /-- DESC_RREAD (R340). -/
  | descRread (q : Fin 4096)
  /-- DESC_RWRITE (R340). -/
  | descRwrite (q : Fin 4096)
  /-- DESC_WAIT (R335). -/
  | descWait (q : Fin 4096)
  /-- DESCRIPTOR_COMPLETE (R336). -/
  | descriptorComplete (q : Fin 4096)
  /-- SQ_ENABLE (R344). -/
  | sqEnable (p : HostPort) (q : Fin 4096) (v : Word)
  /-- SQ_RESET (R338). -/
  | sqReset (p : HostPort) (q : Fin 4096)
  /-- SQ_RESET_COMPLETE (R338). -/
  | sqResetComplete (q : Fin 4096)
  /-- REG_REQ (R340). -/
  | regReq (k : Nat)
  /-- MEM_REQ (R340). -/
  | memReq (k : Nat) (e : Ecc)
  /-- REG_REPLY (R340). -/
  | regReply (k : Nat)
  /-- MEM_REPLY (R340). -/
  | memReply (k : Nat)
  /-- MGMT_FRAME_RECEIVE (R342). -/
  | mgmtFrameReceive (bytes : List Byte)
  /-- FLT_FIRST_CLEAR (R351). -/
  | fltFirstClear (p : HostPort)
  /-- FLT_FORCE (R353). -/
  | fltForce (p : HostPort) (w : Fin 57) (v : Word)
  /-- FLT_PIN_WRITE (R352). -/
  | fltPinWrite (p : HostPort) (v : Word)
  /-- BOOK_RECORD_WRITE (R359). -/
  | bookRecordWrite (ok : Bool)
  /-- CLB_CLEAR (R361). -/
  | clbClear (p : HostPort) (e : Ecc)
  /-- HEALTH_SECOND (R362). -/
  | healthSecond (now : SecondInputs)
  /-- HOLD (R364). -/
  | hold (p : HostPort)
  /-- HOLD_RELEASE (R364). -/
  | holdRelease (p : HostPort)
  /-- PROVE (R365). -/
  | prove (p : HostPort)
  /-- ABORT_PROVE (R365). -/
  | abortProve (p : HostPort)
  /-- PROVE_STAGE_END (R365). -/
  | proveStageEnd (pass : Bool)
  /-- CATCHUP_START (R367). -/
  | catchupStart (p : HostPort)
  /-- CATCHUP_ABANDON (R372). -/
  | catchupAbandon (p : HostPort)
  /-- CATCHUP_REPLY (R368). -/
  | catchupReply (k : Taking)
  /-- CATCHUP_READ_TIMEOUT (R368). -/
  | catchupReadTimeout (tag : Fin 16384)
  /-- SUPPLY_WARNING_FALL (R378). -/
  | supplyWarningFall (vin : Nat)
  /-- SUPPLY_WARNING_RISE (R378). -/
  | supplyWarningRise (vin : Nat)
  /-- SUPPLY_OFF (R377). -/
  | supplyOff (vin : Nat)
  /-- GUARD_MS (R381). -/
  | guardMs (meanW : Nat)
  /-- POWER_SAFETY (R382). -/
  | powerSafety (meanW : Nat)
  /-- TJ_SAMPLE (R383). -/
  | tjSample (tj : Nat)
  /-- HYDROMETER_RUN (R387). -/
  | hydrometerRun (margin : Nat)
  /-- LASER_BIAS_STEP (R385). -/
  | laserBiasStep (p : Fin 14) (lane : Fin 16) (want : Nat)
  /-- EQUALISATION_STEP (R385). -/
  | equalisationStep (p : Fin 14) (lane : Fin 16) (atEnd : Bool)
  /-- WARM (R391). -/
  | warm (p : HostPort)
  /-- FABRIC (R391). -/
  | fabric (p : HostPort)
  /-- STANDBY (R390). -/
  | standby (p : HostPort)
  /-- DOZE (R389). -/
  | doze (p : HostPort) (mask : BitVec 4)
  /-- WAKE (R389). -/
  | wake (p : HostPort) (mask : BitVec 4)
  /-- KETTLE_IDLE_ENTER (R388). -/
  | kettleIdleEnter (k : Fin 4)
  /-- ISLAND_RESET (R392). -/
  | islandReset (p : HostPort) (n : BitVec 9)
  /-- PORT_RESET (R391). -/
  | portReset (p : HostPort) (c : PortResetCause)
  /-- PORT_RESET_COMPLETE (R391). -/
  | portResetComplete (p : PortSetup)
  /-- BOOT_STEP_END (R394). -/
  | bootStepEnd (fail : Nat) (stack : Fin 16)
  /-- LANE_LOCK_REGAINED (R262). -/
  | laneLockRegained (p : Fin 14) (lane : Fin 16)
  /-- HOST_LINK_DOWN (R331). -/
  | hostLinkDown (p : HostPort)
  /-- HOST_LINK_UP (R331). -/
  | hostLinkUp (p : HostPort) (speed : Nat) (link : LinkSetup)
  /-- HOST_READ_COMPLETION (R328). -/
  | hostReadCompletion (k : Nat) (c : HostCpl)
  /-- HOST_COMPLETION_TIMEOUT (R337). -/
  | hostCompletionTimeout (k : Nat)
  /-- HOST_PORT_UNCORRECTABLE_ERROR (R347). -/
  | hostPortUncorrectableError (p : PortError)
  /-- KETTLE_WAKE_COMPLETE (R388). -/
  | kettleWakeComplete (k : Fin 4)
  /-- HST_VS_BAD_WRITE (R329). -/
  | hstVsBadWrite (p : HostPort) (v : Word)
  /-- CHECK_COMPLETE (R37). -/
  | checkComplete
  /-- QUIESCENT_VOTE (R41). -/
  | quiescentVote
  /-- VOTE_REDUCTION_COMPLETE (R43). -/
  | voteReductionComplete
  /-- VOTE_DEADLINE (R44). -/
  | voteDeadline
  /-- PITCH_COUNT (R46). -/
  | pitchCount
  /-- FREEZE_RELEASE (R48). -/
  | freezeRelease
  /-- FLAG_RAISE_LAND (R65). -/
  | flagRaiseLand
  /-- COLLECTIVE_STOP (R248). -/
  | collectiveStop
  /-- DISCOVERY_TIMEOUT (R269). -/
  | discoveryTimeout
  /-- LOOKUP_SAMPLE_WRITE (R296). -/
  | lookupSampleWrite
  /-- PTP_DELAY_REQ_SEND (R300). -/
  | ptpDelayReqSend
  /-- SOURCE_SILENT (R299). -/
  | sourceSilent
  /-- PPS_IN_EDGE (R301). -/
  | ppsInEdge
  /-- PPS_OUT_RISE (R301). -/
  | ppsOutRise
  /-- PPS_OUT_FALL (R301). -/
  | ppsOutFall
  /-- PARENT_TIMEOUT (R305). -/
  | parentTimeout
  /-- JOB_DIGEST_TIMEOUT (R322). -/
  | jobDigestTimeout
  /-- TOKEN_TAKEOVER (R331). -/
  | tokenTakeover
  /-- MGMT_CHAIN (R405). -/
  | mgmtChain
  /-- MGMT_STATUS (R405). -/
  | mgmtStatus
  /-- FAULT_TAKE (R350). -/
  | faultTake
  /-- FAULT_PULSE_START (R352). -/
  | faultPulseStart
  /-- FAULT_PULSE_END (R352). -/
  | faultPulseEnd
  /-- BOOK_SNAPSHOT (R356). -/
  | bookSnapshot
  /-- CLB_CLEAR_COMPLETE (R361). -/
  | clbClearComplete
  /-- HEALTH_SAVE (R362). -/
  | healthSave
  /-- HOLD_EXPIRE (R364). -/
  | holdExpire
  /-- CATCHUP_READ_ISSUE (R368). -/
  | catchupReadIssue
  /-- CATCHUP_VERIFY_COMPLETE (R369). -/
  | catchupVerifyComplete
  /-- CATCHUP_ZEROED (R372). -/
  | catchupZeroed
  /-- POWER_ON (R377). -/
  | powerOn
  /-- THERMAL_CLAMP_STEP (R384). -/
  | thermalClampStep
  /-- WARM_RESET_COMPLETE (R391). -/
  | warmResetComplete
  /-- ISLAND_RESET_COMPLETE (R392). -/
  | islandResetComplete
  /-- PACKAGE_RESET (R391). -/
  | packageReset
  /-- PACKAGE_RESET_RELEASE (R391). -/
  | packageResetRelease
  /-- FW_VERIFY_COMPLETE (R402). -/
  | fwVerifyComplete
  /-- SHIELD_BREACH (R407). -/
  | shieldBreach
  /-- RAIL_LEAVES_REGULATION (R414). -/
  | railLeavesRegulation
  /-- MGMT_ATTEST (R405). -/
  | mgmtAttest (nonce : List Byte)
  /-- MGMT_WAKE (R405). -/
  | mgmtWake (block : List Byte)
  /-- POWER_STAGE_FAULT (R347). -/
  | powerStageFault (n : Fin 8)
  /-- FW_LOAD (R402). -/
  | fwLoad (p : HostPort)
  /-- OWNER_ENROLL (R399). -/
  | ownerEnroll (p : HostPort) (e : Ecc)
  /-- OWNER_RELEASE (R399). -/
  | ownerRelease (p : HostPort) (e : Ecc)
  /-- DEBUG_UNLOCK (R406). -/
  | debugUnlock (p : HostPort) (e : Ecc)
  /-- ATTEST (R404). -/
  | attest (p : HostPort) (e : Ecc)
  /-- EXPORT_CHAIN (R404). -/
  | exportChain (p : ChainExport)
  /-- MGMT_HIGH_BER (R342). -/
  | mgmtHighBer (lockLost : Bool)
  /-- TAP_TCK_EDGE (R406). -/
  | tapTckEdge (rising tms tdi : Bool)
  /-- TAP_TRST (R412). -/
  | tapTrst (low : Bool)
  deriving DecidableEq, Repr

end Sys2Proof
end

