-- ==== Sys2Proof/Decode.lean ====
section
/-! DEFINITION. Decode.lean: the command that a word spells by the bits of
spec/opcode_table.json. The table gives no row any bits: no command of the IS960 is a
word that the block decodes. (The words of tun programs and recipes are data of the
state, which the sequencers read in Machine/Operands.lean and Machine/Recipes.lean.) -/
namespace Sys2Proof

/-- The command that the low `nbits` bits of `w` spell: none, for every word. -/
def decodeTableWord (nbits w : Nat) : Option Instr :=
  match nbits, w with
  | _, _ => none

end Sys2Proof
end

