-- ==== Sys2Proof/Machine/Tab.lean ====
section
/-! DEFINITION. Machine/Tab.lean: sparse tables in one canonical form. A table is
a list of (key, value) pairs with strictly rising keys and no value equal to what
an unlisted key reads as, so equal tables are equal lists. HBM and tun memory are
tables of bytes (Host.Cell); register arrays are tables too. -/
namespace Sys2Proof.Machine

/-- A sparse table. -/
abbrev Tab (α : Type) := List (Nat × α)

/-- The value at key `k`; `d` is what an unlisted key reads as. -/
def Tab.get {α : Type} (d : α) : Tab α → Nat → α
  | [], _ => d
  | (j, v) :: m, k => if k = j then v else Tab.get d m k

/-- Put `v` at key `k`, keeping the keys rising. -/
def Tab.put {α : Type} : Tab α → Nat → α → Tab α
  | [], k, v => [(k, v)]
  | (j, w) :: m, k, v =>
    if k < j then (k, v) :: (j, w) :: m
    else if k = j then (k, v) :: m
    else (j, w) :: Tab.put m k v

/-- Take key `k` out. -/
def Tab.drop {α : Type} (m : Tab α) (k : Nat) : Tab α := m.filter fun e => e.1 != k

/-- Write `v` at key `k`: writing the value an unlisted key reads as removes the entry. -/
def Tab.set {α : Type} [DecidableEq α] (d : α) (m : Tab α) (k : Nat) (v : α) : Tab α :=
  if v = d then m.drop k else m.put k v

/-- Change the value at key `k`. -/
def Tab.mod {α : Type} [DecidableEq α] (d : α) (m : Tab α) (k : Nat) (f : α → α) : Tab α :=
  m.set d k (f (m.get d k))

/-- Every key of the table lies above `lo` and the keys rise. -/
def Tab.risingFrom {α : Type} : Option Nat → Tab α → Bool
  | _, [] => true
  | lo, (j, _) :: m => (match lo with | none => true | some l => l < j) && Tab.risingFrom (some j) m

/-- The canonical form: keys strictly rising, no entry equal to the default. -/
def Tab.wf {α : Type} [DecidableEq α] (d : α) (m : Tab α) : Bool :=
  Tab.risingFrom none m && m.all (fun e => !decide (e.2 = d))

/-- Write a list of values at consecutive keys from `k` on. -/
def Tab.setMany {α : Type} [DecidableEq α] (d : α) : Tab α → Nat → List α → Tab α
  | m, _, [] => m
  | m, k, v :: vs => Tab.setMany d (m.set d k v) (k + 1) vs

/-- Write a list of values at consecutive keys, where an unlisted key `k` reads as `d k`. -/
def Tab.setManyBy {α : Type} [DecidableEq α] (d : Nat → α) : Tab α → Nat → List α → Tab α
  | m, _, [] => m
  | m, k, v :: vs => Tab.setManyBy d (m.set (d k) k v) (k + 1) vs

/-- The canonical form where an unlisted key `k` reads as `d k`. -/
def Tab.wfBy {α : Type} [DecidableEq α] (d : Nat → α) (m : Tab α) : Bool :=
  Tab.risingFrom none m && m.all (fun e => !decide (e.2 = d e.1))

/-- Read `n` values at consecutive keys from `k` on. -/
def Tab.getMany {α : Type} (d : α) (m : Tab α) : Nat → Nat → List α
  | _, 0 => []
  | k, n + 1 => m.get d k :: Tab.getMany d m (k + 1) n

/-- Take every key of `k .. k + n - 1` out. -/
def Tab.dropRange {α : Type} (m : Tab α) (k n : Nat) : Tab α :=
  m.filter (fun e => !(k ≤ e.1 && e.1 < k + n))

end Sys2Proof.Machine
end

