-- ==== Sys2Proof/Machine/TunState.lean ====
section
/-! DEFINITION. Machine/TunState.lean: the state of one tun (R50, R62, R76, R82 to
R84, R103, R121, R124, R131, R137, R145, R324) and of the waits that join tuns
(R67). -/
namespace Sys2Proof.Machine

/-- A queue entry: 64 bytes, byte 0 in bits 7:0 (R50, R81). -/
abbrev Entry := BitVec 512

/-- TUN_STATUS.STATE (R76). -/
inductive TunPhase where
  | idle | loading | loaded | armed | running | waiting | done | haltedFault | haltedSw | forwardOnly
  deriving DecidableEq, Repr

/-- The two halves of a queue, and its highest occupancy (R54, R61, R76). A local
queue uses the near half alone. -/
structure Queue where
  near : List Entry := []
  far  : List (Entry × Taint) := []     -- with R144's mark
  at_  : List Nat := []                 -- of a tun-to-tun binding: reading of the tuns' clock at the push of each entry of near
  high : Nat := 0
  deriving DecidableEq, Repr

/-- An entry in a tun-to-tun crossing (R18, R61). -/
structure Crossed where
  entry : Entry
  at_   : Nat := 0             -- reading of the tuns' clock (Clocks.tun) at its push
  taint : Taint := .good       -- what the die-to-die ring made of it
  deriving DecidableEq, Repr

/-- A loop descriptor as the image holds it (R100). -/
structure LoopDesc where
  first  : Nat
  last   : Nat
  region : Nat
  levels : Nat
  counts : List Nat            -- six
  bases  : List Nat            -- four streams
  incs   : List (List Nat)     -- [level][stream], two's-complement 32-bit patterns
  deriving DecidableEq, Repr

/-- A loaded program (R73): the four parts of its image. -/
structure Program where
  store   : List (BitVec 128) := []
  loops   : List LoopDesc := []
  replay  : List (BitVec 128) := []
  blocks  : Nat := 0
  patches : List (Nat × Word) := []
  deriving DecidableEq, Repr

/-- A place in the program: TUN_PC's layout (R76). -/
structure Pc where
  inReplay : Bool := false
  index    : Nat := 0
  deriving DecidableEq, Repr

/-- The loop nest in progress: its descriptor, and the level indices i0 to i5 (R71). -/
structure LoopRun where
  k   : Nat
  idx : List Nat
  deriving DecidableEq, Repr

/-- A stationary tile or a weight buffer with its scale slots (R82, R90, R91, R124). -/
structure Tile where
  rows     : Tab Entry := []      -- 64 rows (S) or columns (W)
  rowNz    : Tab Nat := []        -- nonzero count of each row, in its own format
  fmt      : Nat := 15            -- format of the row 63 write; 15 before the first
  complete : Bool := false
  sparse   : Bool := false        -- engine fixed at the last row-63 write
  nz       : Nat := 0             -- nz at the last row-63 write
  slots    : Tab Entry := []      -- four scale slots
  slotFmt  : Tab Nat := []        -- scale format of a slot
  slotBlk  : Tab Nat := []        -- block-size code of a slot
  slotDir  : Tab Nat := []        -- direction of a slot
  slotSet  : Tab Bool := []       -- the slot has been written since LOAD
  deriving DecidableEq, Repr

/-- What an issued instruction does when its latency has passed (R55, R87). -/
inductive Effect where
  | push (dsts : List (Nat × Nat)) (e : Entry)           -- (destination, queue), in order
  | occ (dst q n : Nat)                                   -- RDOCC of queue q, so far n
  | memRead (addr : Nat) (dsts : List (Nat × Nat)) (ecc : Ecc)
  | memWrite (addr : Nat) (e : Entry)
  | vreg (v : Nat) (lanes : List (Nat × Word))
  | tileRow (isW : Bool) (tile row fmt : Nat) (e : Entry)
  | slot (isW : Bool) (tile slot fmt blk dir : Nat) (e : Entry)
  | accZero (a : Nat) (cells : List Nat)
  | raise (f n : Nat)
  deriving DecidableEq, Repr

/-- A result in flight: issue and landing cycle, the effect, the flags it sets and
the instruction (R55, R85, R121). -/
structure InFlight where
  issue : Nat
  land  : Nat
  eff   : Effect
  flags : Nat := 0               -- bits as in TUN_ARITH_FLAGS
  pc    : Pc
  deriving DecidableEq, Repr

/-- A matrix product in an engine's queue (R94): its operands as read at issue (R86). -/
structure Product where
  issue    : Nat
  start    : Nat
  busy     : Nat                  -- the T of R94 for the next start
  complete : Nat
  started  : Bool := false
  sTile    : Nat
  wTile    : Nat
  acc      : Nat
  s        : Tile
  w        : Tile
  ss       : Bool
  ws       : Bool
  sparse   : Bool                 -- on the sparse engine
  fallback : Bool                 -- dense fallback (R129)
  bitmap   : Option Nat           -- MMTB's presence bitmap (R132)
  deriving DecidableEq, Repr

/-- One entry of TUN_FCYC (R68, R76). -/
structure CycEntry where
  agent : Agent
  ftun  : Nat
  flag  : Nat
  deriving DecidableEq, Repr

/-- The state of one tun. Every field's value here is its reset value. -/
structure Tun where
  phase      : TunPhase := .idle
  refused    : Bool := false
  missed     : Bool := false
  restored   : Bool := false
  loadSrc    : DWord := 0
  loadLen    : Word := 0
  loadCode   : Nat := 0
  loadDetail : Nat := 0
  launchAt   : DWord := 0
  program    : Option Program := none
  pc         : Pc := {}                 -- last instruction issued (TUN_PC)
  next       : Option Pc := none        -- instruction the sequencer issues next
  base       : Nat := 0                 -- cycle from which the next delta counts
  first      : Bool := true             -- the next instruction cannot belong to a group begun before it
  cycle      : Nat := 0                 -- TUN_CYCLE
  launchFtc  : Nat := 0
  oscAt      : Nat := 0                 -- reading of the tuns' clock (Clocks.tun) at which cycle 0 begins
  loops      : List LoopRun := []       -- nests in progress, innermost first
  issued     : Nat := 0                 -- cycle of the last issue, or in which a wait ended
  replayRet  : Option Nat := none       -- store index after the REPLAY in progress
  ended      : Bool := false            -- END has issued
  slipValid  : Bool := false
  slipMulti  : Bool := false
  slipKind   : Nat := 0
  slipQueue  : Nat := 0
  slipEnd    : Nat := 0
  slipPc     : Pc := {}
  slipCycle  : Nat := 0
  waitFlag   : Nat := 0
  waitCount  : Nat := 0
  blocked    : Bool := false
  waitSince  : Nat := 0                 -- ticks when the wait began
  metAt      : Option Nat := none       -- the first cycle in which the counter has reached the wait's count
  fcyc       : List CycEntry := []
  excValid   : Bool := false
  excMulti   : Bool := false
  excKind    : Nat := 0
  excCause   : Nat := 0
  excPc      : Nat := 0
  queues     : Tab Queue := []
  flags      : Tab Half := []
  params     : Tab Word := []
  mem        : List (Nat × Byte) := []  -- 4 MiB of tun memory
  memFill    : Nat := 0                 -- what its unlisted bytes read as: 0, or a proving run's patterns
  stat       : Tab Tile := []           -- S0 to S3
  wbuf       : Tab Tile := []           -- W0 to W3
  acc        : Tab Word := []           -- A0 to A15, word a × 4096 + row × 64 + column
  vregs      : Tab Word := []           -- V0 to V15, lane v × 64 + lane
  inflight   : List InFlight := []
  dense      : List Product := []
  sparse     : List Product := []
  denseFree  : Nat := 0                 -- first cycle at which the dense engine can start
  sparseFree : Nat := 0
  arith      : BitVec 12 := 0           -- TUN_ARITH_FLAGS
  engineMap  : DWord := 0
  engineCnt  : Nat := 0
  memUe      : Bool := false
  memCe      : Nat := 0
  memAddr    : Nat := 0
  digD       : DWord := 0
  digE       : DWord := 0
  digLayer   : Nat := 0xFFFF
  digItems   : Nat := 0
  mvSeen     : Bool := false
  period     : Word := 0                -- FTC_DIG_PERIOD latched at launch (R319)
  seqIn      : Tab Nat := []            -- expected SEQ of inbound Maltings bindings (R178)
  seqOut     : Tab Nat := []            -- SEQ of outbound Maltings bindings
  spargeAt   : Nat := 0                 -- next tun-memory entry that sparge reads
  spargeFrom : Nat := 0                 -- ticks when this pass over tun memory began
  quietAt    : Nat := 0                 -- ticks when it was last ARMED, RUNNING or WAITING (R388)
  deriving DecidableEq, Repr

/-- A raise on its way to a counter (R65, R88). -/
structure Raise where
  tun  : Nat
  flag : Nat
  n    : Nat
  fromTun : Option Nat         -- the tun whose SETF made it; none for a stream queue
  deriving DecidableEq, Repr

/-- A walk along owner chains (R67): the agents found so far, from its origin on. -/
structure Walk where
  origin : Agent
  path   : List CycEntry
  counts : List Nat            -- the count each agent on the path waits for
  closed : Option Nat := none  -- ticks when it closed
  deriving DecidableEq, Repr

/-- A closure on its way to the Maltings (R319). -/
structure Closure where
  tun    : Nat
  layer  : Nat
  d      : DWord
  e      : DWord
  period : Word
  items  : Nat
  mv     : Bool
  halted : Bool
  deriving DecidableEq, Repr

end Sys2Proof.Machine
end

