-- ==== Sys2Proof/Machine/FabricState.lean ====
section
/-! DEFINITION. Machine/FabricState.lean: the state of the memory system, the
Maltings, the granary, the lauter units, the collective contexts and the links. -/
namespace Sys2Proof.Machine

/-! ## HBM controllers, streams and the cask journal -/

/-- HBM_STATUS.STATE (chapter 7). -/
inductive HbmPhase where
  | off | training | ready | selfRefresh | failed
  deriving DecidableEq, Repr

/-- One HBM3 controller (HBM_STATUS, HBM_ERR_*, HBM_SPARGE, HBM_DMS). -/
structure HbmCtl where
  phase    : HbmPhase := .off
  temp     : Nat := 0
  repairs  : Nat := 0
  cntUnc   : Nat := 0
  cntPar   : Nat := 0
  cntCtrl  : Nat := 0
  cntOnDie : Nat := 0
  errValid : Bool := false
  errUsed  : Bool := false
  errSrc   : Nat := 0
  errPc    : Nat := 0
  errAddr  : DWord := 0
  behind   : Bool := false
  progress : Nat := 0              -- lines that sparge has read in this pass
  passes   : Nat := 0
  passFrom : Nat := 0              -- ticks when this pass began
  lastCal  : Nat := 0              -- ticks at the last periodic calibration
  calibrations : Nat := 0
  dms      : Tab Word := []        -- word 8j + w of HBM_DMS[j].W[w]
  deriving DecidableEq, Repr

/-- A read that a stream has issued and that has not returned (R147, R151). -/
structure StreamRead where
  nth   : Nat                      -- first entry, or tile, number in the epoch
  epoch : Nat
  addr  : Nat
  bytes : Nat
  tag   : Option Nat := none       -- reply reservation of a remote read (R150)
  cut   : Bool := false            -- its controller was reset while it was there (R392)
  deriving DecidableEq, Repr

/-- One data-mover stream (R146 to R151). -/
structure Stream where
  words    : List Word := []       -- descriptor words latched at launch
  base     : Nat := 0
  width    : Nat := 0              -- bindings' form and width are in the words
  active   : Bool := false
  epoch    : Nat := 0
  tun      : Nat := 0              -- the binding that owns the stream
  queue    : Nat := 0
  write    : Bool := false         -- a kind-2 stream
  issued   : Nat := 0              -- entries or tiles whose read has been issued
  arrived  : Nat := 0              -- entries or tiles returned in order
  moved    : Nat := 0              -- entries written or delivered
  tileAt   : Nat := 0              -- address of the next compressed tile
  reads    : List StreamRead := []
  early    : List (Nat × List Entry × Taint) := []   -- returned out of order: nth, entries, R144's mark
  store    : List (Entry × Taint) := []   -- read ahead, not yet in the queue, with R144's mark
  reserved : List (Nat × Nat) := []   -- (nth, tag) reservations made and not yet used
  part     : List Byte := []       -- the first line of a compressed tile, while the rest is read
  partBad  : Taint := .good
  deriving DecidableEq, Repr

/-- An entry of the cask journal being gathered (R156). -/
structure CjOpen where
  kind   : Nat
  step   : DWord
  layer  : Nat
  rank   : Nat
  stream : Nat
  src    : Nat
  bytes  : List Byte
  bad    : Bool := false           -- it holds a frame whose verdict is not good (R181)
  deriving DecidableEq, Repr

/-- An entry written to the ring (R157, R158). -/
structure CjEntry where
  seq    : Nat
  step   : DWord
  off    : Nat                     -- ring offset
  size   : Nat                     -- padded bytes, header included
  mirrored : Bool
  deriving DecidableEq, Repr

/-- The cask journal engine (R156 to R159, chapter 7 "Registers"). -/
structure Journal where
  base    : DWord := 0
  cfg     : Word := 0xFFFF0010#32
  step    : DWord := 0
  commit  : DWord := 0
  overrun : Bool := false
  unacked : List Nat := []         -- SEQ of entries sent to the partner and not yet acknowledged (R159)
  sel     : Tab Word := []
  openE   : List CjOpen := []
  seq     : Nat := 0
  head    : Nat := 0               -- ring offset of the next entry
  entries : List CjEntry := []
  mirrorAt : Nat := 0              -- offset in this node's mirror region for a partner's entries
  mirrorOff : Tab Nat := []        -- offset given to each mirrored SEQ
  deriving DecidableEq, Repr

/-! ## The Maltings switch core -/

/-- A frame as its source made it, waiting to enter the core (R182, R195). -/
structure SrcFrame where
  port    : Nat                    -- the ingress port it enters at
  hdr     : Header
  payload : List Byte
  tail    : Tail := {}
  bucket  : Option Nat := none     -- stream bucket that governs it
  queue   : Option (Nat × Nat) := none   -- the stream queue that injects it, and its descriptor index
  binding : Option (Nat × Nat) := none   -- the outbound binding (tun, queue) that sends it
  layer   : Nat := 0               -- LAYER of the descriptor of a journaled load (R156)
  deriving DecidableEq, Repr

/-- One copy of a frame: where it goes and how far it has come (R179, R180). -/
structure Copy where
  egress  : Nat                    -- Maltings port
  isLocal : Bool                   -- a local endpoint takes it
  hdr     : Header
  cut     : Bool := false          -- cut through (R169)
  seq0    : Nat := 0               -- core sequence number of its first descriptor
  sent0   : Nat := 0               -- even cells sent into the fabric (plane 0)
  sent1   : Nat := 0               -- odd cells sent into the fabric (plane 1)
  out     : Nat := 0               -- cells the egress has sent
  finished : Bool := false         -- left, taken or discarded; reference still held
  released : Bool := false
  journal : Bool := false          -- the journal's copy (R181)
  multi   : Bool := false          -- made by a multicast entry
  deriving DecidableEq, Repr

/-- A frame held by the Maltings. -/
structure Frame where
  id      : Nat
  port    : Nat                    -- ingress port
  hdr     : Header                 -- as it arrived
  payload : List Byte              -- what has arrived of it
  inTail  : Tail := {}             -- the incoming tail
  crcOk   : Bool := true           -- its CRC holds
  link    : Bool := false          -- it came on a link port
  ended   : Bool := true           -- all of it has arrived
  at_     : Nat := 0               -- core cycle in which cell 0 arrived
  bad     : Option Nat := none     -- the CAUSE of its header error (R167)
  long    : Bool := false          -- a link frame that ended longer than LENGTH
  short   : Bool := false          -- it ended before LENGTH
  cells   : Nat
  owner   : Nat
  looked  : Bool := false
  admitted : Bool := false
  reserve : Nat := 0               -- cells charged outside the shared part
  tag     : Option Nat := none     -- reply reservation that pays for it (R191)
  copies  : List Copy := []
  refs    : Nat := 0
  hold    : Bool := false          -- held for a collective context (R188)
  tailSeen : Bool := false
  verdict : Nat := 0
  reason  : Nat := 0
  marker  : Nat := 0xFFFF
  cutOff  : Bool := false          -- its remaining cells cannot arrive (R176)
  queue   : Option (Nat × Nat) := none   -- the stream queue and descriptor that sent it
  binding : Option (Nat × Nat) := none   -- the outbound binding that sent it
  layer   : Nat := 0                -- LAYER of a journaled load (R156)
  performed : Bool := false         -- its stream queue has counted it as performed or sent
  deriving DecidableEq, Repr

/-- A cell descriptor in the fabric (R171). -/
structure Desc where
  frame  : Nat
  copy   : Nat
  cell   : Nat
  inPort : Nat
  outPort : Nat
  vc     : Nat
  seq    : Nat                     -- 12-bit core sequence number (R172)
  at_    : Nat := 0                -- core cycle from which it is at the intermediate
  deriving DecidableEq, Repr

/-- A frame that a local endpoint has before it, with its tail checked (R177). -/
structure InFrame where
  id      : Nat
  copy    : Nat
  port    : Nat                    -- egress port of the endpoint
  inPort  : Nat
  hdr     : Header
  payload : List Byte
  verdict : Nat
  reason  : Nat
  marker  : Nat
  order   : Nat                    -- order in which tails arrived at the endpoints
  cycle   : Nat := 0               -- core cycle in which its tail arrived
  deriving DecidableEq, Repr

/-- The switch core, with routing, telemetry and sampling (chapters 8 and 13). -/
structure Core where
  hdrErr   : Word := 0
  seqErr   : Word := 0
  seqErrSrc : Word := 0
  ctOff    : Tab Bool := []        -- CT_EN cleared for this egress port
  verdict  : Tab Word := []        -- MLT_PORT_VERDICT
  reseqHigh : Tab Nat := []
  frames   : List Frame := []
  nextId   : Nat := 0
  tails    : Nat := 0              -- tails that local endpoints have seen
  fifos    : Tab (List Desc) := [] -- key plane × 1,024 + intermediate × 32 + output
  reseq    : Tab (List Desc) := [] -- by egress port
  flowNext : Tab Nat := []         -- next core sequence number, by flow
  flowWant : Tab Nat := []         -- next expected at the resequencer, by flow
  egress   : Tab (List Desc) := [] -- key port × 12 + VC
  active   : Tab (List Nat) := []  -- deficit round robin list, by port (R194)
  deficit  : Tab Nat := []         -- key port × 12 + VC
  inject   : Tab (List SrcFrame) := []   -- frames that have left their source, by ingress port
  held     : List SrcFrame := []   -- frames held at their source (R195)
  inbox    : List InFrame := []    -- frames before local endpoints
  sinkDisc : Nat := 0
  cellarBad : Nat := 0             -- frames that the cellar has discarded for their verdict (R177)
  lostCnt  : Nat := 0
  lostTag  : Nat := 0
  tel      : Tab Nat := []         -- MLT_TEL word, key port × 8 + w
  sampCfg  : Word := 0x000A0001#32
  sampBase : DWord := 0
  sampWp   : Nat := 0
  sampLost : Nat := 0
  lookups  : Nat := 0
  samples  : List (List Byte) := []
  hopNext  : Tab Nat := []         -- next core cycle of a fabric connection, key stage × 64 + plane × 32 + i
  mc       : Tab Word := []        -- MLT_MC in force, key 8e + k (reset 0x0000_FFFF)
  routeCfg : Word := 1
  valSeed  : Word := 0
  deriving DecidableEq, Repr

/-- One reply reservation (R190). -/
structure Reservation where
  cells : Nat
  who   : Requester
  since : Nat                      -- ticks when it was made
  epoch : Nat := 0                 -- the stream's epoch
  node  : Nat := 0
  addr  : Nat := 0
  index : Nat := 0                 -- descriptor index or manifest entry
  len   : Nat := 0                 -- bytes that the request will ask for
  tries : Nat := 0
  sent  : Bool := false            -- the request that it pays for has been made
  deriving DecidableEq, Repr

/-- The granary, scheduler and shapers (chapter 9). -/
structure Granary where
  used   : Tab Nat := []           -- USED by owner
  usedVc : Tab Nat := []           -- USED of a link port's owner by VC, key owner × 12 + VC (R288)
  high   : Tab Nat := []
  phys   : Nat := 524288
  w1seen : Bool := false
  w2seen : Bool := false
  minWait : Bool := false
  resv   : List (Nat × Reservation) := []   -- by tag
  resvHigh : Nat := 0
  quarantine : Tab Nat := []       -- tag not issued again before these ticks (R289)
  level  : Tab Int := []           -- bucket level, units of 1/2,000 byte
  heldCnt : Tab Nat := []
  lastPort : Tab Nat := []         -- port that a class bucket served last (R195)
  passNext : Tab Nat := []         -- core cycle from which a class bucket may pass a frame again (R195)
  lev      : Nat := 0              -- LEVEL as the last core cycle left it (R186, R187)
  turnAt   : Nat := 0              -- core cycle of the last admission, reservation or release (R186)
  turn     : Nat := 0              -- its place in that cycle: 0 a release, 1 + p port p
  deriving DecidableEq, Repr

/-! ## Lauter units and collectives -/

/-- A record of the top-k set (R220). -/
structure TopRec where
  key   : Nat
  val   : Nat
  rank  : Nat
  index : Nat
  born  : Nat
  deriving DecidableEq, Repr

/-- One contribution to a chunk (R198). -/
structure Contribution where
  rank    : Nat
  bytes   : List Byte
  verdict : Nat := 0
  reason  : Nat := 0
  marker  : Nat := 0xFFFF
  order   : Nat := 0               -- core cycle in which its last tail arrived
  frames  : List Nat := []         -- frames whose holds it keeps
  deriving DecidableEq, Repr

/-- A loop in progress in a recipe (R207). -/
structure RecLoop where
  kind  : Nat
  first : Nat                      -- word index of the body
  last  : Nat
  iter  : Nat
  total : Nat
  recSz : Nat
  deriving DecidableEq, Repr

/-- A recipe run (R197 to R201). -/
structure Run where
  vote    : Bool := false
  digest  : Bool := false
  ctx     : Nat := 0
  slot    : Nat := 0
  retry   : Bool := false
  failed  : Bool := false
  group   : Nat := 0
  ordinal : Nat := 0
  chunk   : Nat := 0
  epoch   : Nat := 0
  level   : Nat := 0
  contribs : List Contribution := []
  pc      : Nat := 0
  loops   : List RecLoop := []     -- innermost first
  v       : Tab DWord := []        -- V0 to V15, key 64 × register + lane
  xacc    : Tab Int := []          -- XACC, by lane
  xnan    : Tab Bool := []
  xpinf   : Tab Bool := []
  xninf   : Tab Bool := []
  xadds   : Nat := 0               -- XADDs since XACC was last cleared (R214)
  top     : List TopRec := []
  topX    : Option (Nat × Nat) := none  -- K and X of the first TOPK
  born    : Nat := 0
  c0      : Nat := 0
  total   : Nat := 0
  cursors : Tab Nat := []
  out     : List Byte := []
  cycles  : Nat := 6
  start   : Nat := 0               -- ticks when the run started
  trim    : Bool := false          -- TRIM of its recipe
  lastEmit : Bool := false
  waiting : Bool := false          -- an emit waits for its port (R208)
  ended   : Bool := false
  deriving DecidableEq, Repr

/-- One lauter unit (R197, R227). -/
structure Lauter where
  run      : Option Run := none
  retry    : Option Run := none    -- the failed run to repeat (R225)
  runs     : Nat := 0
  lastCyc  : Nat := 0
  lastCtx  : Nat := 0
  lastVer  : Nat := 0
  failed   : Nat := 0
  retried  : Nat := 0
  exc      : Word := 0
  flags    : BitVec 4 := 0         -- LTR_ARITH_FLAGS
  shut     : List Nat := []        -- contexts that accept no further chunk (R226)
  deriving DecidableEq, Repr

/-- A HATOM add on its way to a controller: one 64-byte line (R222). -/
structure AtomAdd where
  unit : Nat := 0                  -- the lauter unit that sends it
  addr : Nat
  fmt  : Nat
  bytes : List Byte
  deriving DecidableEq, Repr

/-- What a context holds of one granted chunk (R246). -/
structure Chunk where
  index   : Nat
  level   : Nat := 0                  -- the combining level of its run
  nm      : Nat := 0                  -- inputs of its run
  parts   : List Contribution := []   -- complete contributions
  open_   : List Contribution := []   -- contributions whose frames are still arriving
  superseded : List Nat := []         -- ranks whose superseded contribution has been dropped (R245)
  state   : Nat := 0                  -- 0 granted, 1 run started, 2 run ended with a partial to send
  since   : Nat := 0                  -- ticks at the grant
  stalled : Bool := false             -- its stall has been reported (R244)
  resv    : Nat := 0                  -- cells of its reservation not yet charged (R242)
  out     : List (List Byte × Nat × Nat × Nat) := []   -- partials to send, oldest first: bytes, verdict, reason, marker
  sentTo  : Nat := 0                  -- bytes of the oldest already sent
  deriving DecidableEq, Repr

/-- One collective context (R241, R252). -/
structure Ctx where
  serving : Bool := false
  ordinal : Nat := 0
  group   : Nat := 0
  levels  : List Nat := []            -- combining levels at which this node performs runs on it, rising
  nm      : Nat := 0                  -- inputs of a run at the lowest of them
  round   : Nat := 0                  -- rounds after COL_ROUND's base
  last    : Option (Nat × Nat) := none   -- (round, ordinal) of the last instance completed
  nextN   : Tab Nat := []             -- next chunk index to consider for a grant, by level
  granted : Nat := 0
  indices : List Nat := []            -- chunks granted, each once
  done    : Nat := 0
  chunks  : List Chunk := []
  forwarded : List Nat := []          -- chunks whose result this node has sent on
  deriving DecidableEq, Repr

/-- A result that has reached this node and not yet gone everywhere (R234, R240). -/
structure HeldResult where
  group   : Nat
  ordinal : Nat
  epoch   : Nat
  chunk   : Nat
  bytes   : List Byte := []
  complete : Bool := false
  verdict : Nat := 0
  reason  : Nat := 0
  marker  : Nat := 0xFFFF
  frames  : List Nat := []            -- frames whose holds it keeps
  own     : Nat := 0                  -- cells charged to CTX_0 for a result of this node's own run
  deriving DecidableEq, Repr

/-- A place in a group's issue list (R232, R243). -/
structure SrcPlace where
  round  : Nat := 0                   -- rounds after COL_ROUND's base
  pos    : Nat := 0                   -- index among the group's entries of the issue list
  chunk  : Nat := 0
  offset : Nat := 0                   -- bytes of the chunk already sent
  deriving DecidableEq, Repr

/-- A grant that this node holds (R243). -/
structure Grant where
  ordinal : Nat
  epoch   : Nat
  key     : Nat                       -- 0 for its contributors, 1 + c + 1,024 × level for a context's partials
  from_   : Nat                       -- the home that granted
  upTo    : Nat                       -- highest chunk index granted
  deriving DecidableEq, Repr

/-- A result reservation held at CTX_0 (R242). -/
structure ResResv where
  group   : Nat
  ordinal : Nat
  epoch   : Nat
  chunk   : Nat
  cells   : Nat
  deriving DecidableEq, Repr

/-- The COL block and the collective state of the node (chapter 11). -/
structure Collective where
  retracted : Bool := false
  stopped   : Bool := false
  stall     : Bool := false
  gen       : Nat := 0
  round     : DWord := 0              -- the base: the round at the last write, RESET or pitch
  grantedSincePitch : Bool := false
  retractOrd : Word := 0
  stallOrd  : Word := 0
  stallBlock : Word := 0xFFFFFFFF#32
  stallCtx  : Word := 0
  retrLast  : Word := 0
  retrInfo  : Word := 0
  stale     : Nat := 0
  superseded : Nat := 0
  stopRound : Option Nat := none      -- nothing is granted or sent for later rounds (R248)
  ctxs      : Tab Ctx := []           -- key 256 × unit + context
  grants    : List Grant := []
  resNext   : Tab SrcPlace := []      -- next chunk to reserve, by group
  resHeld   : List ResResv := []
  results   : List HeldResult := []
  resSuper  : List (Nat × Nat × Nat × Nat) := []   -- superseded results dropped: group, ordinal, epoch, chunk
  resWant   : Tab SrcPlace := []      -- next chunk to deliver, by group
  deliver   : Tab Nat := []           -- entries of it delivered, by result binding
  sources   : Tab SrcPlace := []      -- by binding, key tun × 16 + queue − 48
  sent      : Tab (Option SrcPlace) := []   -- the last chunk that each binding has wholly sent
  shut      : Bool := false           -- RESET while stopped: nothing is granted or sent until RESUME (R249)
  abandoned : List (Nat × Nat) := []  -- (ordinal, epoch) abandoned (R294)
  deriving DecidableEq, Repr

/-! ## Optical links -/

/-- LNK_STATUS.STATE (R276). -/
inductive LinkPhase where
  | disabled | training | hello | up | isolated | failed
  deriving DecidableEq, Repr

/-- One lane of a link port (R260, R261). -/
structure Lane where
  lock    : Bool := false
  loss    : Nat := 0
  corr    : Nat := 0
  lostAt  : Option Nat := none        -- ticks when the lock was lost
  txNum   : Nat := 0                  -- number of the next data flit sent
  txSlots : Nat := 0                  -- flits sent in its codewords since it trained (R256)
  replay  : List (Nat × List Byte × Nat) := []   -- unacknowledged flits: number, flit, ticks when sent
  nakNum  : Nat := 0
  nakCnt  : Nat := 0                  -- NAKs that have named nakNum
  rxWant  : Nat := 0                  -- data-flit number expected next
  nak     : Bool := false             -- this lane is sending NAK
  rxBuf   : List (List Byte) := []    -- flits accepted and not yet next in the port's order
  cwNum   : Option Nat := none        -- count of the codeword last received in part (R256)
  cwBad   : Bool := false             -- it could not be corrected
  cwFlits : Nat := 0                  -- its flits that have been received
  biasPct : Nat := 0                  -- bias rise above the manufacturing value
  biasAt  : Nat := 0                  -- ticks when the bias last moved; 0 never
  eqAt    : Nat := 0                  -- ticks when the taps last moved; 0 never
  biasPin : Bool := false
  biasSeen : Bool := false            -- source 3 has been raised for this rise
  eqPin   : Bool := false
  deriving DecidableEq, Repr

/-- A frame being received on a VC (R258). -/
structure RxFrame where
  bytes : List Byte
  ended : Bool
  order : Nat := 0                 -- order of arrival of first flits at the port
  frame : Option Nat := none       -- its frame in the core, once cell 0 has been taken
  drop  : Bool := false            -- a header error: its cells are taken and freed
  gone  : Nat := 0                 -- cells that have left the receive FIFO
  deriving DecidableEq, Repr

/-- One link port (chapters 12 and 13). -/
structure Link where
  enable   : Bool := true
  lanesMin : Nat := 0                 -- LANES_MIN; 0 stands for the port's reset value
  minTaken : Nat := 0                 -- LANES_MIN as the last training took it
  phase    : LinkPhase := .disabled
  version  : Nat := 0
  trained  : Half := 0
  lost     : Half := 0
  nbValid  : Bool := false
  nbPort   : Nat := 0xF
  nbNode   : Nat := 0xFFFF
  nbTag    : DWord := 0
  nbMax    : Nat := 0
  nbMin    : Nat := 0
  nbCoord  : Option (Nat × Nat × Nat) := none
  nbOk     : Bool := false            -- a HELLO has passed R268
  pending  : Bool := true             -- fence causes of R274
  boundary : Bool := false
  v2       : Bool := false
  uncertain : Bool := false
  miswire  : Bool := false
  plan     : Bool := false
  code     : Word := 0                -- LNK_MISWIRE
  down     : Bool := false
  downCause : Nat := 0
  downCnt  : Nat := 0
  fecCorr  : Nat := 0
  fecUnc   : Nat := 0
  replayed : Nat := 0
  crcBad   : Nat := 0
  proved   : Nat := 0                 -- codewords corrected and flits replayed since stage 4 of a proving run began (R365)
  lanes    : Tab Lane := []
  sent     : Tab Nat := []            -- SENT by VC (R286)
  freedFar : Tab Nat := []            -- FREED last heard from the far side
  freed    : Tab Nat := []            -- cells that have left the receive FIFO, by VC
  freedSent : Tab Nat := []           -- FREED last sent, by VC
  rxUsed   : Tab Nat := []            -- cells in the receive FIFO, by VC
  rxNext   : Nat := 0                 -- lane that carries the next data flit received
  txNext   : Nat := 0                 -- lane of the next data flit sent
  rx       : Tab (List RxFrame) := [] -- by VC
  rxOrder  : Nat := 0
  txBuf    : Tab (List Byte) := []    -- by VC: bytes of the frame in progress not yet in a flit
  txOpen   : Tab Bool := []           -- by VC: a frame is in progress, its first flit sent
  txWait   : List (List Byte) := []   -- data flits made and not yet on a lane, oldest first (R258, R261)
  reTx     : List (Nat × Nat × List Byte) := []   -- flits to send again: lane, number, flit (R260)
  sinceCtl : Nat := 0                 -- flits sent since the last control flit (R259)
  sinceCred : Nat := 0                -- flits sent since the last SUBTYPE 0 flit (R286)
  hellos   : Nat := 0                 -- HELLOs sent since training
  helloLast : List Byte := []         -- content of the last HELLO sent
  helloAt  : Nat := 0
  timeAt   : Nat := 0                 -- ticks at the last SUBTYPE 1 flit sent
  trainAt  : Nat := 0                 -- ticks when training last began
  attemptAt : Nat := 0                -- ticks when the attempt at one rate began (R263)
  tried3   : Bool := false            -- this training has failed at 224 Gb/s
  darkUntil : Nat := 0                -- lasers dark until these ticks (R262)
  deriving DecidableEq, Repr

/-- MLT_DISC_STATUS.STATE (R277). -/
inductive DiscPhase where
  | idle | seeking | placed | done
  deriving DecidableEq, Repr

/-- Discovery (R268, R269, R277). -/
structure Disc where
  phase   : DiscPhase := .idle
  root    : Bool := false
  timeout : Bool := false
  since   : Nat := 0
  coord   : Option (Nat × Nat × Nat) := none
  ring    : Nat × Nat × Nat := (0, 0, 0)
  node    : Option Nat := none        -- MLT_NODE, valid when it is some
  deriving DecidableEq, Repr

end Sys2Proof.Machine
end

