-- ==== Sys2Proof/Machine/HostState.lean ====
section
/-! DEFINITION. Machine/HostState.lean: the state of time, the grist, the host ports
and stream queues, faults and the cellar book, catch-up, power and boot, security,
the TAP and the pins (chapters 2 and 14 to 19). -/
namespace Sys2Proof.Machine

/-- A byte string of known length; bytes not listed are 0. -/
structure Blob where
  len   : Nat := 0
  bytes : Tab Byte := []
  deriving DecidableEq, Repr

/-! ## Clocks -/

/-- How far the clocks of the islands that commands time have run (R17, R306, R380, R420). The unit
of reference time is 1/102,400,000,000 tick, the smallest rate of the FTC servo (R305). -/
structure Clocks where
  tun  : Nat := 0    -- reference time passed on to the tun islands by the clamp: units of 1/64 of that
  core : Nat := 0    -- edges of the Maltings core island: units of 1/4,000 MHz of that, its phase included
  ticks : Nat := 0   -- ticks of the FTC that have passed: a step of the FTC (R306) changes no interval
  deriving DecidableEq, Repr

/-! ## Time and digests -/

/-- FTC_TIME_STATUS.STATE (R305). -/
inductive TimePhase where
  | free | acquiring | locked | holdover
  deriving DecidableEq, Repr

/-- One member's contribution to a job digest (R322). -/
structure DigPart where
  node  : Nat
  flags : Nat
  d     : DWord
  e     : DWord
  items : Nat
  deriving DecidableEq, Repr

/-- Fabric time and the digest logic (chapter 14). -/
structure TimeSt where
  ftc      : Nat := 0
  hw       : Tab Word := []             -- W1C bits that hardware set at the count hwAt, by BAR0 offset (R7)
  hwAt     : Nat := 0                   -- reading of Clocks.ticks
  phase    : TimePhase := .free
  cfg      : Word := 0                  -- FTC_TIME_CFG
  servo    : Word := 0x27100001#32      -- FTC_SERVO_CFG
  pinned   : Bool := false
  conflict : Bool := false
  stepped  : Bool := false
  depth    : Nat := 0x3F
  parent   : Option Nat := none
  rootId   : Nat := 0xFFFF
  integ    : Int := 0
  adj      : Int := 0                   -- rate in force, units of 1/25,600 tick per ms
  history  : List Int := []             -- rates of the last 1,024 exchanges, newest first
  inLock   : Nat := 0                   -- consecutive exchanges (or source events) within bounds
  outLock  : Nat := 0                   -- consecutive exchanges beyond 16 ticks
  first    : Bool := true               -- no exchange yet since ACQUIRING was entered
  heardAt  : Nat := 0                   -- ticks at the last exchange with the parent
  setTo    : DWord := 0                 -- FTC_SET
  marks    : BitVec 9 := 0              -- FTC_RUN_MARKS
  ppsIn    : DWord := 0
  ptpOfs   : Int := 0
  ptpMaster : Option Nat := none
  ptpWait  : Option Int := none         -- arrival of a two-step Sync whose Follow_Up is awaited
  ptpSync  : Option (Nat × Int) := none -- (master time, arrival) of the last Sync
  ptpReqAt : Option Int := none         -- FTC at which Delay_Req left
  ptpDelay : Int := 0                   -- one-way delay to the master, ticks
  srcAt    : Nat := 0                   -- ticks when the source was last heard
  portOfs  : Tab Int := []
  portDly  : Tab Int := []
  portRx   : Tab (Nat × Nat) := []      -- TX of the last flit received and its arrival
  portNb   : Tab TimeFlit := []         -- last flit received, by port
  digCfg   : Word := 1                  -- FTC_DIG_CFG
  digBase  : DWord := 0
  period   : Word := 0
  invalid  : Bool := false
  mvLtr    : Bool := false
  jobValid : Bool := false
  jobIncomplete : Bool := false
  reducing : Option (Nat × Nat) := none -- layer and the ticks when REDUCE was written
  ringIndex : Nat := 0
  jobD     : DWord := 0
  jobE     : DWord := 0
  jobMembers : Nat := 0
  jobFlags : Nat := 0
  jobLayer : Nat := 0
  jobItems : Nat := 0
  closures : List Closure := []         -- on their way to the Maltings
  parts    : List DigPart := []         -- at the root: contributions held
  partsLayer : Nat := 0
  partsPeriod : Nat := 0
  partsAt  : Option Nat := none         -- ticks when the job digest that they are for began
  deriving DecidableEq, Repr

/-! ## The grist -/

/-- GRIST_STATUS.STATE (R34). -/
inductive GristPhase where
  | empty | loading | staged | checking | pass | fail | armed | voted | pitched | aborted | uncertain
  deriving DecidableEq, Repr

/-- One grist section: its VERSION and its body (R28). -/
structure Section where
  ver  : Nat
  body : Blob
  deriving DecidableEq, Repr

/-- A vote contribution that the root holds (R43). -/
structure VotePart where
  node   : Nat
  armed  : Bool
  digest : DWord
  deriving DecidableEq, Repr

/-- A version window: CFG_MIN, CFG_MAX and NEG of a FEAT_VER register (R32). -/
structure Window where
  lo  : Nat
  hi  : Nat
  neg : Bool
  deriving DecidableEq, Repr

/-- The GRIST block, the staged and active grist and the vote (chapter 2). -/
structure GristSt where
  src      : DWord := 0
  len      : Word := 0
  code     : Nat := 0
  cause    : Nat := 0
  refusedCmd : Nat := 0
  refuseWhy : Nat := 0
  frozen   : Bool := false
  quiet    : Bool := false
  delta    : Bool := false
  phase    : GristPhase := .empty
  detail   : Nat := 0
  pitchAt  : DWord := 0
  stamp    : DWord := 0
  seq      : DWord := 0                 -- GRIST_ACTIVE_SEQ
  tag      : DWord := 0                 -- GRIST_ACTIVE_TAG
  pitches  : Nat := 0
  root     : Nat := 0
  members  : Nat := 0
  passAt   : Nat := 0
  image    : Blob := {}                 -- the IS960's own copy of the image
  imageBad : Bool := false              -- a line of it read uncorrected
  stagedSeq : DWord := 0
  staged   : Tab Section := []          -- by TYPE
  active   : Bool := false
  sections : Tab Section := []          -- the active grist, by TYPE
  stored   : List (List (Nat × Section)) := []   -- current and previous effective body (R49)
  alp      : Window := ⟨2, 3, true⟩
  desc     : Window := ⟨1, 2, true⟩
  rcp      : Window := ⟨1, 2, true⟩
  voteSent : Bool := false
  held     : Option (Bool × Nat × Nat) := none   -- result, stamp, cause held by this member
  parts    : List VotePart := []        -- at the root
  partsP   : Nat := 0
  decided  : Bool := false              -- the root has sent a result for partsP
  release  : Option Nat := none         -- FTC at which the freeze is released (R48)
  rwp      : Tab Word := []             -- staged RWP values by BAR0 offset (R6, R8)
  deriving DecidableEq, Repr

/-! ## Host ports and stream queues -/

/-- A posted BAR4 write that waits for its controllers (R138, R328). -/
structure PostedWrite where
  addr  : Nat
  bytes : List Byte
  ecc   : Ecc
  deriving DecidableEq, Repr

/-- One host port (R325 to R331, R341, R343). -/
structure PortSt where
  linkUp   : Bool := false
  perst    : Bool := false
  inReset  : Bool := false
  resetAt  : Nat := 0                   -- ticks when the cause of the reset ended
  speed    : Nat := 0
  width    : Nat := 0
  bad      : BitVec 6 := 0              -- HST_VS_BAD 5:0
  badCnt   : Nat := 0
  latch    : Tab (Option Word) := []    -- read latches by offset of the low word (R4)
  hold     : Tab (Option Word) := []    -- write holds by offset of the low word (R4)
  winBase  : DWord := 0
  msix     : Tab Word := []             -- MSI-X table words, key 4 × vector + word
  pba      : Tab Bool := []
  pci      : PciCfg := {}               -- its configuration space as the host has programmed it (R325, R326)
  aer      : Word := 0                  -- AER Uncorrectable Error Status (R325)
  aerCor   : Word := 0                  -- AER Correctable Error Status (R325)
  posted   : List PostedWrite := []     -- posted BAR4 writes that wait, oldest first (R328)
  deriving DecidableEq, Repr

/-- SQ_STATUS.STATE; RUNNING and PAUSED are told apart by the pause causes. -/
inductive SqPhase where
  | disabled | running | waiting | stopped | resetting
  deriving DecidableEq, Repr

/-- A descriptor that a stream queue has fetched (R334, R336). -/
structure SqOp where
  index   : Nat                         -- 16-bit ring index
  desc    : List Byte
  started : Bool := false
  posted  : Bool := false               -- a RECV whose buffer is posted
  reads   : Nat := 0                    -- host reads outstanding
  next    : Nat := 0                    -- bytes for which host reads have been issued
  got     : List (Nat × List Byte) := []   -- host data received: offset and bytes
  fail    : Nat := 0                    -- STATUS that it will complete with, when not 0
  frames  : Nat := 0                    -- frames not yet performed or sent
  made    : Nat := 0                    -- bytes put into frames or written; 1 when a remote request has left
  status  : Option Nat := none          -- complete, with this STATUS
  bytes   : Nat := 0
  info    : Nat := 0
  deriving DecidableEq, Repr

/-- One stream queue (R332 to R344). -/
structure StreamQ where
  en       : Bool := false
  port     : Option HostPort := none    -- the port that QUEUE gave it at enable (R332)
  version  : Nat := 0
  log2     : Nat := 0
  phase    : SqPhase := .disabled
  stopping : Option (Nat × Nat) := none -- STATUS and INDEX that stop it (R338)
  err      : Nat := 0
  errIndex : Nat := 0
  descBase : DWord := 0
  cplBase  : DWord := 0
  descTail : Nat := 0
  head     : Nat := 0
  cplHead  : Nat := 0
  cplTail  : Nat := 0
  done     : Nat := 0
  fetching : Nat := 0                   -- descriptors requested and not yet received
  ops      : List SqOp := []            -- fetched, in ring order
  seqIn    : Nat := 0
  seqOut   : Nat := 0
  waitFlag : Nat := 0
  waitTun  : Nat := 0
  waitCount : Nat := 0
  waitSince : Nat := 0
  deriving DecidableEq, Repr

/-- What a read that the IS960 sent to a host is for. -/
inductive ReadFor where
  | descriptors (q first n : Nat)
  | opData (q index off : Nat)
  | firmware (off : Nat)
  deriving DecidableEq, Repr

/-- A read outstanding at a host (R325, R333). -/
structure HostRead where
  id   : Nat
  port : Nat
  addr : Nat
  len  : Nat
  what : ReadFor
  at_  : Nat := 0                       -- ticks when it left
  deriving DecidableEq, Repr

/-- The HST block and what the two ports share. -/
structure HostSt where
  a        : PortSt := {}
  b        : PortSt := {}
  holder   : Nat := 0                   -- 0 none, 1 A, 2 B
  reqA     : Bool := false
  reqB     : Bool := false
  auto     : Bool := false
  last     : Nat := 0
  changes  : Nat := 0
  lostAt   : Option Nat := none         -- ticks when the holder's link was lost (R331)
  memWrEn  : Bool := false
  regWrEn  : Bool := false
  mgmtLock : Bool := false
  hiBer    : Bool := false
  dropped  : Nat := 0
  reads    : List HostRead := []
  nextRead : Nat := 0
  remote   : Bool := false              -- the model's own: a remote register access is being performed (R340)
  deriving DecidableEq, Repr

/-- MLT_CU_STATUS.STATE (R375). -/
inductive CuPhase where
  | idle | receiving | verifying | committed | orphaned | failed | abandoning
  deriving DecidableEq, Repr

/-- An entry of the catch-up manifest (R367). -/
structure CuEntry where
  src     : Nat
  kind    : Nat
  pages   : Nat
  srcAddr : Nat
  dst     : Nat
  digest  : Nat
  ok      : Bool                        -- its reserved byte is 0 and its lines read good
  deriving DecidableEq, Repr

/-- The catch-up engine (R366 to R372, R375). -/
structure CatchUp where
  man     : DWord := 0
  cfg     : Word := 0x00400000#32
  phase   : CuPhase := .idle
  entry   : Nat := 0
  off     : Nat := 0                    -- offset of the next read in the entry
  run     : Nat := 0                    -- runs begun and ended: it tells a read of this run from an earlier one's
  lost    : Nat := 0xFFFF
  done    : Nat := 0
  again   : List (Nat × Nat × Nat) := []   -- reads to send again: entry, offset, timeouts so far
  entries : List CuEntry := []          -- the manifest as START read it
  deriving DecidableEq, Repr

/-! ## Faults, the book and health -/

/-- A fault on its way to the fault block, or taken (R350). -/
structure FaultRec where
  src    : Nat
  stamp  : Nat                          -- FTC count of its arrival, as foreseen when it was detected
  detail : Nat
  forced : Bool := false
  at_    : Nat := 0                     -- Clocks.ticks at its arrival
  deriving DecidableEq, Repr

/-- The FLT block (R350 to R354, R373). -/
structure FaultSt where
  raised  : List FaultRec := []         -- detected and not yet taken
  first   : Option FaultRec := none
  firstCls : Nat := 0
  newest  : List (FaultRec × Nat) := []  -- contained and fatal faults last taken, of one stamp, with their classes
  ovf     : Bool := false
  ovfCnt  : Nat := 0
  fatal   : Option FaultRec := none
  drive   : Bool := false
  pulsing : Bool := false
  pulseAt : Option Nat := none          -- ticks when a pulse is to start
  pulseFrom : Nat := 0
  seen    : Tab Word := []              -- FLT_SRC
  force   : Tab Word := []              -- FLT_FORCE
  unc     : Tab Nat := []               -- by group
  corr    : Tab Nat := []
  deriving DecidableEq, Repr

/-- A record of the cellar book (R357); REPEAT and the times included. -/
structure BookRec where
  kind    : Nat
  trigger : Nat
  source  : Nat
  cls     : Nat
  repeats : Nat := 0
  cycles  : Nat
  firstS  : Nat
  lastS   : Nat
  detail  : Nat
  node    : Nat
  score   : Nat
  seq     : Nat
  listTag : Nat := 0
  list    : Nat := 0xFF
  snaps   : List Nat := []
  waiting : Bool := false               -- its snapshot has not been taken
  stamp   : Nat := 0
  deriving DecidableEq, Repr

/-- The cellar book and the cellar's counts (R355 to R361, R374). -/
structure Book where
  records : List BookRec := []          -- written, oldest first
  pending : List BookRec := []          -- awaiting their write, oldest first
  dropped : Nat := 0
  seconds : Nat := 0
  secondAt : Nat := 0                   -- ticks when the last of them ended; 0 none since power-on
  cycles  : Nat := 0
  clears  : Nat := 0
  rdIndex : Nat := 0
  src     : DWord := 0
  clearing : Bool := false
  result  : Nat := 0
  deriving DecidableEq, Repr

/-- Health, hold and the proving run (R362 to R365). -/
structure Health where
  own      : Nat := 0                   -- A_own
  env      : Nat := 0                   -- A_env
  ownSaved : Nat := 0
  envSaved : Nat := 0
  mPart    : Nat := 0
  lPart    : Nat := 0
  score    : Nat := 0x3FF
  level    : Nat := 0
  hold     : Bool := false
  holdLeft : Nat := 0                   -- seconds of operating time left in the hold
  result   : Nat := 0
  stage    : Nat := 0
  proveAt  : Nat := 0                   -- ticks when the proving run began
  elapsed  : Nat := 0                   -- seconds into the last run, when it has ended
  passes   : Nat := 0
  hbmCorr  : Nat := 0                   -- counts of this second
  hbmLatent : Nat := 0
  tunCorr  : Nat := 0
  ringCorr : Nat := 0
  cellCorr : Nat := 0
  retried  : Nat := 0
  replayed : Nat := 0
  warnings : Nat := 0
  deriving DecidableEq, Repr

/-! ## Power, boot, security, pins -/

/-- PWR_KETTLE.STATE of one kettle (R388). -/
inductive KettlePhase where
  | active | idle | doze | off
  deriving DecidableEq, Repr

/-- The PWR block and boot (chapter 17). -/
structure Power where
  powered  : Bool := true
  reset    : Bool := false              -- PKG_RST_N holds the package in reset
  standby  : Bool := false
  tripped  : Bool := false              -- stages 0 to 5 off after a thermal trip
  warm     : Bool := false              -- a warm reset is in progress
  warnSeen : Bool := false
  warnNow  : Bool := false
  warnAt   : Nat := 0
  min      : Nat := 0
  vin      : Nat := 0                   -- the input at the last crossing, units of 10 mV
  vinAt    : Option Nat := none         -- ticks at that crossing
  peakW    : Nat := 0
  meanW    : Nat := 0
  guard    : Word := 0x00300C80#32      -- PWR_GUARD in force
  guardSup : Bool := false              -- guard engaged for supply
  guardCap : Bool := false              -- guard engaged for the cap
  safety   : Option Nat := none         -- ticks when the power safety clamp engaged
  therm    : Nat := 64                  -- thermal clamp rate
  thermCfg : Word := 0x00200066#32
  thermAt  : Nat := 0                   -- ticks at the last step of the clamp; 0 none
  guardAt  : Nat := 0                   -- ticks at the last 1 ms mean; 0 none
  hydroAt  : Nat := 0                   -- ticks at the last hydrometer run; 0 none
  tj       : Nat := 0
  tjMax    : Nat := 0
  coolant  : Bool := false              -- EXCURSION
  inlet    : Nat := 0
  flow     : Nat := 0
  margin   : Nat := 0
  marginArmed : Bool := true
  offset   : Int := 0
  hydroPin : Bool := false
  vbound   : Word := 0x003C0AFC#32
  laser    : Word := 0x00000028#32
  thermPin : Bool := false
  thermOvr : Bool := false
  powerOvr : Bool := false
  loopSeen : BitVec 6 := 0
  kettles  : Tab KettlePhase := []
  waking   : List Nat := []             -- kettles whose WAKE is in progress
  restored : Byte := 0
  refused  : Bool := false
  islRefused : Bool := false
  island   : Option Nat := none         -- island whose reset is in progress
  cause    : Nat := 0
  failed   : Bool := false
  fail     : Nat := 0
  rejects  : Nat := 0
  exitStandby : Bool := false           -- this boot leaves Standby (R390)
  step     : Nat := 1
  stepAt   : Nat := 0                   -- ticks when the step began
  offCause : Nat := 1                   -- what the next power-on is the end of: 1, 2, 3
  islandAt : Nat := 0                   -- ticks when the island reset began
  warmAt   : Nat := 0                   -- ticks when the warm reset began
  regulated : Bool := true              -- no rail of a powered stage is out of regulation
  deriving DecidableEq, Repr

/-- The security block (chapter 18). -/
structure Sec where
  life     : Nat := 0                   -- lifecycle in the manufacturing record
  loaded   : Bool := false              -- boot step 1 has loaded the record
  fwValid  : Bool := false
  lastCmd  : Nat := 0
  code     : Nat := 0
  addr     : DWord := 0
  len      : Word := 0
  count    : Nat := 0
  floor    : Nat := 0
  svn      : Nat := 0
  owner    : List Byte := []            -- owner public key, 32 bytes; none when UNOWNED
  scope    : BitVec 3 := 0
  keyGone  : Bool := false              -- the private key is erased (R407)
  meas0    : List Byte := []
  meas2    : List Byte := []
  meas3    : List Byte := []
  image    : List Byte := []            -- firmware image in the cellar die's store
  parts    : Tab (List Byte) := []      -- what has been read of an image, by offset
  loading  : Nat := 0                   -- bytes of the image not yet received
  loadNext : Nat := 0                   -- offset of the next read
  loadLen  : Nat := 0
  loadAddr : Nat := 0
  loadPort : Nat := 0                   -- port of the host that presents it; 0 while no load runs
  deriving DecidableEq, Repr

/-- The TAP controller states of IEEE 1149.1 (R406). -/
inductive TapPhase where
  | testLogicReset | runTestIdle | selectDr | captureDr | shiftDr | exit1Dr | pauseDr | exit2Dr
  | updateDr | selectIr | captureIr | shiftIr | exit1Ir | pauseIr | exit2Ir | updateIr
  deriving DecidableEq, Repr

/-- The TAP (R406, R412). -/
structure Tap where
  phase  : TapPhase := .testLogicReset
  trst   : Bool := true                 -- TRST_N low
  ir     : List Bool := []              -- current instruction; [] is BYPASS
  irSh   : List Bool := []
  dr     : List Bool := []
  cells  : List Bool := []              -- boundary-scan update stage
  chain  : List Bool := []              -- what DEBUG last put into the scan chains in scope
  tdo    : Option Bool := none          -- none: high impedance
  deriving DecidableEq, Repr

/-- The sideband outputs that no other field gives (R412). -/
structure Pins where
  thermLow : Bool := false              -- THERM_N low
  ppsOut   : Bool := false
  deriving DecidableEq, Repr

/-- What has left the package, newest first: the observable record. -/
inductive Output where
  | bar0 (p : HostPort) (off : Nat) (v : Word)                 -- data of a BAR0 read
  | bar4 (p : HostPort) (off : Nat) (bytes : List Byte) (poisoned : Bool)
  | unsupported (p : HostPort) (off : Nat)                     -- Unsupported Request
  | msix (p : HostPort) (vector : Nat) (addr : DWord) (data : Word)
  | hostRead (p : Nat) (id addr len : Nat)
  | hostWrite (p : Nat) (addr : Nat) (bytes : List Byte) (relaxed : Bool)
  | flit (port hdr num : Nat) (bytes : List Byte)              -- a data flit, with its codeword's header (R256)
  | control (port hdr : Nat) (bytes : List Byte)               -- a control flit (R259)
  | delayReq (ftc : Nat)                                       -- PTP Delay_Req
  | mgmt (bytes : List Byte)                                   -- management reply
  deriving DecidableEq, Repr

end Sys2Proof.Machine
end

