-- ==== Sys2Proof/Machine/Bytes.lean ====
section
/-! DEFINITION. Machine/Bytes.lean: byte strings, little-endian integers, queue
entries and the checks over bytes: CRC-32C, CRC-64 (R317), CRC-16. -/
namespace Sys2Proof.Machine

/-- The first of some failures. -/
def firstSome {α : Type} : List (Option α) → Option α
  | [] => none
  | some x :: _ => some x
  | none :: xs => firstSome xs
/-- Fail with an item unless the condition holds. -/
def need {α : Type} (ok : Bool) (x : α) : Option α := if ok then none else some x

/-- The `n` low bytes of a number, least significant first (R3). -/
def leBytes (n x : Nat) : List Byte := (List.range n).map fun i => BitVec.ofNat 8 (x / 256 ^ i)
/-- The number a little-endian byte string spells. -/
def leNat : List Byte → Nat
  | [] => 0
  | b :: bs => b.toNat + 256 * leNat bs
/-- `n` zero bytes. -/
def zeros (n : Nat) : List Byte := List.replicate n 0
/-- A byte string cut or padded with zeros to `n` bytes. -/
def fit (n : Nat) (bs : List Byte) : List Byte := bs.take n ++ zeros (n - bs.length)
/-- `n` bytes from offset `i`, zeros beyond the end. -/
def sliceB (bs : List Byte) (i n : Nat) : List Byte := fit n (bs.drop i)
/-- The little-endian number of `n` bytes at offset `i`. -/
def natAt (bs : List Byte) (i n : Nat) : Nat := leNat (sliceB bs i n)
/-- Byte `i`, 0 beyond the end. -/
def byteAt (bs : List Byte) (i : Nat) : Nat := (bs.getD i 0).toNat

/-- A queue entry as 64 bytes (R81). -/
def entryBytes (e : Entry) : List Byte := leBytes 64 e.toNat
/-- 64 bytes as a queue entry. -/
def entryOf (bs : List Byte) : Entry := BitVec.ofNat 512 (leNat (fit 64 bs))
/-- Cut bytes into entries of 64 bytes; the last is padded with zeros. -/
def entriesOf : Nat → List Byte → List Entry
  | 0, _ => []
  | n + 1, bs => entryOf (bs.take 64) :: entriesOf n (bs.drop 64)
/-- Element `i` of an entry whose containers have `w` bits (R81). -/
def entryElem (e : Entry) (w i : Nat) : Nat := e.toNat / 2 ^ (w * i) % 2 ^ w
/-- Pack element patterns of `w` bits from bit 0 upward. -/
def packElems (w : Nat) : List Nat → Nat
  | [] => 0
  | x :: xs => x % 2 ^ w + 2 ^ w * packElems w xs

/-- A byte of a blob; beyond its length, 0. -/
def Blob.byte (b : Blob) (i : Nat) : Nat := (Tab.get 0 b.bytes i).toNat
/-- `n` bytes from key `k` on of a table whose first key is not below `k`. -/
def walkBytes : Nat → Nat → Tab Byte → List Byte
  | 0, _, _ => []
  | n + 1, k, [] => 0 :: walkBytes n (k + 1) []
  | n + 1, k, (j, v) :: m => if j ≤ k then v :: walkBytes n (k + 1) m else 0 :: walkBytes n (k + 1) ((j, v) :: m)
/-- The bytes of a part of a blob. -/
def Blob.slice (b : Blob) (i n : Nat) : List Byte := walkBytes n i (b.bytes.dropWhile fun e => e.1 < i)
/-- The little-endian number of `n` bytes of a blob from offset `i`. -/
def Blob.nat (b : Blob) (i n : Nat) : Nat := leNat (b.slice i n)
/-- All bytes of a blob. -/
def Blob.toList (b : Blob) : List Byte := b.slice 0 b.len
/-- The part of a blob from offset `i` of length `n`, as a blob. -/
def Blob.sub (b : Blob) (i n : Nat) : Blob :=
  { len := n
    bytes := (b.bytes.filter fun e => i ≤ e.1 && e.1 < i + n).map fun e => (e.1 - i, e.2) }
/-- The nonzero bytes of a string with their places from `k` on. -/
def listBytes : Nat → List Byte → Tab Byte
  | _, [] => []
  | k, b :: bs => if b = 0 then listBytes (k + 1) bs else (k, b) :: listBytes (k + 1) bs
/-- A byte string as a blob. -/
def Blob.ofList (bs : List Byte) : Blob := { len := bs.length, bytes := listBytes 0 bs }
/-- Every byte of offsets `i .. i + n - 1` is 0. -/
def Blob.zero (b : Blob) (i n : Nat) : Bool :=
  b.bytes.all fun e => !(i ≤ e.1 && e.1 < i + n) || e.2 == 0
/-- The first nonzero byte at or after `i` and below `i + n`, if any. -/
def Blob.firstNonzero (b : Blob) (i n : Nat) : Option Nat :=
  (b.bytes.find? fun e => i ≤ e.1 && e.1 < i + n && e.2 != 0).map fun e => e.1

/-! ## Checks over bytes -/

/-- One reflected CRC step per bit, from the least significant bit on. -/
def crcBitsR (poly : Nat) : Nat → Nat → Nat
  | 0, c => c
  | n + 1, c => crcBitsR poly n (if c % 2 == 1 then Nat.xor (c / 2) poly else c / 2)
/-- CRC-32C of a byte string: reflected polynomial 0x82F6_3B78, initial and final all ones. -/
def crc32c (bs : List Byte) : Nat :=
  Nat.xor (bs.foldl (fun c b => crcBitsR 0x82F63B78 8 (Nat.xor c b.toNat)) 0xFFFFFFFF) 0xFFFFFFFF
/-- One unreflected CRC step per bit, from the most significant bit on. -/
def crcBitsN (w poly : Nat) : Nat → Nat → Nat
  | 0, c => c
  | n + 1, c =>
    crcBitsN w poly n
      (if bitOf c (w - 1) then Nat.xor (c * 2 % 2 ^ w) poly else c * 2 % 2 ^ w)
/-- CRC-64/ECMA-182 of R317: initial 0, no reflection, no final XOR. -/
def crc64 (bs : List Byte) : Nat :=
  bs.foldl (fun c b => crcBitsN 64 0x42F0E1EBA9EA3693 8 (Nat.xor c (b.toNat * 2 ^ 56))) 0
/-- An unreflected 16-bit CRC with the given polynomial and initial value. -/
def crc16 (poly init : Nat) (bs : List Byte) : Nat :=
  bs.foldl (fun c b => crcBitsN 16 poly 8 (Nat.xor c (b.toNat * 2 ^ 8))) init

end Sys2Proof.Machine
end

