-- ==== Sys2Proof/Machine/Codec.lean ====
section
/-! DEFINITION. Machine/Codec.lean: compressed tiles (R133 to R136): the encoder is a
function of the tile and the form, the decoder takes any record sequence that yields
the tile. -/
namespace Sys2Proof.Machine

/-- Bits of an element by WIDTH code (R133). -/
def tileBits (w : Nat) : Nat := match w with | 0 => 4 | 1 => 8 | 2 => 16 | _ => 32
/-- Elements of a tile by WIDTH code. -/
def tileElems (w : Nat) : Nat := 32768 / tileBits w
/-- Bytes that `n` packed elements occupy. -/
def litBytes (w n : Nat) : Nat := ceilDiv (n * tileBits w) 8
/-- Pack elements at the tile's width; 4-bit elements two per byte, low nibble first. -/
def packLits (w : Nat) (xs : List Nat) : List Byte := leBytes (litBytes w xs.length) (packElems (tileBits w) xs)
/-- The first `n` elements that packed bytes hold. -/
def unpackLits (w n : Nat) (bs : List Byte) : List Nat :=
  (List.range n).map fun i =>
    let b := tileBits w
    if b == 4 then byteAt bs (i / 2) / 16 ^ (i % 2) % 16 else natAt bs (i * b / 8) (b / 8)

/-- Maximal runs of zero and of nonzero elements, in order. -/
def tileRuns : List Nat → List (Bool × List Nat)
  | [] => []
  | x :: xs =>
    match tileRuns xs with
    | (z, r) :: rest => if z == (x == 0) then (z, x :: r) :: rest else (x == 0, [x]) :: (z, r) :: rest
    | [] => [(x == 0, [x])]
/-- Cut a list into pieces of at most 128; `n` bounds the number of pieces. -/
def pieces128 : Nat → List Nat → List (List Nat)
  | 0, _ => []
  | n + 1, xs => if xs.isEmpty then [] else xs.take 128 :: pieces128 n (xs.drop 128)
/-- One zero-run record (R134). -/
def zeroRecord (w : Nat) (z : Bool) (xs : List Nat) : List Byte :=
  if z then [BitVec.ofNat 8 (xs.length - 1)] else BitVec.ofNat 8 (127 + xs.length) :: packLits w xs
/-- The greedy zero-run payload of a tile (R134). -/
def zeroRunPayload (w : Nat) (xs : List Nat) : List Byte :=
  (tileRuns xs).flatMap fun r => (pieces128 (r.2.length / 128 + 1) r.2).flatMap (zeroRecord w r.1)
/-- The bitmap-plus-values payload of a tile (R134). -/
def bitmapPayload (w : Nat) (xs : List Nat) : List Byte :=
  leBytes (tileElems w / 8) (packElems 1 (xs.map fun x => b2n (x != 0))) ++ packLits w (xs.filter (· != 0))
/-- Header and payload of the encoding of 4,096 bytes (R133, R135). -/
def encodeTile (form w : Nat) (tile : List Byte) : Nat × List Byte :=
  let xs := unpackLits w (tileElems w) tile
  let nz := (xs.filter (· != 0)).length
  let p := if form == 1 then zeroRunPayload w xs else bitmapPayload w xs
  let dense := 4096 ≤ p.length
  let p := if dense then fit 4096 tile else p
  (nz * 2 ^ 32 + p.length * 2 ^ 16 + w * 2 ^ 5 + b2n dense * 2 ^ 4 + form, p)
/-- A payload padded to a multiple of 8 bytes (R133). -/
def padTo8 (p : List Byte) : List Byte := fit (ceilDiv p.length 8 * 8) p

/-- Decode zero-run records; `n` elements are still due. -/
def zeroRunDecode (w : Nat) : Nat → Nat → List Byte → Option (List Nat)
  | _, n, [] => if n == 0 then some [] else none
  | 0, _, _ :: _ => none
  | fuel + 1, n, c :: bs =>
    let k := c.toNat % 128 + 1
    if n < k then none else
    if c.toNat < 128 then (zeroRunDecode w fuel (n - k) bs).map (List.replicate k 0 ++ ·)
    else
      let m := litBytes w k
      if bs.length < m then none
      else (zeroRunDecode w fuel (n - k) (bs.drop m)).map (unpackLits w k (bs.take m) ++ ·)
/-- Put values where a bitmap has ones. -/
def bitmapSpread : List Nat → List Nat → List Nat
  | [], _ => []
  | b :: bs, vs => if b == 0 then 0 :: bitmapSpread bs vs else vs.headD 0 :: bitmapSpread bs vs.tail
/-- Decode a bitmap-plus-values payload. -/
def bitmapDecode (w : Nat) (p : List Byte) : Option (List Nat) :=
  let n := tileElems w
  let bits := (List.range n).map fun i => byteAt p (i / 8) / 2 ^ (i % 8) % 2
  let ones := (bits.filter (· == 1)).length
  if p.length != n / 8 + litBytes w ones then none
  else some (bitmapSpread bits (unpackLits w ones (p.drop (n / 8))))
/-- Decode a tile whose stream or binding requests `form` and `w` (R136): its 4,096 bytes,
or none for a tile decode fault. -/
def decodeTile (form w hdr : Nat) (payload : List Byte) : Option (List Byte) :=
  let len := bitsOf hdr 31 16
  let dense := bitOf hdr 4
  if bitsOf hdr 63 48 != 0 || bitsOf hdr 15 8 != 0 || bitsOf hdr 7 5 != w || hdr % 16 != form
      || payload.length < len || 4096 < len then none else
  let p := payload.take len
  let xs := if dense then (if len == 4096 then some (unpackLits w (tileElems w) p) else none)
    else if form == 1 then zeroRunDecode w (p.length + 1) (tileElems w) p else bitmapDecode w p
  match xs with
  | none => none
  | some xs => if (xs.filter (· != 0)).length == bitsOf hdr 47 32 then some (packLits w xs) else none

end Sys2Proof.Machine
end

