-- ==== Sys2Proof/Config.lean ====
section
/-! DEFINITION. Config.lean: what one unit or one implementation fixes, and the free
values: constants without a body, so that no statement can rest on a value of one. -/
namespace Sys2Proof.Config

/-- A free value: entry `n` of an unconstrained sequence; the state's counter
`free` names the next entry (log entry 3). -/
opaque freeValue : Nat → Nat
/-- Byte `k` of a memory that a proving run has overwritten: `n` names the run (R365). -/
opaque fillByte : Nat → Nat → BitVec 8
/-- The 32-byte seed of the unit's Ed25519 device key (R397). -/
opaque deviceSeed : List Byte
/-- The DER of the device certificate (R397). -/
opaque deviceCert : List Byte
/-- The DER of the intermediate certificate (R397). -/
opaque intermediateCert : List Byte
/-- The Vehorn firmware key that the boot ROM holds (R401). -/
opaque firmwareKey : List Byte
/-- The bytes of the manufacturing record that holds a lifecycle and a floor (R403). -/
opaque manufacturingRecord : Nat → Nat → List Byte
/-- The number by which R347 names a crossing, which the spec does not give: its
argument is the binding that feeds it. -/
opaque crossingNumber : Nat → Nat
/-- The length of the TAP's instruction register, which the spec does not give. -/
opaque tapIrLength : Nat
/-- The TAP instruction that an instruction-register value selects when it is not
all ones: 0 BYPASS, 1 SAMPLE/PRELOAD, 2 EXTEST, 3 DEBUG (R406 names them without codes). -/
opaque tapDecode : List Bool → Nat
/-- The length of the boundary-scan register (R406). -/
opaque tapBoundaryLength : Nat
/-- The length of the internal scan chains that DEBUG reaches under a scope (R406). -/
opaque tapChainLength : Nat → Nat
/-- The cell of the boundary-scan register that serves a land; lands are numbered as `Land.num`
numbers them (R406). -/
opaque tapCell : Nat → Nat

/-- The package address of the region into which the cask journal engine writes a
partner's mirrored entries (R159), which the spec does not place. -/
opaque mirrorBase : Nat
/-- Whether an access that a controller's reset finds on its way still stood in the crossing before
that controller at a tick (R18, R19). -/
opaque accessCrossing : Nat → Nat → Bool
/-- The input in units of 10 mV at a tick, where no crossing tells it (R376, R396). -/
opaque inputAt : Nat → Nat
/-- The ticks between the detection of a fault of a source at an FTC count and its arrival at the
fault block; it acts modulo 8,001 (R350). -/
opaque faultDelay : Nat → Nat → Nat
/-- Whether the read of a poison mark by LOAD latches HBM_ERR_INFO: R73 says that it does, R425 that
no read of a mark does, and no file of the spec says which rule gives way (log entry 94). -/
opaque loadLatchesMark : Bool

end Sys2Proof.Config
end

