-- ==== Sys2Proof/Machine/State.lean ====
section
/-! DEFINITION. Machine/State.lean: the whole state of the IS960 as plain data, the
two ways a step could stop, and the state right after power-on. -/
namespace Sys2Proof.Machine

/-- Why a step stops with a fault. There is no constructor: no command of the
IS960 stops the package, whose own faults are entries of the state (chapter 16). -/
inductive Fault where
  deriving DecidableEq, Repr

/-- Why a command is refused. -/
inductive Refusal where
  /-- The command has no meaning in this model yet; raised by exec's arms only.
  Safe: nothing can be concluded from a step that did not happen. -/
  | notModelled (mnemonic : String)
  deriving DecidableEq, Repr

/-- The state of one IS960 package. -/
structure State where
  pending  : List Instr := []           -- commands waiting, first in, first out
  time     : TimeSt := {}
  clk      : Clocks := {}               -- the islands' clocks against the FTC (R420)
  grist    : GristSt := {}
  tuns     : Tab Tun := []              -- by tun id
  crossings : Tab (List Crossed) := []  -- tun-to-tun bindings, key tun × 16 + queue − 48 (R61)
  raises   : List Raise := []           -- raises on their way to a counter (R65)
  walks    : List Walk := []            -- owner-chain walks in progress (R67)
  hbm      : List Host.Cell := []       -- HBM contents, key stack × 0x18_0000_0000 + local address
  hbmFill  : Nat := 0                   -- what its unlisted bytes read as: 0, or a proving run's patterns
  poison   : List Nat := []             -- lines that hold a poison mark, key ÷ 64, rising (R425)
  latent   : List Nat := []             -- lines found uncorrectable by sparge alone, rising (R144)
  ctls     : Tab HbmCtl := []           -- by stack
  hbmMode  : Word := 0                  -- HBM_MAP in force (R140)
  streams  : Tab Stream := []           -- key kettle × 256 + stream
  journal  : Journal := {}
  core     : Core := {}
  granary  : Granary := {}
  lauters  : Tab Lauter := []
  atoms    : List AtomAdd := []         -- HATOM adds on their way to a controller (R222)
  col      : Collective := {}
  links    : Tab Link := []             -- by link port
  disc     : Disc := {}
  host     : HostSt := {}
  sqs      : Tab StreamQ := []          -- by stream queue
  catchUp  : CatchUp := {}
  fault    : FaultSt := {}
  book     : Book := {}
  health   : Health := {}
  power    : Power := {}
  sec      : Sec := {}
  tap      : Tap := {}
  pins     : Pins := {}
  out      : List Output := []          -- what has left the package, newest first
  free     : Nat := 0                   -- the model's own field: next free value
  deriving DecidableEq, Repr

/-- The IS960 right after the power-on of a new unit: every field at the reset
value the spec states, and where it states none at the value of a log entry. The
first power-on is R377's: the power-cycle count rises to 1 and PWR_RESET_CAUSE
shows it, which are the reset values of chapter 17 before that record is made. -/
def State.reset : State := {}

end Sys2Proof.Machine
end

