-- ==== Sys2Proof/Machine/Ops.lean ====
section
/-! DEFINITION. Machine/Ops.lean: the named operations over the state: reading and
changing one part of it, raising a fault, and the accesses of the HBM controllers (R139 to R144, R152, R425). -/
namespace Sys2Proof.Machine

/-- The outcome of a command. -/
abbrev Out := Host.Outcome State Fault Refusal

/-! ## Parts of the state -/

/-- Tun `t`. -/
def State.tun (s : State) (t : Nat) : Tun := Tab.get {} s.tuns t
/-- Replace tun `t`. -/
def State.setTun (s : State) (t : Nat) (x : Tun) : State := { s with tuns := Tab.set {} s.tuns t x }
/-- Change tun `t`. -/
def State.modTun (s : State) (t : Nat) (f : Tun → Tun) : State := s.setTun t (f (s.tun t))
/-- Change every tun for which `p` holds. -/
def State.modTuns (s : State) (p : Nat → Bool) (f : Tun → Tun) : State :=
  (List.range 192).foldl (fun s t => if p t then s.modTun t f else s) s
/-- HBM controller `n`. -/
def State.ctl (s : State) (n : Nat) : HbmCtl := Tab.get {} s.ctls n
/-- Change HBM controller `n`. -/
def State.modCtl (s : State) (n : Nat) (f : HbmCtl → HbmCtl) : State :=
  { s with ctls := Tab.mod {} s.ctls n f }
/-- Data-mover stream `k`, kettle × 256 + stream. -/
def State.stream (s : State) (k : Nat) : Stream := Tab.get {} s.streams k
/-- Change data-mover stream `k`. -/
def State.modStream (s : State) (k : Nat) (f : Stream → Stream) : State :=
  { s with streams := Tab.mod {} s.streams k f }
/-- Lauter unit `u`. -/
def State.lauter (s : State) (u : Nat) : Lauter := Tab.get {} s.lauters u
/-- Change lauter unit `u`. -/
def State.modLauter (s : State) (u : Nat) (f : Lauter → Lauter) : State :=
  { s with lauters := Tab.mod {} s.lauters u f }
/-- Link port `p`. -/
def State.link (s : State) (p : Nat) : Link := Tab.get {} s.links p
/-- Change link port `p`. -/
def State.modLink (s : State) (p : Nat) (f : Link → Link) : State :=
  { s with links := Tab.mod {} s.links p f }
/-- Stream queue `q`. -/
def State.sq (s : State) (q : Nat) : StreamQ := Tab.get {} s.sqs q
/-- Change stream queue `q`. -/
def State.modSq (s : State) (q : Nat) (f : StreamQ → StreamQ) : State :=
  { s with sqs := Tab.mod {} s.sqs q f }
/-- Collective context `c`, 256 × unit + context. -/
def State.ctx (s : State) (c : Nat) : Ctx := Tab.get {} s.col.ctxs c
/-- Change collective context `c`. -/
def State.modCtx (s : State) (c : Nat) (f : Ctx → Ctx) : State :=
  { s with col := { s.col with ctxs := Tab.mod {} s.col.ctxs c f } }
/-- Host port `p`. -/
def State.port (s : State) (p : HostPort) : PortSt :=
  match p with | .a => s.host.a | .b => s.host.b
/-- Change host port `p`. -/
def State.modPort (s : State) (p : HostPort) (f : PortSt → PortSt) : State :=
  match p with
  | .a => { s with host := { s.host with a := f s.host.a } }
  | .b => { s with host := { s.host with b := f s.host.b } }
/-- Change one of the single blocks. -/
def State.modTime (s : State) (f : TimeSt → TimeSt) : State := { s with time := f s.time }
@[inherit_doc State.modTime] def State.modGrist (s : State) (f : GristSt → GristSt) : State :=
  { s with grist := f s.grist }
@[inherit_doc State.modTime] def State.modCore (s : State) (f : Core → Core) : State :=
  { s with core := f s.core }
@[inherit_doc State.modTime] def State.modGranary (s : State) (f : Granary → Granary) : State :=
  { s with granary := f s.granary }
@[inherit_doc State.modTime] def State.modCol (s : State) (f : Collective → Collective) : State :=
  { s with col := f s.col }
@[inherit_doc State.modTime] def State.modHost (s : State) (f : HostSt → HostSt) : State :=
  { s with host := f s.host }
@[inherit_doc State.modTime] def State.modPower (s : State) (f : Power → Power) : State :=
  { s with power := f s.power }
@[inherit_doc State.modTime] def State.modFault (s : State) (f : FaultSt → FaultSt) : State :=
  { s with fault := f s.fault }
@[inherit_doc State.modTime] def State.modBook (s : State) (f : Book → Book) : State :=
  { s with book := f s.book }
@[inherit_doc State.modTime] def State.modHealth (s : State) (f : Health → Health) : State :=
  { s with health := f s.health }
@[inherit_doc State.modTime] def State.modSec (s : State) (f : Sec → Sec) : State :=
  { s with sec := f s.sec }
@[inherit_doc State.modTime] def State.modJournal (s : State) (f : Journal → Journal) : State :=
  { s with journal := f s.journal }
@[inherit_doc State.modTime] def State.modCu (s : State) (f : CatchUp → CatchUp) : State :=
  { s with catchUp := f s.catchUp }

/-- Record something that leaves the package. -/
def State.emit (s : State) (o : Output) : State := { s with out := o :: s.out }
/-- The next free value. -/
def State.freeNat (s : State) : Nat := Config.freeValue s.free
/-- The free value has been used: the next one is another. -/
def State.useFree (s : State) : State := { s with free := s.free + 1 }
/-- Ticks of the FTC that have passed. Intervals are measured by them, which a step of the FTC
does not change (R306). -/
def State.now (s : State) : Nat := s.clk.ticks
/-- Hardware sets W1C bits of the register at `off` of BAR0 in the present tick. -/
def State.hwSet (s : State) (off n : Nat) : State :=
  s.modTime fun t =>
    { t with hw := Tab.mod 0 (if t.hwAt == s.now then t.hw else []) off (· ||| BitVec.ofNat 32 n), hwAt := s.now }
/-- The bits that a 1 written to them clears: one that hardware sets in the same tick ends set (R7). -/
def State.clears (s : State) (off : Nat) (v : Word) : Word :=
  if s.time.hwAt == s.now then v &&& ~~~(Tab.get 0 s.time.hw off) else v
/-- Set bits of FTC_RUN_MARKS (R314). -/
def State.mark (s : State) (bit : Nat) : State :=
  (s.modTime fun t => { t with marks := t.marks ||| BitVec.ofNat 9 (2 ^ bit) }).hwSet 0x20024 (2 ^ bit)
/-- FTC_DIG_INFO.INVALID is set (R323). -/
def State.digInvalid (s : State) : State :=
  (s.modTime fun t => { t with invalid := true }).hwSet 0x20210 (2 ^ 31)
/-- The package is powered, out of reset and not in Standby: its hosts, time logic and cellar act. -/
def State.on (s : State) : Bool := s.power.powered && !s.power.reset && !s.power.standby
/-- The blocks that a warm reset holds act (R391). -/
def State.alive (s : State) : Bool := s.on && !s.power.warm
/-- A proving run is in progress (R365). -/
def State.proving (s : State) : Bool := s.health.result == 1
/-- The IS960 is in the fatal state (R354). -/
def State.isFatal (s : State) : Bool := s.fault.fatal.isSome
/-- Kettle `k`'s power state (R388). -/
def State.kettle (s : State) (k : Nat) : KettlePhase :=
  if s.power.tripped || s.power.standby then .off else Tab.get .active s.power.kettles k
/-- A kettle in Doze, Standby or Off (R23). -/
def State.asleep (s : State) (k : Nat) : Bool :=
  match s.kettle k with | .doze => true | .off => true | _ => false

/-- An ARM_LAUNCH, LOAD or access to a tun ends the Idle state of its kettle (R388). -/
def State.touchKettle (s : State) (k : Nat) : State :=
  if Tab.get .active s.power.kettles k == .idle then
    s.modPower fun p => { p with kettles := Tab.set .active p.kettles k .active }
  else s

/-- How many ticks after its detection a fault of `src` arrives at the fault block: at most 8,000 (R350). -/
def State.faultDelay (s : State) (src : Nat) : Nat := Config.faultDelay src s.time.ftc % 8001
/-- A fault of a source with the value of its detail register is on its way to the fault block,
which it reaches `delay` ticks from now and which stamps it with that count. -/
def State.raiseIn (s : State) (src detail delay : Nat) : State :=
  s.modFault fun f =>
    { f with raised := f.raised ++ [{ src := src, stamp := s.time.ftc + delay, detail := detail, at_ := s.now + delay }] }
/-- A unit reports a fault of a source with the value of its detail register (R350). -/
def State.raise (s : State) (src detail : Nat) : State := s.raiseIn src detail (s.faultDelay src)
/-- Source numbers of R346. -/
def srcTun (t k : Nat) : Nat := 8 * t + k
@[inherit_doc srcTun] def srcHbm (n k : Nat) : Nat := 1536 + 4 * n + k
@[inherit_doc srcTun] def srcLink (p k : Nat) : Nat := 1600 + 6 * p + k
@[inherit_doc srcTun] def srcPort (p k : Nat) : Nat := 1684 + 2 * p + k
@[inherit_doc srcTun] def srcLauter (u k : Nat) : Nat := 1748 + 3 * u + k

/-! ## The active grist -/

/-- Section types (R30). -/
def secIdent : Nat := 1
@[inherit_doc secIdent] def secPartition : Nat := 2
@[inherit_doc secIdent] def secQueue : Nat := 3
@[inherit_doc secIdent] def secRoute : Nat := 4
@[inherit_doc secIdent] def secSched : Nat := 5
@[inherit_doc secIdent] def secGranary : Nat := 6
@[inherit_doc secIdent] def secGroup : Nat := 7
@[inherit_doc secIdent] def secOrdinal : Nat := 8
@[inherit_doc secIdent] def secFlags : Nat := 9
@[inherit_doc secIdent] def secRecipe : Nat := 10
@[inherit_doc secIdent] def secTiming : Nat := 11
@[inherit_doc secIdent] def secLongevity : Nat := 12
@[inherit_doc secIdent] def secFault : Nat := 13
@[inherit_doc secIdent] def secRecorder : Nat := 14

/-- The body of the active section of a type; empty while no grist is active. -/
def State.sec_ (s : State) (ty : Nat) : Blob :=
  if s.grist.active then (Tab.get ⟨0, {}⟩ s.grist.sections ty).body else {}
/-- A field of an active section; 0 while no grist is active. -/
def State.field (s : State) (ty off n : Nat) : Nat := (s.sec_ ty).nat off n
/-- The node id of this IS960: IDENT's once a grist is active, else that of discovery (R31, R277). -/
def State.nodeId (s : State) : Nat := s.disc.node.getD 0xFFFF
/-- STRICT is set in the active IDENT (R99). -/
def State.strict (s : State) : Bool := bitOf (s.field secIdent 6 2) 0

/-! ## Tun bindings and owners (R62, R70) -/

/-- Offset of the record of tun `t` in PARTITION. -/
def partRec (t : Nat) : Nat := 264 * t
/-- The tun is forward-only under the active grist (R75). -/
def State.forwardOnly (s : State) (t : Nat) : Bool :=
  s.grist.active && s.field secPartition (partRec t) 1 == 1
/-- A binding of PARTITION, field by field (R62). -/
structure Binding where
  kind   : Nat := 0
  flagEn : Bool := false
  alt    : Bool := false
  flag   : Nat := 0
  far    : Nat := 0
  param  : Nat := 0
  deriving DecidableEq, Repr
/-- Binding `b` of a PARTITION body's tun `t`. -/
def bindingIn (p : Blob) (t b : Nat) : Binding :=
  let o := partRec t + 8 + 16 * b
  { kind := p.nat o 1, flagEn := bitOf (p.nat (o + 1) 1) 0, alt := bitOf (p.nat (o + 1) 1) 1,
    flag := p.nat (o + 2) 1, far := p.nat (o + 4) 4, param := p.nat (o + 8) 8 }
/-- The active binding of queue `q` (48 to 63) of tun `t`. -/
def State.binding (s : State) (t q : Nat) : Binding := bindingIn (s.sec_ secPartition) t (q - 48)
/-- The kinds into which the far end pushes (R54). -/
def Binding.inbound (b : Binding) : Bool := b.kind == 1 || b.kind == 3 || b.kind == 5
/-- The owner of flag `f` of tun `t`: kind and id (R70). -/
def State.flagOwner (s : State) (t f : Nat) : Nat × Nat :=
  let o := 8 + 4 * (256 * t + f)
  (s.field secFlags o 1, s.field secFlags (o + 2) 2)
/-- The kettle of a tun (R11). -/
def kettleOf (t : Nat) : Nat := t / 48

/-! ## HBM: map, lines and controllers -/

/-- The stack and stack-local address of a package address (R139); none beyond HBM (R141). -/
def mapAddr (mode a : Nat) : Option (Nat × Nat) :=
  if 0x18000000000 ≤ a then none
  else if mode % 2 == 0 then
    let k := a / 0x6000000000
    let o := a % 0x6000000000
    some (k * 4 + bitsOf o 13 12, bitsOf o 38 14 * 4096 + o % 4096)
  else some (bitsOf a 15 12, bitsOf a 40 16 * 4096 + a % 4096)
/-- The key of a byte in the HBM table: MODE moves no data, so contents are kept by
stack and stack-local address (R140). -/
def hbmKey (mode a : Nat) : Option Nat := (mapAddr mode a).map fun (n, l) => n * 0x1800000000 + l
/-- The stack that owns a package address. -/
def State.stackOf (s : State) (a : Nat) : Option Nat := (mapAddr s.hbmMode.toNat a).map (·.1)
/-- The key of a package address under the map in force. -/
def State.key (s : State) (a : Nat) : Option Nat := hbmKey s.hbmMode.toNat a
/-- What byte `k` of a memory reads as where nothing is listed: 0 where nothing has been
written (log entry 4), a free value after the proving run `fill` has overwritten it (R365). -/
def unlisted (fill k : Nat) : Byte := if fill == 0 then 0 else Config.fillByte fill k
/-- One byte of HBM at a package address. -/
def State.hbmByte (s : State) (a : Nat) : Byte :=
  match s.key a with | some k => Tab.get (unlisted s.hbmFill k) s.hbm k | none => 0
/-- `n` bytes of HBM from a package address. -/
def State.hbmBytes (s : State) (a n : Nat) : List Byte := (List.range n).map fun i => s.hbmByte (a + i)
/-- Write bytes of HBM at consecutive package addresses; addresses beyond HBM hold nothing. -/
def State.hbmPut (s : State) : Nat → List Byte → State
  | _, [] => s
  | a, b :: bs =>
    State.hbmPut
      (match s.key a with | some k => { s with hbm := Tab.set (unlisted s.hbmFill k) s.hbm k b } | none => s)
      (a + 1) bs
/-- The package HBM region `a .. a + n - 1` as a blob. -/
def State.hbmBlob (s : State) (a n : Nat) : Blob :=
  if s.hbmFill != 0 then Blob.ofList (s.hbmBytes a n) else
  { len := n
    bytes := (List.range (ceilDiv (a % 4096 + n) 4096)).foldr (fun i rest =>
      -- one 4 KiB page of the package lies in one stack at consecutive local addresses
      let page := (a / 4096 + i) * 4096
      match s.key page with
      | none => rest
      | some k => ((s.hbm.filter fun e => k ≤ e.1 && e.1 < k + 4096).filterMap fun e =>
          let p := page + (e.1 - k)
          if a ≤ p && p < a + n then some (p - a, e.2) else none) ++ rest) [] }

/-- Insert into a rising list. -/
def insNat (x : Nat) : List Nat → List Nat
  | [] => [x]
  | y :: ys => if x < y then x :: y :: ys else if x = y then y :: ys else y :: insNat x ys
/-- The line of a package address holds a poison mark (R425). -/
def State.poisonedAt (s : State) (a : Nat) : Bool :=
  match s.key a with | some k => s.poison.contains (k / 64) | none => false
/-- Set or clear the poison mark of the line of an address. -/
def State.setPoison (s : State) (a : Nat) (b : Bool) : State :=
  match s.key a with
  | none => s
  | some k =>
    if b then { s with poison := insNat (k / 64) s.poison }
    else { s with poison := s.poison.filter (· != k / 64) }
/-- The line addresses that a region touches. -/
def linesOf (a n : Nat) : List Nat :=
  if n == 0 then [] else (List.range ((a + n - 1) / 64 - a / 64 + 1)).map fun i => (a / 64 + i) * 64
/-- Some line of the region holds a poison mark. -/
def State.anyPoison (s : State) (a n : Nat) : Bool := (linesOf a n).any s.poisonedAt

/-- The controllers that own a region are ready; until then its accesses wait (R138, R392). -/
def State.hbmReady (s : State) (a n : Nat) : Bool :=
  (linesOf a n).all fun l => match s.stackOf l with | some k => (s.ctl k).phase == .ready | none => true

/-- HBM_ERR_CNT as a number. -/
def HbmCtl.errCnt (c : HbmCtl) : Nat :=
  c.cntUnc * 2 ^ 24 + c.cntPar * 2 ^ 16 + c.cntCtrl * 2 ^ 8 + c.cntOnDie
/-- HBM_ERR_INFO as a number. -/
def HbmCtl.errInfo (c : HbmCtl) : Nat :=
  b2n c.errValid * 2 ^ 31 + b2n c.errUsed * 2 ^ 30 + c.errSrc * 2 ^ 27 + c.errPc
/-- HBM_STATUS.STATE as a number. -/
def HbmPhase.num : HbmPhase → Nat
  | .off => 0 | .training => 1 | .ready => 2 | .selfRefresh => 3 | .failed => 4

/-- The outcome leaves the data uncorrected (R143). -/
def eccBad : EccOutcome → Bool
  | .uncorrectable => true | .parityFailed => true | _ => false
/-- What becomes of the data of a read (R144). -/
inductive Use where
  | used       -- a unit uses it
  | unused     -- no unit does
  | undecided  -- a stream's: used when the entry becomes visible, unused when it is discarded
  deriving DecidableEq, Repr
/-- Uncorrected data has been used: source 1 of controller `n`, and CONSUMED when the burst at
`l` is the one latched (R144). -/
def State.burstUsed (s : State) (n l : Nat) : State :=
  let s := s.modCtl n fun c =>
    if c.errValid && c.errAddr.toNat == l then { c with errUsed := true } else c
  s.raise (srcHbm n 1) (s.ctl n).errInfo
/-- Uncorrected data has been discarded unused: latent, source 2 of controller `n` (R144). -/
def State.burstLatent (s : State) (n : Nat) : State :=
  let s := s.modHealth fun h => { h with hbmLatent := h.hbmLatent + 1 }
  s.raise (srcHbm n 2) (s.ctl n).errInfo
/-- The class of uncorrected data of controller `n` is settled where its use is known. -/
def State.burstClass (s : State) (n : Nat) : Use → State
  | .used => s.raise (srcHbm n 1) (s.ctl n).errInfo
  | .unused => s.burstLatent n
  | .undecided => s
/-- What controller `n` counts, latches and raises for the burst at its local address `l`
that a read finds (R143, R144). `src` is the SOURCE of HBM_ERR_INFO. A failed parity retry
counts in PARITY and latches nothing: R143 latches a burst that the code cannot correct. -/
def State.eccAt (s : State) (n l : Nat) (o : EccOutcome) (src : Nat) (use : Use) : State :=
  match o with
  | .clean => s
  | .onDie =>
    let s := s.modCtl n fun c => { c with cntOnDie := satInc 8 c.cntOnDie }
    s.raise (srcHbm n 0) (s.ctl n).errCnt
  | .symbol =>
    let s := s.modCtl n fun c => { c with cntCtrl := satInc 8 c.cntCtrl }
    let s := s.modHealth fun h => { h with hbmCorr := h.hbmCorr + 1 }
    s.raise (srcHbm n 0) (s.ctl n).errCnt
  | .parityRetried =>
    let s := s.modCtl n fun c => { c with cntPar := satInc 8 c.cntPar }
    s.raise (srcHbm n 0) (s.ctl n).errCnt
  | .parityFailed => (s.modCtl n fun c => { c with cntPar := satInc 8 c.cntPar }).burstClass n use
  | .uncorrectable =>
    let s := s.modCtl n fun c =>
      let c := { c with cntUnc := satInc 8 c.cntUnc }
      if c.errValid then c else
        { c with errValid := true, errUsed := use == .used, errSrc := src, errPc := bitsOf l 12 8,
                 errAddr := BitVec.ofNat 64 (l / 32 * 32) }
    s.burstClass n use

/-- Findings from number `k` on, counted from there: those of a later part of an access. -/
def eccFrom (e : Ecc) (k : Nat) : Ecc := e.filterMap fun x => if k ≤ x.1 then some (x.1 - k, x.2) else none
/-- The package address of burst `i` of an access at `a`. -/
def burstAddr (a i : Nat) : Nat := a / 64 * 64 + 32 * i
/-- The first address beyond package HBM (R141). -/
def hbmTop : Nat := 0x18000000000
/-- Every controller that owns part of a region is ready: the region's first and last 16 pages of
4 KiB, and in each kettle one page of each stack, where they lie in it (R139). -/
def State.regionReady (s : State) (a n : Nat) : Bool :=
  let ends := (List.range 16).flatMap fun i => [a + 4096 * i, a + n - 1 - 4096 * i]
  let kettles := (List.range 16).map fun i => i / 4 * 0x6000000000 + i % 4 * 4096
  (ends ++ kettles).all fun x => !(a ≤ x && x < a + n) || s.hbmReady x 1
/-- Burst `i` lies in a line that the access of `n` bytes at `a` touches. -/
def inAccess (a n i : Nat) : Bool := i < 2 * (linesOf a n).length
/-- The findings of a read of `n` bytes at `a` (R143, R144). -/
def State.eccRead (s : State) (a n : Nat) (e : Ecc) (src : Nat) (use : Use) : State :=
  e.foldl (fun s x =>
    if !inAccess a n x.1 then s else
    match mapAddr s.hbmMode.toNat (burstAddr a x.1) with
    | none => s
    | some (c, l) => s.eccAt c l x.2 src use) s
/-- The first burst of an access that is uncorrected, by its number. -/
def firstBad (e : Ecc) (a n : Nat) : Option Nat :=
  ((e.filter fun x => eccBad x.2 && inAccess a n x.1).map (·.1)).min?
/-- What a read of `n` bytes at `a` returns its data as (R144, R425). -/
def State.taintOf (s : State) (a n : Nat) (e : Ecc) : Taint :=
  match firstBad e a n with
  | some i =>
    match mapAddr s.hbmMode.toNat (burstAddr a i) with
    | some (c, l) => .burst c (l / 32 * 32)
    | none => .bad
  | none => if s.anyPoison a n then .bad else .good
/-- Read `n` bytes at a package address through the controllers. Answers the bytes and
whether they are uncorrected. -/
def State.ctlRead (s : State) (a n : Nat) (e : Ecc) (src : Nat) (use : Use) :
    State × List Byte × Bool :=
  (s.eccRead a n e src use, s.hbmBytes a n, s.anyPoison a n || (firstBad e a n).isSome)
/-- Data of this kind reaches the place where it would be used (R144). -/
def State.useTaint (s : State) : Taint → State
  | .burst n l => s.burstUsed n l
  | _ => s
/-- Data that no unit has used is discarded (R144). -/
def State.dropTaint (s : State) : Taint → State
  | .burst n _ => s.burstLatent n
  | _ => s
/-- The entries in the far halves of tun `t` are discarded: what no unit used is latent (R144). -/
def State.dropFar (s : State) (t : Nat) : State :=
  (((s.tun t).queues.flatMap fun e => e.2.far.map (·.2)).eraseDups).foldl State.dropTaint s

/-- The byte range of a stream's latched pattern (R147, R152); none when it moves nothing. -/
def Stream.range (st : Stream) : Option (Nat × Nat) :=
  let w (i : Nat) : Nat := (st.words.getD i 0).toNat
  let form := bitsOf (w 0) 3 2
  let levels := bitsOf (w 0) 7 6
  let cnt (l : Nat) : Nat := if l < levels then w (2 + l) % 2 ^ 24 else 1
  if form != 0 then some (st.base, st.base + cnt 0 * 4160 - 1) else
  let i0 := ofTwos 32 (w 5)
  let i1 := ofTwos 32 (w 6)
  let i2 : Int := cnt 1 * i1
  let span (c : Nat) (i : Int) : Int := ((c : Int) - 1) * i
  let lo := min 0 (span (cnt 0) i0) + min 0 (span (cnt 1) i1) + min 0 (span (cnt 2) i2)
  let hi := max 0 (span (cnt 0) i0) + max 0 (span (cnt 1) i1) + max 0 (span (cnt 2) i2)
  some (((st.base : Int) + lo).toNat, ((st.base : Int) + hi).toNat + 63)

/-- The stream runs ahead over this package's HBM (R152). -/
def Stream.runsAheadHere (st : Stream) : Bool :=
  st.active && !st.write && bitsOf (st.words.getD 7 0).toNat 31 27 != 0
    && (st.words.getD 1 0).toNat % 2 ^ 16 == 0xFFFF

/-- The streams whose run-ahead range a controller's write matches (R152). -/
def State.runAheadHits (s : State) (a n : Nat) : List Nat :=
  (s.streams.filter fun (_, st) =>
    st.runsAheadHere &&
      match st.range with
      | some (lo, hi) => lo < a + n && a ≤ hi
      | none => false).map (·.1)

end Sys2Proof.Machine
end

