-- ==== Sys2Proof/Machine/Params.lean ====
section
/-! DEFINITION. Machine/Params.lean: values in force that come from the active grist,
with the substitutions of each section's chapter, and the places of nodes. -/
namespace Sys2Proof.Machine

/-- A field, with the value that 0 selects. -/
def orDefault (x d : Nat) : Nat := if x == 0 then d else x

/-! ## TIMING (R309, R310, R126) -/

/-- The nominal clock of island `i` in MHz (R16, R310). -/
def nominalMhz (i : Nat) : Nat :=
  if i < 192 then 3600 else if i < 208 then 1600 else if i < 224 then 2000
  else if i == 224 then 4000 else if i < 239 then 1750 else if i < 241 then 1000
  else if i < 245 then 2400 else if i < 249 then 2000 else if i == 249 then 1000
  else if i == 250 then 500 else if i < 259 then 200 else 0
/-- MHZ_i in force. -/
def State.mhz (s : State) (i : Nat) : Nat :=
  orDefault (s.field secTiming (0x10 + 2 * i) 2) (nominalMhz i)
/-- REPRO. -/
def State.repro (s : State) : Bool := bitOf (s.field secTiming 0 1) 0
/-- SPARSE_MODE in force; 3 acts as 0 when the choice is made (R125). -/
def State.sparseMode (s : State) : Nat := s.field secTiming 1 1 % 4
/-- SPARSE_THR in force (R126). -/
def State.sparseThr (s : State) : Nat := min 1000 (orDefault (s.field secTiming 2 2) 400)
/-- SPARGE_HOURS in force. -/
def State.spargeHours (s : State) : Nat := orDefault (s.field secTiming 4 2) 24
/-- CELLAR_SLOTS in force. -/
def State.cellarSlots (s : State) : Nat := orDefault (s.field secTiming 6 1) 4
/-- CAL_MS in force. -/
def State.calMs (s : State) : Nat := orDefault (s.field secTiming 8 4) 1000

/-- LONGEVITY bit 0 is in force (R387). -/
def State.replan (s : State) : Bool := bitOf (s.field secLongevity 0 4) 0

/-! ## FLAGS, FAULT -/

/-- The flag-wait stall limit in ticks (R70). -/
def State.stallTicks (s : State) : Nat := orDefault (s.field secFlags 0 4) 100000 * 4000
/-- COL_STALL_MS in force, in ticks (R349). -/
def State.colStallTicks (s : State) : Nat := orDefault (s.field secFault 0 4) 1000 * 4000000
/-- DECAY in force (R349). -/
def State.decay (s : State) : Nat := orDefault (s.field secFault 4 1) 12
/-- WATCH, LOW and HYST in force (R349). -/
def State.watch (s : State) : Nat := orDefault (s.field secFault 6 2) 768
@[inherit_doc State.watch] def State.low (s : State) : Nat := orDefault (s.field secFault 8 2) 512
@[inherit_doc State.watch] def State.hyst (s : State) : Nat := orDefault (s.field secFault 10 2) 64
/-- HOLD_HOURS in force (R349). -/
def State.holdHours (s : State) : Nat := orDefault (s.field secFault 12 2) 168
/-- The class of a source (R347): 0 corrected, 1 contained, 2 fatal, 3 reserved. -/
def srcClass (n : Nat) : Nat :=
  if n < 1536 then (if n % 8 == 7 then 0 else 1)
  else if n < 1600 then (match (n - 1536) % 4 with | 1 => 1 | 3 => 2 | _ => 0)
  else if n < 1684 then (match (n - 1600) % 6 with | 1 => 1 | 2 => 1 | 4 => 1 | _ => 0)
  else if n < 1748 then 1
  else if n < 1760 then (if (n - 1748) % 3 == 0 then 0 else 1)
  else match n with
    | 1760 => 1 | 1761 => 1 | 1762 => 1 | 1763 => 1 | 1764 => 1 | 1765 => 1 | 1766 => 0
    | 1767 => 1 | 1768 => 2 | 1769 => 0 | 1770 => 0 | 1771 => 1 | 1772 => 1 | 1773 => 0
    | 1774 => 0 | 1775 => 2 | 1776 => 0 | 1777 => 2 | 1778 => 0 | 1779 => 0 | 1780 => 1
    | 1781 => 2 | 1782 => 1 | 1783 => 0 | 1784 => 1 | 1785 => 1 | 1786 => 1 | 1787 => 0
    | _ => 3
/-- The default action byte of a source (R347). -/
def defaultAction (n : Nat) : Nat :=
  if srcClass n != 1 then 0
  else if n < 1600 then 3
  else if n < 1748 then 1
  else if n < 1760 then (if (n - 1748) % 3 == 1 then 3 else 1)
  else if n == 1784 then 3 else 1
/-- The action byte in force of a source (R348, R349). -/
def State.action (s : State) (n : Nat) : Nat :=
  if s.grist.active then s.field secFault (0x10 + n) 1 else defaultAction n
/-- The group of a source (R346). -/
def srcGroup (n : Nat) : Nat :=
  if n < 1536 then n / 8 else if n < 1600 then 192 + (n - 1536) / 4
  else if n < 1684 then 208 + (n - 1600) / 6 else if n < 1748 then 222 + (n - 1684) / 2
  else if n < 1760 then 254 + (n - 1748) / 3 else 258

/-! ## Places (R272, R279) -/

/-- Coordinate of a node id on axis `a` (R268). -/
def coordOf (n a : Nat) : Nat := n / 32 ^ a % 32
/-- The node id of coordinates. -/
def nodeAt (x y z : Nat) : Nat := x + 32 * y + 1024 * z
/-- Axis `a` of a triple. -/
def axis (p : Nat × Nat × Nat) (a : Nat) : Nat :=
  match a with | 0 => p.1 | 1 => p.2.1 | _ => p.2.2
/-- ORIGIN and EXTENT of a block, from an IDENT body. -/
def identOrigin (i : Blob) (a : Nat) : Nat := i.nat (8 + 2 * a) 2
@[inherit_doc identOrigin] def identExtent (i : Blob) (a : Nat) : Nat := i.nat (0x0E + 2 * a) 2
/-- WRAP of an axis, from an IDENT body. -/
def identWrap (i : Blob) (a : Nat) : Bool := bitOf (i.nat 0x14 2) a
/-- The block index of a coordinate (R279); an open axis is taken modulo 32. -/
def blockIdx (ring origin c : Nat) : Nat :=
  let m := orDefault ring 32
  (c + m * 32 - origin) % m
/-- The block index of node `n` on axis `a` under an IDENT body. -/
def idxIn (rings : Nat × Nat × Nat) (i : Blob) (n a : Nat) : Nat :=
  blockIdx (axis rings a) (identOrigin i a) (coordOf n a)
/-- The block index under the active IDENT (R279). -/
def State.idx (s : State) (n a : Nat) : Nat := idxIn s.disc.ring (s.sec_ secIdent) n a
/-- The block position (R317). -/
def State.blockPos (s : State) : Nat :=
  s.idx s.nodeId 0 + 32 * s.idx s.nodeId 1 + 1024 * s.idx s.nodeId 2
/-- The node whose block indices are given (R280). -/
def State.nodeOfIdx (s : State) (x y z : Nat) : Nat :=
  let i := s.sec_ secIdent
  let c (a v : Nat) : Nat := (identOrigin i a + v) % orDefault (axis s.disc.ring a) 32
  nodeAt (c 0 x) (c 1 y) (c 2 z)
/-- Node `n` lies in the block of an IDENT body (R272). -/
def inBlock (rings : Nat × Nat × Nat) (i : Blob) (n : Nat) : Bool :=
  n < 32768 && [0, 1, 2].all fun a => idxIn rings i n a < identExtent i a
    && (axis rings a != 0 || identOrigin i a ≤ coordOf n a)
    && (axis rings a == 0 || coordOf n a < axis rings a)
/-- The nodes of the block, lowest id first. -/
def blockNodes (rings : Nat × Nat × Nat) (i : Blob) : List Nat :=
  let c (a v : Nat) : Nat := (identOrigin i a + v) % orDefault (axis rings a) 32
  let xs (a : Nat) : List Nat := (List.range (identExtent i a)).map (c a)
  ((xs 2).flatMap fun z => (xs 1).flatMap fun y => (xs 0).map fun x => nodeAt x y z).foldr insNat []
/-- PG_LIST is set in an IDENT body. -/
def identPgList (i : Blob) : Bool := bitOf (i.nat 6 2) 1
/-- The pitch group of an IDENT body, lowest id first (R31). -/
def pitchGroup (rings : Nat × Nat × Nat) (i : Blob) : List Nat :=
  if identPgList i then (List.range (i.nat 0x16 2)).map fun k => i.nat (0x18 + 2 * k) 2
  else blockNodes rings i
/-- The rank of a node in a ROUTE body; 0xFFFF absent. -/
def rankIn (r : Blob) (n : Nat) : Nat := r.nat (0x20 + 2 * (n % 32768)) 2
/-- The rank of a node under the active ROUTE. -/
def State.rank (s : State) (n : Nat) : Nat := rankIn (s.sec_ secRoute) n
/-- Node `n` is present in the active rank table. -/
def State.present (s : State) (n : Nat) : Bool := n < 32768 && s.rank n != 0xFFFF

end Sys2Proof.Machine
end

