-- ==== Sys2Proof/Machine/GranaryOps.lean ====
section
/-! DEFINITION. Machine/GranaryOps.lean: the granary's counts, the admission rule of
R185, releases (R188) and reply reservations (R190, R191). -/
namespace Sys2Proof.Machine

/-- Cells of the pool. -/
def poolCells : Nat := 524288
/-- The owner index of the reply reserve. -/
def ownReply : Nat := 1280
/-- The owner exists (R183). -/
def ownerExists (o : Nat) : Bool := if o < 256 then o % 8 < 5 else o ≤ 1280
/-- MIN of owner `o` in force (R193). -/
def State.ownMin (s : State) (o : Nat) : Nat :=
  if s.grist.active then s.field secGranary (8 + 8 * o) 4 % 2 ^ 20 else 0
/-- LIMIT of owner `o` in force. -/
def State.ownLimit (s : State) (o : Nat) : Nat :=
  if !ownerExists o then 0
  else if s.grist.active then min poolCells (s.field secGranary (0x0C + 8 * o) 4 % 2 ^ 20) else poolCells
/-- BE of owner `o` as the grist gives it. -/
def State.ownBe (s : State) (o : Nat) : Bool := bitOf (s.field secGranary (0x0C + 8 * o) 4) 31
/-- BE as R187 applies it: only port-and-class owners of classes 0 to 2. -/
def State.bestEffort (s : State) (o : Nat) : Bool := o < 256 && o % 8 < 3 && s.ownBe o
/-- WARN1 and WARN2 in force. -/
def State.warn1 (s : State) : Nat :=
  if s.grist.active then s.field secGranary 0 4 % 2 ^ 20 else 65536
@[inherit_doc State.warn1] def State.warn2 (s : State) : Nat :=
  if s.grist.active then s.field secGranary 4 4 % 2 ^ 20 else 4096
/-- The sum of MIN over every owner of a GRANARY body. -/
def sumMin (g : Blob) : Nat := (List.range 1281).foldl (fun t o => t + g.nat (8 + 8 * o) 4 % 2 ^ 20) 0
/-- S, the cells of the shared part. -/
def State.shared (s : State) : Int :=
  if s.grist.active then (poolCells : Int) - sumMin (s.sec_ secGranary) else poolCells
/-- USED of an owner. -/
def State.used (s : State) (o : Nat) : Nat := Tab.get 0 s.granary.used o
/-- The VC shares of class `c` (R288). -/
def vcShares (c : Nat) : Nat := match c with | 0 => 4 | 1 => 4 | 2 => 2 | _ => 1
/-- The share of one VC of a link port's owner (R288); none for other owners. -/
def State.shareOf (s : State) (o : Nat) : Option Nat :=
  if o < 112 && o % 8 < 5 then some (s.ownMin o / vcShares (o % 8)) else none
/-- USED of a link port's owner on VC `v`. -/
def State.usedOn (s : State) (o v : Nat) : Nat := Tab.get 0 s.granary.usedVc (o * 12 + v)
/-- The shared cells that an owner of share `k` uses over its twelve VCs. -/
def State.overShares (s : State) (o k : Nat) : Nat :=
  (List.range 12).foldl (fun t v => t + (s.usedOn o v - k)) 0
/-- The shared cells that an owner uses: above its minimum, or above its shares (R288). -/
def State.excess (s : State) (o : Nat) : Nat :=
  match s.shareOf o with
  | some k => s.overShares o k
  | none => s.used o - s.ownMin o
/-- FREE (R185), signed. -/
def State.freeCells (s : State) : Int :=
  s.granary.used.foldl (fun t e => t - (s.excess e.1 : Int)) s.shared
/-- The LEVEL that the counts give (R187). -/
def State.level (s : State) : Nat :=
  if s.freeCells ≤ s.warn2 then 2 else if s.freeCells ≤ s.warn1 then 1 else 0
/-- A core cycle ends: LEVEL is updated, and a rise sets W1_SEEN or W2_SEEN (R186, R187). -/
def State.seeLevel (s : State) : State :=
  let l := s.level
  s.modGranary fun g =>
    { g with lev := l, w1seen := g.w1seen || (g.lev < l && 1 ≤ l), w2seen := g.w2seen || (g.lev < l && l == 2) }

/-- What R185 answers for a request of cells. -/
inductive Admit where
  | wait
  | waitPhys
  | yes
  deriving DecidableEq, Repr

/-- The admission test of R185 for `n` cells of owner `o` on VC `v`; R288 at link ports. -/
def State.admitTest (s : State) (o v n : Nat) : Admit :=
  let r := match s.shareOf o with
    | some k => min n (k - s.usedOn o v)
    | none => min n (s.ownMin o - s.used o)
  let overLimit : Bool := match s.shareOf o with
    | some k => ((s.ownLimit o : Int) - s.ownMin o) < ((s.overShares o k + (n - r) : Nat) : Int)
    | none => s.ownLimit o < s.used o + n
  let gate : Int := if s.bestEffort o then s.warn1 else s.warn2
  if overLimit then .wait
  else if r < n && s.freeCells ≤ gate then .wait
  else if s.granary.phys < n then .waitPhys
  else .yes
/-- Charge `n` cells to owner `o` on VC `v`. -/
def State.charge (s : State) (o v n : Nat) : State :=
  s.modGranary fun g =>
    let u := Tab.get 0 g.used o + n
    { g with used := Tab.set 0 g.used o u, phys := g.phys - n,
             usedVc := if o < 112 then Tab.mod 0 g.usedVc (o * 12 + v) (· + n) else g.usedVc,
             high := Tab.mod 0 g.high o (max u) }
/-- Try to take `n` cells for owner `o` (R185): the state after and whether they were taken. -/
def State.takeCells (s : State) (o v n : Nat) : State × Bool :=
  match s.admitTest o v n with
  | .wait => (s, false)
  | .waitPhys => (s.modGranary fun g => { g with minWait := true }, false)
  | .yes => (s.charge o v n, true)
/-- Return `n` cells of owner `o` on VC `v` (R188). -/
def State.giveCells (s : State) (o v n : Nat) : State :=
  s.modGranary fun g =>
    { g with used := Tab.mod 0 g.used o (fun u => u - n), phys := g.phys + n,
             usedVc := if o < 112 then Tab.mod 0 g.usedVc (o * 12 + v) (· - n) else g.usedVc }

/-- The cells of a frame with a payload of `len` bytes (R161). -/
def cellsOf (len : Nat) : Nat := ceilDiv (40 + len) 256

/-- The reservation of a tag. -/
def State.resv (s : State) (tag : Nat) : Option Reservation :=
  (s.granary.resv.find? fun e => e.1 == tag).map (·.2)
/-- Change a reservation. -/
def State.modResv (s : State) (tag : Nat) (f : Reservation → Reservation) : State :=
  s.modGranary fun g => { g with resv := g.resv.map fun e => if e.1 == tag then (tag, f e.2) else e }
/-- The lowest tag that names no reservation and is not in quarantine (R190, R289). -/
def State.freeTag (s : State) : Option Nat :=
  if 16384 ≤ s.granary.resv.length then none else
  (List.range (s.granary.resv.length + s.granary.quarantine.length + 1)).find? fun t =>
    t < 16384 && (s.resv t).isNone &&
      Tab.get 0 s.granary.quarantine t ≤ s.now
/-- Return a reservation with its cells to the reply reserve (R191). -/
def State.dropResv (s : State) (tag : Nat) : State :=
  match s.resv tag with
  | none => s
  | some r =>
    (s.modGranary fun g => { g with resv := g.resv.filter fun e => e.1 != tag }).giveCells ownReply 0 r.cells

end Sys2Proof.Machine
end

