-- ==== Sys2Proof/Machine/Clock.lean ====
section
/-! DEFINITION. Machine/Clock.lean: time passing: core cycles, what each of them adds
to the token buckets (R195) and the stall counts (R295), and letting the FTC reach a
count. With them stands what decides whether an egress can send: fences (R273,
R274), credits (R286, R287) and cells (R169, R170). -/
namespace Sys2Proof.Machine

/-! ## Link ports -/

/-- LNK_FENCE of port `p` (R274). -/
def Link.fenceReg (l : Link) (p : Nat) : Nat :=
  b2n l.pending + 2 * b2n l.boundary + 4 * b2n (6 ≤ p && p < 14) + 8 * b2n l.v2 + 16 * b2n l.uncertain
    + 32 * b2n l.miswire + 64 * b2n l.plan
/-- MLT_PORT_CFG.FENCED of port `p` (R273). -/
def State.fenced (s : State) (p : Nat) : Bool := p < 14 && (s.link p).fenceReg p != 0
/-- The port carries frames. -/
def State.linkUp (s : State) (p : Nat) : Bool := (s.link p).phase == .up
/-- The trained lanes of a port, lowest first. -/
def Link.trainedLanes (l : Link) : List Nat := (List.range 16).filter fun i => bitOf l.trained.toNat i
/-- Cells of the receive FIFO of VC `v` at port `p` (R285). -/
def fifoCells (p v : Nat) : Nat := if p < 6 then 1024 else if 10 ≤ v then 1536 else 0
/-- Credit toward the far side for VC `v` (R286). -/
def Link.credit (l : Link) (v : Nat) : Nat := (Tab.get 0 l.freedFar v + 65536 - Tab.get 0 l.sent v) % 65536
/-- Flits of the replay buffer of one lane (R261). -/
def replayCap (p : Nat) : Nat := if p < 6 then 256 else 2304
/-- Lane `i` of a link. -/
def Link.lane (l : Link) (i : Nat) : Lane := Tab.get {} l.lanes i
/-- The trained lane on which the next data flit goes (R258). -/
def Link.txLane (l : Link) : Nat := l.trainedLanes.getD (l.txNext % max 1 l.trainedLanes.length) 0
/-- The next slot is no control flit's (R259, R286). -/
def Link.slotOpen (l : Link) : Bool := l.sinceCtl < 255 && l.sinceCred < 1023
/-- The lane of the next data flit can send it: it holds fewer flits than its replay buffer (R261). -/
def Link.takesFlit (l : Link) (p : Nat) : Bool :=
  !l.trainedLanes.isEmpty && (l.lane l.txLane).replay.length < replayCap p && l.slotOpen
/-- The VC of a flit (R257). -/
def flitVc (f : List Byte) : Nat := byteAt f 61 / 16
/-- A data flit may leave port `p`: a fenced one sends none on VC0 to VC9 (R273). -/
def Link.mayGo (l : Link) (p : Nat) (flit : List Byte) : Bool := l.fenceReg p == 0 || 10 ≤ flitVc flit
/-- The lanes can take one more cell: no flit made before it waits for a slot (R194). -/
def Link.takesCell (l : Link) (p : Nat) : Bool := l.reTx.isEmpty && !l.txWait.any (l.mayGo p) && l.takesFlit p
/-- Flits that wait for a slot. -/
def Link.waiting (l : Link) : Nat := l.reTx.length + l.txWait.length
/-- The codeword header of the next flit of lane `i`: its number, and its codeword count, which rises
by one with every ten flits (R256). DESIGN CHOICE (log entry 95): idle flits are not counted. -/
def Link.slotHeader (l : Link) (i : Nat) : Nat := i * 2 ^ 16 + (l.lane i).txSlots / 10 % 2 ^ 16
/-- A flit goes out in the next slot of lane `i`. -/
def State.sendSlot (s : State) (p i : Nat) (flit : Nat → Output) : State :=
  (s.modLink p fun l => { l with lanes := Tab.mod {} l.lanes i fun x => { x with txSlots := x.txSlots + 1 } }).emit
    (flit ((s.link p).slotHeader i))

/-! ## Frames -/

/-- Frame `id` in the core. -/
def State.frame? (s : State) (id : Nat) : Option Frame := s.core.frames.find? fun f => f.id == id
/-- Change frame `id`. -/
def State.modFrame (s : State) (id : Nat) (f : Frame → Frame) : State :=
  s.modCore fun c => { c with frames := c.frames.map fun x => if x.id == id then f x else x }
/-- Replace element `i` of a list by its image. -/
def modAt {α : Type} (f : α → α) : Nat → List α → List α
  | _, [] => []
  | 0, x :: xs => f x :: xs
  | n + 1, x :: xs => x :: modAt f n xs
/-- Change copy `j` of frame `id`. -/
def State.modCopy (s : State) (id j : Nat) (f : Copy → Copy) : State :=
  s.modFrame id fun x => { x with copies := modAt f j x.copies }
/-- The descriptors that egress `p` holds for VC `v`, in the order they were released. -/
def State.egressQ (s : State) (p v : Nat) : List Desc := Tab.get [] s.core.egress (p * 12 + v)
/-- A cell that holds a byte of its frame's tail is sent after the check (R161, R169). -/
def State.descSendable (s : State) (d : Desc) : Bool :=
  match s.frame? d.frame with
  | none => false
  | some f => d.cell < (32 + f.hdr.length.toNat) / 256 || f.tailSeen
/-- Copy `c` of a frame of `n` cells is in progress on VC `v` of egress `p`: its first cell has
left and its last has not. -/
def Copy.inProgress (c : Copy) (n p v : Nat) : Bool :=
  c.egress == p && c.hdr.vc.toNat == v && 0 < c.out && c.out < n && !c.finished
/-- The frame and copy in progress on VC `v` of egress `p` (R170). -/
def State.sending (s : State) (p v : Nat) : Option (Nat × Nat) :=
  s.core.frames.findSome? fun f =>
    (f.copies.findIdx? fun c => c.inProgress f.cells p v).map fun j => (f.id, j)
/-- The descriptor that VC `v` of egress `p` sends next: the next of the frame in progress,
else the first that was released, which begins a frame (R170, R172). -/
def State.egressHead (s : State) (p v : Nat) : Option Desc :=
  match s.sending p v with
  | some (k, j) => (s.egressQ p v).find? fun d => d.frame == k && d.copy == j
  | none => (s.egressQ p v).head?

/-- Cells of a frame as link port `p` sends it: at ALP v2 at most 2,048 payload bytes (R265). -/
def State.cellsOn (s : State) (p : Nat) (f : Frame) : Nat :=
  if p < 14 && (s.link p).version == 2 then min f.cells 9 else f.cells
/-- Why a VC of an egress does not send at a slot. -/
inductive EgressSt where
  | empty
  | fence
  | credit
  | busy
  | ready
  deriving DecidableEq, Repr

/-- VC `v` of egress `p` at a slot (R170, R194, R273, R287). -/
def State.egressSt (s : State) (p v : Nat) : EgressSt :=
  if (s.egressQ p v).isEmpty then .empty else
  match s.egressHead p v with
  | none => .busy
  | some d =>
    if p < 14 && v < 10 && s.fenced p then .fence
    else if !s.descSendable d then .busy
    else if p < 14 && (s.link p).version == 2 && !((s.frame? d.frame).map (·.tailSeen)).getD true then .busy
    else if p < 14 && (!s.linkUp p || !(s.link p).takesCell p) then .busy
    else if p < 14 && d.cell == 0
        && (s.link p).credit v < ((s.frame? d.frame).map (s.cellsOn p)).getD 0 then .credit
    else .ready
/-- The twelve VCs. -/
def vcList : List Nat := List.range 12
/-- A staging cell of ingress `p` waits (R184). -/
def State.stagingWaits (s : State) (p : Nat) : Bool := s.core.frames.any fun f => f.port == p && !f.admitted

/-! ## Token buckets -/

/-- RATE of bucket `b` in force (R196). -/
def State.rate (s : State) (b : Nat) : Nat := min 1600000 (s.field secSched (0x180 + 8 * b) 4 % 2 ^ 21)
/-- BURST of bucket `b` in force (R196). -/
def State.burst (s : State) (b : Nat) : Nat :=
  min 4096 (orDefault (s.field secSched (0x184 + 8 * b) 4 % 2 ^ 13) 17)
/-- The largest level of bucket `b`, in 1/2,000 byte. -/
def State.bucketCap (s : State) (b : Nat) : Int := s.burst b * 512000
/-- The level of bucket `b`. -/
def State.bucketLevel (s : State) (b : Nat) : Int := Tab.get 0 s.granary.level b
/-- The buckets that have a rate. -/
def State.liveBuckets (s : State) : List Nat :=
  if s.grist.active then (List.range 261).filter fun b => s.rate b != 0 else []

/-! ## Clocks (R17, R380, R420) -/

/-- RATE and CAP_W of PWR_GUARD in force; values outside act as the nearer end. -/
def Power.guardRate (p : Power) : Nat := clampNat 8 63 (bitsOf p.guard.toNat 21 16)
@[inherit_doc Power.guardRate] def Power.capW (p : Power) : Nat := clampNat 1000 3200 (p.guard.toNat % 65536)
/-- The guard clamp applies (R379, R381). -/
def Power.guardOn (p : Power) : Bool :=
  (p.guardSup && bitOf p.guard.toNat 31) || (p.guardCap && bitOf p.guard.toNat 30)
/-- The clamp rate in force: the least of those requested (R380). -/
def Power.rate (p : Power) : Nat :=
  Nat.min p.therm (Nat.min (if p.guardOn then p.guardRate else 64) (if p.safety.isSome then 32 else 64))
/-- Units of reference time in one nominal tick: a rate of 1/25,600 tick per 4,000,000
ticks, the servo's smallest (R305), is one of them per tick. -/
def oscUnit : Nat := 102400000000
/-- Reference time that passes in one tick of the FTC, at the rate that the servo gives it. -/
def State.oscStep (s : State) : Nat := ((oscUnit : Int) - s.time.adj).toNat
/-- The clocks `dt` ticks later. -/
def State.clockAfter (s : State) (dt : Nat) : Clocks :=
  let d := dt * s.oscStep
  { tun := s.clk.tun + d * s.power.rate, core := s.clk.core + d * s.mhz 220, ticks := s.clk.ticks + dt }
/-- One cycle of the Maltings core island in units of its clock. -/
def coreUnit : Nat := 4000 * oscUnit
/-- The present core cycle: the edges that have passed. -/
def State.coreNow (s : State) : Nat := s.clk.core / coreUnit
/-- The FTC count by which core cycle `c` has begun. -/
def State.coreFtc (s : State) (c : Nat) : Nat :=
  s.time.ftc + ceilDiv (c * coreUnit - s.clk.core) (s.oscStep * s.mhz 220)
/-- The core island's edges take a phase that is not defined (R420): a free value. -/
def State.corePhase (s : State) : State :=
  { s with clk := { s.clk with core := s.clk.core / coreUnit * coreUnit + s.freeNat % coreUnit } }.useFree

/-! ## Core cycles -/

/-- Add to word `w` of MLT_TEL of port `p`, saturating (R295). -/
def Core.tel_ (c : Core) (p w n : Nat) : Core :=
  { c with tel := Tab.mod 0 c.tel (p * 8 + w) fun x => min (x + n) (2 ^ 32 - 1) }
/-- `n` core cycles pass with the state as it is (R186, R195, R295). -/
def State.passCycles (s : State) (n : Nat) : State :=
  if n == 0 then s else
  let s := s.seeLevel
  let s := s.liveBuckets.foldl (fun s b =>
    s.modGranary fun g => { g with level := Tab.set 0 g.level b (min (s.bucketLevel b + n * s.rate b) (s.bucketCap b)) }) s
  if s.core.frames.isEmpty then s else
  (List.range 32).foldl (fun s p =>
    let st := vcList.map (s.egressSt p)
    let s := if st.contains .fence then s.modCore (·.tel_ p 7 n) else s
    let s := if p < 14 && st.contains .credit && !st.contains .ready then s.modCore (·.tel_ p 2 n) else s
    if s.stagingWaits p then s.modCore (·.tel_ p 3 n) else s) s
/-- A command fixed to an FTC count happens at that count: the ticks up to it have
passed (log entry 2). -/
def State.reach (s : State) (due : Nat) : State :=
  if due ≤ s.time.ftc then s else
  let clk := s.clockAfter (due - s.time.ftc)
  let s := if s.alive then s.passCycles (clk.core / coreUnit - s.coreNow) else s
  { s with time := { s.time with ftc := due }, clk := clk }

/-- An interval that ends when `due` ticks have passed ends. -/
def State.after (s : State) (due : Nat) : State := s.reach (s.time.ftc + (due - s.now))
/-- What is due `ticks` after `last`, such as the next move of a loop that holds its value for a
minimum dwell (R385), happens then; 0 stands for no earlier one. -/
def State.dwell (s : State) (last ticks : Nat) : State := if last == 0 then s else s.after (last + ticks)
/-- The granary's order within a core cycle (R186): an act that stands before the last one of
the present cycle is one of the next cycle. Releases stand at 0, what port `p` asks for at 1 + `p`. -/
def State.granaryTurn (s : State) (turn : Nat) : State :=
  let g := s.granary
  let s := if g.turnAt == s.coreNow && turn < g.turn then s.reach (s.coreFtc (s.coreNow + 1)) else s
  s.modGranary fun g => { g with turnAt := s.coreNow, turn := turn }

/-- One tick of the FTC with no command: it runs while the package is powered, out of
reset and not in Standby (R298, R390). -/
def State.idleTick (s : State) : State := if s.on then s.reach (s.time.ftc + 1) else s

end Sys2Proof.Machine
end

