-- ==== Sys2Proof/Machine/TunBase.lean ====
section
/-! DEFINITION. Machine/TunBase.lean: what many parts do to a tun: folding and
closing its digest (R317 to R319), halting it (R59), cancelling run-ahead (R151), its
queues, flags and exceptions (R64 to R66, R103), and the writes of the HBM controllers
with their run-ahead comparison (R152, R425). -/
namespace Sys2Proof.Machine

/-! ## Cycles of a tun (R51, R76, R420) -/

/-- The tun's program could still be halted by a fault that lands. -/
def Tun.haltable (t : Tun) : Bool :=
  match t.phase with | .running => true | .waiting => true | _ => false
/-- The tuns' clock runs this far in one cycle of an island of 1 MHz. -/
def tunUnit : Nat := 64 * 4000 * oscUnit
/-- What the tuns' clock, times the MHz of tun `id`, has run since its cycle 0 began. -/
def State.sinceLaunch (s : State) (id : Nat) : Nat := (s.clk.tun - (s.tun id).oscAt) * s.mhz id
/-- The FTC count at which cycle `c` of tun `id` begins, at the present rates (R51, R380, R420). -/
def State.cycleFtc (s : State) (id c : Nat) : Nat :=
  s.time.ftc + ((s.tun id).oscAt * s.mhz id + c * tunUnit - s.clk.tun * s.mhz id)
    / (s.oscStep * s.power.rate * s.mhz id)
/-- The first cycle of tun `id` that begins at or after the present FTC count. -/
def State.cycleNow (s : State) (id : Nat) : Nat := ceilDiv (s.sinceLaunch id) tunUnit
/-- TUN_CYCLE: the current cycle while the program runs, waits included; afterwards the
cycle in which it stopped (R76). -/
def State.tunCycle (s : State) (id : Nat) : Nat :=
  let t := s.tun id
  if t.haltable then max t.cycle (s.sinceLaunch id / tunUnit) else t.cycle

/-! ## Registers that faults take as DETAIL (R347) -/

/-- A place in TUN_PC's layout (R76). -/
def Pc.num (p : Pc) : Nat := b2n p.inReplay * 2 ^ 15 + p.index % 2 ^ 12
/-- TUN_SLIP_STATUS. -/
def Tun.slipReg (t : Tun) : Nat :=
  b2n t.slipValid * 2 ^ 31 + b2n t.slipMulti * 2 ^ 30 + t.slipKind * 2 ^ 28 + t.slipQueue * 2 ^ 22
    + t.slipEnd * 2 ^ 20 + t.slipPc.num
/-- TUN_EXC_STATUS (R103). -/
def Tun.excReg (t : Tun) : Nat :=
  b2n t.excValid * 2 ^ 31 + b2n t.excMulti * 2 ^ 30 + t.excKind * 2 ^ 20 + t.excCause * 2 ^ 16 + t.excPc
/-- TUN_FCYC_STATUS. -/
def Tun.fcycReg (t : Tun) : Nat := if t.fcyc.isEmpty then 0 else 2 ^ 31 + t.fcyc.length
/-- TUN_FLAGWAIT. -/
def Tun.flagWaitReg (t : Tun) : Nat := t.waitFlag * 2 ^ 24 + t.waitCount * 2 ^ 8 + b2n t.blocked
/-- TUN_MEM_ERR. -/
def Tun.memErrReg (t : Tun) : Nat := b2n t.memUe * 2 ^ 31 + t.memCe * 2 ^ 22 + t.memAddr

/-! ## Digests -/

/-- Fold one 64-byte item into D (R317). -/
def Tun.foldItem (pos id layer : Nat) (e : Entry) (t : Tun) : Tun :=
  let prefix_ := layer * 2 ^ 48 + pos * 2 ^ 33 + id * 2 ^ 25 + t.digItems % 2 ^ 24
  let c := crc64 (leBytes 8 prefix_ ++ entryBytes e)
  { t with digD := t.digD ^^^ BitVec.ofNat 64 c, digItems := t.digItems + 1, digLayer := layer }
/-- Fold word `j` of the engine bitmap into D and E (R318). -/
def Tun.foldEngine (pos id j : Nat) (t : Tun) : Tun :=
  let prefix_ := pos * 2 ^ 33 + id * 2 ^ 25 + 2 ^ 24 + j
  let c := BitVec.ofNat 64 (crc64 (leBytes 8 prefix_ ++ leBytes 8 t.engineMap.toNat))
  { t with digD := t.digD ^^^ c, digE := t.digE ^^^ c }
/-- One more completed stationary tile (R131). -/
def Tun.engineBit (pos id : Nat) (sparse : Bool) (t : Tun) : Tun :=
  let i := t.engineCnt % 64
  let t := { t with engineMap := t.engineMap ||| BitVec.ofNat 64 (b2n sparse * 2 ^ i),
                    engineCnt := t.engineCnt + 1 }
  if i == 63 then { t.foldEngine pos id (t.engineCnt / 64 - 1) with engineMap := 0 } else t
/-- Close the open digest of tun `id` (R319). -/
def State.closeDigest (s : State) (id : Nat) (halted : Bool) : State :=
  let t := s.tun id
  let engine := t.engineCnt != 0
  let t := if t.engineCnt % 64 != 0 then t.foldEngine s.blockPos id (t.engineCnt / 64) else t
  let c : Closure :=
    { tun := id, layer := if t.digItems == 0 then 0xFFFF else t.digLayer, d := t.digD, e := t.digE,
      period := t.period, items := t.digItems, mv := t.mvSeen, halted := halted }
  let s := if (t.digItems == 0 && !engine) || !bitOf s.time.digCfg.toNat 31 then s
    else s.modTime fun x => { x with closures := x.closures ++ [c] }
  s.setTun id { t with digD := 0, digE := 0, digItems := 0, digLayer := 0xFFFF, mvSeen := false,
                       engineMap := 0, engineCnt := 0 }
/-- An MST or VST entry becomes a digest item (R317). -/
def State.digestItem (s : State) (id layer : Nat) (e : Entry) : State :=
  let t := s.tun id
  let s := if t.digItems != 0 && t.digLayer != layer then s.closeDigest id false else s
  s.modTun id (Tun.foldItem s.blockPos id layer e)

/-! ## Streams of a tun -/

/-- The stream keys that the active bindings of tun `t` name. -/
def State.streamsOf (s : State) (t : Nat) : List Nat :=
  (List.range 16).filterMap fun b =>
    let x := bindingIn (s.sec_ secPartition) t b
    if x.kind == 1 || x.kind == 2 then some (kettleOf t * 256 + x.far % 256) else none
/-- RUNAHEAD of a stream's latched descriptor. -/
def Stream.runahead (st : Stream) : Nat := bitsOf (st.words.getD 7 0).toNat 31 27
/-- The stream is closed: nothing more is issued, and what returns is discarded (R151). -/
def Stream.close (st : Stream) : Stream :=
  { st with active := false, epoch := st.epoch + 1, store := [], early := [], reserved := [], part := [], partBad := .good }
/-- Close a stream, returning the reservations of reads that will not be issued (R151). What
its store held uncorrected is now known to be latent (R144). -/
def State.closeStream (s : State) (k : Nat) : State :=
  let st := s.stream k
  let taints := (st.store.map (·.2) ++ st.early.map (·.2.2) ++ [st.partBad]).eraseDups
  let s := taints.foldl State.dropTaint s
  (st.reserved.foldl (fun s r => s.dropResv r.2) s).modStream k Stream.close
/-- Cancel the run-ahead of tun `t` (R151). -/
def State.cancelRunAhead (s : State) (t : Nat) : State :=
  (s.streamsOf t).foldl (fun s k =>
    let st := s.stream k
    if st.tun == t && !st.write && st.runahead != 0 then s.closeStream k else s) s
/-- Close every stream of tun `t`. -/
def State.closeStreams (s : State) (t : Nat) : State :=
  (s.streamsOf t).foldl (fun s k => if (s.stream k).tun == t then s.closeStream k else s) s

/-! ## Halting -/

/-- The instruction that stands at a place of the program. -/
def Program.at_ (p : Program) (pc : Pc) : Option (BitVec 128) :=
  if pc.inReplay then p.replay[pc.index]? else p.store[pc.index]?
/-- The issue delta of the next instruction, if there is one. -/
def Tun.nextDelta (t : Tun) : Option Nat :=
  match t.program, t.next with
  | some p, some pc => (p.at_ pc).map fun w => bitsOf w.toNat 7 0
  | _, _ => none
/-- The next instruction belongs to the co-issue group of the cycle `c`. -/
def Tun.inGroup (t : Tun) (c : Nat) : Bool :=
  match t.nextDelta with
  | some d => t.issued == c && t.base + d == c && !t.first
  | none => false

/-- The tun stops issuing: the rest of a co-issue group of which an instruction has issued still
issues (R57, R80), nothing after it. A wait has ended the group before it (R66). -/
def Tun.stop (ph : TunPhase) (t : Tun) : Tun :=
  { t with phase := ph, blocked := false, ended := false, metAt := none,
           next := if !t.blocked && t.inGroup t.issued then t.next else none }
/-- Tun `id` stops in cycle `c`, and with it TUN_CYCLE (R76). -/
def State.stopTun (s : State) (id : Nat) (ph : TunPhase) (c : Nat) : State :=
  s.modTun id fun t => { t with cycle := c, quietAt := s.now }.stop ph
/-- A frame that an outbound binding of tun `id` has begun and not wholly sent is closed with the
verdict poisoned, REASON 5 (R59, R174): its first cell is at the ingress, and it waits for cells. -/
def State.closeBegun (s : State) (id : Nat) : State :=
  let mine (f : Frame) : Bool := !f.admitted && 1 < f.cells && match f.binding with | some b => b.1 == id | none => false
  s.modCore fun y => { y with frames := y.frames.map fun f => if mine f then
    { f with inTail := { verdict := 3, reason := 5, marker := BitVec.ofNat 16 s.nodeId } } else f }
/-- Halt tun `id` for a fault in cycle `c` (R59): its digest closes, its run-ahead is cancelled and
frames that it has begun are closed. -/
def State.haltFaultAt (s : State) (id c : Nat) : State :=
  let t := s.tun id
  if t.phase == .haltedFault || t.phase == .forwardOnly then s else
  let s := s.stopTun id .haltedFault c
  let s := (s.digInvalid.cancelRunAhead id).closeBegun id
  if (s.tun id).next.isNone then s.closeDigest id true else s
/-- Halt tun `id` for a fault now. -/
def State.haltFault (s : State) (id : Nat) : State := s.haltFaultAt id (s.tunCycle id)
/-- Halt tun `id` by software (R76). -/
def State.haltSw (s : State) (id : Nat) : State :=
  let s := (s.stopTun id .haltedSw (s.tunCycle id)).cancelRunAhead id
  if (s.tun id).next.isNone then s.closeDigest id true else s
/-- The tun executes instructions now, or finishes the group in which it halted. -/
def Tun.live (t : Tun) : Bool :=
  match t.phase with
  | .running => true
  | .waiting => true
  | .haltedFault => t.next.isSome
  | .haltedSw => t.next.isSome
  | _ => false

/-- The instruction at `pc` slips: the fault is raised, the tun halts, and the first slip since
CLEAR is recorded (R57 to R59, R85). -/
def State.slip (s : State) (id kind queue end_ : Nat) (pc : Pc) (cycle : Nat) : State :=
  let s := s.modTun id fun t =>
    if t.slipValid then t else
    { t with slipValid := true, slipKind := kind, slipQueue := queue, slipEnd := end_, slipPc := pc,
             slipCycle := cycle }
  (s.raise (srcTun id 0) (s.tun id).slipReg).haltFaultAt id cycle
/-- Record an exception other than a slip, of cycle `c`, and halt (R103): `k` is the fault source of
the tun that it raises. -/
def State.exceptionAt (s : State) (id k kind cause pc c : Nat) : State :=
  let s := s.modTun id fun t =>
    if t.excValid then { t with excMulti := true }
    else { t with excValid := true, excKind := kind, excCause := cause, excPc := pc }
  (s.raise (srcTun id k) (s.tun id).excReg).haltFaultAt id c
/-- The exception of an instruction that issues (R80, R103). -/
def State.exception (s : State) (id k kind cause pc : Nat) : State :=
  s.exceptionAt id k kind cause pc (s.tun id).issued

/-! ## Queues and flags -/

/-- Queue `q` of a tun. -/
def Tun.queue (t : Tun) (q : Nat) : Queue := Tab.get {} t.queues q
/-- Change queue `q` of a tun; HIGH follows the near half. -/
def Tun.modQueue (t : Tun) (q : Nat) (f : Queue → Queue) : Tun :=
  { t with queues := Tab.mod {} t.queues q fun x =>
      let y := f x
      { y with high := max y.high y.near.length } }
/-- Flag `f` of a tun. -/
def Tun.flag (t : Tun) (f : Nat) : Nat := (Tab.get 0 t.flags f).toNat
/-- Set flag `f`. -/
def Tun.setFlag (t : Tun) (f v : Nat) : Tun := { t with flags := Tab.set 0 t.flags f (BitVec.ofNat 16 v) }
/-- The tun waits on flag `f`, and its counter has reached the count (R66). -/
def Tun.waitMet (t : Tun) (f : Nat) : Bool :=
  t.phase == .waiting && t.blocked && t.waitFlag == f && t.waitCount ≤ t.flag f
/-- The first cycle in which the wait on flag `f` is met, `c` now, is noted (R66); it is forgotten
when another agent has taken the count away. -/
def State.noteWait (s : State) (id f c : Nat) : State :=
  s.modTun id fun t =>
    if t.waitMet f then { t with metAt := some (t.metAt.getD c) }
    else if t.waitFlag == f then { t with metAt := none } else t
/-- A waiting agent takes `n` from flag `f` of tun `id` (R66). -/
def State.takeFlag (s : State) (id f n : Nat) : State :=
  (s.modTun id fun t => t.setFlag f (t.flag f - n)).noteWait id f (s.cycleNow id)
/-- A raise of flag `f` of tun `id` by `n` lands (R65), in cycle `c` where the tun's own schedule
gives it: it saturates with a flag overflow fault, whose PC is `pc`. -/
def State.raiseFlagIn (s : State) (id f n pc : Nat) (c : Option Nat) : State :=
  let v := (s.tun id).flag f + n
  if v ≤ 65535 then (s.modTun id fun t => t.setFlag f v).noteWait id f (c.getD (s.cycleNow id))
  else (s.modTun id fun t => t.setFlag f 65535).exceptionAt id 1 5 0 pc (c.getD (s.tunCycle id))
/-- A raise of another agent lands now (R65). -/
def State.raiseFlag (s : State) (id f n pc : Nat) : State := s.raiseFlagIn id f n pc none
/-- A binding's flag gains `n` when FLAG_EN is set (R64). DESIGN CHOICE (log entry 83): a flag
overflow that this raise makes records PC 0xFFFF, since no instruction of the tun made it. -/
def State.countFlag (s : State) (id q n : Nat) : State :=
  let b := s.binding id q
  if b.flagEn then s.raiseFlag id b.flag n 0xFFFF else s
/-- Binding data that went bad: source 5 of the tun, which halts (R347). Kinds are
1 memory uncorrected, 2 tile decode, 3 frame verdict, 4 stream sequence. -/
def State.bindingFault (s : State) (id q kind : Nat) : State :=
  (s.raise (srcTun id 5) (kind * 256 + q)).haltFault id
/-- A stream fault of the tun (R347): 1 descriptor, 2 overrun, 3 address range,
4 run-ahead conflict, 5 reply lost. -/
def State.streamFault (s : State) (id stream kind : Nat) : State :=
  (s.raise (srcTun id 4) (kind * 256 + stream % 256)).haltFault id

/-! ## Controller writes -/

/-- The tuns whose run-ahead ranges a write of `n` bytes at `a` matches halt (R152). -/
def State.runAheadConflict (s : State) (a n : Nat) : State :=
  (s.runAheadHits a n).foldl (fun s k =>
    let st := s.stream k
    if st.active then s.streamFault st.tun k 4 else s) s
/-- A write reaches the controllers (R152, R425): whole lines become good, a line
written in part keeps or gains a poison mark when its read finds one or an
uncorrectable burst (`e` says what those reads find), and a tun whose
run-ahead range is hit halts. A command/address parity error counts for a whole line too (R143); a
line whose retry fails keeps a mark. `poison` marks the written lines; `src` is the
SOURCE of HBM_ERR_INFO. -/
def State.ctlWrite (s : State) (a : Nat) (bytes : List Byte) (e : Ecc)
    (src : Nat) (poison : Bool) : State :=
  if bytes.isEmpty then s else
  let n := bytes.length
  let partial_ (l : Nat) : Bool := l < a || a + n < l + 64
  let found := e.filter fun x =>
    partial_ (burstAddr a x.1 / 64 * 64) || x.2 == .parityRetried || x.2 == .parityFailed
  let s := s.eccRead a n found src .used
  let s := (linesOf a n).foldl (fun s l =>
    let keeps := (partial_ l && s.poisonedAt l) || found.any fun x => eccBad x.2 && burstAddr a x.1 / 64 * 64 == l
    s.setPoison l (poison || keeps)) s
  (s.hbmPut a bytes).runAheadConflict a n

end Sys2Proof.Machine
end

