-- ==== Sys2Proof/Machine/HostBase.lean ====
section
/-! DEFINITION. Machine/HostBase.lean: what every host access shares: the block map
(R20), the control token (R9), sleeping kettles and forward-only tuns (R23, R75), the
bad-access status (R329), the fatal state (R354), and interrupts (R341). -/
namespace Sys2Proof.Machine

/-- The blocks of BAR0 (R20). -/
inductive Bar0Block where
  | feat | grist | ftc | hst | flt | clb | pwr | sec
  | hbm (n : Nat) | lnk (n : Nat) | mlt | grn | ltr (n : Nat) | col | tun (n : Nat) | sq (n : Nat)
  | none_
  deriving DecidableEq, Repr

/-- The block of an offset and the offset inside its instance (R20). -/
def blockOf (off : Nat) : Bar0Block × Nat :=
  if off < 0x10000 then (.feat, off)
  else if off < 0x20000 then (.grist, off - 0x10000)
  else if off < 0x30000 then (.ftc, off - 0x20000)
  else if off < 0x40000 then (.hst, off - 0x30000)
  else if off < 0x50000 then (.flt, off - 0x40000)
  else if off < 0x60000 then (.clb, off - 0x50000)
  else if off < 0x70000 then (.pwr, off - 0x60000)
  else if off < 0x80000 then (.sec, off - 0x70000)
  else if off < 0x100000 then (.none_, off)
  else if off < 0x200000 then (.hbm (off / 0x10000 - 0x10), off % 0x10000)
  else if off < 0x2E0000 then (.lnk (off / 0x10000 - 0x20), off % 0x10000)
  else if off < 0x300000 then (.none_, off)
  else if off < 0x340000 then (.mlt, off - 0x300000)
  else if off < 0x380000 then (.grn, off - 0x340000)
  else if off < 0x3C0000 then (.ltr (off / 0x10000 - 0x38), off % 0x10000)
  else if off < 0x400000 then (.col, off - 0x3C0000)
  else if off < 0x1000000 then (.none_, off)
  else if off < 0x2800000 then (.tun ((off - 0x1000000) / 0x20000), (off - 0x1000000) % 0x20000)
  else if off < 0x3000000 then (.none_, off)
  else if off < 0x3100000 then (.sq ((off - 0x3000000) / 0x100), off % 0x100)
  else (.none_, off)

/-- Port number in HOLDER fields: 1 A, 2 B. -/
def portNum : HostPort → Nat | .a => 1 | .b => 2
/-- The other port. -/
def portOther : HostPort → HostPort | .a => .b | .b => .a
/-- Maltings port of a host port. -/
def portMlt : HostPort → Nat | .a => 26 | .b => 27

/-- A bad access sets bit `b` of HST_VS_BAD and counts (R329); a remote register access sets none (R340). -/
def State.badAccess (s : State) (p : HostPort) (b : Nat) : State :=
  if s.host.remote then s else s.modPort p fun x => { x with bad := x.bad ||| BitVec.ofNat 6 (2 ^ b), badCnt := satInc 16 x.badCnt }
/-- An error of bit `bit` of AER's uncorrectable status that is handled as advisory non-fatal: the
bit and bit 13 of the correctable status are set, and no source is raised (R325). PRESUMED from PCI
Express Base 5.0 (log entry 13): the bits' places. -/
def State.aerAdvisory (s : State) (p : HostPort) (bit : Nat) : State :=
  if s.host.remote then s else
  s.modPort p fun x => { x with aer := x.aer ||| word (2 ^ bit), aerCor := x.aerCor ||| word (2 ^ 13) }
/-- HST_VS_BAD. -/
def PortSt.badReg (x : PortSt) : Nat := x.badCnt * 2 ^ 16 + x.bad.toNat
/-- HST_VS_TOKEN as port `p` reads it (R329). -/
def State.vsToken (s : State) (p : HostPort) : Nat :=
  let peer := match p with | .a => s.host.reqB | .b => s.host.reqA
  s.host.holder * 2 ^ 30 + b2n (s.host.holder == portNum p) * 2 ^ 29 + b2n peer * 2 ^ 28 + b2n s.host.auto * 2 ^ 27
/-- What a configuration read by port `p` of its own VSEC returns (R329). PRESUMED from PCI
Express (log entry 13): the capability header, ID 0x000B version 1, and the place of VSEC ID,
revision and length in the word after it; the AER capability at 0x100, with its uncorrectable and
correctable error status (R325). -/
def State.vsecReg (s : State) (p : HostPort) (off : Nat) : Nat :=
  match off with
  | 0x100 => 0x40020001
  | 0x104 => (s.port p).aer.toNat
  | 0x110 => (s.port p).aerCor.toNat
  | 0x400 => 0x0001000B
  | 0x404 => 0x0960 + 1 * 2 ^ 16 + 0x10 * 2 ^ 20
  | 0x408 => s.vsToken p
  | 0x40C => (s.port p).badReg
  | _ => 0

/-- A kettle whose TUN and HBM blocks the access needs, if any (R23). -/
def Bar0Block.kettle : Bar0Block → Option Nat
  | .hbm n => some (n / 4)
  | .tun n => some (n / 48)
  | _ => none
/-- Configuration requests reach the port: its link is up, it is not in reset, and no posted
write of its host waits before them (R325, R328). -/
def State.portConfig (s : State) (p : HostPort) : Bool :=
  s.on && (s.port p).linkUp && !(s.port p).inReset && (s.port p).posted.isEmpty
/-- Accesses reach the port: it is in D0 besides. A remote register access needs none of it (R340). -/
def State.portServes (s : State) (p : HostPort) : Bool :=
  s.on && (s.host.remote || (s.portConfig p && !(s.port p).pci.d3hot))
/-- The access comes from a port that holds the control token, or acts as one (R9, R340). -/
def State.holds (s : State) (p : HostPort) : Bool := s.host.remote || s.host.holder == portNum p
/-- BAR0 accesses to this block are served during a warm reset (R391). -/
def Bar0Block.warmServed : Bar0Block → Bool
  | .feat => true | .flt => true | .clb => true | .pwr => true | .sec => true | .hst => true
  | _ => false
/-- Writes to this block are served in the fatal state (R354). -/
def Bar0Block.fatalServed : Bar0Block → Bool
  | .flt => true | .clb => true | .pwr => true | .hst => true | .sec => true | .grist => true
  | _ => false

/-- The lines of a BAR4 access lie in stacks of kettles that are awake (R327). -/
def State.windowAwake (s : State) (a n : Nat) : Bool :=
  (linesOf a n).all fun l => match s.stackOf l with | some k => !s.asleep (k / 4) | none => false
/-- A posted BAR4 write is performed, or discarded (R327). -/
def State.windowWrite (s : State) (p : HostPort) (w : PostedWrite) : State :=
  if hbmTop < w.addr + w.bytes.length then s.badAccess p 3
  else if !s.windowAwake w.addr w.bytes.length then s.badAccess p 2
  else s.ctlWrite w.addr w.bytes w.ecc 3 false
/-- A request of the host of port `p` arrives: the posted writes before it have been performed
(R328). -/
def State.flushPosted (s : State) (p : HostPort) : State :=
  match s.host.remote, (s.port p).posted with
  | false, w :: ws => (w :: ws).foldl (fun s w => s.windowWrite p w) (s.modPort p fun x => { x with posted := [] })
  | _, _ => s
/-- A write to control registers at `off` from port `p` takes effect when the port
holds the token (R9), the kettle is awake (R23, R391), the tun computes (R75) and the fatal
state serves the block (R354); otherwise it is ignored and the bad access recorded. -/
def State.hostWrite (s : State) (p : HostPort) (off : Nat) (act : State → State) : State :=
  let s := s.flushPosted p
  let b := (blockOf off).1
  if !s.portServes p then s
  else if !s.holds p then s.badAccess p 0
  else if (b.kettle.map s.asleep).getD false || (s.power.warm && !b.warmServed) then s.badAccess p 2
  else match b with
    | .tun n =>
      if s.forwardOnly n then s.badAccess p 5
      else if s.isFatal then s else act (s.touchKettle (n / 48))
    | _ => if s.isFatal && !b.fatalServed then s else act s

/-- One half of a 64-bit value is written by port `p` (R4): the low word is held, the
high word sets both halves, or the high half alone while the port holds no low word.
`lo` is the offset of the low word, `cur` the value in force. -/
def State.pairWrite (s : State) (p : HostPort) (lo : Nat) (high : Bool) (v : Word) (cur : DWord)
    (act : DWord → State → State) : State :=
  if !high then s.modPort p fun x => { x with hold := Tab.set none x.hold lo (some v) }
  else
    let l := (Tab.get none (s.port p).hold lo).getD (BitVec.ofNat 32 cur.toNat)
    act (BitVec.ofNat 64 (v.toNat * 2 ^ 32 + l.toNat)) (s.modPort p fun x => { x with hold := x.hold.drop lo })

/-! ## Interrupts (R341) -/

/-- Word `w` of entry `v` of the MSI-X table; the mask bit is 1 at reset. -/
def PortSt.msixWord (x : PortSt) (v w : Nat) : Word :=
  Tab.get (if w == 3 then 1 else 0) x.msix (4 * v + w)
/-- A vector may send: it is not masked, MSI-X is enabled and not masked as a whole, the
function is in D0 and the link is up. -/
def PortSt.maySend (x : PortSt) (v : Nat) : Bool :=
  !bitOf (x.msixWord v 3).toNat 0 && x.linkUp && x.pci.msixEn && !x.pci.msixMask && !x.pci.d3hot
/-- Signal a vector of a port: a message leaves, or waits in the PBA while it may not. -/
def State.signal (s : State) (p : HostPort) (v : Nat) : State :=
  let x := s.port p
  if !x.maySend v then
    s.modPort p fun x => { x with pba := Tab.set false x.pba v true }
  else
    s.emit (.msix p v (BitVec.ofNat 64 ((x.msixWord v 1).toNat * 2 ^ 32 + (x.msixWord v 0).toNat)) (x.msixWord v 2))
/-- Signal a device event on both ports. -/
def State.signalBoth (s : State) (v : Nat) : State := (s.signal .a v).signal .b v
/-- A pending vector whose entry is no longer masked is sent. -/
def State.flushVector (s : State) (p : HostPort) (v : Nat) : State :=
  let x := s.port p
  if Tab.get false x.pba v && x.maySend v then
    (s.modPort p fun x => { x with pba := Tab.set false x.pba v false }).signal p v
  else s

/-- Cut a byte string into pieces of `m` bytes; `n` bounds them. -/
def piecesOf (m : Nat) : Nat → List Byte → List (List Byte)
  | 0, _ => []
  | n + 1, bs => if bs.isEmpty then [] else bs.take m :: piecesOf m n (bs.drop m)
/-- Data written to a host's memory, in requests of at most Max_Payload_Size (R325); `relaxed`
is their Relaxed Ordering attribute (R328). -/
def State.sendWrite (s : State) (p : HostPort) (addr : Nat) (bytes : List Byte) (relaxed : Bool) : State :=
  let m := max 1 (s.port p).pci.mps
  (piecesOf m bytes.length bytes).zipIdx.foldl (fun s x =>
    s.emit (.hostWrite (portNum p) (addr + m * x.2) x.1 relaxed)) s
/-- Reads of a host's memory are sent as requests of at most Max_Read_Request_Size: how many (R325). -/
def State.readParts (s : State) (p : HostPort) (len : Nat) : Nat := ceilDiv len (max 1 (s.port p).pci.mrrs)

/-! ## FEAT (R24, R25, R32) -/

/-- A version register: the hardware window, the window in force and NEG. -/
def verReg (hwMax hwMin : Nat) (w : Window) : Nat :=
  b2n w.neg * 2 ^ 16 + w.hi * 2 ^ 12 + w.lo * 2 ^ 8 + hwMax * 2 ^ 4 + hwMin
/-- Tuns that the active grist makes forward-only. -/
def State.forwardCount (s : State) : Nat := ((List.range 192).filter s.forwardOnly).length
/-- A FEAT register. -/
def State.featReg (s : State) (o : Nat) : Nat :=
  match o with
  | 0x00 => 0x09600210 | 0x04 => 0x684000C0 | 0x08 => 0x04401020 | 0x0C => 0x10100100
  | 0x10 => 0x30402040 | 0x14 => 0x00001000 | 0x18 => 0x00600410 | 0x1C => 0
  | 0x20 => 0x00000180 | 0x24 => 0x01000420 | 0x28 => 0x10400100 | 0x2C => 0x08080000
  | 0x30 => 0x80021000 | 0x34 => 0x70861027 | 0x38 => 0x10004000 | 0x3C => 0x00000104
  | 0x40 => verReg 3 2 s.grist.alp
  | 0x44 => verReg 2 1 s.grist.desc
  | 0x48 => verReg 2 1 s.grist.rcp
  | 0x4C => verReg 3 3 ⟨3, 3, false⟩
  | 0x50 => if s.grist.active then s.forwardCount * 2 ^ 16 + (192 - s.forwardCount) else 0
  | _ => 0

end Sys2Proof.Machine
end

