-- ==== Sys2Proof/Machine/Frames.lean ====
section
/-! DEFINITION. Machine/Frames.lean: ALP v3 headers and tails (R162 to R166, R174),
the header checks (R167, R284), local endpoints (R168), routing (R278 to R283), and
how a source of this node makes a frame (R195, R280). -/
open Sys2Proof.Machine
namespace Sys2Proof

/-! ## Headers -/

/-- The fifteen header words other than HCHK, in offset order (R162, R166). -/
def Header.words (h : Header) : List Nat :=
  [h.dest.toNat, h.inter.toNat, h.src.toNat, h.endpoint.toNat,
   h.cls.toNat * 16 + h.vc.toNat + h.op.toNat * 256, h.length.toNat, h.stream.toNat,
   h.epoch.toNat + h.flags.toNat * 256, h.seq.toNat % 65536, h.seq.toNat / 65536,
   h.hops.toNat + h.version.toNat * 256, h.opx.toNat % 65536, h.opx.toNat / 2 ^ 16 % 65536,
   h.opx.toNat / 2 ^ 32 % 65536, h.opx.toNat / 2 ^ 48]
/-- The ones'-complement sum of 16-bit words. -/
def onesSum (ws : List Nat) : Nat :=
  ws.foldl (fun t w => (t + w) % 65536 + (t + w) / 65536) 0
/-- HCHK of a header (R166). -/
def Header.check (h : Header) : Half := BitVec.ofNat 16 (65535 - onesSum h.words)
/-- The header with its HCHK computed. -/
def Header.sealed (h : Header) : Header := { h with hchk := h.check }
/-- The 32 bytes of a header. -/
def Header.bytes (h : Header) : List Byte :=
  (h.words.take 11).flatMap (leBytes 2) ++ leBytes 2 h.hchk.toNat ++ leBytes 8 h.opx.toNat
/-- The header that 32 bytes spell. -/
def headerOf (bs : List Byte) : Header :=
  let b8 (i : Nat) : Byte := bs.getD i 0
  let b16 (i : Nat) : Half := BitVec.ofNat 16 (natAt bs i 2)
  { dest := b16 0, inter := b16 2, src := b16 4, endpoint := b16 6,
    cls := BitVec.ofNat 4 (byteAt bs 8 / 16), vc := BitVec.ofNat 4 (byteAt bs 8 % 16), op := b8 9,
    length := b16 0x0A, stream := b16 0x0C, epoch := b8 0x0E, flags := b8 0x0F,
    seq := BitVec.ofNat 32 (natAt bs 0x10 4), hops := b8 0x14, version := b8 0x15, hchk := b16 0x16,
    opx := BitVec.ofNat 64 (natAt bs 0x18 8) }
/-- The 8 bytes of a tail (R174). -/
def Tail.bytes (t : Tail) : List Byte := leBytes 4 t.crc.toNat ++ [t.verdict, t.reason] ++ leBytes 2 t.marker.toNat
/-- The tail that 8 bytes spell. -/
def tailOf (bs : List Byte) : Tail :=
  { crc := BitVec.ofNat 32 (natAt bs 0 4), verdict := bs.getD 4 0, reason := bs.getD 5 0,
    marker := BitVec.ofNat 16 (natAt bs 6 2) }
/-- PHASE2, CMP and CJ of FLAGS. -/
def Header.phase2 (h : Header) : Bool := bitOf h.flags.toNat 0
@[inherit_doc Header.phase2] def Header.cmp (h : Header) : Bool := bitOf h.flags.toNat 1
@[inherit_doc Header.phase2] def Header.cj (h : Header) : Bool := bitOf h.flags.toNat 2
/-- The header with PHASE2 as given. -/
def Header.setPhase2 (h : Header) (b : Bool) : Header :=
  { h with flags := BitVec.ofNat 8 (h.flags.toNat / 2 * 2 + b2n b) }
/-- The kind and index of ENDPOINT (R164). -/
def Header.epKind (h : Header) : Nat := h.endpoint.toNat / 4096
@[inherit_doc Header.epKind] def Header.epIdx (h : Header) : Nat := h.endpoint.toNat % 4096
/-- The reply tag that a reply to this node carries (R165, R340). -/
def Header.replyTag (h : Header) : Option Nat :=
  if h.op.toNat == 0x03 || h.op.toNat == 0x11 || h.op.toNat == 0x13 then some (h.opx.toNat % 65536) else none

end Sys2Proof

namespace Sys2Proof.Machine

/-- The ENDPOINT of a kind and index. -/
def endpointOf (kind idx : Nat) : Half := BitVec.ofNat 16 (kind * 4096 + idx)
/-! ## Operations and classes -/

/-- Classes and endpoint kinds of an operation (R165, R233); none for an undefined one. -/
def opRules (op : Nat) : Option (List Nat × List Nat) :=
  match op with
  | 0x01 => some ([0, 3], [0, 2]) | 0x02 => some ([0], [3]) | 0x03 => some ([1], [4])
  | 0x04 => some ([0], [3])
  | 0x10 => some ([3], [6]) | 0x11 => some ([4], [2, 5]) | 0x12 => some ([3], [3]) | 0x13 => some ([4], [2, 5])
  | 0x20 => some ([3], [7]) | 0x21 => some ([3], [7])
  | 0x30 => some ([2], [1]) | 0x31 => some ([2], [1]) | 0x32 => some ([2], [1]) | 0x33 => some ([2], [1])
  | 0x40 => some ([3], [5]) | 0x41 => some ([4], [5])
  | _ => none
/-- The VCs of a class (R163). -/
def classVcs (c : Nat) : List Nat :=
  match c with
  | 0 => [0, 1, 2, 3] | 1 => [4, 5, 6, 7] | 2 => [8, 9] | 3 => [10] | 4 => [11] | _ => []
/-- The endpoint kind is defined (R164). -/
def kindDefined (k : Nat) : Bool := k < 8 || k == 15
/-- The first of causes 1 to 8 and 10 that a header has (R167, R179). -/
def headerCause (h : Header) : Option Nat :=
  let k := h.epKind
  let op := opRules h.op.toNat
  firstSome [need (h.hchk == h.check) 1, need (h.version == 3#8) 2,
    need ((classVcs h.cls.toNat).contains h.vc.toNat) 3, need (h.length.toNat ≤ 4096) 4,
    need (match op with
      | none => false
      | some (cs, ks) => cs.contains h.cls.toNat && (!kindDefined k || k == 15 || ks.contains k)) 5,
    need (kindDefined k) 6, need (h.flags.toNat < 8) 7, need (h.hops.toNat != 255) 8,
    need (!(k == 15 && h.cls.toNat < 2)) 10]

/-! ## Local endpoints -/

/-- A field of the QUEUE record of queue `q` (R332). -/
def State.queueField (s : State) (q o n : Nat) : Nat := s.field secQueue (16 * q + o) n
/-- The host port to which QUEUE assigns queue `q`. -/
def State.queuePort (s : State) (q : Nat) : Option HostPort :=
  match s.queueField q 0 1 with | 1 => some .a | 2 => some .b | _ => none
/-- The wide port of tun `t` for a binding with ALT_PORT as given (R14). -/
def widePort (t : Nat) (alt : Bool) : Nat :=
  14 + 2 * kettleOf t + (if (3 ≤ t % 48 / 8) != alt then 1 else 0)
/-- The wide port of kettle `k` for a package address (R13). -/
def State.hbmPort (s : State) (k a : Nat) : Nat :=
  14 + 2 * k + (match s.stackOf a with | some n => if n % 4 < 2 then 0 else 1 | none => 0)
/-- The egress port of a local endpoint (R168). -/
def State.localPort (s : State) (h : Header) : Nat :=
  let i := h.epIdx
  match h.epKind with
  | 0 => widePort (i / 16) (s.binding (i / 16) (48 + i % 16)).alt
  | 1 => 22 + i / 256 % 4
  | 2 => match s.queuePort i with | some p => portMlt p | none => 26
  | 3 => s.hbmPort (i % 4) h.opx.toNat
  | 4 => 14 + 2 * (i / 256 % 4)
  | 5 => 29
  | 7 => if h.op.toNat == 0x20 then 22 else 28
  | _ => 28
/-- The cause of a header error at the destination node (R167, R179, R191): endpoint
absent, or the partial entry of cause 4. -/
def State.localCause (s : State) (h : Header) : Option Nat :=
  let i := h.epIdx
  let q (o n : Nat) : Nat := s.queueField i o n
  let absent : Bool :=
    match h.epKind with
    | 0 =>
      let b := s.binding (i / 16) (48 + i % 16)
      3072 ≤ i || b.kind != 5 || b.far % 65536 != h.src.toNat || b.param % 65536 != h.stream.toNat
        || s.asleep (kettleOf (i / 16))
    | 1 => 1024 ≤ i
    | 2 =>
      !(s.sq i).en || (s.queuePort i).isNone ||
        (h.op.toNat == 0x01 && (q 1 1 != 1 || q 8 2 != h.src.toNat || q 0x0A 2 != h.stream.toNat || h.cmp))
    | 3 => 4 ≤ i || s.asleep i
    | 4 => 1024 ≤ i || s.asleep (i / 256)
    | 15 => 256 ≤ i
    | _ => i != 0
  let noTag : Bool := match h.replyTag with | some t => (s.resv t).isNone | none => false
  if absent || noTag then some 9
  else if h.epKind == 0 && !h.cmp && h.length.toNat % 64 != 0 then some 4
  else none

/-! ## Routing -/

/-- This node, while its id is valid. -/
def State.isLocal (s : State) (h : Header) : Bool := s.disc.node == some h.dest.toNat
/-- Node `n` lies in the block of the active grist. -/
def State.inActiveBlock (s : State) (n : Nat) : Bool := inBlock s.disc.ring (s.sec_ secIdent) n
/-- The first axis on which two triples of indices differ. -/
def firstAxis (f g : Nat → Nat) : Option Nat := [0, 1, 2].find? fun a => f a != g a
/-- The two-phase route of job traffic (R281): egress and header. -/
def State.routeJob (s : State) (p : Nat) (h : Header) : Option (Nat × Header) :=
  let me := s.nodeId
  let change := !h.phase2 && h.inter.toNat == me
  let ph2 := h.phase2 || change
  let t := if ph2 then h.dest.toNat else h.inter.toNat
  match firstAxis (s.idx me) (s.idx t) with
  | none => none
  | some a =>
    let ic := s.idx me a
    let it := s.idx t a
    let wrapped := identWrap (s.sec_ secIdent) a
    let up : Bool := if wrapped then (it + 32 - ic) % 32 ≤ 16 else ic < it
    let seam := (up && ic == 31) || (!up && ic == 0)
    let high := wrapped && (seam || (p < 6 && p / 2 == a && h.vc.toNat % 2 == 1 && !change))
    some (2 * a + b2n (!up),
      { h.setPhase2 ph2 with vc := BitVec.ofNat 4 (4 * h.cls.toNat + 2 * b2n ph2 + b2n high) })
/-- The egress of a frame that is not delivered locally, with its header's VC and
PHASE2 (R278 to R283); none for a header error of cause 9. -/
def State.routeRemote (s : State) (p : Nat) (h : Header) : Option (Nat × Header) :=
  let me := s.nodeId
  match h.cls.toNat with
  | 0 => s.routeJob p h
  | 1 => s.routeJob p h
  | 2 =>
    match firstAxis (s.idx me) (s.idx h.dest.toNat) with
    | none => none
    | some a =>
      some (2 * a + b2n (s.idx h.dest.toNat a < s.idx me a),
        { h with vc := if h.op.toNat == 0x30 then 8#4 else 9#4 })
  | c =>
    let h := { h with vc := if c == 3 then 10#4 else 11#4 }
    if s.grist.active then
      let e := if h.dest.toNat < 32768 then (s.sec_ secRoute).nat (0x10020 + h.dest.toNat) 1 else 14
      if e < 14 then some (e, h) else none
    else
      match s.disc.coord with
      | none => none
      | some c =>
        match firstAxis (axis c) (coordOf h.dest.toNat) with
        | none => none
        | some a => some (2 * a + b2n (coordOf h.dest.toNat a < axis c a), h)
/-- The causes of R284 for a frame of classes 0 to 2 arriving at port `p`. -/
def State.jobCause (s : State) (p : Nat) (h : Header) : Option Nat :=
  if 2 < h.cls.toNat then none
  else if !s.grist.active || !s.inActiveBlock h.dest.toNat
      || (h.cls.toNat < 2 && (if h.inter == 0xFFFF#16 then !h.phase2 else !s.inActiveBlock h.inter.toNat))
      || (p < 14 && ((s.link p).boundary || 6 ≤ p)) then some 9
  else none
/-- The header error of a frame at ingress `p`, if it has one (R167, R283, R284). -/
def State.ingressCause (s : State) (p : Nat) (h : Header) : Option Nat :=
  match headerCause h with
  | some c => some c
  | none => match s.jobCause p h with
    | some c => some c
    | none =>
      if 2 < h.cls.toNat && !s.grist.active && s.disc.coord.isNone then some 9
      else if s.isLocal h then s.localCause h
      else if (s.routeRemote p h).isNone then some 9 else none
/-- The rate of a port in Gb/s (R160). -/
def State.portRate (s : State) (p : Nat) : Nat :=
  if p < 14 then (if (s.link p).version == 2 then 100 else 200) * (s.link p).trainedLanes.length
  else if p == 28 then 64 else 8192

/-! ## Making a frame -/

/-- INTER and PHASE2 as the source node sets them (R280). -/
def State.setInter (s : State) (h : Header) : Header :=
  if 2 ≤ h.cls.toNat then h else
  if bitOf s.core.routeCfg.toNat 0 then
    let x := crc32c (leBytes 2 h.src.toNat ++ leBytes 2 h.dest.toNat ++ leBytes 2 h.endpoint.toNat
      ++ leBytes 2 h.stream.toNat ++ leBytes 4 s.core.valSeed.toNat)
    let i (a : Nat) : Nat := bitsOf x (10 * a + 9) (10 * a) % max 1 (identExtent (s.sec_ secIdent) a)
    let n := s.nodeOfIdx (i 0) (i 1) (i 2)
    { h.setPhase2 (n == h.src.toNat) with inter := BitVec.ofNat 16 n }
  else { h.setPhase2 true with inter := 0xFFFF#16 }
/-- The buckets that govern a frame of this node and have a rate (R195). -/
def State.buckets (s : State) (f : SrcFrame) : List Nat :=
  let cls : List Nat :=
    if f.hdr.src.toNat == s.nodeId && 14 ≤ f.port && f.port ≤ 29 && f.hdr.op.toNat != 0x20 && f.hdr.op.toNat != 0x21
    then [256 + f.hdr.cls.toNat] else []
  (f.bucket.toList ++ cls).filter fun b => s.rate b != 0
/-- The freeze keeps a privileged frame other than a vote's at its source (R40). DESIGN CHOICE (log
entry 94): frames of OP 0x20 and 0x21 with KIND 1, which carry job digests (R322), leave as those
with KIND 0 do. -/
def State.frozenOut (s : State) (f : SrcFrame) : Bool :=
  s.grist.frozen && 3 ≤ f.hdr.cls.toNat && f.hdr.op.toNat != 0x20 && f.hdr.op.toNat != 0x21
/-- A source has made a frame: it leaves at once when no bucket governs it, else it is
held at its source, counted in HELD by every bucket without level (R195). -/
def State.source (s : State) (f : SrcFrame) : State :=
  let f := { f with hdr := (s.setInter { f.hdr with length := BitVec.ofNat 16 f.payload.length }).sealed }
  match s.buckets f with
  | [] =>
    if s.frozenOut f then s.modCore fun c => { c with held := c.held ++ [f] }
    else s.modCore fun c => { c with inject := Tab.mod [] c.inject f.port (· ++ [f]) }
  | bs =>
    let dry := bs.filter fun b => decide (s.bucketLevel b ≤ 0)
    let up (n : Nat) : Nat := min (n + 1) (2 ^ 32 - 1)
    let s := s.modGranary fun g => { g with heldCnt := dry.foldl (fun t b => Tab.mod 0 t b up) g.heldCnt }
    s.modCore fun c => { c with held := c.held ++ [f] }
/-- A frame from this node with the given fields: CLASS and its first VC, OP, DEST, ENDPOINT. -/
def State.mkHeader (s : State) (cls vc op dest : Nat) (ep : Half) : Header :=
  { dest := BitVec.ofNat 16 dest, src := BitVec.ofNat 16 s.nodeId, endpoint := ep,
    cls := BitVec.ofNat 4 cls, vc := BitVec.ofNat 4 vc, op := BitVec.ofNat 8 op }
/-- A tail with a verdict set by this node; good when `v` is 0. -/
def State.mkTail (s : State) (v r : Nat) : Tail :=
  if v == 0 then {} else
  { verdict := BitVec.ofNat 8 v, reason := BitVec.ofNat 8 r, marker := BitVec.ofNat 16 s.nodeId }
/-- The held frames eligible to leave: every governing bucket has level above 0. -/
def State.mayLeave (s : State) (f : SrcFrame) : Bool :=
  !s.frozenOut f && (s.buckets f).all fun b => 0 < s.bucketLevel b
/-- Held frames that nothing holds any more leave their sources: those that no bucket with a
rate governs, unless the freeze keeps them (R40, R195). -/
def State.settleHeld (s : State) : State :=
  let go (f : SrcFrame) : Bool := (s.buckets f).isEmpty && !s.frozenOut f
  (s.core.held.filter go).foldl
    (fun s f => s.modCore fun c => { c with inject := Tab.mod [] c.inject f.port (· ++ [f]) })
    (s.modCore fun c => { c with held := c.held.filter fun f => !go f })
/-- The freeze ends: privileged frames that no bucket governs leave (R40). -/
def State.thaw (s : State) : State :=
  (s.modGrist fun g => { g with frozen := false, release := none }).settleHeld
/-- The freeze of a pitch has ended once its release count is reached (R48). -/
def State.releaseDue (s : State) : State :=
  match s.grist.release with
  | some t => if t ≤ s.time.ftc then s.thaw else s
  | none => s
/-- The held frame whose turn it is at class bucket `k`: ports 14 to 29 in turn (R195). -/
def State.classTurn (s : State) (k : Nat) : Option Nat :=
  let ok (f : SrcFrame) : Bool := (s.buckets f).contains k && s.mayLeave f
  let from_ := Tab.get 29 s.granary.lastPort k
  ((List.range 16).map fun i => 14 + (from_ - 14 + 1 + i) % 16).findSome? fun p =>
    s.core.held.findIdx? fun f => f.port == p && ok f
/-- The held frame that bucket `k` passes next (R195): the one whose turn it is at a class bucket, the
oldest for a stream bucket, if it is the turn of that frame at its class bucket too. -/
def State.passIndex (s : State) (k : Nat) : Option Nat :=
  let turn (f : SrcFrame) (i : Nat) : Bool := (s.buckets f).all fun b => b < 256 || s.classTurn b == some i
  if k < 256 then
    (s.core.held.zipIdx.find? fun x => (s.buckets x.1).contains k && s.mayLeave x.1 && turn x.1 x.2).map (·.2)
  else s.classTurn k
/-- The first core cycle in which each of the class buckets among `bs` may pass a frame:
one a cycle (R195). -/
def State.passCycle (s : State) (bs : List Nat) : Nat :=
  (bs.filter (256 ≤ ·)).foldl (fun c b => max c (Tab.get 0 s.granary.passNext b)) s.coreNow
/-- TOKEN_BUCKET_PASS: a frame held at its source leaves (R195). -/
def execTokenBucketPass (k : Nat) (s : State) : Out :=
  if !s.alive then .next s else
  match s.passIndex k with
  | none => .next s
  | some i =>
    match s.core.held[i]? with
    | none => .next s
    | some f =>
      let n := cellsOf f.payload.length
      let bs := s.buckets f
      let c := s.passCycle bs
      let s := s.reach (s.coreFtc c)
      let s := s.modGranary fun g =>
        { g with level := bs.foldl (fun t b => Tab.mod 0 t b fun x => x - n * 512000) g.level,
                 lastPort := bs.foldl (fun t b => if 256 ≤ b then Tab.put t b f.port else t) g.lastPort,
                 passNext := bs.foldl (fun t b => if 256 ≤ b then Tab.set 0 t b (c + 1) else t) g.passNext }
      .next (s.modCore fun c =>
        { c with held := c.held.eraseIdx i, inject := Tab.mod [] c.inject f.port (· ++ [f]) })

end Sys2Proof.Machine
end

