-- ==== Sys2Proof/Machine/Maltings.lean ====
section
/-! DEFINITION. Machine/Maltings.lean: a frame's way through the core: ingress (R167,
R184), lookup (R168, R169, R179 to R181), admission (R183 to R186), the fabric (R171,
R172), the egress slots (R170, R194), the tail (R174 to R176), references (R188). -/
namespace Sys2Proof.Machine

/-! ## Counts -/

/-- Count in a field of MLT_PORT_VERDICT: 3 BADCRC, 2 TRUNC, 1 POISON, 0 DISC. -/
def State.countVerdict (s : State) (p fld : Nat) : State :=
  let up (w : Word) : Word :=
    let x := bitsOf w.toNat (8 * fld + 7) (8 * fld)
    word (w.toNat - x * 2 ^ (8 * fld) + min 255 (x + 1) * 2 ^ (8 * fld))
  s.modCore fun c => { c with verdict := Tab.mod 0 c.verdict p up }
/-- Cells held for egress `p` (R295). -/
def State.depth (s : State) (p : Nat) : Nat :=
  s.core.frames.foldl (fun t f =>
    if !f.admitted then t else
    f.copies.foldl (fun t c => if c.egress == p && !c.finished then t + (f.cells - c.out) else t) t) 0
/-- HIGH of MLT_TEL follows DEPTH. -/
def State.seeDepth (s : State) (ps : List Nat) : State :=
  ps.foldl (fun s p =>
    let d := s.depth p
    s.modCore fun c => { c with tel := Tab.mod 0 c.tel (p * 8 + 5) (max d) }) s

/-! ## The receive FIFOs of link ports (R285) -/

/-- Cells of a frame being received that are complete. -/
def RxFrame.complete (r : RxFrame) : Nat := if r.ended then ceilDiv r.bytes.length 256 else r.bytes.length / 256
/-- Cells of VC `v` of link port `p` whose frame is admitted, or dropped, leave the FIFO
as they are complete; frames wholly gone are forgotten. -/
def State.rxSettle (s : State) (p v : Nat) : State :=
  let free (r : RxFrame) : Bool := r.drop || match r.frame with
    | some id => ((s.frame? id).map (·.admitted)).getD true
    | none => false
  let rs := Tab.get [] (s.link p).rx v
  let n := rs.foldl (fun t r => if free r then t + (r.complete - r.gone) else t) 0
  let rs := rs.map fun r => if free r then { r with gone := max r.gone r.complete } else r
  let rs := rs.filter fun r => !(free r && r.ended)
  s.modLink p fun l =>
    { l with rx := Tab.set [] l.rx v rs, freed := Tab.mod 0 l.freed v fun x => (x + n) % 65536,
             rxUsed := Tab.mod 0 l.rxUsed v (· - n) }
/-- Mark the received frame that is frame `id` of the core as dropped. -/
def State.rxDrop (s : State) (p id : Nat) : State :=
  vcList.foldl (fun s v =>
    (s.modLink p fun l =>
      { l with rx := Tab.mod [] l.rx v fun rs =>
          rs.map fun r => if r.frame == some id then { r with drop := true } else r }).rxSettle p v) s

/-! ## Outbound bindings (R64, R424) -/

/-- The entries of a binding's frame leave its halves: a count for each that leaves the
near half, 64 at once for a compressed tile (R64, R424). -/
def State.bindingLeave (s : State) (t q len : Nat) (tile : Bool) : State :=
  if tile then
    (s.modTun t fun u => u.modQueue q fun x => { x with far := x.far.drop 64 }).countFlag t q 64
  else
    let n := ceilDiv len 64
    let far := ((s.tun t).queue q).far.length
    let s := s.modTun t fun u => u.modQueue q fun x => { x with far := x.far.drop n, near := x.near.drop (n - far) }
    if far < n then s.countFlag t q (n - far) else s

/-- A stream queue's frame has been performed, sent or lost with STATUS `fail` (R335). -/
def State.opFrame (s : State) (qi : Option (Nat × Nat)) (fail : Nat) : State :=
  match qi with
  | none => s
  | some (q, i) =>
    let f (o : SqOp) : SqOp :=
      if o.index == i then { o with frames := o.frames - 1, fail := orDefault o.fail fail } else o
    s.modSq q fun x => { x with ops := x.ops.map f }
/-- The frame of a stream queue has been performed or sent. -/
def State.opFrameDone (s : State) (id fail : Nat) : State :=
  (s.opFrame ((s.frame? id).bind (·.queue)) fail).modFrame id fun f => { f with performed := true }

/-! ## Sampling (R296) -/

/-- One completed lookup is counted, and sampled when its turn comes. -/
def State.sample (s : State) (p : Nat) (arrived : Header) (egress vc flags : Nat) : State :=
  let cfg := s.core.sampCfg.toNat
  if !bitOf cfg 31 then s else
  let n := s.core.lookups + 1
  let s := s.modCore fun c => { c with lookups := n }
  if n % 2 ^ bitsOf cfg 20 16 != 0 then s
  else if 16 ≤ s.core.samples.length then s.modCore fun c => { c with sampLost := min (c.sampLost + 1) (2 ^ 32 - 1) }
  else
    let rec_ := arrived.bytes ++ leBytes 8 s.time.ftc ++ leBytes 1 p ++ leBytes 1 egress ++ leBytes 1 vc
      ++ leBytes 1 flags ++ leBytes 1 s.granary.lev ++ zeros 3 ++ leBytes 8 n ++ zeros 8
    s.modCore fun c => { c with samples := c.samples ++ [rec_] }

/-! ## Lookup -/

/-- A header error at port `p` (R167): DISC, MLT_HDR_ERR and the fault. -/
def State.headerError (s : State) (p cause : Nat) : State :=
  let s := (s.countVerdict p 0).modCore fun c =>
    { c with hdrErr :=
        if bitOf c.hdrErr.toNat 31 then c.hdrErr ||| word (2 ^ 30) else word (2 ^ 31 + cause * 2 ^ 20 + p) }
  s.raise (srcPort p 0) s.core.hdrErr.toNat
/-- The targets of multicast entry `e` in force: (node, endpoint) (R179). -/
def State.targets (s : State) (e : Nat) : List (Nat × Nat) :=
  (List.range 8).filterMap fun k =>
    let w := (Tab.get 0x0000FFFF#32 s.core.mc (8 * e + k)).toNat
    if w % 65536 == 0xFFFF then none else some (w % 65536, w / 65536)
/-- The route of one copy (R168, R179, R281): its egress, whether it is local, its
header; or the cause of its header error. -/
def State.routeCopy (s : State) (p : Nat) (h : Header) : Nat ⊕ (Nat × Bool × Header) :=
  if s.isLocal h then .inr (s.localPort h, true, h)
  else match s.routeRemote p h with
    | some (e, h) => .inr (e, false, h)
    | none => .inl 9
/-- The route of a multicast copy made at entry `e`. -/
def State.routeTarget (s : State) (p e : Nat) (h : Header) : Nat ⊕ (Nat × Bool × Header) :=
  if s.isLocal h && h.epKind == 15 then
    if h.epIdx ≤ e || 256 ≤ h.epIdx then .inl 10 else .inr (30, false, h)
  else match (match headerCause h.sealed with | some c => some c | none => s.ingressCause p h.sealed) with
    | some c => .inl c
    | none => s.routeCopy p h
/-- MLT_CJ_SEL enables a stream (R156): its LAYER. -/
def State.journalLayer (s : State) (stream : Nat) : Option Nat :=
  ((List.range 64).map fun i => (Tab.get 0 s.journal.sel i).toNat).findSome? fun w =>
    if bitOf w 31 && w % 65536 == stream then some (bitsOf w 30 16) else none
/-- The frame gets a copy for the cask journal (R181). -/
def State.journaled (s : State) (h : Header) : Bool :=
  bitOf s.journal.cfg.toNat 15 && !s.isFatal && s.isLocal h &&
    ((h.op.toNat == 0x01 && h.epKind == 0 && (s.journalLayer h.stream.toNat).isSome)
      || (h.op.toNat == 0x04 && h.cj))
/-- Link port `e` is down for frames that are looked up: neither UP nor isolated, which is a
fence (R182, R270, R274, R284). -/
def State.egressDown (s : State) (e : Nat) : Bool :=
  e < 14 && match (s.link e).phase with | .up => false | .isolated => false | _ => true
/-- Give a copy its place in its flow, or discard it when its egress is down (R172, R182, R284). -/
def State.addCopy (s : State) (id : Nat) (c : Copy) : State :=
  match s.frame? id with
  | none => s
  | some f =>
    let down := s.egressDown c.egress
    let s := if down then s.countVerdict c.egress 0 else s
    let flow := (f.port * 32 + c.egress) * 12 + c.hdr.vc.toNat
    let n := Tab.get 0 s.core.flowNext flow
    let s := if down then s else s.modCore fun x =>
      { x with flowNext := Tab.set 0 x.flowNext flow ((n + f.cells) % 4096) }
    s.modFrame id fun f => { f with copies := f.copies ++ [{ c with seq0 := n, finished := down }], refs := f.refs + 1 }
/-- One copy of frame `f` bound for egress `e`. -/
def State.copyTo (s : State) (f : Frame) (e : Nat) (isLocal multi : Bool) (h : Header) : Copy :=
  { egress := e, isLocal := isLocal, hdr := h, multi := multi,
    cut := !bitOf (b2n (Tab.get false s.core.ctOff e)) 0 && s.portRate e ≤ s.portRate f.port }
/-- Take the references of frame `f` (R179, R181, R188). -/
def State.lookupFrame (s : State) (f : Frame) : State :=
  let h := f.hdr
  let hold : Bool := 256 ≤ f.owner && f.owner < 1280
  let s := s.modFrame f.id fun x => { x with looked := true, hold := hold, refs := b2n hold }
  let one (multi : Bool) (s : State) (r : Nat ⊕ (Nat × Bool × Header)) : State :=
    -- a copy for a local endpoint, and the journal's with the same header (R181)
    match r with
    | .inl c => (s.headerError f.port c).sample f.port h 0xFF h.vc.toNat (2 + 4 * b2n multi)
    | .inr (e, l, h') =>
      let c := s.copyTo f e l multi h'
      let s := (s.addCopy f.id c).sample f.port h (if l then 0xFE else if s.egressDown e then 0xFF else e)
        h'.vc.toNat (b2n c.cut + 4 * b2n multi)
      if l && s.journaled h' then s.addCopy f.id { s.copyTo f 29 true false h' with journal := true } else s
  let s :=
    if s.isLocal h && h.epKind == 15 then
      (s.targets h.epIdx).foldl (fun s t =>
        let h' := { h.setPhase2 false with dest := BitVec.ofNat 16 t.1, endpoint := BitVec.ofNat 16 t.2, inter := 0xFFFF#16 }
        one true s (s.routeTarget f.port h.epIdx h')) s
    else one false s (s.routeCopy f.port h)
  s.seeDepth (((s.frame? f.id).map fun x => x.copies.map (·.egress)).getD [])
/-- A frame is gone: its cells, or the reservation that paid for it, are returned, before what the
granary grants in its cycle (R186, R188, R191). -/
def State.freeFrame (s : State) (id : Nat) : State :=
  match s.frame? id with
  | none => s
  | some f =>
    let s := if f.performed then s else s.opFrame f.queue (if f.hdr.op.toNat == 0x01 then 0 else 3)
    let s := s.modCore fun c => { c with frames := c.frames.filter fun x => x.id != id }
    let s := match f.tag with
      | some t => s.dropResv t
      | none => if f.admitted then (s.granaryTurn 0).giveCells f.owner f.hdr.vc.toNat f.cells else s
    if f.port < 14 then s.rxDrop f.port id else s
/-- The frame is freed when no reference is left. -/
def State.freeIfDone (s : State) (id : Nat) : State :=
  match s.frame? id with
  | some f => if f.looked && f.refs == 0 then s.freeFrame id else s
  | none => s
/-- A frame with a header error goes no further: what it brought is freed (R167, R183). -/
def State.refuseFrame (s : State) (f : Frame) (cause : Nat) : State :=
  let s := match f.binding with
    | some (t, q) => s.bindingLeave t q f.payload.length f.hdr.cmp
    | none => s
  let s := ((s.opFrame f.queue 3).headerError f.port cause).sample f.port f.hdr 0xFF f.hdr.vc.toNat 2
  let s := s.modCore fun c => { c with frames := c.frames.filter fun x => x.id != f.id }
  if f.port < 14 then s.rxDrop f.port f.id else s
/-- The lookup of `x` comes before that of `f`: by the core cycle, then ascending port, then in
the order in which headers arrived (R173, R296). -/
def Frame.before (x f : Frame) : Bool :=
  x.at_ < f.at_ || (x.at_ == f.at_ && (x.port < f.port || (x.port == f.port && x.id < f.id)))
/-- FRAME_LOOKUP: four core cycles after cell 0 (R168, R173, R296). -/
def execFrameLookup (k : Nat) (s : State) : Out :=
  match s.frame? k with
  | none => .next s
  | some f =>
    if !s.alive || f.looked || s.core.frames.any (fun x => !x.looked && x.before f) then .next s else
    let s := s.reach (s.coreFtc (f.at_ + 4))
    match f.bad with
    | some c => .next (s.refuseFrame f c)
    | none => .next ((s.lookupFrame f).freeIfDone k)

/-! ## Ingress -/

/-- The staging cell of VC `v` at ingress `p` is free (R184). -/
def State.stagingFree (s : State) (p v : Nat) : Bool :=
  !s.core.frames.any fun f => f.port == p && f.hdr.vc.toNat == v && !f.admitted
/-- The owner of a frame at ingress `p` (R183), and the reservation that pays for it (R191). -/
def State.ownerOf (s : State) (p : Nat) (h : Header) : Nat × Option Nat :=
  if s.isLocal h then
    match h.replyTag with
    | some t => (ownReply, some t)
    | none => if h.cls.toNat == 2 && h.epKind == 1 then (256 + h.epIdx % 1024, none) else (8 * p + h.cls.toNat, none)
  else (8 * p + h.cls.toNat, none)
/-- Port `p` cannot take bytes of VC `v` from its internal source: an earlier frame waits for
its cells, or at its source (R182, R195). -/
def State.portBusy (s : State) (p v : Nat) : Bool :=
  !s.stagingFree p v || (Tab.get [] s.core.inject p).any (fun f => f.hdr.vc.toNat == v)
    || s.core.held.any fun f => f.port == p && f.hdr.vc.toNat == v
/-- A frame takes its staging cell. -/
def State.enterFrame (s : State) (f : Frame) : State :=
  let (o, tag) := s.ownerOf f.port f.hdr
  s.modCore fun c =>
    { c with frames := c.frames ++ [{ f with id := c.nextId, cells := cellsOf f.hdr.length.toNat, owner := o,
                                              tag := tag, at_ := s.coreNow }],
             nextId := c.nextId + 1 }
/-- The header that a v2 port hands to the core (R265), or the cause 7 of its own. -/
def fromV2 (h : Header) : Header := { h with version := 3 }.sealed
/-- The cause of a header as link port `p` received it (R265, R167). -/
def State.linkCause (s : State) (p : Nat) (h : Header) : Option Nat :=
  if (s.link p).version == 2 then
    if h.hchk != h.check then some 1
    else if h.version != 2#8 then some 2
    else match s.ingressCause p (fromV2 h) with
      | some c => if c < 7 then some c
                  else if h.epoch != 0 || h.flags != 0 || h.opx.toNat / 2 ^ 32 != 0 then some 7 else some c
      | none => if h.epoch != 0 || h.flags != 0 || h.opx.toNat / 2 ^ 32 != 0 then some 7 else none
  else s.ingressCause p h
/-- The received frames of link port `p` whose cell 0 is complete and next on its VC. -/
def State.rxReady (s : State) (p : Nat) : List (Nat × RxFrame) :=
  vcList.filterMap fun v =>
    match (Tab.get [] (s.link p).rx v).find? fun r => r.frame.isNone && !r.drop with
    | some r => if (r.ended || 256 ≤ r.bytes.length) && s.stagingFree p v then some (v, r) else none
    | none => none
/-- What a link frame has brought so far: payload, tail, whether its CRC holds, long, short (R175, R176). -/
def rxParts (len : Nat) (r : RxFrame) : List Byte × Tail × Bool × Bool × Bool :=
  let body := r.bytes.drop 32
  if !r.ended then (body.take len, {}, true, false, false) else
  let n := body.length - 8
  let t := tailOf (body.drop n)
  (body.take (min n len), t, t.crc == word (crc32c (r.bytes.take (32 + n))), len < n, n < len)
/-- Cell 0 of the earliest received frame of link port `p` arrives at the ingress. -/
def State.linkIngress (s : State) (p : Nat) : State :=
  match (s.rxReady p).foldl (fun (best : Option (Nat × RxFrame)) x =>
      match best with | some b => if x.2.order < b.2.order then some x else some b | none => some x) none with
  | none => s
  | some (v, r) =>
    let h := headerOf (r.bytes.take 32)
    let put (f : RxFrame → RxFrame) (s : State) : State := s.modLink p fun l =>
      { l with rx := Tab.mod [] l.rx v fun rs => rs.map fun x => if x.order == r.order then f x else x }
    let bad := s.linkCause p h
    let h := if bad.isNone && (s.link p).version == 2 then fromV2 h else h
    let (pl, t, ok, long, short) := rxParts h.length.toNat r
    let s := put (fun x => { x with frame := some s.core.nextId }) s
    s.enterFrame { id := 0, port := p, hdr := h, payload := pl, inTail := t, crcOk := ok, link := true,
                   ended := r.ended, long := long, short := short, cells := 0, owner := 0, bad := bad }
/-- Cell 0 of the next frame of an internal source arrives at ingress `p`. -/
def State.innerIngress (s : State) (p : Nat) : State :=
  let fs := Tab.get [] s.core.inject p
  match fs.findIdx? fun f => s.stagingFree p f.hdr.vc.toNat with
  | none => s
  | some i =>
    match fs[i]? with
    | none => s
    | some f =>
      let s := s.modCore fun c => { c with inject := Tab.set [] c.inject p (fs.eraseIdx i) }
      s.enterFrame { id := 0, port := p, hdr := f.hdr, payload := f.payload, inTail := f.tail, cells := 0,
                     owner := 0, queue := f.queue, binding := f.binding, layer := f.layer,
                     bad := s.ingressCause p f.hdr }
/-- FRAME_INGRESS (R167, R184). -/
def execFrameIngress (p : Fin 32) (s : State) : Out :=
  if !s.alive then .next s
  else .next (if p.val < 14 then s.linkIngress p else s.innerIngress p)

/-! ## Admission -/

/-- The RECVs posted and not yet used by a frame, none after one that failed (R336, R338). -/
def StreamQ.recvs (x : StreamQ) : List SqOp :=
  if x.stopping.isSome then [] else
  (x.ops.takeWhile fun o => o.status.getD 0 == 0).filter fun o => byteAt o.desc 0 == 4 && o.posted && o.status.isNone
/-- How many RECVs of queue `q` wait for a frame. -/
def State.recvPosted (s : State) (q : Nat) : Nat := (s.sq q).recvs.length
/-- A frame for a receive queue waits at the ingress until a RECV is posted for it (R336). -/
def State.recvWaits (s : State) (f : Frame) : Bool :=
  s.isLocal f.hdr && f.hdr.op.toNat == 0x01 && f.hdr.epKind == 2 &&
    (s.recvPosted f.hdr.epIdx ≤ (s.core.frames.filter fun x =>
      x.admitted && s.isLocal x.hdr && x.hdr.op.toNat == 0x01 && x.hdr.endpoint == f.hdr.endpoint
        && x.copies.any fun c => c.isLocal && !c.journal && !c.finished).length)
/-- Cells of chunk `n`'s reservation are charged. -/
def useChunk (n cells : Nat) : List Chunk → List Chunk
  | [] => []
  | k :: ks => if k.index == n && k.resv != 0 then { k with resv := k.resv - cells } :: ks else k :: useChunk n cells ks
/-- A frame of a collective owner uses the reservation of its chunk: a contribution the
grant's, a result its result reservation's (R242). -/
def State.useResv (s : State) (f : Frame) : State :=
  let ord := f.hdr.opx.toNat % 2 ^ 32
  let n := f.hdr.seq.toNat
  if f.owner < 256 || 1280 ≤ f.owner then s
  else if f.hdr.op.toNat == 0x30 then
    s.modCtx (f.owner - 256) fun c =>
      if c.ordinal != ord || f.hdr.epoch.toNat != s.col.gen * 32 + (s.col.round.toNat + c.round) % 32 then c else
      { c with chunks := useChunk n f.cells c.chunks }
  else if f.hdr.op.toNat == 0x31 then
    s.modCol fun c =>
      { c with resHeld := c.resHeld.map fun x =>
          if x.ordinal == ord && x.epoch == f.hdr.epoch.toNat && x.chunk == n then { x with cells := x.cells - f.cells } else x }
  else s
/-- The frame has its cells. -/
def State.admitted (s : State) (f : Frame) : State :=
  let s := (s.useResv f).modFrame f.id fun x => { x with admitted := true }
  let s := match f.binding with
    | some (t, q) => s.bindingLeave t q f.payload.length f.hdr.cmp
    | none => s
  let s := if f.port < 14 then vcList.foldl (fun s v => s.rxSettle f.port v) s else s
  s.seeDepth (((s.frame? f.id).map fun x => x.copies.map (·.egress)).getD [])
/-- The granary's counters are touched; `parity` says that they show a parity error, source 1768. -/
def State.granaryParity (s : State) (parity : Bool) : State := if parity then s.raise 1768 0 else s
/-- FRAME_ADMISSION (R185, R186, R191). -/
def execFrameAdmission (k : GranaryAct) (s : State) : Out :=
  match s.frame? k.frame with
  | none => .next s
  | some f =>
    if !s.alive || f.admitted || f.bad.isSome || s.recvWaits f then .next s else
    let s := (s.granaryTurn (1 + f.port)).granaryParity k.parity
    if f.tag.isSome then .next (s.admitted f)
    else
      let (s, ok) := s.takeCells f.owner f.hdr.vc.toNat f.cells
      .next (if ok then s.admitted f else s)

/-! ## The fabric (R171, R172) -/

/-- Cells of a frame that are in the cell memory. -/
def Frame.arrived (f : Frame) : Nat :=
  if f.ended || f.cutOff then f.cells else min f.cells ((32 + f.payload.length) / 256)
/-- The next cell of a copy on plane `p`. -/
def Copy.next (c : Copy) (p : Nat) : Nat := if p == 0 then 2 * c.sent0 else 2 * c.sent1 + 1
/-- All cells of the copy are in the fabric or beyond it. -/
def Copy.allSent (c : Copy) (cells : Nat) : Bool := c.finished || cells ≤ c.sent0 + c.sent1
/-- The (frame, copy) pairs at input `i` in the order of their lookups. -/
def State.inputCopies (s : State) (i : Nat) : List (Frame × Nat × Copy) :=
  (s.core.frames.filter fun f => f.port == i && f.looked).flatMap fun f =>
    (List.range f.copies.length).filterMap fun j => (f.copies[j]?).map fun c => (f, j, c)
/-- The frame and copy whose descriptor input `i` sends on plane `p` to an intermediate
with room as given: the oldest, behind no unsent frame of its own flow (R171, R173). -/
def oldest (plane : Nat) (room : Nat → Bool) : List (Nat × Nat) → List (Frame × Nat × Copy) → Option (Frame × Nat × Copy)
  | _, [] => none
  | seen, (f, j, c) :: rest =>
    let flow := (c.egress, c.hdr.vc.toNat)
    let n := c.next plane
    if f.admitted && !c.finished && n < f.cells && n < f.arrived && (c.cut || f.arrived == f.cells)
        && !seen.contains flow && room c.egress then some (f, j, c)
    else oldest plane room (if c.allSent f.cells then seen else flow :: seen) rest
/-- Key of the FIFO of intermediate `j` for output `o` on a plane. -/
def fifoKey (plane j o : Nat) : Nat := plane * 1024 + j * 32 + o
/-- Stage 1 of input `i` on a plane in core cycle `c`, if a descriptor moves. -/
def State.stage1 (s : State) (plane i c : Nat) : Option State :=
  let j := (i + c + 16 * plane) % 32
  let room (o : Nat) : Bool := (Tab.get [] s.core.fifos (fifoKey plane j o)).length < 16
  match oldest plane room [] (s.inputCopies i) with
  | none => none
  | some (f, k, x) =>
    let n := x.next plane
    let d : Desc := { frame := f.id, copy := k, cell := n, inPort := i, outPort := x.egress, vc := x.hdr.vc.toNat,
                      seq := (x.seq0 + n) % 4096, at_ := c + 1 }
    let s := s.modCore fun y => { y with fifos := Tab.mod [] y.fifos (fifoKey plane j x.egress) (· ++ [d]) }
    some (s.modCopy f.id k fun y =>
      if plane == 0 then { y with sent0 := y.sent0 + 1 } else { y with sent1 := y.sent1 + 1 })
/-- Stage 2 of intermediate `j` on a plane in core cycle `c`, if a descriptor moves. -/
def State.stage2 (s : State) (plane j c : Nat) : Option State :=
  let o := (j + 32 - c % 32 + 16 * plane) % 32
  match Tab.get [] s.core.fifos (fifoKey plane j o) with
  | [] => none
  | d :: rest =>
    if c < d.at_ then none else
    some (s.modCore fun y =>
      let r := Tab.get [] y.reseq o ++ [d]
      { y with fifos := Tab.set [] y.fifos (fifoKey plane j o) rest, reseq := Tab.set [] y.reseq o r,
               reseqHigh := Tab.mod 0 y.reseqHigh o (max r.length) })
/-- FABRIC_DESCRIPTOR_HOP: in the first core cycle, of the 32 of a rotation, in which the
connection carries a descriptor. -/
def execFabricDescriptorHop (second : Bool) (plane : Fin 2) (i : Fin 32) (s : State) : Out :=
  if !s.alive then .next s else
  let key := b2n second * 64 + plane.val * 32 + i.val
  let c0 := max s.coreNow (Tab.get 0 s.core.hopNext key)
  let hop (c : Nat) : Option State := if second then s.stage2 plane i c else s.stage1 plane i c
  match (List.range 33).findSome? fun d => (hop (c0 + d)).map fun s => (c0 + d, s) with
  | none => .next s
  | some (c, s') =>
    let due := s'.coreFtc c
    .next ((s'.modCore fun y => { y with hopNext := Tab.put y.hopNext key (c + 1) }).reach due)
/-- RESEQUENCER_RELEASE: the next descriptor of a flow in core sequence order (R172). -/
def execResequencerRelease (p : Fin 32) (s : State) : Out :=
  let rs := Tab.get [] s.core.reseq p.val
  let flow (d : Desc) : Nat := (d.inPort * 32 + d.outPort) * 12 + d.vc
  match rs.findIdx? fun d => d.seq == Tab.get 0 s.core.flowWant (flow d) with
  | none => .next s
  | some i =>
    match rs[i]? with
    | none => .next s
    | some d =>
      if !s.alive then .next s else
      .next (s.modCore fun y =>
        let act := Tab.get [] y.active p.val
        { y with reseq := Tab.set [] y.reseq p.val (rs.eraseIdx i),
                 flowWant := Tab.set 0 y.flowWant (flow d) ((d.seq + 1) % 4096),
                 egress := Tab.mod [] y.egress (p.val * 12 + d.vc) (· ++ [d]),
                 active := if act.contains d.vc then y.active else Tab.set [] y.active p.val (act ++ [d.vc]) })

/-! ## Egress -/

/-- Q of VC `v` at egress `p` in force (R196). -/
def State.quantum (s : State) (p v : Nat) : Nat := orDefault (s.field secSched (12 * p + v) 1) 4
/-- The VC that a slot of egress `p` serves (R194); at most `n` more are visited. -/
def State.drr (s : State) (p : Nat) : Nat → State × Option Nat
  | 0 => (s, none)
  | n + 1 =>
    match Tab.get [] s.core.active p with
    | [] => (s, none)
    | v :: rest =>
      match s.egressSt p v with
      | .ready => (s, some v)
      | .empty =>
        State.drr (s.modCore fun c => { c with active := Tab.set [] c.active p rest,
                                               deficit := Tab.set 0 c.deficit (p * 12 + v) 0 }) p n
      | _ => State.drr (s.modCore fun c => { c with active := Tab.set [] c.active p (rest ++ [v]) }) p n
/-- A flit of 62 bytes with its CRC (R257). -/
def sealFlit (b : List Byte) : List Byte := b ++ leBytes 2 (crc16 0x1021 0xFFFF b)
/-- A flit that lane `i` of port `p` sends again: a corrected fault (R260). -/
def State.resend (s : State) (p i num : Nat) (flit : List Byte) : State :=
  let s := (s.modLink p fun l =>
    { l with reTx := l.reTx.drop 1, replayed := satInc 32 l.replayed, proved := l.proved + 1, sinceCtl := l.sinceCtl + 1,
             sinceCred := l.sinceCred + 1 }).sendSlot p i fun h => .flit p h num flit
  (s.modHealth fun h => { h with replayed := h.replayed + 1 }).raise (srcLink p 0) 0
/-- A data flit goes out on the next lane, which numbers it and keeps it for replay (R258, R260). -/
def State.sendFlit (s : State) (p : Nat) (flit : List Byte) : State :=
  let i := (s.link p).txLane
  let num := ((s.link p).lane i).txNum
  (s.modLink p fun l =>
    { l with txWait := l.txWait.erase flit, txNext := (l.txNext + 1) % max 1 l.trainedLanes.length,
             sinceCtl := l.sinceCtl + 1, sinceCred := l.sinceCred + 1,
             lanes := Tab.mod {} l.lanes i fun x =>
               { x with txNum := (num + 1) % 4096, replay := x.replay ++ [(num, flit, s.now)] } }).sendSlot p i
    fun h => .flit p h num flit
/-- The flits that wait go out while slots and lanes take them, those sent again first, at a port
that is UP (R258 to R261, R270, R273); `n` bounds their number. -/
def State.drainTx (s : State) (p : Nat) : Nat → State
  | 0 => s
  | n + 1 =>
    let l := s.link p
    if l.phase != .up then s else
    match l.reTx with
    | (i, num, flit) :: _ => if l.slotOpen then State.drainTx (s.resend p i num flit) p n else s
    | [] =>
      match l.txWait.find? (l.mayGo p) with
      | some flit => if l.takesFlit p then State.drainTx (s.sendFlit p flit) p n else s
      | none => s
/-- One data flit of link port `p` is made (R257, R258). -/
def State.dataFlit (s : State) (p v : Nat) (sof isEnd : Bool) (bs : List Byte) : State :=
  let body := if isEnd then fit 60 bs ++ leBytes 1 bs.length else fit 61 bs
  let b := body ++ leBytes 1 (v * 16 + (if isEnd then 12 else 8) + 2 * b2n sof)
  s.modLink p fun l => { l with txWait := l.txWait ++ [sealFlit b] }
/-- Send the whole data flits that bytes fill; `n` bounds their number. -/
def State.fillFlits (s : State) (p v : Nat) : Nat → Bool → List Byte → State × Bool × List Byte
  | 0, sof, bs => (s, sof, bs)
  | n + 1, sof, bs =>
    if bs.length < 61 then (s, sof, bs)
    else State.fillFlits (s.dataFlit p v sof false (bs.take 61)) p v n false (bs.drop 61)
/-- The bytes of one cell leave on VC `v` of link port `p` (R258). -/
def State.sendBytes (s : State) (p v : Nat) (bs : List Byte) (last : Bool) : State :=
  let l := s.link p
  let buf := Tab.get [] l.txBuf v ++ bs
  let (s, sof, rest) := s.fillFlits p v (buf.length / 61) (!Tab.get false l.txOpen v) buf
  let s := if last then s.dataFlit p v sof true rest else s
  let s := s.modLink p fun l =>
    { l with txBuf := Tab.set [] l.txBuf v (if last then [] else rest),
             txOpen := Tab.set false l.txOpen v (!last && !sof) }
  s.drainTx p (s.link p).waiting
/-- A copy's header as link port `p` or a loopback port sends it (R166, R265). -/
def State.outHeader (s : State) (p : Nat) (h : Header) : Header :=
  let h := { h with hops := BitVec.ofNat 8 (h.hops.toNat + 1) }
  if p < 14 && (s.link p).version == 2 then
    { h with version := 2, epoch := 0, flags := 0, opx := BitVec.ofNat 64 (h.opx.toNat % 2 ^ 32) }.sealed
  else h.sealed
/-- A frame bound for a v2 egress loses payload or fields there (R265). -/
def State.cutByV2 (s : State) (p : Nat) (f : Frame) (h : Header) : Bool :=
  p < 14 && (s.link p).version == 2
    && (2048 < f.hdr.length.toNat || h.epoch != 0 || h.flags != 0 || h.opx.toNat / 2 ^ 32 != 0)
/-- The bytes of a copy as link port `p` sends them (R166, R174, R175, R265). -/
def State.copyBytes (s : State) (p : Nat) (f : Frame) (h : Header) : List Byte :=
  let cut2 := s.cutByV2 p f h
  let n := if p < 14 && (s.link p).version == 2 then min 2048 f.hdr.length.toNat else f.hdr.length.toNat
  let front := (s.outHeader p h).bytes ++ fit n f.payload
  let t : Tail :=
    if f.verdict == 0 && cut2 then s.mkTail 2 7
    else { verdict := BitVec.ofNat 8 f.verdict, reason := BitVec.ofNat 8 f.reason, marker := BitVec.ofNat 16 f.marker }
  front ++ ({ t with crc := word (crc32c front) } : Tail).bytes
/-- The tail of copy `j` of frame `f` leaves egress `p`: to a local endpoint, to the
ingress of a loopback port, or on a link. -/
def State.copyOut (s : State) (p : Nat) (f : Frame) (j : Nat) (c : Copy) : State :=
  if c.isLocal then
    let x : InFrame :=
      { id := f.id, copy := j, port := p, inPort := f.port, hdr := c.hdr,
        payload := fit f.hdr.length.toNat f.payload, verdict := f.verdict, reason := f.reason,
        marker := f.marker, order := s.core.tails, cycle := s.coreNow }
    s.modCore fun y => { y with tails := y.tails + 1, inbox := y.inbox ++ [x] }
  else
    let s := s.modCopy f.id j fun x => { x with finished := true }
    if p < 30 then s else
    let t : Tail := { verdict := BitVec.ofNat 8 f.verdict, reason := BitVec.ofNat 8 f.reason, marker := BitVec.ofNat 16 f.marker }
    let x : SrcFrame := { port := p, hdr := s.outHeader p c.hdr, payload := fit f.hdr.length.toNat f.payload, tail := t }
    s.modCore fun y => { y with inject := Tab.mod [] y.inject p (· ++ [x]) }
/-- The next cell of VC `v` leaves egress `p`; frames and cells count when the tail does (R295). -/
def State.sendCell (s : State) (p v : Nat) : State :=
  match s.egressHead p v with
  | none => s
  | some d =>
    let s := s.modCore fun c => { c with egress := Tab.mod [] c.egress (p * 12 + v) (·.erase d) }
    match s.frame? d.frame with
    | none => s
    | some f =>
      match f.copies[d.copy]? with
      | none => s
      | some c =>
        let last := d.cell + 1 == f.cells
        let s :=
          if p < 14 then
            let s := if d.cell == 0 then s.modLink p fun l =>
                { l with sent := Tab.mod 0 l.sent v fun x => (x + s.cellsOn p f) % 65536 } else s
            s.sendBytes p v (((s.copyBytes p f c.hdr).drop (256 * d.cell)).take 256) last
          else s
        let s := s.modCopy f.id d.copy fun x => { x with out := d.cell + 1 }
        if !last then s else
        -- a truncation for ALP v2 is this hop's own verdict (R175, R265)
        let s := if f.verdict == 0 && s.cutByV2 p f c.hdr then s.countVerdict f.port 2 else s
        (s.modCore fun y => (y.tel_ p 0 1).tel_ p 1 (s.cellsOn p f)).copyOut p f d.copy c
/-- Egress `p` has slots: a link port has one only when its lanes can take a cell (R194). -/
def State.hasSlot (s : State) (p : Nat) : Bool := 14 ≤ p || (s.linkUp p && (s.link p).takesCell p)
/-- EGRESS_SLOT (R194): slot `plane` of the present core cycle. -/
def execEgressSlot (p : Fin 32) (plane : Fin 2) (s : State) : Out :=
  if !s.alive || !s.hasSlot p || 1 < plane.val then .next s else
  let (s, v) := s.drr p (Tab.get [] s.core.active p.val).length
  match v with
  | none => .next s
  | some v =>
    let d := orDefault (Tab.get 0 s.core.deficit (p.val * 12 + v)) (s.quantum p v) - 1
    let s := s.sendCell p v
    .next (s.modCore fun c =>
      { c with deficit := Tab.set 0 c.deficit (p.val * 12 + v) d,
               active := if d == 0 then Tab.mod [] c.active p.val (fun a => a.filter (· != v) ++ [v]) else c.active })

/-! ## Tails and references -/

/-- The outgoing verdict of a frame (R175, R176): VERDICT and REASON set here, if any. -/
def Frame.judge (f : Frame) (e : EccOutcome) : Nat × Nat :=
  if f.cutOff then (2, 2)
  else if f.short then (2, 7)
  else if e == .uncorrectable then (3, 3)
  else if !f.crcOk && !f.long then (1, 1)
  else if f.long then (1, 7)
  else (0, 0)
/-- The field of MLT_PORT_VERDICT in which a verdict counts. -/
def verdictField (v : Nat) : Nat := match v with | 1 => 3 | 2 => 2 | _ => 1
/-- FRAME_TAIL: the incoming tail is checked and the verdict set (R175, R176). A frame of this
node's own that its source closed with a verdict other than good counts at its ingress too; one
that a unit sends on with the verdict of another node does not. -/
def execFrameTail (k : Nat) (e : EccOutcome) (s : State) : Out :=
  match s.frame? k with
  | none => .next s
  | some f =>
    if !s.alive || f.tailSeen || !f.looked || !f.admitted || !(f.ended || f.cutOff) then .next s else
    let inc := f.inTail.verdict.toNat
    let s := if f.cutOff then s else s.modCore (·.tel_ f.port 6 1)
    let s := if f.hdr.op.toNat == 0x01 then s.opFrameDone k 0 else s
    let s := match e with
      | .symbol => (s.modHealth fun h => { h with cellCorr := h.cellCorr + 1 }).raise 1766 0
      | .uncorrectable => s.raise 1767 0
      | _ => s
    if inc != 0 && !f.cutOff then
      let own := 14 ≤ f.port && f.port < 30 && f.inTail.marker.toNat == s.nodeId
      let s := if own then s.countVerdict f.port (verdictField inc) else s
      .next (s.modFrame k fun f =>
        { f with tailSeen := true, verdict := min inc 3, reason := f.inTail.reason.toNat, marker := f.inTail.marker.toNat })
    else
      let (v, r) := f.judge e
      let s := if v == 0 then s else s.countVerdict f.port (verdictField v)
      .next (s.modFrame k fun f =>
        { f with tailSeen := true, verdict := v, reason := r, marker := if v == 0 then 0xFFFF else s.nodeId })
/-- A reference of frame `id` is released (R188). -/
def State.dropRef (s : State) (id : Nat) : State :=
  (s.modFrame id fun f => { f with refs := f.refs - 1 }).freeIfDone id
/-- REFERENCE_RELEASE: of the first copy that has left, been taken or been discarded (R186, R188). -/
def execReferenceRelease (k : GranaryAct) (s : State) : Out :=
  match s.frame? k.frame with
  | none => .next s
  | some f =>
    match f.copies.findIdx? fun c => c.finished && !c.released with
    | none => .next s
    | some j =>
      if !s.alive then .next s else
      let s := (s.granaryTurn 0).granaryParity k.parity
      .next ((s.modCopy k.frame j fun c => { c with released := true }).dropRef k.frame)
/-- A collective context gives up its hold of frame `id` (R189). -/
def State.dropHold (s : State) (id : Nat) : State :=
  match s.frame? id with
  | some f => if f.hold then (s.modFrame id fun f => { f with hold := false }).dropRef id else s
  | none => s
/-- A local endpoint has taken a frame of the inbox. -/
def State.taken (s : State) (x : InFrame) : State :=
  (s.modCore fun c => { c with inbox := c.inbox.filter fun y => !(y.id == x.id && y.copy == x.copy) }).modCopy
    x.id x.copy fun c => { c with finished := true }
/-- The copy that the cask journal engine takes (R181): its port is 29 and its OP is not
one of the engine's own. -/
def InFrame.journalCopy (x : InFrame) : Bool := x.port == 29 && (x.hdr.op.toNat == 0x01 || x.hdr.op.toNat == 0x04)
/-- The frame `k` before a local endpoint, when it carries one of the operations. -/
def State.inboxFor (s : State) (k : Nat) (ops : List Nat) : Option InFrame :=
  if !s.alive then none else
  s.core.inbox.find? fun x => x.id == k && ops.contains x.hdr.op.toNat && !x.journalCopy

/-! ## Ports that stop -/

/-- Every frame queued for egress `p` is discarded, and the rest of any in progress (R182). -/
def State.discardEgress (s : State) (p : Nat) : State :=
  let hit (f : Frame) : Bool := f.copies.any fun c => c.egress == p && !c.finished
  let n := (s.core.frames.filter hit).length
  let s := (List.range n).foldl (fun s _ => s.countVerdict p 0) s
  let keep (ds : List Desc) : List Desc := ds.filter fun d => d.outPort != p
  s.modCore fun y =>
    { y with frames := y.frames.map fun f =>
               { f with copies := f.copies.map fun c => if c.egress == p then { c with finished := true } else c },
             fifos := (y.fifos.map fun e => (e.1, keep e.2)).filter fun e => !e.2.isEmpty,
             reseq := y.reseq.drop p,
             egress := y.egress.filter fun e => e.1 / 12 != p,
             active := y.active.drop p,
             deficit := y.deficit.filter fun e => e.1 / 12 != p,
             flowNext := y.flowNext.filter fun e => e.1 / 12 % 32 != p,
             flowWant := y.flowWant.filter fun e => e.1 / 12 % 32 != p }
/-- What has not entered the cell memory of a frame cannot arrive: all but the staging cell of
a frame that has not been admitted, and of an admitted one what its ingress has not received,
with the bytes of the cell that it was receiving (R176, R184, R286). -/
def Frame.cutShort (f : Frame) : Frame :=
  if f.admitted then
    (if f.ended then f else { f with payload := f.payload.take ((32 + f.payload.length) / 256 * 256 - 32), cutOff := true })
  else if f.ended && f.cells ≤ 1 then f
  else { f with payload := f.payload.take 224, cutOff := true }
/-- The remaining cells of the frames of ingress `p` cannot arrive (R176). -/
def State.cutIngress (s : State) (p : Nat) : State :=
  s.modCore fun y => { y with frames := y.frames.map fun f => if f.port == p then f.cutShort else f }
/-- The internal source of the frames for which `own` holds is reset (R19, R176): those that
have not arrived are gone, and what remains of the others cannot arrive. -/
def State.cutSource (s : State) (p : Nat) (own : Option (Nat × Nat) → Bool) : State :=
  s.modCore fun y =>
    { y with frames := y.frames.map fun f => if f.port == p && own f.binding then f.cutShort else f,
             inject := Tab.mod [] y.inject p fun fs => fs.filter fun f => !own f.binding,
             held := y.held.filter fun f => !(f.port == p && own f.binding) }

end Sys2Proof.Machine
end

