-- ==== Sys2Proof/Machine/Groups.lean ====
section
/-! DEFINITION. Machine/Groups.lean: collective groups (R228 to R230), ordinals and
epochs (R231), levels, homes and inputs (R236 to R238), grants and result reservations
as a source sees them (R242, R243), and the delivery of results (R234). -/
namespace Sys2Proof.Machine

/-! ## Group records (R228) -/

/-- A GROUP record. -/
structure GroupRec where
  at_      : Nat := 0                -- byte offset in the body
  id       : Nat := 0
  parts    : Nat := 0
  delivery : Nat := 0
  chunkLog : Nat := 0                -- as written
  locals   : Nat := 0
  flags    : Nat := 0
  nexcl    : Nat := 0
  ctx      : List Nat := []          -- CTX_0 to CTX_4
  ext      : List Nat := []          -- EXTENT x, y, z
  origin   : List (List Nat) := []   -- by part
  excl     : List Nat := []
  deriving DecidableEq, Repr

/-- The record at offset `o` of a GROUP body. -/
def groupAt (g : Blob) (o : Nat) : GroupRec :=
  let parts := g.nat (o + 2) 1
  let nex := g.nat (o + 7) 1
  { at_ := o, id := g.nat o 2, parts := parts, delivery := g.nat (o + 3) 1, chunkLog := g.nat (o + 4) 1,
    locals := g.nat (o + 5) 1, flags := g.nat (o + 6) 1, nexcl := nex,
    ctx := (List.range 5).map fun l => g.nat (o + 8 + 2 * l) 2,
    ext := (List.range 3).map fun a => g.nat (o + 0x12 + 2 * a) 2,
    origin := (List.range parts).map fun p => (List.range 3).map fun a => g.nat (o + 0x18 + 8 * p + 2 * a) 2,
    excl := (List.range nex).map fun i => g.nat (o + 0x18 + 8 * parts + 2 * i) 2 }
/-- The bytes that a record takes, padding included. -/
def GroupRec.size (r : GroupRec) : Nat := ceilDiv (0x18 + 8 * r.parts + 2 * r.nexcl) 8 * 8
/-- `n` records from offset `o` on. -/
def groupRecsFrom (g : Blob) : Nat → Nat → List GroupRec
  | 0, _ => []
  | n + 1, o => let r := groupAt g o; r :: groupRecsFrom g n (o + r.size)
/-- The records of a GROUP body. -/
def groupRecs (g : Blob) : List GroupRec := groupRecsFrom g (min 4096 (g.nat 0 4)) 8
/-- The active record of group `i`. -/
def State.group? (s : State) (i : Nat) : Option GroupRec := (groupRecs (s.sec_ secGroup)).find? fun r => r.id == i
/-- The chunk size in bytes. -/
def GroupRec.chunk (r : GroupRec) : Nat := 2 ^ orDefault r.chunkLog 12
/-- EXTENT on axis `a`. -/
def GroupRec.extent (r : GroupRec) (a : Nat) : Nat := r.ext.getD a 1
/-- CTX_ℓ as the context number 256 × unit + context; none for 0xFFFF. -/
def GroupRec.ctxAt (r : GroupRec) (l : Nat) : Option Nat :=
  let x := r.ctx.getD l 0xFFFF
  if x == 0xFFFF then none else some (x % 1024)
/-- CTX_0, which every group names (R229). -/
def GroupRec.ctx0 (r : GroupRec) : Nat := (r.ctxAt 0).getD 0
/-- NEED for a chunk of `c` bytes (R242). -/
def needCells (c : Nat) : Nat := if c ≤ 4096 then ceilDiv (40 + c) 256 else 17 * c / 4096

/-! ## Present nodes (R230) -/

/-- A present node: its id, its part, and its coordinates relative to the part's origin. -/
structure PNode where
  node : Nat
  part : Nat
  x : Nat
  y : Nat
  z : Nat
  deriving DecidableEq, Repr

/-- Every node of the parts, in the order of R230; coordinates are modulo 32. -/
def GroupRec.every (r : GroupRec) : List PNode :=
  let co (p a v : Nat) : Nat := ((r.origin.getD p []).getD a 0 + v) % 32
  (List.range r.parts).flatMap fun p =>
    (List.range (r.extent 2)).flatMap fun z => (List.range (r.extent 1)).flatMap fun y =>
      (List.range (r.extent 0)).map fun x => ⟨nodeAt (co p 0 x) (co p 1 y) (co p 2 z), p, x, y, z⟩
/-- The present nodes in the order of R230. -/
def GroupRec.present (r : GroupRec) : List PNode := r.every.filter fun n => !r.excl.contains n.node
/-- The place of a node among present nodes. -/
def positionIn (ps : List PNode) (n : Nat) : Option Nat := ps.findIdx? fun p => p.node == n

/-! ## Levels and homes (R236 to R238) -/

/-- The coordinates on the axes above level `l`, with the part below level 4. -/
def PNode.key (p : PNode) (l : Nat) : List Nat :=
  match l with
  | 0 => [p.part, p.z, p.y, p.x] | 1 => [p.part, p.z, p.y] | 2 => [p.part, p.z] | 3 => [p.part] | _ => []
/-- D of level `l`: 1, EX, EX × EY, EX × EY × EZ. -/
def GroupRec.dist (r : GroupRec) (l : Nat) : Nat := ((r.ext.take l).foldl (· * ·) 1)
/-- The homes of chunk `n` at level `l`, in the order of their parts and axes. -/
def GroupRec.homes (r : GroupRec) (ps : List PNode) (n : Nat) : Nat → List PNode
  | 0 => ps
  | l + 1 =>
    let below := GroupRec.homes r ps n l
    ((below.map fun p => p.key (l + 1)).eraseDups).filterMap fun k =>
      let cs := below.filter fun p => p.key (l + 1) == k
      cs[n / r.dist l % cs.length]?
/-- Level `l` is present. -/
def GroupRec.hasLevel (r : GroupRec) (l : Nat) : Bool :=
  match l with
  | 0 => true
  | 4 => 1 < r.parts
  | _ => l < 4 && 1 < r.extent (l - 1)
/-- Level `l` combines. -/
def GroupRec.combines (r : GroupRec) (l : Nat) : Bool :=
  if l == 0 then bitOf r.flags 0 else r.hasLevel l && (r.ctxAt l).isSome
/-- The top level. -/
def GroupRec.top (r : GroupRec) : Nat := ((List.range 5).reverse.find? r.hasLevel).getD 0
/-- The combining levels, lowest first. -/
def GroupRec.combining (r : GroupRec) : List Nat := (List.range 5).filter r.combines
/-- The nearest combining level above `l`. -/
def GroupRec.above (r : GroupRec) (l : Nat) : Option Nat := r.combining.find? fun k => l < k
/-- The nearest combining level below `l`. -/
def GroupRec.below (r : GroupRec) (l : Nat) : Option Nat := r.combining.reverse.find? fun k => k < l
/-- The home of chunk `n` at level `l` whose domain holds node `me`. -/
def GroupRec.homeFor (r : GroupRec) (ps : List PNode) (n l me : Nat) : Option Nat :=
  (ps.find? fun p => p.node == me).bind fun p =>
    ((r.homes ps n l).find? fun h => h.key l == p.key l).map (·.node)
/-- Node `me` is a home of chunk `n` at level `l`. -/
def GroupRec.isHome (r : GroupRec) (ps : List PNode) (n l me : Nat) : Bool :=
  (r.homes ps n l).any fun h => h.node == me
/-- The inputs of the run of chunk `n` at level `l` at home `me`: rank and node (R238). -/
def GroupRec.inputs (r : GroupRec) (ps : List PNode) (l n me : Nat) : List (Nat × Nat) :=
  match (r.homes ps n l).find? fun h => h.node == me with
  | none => []
  | some h =>
    let rankOf (p : PNode) (k : Nat) : Nat :=
      ((ps.findIdx? fun x => x.key k == p.key k).getD 0) * 32
    match r.below l with
    | some m => ((r.homes ps n m).filter fun p => p.key l == h.key l).map fun p => (rankOf p m, p.node)
    | none => (ps.filter fun p => p.key l == h.key l).flatMap fun p =>
        (List.range r.locals).map fun i => (rankOf p 0 + i, p.node)
/-- The chunks below which every home of a node recurs (R237). -/
def GroupRec.window (r : GroupRec) : Nat := (r.parts + 1) * r.dist 3
/-- The key under which grants for the partials of context `c` at level `l` are held; 0 is that of
the node's contributors (R243). -/
def partialKey (c l : Nat) : Nat := 1 + c + 1024 * l
/-- The key of the sources of the runs at level `l`. -/
def GroupRec.sourceKey (r : GroupRec) (l : Nat) : Nat :=
  match r.below l with
  | some m => match r.ctxAt m with | some c => partialKey c m | none => 0
  | none => 0
/-- The first chunk from `n` on, below `chunks`, for which `me` is a home at level `l`. -/
def GroupRec.nextHome (r : GroupRec) (ps : List PNode) (l me chunks n : Nat) : Option Nat :=
  (List.range (min r.window (chunks - n))).findSome? fun i => if r.isHome ps (n + i) l me then some (n + i) else none

/-- The number of inputs of the run at level `l` in the domain of a present node (R238). -/
def GroupRec.nmOf (r : GroupRec) (ps : List PNode) (l : Nat) (p : PNode) : Nat :=
  let dom := ps.filter fun x => x.key l == p.key l
  match r.below l with
  | some m => (dom.map fun x => x.key m).eraseDups.length
  | none => dom.length * r.locals

/-! ## Ordinals and epochs (R231) -/

/-- An entry of the issue list, with the group of its ordinal. -/
structure Issue where
  ord    : Nat
  group  : Nat
  chunks : Nat
  bytes  : Nat
  deriving DecidableEq, Repr

/-- The job table of an ORDINAL body: ordinal and group. -/
def jobTable (o : Blob) : List (Nat × Nat) :=
  (List.range (min 65536 (o.nat 0 4))).map fun j => (o.nat (8 + 8 * j) 4, o.nat (12 + 8 * j) 2)
/-- The issue list of an ORDINAL body. -/
def issueList (o : Blob) : List Issue :=
  let jobs := jobTable o
  let base := 8 + 8 * o.nat 0 4
  (List.range (min 65536 (o.nat 4 4))).map fun i =>
    let a := base + 16 * i
    { ord := o.nat a 4, group := ((jobs.find? fun j => j.1 == o.nat a 4).map (·.2)).getD 0xFFFF,
      chunks := o.nat (a + 4) 4, bytes := o.nat (a + 8) 8 }
/-- The active issue list. -/
def State.issues (s : State) : List Issue := issueList (s.sec_ secOrdinal)
/-- The entries of one group. -/
def State.issuesOf (s : State) (g : Nat) : List Issue := s.issues.filter fun i => i.group == g
/-- The EPOCH byte of a round counted from COL_ROUND's base. -/
def State.colEpoch (s : State) (round : Nat) : Nat := s.col.gen * 32 + (s.col.round.toNat + round) % 32
/-- Later rounds than the one in which a RETRACT came are not served (R248), and none from a
RESET until RESUME (R249). -/
def State.roundOpen (s : State) (round : Nat) : Bool :=
  !s.col.shut && match s.col.stopRound with | some r => round ≤ r | none => true
/-- The instance has been abandoned (R294). -/
def State.isAbandoned (s : State) (ord round : Nat) : Bool := s.col.abandoned.contains (ord, s.colEpoch round)

/-! ## Bindings (R232, R234) -/

/-- The collective bindings for group `g` of a PARTITION body: tun and queue, ascending. -/
def colBindingsIn (p : Blob) (g : Nat) : List (Nat × Nat) :=
  (List.range 192).flatMap fun t => (List.range 16).filterMap fun b =>
    let x := bindingIn p t b
    if x.kind == 6 && bitsOf x.far 31 28 == 1 && x.param % 65536 == g then some (t, 48 + b) else none
/-- The result bindings for group `g`. -/
def resBindingsIn (p : Blob) (g : Nat) : List (Nat × Nat) :=
  (List.range 192).flatMap fun t => (List.range 16).filterMap fun b =>
    let x := bindingIn p t b
    if x.kind == 5 && bitsOf x.far 31 28 == 1 && x.far % 65536 == 0xFFFF && x.param % 65536 == g
    then some (t, 48 + b) else none
/-- The binding is a collective binding. -/
def Binding.collective (b : Binding) : Bool := b.kind == 6 && bitsOf b.far 31 28 == 1
/-- The binding is a result binding. -/
def Binding.result (b : Binding) : Bool := b.kind == 5 && bitsOf b.far 31 28 == 1 && b.far % 65536 == 0xFFFF
/-- The key of a binding in tables. -/
def bindKey (t q : Nat) : Nat := t * 16 + (q - 48)

/-! ## What a source may send (R242, R243) -/

/-- The first chunk from `n` on whose result this node receives (R240). -/
def State.nextReceived (s : State) (r : GroupRec) (n : Nat) : Option Nat :=
  let ps := r.present
  match positionIn ps s.nodeId with
  | none => none
  | some pos =>
    match r.delivery with
    | 0 => some n
    | 1 => some (n + (pos + ps.length - n % ps.length) % ps.length)
    | 2 => if pos == 0 then some n else none
    | _ => none
/-- The first place from `p` on whose result this node receives; `k` bounds the
instances looked at. -/
def State.recvPlace (s : State) (r : GroupRec) : Nat → SrcPlace → Option SrcPlace
  | 0, _ => none
  | k + 1, p =>
    match (s.issuesOf r.id)[p.pos]? with
    | none => if p.pos == 0 then none else State.recvPlace s r k { round := p.round + 1 }
    | some i =>
      match s.nextReceived r p.chunk with
      | none => none
      | some n => if n < i.chunks then some { p with chunk := n }
                  else State.recvPlace s r k { round := p.round, pos := p.pos + 1 }
/-- The first place from `p` on whose result this node receives. -/
def State.recvFrom (s : State) (r : GroupRec) (p : SrcPlace) : Option SrcPlace :=
  s.recvPlace r (2 * (s.issuesOf r.id).length + 2) p
/-- The place of a collective binding: its group, its issue and where it stands. -/
def State.sourceAt (s : State) (t q : Nat) : Option (GroupRec × Issue × SrcPlace) :=
  let b := s.binding t q
  if !b.collective then none else
  (s.group? (b.param % 65536)).bind fun r =>
    let p := Tab.get {} s.col.sources (bindKey t q)
    ((s.issuesOf r.id)[p.pos]?).map fun i => (r, i, p)
/-- Bytes of chunk `n` of a contribution of an issue (R232). -/
def chunkBytes (r : GroupRec) (i : Issue) (n : Nat) : Nat := min r.chunk (i.bytes - n * r.chunk)
/-- The node holds the grant of the home for chunk `n` under a key (R243). -/
def State.holdsGrant (s : State) (ord round key home n : Nat) : Bool :=
  s.col.grants.any fun g =>
    g.ordinal == ord && g.epoch == s.colEpoch round && g.key == key && g.from_ == home && n ≤ g.upTo
/-- The node holds the result reservation of chunk `n`, or receives no result of it. -/
def State.resultReserved (s : State) (r : GroupRec) (ord round n : Nat) : Bool :=
  s.nextReceived r n != some n ||
    s.col.resHeld.any fun x => x.group == r.id && x.ordinal == ord && x.epoch == s.colEpoch round && x.chunk == n
/-- R243 allows the chunk at which a collective binding stands. -/
def State.mayContribute (s : State) (t q : Nat) : Bool :=
  match s.sourceAt t q with
  | none => false
  | some (r, i, p) =>
    match r.combining with
    | [] => false
    | l :: _ =>
      match r.homeFor (r.present) p.chunk l s.nodeId with
      | none => false
      | some h =>
        s.roundOpen p.round && !s.isAbandoned i.ord p.round && s.holdsGrant i.ord p.round 0 h p.chunk
          && s.resultReserved r i.ord p.round p.chunk
/-- The next near entry of a collective binding belongs to the chunk it may send. -/
def State.mayMoveEntry (s : State) (t q : Nat) : Bool :=
  match s.sourceAt t q with
  | none => false
  | some (r, i, p) =>
    s.mayContribute t q && p.offset + 64 * ((s.tun t).queue q).far.length < chunkBytes r i p.chunk

/-! ## Delivery of results (R234) -/

/-- What a held result keeps is given back: the holds of its frames, or the cells charged
for a result of the node's own run (R189, R234). -/
def State.dropHeld (s : State) (x : HeldResult) : State :=
  let s := x.frames.foldl State.dropHold s
  match s.group? x.group with
  | some r => if x.own == 0 then s else s.giveCells (256 + r.ctx0) 9 x.own
  | none => s
/-- A result of this node has been delivered to every result binding: its holds and its
reservation go back, and the next result is due (R242). -/
def State.resultDone (s : State) (r : GroupRec) (x : HeldResult) (p : SrcPlace) : State :=
  let s := s.dropHeld x
  let bs := resBindingsIn (s.sec_ secPartition) r.id
  s.modCol fun c =>
    { c with results := c.results.filter fun y => !(y.group == x.group && y.ordinal == x.ordinal && y.epoch == x.epoch && y.chunk == x.chunk),
             resHeld := c.resHeld.filter fun y => !(y.group == x.group && y.ordinal == x.ordinal && y.epoch == x.epoch && y.chunk == x.chunk),
             resWant := Tab.set {} c.resWant r.id { p with chunk := p.chunk + 1 },
             deliver := bs.foldl (fun d b => Tab.set 0 d (bindKey b.1 b.2) 0) c.deliver }
/-- The result due at group `r`, if it is complete here. -/
def State.dueResult (s : State) (r : GroupRec) : Option (SrcPlace × HeldResult) :=
  (s.recvFrom r (Tab.get {} s.col.resWant r.id)).bind fun p =>
    ((s.issuesOf r.id)[p.pos]?).bind fun i =>
      (s.col.results.find? fun x => x.complete && x.group == r.id && x.ordinal == i.ord
        && x.epoch == s.colEpoch p.round && x.chunk == p.chunk).map fun x => (p, x)
/-- Complete results in order are passed to the far halves of the result bindings as room
appears; one with a verdict that is not good faults every binding (R177). `n` bounds
the results passed. -/
def State.deliverResults (s : State) (r : GroupRec) : Nat → State
  | 0 => s
  | n + 1 =>
    match s.dueResult r with
    | none => s
    | some (p, x) =>
      let bs := resBindingsIn (s.sec_ secPartition) r.id
      if x.verdict != 0 then
        State.deliverResults (bs.foldl (fun s b => s.bindingFault b.1 b.2 3) (s.resultDone r x p)) r n
      else
        let m := ceilDiv x.bytes.length 64
        let es := entriesOf m x.bytes
        let s := bs.foldl (fun s b =>
          let k := Tab.get 0 s.col.deliver (bindKey b.1 b.2)
          let room := 32 - ((s.tun b.1).queue b.2).far.length
          let go := (es.drop k).take room
          let s := s.modTun b.1 fun u => u.modQueue b.2 fun y => { y with far := y.far ++ go.map fun e => (e, .good) }
          s.modCol fun c => { c with deliver := Tab.set 0 c.deliver (bindKey b.1 b.2) (k + go.length) }) s
        if bs.all fun b => m ≤ Tab.get 0 s.col.deliver (bindKey b.1 b.2) then
          State.deliverResults (s.resultDone r x p) r n
        else s
/-- A result binding has room: results of its group move on. -/
def State.resultRefill (s : State) (t q : Nat) : State :=
  let b := s.binding t q
  if !b.result then s else
  match s.group? (b.param % 65536) with
  | none => s
  | some r => s.deliverResults r (s.col.results.length + 1)

end Sys2Proof.Machine
end

