-- ==== Sys2Proof/Machine/Numbers.lean ====
section
/-! DEFINITION. Machine/Numbers.lean: number formats and arithmetic (chapter 5). A
value is exact: an integer magnitude times a power of two. Sticky flags are a number
whose bits 0 to 3 are OF, UF, NX and NV, in the order of TUN_ARITH_FLAGS. -/
namespace Sys2Proof.Machine

/-- An element's value: NaN, an infinity, or (−1)^neg × m × 2^e. -/
inductive Fv where
  | nan
  | inf (neg : Bool)
  | fin (neg : Bool) (m : Nat) (e : Int)
  deriving DecidableEq, Repr

/-- A floating format: exponent and mantissa bits, bias, and which specials it has (R104). -/
structure FloatFmt where
  eb   : Nat
  mb   : Nat
  bias : Int
  hasInf : Bool
  /-- the only NaN of the format has every exponent and mantissa bit set -/
  nanTop : Bool
  deriving DecidableEq, Repr

/-- The floating format of a code, if it is one (R104). -/
def floatFmt (code : Nat) : Option FloatFmt :=
  match code with
  | 0 => some ⟨8, 23, 127, true, false⟩
  | 1 => some ⟨8, 7, 127, true, false⟩
  | 2 => some ⟨5, 10, 15, true, false⟩
  | 3 => some ⟨4, 3, 7, false, true⟩
  | 4 => some ⟨5, 2, 15, true, false⟩
  | 5 => some ⟨3, 2, 3, false, false⟩
  | 6 => some ⟨2, 1, 1, false, false⟩
  | 13 => some ⟨11, 52, 1023, true, false⟩
  | _ => none

/-- Container bits of a format code (R81); 0 for an undefined code. -/
def fmtBits (code : Nat) : Nat :=
  match code with
  | 0 => 32 | 1 => 16 | 2 => 16 | 3 => 8 | 4 => 8 | 5 => 8 | 6 => 4 | 7 => 8 | 8 => 4 | 9 => 32
  | 10 => 64 | 11 => 32 | 12 => 64 | 13 => 64
  | _ => 0
/-- The format is an integer one (R106). -/
def fmtIsInt (code : Nat) : Bool := code == 7 || code == 8 || code == 9
/-- Vector lanes per entry (R81). -/
def fmtLanes (code : Nat) : Nat := min 64 (512 / max 1 (fmtBits code))

/-- The value of an encoding (R104, R106). -/
def fvOf (code x : Nat) : Fv :=
  match floatFmt code with
  | none =>
    let w := fmtBits code
    let v := ofTwos w x
    .fin (v < 0) v.natAbs 0
  | some f =>
    let m := x % 2 ^ f.mb
    let e := x / 2 ^ f.mb % 2 ^ f.eb
    let neg := bitOf x (f.mb + f.eb)
    let top := 2 ^ f.eb - 1
    if f.nanTop && e == top && m == 2 ^ f.mb - 1 then .nan
    else if f.hasInf && e == top then (if m == 0 then .inf neg else .nan)
    else if e == 0 then .fin neg m (1 - f.bias - f.mb)
    else .fin neg (m + 2 ^ f.mb) (e - f.bias - f.mb)

/-- The encoding is a signalling NaN (R105). -/
def isSnan (code x : Nat) : Bool :=
  match floatFmt code with
  | none => false
  | some f =>
    let m := x % 2 ^ f.mb
    f.hasInf && x / 2 ^ f.mb % 2 ^ f.eb == 2 ^ f.eb - 1 && m != 0 && !bitOf m (f.mb - 1)

/-- The element is zero for R123: E and M are 0, or the integer is 0. -/
def elemZero (code x : Nat) : Bool :=
  match floatFmt code with
  | none => x % 2 ^ fmtBits code == 0
  | some f => x % 2 ^ (f.mb + f.eb) == 0

/-- The canonical NaN of a format (R105). -/
def canonNan (code : Nat) : Nat :=
  match code with
  | 0 => 0x7FC00000 | 1 => 0x7FC0 | 2 => 0x7E00 | 3 => 0x7F | 4 => 0x7E
  | 13 => 0x7FF8000000000000 | _ => 0

/-- Compare magnitudes `a.1 × 2^a.2` and `b.1 × 2^b.2`. -/
def magLt (m1 : Nat) (e1 : Int) (m2 : Nat) (e2 : Int) : Bool :=
  let e := min e1 e2
  m1 * 2 ^ (e1 - e).toNat < m2 * 2 ^ (e2 - e).toNat

/-- Round a magnitude to `p` significand bits with unbounded exponent (R116); `rnd`
is `none` for round to nearest even, or the 32 random bits. The third part says
whether the result is inexact. -/
def roundSig (p : Nat) (rnd : Option Nat) (m : Nat) (e : Int) : Nat × Int × Bool :=
  if m == 0 then (0, e, false) else
  let len := Nat.log2 m + 1
  if len ≤ p then (m, e, false) else
  let sh := len - p
  let lo := m / 2 ^ sh
  let rem := m % 2 ^ sh
  let up := match rnd with
    | none => decide (2 ^ sh < 2 * rem) || (2 * rem == 2 ^ sh && lo % 2 == 1)
    | some r => decide (2 ^ 32 ≤ rem * 2 ^ 32 / 2 ^ sh + r)
  (lo + b2n up, e + sh, rem != 0)

/-- The largest finite magnitude of a floating format (R104). -/
def maxFinite (f : FloatFmt) : Nat × Int :=
  let topE : Int := (2 ^ f.eb - 1 : Nat) - (if f.hasInf then 1 else 0)
  let m := 2 ^ (f.mb + 1) - 1 - b2n f.nanTop
  (m, topE - f.bias - f.mb)

/-- Encode a finite magnitude that the format holds exactly as a normal value. -/
def encNormal (f : FloatFmt) (neg : Bool) (m : Nat) (e : Int) : Nat :=
  let len := Nat.log2 m + 1
  let sh : Int := f.mb + 1 - len
  let mm := if 0 ≤ sh then m * 2 ^ sh.toNat else m / 2 ^ (-sh).toNat
  let ee := e - sh + f.bias + f.mb
  b2n neg * 2 ^ (f.eb + f.mb) + ee.toNat * 2 ^ f.mb + mm % 2 ^ f.mb

/-- The infinity of a format. -/
def encInf (f : FloatFmt) (neg : Bool) : Nat :=
  b2n neg * 2 ^ (f.eb + f.mb) + (2 ^ f.eb - 1) * 2 ^ f.mb
/-- The largest finite encoding of a format. -/
def encMax (f : FloatFmt) (neg : Bool) : Nat :=
  encNormal f neg (maxFinite f).1 (maxFinite f).2

/-- Convert a value to a format: R116 and R117. `inexact` marks a value that
already stands for a nearby irrational one. Answers the encoding and the flags. -/
def convertFv (code : Nat) (rnd : Option Nat) (inexact : Bool) (v : Fv) : Nat × Nat :=
  match floatFmt code with
  | none =>
    let w := fmtBits code
    let hi : Int := 2 ^ (w - 1) - 1
    let lo : Int := -(2 ^ (w - 1))
    match v with
    | .nan => (0, 8)
    | .inf neg => (twos w (if neg then lo else hi), 1)
    | .fin neg m e =>
      -- the unit of rounding is 1
      let (q, nx) :=
        if 0 ≤ e then (m * 2 ^ e.toNat, false)
        else
          let sh := (-e).toNat
          let l := m / 2 ^ sh
          let rem := m % 2 ^ sh
          let up := match rnd with
            | none => decide (2 ^ sh < 2 * rem) || (2 * rem == 2 ^ sh && l % 2 == 1)
            | some r => decide (2 ^ 32 ≤ rem * 2 ^ 32 / 2 ^ sh + r)
          (l + b2n up, rem != 0)
      let x : Int := if neg then -(q : Int) else q
      let nxf := if nx || inexact then 4 else 0
      if hi < x then (twos w hi, Nat.lor nxf 1)
      else if x < lo then (twos w lo, Nat.lor nxf 1)
      else (twos w x, nxf)
  | some f =>
    match v with
    | .nan => if code == 5 || code == 6 then (0, 8) else (canonNan code, 0)
    | .inf neg => if f.hasInf then (encInf f neg, 0) else (encMax f neg, 1)
    | .fin neg m e =>
      if m == 0 then (b2n neg * 2 ^ (f.eb + f.mb), 0) else
      let (m', e', nx) := roundSig (f.mb + 1) rnd m e
      let (mx, ex) := maxFinite f
      if magLt mx ex m' e' then (if f.hasInf then encInf f neg else encMax f neg, 5)
      else if magLt m' e' 1 (1 - f.bias) then (b2n neg * 2 ^ (f.eb + f.mb), 6)
      else (encNormal f neg m' e', if nx || inexact then 4 else 0)

/-- Round an exact value to FP32, as every vector operation does (R119). -/
def toF32 (inexact : Bool) (v : Fv) : Nat × Nat := convertFv 0 none inexact v

/-- An element loaded into a vector lane (R83, R97): exact where FP32 holds it,
subnormals included; INT32 is rounded; a signalling NaN sets NV. -/
def loadLane (code x : Nat) : Nat × Nat :=
  match fvOf code x with
  | .nan => (0x7FC00000, if isSnan code x then 8 else 0)
  | .inf neg => (if neg then 0xFF800000 else 0x7F800000, 0)
  | .fin neg m e =>
    if m == 0 then (b2n neg * 2 ^ 31, 0) else
    if magLt m e 1 (-126) then (b2n neg * 2 ^ 31 + m * 2 ^ (e + 149).toNat, 0)
    else toF32 false (.fin neg m e)

/-- The 32 random bits of R118. -/
def srBits (layer index seed : Nat) : Nat :=
  let k := 2 ^ 64
  let x := (seed * 2 ^ 32 + index) % k
  let x := Nat.xor x (layer * 0x9E3779B97F4A7C15 % k)
  let x := Nat.xor x (x / 2 ^ 30)
  let x := x * 0xBF58476D1CE4E5B9 % k
  let x := Nat.xor x (x / 2 ^ 27)
  let x := x * 0x94D049BB133111EB % k
  let x := Nat.xor x (x / 2 ^ 31)
  x / 2 ^ 32

/-! ## Exact sums and products -/

/-- A finite value as a signed integer at exponent `e0` (at most its own). -/
def signedAt (neg : Bool) (m : Nat) (e e0 : Int) : Int :=
  let a : Int := m * 2 ^ (e - e0).toNat
  if neg then -a else a

/-- The exact sum of two values, with the sign of a zero sum (R119); the flags. -/
def fvAdd (a b : Fv) : Fv × Nat :=
  match a, b with
  | .nan, _ => (.nan, 0)
  | _, .nan => (.nan, 0)
  | .inf s, .inf t => if s == t then (.inf s, 0) else (.nan, 8)
  | .inf s, _ => (.inf s, 0)
  | _, .inf t => (.inf t, 0)
  | .fin s m e, .fin t n f =>
    if m == 0 && n == 0 then (.fin (s && t) 0 0, 0) else
    let g := min e f
    let x := signedAt s m e g + signedAt t n f g
    (.fin (x < 0) x.natAbs g, 0)

/-- The exact product of two values (R119). -/
def fvMul (a b : Fv) : Fv × Nat :=
  match a, b with
  | .nan, _ => (.nan, 0)
  | _, .nan => (.nan, 0)
  | .inf s, .inf t => (.inf (s != t), 0)
  | .inf s, .fin t n _ => if n == 0 then (.nan, 8) else (.inf (s != t), 0)
  | .fin s m _, .inf t => if m == 0 then (.nan, 8) else (.inf (s != t), 0)
  | .fin s m e, .fin t n f => (.fin (s != t) (m * n) (e + f), 0)

/-- Negate a value. -/
def fvNeg : Fv → Fv
  | .nan => .nan
  | .inf s => .inf (!s)
  | .fin s m e => .fin (!s) m e

/-- Add, subtract, multiply, fused multiply-add on FP32 patterns (R97, R119). -/
def f32Add (a b : Nat) : Nat × Nat :=
  let (v, f) := fvAdd (fvOf 0 a) (fvOf 0 b)
  let (x, g) := toF32 false v
  (x, Nat.lor f g)
@[inherit_doc f32Add] def f32Sub (a b : Nat) : Nat × Nat :=
  let (v, f) := fvAdd (fvOf 0 a) (fvNeg (fvOf 0 b))
  let (x, g) := toF32 false v
  (x, Nat.lor f g)
@[inherit_doc f32Add] def f32Mul (a b : Nat) : Nat × Nat :=
  let (v, f) := fvMul (fvOf 0 a) (fvOf 0 b)
  let (x, g) := toF32 false v
  (x, Nat.lor f g)
@[inherit_doc f32Add] def f32Fma (a b c : Nat) : Nat × Nat :=
  match fvOf 0 c with
  | .nan => (0x7FC00000, 0)            -- an operand is NaN: no flag (R119)
  | vc =>
    let (v, f) := fvMul (fvOf 0 a) (fvOf 0 b)
    let (w, g) := fvAdd v vc
    let (x, h) := toF32 false w
    (x, Nat.lor f (Nat.lor g h))

/-- An FP32 pattern is NaN. -/
def f32IsNan (a : Nat) : Bool := fvOf 0 a == .nan
/-- The order key of a non-NaN FP32 pattern: −0 below +0. -/
def f32Key (a : Nat) : Int := if bitOf a 31 then -((a % 2 ^ 31 : Nat) : Int) - 1 else (a % 2 ^ 31 : Nat)
/-- VMAX of two lanes (R97). -/
def f32Max (a b : Nat) : Nat × Nat :=
  if f32IsNan a || f32IsNan b then (0x7FC00000, 0) else (if f32Key a < f32Key b then b else a, 0)
/-- VMIN of two lanes (R97). -/
def f32Min (a b : Nat) : Nat × Nat :=
  if f32IsNan a || f32IsNan b then (0x7FC00000, 0) else (if f32Key b < f32Key a then b else a, 0)
/-- A comparison predicate on FP32 patterns: 0 EQ, 1 NE, 2 LT, 3 LE (R96, R97). -/
def f32Cmp (pred a b : Nat) : Bool :=
  if f32IsNan a || f32IsNan b then pred == 1 else
  let z (x : Nat) : Int := if x % 2 ^ 31 == 0 then 0 else f32Key x
  match pred with
  | 0 => z a == z b
  | 1 => z a != z b
  | 2 => z a < z b
  | _ => z a ≤ z b

/-! ## Special functions (R97), by fixed-point arithmetic of 256 fraction bits

No function value in range is a rounding tie or lies within 2^−100 of one, other than
the exact cases listed, so an approximation with a sticky bit rounds correctly. -/

/-- One in the fixed-point format. -/
def fxOne : Nat := 2 ^ 256
/-- Σ y^n / n!, with `t` the current term and `n` its index. -/
def fxExpTail (y : Nat) : Nat → Nat → Nat → Nat
  | 0, _, _ => 0
  | fuel + 1, t, n => t + fxExpTail y fuel (t * y / fxOne / (n + 1)) (n + 1)
/-- Square `k` times. -/
def fxSquares : Nat → Nat → Nat
  | 0, x => x
  | k + 1, x => fxSquares k (x * x / fxOne)
/-- e^x for a fixed-point x below 2^8. -/
def fxExp (x : Nat) : Nat := fxSquares 10 (fxExpTail (x / 2 ^ 10) 48 fxOne 0)
/-- Σ z^(2i+1) / (2i+1), with `t` the current power. -/
def fxAtanhTail (zz : Nat) : Nat → Nat → Nat → Nat
  | 0, _, _ => 0
  | fuel + 1, t, n => t / n + fxAtanhTail zz fuel (t * zz / fxOne) (n + 2)
/-- atanh z for a fixed-point z below one half. -/
def fxAtanh (z : Nat) : Nat := fxAtanhTail (z * z / fxOne) 140 z 1
/-- ln 2. -/
def fxLn2 : Nat := 2 * fxAtanh (fxOne / 3)

/-- A magnitude as a fixed-point number (it is below 2^8). -/
def fxOf (m : Nat) (e : Int) : Nat :=
  if 0 ≤ e + 256 then m * 2 ^ (e + 256).toNat else m / 2 ^ (-(e + 256)).toNat
/-- A fixed-point approximation as a value just above it, so that no tie arises. -/
def fxVal (neg : Bool) (x : Nat) : Fv := .fin neg (2 * x + 1) (-257)
/-- The magnitude is at least the integer `n`. -/
def magGe (m : Nat) (e : Int) (n : Nat) : Bool := !magLt m e n 0

/-- e^x. -/
def f32Exp (a : Nat) : Nat × Nat :=
  match fvOf 0 a with
  | .nan => (0x7FC00000, 0)
  | .inf neg => (if neg then 0 else 0x7F800000, 0)
  | .fin neg m e =>
    if m == 0 then (0x3F800000, 0)
    else if magGe m e 104 then (if neg then (0, 6) else (0x7F800000, 5))
    else
      let x := fxExp (fxOf m e)
      toF32 true (fxVal false (if neg then fxOne * fxOne / x else x))

/-- ln x. -/
def f32Log (a : Nat) : Nat × Nat :=
  match fvOf 0 a with
  | .nan => (0x7FC00000, 0)
  | .inf neg => if neg then (0x7FC00000, 8) else (0x7F800000, 0)
  | .fin neg m e =>
    if m == 0 then (0xFF800000, 0)
    else if neg then (0x7FC00000, 8)
    else
      let len : Int := Nat.log2 m
      let k0 := e + len                                  -- x = f × 2^k0, f in [1, 2)
      let f := m * fxOne / 2 ^ Nat.log2 m
      let (k, f) := if 3 * fxOne ≤ 2 * f then (k0 + 1, f / 2) else (k0, f)   -- f in [3/4, 3/2)
      if k == 0 && f == fxOne then (0, 0) else
      let negF := decide (f < fxOne)
      let d := if negF then fxOne - f else f - fxOne
      let l : Int := 2 * fxAtanh (d * fxOne / (f + fxOne))
      let x := k * (fxLn2 : Int) + (if negF then -l else l)
      toF32 true (fxVal (x < 0) x.natAbs)

/-- 1/x. -/
def f32Rcp (a : Nat) : Nat × Nat :=
  match fvOf 0 a with
  | .nan => (0x7FC00000, 0)
  | .inf neg => (b2n neg * 2 ^ 31, 0)
  | .fin neg m e =>
    if m == 0 then (if neg then 0xFF800000 else 0x7F800000, 0) else
    let q := 2 ^ 64 / m
    let r := 2 ^ 64 % m
    toF32 (r != 0) (.fin neg (2 * q + b2n (r != 0)) (-e - 65))

/-- 1/√x. -/
def f32Rsqrt (a : Nat) : Nat × Nat :=
  match fvOf 0 a with
  | .nan => (0x7FC00000, 0)
  | .inf neg => if neg then (0x7FC00000, 8) else (0, 0)
  | .fin neg m e =>
    if m == 0 then (if neg then 0xFF800000 else 0x7F800000, 0)
    else if neg then (0x7FC00000, 8)
    else
      -- x = m × 2^e with e made even; 1/√x = 2^(−e/2) / √m
      let (m, e) := if e % 2 == 0 then (m, e) else (2 * m, e - 1)
      let n := 2 ^ 160 / m
      let q := Nat.sqrt n
      let exact := q * q * m == 2 ^ 160
      toF32 (!exact) (.fin false (2 * q + b2n (!exact)) (-(e / 2) - 81))

/-- tanh x. -/
def f32Tanh (a : Nat) : Nat × Nat :=
  match fvOf 0 a with
  | .nan => (0x7FC00000, 0)
  | .inf neg => (b2n neg * 2 ^ 31 + 0x3F800000, 0)
  | .fin neg m e =>
    if m == 0 then (a, 0)
    else if magGe m e 32 then (b2n neg * 2 ^ 31 + 0x3F800000, 4)
    else
      let x := fxExp (2 * fxOf m e)
      -- one unit is taken off: tanh x lies below x, and a tiny x is exact in FP32
      toF32 true (fxVal neg ((x - fxOne) * fxOne / (x + fxOne) - 1))

/-- 1/(1 + e^−x). -/
def f32Sigm (a : Nat) : Nat × Nat :=
  match fvOf 0 a with
  | .nan => (0x7FC00000, 0)
  | .inf neg => (if neg then 0 else 0x3F800000, 0)
  | .fin neg m e =>
    if m == 0 then (0x3F000000, 0)
    else if magGe m e 104 then (if neg then (0, 6) else (0x3F800000, 4))
    else
      let x := fxExp (fxOf m e)
      toF32 true (fxVal false ((if neg then fxOne else x) * fxOne / (x + fxOne)))

/-! ## The fused group -/

/-- An operand element of a product: its value, whether its encoding is a signalling
NaN, and whether it is an infinity under a zero scale (R107, R112). -/
structure Elem where
  v   : Fv
  sn  : Bool := false
  bad : Bool := false
  deriving DecidableEq, Repr

/-- A shared scale: NaN, or m × 2^e (R107). `fmt` is 0 for E8M0, 1 for unsigned E4M3. -/
def scaleOf (fmt x : Nat) : Option (Nat × Int) :=
  if fmt == 0 then (if x == 0xFF then none else some (1, (x : Int) - 127))
  else if x == 0x7F || 0x80 ≤ x then none
  else match fvOf 3 x with
    | .fin _ m e => some (m, e)
    | _ => none

/-- An element under a scale (R107, R112). -/
def Elem.scale (x : Elem) (sc : Option (Nat × Int)) : Elem :=
  match sc with
  | none => { x with v := .nan }
  | some (m, e) =>
    match x.v with
    | .nan => x
    | .inf _ => if m == 0 then { x with bad := true } else x
    | .fin neg n f => { x with v := .fin neg (n * m) (f + e) }

/-- The unscaled element of an encoding. -/
def elemOf (code x : Nat) : Elem := { v := fvOf code x, sn := isSnan code x }

/-- What the products of a group have shown so far (R113). -/
structure GroupAcc where
  nan  : Bool
  pinf : Bool
  ninf : Bool
  of   : Bool := false
  nv   : Bool := false
  terms : List (Bool × Nat × Int)

/-- Take one product into a group (the loop of R113). -/
def GroupAcc.step (g : GroupAcc) (p : Elem × Elem) : GroupAcc :=
  let (x, y) := p
  let g := if x.sn || y.sn then { g with nv := true } else g
  if x.v == .nan || y.v == .nan then { g with nan := true }
  else if x.bad || y.bad then { g with nan := true, nv := true }
  else match fvMul x.v y.v with
    | (.nan, _) => { g with nan := true, nv := true }
    | (.inf s, _) => if s then { g with ninf := true } else { g with pinf := true }
    | (.fin s m e, _) =>
      if !magLt m e 1 128 then
        if s then { g with of := true, ninf := true } else { g with of := true, pinf := true }
      else { g with terms := g.terms ++ [(s, m, e)] }

/-- The leading exponent of the nonzero terms; none when there is none. -/
def leadExp : List (Bool × Nat × Int) → Option Int
  | [] => none
  | (_, m, e) :: ts =>
    if m == 0 then leadExp ts else
    match leadExp ts with
    | none => some (e + Nat.log2 m)
    | some l => some (max l (e + Nat.log2 m))

/-- The truncated terms summed at weight 2^w, and whether bits were lost (R113). -/
def truncSum (w : Int) : List (Bool × Nat × Int) → Int × Bool
  | [] => (0, false)
  | (s, m, e) :: ts =>
    let (r, lost) := truncSum w ts
    if w ≤ e then (signedAt s m e w + r, lost) else
    let sh := (w - e).toNat
    let q : Int := (m / 2 ^ sh : Nat)
    ((if s then -q else q) + r, lost || m % 2 ^ sh != 0)

/-- One fused group of a floating product (R113, R114): the FP32 result and the flags. -/
def fusedGroup (acc : Nat) (ps : List (Elem × Elem)) : Nat × Nat :=
  let av := fvOf 0 acc
  let g0 : GroupAcc :=
    { nan := av == .nan, pinf := av == .inf false, ninf := av == .inf true,
      terms := match av with | .fin s m e => [(s, m, e)] | _ => [] }
  let g := ps.foldl GroupAcc.step g0
  let allNegZero := g.terms.all (fun t => t.1 && t.2.1 == 0)
  let (f, fl) : Nat × Nat := match leadExp g.terms with
    | none => (if allNegZero then 0x80000000 else 0, 0)
    | some e =>
      let (s, lost) := truncSum (e - 26) g.terms
      if s == 0 then (0, if lost then 4 else 0)
      else
        let (x, fl) := toF32 lost (.fin (s < 0) s.natAbs (e - 26))
        (x, fl)
  let clash := g.pinf && g.ninf
  let nv := g.nv || (clash && !g.nan)
  let res := if g.nan || clash then 0x7FC00000
    else if g.pinf then 0x7F800000
    else if g.ninf then 0xFF800000
    else f
  (res, Nat.lor fl (Nat.lor (b2n g.of) (8 * b2n nv)))

/-- The finite part of an element, as an integer (integer products). -/
def Elem.toInt (x : Elem) : Int :=
  match x.v with
  | .fin neg m e => if neg then -((m * 2 ^ e.toNat : Nat) : Int) else (m * 2 ^ e.toNat : Nat)
  | _ => 0

/-- One group of an unscaled integer product (R115). -/
def intGroup (acc : Nat) (ps : List (Elem × Elem)) : Nat × Nat :=
  let s := ps.foldl (fun t p => t + p.1.toInt * p.2.toInt) (ofTwos 32 acc)
  if 2 ^ 31 - 1 < s then (0x7FFFFFFF, 1)
  else if s < -(2 ^ 31) then (0x80000000, 1)
  else (twos 32 s, 0)

end Sys2Proof.Machine
end

