-- ==== Sys2Proof/Machine/Operands.lean ====
section
/-! DEFINITION. Machine/Operands.lean: the fields of a tun instruction (R77), its
address streams (R71, R79), its queue ends (R78) and the conditions of R80. -/
namespace Sys2Proof.Machine

/-! ## Fields (R77) of a 128-bit word -/

/-- DELTA. -/
def insDelta (w : Nat) : Nat := bitsOf w 7 0
/-- OPCODE. -/
def insOp (w : Nat) : Nat := bitsOf w 15 8
/-- Source end `n`: USE, PEEK and queue. -/
def insSrc (w n : Nat) : Bool × Bool × Nat :=
  let x := bitsOf w (23 + 8 * n) (16 + 8 * n)
  (bitOf x 7, bitOf x 6, x % 64)
/-- Destination end `n`: USE, reserved bit and queue. -/
def insDst (w n : Nat) : Bool × Bool × Nat :=
  let x := bitsOf w (47 + 8 * n) (40 + 8 * n)
  (bitOf x 7, bitOf x 6, x % 64)
/-- STREAM, LOOP, LV. -/
def insStream (w : Nat) : Nat := bitsOf w 58 57
@[inherit_doc insStream] def insLoop (w : Nat) : Nat := bitsOf w 62 59
@[inherit_doc insStream] def insLv (w : Nat) : Bool := bitOf w 63
/-- The stored IMM and MODE. -/
def insImm (w : Nat) : Nat := bitsOf w 95 64
@[inherit_doc insImm] def insMode (w : Nat) : Nat := bitsOf w 123 96
/-- IP, BEND, MV. -/
def insIp (w : Nat) : Bool := bitOf w 124
@[inherit_doc insIp] def insBend (w : Nat) : Bool := bitOf w 125
@[inherit_doc insIp] def insMv (w : Nat) : Bool := bitOf w 127

/-! ## The opcode table (R87) -/

/-- The unit of an opcode: 0 control, 1 matrix, 2 vector, 3 mover (R52, R80). -/
def opUnit (op : Nat) : Nat :=
  if 0x10 ≤ op && op ≤ 0x13 then 3
  else if 0x20 ≤ op && op ≤ 0x27 then 1
  else if (0x30 ≤ op && op ≤ 0x3C) || (0x40 ≤ op && op ≤ 0x45) then 2
  else 0
/-- The opcode is in the table. -/
def opDefined (op : Nat) : Bool :=
  op ≤ 0x0B || opUnit op != 0
/-- The opcode is marked MV. -/
def opMv (op : Nat) : Bool := 0x08 ≤ op && op ≤ 0x0B
/-- The opcode takes SRC0. -/
def opSrc (op : Nat) : Bool :=
  op == 0x11 || op == 0x12 || (0x20 ≤ op && op ≤ 0x22) || op == 0x30
/-- How many destinations the opcode takes; the first is required. -/
def opDsts (op : Nat) : Nat :=
  if opMv op then 1
  else if op == 0x10 || op == 0x12 || op == 0x13 || op == 0x25 || op == 0x31 then 2 else 0
/-- The width of the index field, 0 for none. -/
def opIndex (op : Nat) : Nat :=
  if op == 0x10 || op == 0x11 then 22
  else if op == 0x20 || op == 0x21 || op == 0x25 then 6 else 0
/-- The latency of the opcodes whose latency is fixed. -/
def opLat (op : Nat) : Nat :=
  match op with
  | 0x05 => 1 | 0x08 => 2 | 0x09 => 2 | 0x0A => 2 | 0x0B => 2
  | 0x10 => 4 | 0x11 => 1 | 0x12 => 1 | 0x13 => 1 | 0x20 => 1 | 0x21 => 1 | 0x22 => 1
  | 0x25 => 3 | 0x26 => 1 | 0x30 => 2 | 0x31 => 3 | 0x32 => 4 | 0x33 => 4 | 0x34 => 4 | 0x35 => 4
  | 0x36 => 2 | 0x37 => 2 | 0x38 => 2 | 0x39 => 2 | 0x3A => 1 | 0x3B => 12 | 0x3C => 8
  | 0x40 => 12 | 0x41 => 12 | 0x42 => 12 | 0x43 => 12 | 0x44 => 12 | 0x45 => 12
  | _ => 0
/-- The bits of MODE and of IMM that the opcode's fields use; every other bit is
reserved (R88, R90, R96). -/
def opFields (op : Nat) : Nat × Nat :=
  let all := 0xFFFFFFFF
  let fmt := 0xF000000
  match op with
  | 0x01 => (0, all) | 0x03 => (0, 0xF) | 0x04 => (0, 0x1FFFFFF)
  | 0x05 => (0xFF00FF, 0xFFFF) | 0x06 => (0xFF, 0xFFFF) | 0x07 => (0x3F, all)
  | 0x0A => (0, 0x3F) | 0x0B => (0xFF, 0)
  | 0x10 => (0, 0x3FFFFF) | 0x11 => (0, 0x3FFFFF)
  | 0x20 => (fmt + 0xC0000, 0x3F) | 0x21 => (fmt + 0x30000, 0x3F) | 0x22 => (0xF01FC, 3)
  | 0x23 => (0xFFC00, 0) | 0x24 => (0xFFC00, all)
  | 0x25 => (fmt + 0xE00000 + 0xF000, 0xFFFF00FF) | 0x26 => (0xF000, 0) | 0x27 => (0xFF, 0xFFFF)
  | 0x30 => (fmt + 0xF000, 0xFFFF0003) | 0x31 => (fmt + 0x800000 + 0xF00, 0xFFFF0003)
  | 0x32 => (0xFFF0, 0) | 0x33 => (0xFFF0, 0) | 0x34 => (0xFFF0, 0) | 0x35 => (0xFFFF, 0)
  | 0x36 => (0xFFF0, 0) | 0x37 => (0xFFF0, 0) | 0x38 => (0xCFFF0, 0) | 0x39 => (0xFFFF, 0)
  | 0x3A => (0xF000, all)
  | 0x3B => (0xFF00, 0) | 0x3C => (0xFF00, 0)
  | 0x40 => (0xFF00, 0) | 0x41 => (0xFF00, 0) | 0x42 => (0xFF00, 0) | 0x43 => (0xFF00, 0)
  | 0x44 => (0xFF00, 0) | 0x45 => (0xFF00, 0)
  | _ => (0, 0)
/-- Bits of `x` outside the mask. -/
def outside (x mask : Nat) : Bool := Nat.land x mask != x

/-! ## Named fields of MODE -/

/-- Tile S, buffer W, accumulator A, format, and the vector registers (R90, R96). -/
def modeS (m : Nat) : Nat := bitsOf m 19 18
@[inherit_doc modeS] def modeW (m : Nat) : Nat := bitsOf m 17 16
@[inherit_doc modeS] def modeA (m : Nat) : Nat := bitsOf m 15 12
@[inherit_doc modeS] def modeFmt (m : Nat) : Nat := bitsOf m 27 24
@[inherit_doc modeS] def modeVd (m : Nat) : Nat := bitsOf m 15 12
@[inherit_doc modeS] def modeVa (m : Nat) : Nat := bitsOf m 11 8
@[inherit_doc modeS] def modeVb (m : Nat) : Nat := bitsOf m 7 4
@[inherit_doc modeS] def modeVc (m : Nat) : Nat := bitsOf m 3 0
/-- SS and WS (R90). -/
def modeSs (m : Nat) : Bool := bitOf m 11
@[inherit_doc modeSs] def modeWs (m : Nat) : Bool := bitOf m 10

/-! ## Tiles and scales -/

/-- Stationary tile `i` and weight buffer `i`. -/
def Tun.tileS (t : Tun) (i : Nat) : Tile := Tab.get {} t.stat i
@[inherit_doc Tun.tileS] def Tun.tileW (t : Tun) (i : Nat) : Tile := Tab.get {} t.wbuf i
/-- K of a product whose wider container has `b` bits (R81): it fills the entry. -/
def kOf (b : Nat) : Nat := 512 / max 1 b
/-- Block size of a block-size code (R90). -/
def blockSize (code : Nat) : Nat := 8 * 2 ^ code
/-- How many scales a tile uses for K (R108). -/
def Tile.scaleCount (x : Tile) (k : Nat) : Nat :=
  let b := blockSize (Tab.get 0 x.slotBlk 0)
  match Tab.get 0 x.slotDir 0 with
  | 0 => 64 * ceilDiv k b
  | 1 => k * 64 / b
  | _ => 4 * k / 16
/-- The scale index of element (r, k) of a tile, r the row of S or the column of W (R108). -/
def Tile.scaleIndex (x : Tile) (kk r k : Nat) : Nat :=
  let b := blockSize (Tab.get 0 x.slotBlk 0)
  match Tab.get 0 x.slotDir 0 with
  | 0 => r * ceilDiv kk b + k / b
  | 1 => k * (64 / b) + r / b
  | _ => r / 16 * (kk / 16) + k / 16
/-- Byte `i` of the scale array. -/
def Tile.scaleByte (x : Tile) (i : Nat) : Nat := entryElem (Tab.get 0 x.slots (i / 64)) 8 (i % 64)
/-- The scales of a scaled operand cannot be used (R109). -/
def Tile.scaleBad (x : Tile) (k : Nat) : Bool :=
  !Tab.get false x.slotSet 0 || (k != 0 && 256 < x.scaleCount k)

/-- K of the product of two tiles; 0 while one has never been completed. -/
def prodK (s w : Tile) : Nat :=
  if s.fmt == 15 || w.fmt == 15 then 0 else kOf (max (fmtBits s.fmt) (fmtBits w.fmt))
/-- The formats or scales of a product cannot be combined (R93, R109, R110). -/
def prodBad (s w : Tile) (ss ws : Bool) : Bool :=
  s.fmt == 9 || w.fmt == 9 ||
  (s.fmt != 15 && w.fmt != 15 && fmtIsInt s.fmt != fmtIsInt w.fmt
    && !((fmtIsInt s.fmt && ss) || (fmtIsInt w.fmt && ws)))
  || (ss && s.scaleBad (prodK s w)) || (ws && w.scaleBad (prodK s w))
/-- The bits of MMTB's IMM at or above 4 × K ÷ 16 are not all 0 (R93). -/
def bitmapBad (s w : Tile) (imm : Nat) : Bool := prodK s w != 0 && 2 ^ (prodK s w / 4) ≤ imm

/-! ## Conditions of R80 -/

/-- The stream value of R71 for stream `st` of a nest in progress. -/
def loopAddr (d : LoopDesc) (idx : List Nat) (st : Nat) : Nat :=
  let x : Int := (d.bases.getD st 0 : Nat) +
    ((List.range 6).foldl (fun (a : Int) l =>
      a + (idx.getD l 0 : Nat) * ofTwos 32 ((d.incs.getD l []).getD st 0)) (0 : Int))
  twos 22 x
/-- The nest running around the next instruction: the innermost one whose body lies in
the instruction's region. -/
def Tun.nest (t : Tun) (pc : Pc) : Option LoopRun :=
  t.loops.find? fun r =>
    match t.program with
    | some p => match p.loops[r.k]? with
      | some d => (d.region == 1) == pc.inReplay
      | none => false
    | none => false
/-- IMM after IP: the parameter register or the stored field (R79). -/
def Tun.immIp (t : Tun) (w : Nat) : Nat :=
  if insIp w then (Tab.get 0 t.params (insImm w % 64)).toNat else insImm w
/-- The address-stream value that LV supplies, when the nest running is the one named (R79). -/
def Tun.lvValue (t : Tun) (pc : Pc) (w : Nat) : Option Nat :=
  match t.nest pc, t.program with
  | some r, some p =>
    if r.k == insLoop w then (p.loops[r.k]?).map fun d => loopAddr d r.idx (insStream w) else none
  | _, _ => none
/-- The IMM that the instruction uses (R79). -/
def Tun.imm (t : Tun) (pc : Pc) (w : Nat) : Nat :=
  if insLv w then
    let m := 2 ^ opIndex (insOp w)
    insImm w / m * m + (t.lvValue pc w).getD 0 % m
  else t.immIp w

/-- A field lies outside its range (R80 cause 5, R109). -/
def Tun.rangeBad (t : Tun) (pc : Pc) (w imm : Nat) : Bool :=
  let m := insMode w
  let f := modeFmt m
  match insOp w with
  | 0x05 => imm % 65536 == 0 || 191 < bitsOf m 23 16
  | 0x06 => imm % 65536 == 0
  | 0x27 => imm % 65536 == 0
  | 0x20 => 9 < f
  | 0x21 => 9 < f
  | 0x22 =>
    let b := bitsOf m 6 4
    let d := bitsOf m 3 2
    4 < b || d == 3 || (d == 2 && b != 1) || (d == 1 && b == 4)
  | 0x25 => 9 < f || 64 / fmtLanes f ≤ bitsOf imm 7 6
  | 0x30 => 9 < f || 64 / fmtLanes f ≤ imm % 4
  | 0x31 => 9 < f || 64 / fmtLanes f ≤ imm % 4
  | 0x03 =>
    match t.program with
    | none => true
    | some p => match p.loops[imm % 16]? with
      | none => true
      | some d => (d.region == 1) != pc.inReplay || d.first != pc.index + 1
          || (pc.inReplay && ((p.replay.drop pc.index).take (d.last - pc.index)).any fun w => insBend w.toNat)
  | 0x04 =>
    match t.program with
    | none => true
    | some p => p.blocks ≤ imm % 16 || p.patches.length < bitsOf imm 16 4 + bitsOf imm 24 17
  | _ => false

/-- The first cause of R80 that holds for the instruction, in the order 1, 8, 2, 3, 4, 5, 6. -/
def Tun.illegal (t : Tun) (pc : Pc) (w : Nat) : Option Nat :=
  let op := insOp w
  let m := insMode w
  let (mm, im) := opFields op
  let s := t.tileS (modeS m)
  let b := t.tileW (modeW m)
  let imm := t.imm pc w
  if !opDefined op then some 1
  else if insIp w && insLv w then some 8
  else if bitOf w 126 || bitOf w 56 || bitOf w 46 || bitOf w 54 || outside m mm
      || (if insIp w then 64 ≤ insImm w else outside (insImm w) im)
      || (op == 0x24 && !insIp w && bitmapBad s b (insImm w)) then some 2
  else if insMv w != opMv op then some 3
  else if (insSrc w 0).1 != opSrc op || (insSrc w 1).1 || (insSrc w 2).1
      || (insDst w 0).1 != decide (1 ≤ opDsts op) || ((insDst w 1).1 && opDsts op < 2)
      || (insLv w && (opIndex op == 0 || (t.lvValue pc w).isNone)) then some 4
  else if (insIp w && (outside imm im || (op == 0x24 && bitmapBad s b imm))) || t.rangeBad pc w imm then some 5
  else if (op == 0x23 || op == 0x24) && prodBad s b (modeSs m) (modeWs m) then some 6
  else none

end Sys2Proof.Machine
end

