-- ==== Sys2Proof/Machine/Flags.lean ====
section
/-! DEFINITION. Machine/Flags.lean: the sticky arithmetic flags (R121, R122): where
each engine keeps its four bits, OF, UF, NX and NV from the lowest. -/
namespace Sys2Proof.Machine

/-- The engines of a tun that keep sticky flags. -/
inductive FlagEngine where
  | dense | sparse | vector
  deriving DecidableEq, Repr

/-- The four flags of an engine as bits of TUN_ARITH_FLAGS. -/
def engineBits (e : FlagEngine) (flags : Nat) : Nat :=
  match e with
  | .dense => flags % 16
  | .sparse => flags % 16 * 16
  | .vector => flags % 16 * 256
/-- OR flags, given as bits of TUN_ARITH_FLAGS, into the register (R121). -/
def Tun.setArith (t : Tun) (bits : Nat) : Tun := { t with arith := t.arith ||| BitVec.ofNat 12 bits }
/-- OR flags into LTR_ARITH_FLAGS of unit `u`. -/
def State.setLtrFlags (s : State) (u flags : Nat) : State :=
  s.modLauter u fun l => { l with flags := l.flags ||| BitVec.ofNat 4 flags }

end Sys2Proof.Machine
end

