-- ==== Sys2Proof/Machine/Products.lean ====
section
/-! DEFINITION. Machine/Products.lean: what a matrix product computes on the two engines
(R111, R113 to R115, R127 to R132), how long it takes (R94, R130), and the engines' queues. -/
namespace Sys2Proof.Machine

/-! ## Operand elements -/

/-- Element `k` of row or column `r` of a tile, under its scale when `sc` is set (R108, R112). -/
def Tile.elem (x : Tile) (sc : Bool) (kk r k : Nat) : Elem :=
  let e := elemOf x.fmt (entryElem (Tab.get 0 x.rows r) (fmtBits x.fmt) k)
  if sc then e.scale (scaleOf (Tab.get 0 x.slotFmt 0) (x.scaleByte (x.scaleIndex kk r k))) else e
/-- The product is an unscaled integer product (R93, R110). -/
def Product.isInt (p : Product) : Bool :=
  fmtIsInt p.s.fmt && fmtIsInt p.w.fmt && !p.ss && !p.ws
/-- K, the group size g (R111) and the dense time T (R94) of a product. -/
def Product.k (p : Product) : Nat := prodK p.s p.w
@[inherit_doc Product.k] def Product.g (p : Product) : Nat :=
  match max (fmtBits p.s.fmt) (fmtBits p.w.fmt) with | 32 => 1 | 16 => 4 | 8 => 8 | _ => 16
/-- T of the dense engine: 64 cycles, or 128 when the wider operand is FP32. -/
def denseTime (s w : Tile) : Nat := if max (fmtBits s.fmt) (fmtBits w.fmt) == 32 then 128 else 64
/-- One group of the product (R113 to R115): result and flags. -/
def Product.group (p : Product) (acc : Nat) (ps : List (Elem × Elem)) : Nat × Nat :=
  if p.isInt then intGroup acc ps else fusedGroup acc ps
/-- Cut a list into runs of `g`. -/
def chunksOf {α : Type} (g : Nat) : Nat → List α → List (List α)
  | 0, _ => []
  | n + 1, xs => if xs.isEmpty then [] else xs.take g :: chunksOf g n (xs.drop g)
/-- Run groups over an accumulator value. -/
def Product.groups (p : Product) (acc : Nat × Nat) (gs : List (List (Elem × Elem))) : Nat × Nat :=
  gs.foldl (fun a g => let (v, f) := p.group a.1 g; (v, Nat.lor a.2 f)) acc
/-- The operand pairs of element (m, n) at the given positions. -/
def Product.pairs (p : Product) (m n : Nat) (ks : List Nat) : List (Elem × Elem) :=
  ks.map fun k => (p.s.elem p.ss p.k m k, p.w.elem p.ws p.k n k)

/-- R111: all K in windows of g. -/
def Product.denseElem (p : Product) (m n acc : Nat) : Nat × Nat :=
  p.groups (acc, 0) ((chunksOf p.g p.k (List.range p.k)).map (p.pairs m n))
/-- R132: the windows of the present blocks of column block n ÷ 16. -/
def Product.blockElem (p : Product) (bitmap m n acc : Nat) : Nat × Nat :=
  p.groups (acc, 0)
    (((chunksOf p.g p.k (List.range p.k)).filter fun ks =>
      bitOf bitmap (ks.headD 0 / 16 * 4 + n / 16)).map (p.pairs m n))
/-- The nonzero positions k < K of a row (R127). -/
def Tile.nonzeroK (x : Tile) (kk r : Nat) : List Nat :=
  (List.range kk).filter fun k => !elemZero x.fmt (entryElem (Tab.get 0 x.rows r) (fmtBits x.fmt) k)
/-- The nonzeros of rows below `r`. -/
def Tile.nonzeroBefore (x : Tile) (kk r : Nat) : Nat :=
  (List.range r).foldl (fun t i => t + (x.nonzeroK kk i).length) 0
/-- Cut a row's nonzeros, whose first has number `i`, at the run boundaries of 64. -/
def runSegs : Nat → List Nat → List Nat → List (List Nat)
  | _, cur, [] => if cur.isEmpty then [] else [cur.reverse]
  | i, cur, k :: ks =>
    if i % 64 == 0 && !cur.isEmpty then cur.reverse :: runSegs (i + 1) [k] ks
    else runSegs (i + 1) (k :: cur) ks
/-- The multiplier 1 of a merge group (R127). -/
def elemOne : Elem := { v := .fin false 1 0 }
/-- An accumulator value as an element of a merge group, never a signalling NaN. -/
def accElem (int : Bool) (a : Nat) : Elem :=
  if int then elemOf 9 a else { v := fvOf 0 a }
/-- R127: the compacted nonzeros of the row, in segments that are merged. -/
def Product.sparseElem (p : Product) (m n acc before : Nat) (ks : List Nat) : Nat × Nat :=
  match runSegs before [] ks with
  | [] => (acc, 0)
  | first :: rest =>
    let run (a : Nat) (seg : List Nat) : Nat × Nat :=
      p.groups (a, 0) ((chunksOf p.g seg.length seg).map (p.pairs m n))
    rest.foldl (fun v seg =>
      let (a, f) := run 0 seg
      let (r, f') := p.group v.1 [(accElem p.isInt a, elemOne)]
      (r, Nat.lor v.2 (Nat.lor f f'))) (run acc first)

/-- The 4,096 words that a product writes, and its flags. -/
def Product.compute (p : Product) (acc : Nat → Nat) : List (Nat × Nat) × Nat :=
  (List.range 64).foldl (fun out m =>
    let ks := if p.sparse && p.bitmap.isNone && !p.fallback then p.s.nonzeroK p.k m else []
    let before := if p.sparse && p.bitmap.isNone && !p.fallback then p.s.nonzeroBefore p.k m else 0
    (List.range 64).foldl (fun out n =>
      let a := acc (64 * m + n)
      let (v, f) := match p.bitmap with
        | some b => p.blockElem b m n a
        | none => if p.sparse && !p.fallback then p.sparseElem m n a before ks else p.denseElem m n a
      ((64 * m + n, v) :: out.1, Nat.lor out.2 f)) out) ([], 0)

/-- The conditions of the dense fallback (R129). -/
def needFallback (s w : Tile) (ss ws : Bool) : Bool :=
  let k := prodK s w
  let nanScale (x : Tile) : Bool :=
    (List.range (x.scaleCount k)).any fun i => (scaleOf (Tab.get 0 x.slotFmt 0) (x.scaleByte i)).isNone
  ((List.range 64).any fun n => (List.range k).any fun i =>
      let e := elemOf w.fmt (entryElem (Tab.get 0 w.rows n) (fmtBits w.fmt) i)
      e.sn || (match e.v with | .fin _ _ _ => false | _ => true))
    || (ss && nanScale s) || (ws && nanScale w)

/-! ## Times -/

/-- The largest number of splits in any row (R130). -/
def Tile.splits (x : Tile) (k : Nat) : Nat :=
  (List.range 64).foldl (fun q m => max q ((runSegs (x.nonzeroBefore k m) [] (x.nonzeroK k m)).length - 1)) 0
/-- Busy time and time to completion of a product on its engine (R94, R130, R132). -/
def productTimes (s w : Tile) (sparse fallback : Bool) (bitmap : Option Nat) : Nat × Nat :=
  let t := denseTime s w
  let k := prodK s w
  if !sparse then (t, t + 7) else
  match bitmap with
  | some b =>
    let p := ((List.range (k / 4)).filter (bitOf b)).length
    let tb := max (8 * t * p / max 1 k) (t / 8)
    (tb, tb + 7)
  | none =>
    if fallback then (2 * t, 2 * t + 7) else
    let c := 2 * t / max 1 k
    let ts := max (ceilDiv (s.nonzeroBefore k 64) 64) (k / 16) * c
    let q := s.splits k
    (ts + 12 * q, ts + 7 + 12 * q)


/-! ## Engines -/

/-- The queue of an engine. -/
def Tun.engine (u : Tun) (sparse : Bool) : List Product := if sparse then u.sparse else u.dense
/-- Replace the queue of an engine. -/
def Tun.setEngine (u : Tun) (sparse : Bool) (ps : List Product) : Tun :=
  if sparse then { u with sparse := ps } else { u with dense := ps }
/-- A product writes its accumulator tile and its sticky flags (R94, R121). -/
def Tun.write (u : Tun) (p : Product) : Tun :=
  let (ws, f) := p.compute fun i => (Tab.get 0 u.acc (p.acc * 4096 + i)).toNat
  { u with acc := ws.foldr (fun (e : Nat × Nat) r => Tab.set 0 r (p.acc * 4096 + e.1) (word e.2)) u.acc }.setArith
    (engineBits (if p.sparse then .sparse else .dense) f)
/-- Insert a product before the first that completes later. -/
def insCompletion (p : Product) : List Product → List Product
  | [] => [p]
  | q :: qs => if p.complete ≤ q.complete then p :: q :: qs else q :: insCompletion p qs
/-- Products of both engines, the earliest completion first. -/
def byCompletion (ps : List Product) : List Product := ps.foldr insCompletion []
/-- The products that have started by cycle `c` run to completion; those in the wait queues
are left (R84). -/
def Tun.finishProducts (u : Tun) (c : Nat) : Tun :=
  ((byCompletion (u.dense ++ u.sparse)).filter fun p => p.start ≤ c).foldl Tun.write u

end Sys2Proof.Machine
end

