-- ==== Sys2Proof/Machine/TunIssue.lean ====
section
/-! DEFINITION. Machine/TunIssue.lean: issuing one tun instruction: which instruction
issues next and in which cycle (R51, R71, R72), the conditions found at issue (R423),
pops (R57, R78), pending state (R85), and what lands later (R55, R58, R147). -/
namespace Sys2Proof.Machine

/-- Tun `id` has power and clock. -/
def State.tunActs (s : State) (id : Nat) : Bool := s.alive && !s.asleep (kettleOf id)
/-- TUN_CYCLE moves on while the program runs (R76). -/
def Tun.atCycle (t : Tun) (c : Nat) : Tun := if t.haltable then { t with cycle := max t.cycle c } else t

/-! ## Crossings between tuns (R18, R61) -/

/-- The far end of the tun-to-tun crossing `x`: its tun and queue. -/
def State.crossingTo (s : State) (x : Nat) : Nat × Nat :=
  let b := s.binding (x / 16) (48 + x % 16)
  (b.far % 65536, bitsOf b.far 23 16)
/-- The tuns of a crossing lie in different kettles: it passes over the die-to-die ring (R12). -/
def State.overRing (s : State) (x : Nat) : Bool := kettleOf (x / 16) != kettleOf (s.crossingTo x).1
/-- The oldest entry of crossing `x` becomes visible; one that the ring has lost is uncorrected
data (R144, chapter 16 after R347). -/
def State.crossOne (s : State) (x : Nat) : State :=
  let (ft, fq) := s.crossingTo x
  match Tab.get [] s.crossings x with
  | [] => s
  | c :: rest =>
    let s := { s with crossings := Tab.set [] s.crossings x rest }
    if c.taint != .good then s.bindingFault ft fq 1
    else (s.modTun ft fun u => u.modQueue fq fun y => { y with near := y.near ++ [c.entry] }).countFlag ft fq 1
/-- The oldest entry of the near half of queue `q` of tun `t`, bound to another tun, enters its
crossing while that and the far tun's queue have room, and counts into the binding's flag (R18,
R61, R64). -/
def State.crossPush (s : State) (t q : Nat) : State :=
  let k := t * 16 + (q - 48)
  let (ft, fq) := s.crossingTo k
  let c := Tab.get [] s.crossings k
  let x := (s.tun t).queue q
  match x.near with
  | [] => s
  | e :: rest =>
    if 16 ≤ c.length || 32 ≤ c.length + ((s.tun ft).queue fq).near.length then s
    else
      let s := { s with crossings := Tab.set [] s.crossings k (c ++ [({ entry := e, at_ := x.at_.headD s.clk.tun } : Crossed)]) }
      (s.modTun t fun u => u.modQueue q fun x => { x with near := rest, at_ := x.at_.drop 1 }).countFlag t q 1
/-- The push of the oldest entry of tun-to-tun crossing `x` that is not yet visible: reading of the
tuns' clock. -/
def State.oldestPush (s : State) (x : Nat) : Option Nat :=
  match Tab.get [] s.crossings x with
  | c :: _ => some c.at_
  | [] => ((s.tun (x / 16)).queue (48 + x % 16)).at_.head?
/-- The oldest entry of crossing `x`, pushed 32 receiver cycles ago or earlier, is visible (R61),
unless the far queue has no room. -/
def State.crossDue (s : State) (id x : Nat) : State :=
  match s.oldestPush x with
  | some c =>
    if c * s.mhz id + 32 * tunUnit ≤ s.clk.tun * s.mhz id then
      (if (Tab.get [] s.crossings x).isEmpty then s.crossPush (x / 16) (48 + x % 16) else s).crossOne x
    else s
  | none => s
/-- Every entry pushed toward tun `id` within its kettle 32 of its cycles ago or earlier is visible
(R61): at most 48 stand in a near half and its crossing. -/
def State.crossingsDue (s : State) (id : Nat) : State :=
  (List.range 16).foldl (fun s i =>
    let b := s.binding id (48 + i)
    let ft := b.far % 65536
    let x := ft * 16 + (bitsOf b.far 23 16 - 48)
    if b.kind != 3 || kettleOf ft != kettleOf id || s.crossingTo x != (id, 48 + i) then s else
    (List.range 48).foldl (fun s _ => s.crossDue id x) s) s

/-! ## The slot -/

/-- What issues: the place, the word and the cycle. -/
structure Slot where
  pc    : Pc
  w     : Nat
  cycle : Nat
  deriving DecidableEq, Repr

/-- Everything that happens before cycle `c` has happened. -/
def Tun.settled (t : Tun) (c : Nat) : Bool :=
  t.inflight.all (fun f => c ≤ f.land) && (t.dense ++ t.sparse).all (fun p => c ≤ p.complete)
/-- The instruction that the sequencer issues next. -/
def Tun.slot (t : Tun) : Option Slot :=
  match t.program, t.next with
  | some p, some pc => (p.at_ pc).map fun w => ⟨pc, w.toNat, t.base + insDelta w.toNat⟩
  | _, _ => none
/-- The slot, when tun `id` can issue it now and its opcode is `op`. -/
def State.ready (s : State) (id op : Nat) : Option Slot :=
  let t := s.tun id
  match t.slot with
  | none => none
  | some x =>
    if s.tunActs id && t.live && t.phase != .waiting && t.settled x.cycle && insOp x.w == op
        && (t.phase == .running || x.cycle == t.issued) then some x else none

/-- The cycle in which the next instruction of the tun issues, as far as it is known: of a
waiting tun, once its wait has been met (R51, R55, R66). -/
def Tun.horizon (t : Tun) : Option Nat :=
  match t.phase, t.nextDelta with
  | .waiting, some d => t.metAt.map fun r => max t.issued r + d
  | _, some d => if t.live then some (t.base + d) else none
  | _, none => none
/-- No instruction of the tun can still issue in cycle `c` or before; of a tun whose wait has not been
met, once that cycle has begun and no raise can still land in it (`State.landFtc`). -/
def Tun.past (t : Tun) (c : Nat) : Bool :=
  match t.horizon with | some h => c < h | none => true
/-- The FTC count at which what lands in cycle `c` of tun `id` has landed: while its wait has not
been met, one by which every raise that lands later lands in a later cycle, so that the program
resumes after `c` (R55, R66). -/
def State.landFtc (s : State) (id c : Nat) : Nat :=
  s.cycleFtc id c + b2n ((s.tun id).phase == .waiting && (s.tun id).metAt.isNone)

/-- The place after the instruction at `pc`: the next iteration of its nest, the return
from its block, or the next index (R71, R72). -/
def Tun.advance (pc : Pc) (w : Nat) (t : Tun) : Tun :=
  let onward (t : Tun) : Tun :=
    if pc.inReplay && insBend w then
      { t with next := t.replayRet.map fun i => ⟨false, i⟩, replayRet := none }
    else { t with next := some { pc with index := pc.index + 1 } }
  match t.nest pc, t.program with
  | some r, some p =>
    match p.loops[r.k]? with
    | none => onward t
    | some d =>
      if d.last != pc.index then onward t else
      let step := (List.range 6).foldl (fun (acc : List Nat × Bool) l =>
        let i := r.idx.getD l 0
        if acc.2 then
          if i + 1 < d.counts.getD l 1 then (acc.1 ++ [i + 1], false) else (acc.1 ++ [0], true)
        else (acc.1 ++ [i], false)) ([], true)
      if step.2 then onward { t with loops := t.loops.filter (· != r) }
      else { t with loops := t.loops.map fun x => if x == r then { r with idx := step.1 } else x,
                    next := some { pc with index := d.first } }
  | _, _ => onward t

/-- The instruction issues: TUN_PC, the cycle and the base of the next delta. Entries that have
crossed for 32 cycles are visible by then (R61). -/
def State.begin_ (s : State) (id : Nat) (x : Slot) : State :=
  ((s.reach (s.cycleFtc id x.cycle)).crossingsDue id).modTun id fun t =>
    { (t.atCycle x.cycle).advance x.pc x.w with
      pc := x.pc, base := x.cycle, issued := x.cycle, first := false }
/-- After an issue in a halted tun: the group ends where its deltas do, and the digest
closes with it (R319). -/
def State.finish (s : State) (id : Nat) : State :=
  let t := s.tun id
  if t.haltable || t.phase == .done then s
  else if t.inGroup t.issued then s
  else (s.setTun id { t with next := none }).closeDigest id true

/-- After an instruction that ends its co-issue group (R422: REPLAY, and WAIT_CYCLES with an
immediate that is not 0) nothing more of the group is left to issue. -/
def Tun.groupEnds (w imm : Nat) (t : Tun) : Tun :=
  if insOp w == 4 || (insOp w == 1 && imm != 0) then { t with first := true } else t
/-- The conditions of R423 up to the strict violation, then the instruction's own
action `body` on its slot and IMM. -/
def State.issue (s : State) (id op : Nat) (body : State → Slot → Nat → State) : State :=
  match s.ready id op with
  | none => s
  | some x =>
    let t := s.tun id
    let imm := t.imm x.pc x.w
    let s := (s.begin_ id x).modTun id (Tun.groupEnds x.w imm)
    let s :=
      match t.illegal x.pc x.w with
      | some cause => s.exception id 2 1 cause x.pc.num
      | none =>
        if insMv x.w && s.strict then s.exception id 2 2 0 x.pc.num
        else body s x imm
    if (s.tun id).haltable then s else s.finish id

/-- The tun's own sequencer owns the flag, or the fault kind of R65: 3 flag not owner,
4 flag undeclared. -/
def State.ownerFault (s : State) (id target flag : Nat) : Option Nat :=
  match s.flagOwner target flag with
  | (0, _) => some 4
  | o => if o == (1, id) then none else some 3
/-! ## Sources (R57, R78) -/

/-- Read SRC0: the head entry of its queue, removed by a pop; none when nothing is visible. -/
def Tun.read0 (t : Tun) (w c : Nat) : Option (Entry × Tun) :=
  let (_, peek, q) := insSrc w 0
  match (t.queue q).near with
  | [] => none
  | e :: rest =>
    if peek then some (e, t) else
    let t := { t with queues := Tab.mod {} t.queues q fun x => { x with near := rest } }
    some (e, { t with inflight := t.inflight.map fun f =>
      match f.eff with
      | .occ d q' n => if q' == q && f.issue == c then { f with eff := .occ d q' (n - 1) } else f
      | _ => f })
/-- The instruction slips on its empty SRC0 (KIND 1). -/
def State.slipEmpty (s : State) (id : Nat) (x : Slot) : State :=
  s.slip id 1 (insSrc x.w 0).2.2 0 x.pc x.cycle
/-- The destinations in order: (destination, queue). -/
def dstsOf (w : Nat) : List (Nat × Nat) :=
  (if (insDst w 0).1 then [(0, (insDst w 0).2.2)] else [])
    ++ (if (insDst w 1).1 then [(1, (insDst w 1).2.2)] else [])

/-! ## Pending state (R85) -/

/-- The resource code that an effect writes, if it writes unit state. -/
def Effect.resource : Effect → Option Nat
  | .tileRow isW tile _ _ _ => some (if isW then 4 + tile else tile)
  | .slot isW tile _ _ _ _ _ => some (if isW then 4 + tile else tile)
  | .accZero a _ => some (8 + a)
  | .vreg v _ => some (24 + v)
  | _ => none
/-- Resource `r` is pending in cycle `c` for a write in flight. -/
def Tun.pending (t : Tun) (c r : Nat) : Bool :=
  t.inflight.any fun f => f.issue < c && f.eff.resource == some r
/-- A product holds resource `r`. -/
def Tun.held (t : Tun) (r : Nat) : Bool :=
  (t.dense ++ t.sparse).any fun p => p.sTile == r || 4 + p.wTile == r || 8 + p.acc == r
/-- The first resource of a list that is pending or held (KIND 3). -/
def Tun.busyOf (t : Tun) (c : Nat) (rs : List Nat) : Option Nat :=
  rs.find? fun r => t.pending c r || t.held r
/-- The instruction slips on a resource (KIND 3). -/
def State.slipRes (s : State) (id : Nat) (x : Slot) (r : Nat) : State := s.slip id 3 r 0 x.pc x.cycle
/-- Put an effect in flight, landing `lat` cycles after issue. -/
def State.fly (s : State) (id : Nat) (x : Slot) (lat : Nat) (e : Effect) (flags : Nat) : State :=
  s.modTun id fun t =>
    { t with inflight := t.inflight ++ [⟨x.cycle, x.cycle + lat, e, flags, x.pc⟩] }

/-! ## Landing (R55, R58) -/

/-- E or 64 × C of a stream's latched descriptor: the entries that it carries (R147, R148). -/
def Stream.entries (st : Stream) : Nat :=
  let w (i : Nat) : Nat := (st.words.getD i 0).toNat
  let levels := bitsOf (w 0) 7 6
  let cnt (l : Nat) : Nat := if l < levels then w (2 + l) % 2 ^ 24 else 1
  if bitsOf (w 0) 3 2 == 0 then cnt 0 * cnt 1 * cnt 2 else 64 * cnt 0
/-- One result reaches queue `q` of tun `id` in cycle `u` (R58, R59, R147). -/
def State.pushEntry (s : State) (id q dst : Nat) (e : Entry) (pc : Pc) (u : Nat) : State :=
  let t := s.tun id
  let x := t.queue q
  let b := if 48 ≤ q then s.binding id q else {}
  let st := s.stream (kettleOf id * 256 + b.far % 256)
  if b.kind == 2 && st.entries ≤ st.moved + x.near.length + x.far.length then
    if t.haltable then s.streamFault id b.far 2 else s
  else if x.near.length < 32 then s.modTun id fun t => t.modQueue q fun x =>
    { x with near := x.near ++ [e],
             at_ := if b.kind == 4 then x.at_ ++ [t.oscAt + u * tunUnit / s.mhz id] else x.at_ }
  else if t.haltable then s.slip id 2 q dst pc u
  else s.modTun id fun t => { t with slipMulti := true }

/-- The write of row 63 of a stationary tile fixes its engine (R125). -/
def State.chooseSparse (s : State) (x : Tile) : Bool :=
  match s.sparseMode with
  | 1 => false
  | 2 => true
  | _ => 1000 * x.nz < s.sparseThr * 64 * (512 / max 1 (fmtBits x.fmt))
/-- Write one row of a stationary tile or column of a weight buffer (R82, R91, R124). -/
def Tile.writeRow (x : Tile) (row fmt : Nat) (e : Entry) : Tile :=
  let n := 512 / max 1 (fmtBits fmt)
  let nz := ((List.range n).filter fun i => !elemZero fmt (entryElem e (fmtBits fmt) i)).length
  let x := { x with rows := Tab.set 0 x.rows row e, rowNz := Tab.set 0 x.rowNz row nz }
  let x := if row == 0 then { x with complete := false } else x
  if row == 63 then
    { x with complete := true, fmt := fmt, nz := x.rowNz.foldl (fun t e => t + e.2) 0 }
  else x
/-- Entry at a tun-memory address, bits 5:0 taken as 0 (R89). -/
def Tun.memEntry (t : Tun) (a : Nat) : Entry :=
  let a := a / 64 * 64
  entryOf (if t.memFill == 0 then Tab.getMany 0 t.mem a 64
    else (List.range 64).map fun i => Tab.get (unlisted t.memFill (a + i)) t.mem (a + i))
/-- Write bytes of tun memory. -/
def Tun.memBytes (t : Tun) (a : Nat) (bs : List Byte) : Tun :=
  { t with mem := Tab.setManyBy (unlisted t.memFill) t.mem a bs }
/-- Write an entry at a tun-memory address. -/
def Tun.memPut (t : Tun) (a : Nat) (e : Entry) : Tun := t.memBytes (a / 64 * 64) (entryBytes e)
/-- A read of the 64-bit word of tun memory at byte address `a`, as its SECDED code finds it
(R145): the state and whether the word is uncorrected. -/
def State.tunWord (s : State) (id a : Nat) (o : EccOutcome) : State × Bool :=
  match o with
  | .symbol =>
    let s := s.modTun id fun t => { t with memCe := min 511 (t.memCe + 1) }
    let s := s.modHealth fun h => { h with tunCorr := h.tunCorr + 1 }
    (s.raise (srcTun id 7) (s.tun id).memErrReg, false)
  | .uncorrectable =>
    (s.modTun id fun t => if t.memUe then t else { t with memUe := true, memAddr := a }, true)
  | _ => (s, false)
/-- A read of the words of tun memory from byte address `a` on, of which `sel` says by their
number which are read (R145). -/
def State.tunEcc (s : State) (id a : Nat) (sel : Nat → Bool) (e : Ecc) : State × Bool :=
  e.foldl (fun (acc : State × Bool) x =>
    if !sel x.1 then acc else
    let (s, bad) := acc.1.tunWord id (a + 8 * x.1) x.2
    (s, acc.2 || bad)) (s, false)
/-- The words of one entry. -/
def inEntry (i : Nat) : Bool := i < 8
/-- An uncorrected word halts tun `id` (R145). -/
def State.tunMemFault (s : State) (id : Nat) : State :=
  (s.raise (srcTun id 3) (s.tun id).memErrReg).haltFault id

/-- The effect is a raise. -/
def Effect.isRaise : Effect → Bool
  | .raise _ _ => true
  | _ => false
/-- The index of the result that lands first: earliest cycle, then raises, so that the cycle in which
a wait is met is known (R66), then issue order. -/
def firstLanding : List InFlight → Option (Nat × InFlight)
  | [] => none
  | f :: fs =>
    match firstLanding fs with
    | none => some (0, f)
    | some (i, g) =>
      if g.land < f.land || (g.land == f.land && g.eff.isRaise && !f.eff.isRaise) then some (i + 1, g) else some (0, f)
/-- Take element `i` out of a list. -/
def takeOut {α : Type} : Nat → List α → List α
  | _, [] => []
  | 0, _ :: xs => xs
  | n + 1, x :: xs => x :: takeOut n xs
/-- Put an element in place of element `i`. -/
def putIn {α : Type} (y : α) : Nat → List α → List α
  | _, [] => []
  | 0, _ :: xs => y :: xs
  | n + 1, x :: xs => x :: putIn y n xs

/-- The effect of a result that lands. -/
def State.landEffect (s : State) (id : Nat) (f : InFlight) : State :=
  match f.eff with
  | .push ds e => ds.foldl (fun s d => s.pushEntry id d.2 d.1 e f.pc f.land) s
  | .occ d q n =>
    let _ := q
    s.pushEntry id d 0 (BitVec.ofNat 512 n) f.pc f.land
  | .memRead _ _ _ => s
  | .memWrite a e => s.modTun id fun t => t.memPut a e
  | .vreg v ls => s.modTun id fun t =>
      { t with vregs := ls.foldl (fun r l => Tab.set 0 r (v * 64 + l.1) l.2) t.vregs }
  | .tileRow true i row fmt e =>
    s.modTun id fun t => { t with wbuf := Tab.mod {} t.wbuf i fun x => x.writeRow row fmt e }
  | .tileRow false i row fmt e =>
    let x := ((s.tun id).tileS i).writeRow row fmt e
    let x := if row == 63 then { x with sparse := s.chooseSparse x } else x
    let s := s.modTun id fun t => { t with stat := Tab.set {} t.stat i x }
    if row == 63 then s.modTun id (Tun.engineBit s.blockPos id x.sparse) else s
  | .slot isW i j fmt blk dir e =>
    let put (x : Tile) : Tile :=
      { x with slots := Tab.set 0 x.slots j e, slotFmt := Tab.set 0 x.slotFmt j fmt,
               slotBlk := Tab.set 0 x.slotBlk j blk, slotDir := Tab.set 0 x.slotDir j dir,
               slotSet := Tab.set false x.slotSet j true }
    s.modTun id fun t =>
      if isW then { t with wbuf := Tab.mod {} t.wbuf i put } else { t with stat := Tab.mod {} t.stat i put }
  | .accZero a cells => s.modTun id fun t =>
      { t with acc := cells.foldl (fun r k => Tab.set 0 r (a * 4096 + k) 0) t.acc }
  | .raise g n => s.raiseFlagIn id g n f.pc.num (some f.land)

/-- The first result in flight of tun `id` lands. -/
def State.landFirst (s : State) (id : Nat) : State :=
  let t := s.tun id
  match firstLanding t.inflight with
  | none => s
  | some (i, f) =>
    let s := s.modTun id fun t => (t.atCycle f.land).setArith f.flags
    match f.eff with
    | .memRead a ds o =>
      let (s, bad) := s.tunEcc id (a / 64 * 64) inEntry o
      if bad then (s.modTun id fun t => { t with inflight := takeOut i t.inflight }).tunMemFault id
      else
        let e := (s.tun id).memEntry a
        s.modTun id fun t => { t with inflight := putIn { f with land := f.land + 3, eff := .push ds e } i t.inflight }
    | _ => (s.modTun id fun t => { t with inflight := takeOut i t.inflight }).landEffect id f

/-- Everything in flight lands, as it does long before a LOAD or CLEAR takes effect. -/
def State.drain (s : State) (id : Nat) : State :=
  (List.range (2 * (s.tun id).inflight.length)).foldl (fun s _ => s.landFirst id) s

end Sys2Proof.Machine
end

