-- ==== Sys2Proof/Machine/TunLoad.lean ====
section
/-! DEFINITION. Machine/TunLoad.lean: loading a tun program and its checks (R73, R52,
R54, R63, R100 to R102, R422), the commands of TUN_CMD (R74, R76), the launch (R51,
R146) and the movement of port-queue entries (R18, R61, R64, R424). -/
namespace Sys2Proof.Machine

/-! ## The image (R73) -/

/-- A word of the image as 128 bits. -/
def insAt (b : Blob) (o : Nat) : BitVec 128 := BitVec.ofNat 128 (b.nat o 16)
/-- Loop descriptor at an offset (R100). -/
def descAt (b : Blob) (o : Nat) : LoopDesc :=
  { first := b.nat o 2, last := b.nat (o + 2) 2, region := b.nat (o + 4) 1, levels := b.nat (o + 5) 1,
    counts := (List.range 6).map fun l => b.nat (o + 8 + 4 * l) 4,
    bases := (List.range 4).map fun st => b.nat (o + 0x20 + 4 * st) 4,
    incs := (List.range 6).map fun l => (List.range 4).map fun st => b.nat (o + 0x30 + 16 * l + 4 * st) 4 }
/-- Offsets of the parts of an image. -/
def imgLoops (b : Blob) : Nat := 128 + 16 * b.nat 0x0C 2
@[inherit_doc imgLoops] def imgReplay (b : Blob) : Nat := imgLoops b + 144 * b.nat 0x0E 1
@[inherit_doc imgLoops] def imgPatch (b : Blob) : Nat := imgReplay b + 16 * b.nat 0x10 4
@[inherit_doc imgLoops] def imgEnd (b : Blob) : Nat := ceilDiv (imgPatch b + 8 * b.nat 0x14 4) 16 * 16
/-- The program that an image holds. -/
def programOf (b : Blob) : Program :=
  { store := (List.range (b.nat 0x0C 2)).map fun i => insAt b (128 + 16 * i)
    loops := (List.range (b.nat 0x0E 1)).map fun k => descAt b (imgLoops b + 144 * k)
    replay := (List.range (b.nat 0x10 4)).map fun i => insAt b (imgReplay b + 16 * i)
    blocks := b.nat 0x0F 1
    patches := (List.range (b.nat 0x14 4)).map fun i =>
      (b.nat (imgPatch b + 8 * i) 1, word (b.nat (imgPatch b + 8 * i + 4) 4)) }

/-- The header rules of R73, in byte order: the offset of the first that is broken. DESIGN CHOICE
(log entry 94): the 8 bytes that pad an odd PATCH_N have no failure code (R102), so an image in which
they are not 0 loads. -/
def headerBad (b : Blob) (len : Nat) : Option Nat :=
  firstSome [need (b.nat 0 4 == 0x504E5554) 0, need (b.nat 4 2 == 1) 4, need (b.zero 6 2) 6,
    need (b.nat 8 4 == len && b.nat 8 4 % 16 == 0 && 128 ≤ len) 8,
    need (1 ≤ b.nat 0x0C 2 && b.nat 0x0C 2 ≤ 1024) 0x0C, need (b.nat 0x0E 1 ≤ 16) 0x0E,
    need (b.nat 0x0F 1 ≤ 16) 0x0F, need (b.nat 0x10 4 ≤ 4096) 0x10, need (b.nat 0x14 4 ≤ 8192) 0x14,
    need (b.zero 0x18 8) 0x18, b.firstNonzero 0x5C 36, need (imgEnd b == len) 8]
/-- The first word of the size record that differs from FEAT (R24). -/
def State.sizeBad (s : State) (b : Blob) : Option Nat :=
  (List.range 15).findSome? fun i => need (b.nat (0x20 + 4 * i) 4 == s.featReg (4 + 4 * i)) (4 + 4 * i)

/-! ## Co-issue (R52, R422) -/

/-- A delta-0 instruction joins the group before it; a WAIT_CYCLES before it lets it
join only when its immediate can be 0. -/
def joins (prev w : Nat) : Bool :=
  insDelta w == 0 && (insOp prev != 1 || insIp prev || insImm prev == 0)
/-- Two instructions of the group are of one unit (R52). -/
def unitsClash : List Nat → Bool
  | [] => false
  | w :: ws => ws.any (fun v => opUnit (insOp v) == opUnit (insOp w)) || unitsClash ws
/-- Groups of a sequence of (index, word): the group being formed, newest first. -/
def groupsOf : List (Nat × Nat) → List (Nat × Nat) → List (List (Nat × Nat))
  | cur, [] => [cur.reverse]
  | [], x :: xs => groupsOf [x] xs
  | (i, p) :: cur, x :: xs =>
    if insOp p != 4 && joins p x.2 then groupsOf (x :: (i, p) :: cur) xs
    else ((i, p) :: cur).reverse :: groupsOf [x] xs
/-- The index of the first instruction of the first group that breaks R52. -/
def seqClash (xs : List (Nat × Nat)) : Option Nat :=
  ((groupsOf [] xs).find? fun g => unitsClash (g.map (·.2))).map fun g => (g.headD (0, 0)).1
/-- A list of words with their indices from `i` on. -/
def indexed (i : Nat) (ws : List (BitVec 128)) : List (Nat × Nat) :=
  (List.range ws.length).map fun k => (i + k, (ws.getD k 0).toNat)
/-- The replay blocks as (index, word) runs (R101). -/
def blocksOf (ws : List (BitVec 128)) : List (List (Nat × Nat)) :=
  let go := (indexed 0 ws).foldl (fun (a : List (List (Nat × Nat)) × List (Nat × Nat)) x =>
    if insBend x.2 then (a.1 ++ [a.2 ++ [x]], []) else (a.1, a.2 ++ [x])) ([], [])
  go.1 ++ (if go.2.isEmpty then [] else [go.2])
/-- The last co-issue group of a sequence. -/
def lastGroup (xs : List (Nat × Nat)) : List (Nat × Nat) := (groupsOf [] xs).getLastD []
/-- The first co-issue group of a sequence, when it begins with delta 0; else nothing. -/
def firstGroup (xs : List (Nat × Nat)) : List (Nat × Nat) :=
  match xs with
  | [] => []
  | x :: _ => if insDelta x.2 == 0 then (groupsOf [] xs).headD [] else []
/-- A group continued by delta-0 instructions clashes; the index of its first instruction. -/
def joinClash (g next : List (Nat × Nat)) : Option Nat :=
  match g.getLast? with
  | none => none
  | some l =>
    match next with
    | [] => none
    | x :: _ => if joins l.2 x.2 && unitsClash ((g ++ next).map (·.2)) then some (g.headD (0, 0)).1 else none
/-- The groups that stand last when the sequence `xs` of region `r` has been issued, with their
regions: its own last group, or, where it ends with a REPLAY, those of the blocks `bs` that
the REPLAY can name. Where a REPLAY stands right before the last group, that group continues those
blocks' last groups, and each of these stands last as well. -/
def lastGroups (bs : List (List (Nat × Nat))) (r : Nat) (xs : List (Nat × Nat)) : List (Nat × List (Nat × Nat)) :=
  let named (x : Nat × Nat) : List (List (Nat × Nat)) :=
    ((List.range bs.length).filter fun b => insIp x.2 || b == insImm x.2 % 16).map fun b => lastGroup (bs.getD b [])
  let g := lastGroup xs
  match xs.getLast? with
  | none => []
  | some x =>
    if insOp x.2 == 4 then (named x).map fun e => (1, e) else
    match (xs.take (xs.length - g.length)).getLast?, g.head? with
    | some y, some z =>
      if insOp y.2 == 4 && insDelta z.2 == 0 then
        (r, g) :: ((named y).filter fun e => joins (e.getLastD (0, 0)).2 z.2).map fun e => (1, e ++ g)
      else [(r, g)]
    | _, _ => [(r, g)]
/-- Every clash of R422: within a sequence, around loop bodies and after replays.
Answers (1 for a replay index, index). -/
def Program.coissueBad (p : Program) : Option (Nat × Nat) :=
  let st := indexed 0 p.store
  let bs := blocksOf p.replay
  let part (xs : List (Nat × Nat)) (a b : Nat) : List (Nat × Nat) := xs.filter fun x => a ≤ x.1 && x.1 ≤ b
  let after (r : Nat) (xs next : List (Nat × Nat)) : Option (Nat × Nat) :=
    (lastGroups bs r xs).findSome? fun g => (joinClash g.2 (firstGroup next)).map fun i => (g.1, i)
  let wrap (xs : List (Nat × Nat)) (region : Nat) : Option (Nat × Nat) :=
    (p.loops.filter fun d => d.region == region).findSome? fun d =>
      after region (part xs d.first d.last) (part xs d.first d.last)
  firstSome [(seqClash st).map fun i => (0, i),
    (bs.findSome? seqClash).map fun i => (1, i),
    wrap st 0,
    bs.findSome? fun b => wrap b 1,
    st.findSome? fun x => if insOp x.2 != 4 then none else after 0 [x] (st.filter fun y => x.1 < y.1)]

/-! ## Bindings (R54, R63) -/

/-- The pairing of a tun-to-tun binding holds (R63). -/
def pairOk (part : Blob) (t q : Nat) (b : Binding) : Bool :=
  let ft := b.far % 65536
  let fq := bitsOf b.far 23 16
  let f := bindingIn part ft (fq - 48)
  let k := kettleOf t
  let fk := kettleOf ft
  (fk == k || fk == (k + 1) % 4 || fk == (k + 3) % 4) && part.nat (partRec ft) 1 == 0
    && f.kind == (if b.kind == 3 then 4 else 3) && f.far % 65536 == t && bitsOf f.far 23 16 == q
/-- The queues that an instruction uses wrongly (R54), if any: the first. DESIGN CHOICE (log
entry 94): R73 orders the instructions only; of two queues that one instruction misuses DETAIL names
the first in the order SRC0, SRC1, SRC2, DST0, DST1. -/
def useBad (part : Blob) (t w : Nat) : Option Nat :=
  let bind (q : Nat) : Binding := bindingIn part t (q - 48)
  let src (x : Bool × Bool × Nat) : Option Nat :=
    let q := x.2.2
    if x.1 && 48 ≤ q && !(bind q).inbound then some q else none
  let dst (x : Bool × Bool × Nat) : Option Nat :=
    let q := x.2.2
    if x.1 && 48 ≤ q && ((bind q).kind == 0 || (bind q).inbound) then some q else none
  firstSome [src (insSrc w 0), src (insSrc w 1), src (insSrc w 2), dst (insDst w 0), dst (insDst w 1)]
/-- The first queue that fails (code BIND). -/
def bindBad (part : Blob) (t : Nat) (p : Program) : Option Nat :=
  firstSome [(List.range 16).findSome? fun b =>
      let x := bindingIn part t b
      if (x.kind == 3 || x.kind == 4) && !pairOk part t (48 + b) x then some (48 + b) else none,
    p.store.findSome? fun w => useBad part t w.toNat,
    p.replay.findSome? fun w => useBad part t w.toNat]

/-! ## Loops, replay and patches (R100 to R102) -/

/-- The words of a region. -/
def Program.region (p : Program) (r : Nat) : List (BitVec 128) := if r == 1 then p.replay else p.store
/-- A descriptor breaks a rule of its own (R100). -/
def descBad (p : Program) (d : LoopDesc) (reserved : Bool) : Bool :=
  d.last < d.first || 1 < d.region || d.levels < 1 || 6 < d.levels || reserved
    || (List.range 6).any (fun l =>
        let c := d.counts.getD l 1
        c < 1 || 16777215 < c || (d.levels ≤ l && c != 1))
    || d.bases.any (fun x => 2 ^ 22 ≤ x)
    || (p.region d.region).length ≤ d.last
    || (((p.region d.region).drop d.first).take (d.last + 1 - d.first)).any fun w => insOp w.toNat == 3
/-- Replay indices `a` and `b` lie in one block. -/
def sameBlock (p : Program) (a b : Nat) : Bool :=
  (blocksOf p.replay).any fun g => g.any (·.1 == a) && g.any (·.1 == b)
/-- The LOOP, or the LV reference, at index `i` of region `r` breaks a rule. -/
def loopRefBad (p : Program) (r i w : Nat) : Bool :=
  (insOp w == 3 && !insIp w && match p.loops[insImm w % 16]? with
    | none => true
    | some d => d.region != r || d.first != i + 1 || (r == 1 && !(sameBlock p i d.first && sameBlock p i d.last)))
  || (insLv w && match p.loops[insLoop w]? with
    | none => true
    | some d => d.region != r || i < d.first || d.last < i)
/-- The LOOP checks (code LOOP): DETAIL. -/
def loopBad (b : Blob) (p : Program) : Option Nat :=
  let scan (r : Nat) (ws : List (BitVec 128)) (tag : Nat) : Option Nat :=
    ((indexed 0 ws).find? fun x => loopRefBad p r x.1 x.2).map fun x => tag * 2 ^ 22 + x.1
  firstSome [(List.range p.loops.length).findSome? fun k =>
      match p.loops[k]? with
      | some d => if descBad p d (b.nat (imgLoops b + 144 * k + 6) 2 != 0) then some (2 * 2 ^ 22 + k) else none
      | none => none,
    scan 0 p.store 0, scan 1 p.replay 1]
/-- The replay and patch checks (code REPLAY): DETAIL. DESIGN CHOICE (log entry 93): where the last
replay instruction lacks BEND or the number of blocks is not REPLAY_BLOCKS, DETAIL names the last
replay instruction, or replay index 0 where there is none. DESIGN CHOICE (log entry 94): the
check that a block holds no REPLAY (R72), which R73 does not place, stands after the blocks' own rule
and before the store's REPLAY instructions. -/
def replayBad (b : Blob) (p : Program) : Option Nat :=
  let ends := (p.replay.filter fun w => insBend w.toNat).length
  firstSome [((indexed 0 p.store).find? fun x => insBend x.2).map (·.1),
    if p.replay.isEmpty then need (p.blocks == 0) (2 ^ 22)
    else if !insBend (p.replay.getLastD 0).toNat || ends != p.blocks then
      some (2 ^ 22 + (p.replay.length - 1)) else none,
    ((indexed 0 p.replay).find? fun x => insOp x.2 == 4).map fun x => 2 ^ 22 + x.1,
    ((indexed 0 p.store).find? fun x => insOp x.2 == 4 && !insIp x.2 &&
        (p.blocks ≤ insImm x.2 % 16 || p.patches.length < bitsOf (insImm x.2) 16 4 + bitsOf (insImm x.2) 24 17)).map (·.1),
    (List.range p.patches.length).findSome? fun i =>
      let o := imgPatch b + 8 * i
      if 63 < b.nat o 1 || b.nat (o + 1) 3 != 0 then some (2 * 2 ^ 22 + i) else none]

/-- The result of LOAD's checks: CODE and DETAIL, or the program (R73). -/
def State.checkProgram (s : State) (t : Nat) (b : Blob) (len : Nat) : (Nat × Nat) ⊕ Program :=
  let p := programOf b
  let part := s.sec_ secPartition
  match headerBad b len with
  | some o => .inl (1, o)
  | none => match s.sizeBad b with
    | some o => .inl (2, o)
    | none => if !s.grist.active || s.forwardOnly t then .inl (3, 0) else
      match p.coissueBad with
      | some (r, i) => .inl (5, r * 2 ^ 22 + i)
      | none => match bindBad part t p with
        | some q => .inl (6, q)
        | none => match loopBad b p with
          | some d => .inl (7, d)
          | none => match replayBad b p with
            | some d => .inl (8, d)
            | none => .inr p

/-! ## Commands of TUN_CMD -/

/-- A command refused (R76). -/
def State.tunRefuse (s : State) (t : Nat) : State := s.modTun t fun u => { u with refused := true }
/-- SEQ counts restart and what Maltings bindings hold is discarded (R178). -/
def Tun.emptySeq (u : Tun) : Tun := { u with seqIn := [], seqOut := [] }
/-- LOAD begins (R73, R76, R84, R137, R151, R319). -/
def State.loadBegin (s : State) (t : Nat) : State :=
  let u := s.tun t
  if s.proving then s.tunRefuse t else
  match u.phase with
  | .idle | .loaded | .done | .haltedFault | .haltedSw =>
    let now := s.cycleNow t
    let s := (((s.drain t).modTun t fun u => u.finishProducts now).closeDigest t false).cancelRunAhead t
    s.modTun t fun u =>
      { u.emptySeq with
        phase := .loading, program := none, next := none, ended := false, loops := [], replayRet := none,
        inflight := [], stat := [], wbuf := [], acc := [], vregs := [], dense := [], sparse := [] }
  | _ => s.tunRefuse t
/-- A poison mark at `l` is read by LOAD: R73 latches HBM_ERR_INFO with SOURCE 6 and CONSUMED 1,
R425 latches nothing for a mark. Which holds is a free value (log entry 94). -/
def State.loadMark (s : State) (l : Nat) : State :=
  match Config.loadLatchesMark, mapAddr s.hbmMode.toNat l with
  | true, some (c, x) => s.modCtl c fun k =>
      if k.errValid then k else
        { k with errValid := true, errUsed := true, errSrc := 6, errPc := bitsOf x 12 8, errAddr := BitVec.ofNat 64 x }
  | _, _ => s
/-- LOAD ends: SOURCE first, then the checks (R73). -/
def State.loadEnd (s : State) (t : Nat) (e : Ecc) : State :=
  let u := s.tun t
  if u.phase != .loading then s else
  let src := u.loadSrc.toNat
  let len := u.loadLen.toNat
  let fail (s : State) (c d : Nat) : State :=
    s.modTun t fun u => { u with phase := .idle, loadCode := c, loadDetail := d }
  if src % 256 != 0 || 0x18000000000 < src + len then fail s 4 0 else
  let s := s.eccRead src len e 6 .used
  match (linesOf src len).find? fun l => s.poisonedAt l
      || e.any (fun x => eccBad x.2 && burstAddr src x.1 / 64 * 64 == l) with
  | some l => fail (((linesOf src len).filter s.poisonedAt).foldl State.loadMark s) 4 (l - src)
  | none =>
    let b := s.hbmBlob src len
    match s.checkProgram t b len with
    | .inl (c, d) => fail s c d
    | .inr p => s.modTun t fun u =>
      let rep := (p.replay.flatMap fun w => leBytes 16 w.toNat)
      let pat := (p.patches.flatMap fun e => leBytes 4 e.1 ++ leBytes 4 e.2.toNat)
      { (u.memBytes 0x3F0000 rep).memBytes 0x3E0000 pat with
        phase := .loaded, loadCode := 0, loadDetail := 0, program := some p }
/-- ARM_LAUNCH (R74). -/
def State.armLaunch (s : State) (t : Nat) : State :=
  let u := s.tun t
  if !s.proving && (u.phase == .loaded || u.phase == .done) && s.time.ftc + 4000 ≤ u.launchAt.toNat
      && (u.queues.all fun e => 48 ≤ e.1 || e.2.near.isEmpty) then
    s.modTun t fun u => { u with phase := .armed }
  else s.tunRefuse t
/-- HALT (R76). -/
def State.tunHaltCmd (s : State) (t : Nat) : State :=
  match (s.tun t).phase with
  | .armed => s.modTun t fun u => { u with phase := .loaded, quietAt := s.now }
  | .running | .waiting => s.haltSw t
  | _ => s.tunRefuse t
/-- What CLEAR leaves of a tun (R76, R137). -/
def Tun.cleared (u : Tun) : Tun :=
  { u.emptySeq with
    phase := .idle, program := none, next := none, ended := false, loops := [], replayRet := none,
    inflight := [], queues := [], flags := [], params := [],
    slipValid := false, slipMulti := false, slipKind := 0, slipQueue := 0, slipEnd := 0, slipPc := {},
    slipCycle := 0, fcyc := [],
    stat := u.stat.map fun e => (e.1, { e.2 with complete := false, sparse := false, nz := 0 }) }
/-- The tun's crossings toward and from other tuns are emptied with its queues (R76). -/
def State.dropCrossings (s : State) (t : Nat) : State :=
  { s with crossings := s.crossings.filter fun e => e.1 / 16 != t &&
      let b := s.binding (e.1 / 16) (48 + e.1 % 16)
      b.far % 65536 != t }
/-- CLEAR (R76). -/
def State.tunClearCmd (s : State) (t : Nat) : State :=
  match (s.tun t).phase with
  | .loading | .running | .waiting => s.tunRefuse t
  | _ =>
    (((((s.drain t).dropFar t).closeDigest t false).closeStreams t).dropCrossings t).modTun t Tun.cleared
/-- A write to TUN_FLAG (R76). -/
def State.tunFlagSet (s : State) (t f v : Nat) : State :=
  match (s.tun t).phase with
  | .idle | .loaded | .done | .haltedFault | .haltedSw => s.modTun t fun u => u.setFlag f (v % 65536)
  | _ => s.tunRefuse t

/-- Offset of a register of tun `t`. -/
def tunOff (t o : Nat) : Nat := 0x1000000 + t * 0x20000 + o
/-- TUN_LOAD (R73). -/
def execTunLoad (p : HostPort) (t : Fin 192) (s : State) : Out :=
  .next (s.hostWrite p (tunOff t 0) fun s => s.loadBegin t)
/-- LOAD_COMPLETE (R73); LOAD waits for the controllers of its image (R392). -/
def execLoadComplete (t : Fin 192) (e : Ecc) (s : State) : Out :=
  if s.tunActs t && s.regionReady (s.tun t).loadSrc.toNat (s.tun t).loadLen.toNat then .next (s.loadEnd t e) else .next s
/-- ARM_LAUNCH (R74). -/
def execArmLaunch (p : HostPort) (t : Fin 192) (s : State) : Out :=
  .next (s.hostWrite p (tunOff t 0) fun s => s.armLaunch t)
/-- TUN_HALT (R76). -/
def execTunHalt (p : HostPort) (t : Fin 192) (s : State) : Out :=
  .next (s.hostWrite p (tunOff t 0) fun s => s.tunHaltCmd t)
/-- TUN_CLEAR (R76). -/
def execTunClear (p : HostPort) (t : Fin 192) (s : State) : Out :=
  .next (s.hostWrite p (tunOff t 0) fun s => s.tunClearCmd t)
/-- TUN_FLAG_WRITE (R76). -/
def execTunFlagWrite (p : HostPort) (t : Fin 192) (f : Fin 256) (v : Word) (s : State) : Out :=
  .next (s.hostWrite p (tunOff t (0x400 + 4 * f)) fun s => s.tunFlagSet t f v.toNat)

/-! ## Launch -/

/-- The eight words of stream `k`'s descriptor. -/
def State.streamWords (s : State) (k : Nat) : List Word :=
  let c := s.ctl (4 * (k / 256) + k % 256 / 64)
  (List.range 8).map fun w => Tab.get 0 c.dms (8 * (k % 64) + w)
/-- A latched descriptor breaks a rule of the descriptor table (R146 to R150). -/
def State.descFault (s : State) (ws : List Word) (write : Bool) : Bool :=
  let w (i : Nat) : Nat := (ws.getD i 0).toNat
  let levels := bitsOf (w 0) 7 6
  let form := bitsOf (w 0) 3 2
  let node := w 1 % 65536
  let r := bitsOf (w 7) 31 27
  w 0 / 256 != 0 || w 0 % 4 != 0 || w 1 / 65536 != 0 || levels == 0 || form == 3 || (form != 0 && levels != 1)
    || (node != 0xFFFF && !s.present node)
    || ((List.range 3).any fun l => w (2 + l) / 2 ^ 24 != 0 || (l < levels && w (2 + l) % 2 ^ 24 == 0))
    || w 5 % 64 != 0 || w 6 % 64 != 0 || 16 < r || (write && (r != 0 || node != 0xFFFF))
/-- How many bindings of the active PARTITION name stream `k` (R146). -/
def State.streamUsers (s : State) (k : Nat) : Nat :=
  ((List.range 48).map fun i =>
    ((List.range 16).filter fun b =>
      let x := bindingIn (s.sec_ secPartition) (k / 256 * 48 + i) b
      (x.kind == 1 || x.kind == 2) && x.far % 256 == k % 256).length).foldl (· + ·) 0
/-- Latch the descriptor of the stream of binding `b` of tun `t` and start its epoch (R146). -/
def State.latchStream (s : State) (t b : Nat) : State :=
  let x := bindingIn (s.sec_ secPartition) t b
  if x.kind != 1 && x.kind != 2 then s else
  let k := kettleOf t * 256 + x.far % 256
  let ws := s.streamWords k
  if s.descFault ws (x.kind == 2) || s.streamUsers k != 1 then s.streamFault t k 1 else
  (s.closeStream k).modStream k fun st =>
    { words := ws, base := x.param, active := true, epoch := st.epoch, tun := t, queue := 48 + b,
      write := x.kind == 2, tileAt := x.param, reads := st.reads }
/-- The launch count of an armed tun is reached (R51, R74, R146, R308). Cycle 0 begins within
one tun period after it, at no defined phase (R420): a free value. -/
def execLaunch (t : Fin 192) (s : State) : Out :=
  let u := s.tun t
  if !(s.tunActs t && u.phase == .armed) then .next s else
  let s := (s.reach u.launchAt.toNat).releaseDue
  if s.grist.frozen then .next (s.modTun t fun u => { u with phase := .loaded, missed := true, quietAt := s.now }) else
  let s := if s.time.phase == .locked then s else s.mark 0
  let s := if s.repro then s else s.mark 6
  let s := s.modTun t fun u =>
    { u with phase := .running, next := some {}, base := 0, issued := 0, first := true, cycle := 0,
             launchFtc := u.launchAt.toNat, loops := [], replayRet := none, ended := false,
             blocked := false, denseFree := 0, sparseFree := 0, period := s.time.period }
  let gone := (s.time.ftc - u.launchAt.toNat) * s.oscStep * s.power.rate
  let phase := s.freeNat % tunUnit / s.mhz t
  let s := (s.modTun t fun u => { u with oscAt := s.clk.tun - gone + phase }).useFree
  .next ((List.range 16).foldl (fun s b => if (s.tun t).phase == .running then s.latchStream t b else s) s)

/-! ## Port queues -/

/-- FORM of a kind-2 or kind-6 binding: of the stream, or in PARAM (R148, R164). -/
def State.bindForm (s : State) (t : Nat) (b : Binding) : Nat :=
  if b.kind ≤ 2 then bitsOf ((s.stream (kettleOf t * 256 + b.far % 256)).words.getD 0 0).toNat 3 2
  else bitsOf b.param 17 16
/-- Entries that a read stream has ready pass into the far half as room appears there
(R147, R150, R424); after its last entry the stream is closed. -/
def State.refill (s : State) (t q : Nat) : State :=
  let b := s.binding t q
  let k := kettleOf t * 256 + b.far % 256
  let st := s.stream k
  if b.kind != 1 || st.tun != t || st.queue != q || st.write then s else
  let far := ((s.tun t).queue q).far.length
  let n := min st.store.length ((if s.bindForm t b == 0 then 32 else 64) - far)
  if n == 0 then s else
  let s := s.modTun t fun u => u.modQueue q fun x => { x with far := x.far ++ st.store.take n }
  s.modStream k fun st =>
    { st with store := st.store.drop n, moved := st.moved + n, active := st.active && st.moved + n < st.entries }
/-- An entry of a port queue moves from the pushing half toward the popping half when
there is room, counting into the binding's flag (R61, R64, R424); one of a collective
binding when R243 allows its chunk (R232). -/
def State.portTransfer (s : State) (t q : Nat) : State :=
  let b := s.binding t q
  let s := (s.refill t q).resultRefill t q
  let x := (s.tun t).queue q
  if b.kind == 1 || b.kind == 5 then
    match x.far with
    | [] => s
    | (e, taint) :: rest =>
      if 32 ≤ x.near.length then s
      else if taint != .good then
        ((s.modTun t fun u => u.modQueue q fun x => { x with far := rest }).useTaint taint).bindingFault t q 1
      else (s.modTun t fun u => u.modQueue q fun x => { x with far := rest, near := x.near ++ [e] }).countFlag t q 1
  else match x.near with
    | [] => s
    | e :: rest =>
      if b.kind == 4 then s.crossPush t q
      else if (b.kind == 2 || b.kind == 6) && s.bindForm t b != 0 && x.far.length < 64 then
        s.modTun t fun u => u.modQueue q fun x => { x with near := rest, far := x.far ++ [(e, .good)] }
      else if b.kind == 6 && s.bindForm t b == 0 && x.far.length < 32 && (!b.collective || s.mayMoveEntry t q) then
        (s.modTun t fun u => u.modQueue q fun x => { x with near := rest, far := x.far ++ [(e, .good)] }).countFlag t q 1
      else s
/-- PORT_QUEUE_TRANSFER (R61). -/
def execPortQueueTransfer (t : Fin 192) (q : Fin 64) (s : State) : Out :=
  if s.tunActs t && 48 ≤ q.val then .next (s.portTransfer t q) else .next s
/-- The FTC count at which the tuns' clock has run `n` cycles of tun `id` past the reading `c`. -/
def State.cyclesAfter (s : State) (id c n : Nat) : Nat :=
  s.time.ftc + ceilDiv (c * s.mhz id + n * tunUnit - s.clk.tun * s.mhz id) (s.oscStep * s.power.rate * s.mhz id)
/-- A ring transfer that needed a replay, or failed after four (chapter 16 after R347). -/
def State.ringEvent (s : State) : RingOutcome → State
  | .good => s
  | .replayed => (s.modHealth fun h => { h with ringCorr := h.ringCorr + 1 }).raise 1783 0
  | .failed => s.raise 1784 0
/-- CROSSING_DELIVER: the oldest entry of a tun-to-tun crossing becomes visible (R18, R61): at
least 12 cycles of the receiver after it left its near half within a kettle, at least 4 over the
ring, on which the transfer may need a replay or fail. -/
def execCrossingDeliver (m : CrossingMove) (s : State) : Out :=
  let ft := (s.crossingTo m.key).1
  match Tab.get [] s.crossings m.key.val with
  | [] => .next s
  | c :: rest =>
    if !s.tunActs ft then .next s else
    let far := s.overRing m.key
    let s := s.reach (s.cyclesAfter ft c.at_ (if far then 4 else 12))
    let s := if far then s.ringEvent m.ring else s
    let c := if far && m.ring == .failed then { c with taint := .bad } else c
    .next ({ s with crossings := Tab.set [] s.crossings m.key (c :: rest) }.crossOne m.key)

end Sys2Proof.Machine
end

