-- ==== Sys2Proof/Machine/Streams.lean ====
section
/-! DEFINITION. Machine/Streams.lean: data-mover streams (R147 to R151), reply
reservations (R190, R289), Maltings bindings (R178, R424), the HBM services of a kettle
(R165), sparge and calibration (R153, R154), the map and the host window (R140, R327). -/
namespace Sys2Proof.Machine

/-! ## Descriptor fields -/

/-- Word `i` of a latched descriptor. -/
def Stream.w (st : Stream) (i : Nat) : Nat := (st.words.getD i 0).toNat
/-- FORM and WIDTH of a latched descriptor. -/
def Stream.form (st : Stream) : Nat := bitsOf (st.w 0) 3 2
@[inherit_doc Stream.form] def Stream.widthCode (st : Stream) : Nat := bitsOf (st.w 0) 5 4
/-- NODE when the stream reads another node (R146). -/
def Stream.remote (st : Stream) : Option Nat := if st.w 1 % 65536 == 0xFFFF then none else some (st.w 1 % 65536)
/-- Entries or tiles that the stream carries in all (R147, R148). -/
def Stream.total (st : Stream) : Nat := if st.form == 0 then st.entries else st.entries / 64
/-- The package address of entry `n` of an uncompressed stream (R147). -/
def Stream.entryAddr (st : Stream) (n : Nat) : Int :=
  let levels := bitsOf (st.w 0) 7 6
  let cnt (l : Nat) : Nat := if l < levels then max 1 (st.w (2 + l) % 2 ^ 24) else 1
  let inc0 := ofTwos 32 (st.w 5)
  let inc1 := ofTwos 32 (st.w 6)
  (st.base : Int) + (n % cnt 0 : Nat) * inc0 + (n / cnt 0 % cnt 1 : Nat) * inc1
    + (n / (cnt 0 * cnt 1) : Nat) * ((cnt 1 : Int) * inc1)
/-- Bytes that a compressed tile occupies after its 8-byte header, as the header says (R133). -/
def tileRest (hdr : Nat) : Nat := ceilDiv (min 4096 (bitsOf hdr 31 16)) 8 * 8

/-- Entries from entry `n` on that one request of a remote stream fetches: consecutive lines of
one 4 KiB page, which lie in one stack, within the tile of entry `n` and within `room`. DESIGN
CHOICE (log entry 88): R147 does not say how entries are gathered into a READ_REQ. -/
def Stream.runLen (st : Stream) (n room : Nat) : Nat :=
  let a := st.entryAddr n
  ((List.range 64).takeWhile fun i =>
    i < min room (min (64 - n % 64) (st.total - n)) && st.entryAddr (n + i) == a + 64 * i
      && (a + 64 * i) / 4096 == a / 4096).length
/-- The next read of a stream that has room for `room` more entries: number, address, bytes;
none when no read is due. A compressed tile is read in two requests, its first line and then
the rest that its header tells of. -/
def Stream.nextRead (st : Stream) (room : Nat) : Option (Nat × Int × Nat) :=
  if !st.active || st.write || st.total ≤ st.issued || room == 0 then none
  else if st.form == 0 then
    some (st.issued, st.entryAddr st.issued, if st.remote.isNone then 64 else 64 * max 1 (st.runLen st.issued room))
  else if st.reads.any fun r => r.epoch == st.epoch then none
  else if st.part.isEmpty then some (st.issued, (st.tileAt : Int), 64)
  else some (st.issued, (st.tileAt + 64 : Nat), max 64 (ceilDiv (tileRest (natAt st.part 0 8) - 56) 64 * 64))
/-- The entries that the stream may still read ahead: within the halves of its queue and its
run-ahead store (R150). A compressed stream reads whole tiles. -/
def State.readRoom (s : State) (k : Nat) : Nat :=
  let st := s.stream k
  let x := (s.tun st.tun).queue st.queue
  if st.form == 0 then 64 + 64 * st.runahead - (st.issued - st.moved + x.far.length + x.near.length)
  else if st.issued * 64 - st.moved + x.far.length ≤ 64 * st.runahead then 64 else 0
/-- The data mover of stream `k` acts. -/
def State.moverActs (s : State) (k : Nat) : Bool := s.alive && !s.asleep (k / 256)

/-! ## Reading -/

/-- The fault of a stream access beyond HBM (R141); the stream stops. -/
def State.rangeFault (s : State) (k : Nat) : State :=
  let t := (s.stream k).tun
  (s.closeStream k).streamFault t k 3
/-- A read is on its way. -/
def Stream.sentRead (st : Stream) (n a len : Nat) (tag : Option Nat) : Stream :=
  { st with reads := st.reads ++ [{ nth := n, epoch := st.epoch, addr := a, bytes := len, tag := tag }],
            issued := if st.form == 0 then n + len / 64 else if st.part.isEmpty then n else n + 1,
            reserved := st.reserved.filter fun r => some r.2 != tag }
/-- A read of a stream reaches beyond HBM (R141). -/
def beyondHbm (a : Int) (len : Nat) : Bool := a < 0 || (hbmTop : Int) < a + len
/-- STREAM_READ_ISSUE: a local read goes to its controller, a remote one leaves as a
READ_REQ against its reservation (R147, R150, R165). -/
def execStreamReadIssue (k : Fin 1024) (s : State) : Out :=
  let st := s.stream k
  match st.nextRead (s.readRoom k) with
  | none => .next s
  | some (n, a, len) =>
    if !s.moverActs k then .next s
    else if beyondHbm a len then .next (s.rangeFault k)
    else match st.remote with
      | none => .next (s.modStream k fun st => st.sentRead n a.toNat len none)
      | some node =>
        match st.reserved.head?.bind fun r => (s.resv r.2).map fun v => (r.2, v.len) with
        | none => .next s
        | some (tag, len) =>
          let h := { s.mkHeader 0 0 0x02 node (endpointOf 3 ((s.stackOf a.toNat).getD 0 / 4)) with
                     stream := BitVec.ofNat 16 k, epoch := BitVec.ofNat 8 st.epoch, opx := BitVec.ofNat 64 a.toNat }
          let s := s.modResv tag fun r => { r with sent := true }
          let s := s.modStream k fun st => st.sentRead n a.toNat len (some tag)
          .next (s.source { port := 14 + 2 * (k / 256), hdr := h, payload := leBytes 4 len ++ leBytes 2 tag ++ zeros 2 })
/-- The entries of one read, each with R144's mark: what the classing of an uncorrectable burst
waits for is the first entry's becoming visible. -/
def markEntries (t : Taint) : List Entry → List (Entry × Taint)
  | [] => []
  | e :: es => (e, t) :: es.map fun e => (e, if t == .good then .good else .bad)
/-- Read entries or tiles that have arrived pass into the store in order (R147, R148);
`n` bounds their number. -/
def State.intoStore (s : State) (k : Nat) : Nat → State
  | 0 => s
  | n + 1 =>
    let st := s.stream k
    match st.early.find? fun e => e.1 == st.arrived with
    | none => s
    | some (i, es, t) =>
      State.intoStore (s.modStream k fun st =>
        { st with early := st.early.filter (·.1 != i), arrived := if st.form == 0 then i + es.length else i + 1,
                  store := st.store ++ markEntries t es }) k n
/-- Entries of read `n` have arrived at the data mover. -/
def State.streamEntries (s : State) (k n : Nat) (es : List Entry) (t : Taint) : State :=
  let s := s.modStream k fun st => { st with early := st.early ++ [(n, es, t)] }
  let st := s.stream k
  (s.intoStore k st.early.length).refill st.tun st.queue
/-- The data of a read, or of a whole tile, returns to an open epoch (R136, R144, R147, R148). -/
def State.streamData (s : State) (k n : Nat) (bytes : List Byte) (t : Taint) : State :=
  let st := s.stream k
  if st.form == 0 then s.streamEntries k n (entriesOf (bytes.length / 64) bytes) t
  else
    let hdr := natAt bytes 0 8
    let s := s.modStream k fun st =>
      { st with tileAt := ceilDiv (st.tileAt + 8 + tileRest hdr) 64 * 64, part := [], partBad := .good, issued := n + 1 }
    match decodeTile st.form st.widthCode hdr ((bytes.drop 8).take (tileRest hdr)), t with
    | some tile, t => s.streamEntries k n (entriesOf 64 tile) t
    | none, .good => (s.closeStream k).bindingFault st.tun st.queue 2
    | none, t => s.streamEntries k n (entriesOf 64 (zeros 4096)) t
/-- One read of an open epoch returns: the first line of a tile that is longer is kept, its
rest completes the tile (R148). -/
def State.streamArrives (s : State) (k : Nat) (r : StreamRead) (bytes : List Byte) (t : Taint) : State :=
  let st := s.stream k
  if st.form != 0 && st.part.isEmpty && 56 < tileRest (natAt bytes 0 8) then
    s.modStream k fun st => { st with part := fit 64 bytes, partBad := t }
  else s.streamData k r.nth (st.part ++ bytes) (if st.partBad == .good then t else st.partBad)
/-- The kettles of stream `k`'s data mover and of the stack that owns `a` are different ones
beside each other: the access passes over the die-to-die ring (R12). -/
def State.moverRing (s : State) (k a : Nat) : Bool :=
  match s.stackOf a with
  | some n => n / 4 == (k / 256 + 1) % 4 || n / 4 == (k / 256 + 3) % 4
  | none => false
/-- STREAM_READ_RETURN: the oldest local read of the stream returns (R143, R144, R147, R151).
Data that the ring has lost is uncorrected. The rest of a tile whose first line was uncorrected
is used by nothing. -/
def execStreamReadReturn (k : Fin 1024) (m : MoverOutcome) (s : State) : Out :=
  let st := s.stream k
  match st.reads.find? fun r => r.tag.isNone with
  | none => .next s
  | some r =>
    if !s.moverActs k || !(r.cut || s.hbmReady r.addr r.bytes) then .next s else
    let s := s.modStream k fun st => { st with reads := st.reads.erase r }
    let open_ := st.active && r.epoch == st.epoch
    let x := (s.tun st.tun).queue st.queue
    let ahead := !open_ || 64 ≤ (if st.form == 0 then r.nth else r.nth * 64) - st.moved + x.far.length + x.near.length
    let far := s.moverRing k r.addr
    let lost := r.cut || (far && m.ring == .failed)
    let e := if r.cut then [] else m.ecc
    let s := if far then s.ringEvent m.ring else s
    let t := if lost then .bad else s.taintOf r.addr r.bytes e
    let use := if !open_ || lost || st.partBad != .good then .unused else .undecided
    let s := s.eccRead r.addr r.bytes e (if ahead then 2 else 1) use
    .next (if open_ then s.streamArrives k r (s.hbmBytes r.addr r.bytes) t else s)

/-! ## Writing (R147 to R149) -/

/-- STREAM_WRITE_PERFORM: the controller performs the next entry or tile of a write stream,
poisoned when the ring has lost its data (chapter 16 after R347). -/
def execStreamWritePerform (k : Fin 1024) (m : MoverOutcome) (s : State) : Out :=
  let st := s.stream k
  if !s.moverActs k || !st.active || !st.write then .next s else
  let t := st.tun
  let q := st.queue
  let x := (s.tun t).queue q
  if st.form == 0 then
    match x.near with
    | [] => .next s
    | v :: rest =>
      let a := st.entryAddr st.moved
      if beyondHbm a 64 then .next (s.rangeFault k) else
      if !s.hbmReady a.toNat 64 then .next s else
      let far := s.moverRing k a.toNat
      let s := if far then s.ringEvent m.ring else s
      let s := s.modTun t fun u => u.modQueue q fun x => { x with near := rest }
      let s := s.modStream k fun st => { st with moved := st.moved + 1, active := st.moved + 1 < st.entries }
      .next ((s.ctlWrite a.toNat (entryBytes v) m.ecc 1 (far && m.ring == .failed)).countFlag t q 1)
  else if x.far.length < 64 then .next s
  else
    let (hdr, p) := encodeTile st.form st.widthCode ((x.far.take 64).flatMap fun v => entryBytes v.1)
    let bytes := leBytes 8 hdr ++ padTo8 p
    if hbmTop < st.tileAt + bytes.length then .next (s.rangeFault k) else
    if !s.hbmReady st.tileAt bytes.length then .next s else
    let far := s.moverRing k st.tileAt
    let s := if far then s.ringEvent m.ring else s
    let s := s.modTun t fun u => u.modQueue q fun x => { x with far := x.far.drop 64 }
    let s := s.modStream k fun st =>
      { st with moved := st.moved + 64, active := st.moved + 64 < st.entries,
                tileAt := ceilDiv (st.tileAt + bytes.length) 64 * 64 }
    .next ((s.ctlWrite st.tileAt bytes m.ecc 1 (far && m.ring == .failed)).countFlag t q 64)

/-! ## Reply reservations (R190, R289) -/

/-- Reserve reply space for a reply with a payload of `len` bytes, at port `p`'s turn in the
core cycle (R186): the tag, if it was given. -/
def State.reserve (s : State) (p len : Nat) (r : Reservation) : State × Option Nat :=
  let s := s.granaryTurn (1 + p)
  match s.freeTag with
  | none => (s, none)
  | some tag =>
    let n := cellsOf len
    let (s, ok) := s.takeCells ownReply 0 n
    if !ok then (s, none) else
    (s.modGranary fun g =>
      { g with resv := (tag, { r with cells := n, len := len, since := s.now }) :: g.resv,
               resvHigh := max g.resvHigh (g.resv.length + 1) }, some tag)
/-- A data-mover stream reserves the reply of its next remote read (R150, R190). -/
def State.reserveStream (s : State) (k : Nat) : State :=
  let st := s.stream k
  match st.nextRead (s.readRoom k), st.remote with
  | some (n, a, len), some node =>
    if !s.moverActs k || !st.reserved.isEmpty || beyondHbm a len then s else
    let r : Reservation :=
      { cells := 0, who := .stream (Fin.ofNat 1024 k), since := 0, epoch := st.epoch, node := node,
        addr := a.toNat, index := n }
    match s.reserve (14 + 2 * (k / 256)) len r with
    | (s, some tag) => s.modStream k fun st => { st with reserved := [(n, tag)] }
    | (s, none) => s
  | _, _ => s
/-- A reservation returned at the timeout (R289): its tag rests for 100 ms. -/
def State.replyLost (s : State) (tag : Nat) : State :=
  let s := s.dropResv tag
  let due := s.now + 400000000
  let s := s.modGranary fun g => { g with quarantine := Tab.set 0 (g.quarantine.filter fun e => s.now < e.2) tag due }
  s.modCore fun c => { c with lostCnt := satInc 16 c.lostCnt, lostTag := tag }
/-- The reply of a stream's read is lost (R289). -/
def State.streamReplyLost (s : State) (k tag : Nat) (r : Reservation) : State :=
  let st := s.stream k
  let s := (s.modStream k fun st => { st with reads := st.reads.filter fun x => x.tag != some tag,
                                              reserved := st.reserved.filter fun x => x.2 != tag }).replyLost tag
  if st.active && st.epoch == r.epoch then (s.closeStream k).streamFault st.tun k 5 else s

/-! ## The HBM services of a kettle -/

/-- The kettle of a frame's endpoint serves it. -/
def State.serviceActs (s : State) (h : Header) : Bool := h.epIdx < 4 && !s.asleep h.epIdx
/-- Frame `x` asks for an HBM access: READ_REQ, HBM_WRITE, MEM_REQ. -/
def InFrame.access (x : InFrame) : Bool := [0x02, 0x04, 0x12].contains x.hdr.op.toNat
/-- No older access of the same source to the same stack waits before it (R13). -/
def State.accessTurn (s : State) (x : InFrame) : Bool :=
  s.core.inbox.all fun y =>
    !(y.access && y.order < x.order && y.hdr.src == x.hdr.src && y.inPort == x.inPort
      && s.stackOf y.hdr.opx.toNat == s.stackOf x.hdr.opx.toNat)
/-- READ_REQ: the lines are read and leave in a READ_REPLY (R165). A request whose
verdict is not good is discarded; one whose fields break R165 is too. -/
def execReadReq (k : Nat) (e : Ecc) (s : State) : Out :=
  match s.inboxFor k [0x02] with
  | none => .next s
  | some x =>
    let h := x.hdr
    let len := natAt x.payload 0 4
    let a := h.opx.toNat
    if !s.serviceActs h || !s.hbmReady a (min len 4096) || !s.accessTurn x then .next s
    else if x.verdict != 0 || len % 64 != 0 || len == 0 || 4096 < len then .next (s.taken x)
    else
      let beyond := hbmTop < a + len
      let (s, bs, bad) := s.ctlRead a len e 1 .used
      let r := { s.mkHeader 1 4 0x03 h.src.toNat (endpointOf 4 (h.stream.toNat % 4096)) with
                 stream := h.stream, epoch := h.epoch, opx := BitVec.ofNat 64 (natAt x.payload 4 2) }
      .next ((s.taken x).source { port := s.hbmPort h.epIdx a, hdr := r, payload := bs,
                                  tail := if bad || beyond then s.mkTail 3 4 else {} })
/-- READ_REPLY: a reply for an open epoch is delivered, one for a closed epoch is
discarded (R151, R191, R290); a bad verdict makes its data uncorrected (R177). -/
def execReadReply (k : Nat) (s : State) : Out :=
  match s.inboxFor k [0x03] with
  | none => .next s
  | some x =>
    let i := x.hdr.epIdx
    let tag := x.hdr.opx.toNat % 65536
    let st := s.stream i
    let read := st.reads.find? fun r => r.tag == some tag
    let s := (s.taken x).modStream i fun st => { st with reads := st.reads.filter fun r => r.tag != some tag }
    match read with
    | none => .next s
    | some r =>
      if !(st.active && r.epoch == st.epoch && x.hdr.epoch.toNat == st.epoch % 256) then .next s
      else
        .next (s.streamArrives i r (fit r.bytes x.payload) (if x.verdict == 0 then .good else .bad))
/-- HBM_WRITE: every line is performed at its controller, poisoned on a verdict other
than good (R143, R144, R165). -/
def execHbmWrite (m : Taking) (s : State) : Out :=
  match s.inboxFor m.frame [0x04] with
  | none => .next s
  | some x =>
    if !s.serviceActs x.hdr || !s.hbmReady x.hdr.opx.toNat x.payload.length || !s.accessTurn x then .next s else
    let s := s.ctlWrite x.hdr.opx.toNat x.payload m.ecc 3 (x.verdict != 0)
    .next ((s.opFrameDone m.frame (if x.verdict == 0 then 0 else 3)).taken x)

/-! ## Maltings bindings (R178, R424) -/

/-- A frame of this binding is still at its source or its staging cell. -/
def State.bindingBusy (s : State) (t q : Nat) : Bool :=
  let b := some (t, q)
  s.core.held.any (fun f => f.binding == b) || s.core.inject.any (fun e => e.2.any fun f => f.binding == b)
    || s.core.frames.any fun f => f.binding == b && !f.admitted
/-- BINDING_FRAME_SEND: at most 64 waiting entries, or one tile, in one frame. -/
def execBindingFrameSend (t : Fin 192) (q : Fin 64) (s : State) : Out :=
  let b := s.binding t q
  let x := (s.tun t).queue q
  let form := s.bindForm t b
  let ep := bitsOf b.far 31 16
  if !s.tunActs t || q.val < 48 || b.kind != 6 || ep / 4096 == 1 || s.bindingBusy t q then .next s else
  let es := (x.far.map (·.1) ++ (if form == 0 then x.near else [])).take 64
  if es.isEmpty || (form != 0 && es.length < 64) then .next s else
  let bytes := es.flatMap entryBytes
  let seq := Tab.get 0 (s.tun t).seqOut (q.val - 48)
  let (hdr, p) := if form == 0 then (0, bytes) else
    let c := encodeTile form (bitsOf b.param 19 18) bytes
    (c.1, padTo8 c.2)
  let h := { s.mkHeader 0 0 0x01 (b.far % 65536) (BitVec.ofNat 16 ep) with
             stream := BitVec.ofNat 16 b.param, seq := BitVec.ofNat 32 seq, opx := BitVec.ofNat 64 hdr,
             flags := if form == 0 then 0 else 2 }
  let s := s.modTun t fun u => { u with seqOut := Tab.set 0 u.seqOut (q.val - 48) ((seq + 1) % 2 ^ 32) }
  .next (s.source { port := widePort t b.alt, hdr := h, payload := p, binding := some (t.val, q.val) })
/-- MLT_SEQ_ERR and MLT_SEQ_ERR_SRC latch the first stream sequence fault (R178). -/
def State.seqError (s : State) (h : Header) : State :=
  s.modCore fun c =>
    if bitOf c.seqErr.toNat 31 then c
    else { c with seqErr := word (2 ^ 31 + h.endpoint.toNat), seqErrSrc := word (h.src.toNat * 65536 + h.stream.toNat) }
/-- A kettle inbound binding judges a frame: SEQ, verdict, tile (R177, R178, R292). -/
def State.bindingReceive (s : State) (x : InFrame) : State :=
  let h := x.hdr
  let t := h.epIdx / 16
  let q := 48 + h.epIdx % 16
  let b := s.binding t q
  let form := s.bindForm t b
  let want := Tab.get 0 (s.tun t).seqIn (q - 48)
  let qu := (s.tun t).queue q
  let n := if form == 0 then x.payload.length / 64 else 64
  let fits : Bool := if form == 0 then qu.near.length + qu.far.length + n ≤ 64 else qu.far.isEmpty
  let halted := (s.tun t).phase == .haltedFault || (s.tun t).phase == .haltedSw
  if s.asleep (kettleOf t) then s
  else if !fits && halted then
    (s.taken x).modCore fun c => { c with sinkDisc := min (c.sinkDisc + 1) (2 ^ 32 - 1) }
  else if h.seq.toNat != want then ((s.taken x).seqError h).bindingFault t q 4
  else if x.verdict != 0 then (s.taken x).bindingFault t q 3
  else
    let entries : Option (List Entry) :=
      if form == 0 then (if h.cmp then none else some (entriesOf n x.payload))
      else if !h.cmp then none
      else (decodeTile form (bitsOf b.param 19 18) h.opx.toNat x.payload).map (entriesOf 64)
    match entries with
    | none => (s.taken x).bindingFault t q 2
    | some es =>
      if !fits then s else
      (s.taken x).modTun t fun u =>
        { u.modQueue q fun y => { y with far := y.far ++ es.map fun e => (e, .good) } with
          seqIn := Tab.set 0 u.seqIn (q - 48) ((want + 1) % 2 ^ 32) }
/-- The RECV that takes the next frame: the oldest not yet used. -/
def StreamQ.recvOp (x : StreamQ) : Option SqOp := x.recvs.head?
/-- A receive queue takes a frame with the expected SEQ whatever its verdict, and hands
its payload to the oldest RECV (R178, R335 to R337). -/
def State.queueReceive (s : State) (x : InFrame) : State :=
  let h := x.hdr
  let q := h.epIdx
  let sq := s.sq q
  if h.seq.toNat != sq.seqIn then (s.taken x).seqError h
  else match sq.recvOp, sq.port with
    | some o, some p =>
      let s := s.sendWrite p (natAt o.desc 8 8) x.payload true
      (s.taken x).modSq q fun y =>
        { y with seqIn := (y.seqIn + 1) % 2 ^ 32,
                 ops := y.ops.map fun z => if z.index == o.index then
                   { z with started := true, status := some (if x.verdict == 0 then 0 else 3),
                            bytes := h.length.toNat, info := h.stream.toNat * 65536 + h.src.toNat } else z }
    | _, _ => s
/-- WRITE_STREAM_RECEIVE (R178). -/
def execWriteStreamReceive (k : Nat) (s : State) : Out :=
  match s.inboxFor k [0x01] with
  | none => .next s
  | some x => .next (if x.hdr.epKind == 0 then s.bindingReceive x else s.queueReceive x)

/-! ## Background work -/

/-- Lines of a stack. -/
def stackLines : Nat := 0x60000000
/-- Entries of a tun memory. -/
def tunEntries : Nat := 65536
/-- FTC ticks of SPARGE_HOURS. -/
def State.spargeTicks (s : State) : Nat := s.spargeHours * 3600 * 4000000000
/-- Ticks that a pass over stack `n` takes in cellar slots alone: a calendar frame of 6,240
controller cycles, 3.9 µs at 1.6 GHz, has CELLAR_SLOTS of them (R154). DESIGN CHOICE (log entry 89):
one line is read in a slot. -/
def State.cellarTicks (s : State) (n : Nat) : Nat := ceilDiv (stackLines * 24960000) (s.mhz (192 + n) * s.cellarSlots)
/-- The ticks of a pass over stack `n` (R153, R154). -/
def State.passTicks (s : State) (n : Nat) : Nat :=
  if s.repro then max s.spargeTicks (s.cellarTicks n) else s.spargeTicks
/-- SPARGE_STEP: the next line of a stack, or entry of a tun memory, is read, and written
back when it was corrected (R144, R145, R153). A pass is spread evenly over its time; with the
reproducible-timing bit set the line is read in a cellar slot (R154). -/
def execSpargeStep (g : SpargeTarget) (m : SpargeRead) (s : State) : Out :=
  match g with
  | .stack n =>
    let c := s.ctl n
    if !s.alive || c.phase != .ready || s.asleep (n.val / 4) || (s.repro && !m.cellar) then .next s else
    let s := s.after (c.passFrom + c.progress * s.passTicks n / stackLines)
    let l := c.progress * 64
    let line := (n.val * 0x1800000000 + l) / 64
    let s := m.ecc.foldl (fun s x => if x.1 < 2 then s.eccAt n (l + 32 * x.1) x.2 4 .unused else s) s
    let s := if m.ecc.any fun x => x.1 < 2 && x.2 == .uncorrectable then { s with latent := insNat line s.latent } else s
    let behind := c.behind || c.passFrom + s.spargeTicks < s.now || s.spargeTicks < s.passTicks n
    .next (s.modCtl n fun c =>
      if c.progress + 1 < stackLines then { c with progress := c.progress + 1, behind := behind }
      else { c with progress := 0, passes := satInc 16 c.passes, passFrom := max s.now (c.passFrom + s.passTicks n),
                    behind := behind })
  | .tunMem t =>
    if !s.tunActs t then .next s else
    let u := s.tun t
    let s := s.after (u.spargeFrom + u.spargeAt * s.spargeTicks / tunEntries)
    let (s, _) := s.tunEcc t (u.spargeAt * 64) inEntry m.ecc
    .next (s.modTun t fun u =>
      if u.spargeAt + 1 < tunEntries then { u with spargeAt := u.spargeAt + 1 }
      else { u with spargeAt := 0, spargeFrom := max s.now (u.spargeFrom + s.spargeTicks) })
/-- HBM_CALIBRATION: at CAL_MS, in a cellar slot, or in an idle slot too while the
reproducible-timing bit is clear (R154). -/
def execHbmCalibration (n : Fin 16) (cellar : Bool) (s : State) : Out :=
  let c := s.ctl n
  if !s.alive || c.phase != .ready || s.asleep (n.val / 4) || (s.repro && !cellar) then .next s else
  let s := s.after (c.lastCal + s.calMs * 4000000)
  .next (s.modCtl n fun c => { c with lastCal := s.now, calibrations := c.calibrations + 1 })

/-! ## The map and the host window -/

/-- HBM_MAP_WRITE: block 0 stages MODE in the states of R140, and ignores it in others. -/
def execHbmMapWrite (p : HostPort) (v : Word) (s : State) : Out :=
  .next (s.hostWrite p 0x100004 fun s =>
    let s := if bitOf v.toNat 30 then { s with hbmMode := s.hbmMode &&& word (2 ^ 32 - 1 - 2 ^ 30) } else s
    match s.grist.phase with
    | .empty | .staged | .pass | .fail | .pitched | .aborted =>
      s.modGrist fun g => { g with rwp := Tab.put g.rwp 0x100004 (word (v.toNat % 2)) }
    | _ => { s with hbmMode := s.hbmMode ||| word (2 ^ 30) })
/-- Bytes of a port's BAR4 (R326). -/
def PortSt.bar4Size (x : PortSt) : Nat := 2 ^ (36 + x.pci.bar4)
/-- BAR4_READ (R327); an Unsupported Request is an advisory non-fatal error (R325). -/
def execBar4Read (p : HostPort) (off len : Nat) (e : Ecc) (s : State) : Out :=
  let s := s.flushPosted p
  if !s.portServes p || s.power.warm || (s.port p).bar4Size < off + len then .next s else
  let a := (s.port p).winBase.toNat + off
  if hbmTop < a + len then .next (((s.badAccess p 3).aerAdvisory p 20).emit (.unsupported p off))
  else if !s.windowAwake a len then .next (((s.badAccess p 2).aerAdvisory p 20).emit (.unsupported p off))
  else if !s.hbmReady a len then .next s
  else
    let (s, bs, bad) := s.ctlRead a len e 3 .used
    .next (s.emit (.bar4 p off bs bad))
/-- A posted BAR4 write waits: a warm reset is in progress, or a controller that it needs trains or
is in self-refresh with its kettle awake (R138, R391, R392). One for a stack whose controller has failed
does not wait. -/
def State.windowWaits (s : State) (w : PostedWrite) : Bool :=
  s.power.warm || w.addr + w.bytes.length ≤ hbmTop && s.windowAwake w.addr w.bytes.length &&
    (linesOf w.addr w.bytes.length).any fun l => match s.stackOf l with
      | some k => (s.ctl k).phase != .ready && (s.ctl k).phase != .failed
      | none => false
/-- Posted writes of port `p` that wait no longer are performed in order (R328). -/
def State.performPosted (s : State) (p : HostPort) : State :=
  (s.port p).posted.foldl (fun s w =>
    if (s.port p).posted.head? == some w && !s.windowWaits w then
      (s.modPort p fun x => { x with posted := x.posted.drop 1 }).windowWrite p w
    else s) s
/-- What waited at both ports for controllers is performed. -/
def State.performWaiting (s : State) : State := (s.performPosted .a).performPosted .b
/-- BAR4_WRITE (R327, R328, R425): a write whose controllers are not ready waits at its port, until
they are or a later request of the port arrives, which finds it performed. -/
def execBar4Write (p : HostPort) (off : Nat) (bytes : List Byte) (e : Ecc) (s : State) : Out :=
  let x := s.port p
  if !s.on || !x.linkUp || x.inReset || x.pci.d3hot || x.bar4Size < off + bytes.length then .next s else
  let w : PostedWrite := { addr := x.winBase.toNat + off, bytes := bytes, ecc := e }
  .next ((s.modPort p fun x => { x with posted := x.posted ++ [w] }).performPosted p)

end Sys2Proof.Machine
end

