-- ==== Sys2Proof/Machine/JournalOps.lean ====
section
/-! DEFINITION. Machine/JournalOps.lean: the cask journal engine (R156 to R159, R181)
and the lookup sampler's ring (R296). -/
namespace Sys2Proof.Machine

/-- The journal engine is enabled and not stopped by the fatal state (R354). -/
def State.journalOn (s : State) : Bool := bitOf s.journal.cfg.toNat 15 && !s.isFatal
/-- Bytes of the ring. -/
def Journal.ringSize (j : Journal) : Nat := max 1 (j.cfg.toNat % 2 ^ 15) * 2 ^ 30
/-- PARTNER, when there is one. -/
def Journal.partner (j : Journal) : Option Nat :=
  if j.cfg.toNat / 65536 == 0xFFFF then none else some (j.cfg.toNat / 65536)
/-- Bytes that an entry with `n` payload bytes takes in the ring (R157). -/
def entrySize (n : Nat) : Nat := ceilDiv (64 + n) 4096 * 4096
/-- The header of an entry (R157). -/
def entryHeader (e : CjOpen) (seq : Nat) : List Byte :=
  let b := [0x43#8, 0x41#8, 0x53#8, 0x4B#8] ++ leBytes 2 1 ++ leBytes 2 e.kind ++ leBytes 8 e.step.toNat
    ++ leBytes 2 e.layer ++ leBytes 2 e.rank ++ leBytes 4 e.bytes.length ++ leBytes 8 seq
    ++ leBytes 8 (crc64 e.bytes) ++ zeros 20
  b ++ leBytes 4 (crc32c b)
/-- The whole entry, padded (R157). -/
def entryImage (e : CjOpen) (seq : Nat) : List Byte :=
  fit (entrySize e.bytes.length) (entryHeader e seq ++ e.bytes)
/-- Forget the oldest entries that may be overwritten until `need` bytes are free (R158). -/
def makeRoom (size need : Nat) (commit : Nat) : List CjEntry → List CjEntry
  | [] => []
  | e :: es =>
    if (e :: es).foldl (fun t x => t + x.size) 0 + need ≤ size then e :: es
    else if e.step.toNat < commit then makeRoom size need commit es
    else e :: es
/-- Write a byte string to the ring at an offset, wrapping at its end; `ecc` says what the
controllers find at its bursts (R143). -/
def State.ringWrite (s : State) (base size off : Nat) (bs : List Byte) (ecc : Ecc) : State :=
  let n := min bs.length (size - off)
  let s := s.ctlWrite (base + off) (bs.take n) (ecc.filter (·.1 < n / 32)) 5 false
  s.ctlWrite base (bs.drop n) (eccFrom ecc (n / 32)) 5 false
/-- Send an entry to the partner, 4,096 bytes per frame (R159). -/
def State.mirrorSend (s : State) (node seq : Nat) (img : List Byte) : State :=
  (List.range (img.length / 4096)).foldl (fun s i =>
    let h := { s.mkHeader 3 10 0x40 node (endpointOf 5 0) with
               seq := BitVec.ofNat 32 i, opx := BitVec.ofNat 64 seq }
    s.source { port := 29, hdr := h, payload := sliceB img (4096 * i) 4096 }) s
/-- An entry that cannot be logged: OVERRUN and the journal overrun fault (R158, R181). -/
def State.journalOverrun (s : State) : State :=
  (s.modJournal fun j => { j with overrun := true }).raise 1763 0
/-- An entry closes: it is written, and sent for mirroring, or refused (R157 to R159). -/
def State.closeEntry (s : State) (e : CjOpen) (ecc : Ecc) : State :=
  if e.bytes.isEmpty then s else
  if e.bad then s.journalOverrun else
  let j := s.journal
  let size := j.ringSize
  let need := entrySize e.bytes.length
  let held := makeRoom size need j.commit.toNat j.entries
  if size < held.foldl (fun t x => t + x.size) 0 + need then s.journalOverrun else
  let img := entryImage e j.seq
  let s := s.ringWrite j.base.toNat size j.head img ecc
  let x : CjEntry := { seq := j.seq, step := e.step, off := j.head, size := need, mirrored := j.partner.isNone }
  let s := s.modJournal fun k =>
    { k with entries := held ++ [x], seq := j.seq + 1, head := (j.head + need) % size,
             unacked := if j.partner.isSome then k.unacked ++ [j.seq] else k.unacked }
  match j.partner with
  | some n => s.mirrorSend n j.seq img
  | none => s
/-- Every open entry closes (R156). -/
def State.closeEntries (s : State) : State :=
  let es := s.journal.openE
  es.foldl (fun s e => s.closeEntry e []) (s.modJournal fun j => { j with openE := [] })
/-- Append payload bytes to the open entry of the same key, in pieces of at most 1 MiB
(R156); `n` bounds the number of pieces. -/
def State.appendEntry (s : State) (ecc : Ecc) : Nat → CjOpen → State
  | 0, _ => s
  | n + 1, e =>
    if e.bytes.isEmpty then s else
    let same (x : CjOpen) : Bool := x.kind == e.kind && x.stream == e.stream && x.src == e.src
    let (cur, s) := match s.journal.openE.find? same with
      | some x =>
        let s := s.modJournal fun j => { j with openE := j.openE.filter fun y => !same y }
        if x.layer == e.layer then (x, s) else ({ e with bytes := [] }, s.closeEntry x ecc)
      | none => ({ e with bytes := [] }, s)
    let room := 1048576 - cur.bytes.length
    let cur := { cur with bytes := cur.bytes ++ e.bytes.take room, bad := cur.bad || e.bad }
    let s := if 1048576 ≤ cur.bytes.length then s.closeEntry cur ecc
      else s.modJournal fun j => { j with openE := j.openE ++ [cur] }
    State.appendEntry s ecc n { e with bytes := e.bytes.drop room }
/-- The copy `y` comes before the copy `x` of the same stream: in sequence order, and loads, whose
SEQ is 0, in the order of their arrival (R156). -/
def InFrame.copyBefore (y x : InFrame) : Bool :=
  y.journalCopy && y.hdr.op == x.hdr.op && y.hdr.src == x.hdr.src && y.hdr.stream == x.hdr.stream
    && y.hdr.endpoint == x.hdr.endpoint
    && (if y.hdr.seq == x.hdr.seq then y.order < x.order else (x.hdr.seq - y.hdr.seq).toNat < 2 ^ 31)
/-- The controllers of the next 16 pages of the ring, in which all stacks of its kettle lie, are
ready; until then the engine's copies wait (R392). -/
def State.ringReady (s : State) : Bool :=
  let j := s.journal
  (List.range 16).all fun i => s.hbmReady (j.base.toNat + (j.head + 4096 * i) % j.ringSize) 1
/-- JOURNAL_COPY: the engine takes a copy, those of one stream in sequence order (R156, R158, R181);
where an entry closes, `m` says what the controllers find (R143). -/
def execJournalCopy (m : Taking) (s : State) : Out :=
  match s.core.inbox.find? fun x => x.id == m.frame && x.journalCopy with
  | none => .next s
  | some x =>
    if !s.alive || s.core.inbox.any (fun y => y.copyBefore x) || (s.journalOn && !s.ringReady) then .next s else
    let load := x.hdr.op.toNat == 0x04
    let src := (s.frame? m.frame).bind (·.queue)
    let s' := s.taken x
    if !s.journalOn then .next s' else
    let layer := if load then ((s.frame? m.frame).map (·.layer)).getD 0
      else (s.journalLayer x.hdr.stream.toNat).getD 0
    let e : CjOpen :=
      { kind := if load then 1 else 2, step := s.journal.step, layer := layer, rank := s.rank x.hdr.src.toNat,
        stream := if load then (src.map (·.1)).getD 0 else x.hdr.stream.toNat, src := x.hdr.src.toNat,
        bytes := x.payload, bad := x.verdict != 0 }
    .next (s'.appendEntry m.ecc 3 e)
/-- JOURNAL_MIRROR: the frame's bytes are written to the mirror region, and the entry is
acknowledged when its last frame has been written (R159). It waits for its controllers (R392); in
the fatal state the engine has stopped and the frame is discarded (R354). -/
def execJournalMirror (m : Taking) (s : State) : Out :=
  match s.inboxFor m.frame [0x40] with
  | none => .next s
  | some x =>
    let j := s.journal
    let key := x.hdr.src.toNat * 2 ^ 64 + x.hdr.opx.toNat
    let i := x.hdr.seq.toNat
    let place := Config.mirrorBase + (if i == 0 then j.mirrorAt else Tab.get 0 j.mirrorOff key)
    if !s.regionReady (place + 4096 * i) 4096 || !s.hbmReady place 64 then .next s else
    let s := s.taken x
    if x.verdict != 0 || s.isFatal then .next s else
    let size := if i == 0 then entrySize (natAt x.payload 0x14 4) else 0
    let s := if i == 0 then s.modJournal fun j =>
        { j with mirrorOff := Tab.put j.mirrorOff key j.mirrorAt, mirrorAt := j.mirrorAt + size } else s
    let off := if i == 0 then j.mirrorAt else Tab.get 0 j.mirrorOff key
    let at_ := Config.mirrorBase + off
    let s := s.ctlWrite (at_ + 4096 * i) x.payload m.ecc 5 false
    if (i + 1) * 4096 < entrySize (natAt (s.hbmBytes at_ 64) 0x14 4) then .next s else
    let h := { s.mkHeader 4 11 0x41 x.hdr.src.toNat (endpointOf 5 0) with opx := x.hdr.opx }
    .next (s.source { port := 29, hdr := h, payload := [] })
/-- JOURNAL_ACK: the entry is mirrored and MIRROR_LAG falls, whether or not the ring still holds
it (R159). -/
def execJournalAck (k : Nat) (s : State) : Out :=
  match s.inboxFor k [0x41] with
  | none => .next s
  | some x =>
    if x.verdict != 0 then .next (s.taken x) else
    let seq := x.hdr.opx.toNat
    .next ((s.taken x).modJournal fun j =>
      { j with unacked := j.unacked.erase seq,
               entries := j.entries.map fun e => if e.seq == seq then { e with mirrored := true } else e })
/-- MLT_CJ_STEP_WRITE: a new step key closes the open entries (R156), also with EN = 0; the fatal
state has stopped the engine (R354). -/
def execMltCjStepWrite (p : HostPort) (high : Bool) (v : Word) (s : State) : Out :=
  .next (s.hostWrite p 0x330010 fun s =>
    s.pairWrite p 0x330010 high v s.journal.step fun d s =>
      let s := if d == s.journal.step || s.isFatal then s else s.closeEntries
      s.modJournal fun j => { j with step := d })
/-- MLT_CJ_COMMIT_WRITE: a value below the one in force is ignored (R158). -/
def execMltCjCommitWrite (p : HostPort) (high : Bool) (v : Word) (s : State) : Out :=
  .next (s.hostWrite p 0x330018 fun s =>
    s.pairWrite p 0x330018 high v s.journal.commit fun d s =>
      if d.toNat < s.journal.commit.toNat then s else s.modJournal fun j => { j with commit := d })

/-! ## The sampler's ring (R296) -/

/-- Records that the ring holds. -/
def Core.sampSlots (c : Core) : Nat := max 1 (c.sampCfg.toNat % 65536) * 16384
/-- LOOKUP_SAMPLE_WRITE: the oldest held record is written to the ring, when the controller of its
line is ready (R392). -/
def execLookupSampleWrite (s : State) : Out :=
  match s.core.samples with
  | [] => .next s
  | r :: rest =>
    let c := s.core
    if !s.alive || !s.hbmReady (c.sampBase.toNat + 64 * c.sampWp) 64 then .next s else
    let s := s.ctlWrite (c.sampBase.toNat + 64 * c.sampWp) r [] 0 false
    .next (s.modCore fun c => { c with samples := rest, sampWp := (c.sampWp + 1) % c.sampSlots })
/-- MLT_SAMP_CFG_WRITE: SIZE_MIB is ignored while EN is 1; setting EN resets the ring index. -/
def execMltSampCfgWrite (p : HostPort) (v : Word) (s : State) : Out :=
  .next (s.hostWrite p 0x321000 fun s =>
    s.modCore fun c =>
      let w := v.toNat
      let on := bitOf c.sampCfg.toNat 31
      let size := if on then c.sampCfg.toNat % 65536 else w % 65536
      let c := { c with sampCfg := word (b2n (bitOf w 31) * 2 ^ 31 + bitsOf w 20 16 * 65536 + size) }
      if bitOf w 31 && !on then { c with sampWp := 0, lookups := 0 } else c)

end Sys2Proof.Machine
end

