-- ==== Sys2Proof/Machine/TunControl.lean ====
section
/-! DEFINITION. Machine/TunControl.lean: the control instructions of a tun (R88), its
landing results (R55), the end of its program (R80 cause 7, R88). -/
namespace Sys2Proof.Machine

/-- NOP: none. -/
def execNop (t : Fin 192) (s : State) : Out := .next (s.issue t 0x00 fun s _ _ => s)

/-- WAIT_CYCLES: the next instruction counts from the issue cycle plus IMM (R51). -/
def execWaitCycles (t : Fin 192) (s : State) : Out :=
  .next (s.issue t 0x01 fun s x imm => s.modTun t fun u => { u with base := x.cycle + imm })

/-- END: no later instruction issues (R88); run-ahead is cancelled (R151). -/
def execTunEnd (t : Fin 192) (s : State) : Out :=
  .next (s.issue t 0x02 fun s _ _ =>
    (s.modTun t fun u => { u with next := none, ended := u.haltable, loops := [] }).cancelRunAhead t)

/-- LOOP: nest k begins at its first iteration (R71). -/
def execTunLoop (t : Fin 192) (s : State) : Out :=
  .next (s.issue t 0x03 fun s _ imm =>
    s.modTun t fun u => { u with loops := ⟨imm % 16, List.replicate 6 0⟩ :: u.loops })

/-- The replay index at which block `b` begins (R101). -/
def blockStart : Nat → Nat → List (BitVec 128) → Nat
  | 0, i, _ => i
  | _ + 1, i, [] => i
  | b + 1, i, w :: ws => blockStart (if insBend w.toNat then b else b + 1) (i + 1) ws
/-- Word `i` of the patch and replay regions is one that a REPLAY of block `b` with patch range
f, n fetches (R72, R102). -/
def Program.fetches (p : Program) (b f n i : Nat) : Bool :=
  (f ≤ i && i < f + n)
    || (0x2000 + 2 * blockStart b 0 p.replay ≤ i && i < 0x2000 + 2 * min p.replay.length (blockStart (b + 1) 0 p.replay))
/-- REPLAY: patch entries f to f + p − 1 in order, then block b (R72). What the fetch from
tun memory finds is listed by the number of the word from the start of the patch region; an
uncorrected one halts the tun before the block (R145). -/
def execReplay (m : Fetch) (s : State) : Out :=
  .next (s.issue m.tun 0x04 fun s x imm =>
    let used : Nat → Bool := match (s.tun m.tun).program with
      | some p => p.fetches (imm % 16) (bitsOf imm 16 4) (bitsOf imm 24 17)
      | none => fun _ => false
    let (s, bad) := s.tunEcc m.tun 0x3E0000 used m.ecc
    if bad then s.tunMemFault m.tun else
    s.modTun m.tun fun u =>
      match u.program with
      | none => u
      | some p =>
        let n := bitsOf imm 24 17
        let es := (p.patches.drop (bitsOf imm 16 4)).take n
        { u with params := es.foldl (fun r e => Tab.set 0 r e.1 e.2) u.params,
                 replayRet := u.next.map (·.index),
                 next := if u.haltable then some ⟨true, blockStart (imm % 16) 0 p.replay⟩ else none,
                 base := x.cycle + 1 + ceilDiv n 4 })

/-- SETF: raise the named flag by n; in cycle t + 1 on the own tun, later elsewhere (R65). -/
def execSetf (t : Fin 192) (s : State) : Out :=
  .next (s.issue t 0x05 fun s x imm =>
    let target := bitsOf (insMode x.w) 23 16
    let flag := insMode x.w % 256
    match s.ownerFault t target flag with
    | some k => s.exception t 1 k 0 x.pc.num
    | none =>
      if target == t.val then s.fly t x 1 (.raise flag (imm % 65536)) 0
      else { s with raises := s.raises ++ [⟨target, flag, imm % 65536, some t.val⟩] })

/-- The first entry of a walk: the agent, its flag and count (R67). -/
def newWalk (a : Agent) (ftun flag n : Nat) : Walk := { origin := a, path := [⟨a, ftun, flag⟩], counts := [n] }
/-- WAITF: subtract n from the flag, or block and start a walk (R66, R67). In the co-issue group in
which its tun has halted a WAITF that would block ends the group: no cycle r follows. -/
def execWaitf (t : Fin 192) (s : State) : Out :=
  .next (s.issue t 0x06 fun s x imm =>
    let flag := insMode x.w % 256
    let n := imm % 65536
    let u := s.tun t
    if (s.flagOwner t flag).1 == 0 then s.exception t 1 4 0 x.pc.num
    else
      let s := s.modTun t fun u => { u with waitFlag := flag, waitCount := n }
      if n ≤ u.flag flag then s.takeFlag t flag n
      else if !u.haltable then s.modTun t fun u => { u with next := none }
      else
        let s := s.modTun t fun u => { u with phase := .waiting, blocked := true, waitSince := s.now, metAt := none }
        { s with walks := s.walks ++ [newWalk (.tun t) t flag n] })

/-- SETP: write a parameter register (R79). -/
def execSetp (t : Fin 192) (s : State) : Out :=
  .next (s.issue t 0x07 fun s x imm =>
    s.modTun t fun u => { u with params := Tab.set 0 u.params (insMode x.w % 64) (word imm) })

/-- An MV instruction executes: MV_SEEN of the open digest and the MV mark (R316). -/
def State.mvMark (s : State) (id : Nat) : State :=
  (s.modTun id fun u => { u with mvSeen := true }).mark 8
/-- Push a 64-bit value as an RD instruction does (R88). -/
def State.pushValue (s : State) (id : Nat) (x : Slot) (v : Nat) : State :=
  s.fly id x 2 (.push (dstsOf x.w) (BitVec.ofNat 512 (v % 2 ^ 64))) 0
/-- RDCYC: the issue cycle. -/
def execRdcyc (t : Fin 192) (s : State) : Out :=
  .next (s.issue t 0x08 fun s x _ => (s.mvMark t).pushValue t x x.cycle)
/-- RDFTC: the FTC count of a tick at least 4 and at most 9 tun cycles before the
issue cycle: a free value within those bounds (R88). -/
def execRdftc (t : Fin 192) (s : State) : Out :=
  .next (s.issue t 0x09 fun s x _ =>
    let perTick := s.oscStep * s.power.rate * s.mhz t
    -- how far the present tick begins after cycle t; it is negative where the cycle begins within it
    let gone : Int := (s.clk.tun * s.mhz t : Nat) - (((s.tun t).oscAt * s.mhz t + x.cycle * tunUnit : Nat) : Int)
    let lo := ceilDiv (gone + 4 * tunUnit).toNat perTick
    let hi := (gone + 9 * tunUnit).toNat / perTick
    let lag := lo + s.freeNat % (hi - lo + 1)
    ((s.useFree).mvMark t).pushValue t x (s.time.ftc - lag))
/-- RDOCC: the occupancy of a queue after the pops of the issue cycle. -/
def execRdocc (t : Fin 192) (s : State) : Out :=
  .next (s.issue t 0x0A fun s x imm =>
    let n := ((s.tun t).queue (imm % 64)).near.length
    (s.mvMark t).fly t x 2 (.occ (insDst x.w 0).2.2 (imm % 64) n) 0)
/-- RDFLAG: the counter of an own flag. DESIGN CHOICE (log entry 84): a raise that lands in the
issue cycle is not yet in it, as a result that lands in a cycle is read from the next on. -/
def execRdflag (t : Fin 192) (s : State) : Out :=
  .next (s.issue t 0x0B fun s x _ =>
    (s.mvMark t).pushValue t x ((s.tun t).flag (insMode x.w % 256)))

/-! ## Landing and ending -/

/-- The earliest result in flight lands, once no instruction can issue in an earlier
or the same cycle (R55). -/
def execResultPush (t : Fin 192) (s : State) : Out :=
  let u := s.tun t
  match firstLanding u.inflight with
  | none => .next s
  | some (_, f) =>
    let due := if f.eff.isRaise then s.cycleFtc t f.land else s.landFtc t f.land
    if s.tunActs t && u.past f.land then .next ((s.reach due).landFirst t) else .next s

/-- The sequencer passes the last store instruction (cause 7), or meets an opcode that
is not in the table (cause 1), for which there is no other command (R80). -/
def execIssuePastStore (t : Fin 192) (s : State) : Out :=
  let u := s.tun t
  match u.slot with
  | some x => if opDefined (insOp x.w) then .next s else .next (s.issue t (insOp x.w) fun s _ _ => s)
  | none =>
    if s.tunActs t && u.phase == .running && u.next.isSome && u.settled (u.issued + 1) then
      let c := u.issued + 1
      let s := (s.reach (s.cycleFtc t c)).modTun t fun u => { u.atCycle c with next := none }
      let last := (u.program.map fun p => p.store.length - 1).getD 0
      .next (s.exceptionAt t 2 1 7 last c)
    else .next s

/-- After END, with nothing left in flight, the tun enters DONE and closes its digest (R88, R319).
DESIGN CHOICE (log entry 85): where the last push or write landed before END issued, it does so
in the cycle after END's. -/
def execTunEnterDone (t : Fin 192) (s : State) : Out :=
  let u := s.tun t
  if s.tunActs t && u.phase == .running && u.ended && u.inflight.isEmpty && u.dense.isEmpty && u.sparse.isEmpty then
    let c := max u.cycle u.issued + 1
    let s := s.reach (s.cycleFtc t c)
    let s := s.modTun t fun u => { u with cycle := c, phase := .done, ended := false, quietAt := s.now }
    .next (s.closeDigest t false)
  else .next s

end Sys2Proof.Machine
end

