-- ==== Sys2Proof/Machine/SqOps.lean ====
section
/-! DEFINITION. Machine/SqOps.lean: stream queues: descriptors (R334 to R336), rings and
doorbells (R333), completions (R337), stopping and reset (R338), pausing (R339), remote
memory operations (R340), the SQ registers that act (R344). -/
namespace Sys2Proof.Machine

/-! ## Descriptors (R334, R335) -/

/-- OP of a descriptor. -/
def SqOp.op (o : SqOp) : Nat := byteAt o.desc 0
/-- Bit `i` of FLAGS: 0 FENCE, 1 CJ, 2 IRQ, 3 RAISE, 4 REG. -/
def SqOp.flagBit (o : SqOp) (i : Nat) : Bool := bitOf (byteAt o.desc 1) i
/-- LENGTH, HOST_ADDR and DEV_ADDR. -/
def SqOp.len (o : SqOp) : Nat := natAt o.desc 4 4
@[inherit_doc SqOp.len] def SqOp.host (o : SqOp) : Nat := natAt o.desc 8 8
@[inherit_doc SqOp.len] def SqOp.dev (o : SqOp) : Nat := natAt o.desc 0x10 8
/-- A descriptor of a ring of version `v` breaks a rule of R334 or R335. -/
def sqDescBad (v : Nat) (recv : Bool) (d : List Byte) : Bool :=
  let op := byteAt d 0
  let fl := byteAt d 1
  let f (o n : Nat) : Nat := natAt d o n
  let len := f 4 4
  let remote := op == 5 || op == 6
  let kindOk : Bool := if recv then op == 0 || op == 4 else op < 4 || (5 ≤ op && op < 8)
  let lenOk : Bool :=
    match op with
    | 0 => len == 0
    | 7 => len == 0
    | 3 => 1 ≤ len && len ≤ 16777216
    | 4 => 4096 ≤ len && len ≤ 16777216
    | 5 => 4 ≤ len && len ≤ 4096 && len % 4 == 0
    | 6 => 4 ≤ len && len ≤ 4096 && len % 4 == 0
    | _ => 1 ≤ len && len ≤ 16777216 && len % 64 == 0
  let addrOk : Bool := if op == 3 then f 0x16 2 == 0 else remote || f 0x10 8 % 64 == 0
  let verOk : Bool :=
    if v == 1 then
      op ≤ 4 && f 2 2 == 0 && f 0x18 2 == 0 && f 0x20 4 == 0 && !bitOf fl 1 && !bitOf fl 3 && !bitOf fl 4
    else
      (if bitOf fl 1 then op == 1 else f 2 2 == 0) && (remote || f 0x18 2 == 0xFFFF)
        && byteAt d 0x21 ≤ 191 && ((!bitOf fl 3 && op != 7) || f 0x22 2 != 0)
  !(kindOk && lenOk && addrOk && verOk && fl < 32 && f 8 8 % 64 == 0 && f 0x1A 2 == 0
    && (d.drop 0x24).all (· == 0))
/-- The STATUS with which a descriptor is complete, when it is (R335). -/
def SqOp.ended (o : SqOp) : Option Nat :=
  match o.status with
  | some n => some n
  | none =>
    if (o.op == 1 || o.op == 3) && o.started && o.next == o.len && o.reads == 0 && o.frames == 0 then some o.fail
    else none
/-- It is complete with a STATUS that stops the queue. -/
def SqOp.failing (o : SqOp) : Bool := match o.ended with | some n => n != 0 | none => false
/-- It has been started, or its buffer posted, or it has failed already. -/
def SqOp.begun (o : SqOp) : Bool := o.started || o.posted || o.status.isSome
/-- The next descriptor to start (R336): the first not begun, unless one before it has
failed, a WAIT before it waits, or it carries FENCE and one before it is not complete
(`allDone` tells whether all before are). -/
def toStart : Bool → List SqOp → Option SqOp
  | _, [] => none
  | allDone, o :: os =>
    if o.begun then
      if o.failing || (o.op == 7 && o.ended.isNone) then none else toStart (allDone && o.ended.isSome) os
    else if o.flagBit 0 && !allDone then none
    else some o

/-! ## Rings and pauses -/

/-- The ring size. -/
def StreamQ.size (x : StreamQ) : Nat := 2 ^ x.log2
/-- The distance from index `b` to index `a` (R333). -/
def ringDist (a b : Nat) : Nat := (a + 65536 - b) % 65536
/-- No completion slot is free for the next descriptor (R333, R339). -/
def StreamQ.noSlot (x : StreamQ) : Bool := x.size ≤ ringDist x.head x.cplHead
/-- A bucket holds the next frame of queue `q` (R339); a frame that the freeze of a pitch alone holds
is none (R40). -/
def State.sqBucketHolds (s : State) (q : Nat) : Bool :=
  s.core.held.any fun f => f.queue.map (·.1) == some q && !(s.buckets f).isEmpty
    && !(s.frozenOut f && (s.buckets f).all fun b => decide (0 < s.bucketLevel b))
/-- The granary has not admitted the next frame of queue `q` (R339). -/
def State.sqGranaryHolds (s : State) (q : Nat) : Bool :=
  s.core.inject.any (fun e => e.2.any fun f => f.queue.map (·.1) == some q)
    || s.core.frames.any fun f => f.queue.map (·.1) == some q && !f.admitted
/-- The queue is paused (R339, R354). -/
def State.sqPaused (s : State) (q : Nat) : Bool :=
  s.sqBucketHolds q || s.sqGranaryHolds q || (s.sq q).noSlot || s.isFatal
/-- Change the descriptor with ring index `i` of queue `q`. -/
def State.modOp (s : State) (q i : Nat) (f : SqOp → SqOp) : State :=
  s.modSq q fun x => { x with ops := x.ops.map fun o => if o.index == i then f o else o }
/-- A descriptor is complete with a STATUS. -/
def SqOp.finish (st bytes : Nat) (o : SqOp) : SqOp := { o with started := true, status := some st, bytes := bytes }
/-- The descriptor of operation `op` that acts next in queue `q`: one started with more
to do, else the one to start. -/
def State.sqTurn (s : State) (q op : Nat) (more : SqOp → Bool) : Option SqOp :=
  let x := s.sq q
  if !s.alive then none else
  match x.ops.find? fun o => o.op == op && o.started && o.ended.isNone && more o with
  | some o => some o
  | none =>
    if !x.en || x.phase != .running || x.stopping.isSome || s.isFatal then none else
    match toStart true x.ops with
    | some o => if o.op == op then some o else none
    | none => none
/-- Send a read to a host, in requests of at most Max_Read_Request_Size (R325, R333). -/
def State.hostRead (s : State) (p : HostPort) (addr len : Nat) (what : ReadFor) : State :=
  let id := s.host.nextRead
  let m := max 1 (s.port p).pci.mrrs
  let s := s.modHost fun h =>
    { h with nextRead := id + 1, reads := h.reads ++ [⟨id, portNum p, addr, len, what, s.now⟩] }
  (List.range (s.readParts p len)).foldl (fun s i =>
    s.emit (.hostRead (portNum p) id (addr + m * i) (min m (len - m * i)))) s
/-- Read requests outstanding at a port. -/
def State.readsAt (s : State) (p : HostPort) : Nat :=
  (s.host.reads.filter fun r => r.port == portNum p).foldl (fun n r => n + s.readParts p r.len) 0
/-- A read of `len` bytes fits the 768 outstanding non-posted requests of a port (R325). -/
def State.readFits (s : State) (p : HostPort) (len : Nat) : Bool := s.readsAt p + s.readParts p len ≤ 768
/-- DESCRIPTOR_FETCH (R333, R339, R40): up to 8 descriptors of one stretch of the ring. -/
def execDescriptorFetch (q : Fin 4096) (s : State) : Out :=
  let x := s.sq q
  match x.port with
  | none => .next s
  | some p =>
    let n := min (min 8 (ringDist x.descTail x.head))
      (min (x.size - ringDist x.head x.cplHead) (x.size - x.head % x.size))
    if !s.portServes p || !x.en || !(x.phase == .running || x.phase == .waiting) || x.stopping.isSome
        || s.grist.frozen || s.sqPaused q || x.fetching != 0 || !s.readFits p (64 * n) || n == 0 then .next s
    else
      let s := s.hostRead p (x.descBase.toNat + 64 * (x.head % x.size)) (64 * n) (.descriptors q x.head n)
      .next (s.modSq q fun x => { x with fetching := n, head := (x.head + n) % 65536 })

/-! ## Frames of a queue (R335) -/

/-- The stream bucket of queue `q`. -/
def State.sqBucketOf (s : State) (q : Nat) : Option Nat :=
  let b := s.queueField q 2 2
  if b < 256 then some b else none
/-- The HBM_WRITE frame of a piece of a LOAD. -/
def State.loadFrame (s : State) (q : Nat) (p : HostPort) (o : SqOp) (off : Nat) (bs : List Byte) (bad : Bool) : State :=
  let a := o.dev + off
  let h := { s.mkHeader 0 0 0x04 s.nodeId (endpointOf 3 ((s.stackOf a).getD 0 / 4)) with
             opx := BitVec.ofNat 64 a, flags := if o.flagBit 1 then 4 else 0 }
  (s.modOp q o.index fun o => { o with frames := o.frames + 1, made := o.made + bs.length }).source
    { port := portMlt p, hdr := h, payload := bs, tail := if bad then s.mkTail 3 4 else {},
      bucket := s.sqBucketOf q, queue := some (q, o.index), layer := natAt o.desc 2 2 }
/-- The WRITE_STREAM frames of a SEND whose data has come in order; `n` bounds them. -/
def State.sendFrames (s : State) (q : Nat) (p : HostPort) (i : Nat) : Nat → State
  | 0 => s
  | n + 1 =>
    match (s.sq q).ops.find? fun o => o.index == i with
    | none => s
    | some o =>
      match o.got.find? fun g => g.1 == o.made with
      | none => s
      | some (off, bs) =>
        let seq := (s.sq q).seqOut
        let h := { s.mkHeader 0 0 0x01 (o.dev % 65536) (BitVec.ofNat 16 (o.dev / 2 ^ 16)) with
                   stream := BitVec.ofNat 16 (o.dev / 2 ^ 32), seq := BitVec.ofNat 32 seq }
        let s := s.modSq q fun x => { x with seqOut := (seq + 1) % 2 ^ 32 }
        let s := s.modOp q i fun o =>
          { o with frames := o.frames + 1, made := o.made + bs.length, got := o.got.filter fun g => g.1 != off }
        let s := s.source { port := portMlt p, hdr := h, payload := bs, bucket := s.sqBucketOf q, queue := some (q, i) }
        State.sendFrames s q p i n
/-- The data, or the failure, of a read for descriptor `i` of queue `q` (R335, R337). -/
def State.opData (s : State) (q i off : Nat) (c : HostCpl) : State :=
  let s := s.modOp q i fun o => { o with reads := o.reads - 1 }
  match (s.sq q).port, (s.sq q).ops.find? fun o => o.index == i with
  | some p, some o =>
    let fail (s : State) : State := s.modOp q i fun o => { o with fail := 10 }
    let whole (bs : List Byte) : List Byte :=
      fit (if o.op == 1 then min (o.len - off) (4096 - (o.dev + off) % 4096) else min 4096 (o.len - off)) bs
    match o.op, c with
    | 1, .data bs => s.loadFrame q p o off (whole bs) false
    | 1, .poisoned bs => (fail s).loadFrame q p o off (whole bs) true
    | 3, .data bs => (s.modOp q i fun o => { o with got := o.got ++ [(off, whole bs)] }).sendFrames q p i (o.got.length + 1)
    | 6, .data bs => s.modOp q i fun o => { o with got := [(0, whole bs)] }
    | 6, _ => s.modOp q i (SqOp.finish 10 0)
    | _, _ => fail s
  | _, _ => s
/-- Fetched descriptors arrive, or their read fails (R334, R337). -/
def State.descData (s : State) (q first n : Nat) (c : HostCpl) : State :=
  let s := s.modSq q fun x => { x with fetching := 0 }
  let x := s.sq q
  if !(x.phase == .running || x.phase == .waiting) then s else
  let recv := s.queueField q 1 1 == 1
  match c with
  | .data bs =>
    s.modSq q fun x =>
      { x with ops := x.ops ++ (List.range n).map fun i =>
          let d := sliceB bs (64 * i) 64
          { index := (first + i) % 65536, desc := d, status := if sqDescBad x.version recv d then some 1 else none } }
  | _ =>
    let d := zeros 0x1C ++ leBytes 4 s.freeNat ++ zeros 0x20
    (s.modSq q fun x => { x with ops := x.ops ++ [{ index := first, desc := d, status := some 10 }] }).useFree

/-! ## The operations (R335) -/

/-- A device range lies in HBM of kettles that are awake. -/
def State.devOk (s : State) (a n : Nat) : Bool :=
  a + n ≤ hbmTop && (List.range ((a + n - 1) / 4096 + 1 - a / 4096)).all fun i =>
    match s.stackOf ((a / 4096 + i) * 4096) with | some k => !s.asleep (k / 4) | none => false
/-- DESC_NOP: complete at once. -/
def execDescNop (q : Fin 4096) (s : State) : Out :=
  match s.sqTurn q 0 fun _ => false with
  | none => .next s
  | some o => .next (s.modOp q o.index (SqOp.finish 0 0))
/-- DESC_LOAD: the next piece, cut at 4 KiB device boundaries, is read from the host. -/
def execDescLoad (q : Fin 4096) (s : State) : Out :=
  match s.sqTurn q 1 fun o => o.next < o.len, (s.sq q).port with
  | some o, some p =>
    if !o.started && !s.devOk o.dev o.len then .next (s.modOp q o.index (SqOp.finish 2 0))
    else
      let n := min (o.len - o.next) (4096 - (o.dev + o.next) % 4096)
      if !s.readFits p n then .next s else
      let s := s.modOp q o.index fun o => { o with started := true, reads := o.reads + 1, next := o.next + n }
      .next (s.hostRead p (o.host + o.next) n (.opData q o.index o.next))
  | _, _ => .next s
/-- No HBM_WRITE frame of queue `q` to the stack that owns address `a` is on its way (R13). -/
def State.storeTurn (s : State) (q a : Nat) : Bool :=
  let mine (h : Header) (b : Option (Nat × Nat)) : Bool :=
    b.map (·.1) == some q && h.op.toNat == 4 && s.stackOf h.opx.toNat == s.stackOf a
  !s.core.held.any (fun f => mine f.hdr f.queue) && !s.core.inject.any (fun e => e.2.any fun f => mine f.hdr f.queue)
    && !s.core.frames.any fun f => mine f.hdr f.queue && !f.performed
/-- DESC_STORE: the next piece is read from HBM and written to the host, behind what the queue's
earlier loads write to that stack (R13). -/
def execDescStore (q : Fin 4096) (e : Ecc) (s : State) : Out :=
  match s.sqTurn q 2 fun _ => true, (s.sq q).port with
  | some o, some p =>
    if !o.started && !s.devOk o.dev o.len then .next (s.modOp q o.index (SqOp.finish 2 0)) else
    let n := min (o.len - o.next) (4096 - (o.dev + o.next) % 4096)
    if !s.hbmReady (o.dev + o.next) n || !s.storeTurn q (o.dev + o.next) then .next s else
    let (s, bs, bad) := s.ctlRead (o.dev + o.next) n e 3 .used
    let s := s.sendWrite p (o.host + o.next) bs true
    .next (s.modOp q o.index fun o =>
      let o := { o with started := true, next := o.next + n, made := o.made + n, fail := if bad then 3 else o.fail }
      if o.next == o.len then o.finish o.fail o.made else o)
  | _, _ => .next s
/-- DESC_SEND: the next 4,096 bytes are read from the host. -/
def execDescSend (q : Fin 4096) (s : State) : Out :=
  match s.sqTurn q 3 fun o => o.next < o.len, (s.sq q).port with
  | some o, some p =>
    let n := min (o.len - o.next) 4096
    if !s.readFits p n then .next s else
    let s := s.modOp q o.index fun o => { o with started := true, reads := o.reads + 1, next := o.next + n }
    .next (s.hostRead p (o.host + o.next) n (.opData q o.index o.next))
  | _, _ => .next s
/-- DESC_RECV: posts a buffer for one frame. -/
def execDescRecv (q : Fin 4096) (s : State) : Out :=
  match s.sqTurn q 4 fun _ => false with
  | none => .next s
  | some o => .next (s.modOp q o.index fun o => { o with posted := true })
/-- DESC_RREAD: the read of a remote node starts (R340). -/
def execDescRread (q : Fin 4096) (s : State) : Out :=
  match s.sqTurn q 5 fun _ => false with
  | none => .next s
  | some o => .next (s.modOp q o.index fun o => { o with started := true })
/-- DESC_RWRITE: its data is read from the host; without the port's own token the write
is refused (R340). -/
def execDescRwrite (q : Fin 4096) (s : State) : Out :=
  match s.sqTurn q 6 fun _ => false, (s.sq q).port with
  | some o, some p =>
    if s.host.holder != portNum p then .next (s.modOp q o.index (SqOp.finish 4 0))
    else if !s.readFits p o.len then .next s
    else
      let s := s.modOp q o.index fun o => { o with started := true, reads := 1, next := o.len }
      .next (s.hostRead p o.host o.len (.opData q o.index 0))
  | _, _ => .next s
/-- DESC_WAIT: the queue waits on FLAG of FLAG_TUN for FLAG_COUNT (R66, R67). -/
def execDescWait (q : Fin 4096) (s : State) : Out :=
  match s.sqTurn q 7 fun _ => false with
  | none => .next s
  | some o =>
    let f := byteAt o.desc 0x20
    let t := byteAt o.desc 0x21
    let n := natAt o.desc 0x22 2
    if (s.flagOwner t f).1 == 0 then .next (s.modOp q o.index (SqOp.finish 6 0))
    else if n ≤ (s.tun t).flag f then
      .next ((s.modTun t fun u => u.setFlag f (u.flag f - n)).modOp q o.index (SqOp.finish 0 0))
    else
      let s := s.modOp q o.index fun o => { o with started := true }
      let s := s.modSq q fun x =>
        { x with phase := .waiting, waitFlag := f, waitTun := t, waitCount := n, waitSince := s.now }
      .next { s with walks := s.walks ++ [newWalk (.queue q) t f n] }
/-- The wait of queue `q` ends with a STATUS. -/
def State.waitEnds (s : State) (q st : Nat) : State :=
  s.modSq q fun x =>
    { x with phase := if x.phase == .waiting then .running else x.phase,
             ops := x.ops.map fun o => if o.op == 7 && o.started && o.status.isNone then o.finish st 0 else o }

/-! ## Completion, stopping and reset (R336 to R338) -/

/-- Signal the vector that QUEUE gives queue `q`, at the port that it had at enable or, where it has
not been enabled since, at the port of QUEUE (R338, R341). -/
def State.sqSignal (s : State) (q : Nat) : State :=
  match (s.sq q).port, s.queuePort q with
  | some p, _ => s.signal p (s.queueField q 4 2)
  | none, some p => s.signal p (s.queueField q 4 2)
  | none, none => s
/-- A stopping queue enters STOPPED once nothing started is left (R338). -/
def State.sqSettle (s : State) (q : Nat) : State :=
  let x := s.sq q
  match x.stopping with
  | none => s
  | some (st, i) =>
    if !(x.phase == .running || x.phase == .waiting || x.phase == .disabled) || x.ops.any (·.started) then s else
    (s.modSq q fun x => { x with phase := .stopped, ops := [], stopping := none, err := st, errIndex := i }).sqSignal q
/-- The record of a completed descriptor (R337). -/
def StreamQ.record (x : StreamQ) (o : SqOp) (st : Nat) : List Byte :=
  let bytes := if o.op == 1 || o.op == 3 then o.made else o.bytes
  leBytes 4 (natAt o.desc 0x1C 4) ++ leBytes 1 st ++ leBytes 1 (b2n (o.index / x.size % 2 == 0))
    ++ leBytes 2 o.index ++ leBytes 4 bytes ++ leBytes 4 o.info
/-- DESCRIPTOR_COMPLETE: the oldest descriptor is complete: its flag is raised, its
record written, its vector signalled; a failing one stops the queue (R336 to R338). -/
def execDescriptorComplete (q : Fin 4096) (s : State) : Out :=
  let x := s.sq q
  match x.ops, x.port with
  | o :: rest, some p =>
    match o.ended with
    | none => .next s
    | some st =>
      if !s.portServes p || !(x.phase == .running || x.phase == .waiting)
          || (x.stopping.isSome && !o.started) then .next s else
      let t := byteAt o.desc 0x21
      let f := byteAt o.desc 0x20
      let wants := x.version == 2 && o.flagBit 3 && st != 1 && (o.ended != some 10 || o.started)
      let owned := s.flagOwner t f == (3, q.val)
      let s := if wants && owned then
          { s with raises := s.raises ++ [⟨t, f, natAt o.desc 0x22 2, none⟩] } else s
      let st := if wants && !owned && st == 0 then 6 else st
      let s := s.emit (.hostWrite (portNum p) (x.cplBase.toNat + 16 * (o.index % x.size)) (x.record o st) false)
      let s := s.modSq q fun x =>
        { x with ops := rest, cplTail := (o.index + 1) % 65536, done := (x.done + 1) % 2 ^ 32,
                 stopping := if st != 0 && x.stopping.isNone then some (st, o.index) else x.stopping }
      let s := if o.flagBit 2 then s.sqSignal q else s
      .next (s.sqSettle q)
  | _, _ => .next s
/-- What a read of a doorbell page returns, at any offset and by either port (R333); the table has no
row for a read of BAR2. -/
def doorbellRead (_page _off : Nat) : Word := 0
/-- A write to the doorbell page of queue `q` (R333), whether or not the queue is enabled. -/
def State.doorbell (s : State) (p : HostPort) (q : Nat) (ok : StreamQ → Bool) (set : StreamQ → StreamQ) : State :=
  let s := s.flushPosted p
  if !s.portServes p then s
  else if s.queuePort q != some p then s.badAccess p 4
  else if s.isFatal then s
  else if ok (s.sq q) then s.modSq q set
  else if (s.sq q).stopping.isSome || (s.sq q).phase == .stopped || (s.sq q).phase == .resetting then s
  else ((s.modSq q fun x => { x with stopping := some (1, s.freeNat % 65536) }).useFree).sqSettle q
/-- DESC_TAIL_DOORBELL (R333). -/
def execDescTailDoorbell (p : HostPort) (q : Fin 4096) (v : Word) (s : State) : Out :=
  let t := v.toNat % 65536
  .next (s.doorbell p q (fun x => ringDist t x.head ≤ x.size) fun x => { x with descTail := t })
/-- CPL_HEAD_DOORBELL (R333). -/
def execCplHeadDoorbell (p : HostPort) (q : Fin 4096) (v : Word) (s : State) : Out :=
  let t := v.toNat % 65536
  .next (s.doorbell p q (fun x => ringDist x.cplTail t ≤ x.size) fun x => { x with cplHead := t })
/-- SQ_CTRL.RESET: fetch stops, and what has not started is discarded (R338). -/
def State.sqResetBegin (s : State) (q : Nat) : State :=
  let s := s.modHost fun h =>
    { h with reads := h.reads.filter fun r => match r.what with | .descriptors q' _ _ => q' != q | _ => true }
  s.modSq q fun x =>
    { x with phase := .resetting, stopping := none, fetching := 0,
             ops := x.ops.filter fun o => o.started && !(o.op == 7 && o.status.isNone) }
/-- The end of a reset of queue `q` (R338). -/
def StreamQ.afterReset (x : StreamQ) : StreamQ :=
  { x with en := false, phase := .disabled, stopping := none, ops := [], fetching := 0, head := 0, descTail := 0,
           cplTail := 0, cplHead := 0, seqIn := 0, seqOut := 0 }
/-- SQ_RESET_COMPLETE: every started descriptor is complete (R338). -/
def execSqResetComplete (q : Fin 4096) (s : State) : Out :=
  let x := s.sq q
  if !s.alive || x.phase != .resetting || x.ops.any (fun o => o.ended.isNone) then .next s
  else .next (s.modSq q StreamQ.afterReset)
/-- A write to a register of queue `q` (R344, R9). -/
def State.sqWrite (s : State) (p : HostPort) (q off : Nat) (act : State → State) : State :=
  match s.queuePort q with
  | none => s.hostWrite p (0x3000000 + q * 0x100 + off) act
  | some p' =>
    let s := s.flushPosted p
    if !s.portServes p then s
    else if p' != p then s.badAccess p 4
    else if s.power.warm then s.badAccess p 2
    else if s.isFatal then s else act s
/-- A write to SQ_CTRL (R344). DESIGN CHOICE (log entry 90): a LOG2_SIZE below 4 is refused as
the other conditions are, EN = 0 disables a queue that is not in reset, and a queue that is not
DISABLED takes EN without starting. -/
def State.sqCtrl (s : State) (q v : Nat) : State :=
  let x := s.sq q
  let en := bitOf v 31
  let s :=
    if x.en then s.modSq q fun x =>
      { x with en := en, phase := if en || x.phase == .resetting then x.phase else .disabled }
    else
      let s := s.modSq q fun x => { x with version := bitsOf v 29 28, log2 := bitsOf v 19 16 }
      if !en then s else
      let ver := bitsOf v 29 28
      let ok := (s.queuePort q).isSome && 1 ≤ ver && s.grist.desc.lo ≤ ver && ver ≤ s.grist.desc.hi
        && x.descBase.toNat % 4096 == 0 && x.cplBase.toNat % 4096 == 0 && 4 ≤ bitsOf v 19 16
      if !ok then s.modSq q fun x => { x with err := 0x20 }
      else if x.phase != .disabled then s.modSq q fun x => { x with en := true }
      else
        let port := s.queuePort q
        s.modSq q fun x => { x with en := true, port := port, phase := .running, done := 0 }
  if bitOf v 30 then s.sqResetBegin q else s
/-- SQ_ENABLE: a write to SQ_CTRL with EN (R344). -/
def execSqEnable (p : HostPort) (q : Fin 4096) (v : Word) (s : State) : Out :=
  .next (s.sqWrite p q 0 fun s => s.sqCtrl q v.toNat)
/-- SQ_RESET (R338). -/
def execSqReset (p : HostPort) (q : Fin 4096) (s : State) : Out :=
  .next (s.sqWrite p q 0 fun s => s.sqResetBegin q)
/-- SQ_STATUS: a queue that is paused shows PAUSED and the causes, waiting or not (R339). -/
def State.sqStatus (s : State) (q : Nat) : Nat :=
  let x := s.sq q
  let on := x.phase == .running || x.phase == .waiting
  let st := match x.phase with
    | .disabled => 0 | .running => if s.sqPaused q then 2 else 1 | .waiting => if s.sqPaused q then 2 else 3
    | .stopped => 4 | .resetting => 5
  st * 2 ^ 28 + b2n (on && s.sqBucketHolds q) * 2 ^ 27 + b2n (on && s.sqGranaryHolds q) * 2 ^ 26
    + b2n (on && x.noSlot) * 2 ^ 25 + x.err * 2 ^ 16 + x.errIndex

/-! ## Remote operations (R340) -/

/-- The endpoint to which a request's reply goes. -/
def replyEndpoint (h : Header) : Half :=
  if h.stream == 0xFFFF#16 then endpointOf 5 0 else endpointOf 2 (h.stream.toNat % 4096)
/-- The header of the reply to a request, with its tag and status. -/
def State.replyHeader (s : State) (h : Header) (op tag st : Nat) : Header :=
  { s.mkHeader 4 11 op h.src.toNat (replyEndpoint h) with
    stream := h.stream, opx := BitVec.ofNat 64 (tag + st * 65536) }
/-- A queue's remote operation reserves its reply and its request leaves (R190, R340). -/
def State.reserveQueue (s : State) (q : Nat) : State :=
  let x := s.sq q
  match x.ops.find? (fun o => (o.op == 5 || (o.op == 6 && !o.got.isEmpty)) && o.started && o.status.isNone && o.made == 0),
      x.port with
  | some o, some p =>
    if !s.alive then s else
    let write := o.op == 6
    let node := natAt o.desc 0x18 2
    let r : Reservation :=
      { cells := 0, who := .queue (Fin.ofNat 4096 q), since := 0, node := node, addr := o.dev, index := o.index,
        sent := true }
    match s.reserve (portMlt p) (if write then 0 else o.len) r with
    | (s, none) => s
    | (s, some tag) =>
      let ep := if o.flagBit 4 then endpointOf 6 0 else endpointOf 3 ((s.stackOf o.dev).getD 0 / 4)
      let h := { s.mkHeader 3 10 (if o.flagBit 4 then 0x10 else 0x12) node ep with
                 stream := BitVec.ofNat 16 q, opx := BitVec.ofNat 64 o.dev }
      let data := if write then (o.got.headD (0, [])).2 else []
      let s := s.modOp q o.index fun o => { o with made := 1 }
      s.source { port := portMlt p, hdr := h, bucket := s.sqBucketOf q, queue := some (q, o.index),
                 payload := leBytes 4 o.len ++ leBytes 2 tag ++ leBytes 1 (b2n write) ++ zeros 1 ++ data }
  | _, _ => s
/-- A reply completes the descriptor that its reservation names (R340). -/
def State.queueReply (s : State) (x : InFrame) : State :=
  let q := x.hdr.epIdx
  let s := s.taken x
  match s.resv (x.hdr.opx.toNat % 65536), (s.sq q).port with
  | some r, some p =>
    match (s.sq q).ops.find? fun o => o.index == r.index && o.started && o.status.isNone with
    | none => s
    | some o =>
      if r.who != .queue (Fin.ofNat 4096 q) then s else
      let st := if x.verdict != 0 then 3 else if x.hdr.opx.toNat / 65536 % 256 == 1 then 4 else 0
      let s := if st == 0 && o.op == 5 then s.sendWrite p o.host (fit o.len x.payload) true else s
      s.modOp q o.index (SqOp.finish st (if st == 0 then o.len else 0))
  | _, _ => s
/-- REG_REPLY (R340, R191). -/
def execRegReply (k : Nat) (s : State) : Out :=
  match s.inboxFor k [0x11] with
  | none => .next s
  | some x => .next (if x.hdr.epKind == 2 then s.queueReply x else s.taken x)
/-- MEM_REQ: the owning kettle performs a remote memory access, or refuses a write (R340). -/
def execMemReq (k : Nat) (e : Ecc) (s : State) : Out :=
  match s.inboxFor k [0x12] with
  | none => .next s
  | some x =>
    let h := x.hdr
    let len := natAt x.payload 0 4
    let a := h.opx.toNat
    let tag := natAt x.payload 4 2
    if !s.serviceActs h || !s.hbmReady a (min len 4096) || !s.accessTurn x then .next s
    else if x.verdict != 0 || len % 4 != 0 || len == 0 || 4096 < len then .next (s.taken x)
    else
      let port := s.hbmPort h.epIdx a
      if bitOf (byteAt x.payload 6) 0 then
        let ok := s.host.memWrEn && a + len ≤ hbmTop
        let s := if ok then s.ctlWrite a (sliceB x.payload 8 len) e 3 false else s
        .next ((s.taken x).source { port := port, hdr := s.replyHeader h 0x13 tag (b2n (!ok)), payload := [] })
      else
        let beyond := hbmTop < a + len
        let (s, bs, bad) := s.ctlRead a len e 3 .used
        .next ((s.taken x).source { port := port, hdr := s.replyHeader h 0x13 tag 0, payload := bs,
                                    tail := if bad || beyond then s.mkTail 3 4 else {} })
/-- REPLY_TIMEOUT: a reservation has waited 10 ms without its reply (R289). A catch-up
read has a command of its own (R368). -/
def execReplyTimeout (tag : Fin 16384) (s : State) : Out :=
  match s.resv tag with
  | none => .next s
  | some r =>
    if !s.alive || s.core.frames.any (fun f => f.tag == some tag.val) then .next s else
    match r.who with
    | .stream k => .next ((s.after (r.since + 40000000)).streamReplyLost k tag r)
    | .queue q =>
      let s := ((s.after (r.since + 40000000)).replyLost tag).raise 1765 0
      .next (s.modOp q r.index fun o => if o.status.isNone then o.finish 5 0 else o)
    | .catchUp => .next s

end Sys2Proof.Machine
end

