-- ==== Sys2Proof/Machine/Restore.lean ====
section
/-! DEFINITION. Machine/Restore.lean: what a pitch, a reset and a power state do to
tuns, kettles and the collective places (R75, R388, R389, R393). -/
namespace Sys2Proof.Machine

/-! ## Tuns -/

/-- A tun's unit state, sticky flags and waits at their reset values; its registers of
launch and load, its tun memory and its error counts stay. -/
def Tun.emptied (u : Tun) : Tun :=
  { u.cleared with
    stat := [], wbuf := [], acc := [], vregs := [], dense := [], sparse := [], denseFree := 0, sparseFree := 0,
    arith := 0, blocked := false, waitFlag := 0, waitCount := 0 }
/-- The phase that the active grist gives an idle tun (R75). -/
def State.restPhase (s : State) (t : Nat) : TunPhase := if s.forwardOnly t then .forwardOnly else .idle
/-- A pitch has changed the record of tun `t` (R75): it is emptied as CLEAR empties it,
its unit state zeroed, and it takes its new role. The streams named are the old record's. -/
def State.pitchTun (s : State) (t : Nat) : State :=
  (s.dropFar t).modTun t fun u =>
    { u.emptied with phase := s.restPhase t, restored := u.restored || !s.forwardOnly t, quietAt := s.now }
/-- A reset of tun `t` (R392, R393): everything but its tun memory is lost. -/
def State.resetTun (s : State) (t : Nat) (restored : Bool) : State :=
  (s.dropFar t).modTun t fun u =>
    { mem := u.mem, memFill := u.memFill, spargeFrom := s.now, quietAt := s.now, phase := s.restPhase t, restored := restored && !s.forwardOnly t }
/-- Waits and walks of tun `t` end with its program. -/
def State.dropWaits (s : State) (p : Nat → Bool) : State :=
  { s with walks := s.walks.filter fun w => match w.origin with | .tun t => !p t | .queue _ => true
           raises := s.raises.filter fun r => match r.fromTun with | some t => !p t | none => true }
/-- A crossing of tun `t` with entries in it is flushed by the reset of `t`'s island: the other
tun records it, unless the reset takes it too (`gone`) (R19). -/
def State.flushCrossings (s : State) (t : Nat) (gone : Nat → Bool) : State :=
  let s := s.crossings.foldl (fun s e =>
    let src := e.1 / 16
    let dst := (s.binding src (48 + e.1 % 16)).far % 65536
    if e.2.isEmpty || src == dst then s
    else if src == t && !gone dst then s.raise (srcTun dst 6) (Config.crossingNumber e.1)
    else if dst == t && !gone src then s.raise (srcTun src 6) (Config.crossingNumber e.1)
    else s) s
  s.dropCrossings t
/-- Tun `t` is reset with its streams and crossings. -/
def State.islandTun (s : State) (t : Nat) (restored : Bool) : State :=
  (((s.closeStreams t).dropCrossings t).dropWaits (· == t)).resetTun t restored

/-! ## Kettles -/

/-- The tuns of kettle `k`. -/
def tunsOf (k : Nat) : List Nat := (List.range 48).map fun i => 48 * k + i
/-- The stacks of kettle `k` change phase, when they are trained. -/
def State.kettleStacks (s : State) (k : Nat) (a b : HbmPhase) : State :=
  (List.range 4).foldl (fun s i => s.modCtl (4 * k + i) fun c => if c.phase == a then { c with phase := b } else c) s
/-- The frames of tun `t` that have not wholly arrived are cut off (R176). -/
def State.cutTun (s : State) (t : Nat) : State :=
  let mine (b : Option (Nat × Nat)) : Bool := match b with | some x => x.1 == t | none => false
  (s.cutSource (widePort t false) mine).cutSource (widePort t true) mine
/-- The force bits of `n` sources from `src` on return to 0 with no status (R393). -/
def State.unforce (s : State) (src n : Nat) : State :=
  s.modFault fun f =>
    { f with force := (f.force.map fun e => (e.1, (List.range 32).foldl (fun w b =>
        if src ≤ 32 * e.1 + b && 32 * e.1 + b < src + n then w &&& ~~~(1#32 <<< b) else w) e.2)).filter fun e => e.2 != 0 }
/-- Kettle `k` enters Doze (R388, R389): run-ahead cancelled, tuns lost but for their
memory, stacks in self-refresh. Frames that its tuns have begun are cut off (R176), and the counters
and force bits of its units return to their defaults (R393). -/
def State.dozeKettle (s : State) (k : Nat) : State :=
  let s := (tunsOf k).foldl (fun s t => ((s.flushCrossings t fun i => kettleOf i == k).cutTun t).islandTun t false) s
  let s := ((s.unforce (srcTun (48 * k) 0) 384).unforce (srcHbm (4 * k) 0) 16)
  let s := (List.range 4).foldl (fun s i => s.modCtl (4 * k + i) fun c =>
    { c with cntOnDie := 0, cntCtrl := 0, cntPar := 0, cntUnc := 0, passes := 0, calibrations := 0 }) s
  (s.kettleStacks k .ready .selfRefresh).modPower fun p =>
    { p with kettles := Tab.set .active p.kettles k .doze, waking := p.waking.filter (· != k) }
/-- Kettle `k` returns to Active (R389). -/
def State.wakeKettle (s : State) (k : Nat) : State :=
  let s := (tunsOf k).foldl (fun s t => s.modTun t fun u =>
    { u with phase := s.restPhase t, restored := u.restored || !s.forwardOnly t }) s
  (s.kettleStacks k .selfRefresh .ready).modPower fun p =>
    { p with kettles := Tab.set .active p.kettles k .active, waking := p.waking.filter (· != k),
             restored := p.restored ||| 1 }

/-! ## Collective places -/

/-- The rounds in which this node stands: those its contexts serve, its sources send for
and its result bindings await. -/
def State.roundsHere (s : State) : List Nat :=
  (s.col.ctxs.filterMap fun e => if e.2.serving then some e.2.round else none)
    ++ ((List.range 192).flatMap fun t => (List.range 16).filterMap fun b =>
        if (s.binding t (48 + b)).collective then some (Tab.get {} s.col.sources (t * 16 + b)).round else none)
    ++ (s.col.resHeld.map fun x => (Tab.get {} s.col.resWant x.group).round)
/-- The current round of the node, counted from COL_ROUND's base: the earliest in which
it stands; with none, that of the last instance its contexts completed. -/
def State.curRound (s : State) : Nat :=
  match s.roundsHere with
  | r :: rs => rs.foldl min r
  | [] => s.col.ctxs.foldl (fun t e => match e.2.last with | some (r, _) => max t r | none => t) 0
/-- A context holds a reservation, a hold, a held result or a granted chunk that is not
complete (R251). -/
def State.ctxBusy (s : State) (c : Nat) : Bool :=
  let x := s.ctx c
  !x.chunks.isEmpty
    || s.core.frames.any (fun f => f.owner == 256 + c && f.admitted)
    || s.col.resHeld.any (fun r => ((s.group? r.group).map (·.ctx0)) == some c)
    || s.col.results.any (fun r => ((s.group? r.group).map (·.ctx0)) == some c)
/-- Busy contexts. -/
def State.busyCount (s : State) : Nat := ((List.range 1024).filter s.ctxBusy).length
/-- Every context, order buffer and current instance is emptied; reservations and holds
go back (R249). -/
def State.colEmpty (s : State) : State :=
  let hs := (s.core.frames.filter (·.hold)).map (·.id)
  let s := s.col.results.foldl State.dropHeld s
  let s := hs.foldl State.dropHold s
  s.modCol fun c =>
    { c with ctxs := [], grants := [], resNext := [], resHeld := [], results := [], resSuper := [], resWant := [],
             deliver := [], sources := [], sent := [], abandoned := [] }

end Sys2Proof.Machine
end

