-- ==== Sys2Proof/Machine/ColOps.lean ====
section
/-! DEFINITION. Machine/ColOps.lean: what collective commands and lauter runs share:
the frames of a chunk (R233), results on their way (R234, R240, R245), partials and
their holds (R189, R246), and retraction (R247, R248, R294). -/
namespace Sys2Proof.Machine

/-! ## Frames (R233) -/

/-- Pieces of 4,096 bytes; `n` bounds their number. -/
def pieces : Nat → List Byte → List (List Byte)
  | 0, _ => []
  | n + 1, bs => bs.take 4096 :: pieces n (bs.drop 4096)
/-- The payloads of the frames that carry bytes of a chunk of size `c`: the last is
shorter than 4,096 bytes, or brings the chunk to its size. -/
def chunkFrames (c : Nat) (bytes : List Byte) : List (List Byte) :=
  let b := bytes.take c
  pieces (b.length / 4096 + b2n (!(b.length == c && b.length % 4096 == 0))) b
/-- The frame of `len` bytes that ends at `sofar` bytes ends the chunk. -/
def endsChunk (c len sofar : Nat) : Bool := len < 4096 || c ≤ sofar
/-- The header of a collective frame of group `r`. -/
def State.colHeader (s : State) (r : GroupRec) (op dest ctx chunk ord epoch rank : Nat) : Header :=
  { s.mkHeader 2 (if op == 0x30 then 8 else 9) op dest (endpointOf 1 ctx) with
    stream := BitVec.ofNat 16 r.id, epoch := BitVec.ofNat 8 epoch, seq := BitVec.ofNat 32 chunk,
    opx := BitVec.ofNat 64 (ord + rank * 2 ^ 32) }
/-- No rank. -/
def noRank : Nat := 0xFFFFFFFF
/-- The node has a lauter unit's port for a context. -/
def ctxPort (ctx : Nat) : Nat := 22 + ctx / 256 % 4
/-- A chunk of a result as frames to a node, from the lauter unit behind `port` (R201, R233, R240). -/
def State.sendResult (s : State) (port : Nat) (r : GroupRec) (ord epoch n dest : Nat) (bytes : List Byte) (v reason marker : Nat) : State :=
  let fs := chunkFrames r.chunk bytes
  (List.range fs.length).foldl (fun s i =>
    let t : Tail := if v != 0 && i + 1 == fs.length then
        { verdict := BitVec.ofNat 8 v, reason := BitVec.ofNat 8 reason, marker := BitVec.ofNat 16 marker } else {}
    s.source { port := port, hdr := s.colHeader r 0x31 dest r.ctx0 n ord epoch noRank,
               payload := fs.getD i [], tail := t }) s

/-! ## Results (R234, R240, R245) -/

/-- The nodes of the inputs of a run, this one apart. -/
def GroupRec.inputNodes (r : GroupRec) (ps : List PNode) (l n me : Nat) : List Nat :=
  ((r.inputs ps l n me).map (·.2)).eraseDups.filter (· != me)
/-- The combining levels whose run of chunk `n` this node performs. -/
def GroupRec.runsAt (r : GroupRec) (ps : List PNode) (n me : Nat) : List Nat :=
  r.combining.filter fun l => r.isHome ps n l me
/-- The contexts at levels `ls` have sent the result of chunk `n` on. -/
def State.markForwarded (s : State) (r : GroupRec) (ls : List Nat) (n : Nat) : State :=
  ls.foldl (fun s l =>
    match r.ctxAt l with
    | none => s
    | some c => s.modCtx c fun x =>
        if x.serving && x.group == r.id && !x.forwarded.contains n then { x with forwarded := x.forwarded ++ [n] } else x) s
/-- A result that goes to every node is sent to the input nodes of every run of its chunk
that this node performed (R240). -/
def State.forwardResult (s : State) (port : Nat) (r : GroupRec) (ord epoch n : Nat) (bytes : List Byte) (v reason marker : Nat) : State :=
  let ps := r.present
  let me := s.nodeId
  let ls := r.runsAt ps n me
  let s := (ls.flatMap fun l => r.inputNodes ps l n me).foldl (fun s d => s.sendResult port r ord epoch n d bytes v reason marker) s
  if v == 3 && reason == 6 then s else s.markForwarded r ls n
/-- The cells of frames held in the core. -/
def State.cellsOfFrames (s : State) (ids : List Nat) : Nat :=
  ids.foldl (fun t id => t + ((s.frame? id).map (·.cells)).getD 0) 0
/-- The result reservation of a chunk is changed. -/
def State.modResResv (s : State) (g ord epoch n : Nat) (f : Nat → Nat) : State :=
  s.modCol fun c =>
    { c with resHeld := c.resHeld.map fun x =>
        if x.group == g && x.ordinal == ord && x.epoch == epoch && x.chunk == n then { x with cells := f x.cells } else x }
/-- The result of a chunk has wholly reached this node: a superseded one is dropped and
counted, and its cells are reserved again; another goes on and is delivered in its turn (R234,
R240, R242, R245). One of the node's own top run (`mine`) is charged to CTX_0 while it waits. -/
def State.resultHere (s : State) (port : Nat) (r : GroupRec) (ord epoch n : Nat) (bytes : List Byte) (v reason marker : Nat)
    (frames : List Nat) (mine : Bool) : State :=
  let k := (r.id, ord, epoch, n)
  if v == 3 && reason == 6 && !s.col.resSuper.contains k then
    let back := s.cellsOfFrames frames
    frames.foldl State.dropHold ((s.modCol fun c =>
      { c with resSuper := c.resSuper ++ [k], superseded := min 65535 (c.superseded + max 1 frames.length) }).modResResv
        r.id ord epoch n (· + back))
  else
    let own := if mine then (chunkFrames r.chunk bytes).foldl (fun t b => t + cellsOf b.length) 0 else 0
    let s := if own == 0 then s else (s.charge (256 + r.ctx0) 9 own).modResResv r.id ord epoch n (· - own)
    let s := if r.delivery == 0 then s.forwardResult port r ord epoch n bytes v reason marker else s
    let pad := (64 - bytes.length % 64) % 64
    let (bytes, s) := if pad == 0 then (bytes, s) else (bytes ++ leBytes pad s.freeNat, s.useFree)
    let x : HeldResult :=
      { group := r.id, ordinal := ord, epoch := epoch, chunk := n, bytes := bytes, complete := true, verdict := v,
        reason := reason, marker := marker, frames := frames, own := own }
    let s := s.modCol fun c => { c with results := c.results ++ [x], resSuper := c.resSuper.filter (· != k) }
    s.deliverResults r (s.col.results.length + 1)
/-- The result of a top run goes to the nodes that DELIVERY selects, by the port of the unit that
ran it (R201, R240). -/
def State.topResult (s : State) (port : Nat) (r : GroupRec) (l ord epoch n : Nat) (bytes : List Byte) (v reason marker : Nat) : State :=
  let ps := r.present
  let me := s.nodeId
  let superseded := v == 3 && reason == 6
  let one (s : State) (dest : Nat) : State :=
    let s := if superseded then s else s.markForwarded r [l] n
    if dest == me then s.resultHere port r ord epoch n bytes v reason marker [] true
    else s.sendResult port r ord epoch n dest bytes v reason marker
  match r.delivery with
  | 0 =>
    let s := if superseded then s.forwardResult port r ord epoch n bytes v reason marker else s
    s.resultHere port r ord epoch n bytes v reason marker [] true
  | 1 => one s (((ps[n % max 1 ps.length]?).map (·.node)).getD me)
  | 2 => one s ((ps.head?.map (·.node)).getD me)
  | _ => if superseded then s else s.markForwarded r [l] n

/-! ## Chunks of a context -/

/-- The chunk of a context at a level. -/
def Ctx.chunk? (x : Ctx) (n l : Nat) : Option Chunk := x.chunks.find? fun k => k.index == n && k.level == l
/-- Change a chunk of context `c`. -/
def State.modChunk (s : State) (c n l : Nat) (f : Chunk → Chunk) : State :=
  s.modCtx c fun x => { x with chunks := x.chunks.map fun k => if k.index == n && k.level == l then f k else k }
/-- Chunks whose run has ended and whose output has left are complete: they and what is
left of their reservation go. -/
def State.settleChunks (s : State) (c : Nat) : State :=
  s.modCtx c fun x => { x with chunks := x.chunks.filter fun k => !(k.state == 2 && k.out.isEmpty) }
/-- The holds of a chunk's contributions are released (R189). -/
def State.dropHolds (s : State) (k : Chunk) : State :=
  ((k.parts ++ k.open_).flatMap (·.frames)).foldl State.dropHold s
/-- The output of a run of chunk `n` at context `c` and level `l`: a partial to send, or
the result (R238, R240). `final` ends the chunk: its holds are released and DONE rises. -/
def State.runOutput (s : State) (c n l ord epoch : Nat) (r : GroupRec) (bytes : List Byte) (v reason marker : Nat)
    (final : Bool) : State :=
  let s := if !final then s else
    match (s.ctx c).chunk? n l with
    | none => s
    | some k =>
      ((s.dropHolds k).modCtx c fun x => { x with done := x.done + 1 }).modChunk c n l fun k =>
        { k with state := 2, parts := [], open_ := [], resv := 0 }
  let s := if (r.above l).isNone then s.topResult (ctxPort c) r l ord epoch n bytes v reason marker
    else s.modChunk c n l fun k => { k with out := k.out ++ [(bytes, v, reason, marker)] }
  s.settleChunks c

/-! ## Retraction (R247, R248, R294) -/

/-- A RETRACT naming an instance leaves for every present node of its group, this one
included only when `self` says so; RETRACTED is set (R247, R252). -/
def State.sendRetract (s : State) (r : GroupRec) (ord epoch rank : Nat) (self : Bool) : State :=
  let s := s.modCol fun c =>
    { c with retrLast := if c.retracted then c.retrLast else word ord,
             retrInfo := if c.retracted then c.retrInfo else word (s.nodeId * 65536 + epoch), retracted := true }
  (r.present.filter fun p => self || p.node != s.nodeId).foldl (fun s p =>
    s.source { port := ctxPort r.ctx0, hdr := s.colHeader r 0x33 p.node r.ctx0 0 ord epoch rank, payload := [] }) s
/-- The result reservations of rounds after the one in which the node stops go back. -/
def State.dropLater (s : State) : State :=
  match s.col.stopRound with
  | none => s
  | some r =>
    let late (x : ResResv) : Bool := !(List.range 32).any fun i => i ≤ r && s.colEpoch (r - i) == x.epoch
    s.modCol fun c => { c with resHeld := c.resHeld.filter fun x => !late x }
/-- What a RETRACT does first (R248). -/
def State.retracted (s : State) (ord epoch src : Nat) : State :=
  let r := s.curRound
  let s := s.modCol fun c =>
    { c with retrLast := if c.retracted then c.retrLast else word ord,
             retrInfo := if c.retracted then c.retrInfo else word (src * 65536 + epoch),
             retracted := true, stopRound := some (match c.stopRound with | some q => min q r | none => r) }
  (s.digInvalid.raise 1762 0).dropLater
/-- The open instances of this node: ordinal, round, group (R294): those its contexts
serve, and those whose chunks its bindings have begun to send or whose results it still
awaits. -/
def State.openInstances (s : State) : List (Nat × Nat × Nat) :=
  let served := s.col.ctxs.filterMap fun e =>
    if e.2.serving then some (e.2.ordinal, e.2.round, e.2.group) else none
  let sent := (List.range 192).flatMap fun t => (List.range 16).filterMap fun b =>
    match s.sourceAt t (48 + b) with
    | some (r, i, p) => if p.chunk != 0 || p.offset != 0 then some (i.ord, p.round, r.id) else none
    | none => none
  let awaited := (groupRecs (s.sec_ secGroup)).filterMap fun r =>
    match s.recvFrom r (Tab.get {} s.col.resWant r.id) with
    | none => none
    | some w =>
      let passed := (colBindingsIn (s.sec_ secPartition) r.id).any fun b =>
        let p := Tab.get {} s.col.sources (bindKey b.1 b.2)
        w.round < p.round || (w.round == p.round && w.pos < p.pos)
      if passed then ((s.issuesOf r.id)[w.pos]?).map fun i => (i.ord, w.round, r.id) else none
  (served ++ sent ++ awaited).eraseDups
/-- The instances are abandoned (R294): chunks, holds and reservations go, runs of theirs
end, and a result partly delivered is closed poisoned. -/
def State.abandon (s : State) (is : List (Nat × Nat × Nat)) : State :=
  let keys := is.map fun i => (i.1, s.colEpoch i.2.1)
  let gone (ord epoch : Nat) : Bool := keys.contains (ord, epoch)
  let partly := is.flatMap fun i =>
    (resBindingsIn (s.sec_ secPartition) i.2.2).filter fun b => Tab.get 0 s.col.deliver (bindKey b.1 b.2) != 0
  let frames := s.col.ctxs.flatMap fun e =>
      if e.2.serving && gone e.2.ordinal (s.colEpoch e.2.round) then
        e.2.chunks.flatMap fun k => (k.parts ++ k.open_).flatMap (·.frames) else []
  let s := frames.foldl State.dropHold s
  let s := (s.col.results.filter fun x => gone x.ordinal x.epoch).foldl State.dropHeld s
  let s := partly.foldl (fun s b => s.bindingFault b.1 b.2 3) s
  let ctxs := s.col.ctxs.map fun e =>
    if e.2.serving && gone e.2.ordinal (s.colEpoch e.2.round)
    then (e.1, ({ last := some (e.2.round, e.2.ordinal) } : Ctx)) else e
  let s := s.modCol fun c =>
    { c with ctxs := ctxs, abandoned := (c.abandoned ++ keys).eraseDups,
             resHeld := c.resHeld.filter fun x => !gone x.ordinal x.epoch,
             results := c.results.filter fun x => !gone x.ordinal x.epoch,
             deliver := partly.foldl (fun d b => Tab.set 0 d (bindKey b.1 b.2) 0) c.deliver }
  (List.range 4).foldl (fun s u => s.modLauter u fun x =>
    let ends (r : Run) : Bool := !r.vote && !r.digest && gone r.ordinal r.epoch
    { x with run := x.run.filter fun r => !ends r, retry := x.retry.filter fun r => !ends r }) s
/-- The node retracts its open instances with rank 0xFFFF_FFFF and acts on it (R294, R392). -/
def State.retractOpen (s : State) : State :=
  let is := s.openInstances
  let s := is.foldl (fun s i =>
    match s.group? i.2.2 with
    | none => s
    | some r => (s.sendRetract r i.1 (s.colEpoch i.2.1) noRank false).retracted i.1 (s.colEpoch i.2.1) s.nodeId) s
  s.abandon is
/-- The instance at a place of group `r` is still open at this node: its results are awaited, or
the node receives none of them. -/
def State.instanceOpen (s : State) (r : GroupRec) (p : SrcPlace) : Bool :=
  match s.recvFrom r (Tab.get {} s.col.resWant r.id) with
  | none => true
  | some w => w.round < p.round || (w.round == p.round && w.pos ≤ p.pos)
/-- The open instance of which a collective binding has last sent a chunk whole (R247). -/
def State.sentAt (s : State) (t q : Nat) : Option (GroupRec × Issue × SrcPlace) :=
  match s.sourceAt t q, Tab.get none s.col.sent (bindKey t q) with
  | some (r, _, _), some p =>
    if s.instanceOpen r p then ((s.issuesOf r.id)[p.pos]?).map fun i => (r, i, p) else none
  | _, _ => none
/-- A tun that owns a collective binding has halted on uncorrected memory: the hardware
retracts the instance of which the binding has sent a chunk (R247). -/
def State.retractTun (s : State) (t : Nat) : State :=
  (List.range 16).foldl (fun s b =>
    match s.sentAt t (48 + b) with
    | some (r, i, p) =>
      let pos := (positionIn r.present s.nodeId).getD 0
      let j := ((colBindingsIn (s.sec_ secPartition) r.id).findIdx? fun x => x == (t, 48 + b)).getD 0
      s.sendRetract r i.ord (s.colEpoch p.round) (pos * 32 + j) true
    | none => s) s

end Sys2Proof.Machine
end

