-- ==== Sys2Proof/Machine/Crypto.lean ====
section
/-! DEFINITION. Machine/Crypto.lean: SHA-512 (FIPS 180-4) and Ed25519 (RFC 8032),
which the manual names without restating (log entry 31). -/
namespace Sys2Proof.Machine

/-! ## SHA-512 -/

/-- The greatest `r` with `r ^ k ≤ n`, found bit by bit from bit `b - 1` down. -/
def rootFrom (k n : Nat) : Nat → Nat → Nat
  | 0, r => r
  | b + 1, r => rootFrom k n b (if (r + 2 ^ b) ^ k ≤ n then r + 2 ^ b else r)
/-- The first 64 bits of the fractional part of the `k`-th root of a prime. -/
def rootBits (k p : Nat) : Nat := rootFrom k (p * 2 ^ (64 * k)) 70 0 % 2 ^ 64
/-- The first eighty primes. -/
def primes80 : List Nat :=
  (List.range 410).filter fun n => 2 ≤ n && (List.range n).all fun d => d < 2 || n % d != 0
/-- The eighty round constants. -/
def shaK : List Nat := primes80.map (rootBits 3)
/-- The initial hash value. -/
def shaInit : List Nat := (primes80.take 8).map (rootBits 2)
/-- Rotate a 64-bit word right. -/
def rotr (x n : Nat) : Nat := Nat.lor (x / 2 ^ n) (x % 2 ^ n * 2 ^ (64 - n))
/-- The next word of the message schedule; words stand newest first. -/
def shaNext (ws : List Nat) : Nat :=
  let g (i : Nat) : Nat := ws.getD i 0
  let s0 := Nat.xor (Nat.xor (rotr (g 14) 1) (rotr (g 14) 8)) (g 14 / 2 ^ 7)
  let s1 := Nat.xor (Nat.xor (rotr (g 1) 19) (rotr (g 1) 61)) (g 1 / 2 ^ 6)
  (s1 + g 6 + s0 + g 15) % 2 ^ 64
/-- Extend a schedule by `n` words. -/
def shaExtend : Nat → List Nat → List Nat
  | 0, ws => ws
  | n + 1, ws => shaExtend n (shaNext ws :: ws)
/-- One round: `h` is the eight working variables, `kw` its constant plus its word. -/
def shaRound (h : List Nat) (kw : Nat) : List Nat :=
  match h with
  | [a, b, c, d, e, f, g, x] =>
    let s1 := Nat.xor (Nat.xor (rotr e 14) (rotr e 18)) (rotr e 41)
    let ch := Nat.xor (Nat.land e f) (Nat.land (2 ^ 64 - 1 - e) g)
    let t1 := x + s1 + ch + kw
    let s0 := Nat.xor (Nat.xor (rotr a 28) (rotr a 34)) (rotr a 39)
    let maj := Nat.xor (Nat.xor (Nat.land a b) (Nat.land a c)) (Nat.land b c)
    [(t1 + s0 + maj) % 2 ^ 64, a, b, c, (d + t1) % 2 ^ 64, e, f, g]
  | _ => h
/-- The big-endian number of a byte string. -/
def beNat (bs : List Byte) : Nat := bs.foldl (fun t b => t * 256 + b.toNat) 0
/-- A number in `n` bytes, big-endian. -/
def beBytes (n x : Nat) : List Byte := (leBytes n x).reverse
/-- Compress one block of 128 bytes. -/
def shaBlock (h : List Nat) (blk : List Byte) : List Nat :=
  let w0 := ((List.range 16).map fun i => beNat (sliceB blk (8 * i) 8)).reverse
  let ws := (shaExtend 64 w0).reverse
  let out := (List.zipWith (· + ·) shaK ws).foldl shaRound h
  List.zipWith (fun a b => (a + b) % 2 ^ 64) h out
/-- Compress `n` blocks. -/
def shaBlocks : Nat → List Nat → List Byte → List Nat
  | 0, h, _ => h
  | n + 1, h, bs => shaBlocks n (shaBlock h (bs.take 128)) (bs.drop 128)
/-- SHA-512 of a byte string. -/
def sha512 (bs : List Byte) : List Byte :=
  let n := bs.length
  let pad := bs ++ [0x80#8] ++ zeros ((239 - n % 128) % 128) ++ beBytes 16 (8 * n)
  (shaBlocks (pad.length / 128) shaInit pad).flatMap (beBytes 8)
/-- The first 8 bytes of a SHA-512, read as a little-endian 64-bit value. -/
def shaTag (bs : List Byte) : Nat := leNat ((sha512 bs).take 8)

/-! ## Ed25519 -/

/-- The field prime. -/
def edP : Nat := 2 ^ 255 - 19
/-- The order of the base point. -/
def edL : Nat := 2 ^ 252 + 27742317777372353535851937790883648493
/-- `b ^ e` modulo `m`, for an exponent of at most `n` bits. -/
def powMod (m : Nat) : Nat → Nat → Nat → Nat
  | 0, _, _ => 1 % m
  | n + 1, b, e =>
    let h := powMod m n (b * b % m) (e / 2)
    if e % 2 == 1 then h * b % m else h
/-- The inverse in the field. -/
def edInv (x : Nat) : Nat := powMod edP 255 x (edP - 2)
/-- The curve constant d. -/
def edD : Nat := (edP - 121665) * edInv 121666 % edP
/-- A point in extended coordinates X, Y, Z, T. -/
abbrev EdPoint := Nat × Nat × Nat × Nat
/-- Add two points. -/
def edAdd (p q : EdPoint) : EdPoint :=
  let (x1, y1, z1, t1) := p
  let (x2, y2, z2, t2) := q
  let a := (y1 + edP - x1) * (y2 + edP - x2) % edP
  let b := (y1 + x1) * (y2 + x2) % edP
  let c := 2 * t1 * t2 * edD % edP
  let d := 2 * z1 * z2 % edP
  let e := b + edP - a
  let f := d + edP - c
  let g := d + c
  let h := b + a
  (e * f % edP, g * h % edP, f * g % edP, e * h % edP)
/-- `k` times a point, for a `k` of at most `n` bits. -/
def edMul : Nat → Nat → EdPoint → EdPoint
  | 0, _, _ => (0, 1, 1, 0)
  | n + 1, k, p =>
    let r := edMul n (k / 2) (edAdd p p)
    if k % 2 == 1 then edAdd r p else r
/-- Two points are equal. -/
def edEq (p q : EdPoint) : Bool :=
  let (x1, y1, z1, _) := p
  let (x2, y2, z2, _) := q
  x1 * z2 % edP == x2 * z1 % edP && y1 * z2 % edP == y2 * z1 % edP
/-- The x of a y with the given sign bit, if the point exists. -/
def edRecover (y sign : Nat) : Option Nat :=
  if edP ≤ y then none else
  let u := (y * y + edP - 1) % edP
  let v := (edD * y % edP * y + 1) % edP
  let v3 := v * v % edP * v % edP
  let x := u * v3 % edP * powMod edP 255 (u * (v3 * v3 % edP * v % edP) % edP) ((edP - 5) / 8) % edP
  let vx := v * x % edP * x % edP
  let x := if vx == u then some x
    else if vx == (edP - u) % edP then some (x * powMod edP 255 2 ((edP - 1) / 4) % edP) else none
  match x with
  | none => none
  | some x => if x == 0 && sign == 1 then none else some (if x % 2 == sign then x else edP - x)
/-- The base point. -/
def edBase : EdPoint :=
  let y := 4 * edInv 5 % edP
  let x := (edRecover y 0).getD 0
  (x, y, 1, x * y % edP)
/-- The 32 bytes of a point. -/
def edEncode (p : EdPoint) : List Byte :=
  let (x, y, z, _) := p
  let i := edInv z
  leBytes 32 (y * i % edP + x * i % edP % 2 * 2 ^ 255)
/-- The point of 32 bytes. -/
def edDecode (bs : List Byte) : Option EdPoint :=
  let n := natAt bs 0 32
  let y := n % 2 ^ 255
  (edRecover y (n / 2 ^ 255 % 2)).map fun x => (x, y, 1, x * y % edP)
/-- The clamped secret scalar of a seed. -/
def edScalar (seed : List Byte) : Nat :=
  let a := leNat ((sha512 seed).take 32)
  2 ^ 254 + a % 2 ^ 254 / 8 * 8
/-- The public key of a seed. -/
def edPublic (seed : List Byte) : List Byte := edEncode (edMul 256 (edScalar seed) edBase)
/-- The 64-byte signature of a message by a seed. -/
def edSign (seed msg : List Byte) : List Byte :=
  let r := leNat (sha512 ((sha512 seed).drop 32 ++ msg)) % edL
  let rr := edEncode (edMul 256 r edBase)
  let k := leNat (sha512 (rr ++ edPublic seed ++ msg)) % edL
  rr ++ leBytes 32 ((r + k * edScalar seed) % edL)
/-- A signature verifies under a public key. -/
def edVerify (key msg sig : List Byte) : Bool :=
  let s := natAt sig 32 32
  match edDecode key, edDecode (sig.take 32) with
  | some a, some r =>
    let k := leNat (sha512 (sig.take 32 ++ key ++ msg)) % edL
    s < edL && sig.length == 64 && key.length == 32
      && edEq (edMul 4 8 (edMul 256 s edBase)) (edMul 4 8 (edAdd r (edMul 256 k a)))
  | _, _ => false

end Sys2Proof.Machine
end

