-- ==== Sys2Proof/Machine/GristCheck.lean ====
section
/-! DEFINITION. Machine/GristCheck.lean: the grist image (R27 to R31), the checks of
STAGE and CHECK (R37 to R39, R421), and the shared digest (R42). -/
namespace Sys2Proof.Machine

/-! ## Looking through bodies -/

/-- Look through `n` records of `w` bytes from offset `k` on, record `i` first: the offset
at which the first bad one fails. -/
def scanRecs (w : Nat) (bad : Nat → List Byte → Option Nat) : Nat → Nat → Nat → Tab Byte → Option Nat
  | 0, _, _, _ => none
  | n + 1, i, k, m =>
    let m := m.dropWhile fun e => e.1 < k
    match bad i (walkBytes w k m) with
    | some o => some (k + o)
    | none => scanRecs w bad n (i + 1) (k + w) m
/-- Look through `n` records of a body from offset `k` on. -/
def Blob.scan (b : Blob) (k w n : Nat) (bad : Nat → List Byte → Option Nat) : Option Nat :=
  scanRecs w bad n 0 k b.bytes
/-- The first nonzero byte of a string from place `i` on, below `j`. -/
def firstNonzero (bs : List Byte) (i j : Nat) : Option Nat :=
  ((bs.take j).drop i).findIdx? (· != 0) |>.map (· + i)

/-! ## The fields of each section (R421) -/

/-- IDENT (R30). DESIGN CHOICE (log entry 87): a body whose length disagrees with PG_COUNT fails at
PG_COUNT, and a PG_NODES entry of 0x8000 or above, which names no node, does not fail. DESIGN CHOICE
(log entry 94): an order or padding failure of PG_NODES is reported at the failing entry or byte. -/
def identBad (b : Blob) : Option Nat :=
  let fl := b.nat 6 2
  let cnt := b.nat 0x16 2
  let ext (a : Nat) : Nat := b.nat (0x0E + 2 * a) 2
  let wrap := b.nat 0x14 2
  let size := ceilDiv (0x18 + 2 * cnt) 8 * 8
  firstSome [need (fl < 4) 6,
    (List.range 3).findSome? fun a => need (b.nat (8 + 2 * a) 2 ≤ 31) (8 + 2 * a),
    (List.range 3).findSome? fun a => need (1 ≤ ext a && ext a ≤ 32) (0x0E + 2 * a),
    need (wrap < 8 && (List.range 3).all fun a => !bitOf wrap a || ext a == 32) 0x14,
    need ((cnt == 0 || bitOf fl 1) && b.len == size) 0x16,
    (List.range (cnt - 1)).findSome? fun i =>
      need (b.nat (0x18 + 2 * i) 2 < b.nat (0x1A + 2 * i) 2) (0x1A + 2 * i),
    (List.range (size - (0x18 + 2 * cnt))).findSome? fun i =>
      need (b.byte (0x18 + 2 * cnt + i) == 0xFF) (0x18 + 2 * cnt + i)]
/-- The kind and index of an ENDPOINT are defined (R164). -/
def endpointDefined (ep : Nat) : Bool :=
  let i := ep % 4096
  match ep / 4096 with
  | 0 => i < 3072 | 1 => i < 1024 | 2 => true | 3 => i < 4 | 4 => i < 1024 | 15 => i < 256
  | k => k < 8 && i == 0
/-- One binding of a PARTITION record (R62, R164, R232, R234). DESIGN CHOICE (log entry 94): a node
id of 0x8000 to 0xFFFE in FAR of a binding of kind 5 or 6, which names no node, does not fail. -/
def bindingBad (x : List Byte) : Option Nat :=
  let k := byteAt x 0
  let far := natAt x 4 4
  let par := natAt x 8 8
  let form := bitsOf par 17 16
  let farOk : Bool :=
    match k with
    | 0 => far == 0
    | 1 => far < 256
    | 2 => far < 256
    | 3 => far % 65536 ≤ 191 && 48 ≤ bitsOf far 23 16 && bitsOf far 23 16 ≤ 63 && far < 2 ^ 24
    | 4 => far % 65536 ≤ 191 && 48 ≤ bitsOf far 23 16 && bitsOf far 23 16 ≤ 63 && far < 2 ^ 24
    | _ => endpointDefined (far / 65536)
  let collective := bitsOf far 31 28 == 1 && (k == 6 || far % 65536 == 0xFFFF)
  let parOk : Bool :=
    match k with
    | 0 => par == 0
    | 3 => par == 0
    | 4 => par == 0
    | 5 => par < 2 ^ 20 && form != 3 && (!collective || form == 0)
    | 6 => par < 2 ^ 20 && form != 3 && (!collective || form == 0)
    | _ => true
  firstSome [need (k ≤ 6) 0, need (byteAt x 1 < 4) 1, need (byteAt x 3 == 0) 3, need farOk 4, need parOk 8]
/-- PARTITION (R62). -/
def partitionBad (b : Blob) : Option Nat :=
  b.scan 0 264 192 fun _ r =>
    firstSome [need (byteAt r 0 ≤ 1) 0, firstNonzero r 1 8,
      (List.range 16).findSome? fun i => (bindingBad (sliceB r (8 + 16 * i) 16)).map (· + (8 + 16 * i))]
/-- QUEUE (R332). -/
def queueBad (b : Blob) : Option Nat :=
  b.scan 0 16 4096 fun _ r =>
    let f (o : Nat) : Nat := natAt r o 2
    let send := byteAt r 1 == 0
    firstSome [need (byteAt r 0 ≤ 2) 0, need (byteAt r 1 ≤ 1) 1, need (f 2 ≤ 255 || f 2 == 0xFFFF) 2,
      need (f 4 ≤ 2031) 4, need (f 6 == 0) 6, need (!send || f 8 == 0xFFFF) 8, need (!send || f 0x0A == 0) 0x0A,
      need (natAt r 0x0C 4 == 0) 0x0C]
/-- ROUTE (R30). -/
def routeBad (b : Blob) : Option Nat :=
  firstSome [b.scan 0 2 14 fun _ r => need (natAt r 0 2 < 32768 || natAt r 0 2 == 0xFFFF) 0,
    b.firstNonzero 0x1C 4,
    (b.bytes.find? fun e => 0x10020 ≤ e.1 && 16 ≤ e.2.toNat).map (·.1)]
/-- SCHED (R196). -/
def schedBad (b : Blob) : Option Nat :=
  b.scan 0x180 8 261 fun _ r =>
    firstSome [need (natAt r 0 4 < 2 ^ 21) 0, need (natAt r 4 4 < 2 ^ 13) 4]
/-- GRANARY (R193). -/
def granaryBad (b : Blob) : Option Nat :=
  b.scan 0 8 1282 fun i r =>
    firstSome [need (natAt r 0 4 < 2 ^ 20) 0,
      need (if i == 0 then natAt r 4 4 < 2 ^ 20 else natAt r 4 4 % 2 ^ 31 < 2 ^ 20) 4]
/-- The first field of a GROUP record that breaks a rule of its own bytes (R228, R421), by its
offset in the record. DESIGN CHOICE (log entry 87): a record that runs past the body fails at
its first byte when its head does, else at NEXCL. -/
def groupRecBad (b : Blob) (last : Option Nat) (r : GroupRec) : Option Nat :=
  let used := 0x18 + 8 * r.parts + 2 * r.nexcl
  firstSome [need (r.at_ + 0x18 ≤ b.len) 0,
    need (r.id ≤ 4095 && match last with | some l => decide (l < r.id) | none => true) 0,
    need (1 ≤ r.parts && r.parts ≤ 8) 2, need (r.delivery ≤ 3) 3,
    need (r.chunkLog == 0 || (10 ≤ r.chunkLog && r.chunkLog ≤ 16)) 4,
    need (1 ≤ r.locals && r.locals ≤ 32) 5, need (r.flags ≤ 1) 6,
    need (r.nexcl ≤ 64 && r.at_ + r.size ≤ b.len) 7,
    (List.range 5).findSome? fun l => need (r.ctx.getD l 0 < 1024 || r.ctx.getD l 0 == 0xFFFF) (8 + 2 * l),
    (List.range 3).findSome? fun a => need (1 ≤ r.extent a && r.extent a ≤ 32) (0x12 + 2 * a),
    (List.range r.parts).findSome? fun p => need (b.nat (r.at_ + 0x1E + 8 * p) 2 == 0) (0x1E + 8 * p),
    (b.firstNonzero (r.at_ + used) (r.size - used)).map (· - r.at_)]
/-- The GROUP records in order; `n` remain, the next at offset `o`. -/
def groupsBad (b : Blob) : Nat → Option Nat → Nat → Option Nat
  | 0, _, o => need (o == b.len) o
  | n + 1, last, o =>
    let r := groupAt b o
    match groupRecBad b last r with
    | some d => some (o + d)
    | none => groupsBad b n (some r.id) (o + r.size)
/-- GROUP (R228). -/
def groupBad (b : Blob) : Option Nat :=
  let n := b.nat 0 4
  firstSome [need (1 ≤ n && n ≤ 4096) 0, b.firstNonzero 4 4, groupsBad b n none 8]
/-- ORDINAL (R231, R30). DESIGN CHOICE (log entry 87): a body whose length disagrees with N_JOB and
N_ISSUE fails at N_ISSUE. -/
def ordinalBad (b : Blob) : Option Nat :=
  let nj := b.nat 0 4
  let ni := b.nat 4 4
  if !(1 ≤ nj && nj ≤ 65536) then some 0
  else if 65536 < ni || b.len != 8 + 8 * nj + 16 * ni then some 4
  else firstSome [b.scan 8 8 nj fun i r =>
      firstSome [need (i == 0 || b.nat (8 * i) 4 ≤ natAt r 0 4) 0, need (natAt r 6 2 == 0) 6],
    b.scan (8 + 8 * nj) 16 ni fun _ r =>
      firstSome [need (1 ≤ natAt r 4 4 && natAt r 4 4 ≤ 16777216) 4, need (natAt r 8 8 % 64 == 0) 8]]
/-- FLAGS (R70). -/
def flagsBad (b : Blob) : Option Nat :=
  firstSome [need (b.nat 0 4 ≤ 10000000) 0, b.firstNonzero 4 4,
    b.scan 8 4 49152 fun _ r => firstSome [need (byteAt r 0 ≤ 3) 0, need (byteAt r 1 == 0) 1]]
/-- A recipe record (R203): its offset, unit, slot and words. -/
structure RecipeRec where
  at_   : Nat
  unit  : Nat
  slot  : Nat
  words : Nat
  deriving DecidableEq, Repr
/-- The recipe records of a RECIPE body from offset `o` on, and the offset at which the
first bad one fails; `n` bounds their number. DESIGN CHOICE (log entry 94): a record that runs past
the body fails at N_INSTR, which sets its length, after the record's other fields; one whose first
0x50 bytes do not fit fails at its first byte. -/
def recipesFrom (b : Blob) : Nat → Option Nat → Nat → List RecipeRec × Option Nat
  | 0, _, o => ([], need (o == b.len) o)
  | n + 1, last, o =>
    if b.len ≤ o then ([], none) else
    let u := b.byte o
    let sl := b.byte (o + 1)
    let w := b.nat (o + 2) 2
    let size := ceilDiv (0x50 + 4 * w) 8 * 8
    let bad := firstSome [need (o + 0x50 ≤ b.len && u ≤ 3) o,
      need (match last with | some l => decide (l < u * 64 + sl) | none => true) o,
      need (w != 0) (o + 2), need (b.nat (o + 4) 2 < 2) (o + 4), need (b.nat (o + 6) 2 == 0) (o + 6),
      need (b.nat (o + 8) 8 % 256 == 0 && b.nat (o + 8) 8 < 0x18000000000) (o + 8),
      need (o + size ≤ b.len) (o + 2), b.firstNonzero (o + 0x50 + 4 * w) (size - (0x50 + 4 * w))]
    match bad with
    | some d => ([], some d)
    | none =>
      let rest := recipesFrom b n (some (u * 64 + sl)) (o + size)
      (⟨o, u, sl, w⟩ :: rest.1, rest.2)
/-- The recipe records of a body. -/
def recipeRecs (b : Blob) : List RecipeRec × Option Nat := recipesFrom b 1025 none 1024
/-- RECIPE (R203). -/
def recipeBad (b : Blob) : Option Nat :=
  firstSome [(b.bytes.find? fun e => e.1 < 1024 && 64 ≤ e.2.toNat && e.2 != 0xFF).map (·.1), (recipeRecs b).2]
/-- MHZ_i may take this value (R310). -/
def mhzOk (i v : Nat) : Bool :=
  v == 0 || (if i < 192 then 1200 ≤ v && v ≤ 3600 && v % 100 == 0
    else if i < 208 then v == 800 || v == 1200 || v == 1600
    else i < 259 && v == nominalMhz i)
/-- TIMING (R309, R126). -/
def timingBad (b : Blob) : Option Nat :=
  let cal := b.nat 8 4
  firstSome [need (b.byte 0 < 2) 0, need (b.byte 1 < 4) 1, need (b.nat 4 2 ≤ 8760) 4, need (b.byte 6 ≤ 16) 6,
    need (b.byte 7 == 0) 7, need (cal == 0 || (10 ≤ cal && cal ≤ 60000)) 8, need (b.nat 0x0C 4 == 0) 0x0C,
    b.scan 0x10 2 260 fun i r => need (mhzOk i (natAt r 0 2)) 0]
/-- LONGEVITY (R30). -/
def longevityBad (b : Blob) : Option Nat := firstSome [need (b.nat 0 4 < 4) 0, b.firstNonzero 0x0A 6]
/-- FAULT (R348, R349). -/
def faultBad (b : Blob) : Option Nat :=
  let decay := b.byte 4
  let watch := b.nat 6 2
  let low := b.nat 8 2
  firstSome [need (b.nat 0 4 ≤ 600000) 0, need (decay == 0 || (8 ≤ decay && decay ≤ 20)) 4, need (b.byte 5 < 2) 5,
    need (watch ≤ 1023) 6, need (low ≤ 1022 && orDefault low 512 < orDefault watch 768) 8,
    need (b.nat 0x0A 2 ≤ 256) 0x0A, need (b.nat 0x0C 2 ≤ 8760) 0x0C, b.firstNonzero 0x0E 2,
    b.scan 0x10 1 1800 fun i r => need (byteAt r 0 < 8 && (byteAt r 0 == 0 || srcClass i == 1)) 0]
/-- RECORDER (R355). -/
def recorderBad (b : Blob) : Option Nat :=
  let nt := b.nat 0 2
  let nl := b.nat 2 2
  firstSome [need (nt ≤ 64) 0, need (nl ≤ 16) 2, b.firstNonzero 4 4,
    b.scan 8 8 64 fun i r =>
      if nt ≤ i then firstNonzero r 0 8 else
      firstSome [need (natAt r 0 2 ≤ natAt r 2 2 && natAt r 2 2 ≤ 1799) 2, need (byteAt r 4 < 8) 4,
        need (byteAt r 5 == 0xFF || byteAt r 5 < nl) 5, firstNonzero r 6 8],
    b.scan 0x208 200 16 fun l r =>
      if nl ≤ l then firstNonzero r 0 200 else
      let c := natAt r 0 2
      firstSome [need (c ≤ 48) 0, firstNonzero r 2 8,
        (List.range 48).findSome? fun j =>
          let v := natAt r (8 + 4 * j) 4
          need (if c ≤ j then v == 0 else v % 4 == 0 && v < 0x4000000) (8 + 4 * j)]]
/-- The first field of a body of a section type that breaks a rule of its own bytes. -/
def sectionBad (ty : Nat) (b : Blob) : Option Nat :=
  match ty with
  | 1 => identBad b | 2 => partitionBad b | 3 => queueBad b | 4 => routeBad b | 5 => schedBad b
  | 6 => granaryBad b | 7 => groupBad b | 8 => ordinalBad b | 9 => flagsBad b | 10 => recipeBad b
  | 11 => timingBad b | 12 => longevityBad b | 13 => faultBad b | _ => recorderBad b

/-! ## The image (R27, R28) -/

/-- BODY_LENGTH of a section type: its one length, or its least (false). -/
def bodyLen (ty : Nat) : Bool × Nat :=
  match ty with
  | 1 => (false, 0x18) | 2 => (true, 50688) | 3 => (true, 65536) | 4 => (true, 98336) | 5 => (true, 2472)
  | 6 => (true, 10256) | 7 => (false, 8) | 8 => (false, 8) | 9 => (true, 196616) | 10 => (false, 1024)
  | 11 => (true, 536) | 12 => (true, 16) | 13 => (true, 1816) | _ => (true, 3720)
/-- A section of an image: its type, the offset of its header, what it holds. -/
structure Placed where
  ty  : Nat
  at_ : Nat
  sec : Section
  deriving DecidableEq, Repr
/-- The sections of an image from offset `o` on, and the offset of the first field that
fails (R28, R421); `n` bounds their number, `last` is the type before. -/
def sectionsFrom (g : Blob) (delta : Bool) : Nat → Nat → Nat → List Placed × Option Nat
  | 0, _, o => ([], need (g.len ≤ o) o)
  | n + 1, last, o =>
    if g.len ≤ o then ([], need (delta || last == 14) o) else
    let ty := g.nat o 2
    let ver := g.nat (o + 2) 2
    let len := g.nat (o + 4) 4
    let (fixed, want) := bodyLen ty
    let bad := firstSome [
      need (o + 8 ≤ g.len && 1 ≤ ty && ty ≤ 14 && last < ty && (delta || ty == last + 1)) o,
      need (ver == 1 || (ty == 10 && ver == 2)) (o + 2),
      need (len % 8 == 0 && o + 8 + len ≤ g.len && (if fixed then len == want else want ≤ len)) (o + 4)]
    match bad with
    | some d => ([], some d)
    | none =>
      let b := g.sub (o + 8) len
      match sectionBad ty b with
      | some d => ([], some (o + 8 + d))
      | none =>
        let rest := sectionsFrom g delta n ty (o + 8 + len)
        (⟨ty, o, ⟨ver, b⟩⟩ :: rest.1, rest.2)
/-- The sections of an image; a delta holds at least one. -/
def imageSections (g : Blob) : List Placed × Option Nat :=
  let delta := bitOf (g.nat 6 2) 0
  let r := sectionsFrom g delta 15 0 0x100
  (r.1, match r.2 with | some d => some d | none => need (!r.1.isEmpty) 0x100)
/-- A full body of the fourteen sections in TYPE order (R29). -/
def effectiveBody (m : Tab Section) : List Byte :=
  m.flatMap fun (ty, x) => leBytes 2 ty ++ leBytes 2 x.ver ++ leBytes 4 x.body.len ++ x.body.toList

/-- What the checks of STAGE answer: CHECK_CODE and DETAIL, or the sections (R37). -/
def State.stageChecks (s : State) (g : Blob) (len : Nat) (bad : Bool) : (Nat × Nat) ⊕ List Placed :=
  let fmt := firstSome [need (g.nat 0 4 == 0x54535247) 0, need (g.nat 4 2 == 3) 4, need (g.nat 6 2 < 2) 6,
    need (g.nat 8 4 == len) 8, g.firstNonzero 0xE0 32]
  match fmt with
  | some d => .inl (1, d)
  | none =>
    if g.nat 0x0C 4 != 0x09600200 then .inl (2, 0)
    else if bad || sha512 (g.slice 0x100 (len - 0x100)) != g.slice 0x58 64 then .inl (3, 0)
    else if s.sec.owner.isEmpty || g.nat 0xD8 8 != shaTag s.sec.owner
        || !edVerify s.sec.owner (g.slice 0 0x98) (g.slice 0x98 64) then .inl (4, 0)
    else if g.nat 0x10 8 ≤ s.grist.seq.toNat then .inl (5, 0)
    else
      match imageSections g with
      | (_, some d) => .inl (6, d)
      | (secs, none) =>
        let baseOk : Bool :=
          if bitOf (g.nat 6 2) 0 then s.grist.active && sha512 (effectiveBody s.grist.sections) == g.slice 0x18 64
          else g.zero 0x18 64
        if baseOk then .inr secs else .inl (7, 0)

/-! ## CHECK (R37) -/

/-- The sections as they will stand after the pitch (R29). -/
def State.afterPitch (s : State) : Tab Section :=
  s.grist.staged.foldl (fun m e => Tab.put m e.1 e.2) (if s.grist.active then s.grist.sections else [])
/-- The body of a type in a set of sections. -/
def bodyIn (m : Tab Section) (ty : Nat) : Blob := (Tab.get ⟨0, {}⟩ m ty).body
/-- DETAIL of an item at an offset of a section's body (R37). -/
def State.detailAt (s : State) (ty off : Nat) : Nat :=
  match (imageSections s.grist.image).1.find? fun p => p.ty == ty with
  | some p => p.at_ + 8 + off
  | none => 2 ^ 31 + ty * 2 ^ 27 + off
/-- A part lies inside the block and wraps only where the block does (R229). -/
def partsOk (ring : Nat × Nat × Nat) (idt : Blob) (r : GroupRec) : Bool :=
  r.origin.all (fun o => (List.range 3).all fun a =>
    o.getD a 0 ≤ 31 && (o.getD a 0 + r.extent a ≤ 32 || identWrap idt a))
    && r.every.all (fun n => inBlock ring idt n.node)
    && (r.every.map (·.node)).eraseDups.length == r.every.length
/-- A GROUP record keeps the rules of R229 that relate it to other sections. -/
def groupOk (ring : Nat × Nat × Nat) (idt part : Blob) (r : GroupRec) : Bool :=
  let ps := r.present
  let me := idt.nat 4 2
  let mine := (colBindingsIn part r.id).length
  partsOk ring idt r && r.excl.all (fun n => r.every.any fun p => p.node == n) && !ps.isEmpty
    && (r.ctxAt 0).isSome && (List.range 5).all (fun l => r.hasLevel l || (r.ctxAt l).isNone) && r.combines r.top
    && (List.range 5).all (fun l => !r.combines l || ps.all fun p => r.nmOf ps l p ≤ 4096)
    && mine == (if ps.any fun p => p.node == me then r.locals else 0)
/-- The contexts that a group declares, with the levels that name them (R229). -/
def GroupRec.declares (r : GroupRec) : List (Nat × Nat) :=
  (List.range 5).filterMap fun l => (r.ctxAt l).map fun c => (c, l)
/-- NEED of a context, for the largest chunk size of the groups that name it, and the largest NM
of its runs at node `me` (R242). -/
def contextNeed (gs : List GroupRec) (me c : Nat) : Nat × Nat :=
  let rs := gs.filter fun r => r.declares.any fun d => d.1 == c
  let nm (r : GroupRec) : Nat :=
    match r.present.find? fun p => p.node == me with
    | none => 0
    | some p => ((r.declares.filter fun d => d.1 == c && r.combines d.2).map fun d => r.nmOf r.present d.2 p).foldl max 0
  ((rs.map fun r => needCells r.chunk).foldl max 0, (rs.map nm).foldl max 0)
/-- The least MIN of a declared context at node `me` (R242); none when undeclared. -/
def contextMin (gs : List GroupRec) (me c : Nat) : Option Nat :=
  if !gs.any fun r => r.declares.any fun d => d.1 == c then none else
  let (need, nm) := contextNeed gs me c
  some (need * (nm + 1))
/-- The cells of the largest grant on a context at node `me`. -/
def grantNeed (gs : List GroupRec) (me c : Nat) : Nat := (contextNeed gs me c).1 * (contextNeed gs me c).2
/-- The rules of code 0x06 that relate sections to one another: DETAIL. They are taken in the
order in which the text before R37 names them, and ORDINAL's BYTES last (DESIGN CHOICE, log
entry 26), not by image offset. DESIGN CHOICE (log entry 94): the VERSION of a RECIPE section that
stays active lies outside its body; where it falls outside the new window DETAIL gives body offset 0. -/
def State.crossBad (s : State) (m : Tab Section) : Option Nat :=
  let idt := bodyIn m secIdent
  let part := bodyIn m secPartition
  let route := bodyIn m secRoute
  let queue := bodyIn m secQueue
  let lon := bodyIn m secLongevity
  let gs := groupRecs (bodyIn m secGroup)
  let ord := bodyIn m secOrdinal
  let me := idt.nat 4 2
  let rver := (Tab.get ⟨0, {}⟩ m secRecipe).ver
  firstSome [
    (gs.find? fun r => !groupOk s.disc.ring idt part r).map fun r => s.detailAt secGroup r.at_,
    (queue.scan 0 16 4096 fun _ r =>
      let src := natAt r 8 2
      need (byteAt r 1 != 1 || src == me || (src < 32768 && rankIn route src != 0xFFFF)) 8).map (s.detailAt secQueue),
    if lon.byte 8 ≤ rver && rver ≤ lon.byte 9 then none
    else match (imageSections s.grist.image).1.find? fun p => p.ty == secRecipe with
      | some p => some (p.at_ + 2)
      | none => some (2 ^ 31 + secRecipe * 2 ^ 27),
    ((indexed' 0 (issueList ord)).find? fun (_, i) =>
      match gs.find? fun r => r.id == i.group with
      | some r => i.chunks * r.chunk < i.bytes
      | none => false).map fun (k, _) => s.detailAt secOrdinal (8 + 8 * ord.nat 0 4 + 16 * k + 8)]
where
  /-- Number the items of a list from `k` on. -/
  indexed' {α : Type} : Nat → List α → List (Nat × α)
    | _, [] => []
    | k, x :: xs => (k, x) :: indexed' (k + 1) xs
/-- 0x08 VERSION_WINDOW (R26, R32): the interface. -/
def windowBad (lon : Blob) : Option Nat :=
  let neg := bitOf (lon.nat 0 4) 1
  let ok (o lo hi : Nat) : Bool :=
    lo ≤ lon.byte o && lon.byte o ≤ lon.byte (o + 1) && lon.byte (o + 1) ≤ hi && (neg || lon.byte o == lon.byte (o + 1))
  firstSome [need (ok 4 2 3) 0, need (ok 6 1 2) 1, need (ok 8 1 2) 2]
/-- 0x09 IDENT (R31, R272). -/
def State.identWrong (s : State) (idt : Blob) : Bool :=
  let me := idt.nat 4 2
  let ring (a : Nat) : Nat := axis s.disc.ring a
  let pg := pitchGroup s.disc.ring idt
  s.disc.node != some me
    || (List.range 3).any (fun a =>
      if ring a == 0 then 31 < identOrigin idt a + identExtent idt a - 1
      else ring a < identExtent idt a || ring a ≤ identOrigin idt a)
    || !inBlock s.disc.ring idt me
    || (identPgList idt && (2048 < pg.length || !pg.contains me))
/-- The rank, route and wiring of a ROUTE body as a walk over the destinations: number,
rank and entry of each present one. -/
def routeDests (route : Blob) : List (Nat × Nat × Nat) :=
  let ranks := route.slice 0x20 65536
  let table := route.slice 0x10020 32768
  go 0 ranks table
where
  /-- Pair the two tables. -/
  go : Nat → List Byte → List Byte → List (Nat × Nat × Nat)
    | d, a :: b :: rs, e :: es =>
      let r := a.toNat + 256 * b.toNat
      if r == 0xFFFF then go (d + 1) rs es else (d, r, e.toNat) :: go (d + 1) rs es
    | _, _, _ => []
/-- The route check (R38): code and destination. DESIGN CHOICE (log entry 94): of two present nodes
that share a rank DETAIL names the one with the higher node id. -/
def State.routeCheck (s : State) (me : Nat) (route : Blob) : Option (Nat × Nat) :=
  let ds := routeDests route
  let nb (e : Nat) : Nat := route.nat (2 * e) 2
  let rme := rankIn route me
  let mono (d r e : Nat) : Bool :=
    if d == me then e == 15
    else if e == 14 then true
    else if 13 < e then false
    else
      let n := nb e
      let rn := rankIn route n
      n < 32768 && rn != 0xFFFF &&
        (if rme < r then rme < rn && rn ≤ r else r ≤ rn && rn < rme)
  match firstRank [] ds mono with
  | some d => some (0x10, d)
  | none =>
    (ds.find? fun (d, _, e) => d != me && e < 14 && !(s.linkUp e && (s.link e).nbNode == nb e)).map
      fun (d, _, _) => (0x11, d)
where
  /-- The first destination whose rank repeats or whose entry is not monotone. -/
  firstRank : List Nat → List (Nat × Nat × Nat) → (Nat → Nat → Nat → Bool) → Option Nat
    | _, [], _ => none
    | seen, (d, r, e) :: rest, ok =>
      if seen.contains r || !ok d r e then some d else firstRank (r :: seen) rest ok
/-- The first item of a list that stands in it a second time. -/
def firstRepeat : List Nat → List Nat → Option Nat
  | _, [] => none
  | seen, x :: xs => if seen.contains x then some x else firstRepeat (x :: seen) xs
/-- The first item of a list that stands below the one before it: the later ordinal of 0x22 is
the one that stands later in the list (DESIGN CHOICE, log entry 87). -/
def firstFall : List Nat → Option Nat
  | x :: y :: rest => if y < x then some y else firstFall (y :: rest)
  | _ => none
/-- Codes 0x20 to 0x22. -/
def ordinalCheck (me : Nat) (gs : List GroupRec) (ord : Blob) : Option (Nat × Nat) :=
  let jobs := jobTable ord
  let iss := (issueList ord).map (·.ord)
  let known (o : Nat) : Bool :=
    match jobs.find? fun j => j.1 == o with
    | none => false
    | some j => match gs.find? fun r => r.id == j.2 with
      | some r => r.present.any fun p => p.node == me
      | none => false
  firstSome [(iss.find? fun o => !known o).map fun o => (0x20, o),
    (firstRepeat [] (jobs.map (·.1))).map fun o => (0x21, o), (firstRepeat [] iss).map fun o => (0x21, o),
    (firstFall iss).map fun o => (0x22, o)]
/-- 0x30 FLAG_OWNER (R64, R70, R75): the lowest tun and flag that fail. An unbound entry, KIND 0, is
no binding, whatever its FLAG_EN (DESIGN CHOICE, log entry 87). -/
def flagCheck (part flags queue : Blob) : Option Nat :=
  let fwd (t : Nat) : Bool := part.nat (partRec t) 1 == 1
  let owner (t f : Nat) : Nat × Nat := (flags.nat (8 + 4 * (256 * t + f)) 1, flags.nat (10 + 4 * (256 * t + f)) 2)
  let counts (t f q : Nat) : Bool :=
    let b := bindingIn part t (q - 48)
    b.kind != 0 && b.flagEn && b.flag == f
  let ok (t f : Nat) : Bool :=
    let declared : Bool :=
      match owner t f with
      | (0, _) => true
      | (1, i) => i < 192 && !fwd i && !fwd t
      | (2, i) => 48 ≤ i && i ≤ 63 && counts t f i && !fwd t
      | (_, i) => i < 4096 && queue.nat (16 * i) 1 != 0 && !fwd t
    declared && (List.range 16).all fun b => !counts t f (48 + b) || owner t f == (2, 48 + b)
  (List.range 192).findSome? fun t => ((List.range 256).find? fun f => !ok t f).map fun f => t * 256 + f
/-- Codes 0x40 to 0x42 (R193, R242, R288). -/
def granaryCheck (me : Nat) (gs : List GroupRec) (g : Blob) : Option (Nat × Nat) :=
  let total := sumMin g
  let mn (o : Nat) : Nat := g.nat (8 + 8 * o) 4
  let lim (o : Nat) : Nat := g.nat (0x0C + 8 * o) 4
  let ok (o : Nat) : Bool :=
    let least : Option Nat :=
      if o < 256 then
        (if 4 < o % 8 then none
         else if o < 112 && (o / 8 < 6 || 3 ≤ o % 8) then some (17 * vcShares (o % 8)) else some 0)
      else if o == 1280 then some 0 else contextMin gs me (o - 256)
    match least with
    | none => mn o == 0 && lim o == 0
    | some n => n ≤ mn o && mn o ≤ min poolCells (lim o % 2 ^ 20)
  let w1 := g.nat 0 4
  let w2 := g.nat 4 4
  if poolCells < total then some (0x40, 0) else
  match (List.range 1281).find? fun o => !ok o with
  | some o => some (0x41, o)
  | none => need (16 ≤ w2 && w2 < w1 && w1 ≤ poolCells - total) (0x42, 0)
/-- Codes 0x50 and 0x51 (R203). -/
def recipeCheck (gs : List GroupRec) (b : Blob) : Option (Nat × Nat) :=
  let declared (c : Nat) : Bool := gs.any fun r => r.declares.any fun d => d.1 == c
  firstSome [((List.range 1024).find? fun c => b.byte c != 0xFF && !declared c).map fun c =>
      (0x50, c / 256 * 64 + b.byte c),
    ((recipeRecs b).1.find? fun r => 256 < r.words || 63 < r.slot).map fun r => (0x51, r.unit * 64 + r.slot)]
/-- What CHECK reports: CHECK_CODE and DETAIL; (0, 0) is PASS (R37). The node id of DETAIL of 0x09 is
IDENT's NODE, whichever of its rules fails (R272 says so of the block; of R31's list, log entry 87). -/
def State.checkResult (s : State) : Nat × Nat :=
  let m := s.afterPitch
  let idt := bodyIn m secIdent
  let me := idt.nat 4 2
  let gs := groupRecs (bodyIn m secGroup)
  (firstSome [(s.crossBad m).map fun d => (0x06, d), (windowBad (bodyIn m secLongevity)).map fun i => (0x08, i),
    if s.identWrong idt then some (0x09, me) else none, s.routeCheck me (bodyIn m secRoute),
    ordinalCheck me gs (bodyIn m secOrdinal),
    (flagCheck (bodyIn m secPartition) (bodyIn m secFlags) (bodyIn m secQueue)).map fun x => (0x30, x),
    granaryCheck me gs (bodyIn m secGranary), recipeCheck gs (bodyIn m secRecipe)]).getD (0, 0)

/-! ## The vote -/

/-- The shared digest of sections as they will stand after a pitch at `p` (R42). -/
def sharedDigest (m : Tab Section) (p : Nat) : Nat :=
  let ord := bodyIn m secOrdinal
  shaTag (leBytes 8 p ++ (bodyIn m secRoute).slice 0x20 65536 ++ (bodyIn m secGroup).toList
    ++ ord.slice 8 (8 * ord.nat 0 4))

end Sys2Proof.Machine
end

