-- ==== Sys2Proof/Machine/Grist.lean ====
section
/-! DEFINITION. Machine/Grist.lean: the GRIST commands (R33 to R36), the vote (R40 to
R45, R47), and the pitch (R46, R48, R49) with what it does to every block. -/
namespace Sys2Proof.Machine

/-! ## Commands -/

/-- STATE changes and its event is signalled (R341). -/
def State.gristPhase (s : State) (ph : GristPhase) : State :=
  if s.grist.phase == ph then s else (s.modGrist fun g => { g with phase := ph }).signalBoth 2045
/-- A command is refused: nothing but the refusal fields changes (R33). -/
def State.gristRefuse (s : State) (cmd why : Nat) : State :=
  s.modGrist fun g => { g with refusedCmd := cmd, refuseWhy := why }
/-- A GRIST command in the states that accept it; in any other, and in the fatal state
for every command but CLEAR, it is refused (R34, R354). -/
def State.gristCommand (s : State) (p : HostPort) (cmd : Nat) (accepts : GristPhase → Bool)
    (act : State → State) : State :=
  s.hostWrite p 0x10000 fun s =>
    if accepts s.grist.phase && !(s.isFatal && cmd != 5) then act s else s.gristRefuse cmd 1
/-- The stage is discarded: sections, staged RWP values and what describes them (R8, R34). -/
def State.dropStage (s : State) : State :=
  s.modGrist fun g =>
    { g with staged := [], image := {}, imageBad := false, stagedSeq := 0, rwp := [], root := 0, members := 0,
             quiet := false, delta := false, voteSent := false, held := none }
/-- The section type is a live one (R30). -/
def liveSection (ty : Nat) : Bool := ty == 5 || ty == 6 || 12 ≤ ty
/-- The IDENT body as it will stand after the pitch, or stands now. -/
def State.voteIdent (s : State) : Blob := bodyIn s.afterPitch secIdent
/-- The pitch group of the staged grist, else of the active one (R31). -/
def State.voteGroup (s : State) : List Nat :=
  if s.afterPitch.isEmpty then [] else pitchGroup s.disc.ring s.voteIdent

/-- GRIST_STAGE (R34, R35). -/
def execGristStage (p : HostPort) (s : State) : Out :=
  .next (s.gristCommand p 1
    (fun ph => match ph with | .empty | .fail | .pitched | .aborted => true | _ => false) fun s =>
    let src := s.grist.src.toNat
    let len := s.grist.len.toNat
    if src % 256 != 0 || len < 256 || 2 ^ 26 < len || len % 8 != 0 || hbmTop < src + len then s.gristRefuse 1 3
    else
      let image := s.hbmBlob src len
      let bad := s.anyPoison src len
      let rwp := s.grist.rwp
      ((s.dropStage).modGrist fun g => { g with image := image, imageBad := bad, rwp := rwp }).gristPhase .loading)
/-! ## The root of the vote (R43, R44, R47) -/

/-- ARMED = 0 stands among the contributions held, or two digests differ: the cause (R47). -/
def voteFalse (ps : List VotePart) : Option Nat :=
  if ps.any (fun x => !x.armed) then some 1
  else if ps.any (fun x => ps.any fun y => x.digest != y.digest) then some 3
  else none
/-- The contributions that the root holds of its group. -/
def State.voteParts (s : State) : List VotePart := s.grist.parts.filter fun x => s.voteGroup.contains x.node
/-- This node is the root of its pitch group. -/
def State.isRoot (s : State) : Bool := s.voteGroup.head? == some s.nodeId
/-- A reduction of lauter unit 0 that is no recipe has ended, its run with it (R43, R200, R322).
The cycles that it took are stated nowhere: a free value. -/
def State.endReduction (s : State) (mine : Run → Bool) : State :=
  match (s.lauter 0).run with
  | some r =>
    if mine r then (s.modLauter 0 fun l =>
      { l with run := none, runs := (l.runs + 1) % 2 ^ 32, lastCyc := s.freeNat % 65536, lastCtx := 0, lastVer := 0 }).useFree
    else s
  | none => s
/-- The root has decided: the result goes to every member (R43 to R45). -/
def State.voteDecide (s : State) (ok : Bool) (c cause : Nat) : State :=
  let n := s.voteParts.length
  let payload := [0#8, BitVec.ofNat 8 (b2n ok), BitVec.ofNat 8 cause] ++ zeros 5 ++ leBytes 8 s.grist.partsP
    ++ leBytes 8 c ++ leBytes 2 n ++ zeros 6
  let s' := s.voteGroup.foldl (fun s m =>
    s.source { port := 22, hdr := s.mkHeader 3 10 0x21 m (endpointOf 7 0), payload := payload }) s
  (s'.endReduction Run.vote).modGrist fun g => { g with decided := true }
/-- The contributions held by the root of their pitch group show that the vote is FALSE: it is
decided at once (R44). -/
def State.voteSettle (s : State) : State :=
  match voteFalse s.voteParts with
  | some c => if s.isRoot && !s.grist.decided then s.voteDecide false s.time.ftc c else s
  | none => s
/-- Every member of the root's pitch group has contributed and the root has not decided (R43). -/
def State.voteReady (s : State) : Bool :=
  s.isRoot && !s.grist.decided && s.voteParts.length == s.voteGroup.length && s.voteGroup.length != 0

/-- STAGE_COMPLETE: codes 0x01 to 0x07 have run (R35, R37); the read of the image waits for its
controllers (R138, R392). DESIGN CHOICE (log entry 94): MEMBERS has 12 bits and holds the count of
the pitch group modulo 4,096. -/
def execStageComplete (e : Ecc) (s : State) : Out :=
  let g := s.grist.image
  let a := s.grist.src.toNat
  if !s.alive || s.grist.phase != .loading || !s.hbmReady a g.len then .next s else
  let s := s.eccRead a g.len e 6 .used
  match s.stageChecks g g.len (s.grist.imageBad || (firstBad e a g.len).isSome) with
  | .inl (code, d) => .next ((s.modGrist fun x => { x with code := code, detail := d }).gristPhase .fail)
  | .inr secs =>
    let s := s.modGrist fun x =>
      { x with code := 0, detail := 0, stagedSeq := BitVec.ofNat 64 (g.nat 0x10 8),
               staged := secs.map fun q => (q.ty, q.sec), delta := bitOf (g.nat 6 2) 0,
               quiet := secs.any fun q => !liveSection q.ty }
    let pg := s.voteGroup
    .next (((s.modGrist fun x => { x with root := pg.headD 0, members := pg.length % 4096 }).gristPhase .staged).voteSettle)
/-- GRIST_CHECK (R34). -/
def execGristCheck (p : HostPort) (s : State) : Out :=
  .next (s.gristCommand p 2 (fun ph => ph == .staged) fun s => s.gristPhase .checking)
/-- CHECK_COMPLETE (R37). -/
def execCheckComplete (s : State) : Out :=
  if !s.alive || s.grist.phase != .checking then .next s else
  let (code, d) := s.checkResult
  let s := s.modGrist fun g => { g with code := code, detail := d, passAt := if code == 0 then s.time.ftc else g.passAt }
  .next (s.gristPhase (if code == 0 then .pass else .fail))

/-! ## The vote -/

/-- The pitch would leave a tun of this IS960 with the compute role (R370). -/
def State.leavesCompute (s : State) : Bool :=
  (List.range 192).any fun t => (bodyIn s.afterPitch secPartition).nat (partRec t) 1 == 0
/-- Catch-up keeps ARMED at 0 (R370). -/
def CatchUp.blocksVote (c : CatchUp) : Bool :=
  match c.phase with | .receiving | .verifying | .orphaned | .failed | .abandoning => true | _ => false
/-- ARMED of the contribution (R42, R354, R370). -/
def State.armedBit (s : State) : Bool :=
  s.grist.phase == .armed && s.time.phase == .locked && !s.isFatal && !(s.catchUp.blocksVote && s.leavesCompute)
/-- The member sends its contribution to the root (R42, R45). -/
def State.sendVote (s : State) : State :=
  let p := s.grist.pitchAt.toNat
  let payload := [0#8, BitVec.ofNat 8 (b2n s.armedBit)] ++ zeros 6 ++ leBytes 8 p
    ++ leBytes 8 (sharedDigest s.afterPitch p) ++ zeros 8
  let root := s.voteGroup.headD 0
  (s.modGrist fun g => { g with voteSent := true }).source
    { port := 28, hdr := s.mkHeader 3 10 0x20 root (endpointOf 7 0), payload := payload }
/-- GRIST_ARM (R34, R36, R40, R41, R140). -/
def execGristArm (p : HostPort) (s : State) : Out :=
  .next (s.gristCommand p 3 (fun ph => ph == .pass) fun s =>
    let g := s.grist
    let at_ := g.pitchAt.toNat
    let mapChange := (Tab.get (word (s.hbmMode.toNat % 2)) g.rwp 0x100004).toNat % 2 != s.hbmMode.toNat % 2
    if s.proving || (mapChange && !g.quiet) then s.gristRefuse 3 1
    else if at_ < g.passAt + 400000 then s.gristRefuse 3 2
    else if at_ < s.time.ftc + 80000 then s.gristRefuse 3 4
    else
      -- a freeze that an earlier pitch has not yet released lasts to its release (R48), or goes
      -- on as that of this grist (R40)
      let s := s.releaseDue
      let s := (s.modGrist fun g =>
        { g with frozen := g.quiet || g.frozen, release := if g.quiet then none else g.release, voteSent := false,
                 held := none }).gristPhase .armed
      if g.quiet then s else s.sendVote)
/-- GRIST_DISARM (R34, R44). -/
def execGristDisarm (p : HostPort) (s : State) : Out :=
  .next (s.gristCommand p 4 (fun ph => ph == .armed || ph == .voted) fun s =>
    if s.grist.voteSent then s.gristRefuse 4 5
    else if s.grist.phase == .voted then s.gristRefuse 4 1
    else ((if s.grist.quiet then s.thaw else s).modGrist fun g =>
      { g with rwp := g.rwp.drop 0x100004, passAt := s.time.ftc }).gristPhase .pass)
/-- GRIST_CLEAR (R34). -/
def execGristClear (p : HostPort) (s : State) : Out :=
  .next (s.gristCommand p 5
    (fun ph => match ph with | .staged | .pass | .fail | .pitched | .aborted => true | _ => false) fun s =>
    (s.dropStage).gristPhase .empty)
/-- GRIST_PITCH_AT_WRITE: in PASS alone; in other states neither word has any effect (R33). -/
def execGristPitchAtWrite (p : HostPort) (high : Bool) (v : Word) (s : State) : Out :=
  .next (s.hostWrite p 0x10018 fun s =>
    if s.grist.phase != .pass then s else
    s.pairWrite p 0x10018 high v s.grist.pitchAt fun d s => s.modGrist fun g => { g with pitchAt := d })

/-- A tun keeps the member from being quiescent. -/
def Tun.busy (u : Tun) : Bool :=
  match u.phase with | .loading | .running | .waiting => true | _ => false
/-- The four conditions of R41. -/
def State.quiescent (s : State) : Bool :=
  s.tuns.all (fun e => !e.2.busy) && s.granary.resv.isEmpty
    && (List.range 1024).all (fun c => !s.ctxBusy c)
    && s.core.frames.all fun f => !(f.admitted && f.hdr.cls.toNat < 3)
/-- QUIESCENT_VOTE (R41). -/
def execQuiescentVote (s : State) : Out :=
  if s.alive && s.grist.phase == .armed && s.grist.frozen && !s.grist.voteSent && s.quiescent then .next s.sendVote
  else .next s

/-- VOTE_CONTRIBUTION: the root takes a contribution, one of each member and of one P at a
time, and decides FALSE at once when it must (R43, R44). A frame of no defined KIND is
consumed as every frame of the pitch logic is (R292). -/
def execVoteContribution (k : Nat) (s : State) : Out :=
  match s.inboxFor k [0x20] with
  | none => .next s
  | some x =>
    if byteAt x.payload 0 == 1 then .next s else
    let s := s.taken x
    if x.verdict != 0 || byteAt x.payload 0 != 0 then .next s else
    let p := natAt x.payload 8 8
    let g := s.grist
    let part : VotePart :=
      { node := x.hdr.src.toNat, armed := byteAt x.payload 1 == 1, digest := BitVec.ofNat 64 (natAt x.payload 0x10 8) }
    if (g.decided && p == g.partsP) || (!g.decided && !g.parts.isEmpty && p != g.partsP) then .next s else
    let old := if p == g.partsP then g.parts else []
    if old.any fun y => y.node == part.node then .next s else
    .next (s.modGrist fun g => { g with parts := old ++ [part], partsP := p, decided := false }).voteSettle
/-- VOTE_REDUCTION_COMPLETE: every member has contributed by D, and lauter unit 0 has run the
reduction (R43, R200). -/
def execVoteReductionComplete (s : State) : Out :=
  let runs : Bool := match (s.lauter 0).run with | none => false | some r => r.vote
  if !s.alive || !s.voteReady || !runs || s.grist.partsP < s.time.ftc + 40000 then .next s
  else match voteFalse s.voteParts with
    | some c => .next (s.voteDecide false s.time.ftc c)
    | none => .next (s.voteDecide true s.time.ftc 0)
/-- VOTE_DEADLINE: at D the root sends FALSE; sooner when what it holds shows FALSE (R44). -/
def execVoteDeadline (s : State) : Out :=
  let g := s.grist
  let armed := g.phase == .armed || g.phase == .voted
  let p := if g.parts.isEmpty || g.decided then g.pitchAt.toNat else g.partsP
  let waits := if g.parts.isEmpty then armed else !g.decided || (armed && g.partsP != g.pitchAt.toNat)
  if !s.alive || !s.isRoot || !waits || p < 40000 then .next s else
  let s := s.voteSettle
  if s.grist.decided && !g.decided then .next s else
  let s := s.reach (p - 40000)
  let s := if g.parts.isEmpty || g.decided then s.modGrist fun g => { g with parts := [], partsP := p } else s
  .next (s.voteDecide false (p - 40000) 2)
/-- VOTE_RESULT: the first result for the armed P is kept (R44, R45, R47). -/
def execVoteResult (k : Nat) (s : State) : Out :=
  match s.inboxFor k [0x21] with
  | none => .next s
  | some x =>
    if byteAt x.payload 0 == 1 then .next s else
    let s := s.taken x
    if x.verdict != 0 || byteAt x.payload 0 != 0 || s.grist.phase != .armed
        || natAt x.payload 8 8 != s.grist.pitchAt.toNat then .next s else
    let ok := byteAt x.payload 1 == 1
    let c := natAt x.payload 0x10 8
    let cause := byteAt x.payload 2
    .next ((s.modGrist fun g =>
      { g with held := some (ok, c, cause), stamp := BitVec.ofNat 64 c,
               cause := if ok then g.cause else cause }).gristPhase .voted)

/-! ## The pitch -/

/-- The torus port `p` is interior under the grist in force (R272). -/
def State.interior (s : State) (p : Nat) : Bool :=
  let i := s.sec_ secIdent
  let a := p / 2
  let far := (s.link p).nbNode
  let x := s.idx s.nodeId a
  let y := s.idx far a
  let e := identExtent i a
  let up (u v : Nat) : Bool := v == u + 1 || (identWrap i a && u + 1 == e && v == 0)
  (s.link p).nbOk && s.inActiveBlock far && (if p % 2 == 0 then up x y else up y x)
/-- The fence causes of port `p` after a pitch (R274). -/
def State.pitchFence (s : State) (p : Nat) : State :=
  let l := s.link p
  let plan := (s.sec_ secRoute).nat (2 * p) 2
  let agree := l.nbValid && l.nbNode == plan
  let admits := l.phase == .up && l.version == 3 && (6 ≤ p || agree)
  let inside := s.interior p
  s.modLink p fun l =>
    { l with pending := l.pending && !admits, boundary := p < 6 && !inside,
             plan := if l.nbValid then !agree else l.plan,
             code := if l.nbValid && !agree && !bitOf l.code.toNat 31 then word (2 ^ 31 + 6 * 2 ^ 24 + l.nbNode) else l.code }
/-- The staged RWP values take effect (R6, R48). -/
def State.applyRwp (s : State) : State :=
  s.grist.rwp.foldl (fun s (o, v) =>
    if o == 0x100004 then { s with hbmMode := (s.hbmMode &&& word (2 ^ 30)) ||| v }
    else if o == 0x060008 then s.modPower fun p => { p with guard := v }
    else if o == 0x300400 then s.modCore fun c => { c with routeCfg := v }
    else if o == 0x300404 then s.modCore fun c => { c with valSeed := v }
    else if 0x310000 ≤ o && o < 0x312000 then
      s.modCore fun c => { c with mc := Tab.set 0x0000FFFF#32 c.mc ((o - 0x310000) / 4) v }
    else s) s
/-- The records of tun `t`, or of queue `q`, in two bodies differ. -/
def recordDiffers (a b : Blob) (o n : Nat) : Bool := a.slice o n != b.slice o n
/-- The version windows that LONGEVITY gives (R32). -/
def windowIn (lon : Blob) (o : Nat) : Window := ⟨lon.byte o, lon.byte (o + 1), bitOf (lon.nat 0 4) 1⟩
/-- The collective places follow a pitch: new groups or issue lists begin at the start of
the current round, and so do the bindings of tuns with a new record. -/
def State.colPitch (s : State) (changed : Bool) (tuns : List Nat) : State :=
  let r := s.curRound
  let s := if changed then s.colEmpty.modCol fun c => { c with round := c.round + BitVec.ofNat 64 r }
    else tuns.foldl (fun s t => s.modCol fun c =>
      { c with sources := (List.range 16).foldl (fun m b => Tab.set {} m (t * 16 + b) { round := r }) c.sources }) s
  s.modCol fun c => { c with grantedSincePitch := false }
/-- The staged grist is applied in one tick (R48, R49, R75, R140, R192, R274, R332). -/
def State.applyStage (s : State) : State :=
  let before := s
  let first := !s.grist.active
  let old := s.grist.sections
  let new := s.afterPitch
  let body (m : Tab Section) (ty : Nat) : Blob := bodyIn m ty
  let tuns := (List.range 192).filter fun t =>
    first || recordDiffers (body old secPartition) (body new secPartition) (partRec t) 264
  let queues := (List.range 4096).filter fun q =>
    recordDiffers (if first then {} else body old secQueue) (body new secQueue) (16 * q) 16
  let issues := first || s.grist.staged.any fun e => e.1 == secGroup || e.1 == secOrdinal
  -- what the old records govern is given up first
  let s := tuns.foldl (fun s t => ((((s.drain t).closeDigest t false).closeStreams t).dropCrossings t)) s
  let s := (s.dropWaits tuns.contains).colPitch issues tuns
  let lon := body new secLongevity
  let s := s.modGrist fun g =>
    { g with active := true, sections := new, staged := [], seq := g.stagedSeq,
             tag := BitVec.ofNat 64 (shaTag (effectiveBody new)), pitches := (g.pitches + 1) % 2 ^ 32,
             stored := (new :: g.stored).take 2, alp := windowIn lon 4, desc := windowIn lon 6, rcp := windowIn lon 8 }
  let s := (s.applyRwp).modGrist fun g => { g with rwp := [] }
  let s := tuns.foldl State.pitchTun s
  let s := if s.replan then s else s.modPower fun p => { p with offset := 0 }
  let s := queues.foldl (fun s q =>
    if (s.sq q).en || (s.sq q).phase != .disabled then s.sqResetBegin q else s.modSq q StreamQ.afterReset) s
  let s := (List.range 4).foldl (fun s k =>
    if (tunsOf k).all s.forwardOnly && !(tunsOf k).all (fun t => before.forwardOnly t) then s.dozeKettle k else s) s
  let s := if (List.range 259).any fun i => before.mhz i != s.mhz i then s.mark 2 else s
  let s := (List.range 14).foldl State.pitchFence s
  let s := s.modGranary fun g =>
    { g with level := (g.level.map fun e => (e.1, min e.2 (s.bucketCap e.1))).filter fun e => e.2 != 0 }
  let s := s.modCu fun c => if c.phase == .committed then { c with phase := .idle } else c
  s.settleHeld
/-- The links fenced by UNCERTAIN (R46, R274). -/
def State.fenceAll (s : State) (b : Bool) : State :=
  (List.range 14).foldl (fun s p => s.modLink p fun l => { l with uncertain := b }) s
/-- The pitch aborts: the stage is discarded and the freeze ends (R46). -/
def State.abortPitch (s : State) (cause : Nat) : State :=
  ((s.thaw.dropStage).modGrist fun g => { g with cause := cause }).gristPhase .aborted
/-- PITCH_COUNT: the outcome of R46 at count P. -/
def execPitchCount (s : State) : Out :=
  let ph := s.grist.phase
  if !s.alive || !(ph == .armed || ph == .voted) then .next s else
  let p := s.grist.pitchAt.toNat
  let s := (s.reach p).releaseDue
  match s.grist.held with
  | some (true, c, _) =>
    if c + 40000 ≤ p then
      let frozen := s.grist.frozen
      let s := (s.applyStage).modGrist fun g => { g with release := if frozen then some (p + 4000) else none }
      .next (s.gristPhase .pitched)
    else .next (s.abortPitch 2)
  | some (false, _, cause) => .next (s.abortPitch cause)
  | none => .next (((s.fenceAll true).raise 1760 0).gristPhase .uncertain)
/-- FREEZE_RELEASE: at P + 4,000 ticks (R48). -/
def execFreezeRelease (s : State) : Out :=
  match s.grist.release with
  | some t => if s.alive then .next (s.reach t).releaseDue else .next s
  | none => .next s
/-- RESOLVE_KEEP (R34, R46, R47). -/
def execResolveKeep (p : HostPort) (s : State) : Out :=
  .next (s.gristCommand p 6 (fun ph => ph == .uncertain) fun s => (s.fenceAll false).abortPitch 7)
/-- RESOLVE_APPLY (R34, R46, R274). -/
def execResolveApply (p : HostPort) (s : State) : Out :=
  .next (s.gristCommand p 7 (fun ph => ph == .uncertain) fun s =>
    (((s.fenceAll false).applyStage).thaw).gristPhase .pitched)

end Sys2Proof.Machine
end

