-- ==== Sys2Proof/Machine/TimeBase.lean ====
section
/-! DEFINITION. Machine/TimeBase.lean: the states of fabric time and the choice of the time
parent (R299, R304, R305), which a port that goes down renews. -/
namespace Sys2Proof.Machine

/-- ROOT_EN and SOURCE of FTC_TIME_CFG; SOURCE 3 acts as 0 (R299). -/
def State.timeRoot (s : State) : Bool := bitOf s.time.cfg.toNat 31
@[inherit_doc State.timeRoot] def State.timeSource (s : State) : Nat := bitsOf s.time.cfg.toNat 30 29 % 3
/-- STATE as a number. -/
def TimePhase.num : TimePhase → Nat
  | .free => 0 | .acquiring => 1 | .locked => 2 | .holdover => 3
/-- The time state changes; leaving LOCKED is marked and reported (R305, R314). Entering
ACQUIRING clears the integral, and the next exchange is its first. -/
def State.timePhase (s : State) (ph : TimePhase) : State :=
  let was := s.time.phase
  if was == ph then s else
  let s := s.modTime fun t =>
    { t with phase := ph, inLock := 0, outLock := 0,
             integ := if ph == .acquiring then 0 else t.integ, first := ph == .acquiring || t.first }
  if was == .locked then (s.mark 0).raise 1769 0 else s
/-- No tun is ARMED, RUNNING or WAITING and the grist is neither ARMED nor VOTED (R306). -/
def State.mayStep (s : State) : Bool :=
  s.grist.phase != .armed && s.grist.phase != .voted
    && !s.tuns.any fun e => match e.2.phase with | .armed => true | .running => true | .waiting => true | _ => false
/-- What the torus neighbours last reported. -/
def State.timeNeighbours (s : State) : List (Nat × TimeFlit) :=
  s.time.portNb.filter fun e => e.1 < 6 && s.linkUp e.1
/-- The ports that R304 lets this node choose. -/
def State.eligible (s : State) : List (Nat × TimeFlit) :=
  let ns := s.timeNeighbours
  let roots := (ns.map fun e => e.2.root.toNat).filter (· != 0xFFFF)
  let low := roots.foldl min 0xFFFF
  ns.filter fun e => e.2.state == 2 && e.2.depth.toNat ≤ 61 && e.2.root.toNat == low
/-- The least DEPTH, and of equal ones the lowest port. -/
def bestParent : List (Nat × TimeFlit) → Option (Nat × TimeFlit)
  | [] => none
  | x :: xs => match bestParent xs with
    | none => some x
    | some y =>
      if y.2.depth.toNat < x.2.depth.toNat || (y.2.depth == x.2.depth && y.1 < x.1) then some y else some x
/-- The parent is chosen again (R304, R305). -/
def State.chooseParent (s : State) : State :=
  if s.timeRoot then s else
  let roots := ((s.timeNeighbours.map fun e => e.2.root.toNat).filter (· != 0xFFFF)).eraseDups
  let s := if 1 < roots.length && !s.time.conflict
    then ((s.modTime fun t => { t with conflict := true }).hwSet 0x20008 (2 ^ 27)).raise 1770 0 else s
  match bestParent s.eligible with
  | none => s.modTime fun t => { t with parent := none, depth := 0x3F, rootId := 0xFFFF }
  | some (p, f) =>
    let s := s.modTime fun t =>
      { t with heardAt := if t.parent == some p then t.heardAt else s.now, parent := some p,
               depth := f.depth.toNat + 1, rootId := f.root.toNat }
    match s.time.phase with
    | .free => s.timePhase .acquiring
    | .holdover => s.timePhase .acquiring
    | _ => s

end Sys2Proof.Machine
end

