-- ==== Sys2Proof/Machine/Links.lean ====
section
/-! DEFINITION. Machine/Links.lean: optical links: flits and replay (R256 to R262),
credits (R285 to R287), training (R263, R264), HELLO and discovery (R266 to R270,
R277), and a link going down (R262, R294). -/
namespace Sys2Proof.Machine

/-! ## A port's lanes and versions -/

/-- Lanes of port `p` (R253). -/
def portLanes (p : Nat) : Nat := if p < 6 then 16 else 2
/-- LNK_CTRL.LANES_MIN. -/
def Link.minReg (l : Link) (p : Nat) : Nat := orDefault l.lanesMin (if p < 6 then 8 else 1)
/-- LANES_MIN in force: it is taken when training begins (R276). -/
def Link.minLanes (l : Link) (p : Nat) : Nat := orDefault l.minTaken (if p < 6 then 8 else 1)
/-- The port has trained and has not been declared down since. -/
def Link.lit (l : Link) : Bool := match l.phase with | .hello => true | .up => true | .isolated => true | _ => false
/-- Boot has reached optics lock: ports train (R394). -/
def State.opticsOn (s : State) : Bool := 7 ≤ s.power.step && !s.power.failed && !s.power.warm
/-- Optics lock has ended: discovery runs (R269, R394). -/
def State.opticsLocked (s : State) : Bool := 8 ≤ s.power.step && !s.power.failed
/-- The FTC count before which the laser of port `p` is dark: after the node has taken the port
down (R262), and for the first 500 ms of optics lock (R255). -/
def State.litFrom (s : State) (p : Nat) : Nat :=
  max (s.link p).darkUntil (if s.power.step == 7 then s.power.stepAt + 2000000000 else 0)
/-- The laser of port `p` is dark (R255, R262, R354). -/
def State.laserDark (s : State) (p : Nat) : Bool :=
  !s.on || !s.opticsOn || !(s.link p).enable || s.now < s.litFrom p
    || s.power.island == some (225 + p) || s.isFatal
/-- The version in use; 0 while the port is not UP (R276). -/
def Link.versionReg (l : Link) : Nat := if l.phase == .up then l.version else 0
/-- CAUSE and COUNT of LNK_DOWN. -/
def Link.downReg (l : Link) : Nat := l.downCause * 2 ^ 28 + l.downCnt
/-- Change lane `i` of port `p`. -/
def State.modLane (s : State) (p i : Nat) (f : Lane → Lane) : State :=
  s.modLink p fun l => { l with lanes := Tab.mod {} l.lanes i f }
/-- A lane without the state of the link it carried. -/
def Lane.fresh (x : Lane) (lock : Bool) : Lane :=
  { x with lock := lock, lostAt := none, txNum := 0, txSlots := 0, replay := [], nakNum := 0, nakCnt := 0, rxWant := 0, nak := false, rxBuf := [],
           cwNum := none, cwBad := false, cwFlits := 0 }
/-- The state of a link that does not outlast its training (R286). -/
def Link.fresh (l : Link) (p : Nat) (lanes : Half) : Link :=
  { l with trained := lanes, sent := [], freedFar := [], freed := [], freedSent := [], rxUsed := [], rxNext := 0,
           txNext := 0, rx := [], txBuf := [], txOpen := [], txWait := [], reTx := [], sinceCtl := 0, sinceCred := 0,
           hellos := 0, helloLast := [], timeAt := 0,
           lanes := (List.range (portLanes p)).foldl (fun t i =>
             Tab.mod {} t i fun x => x.fresh (bitOf lanes.toNat i)) l.lanes }

/-! ## Going down (R262) -/

/-- A placed node is DONE once every torus port that is UP has heard a HELLO that passed (R269, R276). -/
def State.discSettle (s : State) : State :=
  if s.disc.phase == .placed && (List.range 6).all fun p => (s.link p).phase != .up || (s.link p).nbOk
  then { s with disc := { s.disc with phase := .done } } else s
/-- A port starts to train, at 224 Gb/s first (R263). -/
def Link.train (l : Link) (now : Nat) : Link :=
  { l with phase := .training, trainAt := now, attemptAt := now, tried3 := false, minTaken := l.lanesMin }
/-- Port `p` is declared down: DOWN, PENDING, LNK_DOWN and the fault; frames by R176 and
R182; the collectives by R294. It retrains at once when it may. A port that its node takes
down, by a disable, RETRAIN or island reset, is dark for 100 µs (R262). -/
def State.declareDown (s : State) (p cause : Nat) (train : Bool) : State :=
  let l := s.link p
  let job := l.lit && p < 6 && !s.fenced p
  let s := if l.lit && p < 6 && s.interior p then s.mark 7 else s
  let s := (s.cutIngress p).discardEgress p
  let now := s.now
  let s := s.modLink p fun l =>
    let l := { l.fresh p 0 with
      phase := .disabled, trainAt := now, darkUntil := if cause < 4 then l.darkUntil else now + 400000,
      down := true, pending := true, downCause := cause, downCnt := satInc 16 l.downCnt, nbOk := false }
    if train then l.train now else l
  let s := s.modTime fun t => { t with portNb := t.portNb.drop p, portRx := t.portRx.drop p }
  let s := s.chooseParent
  let s := (s.raise (srcLink p 1) (s.link p).downReg).discSettle
  if job then s.retractOpen else s
/-- LANE_LOCK_LOST (R262). -/
def execLaneLockLost (p : Fin 14) (lane : Fin 16) (s : State) : Out :=
  let l := s.link p
  if !s.alive || !l.lit || !bitOf l.trained.toNat lane || !(l.lane lane).lock then .next s else
  .next ((s.modLane p lane fun x =>
      { x with lock := false, loss := satInc 8 x.loss, lostAt := some s.now }).modLink p fun l =>
    { l with lost := l.lost ||| BitVec.ofNat 16 (2 ^ lane.val) })
/-- LANE_LOCK_REGAINED: within 10 µs (R262). -/
def execLaneLockRegained (p : Fin 14) (lane : Fin 16) (s : State) : Out :=
  match ((s.link p).lane lane).lostAt with
  | some t =>
    if !s.alive || t + 40000 < s.now then .next s
    else .next (s.modLane p lane fun x => { x with lock := true, lostAt := none })
  | none => .next s
/-- LINK_DOWN: a lane without lock for 10 µs, a fifth NAK, or an acknowledgement 25 µs
old (R262). -/
def execLinkDown (p : Fin 14) (cause : Fin 6) (s : State) : Out :=
  let l := s.link p
  let lanes := l.trainedLanes.map l.lane
  if !s.alive || !l.lit then .next s else
  match cause.val with
  | 1 => match (lanes.filterMap (·.lostAt)).min? with
    | some t => .next ((s.after (t + 40000)).declareDown p 1 true)
    | none => .next s
  | 2 => if lanes.any fun x => 5 ≤ x.nakCnt then .next (s.declareDown p 2 true) else .next s
  | 3 => match (lanes.filterMap fun x => x.replay.head?.map (·.2.2)).min? with
    | some t => .next ((s.after (t + 100000)).declareDown p 3 true)
    | none => .next s
  | _ => .next s
/-- LINK_RETRAIN: every 100 ms while training fails (R262). -/
def execLinkRetrain (p : Fin 14) (s : State) : Out :=
  let l := s.link p
  if !s.alive || s.isFatal || l.phase != .failed || !l.enable then .next s else
  let s := s.after (l.trainAt + 400000000)
  .next (s.modLink p fun l => l.train s.now)
/-- The lanes that locked, as many as the port has. -/
def lanesOf (p : Nat) (o : TrainOutcome) : Half := BitVec.ofNat 16 (o.lanes.toNat % 2 ^ portLanes p)
/-- How many lanes a mask names. -/
def countLanes (m : Half) : Nat := ((List.range 16).filter fun i => bitOf m.toNat i).length
/-- The version lies in the CFG window of FEAT_VER_ALP. -/
def State.alpHas (s : State) (v : Nat) : Bool := s.grist.alp.lo ≤ v && v ≤ s.grist.alp.hi
/-- The rate of the attempt in progress: 3 first if it lies in the window, then 2 (R263). -/
def State.attempts (s : State) (p : Nat) : Nat := if s.alpHas 3 && !(s.link p).tried3 then 3 else 2
/-- An attempt at one rate has failed: the other is attempted, or training has failed (R263). -/
def State.attemptFails (s : State) (p v : Nat) : State :=
  s.modLink p fun l =>
    if v == 3 && s.alpHas 2 then { l.fresh p 0 with phase := .training, attemptAt := s.now, tried3 := true }
    else { l.fresh p 0 with phase := .failed }
/-- TRAINING_COMPLETE: an attempt at one rate ends (R263, R274): with its lanes locked within
100 ms of its start, with too few, or, in HELLO, because 100 ms have passed without the
neighbour's HELLO. -/
def execTrainingComplete (p : Fin 14) (o : TrainOutcome) (s : State) : Out :=
  let l := s.link p
  let v := if o.rate224 then 3 else 2
  let from_ := max l.attemptAt (s.litFrom p)
  if !s.alive || s.isFatal || !l.enable then .next s
  else if l.phase == .hello then .next ((s.after (from_ + 400000000)).attemptFails p l.version)
  else if l.phase != .training || v != s.attempts p || !s.alpHas v then .next s
  else
    let s := s.after from_
    let lanes := lanesOf p o
    if countLanes lanes < l.minLanes p || from_ + 400000000 < s.now then .next (s.attemptFails p v)
    else
      .next (s.modLink p fun l =>
        { l.fresh p lanes with
          phase := .hello, version := v, v2 := !o.rate224, miswire := false,
          nbValid := false, nbPort := 0xF, nbNode := 0xFFFF, nbMax := 0, nbMin := 0, nbCoord := none, nbOk := false })
/-- LNK_RETRAIN: LNK_CTRL.RETRAIN is written 1: the port is declared down, and retrains when it is
enabled and its optics run (R276, R394). -/
def execLnkRetrain (p : HostPort) (n : Fin 14) (s : State) : Out :=
  .next (s.hostWrite p (0x200000 + n * 0x10000) fun s =>
    s.declareDown n 4 ((s.link n).enable && s.opticsOn && !s.isFatal))
/-- LNK_ENABLE: a write of LNK_CTRL (R276). -/
def execLnkEnable (p : HostPort) (n : Fin 14) (v : Word) (s : State) : Out :=
  .next (s.hostWrite p (0x200000 + n * 0x10000) fun s =>
    let on := bitOf v.toNat 0
    let was := (s.link n).enable
    let s := s.modLink n fun l => { l with enable := on, lanesMin := clampNat 1 (portLanes n) (bitsOf v.toNat 8 4) }
    let trains := on && s.opticsOn && !s.isFatal
    if bitOf v.toNat 1 then s.declareDown n 4 trains
    else if was && !on then s.declareDown n 4 false
    else if !was && trains then s.modLink n fun l => l.train s.now
    else s)

/-! ## Flits (R257 to R261) -/

/-- KIND and SOF of a flit. -/
def flitKind (f : List Byte) : Nat := byteAt f 61 / 4 % 4
@[inherit_doc flitKind] def flitSof (f : List Byte) : Bool := bitOf (byteAt f 61) 1
/-- The CRC of a flit holds. -/
def flitGood (f : List Byte) : Bool := natAt f 62 2 == crc16 0x1021 0xFFFF (fit 62 f)
/-- The data bytes of a flit. -/
def flitData (f : List Byte) : List Byte := if flitKind f == 3 then (fit 61 f).take (min 60 (byteAt f 60)) else fit 61 f
/-- The frame of the core that received bytes belong to sees them (R175, R176). -/
def State.rxShow (s : State) (r : RxFrame) : State :=
  match r.frame with
  | none => s
  | some id => s.modFrame id fun f =>
    let (pl, t, ok, long, short) := rxParts f.hdr.length.toNat r
    { f with payload := pl, inTail := t, crcOk := ok, long := long, short := short, ended := r.ended }
/-- Bytes of one flit, in the port's order, extend the frame in progress on its VC (R258). -/
def State.rxFlit (s : State) (p : Nat) (f : List Byte) : State :=
  let v := flitVc f
  if 12 ≤ v then s else
  let rs := Tab.get [] (s.link p).rx v
  let ended := flitKind f == 3
  let new := flitSof f
  let rs := if new then rs.map (fun r => { r with ended := true }) ++ [{ bytes := [], ended := false, order := (s.link p).rxOrder }]
    else rs
  match rs.findIdx? fun r => !r.ended with
  | none => s
  | some i =>
    let before := ceilDiv ((rs[i]?.map (·.bytes.length)).getD 0) 256
    let rs := modAt (fun r : RxFrame => { r with bytes := r.bytes ++ flitData f, ended := ended }) i rs
    let after := ceilDiv ((rs[i]?.map (·.bytes.length)).getD 0) 256
    let s := s.modLink p fun l =>
      { l with rx := Tab.set [] l.rx v rs, rxOrder := l.rxOrder + b2n new,
               rxUsed := Tab.mod 0 l.rxUsed v fun n => n + (after - before) }
    (rs.foldl State.rxShow s).rxSettle p v
/-- The flits that are next in the port's order are handed on; `n` bounds their number. -/
def State.rxDrain (s : State) (p : Nat) : Nat → State
  | 0 => s
  | n + 1 =>
    let l := s.link p
    let ls := l.trainedLanes
    let i := ls.getD (l.rxNext % max 1 ls.length) 0
    match (l.lane i).rxBuf with
    | [] => s
    | f :: rest =>
      let s := (s.modLane p i fun x => { x with rxBuf := rest }).modLink p fun l =>
        { l with rxNext := (l.rxNext + 1) % max 1 ls.length }
      State.rxDrain (s.rxFlit p f) p n
/-- A flit arrives in a codeword of a lane (R256): what the code found is counted once for the ten
flits of the codeword, which share its outcome. Answers whether the codeword decoded. -/
def State.codeword (s : State) (p : Nat) (x : FlitSlot) : State × Bool :=
  let l := (s.link p).lane x.lane
  if l.cwNum == some x.cw.toNat && l.cwFlits < 10 then
    (s.modLane p x.lane fun l => { l with cwFlits := l.cwFlits + 1 }, !l.cwBad)
  else
    let s := match x.fec with
      | .clean => s
      | .corrected =>
        ((s.modLink p fun l => { l with fecCorr := satInc 32 l.fecCorr, proved := l.proved + 1 }).modLane p x.lane fun x =>
          { x with corr := satInc 16 x.corr }).raise (srcLink p 0) 0
      | .bad => (s.modLink p fun l => { l with fecUnc := satInc 32 l.fecUnc }).raise (srcLink p 5) x.lane
    (s.modLane p x.lane fun l => { l with cwNum := some x.cw.toNat, cwBad := x.fec == .bad, cwFlits := 1 },
      x.fec != .bad)
/-- Flits arrive on a lane of port `p`. -/
def State.laneHears (s : State) (p lane : Nat) : Bool :=
  s.alive && (s.link p).lit && bitOf (s.link p).trained.toNat lane && ((s.link p).lane lane).lock
/-- DATA_FLIT_RECEIVE: accepted in order, or discarded with a NAK (R256, R260). An idle flit,
or one of KIND control, is no data flit (R257, R260). -/
def execDataFlitReceive (p : Fin 14) (lane : Fin 16) (num : BitVec 12) (c : Codeword) (flit : List Byte) (s : State) : Out :=
  if !s.laneHears p lane then .next s else
  let (s, ok) := s.codeword p ⟨lane, c.cw, c.fec⟩
  if (s.link p).phase != .up then .next s else
  let nak (s : State) : State := s.modLane p lane fun x => { x with nak := true }
  if !ok then .next (nak s)
  else if !flitGood flit then .next (nak (s.modLink p fun l => { l with crcBad := satInc 32 l.crcBad }))
  else if flitKind flit < 2 then .next s
  else if num.toNat != ((s.link p).lane lane).rxWant then .next (nak s)
  else
    let s := s.modLane p lane fun x =>
      { x with rxWant := (x.rxWant + 1) % 4096, nak := false, rxBuf := x.rxBuf ++ [flit] }
    .next (s.rxDrain p ((s.link p).trainedLanes.foldl (fun t i => t + ((s.link p).lane i).rxBuf.length) 0))
/-- One acknowledgement word arrives for lane `i`: flits it passes are released, and after a NAK the
rest are to be sent again (R260, R262). -/
def State.ackWord (s : State) (p i w : Nat) : State :=
  let want := w % 4096
  let x := (s.link p).lane i
  let known := want == x.txNum || x.replay.any fun r => r.1 == want
  if !known then s else
  let rest := x.replay.dropWhile fun r => r.1 != want
  let nak := bitOf w 15
  let cnt := if !nak then 0 else if x.nakCnt != 0 && x.nakNum == want then x.nakCnt + 1 else 1
  let s := s.modLane p i fun x => { x with replay := rest, nakNum := want, nakCnt := cnt }
  s.modLink p fun l =>
    { l with reTx := if nak then l.reTx.filter (·.1 != i) ++ rest.map fun r => (i, r.1, r.2.1)
                     else l.reTx.filter fun e => e.1 != i || rest.any fun r => r.1 == e.2.1 }
/-- A control flit of SUBTYPE `sub` arrives (R259, R260): its acknowledgement words act, and
flits that wait for a lane follow; then `act` on bytes 0x20 to 0x3B. A flit with a bad CRC or in
a bad codeword is dropped; others are accepted in every phase, but an isolated port hears HELLO
alone (R260, R270). -/
def State.controlIn (s : State) (p : Nat) (x : FlitSlot) (flit : List Byte) (sub : Nat)
    (act : List Byte → State → State) : State :=
  if !s.laneHears p x.lane then s else
  let (s, ok) := s.codeword p x
  if !ok || !flitGood flit || flitKind flit != 1 || byteAt flit 60 != sub then s else
  let s := if (s.link p).phase == .isolated then s else
    let s := (s.link p).trainedLanes.foldl (fun s i => s.ackWord p i (natAt flit (2 * i) 2)) s
    s.drainTx p (s.link p).waiting
  act (sliceB flit 0x20 28) s
/-- CREDIT_FLIT_RECEIVE: a SUBTYPE 0 control flit (R259, R260, R286). -/
def execCreditFlitReceive (p : Fin 14) (flit : ControlFlit) (s : State) : Out :=
  .next (s.controlIn p flit.slot flit.bytes 0 fun b s =>
    if (s.link p).phase == .isolated then s else
    s.modLink p fun l =>
      { l with freedFar := vcList.foldl (fun t v => Tab.set 0 t v (natAt b (2 * v) 2)) l.freedFar })
/-- FREED of VC `v` as port `p` sends it: a fenced port returns no credit for VC0 to VC9
(R273, R286). -/
def State.freedNow (s : State) (p v : Nat) : Nat :=
  let l := s.link p
  if v < 10 && s.fenced p then Tab.get 0 l.freedSent v else (Tab.get 0 l.freed v + fifoCells p v) % 65536
/-- The acknowledgement word of a lane. -/
def Lane.ack (x : Lane) : Nat := x.rxWant + b2n x.nak * 2 ^ 15
/-- The acknowledgement words that a control flit of port `p` carries (R259). -/
def Link.acks (l : Link) : List Byte :=
  (List.range 16).flatMap fun i => leBytes 2 (if bitOf l.trained.toNat i then (l.lane i).ack else 0)
/-- Port `p` sends a control flit of SUBTYPE `sub` with bytes 0x20 to 0x3B; flits that waited for
it follow (R257, R259). DESIGN CHOICE (log entry 95): its slot is one of the lane that carries the
next data flit. -/
def State.controlOut (s : State) (p sub : Nat) (body : List Byte) : State :=
  let flit := sealFlit ((s.link p).acks ++ fit 28 body ++ [BitVec.ofNat 8 sub, 4#8])
  let s := (s.modLink p fun l =>
    { l with sinceCtl := 0, sinceCred := if sub == 0 then 0 else l.sinceCred + 1 }).sendSlot p (s.link p).txLane
      fun h => .control p h flit
  s.drainTx p (s.link p).waiting
/-- CREDIT_FLIT_SEND (R259, R286). -/
def execCreditFlitSend (p : Fin 14) (s : State) : Out :=
  let l := s.link p
  if !s.alive || l.phase != .up then .next s else
  let freed := vcList.map (s.freedNow p)
  let s := s.modLink p fun l =>
    { l with freedSent := vcList.foldl (fun t v => Tab.set 0 t v (freed.getD v 0)) l.freedSent }
  .next (s.controlOut p 0 (freed.flatMap (leBytes 2)))

/-! ## HELLO and discovery (R266 to R270, R277) -/

/-- CERT_TAG: the first 8 bytes of the SHA-512 of the device certificate (R266). -/
def certTag : DWord := BitVec.ofNat 64 (shaTag Config.deviceCert)
/-- The HELLO that port `p` sends (R266). -/
def State.helloOf (s : State) (p : Nat) : Hello :=
  { certTag := certTag, port := BitVec.ofNat 8 p, alpMax := BitVec.ofNat 4 s.grist.alp.hi,
    alpMin := BitVec.ofNat 4 s.grist.alp.lo, coordOk := s.disc.coord.isSome, neg := s.grist.alp.neg,
    root := s.disc.root, grist := s.grist.active, node := BitVec.ofNat 16 s.nodeId,
    coord := s.disc.coord.getD (0, 0, 0), ring := s.disc.ring, count := word (s.link p).hellos }
/-- The content of a HELLO but for COUNT, as bytes. -/
def helloContent (h : Hello) : List Byte :=
  leBytes 8 h.certTag.toNat ++ [h.port, BitVec.ofNat 8 (h.alpMax.toNat * 16 + h.alpMin.toNat),
    BitVec.ofNat 8 (b2n h.coordOk + 2 * b2n h.neg + 4 * b2n h.root + 8 * b2n h.grist), 0] ++ leBytes 2 h.node.toNat
    ++ [h.coord.1, h.coord.2.1, h.coord.2.2, h.ring.1, h.ring.2.1, h.ring.2.2].map (BitVec.ofNat 8)
/-- Bytes 0x20 to 0x3B of a HELLO (R266). -/
def helloBytes (h : Hello) : List Byte := helloContent h ++ leBytes 4 h.count.toNat ++ zeros 4
/-- The HELLO that bytes 0x20 to 0x3B of a control flit spell (R266). -/
def helloFrom (b : List Byte) : Hello :=
  let f := byteAt b 10
  { certTag := BitVec.ofNat 64 (natAt b 0 8), port := BitVec.ofNat 8 (byteAt b 8), alpMax := BitVec.ofNat 4 (byteAt b 9 / 16),
    alpMin := BitVec.ofNat 4 (byteAt b 9), coordOk := bitOf f 0, neg := bitOf f 1, root := bitOf f 2, grist := bitOf f 3,
    node := BitVec.ofNat 16 (natAt b 12 2), coord := (byteAt b 14, byteAt b 15, byteAt b 16),
    ring := (byteAt b 17, byteAt b 18, byteAt b 19), count := BitVec.ofNat 32 (natAt b 20 4) }
/-- HELLO_SEND: at once on a change of content, else one millisecond after the last (R266). -/
def execHelloSend (p : Fin 14) (s : State) : Out :=
  let l := s.link p
  if !s.alive || !l.lit then .next s else
  let h := s.helloOf p
  let s := if l.helloLast == helloContent h then s.after (l.helloAt + 4000000) else s
  .next ((s.modLink p fun l =>
    { l with hellos := (l.hellos + 1) % 2 ^ 32, helloLast := helloContent h, helloAt := s.now }).controlOut p 2
    (helloBytes h))
/-- Port `p` is isolated as miswired: the code latches and the fault is raised (R270). -/
def State.miswired (s : State) (p code detail : Nat) : State :=
  let s := s.modLink p fun l =>
    { l with phase := .isolated, miswire := true, nbOk := false,
             code := if bitOf l.code.toNat 31 then l.code else word (2 ^ 31 + code * 2 ^ 24 + detail) }
  s.raise (srcLink p 2) (s.link p).code.toNat
/-- The miswire of a first HELLO, by its wiring: its code and FAR_PORT (R267). -/
def wiring (p : Nat) (h : Hello) : Option (Nat × Nat) :=
  let q := h.port.toNat
  let far := q % 16 * 2 ^ 20
  if p < 6 && q == p then some (1, far)
  else if (p < 6 && !(q < 6 && q / 2 == p / 2)) || (6 ≤ p && q < 6) then some (2, far)
  else if h.certTag == certTag then some (3, 0)
  else none
/-- Replace the part of a triple on axis `a`. -/
def setAxis (t : Nat × Nat × Nat) (a v : Nat) : Nat × Nat × Nat :=
  match a with | 0 => (v, t.2.1, t.2.2) | 1 => (t.1, v, t.2.2) | _ => (t.1, t.2.1, v)
/-- The ring lengths merged with a neighbour's, axis by axis, and whether they agree (R268). -/
def mergeRings (n nb : Nat × Nat × Nat) : List Nat → (Nat × Nat × Nat) × Bool
  | [] => (n, true)
  | a :: as =>
    if axis nb a == 0 || axis n a == axis nb a then mergeRings n nb as
    else if axis n a == 0 then mergeRings (setAxis n a (axis nb a)) nb as
    else (n, false)
/-- What R268 answers for one HELLO. -/
inductive PlaceRes where
  | wait                                  -- neighbour, or this node, not placed
  | set (c : Nat × Nat × Nat)             -- this node's coordinates
  | ok
  | closes (n : Nat)                      -- the axis closes with this ring length
  | ring
  | inconsistent
  deriving DecidableEq, Repr
/-- The rule of R268 after the merge, for a HELLO on a port of axis `a`, the + port when
`plus`, with ring lengths `n` and this node's coordinates `c`. -/
def placeRule (n : Nat × Nat × Nat) (c : Option (Nat × Nat × Nat)) (a : Nat) (plus : Bool) (h : Hello) : PlaceRes :=
  if !h.coordOk then .wait else
  let na := axis n a
  let nb := axis h.coord a
  match c with
  | none =>
    if plus && na == 0 then .wait else
    let v := if !plus then (if na == 0 then nb + 1 else (nb + 1) % na) else (nb + na - 1) % na
    if 31 < v then .ring else .set (setAxis h.coord a v)
  | some c =>
    let ca := axis c a
    if ([0, 1, 2].any fun b => b != a && axis h.coord b != axis c b) then .inconsistent
    else if na != 0 then
      if nb == (if plus then (ca + 1) % na else (ca + na - 1) % na) then .ok else .inconsistent
    else if (plus && nb == ca + 1) || (!plus && nb + 1 == ca) then .ok
    else if plus && nb == 0 && 1 ≤ ca then .closes (ca + 1)
    else if !plus && ca == 0 && 1 ≤ nb then .closes (nb + 1)
    else .inconsistent
/-- This node is at coordinates `c` (R268). -/
def State.placeAt (s : State) (c : Nat × Nat × Nat) (root : Bool) : State :=
  { s with disc := { s.disc with coord := some c, node := some (nodeAt c.1 c.2.1 c.2.2), phase := .placed,
                                 root := s.disc.root || root } }
/-- The HELLO of port `p` has passed: a thin interior link is marked (R314). The wiring plan is
judged at the pitch (R274). -/
def State.helloPassed (s : State) (p : Nat) : State :=
  let first := !(s.link p).nbOk
  let s := s.modLink p fun l => { l with nbOk := true }
  if first && s.grist.active && p < 6 && s.interior p && countLanes (s.link p).trained < 16 then s.mark 7 else s
/-- The coordinates part of a HELLO on torus port `p` (R268, R270). -/
def State.placeBy (s : State) (p : Nat) (h : Hello) : State :=
  if s.disc.phase == .idle then s else
  let (n, agree) := mergeRings s.disc.ring h.ring [0, 1, 2]
  let s := { s with disc := { s.disc with ring := n } }
  if !agree then s.miswired p 5 0 else
  match placeRule n s.disc.coord (p / 2) (p % 2 == 0) h with
  | .wait => s
  | .set c => (s.placeAt c false).helloPassed p
  | .ok => s.helloPassed p
  | .closes k => ({ s with disc := { s.disc with ring := setAxis n (p / 2) k } }).helloPassed p
  | .ring => s.miswired p 5 0
  | .inconsistent => s.miswired p 4 h.node.toNat
/-- The HELLO's fields go to LNK_NB and its fellows. -/
def Link.heard (l : Link) (h : Hello) : Link :=
  { l with nbValid := true, nbPort := h.port.toNat % 16, nbNode := h.node.toNat, nbTag := h.certTag,
           nbMax := h.alpMax.toNat, nbMin := h.alpMin.toNat, nbCoord := if h.coordOk then some h.coord else none }
/-- What a HELLO does at port `p` (R264, R267, R268, R270). -/
def State.helloIn (s : State) (p : Nat) (h : Hello) : State :=
  let l := s.link p
  let first := !l.nbValid
  let s := s.modLink p fun l => l.heard h
  if l.phase == .isolated then s else
  match (if first then wiring p h else none) with
  | some (code, detail) => s.miswired p code detail
  | none =>
    if first && !(h.alpMin.toNat ≤ l.version && l.version ≤ h.alpMax.toNat) then
      s.modLink p fun l =>
        { l.fresh p 0 with phase := .failed, trainAt := s.now,
                           code := if bitOf l.code.toNat 31 then l.code else word (2 ^ 31 + 7 * 2 ^ 24) }
    else
      let s := s.modLink p fun l => if l.phase == .hello then { l with phase := .up, down := false } else l
      if p < 6 then (s.placeBy p h).discSettle else s.helloPassed p
/-- HELLO_RECEIVE: a SUBTYPE 2 control flit (R259, R266). -/
def execHelloReceive (p : Fin 14) (flit : ControlFlit) (s : State) : Out :=
  .next (s.controlIn p flit.slot flit.bytes 2 fun b s => s.helloIn p (helloFrom b))
/-- DISC_ROOT: accepted in SEEKING (R269, R277). -/
def execDiscRoot (p : HostPort) (s : State) : Out :=
  .next (s.hostWrite p 0x300040 fun s =>
    if s.disc.phase == .seeking then (s.placeAt (0, 0, 0) true).discSettle else s)
/-- DISC_FORGET: accepted with no active grist (R277). -/
def execDiscForget (p : HostPort) (s : State) : Out :=
  .next (s.hostWrite p 0x300040 fun s =>
    if s.grist.active then s else
    let s := { s with disc := { s.disc with coord := none, ring := (0, 0, 0), node := none, root := false,
                                            since := s.now,
                                            phase := if s.opticsLocked then .seeking else .idle } }
    (List.range 6).foldl (fun s p => s.modLink p fun l => { l with nbOk := false }) s)
/-- DISCOVERY_TIMEOUT: 2 s after discovery started (R269). -/
def execDiscoveryTimeout (s : State) : Out :=
  let d := s.disc
  if !s.alive || d.timeout || !(d.phase == .seeking || d.phase == .placed) then .next s else
  let s := s.after (d.since + 8000000000)
  .next { s with disc := { s.disc with timeout := true } }

end Sys2Proof.Machine
end

