-- ==== Sys2Proof/Machine/Time.lean ====
section
/-! DEFINITION. Machine/Time.lean: fabric time (R298 to R306, R314) and layer digests
(R320 to R323). -/
namespace Sys2Proof.Machine

/-! ## States and steps -/

/-- The FTC steps to a count (R306). What is measured from one event to another goes on: the PTP
exchange in progress, and faults that have not arrived, bear the counts of the new scale. -/
def State.stepTo (s : State) (c : Nat) : State :=
  let n : Nat := c % 2 ^ 64
  let d : Int := (n : Int) - (s.time.ftc : Int)
  let s := s.modTime fun t =>
    { t with ftc := n, stepped := true, ptpWait := t.ptpWait.map (· + d), ptpReqAt := t.ptpReqAt.map (· + d),
             ptpSync := t.ptpSync.map fun x => (x.1, x.2 + d) }
  let s := s.modFault fun f =>
    { f with raised := f.raised.map fun r =>
        if s.now < r.at_ then { r with stamp := ((r.stamp : Int) + d).toNat } else r }
  (s.hwSet 0x20008 (2 ^ 26)).mark 1
/-- FTC_FREQ_ADJ: 0.01 ppb units of the rate, toward 0 (R305, R323). -/
def State.freqAdj (s : State) : Nat := twos 32 (Int.tdiv (s.time.adj * 125) 128)
/-- PPS_OUT is driven low while PPS_OUT_EN is 0 (R412). -/
def State.ppsEnable (s : State) (en : Bool) : State := { s with pins := { s.pins with ppsOut := s.pins.ppsOut && en } }
/-- FTC_TIME_CFG is written (R299, R323). -/
def State.timeCfgWrite (s : State) (v : Word) : State :=
  let old := s.timeRoot
  let src := s.timeSource
  let domain := s.time.cfg.toNat % 256
  let s := s.modTime fun t => { t with cfg := v &&& 0xF00000FF#32 }
  let s := s.ppsEnable (bitOf v.toNat 28)
  -- another domain has a master of its own (R300)
  let s := if domain == v.toNat % 256 then s else s.modTime fun t =>
    { t with ptpMaster := none, ptpWait := none, ptpSync := none, ptpReqAt := none }
  if s.timeRoot && (!old || s.timeSource != src) then
    let s := s.modTime fun t =>
      { t with parent := none, depth := 0, rootId := s.nodeId, ptpMaster := none, ptpWait := none, ptpSync := none,
               ptpReqAt := none, ptpOfs := 0, srcAt := s.now }
    s.timePhase (if s.timeSource == 0 then .locked else .acquiring)
  else if old && !s.timeRoot then
    (s.modTime fun t => { t with depth := 0x3F, rootId := 0xFFFF, ptpOfs := 0 }).timePhase .free
  else s
/-- FTC_SET: at a root, which accepts it in ACQUIRING, or at any time when it is free-running and
so always LOCKED (R299, R306). -/
def execFtcSet (p : HostPort) (s : State) : Out :=
  .next (s.hostWrite p 0x020020 fun s =>
    if s.timeRoot && s.mayStep && (s.timeSource == 0 || s.time.phase == .acquiring)
    then s.stepTo s.time.setTo.toNat else s)

/-! ## Exchange over the links (R302 to R305) -/

/-- The time flit that port `p` sends now (R302). -/
def State.timeFlit (s : State) (p : Nat) : TimeFlit :=
  let (tx, rx) := Tab.get (0, 0) s.time.portRx p
  { tx := BitVec.ofNat 64 s.time.ftc, echoTx := BitVec.ofNat 64 tx, echoRx := BitVec.ofNat 64 rx,
    state := BitVec.ofNat 2 s.time.phase.num,
    depth := BitVec.ofNat 8 (if s.time.depth == 0x3F then 0xFF else s.time.depth),
    root := BitVec.ofNat 16 (if s.timeRoot then s.nodeId else s.time.rootId) }
/-- Bytes 0x20 to 0x3B of a SUBTYPE 1 flit (R302). -/
def timeBytes (f : TimeFlit) : List Byte :=
  leBytes 8 f.tx.toNat ++ leBytes 8 f.echoTx.toNat ++ leBytes 8 f.echoRx.toNat
    ++ [BitVec.ofNat 8 f.state.toNat, f.depth] ++ leBytes 2 f.root.toNat
/-- The fields that bytes 0x20 to 0x3B of a SUBTYPE 1 flit spell (R302). -/
def timeFrom (b : List Byte) : TimeFlit :=
  { tx := BitVec.ofNat 64 (natAt b 0 8), echoTx := BitVec.ofNat 64 (natAt b 8 8), echoRx := BitVec.ofNat 64 (natAt b 16 8),
    state := BitVec.ofNat 2 (byteAt b 24), depth := BitVec.ofNat 8 (byteAt b 25), root := BitVec.ofNat 16 (natAt b 26 2) }
/-- TIME_EXCHANGE_SEND: every 4,000,000 ticks, fenced or not (R302). -/
def execTimeExchangeSend (p : Fin 14) (s : State) : Out :=
  let l := s.link p
  if !s.alive || l.phase != .up then .next s else
  let s := s.dwell l.timeAt 4000000
  .next ((s.modLink p fun l => { l with timeAt := s.now }).controlOut p 1 (timeBytes (s.timeFlit p)))
/-- The servo of R305 takes one theta. -/
def State.servoStep (s : State) (theta : Int) : State :=
  let cfg := s.time.servo.toNat
  let cap : Int := bitsOf cfg 31 16 * 1024
  let e : Int := if theta.natAbs ≤ cfg % 256 then 0 else theta
  let integ := s.time.integ + theta
  let raw := -(1600 * e + 25 * integ)
  let adj := max (-cap) (min cap raw)
  let s := s.modTime fun t =>
    { t with integ := integ, adj := adj, pinned := t.pinned || adj != raw, history := (adj :: t.history).take 1024 }
  if adj != raw then s.hwSet 0x20008 (2 ^ 28) else s
/-- The lock count takes one theta (R305). -/
def State.lockStep (s : State) (theta : Int) : State :=
  let n := theta.natAbs
  match s.time.phase with
  | .acquiring =>
    let k := if n ≤ 4 then s.time.inLock + 1 else 0
    if 16 ≤ k then s.timePhase .locked else s.modTime fun t => { t with inLock := k }
  | .locked =>
    let k := if 16 < n then s.time.outLock + 1 else 0
    if 4 ≤ k then s.timePhase .acquiring else s.modTime fun t => { t with outLock := k }
  | _ => s
/-- The first exchange since ACQUIRING was entered steps the FTC by −theta, where R306 allows it. -/
def State.firstStep (s : State) (theta : Int) : State :=
  let first := s.time.phase == .acquiring && s.time.first
  let s := s.modTime fun t => { t with first := t.first && !first }
  if first && s.mayStep && theta != 0 then s.stepTo (((s.time.ftc : Int) - theta) % (2 ^ 64 : Int)).toNat else s
/-- An exchange with the parent: the first may step, and each updates the rate and the lock
count (R305, R306). -/
def State.exchange (s : State) (theta : Int) : State :=
  let s := s.firstStep theta
  ((s.modTime fun t => { t with heardAt := s.now }).servoStep theta).lockStep theta
/-- What the fields of a SUBTYPE 1 flit do at port `p` (R303 to R305). -/
def State.timeIn (s : State) (p : Nat) (f : TimeFlit) : State :=
  if (s.link p).phase != .up then s else
  let now := s.time.ftc
  let s := s.modTime fun t =>
    { t with portRx := Tab.put t.portRx p (f.tx.toNat, now), portNb := Tab.put t.portNb p f }
  let s := s.chooseParent
  if f.echoTx == 0 then s else
  let back : Int := (now : Int) - f.tx.toNat
  let out : Int := (f.echoRx.toNat : Int) - f.echoTx.toNat
  let theta := Int.tdiv (back - out) 2
  let s := s.modTime fun t =>
    { t with portOfs := Tab.set 0 t.portOfs p theta, portDly := Tab.set 0 t.portDly p (Int.tdiv (out + back) 2) }
  if s.time.parent == some p && !s.timeRoot then s.exchange theta else s
/-- TIME_EXCHANGE_RECEIVE: a SUBTYPE 1 control flit; one with a bad CRC is dropped (R302, R303). -/
def execTimeExchangeReceive (p : Fin 14) (x : FlitSlot) (flit : List Byte) (s : State) : Out :=
  .next (s.controlIn p x flit 1 fun b s => s.timeIn p (timeFrom b))
/-- PARENT_TIMEOUT: 3 ms without an exchange with the parent (R305). -/
def execParentTimeout (s : State) : Out :=
  let ph := s.time.phase
  if !s.on || s.timeRoot || !(ph == .acquiring || ph == .locked) then .next s else
  let s := s.after (s.time.heardAt + 12000000)
  let s := match s.time.parent with
    | some p => s.modTime fun t => { t with portNb := t.portNb.drop p, parent := none }
    | none => s
  let s := s.chooseParent
  if s.time.parent.isSome then .next s else
  let h := s.time.history
  let mean := if h.isEmpty then s.time.adj else Int.tdiv (h.foldl (· + ·) 0) h.length
  .next ((s.modTime fun t => { t with adj := mean }).timePhase .holdover)

/-! ## The root's source (R299 to R301) -/

/-- An event of the root's source with its offset from the root's time: LOCKED after 16
in a row within `bound`, ACQUIRING again after one that is not (R299). DESIGN CHOICE (log entry
91): the spec gives the root no servo of its own; the offset steers its rate as theta does in
R305, and the first Sync in ACQUIRING may step it (`step`), as R306 lets a node. -/
def State.sourceEvent (s : State) (ofs : Int) (bound : Nat) (step : Bool) : State :=
  let s := s.modTime fun t => { t with srcAt := s.now }
  let s := match s.time.phase with
    | .holdover => s.timePhase .acquiring
    | .free => s.timePhase .acquiring
    | _ => s
  let s := (if step then s.firstStep ofs else s).servoStep ofs
  if bound < ofs.natAbs then (s.modTime fun t => { t with inLock := 0 }).timePhase .acquiring
  else
    let k := s.time.inLock + 1
    if 16 ≤ k && s.time.phase != .locked then s.timePhase .locked else s.modTime fun t => { t with inLock := k }
/-- The root takes PTP from the domain, which is 0 to 127 (R300). -/
def State.ptpHears (s : State) (domain : Nat) : Bool := domain < 128 && domain == s.time.cfg.toNat % 256
/-- The root takes PTP. -/
def State.ptpOn (s : State) : Bool := s.on && s.timeRoot && s.timeSource == 1
/-- PTP_SYNC: a Sync, or the Follow_Up of a two-step one, from the master followed (R300). -/
def execPtpSync (m : PtpSync) (s : State) : Out :=
  if !s.ptpOn || !s.ptpHears m.domain || (s.time.ptpMaster.getD m.masterId) != m.masterId then .next s
  else
    let s := s.modTime fun t =>
      { t with ptpMaster := some m.masterId, ptpReqAt := if m.followUp then t.ptpReqAt else none }
    if m.twoStep && !m.followUp then
      .next (s.modTime fun t => { t with ptpWait := some (m.arrival : Int), srcAt := s.now })
    else
      match (if m.followUp then s.time.ptpWait else some (m.arrival : Int)) with
      | none => .next s
      | some at_ =>
        let ofs : Int := at_ - m.masterTicks - s.time.ptpDelay
        let s := s.modTime fun t => { t with ptpWait := none, ptpSync := some (m.masterTicks, at_), ptpOfs := ofs }
        .next (s.sourceEvent ofs 40 true)
/-- PTP_DELAY_REQ_SEND: one for each Sync (R300). -/
def execPtpDelayReqSend (s : State) : Out :=
  if !s.ptpOn || s.time.ptpSync.isNone || s.time.ptpReqAt.isSome then .next s
  else .next ((s.modTime fun t => { t with ptpReqAt := some (t.ftc : Int) }).emit (.delayReq s.time.ftc))
/-- PTP_DELAY_RESP: the one-way delay to the master is known (R300). -/
def execPtpDelayResp (domain masterId receiveTicks : Nat) (s : State) : Out :=
  match s.time.ptpSync, s.time.ptpReqAt with
  | some (t1, t2), some t3 =>
    if !s.ptpOn || !s.ptpHears domain || s.time.ptpMaster != some masterId then .next s else
    let d := Int.tdiv ((t2 - t1) + ((receiveTicks : Int) - t3)) 2
    .next (s.modTime fun t => { t with ptpDelay := d, ptpReqAt := none, ptpSync := none })
  | _, _ => .next s
/-- SOURCE_SILENT: 3 s without the source (R299). -/
def execSourceSilent (s : State) : Out :=
  if !s.on || !s.timeRoot || s.timeSource == 0 || s.time.phase == .holdover then .next s else
  let s := s.after (s.time.srcAt + 12000000000)
  .next ((s.modTime fun t =>
    { t with ptpMaster := none, ptpWait := none, ptpSync := none, ptpReqAt := none }).timePhase .holdover)
/-- Ticks of one second. -/
def second : Nat := 4000000000
/-- PPS_IN_EDGE (R299, R301). -/
def execPpsInEdge (s : State) : Out :=
  if !s.on then .next s else
  let c := s.time.ftc
  let s := s.modTime fun t => { t with ppsIn := BitVec.ofNat 64 c }
  if !s.timeRoot || s.timeSource != 2 then .next s else
  let r := c % second
  .next (s.sourceEvent (if r < second / 2 then r else (r : Int) - second) 8 false)
/-- PPS_OUT_RISE: at a multiple of 4,000,000,000 (R301). -/
def execPpsOutRise (s : State) : Out :=
  if !s.on || !bitOf s.time.cfg.toNat 28 || s.pins.ppsOut then .next s else
  let s := s.reach (ceilDiv s.time.ftc second * second)
  .next { s with pins := { s.pins with ppsOut := true } }
/-- PPS_OUT_FALL: 100 ms later (R301). -/
def execPpsOutFall (s : State) : Out :=
  if !s.on || !s.pins.ppsOut then .next s else
  let s := s.reach (s.time.ftc / second * second + 400000000)
  .next { s with pins := { s.pins with ppsOut := false } }

/-! ## Layer digests (R320 to R323) -/

/-- Zero whole 4 KiB pages of HBM from `a` on, poison marks with them; the writes are compared with
the run-ahead ranges as all are (R152). -/
def State.hbmZero (s : State) (a pages : Nat) : State :=
  let s := (List.range pages).foldl (fun s i =>
    match s.key (a + 4096 * i) with
    | none => s
    | some k => { s with hbm := if s.hbmFill == 0 then Tab.dropRange s.hbm k 4096
                                else Tab.setManyBy (unlisted s.hbmFill) s.hbm k (zeros 4096)
                         poison := s.poison.filter fun l => l < k / 64 || k / 64 + 64 ≤ l }) s
  s.runAheadConflict a (4096 * pages)
/-- BASE, a multiple of 2 MiB. -/
def State.digBase (s : State) : Nat := s.time.digBase.toNat / 2 ^ 21 * 2 ^ 21
/-- CLEAR_TABLE: accepted while no tun is RUNNING or WAITING (R323). -/
def execClearTable (p : HostPort) (s : State) : Out :=
  .next (s.hostWrite p 0x020020 fun s =>
    if s.tuns.any fun e => match e.2.phase with | .running => true | .waiting => true | _ => false then s
    else (s.hbmZero s.digBase 512).modTime fun t => { t with ringIndex := 0 })
/-- FLAGS of a closure or contribution: bit 0 MV_SEEN, 1 INVALID, 2 HALTED. -/
def closureFlags (c : Closure) (invalid : Bool) : Nat := b2n c.mv + 2 * b2n invalid + 4 * b2n c.halted
/-- XOR of two 64-bit fields. -/
def xor64 (a b : Nat) : Nat := (BitVec.ofNat 64 a ^^^ BitVec.ofNat 64 b).toNat
/-- A closure folded into the 32 bytes of its table entry (R320). -/
def foldEntry (old : List Byte) (c : Closure) (flags : Nat) : List Byte :=
  let old := if natAt old 0x10 4 == c.period.toNat then old else zeros 32
  leBytes 8 (xor64 (natAt old 0 8) c.d.toNat) ++ leBytes 8 (xor64 (natAt old 8 8) c.e.toNat)
    ++ leBytes 4 c.period.toNat ++ leBytes 4 (natAt old 0x14 4 + c.items)
    ++ leBytes 2 (min 65535 (natAt old 0x18 2 + 1)) ++ [BitVec.ofNat 8 (Nat.lor (byteAt old 0x1A) flags)] ++ zeros 5
/-- The address of the next record of the digest ring (R320). -/
def State.digSlot (s : State) : Nat :=
  s.digBase + 2 ^ 21 + 32 * (s.time.ringIndex % (orDefault (s.time.digCfg.toNat % 4096) 1 * 32768))
/-- DIGEST_CLOSURE_WRITE: the ring record and the table entry (R320). Findings 0 and 1 are those of
the record's line, which is written in part, 2 and 3 those of the entry's. The write waits for its
controllers (R392). -/
def execDigestClosureWrite (e : Ecc) (s : State) : Out :=
  match s.time.closures with
  | [] => .next s
  | c :: rest =>
    if !s.alive || !s.hbmReady s.digSlot 32 || !s.hbmReady (s.digBase + 32 * c.layer) 32 then .next s else
    let s := s.modTime fun t => { t with closures := rest }
    let cfg := s.time.digCfg.toNat
    if !bitOf cfg 31 then .next s else
    let flags := closureFlags c s.time.invalid
    let record := leBytes 8 c.d.toNat ++ leBytes 8 c.e.toNat ++ leBytes 4 c.period.toNat ++ leBytes 4 c.items
      ++ leBytes 2 c.layer ++ [BitVec.ofNat 8 flags, BitVec.ofNat 8 c.tun] ++ leBytes 2 s.blockPos ++ zeros 2
    let s := s.ctlWrite s.digSlot record (e.filter (·.1 < 2)) 5 false
    let s := s.modTime fun t => { t with ringIndex := t.ringIndex + 1 }
    let at_ := s.digBase + 32 * c.layer
    let (s, old, bad) := s.ctlRead at_ 32 (eccFrom e 2) 5 .used
    .next (s.ctlWrite at_ (foldEntry old c flags) [] 5 bad)
/-- The pitch group of the active IDENT (R322). -/
def State.activeGroup (s : State) : List Nat :=
  if s.grist.active then pitchGroup s.disc.ring (s.sec_ secIdent) else []
/-- The payload of a KIND 1 frame (R322). -/
def jobPayload (flags layer period d e items members : Nat) : List Byte :=
  [1#8, BitVec.ofNat 8 flags] ++ leBytes 2 layer ++ leBytes 4 period ++ leBytes 8 d ++ leBytes 8 e
    ++ leBytes 4 items ++ leBytes 2 members ++ zeros 2
/-- DIG_REDUCE: this member's table entry goes to the root (R322); where the entry reads back marked
poisoned, the frame leaves with a poisoned tail (R144, R425). -/
def execDigReduce (p : HostPort) (layer : Half) (s : State) : Out :=
  .next (s.hostWrite p 0x020214 fun s =>
    match s.activeGroup with
    | [] => s
    | root :: _ =>
      if s.time.reducing.isSome then s else
      let t := s.hbmBytes (s.digBase + 32 * layer.toNat) 32
      let period := s.time.period.toNat
      let pay := if natAt t 0x10 4 == period
        then jobPayload (byteAt t 0x1A) layer.toNat period (natAt t 0 8) (natAt t 8 8) (natAt t 0x14 4) 1
        else jobPayload 8 layer.toNat period 0 0 0 1
      let s := s.modTime fun t =>
        { t with reducing := some (layer.toNat, s.now), jobValid := false, jobIncomplete := false,
                 partsAt := if root == s.nodeId && t.partsAt.isNone then some s.now else t.partsAt,
                 partsLayer := if root == s.nodeId && t.parts.isEmpty then layer.toNat else t.partsLayer,
                 partsPeriod := if root == s.nodeId && t.parts.isEmpty then period else t.partsPeriod }
      s.source { port := 28, hdr := s.mkHeader 3 10 0x20 root (endpointOf 7 0), payload := pay,
                 tail := if s.anyPoison (s.digBase + 32 * layer.toNat) 32 then s.mkTail 3 4 else {} })
/-- This node is the root of the active pitch group and holds a contribution of every member (R322). -/
def State.digestReady (s : State) : Bool :=
  s.activeGroup.head? == some s.nodeId && s.time.partsAt.isSome && s.time.parts.length == s.activeGroup.length
/-- The root sends the job digest of the contributions held to every member; the run of lauter
unit 0 that reduced them ends (R200, R322). -/
def State.jobDecide (s : State) : State :=
  let ps := s.time.parts
  let d := ps.foldl (fun t x => t ^^^ x.d) 0
  let e := ps.foldl (fun t x => t ^^^ x.e) 0
  let items := ps.foldl (fun t x => t + x.items) 0 % 2 ^ 32
  let flags := ps.foldl (fun t x => Nat.lor t x.flags) 0
  let pay := jobPayload flags s.time.partsLayer s.time.partsPeriod d.toNat e.toNat items ps.length
  let s := (s.endReduction Run.digest).modTime fun t => { t with parts := [], partsAt := none }
  s.activeGroup.foldl (fun s m =>
    s.source { port := 22, hdr := s.mkHeader 3 10 0x21 m (endpointOf 7 0), payload := pay }) s
/-- JOB_DIGEST_CONTRIBUTION: one of each member; another layer or period starts anew (R322). -/
def execJobDigestContribution (k : Nat) (s : State) : Out :=
  match s.inboxFor k [0x20] with
  | none => .next s
  | some x =>
    if byteAt x.payload 0 != 1 then .next s else
    let s := s.taken x
    if x.verdict != 0 || s.activeGroup.head? != some s.nodeId || !s.activeGroup.contains x.hdr.src.toNat then .next s
    else
      let layer := natAt x.payload 2 2
      let period := natAt x.payload 4 4
      let same := s.time.partsLayer == layer && s.time.partsPeriod == period
      let old := if same then s.time.parts else []
      if old.any fun y => y.node == x.hdr.src.toNat then .next s else
      let part : DigPart :=
        { node := x.hdr.src.toNat, flags := byteAt x.payload 1 % 16, d := BitVec.ofNat 64 (natAt x.payload 8 8),
          e := BitVec.ofNat 64 (natAt x.payload 0x10 8), items := natAt x.payload 0x18 4 }
      .next (s.modTime fun t =>
        { t with parts := old ++ [part], partsLayer := layer, partsPeriod := period,
                 partsAt := if t.partsAt.isNone || (!same && !t.parts.isEmpty) then some s.now else t.partsAt })
/-- JOB_DIGEST_TIMEOUT: at the root, 100 ms after the job digest began there (R322). DESIGN CHOICE
(log entry 92): it begins with the root's own REDUCE or the first contribution, whichever is
earlier. -/
def execJobDigestTimeout (s : State) : Out :=
  match s.time.partsAt with
  | none => .next s
  | some t =>
    if !s.alive || s.activeGroup.head? != some s.nodeId then .next s
    else .next (s.after (t + 400000000)).jobDecide
/-- JOB_DIGEST_RESULT: incomplete when it has fewer members than the pitch group (R322, R323). -/
def execJobDigestResult (k : Nat) (s : State) : Out :=
  match s.inboxFor k [0x21] with
  | none => .next s
  | some x =>
    if byteAt x.payload 0 != 1 then .next s else
    let s := s.taken x
    if x.verdict != 0 || s.time.reducing.isNone then .next s else
    let n := natAt x.payload 0x1C 2
    let whole := n == s.activeGroup.length
    .next (s.modTime fun t =>
      { t with reducing := none, jobValid := whole, jobIncomplete := !whole, jobFlags := byteAt x.payload 1 % 16,
               jobLayer := natAt x.payload 2 2, jobD := BitVec.ofNat 64 (natAt x.payload 8 8),
               jobE := BitVec.ofNat 64 (natAt x.payload 0x10 8), jobItems := natAt x.payload 0x18 4, jobMembers := n })

end Sys2Proof.Machine
end

