-- ==== Sys2Proof/Machine/CatchUp.lean ====
section
/-! DEFINITION. Machine/CatchUp.lean: the catch-up engine (R366 to R372), with the two
commands that serve it beside streams and queues (R190, R340). -/
namespace Sys2Proof.Machine

/-! ## The manifest (R367) -/

/-- An entry of the manifest as HBM holds it. -/
def State.cuEntry (s : State) (i : Nat) : CuEntry :=
  let a := s.catchUp.man.toNat + 32 * i
  let b := s.hbmBytes a 32
  { src := natAt b 0 2, kind := byteAt b 2, pages := natAt b 4 4, srcAddr := natAt b 8 8, dst := natAt b 0x10 8,
    digest := natAt b 0x18 8, ok := byteAt b 3 == 0 && !s.anyPoison a 32 }
/-- Bytes of a region. -/
def CuEntry.len (e : CuEntry) : Nat := e.pages * 4096
/-- A region of whole pages inside HBM. -/
def inHbm (a n : Nat) : Bool := a % 4096 == 0 && a + n ≤ 0x18000000000
/-- Two regions meet. -/
def overlap (a n b m : Nat) : Bool := a < b + m && b < a + n
/-- The entry keeps R367, behind the entries `before` it. -/
def State.cuGood (s : State) (before : List CuEntry) (e : CuEntry) : Bool :=
  let j := s.journal
  let ring := j.base.toNat
  let size := j.ringSize
  e.ok && e.src != s.nodeId && s.grist.active && s.present e.src && (e.kind == 1 || e.kind == 2) && 1 ≤ e.pages
    && inHbm e.srcAddr e.len && inHbm e.dst e.len && !before.any (fun x => overlap x.dst x.len e.dst e.len)
    && (if e.kind == 2 then !bitOf j.cfg.toNat 15 && ring ≤ e.dst && e.dst + e.len ≤ ring + size
        else !overlap e.dst e.len ring size)
/-- The first entry that breaks a rule. -/
def State.cuBad (s : State) : List CuEntry → List CuEntry → Nat → Option Nat
  | _, [], _ => none
  | before, e :: es, i => if s.cuGood before e then State.cuBad s (before ++ [e]) es (i + 1) else some i
/-- ENTRIES and OUTST. -/
def CatchUp.count (c : CatchUp) : Nat := c.cfg.toNat % 8192
@[inherit_doc CatchUp.count] def CatchUp.outst (c : CatchUp) : Nat := max 1 (bitsOf c.cfg.toNat 23 16)
/-- CATCHUP_START: accepted in IDLE, COMMITTED and FAILED (R367). -/
def execCatchupStart (p : HostPort) (s : State) : Out :=
  .next (s.hostWrite p 0x33020C fun s =>
    match s.catchUp.phase with
    | .idle | .committed | .failed =>
      let n := s.catchUp.count
      let es := (List.range (min n 4096)).map s.cuEntry
      let s := s.modCu fun c =>
        { c with entry := 0, off := 0, lost := 0xFFFF, done := 0, again := [], entries := es, run := c.run + 1 }
      let at_ := s.catchUp.man.toNat
      let bad := if n == 0 || 4096 < n || !inHbm at_ (32 * n) then some 0 else s.cuBad [] es 0
      match bad with
      | some i => s.modCu fun c => { c with phase := .failed, entry := i }
      | none => s.modCu fun c => { c with phase := .receiving }
    | _ => s)

/-! ## Reading (R368, R371) -/

/-- Reads outstanding, those of an earlier run included. -/
def State.cuOutstanding (s : State) : Nat := (s.granary.resv.filter fun e => e.2.who == .catchUp && e.2.sent).length
/-- Reads of this run outstanding. -/
def State.cuOpen (s : State) : Nat :=
  (s.granary.resv.filter fun e => e.2.who == .catchUp && e.2.sent && e.2.epoch == s.catchUp.run).length
/-- The next read: one to send again, else the next of the manifest: entry, offset, timeouts so far. -/
def CatchUp.nextRead (c : CatchUp) : Option (Nat × Nat × Nat) :=
  match c.again with
  | x :: _ => some x
  | [] => if c.entry < c.entries.length then some (c.entry, c.off, 0) else none
/-- The read `x` has been issued. -/
def CatchUp.advance (c : CatchUp) : CatchUp :=
  match c.again with
  | _ :: rest => { c with again := rest }
  | [] =>
    let len := ((c.entries[c.entry]?).map (·.len)).getD 0
    if c.off + 4096 < len then { c with off := c.off + 4096 } else { c with entry := c.entry + 1, off := 0 }
/-- The engine reserves the reply of its next read and the MEM_REQ leaves (R190, R340, R368). -/
def State.cuIssue (s : State) : State :=
  let c := s.catchUp
  if c.phase != .receiving || c.outst ≤ s.cuOutstanding || !s.alive || s.isFatal then s else
  match c.nextRead with
  | none => s
  | some (i, off, tries) =>
    match c.entries[i]? with
    | none => s
    | some e =>
      let r : Reservation :=
        { cells := 0, who := .catchUp, since := 0, node := e.src, addr := e.dst + off, epoch := c.run,
          index := i, tries := tries, sent := true }
      match s.reserve 29 4096 r with
      | (s, none) => s
      | (s, some tag) =>
        let a := e.srcAddr + off
        let h := { s.mkHeader 3 10 0x12 e.src (endpointOf 3 ((s.stackOf a).getD 0 / 4)) with
                   stream := 0xFFFF, opx := BitVec.ofNat 64 a }
        (s.modCu CatchUp.advance).source
          { port := 29, hdr := h, payload := leBytes 4 4096 ++ leBytes 2 tag ++ zeros 2 }
/-- CATCHUP_READ_ISSUE (R368). -/
def execCatchupReadIssue (s : State) : Out := .next s.cuIssue
/-- REPLY_RESERVE (R190): a request that waits at its source reserves its reply and leaves. -/
def execReplyReserve (r : Requester) (s : State) : Out :=
  match r with
  | .stream k => .next (s.reserveStream k)
  | .queue q => .next (s.reserveQueue q)
  | .catchUp => .next s.cuIssue
/-- MEM_REPLY to a stream queue (R340). -/
def execMemReply (k : Nat) (s : State) : Out :=
  match s.inboxFor k [0x13] with
  | none => .next s
  | some x => .next (if x.hdr.epKind == 2 then s.queueReply x else s)
/-- Every read has been written: the engine verifies (R369). -/
def State.cuSettle (s : State) : State :=
  let c := s.catchUp
  if c.phase == .receiving && c.nextRead.isNone && s.cuOpen == 0
  then s.modCu fun c => { c with phase := .verifying, entry := 0 } else s
/-- CATCHUP_REPLY: the data is written and counted; a reply with a bad verdict is uncorrected
data, written poisoned. Outside RECEIVING, in a later run and in the fatal state it is discarded
(R144, R151, R354, R368, R371); the data waits for its controller (R392). -/
def execCatchupReply (m : Taking) (s : State) : Out :=
  match s.inboxFor m.frame [0x13] with
  | none => .next s
  | some x =>
    if x.hdr.epKind != 5 then .next s else
    let tag := x.hdr.opx.toNat % 65536
    let r? := s.resv tag
    if r?.any (fun r => r.who == .catchUp && r.sent && !s.hbmReady r.addr 4096) then .next s else
    let s := s.taken x
    match r? with
    | none => .next s
    | some r =>
      if r.who != .catchUp || !r.sent then .next s else
      let s := s.modResv tag fun r => { r with sent := false }
      if s.catchUp.phase != .receiving || r.epoch != s.catchUp.run || s.isFatal then .next s else
      let s := s.ctlWrite r.addr (fit 4096 x.payload) m.ecc 5 (x.verdict != 0)
      .next (s.modCu fun c => { c with done := c.done + 4096 }).cuSettle
/-- CATCHUP_READ_TIMEOUT: sent again, at most twice; the third timeout orphans the engine
(R289, R368, R371). -/
def execCatchupReadTimeout (tag : Fin 16384) (s : State) : Out :=
  match s.resv tag with
  | none => .next s
  | some r =>
    if !s.alive || r.who != .catchUp || !r.sent || s.core.frames.any (fun f => f.tag == some tag.val) then .next s else
    let s := (s.after (r.since + 40000000)).replyLost tag
    if s.catchUp.phase != .receiving || r.epoch != s.catchUp.run || s.isFatal then .next s
    else if r.tries < 2 then
      let off := r.addr - ((s.catchUp.entries[r.index]?).map (·.dst)).getD 0
      .next (s.modCu fun c => { c with again := c.again ++ [(r.index, off, r.tries + 1)] })
    else
      .next ((s.modCu fun c => { c with phase := .orphaned, lost := r.node, entry := r.index, again := [] }).raise 1764 0)

/-! ## Verifying and abandoning (R369, R372) -/

/-- The entries of a journal region, walked by their padded sizes, are sound; `n` bounds them. -/
def walkGood (s : State) : Nat → Nat → Nat → Bool
  | 0, a, e => e ≤ a
  | n + 1, a, e =>
    if e ≤ a then true else
    let h := s.hbmBytes a 64
    natAt h 0 4 == 0x4B534143 && natAt h 0x3C 4 == crc32c (h.take 0x3C)
      && walkGood s n (a + entrySize (natAt h 0x14 4)) e
/-- A received region holds what its entry says (R369). -/
def State.cuHolds (s : State) (e : CuEntry) : Bool :=
  !s.anyPoison e.dst e.len && crc64 (s.hbmBytes e.dst e.len) == e.digest
    && (e.kind != 2 || walkGood s e.pages e.dst (e.dst + e.len))
/-- CATCHUP_VERIFY_COMPLETE (R369); it waits for the controllers (R392), and the fatal state has
stopped the engine (R354). -/
def execCatchupVerifyComplete (s : State) : Out :=
  if !s.alive || s.catchUp.phase != .verifying || s.isFatal then .next s else
  if !(s.catchUp.entries.all fun e => s.regionReady e.dst e.len) then .next s else
  match s.catchUp.entries.findIdx? fun e => !s.cuHolds e with
  | some i => .next ((s.modCu fun c => { c with phase := .failed, entry := i }).raise 1786 0)
  | none => .next (s.modCu fun c => { c with phase := .committed })
/-- CATCHUP_ABANDON (R372). -/
def execCatchupAbandon (p : HostPort) (s : State) : Out :=
  .next (s.hostWrite p 0x33020C fun s =>
    match s.catchUp.phase with
    | .receiving | .verifying | .orphaned | .failed => s.modCu fun c => { c with phase := .abandoning, again := [], run := c.run + 1 }
    | _ => s)
/-- CATCHUP_ZEROED: every destination region of the manifest holds zeros (R372). -/
def execCatchupZeroed (s : State) : Out :=
  if !s.alive || s.catchUp.phase != .abandoning || s.isFatal then .next s else
  if !(s.catchUp.entries.all fun e => s.regionReady e.dst e.len) then .next s else
  let s := s.catchUp.entries.foldl (fun s e => if inHbm e.dst e.len then s.hbmZero e.dst e.pages else s) s
  .next (s.modCu fun c => { c with phase := .idle })

end Sys2Proof.Machine
end

