-- ==== Sys2Proof/Machine/Recipes.lean ====
section
/-! DEFINITION. Machine/Recipes.lean: lauter runs (R197 to R202, R208, R225, R226) and
the recipe instructions (R203 to R223). -/
namespace Sys2Proof.Machine

/-! ## The recipe of a run (R203 to R205) -/

/-- The recipe that unit `u` holds in a slot. -/
def State.recipe (s : State) (u slot : Nat) : Option RecipeRec :=
  if !s.grist.active then none else (recipeRecs (s.sec_ secRecipe)).1.find? fun r => r.unit == u && r.slot == slot
/-- The slot bound to context `x` of unit `u`; 0xFF none. -/
def State.boundSlot (s : State) (u x : Nat) : Nat := if s.grist.active then s.field secRecipe (256 * u + x) 1 else 0xFF
/-- The recipe format version in force (R204). -/
def State.recipeVersion (s : State) : Nat := (Tab.get ⟨0, {}⟩ s.grist.sections secRecipe).ver
/-- Instruction word `i` of a recipe. -/
def State.recipeWord (s : State) (rr : RecipeRec) (i : Nat) : Nat := s.field secRecipe (rr.at_ + 0x50 + 4 * i) 4
/-- Fields of an instruction word. -/
def recOp (w : Nat) : Nat := w / 2 ^ 26
@[inherit_doc recOp] def recMv (w : Nat) : Bool := bitOf w 25
@[inherit_doc recOp] def recD (w : Nat) : Nat := bitsOf w 24 21
@[inherit_doc recOp] def recA (w : Nat) : Nat := bitsOf w 20 17
@[inherit_doc recOp] def recB (w : Nat) : Nat := bitsOf w 16 13
@[inherit_doc recOp] def recF (w : Nat) : Nat := bitsOf w 12 9
@[inherit_doc recOp] def recS (w : Nat) : Bool := bitOf w 8
@[inherit_doc recOp] def recX (w : Nat) : Nat := w % 256

/-! ## Loops and indices (R207) -/

/-- The index of the loop of a kind, 0 outside one. -/
def Run.idx (r : Run) (kind : Nat) : Nat := ((r.loops.find? fun l => l.kind == kind).map (·.iter)).getD 0
/-- The position m. -/
def Run.m (r : Run) : Nat := r.idx 2
/-- The beat loop in force, if any, its width and index. -/
def Run.beat (r : Run) : Nat × Nat :=
  match r.loops.find? fun l => l.kind < 2 with
  | some l => (if l.kind == 0 then 256 else 512, l.iter)
  | none => (256, 0)
/-- The bytes of contribution `i`. -/
def Run.contrib (r : Run) (i : Nat) : List Byte := ((r.contribs[i]?).map (·.bytes)).getD []
/-- L_max. -/
def Run.lMax (r : Run) : Nat := r.contribs.foldl (fun t c => max t c.bytes.length) 0
/-- Record size of a LOOP word. -/
def loopRecSize (w : Nat) : Nat := 4 * 2 ^ bitsOf w 14 13
/-- The iterations of a LOOP word. -/
def Run.iterations (r : Run) (w : Nat) : Nat :=
  let recs := r.contribs.map fun c => c.bytes.length / loopRecSize w
  match recF w with
  | 0 => ceilDiv r.lMax 256
  | 1 => ceilDiv r.lMax 512
  | 2 => r.contribs.length
  | 3 => ceilDiv (recs.foldl max 0) 64
  | 4 => orDefault (bitsOf w 24 13) 4096
  | _ => ceilDiv (recs.foldl (· + ·) 0) 64
/-- A LOOP at word `pc` of a recipe of `n` words breaks R207. -/
def Run.loopBroken (r : Run) (w n : Nat) : Bool :=
  let x := recX w
  x == 0 || n ≤ r.pc + x || 3 ≤ r.loops.length || r.loops.any (fun l => l.kind == recF w)
    || (match r.loops with | l :: _ => l.last < r.pc + x | [] => false)
    || ((recF w == 3 || recF w == 5) && bitsOf w 14 13 == 3)
/-- The next word after the one before `pc`: a loop whose body ends there goes round or
ends. -/
def closeLoops (pc : Nat) : List RecLoop → Nat × List RecLoop
  | [] => (pc, [])
  | l :: ls =>
    if pc != l.last + 1 then (pc, l :: ls)
    else if l.iter + 1 < l.total then (l.first, { l with iter := l.iter + 1 } :: ls)
    else closeLoops pc ls
/-- The run goes on at word `pc`. -/
def Run.goto (r : Run) (pc : Nat) : Run :=
  let (pc, ls) := closeLoops pc r.loops
  { r with pc := pc, loops := ls }

/-! ## Registers and views (R206) -/

/-- The format has 64-bit elements. -/
def fmt64 (f : Nat) : Bool := fmtBits f == 64
/-- Bytes of a register in the view of a format. -/
def viewBytes (f : Nat) : Nat := if fmt64 f then 512 else 256
/-- The lanes of a register. -/
def Run.lanes (r : Run) (reg : Nat) : List Nat := (List.range 64).map fun i => (Tab.get 0 r.v (64 * reg + i)).toNat
/-- Write the lanes of a register; those not given become 0. -/
def Run.setLanes (r : Run) (reg : Nat) (xs : List Nat) : Run :=
  { r with v := (List.range 64).foldl (fun t i => Tab.set 0 t (64 * reg + i) (BitVec.ofNat 64 (xs.getD i 0))) r.v }
/-- A register as bytes in the view of a format. -/
def Run.regBytes (r : Run) (reg f : Nat) : List Byte := (r.lanes reg).flatMap (leBytes (if fmt64 f then 8 else 4))
/-- The numbers of `n` little-endian bytes each that a byte string holds; `k` of them. -/
def numbersOf (n : Nat) : Nat → List Byte → List Nat
  | 0, _ => []
  | k + 1, bs => leNat (bs.take n) :: numbersOf n k (bs.drop n)
/-- Load a register from bytes in the view of a format. -/
def Run.setBytes (r : Run) (reg f : Nat) (bs : List Byte) : Run :=
  r.setLanes reg (numbersOf (if fmt64 f then 8 else 4) 64 bs)
/-- The elements of a byte string in the view of a format. -/
def elemsOf (f : Nat) (bs : List Byte) : List Nat := numbersOf (fmtBits f / 8) (viewBytes f / (fmtBits f / 8)) bs
/-- Elements as bytes. -/
def bytesOf (f : Nat) (xs : List Nat) : List Byte := xs.flatMap (leBytes (fmtBits f / 8))
/-- The bytes that LD loads (R211). -/
def Run.beatBytes (r : Run) (f : Nat) : List Byte :=
  let (w, b) := r.beat
  sliceB (r.contrib r.m) (w * b) (viewBytes f)
/-- The bytes of operand B: VB, or the stream operand. -/
def Run.operandB (r : Run) (w : Nat) : List Byte :=
  if recS w then r.beatBytes (recF w) else r.regBytes (recB w) (recF w)
/-- The elements of VA and of operand B. -/
def Run.elemsA (r : Run) (w : Nat) : List Nat := elemsOf (recF w) (r.regBytes (recA w) (recF w))
@[inherit_doc Run.elemsA] def Run.elemsB (r : Run) (w : Nat) : List Nat := elemsOf (recF w) (r.operandB w)
/-- The elements of VD. -/
def Run.elemsD (r : Run) (w : Nat) : List Nat := elemsOf (recF w) (r.regBytes (recD w) (recF w))
/-- Write VD element by element. -/
def Run.setElems (r : Run) (w : Nat) (xs : List Nat) : Run := r.setBytes (recD w) (recF w) (bytesOf (recF w) xs)
/-- Write VD with results and flags: the run and the flags together. -/
def Run.setFlagged (r : Run) (w : Nat) (xs : List (Nat × Nat)) : Run × Nat :=
  (r.setElems w (xs.map (·.1)), xs.foldl (fun t x => Nat.lor t x.2) 0)

/-! ## Legality (R209, R210) -/

/-- Every format of R206. -/
def recAll : List Nat := [0, 1, 2, 9, 10, 11, 12, 13]
/-- The key formats. -/
def recKeys : List Nat := [0, 9, 10, 11, 12, 13]
/-- First version, formats (none: F is unused) and MV mark (none: either) of an opcode. -/
def recInfo (op : Nat) : Option (Nat × Option (List Nat) × Option Bool) :=
  match op with
  | 0x00 => some (1, none, some false) | 0x01 => some (1, some [0, 1, 2, 3, 4, 5], some false)
  | 0x02 => some (1, some recAll, some false) | 0x03 => some (2, some recKeys, some false)
  | 0x04 => some (1, some recAll, some false) | 0x05 => some (2, some recKeys, some false)
  | 0x06 => some (2, none, some false) | 0x07 => some (1, none, some false) | 0x08 => some (2, none, some true)
  | 0x10 => some (1, some [0, 1, 2, 13], some false) | 0x11 => some (1, some [0, 1, 2, 13], some false)
  | 0x12 => some (2, some [0, 1, 2], some false) | 0x13 => some (2, some [0, 1, 2], some false)
  | 0x14 => some (1, some [9, 10], some false) | 0x15 => some (1, some recAll, some false)
  | 0x16 => some (1, some recAll, some false) | 0x18 => some (1, some [0], some false)
  | 0x19 => some (1, some [0], some false) | 0x1A => some (1, some [0], some false)
  | 0x1B => some (1, some recAll, some false) | 0x1C => some (1, some recAll, some false)
  | 0x1D => some (1, some [0], some false) | 0x1E => some (2, some recAll, some false)
  | 0x20 => some (2, some [0], some false) | 0x21 => some (2, some recKeys, some false)
  | 0x22 => some (2, some recKeys, some false) | 0x23 => some (2, some recKeys, none)
  | 0x24 => some (2, some recKeys, some false) | 0x28 => some (2, some [0, 1], some true)
  | _ => none
/-- Masks of the fields. -/
def mD : Nat := 0x1E00000
@[inherit_doc mD] def mA : Nat := 0x1E0000
@[inherit_doc mD] def mB : Nat := 0x1E000
@[inherit_doc mD] def mF : Nat := 0x1E00
@[inherit_doc mD] def mS : Nat := 0x100
/-- The bits below MV that an instruction uses. -/
def recUsed (op w : Nat) : Nat :=
  let b := if recS w then mS else mB + mS
  match op with
  | 0x01 => mF + 0xFF + (match recF w with | 3 => 0x6000 | 5 => 0x6000 | 4 => 0x1FFE000 | _ => 0)
  | 0x02 => mD + mF | 0x03 => mD + mF + 3 | 0x04 => mA + mF | 0x05 => mA + mF + 3
  | 0x10 => mD + mF + b | 0x11 => mD + mA + mF + b | 0x12 => mF + b
  | 0x13 => mD + mF + (if recF w == 0 then 1 else 0)
  | 0x14 => mD + mA + mF + b | 0x15 => mD + mA + mF + b + 4 | 0x16 => mD + mA + mF + b + 4
  | 0x18 => mD + mA + mF + b | 0x19 => mD + mA + mF + b | 0x1A => mD + mA + mF + b
  | 0x1B => mD + mA + mF + b + 7 | 0x1C => mD + mA + mF + b
  | 0x1D => mD + mF + 1 + (if bitOf w 0 then 0 else mA)
  | 0x1E => mD + mF + 7 | 0x20 => mD + mA + mF + b + 3 | 0x21 => mD + mA + mF + 4 | 0x22 => mD + mF + 7
  | 0x23 => 2 ^ 21 + mA + mF + 0xFF | 0x24 => mD + mA + mF + 0xFF | 0x28 => mA + mF
  | _ => 0
/-- The record layout X[1:0] does not fit the key format (R218). -/
def layoutBad (f x : Nat) : Bool :=
  match x % 4 with
  | 0 => false
  | 1 => fmt64 f
  | 2 => !fmt64 f
  | _ => true
/-- A register pair starts at V15. -/
def pairBad (op w : Nat) : Bool :=
  match op with
  | 0x03 => recD w == 15 | 0x05 => recA w == 15 | 0x21 => recD w == 15 || recA w == 15 | 0x22 => recD w == 15
  | 0x23 => recA w == 15 | 0x24 => recD w == 15 | 0x20 => bitOf w 0 && (recD w == 15 || recA w == 15)
  | _ => false
/-- The cause for which an instruction is illegal, the lowest of those that hold (R209). -/
def recIllegal (ver words : Nat) (r : Run) (w : Nat) : Option Nat :=
  let op := recOp w
  match recInfo op with
  | none => some 1
  | some (v, fs, mv) =>
    let f := recF w
    firstSome [need (v ≤ ver) 1,
      need (Nat.land (w % 2 ^ 25) (recUsed op w) == w % 2 ^ 25) 2,
      need (match mv with | some b => recMv w == b | none => true) 3,
      need ((match fs with | some l => l.contains f | none => true)
        && !((op == 0x03 || op == 0x05 || op == 0x22) && layoutBad f (recX w))) 4,
      need (!pairBad op w && (op != 0x23 || match r.topX with | some (k, _) => k == recX w + 1 | none => true)) 5,
      need (op != 0x01 || !r.loopBroken w words) 6,
      need (op != 0x12 || r.xadds < 2 ^ 42) 7]
/-- The cycles that an instruction occupies (R208, R210). -/
def Run.cost (r : Run) (w : Nat) : Nat :=
  let wide := if fmt64 (recF w) then 2 else 1
  let beats (n : Nat) : Nat := ceilDiv n 256
  let recSize := fmtBits (recF w) / 8 + 4 * (recX w % 4)
  match recOp w with
  | 0x02 => wide | 0x03 => recSize / 4
  | 0x04 => b2n r.lastEmit | 0x05 => b2n r.lastEmit | 0x06 => b2n r.lastEmit
  | 0x07 => beats (r.contrib r.m).length
  | 0x08 => r.contribs.foldl (fun t c => t + beats c.bytes.length) 0
  | 0x12 => 2 | 0x13 => 2 | 0x20 => 2 | 0x21 => 8 | 0x22 => 4 + ceilDiv r.contribs.length 16
  | 0x23 => 4 | 0x24 => 4
  | 0x00 => 0 | 0x01 => 0
  | 0x18 => 1 | 0x19 => 1 | 0x1A => 1 | 0x1D => 1 | 0x1E => 1 | 0x28 => 1
  | _ => wide

/-! ## Exceptions and the end of a run (R201, R202, R208, R225, R226) -/

/-- LTR_RESIDUE and LTR_LAST as numbers. -/
def Lauter.residueReg (l : Lauter) : Nat := l.failed * 65536 + l.retried
@[inherit_doc Lauter.residueReg] def Lauter.lastReg (l : Lauter) : Nat := l.lastCyc * 65536 + l.lastCtx * 256 + l.lastVer
/-- The port of unit `u`'s run cannot take the bytes of its output: a partial on VC 8, a result
on VC 9 (R182, R208). -/
def State.emitWaits (s : State) (u : Nat) (r : Run) : Bool :=
  match s.group? r.group with
  | none => false
  | some g => s.portBusy (22 + u) (if (g.above r.level).isSome then 8 else 9)
/-- A run that waited for its port goes on: the cycles that have passed count (R208). -/
def State.resumed (s : State) (u : Nat) (r : Run) : Run :=
  if r.waiting then
    { r with waiting := false, cycles := max r.cycles ((s.now - r.start) * s.mhz (216 + u) / 4000) }
  else r
/-- A run leaves the pipeline of unit `u` with a verdict. -/
def State.runLeaves (s : State) (u : Nat) (r : Run) (cycles v : Nat) : State :=
  (s.after (r.start + cycles * 4000 / s.mhz (216 + u))).modLauter u fun l =>
    { l with run := none, runs := (l.runs + 1) % 2 ^ 32, lastCyc := min 65535 cycles, lastCtx := r.ctx % 256, lastVer := v }
/-- The output of a run goes to its chunk. -/
def State.runResult (s : State) (r : Run) (bytes : List Byte) (v reason marker : Nat) (final : Bool) : State :=
  match s.group? r.group with
  | none => s
  | some g => s.runOutput r.ctx r.chunk r.level r.ordinal r.epoch g bytes v reason marker final
/-- A run is closed with the verdict poisoned, REASON 0 and this node (R226). -/
def State.closeRun (s : State) (u : Nat) (r : Run) : State :=
  (s.runLeaves u r r.cycles 3).runResult r r.out 3 0 s.nodeId true
/-- Close the run in progress of unit `u` and drop a retry that waits (R226, R354, R392). -/
def State.closeLauter (s : State) (u : Nat) : State :=
  let l := s.lauter u
  let s := match l.run with
    | some r => if r.vote || r.digest then s.modLauter u fun l => { l with run := none } else s.closeRun u r
    | none => s
  match l.retry with
  | some r => (s.modLauter u fun l => { l with retry := none }).runResult r [] 3 0 s.nodeId true
  | none => s
/-- A lauter exception of the run `r` (R226): it ends, its output is closed, its context
takes no further chunk, and LTR_EXC latches the first. -/
def State.lauterExc (s : State) (u : Nat) (r : Run) (kind cause pc : Nat) : State :=
  let s := s.closeRun u r
  let s := s.modLauter u fun l =>
    { l with shut := insNat (r.ctx % 256) l.shut,
             exc := if bitOf l.exc.toNat 31 then l.exc ||| word (2 ^ 30)
               else word (2 ^ 31 + kind * 2 ^ 26 + r.slot % 64 * 2 ^ 20 + r.ctx % 256 * 2 ^ 12 + cause * 2 ^ 8 + pc) }
  s.raise (srcLauter u 1) (s.lauter u).exc.toNat
/-- The output of a run, cut or padded under TRIM (R201). -/
def Run.output (r : Run) : List Byte := if r.trim then fit r.lMax r.out else r.out
/-- A run as it stands before its first instruction (R199). -/
def Run.fresh (r : Run) : Run :=
  { ctx := r.ctx, slot := r.slot, retry := r.retry, group := r.group, ordinal := r.ordinal, chunk := r.chunk,
    epoch := r.epoch, level := r.level, contribs := r.contribs, start := r.start, trim := r.trim }
/-- The run has executed its last instruction (R208): its tail is sent, and a first
mismatch repeats it. -/
def State.endRun (s : State) (u : Nat) (r : Run) : State :=
  match r.contribs.find? fun c => c.verdict != 0 with
  | some c => (s.runLeaves u r (r.cycles + 4) c.verdict).runResult r r.output c.verdict c.reason c.marker true
  | none =>
    if !r.failed then
      let s := (s.runLeaves u r (r.cycles + 4) 0).runResult r r.output 0 0 0xFFFF true
      if r.retry then (s.modHealth fun h => { h with retried := h.retried + 1 }).raise (srcLauter u 0) (s.lauter u).residueReg
      else s
    else if !r.retry then
      let s := (s.runLeaves u r (r.cycles + 4) 3).modLauter u fun l =>
        { l with retried := satInc 16 l.retried, retry := some { r.fresh with retry := true } }
      s.runResult r r.output 3 6 s.nodeId false
    else
      (s.modLauter u fun l => { l with failed := satInc 16 l.failed }).lauterExc u { r with cycles := r.cycles + 4, out := r.output } 3 0 0

/-! ## Starting runs (R198, R200) -/

/-- A granted chunk of context `c` is ready: its run has its inputs and the node may send the
partial (R198, R238). -/
def State.chunkReady (s : State) (c : Nat) (x : Ctx) (k : Chunk) : Bool :=
  k.state == 0 && k.parts.length == k.nm &&
    match s.group? x.group with
    | none => false
    | some r =>
      match r.above k.level with
      | none => true
      | some l => match r.homeFor r.present k.index l s.nodeId with
        | none => false
        | some h => s.holdsGrant x.ordinal x.round (partialKey c k.level) h k.index
/-- The ready chunks of unit `u`: (ordinal, chunk index, context, level). -/
def State.readyChunks (s : State) (u : Nat) : List (Nat × Nat × Nat × Nat) :=
  s.col.ctxs.flatMap fun e =>
    if e.1 / 256 != u || !e.2.serving || (s.lauter u).shut.contains (e.1 % 256) then []
    else (e.2.chunks.filter fun k => s.chunkReady e.1 e.2 k).map fun k => (e.2.ordinal, k.index, e.1, k.level)
/-- The first of ready chunks: lowest ordinal, then lowest chunk index. -/
def firstReady : List (Nat × Nat × Nat × Nat) → Option (Nat × Nat × Nat × Nat)
  | [] => none
  | x :: xs =>
    match firstReady xs with
    | none => some x
    | some y => if y.1 < x.1 || (y.1 == x.1 && y.2.1 < x.2.1) then some y else some x
/-- Sort contributions by ascending rank. -/
def insContrib (c : Contribution) : List Contribution → List Contribution
  | [] => [c]
  | d :: ds => if c.rank < d.rank then c :: d :: ds else d :: insContrib c ds
/-- RECIPE_RUN_START: in the order of R200; a chunk whose slot holds no recipe raises
recipe missing. -/
def execRecipeRunStart (u : Fin 4) (s : State) : Out :=
  let l := s.lauter u
  if !s.alive || s.isFatal || l.run.isSome || l.retry.isSome then .next s
  else if u.val == 0 && s.voteReady then
    .next (s.modLauter u fun l => { l with run := some { vote := true, start := s.now } })
  else if u.val == 0 && s.digestReady then
    .next (s.modLauter u fun l => { l with run := some { digest := true, start := s.now } })
  else if s.proving && s.health.stage == 3 then .next s
  else match firstReady (s.readyChunks u) with
    | none => .next s
    | some (ord, n, c, lv) =>
      let x := s.ctx c
      match x.chunk? n lv with
      | none => .next s
      | some k =>
        let slot := s.boundSlot u (c % 256)
        let run : Run :=
          { ctx := c, slot := slot % 64, group := x.group, ordinal := ord, chunk := n, epoch := s.colEpoch x.round,
            level := lv, contribs := k.parts.foldr insContrib [], start := s.now }
        let s := s.modChunk c n lv fun k => { k with state := 1 }
        match s.recipe u slot with
        | none => .next (s.lauterExc u { run with cycles := 0 } 4 0 0)
        | some rr =>
          .next (s.modLauter u fun l => { l with run := some { run with trim := bitOf (s.field secRecipe (rr.at_ + 4) 2) 0 } })
/-- RECIPE_RUN_END: after END or the last word, once the port can take the tail; an opcode that
is not in the table ends the run by an exception (R182, R208, R209). A job-digest reduction ends
with its result (R322). -/
def execRecipeRunEnd (u : Fin 4) (s : State) : Out :=
  match (s.lauter u).run with
  | none => .next s
  | some r =>
    if !s.alive || r.vote then .next s
    else if r.digest then .next (if s.digestReady then s.jobDecide else s.endReduction Run.digest) else
    match s.recipe u r.slot with
    | none => .next s
    | some rr =>
      if r.ended || rr.words ≤ r.pc then
        .next (if s.emitWaits u r then s.modLauter u fun l => { l with run := some { r with waiting := true } }
          else s.endRun u (s.resumed u r))
      else if (recInfo (recOp (s.recipeWord rr r.pc))).isNone then .next (s.lauterExc u r 1 1 r.pc)
      else .next s
/-- RESIDUE_RETRY: the run is repeated, ahead of every other chunk (R200, R225). -/
def execResidueRetry (u : Fin 4) (s : State) : Out :=
  let l := s.lauter u
  match l.run, l.retry with
  | none, some r =>
    if !s.alive then .next s else
    .next (s.modLauter u fun l => { l with run := some { r with start := s.now }, retry := none })
  | _, _ => .next s

/-! ## Executing an instruction -/

/-- Execute the instruction at the run's place when its opcode is `op` (R208, R209,
R223): the effect answers the run and the flags it sets. An emit waits for its port; an executed
MV instruction is recorded (R314, R316). -/
def State.recipeStep (s : State) (u op : Nat) (act : RecipeRec → Nat → Run → Run × Nat) : State :=
  match (s.lauter u).run with
  | none => s
  | some r =>
    if !s.alive || r.vote || r.digest || r.ended then s else
    match s.recipe u r.slot with
    | none => s
    | some rr =>
      let w := s.recipeWord rr r.pc
      if rr.words ≤ r.pc || recOp w != op then s else
      match recIllegal s.recipeVersion rr.words r w with
      | some c => s.lauterExc u r 1 c r.pc
      | none =>
        if recMv w && s.strict then s.lauterExc u r 2 0 r.pc
        else if 4 ≤ op && op ≤ 8 && s.emitWaits u r then
          s.modLauter u fun l => { l with run := some { r with waiting := true } }
        else
        let r := s.resumed u r
        let s := if recMv w then ((s.modTime fun t => { t with mvLtr := true }).hwSet 0x20210 (2 ^ 30)).mark 8 else s
        let r1 := { r with cycles := r.cycles + r.cost w, lastEmit := 4 ≤ op && op ≤ 6 }
        let (r2, fl) := act rr w r1
        let r3 := if op == 0x01 then r2 else r2.goto (r2.pc + 1)
        (s.modLauter u fun l => { l with run := some r3 }).setLtrFlags u fl
/-- An instruction without flags. -/
def State.recipeOp (s : State) (u op : Nat) (act : Nat → Run → Run) : State :=
  s.recipeStep u op fun _ w r => (act w r, 0)
/-- The residue check finds a mismatch in an add of this instruction (R224, R225). -/
def Run.checked (bad : Bool) (r : Run) : Run := { r with failed := r.failed || bad }

/-- END: the run has executed its last instruction (R205). -/
def execRecEnd (u : Fin 4) (s : State) : Out := .next (s.recipeOp u 0x00 fun _ r => { r with ended := true })
/-- LOOP: the body begins, or is skipped when there is no iteration (R207). -/
def execRecLoop (u : Fin 4) (s : State) : Out :=
  .next (s.recipeOp u 0x01 fun w r =>
    let n := r.iterations w
    let last := r.pc + recX w
    if n == 0 then r.goto (last + 1)
    else { r with pc := r.pc + 1,
                  loops := ⟨recF w, r.pc + 1, last, 0, n, loopRecSize w⟩ :: r.loops })
/-- LD (R211). -/
def execRecLd (u : Fin 4) (s : State) : Out :=
  .next (s.recipeOp u 0x02 fun w r => r.setBytes (recD w) (recF w) (r.beatBytes (recF w)))

/-! ## Records (R217 to R221) -/

/-- Key bytes of a format. -/
def keyBytes (f : Nat) : Nat := fmtBits f / 8
/-- Record size of a format and layout. -/
def recordSize (f x : Nat) : Nat := keyBytes f + 4 * (x % 4)
/-- Key and value of record `i` of a byte string. -/
def recordAt (f x : Nat) (bs : List Byte) (i : Nat) : Nat × Nat :=
  let o := recordSize f x * i
  (natAt bs o (keyBytes f), natAt bs (o + keyBytes f) (4 * (x % 4)))
/-- u of a key (R217). -/
def keyOrder (f k : Nat) : Nat :=
  let n := fmtBits f
  if f == 11 || f == 12 then k
  else if f == 9 || f == 10 then (k + 2 ^ (n - 1)) % 2 ^ n
  else if bitOf k (n - 1) then 2 ^ n - 1 - k else k + 2 ^ (n - 1)
/-- The pairs that a register pair holds in lanes 0 to `n` − 1: keys in the view of format `f`,
values of 32 bits, or of 64 beside a 64-bit key (R206). -/
def Run.pairs (r : Run) (f reg n : Nat) : List (Nat × Nat) :=
  let key (x : Nat) : Nat := x % 2 ^ fmtBits f
  (List.zip ((r.lanes reg).map key) ((r.lanes (reg + 1)).map key)).take n
/-- Write a register pair. -/
def Run.setPairs (r : Run) (reg : Nat) (ps : List (Nat × Nat)) : Run :=
  (r.setLanes reg (ps.map (·.1))).setLanes (reg + 1) (ps.map (·.2))
/-- LDR (R218). -/
def execRecLdr (u : Fin 4) (s : State) : Out :=
  .next (s.recipeOp u 0x03 fun w r =>
    let f := recF w
    let x := recX w
    let bs := r.contrib r.m
    let j := r.idx 3
    let n := min 64 (bs.length / recordSize f x - 64 * j)
    { r.setPairs (recD w) ((List.range n).map fun i => recordAt f x bs (64 * j + i)) with c0 := n })
/-- EMIT (R211). -/
def execRecEmit (u : Fin 4) (s : State) : Out :=
  .next (s.recipeOp u 0x04 fun w r => { r with out := r.out ++ r.regBytes (recA w) (recF w) })
/-- EMITR (R218). -/
def execRecEmitr (u : Fin 4) (s : State) : Out :=
  .next (s.recipeOp u 0x05 fun w r =>
    { r with out := r.out ++ (r.pairs (recF w) (recA w) r.c0).flatMap fun p =>
        leBytes (keyBytes (recF w)) p.1 ++ leBytes (4 * (recX w % 4)) p.2 })
/-- EMITC (R218). -/
def execRecEmitc (u : Fin 4) (s : State) : Out :=
  .next (s.recipeOp u 0x06 fun _ r => { r with out := r.out ++ leBytes 8 (r.total % 2 ^ 32) })
/-- CAT (R211). -/
def execRecCat (u : Fin 4) (s : State) : Out :=
  .next (s.recipeOp u 0x07 fun _ r => { r with out := r.out ++ r.contrib r.m })
/-- Insert a contribution in the order of arrival; of contributions whose tails arrived in the
same core cycle the one that stands first, the lower position, stays first (R211, R220). DEDUCED:
the cycle is the Maltings cycle in which the port receives the tail. -/
def insArrival (c : Contribution) : List Contribution → List Contribution
  | [] => [c]
  | d :: ds => if c.order ≤ d.order then c :: d :: ds else d :: insArrival c ds
/-- CATA (R211). -/
def execRecCata (u : Fin 4) (s : State) : Out :=
  .next (s.recipeOp u 0x08 fun _ r => { r with out := r.out ++ (r.contribs.foldr insArrival []).flatMap (·.bytes) })

/-! ## Arithmetic (R212 to R216) -/

/-- An add in a format (R212). -/
def addIn (f a b : Nat) : Nat × Nat :=
  let (v, g) := fvAdd (fvOf f a) (fvOf f b)
  let (x, h) := convertFv f none false v
  (x, Nat.lor g h)
/-- The copy of FACC at m = 0. -/
def copyIn (f a : Nat) : Nat × Nat :=
  match fvOf f a with
  | .nan => (canonNan f, if isSnan f a then 8 else 0)
  | _ => (a, 0)
/-- FACC (R212). -/
def execRecFacc (u : Fin 4) (bad : Bool) (s : State) : Out :=
  .next (s.recipeStep u 0x10 fun _ w r =>
    let r := r.checked bad
    if r.m == 0 then r.setFlagged w ((r.elemsB w).map (copyIn (recF w)))
    else r.setFlagged w (List.zipWith (addIn (recF w)) (r.elemsD w) (r.elemsB w)))
/-- FADD (R212). -/
def execRecFadd (u : Fin 4) (bad : Bool) (s : State) : Out :=
  .next (s.recipeStep u 0x11 fun _ w r =>
    (r.checked bad).setFlagged w (List.zipWith (addIn (recF w)) (r.elemsA w) (r.elemsB w)))
/-- One element into lane `i` of XACC (R213). -/
def Run.xaddOne (f : Nat) (r : Run) (i x : Nat) : Run :=
  match fvOf f x with
  | .nan => { r with xnan := Tab.set false r.xnan i true }
  | .inf neg => if neg then { r with xninf := Tab.set false r.xninf i true } else { r with xpinf := Tab.set false r.xpinf i true }
  | .fin neg m e => { r with xacc := Tab.mod 0 r.xacc i (· + signedAt neg m e (-149)) }
/-- Elements from lane `i` on into XACC. -/
def Run.xaddAll (f : Nat) : Run → Nat → List Nat → Run
  | r, _, [] => r
  | r, i, x :: xs => Run.xaddAll f (r.xaddOne f i x) (i + 1) xs
/-- XADD (R213, R214). -/
def execRecXadd (u : Fin 4) (bad : Bool) (s : State) : Out :=
  .next (s.recipeStep u 0x12 fun _ w r =>
    let xs := r.elemsB w
    ({ (r.checked bad).xaddAll (recF w) 0 xs with xadds := r.xadds + 1 },
     if xs.any (isSnan (recF w)) then 8 else 0))
/-- Lane `k` of XACC rounded into a format (R213). -/
def Run.xround (r : Run) (f k : Nat) : Nat × Nat :=
  let nan := Tab.get false r.xnan k
  let p := Tab.get false r.xpinf k
  let n := Tab.get false r.xninf k
  let a := Tab.get 0 r.xacc k
  if nan || (p && n) then (canonNan f, if nan then 0 else 8)
  else if p then convertFv f none false (.inf false)
  else if n then convertFv f none false (.inf true)
  else convertFv f none false (.fin (a < 0) a.natAbs (-149))
/-- XEMIT (R213). -/
def execRecXemit (u : Fin 4) (s : State) : Out :=
  .next (s.recipeStep u 0x13 fun _ w r =>
    let f := recF w
    let first := if f == 0 then 64 * (recX w % 2) else 0
    let n := if f == 0 then 64 else 128
    let (r, fl) := r.setFlagged w ((List.range n).map fun i => r.xround f (first + i))
    ({ r with xacc := [], xnan := [], xpinf := [], xninf := [], xadds := 0 }, fl))
/-- A wrapping signed add at a width, with OF (R215). -/
def iaddIn (n a b : Nat) : Nat × Nat :=
  let x := ofTwos n a + ofTwos n b
  (twos n x, b2n (decide (x < -(2 ^ (n - 1)) || (2 ^ (n - 1) : Int) ≤ x)))
/-- IADD (R215). -/
def execRecIadd (u : Fin 4) (bad : Bool) (s : State) : Out :=
  .next (s.recipeStep u 0x14 fun _ w r =>
    (r.checked bad).setFlagged w (List.zipWith (iaddIn (fmtBits (recF w))) (r.elemsA w) (r.elemsB w)))
/-- The lesser of two elements (R216), or the greater. -/
def pickIn (f : Nat) (keyed greater : Bool) (a b : Nat) : Nat :=
  let float := (floatFmt f).isSome
  if !keyed && float && (fvOf f a == .nan || fvOf f b == .nan) then canonNan f
  else
    let less := keyOrder f b < keyOrder f a
    if less != greater then b else a
/-- MIN (R216). -/
def execRecMin (u : Fin 4) (s : State) : Out :=
  .next (s.recipeOp u 0x15 fun w r =>
    r.setElems w (List.zipWith (pickIn (recF w) (bitOf w 2) false) (r.elemsA w) (r.elemsB w)))
/-- MAX (R216). -/
def execRecMax (u : Fin 4) (s : State) : Out :=
  .next (s.recipeOp u 0x16 fun w r =>
    r.setElems w (List.zipWith (pickIn (recF w) (bitOf w 2) true) (r.elemsA w) (r.elemsB w)))
/-- Operand B as lanes of 64 bits, in the view of format 0. -/
def Run.lanesB (r : Run) (w : Nat) : List Nat :=
  if recS w then numbersOf 4 64 (r.beatBytes 0) else r.lanes (recB w)
/-- AND (R216). -/
def execRecAnd (u : Fin 4) (s : State) : Out :=
  .next (s.recipeOp u 0x18 fun w r => r.setLanes (recD w) (List.zipWith Nat.land (r.lanes (recA w)) (r.lanesB w)))
/-- OR (R216). -/
def execRecOr (u : Fin 4) (s : State) : Out :=
  .next (s.recipeOp u 0x19 fun w r => r.setLanes (recD w) (List.zipWith Nat.lor (r.lanes (recA w)) (r.lanesB w)))
/-- XOR (R216). -/
def execRecXor (u : Fin 4) (s : State) : Out :=
  .next (s.recipeOp u 0x1A fun w r => r.setLanes (recD w) (List.zipWith Nat.xor (r.lanes (recA w)) (r.lanesB w)))
/-- A predicate on two elements: 0 EQ, 1 NE, 2 LT, 3 LE (R216). -/
def cmpIn (f x a b : Nat) : Bool :=
  let float := (floatFmt f).isSome && !bitOf x 2
  let half := 2 ^ (fmtBits f - 1)
  let k (v : Nat) : Nat := if float && v % half == 0 then half else keyOrder f v
  if float && (fvOf f a == .nan || fvOf f b == .nan) then x % 4 == 1
  else match x % 4 with
    | 0 => k a == k b
    | 1 => k a != k b
    | 2 => k a < k b
    | _ => k a ≤ k b
/-- CMP (R216). -/
def execRecCmp (u : Fin 4) (s : State) : Out :=
  .next (s.recipeOp u 0x1B fun w r =>
    r.setElems w (List.zipWith (fun a b => if cmpIn (recF w) (recX w) a b then 2 ^ fmtBits (recF w) - 1 else 0)
      (r.elemsA w) (r.elemsB w)))
/-- SEL (R216). -/
def execRecSel (u : Fin 4) (s : State) : Out :=
  .next (s.recipeOp u 0x1C fun w r =>
    r.setElems w (List.zipWith (fun d p => if d != 0 then p.1 else p.2) (r.elemsD w) (List.zip (r.elemsA w) (r.elemsB w))))
/-- MOVV (R211). -/
def execRecMovv (u : Fin 4) (s : State) : Out :=
  .next (s.recipeOp u 0x1D fun w r => r.setLanes (recD w) (if bitOf w 0 then [] else r.lanes (recA w)))
/-- MOVC (R211). -/
def execRecMovc (u : Fin 4) (s : State) : Out :=
  .next (s.recipeStep u 0x1E fun rr w r =>
    let c := s.field secRecipe (rr.at_ + 0x10 + 8 * (recX w % 8)) 8
    let f := recF w
    (r.setElems w (List.replicate (viewBytes f / keyBytes f) (c % 2 ^ fmtBits f)), 0))
/-- COMPACT (R221). -/
def execRecCompact (u : Fin 4) (s : State) : Out :=
  .next (s.recipeOp u 0x20 fun w r =>
    let n := if bitOf w 1 then r.c0 else 64
    let two := bitOf w 0
    let ps := List.zip (r.lanes (recA w)) (if two then r.lanes (recA w + 1) else List.replicate 64 0)
    let kept := ((List.zip ps (r.lanesB w)).take n).filterMap fun x => if x.2 != 0 then some x.1 else none
    let r := if two then r.setPairs (recD w) kept else r.setLanes (recD w) (kept.map (·.1))
    { r with c0 := kept.length, total := (r.total + kept.length) % 2 ^ 32 })
/-- Insert into a list sorted by key, before the items that do not precede it; folding
from the right keeps equal keys in their order. -/
def insKey (f : Nat) (down : Bool) (p : Nat × Nat) : List (Nat × Nat) → List (Nat × Nat)
  | [] => [p]
  | q :: qs =>
    let after := if down then keyOrder f p.1 < keyOrder f q.1 else keyOrder f q.1 < keyOrder f p.1
    if after then q :: insKey f down p qs else p :: q :: qs
/-- SORT (R219). -/
def execRecSort (u : Fin 4) (s : State) : Out :=
  .next (s.recipeOp u 0x21 fun w r =>
    r.setPairs (recD w) ((r.pairs (recF w) (recA w) r.c0).foldr (insKey (recF w) (bitOf w 2)) []))
/-- The member whose head record a MERGE step picks: least key, then least position. -/
def Run.mergePick (r : Run) (f x : Nat) (down : Bool) : Option Nat :=
  (List.range r.contribs.length).foldl (fun best m =>
    let head (i : Nat) : Nat := keyOrder f (recordAt f x (r.contrib i) (Tab.get 0 r.cursors i)).1
    if (r.contrib m).length / recordSize f x ≤ Tab.get 0 r.cursors m then best
    else match best with
      | none => some m
      | some b => if (if down then head b < head m else head m < head b) then some m else some b) none
/-- At most `n` records of a MERGE step. -/
def Run.mergeTake (f x : Nat) (down : Bool) : Nat → Run → Run × List (Nat × Nat)
  | 0, r => (r, [])
  | n + 1, r =>
    match r.mergePick f x down with
    | none => (r, [])
    | some m =>
      let p := recordAt f x (r.contrib m) (Tab.get 0 r.cursors m)
      let (r, ps) := Run.mergeTake f x down n { r with cursors := Tab.mod 0 r.cursors m (· + 1) }
      (r, p :: ps)
/-- MERGE (R219). -/
def execRecMerge (u : Fin 4) (s : State) : Out :=
  .next (s.recipeOp u 0x22 fun w r =>
    let (r, ps) := r.mergeTake (recF w) (recX w) (bitOf w 2) 64
    { r.setPairs (recD w) ps with c0 := ps.length, total := (r.total + ps.length) % 2 ^ 32 })
/-- Record `a` stands before record `b` in T (R220). -/
def topBefore (f : Nat) (small : Bool) (a b : TopRec) : Bool :=
  let x := keyOrder f a.key
  let y := keyOrder f b.key
  if x != y then (if small then x < y else y < x)
  else if a.rank != b.rank then a.rank < b.rank
  else if a.index != b.index then a.index < b.index
  else a.born < b.born
/-- Insert a record into T. -/
def insTop (f : Nat) (small : Bool) (a : TopRec) : List TopRec → List TopRec
  | [] => [a]
  | b :: bs => if topBefore f small a b then a :: b :: bs else b :: insTop f small a bs
/-- TOPK (R220). -/
def execRecTopk (u : Fin 4) (s : State) : Out :=
  .next (s.recipeOp u 0x23 fun w r =>
    let k := recX w + 1
    let small := bitOf (recD w) 0
    let rank := if recMv w then
        ((r.contribs.foldr insArrival []).findIdx? fun c => some c.rank == (r.contribs[r.m]?).map (·.rank)).getD 0
      else r.m
    let ps := r.pairs (recF w) (recA w) r.c0
    let news := (List.range ps.length).map fun i =>
      let p := ps.getD i (0, 0)
      ({ key := p.1, val := p.2, rank := rank, index := 64 * r.idx 3 + i, born := r.born + i } : TopRec)
    { r with top := news.foldl (fun t a => (insTop (recF w) small a t).take k) r.top, topX := some (k, b2n small),
             born := r.born + ps.length })
/-- TOPKE (R220). -/
def execRecTopke (u : Fin 4) (s : State) : Out :=
  .next (s.recipeOp u 0x24 fun w r =>
    let ps := ((r.top.drop (64 * (recX w % 4))).take 64).map fun t => (t.key, t.val)
    { r.setPairs (recD w) ps with c0 := ps.length, total := (r.total + ps.length) % 2 ^ 32 })

/-! ## HATOM (R222) -/

/-- HATOM: four lines of adds leave for their controllers. -/
def execRecHatom (u : Fin 4) (s : State) : Out :=
  let l := s.lauter u
  let s' := s.recipeStep u 0x28 fun _ _ r => (r, 0)
  match l.run with
  | none => .next s'
  | some r =>
    match s.recipe u r.slot with
    | none => .next s'
    | some rr =>
      let w := s.recipeWord rr r.pc
      if (s'.lauter u).run.isNone || s'.lauter u == l then .next s' else
      let base := s.field secRecipe (rr.at_ + 8) 8 + 256 * (r.beat).2
      let bs := r.regBytes (recA w) (recF w)
      .next { s' with atoms := s'.atoms ++ (List.range 4).map fun i => ⟨u, base + 64 * i, recF w, sliceB bs (64 * i) 64⟩ }
/-- An earlier line of the same unit waits for the same controller (R13). -/
def State.atomBehind (s : State) (k : Nat) (a : AtomAdd) : Bool :=
  (s.atoms.take k).any fun b => b.unit == a.unit && s.stackOf b.addr == s.stackOf a.addr
/-- HBM_ATOMIC_ADD: the controller adds one line of a HATOM into the stored values, a unit's
lines in the order in which it sent them (R13, R119, R142, R222, R425). -/
def execHbmAtomicAdd (k : Nat) (e : Ecc) (s : State) : Out :=
  match s.atoms[k]? with
  | none => .next s
  | some a =>
    let served : Bool := match s.stackOf a.addr with | some n => !s.asleep (n / 4) | none => true
    if !s.alive || !served || !s.hbmReady a.addr 64 || s.atomBehind k a then .next s else
    let s := { s with atoms := s.atoms.eraseIdx k }
    if (s.stackOf a.addr).isNone then .next s else
    let (s, old, bad) := s.ctlRead a.addr 64 e (s.freeNat % 8) .used
    let n := fmtBits a.fmt / 8
    let sum := List.zipWith (fun x y => (addIn a.fmt x y).1) (numbersOf n (64 / n) old) (numbersOf n (64 / n) a.bytes)
    .next ((s.useFree).ctlWrite a.addr (sum.flatMap (leBytes n)) [] 0 bad)

end Sys2Proof.Machine
end

