-- ==== Sys2Proof/Machine/Collective.lean ====
section
/-! DEFINITION. Machine/Collective.lean: the commands of collectives: sending, granting
and reserving (R232, R242, R243), what arrives (R234, R245 to R249), the instances of a
context (R241), the stall (R244) and the COL block's commands (R247 to R249, R252). -/
namespace Sys2Proof.Machine

/-! ## Sending (R232, R233, R243) -/

/-- The place after a frame of `len` bytes. -/
def State.placeAfter (s : State) (r : GroupRec) (i : Issue) (p : SrcPlace) (len : Nat) : SrcPlace :=
  if !endsChunk r.chunk len (p.offset + len) then { p with offset := p.offset + len }
  else if p.chunk + 1 < i.chunks then { p with chunk := p.chunk + 1, offset := 0 }
  else if p.pos + 1 < (s.issuesOf r.id).length then { round := p.round, pos := p.pos + 1 }
  else { round := p.round + 1 }
/-- A collective binding sends the next frame of its chunk, once the frame's entries are
there and R243 allows the chunk. -/
def State.sendFromBinding (s : State) (t q : Nat) : State :=
  match s.sourceAt t q with
  | none => s
  | some (r, i, p) =>
    match r.combining.head?.bind (fun l => r.homeFor r.present p.chunk l s.nodeId |>.map fun h => (l, h)),
        positionIn r.present s.nodeId with
    | some (l, h), some pos =>
      let len := min 4096 (chunkBytes r i p.chunk - p.offset)
      let whole := endsChunk r.chunk len (p.offset + len)
      let x := (s.tun t).queue q
      let es := (x.far.map (·.1) ++ x.near).take (len / 64)
      if !s.mayContribute t q || s.bindingBusy t q || (s.grist.frozen && p.offset == 0) || es.length * 64 < len then s
      else
        let j := ((colBindingsIn (s.sec_ secPartition) r.id).findIdx? fun b => b == (t, q)).getD 0
        let f : SrcFrame :=
          { port := widePort t (s.binding t q).alt,
            hdr := s.colHeader r 0x30 h ((r.ctxAt l).getD 0) p.chunk i.ord (s.colEpoch p.round) (pos * 32 + j),
            payload := es.flatMap entryBytes, binding := some (t, q) }
        (s.modCol fun c =>
          { c with sources := Tab.set {} c.sources (bindKey t q) (s.placeAfter r i p len),
                   sent := if whole then Tab.set none c.sent (bindKey t q) (some p) else c.sent }).source f
    | _, _ => s
/-- The lowest contributor rank in the domain of this node at level `l` (R238). -/
def State.partialRank (s : State) (r : GroupRec) (l : Nat) : Nat :=
  let ps := r.present
  match ps.find? fun p => p.node == s.nodeId with
  | none => 0
  | some me => ((ps.findIdx? fun p => p.key l == me.key l).getD 0) * 32
/-- The frame that context `c` sends next at level `m`, of the partial of its lowest chunk
there, with the state after it; none while R243, the freeze or its port keeps it (R182). -/
def State.sendFromLevel (s : State) (c m : Nat) : Option State :=
  let x := s.ctx c
  match x.chunks.find? (·.level == m), s.group? x.group with
  | some k, some r =>
    match k.out, r.above m with
    | (bytes, v, reason, marker) :: rest, some l =>
      match r.homeFor r.present k.index l s.nodeId with
      | none => none
      | some h =>
        if !s.holdsGrant x.ordinal x.round (partialKey c m) h k.index || !s.resultReserved r x.ordinal x.round k.index
            || !s.roundOpen x.round || (s.grist.frozen && k.sentTo == 0) || s.portBusy (ctxPort c) 8 then none
        else
          let piece := (((bytes.take r.chunk).drop k.sentTo).take 4096)
          let last := endsChunk r.chunk piece.length (k.sentTo + piece.length)
          let t : Tail := if last && v != 0 then
              { verdict := BitVec.ofNat 8 v, reason := BitVec.ofNat 8 reason, marker := BitVec.ofNat 16 marker } else {}
          let f : SrcFrame :=
            { port := ctxPort c,
              hdr := s.colHeader r 0x30 h ((r.ctxAt l).getD 0) k.index x.ordinal (s.colEpoch x.round)
                (s.partialRank r m),
              payload := piece, tail := t }
          let s := s.modChunk c k.index m fun k =>
            if last then { k with out := rest, sentTo := 0 } else { k with sentTo := k.sentTo + piece.length }
          some ((s.source f).settleChunks c)
    | _, _ => none
  | _, _ => none
/-- A combining context sends the next frame of a partial, of the lowest level that may. -/
def State.sendFromContext (s : State) (c : Nat) : State :=
  ((s.ctx c).levels.findSome? fun m => s.sendFromLevel c m).getD s
/-- COLLECTIVE_SEND (R232, R243). -/
def execCollectiveSend (c : ColSource) (s : State) : Out :=
  match c with
  | .binding t q => if !s.tunActs t || q.val < 48 then .next s else .next (s.sendFromBinding t q)
  | .context u x => if !s.alive then .next s else .next (s.sendFromContext (256 * u + x))

/-! ## Instances, grants and reservations (R241, R242) -/

/-- The runs that this node performs on context `c` for an issue: its group and their levels. -/
def State.servesOn (s : State) (c : Nat) (i : Issue) : Option (GroupRec × List Nat) :=
  (s.group? i.group).bind fun r =>
    let ls := r.combining.filter fun l =>
      r.ctxAt l == some c && (r.nextHome r.present l s.nodeId i.chunks 0).isSome
    if ls.isEmpty then none else some (r, ls)
/-- The issue of the lowest ordinal. -/
def lowestIssue : List Issue → Option Issue
  | [] => none
  | i :: is => match lowestIssue is with | some j => if j.ord < i.ord then some j else some i | none => some i
/-- The instance after `last` at context `c`: its round and issue (R241). -/
def State.nextInstance (s : State) (c : Nat) : Option (Nat × Issue) :=
  let is := s.issues.filter fun i => (s.servesOn c i).isSome
  let at_ (r : Nat) (ok : Issue → Bool) : Option (Nat × Issue) :=
    (lowestIssue (is.filter fun i => ok i && !s.isAbandoned i.ord r)).map fun i => (r, i)
  match (s.ctx c).last with
  | none => at_ 0 fun _ => true
  | some (r, o) => match at_ r fun i => o < i.ord with
    | some x => some x
    | none => at_ (r + 1) fun _ => true
/-- NM of a run of this node at level `l` (R238). -/
def State.inputCount (s : State) (r : GroupRec) (l : Nat) : Nat :=
  match r.present.find? fun p => p.node == s.nodeId with
  | some p => r.nmOf r.present l p
  | none => 0
/-- Context `c` begins its next instance, unless it belongs to a round that is not served. -/
def State.beginInstance (s : State) (c : Nat) : State :=
  match s.nextInstance c with
  | none => s
  | some (round, i) =>
    match s.servesOn c i with
    | none => s
    | some (r, ls) =>
      if !s.roundOpen round then s else
      s.modCtx c fun x =>
        { serving := true, ordinal := i.ord, group := r.id, levels := ls, nm := s.inputCount r (ls.headD 0),
          round := round, last := x.last }
/-- The issue of the current instance of a context. -/
def State.ctxIssue (s : State) (x : Ctx) : Option Issue :=
  (s.issuesOf x.group).find? fun i => i.ord == x.ordinal
/-- What is left of the minimum of context `c` after its frames and reservations (R242). -/
def State.unusedMin (s : State) (c : Nat) : Nat :=
  let granted := (s.ctx c).chunks.foldl (fun t k => t + k.resv) 0
  let results := s.col.resHeld.foldl (fun t x =>
    if ((s.group? x.group).map (·.ctx0)) == some c then t + x.cells else t) 0
  s.ownMin (256 + c) - s.used (256 + c) - granted - results
/-- The cells of one result reservation that this node makes at CTX_0 `c` (R242). -/
def State.resultNeed (s : State) (c : Nat) : Nat :=
  ((groupRecs (s.sec_ secGroup)).filter fun r => r.ctx0 == c && (s.nextReceived r 0).isSome).foldl
    (fun t r => max t (needCells r.chunk)) 0
/-- Cells that a grant on context `c` leaves so that the minimum holds a result reservation
beside it, and those that a result reservation leaves for a grant (R242). -/
def State.leftForResult (s : State) (c : Nat) : Nat :=
  if s.col.resHeld.any fun x => ((s.group? x.group).map (·.ctx0)) == some c then 0 else s.resultNeed c
@[inherit_doc State.leftForResult] def State.leftForGrant (s : State) (c : Nat) : Nat :=
  if !(s.ctx c).chunks.isEmpty then 0 else grantNeed (groupRecs (s.sec_ secGroup)) s.nodeId c
/-- The next chunk of the current instance of a context: lowest index, then lowest level (R242). -/
def State.nextGrant (s : State) (r : GroupRec) (x : Ctx) (chunks : Nat) : Option (Nat × Nat) :=
  x.levels.foldl (fun best l =>
    match r.nextHome r.present l s.nodeId chunks (Tab.get 0 x.nextN l), best with
    | some n, some (m, _) => if n < m then some (n, l) else best
    | some n, none => some (n, l)
    | none, _ => best) none
/-- A grant is held: it replaces an older one of the same home and source. -/
def State.addGrant (s : State) (g : Grant) : State :=
  s.modCol fun c =>
    let same (x : Grant) : Bool := x.ordinal == g.ordinal && x.key == g.key && x.from_ == g.from_
    let old := ((c.grants.find? fun x => same x && x.epoch == g.epoch).map (·.upTo)).getD 0
    { c with grants := c.grants.filter (fun x => !same x) ++ [{ g with upTo := max old g.upTo }] }
/-- CHUNK_GRANT: the next chunk of the current instance of context `c` is granted to all
its inputs (R242). -/
def execChunkGrant (c : Fin 1024) (s : State) : Out :=
  if !s.alive || s.isFatal || s.grist.frozen || (s.lauter (c / 256)).shut.contains (c % 256) then .next s else
  let s := if (s.ctx c).serving then s else s.beginInstance c
  let x := s.ctx c
  if !x.serving || !s.roundOpen x.round then .next s else
  match s.group? x.group, s.ctxIssue x with
  | some r, some i =>
    let ps := r.present
    let me := s.nodeId
    match s.nextGrant r x i.chunks with
    | none => .next s
    | some (n, l) =>
      let nm := s.inputCount r l
      let cells := nm * needCells r.chunk
      if s.unusedMin c < cells + s.leftForResult c then .next s else
      let epoch := s.colEpoch x.round
      let s := s.modCtx c fun x =>
        { x with chunks := x.chunks ++ [{ index := n, level := l, nm := nm, since := s.now, resv := cells }],
                 granted := x.granted + 1, nextN := Tab.set 0 x.nextN l (n + 1),
                 indices := if x.indices.contains n then x.indices else x.indices ++ [n] }
      let s := s.modCol fun y => { y with grantedSincePitch := true }
      let low := (r.below l).bind r.ctxAt
      let s := ((r.inputs ps l n me).map (·.2)).eraseDups.foldl (fun s d =>
        if d == me then
          s.addGrant { ordinal := i.ord, epoch := epoch, from_ := me, upTo := n, key := r.sourceKey l }
        else s.source { port := ctxPort c, hdr := s.colHeader r 0x32 d (low.getD r.ctx0) n i.ord epoch noRank,
                        payload := [] }) s
      .next s
  | _, _ => .next s
/-- RESULT_RESERVE: NEED cells of CTX_0 for the next chunk whose result this node receives (R242). -/
def execResultReserve (g : Fin 4096) (s : State) : Out :=
  match s.group? g with
  | none => .next s
  | some r =>
    if !s.alive || s.isFatal then .next s else
    match s.recvFrom r (Tab.get {} s.col.resNext g) with
    | none => .next s
    | some p =>
      match (s.issuesOf g)[p.pos]? with
      | none => .next s
      | some i =>
        let cells := needCells r.chunk
        if !s.roundOpen p.round || s.isAbandoned i.ord p.round
            || s.unusedMin r.ctx0 < cells + s.leftForGrant r.ctx0 then .next s
        else .next (s.modCol fun c =>
          { c with resHeld := c.resHeld ++ [{ group := g, ordinal := i.ord, epoch := s.colEpoch p.round,
                                              chunk := p.chunk, cells := cells }],
                   resNext := Tab.set {} c.resNext g { p with chunk := p.chunk + 1 } })
/-- CONTEXT_ADVANCE: the current instance has ended and its results have been sent on (R241). -/
def execContextAdvance (c : Fin 1024) (s : State) : Out :=
  let x := s.ctx c
  if !s.alive || !x.serving then .next s else
  match s.group? x.group, s.ctxIssue x with
  | some r, some i =>
    if !x.chunks.isEmpty || (s.nextGrant r x i.chunks).isSome
        || (r.delivery == 0 && !x.indices.all x.forwarded.contains) then .next s
    else .next ((s.modCtx c fun x => { last := some (x.round, x.ordinal) }).beginInstance c)
  | _, _ => .next s

/-! ## Frames that arrive -/

/-- The ordinal of a collective frame. -/
def InFrame.ord (x : InFrame) : Nat := x.hdr.opx.toNat % 2 ^ 32
/-- Its rank. -/
def InFrame.rank (x : InFrame) : Nat := x.hdr.opx.toNat / 2 ^ 32
/-- A collective frame is taken by its endpoint. One of another generation is discarded
and counted; `act` has the others (R249). -/
def State.takeCol (s : State) (k op : Nat) (act : InFrame → State → State) : State :=
  match s.inboxFor k [op] with
  | none => s
  | some x =>
    let s := s.taken x
    if x.hdr.epoch.toNat / 32 != s.col.gen then
      (s.modCol fun c => { c with stale := satInc 16 c.stale }).dropHold k
    else act x s
/-- A contribution with one more frame: the first verdict that is not good stands. -/
def Contribution.add (c : Contribution) (k : Nat) (x : InFrame) : Contribution :=
  { c with bytes := c.bytes ++ x.payload, frames := c.frames ++ [k], order := x.cycle,
           verdict := if c.verdict != 0 then c.verdict else x.verdict,
           reason := if c.verdict != 0 then c.reason else x.reason,
           marker := if c.verdict != 0 then c.marker else x.marker }
/-- The granted chunk of a context to which a contribution belongs: of the lowest level whose run
has this input and still lacks it (R238). -/
def State.chunkFor (s : State) (r : GroupRec) (y : Ctx) (x : InFrame) : Option Chunk :=
  y.chunks.find? fun ch =>
    ch.index == x.hdr.seq.toNat && ch.state == 0 && !ch.parts.any (fun p => p.rank == x.rank)
      && (r.inputs r.present ch.level ch.index s.nodeId).contains (x.rank, x.hdr.src.toNat)
/-- A CONTRIB frame that has reached context `c` (R245, R246). -/
def State.takeContrib (s : State) (c k : Nat) (x : InFrame) : State :=
  let y := s.ctx c
  match (s.group? y.group).bind fun r => (s.chunkFor r y x).map fun ch => (r, ch) with
  | some (r, ch) =>
    if !y.serving || y.ordinal != x.ord || y.group != x.hdr.stream.toNat || x.hdr.epoch.toNat != s.colEpoch y.round
      then s.dropHold k
    else
      let p := (((ch.open_.find? fun p => p.rank == x.rank).getD { rank := x.rank, bytes := [] }).add k x)
      let rest := ch.open_.filter fun p => p.rank != x.rank
      if !endsChunk r.chunk x.payload.length p.bytes.length then
        s.modChunk c ch.index ch.level fun ch => { ch with open_ := rest ++ [p] }
      else if p.verdict == 3 && p.reason == 6 && !ch.superseded.contains x.rank then
        -- the retry's cells are reserved again (R242, R245)
        let back := s.cellsOfFrames p.frames
        p.frames.foldl State.dropHold
          ((s.modChunk c ch.index ch.level fun ch =>
              { ch with open_ := rest, superseded := ch.superseded ++ [x.rank], resv := ch.resv + back }).modCol
            fun z => { z with superseded := min 65535 (z.superseded + p.frames.length) })
      else s.modChunk c ch.index ch.level fun ch => { ch with open_ := rest, parts := ch.parts ++ [p] }
  | none => s.dropHold k
/-- CONTRIB (R246). -/
def execContrib (k : Nat) (s : State) : Out :=
  .next (s.takeCol k 0x30 fun x s => s.takeContrib (x.hdr.epIdx % 1024) k x)
/-- A RESULT frame that has reached this node (R234). -/
def State.takeResult (s : State) (k : Nat) (x : InFrame) : State :=
  let g := x.hdr.stream.toNat
  let n := x.hdr.seq.toNat
  let e := x.hdr.epoch.toNat
  let same (y : HeldResult) : Bool := y.group == g && y.ordinal == x.ord && y.epoch == e && y.chunk == n
  let old := s.col.results.find? same
  match s.group? g with
  | none => s.dropHold k
  | some r =>
    if s.col.abandoned.contains (x.ord, e) || ((old.map (·.complete)).getD false) then s.dropHold k else
    let y := old.getD { group := g, ordinal := x.ord, epoch := e, chunk := n }
    let bad := y.verdict != 0
    let y := { y with bytes := y.bytes ++ x.payload, frames := y.frames ++ [k],
                      verdict := if bad then y.verdict else x.verdict, reason := if bad then y.reason else x.reason,
                      marker := if bad then y.marker else x.marker }
    let s := s.modCol fun c => { c with results := c.results.filter fun z => !same z }
    if endsChunk r.chunk x.payload.length y.bytes.length then
      s.resultHere (ctxPort r.ctx0) r x.ord e n y.bytes y.verdict y.reason y.marker y.frames false
    else s.modCol fun c => { c with results := c.results ++ [y] }
/-- RESULT (R234). -/
def execResult (k : Nat) (s : State) : Out := .next (s.takeCol k 0x31 fun x s => s.takeResult k x)
/-- The source that a GRANT addresses: its key (R242). -/
def State.grantKey (s : State) (x : InFrame) : Option Nat :=
  (s.group? x.hdr.stream.toNat).bind fun r =>
    let n := x.hdr.seq.toNat
    let keys := r.combining.filterMap fun l =>
      let low := (r.below l).bind r.ctxAt
      if r.homeFor r.present n l s.nodeId == some x.hdr.src.toNat && low.getD r.ctx0 == x.hdr.epIdx % 1024
      then some (r.sourceKey l) else none
    let held (key : Nat) : Bool := s.col.grants.any fun g =>
      g.ordinal == x.ord && g.epoch == x.hdr.epoch.toNat && g.key == key && g.from_ == x.hdr.src.toNat && n ≤ g.upTo
    match keys.find? fun key => !held key with
    | some key => some key
    | none => keys.head?
/-- GRANT (R243). -/
def execGrant (k : Nat) (s : State) : Out :=
  .next (s.takeCol k 0x32 fun x s =>
    let s := s.dropHold k
    match s.grantKey x with
    | none => s
    | some key => s.addGrant { ordinal := x.ord, epoch := x.hdr.epoch.toNat, key := key,
                               from_ := x.hdr.src.toNat, upTo := x.hdr.seq.toNat })
/-- RETRACT (R248); one without a rank abandons every open instance (R294). -/
def execRetract (k : Nat) (s : State) : Out :=
  .next (s.takeCol k 0x33 fun x s =>
    let s := (s.dropHold k).retracted x.ord x.hdr.epoch.toNat x.hdr.src.toNat
    if x.rank == noRank then s.abandon s.openInstances else s)

/-! ## Stopping and stalling (R244, R248) -/

/-- Context `c` is idle: it serves nothing, or an instance that it may not begin, and no
instance of a round that still runs is left to it (R248). -/
def State.ctxIdle (s : State) (c : Nat) : Bool :=
  let x := s.ctx c
  if x.serving then x.granted == 0 && !s.roundOpen x.round
  else match s.nextInstance c with
    | none => true
    | some (round, _) => !s.roundOpen round
/-- COLLECTIVE_STOP: after a retraction, once every context is idle, its reservations are
returned and no frame is held (R248). -/
def execCollectiveStop (s : State) : Out :=
  if !s.alive || s.col.stopped || s.col.stopRound.isNone || !s.col.resHeld.isEmpty || !s.col.results.isEmpty
      || s.core.frames.any (fun f => 256 ≤ f.owner && f.owner < 1280) || !s.col.ctxs.all fun e => s.ctxIdle e.1 then .next s
  else .next (s.modCol fun c => { c with stopped := true })
/-- The ordinals held at a source of this node (R244). -/
def State.heldOrdinals (s : State) : List Nat :=
  let bs := (List.range 192).flatMap fun t => (List.range 16).filterMap fun b =>
    match s.sourceAt t (48 + b) with
    | some (_, i, _) =>
      let x := (s.tun t).queue (48 + b)
      if (!x.near.isEmpty || !x.far.isEmpty) && !s.mayContribute t (48 + b) then some i.ord else none
    | none => none
  let cs := s.col.ctxs.filterMap fun e =>
    if e.2.serving && e.2.chunks.any fun k =>
        !k.out.isEmpty || (k.state == 0 && k.parts.length == k.nm && !s.chunkReady e.1 e.2 k)
    then some e.2.ordinal else none
  bs ++ cs
/-- COLLECTIVE_STALL: a granted chunk is not ready within the stall limit (R244). -/
def execCollectiveStall (c : Fin 1024) (s : State) : Out :=
  let x := s.ctx c
  if !s.alive || !x.serving then .next s else
  match x.chunks.find? fun k => k.state == 0 && !k.stalled && !s.chunkReady c x k with
  | none => .next s
  | some k =>
    let s := (s.after (k.since + s.colStallTicks)).modChunk c k.index k.level fun k => { k with stalled := true }
    let block := match s.heldOrdinals with | o :: os => os.foldl min o | [] => 0xFFFFFFFF
    .next ((s.modCol fun y =>
      let y := { y with stall := true }
      if bitOf y.stallCtx.toNat 31 then y
      else { y with stallOrd := word x.ordinal, stallBlock := word block, stallCtx := word (2 ^ 31 + c) }).raise 1761 0)

/-! ## The COL block's commands -/

/-- The rounds of this node are counted from round `base` on. -/
def State.colRebase (s : State) (base : DWord) : State :=
  s.modCol fun c =>
    { c with round := base, ctxs := [], resNext := [], resHeld := [], resWant := [], deliver := [], sources := [],
             sent := [] }
/-- RESET and COL_ROUND writes: nothing granted since the last pitch. -/
def State.colFresh (s : State) : Bool := !s.col.grantedSincePitch
/-- COL_RESET (R249). -/
def execColReset (p : HostPort) (s : State) : Out :=
  .next (s.hostWrite p 0x3C0004 fun s =>
    if !s.col.stopped && !s.colFresh then s else
    let r := s.curRound
    let s := s.colEmpty.modCol fun c =>
      { c with gen := (c.gen + 1) % 8, shut := c.stopped, round := c.round + BitVec.ofNat 64 r, stopRound := c.stopRound.map (· - r) }
    (List.range 4).foldl (fun s u => s.modLauter u fun l =>
      { l with shut := [], run := l.run.filter fun r => r.vote || r.digest, retry := none }) s)
/-- COL_RESUME (R249). -/
def execColResume (p : HostPort) (s : State) : Out :=
  .next (s.hostWrite p 0x3C0004 fun s =>
    if s.col.retracted then s else s.modCol fun c => { c with stopped := false, stopRound := none, shut := false })
/-- COL_RETRACT_GO (R247). -/
def execColRetractGo (p : HostPort) (epoch : Byte) (s : State) : Out :=
  .next (s.hostWrite p 0x3C0014 fun s =>
    let ord := s.col.retractOrd.toNat
    match ((jobTable (s.sec_ secOrdinal)).find? fun j => j.1 == ord).bind fun j => s.group? j.2 with
    | none => s
    | some r => s.sendRetract r ord epoch.toNat (((positionIn r.present s.nodeId).getD 0) * 32) true)
/-- COL_ROUND as it reads. -/
def State.colRound (s : State) : DWord := s.col.round + BitVec.ofNat 64 s.curRound
/-- COL_ROUND_WRITE: accepted while idle and stopped, or before the first grant after a
pitch (R252). -/
def execColRoundWrite (p : HostPort) (high : Bool) (v : Word) (s : State) : Out :=
  .next (s.hostWrite p 0x3C0008 fun s =>
    s.pairWrite p 0x3C0008 high v s.colRound fun d s =>
      if (s.col.stopped && s.busyCount == 0) || s.colFresh then s.colRebase d else s)

end Sys2Proof.Machine
end

