-- ==== Sys2Proof/Machine/Faults.lean ====
section
/-! DEFINITION. Machine/Faults.lean: faults taken (R350 to R354), FAULT_N (R352), the
cellar book (R355 to R361), health (R362, R363), hold and the proving run (R364, R365). -/
namespace Sys2Proof.Machine

/-! ## The cellar book (R356 to R360) -/

/-- A record as it would stand now. -/
def State.bookRec (s : State) (kind trigger source cls detail : Nat) : BookRec :=
  { kind := kind, trigger := trigger, source := source, cls := cls, cycles := s.book.cycles, firstS := s.book.seconds,
    lastS := s.book.seconds, detail := detail, node := s.nodeId, score := s.health.score, seq := s.grist.seq.toNat,
    stamp := s.time.ftc }
/-- Two records are occurrences of one fault or event (R358). -/
def BookRec.same (x y : BookRec) : Bool :=
  x.kind == y.kind && x.trigger == y.trigger && (x.kind == 2 || x.source == y.source)
/-- A repeat of the most recent record (R358). -/
def BookRec.repeated (x : BookRec) (now : Nat) : BookRec :=
  { x with repeats := min (2 ^ 32 - 1) (x.repeats + 1), lastS := now }
/-- Change the last element of a list. -/
def modLast {α : Type} (f : α → α) (xs : List α) : List α :=
  match xs.reverse with | [] => [] | y :: ys => (f y :: ys).reverse
/-- The fault or event is an occurrence of the one of this record, if any (R358). -/
def sameAs (x : BookRec) : Option BookRec → Bool
  | some y => y.same x
  | none => false
/-- No place is left for a new record: 16 await their write, or the book is full (R359). -/
def Book.noPlace (b : Book) : Bool := 16 ≤ b.pending.length || 8192 ≤ b.records.length
/-- A fault or event is offered to the book: a repeat of the most recent record, which may still
await its write, a new record, or one dropped for want of a place (R358, R359). -/
def State.bookPut (s : State) (x : BookRec) : State :=
  let again := BookRec.repeated (now := s.book.seconds)
  if sameAs x s.book.pending.getLast? then s.modBook fun b => { b with pending := modLast again b.pending }
  else if s.book.pending.isEmpty && sameAs x s.book.records.getLast? then
    s.modBook fun b => { b with records := modLast again b.records }
  else if s.book.noPlace then s.modBook fun b => { b with dropped := satInc 32 b.dropped }
  else s.modBook fun b => { b with pending := b.pending ++ [x] }
/-- A device event is recorded (R360). -/
def State.event (s : State) (code detail : Nat) : State := s.bookPut (s.bookRec 2 code 0xFFFF 0 detail)
/-- The first trigger of RECORDER that a fault matches (R355, R356). -/
def State.trigger (s : State) (src cls : Nat) : Option Nat :=
  let r := s.sec_ secRecorder
  (List.range (min 64 (r.nat 0 2))).find? fun i =>
    r.nat (8 + 8 * i) 2 ≤ src && src ≤ r.nat (0xA + 8 * i) 2 && bitOf (r.nat (0xC + 8 * i) 1) cls
/-- A fault is offered to the book (R355, R356). -/
def State.bookFault (s : State) (src cls detail : Nat) : State :=
  if !s.grist.active then (if cls == 0 then s else s.bookPut (s.bookRec 1 0xFFFF src cls detail))
  else match s.trigger src cls with
    | none => if cls == 2 then s.bookPut (s.bookRec 1 0xFFFF src cls detail) else s
    | some i =>
      let r := s.sec_ secRecorder
      let l := r.nat (0xD + 8 * i) 1
      let x := s.bookRec 1 i src cls detail
      if l < min 16 (r.nat 2 2) then
        s.bookPut { x with list := l, listTag := shaTag (r.slice (0x208 + 200 * l) 200), waiting := true }
      else s.bookPut x
/-- The bytes of a record (R357). -/
def BookRec.bytes (x : BookRec) : List Byte :=
  let b := leBytes 2 x.kind ++ leBytes 2 x.trigger ++ leBytes 2 x.source ++ leBytes 1 x.cls ++ leBytes 1 x.snaps.length
    ++ leBytes 4 x.repeats ++ leBytes 4 x.cycles ++ leBytes 8 x.firstS ++ leBytes 8 x.lastS ++ leBytes 4 x.detail
    ++ leBytes 2 x.node ++ leBytes 2 x.score ++ leBytes 8 x.seq ++ leBytes 8 x.listTag ++ leBytes 1 x.list ++ zeros 7
    ++ fit 384 (x.snaps.flatMap (leBytes 8)) ++ zeros 60
  b ++ leBytes 4 (crc32c b)
/-- BOOK_RECORD_WRITE: the oldest record awaiting its write, once its snapshot is taken;
`ok` says whether the cellar took it (R359). -/
def execBookRecordWrite (ok : Bool) (s : State) : Out :=
  match s.book.pending with
  | [] => .next s
  | x :: rest =>
    if !s.power.powered || s.power.reset || x.waiting || s.book.clearing then .next s else
    if 8192 ≤ s.book.records.length then
      .next (s.modBook fun b => { b with pending := rest, dropped := satInc 32 b.dropped })
    else if ok then .next (s.modBook fun b => { b with pending := rest, records := b.records ++ [x] })
    else .next ((s.modBook fun b => { b with pending := rest, dropped := satInc 32 b.dropped }).raise 1780 0)
/-- What a clear command at CLB_CLEAR_SRC amounts to: 1 when it is good (R361). -/
def State.clearCode (s : State) (bad : Bool) : Nat :=
  let a := s.book.src.toNat
  let c := s.hbmBytes a 128
  let zero (i n : Nat) : Bool := (sliceB c i n).all (· == 0)
  if bad || a % 256 != 0 || 0x18000000000 < a + 128 || natAt c 0 4 != 0x42524C43 || !zero 4 4 || !zero 0x14 12
      || !zero 0x68 24 then 2
  else if natAt c 8 8 != certTag.toNat || natAt c 0x10 4 != s.book.clears then 3
  else if s.sec.owner.isEmpty || natAt c 0x60 8 != shaTag s.sec.owner
      || !edVerify s.sec.owner (c.take 0x20) (sliceB c 0x20 64) then 4
  else 1
/-- CLB_CLEAR (R361). -/
def execClbClear (p : HostPort) (e : Ecc) (s : State) : Out :=
  .next (s.hostWrite p 0x050028 fun s =>
    if s.book.clearing then s else
    let a := s.book.src.toNat
    let s := s.eccRead a 128 e 6 .used
    let r := s.clearCode ((firstBad e a 128).isSome || s.anyPoison a 128)
    if r == 1 then s.modBook fun b => { b with clearing := true }
    else s.modBook fun b => { b with result := r })
/-- CLB_CLEAR_COMPLETE: the book is empty but for event 6 (R361). -/
def execClbClearComplete (s : State) : Out :=
  if !s.book.clearing then .next s else
  let s := s.modBook fun b => { b with clearing := false, result := 1, clears := (b.clears + 1) % 2 ^ 32, dropped := 0 }
  let x := s.bookRec 2 6 0xFFFF 0 s.book.clears
  .next (s.modBook fun b => { b with records := [x] })

/-! ## Faults (R350 to R354) -/

/-- A pulse of FAULT_N is requested; one on its way or in progress takes it in (R352). -/
def State.pulse (s : State) : State :=
  if s.fault.pulsing || s.fault.pulseAt.isSome then s
  else s.modFault fun f => { f with pulseAt := some (s.now + 4000) }
/-- A hold ends, for the reason of event 4 (R364). -/
def State.endHold (s : State) (why : Nat) : State :=
  if !s.health.hold then s else
  let s := (s.modHealth fun h => { h with hold := false, holdLeft := 0 }).event 4 why
  if s.health.level == 3 then s else s.event 3 (s.health.level + 3 * 256)
/-- The fatal state is entered (R354). -/
def State.enterFatal (s : State) : State :=
  let s := (List.range 192).foldl (fun s t =>
    match (s.tun t).phase with | .running => s.haltFault t | .waiting => s.haltFault t | _ => s) s
  let s := (List.range 4).foldl State.closeLauter s
  let s := (List.range 14).foldl (fun s p =>
    if (s.link p).enable || (s.link p).phase != .disabled
    then (s.declareDown p 4 false).modLink p fun l => { l with enable := false } else s) s
  let s := s.modJournal fun j => { j with openE := [] }
  (s.modFault fun f => { f with drive := true }).endHold 4
/-- The fault's own class and action are applied (R348, R350, R352, R354). -/
def State.takeFault (s : State) (r : FaultRec) : State :=
  let cls := srcClass r.src
  let act := if cls == 1 then s.action r.src else 0
  let fatal := cls == 2 || bitOf act 2
  let w := r.src / 32
  let bit : Word := word (2 ^ (r.src % 32))
  let g := srcGroup r.src
  let s := s.modFault fun f =>
    { f with seen := Tab.mod 0 f.seen w fun x => x ||| bit,
             corr := if cls == 0 then Tab.mod 0 f.corr g (satInc 16) else f.corr,
             unc := if cls == 0 then f.unc else Tab.mod 0 f.unc g (satInc 16),
             force := if r.forced then Tab.mod 0 f.force w fun x => x &&& ~~~bit else f.force }
  let s := s.hwSet (0x40C00 + 4 * w) bit.toNat
  let latches := cls != 0 && s.fault.first.isNone
  let s := if cls == 0 then s else s.modFault fun f =>
    { f with newest := (f.newest.filter fun x => x.1.at_ == r.at_) ++ [(r, cls)] }
  let s := if cls == 0 then s
    else if latches then s.modFault fun f => { f with first := some r, firstCls := cls }
    else s.modFault fun f => { f with ovf := true, ovfCnt := satInc 16 f.ovfCnt }
  let enters := fatal && !s.isFatal
  let s := if enters then s.modFault fun f => { f with fatal := some r } else s
  let s := if enters || (latches && cls == 1 && bitOf act 0) then s.pulse else s
  let s := if bitOf act 1 && s.grist.active then s.retractOpen else s
  let memory := r.src < 1536 && !r.forced &&
    (r.src % 8 == 3 || (r.src % 8 == 5 && r.detail / 256 == 1))
  let s := if memory then s.retractTun (r.src / 8) else s
  let s := s.bookFault r.src cls r.detail
  if enters then s.enterFatal else s
/-- The fault that is taken next: earliest stamp, then lowest source (R350). -/
def firstFault : List FaultRec → Option FaultRec
  | [] => none
  | x :: xs => match firstFault xs with
    | none => some x
    | some y => if y.at_ < x.at_ || (y.at_ == x.at_ && y.src < x.src) then some y else some x
/-- FAULT_TAKE: the fault bears the tick in which it arrived (R350). -/
def execFaultTake (s : State) : Out :=
  match firstFault s.fault.raised with
  | none => .next s
  | some r =>
    if !s.on then .next s else
    let s := s.after r.at_
    let s := s.modFault fun f => { f with raised := f.raised.erase r }
    if srcClass r.src == 3 then .next s else .next (s.takeFault r)
/-- FLT_FIRST_CLEAR: the clear acts before the faults taken in the same tick, of which the first is
then latched as first (R351, R352). -/
def execFltFirstClear (p : HostPort) (s : State) : Out :=
  .next (s.hostWrite p 0x040000 fun s =>
    let late := s.fault.newest.filter fun x => x.1.at_ == s.now
    let s' := s.modFault fun f =>
      { f with first := late.head?.map (·.1), firstCls := (late.head?.map (·.2)).getD 0, ovf := 1 < late.length,
               ovfCnt := late.length - 1 }
    match late with
    | [] => s'
    | (r, c) :: _ => if s.fault.first != some r && c == 1 && bitOf (s.action r.src) 0 then s'.pulse else s')
/-- Sources that a force bit can raise. -/
def forcible (n : Nat) : Bool := n < 1800 && srcClass n != 3
/-- FLT_FORCE (R353). -/
def execFltForce (p : HostPort) (w : Fin 57) (v : Word) (s : State) : Out :=
  .next (s.hostWrite p (0x040D00 + 4 * w) fun s =>
    (List.range 32).foldl (fun s b =>
      let n := 32 * w.val + b
      let bit : Word := word (2 ^ b)
      if !bitOf v.toNat b || !forcible n || bitOf (Tab.get 0 s.fault.force w).toNat b then s else
      s.modFault fun f =>
        { f with force := Tab.mod 0 f.force w fun x => x ||| bit,
                 raised := f.raised ++ [{ src := n, stamp := s.time.ftc + 1, detail := 0xFFFFFFFF, forced := true, at_ := s.now + 1 }] }) s)
/-- FAULT_PULSE_START: 4,000 ticks after the latch (R352). -/
def execFaultPulseStart (s : State) : Out :=
  match s.fault.pulseAt with
  | none => .next s
  | some t =>
    if !s.on then .next s else
    let s := s.after t
    .next ((s.modFault fun f => { f with pulseAt := none, pulsing := true, pulseFrom := s.now }).signalBoth 2046)
/-- FAULT_PULSE_END: 80,000 to 100,000 ticks later (R352). -/
def execFaultPulseEnd (s : State) : Out :=
  if !s.fault.pulsing || !s.on then .next s else
  let due := s.fault.pulseFrom + 80000 + s.freeNat % 20001
  .next ((s.useFree.after due).modFault fun f => { f with pulsing := false })
/-- FLT_PIN_WRITE (R352). -/
def execFltPinWrite (p : HostPort) (v : Word) (s : State) : Out :=
  .next (s.hostWrite p 0x040018 fun s => s.modFault fun f => { f with drive := bitOf v.toNat 0 })
/-- FAULT_N is driven low (R352). -/
def FaultSt.low (f : FaultSt) : Bool := f.pulsing || f.drive

/-! ## Health (R362, R363) -/

/-- The worst rise of a lane's bias above its manufacturing value, in percent. -/
def State.worstBias (s : State) : Nat :=
  s.links.foldl (fun t e => e.2.lanes.foldl (fun t x => max t x.2.biasPct) t) 0
/-- M of a hydrometer margin, and L of a bias rise. -/
def marginPart (mV : Nat) : Nat := 8 * (40 - mV)
@[inherit_doc marginPart] def laserPart (pct : Nat) : Nat := 8 * (pct - 20)
/-- OWN, ENV and SCORE (R362). -/
def Health.ownPenalty (h : Health) : Nat := min 1023 (h.own / 16 + h.mPart + h.lPart)
@[inherit_doc Health.ownPenalty] def Health.envPenalty (h : Health) : Nat := min 1023 (h.env / 16)
@[inherit_doc Health.ownPenalty] def State.scoreNow (s : State) : Nat :=
  let h := s.health
  1023 - (if bitOf (s.field secFault 5 1) 0 then min 1023 (h.ownPenalty + h.envPenalty) else h.ownPenalty)
/-- The computed level after a score (R363). -/
def State.nextLevel (s : State) (score : Nat) : Nat :=
  match s.health.level with
  | 0 => if score < s.low then 2 else if score < s.watch then 1 else 0
  | 1 => if score < s.low then 2 else if s.watch + s.hyst ≤ score then 0 else 1
  | _ => if s.low + s.hyst ≤ score then 1 else 2
/-- LEVEL as it reads. -/
def Health.levelReg (h : Health) : Nat := if h.hold then 3 else h.level
/-- SCORE and the level are computed again. -/
def State.rescore (s : State) : State :=
  let score := s.scoreNow
  let old := s.health.level
  let new := s.nextLevel score
  let s := s.modHealth fun h => { h with score := score, level := new }
  if new == old || s.health.hold then s else s.event 3 (new + old * 256)
/-- The cellar die is powered and out of reset: operating time passes (R360). -/
def State.cellarOn (s : State) : Bool := s.power.powered && !s.power.reset
/-- HEALTH_SECOND (R360, R362, R363): a second after the last, while the FTC runs. DEDUCED (log
entry 57): until the first hydrometer run M is as it was. -/
def execHealthSecond (i : SecondInputs) (s : State) : Out :=
  if !s.cellarOn then .next s else
  let s := if s.on then s.dwell s.book.secondAt 4000000000 else s
  let h := s.health
  let e := h.hbmCorr + 16 * h.hbmLatent + h.tunCorr + h.ringCorr + h.cellCorr + 64 * h.retried + h.replayed / 4096
  let cool := 40 < i.inletC || i.flowCL < 200
  let pOwn := min 64 e + (if i.hot && !cool then 16 else 0)
  let pEnv := (if cool then 16 else 0) + 16 * h.warnings + (if i.hot && cool then 16 else 0)
  let d := 2 ^ s.decay
  let s := s.modHealth fun h =>
    { h with own := (h.own - h.own / d + pOwn) % 2 ^ 32, env := (h.env - h.env / d + pEnv) % 2 ^ 32,
             mPart := if s.power.hydroAt == 0 then h.mPart else marginPart s.power.margin,
             lPart := laserPart s.worstBias, hbmCorr := 0, hbmLatent := 0,
             tunCorr := 0, ringCorr := 0, cellCorr := 0, retried := 0, replayed := 0, warnings := 0,
             holdLeft := h.holdLeft - 1 }
  let s := (s.modBook fun b => { b with seconds := b.seconds + 1, secondAt := s.now }).modPower fun p =>
    { p with inlet := i.inletC, flow := i.flowCL, coolant := p.coolant || cool }
  let s := if cool then s.raise 1778 0 else s
  .next s.rescore
/-- HEALTH_SAVE: every 60 s of operating time (R362). -/
def execHealthSave (s : State) : Out :=
  if !s.cellarOn || s.book.seconds % 60 != 0 then .next s
  else .next (s.modHealth fun h => { h with ownSaved := h.own, envSaved := h.env })

/-! ## Hold and the proving run (R364, R365) -/

/-- HOLD (R364). -/
def execHold (p : HostPort) (s : State) : Out :=
  .next (s.hostWrite p 0x040028 fun s =>
    let old := s.health.levelReg
    let s := (s.modHealth fun h => { h with hold := true, holdLeft := s.holdHours * 3600 }).event 4 1
    if old == 3 then s else s.event 3 (3 + old * 256))
/-- HOLD_RELEASE (R364). -/
def execHoldRelease (p : HostPort) (s : State) : Out :=
  .next (s.hostWrite p 0x040028 fun s => s.endHold 2)
/-- HOLD_EXPIRE (R364). -/
def execHoldExpire (s : State) : Out :=
  if s.health.hold && s.health.holdLeft == 0 && s.cellarOn then .next (s.endHold 3) else .next s
/-- The seconds at which the stages of a proving run end (R365). -/
def stageEnd (n : Nat) : Nat := match n with | 1 => 480 | 2 => 900 | 3 => 960 | 4 => 1140 | _ => 1200
/-- SECONDS of FLT_PROVE. -/
def State.proveSeconds (s : State) : Nat :=
  if s.proving then min 1200 ((s.now - s.health.proveAt) / 4000000000) else s.health.elapsed
/-- FLT_PROVE. -/
def State.proveReg (s : State) : Nat :=
  s.health.result * 2 ^ 30 + s.health.stage * 2 ^ 27 + s.health.passes * 2 ^ 16 + s.proveSeconds
/-- A proving run may start (R365). -/
def State.mayProve (s : State) : Bool :=
  !s.isFatal && s.busyCount == 0 && s.grist.phase != .armed && s.grist.phase != .voted && !s.proving
    && !s.tuns.any fun e => match e.2.phase with | .armed => true | .running => true | .waiting => true | _ => false
/-- Memories are overwritten by the run: what they hold afterwards is open (R365). -/
def State.overwriteAll (s : State) : State :=
  let n := s.free + 1
  let s := (List.range 192).foldl (fun s t =>
    let s := ((s.closeStreams t).dropCrossings t).dropWaits (· == t)
    s.modTun t fun u => { u.emptied with program := none, phase := s.restPhase t, mem := [], memFill := n }) s
  { s.useFree with hbm := [], hbmFill := n, poison := [], latent := [] }
/-- PROVE (R365). -/
def execProve (p : HostPort) (s : State) : Out :=
  .next (s.hostWrite p 0x040028 fun s =>
    if !s.mayProve then s else
    s.overwriteAll.modHealth fun h => { h with result := 1, stage := 1, proveAt := s.now, elapsed := 0 })
/-- The proving run ends (R365). -/
def State.endProve (s : State) (pass : Bool) : State :=
  let t := s.proveSeconds
  let s := s.modHealth fun h => { h with result := if pass then 2 else 3, elapsed := t }
  if !pass then (s.raise 1785 0).event 5 s.proveReg else
  let s := s.modHealth fun h =>
    { h with own := 0, mPart := marginPart s.power.margin, lPart := laserPart s.worstBias, passes := satInc 8 h.passes }
  ((s.endHold 4).event 5 s.proveReg).rescore
/-- ABORT_PROVE (R365). -/
def execAbortProve (p : HostPort) (s : State) : Out :=
  .next (s.hostWrite p 0x040028 fun s => if s.proving then s.endProve false else s)
/-- The events that stage 4 allows a port in its 180 s: 1 in 10^12 bits of its lanes (R256, R263,
R365). -/
def Link.proveLimit (l : Link) : Nat := countLanes l.trained * (if l.version == 3 then 224 else 112) * 180 / 1000
/-- What the IS960 has counted and measured itself fails the stage `n`: a port that is UP over its
limit in stage 4, a margin below 40 mV in stage 5 (R365). -/
def State.stageFails (s : State) (n : Nat) : Bool :=
  (n == 4 && s.links.any fun e => e.2.phase == .up && e.2.proveLimit < e.2.proved)
    || (n == 5 && s.power.hydroAt != 0 && s.power.margin < 40)
/-- PROVE_STAGE_END: a failure of the stage's tests ends the run at once, a pass at the end of the
stage, where the counts of stage 4 and the margin of stage 5 decide too (R365). -/
def execProveStageEnd (pass : Bool) (s : State) : Out :=
  if !s.proving || !s.alive then .next s else
  if !pass then .next (s.endProve false) else
  let n := s.health.stage
  let s := s.after (s.health.proveAt + stageEnd n * 4000000000)
  if s.stageFails n then .next (s.endProve false) else
  let s := if n == 3 then { s with links := (s.links.map fun e => (e.1, { e.2 with proved := 0 })).filter fun e => e.2 != {} } else s
  if 5 ≤ n then .next (s.endProve true) else .next (s.modHealth fun h => { h with stage := n + 1 })

end Sys2Proof.Machine
end

