-- ==== Sys2Proof/Machine/FlagWaits.lean ====
section
/-! DEFINITION. Machine/FlagWaits.lean: raises that land (R65), the end of a wait (R66),
owner-chain walks (R67), flag cycles (R68) and the flag-wait stall limit (R69). -/
namespace Sys2Proof.Machine

/-- FLAG_RAISE_LAND: the oldest raise from another agent lands (R65). -/
def execFlagRaiseLand (s : State) : Out :=
  match s.raises with
  | [] => .next s
  | r :: rest =>
    if !s.alive then .next s else
    let s := { s with raises := rest }
    .next (if s.tunActs r.tun then s.raiseFlag r.tun r.flag r.n 0xFFFF else s)

/-- What a blocked agent waits for: the tun that holds the flag, the flag, the count. -/
def State.waitOf (s : State) : Agent → Option (Nat × Nat × Nat)
  | .tun t =>
    let u := s.tun t
    if u.phase == .waiting && u.blocked then some (t, u.waitFlag, u.waitCount) else none
  | .queue q =>
    let x := s.sq q
    if x.phase == .waiting then some (x.waitTun, x.waitFlag, x.waitCount) else none

/-- FLAG_WAIT_RESUME: the flag has reached the count; it is subtracted in that cycle r,
and the next instruction's delta counts from r (R66). -/
def execFlagWaitResume (a : Agent) (s : State) : Out :=
  match s.waitOf a with
  | none => .next s
  | some (ft, f, n) =>
    if !s.alive || (s.tun ft).flag f < n then .next s else
    match a with
    | .tun t =>
      let r := max (s.tun t).issued ((s.tun t).metAt.getD (s.cycleNow t))
      .next ((s.modTun t fun u =>
        { u with phase := .running, blocked := false, base := r, issued := r, cycle := max u.cycle r,
                 metAt := none, first := true }).takeFlag ft f n)
    | .queue q => .next (((s.takeFlag ft f n).waitEnds q 0).sqSettle q)

/-- The agent to which the owner of a flag resolves; none where the walk ends (R67). -/
def State.ownerAgent (s : State) (t f : Nat) : Option Agent :=
  match s.flagOwner t f with
  | (1, i) => some (.tun i)
  | (3, i) => some (.queue i)
  | (2, i) =>
    let b := s.binding t i
    if b.kind == 3 || b.kind == 4 then some (.tun (b.far % 65536)) else none
  | _ => none
/-- The walk of an origin that has not closed. -/
def State.openWalk (s : State) (a : Agent) : Option Walk :=
  s.walks.find? fun w => w.origin == a && w.closed.isNone
/-- Replace a walk, or take it out. -/
def State.setWalk (s : State) (w : Walk) (w' : Option Walk) : State :=
  match s.walks.findIdx? fun x => x == w with
  | none => s
  | some i => { s with walks := s.walks.take i ++ w'.toList ++ s.walks.drop (i + 1) }
/-- FLAG_WALK_HOP (R67). -/
def execFlagWalkHop (a : Agent) (s : State) : Out :=
  match s.openWalk a with
  | none => .next s
  | some w =>
    if !s.alive then .next s else
    match w.path.getLast? with
    | none => .next (s.setWalk w none)
    | some e =>
      match s.ownerAgent e.ftun e.flag with
      | none => .next (s.setWalk w none)
      | some b =>
        if b == w.origin then
          .next (s.setWalk w (if w.path.length == 1 then none else some { w with closed := some s.now }))
        else match s.waitOf b with
          | some (ft, f, n) =>
            .next (s.setWalk w (if 16 ≤ w.path.length then none else
              some { w with path := w.path ++ [⟨b, ft, f⟩], counts := w.counts ++ [n] }))
          | none => .next (s.setWalk w none)

/-- The agent code of TUN_FCYC_ENTRY. -/
def agentCode : Agent → Nat
  | .tun t => t
  | .queue q => 32768 + q
/-- TUN_FCYC_ENTRY: bit 31 the kind, 30:16 the id, 15:8 FLAG_TUN, 7:0 FLAG. -/
def CycEntry.reg (e : CycEntry) : Nat := agentCode e.agent * 65536 + e.ftun * 256 + e.flag
/-- Every agent of a closed walk is still blocked on the same flag with its count unmet (R68). -/
def State.stillCycle (s : State) (w : Walk) : Bool :=
  w.path.all fun e =>
    match s.waitOf e.agent with
    | some (ft, f, n) => ft == e.ftun && f == e.flag && (s.tun ft).flag f < n
    | none => false
/-- Two walks go round the same agents. -/
def Walk.same (v w : Walk) : Bool :=
  v.path.length == w.path.length && v.path.all fun e => w.path.any fun x => x.agent == e.agent
/-- The tuns of a cycle, in its order. -/
def Walk.tuns (w : Walk) : List Nat := w.path.filterMap fun e => match e.agent with | .tun t => some t | .queue _ => none
/-- FLAG_CYCLE_RECHECK: 4,000 ticks after a walk closed (R68). -/
def execFlagCycleRecheck (a : Agent) (s : State) : Out :=
  match s.walks.find? fun w => w.origin == a && w.closed.isSome with
  | none => .next s
  | some w =>
    if !s.alive then .next s else
    let lower := s.walks.any fun v => v.closed.isSome && v.same w && agentCode v.origin < agentCode w.origin
    let s := (s.after (w.closed.getD 0 + 4000)).setWalk w none
    if lower || !s.stillCycle w then .next s else
    let s := w.tuns.foldl (fun s t => s.modTun t fun u => { u with fcyc := w.path }) s
    let first := match w.tuns with
      | t :: _ => t
      | [] => (w.path.headD ⟨a, 0, 0⟩).ftun
    let s := s.raise (srcTun first 1) (2 ^ 31 + w.path.length)
    let s := w.tuns.foldl State.haltFault s
    .next (w.path.foldl (fun s e => match e.agent with | .queue q => s.waitEnds q 7 | .tun _ => s) s)

/-- FLAG_WAIT_TIMEOUT: the wait, its count still unmet, has lasted longer than the stall limit (R69). -/
def execFlagWaitTimeout (a : Agent) (s : State) : Out :=
  match s.waitOf a with
  | none => .next s
  | some (ft, f, n) =>
    if !s.alive || n ≤ (s.tun ft).flag f then .next s else
    match a with
    | .tun t =>
      let s := s.after ((s.tun t).waitSince + s.stallTicks + 1)
      .next ((s.raise (srcTun t 1) (s.tun t).flagWaitReg).haltFault t)
    | .queue q => .next ((s.after ((s.sq q).waitSince + s.stallTicks + 1)).waitEnds q 8)

end Sys2Proof.Machine
end

