-- ==== Sys2Proof/Machine/Token.lean ====
section
/-! DEFINITION. Machine/Token.lean: the control token (R329, R330, R331), the links of
the two host ports, and the management lane's alarms (R342, R347). -/
namespace Sys2Proof.Machine

/-! ## The token -/

/-- The link of port `p` is lost for R331. -/
def PortSt.lost (x : PortSt) : Bool := !x.linkUp || x.perst || x.inReset
/-- A request of port `p` is pending. -/
def HostSt.req (h : HostSt) : HostPort → Bool | .a => h.reqA | .b => h.reqB
/-- Set or clear the request of port `p`. -/
def HostSt.setReq (h : HostSt) (p : HostPort) (b : Bool) : HostSt :=
  match p with | .a => { h with reqA := b } | .b => { h with reqB := b }
/-- The port of a HOLDER number. -/
def portOf (n : Nat) : HostPort := if n == 2 then .b else .a
/-- HOLDER changes to `h` for the cause `last`; both ports get the token event (R330, R331). -/
def State.setHolder (s : State) (h last : Nat) : State :=
  if s.host.holder == h then s else
  let lost := h != 0 && (s.port (portOf h)).lost
  let s := s.modHost fun x =>
    { x with holder := h, last := last, changes := (x.changes + 1) % 65536,
             lostAt := if lost then some s.now else none }
  (if h == 0 then s else s.modHost fun x => x.setReq (portOf h) false).signalBoth 2047
/-- RELEASE by the holder, whose change has the cause `last`; a pending request of the
other port is then served as REQUEST. -/
def State.releaseToken (s : State) (p : HostPort) (last : Nat) : State :=
  if s.host.holder != portNum p then s else
  let s := s.setHolder 0 last
  if s.host.req (portOther p) then s.setHolder (portNum (portOther p)) 1 else s
/-- A token command arrives at port `p`. -/
def State.tokenCommand (s : State) (p : HostPort) (act : State → State) : State :=
  let s := s.flushPosted p
  if s.portConfig p then act s else s
/-- TOKEN_REQUEST (R330). -/
def execTokenRequest (p : HostPort) (s : State) : Out :=
  .next (s.tokenCommand p fun s =>
    if s.host.holder == 0 then s.setHolder (portNum p) 1
    else if s.host.holder == portNum p || s.host.req p then s
    else (s.modHost fun h => h.setReq p true).signalBoth 2047)
/-- TOKEN_GRANT (R330). -/
def execTokenGrant (p : HostPort) (s : State) : Out :=
  .next (s.tokenCommand p fun s =>
    if s.host.holder == portNum p && s.host.req (portOther p) then s.setHolder (portNum (portOther p)) 2 else s)
/-- TOKEN_DENY (R330). -/
def execTokenDeny (p : HostPort) (s : State) : Out :=
  .next (s.tokenCommand p fun s =>
    if s.host.holder == portNum p then s.modHost fun h => h.setReq (portOther p) false else s)
/-- TOKEN_RELEASE (R330). -/
def execTokenRelease (p : HostPort) (s : State) : Out :=
  .next (s.tokenCommand p fun s => s.releaseToken p 3)
/-- AUTO_ON (R330). -/
def execAutoOn (p : HostPort) (s : State) : Out :=
  .next (s.tokenCommand p fun s =>
    if s.host.holder == portNum p then s.modHost fun h => { h with auto := true } else s)
/-- AUTO_OFF (R330). -/
def execAutoOff (p : HostPort) (s : State) : Out :=
  .next (s.tokenCommand p fun s =>
    if s.host.holder == portNum p then s.modHost fun h => { h with auto := false } else s)
/-- 100 ms in ticks. -/
def takeoverTicks : Nat := 400000000
/-- TOKEN_TAKEOVER: 100 ms after the holder's link was lost (R331). -/
def execTokenTakeover (s : State) : Out :=
  match s.host.lostAt with
  | none => .next s
  | some t =>
    if !s.on || !s.host.auto || s.host.holder == 0 then .next s else
    let other := portOther (portOf s.host.holder)
    let s := s.after (t + takeoverTicks)
    .next (s.setHolder (if (s.port other).lost then 0 else portNum other) 4)

/-! ## The links of the ports -/

/-- The holder's link has been lost, if port `p` holds the token (R331). -/
def State.holderLost (s : State) (p : HostPort) : State :=
  if s.host.holder == portNum p && s.host.lostAt.isNone then s.modHost fun h => { h with lostAt := some s.now } else s
/-- The holder's link is back, if port `p` holds the token (R331). -/
def State.holderBack (s : State) (p : HostPort) : State :=
  if s.host.holder == portNum p && !(s.port p).lost then s.modHost fun h => { h with lostAt := none } else s
/-- HOST_LINK_DOWN (R331, R343). -/
def execHostLinkDown (p : HostPort) (s : State) : Out :=
  if !s.on || !(s.port p).linkUp then .next s else
  .next ((s.modPort p fun x => { x with linkUp := false, speed := 0, width := 0 }).holderLost p)
/-- The host has programmed the configuration space of port `p`; vectors that may now be sent are
sent (R325, R341), and AER status bits of ones have cleared. -/
def State.configured (s : State) (p : HostPort) (cfg : PciCfg) (clr : AerClear) : State :=
  let s := s.modPort p fun x =>
    { x with pci := cfg, aer := x.aer &&& ~~~clr.unc, aerCor := x.aerCor &&& ~~~clr.cor }
  (s.port p).pba.foldl (fun s e => s.flushVector p e.1) s
/-- HOST_LINK_UP: from the self-test of boot on (R331, R343, R394). -/
def execHostLinkUp (p : HostPort) (speed : Nat) (link : LinkSetup) (s : State) : Out :=
  if !s.on || s.power.step < 3 || (s.port p).perst || (s.port p).inReset then .next s else
  let s := s.modPort p fun x => { x with linkUp := true, speed := speed % 16, width := link.width % 64 }
  .next ((s.configured p link.cfg link.aer).holderBack p)
/-- A bit of the AER Uncorrectable Error Status of port `p` is set (R325). -/
def State.aerError (s : State) (p : HostPort) (bit : Nat) : State :=
  s.modPort p fun x => { x with aer := x.aer ||| word (2 ^ bit) }
/-- HOST_PORT_UNCORRECTABLE_ERROR: the error of bit `bit` of the AER status (R325, R347). -/
def execHostPortUncorrectableError (m : PortError) (s : State) : Out :=
  if !s.on then .next s else .next ((s.aerError m.port m.bit).raise (1770 + portNum m.port) 0)
/-- HST_VS_BAD_WRITE: the bits of ones clear, and COUNT as a whole (R329). -/
def execHstVsBadWrite (p : HostPort) (v : Word) (s : State) : Out :=
  let s := s.flushPosted p
  if !s.portConfig p then .next s else
  .next (s.modPort p fun x =>
    { x with bad := x.bad &&& ~~~(BitVec.ofNat 6 v.toNat), badCnt := if v.toNat / 65536 == 0 then x.badCnt else 0 })
/-- MGMT_HIGH_BER (R342, R347). -/
def execMgmtHighBer (lockLost : Bool) (s : State) : Out :=
  if !s.on then .next s else
  let s := s.modHost fun h => { h with hiBer := h.hiBer || !lockLost, mgmtLock := h.mgmtLock && !lockLost }
  .next (s.raise 1773 0)

end Sys2Proof.Machine
end

