-- ==== Sys2Proof/Machine/Power.lean ====
section
/-! DEFINITION. Machine/Power.lean: the input and its warnings (R376 to R379), clamping
(R380 to R384), the adaptive loops (R385 to R387), kettle states (R388, R389). -/
namespace Sys2Proof.Machine

/-! ## Registers -/

/-- MIN_RATE and CLAMP_C of PWR_THERM_CFG. -/
def Power.minRate (p : Power) : Nat := clampNat 8 64 (bitsOf p.thermCfg.toNat 22 16)
@[inherit_doc Power.minRate] def Power.clampC (p : Power) : Nat := clampNat 85 103 (p.thermCfg.toNat % 256)
/-- Two's-complement field of 8 bits, held to −20 to 20. -/
def offsetBound (x : Nat) : Int := max (-20) (min 20 (ofTwos 8 x))
/-- TARGET, VMAX_OFS and VMIN_OFS of PWR_VBOUND. -/
def Power.target (p : Power) : Nat := clampNat 50 120 (bitsOf p.vbound.toNat 23 16)
@[inherit_doc Power.target] def Power.maxOfs (p : Power) : Int := offsetBound (bitsOf p.vbound.toNat 15 8)
@[inherit_doc Power.target] def Power.minOfs (p : Power) : Int := offsetBound (p.vbound.toNat % 256)
/-- MAX_PCT of PWR_LASER. -/
def Power.maxPct (p : Power) : Nat := clampNat 20 60 (p.laser.toNat % 256)
/-- Some lane's bias is at MAX_PCT, or its taps at the end of their range. -/
def State.laserPinned (s : State) : Bool := s.links.any fun e => e.2.lanes.any fun x => x.2.biasPin
@[inherit_doc State.laserPinned] def State.eqPinned (s : State) : Bool := s.links.any fun e => e.2.lanes.any fun x => x.2.eqPin
/-- Bits 5:0 of PWR_LOOPS. -/
def State.loopsNow (s : State) : Nat :=
  b2n s.power.hydroPin + 2 * b2n s.power.thermPin + 4 * b2n s.laserPinned + 8 * b2n s.eqPinned
    + 16 * b2n s.power.thermOvr + 32 * b2n s.power.powerOvr
/-- What the loops show is seen (R386). -/
def State.loopsSeen (s : State) : State :=
  let n := BitVec.ofNat 6 s.loopsNow
  s.modPower fun p => { p with loopSeen := p.loopSeen ||| n }
/-- PWR_GOOD is released (R394, R414). -/
def State.pwrGood (s : State) : Bool := s.on && 3 ≤ s.power.step && s.power.regulated && !s.power.tripped
/-- ATTN_N is low: boot waits for firmware (R412). -/
def State.attnLow (s : State) : Bool := s.on && s.power.step == 4
/-- Measured fields have their first measurement: from the power ramp on (R396). -/
def State.measures (s : State) : Bool := s.on && 2 ≤ s.power.step

/-! ## The input (R376 to R379) -/

/-- The thresholds of the input, in units of 10 mV: warning, reset and overvoltage, each falling and
rising (R376). A command of this section is the crossing that counts, 2 µs after it began. -/
def warnFall : Nat := 3100
@[inherit_doc warnFall] def warnRise : Nat := 3200
@[inherit_doc warnFall] def resetFall : Nat := 2800
@[inherit_doc warnFall] def resetRise : Nat := 3000
@[inherit_doc warnFall] def overFall : Nat := 4100
@[inherit_doc warnFall] def overRise : Nat := 4200

/-- The guard engages (R381). -/
def State.guardEngages (s : State) : State := (s.mark 5).raise 1787 0
/-- SUPPLY_WARNING_FALL: the falling crossing of 31.0 V, and any lower input during the
excursion that it begins, also in Standby and at the start of boot (R378). -/
def execSupplyWarningFall (vin : Nat) (s : State) : Out :=
  if !s.cellarOn || warnFall ≤ vin then .next s else
  let p := s.power
  let low := if p.min == 0 && !p.warnSeen then vin else min p.min vin
  if p.warnNow then .next (s.modPower fun p => { p with vin := vin, vinAt := some s.now, min := low }) else
  let s := s.modPower fun p =>
    { p with vin := vin, vinAt := some s.now, min := low, warnNow := true, warnSeen := true, warnAt := s.now }
  let s := ((s.mark 4).raiseIn 1774 0 0).modHealth fun h => { h with warnings := h.warnings + 1 }
  if bitOf p.guard.toNat 31 then .next ((s.modPower fun p => { p with guardSup := true }).guardEngages) else .next s
/-- SUPPLY_WARNING_RISE: the rising crossing of 32.0 V (R378). -/
def execSupplyWarningRise (vin : Nat) (s : State) : Out :=
  let p := s.power
  if !s.cellarOn || !p.warnNow || vin ≤ warnRise then .next s else
  let us := min 1048575 ((s.now - p.warnAt) / 4000)
  .next ((s.modPower fun p => { p with vin := vin % 4096, vinAt := some s.now, warnNow := false, guardSup := false }).event 1
    (p.min % 4096 * 2 ^ 20 + us))
/-- POWER_STAGE_FAULT (R347). -/
def execPowerStageFault (_n : Fin 8) (s : State) : Out :=
  if !s.on then .next s else .next (s.raise 1775 0)
/-- RAIL_LEAVES_REGULATION (R414). -/
def execRailLeavesRegulation (s : State) : Out :=
  if !s.pwrGood then .next s else .next (s.modPower fun p => { p with regulated := false })

/-! ## Clamping (R380 to R384) -/

/-- GUARD_MS: the mean of one millisecond (R381). -/
def execGuardMs (meanW : Nat) (s : State) : Out :=
  if !s.measures then .next s else
  let s := s.dwell s.power.guardAt 4000000
  let w := meanW % 65536
  let p := s.power
  let cap := bitOf p.guard.toNat 30
  let s := s.modPower fun p => { p with meanW := w, peakW := max p.peakW w, guardAt := s.now }
  if cap && !p.guardCap && p.capW < w then .next (s.modPower fun p => { p with guardCap := true }).guardEngages
  else if p.guardCap && (!cap || w + 50 ≤ p.capW) then .next (s.modPower fun p => { p with guardCap := false })
  else .next s
/-- POWER_SAFETY: a 10 ms mean above 3,500 W clamps for at least 10 ms, until one of at
most 3,200 W (R382, R386). -/
def execPowerSafety (meanW : Nat) (s : State) : Out :=
  if !s.measures then .next s else
  let p := s.power
  match p.safety with
  | none =>
    if meanW ≤ 3500 then .next s else
    let ovr := 32 < p.guardRate
    let s := (s.modPower fun p => { p with safety := some s.now, powerOvr := ovr }).mark 5
    .next ((if ovr then s.event 2 (2 + p.guardRate * 256) else s).loopsSeen)
  | some t =>
    if 3200 < meanW || s.now < t + 40000000 then .next s
    else .next (s.modPower fun p => { p with safety := none, powerOvr := false })
/-- TJ_SAMPLE (R383). -/
def execTjSample (tj : Nat) (s : State) : Out :=
  if !s.measures then .next s else
  let s := s.modPower fun p => { p with tj := min 255 tj, tjMax := max p.tjMax (min 255 tj) }
  let s := { s with pins := { s.pins with thermLow := 100 ≤ tj || (95 ≤ tj && s.pins.thermLow) } }
  if tj < 110 || s.power.tripped then .next s else
  let s := (s.raise 1777 0).modPower fun p => { p with tripped := true }
  .next ((List.range 16).foldl (fun s n => s.modCtl n fun c => { c with phase := .off }) s)
/-- The thermal clamp's next rate (R384). -/
def thermalStep (tj clampC minRate rate : Nat) : Nat :=
  if 105 ≤ tj then max 8 (rate - 2)
  else if clampC ≤ tj then (if minRate < rate then max minRate (rate - 2) else rate)
  else if tj < clampC - 5 then min 64 (rate + 2)
  else rate
/-- THERMAL_CLAMP_STEP (R384, R386). -/
def execThermalClampStep (s : State) : Out :=
  if !s.measures then .next s else
  let s := s.dwell s.power.thermAt 4000000
  let p := s.power
  let r := thermalStep p.tj p.clampC p.minRate p.therm
  let starts := !p.thermOvr && 105 ≤ p.tj && r < p.minRate
  let ovr := starts || (p.thermOvr && r < p.minRate)
  let pin := !ovr && p.clampC ≤ p.tj && p.tj < 105 && p.therm ≤ p.minRate
  let s := s.modPower fun p => { p with therm := r, thermAt := s.now, thermOvr := ovr, thermPin := pin }
  let s := if r < p.therm then (s.mark 3).raise 1776 0 else s
  .next ((if starts then s.event 2 (1 + p.minRate * 256) else s).loopsSeen)

/-! ## The other loops (R385 to R387) -/

/-- HYDROMETER_RUN: once every 60 s where it re-plans (R387). -/
def execHydrometerRun (margin : Nat) (s : State) : Out :=
  if !s.measures then .next s else
  let s := if s.replan then s.dwell s.power.hydroAt 240000000000 else s
  let p := s.power
  let m := min 255 margin
  let want := if m + 10 < p.target then p.offset + 1 else if p.target + 10 < m then p.offset - 1 else p.offset
  let held := max p.minOfs (min p.maxOfs want)
  let low := m < 40
  let s := s.modPower fun p =>
    { p with margin := m, hydroAt := s.now, offset := if s.replan then held else 0, hydroPin := s.replan && held != want,
             marginArmed := 50 < m || (p.marginArmed && !low) }
  .next ((if low && p.marginArmed then s.raise 1779 0 else s).loopsSeen)
/-- LASER_BIAS_STEP: `want` is the rise, in percent above the manufacturing value, that
holds the lane's transmit power; a value is held for at least 1 s (R385, R347). -/
def execLaserBiasStep (p : Fin 14) (lane : Fin 16) (want : Nat) (s : State) : Out :=
  if !s.on || !s.opticsOn || portLanes p ≤ lane.val then .next s else
  let x := (s.link p).lane lane
  let hi := s.power.maxPct
  let near := (want - x.biasPct) * 100 ≤ 2 * (100 + x.biasPct) && (x.biasPct - want) * 100 ≤ 2 * (100 + x.biasPct)
  let b := min hi (if near then x.biasPct else want)
  let s := if b == x.biasPct then s else
    let s := s.dwell x.biasAt 4000000000
    s.modLane p lane fun x => { x with biasAt := s.now }
  let s := s.modLane p lane fun x => { x with biasPct := b, biasPin := b == hi, biasSeen := 20 ≤ b }
  .next ((if 20 ≤ b && !x.biasSeen then s.raise (srcLink p 3) lane else s).loopsSeen)
/-- EQUALISATION_STEP: the taps adapt, having been held for at least 10 ms; they are or are not at
the end of their range (R385). -/
def execEqualisationStep (p : Fin 14) (lane : Fin 16) (atEnd : Bool) (s : State) : Out :=
  if !s.on || !s.opticsOn || portLanes p ≤ lane.val then .next s else
  let s := s.dwell ((s.link p).lane lane).eqAt 40000000
  .next ((s.modLane p lane fun x => { x with eqPin := atEnd, eqAt := s.now }).loopsSeen)

/-! ## Kettle states (R388, R389) -/

/-- A tun of kettle `k` is ARMED, RUNNING or WAITING. -/
def State.kettleBusy (s : State) (k : Nat) : Bool :=
  (tunsOf k).any fun t => match (s.tun t).phase with | .armed => true | .running => true | .waiting => true | _ => false
/-- A stream of kettle `k` has ACTIVE set. -/
def State.kettleStreaming (s : State) (k : Nat) : Bool := s.streams.any fun e => e.1 / 256 == k && e.2.active
/-- A PWR_CMD command is refused. -/
def State.pwrRefuse (s : State) : State := s.modPower fun p => { p with refused := true }
/-- The kettles of a mask. -/
def kettlesOf (mask : BitVec 4) : List Nat := (List.range 4).filter fun k => bitOf mask.toNat k
/-- DOZE: refused for each kettle that has a busy tun or an active stream (R389). -/
def execDoze (p : HostPort) (mask : BitVec 4) (s : State) : Out :=
  .next (s.hostWrite p 0x06002C fun s =>
    let ks := (kettlesOf mask).filter fun k => !s.asleep k
    let busy (k : Nat) : Bool := s.kettleBusy k || s.kettleStreaming k
    let s := if ks.any busy then s.pwrRefuse else s
    (ks.filter fun k => !busy k).foldl State.dozeKettle s)
/-- WAKE (R389). -/
def execWake (p : HostPort) (mask : BitVec 4) (s : State) : Out :=
  .next (s.hostWrite p 0x06002C fun s =>
    (kettlesOf mask).foldl (fun s k =>
      if s.kettle k == .doze then s.modPower fun p => { p with waking := insNat k p.waking } else s) s)
/-- KETTLE_WAKE_COMPLETE (R388, R389). -/
def execKettleWakeComplete (k : Fin 4) (s : State) : Out :=
  if s.alive && s.power.waking.contains k.val then .next (s.wakeKettle k).performWaiting else .next s
/-- FTC at which a tun of kettle `k` was last ARMED, RUNNING or WAITING; 0 for none. -/
def State.kettleQuietAt (s : State) (k : Nat) : Nat := (tunsOf k).foldl (fun c t => max c (s.tun t).quietAt) 0
/-- KETTLE_IDLE_ENTER: no tun of it has been ARMED, RUNNING or WAITING for 1 ms (R388). -/
def execKettleIdleEnter (k : Fin 4) (s : State) : Out :=
  if !s.alive || s.kettle k != .active || s.kettleBusy k then .next s
  else .next ((s.dwell (s.kettleQuietAt k) 4000000).modPower fun p =>
    { p with kettles := Tab.set .active p.kettles k .idle })

end Sys2Proof.Machine
end

