-- ==== Sys2Proof/Machine/Reset.lean ====
section
/-! DEFINITION. Machine/Reset.lean: the resets (R391, R392) with what survives them
(R393), Standby (R390), power-on (R377) and boot (R394, R395). -/
namespace Sys2Proof.Machine

/-! ## What several resets share -/

/-- Set bits of PWR_RESTORED. -/
def State.restoredBits (s : State) (n : Nat) : State :=
  s.modPower fun p => { p with restored := p.restored ||| BitVec.ofNat 8 n }
/-- A frame of the inbox goes to a context of lauter unit `u`. -/
def InFrame.toLauter (x : InFrame) (u : Nat) : Bool := x.hdr.epKind == 1 && x.hdr.epIdx / 256 % 4 == u
/-- The crossings between lauter unit `u` and its port are flushed: the port records it (R19). -/
def State.flushLauter (s : State) (u : Nat) : State :=
  let lost := s.core.inbox.filter (·.toLauter u)
  let s := if lost.isEmpty && (Tab.get [] s.core.inject (22 + u)).isEmpty then s
    else s.raise (srcPort (22 + u) 1) (Config.crossingNumber (4096 + u))
  (lost.foldl State.taken s).cutSource (22 + u) fun _ => true
/-- The crossings between the Maltings and the island of link `p` are flushed: the port records
it (R19). -/
def State.flushLink (s : State) (p : Nat) : State :=
  let l := s.link p
  if l.txWait.isEmpty && l.reTx.isEmpty && l.txBuf.all (·.2.isEmpty) && l.rx.all (·.2.isEmpty) then s
  else s.raise (srcPort p 1) (Config.crossingNumber (4128 + p))
/-- The crossings between the Maltings and the host controller of port `p` are flushed by its reset:
the Maltings port records it, and the frames of that source are cut off (R19, R176). -/
def State.flushHost (s : State) (p : HostPort) : State :=
  let m := portMlt p
  let lost := s.core.inbox.filter (·.port == m)
  let s := if lost.isEmpty && (Tab.get [] s.core.inject m).isEmpty then s
    else s.raise (srcPort m 1) (Config.crossingNumber (4160 + m))
  (lost.foldl State.taken s).cutSource m fun _ => true
/-- The crossings between the island of tun `t` and its data mover or wide ports are flushed: source
1,782 records each that held entries (R19, R61). -/
def State.flushQueues (s : State) (t : Nat) : State :=
  (s.tun t).queues.foldl (fun s e =>
    if e.2.far.isEmpty || (s.binding t e.1).kind == 3 || (s.binding t e.1).kind == 4 then s
    else s.raise 1782 (Config.crossingNumber (16 * t + (e.1 - 48)))) s
/-- The crossing before controller `k` is flushed: where an access still stood in it, source 1,782
records it; the access is answered poisoned as those in the controller are (R19, R392). -/
def State.flushCtl (s : State) (k : Nat) : State :=
  let here (r : StreamRead) : Bool := r.tag.isNone && s.stackOf r.addr == some k
  if s.streams.any (fun e => e.2.reads.any here) && Config.accessCrossing k s.now
  then s.raise 1782 (Config.crossingNumber (4192 + k)) else s
/-- A warm reset flushes the crossings between the Maltings and the islands that it spares, behind
ports 26 to 28: each of them records it (R19, R391). -/
def State.flushSpared (s : State) : State :=
  [26, 27, 28].foldl (fun s p =>
    if (Tab.get [] s.core.inject p).isEmpty && !s.core.inbox.any (·.port == p) then s
    else s.raise 1782 (Config.crossingNumber (4160 + p))) s
/-- Reads that a host has not completed and that serve stream queues are forgotten. -/
def HostSt.dropQueueReads (h : HostSt) (q : Nat → Bool) : HostSt :=
  { h with reads := h.reads.filter fun r => match r.what with
      | .descriptors n _ _ => !q n
      | .opData n _ _ => !q n
      | .firmware _ => true }
/-- Stream queues return to their reset values: DISABLED (R393). -/
def State.queuesReset (s : State) (q : Nat → Bool) : State :=
  let s := (s.modHost fun h => h.dropQueueReads q).modCore fun c =>
    { c with held := c.held.filter fun f => match f.queue with | some x => !q x.1 | none => true }
  { s with sqs := s.sqs.filter fun e => !q e.1
           walks := s.walks.filter fun w => match w.origin with | .queue n => !q n | .tun _ => true }
/-- The stage is discarded and STATE set to EMPTY, ACTIVE kept (R391, R393). -/
def State.stageLost (s : State) : State :=
  let some_ := s.grist.phase != .empty
  let s := s.gristPhase .empty
  let s := s.modGrist fun g =>
    { active := g.active, sections := g.sections, seq := g.seq, tag := g.tag, pitches := g.pitches, stored := g.stored,
      alp := g.alp, desc := g.desc, rcp := g.rcp }
  if some_ then s.restoredBits 0x40 else s
/-- A link port at its reset values; the bias of a lane is the laser's own. -/
def Link.afterReset (l : Link) (phase : LinkPhase) (now : Nat) : Link :=
  { phase := phase, trainAt := now, attemptAt := now,
    lanes := (l.lanes.map fun e => (e.1, ({ biasPct := e.2.biasPct, biasPin := e.2.biasPin, biasSeen := e.2.biasSeen, biasAt := e.2.biasAt } : Lane))).filter
      fun e => e.2 != {} }
/-- The fence causes of port `p` at their reset values: PENDING alone (R274, R393); an isolated port
stays as R270 has it. -/
def State.refence (s : State) (p : Nat) : State :=
  s.modLink p fun l => { l with pending := true, boundary := false, v2 := false, uncertain := false, plan := false }
/-- Every link port at its reset values (R393); in the fatal state each stays disabled (R354). -/
def State.linksReset (s : State) (phase : LinkPhase) : State :=
  let s := (s.modTime fun t => { t with portNb := [], portRx := [] }).chooseParent
  (List.range 14).foldl (fun s p => s.modLink p fun l =>
    if s.isFatal then { l.afterReset .disabled s.now with enable := false } else l.afterReset phase s.now) s
/-- A controller at its reset values in a state of its stack. -/
def HbmCtl.afterReset (c : HbmCtl) (ph : HbmPhase) (now : Nat) : HbmCtl :=
  { phase := ph, temp := c.temp, repairs := c.repairs, passFrom := now, lastCal := now }
/-- The blocks of the Maltings at their reset values; what RWP registers hold stays (R393). -/
def State.maltingsReset (s : State) : State :=
  { s with core := { mc := s.core.mc, routeCfg := s.core.routeCfg, valSeed := s.core.valSeed }
           granary := {}, lauters := [], atoms := [], catchUp := {}, raises := [], walks := [] }
/-- The settings that return to their defaults with no status (R393, R403, R406). -/
def State.silentDefaults (s : State) : State :=
  let s := (s.modFault fun f => { f with force := [] }).modSec fun x => { x with scope := 0, meas3 := [] }
  s.modTime fun t => { t with digCfg := 1, digBase := 0, ringIndex := 0, closures := [], reducing := none, parts := [], partsAt := none }
/-- A proving run that a reset interrupts fails. -/
def State.proveCut (s : State) : State := if s.proving then s.endProve false else s

/-! ## Warm reset (R391) -/

/-- WARM (R391, R393). -/
def execWarm (p : HostPort) (s : State) : Out :=
  .next (s.hostWrite p 0x06002C fun s =>
    if s.power.warm then s else
    let s := s.proveCut.flushSpared
    let round := s.colRound
    let open_ := !s.journal.openE.isEmpty
    let s := (List.range 192).foldl (fun s t =>
      if s.asleep (kettleOf t) then s else (s.closeStreams t).resetTun t true) s
    let s := { s with streams := [], crossings := [] }
    let s := s.modFault fun f => { f with fatal := none, drive := false }
    let s := (s.maltingsReset.queuesReset fun _ => true).stageLost.linksReset .disabled
    let s := s.modCol fun c =>
      { gen := (c.gen + 1) % 8, round := round, grantedSincePitch := c.grantedSincePitch }
    let s := (s.modJournal fun j => { j with openE := [] }).silentDefaults
    -- a controller in its own reset ends it here
    let s := (List.range 16).foldl (fun s n => s.modCtl n fun c => c.afterReset
      (if s.power.island == some (192 + n) && c.phase == .selfRefresh && !s.asleep (n / 4) then .ready else c.phase) s.now) s
    let s := s.modPower fun p =>
      { p with warm := true, warmAt := s.now, cause := 5, island := none, waking := [],
               kettles := p.kettles.filter fun e => e.2 != .idle }
    if open_ then s.restoredBits 0x20 else s)
/-- WARM_RESET_COMPLETE: after 50 ms; link ports then train (R391). -/
def execWarmResetComplete (s : State) : Out :=
  if !s.on || !s.power.warm then .next s else
  let s := (s.after (s.power.warmAt + 200000000)).modPower fun p => { p with warm := false }
  let s := if s.opticsOn then s.linksReset .training else s
  .next (s.restoredBits 0x1B).performWaiting

/-! ## Fabric and island resets (R391, R392) -/

/-- FABRIC (R391): the fence causes of its ports return to their reset values (R393). -/
def execFabric (p : HostPort) (s : State) : Out :=
  .next (s.hostWrite p 0x06002C fun s =>
    if !s.opticsOn then s else
    ((List.range 14).foldl (fun s p =>
      if (s.link p).enable then (s.declareDown p 4 (!s.isFatal)).refence p else s) s).restoredBits 8)
/-- The island `n` may be reset (R392). -/
def islandOk (n : Nat) : Bool := n < 208 || (216 ≤ n && n < 220) || (225 ≤ n && n < 239)
/-- A context of unit `u` is emptied; its place in the rounds stays. -/
def Ctx.emptied (x : Ctx) : Ctx := { round := x.round, last := x.last }
/-- The reads of a stream that are at controller `k` are cut off by its reset. -/
def State.cutReads (s : State) (k : Nat) (st : Stream) : Stream :=
  let cut (r : StreamRead) : StreamRead :=
    if r.tag.isNone && s.stackOf r.addr == some k then { r with cut := true } else r
  { st with reads := st.reads.map cut }
/-- The island `n` is reset (R392). -/
def State.islandReset (s : State) (n : Nat) : State :=
  if n < 192 then
    if s.asleep (kettleOf n) then s else
      (((((s.flushCrossings n (· == n)).flushQueues n).cutTun n).islandTun n true).unforce (srcTun n 0) 8)
  else if n < 208 then
    let k := n - 192
    let s := ((s.flushCtl k).unforce (srcHbm k 0) 4).modCtl k fun c => c.afterReset (if c.phase == .ready then .selfRefresh else c.phase) s.now
    { s with streams := s.streams.map fun e => (e.1, s.cutReads k e.2) }
  else if n < 220 then
    let u := n - 216
    let s := (((s.flushLauter u).closeLauter u).retractOpen).unforce (srcLauter u 0) 3
    let s := (List.range 256).foldl (fun s i =>
      let c := 256 * u + i
      ((s.ctx c).chunks.foldl State.dropHolds s).modCtx c Ctx.emptied) s
    { s with lauters := s.lauters.drop u }
  else
    let p := n - 225
    let s := (((s.flushLink p).declareDown p 5 ((s.link p).enable && s.opticsOn && !s.isFatal)).refence p).unforce
      (srcLink p 0) 6
    s.modLink p fun l =>
      { l with fecCorr := 0, fecUnc := 0, replayed := 0, crcBad := 0,
               lanes := (l.lanes.map fun e => (e.1, { e.2 with loss := 0, corr := 0 })).filter fun e => e.2 != {} }
/-- ISLAND_RESET (R392, R396). -/
def execIslandReset (p : HostPort) (n : BitVec 9) (s : State) : Out :=
  .next (s.hostWrite p 0x060030 fun s =>
    if s.power.island.isSome then s
    else if !islandOk n.toNat then s.modPower fun p => { p with islRefused := true }
    else (s.islandReset n.toNat).modPower fun p => { p with island := some n.toNat, islandAt := s.now })
/-- ISLAND_RESET_COMPLETE: after 10 µs, or 2 ms for an HBM controller (R391, R393). -/
def execIslandResetComplete (s : State) : Out :=
  match s.power.island with
  | none => .next s
  | some n =>
    if !s.alive then .next s else
    let hbm := 192 ≤ n && n < 208
    let s := (s.after (s.power.islandAt + (if hbm then 8000000 else 40000))).modPower fun p => { p with island := none }
    if hbm then
      let k := n - 192
      .next (if s.asleep (k / 4) then s else
        (s.modCtl k fun c => if c.phase == .selfRefresh then { c with phase := .ready } else c).performWaiting)
    else .next (s.restoredBits (if n < 192 then 1 else if n < 220 then 0x10 else 8))

/-! ## Power-on and package reset (R377, R391, R393) -/

/-- What survives power-on and package reset: the cellar, and what stands outside the package. -/
def State.lost (s : State) : State :=
  let port (x : PortSt) : PortSt := { perst := x.perst, inReset := x.perst }
  { pending := s.pending, out := s.out, free := s.free,
    grist := { stored := s.grist.stored },
    host := { a := port s.host.a, b := port s.host.b, last := if s.host.holder == 0 then 0 else 6,
              changes := (s.host.changes + b2n (s.host.holder != 0)) % 65536 },
    book := { records := s.book.records, dropped := s.book.dropped, seconds := s.book.seconds,
              cycles := s.book.cycles, clears := s.book.clears },
    health := { own := s.health.ownSaved, env := s.health.envSaved, ownSaved := s.health.ownSaved,
                envSaved := s.health.envSaved, score := s.health.score, level := s.health.level,
                hold := s.health.hold, holdLeft := s.health.holdLeft, passes := s.health.passes },
    sec := { life := s.sec.life, count := s.sec.count, floor := s.sec.floor, owner := s.sec.owner,
             keyGone := s.sec.keyGone },
    tap := { trst := s.tap.trst } }
/-- SUPPLY_OFF: the falling crossing of 28.0 V or the rising one of 42.0 V (R376, R377); `vin` is
the input. -/
def execSupplyOff (vin : Nat) (s : State) : Out :=
  if !s.power.powered || (resetFall < vin && vin < overRise) then .next s else
  let held := s.power.reset
  .next (s.lost.modPower fun p => { p with powered := false, reset := held, offCause := if overRise ≤ vin then 3 else 2 })
/-- POWER_ON, the rising crossing of 30.0 V or the falling one of 41.0 V (R376, R377): the count rises, and boot begins unless PKG_RST_N is low. -/
def execPowerOn (s : State) : Out :=
  if s.power.powered then .next s else
  let held := s.power.reset
  let cause := s.power.offCause
  let s := s.lost.modHost fun h => { h with changes := 0 }
  .next ((s.modBook fun b => { b with cycles := (b.cycles + 1) % 2 ^ 32 }).modPower fun p =>
    { p with reset := held, cause := cause })
/-- PACKAGE_RESET: PKG_RST_N has been low for 10 µs (R391, R415). -/
def execPackageReset (s : State) : Out :=
  if s.power.reset then .next s else
  let on := s.power.powered
  let cause := s.power.offCause
  .next (s.lost.modPower fun p => { p with powered := on, reset := true, offCause := cause })
/-- PACKAGE_RESET_RELEASE: PKG_RST_N rises (R391). -/
def execPackageResetRelease (s : State) : Out :=
  if !s.power.reset then .next s else
  .next (s.modPower fun p => { p with reset := false, cause := if p.powered then 4 else p.cause })

/-! ## Standby (R390, R393) -/

/-- STANDBY: refused while a tun is ARMED, RUNNING or WAITING or the grist ARMED or VOTED. -/
def execStandby (p : HostPort) (s : State) : Out :=
  .next (s.hostWrite p 0x06002C fun s =>
    if !s.mayStep then s.pwrRefuse else
    let s := s.proveCut
    let held := s.host.holder
    let meas3 := s.sec.meas3
    let loading := s.sec.loadPort != 0
    let lostJ := bitOf s.journal.cfg.toNat 15 || !s.journal.openE.isEmpty
    let s := (List.range 192).foldl (fun s t => s.modTun t fun _ => { phase := s.restPhase t, spargeFrom := s.now }) s
    let s := { s with streams := [], crossings := [], hbm := [], hbmFill := 0, poison := [], latent := [], ctls := [] }
    let s := (s.maltingsReset.queuesReset fun _ => true).stageLost.linksReset .disabled
    -- measurement 3 is cleared at the exit (R403)
    let s := ((s.modCol fun _ => {}).modJournal fun _ => {}).silentDefaults.modSec fun x =>
      { x with meas3 := meas3, parts := [], loading := 0, loadPort := 0 }
    -- a firmware load that was reading ends with its reads (R402)
    let s := if loading then s.modSec fun x => { x with lastCmd := 1, code := 8 } else s
    let s := s.modHost fun h =>
      { h with holder := 0, reqA := false, reqB := false, auto := false, lostAt := none,
               last := if held == 0 then h.last else 6, changes := (h.changes + b2n (held != 0)) % 65536, reads := [],
               a := { h.a with linkUp := false, speed := 0, width := 0, latch := [], hold := [], pci := {}, posted := [] },
               b := { h.b with linkUp := false, speed := 0, width := 0, latch := [], hold := [], pci := {}, posted := [] } }
    let s := s.modHealth fun h => { h with ownSaved := h.own, envSaved := h.env }
    let s := { s with pins := {}, disc := { s.disc with phase := .idle } }
    (s.modPower fun p =>
      { p with standby := true, kettles := [], waking := [], island := none, guardSup := false, guardCap := false,
               safety := none, powerOvr := false, therm := 64, thermOvr := false, thermPin := false }).restoredBits
      (if lostJ then 0x20 else 0))
/-- Standby ends: boot runs again from the power ramp; the FTC goes on in FREE, a node that was no
root has no parent, and a free-running root is LOCKED as always (R298, R299, R304, R390, R393). Each
computing tun shows RESTORED (R76); measurement 0 stays until the next verify (R403). -/
def State.leaveStandby (s : State) : State :=
  let s := s.modPower fun p =>
    { p with standby := false, step := 2, stepAt := s.now, cause := 6, exitStandby := true, regulated := true,
             restored := p.restored ||| 0x9F }
  let s := s.modSec fun x => { x with fwValid := false, svn := 0, meas3 := [] }
  let s := (List.range 192).foldl (fun s t => s.modTun t fun u => { u with restored := !s.forwardOnly t }) s
  let s := (s.timePhase .free).chooseParent
  if s.timeRoot && s.timeSource == 0 then s.timePhase .locked else s

/-! ## Port reset (R391, R325, R331) -/

/-- The stream queues assigned to port `p`. -/
def State.queuesOf (s : State) (p : HostPort) (q : Nat) : Bool := s.queuePort q == some p
/-- PORT_RESET; in Standby, the rising edge of PERST# that ends it (R388). -/
def execPortReset (p : HostPort) (c : PortResetCause) (s : State) : Out :=
  if s.power.powered && !s.power.reset && s.power.standby then
    .next (if c == .perst then s.leaveStandby else s)
  else if !s.on then .next s
  else
    let flr := c == .flr
    let s := s.modPort p fun x =>
      { x with perst := c == .perst || x.perst, inReset := true, resetAt := s.now,
               linkUp := x.linkUp && flr, speed := if flr then x.speed else 0, width := if flr then x.width else 0,
               bad := 0, badCnt := 0, latch := [], hold := [], msix := [], pba := [], pci := {}, posted := [] }
    let s := s.modHost fun h => { h with reads := h.reads.filter fun r => r.port != portNum p || (match r.what with
      | .firmware _ => true | _ => false) }
    let s := (s.flushHost p).queuesReset (s.queuesOf p)
    .next (if flr then s.releaseToken p 5 else s.holderLost p)
/-- PORT_RESET_COMPLETE: 1 ms after the end of the cause, which lasted `held` ticks (R391); the host then programs the port's
configuration space again. -/
def execPortResetComplete (m : PortSetup) (s : State) : Out :=
  let x := s.port m.port
  if !s.on || !x.inReset then .next s else
  let s := s.after (x.resetAt + m.held + 4000000)
  let s := s.modPort m.port fun x => { x with inReset := false, perst := false }
  .next (((s.configured m.port m.cfg m.aer).holderBack m.port).restoredBits 2)

/-! ## Boot (R394, R395) -/

/-- Ticks that a step takes; 0 for one that another command ends. -/
def stepTicks (n : Nat) : Nat :=
  match n with
  | 1 => 20000000 | 2 => 160000000 | 3 => 800000000 | 6 => 1600000000 | 7 => 3200000000 | 8 => 8000000000 | _ => 0
/-- Boot enters step `n`. -/
def State.bootStep (s : State) (n : Nat) : State :=
  let s := s.modPower fun p => { p with step := n, stepAt := s.now }
  match n with
  | 6 => (List.range 16).foldl (fun s k => s.modCtl k fun c => { c with phase := .training }) s
  | 7 => (List.range 14).foldl (fun s p => s.modLink p fun l =>
      if l.enable && !s.isFatal then l.train s.now else l) s
  | 8 =>
    let s := { s with disc := { s.disc with since := s.now,
                                            phase := if s.disc.coord.isSome then .placed else .seeking } }
    s.discSettle
  | _ => s
/-- The stack `k` has trained: its temperature and repairs are the stack's own. -/
def State.stackTrained (s : State) (k : Nat) : State :=
  let t := s.freeNat % 256
  let s := s.useFree
  let r := s.freeNat % 256
  (s.modCtl k fun c => { c with phase := .ready, temp := t, repairs := r, passFrom := s.now, lastCal := s.now }).useFree
/-- The work of a step that has passed. -/
def State.stepPassed (s : State) (n : Nat) : State :=
  match n with
  | 1 =>
    let s := if s.power.cause != 0 then s else
      (s.modPower fun p => { p with cause := 1 }).modBook fun b => { b with cycles := (b.cycles + 1) % 2 ^ 32 }
    s.modSec fun x => { x with loaded := true, meas2 := sha512 (Config.manufacturingRecord x.life x.floor) }
  | 2 => s.corePhase
  | 6 => ((List.range 16).foldl State.stackTrained s).performWaiting
  | _ => s
/-- The step after `n`; Standby's exit does not wait for a host (R390). -/
def State.nextStep (s : State) (n : Nat) : Nat :=
  if n == 3 && s.power.exitStandby then 5 else n + 1
/-- The step at which a failure code can occur (R394, R396). -/
def failStep (code : Nat) : Nat := match code with | 1 => 1 | 2 => 2 | 3 => 3 | 4 => 3 | 5 => 6 | _ => 0
/-- BOOT_STEP_END: with code 0 the step completes; else boot stops at it (R394, R395).
Steps 4 and 5 end by the firmware's own commands. -/
def execBootStepEnd (fail : Nat) (stack : Fin 16) (s : State) : Out :=
  let n := s.power.step
  if !s.on || s.power.failed || stepTicks n == 0 then .next s
  else if fail != 0 then
    if failStep fail != n then .next s else
    let s := (s.modPower fun p => { p with failed := true, fail := fail }).modFault fun f => { f with drive := true }
    if n != 6 then .next s else
    let s := s.modCtl stack fun c => { c with phase := .failed }
    .next (s.raise (srcHbm stack 3) ((s.ctl stack).temp * 2 ^ 24 + (s.ctl stack).repairs * 2 ^ 16 + 4))
  else
    -- discovery takes at most its time (R269, R394)
    let s := if n == 8 && s.disc.phase == .done then s else s.after (s.power.stepAt + stepTicks n)
    .next ((s.stepPassed n).bootStep (s.nextStep n))

end Sys2Proof.Machine
end

