-- ==== Sys2Proof/Machine/Security.lean ====
section
/-! DEFINITION. Machine/Security.lean: firmware (R401, R402), the owner (R398 to R400),
measurements and attestation (R403, R404), the management lane (R342, R405), debug
and the shield (R406, R407), and the reads that hosts complete (R328, R337). -/
namespace Sys2Proof.Machine

/-- A command ends with a code (R408). -/
def State.secDone (s : State) (cmd code : Nat) : State := s.modSec fun x => { x with lastCmd := cmd, code := code }
/-- A command is in progress: FW_LOAD, until its image has been verified (R402, R408). -/
def Sec.busy (x : Sec) : Bool := x.loadPort != 0
/-- Offset of SEC_CMD. -/
def secCmd : Nat := 0x070004

/-! ## Firmware (R401, R402) -/

/-- The next reads of the image leave, `n` at most: no more than 768 at one time (R325). -/
def State.fwReads (s : State) : Nat → State
  | 0 => s
  | n + 1 =>
    let x := s.sec
    let p := portOf x.loadPort
    if x.loadLen ≤ x.loadNext || 768 ≤ s.readsAt p then s else
    let a := x.loadAddr + x.loadNext
    let len := min (x.loadLen - x.loadNext) (4096 - a % 4096)
    State.fwReads ((s.hostRead p a len (.firmware x.loadNext)).modSec fun x => { x with loadNext := x.loadNext + len }) n
/-- The largest image. -/
def fwMax : Nat := 2 ^ 25
/-- FW_LOAD (R402): accepted at boot step 4. -/
def execFwLoad (p : HostPort) (s : State) : Out :=
  .next (s.hostWrite p secCmd fun s =>
    let x := s.sec
    let len := x.len.toNat
    if x.busy || s.power.step != 4 then s.secDone 1 1
    else if len < 256 || fwMax < len || len % 8 != 0 then s.secDone 1 2
    else
      let s := (s.secDone 1 0).modSec fun x =>
        { x with parts := [], loading := len, loadNext := 0, loadLen := len, loadAddr := x.addr.toNat, loadPort := portNum p }
      s.fwReads 768)
/-- The read of the image fails (R402). -/
def State.fwFails (s : State) (code : Nat) : State :=
  let s := s.modHost fun h => { h with reads := h.reads.filter fun r => match r.what with | .firmware _ => false | _ => true }
  (s.secDone 1 code).modSec fun x => { x with parts := [], loading := 0, loadPort := 0 }
/-- Data of the image arrives; after the last of it, boot verifies it (R394, R402). -/
def State.fwData (s : State) (off len : Nat) (c : HostCpl) : State :=
  if s.sec.loadPort == 0 || s.power.step != 4 then s else
  match c with
  | .data bs =>
    let s := s.modSec fun x => { x with parts := Tab.set [] x.parts off (fit len bs), loading := x.loading - len }
    if s.sec.loading != 0 then s.fwReads 1
    else (s.modSec fun x => { x with image := x.parts.flatMap (·.2), parts := [] }).bootStep 5
  | _ => s.fwFails 8
/-- The code of an image: header rules, TARGET and KEY_TAG, signature, digest, SVN (R401, R402). -/
def fwCode (b : List Byte) (floor : Nat) : Nat :=
  let zero (i n : Nat) : Bool := (sliceB b i n).all (· == 0)
  if natAt b 0 4 != 0x4D495746 || natAt b 4 2 != 1 || !zero 6 2 || natAt b 8 4 != b.length || natAt b 0x10 2 == 0
      || !zero 0x12 6 || !zero 0xA0 96 then 2
  else if natAt b 0x0C 4 != 0x09600200 || natAt b 0x98 8 != shaTag Config.firmwareKey then 3
  else if !edVerify Config.firmwareKey (b.take 0x58) (sliceB b 0x58 64) then 4
  else if sha512 (b.drop 0x100) != sliceB b 0x18 64 then 7
  else if natAt b 0x10 2 < floor then 6
  else 0
/-- The verify of a FW_LOAD ends with a code; that of a Standby exit belongs to no command (R408). -/
def State.fwDone (s : State) (code : Nat) : State :=
  if s.sec.loadPort == 0 then s else (s.secDone 1 code).modSec fun x => { x with loadPort := 0 }
/-- FW_VERIFY_COMPLETE: 30 ms after W (R394, R402). -/
def execFwVerifyComplete (s : State) : Out :=
  if !s.on || s.power.failed || s.power.step != 5 then .next s else
  let s := s.after (s.power.stepAt + 120000000)
  let b := s.sec.image
  let code := fwCode b s.sec.floor
  if code != 0 then
    .next (((s.fwDone code).modPower fun p => { p with rejects := satInc 8 p.rejects }).bootStep 4)
  else
    let svn := natAt b 0x10 2
    .next (((s.fwDone 0).modSec fun x =>
      { x with floor := svn, svn := svn, fwValid := true, meas0 := sha512 b }).bootStep 6)

/-! ## The owner (R398 to R400) -/

/-- HBM is in ready state for a command at `a`; for bytes beyond it, some controller is (R404). -/
def State.hbmUp (s : State) (a n : Nat) : Bool :=
  s.hbmReady a n && (a + n ≤ hbmTop || (List.range 16).any fun k => (s.ctl k).phase == .ready)

/-- OWNER_TAG; 0 when UNOWNED. -/
def Sec.ownerTag (x : Sec) : Nat := if x.owner.isEmpty then 0 else shaTag x.owner
/-- The code of an owner block but for the state that must accept it: format, CERT_TAG,
signature, COUNT (R399). -/
def Sec.blockCode (x : Sec) (b : List Byte) : Nat :=
  let zero (i n : Nat) : Bool := (sliceB b i n).all (· == 0)
  let op := natAt b 4 2
  let arg := natAt b 6 2
  if natAt b 0 4 != 0x444D434F || op == 0 || 4 < op || (if op == 3 then 8 ≤ arg else arg != 0) || !zero 0x14 12
      || (op != 1 && !zero 0x20 32) || !zero 0x88 24 then 2
  else if natAt b 8 8 != certTag.toNat then 3
  else if (if x.owner.isEmpty then !zero 0x40 72
      else natAt b 0x80 8 != x.ownerTag || !edVerify x.owner (b.take 0x40) (sliceB b 0x40 64)) then 4
  else if natAt b 0x10 4 != x.count then 5
  else 0
/-- An owner block has been accepted. -/
def Sec.counted (x : Sec) : Sec := { x with count := (x.count + 1) % 2 ^ 32 }
/-- The 160 bytes at SEC_ADDR. -/
def State.ownerBlock (s : State) : List Byte := s.hbmBytes s.sec.addr.toNat 160
/-- SEC_CMD OWNER with a block whose OP is `op`, or is none of the three: its code, with the
states that accept it, and its effect (R399, R408). -/
def State.ownerCommand (s : State) (p : HostPort) (e : Ecc) (op : Nat) (accepts : State → Bool)
    (act : List Byte → State → State) : State :=
  s.hostWrite p secCmd fun s =>
    let a := s.sec.addr.toNat
    if s.sec.busy || !s.hbmUp a 160 then s.secDone 2 1
    else if a % 256 != 0 || hbmTop < a + 160 then s.secDone 2 2
    else
      let b := s.ownerBlock
      let got := natAt b 4 2
      if got != op && 1 ≤ got && got ≤ 3 then s else
      let s := s.eccRead a 160 e 6 .used
      if (firstBad e a 160).isSome || s.anyPoison a 160 then s.secDone 2 8
      else
        let code := s.sec.blockCode b
        if code != 0 then s.secDone 2 code
        else if got != op || !accepts s then s.secDone 2 1
        else ((act b s).modSec Sec.counted).secDone 2 0
/-- A staged grist in STAGED, PASS or FAIL is discarded, as CLEAR does (R400). -/
def State.discardStage (s : State) : State :=
  match s.grist.phase with
  | .staged | .pass | .fail => (s.dropStage).gristPhase .empty
  | _ => s
/-- GRIST STATE is neither ARMED nor VOTED. -/
def State.notArmed (s : State) : Bool := s.grist.phase != .armed && s.grist.phase != .voted
/-- OWNER_ENROLL (R399, R400). -/
def execOwnerEnroll (p : HostPort) (e : Ecc) (s : State) : Out :=
  .next (s.ownerCommand p e 1 State.notArmed fun b s =>
    s.discardStage.modSec fun x => { x with owner := sliceB b 0x20 32, life := max x.life 1 })
/-- OWNER_RELEASE (R399, R400). -/
def execOwnerRelease (p : HostPort) (e : Ecc) (s : State) : Out :=
  .next (s.ownerCommand p e 2 (fun s => s.notArmed && !s.sec.owner.isEmpty) fun _ s =>
    s.discardStage.modSec fun x => { x with owner := [], life := if x.life == 2 then 2 else 0 })
/-- DEBUG_UNLOCK (R399, R403, R406). -/
def execDebugUnlock (p : HostPort) (e : Ecc) (s : State) : Out :=
  .next (s.ownerCommand p e 3 (fun s => !s.sec.owner.isEmpty) fun b s =>
    s.modSec fun x =>
      { x with scope := BitVec.ofNat 3 (natAt b 6 2),
               meas3 := sha512 (fit 64 x.meas3 ++ sliceB b 6 2 ++ sliceB b 0x10 4) })

/-! ## Attestation (R403, R404) -/

/-- Measurement `i`. -/
def State.measurement (s : State) (i : Nat) : List Byte :=
  match i with
  | 0 => fit 64 s.sec.meas0
  | 1 => if s.grist.active then sha512 (effectiveBody s.grist.sections) else zeros 64
  | 2 => fit 64 s.sec.meas2
  | _ => fit 64 s.sec.meas3
/-- The attestation report for a nonce (R404). -/
def State.report (s : State) (nonce : List Byte) : List Byte :=
  let x := s.sec
  let b := leBytes 4 0x54535441 ++ leBytes 2 1 ++ leBytes 1 x.life ++ leBytes 1 x.scope.toNat
    ++ leBytes 8 certTag.toNat ++ leBytes 8 x.ownerTag ++ leBytes 2 x.svn ++ leBytes 2 x.floor ++ leBytes 2 s.nodeId
    ++ zeros 2 ++ leBytes 8 s.grist.seq.toNat ++ leBytes 4 s.book.cycles ++ zeros 4 ++ fit 32 nonce
    ++ (List.range 4).flatMap s.measurement
  b ++ edSign Config.deviceSeed b ++ zeros 112
/-- The device certificate and its intermediate (R397). -/
def chain : List Byte := Config.deviceCert ++ Config.intermediateCert
/-- ATTEST (R404). -/
def execAttest (p : HostPort) (e : Ecc) (s : State) : Out :=
  .next (s.hostWrite p secCmd fun s =>
    let a := s.sec.addr.toNat
    if s.sec.busy || !s.hbmUp a 0x300 || s.sec.life == 2 then s.secDone 3 1
    else if a % 256 != 0 || hbmTop < a + 0x300 then s.secDone 3 2
    else
      let nonce := s.hbmBytes a 32
      let s := s.eccRead a 32 e 6 .used
      if (firstBad e a 32).isSome || s.anyPoison a 32 then s.secDone 3 8
      else (s.ctlWrite (a + 0x100) (s.report nonce) [] 6 false).secDone 3 0)
/-- EXPORT_CHAIN (R404). -/
def execExportChain (m : ChainExport) (s : State) : Out :=
  .next (s.hostWrite m.port secCmd fun s =>
    let a := s.sec.addr.toNat
    if s.sec.busy || !s.hbmUp a chain.length then s.secDone 4 1
    else if a % 256 != 0 || hbmTop < a + chain.length then s.secDone 4 2
    else ((s.ctlWrite a chain m.ecc 6 false).modSec fun x => { x with len := word chain.length }).secDone 4 0)
/-- SHIELD_BREACH (R407). -/
def execShieldBreach (s : State) : Out :=
  if !s.power.powered then .next s else
  .next ((s.modSec fun x => { x with keyGone := true, life := 2 }).raise 1781 0)

/-! ## The management lane (R342, R405) -/

/-- The management core answers: also in Standby. -/
def State.mgmtOn (s : State) : Bool := s.power.powered && !s.power.reset && s.sec.loaded
/-- The MAC address of the lane: 0x02 and bytes 0 to 4 of CERT_TAG. -/
def laneMac : List Byte := 2#8 :: (leBytes 8 certTag.toNat).take 5
/-- The frame check sequence of IEEE 802.3. -/
def crc32 (bs : List Byte) : Nat :=
  Nat.xor (bs.foldl (fun c b => crcBitsR 0xEDB88320 8 (Nat.xor c b.toNat)) 0xFFFFFFFF) 0xFFFFFFFF
/-- The group addresses of PTP over Ethernet and over UDP (IEEE 1588-2019, Annexes C and E). -/
def ptpMacs : List (List Byte) :=
  [[0x01, 0x1B, 0x19, 0, 0, 0], [0x01, 0x80, 0xC2, 0, 0, 0x0E], [0x01, 0, 0x5E, 0, 1, 0x81], [0x01, 0, 0x5E, 0, 0, 0x6B]].map
    fun m => m.map (BitVec.ofNat 8)
/-- The frame is taken: its size, its check sequence and its destination are right, and it is no PAUSE. -/
def mgmtTakes (b : List Byte) : Bool :=
  64 ≤ b.length && b.length ≤ 1522 && natAt b (b.length - 4) 4 == crc32 (b.take (b.length - 4))
    && (b.take 6 == laneMac || ptpMacs.contains (b.take 6)) && natAt b 12 2 != 0x0888
/-- The pieces of a reply: at most 1,400 bytes each. -/
def mgmtPieces (bytes : List Byte) : List (List Byte) :=
  (List.range (ceilDiv bytes.length 1400)).map fun i => (bytes.drop (1400 * i)).take 1400
/-- A reply leaves in datagrams; what a command of the table answers is their payload. -/
def State.mgmtReply (s : State) (bytes : List Byte) : State :=
  (mgmtPieces bytes).foldl (fun s x => s.emit (.mgmt x)) s
/-- MGMT_CHAIN. -/
def execMgmtChain (s : State) : Out := if s.mgmtOn then .next (s.mgmtReply chain) else .next s
/-- MGMT_ATTEST: never by a REVOKED unit (R398, R404). -/
def execMgmtAttest (nonce : List Byte) (s : State) : Out :=
  if !s.mgmtOn || s.sec.life == 2 || nonce.length != 32 then .next s else .next (s.mgmtReply (s.report nonce))
/-- A WAKE block acts only in Standby, and only where it is valid (R399, R405). -/
def State.mgmtWake (s : State) (block : List Byte) : State :=
  if !s.power.standby || block.length != 160 || s.sec.owner.isEmpty || s.sec.blockCode block != 0
      || natAt block 4 2 != 4 then s
  else (s.modSec Sec.counted).leaveStandby
/-- MGMT_WAKE. -/
def execMgmtWake (block : List Byte) (s : State) : Out :=
  if !s.mgmtOn then .next s else .next (s.mgmtWake block)

/-! ## Reads that hosts complete (R328, R337, R402) -/

/-- The end of a read goes to what issued it. -/
def State.readEnds (s : State) (r : HostRead) (c : HostCpl) : State :=
  let s := s.modHost fun h => { h with reads := h.reads.filter fun x => x.id != r.id }
  match r.what with
  | .descriptors q first n => s.descData q first n c
  | .opData q i off => s.opData q i off c
  | .firmware off => s.fwData off r.len c
/-- The read `k` that waits at a host. -/
def State.read? (s : State) (k : Nat) : Option HostRead := s.host.reads.find? fun r => r.id == k
/-- HOST_READ_COMPLETION (R328); poisoned data is an advisory non-fatal error (R325). -/
def execHostReadCompletion (k : Nat) (c : HostCpl) (s : State) : Out :=
  match s.read? k with
  | some r =>
    let s := s.flushPosted (portOf r.port)
    if s.portConfig (portOf r.port) then
      .next ((match c with | .poisoned _ => s.aerAdvisory (portOf r.port) 12 | _ => s).readEnds r c)
    else .next s
  | none => .next s
/-- The least ticks of a Completion Timeout Value: ranges A to D, and the default (R325). PRESUMED from
PCI Express Base 5.0 (log entry 13). -/
def cplTicks (v : Nat) : Nat :=
  4000 * (match v with
    | 2 => 1000 | 5 => 16000 | 6 => 65000 | 9 => 260000 | 10 => 1000000 | 13 => 4000000 | 14 => 17000000 | _ => 50)
/-- HOST_COMPLETION_TIMEOUT (R325, R337): where the host has not disabled it, the read ends as an
error and AER status bit 14 is set (PRESUMED, log entry 13: the bit's place). -/
def execHostCompletionTimeout (k : Nat) (s : State) : Out :=
  match s.read? k with
  | some r =>
    let x := (s.port (portOf r.port)).pci
    if !s.on || x.cplOff then .next s else
    .next (((s.after (r.at_ + cplTicks x.cplRange)).aerError (portOf r.port) 14).readEnds r .error)
  | none => .next s

end Sys2Proof.Machine
end

