-- ==== Sys2Proof/Machine/RegRead.lean ====
section
/-! DEFINITION. Machine/RegRead.lean: what every BAR0 register reads (R3 to R5, R20):
the value in force, with no side effect, which a host read, a snapshot (R356) and a
remote read (R340) share. -/
namespace Sys2Proof.Machine

/-! ## Numbers of states -/

/-- GRIST_STATUS.STATE as a number. -/
def GristPhase.num : GristPhase → Nat
  | .empty => 0 | .loading => 1 | .staged => 2 | .checking => 3 | .pass => 4 | .fail => 5 | .armed => 6
  | .voted => 7 | .pitched => 8 | .aborted => 9 | .uncertain => 10
/-- TUN_STATUS.STATE as a number. -/
def TunPhase.num : TunPhase → Nat
  | .idle => 0 | .loading => 1 | .loaded => 2 | .armed => 3 | .running => 4 | .waiting => 5 | .done => 6
  | .haltedFault => 7 | .haltedSw => 8 | .forwardOnly => 9
/-- LNK_STATUS.STATE as a number. -/
def LinkPhase.num : LinkPhase → Nat
  | .disabled => 0 | .training => 1 | .hello => 2 | .up => 3 | .isolated => 4 | .failed => 5
/-- MLT_DISC_STATUS.STATE as a number. -/
def DiscPhase.num : DiscPhase → Nat
  | .idle => 0 | .seeking => 1 | .placed => 2 | .done => 3
/-- MLT_CU_STATUS.STATE as a number. -/
def CuPhase.num : CuPhase → Nat
  | .idle => 0 | .receiving => 1 | .verifying => 2 | .committed => 3 | .orphaned => 4 | .failed => 5 | .abandoning => 6
/-- A state of PWR_KETTLE as a number. -/
def KettlePhase.num : KettlePhase → Nat
  | .active => 0 | .idle => 1 | .doze => 2 | .off => 3

/-- `o` is word `w` of one of `n` elements of `stride` bytes from `base` on: its number. -/
def elemAt (o base stride n : Nat) : Option Nat :=
  if base ≤ o && o < base + stride * n then some ((o - base) / stride) else none
/-- The word of its element that `o` names. -/
def wordAt (o base stride : Nat) : Nat := (o - base) % stride / 4

/-! ## 64-bit values (R4) -/

/-- The 64-bit value in force whose low word lies at offset `o` of block `b`. -/
def State.pairIn (s : State) (b : Bar0Block) (o : Nat) : Option Nat :=
  match b with
  | .feat => if o == 0x1C then some 0x18000000000 else none
  | .grist =>
    match o with
    | 0x08 => some s.grist.src.toNat | 0x18 => some s.grist.pitchAt.toNat | 0x20 => some s.grist.stamp.toNat
    | 0x28 => some s.grist.seq.toNat | 0x30 => some s.grist.tag.toNat
    | _ => none
  | .ftc =>
    match o with
    | 0x000 => some (s.time.ftc % 2 ^ 64) | 0x018 => some s.time.setTo.toNat | 0x028 => some s.time.ppsIn.toNat
    | 0x204 => some s.time.digBase.toNat | 0x218 => some s.time.jobD.toNat | 0x220 => some s.time.jobE.toNat
    | _ => none
  | .hst => match o with | 0x20 => some s.host.a.winBase.toNat | 0x28 => some s.host.b.winBase.toNat | _ => none
  | .flt => if o == 0x04 then some ((s.fault.first.map (·.stamp)).getD 0 % 2 ^ 64) else none
  | .clb => match o with | 0x08 => some s.book.seconds | 0x20 => some s.book.src.toNat | _ => none
  | .sec =>
    match o with
    | 0x0C => some s.sec.addr.toNat
    | 0x20 => some (if s.sec.loaded then certTag.toNat else 0) | 0x28 => some s.sec.ownerTag
    | _ => none
  | .hbm n => if o == 0x10 then some (s.ctl n).errAddr.toNat else none
  | .lnk n => if o == 0x10 then some (s.link n).nbTag.toNat else none
  | .mlt =>
    match o with
    | 0x30000 => some s.journal.base.toNat | 0x30010 => some s.journal.step.toNat
    | 0x30018 => some s.journal.commit.toNat | 0x21008 => some s.core.sampBase.toNat
    | 0x30200 => some s.catchUp.man.toNat | 0x30214 => some s.catchUp.done
    | _ => none
  | .col => if o == 0x08 then some s.colRound.toNat else none
  | .tun n =>
    if s.forwardOnly n then none else
    let u := s.tun n
    match o with
    | 0x08 => some u.loadSrc.toNat | 0x18 => some u.launchAt.toNat | 0x24 => some (s.tunCycle n % 2 ^ 64)
    | 0x34 => some (u.slipCycle % 2 ^ 64) | 0x60 => some u.engineMap.toNat | 0x70 => some u.digD.toNat
    | _ => none
  | .sq n =>
    match o with | 0x08 => some (s.sq n).descBase.toNat | 0x10 => some (s.sq n).cplBase.toNat | _ => none
  | _ => none

/-! ## 32-bit registers, block by block -/

/-- A GRIST register. -/
def State.gristReg (s : State) (o : Nat) : Nat :=
  let g := s.grist
  match o with
  | 0x04 => g.code * 2 ^ 24 + g.cause * 2 ^ 16 + g.refusedCmd * 2 ^ 12 + g.refuseWhy * 2 ^ 8 + b2n g.frozen * 2 ^ 7
      + b2n g.quiet * 2 ^ 6 + b2n g.delta * 2 ^ 5 + b2n g.active * 2 ^ 4 + g.phase.num
  | 0x10 => g.len.toNat | 0x14 => g.detail | 0x38 => g.pitches
  | 0x3C => g.root * 2 ^ 16 + g.members
  | _ => 0
/-- A time or digest register. -/
def State.ftcReg (s : State) (o : Nat) : Nat :=
  let t := s.time
  match o with
  | 0x008 => t.phase.num * 2 ^ 30 + b2n s.timeRoot * 2 ^ 29 + b2n t.pinned * 2 ^ 28 + b2n t.conflict * 2 ^ 27
      + b2n t.stepped * 2 ^ 26 + t.depth * 2 ^ 20 + t.parent.getD 0xF * 2 ^ 16 + t.rootId
  | 0x00C => t.cfg.toNat | 0x010 => t.servo.toNat | 0x014 => s.freqAdj | 0x024 => t.marks.toNat
  | 0x030 => if bitsOf t.cfg.toNat 30 29 == 1 then twos 32 t.ptpOfs else 0
  | 0x200 => t.digCfg.toNat | 0x20C => t.period.toNat
  | 0x210 => b2n t.invalid * 2 ^ 31 + b2n t.mvLtr * 2 ^ 30 + b2n t.jobValid * 2 ^ 29 + b2n t.jobIncomplete * 2 ^ 28
      + b2n t.reducing.isSome * 2 ^ 27 + t.ringIndex % 2 ^ 24
  | 0x228 => t.jobMembers * 2 ^ 20 + t.jobFlags * 2 ^ 16 + t.jobLayer
  | 0x22C => t.jobItems % 2 ^ 32
  | _ =>
    match elemAt o 0x100 4 14, elemAt o 0x140 4 14 with
    | some p, _ => twos 32 (Tab.get 0 t.portOfs p)
    | _, some p => twos 32 (Tab.get 0 t.portDly p)
    | _, _ => 0
/-- HST_PORT of a port. -/
def State.hstPort (s : State) (p : HostPort) : Nat :=
  let x := s.port p
  b2n x.linkUp * 2 ^ 31 + b2n x.perst * 2 ^ 30 + b2n (s.host.holder == portNum p) * 2 ^ 29 + x.speed * 2 ^ 20
    + x.width * 2 ^ 14
/-- HST_TOKEN. -/
def HostSt.tokenReg (h : HostSt) : Nat :=
  h.holder * 2 ^ 30 + b2n h.reqA * 2 ^ 29 + b2n h.reqB * 2 ^ 28 + b2n h.auto * 2 ^ 27 + h.last * 2 ^ 24 + h.changes
/-- An HST register. -/
def State.hstReg (s : State) (o : Nat) : Nat :=
  let h := s.host
  match o with
  | 0x00 => s.hstPort .a | 0x04 => s.hstPort .b | 0x08 => h.tokenReg
  | 0x0C => h.a.badReg | 0x10 => h.b.badReg
  | 0x30 => b2n h.memWrEn * 2 + b2n h.regWrEn
  | 0x34 => b2n h.mgmtLock * 2 ^ 31 + b2n h.hiBer * 2 ^ 30 + h.dropped
  | _ => 0
/-- FLT_HEALTH. -/
def State.healthReg (s : State) : Nat :=
  let h := s.health
  h.levelReg * 2 ^ 30 + b2n h.hold * 2 ^ 29 + b2n s.proving * 2 ^ 28 + h.envPenalty * 2 ^ 10 + h.score
/-- An FLT register. -/
def State.fltReg (s : State) (o : Nat) : Nat :=
  let f := s.fault
  let h := s.health
  match o with
  | 0x00 => match f.first with
    | some r => 2 ^ 31 + b2n r.forced * 2 ^ 30 + f.firstCls * 2 ^ 28 + r.src
    | none => 0
  | 0x0C => (f.first.map (·.detail)).getD 0
  | 0x10 => b2n f.ovf * 2 ^ 31 + f.ovfCnt
  | 0x14 => match f.fatal with | some r => 2 ^ 31 + b2n r.forced * 2 ^ 30 + r.src | none => 0
  | 0x18 => b2n f.low * 2 ^ 31 + b2n f.pulsing * 2 ^ 30 + b2n f.drive
  | 0x20 => s.healthReg
  | 0x24 => min 1023 (h.own / 16) * 2 ^ 20 + min 1023 h.mPart * 2 ^ 10 + min 1023 h.lPart
  | 0x2C => ceilDiv h.holdLeft 3600
  | 0x30 => s.proveReg
  | _ =>
    match elemAt o 0x400 4 259, elemAt o 0xC00 4 57, elemAt o 0xD00 4 57, elemAt o 0x1000 4 450 with
    | some g, _, _, _ => Tab.get 0 f.unc g * 2 ^ 16 + Tab.get 0 f.corr g
    | _, some w, _, _ => (Tab.get 0 f.seen w).toNat
    | _, _, some w, _ => (Tab.get 0 f.force w).toNat
    | _, _, _, some w => leNat ((List.range 4).map fun i => BitVec.ofNat 8 (s.action (4 * w + i)))
    | _, _, _, _ => 0
/-- A CLB register. -/
def State.clbReg (s : State) (o : Nat) : Nat :=
  let b := s.book
  match o with
  | 0x00 => b2n (8192 ≤ b.records.length) * 2 ^ 31 + b2n b.clearing * 2 ^ 30 + b.pending.length * 2 ^ 16 + b.records.length
  | 0x04 => b.dropped | 0x10 => b.seconds / 3600 % 2 ^ 32 | 0x14 => b.cycles | 0x18 => b.clears
  | 0x1C => b.rdIndex | 0x2C => b.result
  | _ =>
    match elemAt o 0x1000 4 128, b.records[b.rdIndex]? with
    | some k, some r => natAt r.bytes (4 * k) 4
    | _, _ => 0
/-- PWR_SUPPLY.VIN, the input now: what a crossing of this tick measured, else a free value; 0 until
the power ramp (R396). -/
def State.vinNow (s : State) : Nat :=
  if !s.measures then 0
  else if s.power.vinAt == some s.now then s.power.vin % 4096 else Config.inputAt s.now % 4096
/-- A PWR register. -/
def State.pwrReg (s : State) (o : Nat) : Nat :=
  let p := s.power
  match o with
  | 0x00 => b2n p.warnSeen * 2 ^ 31 + b2n p.warnNow * 2 ^ 30 + p.min % 4096 * 2 ^ 16 + s.vinNow
  | 0x04 => p.peakW % 65536 * 2 ^ 16 + p.meanW % 65536
  | 0x08 => p.guard.toNat
  | 0x0C => b2n (p.rate < 64) * 2 ^ 31 + p.rate * 2 ^ 16 + p.tj * 2 ^ 8 + p.tjMax
  | 0x10 => p.thermCfg.toNat
  | 0x14 => b2n p.coolant * 2 ^ 31 + p.inlet % 256 * 2 ^ 16 + p.flow % 65536
  | 0x18 => b2n (p.margin < 40 && !p.marginArmed) * 2 ^ 31 + b2n s.replan * 2 ^ 30 + p.margin * 2 ^ 16 + twos 8 p.offset
  | 0x1C => p.vbound.toNat | 0x20 => p.laser.toNat
  | 0x24 => p.loopSeen.toNat * 2 ^ 16 + s.loopsNow
  | 0x28 => (s.kettle 0).num + (s.kettle 1).num * 4 + (s.kettle 2).num * 16 + (s.kettle 3).num * 64
  | 0x30 => b2n p.islRefused * 2 ^ 31 + b2n p.island.isSome * 2 ^ 30
  | 0x34 => p.cause
  | 0x38 => b2n p.refused * 2 ^ 31 + p.restored.toNat
  | 0x3C => b2n p.failed * 2 ^ 31 + p.fail * 2 ^ 16 + p.rejects * 2 ^ 8 + p.step
  | _ => 0
/-- SEC_STATUS. -/
def Sec.statusReg (x : Sec) : Nat :=
  b2n x.busy * 2 ^ 31 + (if x.loaded then x.life else 0) * 2 ^ 29 + b2n x.fwValid * 2 ^ 28
/-- A SEC register. -/
def State.secReg (s : State) (o : Nat) : Nat :=
  let x := s.sec
  match o with
  | 0x00 => x.statusReg | 0x08 => x.lastCmd * 2 ^ 24 + x.code * 2 ^ 16
  | 0x14 => x.len.toNat | 0x18 => x.count
  | 0x1C => x.floor * 2 ^ 16 + x.svn | 0x30 => x.scope.toNat
  | _ =>
    match elemAt o 0x100 64 4 with
    | some i => natAt (s.measurement i) (4 * wordAt o 0x100 64) 4
    | none => 0
/-- A change of MODE is staged. -/
def State.mapStaged (s : State) : Bool :=
  match s.grist.rwp.find? fun e => e.1 == 0x100004 with
  | some e => e.2.toNat % 2 != s.hbmMode.toNat % 2
  | none => false
/-- A register of HBM controller `n`. -/
def State.hbmReg (s : State) (n o : Nat) : Nat :=
  let c := s.ctl n
  match o with
  | 0x00 => c.temp % 256 * 2 ^ 24 + c.repairs % 256 * 2 ^ 16 + c.phase.num
  | 0x04 =>
    if n == 0 then b2n s.mapStaged * 2 ^ 31 + b2n (bitOf s.hbmMode.toNat 30) * 2 ^ 30 + s.hbmMode.toNat % 2
    else s.hbmMode.toNat % 2
  | 0x08 => c.errCnt | 0x0C => c.errInfo
  | 0x18 => b2n c.behind * 2 ^ 31 + c.progress * 1000 / stackLines * 2 ^ 16 + c.passes
  | _ =>
    match elemAt o 0x800 32 64 with
    | none => 0
    | some j =>
      let w := wordAt o 0x800 32
      let x := (Tab.get 0 c.dms (8 * j + w)).toNat
      if w != 7 then x else
      let st := s.stream (n / 4 * 256 + n % 4 * 64 + j)
      x / 2 ^ 27 * 2 ^ 27 + b2n st.active * 2 ^ 26 + st.reads.length
/-- A register of link port `n`. -/
def State.lnkReg (s : State) (n o : Nat) : Nat :=
  let l := s.link n
  match o with
  | 0x00 => l.minReg n * 16 + b2n l.enable
  | 0x04 => l.phase.num * 2 ^ 28 + l.versionReg * 2 ^ 24 + countLanes l.trained * 2 ^ 16
  | 0x08 => l.lost.toNat * 2 ^ 16 + l.trained.toNat
  | 0x0C => b2n l.nbValid * 2 ^ 31 + l.nbPort % 16 * 2 ^ 20 + l.nbNode
  | 0x18 => l.fenceReg n | 0x1C => l.code.toNat
  | 0x20 => l.fecCorr | 0x24 => l.fecUnc | 0x28 => l.replayed | 0x2C => l.crcBad
  | 0x30 => l.downReg
  | _ =>
    match elemAt o 0x40 4 16, elemAt o 0x80 4 12 with
    | some i, _ => b2n (l.lane i).lock * 2 ^ 31 + (l.lane i).loss * 2 ^ 16 + (l.lane i).corr
    | _, some v => l.credit v * 2 ^ 16 + (fifoCells n v - Tab.get 0 l.rxUsed v)
    | _, _ => 0
/-- A coordinate or ring length triple in the layout of MLT_DISC_COORD and MLT_DISC_RING. -/
def tripleReg (t : Nat × Nat × Nat) : Nat := t.2.2 * 2 ^ 16 + t.2.1 * 2 ^ 8 + t.1
/-- MLT_CU_STATUS.ENTRY: while RECEIVING the first entry that still has a read to issue or a reply
to come, else the entry of the failure (R371, R375). -/
def State.cuEntryNow (s : State) : Nat :=
  let c := s.catchUp
  if c.phase != .receiving then c.entry else
  let open_ := (s.granary.resv.filter fun e => e.2.who == .catchUp && e.2.sent && e.2.epoch == c.run).map (·.2.index)
  (open_ ++ c.again.map (·.1)).foldl min c.entry
/-- A Maltings register. -/
def State.mltReg (s : State) (o : Nat) : Nat :=
  let c := s.core
  let d := s.disc
  let cu := s.catchUp
  match o with
  | 0x00 => b2n d.node.isSome * 2 ^ 16 + d.node.getD 0xFFFF
  | 0x08 => c.hdrErr.toNat | 0x0C => c.seqErr.toNat | 0x10 => c.seqErrSrc.toNat
  | 0x44 => d.phase.num * 2 ^ 28 + b2n d.root * 2 ^ 27 + b2n d.timeout * 2 ^ 26
      + ((List.range 14).find? fun p => bitOf (s.link p).code.toNat 31).getD 0xFF * 2 ^ 16
  | 0x48 => match d.coord with | some t => 2 ^ 31 + tripleReg t | none => 0
  | 0x4C => tripleReg d.ring
  | 0x400 => c.routeCfg.toNat | 0x404 => c.valSeed.toNat | 0x408 => c.sinkDisc
  | 0x40C => c.lostCnt * 2 ^ 16 + c.lostTag
  | 0x21000 => c.sampCfg.toNat | 0x21010 => c.sampWp | 0x21014 => c.sampLost
  | 0x30008 => s.journal.cfg.toNat
  | 0x30020 => b2n s.journal.overrun * 2 ^ 31 + min 65535 s.journal.unacked.length
  | 0x30208 => cu.cfg.toNat
  | 0x30210 => cu.phase.num * 2 ^ 28 + s.cuEntryNow % 4096 * 2 ^ 16 + cu.lost
  | _ =>
    match elemAt o 0x100 4 32, elemAt o 0x200 4 32, elemAt o 0x300 4 32, elemAt o 0x10000 32 256, elemAt o 0x20000 32 32,
        elemAt o 0x30100 4 64 with
    | some p, _, _, _, _, _ =>
      b2n (p < 14 && (s.link p).down) * 2 ^ 9 + b2n (s.fenced p) * 2 ^ 8 + b2n (!Tab.get false c.ctOff p)
    | _, some p, _, _, _, _ => (Tab.get 0 c.verdict p).toNat
    | _, _, some p, _, _, _ => Tab.get 0 c.reseqHigh p * 2 ^ 16 + (Tab.get [] c.reseq p).length
    | _, _, _, some e, _, _ => (Tab.get 0x0000FFFF#32 c.mc (8 * e + wordAt o 0x10000 32)).toNat
    | _, _, _, _, some p, _ =>
      let w := wordAt o 0x20000 32
      if w == 4 then s.depth p % 2 ^ 20 else Tab.get 0 c.tel (8 * p + w)
    | _, _, _, _, _, some i => (Tab.get 0 s.journal.sel i).toNat
    | _, _, _, _, _, _ => 0
/-- A granary register. -/
def State.grnReg (s : State) (o : Nat) : Nat :=
  let g := s.granary
  match o with
  | 0x00 => s.shared.toNat | 0x04 => twos 21 s.freeCells | 0x08 => g.phys
  | 0x0C => s.warn1 | 0x10 => s.warn2
  | 0x14 => b2n g.w2seen * 2 ^ 31 + b2n g.w1seen * 2 ^ 30 + b2n g.minWait * 2 ^ 29 + g.lev
  | 0x18 => g.resvHigh * 2 ^ 16 + g.resv.length
  | _ =>
    match elemAt o 0x1000 16 1281, elemAt o 0x8000 16 32, elemAt o 0x10000 16 261 with
    | some i, _, _ =>
      match wordAt o 0x1000 16 with
      | 0 => s.used i | 1 => s.ownMin i | 2 => s.ownLimit i
      | _ => b2n (s.bestEffort i) * 2 ^ 31 + Tab.get 0 g.high i
    | _, some p, _ =>
      let w := wordAt o 0x8000 16
      if w == 3 then 0 else leNat ((List.range 4).map fun i => BitVec.ofNat 8 (s.quantum p (4 * w + i)))
    | _, _, some b =>
      match wordAt o 0x10000 16 with
      | 0 => s.rate b | 1 => s.burst b
      | 2 => twos 32 ((s.bucketLevel b) / 2000)
      | _ => Tab.get 0 g.heldCnt b
    | _, _, _ => 0
/-- A register of lauter unit `n`. -/
def State.ltrReg (s : State) (n o : Nat) : Nat :=
  let l := s.lauter n
  match o with
  | 0x00 => match l.run with
    | none => 0
    | some r => 2 ^ 31 + b2n r.retry * 2 ^ 30 + b2n r.vote * 2 ^ 29 + b2n r.digest * 2 ^ 28
        + (if r.vote || r.digest then 0 else r.ctx % 256 * 2 ^ 8 + r.slot % 64)
  | 0x04 => l.runs | 0x08 => l.lastReg | 0x0C => l.residueReg | 0x10 => l.exc.toNat | 0x40 => l.flags.toNat
  | _ =>
    match elemAt o 0x100 4 64, elemAt o 0x400 4 256 with
    | some i, _ => match s.recipe n i with
      | none => 0
      | some r => 2 ^ 31 + b2n (bitOf (s.field secRecipe (r.at_ + 4) 2) 0) * 2 ^ 18 + s.recipeVersion % 4 * 2 ^ 16 + r.words
    | _, some x => s.boundSlot n x
    | _, _ => 0
/-- A register of the collective contexts. -/
def State.colReg (s : State) (o : Nat) : Nat :=
  let c := s.col
  match o with
  | 0x00 => b2n c.retracted * 2 ^ 31 + b2n c.stopped * 2 ^ 30 + b2n c.stall * 2 ^ 29 + c.gen % 8 * 2 ^ 21 + s.busyCount
  | 0x10 => c.retractOrd.toNat | 0x18 => c.stallOrd.toNat | 0x1C => c.stallBlock.toNat | 0x20 => c.stallCtx.toNat
  | 0x24 => c.retrLast.toNat | 0x28 => c.retrInfo.toNat | 0x2C => c.stale * 2 ^ 16 + c.superseded
  | _ =>
    match elemAt o 0x10000 16 1024 with
    | none => 0
    | some i =>
      let x := s.ctx i
      match wordAt o 0x10000 16 with
      | 0 => x.ordinal
      | 1 => (if c.stopped then 2 else b2n x.serving) * 2 ^ 30 + x.levels.headD 0 * 2 ^ 27 + x.group * 2 ^ 15 + x.nm
      | 2 => x.granted
      | _ => x.done
/-- A register of tun `n`. -/
def State.tunReg (s : State) (n o : Nat) : Nat :=
  if s.forwardOnly n then (if o == 0x04 then 9 else 0) else
  let u := s.tun n
  match o with
  | 0x04 => b2n u.refused * 2 ^ 11 + b2n u.missed * 2 ^ 10 + b2n u.restored * 2 ^ 9 + u.phase.num
  | 0x10 => u.loadLen.toNat | 0x14 => u.loadCode * 2 ^ 24 + u.loadDetail % 2 ^ 24
  | 0x20 => u.pc.num | 0x30 => u.slipReg | 0x3C => u.flagWaitReg | 0x40 => u.fcycReg | 0x44 => u.excReg
  | 0x48 => u.arith.toNat | 0x4C => s.sparseMode * 2 ^ 16 + s.sparseThr
  | 0x68 => u.engineCnt % 2 ^ 32 | 0x6C => u.memErrReg
  | 0x78 => u.digLayer * 2 ^ 16 + b2n u.mvSeen | 0x7C => u.digItems % 2 ^ 24
  | _ =>
    match elemAt o 0x50 4 4, elemAt o 0x80 4 16, elemAt o 0x100 4 64, elemAt o 0x200 4 64, elemAt o 0x400 4 256 with
    | some i, _, _, _, _ =>
      let t := u.tileS i
      b2n t.complete * 2 ^ 31 + b2n t.sparse * 2 ^ 30 + t.nz
    | _, some e, _, _, _ =>
      match u.fcyc[e]? with
      | none => 0
      | some c =>
        (match c.agent with | .tun t => t * 2 ^ 16 | .queue q => 2 ^ 31 + q * 2 ^ 16) + c.ftun * 2 ^ 8 + c.flag
    | _, _, some q, _, _ =>
      let x := Tab.get {} u.queues q
      x.high * 2 ^ 16 + x.near.length
    | _, _, _, some p, _ => (Tab.get 0 u.params p).toNat
    | _, _, _, _, some f => (Tab.get 0 u.flags f).toNat
    | _, _, _, _, _ => 0
/-- A register of stream queue `n`. -/
def State.sqReg (s : State) (n o : Nat) : Nat :=
  let x := s.sq n
  match o with
  | 0x00 => b2n x.en * 2 ^ 31 + x.version * 2 ^ 28 + x.log2 * 2 ^ 16
  | 0x04 => s.sqStatus n
  | 0x18 => x.descTail * 2 ^ 16 + x.head | 0x1C => x.cplHead * 2 ^ 16 + x.cplTail | 0x20 => x.done
  | _ => 0

/-- A 32-bit register of a block; reserved offsets read 0 (R5). -/
def State.blockReg (s : State) (b : Bar0Block) (o : Nat) : Nat :=
  match b with
  | .feat => s.featReg o | .grist => s.gristReg o | .ftc => s.ftcReg o | .hst => s.hstReg o | .flt => s.fltReg o
  | .clb => s.clbReg o | .pwr => s.pwrReg o | .sec => s.secReg o | .hbm n => s.hbmReg n o | .lnk n => s.lnkReg n o
  | .mlt => s.mltReg o | .grn => s.grnReg o | .ltr n => s.ltrReg n o | .col => s.colReg o | .tun n => s.tunReg n o
  | .sq n => s.sqReg n o | .none_ => 0
/-- The word in force at a BAR0 offset that is a multiple of 4 (R3 to R5). -/
def State.regRead (s : State) (off : Nat) : Nat :=
  let (b, o) := blockOf off
  match s.pairIn b o with
  | some v => v % 2 ^ 32
  | none =>
    match if o < 4 then none else s.pairIn b (o - 4) with
    | some v => v / 2 ^ 32 % 2 ^ 32
    | none => s.blockReg b o % 2 ^ 32

end Sys2Proof.Machine
end

