-- ==== Sys2Proof/Machine/Registers.lean ====
section
/-! DEFINITION. Machine/Registers.lean: BAR0 accesses: host reads with the read latches
of R4, writes by access code (R6) with the write holds of R4, narrow and misaligned
accesses (R21), the MSI-X structures (R341), remote register accesses (R340), and the
internal reads of a snapshot (R356) and of the management lane (R405). -/
namespace Sys2Proof.Machine

/-- The state of an outcome. -/
def outState (s : State) (o : Out) : State := match o with | .next t => t | _ => s
/-- A W1C field of which writing 1 to any bit clears all. -/
def zeroIf (b : Bool) (x : Nat) : Nat := if b then 0 else x
/-- Bits of a W1C word written 1 are cleared (R6). -/
def w1c (x v : Word) : Word := x &&& ~~~v

/-! ## Which registers exist (R5, R20) -/

/-- The offsets that registers of a block occupy, as ranges of first and last byte + 1. -/
def blockRanges : Bar0Block → List (Nat × Nat)
  | .feat => [(0, 0x54)]
  | .grist => [(0, 0x40)]
  | .ftc => [(0, 0x34), (0x100, 0x138), (0x140, 0x178), (0x200, 0x230)]
  | .hst => [(0, 0x14), (0x20, 0x38)]
  | .flt => [(0, 0x1C), (0x20, 0x34), (0x400, 0x80C), (0xC00, 0xCE4), (0xD00, 0xDE4), (0x1000, 0x1708)]
  | .clb => [(0, 0x30), (0x1000, 0x1200)]
  | .pwr => [(0, 0x40)]
  | .sec => [(0, 0x34), (0x100, 0x200)]
  | .hbm _ => [(0, 0x1C), (0x800, 0x1000)]
  | .lnk _ => [(0, 0x34), (0x40, 0xB0)]
  | .mlt => [(0, 4), (8, 0x14), (0x40, 0x50), (0x100, 0x180), (0x200, 0x280), (0x300, 0x380), (0x400, 0x410),
      (0x10000, 0x12000), (0x20000, 0x20400), (0x21000, 0x21004), (0x21008, 0x21018), (0x30000, 0x3000C),
      (0x30010, 0x30024), (0x30100, 0x3021C)]
  | .grn => [(0, 0x1C), (0x1000, 0x6010), (0x10000, 0x11050)] ++ (List.range 32).map fun p => (0x8000 + 16 * p, 0x800C + 16 * p)
  | .ltr _ => [(0, 0x14), (0x40, 0x44), (0x100, 0x200), (0x400, 0x800)]
  | .col => [(0, 0x30), (0x10000, 0x14000)]
  | .tun _ => [(0, 0x2C), (0x30, 0xC0), (0x100, 0x300), (0x400, 0x800)]
  | .sq _ => [(0, 0x24)]
  | .none_ => []
/-- A register lies at this offset of the block. -/
def Bar0Block.has (b : Bar0Block) (o : Nat) : Bool := (blockRanges b).any fun r => r.1 ≤ o && o < r.2

/-! ## Writes of 32-bit registers by access code (R6) -/

/-- GRIST registers. -/
def State.gristSet (s : State) (o : Nat) (v : Word) : State :=
  if o == 0x10 then s.modGrist fun g => { g with len := v } else s
/-- Time and digest registers. -/
def State.ftcSet (s : State) (o : Nat) (v : Word) : State :=
  let n := v.toNat
  match o with
  | 0x008 => s.modTime fun t =>
      let n := (s.clears 0x20008 v).toNat
      { t with pinned := t.pinned && !bitOf n 28, conflict := t.conflict && !bitOf n 27, stepped := t.stepped && !bitOf n 26 }
  | 0x00C => s.timeCfgWrite v
  | 0x010 => s.modTime fun t => { t with servo := v &&& 0xFFFF00FF#32 }
  | 0x024 => s.modTime fun t => { t with marks := t.marks &&& ~~~((s.clears 0x20024 v).setWidth 9) }
  | 0x200 => s.modTime fun t =>
      { t with digCfg := if bitOf t.digCfg.toNat 31 then word (b2n (bitOf n 31) * 2 ^ 31 + t.digCfg.toNat % 4096)
                         else v &&& 0x80000FFF#32 }
  | 0x20C => s.modTime fun t => { t with period := v }
  | 0x210 => s.modTime fun t =>
      let n := (s.clears 0x20210 v).toNat
      { t with invalid := t.invalid && !bitOf n 31, mvLtr := t.mvLtr && !bitOf n 30 }
  | _ => s
/-- HST registers. -/
def State.hstSet (s : State) (o : Nat) (v : Word) : State :=
  let n := v.toNat
  match o with
  | 0x30 => s.modHost fun h => { h with memWrEn := bitOf n 1, regWrEn := bitOf n 0 }
  | 0x34 => s.modHost fun h => { h with hiBer := h.hiBer && !bitOf n 30, dropped := zeroIf (n % 65536 != 0) h.dropped }
  | _ => s
/-- FLT registers. -/
def State.fltSet (s : State) (o : Nat) (v : Word) : State :=
  let n := v.toNat
  match elemAt o 0x400 4 259, elemAt o 0xC00 4 57 with
  | some g, _ => s.modFault fun f =>
      { f with unc := if n / 65536 != 0 then f.unc.drop g else f.unc, corr := if n % 65536 != 0 then f.corr.drop g else f.corr }
  | _, some w => s.modFault fun f => { f with seen := Tab.mod 0 f.seen w fun x => w1c x (s.clears (0x40C00 + 4 * w) v) }
  | _, _ => s
/-- CLB registers. -/
def State.clbSet (s : State) (o : Nat) (v : Word) : State :=
  if o == 0x1C then s.modBook fun b => { b with rdIndex := v.toNat % 8192 } else s
/-- PWR registers. -/
def State.pwrSet (s : State) (o : Nat) (v : Word) : State :=
  let n := v.toNat
  match o with
  | 0x00 => if bitOf n 31 then s.modPower fun p => { p with warnSeen := false, min := s.vinNow } else s
  | 0x04 => s.modPower fun p => { p with peakW := zeroIf (n / 65536 != 0) p.peakW }
  | 0x08 => s.modGrist fun g => { g with rwp := Tab.put g.rwp 0x060008 (v &&& 0xC03FFFFF#32) }
  | 0x0C => s.modPower fun p => { p with tjMax := zeroIf (n % 256 != 0) p.tjMax }
  | 0x10 => s.modPower fun p => { p with thermCfg := v &&& 0x007F00FF#32 }
  | 0x14 => s.modPower fun p => { p with coolant := p.coolant && !bitOf n 31 }
  | 0x1C => s.modPower fun p =>
      let p := { p with vbound := v &&& 0x00FFFFFF#32 }
      { p with offset := if s.replan then max p.minOfs (min p.maxOfs p.offset) else 0 }
  | 0x20 => s.modPower fun p => { p with laser := v &&& 0xFF#32 }
  | 0x24 => s.modPower fun p => { p with loopSeen := p.loopSeen &&& ~~~(BitVec.ofNat 6 (n / 65536)) }
  | 0x38 => s.modPower fun p =>
      { p with refused := p.refused && !bitOf n 31, restored := p.restored &&& ~~~(BitVec.ofNat 8 n) }
  | _ => s
/-- SEC registers. -/
def State.secSet (s : State) (o : Nat) (v : Word) : State :=
  if o == 0x14 then s.modSec fun x => { x with len := v } else s
/-- Registers of HBM controller `k`. -/
def State.hbmSet (s : State) (k o : Nat) (v : Word) : State :=
  let n := v.toNat
  match o with
  | 0x08 => s.modCtl k fun c =>
      { c with cntUnc := zeroIf (bitsOf n 31 24 != 0) c.cntUnc, cntPar := zeroIf (bitsOf n 23 16 != 0) c.cntPar,
               cntCtrl := zeroIf (bitsOf n 15 8 != 0) c.cntCtrl, cntOnDie := zeroIf (n % 256 != 0) c.cntOnDie }
  | 0x0C => if bitOf n 31 then s.modCtl k fun c =>
      { c with errValid := false, errUsed := false, errSrc := 0, errPc := 0, errAddr := 0 } else s
  | 0x18 => s.modCtl k fun c => { c with behind := c.behind && !bitOf n 31 }
  | _ =>
    match elemAt o 0x800 32 64 with
    | none => s
    | some j =>
      let w := wordAt o 0x800 32
      let mask : Word := match w with
        | 0 => 0xFC#32 | 1 => 0xFFFF#32 | 2 => 0xFFFFFF#32 | 3 => 0xFFFFFF#32 | 4 => 0xFFFFFF#32
        | 7 => 0xF8000000#32 | _ => 0xFFFFFFFF#32
      s.modCtl k fun c => { c with dms := Tab.set 0 c.dms (8 * j + w) (v &&& mask) }
/-- Registers of link port `k`. -/
def State.lnkSet (s : State) (k o : Nat) (v : Word) : State :=
  let n := v.toNat
  let any := n != 0
  match o with
  | 0x08 => s.modLink k fun l => { l with lost := l.lost &&& ~~~(BitVec.ofNat 16 (n / 65536)) }
  | 0x1C => if bitOf n 31 then s.modLink k fun l => { l with code := 0 } else s
  | 0x20 => s.modLink k fun l => { l with fecCorr := zeroIf any l.fecCorr }
  | 0x24 => s.modLink k fun l => { l with fecUnc := zeroIf any l.fecUnc }
  | 0x28 => s.modLink k fun l => { l with replayed := zeroIf any l.replayed }
  | 0x2C => s.modLink k fun l => { l with crcBad := zeroIf any l.crcBad }
  | 0x30 => s.modLink k fun l => { l with downCnt := zeroIf (n % 65536 != 0) l.downCnt }
  | _ =>
    match elemAt o 0x40 4 16 with
    | none => s
    | some i => s.modLane k i fun x =>
        { x with loss := zeroIf (bitsOf n 23 16 != 0) x.loss, corr := zeroIf (n % 65536 != 0) x.corr }
/-- Maltings registers. -/
def State.mltSet (s : State) (o : Nat) (v : Word) : State :=
  let n := v.toNat
  match o with
  | 0x08 => if bitOf n 31 then s.modCore fun c => { c with hdrErr := 0 } else s
  | 0x0C => if bitOf n 31 then s.modCore fun c => { c with seqErr := 0, seqErrSrc := 0 } else s
  | 0x44 => if bitOf n 26 then { s with disc := { s.disc with timeout := false } } else s
  | 0x400 => s.modGrist fun g => { g with rwp := Tab.put g.rwp 0x300400 (v &&& 1) }
  | 0x404 => s.modGrist fun g => { g with rwp := Tab.put g.rwp 0x300404 v }
  | 0x408 => s.modCore fun c => { c with sinkDisc := zeroIf (n != 0) c.sinkDisc }
  | 0x40C => s.modCore fun c => { c with lostCnt := zeroIf (n / 65536 != 0) c.lostCnt }
  | 0x21014 => s.modCore fun c => { c with sampLost := zeroIf (n != 0) c.sampLost }
  | 0x30008 => s.modJournal fun j =>
      if bitOf j.cfg.toNat 15 then
        -- PARTNER and SIZE_GIB are ignored while EN is 1
        { j with cfg := word (j.cfg.toNat / 65536 * 65536 + b2n (bitOf n 15) * 2 ^ 15 + j.cfg.toNat % 2 ^ 15) }
      else if bitOf n 15 then { j with cfg := v, seq := 0, head := 0, entries := [] }
      else { j with cfg := v }
  | 0x30020 => s.modJournal fun j => { j with overrun := j.overrun && !bitOf n 31 }
  | 0x30208 => s.modCu fun c => { c with cfg := v &&& 0x00FF1FFF#32 }
  | _ =>
    match elemAt o 0x100 4 32, elemAt o 0x200 4 32, elemAt o 0x300 4 32, elemAt o 0x10000 32 256, elemAt o 0x20000 32 32,
        elemAt o 0x30100 4 64 with
    | some p, _, _, _, _, _ => s.modCore fun c => { c with ctOff := Tab.set false c.ctOff p (!bitOf n 0) }
    | _, some p, _, _, _, _ => s.modCore fun c =>
        let keep (hi lo : Nat) : Nat := if bitsOf n hi lo != 0 then 0 else bitsOf (Tab.get 0 c.verdict p).toNat hi lo * 2 ^ lo
        { c with verdict := Tab.set 0 c.verdict p (word (keep 31 24 + keep 23 16 + keep 15 8 + keep 7 0)) }
    | _, _, some p, _, _, _ => s.modCore fun c =>
        { c with reseqHigh := if bitsOf n 26 16 != 0 then c.reseqHigh.drop p else c.reseqHigh }
    | _, _, _, some _, _, _ => s.modGrist fun g => { g with rwp := Tab.put g.rwp (0x300000 + o) v }
    | _, _, _, _, some p, _ =>
      let w := wordAt o 0x20000 32
      if w == 4 || n == 0 || (w == 5 && n % 2 ^ 20 == 0) then s
      else s.modCore fun c => { c with tel := c.tel.drop (8 * p + w) }
    | _, _, _, _, _, some i => s.modJournal fun j => { j with sel := Tab.set 0 j.sel i v }
    | _, _, _, _, _, _ => s
/-- Granary registers. -/
def State.grnSet (s : State) (o : Nat) (v : Word) : State :=
  let n := v.toNat
  match o with
  | 0x14 => s.modGranary fun g =>
      { g with w2seen := g.w2seen && !bitOf n 31, w1seen := g.w1seen && !bitOf n 30, minWait := g.minWait && !bitOf n 29 }
  | 0x18 => s.modGranary fun g => { g with resvHigh := zeroIf (bitsOf n 30 16 != 0) g.resvHigh }
  | _ =>
    match elemAt o 0x1000 16 1281, elemAt o 0x10000 16 261 with
    | some i, _ =>
      if wordAt o 0x1000 16 == 3 && n % 2 ^ 20 != 0 then s.modGranary fun g => { g with high := g.high.drop i } else s
    | _, some b =>
      if wordAt o 0x10000 16 == 3 && n != 0 then s.modGranary fun g => { g with heldCnt := g.heldCnt.drop b } else s
    | _, _ => s
/-- Registers of lauter unit `k`. -/
def State.ltrSet (s : State) (k o : Nat) (v : Word) : State :=
  let n := v.toNat
  match o with
  | 0x0C => s.modLauter k fun l =>
      { l with failed := zeroIf (n / 65536 != 0) l.failed, retried := zeroIf (n % 65536 != 0) l.retried }
  | 0x10 => if bitOf n 31 then s.modLauter k fun l => { l with exc := 0 } else s
  | 0x40 => s.modLauter k fun l => { l with flags := l.flags &&& ~~~(BitVec.ofNat 4 n) }
  | _ => s
/-- Collective registers. -/
def State.colSet (s : State) (o : Nat) (v : Word) : State :=
  let n := v.toNat
  match o with
  | 0x00 => s.modCol fun c => { c with retracted := c.retracted && !bitOf n 31, stall := c.stall && !bitOf n 29 }
  | 0x10 => s.modCol fun c => { c with retractOrd := v }
  | 0x20 => if bitOf n 31 then s.modCol fun c =>
      { c with stallOrd := 0, stallBlock := 0xFFFFFFFF#32, stallCtx := 0 } else s
  | 0x2C => s.modCol fun c =>
      { c with stale := zeroIf (n / 65536 != 0) c.stale, superseded := zeroIf (n % 65536 != 0) c.superseded }
  | _ => s
/-- Registers of tun `k`. -/
def State.tunSet (s : State) (k o : Nat) (v : Word) : State :=
  let n := v.toNat
  match o with
  | 0x04 => s.modTun k fun u =>
      { u with refused := u.refused && !bitOf n 11, missed := u.missed && !bitOf n 10, restored := u.restored && !bitOf n 9 }
  | 0x10 => s.modTun k fun u => { u with loadLen := v }
  | 0x44 => if bitOf n 31 then s.modTun k fun u =>
      { u with excValid := false, excMulti := false, excKind := 0, excCause := 0, excPc := 0 } else s
  | 0x48 => s.modTun k fun u => { u with arith := u.arith &&& ~~~(BitVec.ofNat 12 n) }
  | 0x6C => s.modTun k fun u =>
      let u := if bitOf n 31 then { u with memUe := false, memAddr := 0 } else u
      { u with memCe := zeroIf (bitsOf n 30 22 != 0) u.memCe }
  | _ =>
    match elemAt o 0x100 4 64 with
    | some q => if bitsOf n 21 16 == 0 then s else
        s.modTun k fun u => { u with queues := Tab.mod {} u.queues q fun x => { x with high := 0 } }
    | none => s
/-- Registers of stream queue `q`. -/
def State.sqSet (s : State) (q o : Nat) (v : Word) : State :=
  if o == 0x04 && bitsOf v.toNat 23 16 != 0 then s.modSq q fun x => { x with err := 0 } else s

/-- A register of a block is written by its access code. -/
def State.blockSet (s : State) (b : Bar0Block) (o : Nat) (v : Word) : State :=
  match b with
  | .grist => s.gristSet o v | .ftc => s.ftcSet o v | .hst => s.hstSet o v | .flt => s.fltSet o v | .clb => s.clbSet o v
  | .pwr => s.pwrSet o v | .sec => s.secSet o v | .hbm n => s.hbmSet n o v | .lnk n => s.lnkSet n o v | .mlt => s.mltSet o v
  | .grn => s.grnSet o v | .ltr n => s.ltrSet n o v | .col => s.colSet o v | .tun n => s.tunSet n o v | .sq n => s.sqSet n o v
  | .feat => s | .none_ => s

/-! ## Registers whose write is a command of its own -/

/-- SEC_CMD OWNER: the command that the OP of the block at SEC_ADDR names. -/
def State.ownerByBlock (s : State) (p : HostPort) : Out :=
  match natAt s.ownerBlock 4 2 with
  | 1 => execOwnerEnroll p [] s
  | 2 => execOwnerRelease p [] s
  | _ => execDebugUnlock p [] s
/-- The command that a write of a register with a row of its own is. -/
def State.commandWrite (s : State) (p : HostPort) (b : Bar0Block) (o : Nat) (v : Word) : Option Out :=
  let n := v.toNat
  match b with
  | .grist =>
    if o != 0 then none else
    some <| match n % 16 with
      | 1 => execGristStage p s | 2 => execGristCheck p s | 3 => execGristArm p s | 4 => execGristDisarm p s
      | 5 => execGristClear p s | 6 => execResolveKeep p s | 7 => execResolveApply p s
      | c => .next (s.hostWrite p 0x10000 fun s => s.gristRefuse c 1)
  | .ftc =>
    match o with
    | 0x020 => match n % 4 with | 1 => some (execFtcSet p s) | 2 => some (execClearTable p s) | _ => none
    | 0x214 => some (execDigReduce p (BitVec.ofNat 16 n) s)
    | _ => none
  | .flt =>
    match o with
    | 0x00 => if bitOf n 31 then some (execFltFirstClear p s) else none
    | 0x18 => some (execFltPinWrite p v s)
    | 0x28 =>
      match n % 8 with
      | 1 => some (execHold p s) | 2 => some (execHoldRelease p s) | 3 => some (execProve p s)
      | 4 => some (execAbortProve p s) | _ => none
    | _ => (elemAt o 0xD00 4 57).map fun w => execFltForce p (Fin.ofNat 57 w) v s
  | .clb => if o == 0x28 && bitOf n 0 then some (execClbClear p [] s) else none
  | .pwr =>
    match o with
    | 0x2C =>
      let mask := BitVec.ofNat 4 (n / 256)
      match n % 16 with
      | 1 => some (execWarm p s) | 2 => some (execFabric p s) | 3 => some (execStandby p s)
      | 4 => some (execDoze p mask s) | 5 => some (execWake p mask s) | _ => none
    | 0x30 =>
      let s := if bitOf n 31 then s.hostWrite p 0x060030 fun s =>
        if s.power.island.isSome then s else s.modPower fun p => { p with islRefused := false } else s
      some (execIslandReset p (BitVec.ofNat 9 n) s)
    | _ => none
  | .sec =>
    if o != 4 then none else
    match n % 8 with
    | 1 => some (execFwLoad p s) | 2 => some (s.ownerByBlock p) | 3 => some (execAttest p [] s)
    | 4 => some (execExportChain ⟨p, []⟩ s) | _ => none
  | .hbm k => if k == 0 && o == 4 then some (execHbmMapWrite p v s) else none
  | .lnk k => if o == 0 then some (execLnkEnable p (Fin.ofNat 14 k) v s) else none
  | .mlt =>
    match o with
    | 0x40 => match n % 4 with | 1 => some (execDiscRoot p s) | 2 => some (execDiscForget p s) | _ => none
    | 0x21000 => some (execMltSampCfgWrite p v s)
    | 0x3020C => match n % 4 with | 1 => some (execCatchupStart p s) | 2 => some (execCatchupAbandon p s) | _ => none
    | _ => none
  | .col =>
    match o with
    | 0x04 => match n % 4 with | 1 => some (execColReset p s) | 2 => some (execColResume p s) | _ => none
    | 0x14 => some (execColRetractGo p (BitVec.ofNat 8 n) s)
    | _ => none
  | .tun k =>
    let t := Fin.ofNat 192 k
    if o == 0 then
      some <| match n % 16 with
        | 1 => execTunLoad p t s | 2 => execArmLaunch p t s | 3 => execTunHalt p t s | 4 => execTunClear p t s
        | _ => .next (s.hostWrite p (tunOff k 0) fun s => s.tunRefuse k)
    else (elemAt o 0x400 4 256).map fun f => execTunFlagWrite p t (Fin.ofNat 256 f) v s
  | .sq k => if o == 0 then some (execSqEnable p (Fin.ofNat 4096 k) v s) else none
  | _ => none

/-! ## 64-bit values (R4) -/

/-- A 64-bit value whose low word lies at `o` of the block takes the value `d`, where and
when it is writable. -/
def State.pairStore (s : State) (b : Bar0Block) (o : Nat) (d : DWord) : State :=
  -- an address that must be a multiple of 2^k holds zeros in the bits below
  let aligned (k : Nat) : DWord := BitVec.ofNat 64 (d.toNat / 2 ^ k * 2 ^ k)
  match b with
  | .grist => if o == 0x08 then s.modGrist fun g => { g with src := d } else s
  | .ftc =>
    match o with
    | 0x018 => s.modTime fun t => { t with setTo := d }
    | 0x204 => s.modTime fun t => if bitOf t.digCfg.toNat 31 then t else { t with digBase := d }
    | _ => s
  | .hst =>
    match o with
    | 0x20 => s.modPort .a fun x => { x with winBase := aligned 30 }
    | 0x28 => s.modPort .b fun x => { x with winBase := aligned 30 }
    | _ => s
  | .clb => if o == 0x20 then s.modBook fun b => { b with src := d } else s
  | .sec => if o == 0x0C then s.modSec fun x => { x with addr := d } else s
  | .mlt =>
    match o with
    | 0x30000 => s.modJournal fun j => if bitOf j.cfg.toNat 15 then j else { j with base := aligned 30 }
    | 0x21008 => s.modCore fun c => if bitOf c.sampCfg.toNat 31 then c else { c with sampBase := aligned 20 }
    | 0x30200 => s.modCu fun c => match c.phase with | .idle => { c with man := d } | .failed => { c with man := d } | _ => c
    | _ => s
  | .tun k =>
    match o with
    | 0x08 => s.modTun k fun u => { u with loadSrc := d }
    | 0x18 => s.modTun k fun u => { u with launchAt := d }
    | _ => s
  | .sq k =>
    if (s.sq k).en then s else
    match o with
    | 0x08 => s.modSq k fun x => { x with descBase := d }
    | 0x10 => s.modSq k fun x => { x with cplBase := d }
    | _ => s
  | _ => s
/-- A half of the 64-bit value at `lo` of the block is written; `off` is `lo` in BAR0. DESIGN CHOICE
(log entry 94): R4 holds a low word for the next high write, and a register that ignores writes for
the moment (a base while EN = 1) ignores the value that the high write gives it, not the low word held;
GRIST_PITCH_AT outside PASS ignores both writes. -/
def State.pairHalf (s : State) (p : HostPort) (b : Bar0Block) (off lo : Nat) (high : Bool) (v : Word) : State :=
  let act (s : State) : State :=
    s.pairWrite p off high v (BitVec.ofNat 64 ((s.pairIn b lo).getD 0)) fun d s => s.pairStore b lo d
  match b, lo with
  | .grist, 0x18 => outState s (execGristPitchAtWrite p high v s)
  | .mlt, 0x30010 => outState s (execMltCjStepWrite p high v s)
  | .mlt, 0x30018 => outState s (execMltCjCommitWrite p high v s)
  | .col, 0x08 => outState s (execColRoundWrite p high v s)
  | .sq q, _ => s.sqWrite p q lo act
  | _, _ => s.hostWrite p off act
/-- The 64-bit value to which offset `o` of a block belongs: the offset of its low word, and
whether `o` is its high word. -/
def State.pairOf (s : State) (b : Bar0Block) (o : Nat) : Option (Nat × Bool) :=
  if (s.pairIn b o).isSome then some (o, false)
  else if 4 ≤ o && (s.pairIn b (o - 4)).isSome then some (o - 4, true)
  else none

/-! ## Accesses -/

/-- The MSI-X structure at a BAR0 offset: a table word, or a word of the PBA (R341). -/
def msixAt (off : Nat) : Option (Nat ⊕ Nat) :=
  if 0x038000 ≤ off && off < 0x040000 then some (.inl ((off - 0x038000) / 4))
  else if 0x030800 ≤ off && off < 0x030900 then some (.inr ((off - 0x030800) / 4))
  else none
/-- A complete aligned 32-bit write by port `p` (R5, R6, R9, R21, R23, R75, R341). -/
def State.write32 (s : State) (p : HostPort) (off : Nat) (v : Word) : State :=
  let s := s.flushPosted p
  let (b, o) := blockOf off
  if !s.portServes p then s else
  match msixAt off with
  | some (.inl i) =>
    if s.host.remote then s else
    let w := i % 4
    let v := if w == 3 then v &&& 1 else v
    (s.modPort p fun x => { x with msix := Tab.set (if w == 3 then 1 else 0) x.msix i v }).flushVector p (i / 4)
  | some (.inr _) => s
  | none =>
    if !b.has o then
      -- reserved: nothing but the status of a block that does not answer
      if (b.kettle.map s.asleep).getD false || (s.power.warm && !b.warmServed && b != .none_) then s.badAccess p 2
      else match b with | .tun n => if s.forwardOnly n then s.badAccess p 5 else s | _ => s
    else
      match s.pairOf b o with
      | some (lo, high) => s.pairHalf p b (off + lo - o) lo high v
      | none =>
        match s.commandWrite p b o v with
        | some r => outState s r
        | none =>
          match b with
          | .sq q => s.sqWrite p q o fun s => s.blockSet b o v
          | _ => s.hostWrite p off fun s => s.blockSet b o v
/-- LOW_WORD_WRITE (R4). -/
def execLowWordWrite (p : HostPort) (off : Nat) (v : Word) (s : State) : Out :=
  let s := s.flushPosted p
  if off % 4 != 0 then .next (if s.portServes p then s.badAccess p 1 else s) else .next (s.write32 p off v)
/-- HIGH_WORD_WRITE (R4). -/
def execHighWordWrite (p : HostPort) (off : Nat) (v : Word) (s : State) : Out :=
  let s := s.flushPosted p
  if off % 4 != 0 then .next (if s.portServes p then s.badAccess p 1 else s) else .next (s.write32 p off v)
/-- REGISTER_WRITE: 32 bits, or 64 bits as two accesses; any other is ignored and recorded
in the bad-access status (R21). -/
def execRegisterWrite (p : HostPort) (off size : Nat) (v : DWord) (s : State) : Out :=
  let s := s.flushPosted p
  let lo : Word := word v.toNat
  let hi : Word := word (v.toNat / 2 ^ 32)
  if size == 4 && off % 4 == 0 then .next (s.write32 p off lo)
  else if size == 8 && off % 8 == 0 then .next ((s.write32 p off lo).write32 p (off + 4) hi)
  else .next (if s.portServes p then s.badAccess p 1 else s)

/-- The blocks that do not answer now: of a sleeping kettle, but for TUN_STATUS of a
forward-only tun, or held by a warm reset (R23, R391). -/
def State.silent (s : State) (off : Nat) : Bool :=
  let (b, o) := blockOf off
  let fwd := match b with | .tun n => s.forwardOnly n && o == 4 | _ => false
  !fwd && ((b.kettle.map s.asleep).getD false) || (s.power.warm && !b.warmServed && b != .none_)
/-- A host read of a word, with its latches (R4); the value. -/
def State.read32 (s : State) (p : HostPort) (off : Nat) : State × Nat :=
  let (b, o) := blockOf off
  match msixAt off with
  | some _ =>
    if s.host.remote then (s, 0) else
    let x := s.port p
    (s, match msixAt off with
      | some (.inl i) => (x.msixWord (i / 4) (i % 4)).toNat
      | some (.inr i) => (List.range 32).foldl (fun t j => t + b2n (Tab.get false x.pba (32 * i + j)) * 2 ^ j) 0
      | none => 0)
  | none =>
    if s.silent off then (s.badAccess p 2, 0) else
    let s := match b with | .tun n => if s.forwardOnly n then s else s.touchKettle (n / 48) | _ => s
    match s.pairOf b o with
    | some (lo, false) =>
      let d := (s.pairIn b lo).getD 0
      (s.modPort p fun x => { x with latch := Tab.set none x.latch off (some (word (d / 2 ^ 32))) }, d % 2 ^ 32)
    | some (lo, true) =>
      match Tab.get none (s.port p).latch (off - 4) with
      | some h => (s.modPort p fun x => { x with latch := x.latch.drop (off - 4) }, h.toNat)
      | none => (s, (s.pairIn b lo).getD 0 / 2 ^ 32 % 2 ^ 32)
    | none => (s, s.regRead off)
/-- A read of up to 32 bits by a host whose data leaves at the port: the addressed bytes of the
word, which is read whole (R21). -/
def State.hostReadPart (s : State) (p : HostPort) (off size : Nat) : State :=
  let (s, v) := s.read32 p (off / 4 * 4)
  s.emit (.bar0 p off (word (v / 2 ^ (8 * (off % 4)) % 2 ^ (8 * size))))
/-- A read by a host: 64 bits as the low word and then the high one; a misaligned one is ignored
(R21). -/
def State.hostReadWord (s : State) (p : HostPort) (off size : Nat) : State :=
  let s := s.flushPosted p
  if !s.portServes p || size == 0 || off % size != 0 then s
  else if size == 8 then (s.hostReadPart p off 4).hostReadPart p (off + 4) 4
  else if size == 1 || size == 2 || size == 4 then s.hostReadPart p off size
  else s
/-- LOW_WORD_READ (R4, R21); of any other register, the ordinary read. -/
def execLowWordRead (p : HostPort) (r : BarRead) (s : State) : Out := .next (s.hostReadWord p r.off r.size)
/-- HIGH_WORD_READ (R4, R21). -/
def execHighWordRead (p : HostPort) (r : BarRead) (s : State) : Out := .next (s.hostReadWord p r.off r.size)

/-! ## Remote register accesses (R340) -/

/-- Perform `act` as an access from the port that holds the token, with latches and holds of
its own and no bad-access status. -/
def State.asRemote {α : Type} (s : State) (act : HostPort → State → State × α) : State × α :=
  let p := portOf s.host.holder
  let x := s.port p
  let (s, r) := act p ((s.modHost fun h => { h with remote := true }).modPort p fun x => { x with latch := [], hold := [] })
  ((s.modPort p fun y => { y with latch := x.latch, hold := x.hold }).modHost fun h => { h with remote := false }, r)
/-- Read `n` words from `off` on. -/
def readWords (p : HostPort) : Nat → Nat → State → State × List Byte
  | 0, _, s => (s, [])
  | n + 1, off, s =>
    let (s, v) := s.read32 p off
    let (s, bs) := readWords p n (off + 4) s
    (s, leBytes 4 v ++ bs)
/-- Write words from `off` on. -/
def writeWords (p : HostPort) : List Word → Nat → State → State
  | [], _, s => s
  | v :: vs, off, s => writeWords p vs (off + 4) (s.write32 p off v)
/-- REG_REQ: the target performs a remote register access, or refuses a write (R340); the cellar
counts a frame that it discards for its verdict, where no register shows it (R177). -/
def execRegReq (k : Nat) (s : State) : Out :=
  match s.inboxFor k [0x10] with
  | none => .next s
  | some x =>
    if !s.alive then .next s else
    let h := x.hdr
    let len := natAt x.payload 0 4
    let tag := natAt x.payload 4 2
    let off := h.opx.toNat
    if x.verdict != 0 then .next ((s.taken x).modCore fun c => { c with cellarBad := c.cellarBad + 1 })
    else if len % 4 != 0 || len == 0 || 4096 < len then .next (s.taken x) else
    let s := s.taken x
    let reply (s : State) (st : Nat) (data : List Byte) : State :=
      if s.alive then s.source { port := 28, hdr := s.replyHeader h 0x11 tag st, payload := data } else s
    if bitOf (byteAt x.payload 6) 0 then
      if !s.host.regWrEn then .next (reply s 1 []) else
      let ws := (List.range (len / 4)).map fun i => word (natAt x.payload (8 + 4 * i) 4)
      let s := if off % 4 == 0 then (s.asRemote fun p s => (writeWords p ws off s, ())).1 else s
      .next (reply s 0 [])
    else if off % 4 != 0 then .next (reply s 0 (zeros len))
    else
      let (s, bs) := s.asRemote fun p s => readWords p (len / 4) off s
      .next (reply s 0 bs)

/-! ## Internal reads -/

/-- An internal read: it latches nothing, and a block that does not answer reads 0 (R356). -/
def State.innerRead (s : State) (off : Nat) : Nat := if s.silent off then 0 else s.regRead off
/-- BOOK_SNAPSHOT: the snapshot of the oldest record that waits for one (R355, R356). -/
def execBookSnapshot (s : State) : Out :=
  if !s.on then .next s else
  match s.book.pending.findIdx? fun x => x.waiting with
  | none => .next s
  | some i =>
    let fill (x : BookRec) : BookRec :=
      let at_ := 0x208 + 200 * x.list
      let n := min 48 (s.field secRecorder at_ 2)
      { x with waiting := false,
               snaps := (List.range n).map fun j =>
                 let o := s.field secRecorder (at_ + 8 + 4 * j) 4
                 s.innerRead (o + 4) * 2 ^ 32 + s.innerRead o }
    .next (s.modBook fun b => { b with pending := b.pending.modify i fill })
/-- SEC_STATUS, FLT_HEALTH and PWR_BOOT (R405). -/
def State.mgmtStatus (s : State) : List Byte :=
  leBytes 4 (s.regRead 0x070000) ++ leBytes 4 (s.regRead 0x040020) ++ leBytes 4 (s.regRead 0x06003C)
/-- MGMT_STATUS (R405). -/
def execMgmtStatus (s : State) : Out :=
  if !s.mgmtOn then .next s else .next (s.mgmtReply s.mgmtStatus)

end Sys2Proof.Machine
end

