-- ==== Sys2Proof/Machine/Mgmt.lean ====
section
/-! DEFINITION. Machine/Mgmt.lean: the datagrams of the management lane (R342, R405): a frame that
the lane receives, the request that it carries, and the frames of the reply. -/
namespace Sys2Proof.Machine

/-- A field of `n` bytes at `i`, high byte first. -/
def beField (b : List Byte) (i n : Nat) : Nat := beNat (sliceB b i n)
/-- The ones' complement sum of the 16-bit words of a byte string (RFC 1071). -/
def sum16 : List Byte → Nat
  | [] => 0
  | [x] => x.toNat * 256
  | x :: y :: r => let t := x.toNat * 256 + y.toNat + sum16 r; t % 65536 + t / 65536

/-- A UDP datagram to the management core, with what its reply needs of the frame that carried it. -/
structure Datagram where
  mac     : List Byte              -- of the sender
  vlan    : List Byte              -- the VLAN tag, if there is one
  src     : List Byte              -- IPv4 addresses
  dst     : List Byte
  port    : Nat                    -- of the sender
  payload : List Byte
  deriving DecidableEq, Repr

/-- The port at which the management core answers (R405). -/
def mgmtPort : Nat := 51960
/-- The datagram to port 51,960 that an Ethernet frame carries: IPv4 without fragments, its header
checksum right, and its UDP checksum right or absent. PRESUMED (log entry 70): RFC 791, RFC 768. -/
def datagramOf (frame : List Byte) : Option Datagram :=
  let b := frame.take (frame.length - 4)
  let o := if beField b 12 2 == 0x8100 then 18 else 14
  let ihl := byteAt b o % 16 * 4
  let len := beField b (o + 2) 2
  let u := o + ihl
  let n := beField b (u + 4) 2
  let pseudo := sliceB b (o + 12) 8 ++ [0#8, 17#8] ++ beBytes 2 n
  if beField b (o - 2) 2 == 0x0800 && byteAt b o / 16 == 4 && 20 ≤ ihl && sum16 (sliceB b o ihl) == 0xFFFF
      && beField b (o + 6) 2 % 0x4000 == 0 && byteAt b (o + 9) == 17 && o + len ≤ b.length && 8 ≤ n && ihl + n ≤ len
      && beField b (u + 2) 2 == mgmtPort && (beField b (u + 6) 2 == 0 || sum16 (pseudo ++ sliceB b u n) == 0xFFFF)
  then some { mac := sliceB b 6 6, vlan := sliceB b 12 (o - 14), src := sliceB b (o + 12) 4, dst := sliceB b (o + 16) 4,
              port := beField b u 2, payload := sliceB b (u + 8) (n - 8) }
  else none
/-- The frame that carries `bs` back to the sender of a datagram. -/
def Datagram.reply (d : Datagram) (bs : List Byte) : List Byte :=
  let ip (sum : Nat) : List Byte := [0x45#8, 0#8] ++ beBytes 2 (28 + bs.length) ++ zeros 4 ++ [64#8, 17#8]
    ++ beBytes 2 sum ++ d.dst ++ d.src
  let f := d.mac ++ laneMac ++ d.vlan ++ [8#8, 0#8] ++ ip (0xFFFF - sum16 (ip 0))
    ++ beBytes 2 mgmtPort ++ beBytes 2 d.port ++ beBytes 2 (8 + bs.length) ++ zeros 2 ++ bs
  let f := fit (max 60 f.length) f
  f ++ leBytes 4 (crc32 f)
/-- What the management core answers to a request: a chain, an attestation, a status (R405). -/
def State.mgmtAnswer (s : State) (req : List Byte) : Option (List Byte) :=
  match natAt req 0 2, req.length with
  | 1, 2 => some chain
  | 2, 34 => if s.sec.life == 2 then none else some (s.report (req.drop 2))
  | 3, 2 => some s.mgmtStatus
  | _, _ => none
/-- MGMT_FRAME_RECEIVE: a frame that the lane does not take counts as dropped; a request that it
takes is answered in datagrams of at most 1,400 bytes, and a WAKE block acts (R342, R405). PTP frames
act by their own commands (R300). DESIGN CHOICE (log entry 70): a frame is received in block lock
alone, so that one sets LOCK. -/
def execMgmtFrameReceive (bytes : List Byte) (s : State) : Out :=
  if !s.power.powered || s.power.reset then .next s else
  let takes := mgmtTakes bytes
  let s := s.modHost fun h =>
    { h with mgmtLock := true, dropped := if takes then h.dropped else satInc 16 h.dropped }
  if !takes || !s.mgmtOn || bytes.take 6 != laneMac then .next s else
  match datagramOf bytes with
  | none => .next s
  | some d =>
    if natAt d.payload 0 2 == 4 then .next (s.mgmtWake (d.payload.drop 2)) else
    match s.mgmtAnswer d.payload with
    | none => .next s
    | some bs => .next ((mgmtPieces bs).foldl (fun s x => s.emit (.mgmt (d.reply x))) s)

end Sys2Proof.Machine
end

