-- ==== Sys2Proof/Machine/TapOps.lean ====
section
/-! DEFINITION. Machine/TapOps.lean: the IEEE 1149.1 TAP (R406, R412). -/
namespace Sys2Proof.Machine

/-- The next TAP state at a rising edge of TCK (IEEE 1149.1). -/
def TapPhase.next : TapPhase → Bool → TapPhase
  | .testLogicReset, t => if t then .testLogicReset else .runTestIdle
  | .runTestIdle, t => if t then .selectDr else .runTestIdle
  | .selectDr, t => if t then .selectIr else .captureDr
  | .captureDr, t => if t then .exit1Dr else .shiftDr
  | .shiftDr, t => if t then .exit1Dr else .shiftDr
  | .exit1Dr, t => if t then .updateDr else .pauseDr
  | .pauseDr, t => if t then .exit2Dr else .pauseDr
  | .exit2Dr, t => if t then .updateDr else .shiftDr
  | .updateDr, t => if t then .selectDr else .runTestIdle
  | .selectIr, t => if t then .testLogicReset else .captureIr
  | .captureIr, t => if t then .exit1Ir else .shiftIr
  | .shiftIr, t => if t then .exit1Ir else .shiftIr
  | .exit1Ir, t => if t then .updateIr else .pauseIr
  | .pauseIr, t => if t then .exit2Ir else .pauseIr
  | .exit2Ir, t => if t then .updateIr else .shiftIr
  | .updateIr, t => if t then .selectDr else .runTestIdle
/-- The instruction in force: 0 BYPASS, 1 SAMPLE/PRELOAD, 2 EXTEST, 3 DEBUG; DEBUG only
while the scope is nonzero (R406). -/
def State.tapInstr (s : State) : Nat :=
  let ir := s.tap.ir
  let n := if ir.all id then 0 else Config.tapDecode ir
  if 3 < n || (n == 3 && s.sec.scope == 0) then 0 else n
/-! ## The sideband lands (R412, R414, R415) -/

/-- The sideband lands of R409 and R412, the TAP's own apart. -/
inductive Land where
  | pkgRst | pwrGood | fault | therm | attn | present | perstA | perstB | ppsIn | ppsOut
  deriving DecidableEq, Repr
/-- A land's place in the row of R409. -/
def Land.num : Land → Nat
  | .pkgRst => 0 | .pwrGood => 1 | .fault => 2 | .therm => 3 | .attn => 4 | .present => 5 | .perstA => 6 | .perstB => 7
  | .ppsIn => 8 | .ppsOut => 9
/-- The lands in that order. -/
def lands : List Land := [.pkgRst, .pwrGood, .fault, .therm, .attn, .present, .perstA, .perstB, .ppsIn, .ppsOut]
/-- What the package does at a land: it drives it low or high, or leaves it high-impedance, as an
open-drain output does when it is released. -/
inductive Level where
  | low | high | highZ
  deriving DecidableEq, Repr
/-- An open-drain output. -/
def openDrain (low : Bool) : Level := if low then .low else .highZ
/-- The cellar die has taken the output lands: not while the package is unpowered or in reset
(R414, R415). DESIGN CHOICE (log entry 94): it takes them at once, where R414 gives it 100 µs. -/
def State.landsDriven (s : State) : Bool := s.power.powered && !s.power.reset
/-- What the package's own logic does at a land; PRESENT_N is strapped low in every state (R412). -/
def State.ownLevel (s : State) (x : Land) : Level :=
  if x == .present then .low else if !s.landsDriven then .highZ else
  match x with
  | .pwrGood => openDrain (!s.pwrGood)
  | .fault => openDrain s.fault.low
  | .therm => openDrain s.pins.thermLow
  | .attn => openDrain s.attnLow
  | .ppsOut => if s.pins.ppsOut then .high else .low
  | _ => .highZ
/-- A land is an output of the package. -/
def Land.output : Land → Bool
  | .pwrGood => true | .fault => true | .therm => true | .attn => true | .ppsOut => true | _ => false
/-- What the package does at a land: with EXTEST in force the boundary cells drive the outputs
(R406), an open-drain one low or not at all. -/
def State.landLevel (s : State) (x : Land) : Level :=
  if s.tapInstr == 2 && x.output && s.landsDriven then
    match s.tap.cells[Config.tapCell x.num]? with
    | some b => if x == .ppsOut && b then .high else openDrain (!b)
    | none => s.ownLevel x
  else s.ownLevel x
/-- TDO: driven in the shift states alone, and not in reset (R412, R414). -/
def State.tdo (s : State) : Level :=
  match s.landsDriven, s.tap.tdo with | true, some b => if b then .high else .low | _, _ => .highZ
/-- The bit that a boundary cell of a land captures, where the state gives the level of the land: of
a released output the board's pull resistor decides. -/
def State.landBit (s : State) (x : Land) : Option Bool :=
  match x with
  | .pkgRst => some (!s.power.reset)
  | .perstA => some (!s.host.a.perst)
  | .perstB => some (!s.host.b.perst)
  | _ => match s.landLevel x with | .low => some false | .high => some true | .highZ => none
/-- `n` bits of the present free value. -/
def State.freeBits (s : State) (n : Nat) : List Bool := (List.range n).map fun i => bitOf s.freeNat i
/-- What Capture-DR loads: 0 for BYPASS; the chains of the islands in scope, whose contents the spec
does not give; else the boundary cells, those of a land with the level of the land. -/
def State.captured (s : State) : List Bool :=
  match s.tapInstr with
  | 0 => [false]
  | 3 => s.freeBits (Config.tapChainLength s.sec.scope.toNat)
  | _ => (s.freeBits Config.tapBoundaryLength).mapIdx fun i b =>
      (((lands.find? fun x => Config.tapCell x.num == i).bind s.landBit)).getD b
/-- Change the TAP. -/
def State.modTap (s : State) (f : Tap → Tap) : State := { s with tap := f s.tap }
/-- A rising edge of TCK: capture, shift, and the next state. -/
def State.tapRise (s : State) (tms tdi : Bool) : State :=
  let s := match s.tap.phase with
    | .captureDr => let c := s.captured; (s.modTap fun t => { t with dr := c }).useFree
    | .shiftDr => s.modTap fun t => { t with dr := t.dr.drop 1 ++ [tdi] }
    | .captureIr =>
      let c := [true, false] ++ s.freeBits (Config.tapIrLength - 2)
      (s.modTap fun t => { t with irSh := c }).useFree
    | .shiftIr => s.modTap fun t => { t with irSh := t.irSh.drop 1 ++ [tdi] }
    | _ => s
  s.modTap fun t => { t with phase := t.phase.next tms }
/-- A falling edge of TCK: update, and TDO, driven in the shift states alone (R412). What DEBUG puts
into the chains is kept; the spec gives it no effect on the islands (log entry 71). -/
def State.tapFall (s : State) : State :=
  let boundary := s.tapInstr == 1 || s.tapInstr == 2
  let debug := s.tapInstr == 3
  s.modTap fun t =>
    match t.phase with
    | .testLogicReset => { t with ir := [], tdo := none }
    | .updateIr => { t with ir := t.irSh, tdo := none }
    | .updateDr => { t with cells := if boundary then t.dr else t.cells, chain := if debug then t.dr else t.chain,
                            tdo := none }
    | .shiftDr => { t with tdo := t.dr.head? }
    | .shiftIr => { t with tdo := t.irSh.head? }
    | _ => { t with tdo := none }
/-- TAP_TCK_EDGE (R406); the package reset holds the TAP (R414). -/
def execTapTckEdge (rising tms tdi : Bool) (s : State) : Out :=
  if !s.power.powered || s.power.reset || s.tap.trst then .next s
  else .next (if rising then s.tapRise tms tdi else s.tapFall)
/-- TAP_TRST (R412). -/
def execTapTrst (low : Bool) (s : State) : Out :=
  .next (s.modTap fun t =>
    if low then { t with trst := true, phase := .testLogicReset, ir := [], tdo := none } else { t with trst := false })

end Sys2Proof.Machine
end

