-- ==== Sys2Proof/Machine/TunMatrix.lean ====
section
/-! DEFINITION. Machine/TunMatrix.lean: the matrix instructions (R90 to R95) and the start
and completion of products (R94). -/
namespace Sys2Proof.Machine

/-! ## Loads -/

/-- MLDS, MLDW: SRC0 becomes a row of S or a column of W in cycle t + 1 (R91). -/
def State.loadRow (s : State) (id : Nat) (x : Slot) (isW : Bool) (tile row : Nat) : State :=
  let u := s.tun id
  match u.read0 x.w x.cycle with
  | none => s.slipEmpty id x
  | some (e, u') =>
    let r := if isW then 4 + tile else tile
    match u.busyOf x.cycle [r] with
    | some r => s.slipRes id x r
    | none => (s.setTun id u').fly id x 1 (.tileRow isW tile row (modeFmt (insMode x.w)) e) 0
/-- MLDS. -/
def execMlds (t : Fin 192) (s : State) : Out :=
  .next (s.issue t 0x20 fun s x imm => s.loadRow t x false (modeS (insMode x.w)) (imm % 64))
/-- MLDW. -/
def execMldw (t : Fin 192) (s : State) : Out :=
  .next (s.issue t 0x21 fun s x imm => s.loadRow t x true (modeW (insMode x.w)) (imm % 64))
/-- MLDSC: SRC0 becomes a scale slot with its format, block size and direction (R91). -/
def execMldsc (t : Fin 192) (s : State) : Out :=
  .next (s.issue t 0x22 fun s x imm =>
    let m := insMode x.w
    let isW := bitOf m 8
    let tile := if isW then modeW m else modeS m
    let u := s.tun t
    match u.read0 x.w x.cycle with
    | none => s.slipEmpty t x
    | some (e, u') =>
      match u.busyOf x.cycle [if isW then 4 + tile else tile] with
      | some r => s.slipRes t x r
      | none =>
        (s.setTun t u').fly t x 1
          (.slot isW tile (imm % 4) (b2n (bitOf m 7)) (bitsOf m 6 4) (bitsOf m 3 2) e) 0)

/-! ## Products -/

/-- A matrix product issues (R85, R94): `bitmap` is MMTB's. -/
def State.product (s : State) (id : Nat) (x : Slot) (bitmap : Option Nat) : State :=
  let m := insMode x.w
  let u := s.tun id
  let si := modeS m
  let wi := modeW m
  let a := modeA m
  let st := u.tileS si
  let wt := u.tileW wi
  let sparse := bitmap.isSome || st.sparse
  let queue := if sparse then u.sparse else u.dense
  if u.pending x.cycle si || !st.complete then s.slipRes id x si
  else if u.pending x.cycle (4 + wi) || !wt.complete then s.slipRes id x (4 + wi)
  else if u.pending x.cycle (8 + a) then s.slipRes id x (8 + a)
  else if 4 ≤ (queue.filter fun p => x.cycle < p.start).length then
    s.slipRes id x (if sparse then 41 else 40)
  else
    let fb := sparse && bitmap.isNone && !(fmtIsInt st.fmt && fmtIsInt wt.fmt && !modeSs m && !modeWs m)
      && needFallback st wt (modeSs m) (modeWs m)
    let (busy, len) := productTimes st wt sparse fb bitmap
    let other := if sparse then u.dense else u.sparse
    let start := (other.filter fun p => p.acc == a).foldl (fun c (p : Product) => max c (p.complete + 1))
      (max (x.cycle + 1) (if sparse then u.sparseFree else u.denseFree))
    let p : Product :=
      { issue := x.cycle, start := start, busy := busy, complete := start + len, sTile := si, wTile := wi,
        acc := a, s := st, w := wt, ss := modeSs m, ws := modeWs m, sparse := sparse, fallback := fb,
        bitmap := bitmap }
    s.modTun id fun u =>
      if sparse then { u with sparse := u.sparse ++ [p], sparseFree := start + busy }
      else { u with dense := u.dense ++ [p], denseFree := start + busy }
/-- MMT. -/
def execMmt (t : Fin 192) (s : State) : Out :=
  .next (s.issue t 0x23 fun s x _ => s.product t x none)
/-- MMTB: IMM is the presence bitmap. -/
def execMmtb (t : Fin 192) (s : State) : Out :=
  .next (s.issue t 0x24 fun s x imm => s.product t x (some imm))

/-- The first waiting product of an engine starts, in the cycle that R94 fixed at issue, once
every earlier one on its accumulator tile in the other engine has completed. -/
def execMatrixProductStart (t : Fin 192) (sparse : Bool) (s : State) : Out :=
  let u := s.tun t
  match (u.engine sparse).find? fun p => !p.started with
  | none => .next s
  | some p =>
    let behind := (u.engine !sparse).any fun q => q.acc == p.acc && q.issue < p.issue
    if s.tunActs t && u.past p.start && !behind then
      .next ((s.reach (s.landFtc t p.start)).modTun t fun u =>
        (u.atCycle p.start).setEngine sparse
          ((u.engine sparse).map fun q => if q.issue == p.issue then { q with started := true } else q))
    else .next s
/-- The first product of an engine completes: it writes its accumulator tile and its
sticky flags (R94, R121). -/
def execMatrixProductComplete (t : Fin 192) (sparse : Bool) (s : State) : Out :=
  let u := s.tun t
  match u.engine sparse with
  | [] => .next s
  | p :: rest =>
    if s.tunActs t && p.started && u.past p.complete then
      .next ((s.reach (s.landFtc t p.complete)).modTun t fun u =>
        ((u.write p).atCycle p.complete).setEngine sparse rest)
    else .next s

/-! ## Stores and clearing -/

/-- Convert `n` FP32 or INT32 words to a format: the packed entry and the flags
(R92, R97, R116 to R118). `base` is the element index of the first. DESIGN CHOICE (log entry 94):
of a word that spells a signalling NaN, converted as FP32, R117 names no flag and row 5 of R120 NV;
NV is set, an integer product's word (MST with AINT = 0) included. -/
def convertWords (fmt : Nat) (isInt rnd : Bool) (layer base seed : Nat) (xs : List Nat) : Nat × Nat :=
  let ys := (List.range xs.length).map fun i =>
    let x := xs.getD i 0
    let v := if isInt then fvOf 9 x else fvOf 0 x
    let r := if rnd then some (srBits layer ((base + i) % 2 ^ 32) seed) else none
    let (y, f) := convertFv fmt r false v
    (y, if !isInt && isSnan 0 x then Nat.lor f 8 else f)
  (packElems (fmtBits fmt) (ys.map (·.1)), ys.foldl (fun a y => Nat.lor a y.2) 0)
/-- TUN_PARAM[62] and TUN_PARAM[63]: element index base and seed (R92). -/
def Tun.srParams (u : Tun) : Nat × Nat := ((Tab.get 0 u.params 62).toNat, (Tab.get 0 u.params 63).toNat)
/-- MST: one segment of one accumulator row, converted and pushed at t + 3 (R92). -/
def execMst (t : Fin 192) (s : State) : Out :=
  .next (s.issue t 0x25 fun s x imm =>
    let m := insMode x.w
    let u := s.tun t
    let a := modeA m
    match u.busyOf x.cycle [8 + a] with
    | some r => s.slipRes t x r
    | none =>
      let fmt := modeFmt m
      let n := fmtLanes fmt
      let row := imm % 64
      let c0 := n * bitsOf imm 7 6
      let cells := (List.range n).map fun i => row * 64 + c0 + i
      let (p62, seed) := u.srParams
      let layer := bitsOf imm 31 16
      let (e, f) := convertWords fmt (bitOf m 21) (bitOf m 23) layer (p62 + 64 * row + c0) seed
        (cells.map fun k => (Tab.get 0 u.acc (a * 4096 + k)).toNat)
      let entry : Entry := BitVec.ofNat 512 e
      let s := s.fly t x 3 (.push (dstsOf x.w) entry) (engineBits .dense f)
      let s := if bitOf m 22 then s.fly t x 1 (.accZero a cells) 0 else s
      s.digestItem t layer entry)
/-- MZERO: zero all of A in cycle t + 1. -/
def execMzero (t : Fin 192) (s : State) : Out :=
  .next (s.issue t 0x26 fun s x _ =>
    let a := modeA (insMode x.w)
    match (s.tun t).busyOf x.cycle [8 + a] with
    | some r => s.slipRes t x r
    | none => s.fly t x 1 (.accZero a (List.range 4096)) 0)
/-- MSETF: raise an own flag after the last product issued before completes (R95). DESIGN
CHOICE (log entry 86): with incomplete products in both engines, the last of their
completions counts. -/
def execMsetf (t : Fin 192) (s : State) : Out :=
  .next (s.issue t 0x27 fun s x imm =>
    let flag := insMode x.w % 256
    match s.ownerFault t t flag with
    | some k => s.exception t 1 k 0 x.pc.num
    | none =>
      let u := s.tun t
      let last := (u.dense ++ u.sparse).foldl (fun c (p : Product) => max c (p.complete + 1)) (x.cycle + 1)
      s.fly t x (last - x.cycle) (.raise flag (imm % 65536)) 0)

end Sys2Proof.Machine
end

