-- ==== Sys2Proof/Machine/TunMover.lean ====
section
/-! DEFINITION. Machine/TunMover.lean: the mover instructions (R89). -/
namespace Sys2Proof.Machine

/-- The replay and patch regions are reserved and the address lies in one (R72). -/
def Tun.reservedAt (t : Tun) (a : Nat) : Bool :=
  match t.program with
  | some p => (!p.replay.isEmpty || !p.patches.isEmpty) && 0x3E0000 ≤ a % 2 ^ 22
  | none => false

/-- MOVL: read 64 bytes in cycle t + 1 and push them in cycle t + 4. -/
def execMovl (t : Fin 192) (e : Ecc) (s : State) : Out :=
  .next (s.issue t 0x10 fun s x imm =>
    let a := imm % 2 ^ 22 / 64 * 64
    if (s.tun t).reservedAt a then s.exception t 2 6 0 x.pc.num
    else s.fly t x 1 (.memRead a (dstsOf x.w) e) 0)
/-- MOVS: write SRC0 to tun memory in cycle t + 1. -/
def execMovs (t : Fin 192) (s : State) : Out :=
  .next (s.issue t 0x11 fun s x imm =>
    let a := imm % 2 ^ 22 / 64 * 64
    if (s.tun t).reservedAt a then s.exception t 2 6 0 x.pc.num
    else match (s.tun t).read0 x.w x.cycle with
      | none => s.slipEmpty t x
      | some (e, u) => (s.setTun t u).fly t x 1 (.memWrite a e) 0)
/-- MOVQ: push SRC0 in cycle t + 1. -/
def execMovq (t : Fin 192) (s : State) : Out :=
  .next (s.issue t 0x12 fun s x _ =>
    match (s.tun t).read0 x.w x.cycle with
    | none => s.slipEmpty t x
    | some (e, u) => (s.setTun t u).fly t x 1 (.push (dstsOf x.w) e) 0)
/-- MOVZ: push an all-zero entry in cycle t + 1. -/
def execMovz (t : Fin 192) (s : State) : Out :=
  .next (s.issue t 0x13 fun s x _ => s.fly t x 1 (.push (dstsOf x.w) 0) 0)

end Sys2Proof.Machine
end

