-- ==== Sys2Proof/Machine/TunVector.lean ====
section
/-! DEFINITION. Machine/TunVector.lean: the vector instructions (R96, R97, R119). -/
namespace Sys2Proof.Machine

/-- Lane `i` of register `v`. -/
def Tun.lane (u : Tun) (v i : Nat) : Nat := (Tab.get 0 u.vregs (v * 64 + i)).toNat
/-- A vector instruction that reads the registers `rs` and writes all lanes of VD: `f`
gives each lane's value and flags (R85, R97). The order of `rs`, then VD, is R85's. -/
def State.vectorOp (s : State) (id : Nat) (x : Slot) (rs : List Nat) (lat : Nat)
    (f : Tun → Nat → Nat × Nat) : State :=
  let u := s.tun id
  let vd := modeVd (insMode x.w)
  match u.busyOf x.cycle ((rs ++ [vd]).map (24 + ·)) with
  | some r => s.slipRes id x r
  | none =>
    let ys := (List.range 64).map (f u)
    let lanes := (List.range 64).map fun i => (i, word (ys.getD i (0, 0)).1)
    s.fly id x lat (.vreg vd lanes) (engineBits .vector (ys.foldl (fun a y => Nat.lor a y.2) 0))
/-- A lane-by-lane operation on VA and VB. -/
def State.vectorAB (s : State) (id : Nat) (x : Slot) (lat : Nat) (f : Nat → Nat → Nat × Nat) : State :=
  let m := insMode x.w
  s.vectorOp id x [modeVa m, modeVb m] lat fun u i => f (u.lane (modeVa m) i) (u.lane (modeVb m) i)
/-- A lane-by-lane operation on VA. -/
def State.vectorA (s : State) (id : Nat) (x : Slot) (lat : Nat) (f : Nat → Nat × Nat) : State :=
  let m := insMode x.w
  s.vectorOp id x [modeVa m] lat fun u i => f (u.lane (modeVa m) i)

/-- VLD: convert SRC0's elements to FP32 into part q of VD at t + 2. -/
def execVld (t : Fin 192) (s : State) : Out :=
  .next (s.issue t 0x30 fun s x imm =>
    let m := insMode x.w
    let u := s.tun t
    match u.read0 x.w x.cycle with
    | none => s.slipEmpty t x
    | some (e, u') =>
      match u.busyOf x.cycle [24 + modeVd m] with
      | some r => s.slipRes t x r
      | none =>
        let fmt := modeFmt m
        let n := fmtLanes fmt
        let ys := (List.range n).map fun i => loadLane fmt (entryElem e (fmtBits fmt) i)
        let lanes := (List.range n).map fun i => (n * (imm % 4) + i, word (ys.getD i (0, 0)).1)
        (s.setTun t u').fly t x 2 (.vreg (modeVd m) lanes)
          (engineBits .vector (ys.foldl (fun a y => Nat.lor a y.2) 0)))
/-- VST: convert part q of VA to the format and push it at t + 3. -/
def execVst (t : Fin 192) (s : State) : Out :=
  .next (s.issue t 0x31 fun s x imm =>
    let m := insMode x.w
    let u := s.tun t
    match u.busyOf x.cycle [24 + modeVa m] with
    | some r => s.slipRes t x r
    | none =>
      let fmt := modeFmt m
      let n := fmtLanes fmt
      let l0 := n * (imm % 4)
      let (p62, seed) := u.srParams
      let layer := bitsOf imm 31 16
      let (e, f) := convertWords fmt false (bitOf m 23) layer (p62 + l0) seed
        ((List.range n).map fun i => u.lane (modeVa m) (l0 + i))
      let entry : Entry := BitVec.ofNat 512 e
      (s.fly t x 3 (.push (dstsOf x.w) entry) (engineBits .vector f)).digestItem t layer entry)
/-- VADD. -/
def execVadd (t : Fin 192) (s : State) : Out :=
  .next (s.issue t 0x32 fun s x _ => s.vectorAB t x 4 f32Add)
/-- VSUB. -/
def execVsub (t : Fin 192) (s : State) : Out :=
  .next (s.issue t 0x33 fun s x _ => s.vectorAB t x 4 f32Sub)
/-- VMUL. -/
def execVmul (t : Fin 192) (s : State) : Out :=
  .next (s.issue t 0x34 fun s x _ => s.vectorAB t x 4 f32Mul)
/-- VFMA: VA × VB + VC, rounded once. -/
def execVfma (t : Fin 192) (s : State) : Out :=
  .next (s.issue t 0x35 fun s x _ =>
    let m := insMode x.w
    s.vectorOp t x [modeVa m, modeVb m, modeVc m] 4 fun u i =>
      f32Fma (u.lane (modeVa m) i) (u.lane (modeVb m) i) (u.lane (modeVc m) i))
/-- VMAX. -/
def execVmax (t : Fin 192) (s : State) : Out :=
  .next (s.issue t 0x36 fun s x _ => s.vectorAB t x 2 f32Max)
/-- VMIN. -/
def execVmin (t : Fin 192) (s : State) : Out :=
  .next (s.issue t 0x37 fun s x _ => s.vectorAB t x 2 f32Min)
/-- VCMP: 1.0 where the predicate holds, else +0. -/
def execVcmp (t : Fin 192) (s : State) : Out :=
  .next (s.issue t 0x38 fun s x _ => s.vectorAB t x 2 fun a b =>
    (if f32Cmp (bitsOf (insMode x.w) 19 18) a b then 0x3F800000 else 0, 0))
/-- VSEL: VA where the VC lane is not ±0, else VB. -/
def execVsel (t : Fin 192) (s : State) : Out :=
  .next (s.issue t 0x39 fun s x _ =>
    let m := insMode x.w
    s.vectorOp t x [modeVa m, modeVb m, modeVc m] 2 fun u i =>
      (if u.lane (modeVc m) i % 2 ^ 31 == 0 then u.lane (modeVb m) i else u.lane (modeVa m) i, 0))
/-- VBCAST: IMM in every lane; a NaN pattern becomes the canonical NaN. -/
def execVbcast (t : Fin 192) (s : State) : Out :=
  .next (s.issue t 0x3A fun s x imm => s.vectorOp t x [] 1 fun _ _ =>
    if f32IsNan imm then (0x7FC00000, if isSnan 0 imm then 8 else 0) else (imm, 0))

/-- Adjacent pairs combined. -/
def treeLevel (f : Nat → Nat → Nat × Nat) : List Nat → List Nat × Nat
  | a :: b :: rest =>
    let (xs, g) := treeLevel f rest
    let (v, h) := f a b
    (v :: xs, Nat.lor g h)
  | xs => (xs, 0)
/-- The fixed tree of six levels over 64 lanes (R97). -/
def treeReduce (f : Nat → Nat → Nat × Nat) (xs : List Nat) : Nat × Nat :=
  let r := (List.range 6).foldl (fun (a : List Nat × Nat) _ =>
    let (ys, g) := treeLevel f a.1
    (ys, Nat.lor a.2 g)) (xs, 0)
  (r.1.headD 0, r.2)
/-- A reduction of VA in the fixed tree, its result in every lane. -/
def State.vectorTree (s : State) (id : Nat) (x : Slot) (lat : Nat) (f : Nat → Nat → Nat × Nat) : State :=
  let m := insMode x.w
  let r := treeReduce f ((List.range 64).map ((s.tun id).lane (modeVa m)))
  s.vectorOp id x [modeVa m] lat fun _ _ => r
/-- VREDSUM. -/
def execVredsum (t : Fin 192) (s : State) : Out :=
  .next (s.issue t 0x3B fun s x _ => s.vectorTree t x 12 f32Add)
/-- VREDMAX. -/
def execVredmax (t : Fin 192) (s : State) : Out :=
  .next (s.issue t 0x3C fun s x _ => s.vectorTree t x 8 f32Max)
/-- VEXP. -/
def execVexp (t : Fin 192) (s : State) : Out :=
  .next (s.issue t 0x40 fun s x _ => s.vectorA t x 12 f32Exp)
/-- VLOG. -/
def execVlog (t : Fin 192) (s : State) : Out :=
  .next (s.issue t 0x41 fun s x _ => s.vectorA t x 12 f32Log)
/-- VRCP. -/
def execVrcp (t : Fin 192) (s : State) : Out :=
  .next (s.issue t 0x42 fun s x _ => s.vectorA t x 12 f32Rcp)
/-- VRSQRT. -/
def execVrsqrt (t : Fin 192) (s : State) : Out :=
  .next (s.issue t 0x43 fun s x _ => s.vectorA t x 12 f32Rsqrt)
/-- VTANH. -/
def execVtanh (t : Fin 192) (s : State) : Out :=
  .next (s.issue t 0x44 fun s x _ => s.vectorA t x 12 f32Tanh)
/-- VSIGM. -/
def execVsigm (t : Fin 192) (s : State) : Out :=
  .next (s.issue t 0x45 fun s x _ => s.vectorA t x 12 f32Sigm)

end Sys2Proof.Machine
end

