-- ==== Sys2Proof/Machine/Dispatch.lean ====
section
/-! DEFINITION. Machine/Dispatch.lean: the one match that gives each command its
meaning. -/
namespace Sys2Proof.Machine

/-- One command's effect on everything but the queue. -/
def exec (i : Instr) (s : State) : Host.Outcome State Fault Refusal :=
  match i with
  | .lowWordRead p r => Sys2Proof.Machine.execLowWordRead p r s
  | .highWordRead p r => Sys2Proof.Machine.execHighWordRead p r s
  | .lowWordWrite p off v => Sys2Proof.Machine.execLowWordWrite p off v s
  | .highWordWrite p off v => Sys2Proof.Machine.execHighWordWrite p off v s
  | .registerWrite p off size v => Sys2Proof.Machine.execRegisterWrite p off size v s
  | .crossingDeliver x => Sys2Proof.Machine.execCrossingDeliver x s
  | .gristStage p => Sys2Proof.Machine.execGristStage p s
  | .stageComplete e => Sys2Proof.Machine.execStageComplete e s
  | .gristCheck p => Sys2Proof.Machine.execGristCheck p s
  | .checkComplete => Sys2Proof.Machine.execCheckComplete s
  | .gristArm p => Sys2Proof.Machine.execGristArm p s
  | .gristDisarm p => Sys2Proof.Machine.execGristDisarm p s
  | .gristClear p => Sys2Proof.Machine.execGristClear p s
  | .resolveKeep p => Sys2Proof.Machine.execResolveKeep p s
  | .resolveApply p => Sys2Proof.Machine.execResolveApply p s
  | .gristPitchAtWrite p high v => Sys2Proof.Machine.execGristPitchAtWrite p high v s
  | .hbmMapWrite p v => Sys2Proof.Machine.execHbmMapWrite p v s
  | .quiescentVote => Sys2Proof.Machine.execQuiescentVote s
  | .voteContribution k => Sys2Proof.Machine.execVoteContribution k s
  | .voteReductionComplete => Sys2Proof.Machine.execVoteReductionComplete s
  | .voteDeadline => Sys2Proof.Machine.execVoteDeadline s
  | .voteResult k => Sys2Proof.Machine.execVoteResult k s
  | .pitchCount => Sys2Proof.Machine.execPitchCount s
  | .freezeRelease => Sys2Proof.Machine.execFreezeRelease s
  | .tunLoad p t => Sys2Proof.Machine.execTunLoad p t s
  | .loadComplete t e => Sys2Proof.Machine.execLoadComplete t e s
  | .armLaunch p t => Sys2Proof.Machine.execArmLaunch p t s
  | .tunHalt p t => Sys2Proof.Machine.execTunHalt p t s
  | .tunClear p t => Sys2Proof.Machine.execTunClear p t s
  | .tunFlagWrite p t f v => Sys2Proof.Machine.execTunFlagWrite p t f v s
  | .launch t => Sys2Proof.Machine.execLaunch t s
  | .resultPush t => Sys2Proof.Machine.execResultPush t s
  | .issuePastStore t => Sys2Proof.Machine.execIssuePastStore t s
  | .tunEnterDone t => Sys2Proof.Machine.execTunEnterDone t s
  | .portQueueTransfer t q => Sys2Proof.Machine.execPortQueueTransfer t q s
  | .flagRaiseLand => Sys2Proof.Machine.execFlagRaiseLand s
  | .flagWaitResume a => Sys2Proof.Machine.execFlagWaitResume a s
  | .flagWalkHop a => Sys2Proof.Machine.execFlagWalkHop a s
  | .flagCycleRecheck a => Sys2Proof.Machine.execFlagCycleRecheck a s
  | .flagWaitTimeout a => Sys2Proof.Machine.execFlagWaitTimeout a s
  | .matrixProductStart t sparse => Sys2Proof.Machine.execMatrixProductStart t sparse s
  | .matrixProductComplete t sparse => Sys2Proof.Machine.execMatrixProductComplete t sparse s
  | .nop t => Sys2Proof.Machine.execNop t s
  | .waitCycles t => Sys2Proof.Machine.execWaitCycles t s
  | .tunEnd t => Sys2Proof.Machine.execTunEnd t s
  | .tunLoop t => Sys2Proof.Machine.execTunLoop t s
  | .replay t => Sys2Proof.Machine.execReplay t s
  | .setf t => Sys2Proof.Machine.execSetf t s
  | .waitf t => Sys2Proof.Machine.execWaitf t s
  | .setp t => Sys2Proof.Machine.execSetp t s
  | .rdcyc t => Sys2Proof.Machine.execRdcyc t s
  | .rdftc t => Sys2Proof.Machine.execRdftc t s
  | .rdocc t => Sys2Proof.Machine.execRdocc t s
  | .rdflag t => Sys2Proof.Machine.execRdflag t s
  | .movl t e => Sys2Proof.Machine.execMovl t e s
  | .movs t => Sys2Proof.Machine.execMovs t s
  | .movq t => Sys2Proof.Machine.execMovq t s
  | .movz t => Sys2Proof.Machine.execMovz t s
  | .mlds t => Sys2Proof.Machine.execMlds t s
  | .mldw t => Sys2Proof.Machine.execMldw t s
  | .mldsc t => Sys2Proof.Machine.execMldsc t s
  | .mmt t => Sys2Proof.Machine.execMmt t s
  | .mmtb t => Sys2Proof.Machine.execMmtb t s
  | .mst t => Sys2Proof.Machine.execMst t s
  | .mzero t => Sys2Proof.Machine.execMzero t s
  | .msetf t => Sys2Proof.Machine.execMsetf t s
  | .vld t => Sys2Proof.Machine.execVld t s
  | .vst t => Sys2Proof.Machine.execVst t s
  | .vadd t => Sys2Proof.Machine.execVadd t s
  | .vsub t => Sys2Proof.Machine.execVsub t s
  | .vmul t => Sys2Proof.Machine.execVmul t s
  | .vfma t => Sys2Proof.Machine.execVfma t s
  | .vmax t => Sys2Proof.Machine.execVmax t s
  | .vmin t => Sys2Proof.Machine.execVmin t s
  | .vcmp t => Sys2Proof.Machine.execVcmp t s
  | .vsel t => Sys2Proof.Machine.execVsel t s
  | .vbcast t => Sys2Proof.Machine.execVbcast t s
  | .vredsum t => Sys2Proof.Machine.execVredsum t s
  | .vredmax t => Sys2Proof.Machine.execVredmax t s
  | .vexp t => Sys2Proof.Machine.execVexp t s
  | .vlog t => Sys2Proof.Machine.execVlog t s
  | .vrcp t => Sys2Proof.Machine.execVrcp t s
  | .vrsqrt t => Sys2Proof.Machine.execVrsqrt t s
  | .vtanh t => Sys2Proof.Machine.execVtanh t s
  | .vsigm t => Sys2Proof.Machine.execVsigm t s
  | .streamReadIssue st => Sys2Proof.Machine.execStreamReadIssue st s
  | .streamReadReturn st e => Sys2Proof.Machine.execStreamReadReturn st e s
  | .streamWritePerform st e => Sys2Proof.Machine.execStreamWritePerform st e s
  | .spargeStep g e => Sys2Proof.Machine.execSpargeStep g e s
  | .hbmCalibration n cellar => Sys2Proof.Machine.execHbmCalibration n cellar s
  | .bar4Read p off len e => Sys2Proof.Machine.execBar4Read p off len e s
  | .bar4Write p off bytes e => Sys2Proof.Machine.execBar4Write p off bytes e s
  | .journalCopy k => Sys2Proof.Machine.execJournalCopy k s
  | .journalMirror k => Sys2Proof.Machine.execJournalMirror k s
  | .journalAck k => Sys2Proof.Machine.execJournalAck k s
  | .mltCjStepWrite p high v => Sys2Proof.Machine.execMltCjStepWrite p high v s
  | .mltCjCommitWrite p high v => Sys2Proof.Machine.execMltCjCommitWrite p high v s
  | .frameIngress p => Sys2Proof.Machine.execFrameIngress p s
  | .frameLookup k => Sys2Proof.Machine.execFrameLookup k s
  | .frameAdmission k => Sys2Proof.Machine.execFrameAdmission k s
  | .fabricDescriptorHop second plane place => Sys2Proof.Machine.execFabricDescriptorHop second plane place s
  | .resequencerRelease p => Sys2Proof.Machine.execResequencerRelease p s
  | .egressSlot p plane => Sys2Proof.Machine.execEgressSlot p plane s
  | .frameTail k e => Sys2Proof.Machine.execFrameTail k e s
  | .referenceRelease k => Sys2Proof.Machine.execReferenceRelease k s
  | .bindingFrameSend t q => Sys2Proof.Machine.execBindingFrameSend t q s
  | .writeStreamReceive k => Sys2Proof.Machine.execWriteStreamReceive k s
  | .readReq k e => Sys2Proof.Machine.execReadReq k e s
  | .readReply k => Sys2Proof.Machine.execReadReply k s
  | .hbmWrite k => Sys2Proof.Machine.execHbmWrite k s
  | .replyReserve r => Sys2Proof.Machine.execReplyReserve r s
  | .replyTimeout tag => Sys2Proof.Machine.execReplyTimeout tag s
  | .tokenBucketPass k => Sys2Proof.Machine.execTokenBucketPass k s
  | .recipeRunStart u => Sys2Proof.Machine.execRecipeRunStart u s
  | .recipeRunEnd u => Sys2Proof.Machine.execRecipeRunEnd u s
  | .residueRetry u => Sys2Proof.Machine.execResidueRetry u s
  | .recEnd u => Sys2Proof.Machine.execRecEnd u s
  | .recLoop u => Sys2Proof.Machine.execRecLoop u s
  | .recLd u => Sys2Proof.Machine.execRecLd u s
  | .recLdr u => Sys2Proof.Machine.execRecLdr u s
  | .recEmit u => Sys2Proof.Machine.execRecEmit u s
  | .recEmitr u => Sys2Proof.Machine.execRecEmitr u s
  | .recEmitc u => Sys2Proof.Machine.execRecEmitc u s
  | .recCat u => Sys2Proof.Machine.execRecCat u s
  | .recCata u => Sys2Proof.Machine.execRecCata u s
  | .recFacc u bad => Sys2Proof.Machine.execRecFacc u bad s
  | .recFadd u bad => Sys2Proof.Machine.execRecFadd u bad s
  | .recXadd u bad => Sys2Proof.Machine.execRecXadd u bad s
  | .recXemit u => Sys2Proof.Machine.execRecXemit u s
  | .recIadd u bad => Sys2Proof.Machine.execRecIadd u bad s
  | .recMin u => Sys2Proof.Machine.execRecMin u s
  | .recMax u => Sys2Proof.Machine.execRecMax u s
  | .recAnd u => Sys2Proof.Machine.execRecAnd u s
  | .recOr u => Sys2Proof.Machine.execRecOr u s
  | .recXor u => Sys2Proof.Machine.execRecXor u s
  | .recCmp u => Sys2Proof.Machine.execRecCmp u s
  | .recSel u => Sys2Proof.Machine.execRecSel u s
  | .recMovv u => Sys2Proof.Machine.execRecMovv u s
  | .recMovc u => Sys2Proof.Machine.execRecMovc u s
  | .recCompact u => Sys2Proof.Machine.execRecCompact u s
  | .recSort u => Sys2Proof.Machine.execRecSort u s
  | .recMerge u => Sys2Proof.Machine.execRecMerge u s
  | .recTopk u => Sys2Proof.Machine.execRecTopk u s
  | .recTopke u => Sys2Proof.Machine.execRecTopke u s
  | .recHatom u => Sys2Proof.Machine.execRecHatom u s
  | .hbmAtomicAdd k e => Sys2Proof.Machine.execHbmAtomicAdd k e s
  | .collectiveSend c => Sys2Proof.Machine.execCollectiveSend c s
  | .chunkGrant c => Sys2Proof.Machine.execChunkGrant c s
  | .resultReserve g => Sys2Proof.Machine.execResultReserve g s
  | .contrib k => Sys2Proof.Machine.execContrib k s
  | .result k => Sys2Proof.Machine.execResult k s
  | .grant k => Sys2Proof.Machine.execGrant k s
  | .retract k => Sys2Proof.Machine.execRetract k s
  | .contextAdvance c => Sys2Proof.Machine.execContextAdvance c s
  | .collectiveStop => Sys2Proof.Machine.execCollectiveStop s
  | .collectiveStall c => Sys2Proof.Machine.execCollectiveStall c s
  | .colReset p => Sys2Proof.Machine.execColReset p s
  | .colResume p => Sys2Proof.Machine.execColResume p s
  | .colRetractGo p epoch => Sys2Proof.Machine.execColRetractGo p epoch s
  | .colRoundWrite p high v => Sys2Proof.Machine.execColRoundWrite p high v s
  | .dataFlitReceive p lane num c flit => Sys2Proof.Machine.execDataFlitReceive p lane num c flit s
  | .creditFlitReceive p flit => Sys2Proof.Machine.execCreditFlitReceive p flit s
  | .creditFlitSend p => Sys2Proof.Machine.execCreditFlitSend p s
  | .timeExchangeSend p => Sys2Proof.Machine.execTimeExchangeSend p s
  | .timeExchangeReceive p x flit => Sys2Proof.Machine.execTimeExchangeReceive p x flit s
  | .helloSend p => Sys2Proof.Machine.execHelloSend p s
  | .helloReceive p flit => Sys2Proof.Machine.execHelloReceive p flit s
  | .laneLockLost p lane => Sys2Proof.Machine.execLaneLockLost p lane s
  | .linkDown p cause => Sys2Proof.Machine.execLinkDown p cause s
  | .linkRetrain p => Sys2Proof.Machine.execLinkRetrain p s
  | .trainingComplete p o => Sys2Proof.Machine.execTrainingComplete p o s
  | .lnkRetrain p n => Sys2Proof.Machine.execLnkRetrain p n s
  | .lnkEnable p n v => Sys2Proof.Machine.execLnkEnable p n v s
  | .discRoot p => Sys2Proof.Machine.execDiscRoot p s
  | .discForget p => Sys2Proof.Machine.execDiscForget p s
  | .discoveryTimeout => Sys2Proof.Machine.execDiscoveryTimeout s
  | .lookupSampleWrite => Sys2Proof.Machine.execLookupSampleWrite s
  | .mltSampCfgWrite p v => Sys2Proof.Machine.execMltSampCfgWrite p v s
  | .ptpSync m => Sys2Proof.Machine.execPtpSync m s
  | .ptpDelayResp domain masterId receiveTicks => Sys2Proof.Machine.execPtpDelayResp domain masterId receiveTicks s
  | .ptpDelayReqSend => Sys2Proof.Machine.execPtpDelayReqSend s
  | .sourceSilent => Sys2Proof.Machine.execSourceSilent s
  | .ppsInEdge => Sys2Proof.Machine.execPpsInEdge s
  | .ppsOutRise => Sys2Proof.Machine.execPpsOutRise s
  | .ppsOutFall => Sys2Proof.Machine.execPpsOutFall s
  | .parentTimeout => Sys2Proof.Machine.execParentTimeout s
  | .ftcSet p => Sys2Proof.Machine.execFtcSet p s
  | .clearTable p => Sys2Proof.Machine.execClearTable p s
  | .digestClosureWrite e => Sys2Proof.Machine.execDigestClosureWrite e s
  | .digReduce p layer => Sys2Proof.Machine.execDigReduce p layer s
  | .jobDigestContribution k => Sys2Proof.Machine.execJobDigestContribution k s
  | .jobDigestTimeout => Sys2Proof.Machine.execJobDigestTimeout s
  | .jobDigestResult k => Sys2Proof.Machine.execJobDigestResult k s
  | .tokenRequest p => Sys2Proof.Machine.execTokenRequest p s
  | .tokenGrant p => Sys2Proof.Machine.execTokenGrant p s
  | .tokenDeny p => Sys2Proof.Machine.execTokenDeny p s
  | .tokenRelease p => Sys2Proof.Machine.execTokenRelease p s
  | .autoOn p => Sys2Proof.Machine.execAutoOn p s
  | .autoOff p => Sys2Proof.Machine.execAutoOff p s
  | .tokenTakeover => Sys2Proof.Machine.execTokenTakeover s
  | .descTailDoorbell p q v => Sys2Proof.Machine.execDescTailDoorbell p q v s
  | .cplHeadDoorbell p q v => Sys2Proof.Machine.execCplHeadDoorbell p q v s
  | .descriptorFetch q => Sys2Proof.Machine.execDescriptorFetch q s
  | .descNop q => Sys2Proof.Machine.execDescNop q s
  | .descLoad q => Sys2Proof.Machine.execDescLoad q s
  | .descStore q e => Sys2Proof.Machine.execDescStore q e s
  | .descSend q => Sys2Proof.Machine.execDescSend q s
  | .descRecv q => Sys2Proof.Machine.execDescRecv q s
  | .descRread q => Sys2Proof.Machine.execDescRread q s
  | .descRwrite q => Sys2Proof.Machine.execDescRwrite q s
  | .descWait q => Sys2Proof.Machine.execDescWait q s
  | .descriptorComplete q => Sys2Proof.Machine.execDescriptorComplete q s
  | .sqEnable p q v => Sys2Proof.Machine.execSqEnable p q v s
  | .sqReset p q => Sys2Proof.Machine.execSqReset p q s
  | .sqResetComplete q => Sys2Proof.Machine.execSqResetComplete q s
  | .regReq k => Sys2Proof.Machine.execRegReq k s
  | .memReq k e => Sys2Proof.Machine.execMemReq k e s
  | .regReply k => Sys2Proof.Machine.execRegReply k s
  | .memReply k => Sys2Proof.Machine.execMemReply k s
  | .mgmtFrameReceive bytes => Sys2Proof.Machine.execMgmtFrameReceive bytes s
  | .mgmtChain => Sys2Proof.Machine.execMgmtChain s
  | .mgmtAttest nonce => Sys2Proof.Machine.execMgmtAttest nonce s
  | .mgmtStatus => Sys2Proof.Machine.execMgmtStatus s
  | .mgmtWake block => Sys2Proof.Machine.execMgmtWake block s
  | .faultTake => Sys2Proof.Machine.execFaultTake s
  | .fltFirstClear p => Sys2Proof.Machine.execFltFirstClear p s
  | .fltForce p w v => Sys2Proof.Machine.execFltForce p w v s
  | .faultPulseStart => Sys2Proof.Machine.execFaultPulseStart s
  | .faultPulseEnd => Sys2Proof.Machine.execFaultPulseEnd s
  | .fltPinWrite p v => Sys2Proof.Machine.execFltPinWrite p v s
  | .bookSnapshot => Sys2Proof.Machine.execBookSnapshot s
  | .bookRecordWrite ok => Sys2Proof.Machine.execBookRecordWrite ok s
  | .clbClear p e => Sys2Proof.Machine.execClbClear p e s
  | .clbClearComplete => Sys2Proof.Machine.execClbClearComplete s
  | .healthSecond now => Sys2Proof.Machine.execHealthSecond now s
  | .healthSave => Sys2Proof.Machine.execHealthSave s
  | .hold p => Sys2Proof.Machine.execHold p s
  | .holdRelease p => Sys2Proof.Machine.execHoldRelease p s
  | .holdExpire => Sys2Proof.Machine.execHoldExpire s
  | .prove p => Sys2Proof.Machine.execProve p s
  | .abortProve p => Sys2Proof.Machine.execAbortProve p s
  | .proveStageEnd pass => Sys2Proof.Machine.execProveStageEnd pass s
  | .catchupStart p => Sys2Proof.Machine.execCatchupStart p s
  | .catchupAbandon p => Sys2Proof.Machine.execCatchupAbandon p s
  | .catchupReadIssue => Sys2Proof.Machine.execCatchupReadIssue s
  | .catchupReply k => Sys2Proof.Machine.execCatchupReply k s
  | .catchupReadTimeout tag => Sys2Proof.Machine.execCatchupReadTimeout tag s
  | .catchupVerifyComplete => Sys2Proof.Machine.execCatchupVerifyComplete s
  | .catchupZeroed => Sys2Proof.Machine.execCatchupZeroed s
  | .supplyWarningFall vin => Sys2Proof.Machine.execSupplyWarningFall vin s
  | .supplyWarningRise vin => Sys2Proof.Machine.execSupplyWarningRise vin s
  | .supplyOff vin => Sys2Proof.Machine.execSupplyOff vin s
  | .powerOn => Sys2Proof.Machine.execPowerOn s
  | .powerStageFault n => Sys2Proof.Machine.execPowerStageFault n s
  | .guardMs meanW => Sys2Proof.Machine.execGuardMs meanW s
  | .powerSafety meanW => Sys2Proof.Machine.execPowerSafety meanW s
  | .tjSample tj => Sys2Proof.Machine.execTjSample tj s
  | .thermalClampStep => Sys2Proof.Machine.execThermalClampStep s
  | .hydrometerRun margin => Sys2Proof.Machine.execHydrometerRun margin s
  | .laserBiasStep p lane want => Sys2Proof.Machine.execLaserBiasStep p lane want s
  | .equalisationStep p lane atEnd => Sys2Proof.Machine.execEqualisationStep p lane atEnd s
  | .warm p => Sys2Proof.Machine.execWarm p s
  | .warmResetComplete => Sys2Proof.Machine.execWarmResetComplete s
  | .fabric p => Sys2Proof.Machine.execFabric p s
  | .standby p => Sys2Proof.Machine.execStandby p s
  | .doze p mask => Sys2Proof.Machine.execDoze p mask s
  | .wake p mask => Sys2Proof.Machine.execWake p mask s
  | .kettleIdleEnter k => Sys2Proof.Machine.execKettleIdleEnter k s
  | .islandReset p n => Sys2Proof.Machine.execIslandReset p n s
  | .islandResetComplete => Sys2Proof.Machine.execIslandResetComplete s
  | .packageReset => Sys2Proof.Machine.execPackageReset s
  | .packageResetRelease => Sys2Proof.Machine.execPackageResetRelease s
  | .portReset p c => Sys2Proof.Machine.execPortReset p c s
  | .portResetComplete p => Sys2Proof.Machine.execPortResetComplete p s
  | .bootStepEnd fail stack => Sys2Proof.Machine.execBootStepEnd fail stack s
  | .fwLoad p => Sys2Proof.Machine.execFwLoad p s
  | .fwVerifyComplete => Sys2Proof.Machine.execFwVerifyComplete s
  | .ownerEnroll p e => Sys2Proof.Machine.execOwnerEnroll p e s
  | .ownerRelease p e => Sys2Proof.Machine.execOwnerRelease p e s
  | .debugUnlock p e => Sys2Proof.Machine.execDebugUnlock p e s
  | .attest p e => Sys2Proof.Machine.execAttest p e s
  | .exportChain p => Sys2Proof.Machine.execExportChain p s
  | .shieldBreach => Sys2Proof.Machine.execShieldBreach s
  | .laneLockRegained p lane => Sys2Proof.Machine.execLaneLockRegained p lane s
  | .hostLinkDown p => Sys2Proof.Machine.execHostLinkDown p s
  | .hostLinkUp p speed link => Sys2Proof.Machine.execHostLinkUp p speed link s
  | .hostReadCompletion k c => Sys2Proof.Machine.execHostReadCompletion k c s
  | .hostCompletionTimeout k => Sys2Proof.Machine.execHostCompletionTimeout k s
  | .hostPortUncorrectableError p => Sys2Proof.Machine.execHostPortUncorrectableError p s
  | .mgmtHighBer lockLost => Sys2Proof.Machine.execMgmtHighBer lockLost s
  | .railLeavesRegulation => Sys2Proof.Machine.execRailLeavesRegulation s
  | .kettleWakeComplete k => Sys2Proof.Machine.execKettleWakeComplete k s
  | .tapTckEdge rising tms tdi => Sys2Proof.Machine.execTapTckEdge rising tms tdi s
  | .tapTrst low => Sys2Proof.Machine.execTapTrst low s
  | .hstVsBadWrite p v => Sys2Proof.Machine.execHstVsBadWrite p v s

end Sys2Proof.Machine
end

