-- ==== Sys2Proof/Safety.lean ====
section
/-! DEFINITION. Safety.lean: what statements about every run are made of: that a step
answers, what stays legal in every state, and the canonical form of the memories. -/
namespace Sys2Proof.Machine

/-- The step answers a next state: no command of this model stops the package. -/
def State.goesOn (s : State) : Prop := ∃ t, step s = .next t

/-- HBM is in its one canonical form: keys rising, no byte listed that reads so unlisted. -/
def hbmWf (s : State) : Bool := Tab.wfBy (unlisted s.hbmFill) s.hbm
/-- The memory of every tun is in its canonical form. -/
def tunMemWf (s : State) : Bool := s.tuns.all fun e => Tab.wfBy (unlisted e.2.memFill) e.2.mem
/-- Every memory of the package is in its canonical form. -/
def Memory.wf (s : State) : Bool := hbmWf s && tunMemWf s

/-- The control token is held by nobody or by one of the two ports (R330). -/
def tokenLegal (s : State) : Prop := s.host.holder ≤ 2

/-- `c` on `s` answers a next state of which `P` holds. -/
def Answers (c : Instr) (s : State) (P : State → Prop) : Prop := ∃ t, exec c s = .next t ∧ P t

/-- A write to the control register at `off` by port `p` acts: the port serves, holds the
token (R9), and the block answers (R23, R75, R354, R391). -/
def State.mayWrite (s : State) (p : HostPort) (off : Nat) : Bool :=
  let b := (blockOf off).1
  s.portServes p && s.holds p && !(b.kettle.map s.asleep).getD false && (!s.power.warm || b.warmServed)
    && (match b with | .tun n => !s.forwardOnly n && !s.isFatal | _ => !s.isFatal || b.fatalServed)
/-- What such a write acts on: an access to a tun ends its kettle's Idle state (R388). -/
def State.touched (s : State) (off : Nat) : State :=
  match (blockOf off).1 with | .tun n => s.touchKettle (n / 48) | _ => s

/-- As `mayWrite`, for a 64-bit register at `off`: those of a stream queue that is assigned to a
port belong to that port (R344). -/
def State.mayPut (s : State) (p : HostPort) (off : Nat) : Bool :=
  match (blockOf off).1 with
  | .sq q =>
    match s.queuePort q with
    | some p' => s.portServes p && p' == p && !s.power.warm && !s.isFatal
    | none => s.mayWrite p off
  | _ => s.mayWrite p off
/-- The record of a fault of `src` that a unit reports now: it reaches the fault block, which stamps
it, within 8,000 ticks (R350). -/
def State.faultRec (s : State) (src detail : Nat) : FaultRec :=
  ⟨src, s.time.ftc + s.faultDelay src, detail, false, s.now + s.faultDelay src⟩
/-- What has left the package once a read of `len` bytes at `a` has gone to the host of port `p`,
in requests of at most Max_Read_Request_Size; the newest stands first (R325). -/
def State.withReads (s : State) (p : HostPort) (a len : Nat) : List Output :=
  let m := max 1 (s.port p).pci.mrrs
  ((List.range (s.readParts p len)).map fun i =>
    Output.hostRead (portNum p) s.host.nextRead (a + m * i) (min m (len - m * i))).reverse ++ s.out
/-- What has left once `bytes` have gone to the host of port `p`, in requests of at most
Max_Payload_Size (R325). -/
def State.withWrites (s : State) (p : HostPort) (a : Nat) (bytes : List Byte) (relaxed : Bool) : List Output :=
  let m := max 1 (s.port p).pci.mps
  ((piecesOf m bytes.length bytes).zipIdx.map fun x =>
    Output.hostWrite (portNum p) (a + m * x.2) x.1 relaxed).reverse ++ s.out
/-- What a read at `off` acts on: one of a computing tun ends its kettle's Idle state (R388). -/
def State.readTouched (s : State) (off : Nat) : State :=
  match (blockOf off).1 with | .tun n => if s.forwardOnly n then s else s.touchKettle (n / 48) | _ => s
/-- The addressed bytes of the word `v` that a read of `size` bytes at `off` returns (R21). -/
def readPart (off size v : Nat) : Word := word (v / 2 ^ (8 * (off % 4)) % 2 ^ (8 * size))

/-- `s` at the count by which the cycle of `x` in tun `t` has begun: everything that crossed
toward the tun long enough ago is visible (R61). -/
def State.issuing (s : State) (t : Nat) (x : Slot) : State := (s.reach (s.cycleFtc t x.cycle)).crossingsDue t
/-- Tun `t` runs, its sequencer can issue the slot `x`, whose opcode is `op`, nothing that
crosses toward it has stopped it by then, and R423 finds no illegal instruction and no strict
violation in it. -/
def State.canIssue (s : State) (t op : Nat) (x : Slot) : Prop :=
  s.ready t op = some x ∧ (s.tun t).phase = .running ∧ ((s.issuing t x).tun t).phase = .running
    ∧ (s.tun t).illegal x.pc x.w = none ∧ (insMv x.w && s.strict) = false
/-- Tun `a` once its instruction at `x` has issued: the sequencer has moved on (R51, R71,
R72) and `new` is in flight. -/
def Tun.issuedAs (a : Tun) (x : Slot) (new : List InFlight) : Tun :=
  { (a.advance x.pc x.w) with pc := x.pc, base := x.cycle, issued := x.cycle, first := false,
                              cycle := max a.cycle x.cycle, inflight := a.inflight ++ new }
/-- `v` is `s` with tun `t` as `b`: no other tun and nothing else has changed. -/
def State.onlyTun (s v : State) (t : Nat) (b : Tun) : Prop :=
  v.tun t = b ∧ (∀ k, k ≠ t → v.tun k = s.tun k) ∧ v = { s with tuns := v.tuns }
/-- The 64 lanes that `f` gives, and its flags (R97, R121). -/
def vecLanes (f : Nat → Nat × Nat) : List (Nat × Word) := (List.range 64).map fun i => (i, word (f i).1)
@[inherit_doc vecLanes] def vecFlags (f : Nat → Nat × Nat) : Nat :=
  engineBits .vector (((List.range 64).map f).foldl (fun a y => Nat.lor a y.2) 0)
/-- The vector registers that an instruction reads or writes are free (R85). -/
def State.vecFree (s : State) (t : Nat) (x : Slot) (rs : List Nat) : Prop :=
  (s.tun t).busyOf x.cycle (rs.map (24 + ·)) = none

/-- The run `r` of unit `u` is about to execute the word `w` of its recipe `rr`, whose
opcode is `op` (R208). -/
def State.recipeAt (s : State) (u op : Nat) (rr : RecipeRec) (r : Run) (w : Nat) : Prop :=
  s.alive = true ∧ (s.lauter u).run = some r ∧ r.vote = false ∧ r.digest = false ∧ r.ended = false
    ∧ s.recipe u r.slot = some rr ∧ r.pc < rr.words ∧ w = s.recipeWord rr r.pc ∧ recOp w = op
/-- So it is, and neither R209 nor R223 stops that word. -/
def State.recipeRuns (s : State) (u op : Nat) (rr : RecipeRec) (r : Run) (w : Nat) : Prop :=
  s.recipeAt u op rr r w ∧ recIllegal s.recipeVersion rr.words r w = none ∧ (recMv w && s.strict) = false
    ∧ (4 ≤ op && op ≤ 8 && s.emitWaits u r) = false
/-- The run once the word `w` has begun: the cycles that it waited for its port and those of
the word are counted (R208, R210). -/
def State.begun (s : State) (u : Nat) (r : Run) (w : Nat) : Run :=
  let r := s.resumed u r
  { r with cycles := r.cycles + r.cost w, lastEmit := 4 ≤ recOp w && recOp w ≤ 6 }
/-- The record that a word with MV = 1 has executed (R314, R316). -/
def State.mvRun (s : State) (w : Nat) : State :=
  if recMv w then ((s.modTime fun t => { t with mvLtr := true }).hwSet 0x20210 (2 ^ 30)).mark 8 else s
/-- `t` is `s`, its word `w` recorded, with the run of unit `u` as `r` and with the flags `fl`
raised: no other unit and nothing else has changed. -/
def State.ranTo (s t : State) (u w : Nat) (r : Run) (fl : Nat) : Prop :=
  (t.lauter u).run = some r ∧ (t.lauter u).flags = (s.lauter u).flags ||| BitVec.ofNat 4 fl
    ∧ (t.lauter u).runs = (s.lauter u).runs ∧ (t.lauter u).exc = (s.lauter u).exc
    ∧ (∀ k, k ≠ u → t.lauter k = s.lauter k) ∧ t = { s.mvRun w with lauters := t.lauters }
/-- The run goes on at the next word with what `r` holds (R207). -/
def Run.stepped (r : Run) : Run := r.goto (r.pc + 1)
/-- A frame that this node has made and that has not entered the core: held at its
source, or on its way into port `p` (R182, R195). -/
def State.made (s : State) (p : Nat) (f : SrcFrame) : Prop := f ∈ s.core.held ∨ f ∈ Tab.get [] s.core.inject p

/-- The recipe instructions of R211 to R222: their unit and their opcode. -/
def recipeOpcode : Instr → Option (Fin 4 × Nat)
  | .recEnd u => some (u, 0x00) | .recLoop u => some (u, 0x01) | .recLd u => some (u, 0x02)
  | .recLdr u => some (u, 0x03) | .recEmit u => some (u, 0x04) | .recEmitr u => some (u, 0x05)
  | .recEmitc u => some (u, 0x06) | .recCat u => some (u, 0x07) | .recCata u => some (u, 0x08)
  | .recFacc u _ => some (u, 0x10) | .recFadd u _ => some (u, 0x11) | .recXadd u _ => some (u, 0x12)
  | .recXemit u => some (u, 0x13) | .recIadd u _ => some (u, 0x14) | .recMin u => some (u, 0x15)
  | .recMax u => some (u, 0x16) | .recAnd u => some (u, 0x18) | .recOr u => some (u, 0x19)
  | .recXor u => some (u, 0x1A) | .recCmp u => some (u, 0x1B) | .recSel u => some (u, 0x1C)
  | .recMovv u => some (u, 0x1D) | .recMovc u => some (u, 0x1E) | .recCompact u => some (u, 0x20)
  | .recSort u => some (u, 0x21) | .recMerge u => some (u, 0x22) | .recTopk u => some (u, 0x23)
  | .recTopke u => some (u, 0x24) | .recHatom u => some (u, 0x28) | _ => none

/-- The tun instructions of R88 to R97: their tun and their opcode. -/
def tunOpcode : Instr → Option (Fin 192 × Nat)
  | .nop t => some (t, 0x0) | .waitCycles t => some (t, 0x1) | .tunEnd t => some (t, 0x2)
  | .tunLoop t => some (t, 0x3) | .replay t => some (t.tun, 0x4) | .setf t => some (t, 0x5)
  | .waitf t => some (t, 0x6) | .setp t => some (t, 0x7) | .rdcyc t => some (t, 0x8)
  | .rdftc t => some (t, 0x9) | .rdocc t => some (t, 0xa) | .rdflag t => some (t, 0xb)
  | .movs t => some (t, 0x11) | .movq t => some (t, 0x12) | .movz t => some (t, 0x13)
  | .mlds t => some (t, 0x20) | .mldw t => some (t, 0x21) | .mldsc t => some (t, 0x22)
  | .mmt t => some (t, 0x23) | .mmtb t => some (t, 0x24) | .mst t => some (t, 0x25)
  | .mzero t => some (t, 0x26) | .msetf t => some (t, 0x27) | .vld t => some (t, 0x30)
  | .vst t => some (t, 0x31) | .vadd t => some (t, 0x32) | .vsub t => some (t, 0x33)
  | .vmul t => some (t, 0x34) | .vfma t => some (t, 0x35) | .vmax t => some (t, 0x36)
  | .vmin t => some (t, 0x37) | .vcmp t => some (t, 0x38) | .vsel t => some (t, 0x39)
  | .vbcast t => some (t, 0x3a) | .vredsum t => some (t, 0x3b) | .vredmax t => some (t, 0x3c)
  | .vexp t => some (t, 0x40) | .vlog t => some (t, 0x41) | .vrcp t => some (t, 0x42)
  | .vrsqrt t => some (t, 0x43) | .vtanh t => some (t, 0x44) | .vsigm t => some (t, 0x45)
  | .movl t _ => some (t, 0x10) | _ => none

/-- The commands that are writes of control registers: their port and their register (R9). -/
def controlWrite : Instr → Option (HostPort × Nat)
  | .gristStage p => some (p, 0x10000) | .gristCheck p => some (p, 0x10000) | .gristArm p => some (p, 0x10000)
  | .gristDisarm p => some (p, 0x10000) | .gristClear p => some (p, 0x10000) | .resolveKeep p => some (p, 0x10000)
  | .resolveApply p => some (p, 0x10000) | .gristPitchAtWrite p _ _ => some (p, 0x10018)
  | .hbmMapWrite p _ => some (p, 0x100004) | .tunLoad p t => some (p, tunOff t 0)
  | .armLaunch p t => some (p, tunOff t 0) | .tunHalt p t => some (p, tunOff t 0) | .tunClear p t => some (p, tunOff t 0)
  | .tunFlagWrite p t f _ => some (p, tunOff t (0x400 + 4 * f)) | .mltCjStepWrite p _ _ => some (p, 0x330010)
  | .mltCjCommitWrite p _ _ => some (p, 0x330018) | .colReset p => some (p, 0x3C0004) | .colResume p => some (p, 0x3C0004)
  | .colRetractGo p _ => some (p, 0x3C0014) | .colRoundWrite p _ _ => some (p, 0x3C0008)
  | .lnkRetrain p n => some (p, 0x200000 + n * 0x10000) | .lnkEnable p n _ => some (p, 0x200000 + n * 0x10000)
  | .discRoot p => some (p, 0x300040) | .discForget p => some (p, 0x300040) | .mltSampCfgWrite p _ => some (p, 0x321000)
  | .ftcSet p => some (p, 0x20020) | .clearTable p => some (p, 0x20020) | .digReduce p _ => some (p, 0x20214)
  | .fltFirstClear p => some (p, 0x40000) | .fltForce p w _ => some (p, 0x40D00 + 4 * w) | .fltPinWrite p _ => some (p, 0x40018)
  | .clbClear p _ => some (p, 0x50028) | .hold p => some (p, 0x40028) | .holdRelease p => some (p, 0x40028)
  | .prove p => some (p, 0x40028) | .abortProve p => some (p, 0x40028) | .catchupStart p => some (p, 0x33020C)
  | .catchupAbandon p => some (p, 0x33020C) | .warm p => some (p, 0x6002C) | .fabric p => some (p, 0x6002C)
  | .standby p => some (p, 0x6002C) | .doze p _ => some (p, 0x6002C) | .wake p _ => some (p, 0x6002C)
  | .islandReset p _ => some (p, 0x60030) | .fwLoad p => some (p, 0x70004) | .ownerEnroll p _ => some (p, 0x70004)
  | .ownerRelease p _ => some (p, 0x70004) | .debugUnlock p _ => some (p, 0x70004) | .attest p _ => some (p, 0x70004)
  | .exportChain p => some (p.port, 0x70004) | _ => none

end Sys2Proof.Machine
end

