-- ==== Sys2Proof/Certificates/Slice0/Obligations.lean ====
section
/-! DEFINITION. Certificates/Slice0/Obligations.lean: the statements for the provers. Where a
statement says `Answers c s P`, the command `c` answers a next state of which `P` holds. -/
open Sys2Proof Sys2Proof.Machine


/-- A step runs the command at the front of the queue; an empty queue idles for one tick (Commands). -/
def Obligations.StepRunsFrontCommand : Prop :=
  (∀ (c : Instr) (rest : List Instr) (s : State),
      step { s with pending := c :: rest } = exec c { s with pending := rest })
  ∧ ∀ s : State, s.pending = [] → step s = .next s.idleTick

/-- Every command answers a next state in every state (the model's choice, log entry 7) (Commands). That no command refuses or faults is the model's choice (log entry 7). -/
def Obligations.EveryCommandAnswers : Prop :=
  ∀ (c : Instr) (s : State), ∃ t, exec c s = .next t

/-- A step takes exactly the front command and puts none into the queue (Commands). -/
def Obligations.StepConsumesOneCommand : Prop :=
  ∀ s : State, ∃ t, step s = .next t ∧ t.pending = s.pending.tail

/-- Every step keeps the canonical form of HBM (R139, R140, R365, R372, R390). -/
def Obligations.HbmCanonicalKept : Prop :=
  ∀ s t : State, hbmWf s = true → step s = .next t → hbmWf t = true

/-- Every step keeps the control token with nobody or with one of the two ports (R9, R330, R331). -/
def Obligations.TokenStaysLegal : Prop :=
  ∀ s t : State, tokenLegal s → step s = .next t → tokenLegal t

/-- The state at reset keeps the invariants and its registers read the reset values of their tables (R139, R25, R34, R305, R329, R351, R363, R379, R384, R393, R396, R408). -/
def Obligations.ResetIsLegal : Prop :=
  Memory.wf State.reset = true ∧ tokenLegal State.reset ∧ State.reset.pending = [] ∧
  ∀ e ∈ [(0x00000, 0x09600210), (0x00004, 0x684000C0), (0x00040, 0x00013232), (0x10004, 0), (0x1002C, 0),
      (0x2000C, 0), (0x20010, 0x27100001), (0x20200, 1), (0x30008, 0), (0x40000, 0), (0x40010, 0), (0x40020, 0x000003FF),
      (0x60008, 0x00300C80), (0x6000C, 0x00400000), (0x60010, 0x00200066), (0x6001C, 0x003C0AFC), (0x60020, 0x00000028),
      (0x60028, 0), (0x70000, 0), (0x300000, 0x0000FFFF), (0x330208, 0x00400000), (0x1000004, 0), (0x3000000, 0)],
    State.reset.regRead e.1 = e.2

/-- PPS_OUT and PPS_IN (R301). -/
def Obligations.PpsPins : Prop :=
  ∀ s : State, s.on = true →
    (bitOf s.time.cfg.toNat 28 = true → s.pins.ppsOut = false → Answers .ppsOutRise s fun t =>
      t.pins = { s.pins with ppsOut := true } ∧ t.time = { s.time with ftc := t.time.ftc } ∧ t.hbm = s.hbm ∧ t.tuns = s.tuns
      ∧ t.time.ftc % 4000000000 = 0 ∧ s.time.ftc ≤ t.time.ftc ∧ t.time.ftc < s.time.ftc + 4000000000)
    ∧ (bitOf s.time.cfg.toNat 28 = false → exec .ppsOutRise s = .next s)
    ∧ (s.pins.ppsOut = true → Answers .ppsOutFall s fun t => t.pins = { s.pins with ppsOut := false } ∧ t.hbm = s.hbm
      ∧ t.tuns = s.tuns ∧ t.time.ftc = max s.time.ftc (s.time.ftc / 4000000000 * 4000000000 + 400000000))
    ∧ (∀ n, s.pins.ppsOut = true → n % 4000000000 = 0 → n ≤ s.time.ftc → s.time.ftc ≤ n + 400000000 →
      Answers .ppsOutFall s fun t =>
        t.pins = { s.pins with ppsOut := false } ∧ t.time = { s.time with ftc := n + 400000000 } ∧ t.hbm = s.hbm
        ∧ t.tuns = s.tuns)
    ∧ Answers .ppsInEdge s fun t => t.time.ppsIn = BitVec.ofNat 64 s.time.ftc ∧ t.time.ftc = s.time.ftc ∧ t.pins = s.pins
        ∧ t.hbm = s.hbm ∧ t.tuns = s.tuns

/-- Reads and writes of the halves of a 64-bit register, and of narrower parts (log entry 9) (R3, R4, R21). That the two read commands read one offset alike, and what they read where no half register stands, is the model's choice (log entry 9). -/
def Obligations.RegisterHalves : Prop :=
  (∀ (s : State) (p : HostPort) (off size : Nat), exec (.highWordRead p ⟨off, size⟩) s = exec (.lowWordRead p ⟨off, size⟩) s)
  ∧ (∀ (s : State) (p : HostPort) (off size w o : Nat) (b : Bar0Block), s.portServes p = true →
      size = 1 ∨ size = 2 ∨ size = 4 → off % size = 0 → w = off / 4 * 4 → msixAt w = none → blockOf w = (b, o) →
      (s.silent w = true →
        exec (.lowWordRead p ⟨off, size⟩) s = .next ((s.badAccess p 2).emit (.bar0 p off 0)))
      ∧ (∀ d, s.silent w = false → (s.readTouched w).pairIn b o = some d →
        exec (.lowWordRead p ⟨off, size⟩) s = .next (((s.readTouched w).modPort p fun x =>
          { x with latch := Tab.set none x.latch w (some (word (d / 2 ^ 32))) }).emit
            (.bar0 p off (readPart off size (d % 2 ^ 32)))))
      ∧ (∀ d, s.silent w = false → (s.readTouched w).pairIn b o = none → 4 ≤ o →
        (s.readTouched w).pairIn b (o - 4) = some d →
        (∀ h, Tab.get none (s.port p).latch (w - 4) = some h →
          exec (.highWordRead p ⟨off, size⟩) s = .next (((s.readTouched w).modPort p fun x =>
            { x with latch := x.latch.drop (w - 4) }).emit (.bar0 p off (readPart off size h.toNat))))
        ∧ (Tab.get none (s.port p).latch (w - 4) = none →
          exec (.highWordRead p ⟨off, size⟩) s = .next ((s.readTouched w).emit
            (.bar0 p off (readPart off size (d / 2 ^ 32 % 2 ^ 32))))))
      ∧ (s.silent w = false → (s.readTouched w).pairOf b o = none →
        exec (.lowWordRead p ⟨off, size⟩) s = .next ((s.readTouched w).emit
          (.bar0 p off (readPart off size ((s.readTouched w).regRead w))))))
  ∧ (∀ (s : State) (p : HostPort) (off : Nat), s.portServes p = true → off % 8 = 0 →
      Answers (.lowWordRead p ⟨off, 4⟩) s fun u => exec (.lowWordRead p ⟨off, 8⟩) s = exec (.highWordRead p ⟨off + 4, 4⟩) u)
  ∧ (∀ (s : State) (p : HostPort) (off o d : Nat) (b : Bar0Block) (v : Word), off % 4 = 0 → blockOf off = (b, o) →
      s.pairIn b o = some d → off ∉ [0x10018, 0x330010, 0x330018, 0x3C0008] → s.mayPut p off = true →
      (b.has o = true → msixAt off = none → exec (.lowWordWrite p off v) s =
        .next ((s.touched off).modPort p fun x => { x with hold := Tab.set none x.hold off (some v) }))
      ∧ (b.has (o + 4) = true → msixAt (off + 4) = none → blockOf (off + 4) = (b, o + 4) → s.pairIn b (o + 4) = none →
        exec (.highWordWrite p (off + 4) v) s =
          .next (((s.touched off).modPort p fun x => { x with hold := x.hold.drop off }).pairStore b o
            (BitVec.ofNat 64 (v.toNat * 2 ^ 32 + ((Tab.get none (s.port p).hold off).getD (word d)).toNat)))))
  ∧ (∀ (s : State) (p : HostPort) (v : Word),
      exec (.lowWordWrite p 0x10018 v) s = exec (.gristPitchAtWrite p false v) s
      ∧ exec (.highWordWrite p 0x1001C v) s = exec (.gristPitchAtWrite p true v) s
      ∧ exec (.lowWordWrite p 0x330010 v) s = exec (.mltCjStepWrite p false v) s
      ∧ exec (.highWordWrite p 0x330014 v) s = exec (.mltCjStepWrite p true v) s
      ∧ exec (.lowWordWrite p 0x330018 v) s = exec (.mltCjCommitWrite p false v) s
      ∧ exec (.highWordWrite p 0x33001C v) s = exec (.mltCjCommitWrite p true v) s
      ∧ exec (.lowWordWrite p 0x3C0008 v) s = exec (.colRoundWrite p false v) s
      ∧ exec (.highWordWrite p 0x3C000C v) s = exec (.colRoundWrite p true v) s)
  ∧ ∀ (s : State) (p : HostPort) (v : Word), s.mayWrite p 0x10008 = true →
      (∀ l, Tab.get none (s.port p).hold 0x10008 = some l →
        Answers (.highWordWrite p 0x1000C v) s fun t =>
          t.grist.src = BitVec.ofNat 64 (v.toNat * 2 ^ 32 + l.toNat)
          ∧ (t.port p).hold = (s.port p).hold.drop 0x10008 ∧ t.port (portOther p) = s.port (portOther p))
      ∧ (Tab.get none (s.port p).hold 0x10008 = none →
        Answers (.highWordWrite p 0x1000C v) s fun t =>
          t.grist.src = BitVec.ofNat 64 (v.toNat * 2 ^ 32 + s.grist.src.toNat % 2 ^ 32))

/-- A plain register reads what was written, its reserved bits 0 (R5, R6, R9, R21). -/
def Obligations.RegisterWriteReadsBack : Prop :=
  ∀ e ∈ [(0x10010, 0xFFFFFFFF#32), (0x20010, 0xFFFF00FF#32), (0x2020C, 0xFFFFFFFF#32), (0x30030, 3#32), (0x5001C, 0x1FFF#32),
      (0x60010, 0x7F00FF#32), (0x6001C, 0xFFFFFF#32), (0x60020, 0xFF#32), (0x70014, 0xFFFFFFFF#32), (0x330208, 0xFF1FFF#32)],
    ∀ (s : State) (p : HostPort) (v : DWord), s.mayWrite p e.1 = true →
      Answers (.registerWrite p e.1 4 v) s fun t => t.regRead e.1 = (word v.toNat &&& e.2).toNat ∧ t.out = s.out

/-- A misshapen write, and a control-register command of a port without the token, change nothing but the bad-access status (R9, R21, R329). -/
def Obligations.WritesWithoutEffect : Prop :=
  (∀ (s : State) (p : HostPort) (off size : Nat) (v : DWord), s.portServes p = true → s.host.remote = false →
    ¬ (size = 4 ∧ off % 4 = 0) → ¬ (size = 8 ∧ off % 8 = 0) →
    exec (.registerWrite p off size v) s = .next (s.modPort p fun x =>
      { x with bad := x.bad ||| 2#6, badCnt := satInc 16 x.badCnt }))
  ∧ ∀ (c : Instr) (s : State) (p : HostPort) (off : Nat), controlWrite c = some (p, off) →
    s.portServes p = true → s.host.remote = false → s.host.holder ≠ portNum p →
    exec c s = .next (s.modPort p fun x => { x with bad := x.bad ||| 1#6, badCnt := satInc 16 x.badCnt })

/-- ARM is refused without its lead (the order of its refusals: log entry 27) (R36). Where both refusals apply the model gives WHY 2 (its choice, log entry 27). -/
def Obligations.ArmNeedsItsLead : Prop :=
  ∀ (s : State) (p : HostPort),
    (s.alive = true → s.grist.phase = .checking → Answers .checkComplete s fun t =>
      (s.checkResult.1 = 0 ↔ t.grist.phase = .pass)
      ∧ t.grist.passAt = if t.grist.phase = .pass then s.time.ftc else s.grist.passAt)
    ∧ (s.mayWrite p 0x10000 = true → s.isFatal = false → s.grist.phase = .pass → s.proving = false →
      s.grist.quiet = true ∨ Tab.get (word (s.hbmMode.toNat % 2)) s.grist.rwp 0x100004 = word (s.hbmMode.toNat % 2) →
      (s.grist.pitchAt.toNat < s.grist.passAt + 400000 → exec (.gristArm p) s =
        .next { s with grist := { s.grist with refusedCmd := 3, refuseWhy := 2 } })
      ∧ (s.grist.passAt + 400000 ≤ s.grist.pitchAt.toNat → s.grist.pitchAt.toNat < s.time.ftc + 80000 →
        exec (.gristArm p) s = .next { s with grist := { s.grist with refusedCmd := 3, refuseWhy := 4 } })
      ∧ (s.grist.passAt + 400000 ≤ s.grist.pitchAt.toNat → s.time.ftc + 80000 ≤ s.grist.pitchAt.toNat →
        Answers (.gristArm p) s fun t => t.grist.phase = .armed))

/-- A remote register access is served as the token holder's, or refused (its port and its misaligned form: log entry 11) (R340, R9). That the reply leaves from port 28, how a LENGTH of several words acts, and that a misaligned offset answers STATUS 0 with zeros, are the model's choices (log entry 11). -/
def Obligations.RemoteRegisterAccess : Prop :=
  ∀ (s : State) (k : Nat) (x : InFrame), s.alive = true → s.host.remote = false → s.inboxFor k [0x10] = some x → x.verdict = 0 →
    (∀ len reply, len = natAt x.payload 0 4 → len % 4 = 0 → 0 < len → len ≤ 4096 →
      reply = (fun (u : State) st data => u.source
        { port := 28, hdr := u.replyHeader x.hdr 0x11 (natAt x.payload 4 2) st, payload := data }) →
      (bitOf (byteAt x.payload 6) 0 = true →
        (s.host.regWrEn = false → exec (.regReq k) s = .next (reply (s.taken x) 1 []))
        ∧ (s.host.regWrEn = true → x.hdr.opx.toNat % 4 ≠ 0 → exec (.regReq k) s = .next (reply (s.taken x) 0 []))
        ∧ (s.host.regWrEn = true → len = 4 → x.hdr.opx.toNat = 0x10010 → s.power.warm = false → s.isFatal = false →
          Answers (.regReq k) s fun t => t.grist.len = word (natAt x.payload 8 4) ∧ t.hbm = s.hbm ∧ t.host = s.host))
      ∧ (bitOf (byteAt x.payload 6) 0 = false →
        (x.hdr.opx.toNat % 4 ≠ 0 → exec (.regReq k) s = .next (reply (s.taken x) 0 (zeros len)))
        ∧ (x.hdr.opx.toNat % 4 = 0 → Answers (.regReq k) s fun t =>
          ∃ u data, data.length = len ∧ t = reply u 0 data ∧ ∀ y ∈ u.core.inbox, ¬ (y.id = x.id ∧ y.copy = x.copy))))
    ∧ (bitOf (byteAt x.payload 6) 0 = false → natAt x.payload 0 4 = 4 → x.hdr.opx.toNat = 0x20200 →
      s.power.warm = false →
      Answers (.regReq k) s fun t => t.time = s.time ∧ t.hbm = s.hbm ∧ t.host = s.host
        ∧ t = ((s.taken x).source { port := 28, hdr := (s.taken x).replyHeader x.hdr 0x11 (natAt x.payload 4 2) 0,
                                     payload := leBytes 4 s.time.digCfg.toNat }))

/-- The token commands (a pending request is signalled to both ports: log entry 12) (R330, R341). That a pending REQUEST sends the token event to both ports is the model's choice (log entry 12). -/
def Obligations.TokenCommands : Prop :=
  ∀ (s : State) (p : HostPort), s.portConfig p = true →
    (s.host.holder = 0 → Answers (.tokenRequest p) s fun t =>
      t.host.holder = portNum p ∧ t.host.last = 1 ∧ t.host.changes = (s.host.changes + 1) % 65536
        ∧ t.time = s.time ∧ t.grist = s.grist ∧ t.hbm = s.hbm ∧ t.fault = s.fault)
    ∧ (s.host.holder = portNum (portOther p) → s.host.req p = false →
      exec (.tokenRequest p) s = .next ((s.modHost fun h => h.setReq p true).signalBoth 2047))
    ∧ (s.host.holder = portNum p → s.host.req (portOther p) = true → Answers (.tokenGrant p) s fun t =>
      t.host.holder = portNum (portOther p) ∧ t.host.last = 2 ∧ t.host.req (portOther p) = false)
    ∧ (s.host.holder = portNum p →
      exec (.tokenDeny p) s = .next { s with host := s.host.setReq (portOther p) false }
      ∧ exec (.autoOn p) s = .next { s with host := { s.host with auto := true } }
      ∧ exec (.autoOff p) s = .next { s with host := { s.host with auto := false } }
      ∧ (s.host.req (portOther p) = false → Answers (.tokenRelease p) s fun t =>
          t.host.holder = 0 ∧ t.host.last = 3 ∧ t.host.changes = (s.host.changes + 1) % 65536)
      ∧ (s.host.req (portOther p) = true → Answers (.tokenRelease p) s fun t =>
          t.host.holder = portNum (portOther p) ∧ t.host.last = 1 ∧ t.host.req (portOther p) = false))

/-- The host links, their errors and the takeover (AER and the configuration: log entry 13) (R329, R331, R342, R343, R347). The AER status, its clearing and the configuration that a host programs as its link comes up are PRESUMED from PCI Express (log entry 13). -/
def Obligations.HostLinks : Prop :=
  ∀ (s : State) (p : HostPort), s.on = true →
    ((s.port p).linkUp = true → Answers (.hostLinkDown p) s fun t =>
      (t.port p).linkUp = false ∧ (t.port p).speed = 0 ∧ t.port (portOther p) = s.port (portOther p)
        ∧ t.host.holder = s.host.holder
        ∧ t.host.lostAt = (if s.host.holder = portNum p then some (s.host.lostAt.getD s.now) else s.host.lostAt))
    ∧ (∀ speed width cfg clr, 3 ≤ s.power.step → (s.port p).perst = false → (s.port p).inReset = false →
      Answers (.hostLinkUp p speed ⟨width, cfg, clr⟩) s fun t =>
        (t.port p).linkUp = true ∧ (t.port p).speed = speed % 16 ∧ (t.port p).width = width % 64 ∧ (t.port p).pci = cfg
          ∧ (t.port p).aer = (s.port p).aer &&& ~~~clr.unc ∧ (t.port p).aerCor = (s.port p).aerCor &&& ~~~clr.cor
          ∧ t.host.lostAt = (if s.host.holder = portNum p then none else s.host.lostAt)
          ∧ t.hbm = s.hbm ∧ ((s.port p).pba = [] → t.out = s.out))
    ∧ (∀ at_, s.host.lostAt = some at_ → s.host.auto = true → s.host.holder = portNum p →
      Answers .tokenTakeover s fun t => t.host.last = 4 ∧ t.now = max s.now (at_ + 400000000)
        ∧ t.host.holder = (if (s.port (portOther p)).lost then 0 else portNum (portOther p)))
    ∧ (∀ bit, exec (.hostPortUncorrectableError ⟨p, bit⟩) s = .next ((s.modPort p fun x =>
        { x with aer := x.aer ||| word (2 ^ bit.val) }).raise (1770 + portNum p) 0))
    ∧ (∀ lock, Answers (.mgmtHighBer lock) s fun t => t.host.hiBer = (s.host.hiBer || !lock)
        ∧ t.host.mgmtLock = (s.host.mgmtLock && !lock)
        ∧ t.fault.raised = s.fault.raised ++ [s.faultRec 1773 0])
    ∧ (∀ v : Word, s.portConfig p = true → exec (.hstVsBadWrite p v) s = .next (s.modPort p fun x =>
        { x with bad := x.bad &&& ~~~(BitVec.ofNat 6 v.toNat), badCnt := if v.toNat / 65536 == 0 then x.badCnt else 0 }))

/-- The thermal clamp steps by Tj, CLAMP_C and MIN_RATE (which step raises: log entry 61) (R384). That every lowering step raises is the model's reading (log entry 61), and that CLAMP_C and MIN_RATE outside their range act as the nearer end is log entry 60. -/
def Obligations.ThermalClampStep : Prop :=
  ∀ s : State, s.measures = true → Answers .thermalClampStep s fun t =>
    let tj := s.power.tj
    let r := s.power.therm
    (105 ≤ tj → t.power.therm = max 8 (r - 2))
    ∧ (tj < 105 → s.power.clampC ≤ tj →
        t.power.therm = if s.power.minRate < r then max s.power.minRate (r - 2) else r)
    ∧ (tj < 105 → tj < s.power.clampC → tj < s.power.clampC - 5 → t.power.therm = min 64 (r + 2))
    ∧ (tj < 105 → tj < s.power.clampC → ¬ tj < s.power.clampC - 5 → t.power.therm = r)
    ∧ (t.power.therm < r → t.fault.raised = s.fault.raised ++ [t.faultRec 1776 0]
        ∧ t.time.marks = s.time.marks ||| 8#9)
    ∧ (¬ t.power.therm < r → t.fault.raised = s.fault.raised ∧ t.time.marks = s.time.marks)
    ∧ t.now = (if s.power.thermAt = 0 then s.now else max s.now (s.power.thermAt + 4000000))
    ∧ t.hbm = s.hbm ∧ t.tuns = s.tuns

/-- The power safety limit (R382). -/
def Obligations.PowerSafetyLimit : Prop :=
  ∀ (s : State) (w : Nat), s.measures = true →
    (s.power.safety = none → 3500 < w → Answers (.powerSafety w) s fun t =>
      t.power.safety = some s.now ∧ t.power.rate ≤ 32 ∧ t.time.marks = s.time.marks ||| 32#9)
    ∧ (s.power.safety = none → w ≤ 3500 → exec (.powerSafety w) s = .next s)
    ∧ (∀ at_, s.power.safety = some at_ → 3200 < w ∨ s.now < at_ + 40000000 →
        exec (.powerSafety w) s = .next s ∧ s.power.rate ≤ 32)
    ∧ (∀ at_, s.power.safety = some at_ → w ≤ 3200 → at_ + 40000000 ≤ s.now →
        Answers (.powerSafety w) s fun t => t.power.safety = none ∧ t.time.marks = s.time.marks)

/-- Supply warnings, the guard and the junction temperature (R347, R378, R379, R381, R383, R414). -/
def Obligations.SupplyAndGuard : Prop :=
  ∀ s : State, s.measures = true →
    (∀ vin, vin < 3100 → s.power.warnNow = false → Answers (.supplyWarningFall vin) s fun t =>
      t.power.warnNow = true ∧ t.power.warnSeen = true ∧ t.power.vin = vin
      ∧ (bitOf s.power.guard.toNat 31 = false → t.time.marks = s.time.marks ||| 16#9
          ∧ t.fault.raised = s.fault.raised ++ [⟨1774, s.time.ftc, 0, false, s.now⟩])
      ∧ (bitOf s.power.guard.toNat 31 = true → t.power.guardSup = true
          ∧ t.fault.raised = s.fault.raised ++ [⟨1774, s.time.ftc, 0, false, s.now⟩, s.faultRec 1787 0]))
    ∧ (∀ vin, 3200 < vin → s.power.warnNow = true → Answers (.supplyWarningRise vin) s fun t =>
      t.power.warnNow = false ∧ t.power.guardSup = false ∧ t.power.vin = vin % 4096
        ∧ t.power.warnSeen = s.power.warnSeen ∧ t.fault = s.fault)
    ∧ (∀ w, w < 65536 → Answers (.guardMs w) s fun t =>
      t.power.meanW = w ∧ t.power.peakW = max s.power.peakW w
      ∧ (bitOf s.power.guard.toNat 30 = true → s.power.guardCap = false → s.power.capW < w → t.power.guardCap = true
          ∧ t.fault.raised = s.fault.raised ++ [t.faultRec 1787 0] ∧ t.time.marks = s.time.marks ||| 32#9)
      ∧ (s.power.guardCap = true → w + 50 ≤ s.power.capW → t.power.guardCap = false ∧ t.fault = s.fault)
      ∧ (s.power.guardCap = false → w ≤ s.power.capW → t.power.guardCap = false ∧ t.fault = s.fault))
    ∧ (∀ tj, Answers (.tjSample tj) s fun t =>
      t.power.tj = min 255 tj ∧ t.power.tjMax = max s.power.tjMax (min 255 tj)
      ∧ (t.pins.thermLow = true ↔ 100 ≤ tj ∨ (95 ≤ tj ∧ s.pins.thermLow = true))
      ∧ (110 ≤ tj → s.power.tripped = false → t.power.tripped = true
          ∧ t.fault.raised = s.fault.raised ++ [s.faultRec 1777 0])
      ∧ (tj < 110 → t.fault = s.fault ∧ t.power.tripped = s.power.tripped))
    ∧ (∀ n, exec (.powerStageFault n) s = .next (s.raise 1775 0))
    ∧ (s.pwrGood = true → Answers .railLeavesRegulation s fun t => t.pwrGood = false ∧ t.fault = s.fault)

/-- The hydrometer, laser bias and equalisation loops (the bias deadband: log entry 61) (R385, R386, R387). What a deadband of 2 percent is taken of is the model's reading (log entry 61). -/
def Obligations.AdaptiveLoops : Prop :=
  ∀ s : State,
    (∀ m, s.measures = true → Answers (.hydrometerRun m) s fun t =>
      t.power.margin = min 255 m
      ∧ (s.replan = false → t.power.offset = 0)
      ∧ (s.replan = true → t.power.offset = max s.power.minOfs (min s.power.maxOfs
          (if min 255 m + 10 < s.power.target then s.power.offset + 1
           else if s.power.target + 10 < min 255 m then s.power.offset - 1 else s.power.offset)))
      ∧ (50 < min 255 m → t.power.marginArmed = true)
      ∧ (min 255 m < 40 → s.power.marginArmed = true →
          t.fault.raised = s.fault.raised ++ [t.faultRec 1779 0] ∧ t.power.marginArmed = false)
      ∧ (40 ≤ min 255 m ∨ s.power.marginArmed = false → t.fault = s.fault))
    ∧ (∀ (p : Fin 14) (lane : Fin 16) want, s.on = true → s.opticsOn = true → lane.val < portLanes p →
      Answers (.laserBiasStep p lane want) s fun t =>
        ((t.link p).lane lane).biasPct = min s.power.maxPct
            (if (want - ((s.link p).lane lane).biasPct) * 100 ≤ 2 * (100 + ((s.link p).lane lane).biasPct)
                ∧ (((s.link p).lane lane).biasPct - want) * 100 ≤ 2 * (100 + ((s.link p).lane lane).biasPct)
             then ((s.link p).lane lane).biasPct else want)
        ∧ ((t.link p).lane lane).biasPin = (((t.link p).lane lane).biasPct == s.power.maxPct)
        ∧ (((s.link p).lane lane).biasAt ≠ 0 → ((t.link p).lane lane).biasPct ≠ ((s.link p).lane lane).biasPct →
            t.now = max s.now (((s.link p).lane lane).biasAt + 4000000000))
        ∧ (t.link p).phase = (s.link p).phase
        ∧ (20 ≤ ((t.link p).lane lane).biasPct → ((s.link p).lane lane).biasSeen = false →
            t.fault.raised = s.fault.raised ++ [t.faultRec (1600 + 6 * p.val + 3) lane.val])
        ∧ (((t.link p).lane lane).biasPct < 20 → t.fault = s.fault))
    ∧ (∀ (p : Fin 14) (lane : Fin 16) atEnd, s.on = true → s.opticsOn = true → lane.val < portLanes p →
      Answers (.equalisationStep p lane atEnd) s fun t =>
        ((t.link p).lane lane).eqPin = atEnd ∧ ((t.link p).lane lane).biasPct = ((s.link p).lane lane).biasPct
          ∧ (((s.link p).lane lane).eqAt ≠ 0 → t.now = max s.now (((s.link p).lane lane).eqAt + 40000000))
          ∧ t.fault = s.fault)

/-- The states of the kettles (the entry into Idle: log entry 62) (R388, R389). When the kettle of an unlisted entry into Idle becomes Idle is the model's choice (log entry 62). -/
def Obligations.KettleStates : Prop :=
  ∀ (s : State) (p : HostPort),
    (∀ mask : BitVec 4, s.mayWrite p 0x6002C = true → Answers (.doze p mask) s fun t => t.hbm = s.hbm
        ∧ t.power.refused = (s.power.refused
            || (kettlesOf mask).any fun k => !s.asleep k && (s.kettleBusy k || s.kettleStreaming k))
        ∧ (∀ k ∈ kettlesOf mask, s.asleep k = false →
            t.kettle k = if s.kettleBusy k = true ∨ s.kettleStreaming k = true then s.kettle k else .doze)
        ∧ (∀ k, k ∉ kettlesOf mask → t.kettle k = s.kettle k))
    ∧ (∀ k : Fin 4, s.mayWrite p 0x6002C = true → s.asleep k = false → s.kettleBusy k = false →
        s.kettleStreaming k = false → Answers (.doze p (BitVec.ofNat 4 (2 ^ k.val))) s fun t =>
          t.kettle k = .doze ∧ t.power.refused = s.power.refused ∧ t.hbm = s.hbm)
    ∧ (∀ mask : BitVec 4, s.mayWrite p 0x6002C = true → Answers (.wake p mask) s fun t =>
            (∀ k ∈ kettlesOf mask, s.kettle k = .doze → k ∈ t.power.waking) ∧ t.tuns = s.tuns ∧ t.hbm = s.hbm)
    ∧ (∀ k : Fin 4, s.mayWrite p 0x6002C = true → s.kettle k = .doze →
        Answers (.wake p (BitVec.ofNat 4 (2 ^ k.val))) s fun t => k.val ∈ t.power.waking ∧ t.tuns = s.tuns)
    ∧ (∀ k : Fin 4, s.alive = true → s.power.tripped = false → s.power.waking.contains k.val = true →
        Answers (.kettleWakeComplete k) s fun t => t.kettle k = .active
          ∧ (s.host.a.posted = [] → s.host.b.posted = [] → t.hbm = s.hbm))
    ∧ (∀ k : Fin 4, s.alive = true → s.power.tripped = false → s.kettle k = .active → s.kettleBusy k = false →
        Answers (.kettleIdleEnter k) s fun t => t.kettle k = .idle ∧ t.tuns = s.tuns ∧ t.hbm = s.hbm)

/-- Supply off, power-on and package reset (what lost HBM reads as: log entry 4) (R360, R376, R377, R391, R393). That HBM whose contents are lost lists nothing, so that its bytes read 0, is the model's choice (log entry 4). -/
def Obligations.PowerAndPackageReset : Prop :=
  ∀ s : State,
    let keeps (t : State) : Prop := t.hbm = [] ∧ t.hbmFill = 0 ∧ t.host.holder = 0 ∧ t.host.auto = false
      ∧ t.grist.active = false ∧ t.grist.stored = s.grist.stored ∧ t.book.records = s.book.records
      ∧ t.sec.owner = s.sec.owner ∧ t.health.hold = s.health.hold ∧ t.time.ftc = 0 ∧ t.sqs = [] ∧ t.tuns = []
    (∀ vin, vin ≤ 2800 ∨ 4200 ≤ vin → s.power.powered = true → Answers (.supplyOff vin) s fun t =>
      t.power.powered = false ∧ t.power.offCause = (if 4200 ≤ vin then 3 else 2) ∧ t.book.cycles = s.book.cycles ∧ keeps t)
    ∧ (s.power.powered = false → Answers .powerOn s fun t =>
      t.power.powered = true ∧ t.power.step = 1 ∧ t.power.cause = s.power.offCause
        ∧ t.book.cycles = (s.book.cycles + 1) % 2 ^ 32 ∧ keeps t)
    ∧ (s.power.reset = false → Answers .packageReset s fun t =>
      t.power.reset = true ∧ t.power.step = 1 ∧ t.book.cycles = s.book.cycles ∧ keeps t)
    ∧ (s.power.reset = true → exec .packageResetRelease s =
        .next (s.modPower fun p => { p with reset := false, cause := if p.powered then 4 else p.cause }))

/-- Warm reset and FABRIC (the status bits of a warm reset: log entry 64) (R249, R354, R391, R393). Which bits of PWR_RESTORED the end of a warm reset sets is the model's choice (log entry 64). -/
def Obligations.WarmAndFabricReset : Prop :=
  ∀ (s : State) (p : HostPort),
    (s.mayWrite p 0x6002C = true → s.power.warm = false → Answers (.warm p) s fun t =>
      t.power.warm = true ∧ t.power.cause = 5 ∧ t.fault.fatal = none ∧ t.grist.phase = .empty
      ∧ t.grist.active = s.grist.active ∧ t.col.gen = (s.col.gen + 1) % 8 ∧ t.sqs = [] ∧ t.hbm = s.hbm
      ∧ t.time.ftc = s.time.ftc ∧ t.fault.first = s.fault.first ∧ t.host.holder = s.host.holder)
    ∧ (s.on = true → s.power.warm = true → Answers .warmResetComplete s fun t =>
      t.power.warm = false ∧ t.now = max s.now (s.power.warmAt + 200000000)
        ∧ t.power.restored = s.power.restored ||| 0x1B#8
        ∧ (s.host.a.posted = [] → s.host.b.posted = [] → t.hbm = s.hbm)
        ∧ (7 ≤ s.power.step → s.power.failed = false → s.isFatal = false → s.host.a.posted = [] → s.host.b.posted = [] →
            ∀ n < 14, (t.link n).phase = .training))
    ∧ (s.mayWrite p 0x6002C = true → s.opticsOn = true → Answers (.fabric p) s fun t =>
      t.power.restored = s.power.restored ||| 8#8 ∧ t.hbm = s.hbm ∧ t.time.ftc = s.time.ftc ∧ t.sqs = s.sqs
      ∧ (∀ n < 14, (s.link n).enable = true → (t.link n).downCause = 4 ∧ (t.link n).down = true
          ∧ (t.link n).downCnt = satInc 16 (s.link n).downCnt ∧ (t.link n).darkUntil = s.now + 400000
          ∧ (t.link n).phase = (if s.isFatal then .disabled else .training)
          ∧ (t.link n).pending = true ∧ (t.link n).boundary = false ∧ (t.link n).uncertain = false
          ∧ (t.link n).plan = false ∧ (t.link n).v2 = false)
      ∧ (∀ n < 14, (s.link n).enable = false → t.link n = s.link n)
      ∧ (∀ k, (t.tun k).program = (s.tun k).program ∧ (t.tun k).mem = (s.tun k).mem ∧ (t.tun k).params = (s.tun k).params)
      ∧ (s.openInstances = [] → t.tuns = s.tuns))

/-- Standby and its end (log entries 4 and 65) (R298, R330, R388, R390, R393, R405). That HBM lost in Standby lists nothing is the model's choice (log entry 4), and that FW_VALID is 0 from the end of Standby until the next verify is its reading (log entry 65). -/
def Obligations.StandbyAndWake : Prop :=
  ∀ (s : State) (p : HostPort),
    (s.mayWrite p 0x6002C = true → s.mayStep = false →
      exec (.standby p) s = .next (s.modPower fun x => { x with refused := true }))
    ∧ (s.mayWrite p 0x6002C = true → s.mayStep = true → Answers (.standby p) s fun t =>
      t.power.standby = true ∧ t.hbm = [] ∧ t.hbmFill = 0 ∧ t.streams = [] ∧ t.sqs = [] ∧ t.host.holder = 0
      ∧ t.grist.phase = .empty ∧ t.grist.active = s.grist.active ∧ t.time.ftc = s.time.ftc)
    ∧ (s.power.powered = true → s.power.reset = false → s.power.standby = true →
      Answers (.portReset p .perst) s fun t =>
        t.power.standby = false ∧ t.power.step = 2 ∧ t.power.cause = 6 ∧ t.sec.fwValid = false ∧ t.hbm = s.hbm)
    ∧ (∀ block : List Byte, s.mgmtOn = true → s.power.standby = true → block.length = 160 → s.sec.owner ≠ [] →
      s.sec.blockCode block = 0 → natAt block 4 2 = 4 → Answers (.mgmtWake block) s fun t =>
        t.power.standby = false ∧ t.power.step = 2 ∧ t.power.cause = 6 ∧ t.sec.fwValid = false ∧ t.sec.count = (s.sec.count + 1) % 2 ^ 32 ∧ t.hbm = s.hbm)

/-- Island resets and port resets (log entries 13, 63 and 66) (R325, R331, R391, R392, R393). That a reset while BUSY has no effect is the model's choice (log entry 63), what a port reset clears and keeps is log entry 66, and the configuration that its end finds is PRESUMED (log entry 13). -/
def Obligations.IslandAndPortReset : Prop :=
  ∀ (s : State) (p : HostPort),
    (∀ n : BitVec 9, s.mayWrite p 0x60030 = true →
      (∀ m, s.power.island = some m → exec (.islandReset p n) s = .next s)
      ∧ (s.power.island = none → islandOk n.toNat = false →
        exec (.islandReset p n) s = .next (s.modPower fun x => { x with islRefused := true }))
      ∧ (s.power.island = none → islandOk n.toNat = true → Answers (.islandReset p n) s fun t =>
        t.power.island = some n.toNat ∧ t.hbm = s.hbm ∧ t.power.islandAt = t.now ∧ t.now = s.now
        ∧ (∀ k < 192, n.toNat = k → s.asleep (kettleOf k) = false → (t.tun k).phase = s.restPhase k
            ∧ (t.tun k).restored = !s.forwardOnly k ∧ (t.tun k).mem = (s.tun k).mem ∧ (t.tun k).program = none
            ∧ (t.tun k).queues = [] ∧ (t.tun k).flags = [] ∧ (t.tun k).params = [] ∧ (t.tun k).inflight = []
            ∧ (t.tun k).vregs = [] ∧ (t.tun k).acc = [])
        ∧ (∀ k < 16, n.toNat = 192 + k → t.tuns = s.tuns
            ∧ (t.ctl k).phase = (if (s.ctl k).phase = .ready then .selfRefresh else (s.ctl k).phase)
            ∧ (t.ctl k).errCnt = 0 ∧ (t.ctl k).errInfo = 0 ∧ (t.ctl k).passes = 0 ∧ (t.ctl k).calibrations = 0
            ∧ (∀ j, j ≠ k → t.ctl j = s.ctl j))
        ∧ (∀ u < 4, n.toNat = 216 + u → t.lauter u = {} ∧ ∀ i < 256, (t.ctx (256 * u + i)).chunks = []
            ∧ (t.ctx (256 * u + i)).serving = false)
        ∧ (∀ q < 14, n.toNat = 225 + q → (t.link q).downCause = 5 ∧ (t.link q).down = true ∧ (t.link q).pending = true
            ∧ (t.link q).boundary = false ∧ (t.link q).uncertain = false ∧ (t.link q).plan = false
            ∧ (t.link q).phase = (if (s.link q).enable && s.opticsOn && !s.isFatal then .training else .disabled)
            ∧ (t.link q).fecCorr = 0 ∧ (t.link q).fecUnc = 0 ∧ (t.link q).replayed = 0 ∧ (t.link q).crcBad = 0
            ∧ (∀ j, j ≠ q → t.link j = s.link j))))
    ∧ (∀ n, s.alive = true → s.power.island = some n → Answers .islandResetComplete s fun t =>
        t.power.island = none ∧ (s.host.a.posted = [] → s.host.b.posted = [] → t.hbm = s.hbm)
        ∧ t.now = max s.now (s.power.islandAt + if 192 ≤ n ∧ n < 208 then 8000000 else 40000))
    ∧ (∀ c, s.on = true → Answers (.portReset p c) s fun t =>
        (t.port p).inReset = true ∧ (t.port p).bad = 0 ∧ (t.port p).badCnt = 0 ∧ (t.port p).latch = []
        ∧ (t.port p).hold = [] ∧ (t.port p).msix = [] ∧ (t.port p).posted = [] ∧ (t.port p).pci = {} ∧ (∀ q, s.queuesOf p q = true → t.sq q = {})
        ∧ (t.port p).winBase = (s.port p).winBase ∧ t.hbm = s.hbm
        ∧ (c = .flr → s.host.holder = portNum p → t.host.holder ≠ portNum p)
        ∧ (s.host.holder ≠ portNum p → t.host.holder = s.host.holder))
    ∧ (∀ held cfg clr, s.on = true → (s.port p).inReset = true → Answers (.portResetComplete ⟨p, held, cfg, clr⟩) s fun t =>
        (t.port p).inReset = false ∧ (t.port p).pci = cfg ∧ (t.port p).perst = false ∧ t.host.holder = s.host.holder
        ∧ t.power.restored = s.power.restored ||| 2#8
        ∧ t.now = max s.now ((s.port p).resetAt + held + 4000000))

/-- Boot runs its steps in order and stops at one that fails (R377, R394, R395). -/
def Obligations.BootSteps : Prop :=
  ∀ (s : State) (k : Fin 16), s.on = true →
    (s.power.failed = false → stepTicks s.power.step ≠ 0 → Answers (.bootStepEnd 0 k) s fun t =>
      t.power.step = (if s.power.step = 3 ∧ s.power.exitStandby = true then 5 else s.power.step + 1)
      ∧ t.power.failed = false
      ∧ t.now = (if s.power.step = 8 ∧ s.disc.phase = .done then s.now
          else max s.now (s.power.stepAt + stepTicks s.power.step))
      ∧ t.power.stepAt = t.now)
    ∧ (∀ f, f ≠ 0 → s.power.failed = false → failStep f = s.power.step → stepTicks s.power.step ≠ 0 →
      Answers (.bootStepEnd f k) s fun t =>
        t.power.failed = true ∧ t.power.fail = f ∧ t.power.step = s.power.step ∧ t.fault.drive = true
        ∧ (s.power.step = 6 → (t.ctl k).phase = .failed
            ∧ (t.fault.raised.drop s.fault.raised.length).map (·.src) = [1539 + 4 * k.val])
        ∧ (s.power.step ≠ 6 → t.fault.raised = s.fault.raised))
    ∧ (∀ f, s.power.failed = true → exec (.bootStepEnd f k) s = .next s)

/-- Loading and verifying firmware (an illegal length: log entry 68) (R394, R401, R402, R408). That an illegal length ends FW_LOAD with code 2 and counts no reject is the model's choice (log entry 68). -/
def Obligations.Firmware : Prop :=
  ∀ (s : State) (p : HostPort),
    (s.mayWrite p 0x70004 = true → s.sec.busy = true ∨ s.power.step ≠ 4 →
      exec (.fwLoad p) s = .next (s.modSec fun x => { x with lastCmd := 1, code := 1 }))
    ∧ (s.mayWrite p 0x70004 = true → s.sec.busy = false → s.power.step = 4 →
      (s.sec.len.toNat < 256 ∨ 2 ^ 25 < s.sec.len.toNat ∨ s.sec.len.toNat % 8 ≠ 0 →
        exec (.fwLoad p) s = .next (s.modSec fun x => { x with lastCmd := 1, code := 2 }))
      ∧ (256 ≤ s.sec.len.toNat → s.sec.len.toNat ≤ 2 ^ 25 → s.sec.len.toNat % 8 = 0 → s.readsAt p < 768 →
        Answers (.fwLoad p) s fun t => t.sec.code = 0 ∧ t.sec.lastCmd = 1 ∧ t.sec.loadPort = portNum p
          ∧ t.sec.busy = true ∧ t.sec.loading = s.sec.len.toNat ∧ t.hbm = s.hbm ∧ t.power = s.power))
    ∧ (s.on = true → s.power.failed = false → s.power.step = 5 → Answers .fwVerifyComplete s fun t =>
      t.now = max s.now (s.power.stepAt + 120000000) ∧ t.sec.busy = false
      ∧ t.sec.code = (if s.sec.loadPort = 0 then s.sec.code else fwCode s.sec.image s.sec.floor)
      ∧ t.power.step = (if fwCode s.sec.image s.sec.floor = 0 then 6 else 4)
      ∧ t.sec.fwValid = (if fwCode s.sec.image s.sec.floor = 0 then true else s.sec.fwValid)
      ∧ t.sec.svn = (if fwCode s.sec.image s.sec.floor = 0 then natAt s.sec.image 0x10 2 else s.sec.svn)
      ∧ t.sec.floor = (if fwCode s.sec.image s.sec.floor = 0 then natAt s.sec.image 0x10 2 else s.sec.floor)
      ∧ t.power.rejects = (if fwCode s.sec.image s.sec.floor = 0 then s.power.rejects else satInc 8 s.power.rejects))

/-- The owner's commands (codes of a bad address and of bad data: log entry 69) (R398, R399, R400, R403, R406, R408). Code 2 for an address that is no multiple of 256 and code 8 for uncorrected or poisoned data are the model's choices (log entry 69). -/
def Obligations.OwnerCommands : Prop :=
  ∀ (s : State) (p : HostPort) (e : Ecc), s.mayWrite p 0x70004 = true → s.sec.busy = false →
    s.hbmUp s.sec.addr.toNat 160 = true →
    let read := s.eccRead s.sec.addr.toNat 160 e 6 .used
    (s.sec.addr.toNat % 256 ≠ 0 →
      exec (.ownerEnroll p e) s = .next (s.modSec fun x => { x with lastCmd := 2, code := 2 })
      ∧ exec (.ownerRelease p e) s = .next (s.modSec fun x => { x with lastCmd := 2, code := 2 })
      ∧ exec (.debugUnlock p e) s = .next (s.modSec fun x => { x with lastCmd := 2, code := 2 }))
    ∧ (s.sec.addr.toNat % 256 = 0 → s.sec.addr.toNat + 160 ≤ hbmTop →
      (firstBad e s.sec.addr.toNat 160).isSome = true ∨ s.anyPoison s.sec.addr.toNat 160 = true →
        (natAt s.ownerBlock 4 2 = 1 →
          exec (.ownerEnroll p e) s = .next (read.modSec fun x => { x with lastCmd := 2, code := 8 }))
        ∧ (natAt s.ownerBlock 4 2 = 2 →
          exec (.ownerRelease p e) s = .next (read.modSec fun x => { x with lastCmd := 2, code := 8 }))
        ∧ (natAt s.ownerBlock 4 2 = 3 →
          exec (.debugUnlock p e) s = .next (read.modSec fun x => { x with lastCmd := 2, code := 8 })))
    ∧ (s.sec.addr.toNat % 256 = 0 → s.sec.addr.toNat + 160 ≤ hbmTop → firstBad e s.sec.addr.toNat 160 = none →
      s.anyPoison s.sec.addr.toNat 160 = false →
      (natAt s.ownerBlock 4 2 = 1 →
        (s.sec.blockCode s.ownerBlock = 0 → s.notArmed = true → Answers (.ownerEnroll p e) s fun t =>
          t.sec.owner = sliceB s.ownerBlock 0x20 32 ∧ t.sec.code = 0 ∧ t.sec.count = (s.sec.count + 1) % 2 ^ 32
            ∧ t.sec.life = max s.sec.life 1 ∧ t.hbm = s.hbm)
        ∧ (s.sec.blockCode s.ownerBlock ≠ 0 → exec (.ownerEnroll p e) s =
            .next (read.modSec fun x => { x with lastCmd := 2, code := s.sec.blockCode s.ownerBlock })))
      ∧ (natAt s.ownerBlock 4 2 = 2 → s.sec.blockCode s.ownerBlock = 0 → s.notArmed = true → s.sec.owner ≠ [] →
        Answers (.ownerRelease p e) s fun t =>
          t.sec.owner = [] ∧ t.sec.code = 0 ∧ t.sec.count = (s.sec.count + 1) % 2 ^ 32 ∧ t.hbm = s.hbm)
      ∧ (natAt s.ownerBlock 4 2 = 3 → s.sec.blockCode s.ownerBlock = 0 → s.sec.owner ≠ [] →
        Answers (.debugUnlock p e) s fun t =>
          t.sec.scope = BitVec.ofNat 3 (natAt s.ownerBlock 6 2) ∧ t.sec.code = 0
            ∧ t.sec.count = (s.sec.count + 1) % 2 ^ 32 ∧ t.grist = s.grist ∧ t.hbm = s.hbm))

/-- Attestation, the management lane and the shield (the lane's frames: log entry 70) (R397, R398, R403, R404, R405, R407, R342). That a received frame sets LOCK, the headers of a datagram and what makes a frame taken are the model's choices or PRESUMED (log entry 70). -/
def Obligations.AttestationAndManagement : Prop :=
  ∀ (s : State) (p : HostPort),
    (∀ e, s.mayWrite p 0x70004 = true → s.sec.life = 2 →
      exec (.attest p e) s = .next (s.modSec fun x => { x with lastCmd := 3, code := 1 }))
    ∧ (∀ e, firstBad e s.sec.addr.toNat 32 = none → s.mayWrite p 0x70004 = true → s.sec.life ≠ 2 → s.sec.busy = false → s.hbmUp s.sec.addr.toNat 0x300 = true →
      s.sec.addr.toNat % 256 = 0 → s.sec.addr.toNat + 0x300 ≤ hbmTop → s.anyPoison s.sec.addr.toNat 32 = false →
      Answers (.attest p e) s fun t => t.sec.code = 0 ∧ t.sec.lastCmd = 3 ∧ t.sec.count = s.sec.count
        ∧ t.hbm = (s.hbmPut (s.sec.addr.toNat + 0x100) (s.report (s.hbmBytes s.sec.addr.toNat 32))).hbm)
    ∧ (∀ e, s.mayWrite p 0x70004 = true → s.sec.busy = false → s.hbmUp s.sec.addr.toNat chain.length = true →
      s.sec.addr.toNat % 256 = 0 → Answers (.exportChain ⟨p, e⟩) s fun t => t.sec.lastCmd = 4
        ∧ t.sec.code = (if s.sec.addr.toNat + chain.length ≤ hbmTop then 0 else 2)
        ∧ t.sec.len = (if s.sec.addr.toNat + chain.length ≤ hbmTop then word chain.length else s.sec.len)
        ∧ t.hbm = (if s.sec.addr.toNat + chain.length ≤ hbmTop then (s.hbmPut s.sec.addr.toNat chain).hbm else s.hbm))
    ∧ (s.mgmtOn = true →
      exec .mgmtChain s = .next (s.mgmtReply chain)
      ∧ (∀ nonce : List Byte, s.sec.life ≠ 2 → nonce.length = 32 →
          exec (.mgmtAttest nonce) s = .next (s.mgmtReply (s.report nonce)))
      ∧ exec .mgmtStatus s = .next (s.emit (.mgmt
          (leBytes 4 (s.regRead 0x70000) ++ leBytes 4 (s.regRead 0x40020) ++ leBytes 4 (s.regRead 0x6003C))))
      ∧ (∀ frame d bs, mgmtTakes frame = true → frame.take 6 = laneMac → datagramOf frame = some d →
          natAt d.payload 0 2 ≠ 4 → s.mgmtAnswer d.payload = some bs → Answers (.mgmtFrameReceive frame) s fun t =>
            t.out = ((mgmtPieces bs).map fun x => .mgmt (d.reply x)).reverse ++ s.out
            ∧ t = { s with host := { s.host with mgmtLock := true }, out := t.out }))
    ∧ (∀ bytes : List Byte, s.power.powered = true → s.power.reset = false →
      Answers (.mgmtFrameReceive bytes) s fun t => t.host.mgmtLock = true
        ∧ t.host.dropped = if mgmtTakes bytes then s.host.dropped else satInc 16 s.host.dropped)
    ∧ (s.power.powered = true → exec .shieldBreach s =
        .next ((s.modSec fun x => { x with keyGone := true, life := 2 }).raise 1781 0))

/-- Reads that a host completes or leaves to time out (AER and the timeout ranges: log entry 13) (R325, R328, R334, R335, R336, R337, R402). The AER bits and the ranges of the completion timeout are PRESUMED from PCI Express (log entry 13). -/
def Obligations.HostCompletions : Prop :=
  ∀ (s : State) (k : Nat) (r : HostRead) (p : HostPort), s.read? k = some r → p = portOf r.port →
    s.portConfig p = true → (s.port p).pci.cplOff = false →
    Answers (.hostCompletionTimeout k) s (fun t => (t.port p).aer = (s.port p).aer ||| word (2 ^ 14)
      ∧ t.now = max s.now (r.at_ + cplTicks (s.port p).pci.cplRange))
    ∧ (∀ bs, s.host.remote = false → Answers (.hostReadCompletion k (.poisoned bs)) s fun t =>
      (t.port p).aer = (s.port p).aer ||| word (2 ^ 12) ∧ (t.port p).aerCor = (s.port p).aerCor ||| word (2 ^ 13))
    ∧ (∀ q first n, r.what = .descriptors q first n → (s.sq q).phase = .running ∨ (s.sq q).phase = .waiting →
      (∀ bs, Answers (.hostReadCompletion k (.data bs)) s fun t =>
        (t.sq q).ops = (s.sq q).ops ++ (List.range n).map (fun i =>
          { index := (first + i) % 65536, desc := sliceB bs (64 * i) 64,
            status := if sqDescBad (s.sq q).version (s.queueField q 1 1 == 1) (sliceB bs (64 * i) 64) then some 1 else none })
        ∧ (t.sq q).fetching = 0 ∧ (∀ x ∈ t.host.reads, x.id ≠ r.id) ∧ t.hbm = s.hbm)
      ∧ ∀ c ∈ [Instr.hostReadCompletion k .error, .hostCompletionTimeout k], Answers c s fun t =>
        (∃ d, (t.sq q).ops = (s.sq q).ops ++ [{ index := first, desc := d, status := some 10 }]) ∧ (t.sq q).fetching = 0
        ∧ (∀ x ∈ t.host.reads, x.id ≠ r.id) ∧ t.hbm = s.hbm)
    ∧ (∀ q i off o h m, r.what = .opData q i off → (s.sq q).port = some h →
      (s.sq q).ops.find? (fun y => y.index == i) = some o → m = { o with reads := o.reads - 1 } →
      ∀ upd : SqOp → List SqOp, upd = (fun z => (s.sq q).ops.map fun y => if y.index == i then z else y) →
      ((s.sq q).ops.filter (fun y => y.index == i)).length = 1 →
      (∀ bs n, o.op = 1 → n = min (o.len - off) (4096 - (o.dev + off) % 4096) →
        Answers (.hostReadCompletion k (.data bs)) s (fun t =>
          (t.sq q).ops = upd { m with frames := o.frames + 1, made := o.made + n } ∧ t.hbm = s.hbm
          ∧ ∃ f, t.made (portMlt h) f ∧ f.payload = fit n bs ∧ f.hdr.op = 0x04 ∧ f.hdr.opx = BitVec.ofNat 64 (o.dev + off)
            ∧ f.tail.verdict = 0)
        ∧ Answers (.hostReadCompletion k (.poisoned bs)) s fun t =>
          (t.sq q).ops = upd { m with fail := 10, frames := o.frames + 1, made := o.made + n } ∧ t.hbm = s.hbm
          ∧ ∃ f, t.made (portMlt h) f ∧ f.payload = fit n bs ∧ f.tail.verdict = 3)
      ∧ (∀ bs n, o.op = 3 → n = min 4096 (o.len - off) →
        (off ≠ o.made → o.got.find? (fun g => g.1 == o.made) = none → Answers (.hostReadCompletion k (.data bs)) s fun t =>
          (t.sq q).ops = upd { m with got := o.got ++ [(off, fit n bs)] } ∧ t.core = s.core ∧ t.hbm = s.hbm)
        ∧ (off = o.made → o.got = [] → 0 < n → Answers (.hostReadCompletion k (.data bs)) s fun t =>
          (t.sq q).ops = upd { m with frames := o.frames + 1, made := o.made + n } ∧ t.hbm = s.hbm
          ∧ ∃ f, t.made (portMlt h) f ∧ f.payload = fit n bs ∧ f.hdr.op = 0x01)
        ∧ Answers (.hostReadCompletion k (.poisoned bs)) s fun t => (t.sq q).ops = upd { m with fail := 10 }
          ∧ t.core = s.core ∧ t.hbm = s.hbm)
      ∧ (o.op = 1 ∨ o.op = 3 → ∀ c ∈ [Instr.hostReadCompletion k .error, .hostCompletionTimeout k], Answers c s fun t =>
          (t.sq q).ops = upd { m with fail := 10 } ∧ t.core.held = s.core.held ∧ t.core.inject = s.core.inject ∧ t.hbm = s.hbm)
      ∧ (o.op = 6 → (∀ bs, Answers (.hostReadCompletion k (.data bs)) s fun t =>
            (t.sq q).ops = upd { m with got := [(0, fit (min 4096 (o.len - off)) bs)] } ∧ t.hbm = s.hbm)
        ∧ ∀ bs, ∀ c ∈ [Instr.hostReadCompletion k .error, .hostReadCompletion k (.poisoned bs), .hostCompletionTimeout k],
          Answers c s fun t => (t.sq q).ops = upd (SqOp.finish 10 0 m) ∧ t.hbm = s.hbm))
    ∧ ∀ off, r.what = .firmware off → s.sec.loadPort ≠ 0 → s.power.step = 4 →
      (∀ bs, r.len < s.sec.loading → Answers (.hostReadCompletion k (.data bs)) s fun t =>
          t.sec.parts = Tab.set [] s.sec.parts off (fit r.len bs) ∧ t.sec.loading = s.sec.loading - r.len
            ∧ t.sec.loadPort = s.sec.loadPort ∧ t.power.step = 4 ∧ t.hbm = s.hbm)
      ∧ (∀ bs, r.len = s.sec.loading → Answers (.hostReadCompletion k (.data bs)) s fun t =>
          t.sec.image = (Tab.set [] s.sec.parts off (fit r.len bs)).flatMap (·.2) ∧ t.sec.loadPort = s.sec.loadPort
            ∧ t.power.step = 5 ∧ t.power.stepAt = s.now ∧ t.hbm = s.hbm)
      ∧ ∀ bs, ∀ c ∈ [Instr.hostReadCompletion k .error, .hostReadCompletion k (.poisoned bs), .hostCompletionTimeout k],
        Answers c s fun t => t.sec.code = 8 ∧ t.sec.loadPort = 0 ∧ t.sec.parts = [] ∧ (∀ x ∈ t.host.reads, x.id ≠ r.id) ∧ t.hbm = s.hbm

/-- A fault that is taken (R348, R350, R351). -/
def Obligations.FaultIsTaken : Prop :=
  ∀ (s : State) (r : FaultRec), s.on = true → firstFault s.fault.raised = some r → srcClass r.src ≠ 3 →
    Answers .faultTake s fun t =>
      bitOf (Tab.get 0 t.fault.seen (r.src / 32)).toNat (r.src % 32) = true
      ∧ (srcClass r.src = 0 → t.fault.first = s.fault.first ∧ t.fault.ovf = s.fault.ovf ∧ t.fault.ovfCnt = s.fault.ovfCnt)
      ∧ (srcClass r.src ≠ 0 → s.fault.first = none →
          t.fault.first = some r ∧ t.fault.firstCls = srcClass r.src
            ∧ t.fault.ovf = s.fault.ovf)
      ∧ (srcClass r.src ≠ 0 → s.fault.first ≠ none →
          t.fault.first = s.fault.first ∧ t.fault.ovf = true ∧ t.fault.ovfCnt = satInc 16 s.fault.ovfCnt)
      ∧ t.hbm = s.hbm

/-- Entering the fatal state (R354). -/
def Obligations.FatalState : Prop :=
  ∀ (s : State) (r : FaultRec), s.on = true → s.fault.fatal = none → firstFault s.fault.raised = some r →
    srcClass r.src = 2 → Answers .faultTake s fun t =>
      t.isFatal = true ∧ t.fault.drive = true ∧ t.journal.openE = []
      ∧ (∀ k < 192, (t.tun k).phase ≠ .running ∧ (t.tun k).phase ≠ .waiting)
      ∧ (∀ p < 14, (t.link p).phase ≠ .up ∧ (t.link p).phase ≠ .hello
          ∧ ((s.link p).enable = true → (t.link p).enable = false))

/-- The fault block's commands and FAULT_N (R351, R352, R353). -/
def Obligations.FaultRegisters : Prop :=
  ∀ (s : State) (p : HostPort),
    (s.mayWrite p 0x40000 = true → (∀ x ∈ s.fault.newest, x.1.at_ ≠ s.now) →
      exec (.fltFirstClear p) s = .next { s with
        fault := { s.fault with first := none, firstCls := 0, ovf := false, ovfCnt := 0 } })
    ∧ (∀ x xs, s.mayWrite p 0x40000 = true → (s.fault.newest.filter fun y => y.1.at_ == s.now) = x :: xs →
      Answers (.fltFirstClear p) s fun t =>
        t.fault.first = some x.1 ∧ t.fault.firstCls = x.2 ∧ (t.fault.ovf = true ↔ xs ≠ []) ∧ t.fault.ovfCnt = xs.length
          ∧ t.fault.seen = s.fault.seen ∧ t.fault.raised = s.fault.raised ∧ t.hbm = s.hbm)
    ∧ (∀ (w : Fin 57) (v : Word), s.mayWrite p (0x40D00 + 4 * w) = true → Answers (.fltForce p w v) s fun t =>
        (∀ b < 32, bitOf v.toNat b = true → forcible (32 * w.val + b) = true →
          bitOf (Tab.get 0 t.fault.force w.val).toNat b = true)
        ∧ t.fault.first = s.fault.first ∧ t.fault.seen = s.fault.seen ∧ t.hbm = s.hbm)
    ∧ (∀ v : Word, s.mayWrite p 0x40018 = true → exec (.fltPinWrite p v) s =
        .next { s with fault := { s.fault with drive := bitOf v.toNat 0 } })
    ∧ (∀ at_, s.on = true → s.fault.pulseAt = some at_ → Answers .faultPulseStart s fun t =>
        t.fault.pulsing = true ∧ t.fault.low = true ∧ t.fault.pulseAt = none ∧ t.now = max s.now at_
          ∧ t.fault.pulseFrom = t.now)
    ∧ (s.on = true → s.fault.pulsing = true → s.now ≤ s.fault.pulseFrom + 80000 → Answers .faultPulseEnd s fun t =>
        t.fault.pulsing = false ∧ s.fault.pulseFrom + 80000 ≤ t.now ∧ t.now ≤ s.fault.pulseFrom + 100000)

/-- The cellar book (R355, R356, R357, R358, R359, R361). -/
def Obligations.CellarBook : Prop :=
  ∀ (s : State) (p : HostPort),
    (∀ i x, s.on = true → s.book.pending.findIdx? (fun r => r.waiting) = some i → s.book.pending[i]? = some x →
      Answers .bookSnapshot s fun t =>
        t.book.pending[i]? = some { x with
            waiting := false
            snaps := (List.range (min 48 (s.field secRecorder (0x208 + 200 * x.list) 2))).map fun j =>
              s.innerRead (s.field secRecorder (0x208 + 200 * x.list + 8 + 4 * j) 4 + 4) * 2 ^ 32
                + s.innerRead (s.field secRecorder (0x208 + 200 * x.list + 8 + 4 * j) 4) }
        ∧ t.book.records = s.book.records ∧ t.book.pending.length = s.book.pending.length)
    ∧ (∀ ok x rest, s.power.powered = true → s.power.reset = false → s.book.clearing = false →
      s.book.pending = x :: rest → x.waiting = false → Answers (.bookRecordWrite ok) s fun t =>
        t.book.pending = rest
        ∧ (s.book.records.length < 8192 → ok = true → t.book.records = s.book.records ++ [x] ∧ t.fault = s.fault)
        ∧ (8192 ≤ s.book.records.length → t.book.records = s.book.records ∧ t.book.dropped = satInc 32 s.book.dropped)
        ∧ (s.book.records.length < 8192 → ok = false → t.book.records = s.book.records
            ∧ t.book.dropped = satInc 32 s.book.dropped ∧ t.fault.raised = s.fault.raised ++ [s.faultRec 1780 0]))
    ∧ (∀ e bad, s.mayWrite p 0x50028 = true → s.book.clearing = false →
      bad = ((firstBad e s.book.src.toNat 128).isSome || s.anyPoison s.book.src.toNat 128) →
      Answers (.clbClear p e) s fun t =>
        t.book.records = s.book.records ∧ t.book.clears = s.book.clears ∧ t.hbm = s.hbm
        ∧ (t.book.clearing = true ↔ s.clearCode bad = 1) ∧ (s.clearCode bad ≠ 1 → t.book.result = s.clearCode bad))
    ∧ (s.book.clearing = true → Answers .clbClearComplete s fun t =>
        t.book.clearing = false ∧ t.book.result = 1 ∧ t.book.clears = (s.book.clears + 1) % 2 ^ 32 ∧ t.book.dropped = 0
        ∧ ∃ x, t.book.records = [x] ∧ x.kind = 2 ∧ x.trigger = 6)

/-- The seconds of health, the save and the hold (R360, R362, R363, R364). -/
def Obligations.HealthAndHold : Prop :=
  ∀ (s : State) (p : HostPort),
    let events (t : State) := (t.book.pending.drop s.book.pending.length).map fun x => (x.kind, x.trigger, x.detail)
    let fresh : Prop := s.book.pending.length ≤ 12 ∧ s.book.records.length < 8192
      ∧ ∀ x ∈ s.book.records.getLast?.toList ++ s.book.pending, x.kind = 1
    (∀ i e cool, e = s.health.hbmCorr + 16 * s.health.hbmLatent + s.health.tunCorr + s.health.ringCorr + s.health.cellCorr
          + 64 * s.health.retried + s.health.replayed / 4096 →
      cool = decide (40 < i.inletC ∨ i.flowCL < 200) → s.cellarOn = true → Answers (.healthSecond i) s fun t =>
        t.book.seconds = s.book.seconds + 1 ∧ t.health.hbmCorr = 0 ∧ t.health.warnings = 0
        ∧ t.health.own = (s.health.own - s.health.own / 2 ^ s.decay
            + (min 64 e + if i.hot = true ∧ cool = false then 16 else 0)) % 2 ^ 32
        ∧ t.health.env = (s.health.env - s.health.env / 2 ^ s.decay
            + ((if cool = true then 16 else 0) + 16 * s.health.warnings
              + if i.hot = true ∧ cool = true then 16 else 0)) % 2 ^ 32
        ∧ t.health.score = t.scoreNow
        ∧ t.health.holdLeft = s.health.holdLeft - 1 ∧ t.power.inlet = i.inletC ∧ t.power.flow = i.flowCL
        ∧ t.fault.raised = s.fault.raised ++ (if cool = true then [t.faultRec 1778 0] else [])
        ∧ (s.on = true → s.book.secondAt ≠ 0 → t.now = max s.now (s.book.secondAt + 4000000000))
        ∧ (s.health.level = 2 → 1 ≤ t.health.level) ∧ t.health.level ≤ 2
        ∧ (fresh → events t = if t.health.level = s.health.level ∨ s.health.hold = true then []
            else [(2, 3, t.health.level + s.health.level * 256)])
        ∧ t.hbm = s.hbm)
    ∧ (s.cellarOn = true → s.book.seconds % 60 = 0 → exec .healthSave s = .next { s with
        health := { s.health with ownSaved := s.health.own, envSaved := s.health.env } })
    ∧ (s.mayWrite p 0x40028 = true → Answers (.hold p) s fun t =>
        t.health.hold = true ∧ t.health.levelReg = 3 ∧ t.health.holdLeft = s.holdHours * 3600
          ∧ t.health.level = s.health.level ∧ t.fault = s.fault
          ∧ (fresh → events t = (2, 4, 1) ::
              (if s.health.levelReg = 3 then [] else [(2, 3, 3 + s.health.levelReg * 256)])))
    ∧ (s.mayWrite p 0x40028 = true → s.health.hold = true → Answers (.holdRelease p) s fun t =>
        t.health.hold = false ∧ t.health.levelReg = s.health.level ∧ t.fault = s.fault
          ∧ (fresh → events t = (2, 4, 2) :: (if s.health.level = 3 then [] else [(2, 3, s.health.level + 768)])))
    ∧ (s.cellarOn = true → s.health.hold = true → s.health.holdLeft = 0 → Answers .holdExpire s fun t =>
        t.health.hold = false ∧ t.health.level = s.health.level
          ∧ (fresh → events t = (2, 4, 3) :: (if s.health.level = 3 then [] else [(2, 3, s.health.level + 768)])))

/-- The proving run (R365). -/
def Obligations.ProvingRun : Prop :=
  ∀ (s : State) (p : HostPort),
    (s.mayWrite p 0x40028 = true → s.mayProve = false → exec (.prove p) s = .next s)
    ∧ (s.mayWrite p 0x40028 = true → s.mayProve = true → Answers (.prove p) s fun t =>
        t.proving = true ∧ t.health.stage = 1 ∧ t.health.proveAt = s.now ∧ t.hbm = [] ∧ t.poison = []
          ∧ t.hbmFill = s.free + 1)
    ∧ (s.proving = true → s.alive = true →
        Answers (.proveStageEnd false) s (fun t => t.health.result = 3
          ∧ t.fault.raised = s.fault.raised ++ [s.faultRec 1785 0])
        ∧ (s.stageFails s.health.stage = true → Answers (.proveStageEnd true) s fun t => t.health.result = 3
          ∧ t.health.passes = s.health.passes ∧ t.fault.raised = s.fault.raised ++ [t.faultRec 1785 0])
        ∧ (s.health.stage < 5 → s.stageFails s.health.stage = false → Answers (.proveStageEnd true) s fun t =>
          t.proving = true ∧ t.health.stage = s.health.stage + 1
            ∧ t.now = max s.now (s.health.proveAt + stageEnd s.health.stage * 4000000000))
        ∧ (5 ≤ s.health.stage → s.stageFails s.health.stage = false → Answers (.proveStageEnd true) s fun t =>
          t.health.result = 2 ∧ t.health.passes = satInc 8 s.health.passes ∧ t.health.own = 0 ∧ t.health.hold = false))
    ∧ (s.mayWrite p 0x40028 = true → s.proving = true → Answers (.abortProve p) s fun t =>
        t.health.result = 3 ∧ t.health.passes = s.health.passes
          ∧ t.fault.raised = s.fault.raised ++ [s.faultRec 1785 0])

/-- The catch-up engine (R366, R367, R368, R369, R371, R372). -/
def Obligations.CatchUpEngine : Prop :=
  ∀ (s : State) (p : HostPort),
    (s.mayWrite p 0x33020C = true → s.catchUp.phase = .idle ∨ s.catchUp.phase = .committed ∨ s.catchUp.phase = .failed →
      Answers (.catchupStart p) s fun t =>
        t.catchUp.lost = 0xFFFF ∧ t.catchUp.done = 0 ∧ t.hbm = s.hbm
        ∧ (s.catchUp.count = 0 → t.catchUp.phase = .failed ∧ t.catchUp.entry = 0)
        ∧ (1 ≤ s.catchUp.count → s.catchUp.count ≤ 4096 → inHbm s.catchUp.man.toNat (32 * s.catchUp.count) = true →
            (s.cuBad [] ((List.range s.catchUp.count).map s.cuEntry) 0 = none → t.catchUp.phase = .receiving)
            ∧ (∀ i, s.cuBad [] ((List.range s.catchUp.count).map s.cuEntry) 0 = some i →
                t.catchUp.phase = .failed ∧ t.catchUp.entry = i)))
    ∧ (∀ i off tries e tag, s.alive = true → s.isFatal = false → s.catchUp.phase = .receiving →
      s.cuOutstanding < s.catchUp.outst → s.catchUp.nextRead = some (i, off, tries) → s.catchUp.entries[i]? = some e →
      (s.granaryTurn 30).freeTag = some tag → (s.granaryTurn 30).admitTest ownReply 0 (cellsOf 4096) = .yes →
        Answers .catchupReadIssue s (fun t => t.catchUp = s.catchUp.advance ∧ (t.resv tag).isSome = true ∧ t.hbm = s.hbm)
        ∧ Answers (.replyReserve .catchUp) s fun t =>
            t.catchUp = s.catchUp.advance ∧ (t.resv tag).isSome = true ∧ t.hbm = s.hbm)
    ∧ (∀ (k : Taking) x r, s.inboxFor k.frame [0x13] = some x → x.hdr.epKind = 5 → s.resv (x.hdr.opx.toNat % 65536) = some r →
      r.who = .catchUp → r.sent = true → r.epoch = s.catchUp.run → s.isFatal = false → s.hbmReady r.addr 4096 = true →
      s.catchUp.phase = .receiving → x.verdict = 0 →
      Answers (.catchupReply k) s fun t => t.catchUp.done = s.catchUp.done + 4096
        ∧ t.hbm = (s.hbmPut r.addr (fit 4096 x.payload)).hbm)
    ∧ (∀ (k : Taking) x r, s.inboxFor k.frame [0x13] = some x → x.hdr.epKind = 5 → s.resv (x.hdr.opx.toNat % 65536) = some r →
      r.who = .catchUp → r.sent = true → r.epoch ≠ s.catchUp.run → s.hbmReady r.addr 4096 = true →
      Answers (.catchupReply k) s fun t => t.catchUp = s.catchUp ∧ t.hbm = s.hbm)
    ∧ (∀ (tag : Fin 16384) r, s.resv tag = some r → s.alive = true → r.who = .catchUp → r.sent = true →
      s.core.frames.any (fun f => f.tag == some tag.val) = false → s.catchUp.phase = .receiving → r.epoch = s.catchUp.run → s.isFatal = false →
      Answers (.catchupReadTimeout tag) s fun t =>
        (r.tries < 2 → t.catchUp.phase = .receiving ∧ t.catchUp.again = s.catchUp.again
            ++ [(r.index, r.addr - ((s.catchUp.entries[r.index]?).map (·.dst)).getD 0, r.tries + 1)])
        ∧ (2 ≤ r.tries → t.catchUp.phase = .orphaned ∧ t.catchUp.lost = r.node ∧ t.catchUp.entry = r.index)
        ∧ t.hbm = s.hbm)
    ∧ (s.alive = true → s.catchUp.phase = .verifying → s.isFatal = false →
      (∀ e ∈ s.catchUp.entries, s.regionReady e.dst e.len = true) → Answers .catchupVerifyComplete s fun t =>
        ((∀ e ∈ s.catchUp.entries, s.cuHolds e = true) → t.catchUp.phase = .committed ∧ t.fault = s.fault)
        ∧ (∀ e ∈ s.catchUp.entries, s.cuHolds e = false → t.catchUp.phase = .failed
            ∧ t.fault.raised = s.fault.raised ++ [s.faultRec 1786 0])
        ∧ t.hbm = s.hbm)
    ∧ (s.mayWrite p 0x33020C = true → s.catchUp.phase ∈ [.receiving, .verifying, .orphaned, .failed] →
      exec (.catchupAbandon p) s = .next { s with catchUp := { s.catchUp with phase := .abandoning, again := [], run := s.catchUp.run + 1 } })
    ∧ (s.alive = true → s.catchUp.phase = .abandoning → s.isFatal = false →
      (∀ e ∈ s.catchUp.entries, s.regionReady e.dst e.len = true) → Answers .catchupZeroed s fun t => t.catchUp.phase = .idle
        ∧ ∀ e ∈ s.catchUp.entries, inHbm e.dst e.len = true → ∀ j < e.len, t.hbmByte (e.dst + j) = 0)

/-- The test access port (R406, R412). -/
def Obligations.TestAccessPort : Prop :=
  ∀ s : State,
    (∀ tms tdi, s.power.powered = true → s.power.reset = false → s.tap.trst = false →
      Answers (.tapTckEdge true tms tdi) s (fun t =>
        t = { s with tap := t.tap, free := t.free } ∧ t.tap.phase = s.tap.phase.next tms ∧ t.tap.ir = s.tap.ir
        ∧ t.tap.cells = s.tap.cells ∧ t.tap.chain = s.tap.chain
        ∧ (s.tap.phase ≠ .captureDr → s.tap.phase ≠ .captureIr → t.free = s.free)
        ∧ (s.tap.phase = .captureDr → t.tap.dr = s.captured)
        ∧ (s.tap.phase = .captureIr → [true, false] <+: t.tap.irSh)
        ∧ (s.tap.phase = .shiftDr → t.tap.dr = s.tap.dr.drop 1 ++ [tdi])
        ∧ (s.tap.phase = .shiftIr → t.tap.irSh = s.tap.irSh.drop 1 ++ [tdi]))
      ∧ Answers (.tapTckEdge false tms tdi) s (fun t =>
        t = { s with tap := t.tap } ∧ t.tap.phase = s.tap.phase
        ∧ (s.tap.phase = .updateIr → t.tap.ir = s.tap.irSh)
        ∧ t.tap.cells = (if s.tap.phase = .updateDr ∧ (s.tapInstr = 1 ∨ s.tapInstr = 2) then s.tap.dr else s.tap.cells)
        ∧ t.tap.chain = (if s.tap.phase = .updateDr ∧ s.tapInstr = 3 then s.tap.dr else s.tap.chain)
        ∧ t.tap.tdo = (match s.tap.phase with
            | .shiftDr => s.tap.dr.head? | .shiftIr => s.tap.irSh.head? | _ => none)))
    ∧ exec (.tapTrst true) s = .next { s with
        tap := { s.tap with trst := true, phase := .testLogicReset, ir := [], tdo := none } }
    ∧ exec (.tapTrst false) s = .next { s with tap := { s.tap with trst := false } }

/-- Enabling and resetting stream queues, and their doorbells (R333, R338, R344, R9). -/
def Obligations.StreamQueueControl : Prop :=
  ∀ (s : State) (p : HostPort) (q : Fin 4096) (v : Word), s.portServes p = true → s.isFatal = false →
    s.queuePort q = some p → s.power.warm = false →
    ((s.sq q).en = false → bitOf v.toNat 31 = true → bitOf v.toNat 30 = false →
      (1 ≤ bitsOf v.toNat 29 28 → s.grist.desc.lo ≤ bitsOf v.toNat 29 28 → bitsOf v.toNat 29 28 ≤ s.grist.desc.hi →
        (s.sq q).descBase.toNat % 4096 = 0 → (s.sq q).cplBase.toNat % 4096 = 0 → (s.sq q).phase = .disabled →
        4 ≤ bitsOf v.toNat 19 16 → Answers (.sqEnable p q v) s fun t => t.sq q = { s.sq q with
          en := true, phase := .running, port := some p, done := 0, version := bitsOf v.toNat 29 28, log2 := bitsOf v.toNat 19 16 })
      ∧ ((s.sq q).descBase.toNat % 4096 ≠ 0 ∨ (s.sq q).cplBase.toNat % 4096 ≠ 0 ∨ bitsOf v.toNat 29 28 = 0
            ∨ bitsOf v.toNat 29 28 < s.grist.desc.lo ∨ s.grist.desc.hi < bitsOf v.toNat 29 28 → Answers (.sqEnable p q v) s fun t =>
          (t.sq q).en = false ∧ (t.sq q).err = 0x20 ∧ (t.sq q).phase = (s.sq q).phase)
      ∧ (bitsOf v.toNat 19 16 < 4 → Answers (.sqEnable p q v) s fun t =>
          (t.sq q).en = false ∧ (t.sq q).err = 0x20 ∧ (t.sq q).phase = (s.sq q).phase))
    ∧ Answers (.sqReset p q) s (fun t => (t.sq q).phase = .resetting ∧ (t.sq q).stopping = none
        ∧ (∀ o ∈ (t.sq q).ops, o ∈ (s.sq q).ops ∧ o.started = true) ∧ t.hbm = s.hbm ∧ t.tuns = s.tuns)
    ∧ (s.alive = true → (s.sq q).phase = .resetting → (∀ o ∈ (s.sq q).ops, o.ended.isSome = true) →
        exec (.sqResetComplete q) s = .next (s.modSq q StreamQ.afterReset))
    ∧ ((ringDist (v.toNat % 65536) (s.sq q).head ≤ (s.sq q).size →
          exec (.descTailDoorbell p q v) s = .next (s.modSq q fun x => { x with descTail := v.toNat % 65536 }))
        ∧ (ringDist (s.sq q).cplTail (v.toNat % 65536) ≤ (s.sq q).size →
          exec (.cplHeadDoorbell p q v) s = .next (s.modSq q fun x => { x with cplHead := v.toNat % 65536 }))
        ∧ ((s.sq q).size < ringDist (v.toNat % 65536) (s.sq q).head → (s.sq q).phase = .running →
          (s.sq q).stopping = none → (∃ o ∈ (s.sq q).ops, o.started = true) → Answers (.descTailDoorbell p q v) s fun t =>
            (t.sq q).stopping.map (·.1) = some 1 ∧ (t.sq q).descTail = (s.sq q).descTail))
    ∧ (s.portServes (portOther p) = true →
        exec (.descTailDoorbell (portOther p) q v) s = .next (s.badAccess (portOther p) 4)
        ∧ exec (.cplHeadDoorbell (portOther p) q v) s = .next (s.badAccess (portOther p) 4))

/-- Descriptors are fetched and act in turn (R325, R333, R334, R335, R336, R340). -/
def Obligations.DescriptorsStart : Prop :=
  ∀ (s : State) (q : Fin 4096) (p : HostPort), (s.sq q).port = some p →
    (∀ n, s.portServes p = true → (s.sq q).en = true → (s.sq q).phase = .running → (s.sq q).stopping = none →
      s.grist.frozen = false → s.sqPaused q = false → (s.sq q).fetching = 0 → s.readFits p (64 * n) = true →
      n = min (min 8 (ringDist (s.sq q).descTail (s.sq q).head))
        (min ((s.sq q).size - ringDist (s.sq q).head (s.sq q).cplHead) ((s.sq q).size - (s.sq q).head % (s.sq q).size)) →
      n ≠ 0 → Answers (.descriptorFetch q) s fun t =>
        t.out = s.withReads p ((s.sq q).descBase.toNat + 64 * ((s.sq q).head % (s.sq q).size)) (64 * n)
        ∧ (t.sq q).fetching = n ∧ (t.sq q).head = ((s.sq q).head + n) % 65536 ∧ t.hbm = s.hbm)
    ∧ (∀ o, s.sqTurn q 0 (fun _ => false) = some o →
      exec (.descNop q) s = .next (s.modOp q o.index (SqOp.finish 0 0)))
    ∧ (∀ o, s.sqTurn q 1 (fun o => o.next < o.len) = some o → s.devOk o.dev o.len = true →
      s.readFits p (min (o.len - o.next) (4096 - (o.dev + o.next) % 4096)) = true → Answers (.descLoad q) s fun t =>
        t.out = s.withReads p (o.host + o.next) (min (o.len - o.next) (4096 - (o.dev + o.next) % 4096)) ∧ t.hbm = s.hbm)
    ∧ (∀ o n e, s.sqTurn q 2 (fun _ => true) = some o → s.devOk o.dev o.len = true →
      n = min (o.len - o.next) (4096 - (o.dev + o.next) % 4096) → s.hbmReady (o.dev + o.next) n = true →
      s.storeTurn q (o.dev + o.next) = true →
      Answers (.descStore q e) s fun t =>
        t.out = s.withWrites p (o.host + o.next) (s.hbmBytes (o.dev + o.next) n) true ∧ t.hbm = s.hbm)
    ∧ (∀ o, s.sqTurn q 3 (fun o => o.next < o.len) = some o → s.readFits p (min (o.len - o.next) 4096) = true →
      Answers (.descSend q) s fun t =>
        t.out = s.withReads p (o.host + o.next) (min (o.len - o.next) 4096) ∧ t.hbm = s.hbm)
    ∧ (∀ o, s.sqTurn q 4 (fun _ => false) = some o → exec (.descRecv q) s =
        .next (s.modOp q o.index fun o => { o with posted := true }))
    ∧ (∀ o, s.sqTurn q 5 (fun _ => false) = some o → exec (.descRread q) s =
        .next (s.modOp q o.index fun o => { o with started := true }))
    ∧ (∀ o, s.sqTurn q 6 (fun _ => false) = some o →
      (s.host.holder ≠ portNum p → exec (.descRwrite q) s = .next (s.modOp q o.index (SqOp.finish 4 0)))
      ∧ (s.host.holder = portNum p → s.readFits p o.len = true → Answers (.descRwrite q) s fun t =>
          t.out = s.withReads p o.host o.len ∧ t.hbm = s.hbm))
    ∧ (∀ o, s.sqTurn q 7 (fun _ => false) = some o →
      (s.flagOwner (byteAt o.desc 0x21) (byteAt o.desc 0x20)).1 ≠ 0 →
      (natAt o.desc 0x22 2 ≤ (s.tun (byteAt o.desc 0x21)).flag (byteAt o.desc 0x20) → Answers (.descWait q) s fun t =>
        (t.tun (byteAt o.desc 0x21)).flag (byteAt o.desc 0x20)
          = (s.tun (byteAt o.desc 0x21)).flag (byteAt o.desc 0x20) - natAt o.desc 0x22 2 ∧ t.hbm = s.hbm)
      ∧ ((s.tun (byteAt o.desc 0x21)).flag (byteAt o.desc 0x20) < natAt o.desc 0x22 2 → Answers (.descWait q) s fun t =>
        (t.sq q).phase = .waiting ∧ (t.sq q).waitTun = byteAt o.desc 0x21 ∧ t.tuns = s.tuns ∧ t.hbm = s.hbm))

/-- The oldest descriptor completes in ring order (R336, R337, R338). -/
def Obligations.DescriptorCompletes : Prop :=
  ∀ (s : State) (q : Fin 4096) (p : HostPort) (o : SqOp) (rest : List SqOp) (st : Nat), (s.sq q).port = some p →
    s.portServes p = true → (s.sq q).ops = o :: rest → o.ended = some st →
    ((s.sq q).phase = .running ∨ (s.sq q).phase = .waiting → (s.sq q).stopping = none ∨ o.started = true →
      Answers (.descriptorComplete q) s fun t =>
        (t.sq q).cplTail = (o.index + 1) % 65536 ∧ (t.sq q).done = ((s.sq q).done + 1) % 2 ^ 32
        ∧ (∀ x ∈ (t.sq q).ops, x ∈ rest) ∧ t.tuns = s.tuns ∧ t.hbm = s.hbm
        ∧ (o.flagBit 3 = false → .hostWrite (portNum p)
            ((s.sq q).cplBase.toNat + 16 * (o.index % (s.sq q).size)) ((s.sq q).record o st) false ∈ t.out))
    ∧ ((s.sq q).phase = .running → (s.sq q).stopping = none → (∃ x ∈ rest, x.started = true) →
    Answers (.descriptorComplete q) s fun t =>
      (t.sq q).ops = rest ∧ (t.sq q).cplTail = (o.index + 1) % 65536 ∧ (t.sq q).done = ((s.sq q).done + 1) % 2 ^ 32
      ∧ (o.flagBit 3 = false → t.raises = s.raises
          ∧ (t.sq q).stopping = (if st = 0 then none else some (st, o.index))
          ∧ (o.flagBit 2 = false → t.out = .hostWrite (portNum p)
              ((s.sq q).cplBase.toNat + 16 * (o.index % (s.sq q).size)) ((s.sq q).record o st) false :: s.out))
      ∧ (o.flagBit 3 = true → (s.sq q).version = 2 → st = 0 →
          s.flagOwner (byteAt o.desc 0x21) (byteAt o.desc 0x20) = (3, q.val) → (t.sq q).stopping = none
          ∧ t.raises = s.raises ++ [⟨byteAt o.desc 0x21, byteAt o.desc 0x20, natAt o.desc 0x22 2, none⟩])
      ∧ t.tuns = s.tuns ∧ t.hbm = s.hbm)

/-- Remote memory accesses, their replies and their timeout (R191, R289, R340). -/
def Obligations.RemoteOperations : Prop :=
  ∀ s : State,
    (∀ k x len e, s.inboxFor k [0x12] = some x → s.serviceActs x.hdr = true → s.accessTurn x = true → x.verdict = 0 → len = natAt x.payload 0 4 →
      len % 4 = 0 → 0 < len → len ≤ 4096 → s.hbmReady x.hdr.opx.toNat len = true →
      Answers (.memReq k e) s fun t =>
        (bitOf (byteAt x.payload 6) 0 = false → t.hbm = s.hbm)
        ∧ (bitOf (byteAt x.payload 6) 0 = true → s.host.memWrEn = false → t.hbm = s.hbm)
        ∧ (bitOf (byteAt x.payload 6) 0 = true → s.host.memWrEn = true → x.hdr.opx.toNat + len ≤ hbmTop →
            t.hbm = (s.hbmPut x.hdr.opx.toNat (sliceB x.payload 8 len)).hbm)
        ∧ (bitOf (byteAt x.payload 6) 0 = true → s.host.memWrEn = true → hbmTop < x.hdr.opx.toNat + len → t.hbm = s.hbm)
        ∧ (∀ y ∈ t.core.inbox, ¬ (y.id = x.id ∧ y.copy = x.copy)))
    ∧ (∀ k x r o p st, x.hdr.epKind = 2 → s.resv (x.hdr.opx.toNat % 65536) = some r →
      r.who = .queue (Fin.ofNat 4096 x.hdr.epIdx) → (s.sq x.hdr.epIdx).port = some p →
      (s.sq x.hdr.epIdx).ops.find? (fun y => y.index == r.index && y.started && y.status.isNone) = some o →
      st = (if x.verdict ≠ 0 then 3 else if x.hdr.opx.toNat / 65536 % 256 = 1 then 4 else 0) →
      ∀ c ∈ [(Instr.regReply k, 0x11), (.memReply k, 0x13)], s.inboxFor k [c.2] = some x → Answers c.1 s fun t =>
        (t.sq x.hdr.epIdx).ops = (s.sq x.hdr.epIdx).ops.map (fun y =>
          if y.index = r.index then SqOp.finish st (if st = 0 then o.len else 0) y else y)
        ∧ (st = 0 → o.op = 5 → t.out = s.withWrites p o.host (fit o.len x.payload) true)
        ∧ (st ≠ 0 ∨ o.op ≠ 5 → t.out = s.out) ∧ t.tuns = s.tuns ∧ t.hbm = s.hbm)
    ∧ (∀ k x, x.hdr.epKind = 2 → s.resv (x.hdr.opx.toNat % 65536) = none →
      ∀ c ∈ [(Instr.regReply k, 0x11), (.memReply k, 0x13)], s.inboxFor k [c.2] = some x → exec c.1 s = .next (s.taken x))
    ∧ (∀ (tag : Fin 16384) r, s.resv tag = some r → s.alive = true →
      s.core.frames.any (fun f => f.tag == some tag.val) = false →
      (∀ k, r.who = .stream k → Answers (.replyTimeout tag) s fun t =>
        t.resv tag = none ∧ t.now = max s.now (r.since + 40000000) ∧ t.hbm = s.hbm
        ∧ t.core.lostCnt = satInc 16 s.core.lostCnt ∧ t.core.lostTag = tag.val
        ∧ ((s.stream k).active = true → (s.stream k).epoch = r.epoch → (t.stream k).active = false
            ∧ ∃ x ∈ t.fault.raised, x.src = 8 * (s.stream k).tun + 4))
      ∧ (r.who = .catchUp → exec (.replyTimeout tag) s = .next s))
    ∧ (∀ (tag : Fin 16384) r q, s.resv tag = some r → s.alive = true →
      s.core.frames.any (fun f => f.tag == some tag.val) = false → r.who = .queue q → Answers (.replyTimeout tag) s fun t =>
        (t.sq q).ops = (s.sq q).ops.map (fun o =>
          if o.index = r.index ∧ o.status = none then SqOp.finish 5 0 o else o)
        ∧ t.resv tag = none ∧ (∃ x ∈ t.fault.raised, x.src = 1765)
        ∧ t.now = max s.now (r.since + 40000000) ∧ t.tuns = s.tuns ∧ t.hbm = s.hbm)

/-- The control instructions of a running tun (R51, R65, R66, R67, R71, R72, R79, R88, R145, R151). -/
def Obligations.TunSequencer : Prop :=
  ∀ (s o : State) (t : Fin 192) (x : Slot) (a b : Tun) (imm m : Nat), o = s.issuing t x → a = o.tun t →
    b = a.issuedAs x [] → imm = (s.tun t).imm x.pc x.w → m = insMode x.w →
    (s.canIssue t 0x00 x → Answers (.nop t) s fun v => o.onlyTun v t b)
    ∧ (s.canIssue t 0x01 x → Answers (.waitCycles t) s fun v =>
        o.onlyTun v t { b with base := x.cycle + imm, first := imm != 0 })
    ∧ (s.canIssue t 0x03 x → Answers (.tunLoop t) s fun v =>
        o.onlyTun v t { b with loops := ⟨imm % 16, List.replicate 6 0⟩ :: b.loops })
    ∧ (∀ g e c, s.canIssue t 0x04 x → a.program = some g →
        c = { b with
          params := ((g.patches.drop (bitsOf imm 16 4)).take (bitsOf imm 24 17)).foldl
            (fun r y => Tab.set 0 r y.1 y.2) a.params
          replayRet := b.next.map (·.index)
          next := some ⟨true, blockStart (imm % 16) 0 g.replay⟩
          first := true, base := x.cycle + 1 + ceilDiv (bitsOf imm 24 17) 4 } →
        ((∀ y ∈ e, g.fetches (imm % 16) (bitsOf imm 16 4) (bitsOf imm 24 17) y.1 = true → y.2 = .clean) →
          Answers (.replay ⟨t, e⟩) s fun v => o.onlyTun v t c)
        ∧ ((∀ y ∈ e, g.fetches (imm % 16) (bitsOf imm 16 4) (bitsOf imm 24 17) y.1 = true → y.2 ≠ .uncorrectable) →
          Answers (.replay ⟨t, e⟩) s fun v => (v.tun t).params = c.params ∧ (v.tun t).next = c.next
            ∧ (v.tun t).base = c.base ∧ (v.tun t).replayRet = c.replayRet ∧ (v.tun t).phase = a.phase)
        ∧ ((∃ y ∈ e, g.fetches (imm % 16) (bitsOf imm 16 4) (bitsOf imm 24 17) y.1 = true ∧ y.2 = .uncorrectable) →
          Answers (.replay ⟨t, e⟩) s fun v => (v.tun t).phase = .haltedFault ∧ (v.tun t).memUe = true
            ∧ (v.tun t).params = a.params ∧ srcTun t 3 ∈ v.fault.raised.map (·.src)))
    ∧ (s.canIssue t 0x07 x → Answers (.setp t) s fun v =>
        o.onlyTun v t { b with params := Tab.set 0 a.params (m % 64) (word imm) })
    ∧ (∀ g f n, s.canIssue t 0x05 x → g = bitsOf m 23 16 → f = m % 256 → n = imm % 65536 → o.flagOwner g f = (1, t.val) →
        (g = t.val → Answers (.setf t) s fun v =>
          o.onlyTun v t (a.issuedAs x [⟨x.cycle, x.cycle + 1, .raise f n, 0, x.pc⟩]))
        ∧ (g ≠ t.val → Answers (.setf t) s fun v =>
          State.onlyTun { o with raises := o.raises ++ [⟨g, f, n, some t.val⟩] } v t b))
    ∧ (∀ f n, s.canIssue t 0x06 x → f = m % 256 → n = imm % 65536 → (o.flagOwner t f).1 ≠ 0 →
        (n ≤ a.flag f → Answers (.waitf t) s fun v => o.onlyTun v t
          { Tun.setFlag b f (a.flag f - n) with waitFlag := f, waitCount := n, metAt := none })
        ∧ (a.flag f < n → Answers (.waitf t) s fun v =>
          State.onlyTun { o with walks := o.walks ++ [newWalk (.tun t) t f n] } v t
            { b with waitFlag := f, waitCount := n, phase := .waiting, blocked := true, waitSince := o.now,
                     metAt := none }))
    ∧ (s.canIssue t 0x02 x → Answers (.tunEnd t) s fun v =>
        v.tun t = { b with next := none, ended := true, loops := [] }
        ∧ (∀ k, k ≠ t.val → v.tun k = o.tun k) ∧ v.hbm = o.hbm ∧ v.time = o.time
        ∧ ∀ k ∈ o.streamsOf t, (o.stream k).tun = t → (o.stream k).write = false → (o.stream k).runahead ≠ 0 →
          (v.stream k).active = false ∧ (v.stream k).store = [] ∧ (v.stream k).reserved = [])

/-- Moves, memory accesses and the RD instructions of a running tun (R55, R57, R78, R81, R85, R88, R89, R316). -/
def Obligations.TunReadsAndMoves : Prop :=
  ∀ (s o : State) (t : Fin 192) (x : Slot) (a : Tun), o = s.issuing t x → a = o.tun t →
    (s.canIssue t 0x13 x → Answers (.movz t) s fun v => o.onlyTun v t
        (a.issuedAs x [⟨x.cycle, x.cycle + 1, .push (dstsOf x.w) 0, 0, x.pc⟩]))
    ∧ (∀ e u, s.canIssue t 0x12 x → a.read0 x.w x.cycle = some (e, u) → Answers (.movq t) s fun v =>
        o.onlyTun v t (u.issuedAs x [⟨x.cycle, x.cycle + 1, .push (dstsOf x.w) e, 0, x.pc⟩]))
    ∧ (∀ e d, s.canIssue t 0x10 x → d = (s.tun t).imm x.pc x.w % 2 ^ 22 / 64 * 64 → a.reservedAt d = false →
        Answers (.movl t e) s fun v => o.onlyTun v t
          (a.issuedAs x [⟨x.cycle, x.cycle + 1, .memRead d (dstsOf x.w) e, 0, x.pc⟩]))
    ∧ (∀ e u d, s.canIssue t 0x11 x → d = (s.tun t).imm x.pc x.w % 2 ^ 22 / 64 * 64 → a.reservedAt d = false →
        a.read0 x.w x.cycle = some (e, u) → Answers (.movs t) s fun v => o.onlyTun v t
          (u.issuedAs x [⟨x.cycle, x.cycle + 1, .memWrite d e, 0, x.pc⟩]))
    ∧ (s.canIssue t 0x08 x → Answers (.rdcyc t) s fun v => (o.mark 8).onlyTun v t
        (Tun.issuedAs { a with mvSeen := true } x
          [⟨x.cycle, x.cycle + 2, .push (dstsOf x.w) (BitVec.ofNat 512 (x.cycle % 2 ^ 64)), 0, x.pc⟩]))
    ∧ (∀ (p : Nat) (gone : Int), s.canIssue t 0x09 x → p = o.oscStep * o.power.rate * o.mhz t →
      gone = ((o.clk.tun * o.mhz t : Nat) : Int) - ((a.oscAt * o.mhz t + x.cycle * tunUnit : Nat) : Int) →
      Answers (.rdftc t) s fun v => ∃ lag : Nat,
        (0 < p → gone + (4 * tunUnit : Nat) ≤ (lag * p : Nat))
        ∧ (0 < p → p ≤ 5 * tunUnit → 0 ≤ gone + (4 * tunUnit : Nat) → (lag * p : Nat) ≤ gone + (9 * tunUnit : Nat))
        ∧ (State.mark { o with free := o.free + 1 } 8).onlyTun v t (Tun.issuedAs { a with mvSeen := true } x
          [⟨x.cycle, x.cycle + 2, .push (dstsOf x.w) (BitVec.ofNat 512 ((o.time.ftc - lag) % 2 ^ 64)), 0, x.pc⟩]))
    ∧ (∀ q, s.canIssue t 0x0A x → q = (s.tun t).imm x.pc x.w % 64 → Answers (.rdocc t) s fun v => (o.mark 8).onlyTun v t
        (Tun.issuedAs { a with mvSeen := true } x
          [⟨x.cycle, x.cycle + 2, .occ (insDst x.w 0).2.2 q (a.queue q).near.length, 0, x.pc⟩]))
    ∧ (s.canIssue t 0x0B x → Answers (.rdflag t) s fun v => (o.mark 8).onlyTun v t
        (Tun.issuedAs { a with mvSeen := true } x [⟨x.cycle, x.cycle + 2,
          .push (dstsOf x.w) (BitVec.ofNat 512 (a.flag (insMode x.w % 256) % 2 ^ 64)), 0, x.pc⟩]))

/-- The matrix instructions of a running tun (R85, R86, R90, R91, R92, R94, R95, R132, R317). -/
def Obligations.TunMatrixInstructions : Prop :=
  ∀ (s o : State) (t : Fin 192) (x : Slot) (u : Tun) (m imm : Nat), o = s.issuing t x → u = o.tun t → m = insMode x.w →
    imm = (s.tun t).imm x.pc x.w →
    (∀ e w, u.read0 x.w x.cycle = some (e, w) →
      (s.canIssue t 0x20 x → u.busyOf x.cycle [modeS m] = none → Answers (.mlds t) s fun v => o.onlyTun v t
        (w.issuedAs x [⟨x.cycle, x.cycle + 1, .tileRow false (modeS m) (imm % 64) (modeFmt m) e, 0, x.pc⟩]))
      ∧ (s.canIssue t 0x21 x → u.busyOf x.cycle [4 + modeW m] = none → Answers (.mldw t) s fun v => o.onlyTun v t
        (w.issuedAs x [⟨x.cycle, x.cycle + 1, .tileRow true (modeW m) (imm % 64) (modeFmt m) e, 0, x.pc⟩]))
      ∧ (s.canIssue t 0x22 x → u.busyOf x.cycle [if bitOf m 8 then 4 + modeW m else modeS m] = none →
        Answers (.mldsc t) s fun v => o.onlyTun v t (w.issuedAs x [⟨x.cycle, x.cycle + 1,
          .slot (bitOf m 8) (if bitOf m 8 then modeW m else modeS m) (imm % 4) (b2n (bitOf m 7)) (bitsOf m 6 4)
            (bitsOf m 3 2) e, 0, x.pc⟩])))
    ∧ (u.pending x.cycle (modeS m) = false → u.pending x.cycle (4 + modeW m) = false →
      u.pending x.cycle (8 + modeA m) = false → (u.tileS (modeS m)).complete = true → (u.tileW (modeW m)).complete = true →
      (s.canIssue t 0x23 x → (u.tileS (modeS m)).sparse = false → (u.dense.filter fun p => x.cycle < p.start).length < 4 →
        Answers (.mmt t) s fun v => ∃ p, (v.tun t).dense = u.dense ++ [p] ∧ (v.tun t).sparse = u.sparse
          ∧ (∀ q ∈ u.sparse, q.acc = p.acc → q.complete < p.start) ∧ p.s = u.tileS (modeS m) ∧ p.w = u.tileW (modeW m) ∧ p.acc = modeA m ∧ p.bitmap = none ∧ p.sparse = false
          ∧ x.cycle < p.start ∧ u.denseFree ≤ p.start ∧ p.complete = p.start + denseTime p.s p.w + 7
          ∧ o.onlyTun v t { u.issuedAs x [] with dense := u.dense ++ [p], denseFree := p.start + denseTime p.s p.w })
      ∧ (s.canIssue t 0x23 x → (u.tileS (modeS m)).sparse = true → (u.sparse.filter fun p => x.cycle < p.start).length < 4 →
        Answers (.mmt t) s fun v => ∃ p, (v.tun t).sparse = u.sparse ++ [p] ∧ (v.tun t).dense = u.dense
          ∧ (∀ q ∈ u.dense, q.acc = p.acc → q.complete < p.start) ∧ p.s = u.tileS (modeS m) ∧ p.w = u.tileW (modeW m) ∧ p.acc = modeA m ∧ p.bitmap = none ∧ p.sparse = true
          ∧ x.cycle < p.start ∧ u.sparseFree ≤ p.start ∧ p.start + 7 ≤ p.complete
          ∧ o.onlyTun v t { u.issuedAs x [] with sparse := u.sparse ++ [p], sparseFree := p.start + p.busy })
      ∧ (s.canIssue t 0x24 x → (u.sparse.filter fun p => x.cycle < p.start).length < 4 →
        Answers (.mmtb t) s fun v => ∃ p, (v.tun t).sparse = u.sparse ++ [p] ∧ (v.tun t).dense = u.dense
          ∧ (∀ q ∈ u.dense, q.acc = p.acc → q.complete < p.start) ∧ p.s = u.tileS (modeS m) ∧ p.w = u.tileW (modeW m) ∧ p.acc = modeA m ∧ p.bitmap = some imm ∧ p.sparse = true
          ∧ x.cycle < p.start ∧ u.sparseFree ≤ p.start ∧ p.complete = p.start + p.busy + 7
          ∧ o.onlyTun v t { u.issuedAs x [] with sparse := u.sparse ++ [p], sparseFree := p.start + p.busy }))
    ∧ (u.busyOf x.cycle [8 + modeA m] = none →
      (∀ n c0 e f cells, s.canIssue t 0x25 x → n = fmtLanes (modeFmt m) → c0 = n * bitsOf imm 7 6 →
        cells = (List.range n).map (fun i => imm % 64 * 64 + c0 + i) →
        convertWords (modeFmt m) (bitOf m 21) (bitOf m 23) (bitsOf imm 31 16) (u.srParams.1 + 64 * (imm % 64) + c0)
          u.srParams.2 (cells.map fun k => (Tab.get 0 u.acc (modeA m * 4096 + k)).toNat) = (e, f) →
        u.digItems = 0 ∨ u.digLayer = bitsOf imm 31 16 →
        Answers (.mst t) s fun v => o.onlyTun v t ((u.foldItem o.blockPos t (bitsOf imm 31 16) (BitVec.ofNat 512 e)).issuedAs x
          (⟨x.cycle, x.cycle + 3, .push (dstsOf x.w) (BitVec.ofNat 512 e), engineBits .dense f, x.pc⟩ ::
            (if bitOf m 22 then [⟨x.cycle, x.cycle + 1, .accZero (modeA m) cells, 0, x.pc⟩] else []))))
      ∧ (s.canIssue t 0x26 x → Answers (.mzero t) s fun v => o.onlyTun v t
        (u.issuedAs x [⟨x.cycle, x.cycle + 1, .accZero (modeA m) (List.range 4096), 0, x.pc⟩])))
    ∧ (s.canIssue t 0x27 x → o.flagOwner t (m % 256) = (1, t.val) → Answers (.msetf t) s fun v => ∃ d,
        1 ≤ d ∧ (∀ p ∈ u.dense ++ u.sparse, p.complete + 1 ≤ x.cycle + d)
        ∧ (d = 1 ∨ ∃ p ∈ u.dense ++ u.sparse, p.complete + 1 = x.cycle + d)
        ∧ o.onlyTun v t (u.issuedAs x [⟨x.cycle, x.cycle + d, .raise (m % 256) (imm % 65536), 0, x.pc⟩]))

/-- The vector instructions of a running tun (R85, R96, R97, R119). -/
def Obligations.TunVectorInstructions : Prop :=
  ∀ (s o : State) (t : Fin 192) (x : Slot) (u : Tun) (m imm : Nat), o = s.issuing t x → u = o.tun t → m = insMode x.w →
    imm = (s.tun t).imm x.pc x.w →
    (∀ e ∈ [(Instr.vadd t, 0x32, 4, f32Add), (.vsub t, 0x33, 4, f32Sub), (.vmul t, 0x34, 4, f32Mul), (.vmax t, 0x36, 2, f32Max),
        (.vmin t, 0x37, 2, f32Min),
        (.vcmp t, 0x38, 2, fun a b => (if f32Cmp (bitsOf m 19 18) a b then 0x3F800000 else 0, 0))],
      s.canIssue t e.2.1 x → o.vecFree t x [modeVa m, modeVb m, modeVd m] → Answers e.1 s fun v => o.onlyTun v t
        (u.issuedAs x [⟨x.cycle, x.cycle + e.2.2.1,
          .vreg (modeVd m) (vecLanes fun i => e.2.2.2 (u.lane (modeVa m) i) (u.lane (modeVb m) i)),
          vecFlags (fun i => e.2.2.2 (u.lane (modeVa m) i) (u.lane (modeVb m) i)), x.pc⟩]))
    ∧ (∀ e ∈ [(Instr.vexp t, 0x40, f32Exp), (.vlog t, 0x41, f32Log), (.vrcp t, 0x42, f32Rcp), (.vrsqrt t, 0x43, f32Rsqrt),
        (.vtanh t, 0x44, f32Tanh), (.vsigm t, 0x45, f32Sigm)],
      s.canIssue t e.2.1 x → o.vecFree t x [modeVa m, modeVd m] → Answers e.1 s fun v => o.onlyTun v t
        (u.issuedAs x [⟨x.cycle, x.cycle + 12, .vreg (modeVd m) (vecLanes fun i => e.2.2 (u.lane (modeVa m) i)),
          vecFlags (fun i => e.2.2 (u.lane (modeVa m) i)), x.pc⟩]))
    ∧ (∀ e ∈ [(Instr.vfma t, 0x35, 4, f32Fma), (.vsel t, 0x39, 2, fun a b c => (if c % 2 ^ 31 == 0 then b else a, 0))],
      s.canIssue t e.2.1 x → o.vecFree t x [modeVa m, modeVb m, modeVc m, modeVd m] → Answers e.1 s fun v => o.onlyTun v t
        (u.issuedAs x [⟨x.cycle, x.cycle + e.2.2.1, .vreg (modeVd m) (vecLanes fun i =>
            e.2.2.2 (u.lane (modeVa m) i) (u.lane (modeVb m) i) (u.lane (modeVc m) i)),
          vecFlags (fun i => e.2.2.2 (u.lane (modeVa m) i) (u.lane (modeVb m) i) (u.lane (modeVc m) i)), x.pc⟩]))
    ∧ (s.canIssue t 0x3A x → o.vecFree t x [modeVd m] → f32IsNan imm = false → Answers (.vbcast t) s fun v => o.onlyTun v t
        (u.issuedAs x [⟨x.cycle, x.cycle + 1, .vreg (modeVd m) (vecLanes fun _ => (imm, 0)), 0, x.pc⟩]))
    ∧ (s.canIssue t 0x3A x → o.vecFree t x [modeVd m] → f32IsNan imm = true → Answers (.vbcast t) s fun v => o.onlyTun v t
        (u.issuedAs x [⟨x.cycle, x.cycle + 1, .vreg (modeVd m) (vecLanes fun _ => (0x7FC00000, 0)),
          (if isSnan 0 imm then 0x800 else 0), x.pc⟩]))
    ∧ (∀ e ∈ [(Instr.vredsum t, 0x3B, 12, f32Add), (.vredmax t, 0x3C, 8, f32Max)],
      s.canIssue t e.2.1 x → o.vecFree t x [modeVa m, modeVd m] → Answers e.1 s fun v => o.onlyTun v t
        (u.issuedAs x [⟨x.cycle, x.cycle + e.2.2.1,
          .vreg (modeVd m) (vecLanes fun _ => treeReduce e.2.2.2 ((List.range 64).map (u.lane (modeVa m)))),
          vecFlags (fun _ => treeReduce e.2.2.2 ((List.range 64).map (u.lane (modeVa m)))), x.pc⟩]))
    ∧ (∀ n e w ys, s.canIssue t 0x30 x → u.read0 x.w x.cycle = some (e, w) → o.vecFree t x [modeVd m] →
      n = fmtLanes (modeFmt m) → ys = (List.range n).map (fun i => loadLane (modeFmt m) (entryElem e (fmtBits (modeFmt m)) i)) →
      Answers (.vld t) s fun v => o.onlyTun v t (w.issuedAs x [⟨x.cycle, x.cycle + 2,
        .vreg (modeVd m) ((List.range n).map fun i => (n * (imm % 4) + i, word (ys.getD i (0, 0)).1)),
        engineBits .vector (ys.foldl (fun a y => Nat.lor a y.2) 0), x.pc⟩]))
    ∧ (∀ n e f, s.canIssue t 0x31 x → o.vecFree t x [modeVa m] → n = fmtLanes (modeFmt m) →
      convertWords (modeFmt m) false (bitOf m 23) (bitsOf imm 31 16) (u.srParams.1 + n * (imm % 4)) u.srParams.2
        ((List.range n).map fun i => u.lane (modeVa m) (n * (imm % 4) + i)) = (e, f) →
      u.digItems = 0 ∨ u.digLayer = bitsOf imm 31 16 →
      Answers (.vst t) s fun v => o.onlyTun v t ((u.foldItem o.blockPos t (bitsOf imm 31 16) (BitVec.ofNat 512 e)).issuedAs x
        [⟨x.cycle, x.cycle + 3, .push (dstsOf x.w) (BitVec.ofNat 512 e), engineBits .vector f, x.pc⟩]))

/-- Slips and exceptions of a tun (R57, R59, R80, R85, R103, R423). -/
def Obligations.TunExceptions : Prop :=
  ∀ (s o : State) (t : Fin 192) (x : Slot) (a : Tun), o = s.issuing t x → a = o.tun t →
    (∀ c op, tunOpcode c = some (t, op) → s.ready t op = none → exec c s = .next s)
    ∧ (∀ c op k, tunOpcode c = some (t, op) → s.ready t op = some x → a.phase = .running →
      (s.tun t).illegal x.pc x.w = some k → a.excValid = false → Answers c s fun v =>
        (v.tun t).phase = .haltedFault ∧ (v.tun t).excValid = true ∧ (v.tun t).excKind = 1 ∧ (v.tun t).excCause = k
        ∧ (v.tun t).excPc = x.pc.num ∧ (v.tun t).queues = a.queues ∧ v.hbm = s.hbm ∧ v.time.invalid = true
        ∧ o.faultRec (srcTun t 2) ((v.tun t).excReg) ∈ v.fault.raised)
    ∧ (∀ c op, tunOpcode c = some (t, op) → s.ready t op = some x → a.phase = .running →
      (s.tun t).illegal x.pc x.w = none → insMv x.w = true → o.strict = true → a.excValid = false →
      Answers c s fun v => (v.tun t).phase = .haltedFault ∧ (v.tun t).excKind = 2 ∧ (v.tun t).excPc = x.pc.num
        ∧ o.faultRec (srcTun t 2) ((v.tun t).excReg) ∈ v.fault.raised ∧ v.hbm = s.hbm)
    ∧ (∀ op, s.ready t op = some x → opDefined op = false → a.phase = .running → a.excValid = false →
      Answers (.issuePastStore t) s fun v => (v.tun t).phase = .haltedFault ∧ (v.tun t).excKind = 1
        ∧ (v.tun t).excCause = 1 ∧ (v.tun t).excPc = x.pc.num ∧ v.hbm = s.hbm)
    ∧ (∀ g, (s.tun t).slot = none → s.tunActs t = true → (s.tun t).phase = .running → (s.tun t).next.isSome = true →
      (s.tun t).settled ((s.tun t).issued + 1) = true → (s.tun t).excValid = false → (s.tun t).program = some g →
      Answers (.issuePastStore t) s fun v => (v.tun t).phase = .haltedFault ∧ (v.tun t).excKind = 1
        ∧ (v.tun t).excCause = 7 ∧ (v.tun t).excPc = g.store.length - 1 ∧ v.hbm = s.hbm)
    ∧ (∀ e ∈ [(Instr.movq t, 0x12), (.mlds t, 0x20), (.mldw t, 0x21), (.mldsc t, 0x22), (.vld t, 0x30)],
      s.canIssue t e.2 x → (a.queue (insSrc x.w 0).2.2).near = [] → a.slipValid = false →
      Answers e.1 s fun v => (v.tun t).phase = .haltedFault ∧ (v.tun t).slipValid = true ∧ (v.tun t).slipKind = 1
        ∧ (v.tun t).slipQueue = (insSrc x.w 0).2.2 ∧ (v.tun t).slipPc = x.pc ∧ (v.tun t).slipCycle = x.cycle
        ∧ (v.tun t).inflight = a.inflight ∧ v.hbm = s.hbm
        ∧ o.faultRec (srcTun t 0) ((v.tun t).slipReg) ∈ v.fault.raised)
    ∧ (∀ r, s.canIssue t 0x32 x → a.busyOf x.cycle ([modeVa (insMode x.w), modeVb (insMode x.w),
        modeVd (insMode x.w)].map (24 + ·)) = some r → a.slipValid = false → Answers (.vadd t) s fun v =>
          (v.tun t).phase = .haltedFault ∧ (v.tun t).slipKind = 3 ∧ (v.tun t).slipQueue = r
          ∧ (v.tun t).vregs = a.vregs ∧ v.hbm = s.hbm)

/-- Results land, products start and complete, and a program ends (R55, R58, R85, R88, R89, R94, R97, R121, R319). -/
def Obligations.TunResultsLand : Prop :=
  ∀ (s : State) (t : Fin 192) (u : Tun), u = s.tun t → s.tunActs t = true →
    (∀ i f, firstLanding u.inflight = some (i, f) → u.past f.land = true →
      (∀ d q e, f.eff = .push [(d, q)] e → q < 48 → (u.queue q).near.length < 32 → Answers (.resultPush t) s fun v =>
        ((v.tun t).queue q).near = (u.queue q).near ++ [e] ∧ (∀ k, k ≠ q → (v.tun t).queue k = u.queue k)
        ∧ (v.tun t).inflight = takeOut i u.inflight ∧ (v.tun t).arith = u.arith ||| BitVec.ofNat 12 f.flags
        ∧ (v.tun t).mem = u.mem ∧ v.hbm = s.hbm ∧ v.fault = s.fault)
      ∧ (∀ d q e, f.eff = .push [(d, q)] e → q < 48 → 32 ≤ (u.queue q).near.length → u.phase = .running →
        u.slipValid = false → Answers (.resultPush t) s fun v => (v.tun t).phase = .haltedFault
          ∧ (v.tun t).slipKind = 2 ∧ (v.tun t).slipQueue = q ∧ (v.tun t).slipEnd = d
          ∧ (v.tun t).queue q = u.queue q ∧ v.hbm = s.hbm)
      ∧ (∀ a e, f.eff = .memWrite a e → Answers (.resultPush t) s fun v =>
        (v.tun t).mem = (u.memPut a e).mem ∧ (v.tun t).queues = u.queues ∧ (v.tun t).inflight = takeOut i u.inflight
        ∧ v.hbm = s.hbm)
      ∧ (∀ r ls, f.eff = .vreg r ls → Answers (.resultPush t) s fun v =>
        (v.tun t).vregs = ls.foldl (fun m l => Tab.set 0 m (r * 64 + l.1) l.2) u.vregs
        ∧ (v.tun t).arith = u.arith ||| BitVec.ofNat 12 f.flags ∧ (v.tun t).mem = u.mem ∧ v.hbm = s.hbm)
      ∧ (∀ a cells, f.eff = .accZero a cells → Answers (.resultPush t) s fun v =>
        (v.tun t).acc = cells.foldl (fun m k => Tab.set 0 m (a * 4096 + k) 0) u.acc ∧ (v.tun t).queues = u.queues
        ∧ v.hbm = s.hbm)
      ∧ (∀ g n, f.eff = .raise g n → u.flag g + n ≤ 65535 → Answers (.resultPush t) s fun v =>
        (v.tun t).flag g = u.flag g + n ∧ (∀ k, k ≠ g → (v.tun t).flag k = u.flag k) ∧ v.fault = s.fault)
      ∧ (∀ a ds e, f.eff = .memRead a ds e →
        ((∀ y ∈ e, y.1 < 8 → y.2 ≠ .uncorrectable) → Answers (.resultPush t) s fun v =>
          (v.tun t).inflight = putIn { f with land := f.land + 3, eff := .push ds (u.memEntry a) } i u.inflight
          ∧ (v.tun t).queues = u.queues ∧ (v.tun t).mem = u.mem ∧ v.hbm = s.hbm
          ∧ ((∀ y ∈ e, y.2 = .clean) → v.fault = s.fault ∧ (v.tun t).memCe = u.memCe))
        ∧ ((∃ y ∈ e, y.1 < 8 ∧ y.2 = .uncorrectable) → u.phase = .running → Answers (.resultPush t) s fun v =>
          (v.tun t).phase = .haltedFault ∧ (v.tun t).memUe = true ∧ (v.tun t).queues = u.queues
          ∧ (v.tun t).mem = u.mem ∧ v.hbm = s.hbm)))
    ∧ (∀ b p, (u.engine b).find? (fun p => !p.started) = some p → u.past p.start = true →
      (∀ q ∈ u.engine (!b), q.acc = p.acc → p.issue ≤ q.issue) → Answers (.matrixProductStart t b) s fun v =>
        (v.tun t).engine b = (u.engine b).map (fun q => if q.issue = p.issue then { q with started := true } else q)
        ∧ (v.tun t).engine (!b) = u.engine (!b) ∧ (v.tun t).acc = u.acc
        ∧ v.time.ftc = max s.time.ftc (s.landFtc t p.start) ∧ v.hbm = s.hbm)
    ∧ (∀ b p rest ws f, u.engine b = p :: rest → p.started = true → u.past p.complete = true →
      p.compute (fun i => (Tab.get 0 u.acc (p.acc * 4096 + i)).toNat) = (ws, f) →
      Answers (.matrixProductComplete t b) s fun v =>
        (v.tun t).engine b = rest ∧ (v.tun t).engine (!b) = u.engine (!b)
        ∧ (v.tun t).acc = ws.foldr (fun e m => Tab.set 0 m (p.acc * 4096 + e.1) (word e.2)) u.acc
        ∧ (v.tun t).arith = u.arith ||| BitVec.ofNat 12 (engineBits (if p.sparse then .sparse else .dense) f)
        ∧ v.time.ftc = max s.time.ftc (s.landFtc t p.complete) ∧ v.hbm = s.hbm)
    ∧ (u.phase = .running → u.ended = true → u.inflight = [] → u.dense = [] → u.sparse = [] →
      Answers (.tunEnterDone t) s fun v => (v.tun t).phase = .done ∧ (v.tun t).cycle = max u.cycle u.issued + 1
        ∧ (v.tun t).digItems = 0 ∧ (v.tun t).engineCnt = 0
        ∧ (u.digItems = 0 → u.engineCnt = 0 → v.time.closures = s.time.closures)
        ∧ (v.tun t).queues = u.queues ∧ (v.tun t).mem = u.mem ∧ v.hbm = s.hbm ∧ v.fault = s.fault)

/-- The commands of a tun, its launch and its port queues (R18, R51, R61, R64, R73, R74, R76, R137, R146). -/
def Obligations.TunCommands : Prop :=
  ∀ (s : State) (t : Fin 192) (u : Tun), u = s.tun t →
    (∀ p, s.mayWrite p (tunOff t 0) = true →
      (s.proving = false → u.phase ∈ [.idle, .loaded, .done, .haltedFault, .haltedSw] → Answers (.tunLoad p t) s fun v =>
        (v.tun t).phase = .loading ∧ (v.tun t).program = none ∧ (v.tun t).inflight = [] ∧ (v.tun t).stat = []
        ∧ (v.tun t).wbuf = [] ∧ (v.tun t).acc = [] ∧ (v.tun t).vregs = [] ∧ (u.inflight = [] → (v.tun t).mem = u.mem)
        ∧ v.hbm = s.hbm)
      ∧ (u.phase ∈ [.armed, .running, .waiting, .loading] ∨ s.proving = true → Answers (.tunLoad p t) s fun v =>
        v.tun t = { u with refused := true } ∧ (∀ k, k ≠ t.val → v.tun k = s.tun k) ∧ v.hbm = s.hbm)
      ∧ (s.proving = false → u.phase ∈ [.loaded, .done] → s.time.ftc + 4000 ≤ u.launchAt.toNat →
          (∀ e ∈ u.queues, e.1 < 48 → e.2.near = []) → Answers (.armLaunch p t) s fun v =>
          v.tun t = { u with phase := .armed } ∧ (∀ k, k ≠ t.val → v.tun k = s.tun k) ∧ v.hbm = s.hbm)
      ∧ (u.launchAt.toNat < s.time.ftc + 4000 ∨ u.phase ∉ [.loaded, .done] ∨ s.proving = true
          ∨ (∃ e ∈ u.queues, e.1 < 48 ∧ e.2.near ≠ []) → Answers (.armLaunch p t) s fun v =>
          v.tun t = { u with refused := true } ∧ (∀ k, k ≠ t.val → v.tun k = s.tun k) ∧ v.hbm = s.hbm)
      ∧ (u.phase = .armed → Answers (.tunHalt p t) s fun v => v.tun t = { u with phase := .loaded, quietAt := s.now })
      ∧ (u.phase ∈ [.running, .waiting] → Answers (.tunHalt p t) s fun v =>
          (v.tun t).phase = .haltedSw ∧ (v.tun t).queues = u.queues ∧ (v.tun t).excValid = u.excValid
          ∧ v.time.invalid = s.time.invalid ∧ v.hbm = s.hbm)
      ∧ (u.phase ∉ [.loading, .running, .waiting] → Answers (.tunClear p t) s fun v =>
          (v.tun t).phase = .idle ∧ (v.tun t).program = none ∧ (v.tun t).queues = [] ∧ (v.tun t).flags = []
          ∧ (v.tun t).params = [] ∧ (v.tun t).slipValid = false ∧ (u.inflight = [] → (v.tun t).mem = u.mem)
          ∧ v.hbm = s.hbm))
    ∧ (∀ p f v, s.mayWrite p (tunOff t (0x400 + 4 * f.val)) = true →
        u.phase ∈ [.idle, .loaded, .done, .haltedFault, .haltedSw] → Answers (.tunFlagWrite p t f v) s fun w =>
          (w.tun t).flag f = v.toNat % 65536 ∧ (∀ k, k ≠ f.val → (w.tun t).flag k = u.flag k)
          ∧ (w.tun t).phase = u.phase ∧ w.hbm = s.hbm)
    ∧ (s.tunActs t = true → u.phase = .loading → u.loadSrc.toNat % 256 = 0 →
        u.loadSrc.toNat + u.loadLen.toNat ≤ hbmTop → s.regionReady u.loadSrc.toNat u.loadLen.toNat = true → ∀ (e : Ecc) (bad : Nat → Bool),
          bad = (fun l => s.poisonedAt l || e.any fun y => eccBad y.2 && burstAddr u.loadSrc.toNat y.1 / 64 * 64 == l) →
        (∀ l, (linesOf u.loadSrc.toNat u.loadLen.toNat).find? bad = some l → Answers (.loadComplete t e) s fun v =>
          v.tun t = { u with phase := .idle, loadCode := 4, loadDetail := l - u.loadSrc.toNat } ∧ v.hbm = s.hbm)
        ∧ (∀ g, (linesOf u.loadSrc.toNat u.loadLen.toNat).find? bad = none → s.checkProgram t (s.hbmBlob u.loadSrc.toNat u.loadLen.toNat) u.loadLen.toNat = .inr g →
          Answers (.loadComplete t e) s fun v => (v.tun t).phase = .loaded ∧ (v.tun t).program = some g
            ∧ (v.tun t).loadCode = 0 ∧ (v.tun t).queues = u.queues ∧ v.hbm = s.hbm)
        ∧ (∀ c d, (linesOf u.loadSrc.toNat u.loadLen.toNat).find? bad = none → s.checkProgram t (s.hbmBlob u.loadSrc.toNat u.loadLen.toNat) u.loadLen.toNat = .inl (c, d) →
          Answers (.loadComplete t e) s fun v =>
            v.tun t = { u with phase := .idle, loadCode := c, loadDetail := d } ∧ v.hbm = s.hbm))
    ∧ (s.tunActs t = true → u.phase = .armed → s.grist.release = none →
        (s.grist.frozen = true → Answers (.launch t) s fun v =>
          v.tun t = { u with phase := .loaded, missed := true, quietAt := v.now } ∧ v.time.ftc = max s.time.ftc u.launchAt.toNat)
        ∧ (s.grist.frozen = false → (∀ b < 16, ∀ y, y = bindingIn (s.sec_ secPartition) t b → y.kind = 1 ∨ y.kind = 2 →
            s.descFault (s.streamWords (kettleOf t * 256 + y.far % 256)) (y.kind == 2) = false
            ∧ s.streamUsers (kettleOf t * 256 + y.far % 256) = 1) → Answers (.launch t) s fun v =>
          (v.tun t).phase = .running ∧ (v.tun t).next = some {} ∧ (v.tun t).base = 0 ∧ (v.tun t).cycle = 0
          ∧ (v.tun t).launchFtc = u.launchAt.toNat ∧ (v.tun t).period = s.time.period ∧ (v.tun t).queues = u.queues
          ∧ (∀ b < 16, ∀ y z, y = bindingIn (s.sec_ secPartition) t b → z = v.stream (kettleOf t * 256 + y.far % 256) →
            y.kind = 1 ∨ y.kind = 2 → z.active = true ∧ z.tun = t ∧ z.queue = 48 + b ∧ z.write = (y.kind == 2)
              ∧ z.words = s.streamWords (kettleOf t * 256 + y.far % 256) ∧ z.base = y.param ∧ z.tileAt = y.param
              ∧ z.store = [] ∧ z.moved = 0)
          ∧ v.time.ftc = max s.time.ftc u.launchAt.toNat ∧ v.hbm = s.hbm))
    ∧ (∀ (q : Fin 64) b, 48 ≤ q.val → s.tunActs t = true → b = s.binding t q → b.flagEn = false →
        (∀ e rest, b.kind = 1 → (u.queue q).far = (e, .good) :: rest → (u.queue q).near.length < 32 →
          (s.stream (kettleOf t * 256 + b.far % 256)).store = [] → b.result = false →
          Answers (.portQueueTransfer t q) s fun v => ((v.tun t).queue q).near = (u.queue q).near ++ [e]
            ∧ ((v.tun t).queue q).far = rest ∧ (∀ k, k ≠ q.val → (v.tun t).queue k = u.queue k) ∧ v.hbm = s.hbm)
        ∧ (∀ e rest, b.kind = 4 → b.result = false → (u.queue q).near = e :: rest →
          (Tab.get [] s.crossings (t.val * 16 + (q.val - 48))).length < 16 →
          (Tab.get [] s.crossings (t.val * 16 + (q.val - 48))).length
            + ((s.tun (b.far % 65536)).queue (bitsOf b.far 23 16)).near.length < 32 →
          Answers (.portQueueTransfer t q) s fun v => ((v.tun t).queue q).near = rest
            ∧ Tab.get [] v.crossings (t.val * 16 + (q.val - 48)) = Tab.get [] s.crossings (t.val * 16 + (q.val - 48))
              ++ [⟨e, (u.queue q).at_.headD s.clk.tun, .good⟩]
            ∧ v.hbm = s.hbm))
    ∧ (∀ (x : Fin 3072) ring c rest f q o, Tab.get [] s.crossings x.val = c :: rest → s.crossingTo x = (f, q) →
        s.tunActs f = true → (s.binding f q).flagEn = false → c.taint = .good →
        o = s.reach (s.cyclesAfter f c.at_ (if s.overRing x then 4 else 12)) →
        (s.overRing x = false ∨ ring ≠ .failed → Answers (.crossingDeliver ⟨x, ring⟩) s fun v =>
          ((v.tun f).queue q).near = ((s.tun f).queue q).near ++ [c.entry] ∧ Tab.get [] v.crossings x.val = rest
          ∧ (∀ k, k ≠ f → v.tun k = s.tun k) ∧ v.hbm = s.hbm ∧ v.time.ftc = o.time.ftc
          ∧ (s.overRing x = true → ring = .replayed →
            v.fault.raised = s.fault.raised ++ [o.faultRec 1783 0])
          ∧ (s.overRing x = false ∨ ring = .good → v.fault = s.fault))
        ∧ (s.overRing x = true → ring = .failed → Answers (.crossingDeliver ⟨x, ring⟩) s fun v =>
          (v.tun f).queue q = (s.tun f).queue q ∧ Tab.get [] v.crossings x.val = rest ∧ v.hbm = s.hbm
          ∧ ((s.tun f).phase = .running → (v.tun f).phase = .haltedFault)
          ∧ o.faultRec 1784 0 ∈ v.fault.raised
          ∧ o.faultRec (srcTun f 5) (256 + q) ∈ v.fault.raised))

/-- Raises, waits, walks, flag cycles and the stall limit (R65, R66, R67, R68, R69). -/
def Obligations.FlagsAndWaits : Prop :=
  ∀ s : State, s.alive = true →
    (∀ r rest, s.raises = r :: rest →
      (s.tunActs r.tun = false → exec .flagRaiseLand s = .next { s with raises := rest })
      ∧ (s.tunActs r.tun = true → (s.tun r.tun).flag r.flag + r.n ≤ 65535 → Answers .flagRaiseLand s fun v =>
          v.raises = rest
          ∧ v.tun r.tun = { (s.tun r.tun).setFlag r.flag ((s.tun r.tun).flag r.flag + r.n) with metAt := (v.tun r.tun).metAt }
          ∧ (s.waitOf (.tun r.tun) = some (r.tun, r.flag, (s.tun r.tun).waitCount) → (v.tun r.tun).metAt =
            if (s.tun r.tun).waitCount ≤ (s.tun r.tun).flag r.flag + r.n
            then some ((s.tun r.tun).metAt.getD (s.cycleNow r.tun)) else none)
          ∧ (∀ k, k ≠ r.tun → v.tun k = s.tun k) ∧ v.fault = s.fault ∧ v.hbm = s.hbm)
      ∧ (s.tunActs r.tun = true → 65535 < (s.tun r.tun).flag r.flag + r.n → (s.tun r.tun).excValid = false →
          (s.tun r.tun).phase = .running → Answers .flagRaiseLand s fun v => (v.tun r.tun).flag r.flag = 65535
          ∧ (v.tun r.tun).phase = .haltedFault ∧ (v.tun r.tun).excKind = 5 ∧ (v.tun r.tun).excPc = 0xFFFF
          ∧ s.faultRec (srcTun r.tun 1) ((v.tun r.tun).excReg) ∈ v.fault.raised))
    ∧ (∀ t n f, s.waitOf (.tun t) = some (t, f, n) → n ≤ (s.tun t).flag f → Answers (.flagWaitResume (.tun t)) s fun v =>
        (v.tun t).phase = .running ∧ (v.tun t).blocked = false ∧ (v.tun t).flag f = (s.tun t).flag f - n
        ∧ (v.tun t).base = max (s.tun t).issued ((s.tun t).metAt.getD (s.cycleNow t)) ∧ (v.tun t).next = (s.tun t).next
        ∧ (∀ k, k ≠ t → v.tun k = s.tun k) ∧ v.hbm = s.hbm)
    ∧ (∀ q t n f, s.waitOf (.queue q) = some (t, f, n) → n ≤ (s.tun t).flag f → (s.sq q).stopping = none →
        exec (.flagWaitResume (.queue q)) s =
          .next ((s.takeFlag t f n).waitEnds q 0))
    ∧ (∀ a w e, s.openWalk a = some w → w.path.getLast? = some e →
        (s.ownerAgent e.ftun e.flag = none → exec (.flagWalkHop a) s = .next (s.setWalk w none))
        ∧ (s.ownerAgent e.ftun e.flag = some w.origin → 2 ≤ w.path.length →
          exec (.flagWalkHop a) s = .next (s.setWalk w (some { w with closed := some s.now })))
        ∧ (∀ b t f n, s.ownerAgent e.ftun e.flag = some b → b ≠ w.origin → s.waitOf b = some (t, f, n) → w.path.length < 16 →
          exec (.flagWalkHop a) s =
            .next (s.setWalk w (some { w with path := w.path ++ [⟨b, t, f⟩], counts := w.counts ++ [n] })))
        ∧ (∀ b, s.ownerAgent e.ftun e.flag = some b → b ≠ w.origin → s.waitOf b = none →
          exec (.flagWalkHop a) s = .next (s.setWalk w none)))
    ∧ (∀ a w c h ts, s.walks = [w] → w.origin = a → w.closed = some c → w.tuns = h :: ts →
        (s.stillCycle w = true → Answers (.flagCycleRecheck a) s fun v =>
          (∀ k ∈ w.tuns, (v.tun k).phase = .haltedFault ∧ (v.tun k).fcyc = w.path ∧ (v.tun k).flags = (s.tun k).flags)
          ∧ v.walks = [] ∧ v.now = max s.now (c + 4000)
          ∧ v.faultRec (srcTun h 1) (2 ^ 31 + w.path.length) ∈ v.fault.raised)
        ∧ (s.stillCycle w = false → Answers (.flagCycleRecheck a) s fun v =>
          v.walks = [] ∧ v.tuns = s.tuns ∧ v.sqs = s.sqs ∧ v.fault = s.fault))
    ∧ (∀ a t f n, s.waitOf a = some (t, f, n) → n ≤ (s.tun t).flag f → exec (.flagWaitTimeout a) s = .next s)
    ∧ (∀ t f n, s.waitOf (.tun t) = some (t, f, n) → (s.tun t).flag f < n → Answers (.flagWaitTimeout (.tun t)) s fun v =>
        (v.tun t).phase = .haltedFault ∧ (v.tun t).flags = (s.tun t).flags
        ∧ v.now = max s.now ((s.tun t).waitSince + s.stallTicks + 1)
        ∧ v.faultRec (srcTun t 1) ((s.tun t).flagWaitReg) ∈ v.fault.raised)
    ∧ (∀ q t f n, s.waitOf (.queue q) = some (t, f, n) → (s.tun t).flag f < n → Answers (.flagWaitTimeout (.queue q)) s fun v =>
        (v.sq q).phase = .running ∧ (v.sq q).ops = (s.sq q).ops.map (fun o =>
          if o.op == 7 && o.started && o.status.isNone then SqOp.finish 8 0 o else o)
        ∧ v.now = max s.now ((s.sq q).waitSince + s.stallTicks + 1) ∧ v.tuns = s.tuns ∧ v.fault = s.fault)

/-- The GRIST commands (R33, R34, R35, R37, R40, R46, R140). -/
def Obligations.GristCommands : Prop :=
  ∀ (s : State) (p : HostPort),
    (s.mayWrite p 0x10000 = true → s.isFatal = false →
      (∀ c ∈ [(Instr.gristStage p, 1, [GristPhase.empty, .fail, .pitched, .aborted]), (.gristCheck p, 2, [.staged]),
          (.gristArm p, 3, [.pass]), (.gristDisarm p, 4, [.armed, .voted]),
          (.gristClear p, 5, [.staged, .pass, .fail, .pitched, .aborted]), (.resolveKeep p, 6, [.uncertain]),
          (.resolveApply p, 7, [.uncertain])],
        s.grist.phase ∉ c.2.2 →
          exec c.1 s = .next { s with grist := { s.grist with refusedCmd := c.2.1, refuseWhy := 1 } })
      ∧ (s.grist.phase ∈ [.empty, .fail, .pitched, .aborted] →
        (s.grist.src.toNat % 256 = 0 → 256 ≤ s.grist.len.toNat → s.grist.len.toNat ≤ 2 ^ 26 → s.grist.len.toNat % 8 = 0 →
          s.grist.src.toNat + s.grist.len.toNat ≤ hbmTop → Answers (.gristStage p) s fun t =>
            t.grist.phase = .loading ∧ t.grist.image = s.hbmBlob s.grist.src.toNat s.grist.len.toNat
            ∧ t.grist.staged = [] ∧ t.grist.rwp = s.grist.rwp ∧ t.grist.sections = s.grist.sections ∧ t.hbm = s.hbm
            ∧ t.tuns = s.tuns)
        ∧ (s.grist.src.toNat % 256 ≠ 0 → exec (.gristStage p) s =
            .next { s with grist := { s.grist with refusedCmd := 1, refuseWhy := 3 } }))
      ∧ (s.grist.phase = .staged → Answers (.gristCheck p) s fun t => t.grist = { s.grist with phase := .checking }
          ∧ t.hbm = s.hbm ∧ t.tuns = s.tuns)
      ∧ (s.grist.phase = .pass → s.proving = false → s.grist.quiet = true ∨ Tab.get (word (s.hbmMode.toNat % 2))
            s.grist.rwp 0x100004 = word (s.hbmMode.toNat % 2) →
        (s.grist.passAt + 400000 ≤ s.grist.pitchAt.toNat → s.time.ftc + 80000 ≤ s.grist.pitchAt.toNat →
          Answers (.gristArm p) s fun t => t.grist = { s.grist with
            phase := .armed, frozen := s.grist.quiet || s.releaseDue.grist.frozen,
            release := if s.grist.quiet then none else s.releaseDue.grist.release,
            voteSent := !s.grist.quiet, held := none }
            ∧ t.hbm = s.hbm ∧ t.tuns = s.tuns))
      ∧ (s.grist.phase = .armed ∨ s.grist.phase = .voted →
        (s.grist.voteSent = true → exec (.gristDisarm p) s =
          .next { s with grist := { s.grist with refusedCmd := 4, refuseWhy := 5 } })
        ∧ (s.grist.phase = .armed → s.grist.voteSent = false → Answers (.gristDisarm p) s fun t =>
          t.grist = { s.grist with 
            phase := .pass, frozen := !s.grist.quiet && s.grist.frozen,
            release := if s.grist.quiet then none else s.grist.release, rwp := s.grist.rwp.drop 0x100004, passAt := s.time.ftc }
          ∧ t.hbm = s.hbm ∧ t.tuns = s.tuns)
        ∧ (s.grist.phase = .voted → s.grist.voteSent = false → exec (.gristDisarm p) s =
          .next { s with grist := { s.grist with refusedCmd := 4, refuseWhy := 1 } }))
      ∧ (s.grist.phase ∈ [.staged, .pass, .fail, .pitched, .aborted] → Answers (.gristClear p) s fun t =>
          t.grist.phase = .empty ∧ t.grist.staged = [] ∧ t.grist.rwp = [] ∧ t.grist.sections = s.grist.sections
          ∧ t.grist.seq = s.grist.seq ∧ t.hbm = s.hbm ∧ t.tuns = s.tuns)
      ∧ (s.grist.phase = .uncertain → Answers (.resolveKeep p) s (fun t =>
          t.grist.phase = .aborted ∧ t.grist.cause = 7 ∧ t.grist.staged = [] ∧ t.grist.sections = s.grist.sections
          ∧ (∀ n < 14, (t.link n).uncertain = false) ∧ t.hbm = s.hbm ∧ t.tuns = s.tuns)
        ∧ Answers (.resolveApply p) s fun t => t.grist.phase = .pitched ∧ t.grist.active = true
          ∧ t.grist.sections = s.afterPitch ∧ t.grist.seq = s.grist.stagedSeq ∧ t.grist.staged = []
          ∧ t.grist.pitches = (s.grist.pitches + 1) % 2 ^ 32 ∧ t.hbm = s.hbm))
    ∧ (s.alive = true → s.grist.phase = .loading → s.hbmReady s.grist.src.toNat s.grist.image.len = true → ∀ (e : Ecc) bad,
          bad = (s.grist.imageBad || (firstBad e s.grist.src.toNat s.grist.image.len).isSome) →
        (∀ c d, s.stageChecks s.grist.image s.grist.image.len bad = .inl (c, d) →
          Answers (.stageComplete e) s fun t => t.grist = { s.grist with phase := .fail, code := c, detail := d }
            ∧ t.hbm = s.hbm)
        ∧ (∀ y, s.stageChecks s.grist.image s.grist.image.len bad = .inr y →
          Answers (.stageComplete e) s fun t => t.grist.phase = .staged ∧ t.grist.code = 0
            ∧ t.grist.staged = y.map (fun q => (q.ty, q.sec)) ∧ t.grist.sections = s.grist.sections
            ∧ t.grist.stagedSeq = BitVec.ofNat 64 (s.grist.image.nat 0x10 8) ∧ t.hbm = s.hbm))
    ∧ (s.alive = true → s.grist.phase = .checking → Answers .checkComplete s fun t =>
        t.grist = { s.grist with
          code := s.checkResult.1, detail := s.checkResult.2,
          passAt := if s.checkResult.1 = 0 then s.time.ftc else s.grist.passAt,
          phase := if s.checkResult.1 = 0 then .pass else .fail } ∧ t.hbm = s.hbm ∧ t.tuns = s.tuns)
    ∧ (∀ v : Word, s.mayWrite p 0x10018 = true →
        (s.grist.phase ≠ .pass → ∀ h, exec (.gristPitchAtWrite p h v) s = .next s)
        ∧ (s.grist.phase = .pass → exec (.gristPitchAtWrite p false v) s =
          .next (s.modPort p fun x => { x with hold := Tab.set none x.hold 0x10018 (some v) }))
        ∧ (∀ l, s.grist.phase = .pass → Tab.get none (s.port p).hold 0x10018 = some l → Answers (.gristPitchAtWrite p true v) s fun t =>
            t.grist = { s.grist with pitchAt := BitVec.ofNat 64 (v.toNat * 2 ^ 32 + l.toNat) }
            ∧ (t.port p).hold = (s.port p).hold.drop 0x10018 ∧ t.hbm = s.hbm))
    ∧ (∀ v : Word, s.mayWrite p 0x100004 = true → bitOf v.toNat 30 = false →
        (s.grist.phase ∈ [.empty, .staged, .pass, .fail, .pitched, .aborted] → exec (.hbmMapWrite p v) s =
          .next { s with grist := { s.grist with rwp := Tab.put s.grist.rwp 0x100004 (word (v.toNat % 2)) } })
        ∧ (s.grist.phase ∈ [.loading, .checking, .armed, .voted, .uncertain] → exec (.hbmMapWrite p v) s =
          .next { s with hbmMode := s.hbmMode ||| word (2 ^ 30) }))

/-- The vote and the pitch (R41, R42, R43, R44, R45, R46, R47, R48). -/
def Obligations.GristVoteAndPitch : Prop :=
  ∀ s : State, s.alive = true →
    (s.grist.phase = .armed → s.grist.frozen = true → s.grist.voteSent = false → s.quiescent = true →
      Answers .quiescentVote s fun t => t.grist = { s.grist with voteSent := true } ∧ t.hbm = s.hbm ∧ t.tuns = s.tuns)
    ∧ (∀ k x, s.inboxFor k [0x20] = some x → byteAt x.payload 0 = 0 → x.verdict = 0 → s.grist.decided = false →
        s.grist.parts = [] →
        (s.isRoot = false ∨ byteAt x.payload 1 = 1 → Answers (.voteContribution k) s fun t =>
          t.grist = { s.grist with
            partsP := natAt x.payload 8 8, decided := false,
            parts := [⟨x.hdr.src.toNat, byteAt x.payload 1 == 1, BitVec.ofNat 64 (natAt x.payload 0x10 8)⟩] } ∧ t.hbm = s.hbm ∧ t.tuns = s.tuns)
        ∧ (s.isRoot = true → x.hdr.src.toNat ∈ s.voteGroup → byteAt x.payload 1 ≠ 1 →
          Answers (.voteContribution k) s fun t => t.grist.decided = true ∧ t.grist.phase = s.grist.phase
            ∧ t.hbm = s.hbm ∧ t.tuns = s.tuns))
    ∧ (∀ k x, s.inboxFor k [0x20] = some x → 2 ≤ byteAt x.payload 0 → exec (.voteContribution k) s = .next (s.taken x))
    ∧ (∀ r, s.voteReady = true → (s.lauter 0).run = some r → r.vote = true →
        s.time.ftc + 40000 ≤ s.grist.partsP → Answers .voteReductionComplete s fun t =>
          t.grist = { s.grist with decided := true } ∧ (t.lauter 0).runs = ((s.lauter 0).runs + 1) % 2 ^ 32
          ∧ (t.lauter 0).run = none
          ∧ t.hbm = s.hbm ∧ t.tuns = s.tuns
          ∧ t = s.voteDecide (voteFalse s.voteParts).isNone s.time.ftc ((voteFalse s.voteParts).getD 0))
    ∧ (s.isRoot = true → s.grist.phase = .armed → s.grist.parts = [] → 40000 ≤ s.grist.pitchAt.toNat →
        Answers .voteDeadline s fun t => t.grist.decided = true ∧ t.grist.parts = []
          ∧ t.grist.partsP = s.grist.pitchAt.toNat ∧ t.grist.phase = .armed
          ∧ t.time.ftc = max s.time.ftc (s.grist.pitchAt.toNat - 40000) ∧ t.hbm = s.hbm)
    ∧ (∀ k x, s.inboxFor k [0x21] = some x → byteAt x.payload 0 = 0 → x.verdict = 0 → s.grist.phase = .armed →
        natAt x.payload 8 8 = s.grist.pitchAt.toNat → Answers (.voteResult k) s fun t =>
          t.grist.phase = .voted ∧ t.grist.voteSent = s.grist.voteSent
          ∧ t.grist.held = some (byteAt x.payload 1 == 1, natAt x.payload 0x10 8, byteAt x.payload 2)
          ∧ t.grist.stamp = BitVec.ofNat 64 (natAt x.payload 0x10 8) ∧ t.grist.staged = s.grist.staged
          ∧ t.hbm = s.hbm ∧ t.tuns = s.tuns)
    ∧ (s.grist.phase = .armed ∨ s.grist.phase = .voted →
        (∀ c e, s.grist.held = some (true, c, e) → c + 40000 ≤ s.grist.pitchAt.toNat → Answers .pitchCount s fun t =>
          t.grist.phase = .pitched ∧ t.grist.active = true ∧ t.grist.sections = s.afterPitch
          ∧ t.grist.seq = s.grist.stagedSeq ∧ t.grist.staged = [] ∧ t.grist.pitches = (s.grist.pitches + 1) % 2 ^ 32
          ∧ t.grist.release = (if (s.reach s.grist.pitchAt.toNat).releaseDue.grist.frozen then some (s.grist.pitchAt.toNat + 4000) else none)
          ∧ t.time.ftc = max s.time.ftc s.grist.pitchAt.toNat ∧ t.hbm = s.hbm)
        ∧ (∀ c e, s.grist.held = some (true, c, e) → s.grist.pitchAt.toNat < c + 40000 → Answers .pitchCount s fun t =>
          t.grist.phase = .aborted ∧ t.grist.cause = 2 ∧ t.grist.sections = s.grist.sections ∧ t.grist.staged = []
          ∧ t.grist.frozen = false)
        ∧ (∀ c e, s.grist.held = some (false, c, e) → Answers .pitchCount s fun t =>
          t.grist.phase = .aborted ∧ t.grist.cause = e ∧ t.grist.sections = s.grist.sections ∧ t.grist.staged = []
          ∧ t.grist.frozen = false ∧ t.hbm = s.hbm ∧ t.tuns = s.tuns)
        ∧ (s.grist.held = none → Answers .pitchCount s fun t =>
          t.grist = { (s.reach s.grist.pitchAt.toNat).releaseDue.grist with phase := .uncertain } ∧ (∀ n < 14, (t.link n).uncertain = true)
          ∧ t.fault.raised = s.fault.raised ++ [t.faultRec 1760 0]
          ∧ t.time.ftc = max s.time.ftc s.grist.pitchAt.toNat ∧ t.hbm = s.hbm ∧ t.tuns = s.tuns))
    ∧ (∀ r, s.grist.release = some r → Answers .freezeRelease s fun t =>
        t.grist = { s.grist with frozen := false, release := none } ∧ t.time.ftc = max s.time.ftc r
        ∧ t.hbm = s.hbm ∧ t.tuns = s.tuns)

/-- BAR4, the HBM services and the background work (R144, R153, R154, R165, R326, R327, R328). -/
def Obligations.HbmServices : Prop :=
  ∀ s : State,
    (∀ p off len a e, s.portServes p = true → s.power.warm = false → a = (s.port p).winBase.toNat + off →
      ((s.port p).bar4Size < off + len → exec (.bar4Read p off len e) s = .next s)
      ∧ (off + len ≤ (s.port p).bar4Size →
        (a + len ≤ hbmTop → s.windowAwake a len = true → s.hbmReady a len = true →
          Answers (.bar4Read p off len e) s fun t => t.hbm = s.hbm ∧ t.grist = s.grist ∧ t.tuns = s.tuns ∧ t.out =
            .bar4 p off (s.hbmBytes a len) (s.anyPoison a len || (firstBad e a len).isSome) :: s.out)
        ∧ (hbmTop < a + len → exec (.bar4Read p off len e) s = .next (((s.badAccess p 3).aerAdvisory p 20).emit (.unsupported p off)))
        ∧ (a + len ≤ hbmTop → s.windowAwake a len = false →
          exec (.bar4Read p off len e) s = .next (((s.badAccess p 2).aerAdvisory p 20).emit (.unsupported p off)))))
    ∧ (∀ p off bytes e w, s.on = true → (s.port p).linkUp = true → (s.port p).inReset = false →
      (s.port p).pci.d3hot = false → s.power.warm = false → off + bytes.length ≤ (s.port p).bar4Size →
      w = ⟨(s.port p).winBase.toNat + off, bytes, e⟩ →
      ((s.port p).posted = [] → s.windowWaits w = false →
        (w.addr + bytes.length ≤ hbmTop → s.windowAwake w.addr bytes.length = true →
          Answers (.bar4Write p off bytes e) s fun t => t.hbm = (s.hbmPut w.addr bytes).hbm ∧ t.out = s.out
            ∧ t.grist = s.grist ∧ t.host = s.host)
        ∧ (hbmTop < w.addr + bytes.length → exec (.bar4Write p off bytes e) s = .next (s.badAccess p 3))
        ∧ (w.addr + bytes.length ≤ hbmTop → s.windowAwake w.addr bytes.length = false →
          exec (.bar4Write p off bytes e) s = .next (s.badAccess p 2)))
      ∧ (((s.port p).posted = [] ∧ s.windowWaits w = true)
          ∨ (∃ y ys, (s.port p).posted = y :: ys ∧ s.windowWaits y = true) → exec (.bar4Write p off bytes e) s =
        .next (s.modPort p fun x => { x with posted := x.posted ++ [w] })))
    ∧ (∀ (k : Taking) x, s.inboxFor k.frame [0x04] = some x → s.serviceActs x.hdr = true → s.accessTurn x = true →
        s.hbmReady x.hdr.opx.toNat x.payload.length = true → Answers (.hbmWrite k) s fun t =>
          t.hbm = (s.hbmPut x.hdr.opx.toNat x.payload).hbm
          ∧ (x.verdict ≠ 0 → ∀ l ∈ linesOf x.hdr.opx.toNat x.payload.length, l < hbmTop → t.poisonedAt l = true)
          ∧ (x.verdict = 0 → (∀ y ∈ k.ecc, eccBad y.2 = false) → ∀ l ∈ linesOf x.hdr.opx.toNat x.payload.length, x.hdr.opx.toNat ≤ l →
              l + 64 ≤ x.hdr.opx.toNat + x.payload.length → t.poisonedAt l = false)
          ∧ (∀ y ∈ t.core.inbox, ¬ (y.id = x.id ∧ y.copy = x.copy)))
    ∧ (∀ k x a len e, s.inboxFor k [0x02] = some x → s.serviceActs x.hdr = true → s.accessTurn x = true → x.verdict = 0 →
        a = x.hdr.opx.toNat → len = natAt x.payload 0 4 → len % 64 = 0 → 0 < len → len ≤ 4096 → a + len ≤ hbmTop →
        s.hbmReady a len = true →
        Answers (.readReq k e) s (fun t => t.hbm = s.hbm ∧ ∀ y ∈ t.core.inbox, ¬ (y.id = x.id ∧ y.copy = x.copy))
        ∧ (e = [] → s.anyPoison a len = false → exec (.readReq k e) s = .next ((s.taken x).source
          { port := s.hbmPort x.hdr.epIdx a, payload := s.hbmBytes a len,
            hdr := { s.mkHeader 1 4 0x03 x.hdr.src.toNat (endpointOf 4 (x.hdr.stream.toNat % 4096)) with
                     stream := x.hdr.stream, epoch := x.hdr.epoch, opx := BitVec.ofNat 64 (natAt x.payload 4 2) } })))
    ∧ (∀ (n : Fin 16) cellar, s.alive = true → (s.ctl n).phase = .ready → s.asleep (n.val / 4) = false →
        s.repro = false ∨ cellar = true →
        (∀ e, Answers (.spargeStep (.stack n) ⟨e, cellar⟩) s fun t => t.hbm = s.hbm ∧ (e = [] → t.fault = s.fault)
          ∧ t.now = max s.now ((s.ctl n).passFrom + (s.ctl n).progress * s.passTicks n / stackLines)
          ∧ ((s.ctl n).progress + 1 < stackLines → (t.ctl n).progress = (s.ctl n).progress + 1
              ∧ (t.ctl n).passes = (s.ctl n).passes)
          ∧ (stackLines ≤ (s.ctl n).progress + 1 → (t.ctl n).progress = 0
              ∧ (t.ctl n).passes = satInc 16 (s.ctl n).passes
              ∧ (t.ctl n).passFrom = max t.now ((s.ctl n).passFrom + s.passTicks n)))
        ∧ Answers (.hbmCalibration n cellar) s fun t =>
          (t.ctl n).calibrations = (s.ctl n).calibrations + 1 ∧ (t.ctl n).lastCal = t.now
          ∧ t.now = max s.now ((s.ctl n).lastCal + s.calMs * 4000000) ∧ t.hbm = s.hbm)
    ∧ (∀ (n : Fin 16) e, s.repro = true → exec (.spargeStep (.stack n) ⟨e, false⟩) s = .next s
        ∧ exec (.hbmCalibration n false) s = .next s)
    ∧ (∀ (k : Fin 192) e cellar, s.tunActs k = true → (s.tun k).spargeAt < tunEntries →
        Answers (.spargeStep (.tunMem k) ⟨e, cellar⟩) s fun t =>
          (t.tun k).spargeAt = ((s.tun k).spargeAt + 1) % tunEntries ∧ (t.tun k).mem = (s.tun k).mem
          ∧ (t.tun k).phase = (s.tun k).phase ∧ (∀ i, i ≠ k.val → t.tun i = s.tun i) ∧ t.hbm = s.hbm
          ∧ (e = [] → t.fault = s.fault))

/-- Data-mover streams and Maltings bindings (R141, R147, R148, R150, R151, R178, R191, R424). -/
def Obligations.DataMoverStreams : Prop :=
  ∀ (s : State) (k : Fin 1024) (st : Stream) (q : Queue), st = s.stream k → q = (s.tun st.tun).queue st.queue →
    s.moverActs k = true →
    (∀ n a len, st.nextRead (s.readRoom k) = some (n, a, len) →
      (st.remote = none → beyondHbm a len = false → exec (.streamReadIssue k) s =
        .next (s.modStream k fun st => st.sentRead n a.toNat len none))
      ∧ (∀ node i tag rest v, st.remote = some node → beyondHbm a len = false → st.reserved = (i, tag) :: rest →
        s.resv tag = some v → Answers (.streamReadIssue k) s fun t =>
          t.stream k = st.sentRead n a.toNat v.len (some tag) ∧ t.hbm = s.hbm ∧ t.tuns = s.tuns)
      ∧ (beyondHbm a len = true → (s.tun st.tun).phase = .running → Answers (.streamReadIssue k) s fun t =>
          (t.stream k).active = false ∧ (t.tun st.tun).phase = .haltedFault ∧ t.hbm = s.hbm
          ∧ s.faultRec (srcTun st.tun 4) (3 * 256 + k.val % 256) ∈ t.fault.raised))
    ∧ (∀ r e ring, st.reads.find? (fun r => r.tag.isNone) = some r → r.cut || s.hbmReady r.addr r.bytes = true →
      (st.active = false ∨ r.epoch ≠ st.epoch → Answers (.streamReadReturn k ⟨e, ring⟩) s fun t =>
        (t.stream k).reads = st.reads.erase r ∧ (t.stream k).store = st.store ∧ t.tuns = s.tuns ∧ t.hbm = s.hbm)
      ∧ (∀ mark, st.active = true → r.epoch = st.epoch → st.form = 0 → st.early = [] → st.part = [] →
        st.partBad = .good → r.nth = st.arrived →
        mark = (if r.cut || (s.moverRing k r.addr && ring == .failed) then .bad else s.taintOf r.addr r.bytes e) →
        kettleOf st.tun * 256 + (s.binding st.tun st.queue).far % 256 = k.val →
        Answers (.streamReadReturn k ⟨e, ring⟩) s fun t =>
          ((t.tun st.tun).queue st.queue).far ++ (t.stream k).store
            = q.far ++ st.store ++ markEntries mark (entriesOf (r.bytes / 64) (s.hbmBytes r.addr r.bytes))
          ∧ (t.stream k).arrived = st.arrived + r.bytes / 64
          ∧ ((t.tun st.tun).queue st.queue).near = q.near ∧ t.hbm = s.hbm))
    ∧ (∀ node n a len tag, st.remote = some node → st.nextRead (s.readRoom k) = some (n, a, len) → st.reserved = [] →
      beyondHbm a len = false → (s.granaryTurn (15 + 2 * (k / 256))).freeTag = some tag →
      (s.granaryTurn (15 + 2 * (k / 256))).admitTest ownReply 0 (cellsOf len) = .yes →
      Answers (.replyReserve (.stream k)) s fun t => t.stream k = { st with reserved := [(n, tag)] }
        ∧ (t.resv tag).map (fun r => (r.who, r.node, r.addr, r.len)) = some (.stream k, node, a.toNat, len) ∧ t.hbm = s.hbm)
    ∧ (∀ i x tag r, s.inboxFor i [0x03] = some x → x.hdr.epIdx = k.val → tag = x.hdr.opx.toNat % 65536 →
      st.reads.find? (fun r => r.tag == some tag) = some r → st.active = true → r.epoch = st.epoch →
      x.hdr.epoch.toNat = st.epoch % 256 → st.form = 0 → st.early = [] → st.part = [] → st.partBad = .good →
      r.nth = st.arrived →
      kettleOf st.tun * 256 + (s.binding st.tun st.queue).far % 256 = k.val → Answers (.readReply i) s fun t =>
        ((t.tun st.tun).queue st.queue).far ++ (t.stream k).store
          = q.far ++ st.store ++ markEntries (if x.verdict = 0 then .good else .bad)
              (entriesOf (r.bytes / 64) (fit r.bytes x.payload))
        ∧ (∀ y ∈ t.core.inbox, ¬ (y.id = x.id ∧ y.copy = x.copy)) ∧ t.hbm = s.hbm)
    ∧ (st.active = true → st.write = true → st.form = 0 → ∀ v rest a e ring, q.near = v :: rest →
      a = st.entryAddr st.moved → beyondHbm a 64 = false → s.hbmReady a.toNat 64 = true →
      Answers (.streamWritePerform k ⟨e, ring⟩) s fun t =>
        t.hbm = (s.hbmPut a.toNat (entryBytes v)).hbm ∧ ((t.tun st.tun).queue st.queue).near = rest
        ∧ t.out = s.out ∧ t.grist = s.grist
        ∧ (s.moverRing k a.toNat = true → ring = .failed → t.poisonedAt (a.toNat / 64 * 64) = true))
    ∧ (st.active = true → st.write = true → st.form ≠ 0 → 64 ≤ q.far.length → ∀ c bytes e ring,
      c = encodeTile st.form st.widthCode ((q.far.take 64).flatMap fun v => entryBytes v.1) →
      bytes = leBytes 8 c.1 ++ padTo8 c.2 → st.tileAt + bytes.length ≤ hbmTop → s.hbmReady st.tileAt bytes.length = true →
      Answers (.streamWritePerform k ⟨e, ring⟩) s fun t =>
        t.hbm = (s.hbmPut st.tileAt bytes).hbm ∧ ((t.tun st.tun).queue st.queue).near = q.near
        ∧ ((t.tun st.tun).queue st.queue).far = q.far.drop 64 ∧ t.out = s.out ∧ t.grist = s.grist)
    ∧ (∀ (g : Fin 192) (b : Fin 64) y es, s.tunActs g = true → 48 ≤ b.val → y = s.binding g b → y.kind = 6 →
      bitsOf y.far 31 16 / 4096 ≠ 1 → s.bindingBusy g b = false →
      es = ((((s.tun g).queue b).far.map (·.1)) ++ (if s.bindForm g y = 0 then ((s.tun g).queue b).near else [])).take 64 →
      es ≠ [] → (s.bindForm g y ≠ 0 → es.length = 64) →
      Answers (.bindingFrameSend g b) s fun t => (t.tun g).queues = (s.tun g).queues
        ∧ Tab.get 0 (t.tun g).seqOut (b.val - 48) = (Tab.get 0 (s.tun g).seqOut (b.val - 48) + 1) % 2 ^ 32
        ∧ t.hbm = s.hbm ∧ t.fault = s.fault)
    ∧ (∀ i x g b y, s.inboxFor i [0x01] = some x → x.hdr.epKind = 0 → g = x.hdr.epIdx / 16 → b = 48 + x.hdr.epIdx % 16 →
      y = (s.tun g).queue b → s.asleep (kettleOf g) = false → s.bindForm g (s.binding g b) = 0 →
      y.near.length + y.far.length + x.payload.length / 64 ≤ 64 →
      (x.hdr.seq.toNat = Tab.get 0 (s.tun g).seqIn (b - 48) → x.verdict = 0 → x.hdr.cmp = false →
        Answers (.writeStreamReceive i) s fun t =>
          ((t.tun g).queue b).far = y.far ++ (entriesOf (x.payload.length / 64) x.payload).map (fun e => (e, .good))
          ∧ ((t.tun g).queue b).near = y.near
          ∧ Tab.get 0 (t.tun g).seqIn (b - 48) = (x.hdr.seq.toNat + 1) % 2 ^ 32 ∧ t.fault = s.fault ∧ t.hbm = s.hbm)
      ∧ (x.hdr.seq.toNat ≠ Tab.get 0 (s.tun g).seqIn (b - 48) → Answers (.writeStreamReceive i) s fun t =>
          (t.tun g).queue b = y ∧ bitOf t.core.seqErr.toNat 31 = true ∧ t.hbm = s.hbm
          ∧ s.faultRec (srcTun g 5) (4 * 256 + b) ∈ t.fault.raised))
    ∧ (∀ i x g b y tile, s.inboxFor i [0x01] = some x → x.hdr.epKind = 0 → g = x.hdr.epIdx / 16 → b = 48 + x.hdr.epIdx % 16 →
      y = (s.tun g).queue b → s.asleep (kettleOf g) = false → s.bindForm g (s.binding g b) ≠ 0 → y.far = [] →
      x.hdr.seq.toNat = Tab.get 0 (s.tun g).seqIn (b - 48) → x.verdict = 0 → x.hdr.cmp = true →
      decodeTile (s.bindForm g (s.binding g b)) (bitsOf (s.binding g b).param 19 18) x.hdr.opx.toNat x.payload = some tile →
      Answers (.writeStreamReceive i) s fun t =>
        ((t.tun g).queue b).far = (entriesOf 64 tile).map (fun e => (e, .good)) ∧ ((t.tun g).queue b).near = y.near
        ∧ Tab.get 0 (t.tun g).seqIn (b - 48) = (x.hdr.seq.toNat + 1) % 2 ^ 32 ∧ t.fault = s.fault ∧ t.hbm = s.hbm)
    ∧ (∀ i x o p, s.inboxFor i [0x01] = some x → x.hdr.epKind = 2 → x.hdr.seq.toNat = (s.sq x.hdr.epIdx).seqIn →
      (s.sq x.hdr.epIdx).recvOp = some o → (s.sq x.hdr.epIdx).port = some p → Answers (.writeStreamReceive i) s fun t =>
        t.out = s.withWrites p (natAt o.desc 8 8) x.payload true
        ∧ (t.sq x.hdr.epIdx).seqIn = ((s.sq x.hdr.epIdx).seqIn + 1) % 2 ^ 32
        ∧ (∃ z ∈ (t.sq x.hdr.epIdx).ops, z.index = o.index ∧ z.status = some (if x.verdict = 0 then 0 else 3)
            ∧ z.bytes = x.hdr.length.toNat) ∧ t.hbm = s.hbm)

/-- The cask journal and the lookup sampler (R156, R158, R159, R181, R296). -/
def Obligations.JournalAndSampler : Prop :=
  ∀ s : State,
    (∀ (k : Taking) x, s.core.inbox.find? (fun x => x.id == k.frame && x.journalCopy) = some x → s.alive = true →
      (∀ y ∈ s.core.inbox, y.copyBefore x = false) →
      (s.journalOn = false → exec (.journalCopy k) s = .next (s.taken x))
      ∧ (s.journalOn = true → s.ringReady = true → 0 < x.payload.length → x.payload.length < 1048576 →
        (∀ y ∈ s.journal.openE, y.src ≠ x.hdr.src.toNat) → Answers (.journalCopy k) s fun t => ∃ e : CjOpen,
          t.journal.openE = s.journal.openE ++ [e] ∧ e.bytes = x.payload ∧ e.step = s.journal.step
          ∧ e.kind = (if x.hdr.op.toNat = 4 then 1 else 2) ∧ e.src = x.hdr.src.toNat ∧ e.bad = (x.verdict != 0)
          ∧ t.journal.entries = s.journal.entries ∧ t.hbm = s.hbm))
    ∧ (∀ (k : Taking) x i off, s.inboxFor k.frame [0x40] = some x → x.verdict = 0 → i = x.hdr.seq.toNat →
        off = (if i = 0 then s.journal.mirrorAt
          else Tab.get 0 s.journal.mirrorOff (x.hdr.src.toNat * 2 ^ 64 + x.hdr.opx.toNat)) →
        s.isFatal = false → s.regionReady (Config.mirrorBase + off + 4096 * i) 4096 = true →
        s.hbmReady (Config.mirrorBase + off) 64 = true →
        Answers (.journalMirror k) s fun t => t.hbm = (s.hbmPut (Config.mirrorBase + off + 4096 * i) x.payload).hbm
          ∧ t.journal.mirrorAt = (if i = 0 then s.journal.mirrorAt + entrySize (natAt x.payload 0x14 4)
              else s.journal.mirrorAt)
          ∧ t.journal.entries = s.journal.entries)
    ∧ (∀ k x, s.inboxFor k [0x41] = some x → Answers (.journalAck k) s fun t => t.hbm = s.hbm
        ∧ (x.verdict = 0 → t.journal.unacked = s.journal.unacked.erase x.hdr.opx.toNat ∧ ∀ e ∈ t.journal.entries, e.seq = x.hdr.opx.toNat → e.mirrored = true)
        ∧ (x.verdict ≠ 0 → t.journal = s.journal))
    ∧ (∀ p (v l : Word) d, d = BitVec.ofNat 64 (v.toNat * 2 ^ 32 + l.toNat) →
        (s.mayWrite p 0x330010 = true → Tab.get none (s.port p).hold 0x330010 = some l →
          Answers (.mltCjStepWrite p true v) s fun t => t.journal.step = d
            ∧ (d = s.journal.step ∨ s.isFatal = true →
                t.journal = { s.journal with step := d } ∧ t.hbm = s.hbm)
            ∧ (d ≠ s.journal.step → s.isFatal = false → t.journal.openE = []))
        ∧ (s.mayWrite p 0x330018 = true → Tab.get none (s.port p).hold 0x330018 = some l →
          Answers (.mltCjCommitWrite p true v) s fun t => t.hbm = s.hbm ∧ t.journal = { s.journal with
            commit := if d.toNat < s.journal.commit.toNat then s.journal.commit else d }))
    ∧ (∀ r rest, s.alive = true → s.core.samples = r :: rest →
        s.hbmReady (s.core.sampBase.toNat + 64 * s.core.sampWp) 64 = true → Answers .lookupSampleWrite s fun t =>
        t.hbm = (s.hbmPut (s.core.sampBase.toNat + 64 * s.core.sampWp) r).hbm ∧ t.core.samples = rest
        ∧ t.core.sampWp = (s.core.sampWp + 1) % s.core.sampSlots)
    ∧ (∀ p (v : Word), s.mayWrite p 0x321000 = true → Answers (.mltSampCfgWrite p v) s fun t =>
        t.hbm = s.hbm ∧ bitOf t.core.sampCfg.toNat 31 = bitOf v.toNat 31
        ∧ bitsOf t.core.sampCfg.toNat 20 16 = bitsOf v.toNat 20 16
        ∧ t.core.sampCfg.toNat % 65536
            = (if bitOf s.core.sampCfg.toNat 31 then s.core.sampCfg.toNat % 65536 else v.toNat % 65536)
        ∧ (bitOf v.toNat 31 = true → bitOf s.core.sampCfg.toNat 31 = false → t.core.sampWp = 0 ∧ t.core.lookups = 0)
        ∧ (bitOf s.core.sampCfg.toNat 31 = true → t.core.sampWp = s.core.sampWp ∧ t.core.lookups = s.core.lookups))

/-- A frame's way through the Maltings (R167, R168, R169, R171, R172, R175, R176, R184, R185, R188, R194, R195). -/
def Obligations.FramePath : Prop :=
  ∀ s : State, s.alive = true →
    (∀ (p : Fin 32) f rest, 14 ≤ p.val → Tab.get [] s.core.inject p.val = f :: rest →
      s.stagingFree p f.hdr.vc.toNat = true →
      Answers (.frameIngress p) s fun t => ∃ g : Frame,
        t.core.frames = s.core.frames ++ [g] ∧ g.id = s.core.nextId ∧ g.port = p.val ∧ g.hdr = f.hdr
        ∧ g.payload = f.payload ∧ g.inTail = f.tail ∧ g.looked = false ∧ g.admitted = false ∧ g.at_ = s.coreNow
        ∧ g.bad = s.ingressCause p f.hdr ∧ Tab.get [] t.core.inject p.val = rest ∧ t.hbm = s.hbm)
    ∧ (∀ (p : Fin 32) i f fs, 14 ≤ p.val → fs = Tab.get [] s.core.inject p.val →
      fs.findIdx? (fun f => s.stagingFree p f.hdr.vc.toNat) = some i → fs[i]? = some f →
      Answers (.frameIngress p) s fun t => Tab.get [] t.core.inject p.val = fs.eraseIdx i ∧ t.hbm = s.hbm
        ∧ ∃ g : Frame, t.core.frames = s.core.frames ++ [g] ∧ g.port = p.val ∧ g.hdr = f.hdr ∧ g.payload = f.payload)
    ∧ (∀ (p : Fin 32), p.val < 14 → s.rxReady p ≠ [] → Answers (.frameIngress p) s fun t => ∃ e ∈ s.rxReady p, ∃ g : Frame,
      (∀ y ∈ s.rxReady p, e.2.order ≤ y.2.order) ∧ t.core.frames = s.core.frames ++ [g] ∧ g.port = p.val ∧ g.link = true
        ∧ g.bad = s.linkCause p (headerOf (e.2.bytes.take 32)) ∧ t.hbm = s.hbm)
    ∧ (∀ (p : Fin 32) v r h, p.val < 14 → s.rxReady p = [(v, r)] → h = headerOf (r.bytes.take 32) →
      Answers (.frameIngress p) s fun t => ∃ g : Frame,
        t.core.frames = s.core.frames ++ [g] ∧ g.id = s.core.nextId ∧ g.port = p.val ∧ g.link = true
        ∧ g.bad = s.linkCause p h ∧ g.at_ = s.coreNow
        ∧ g.hdr = (if g.bad = none ∧ (s.link p).version = 2 then fromV2 h else h) ∧ t.hbm = s.hbm)
    ∧ (∀ k f, s.frame? k = some f →
      (f.looked = false → (∀ x ∈ s.core.frames, x.before f = true → x.looked = true) →
        (∀ c, f.bad = some c → f.binding = none → Answers (.frameLookup k) s fun t =>
          t.core.frames = s.core.frames.filter (fun x => x.id != k) ∧ t.hbm = s.hbm
          ∧ t.time.ftc = max s.time.ftc (s.coreFtc (f.at_ + 4))
          ∧ t.fault.raised = s.fault.raised
              ++ [t.faultRec (srcPort f.port 0) t.core.hdrErr.toNat])
        ∧ (f.bad = none → f.owner < 256 → f.copies = [] →
          (s.isLocal f.hdr = true → f.hdr.epKind ≠ 15 → s.journaled f.hdr = false → Answers (.frameLookup k) s fun t =>
            ∃ g c, t.frame? k = some g ∧ g.looked = true ∧ g.refs = 1 ∧ g.copies = [c] ∧ c.isLocal = true
              ∧ c.egress = s.localPort f.hdr ∧ c.hdr = f.hdr ∧ t.hbm = s.hbm)
          ∧ (∀ e h, s.isLocal f.hdr = false → s.routeRemote f.port f.hdr = some (e, h) → Answers (.frameLookup k) s fun t =>
            ∃ g c, t.frame? k = some g ∧ g.looked = true ∧ g.refs = 1 ∧ g.copies = [c] ∧ c.isLocal = false
              ∧ c.egress = e ∧ c.hdr = h ∧ c.finished = s.egressDown e ∧ t.hbm = s.hbm)))
      ∧ (∀ parity o, f.admitted = false → f.bad = none → s.recvWaits f = false → f.binding = none →
        o = s.granaryTurn (1 + f.port) →
        (f.tag.isSome = true → Answers (.frameAdmission ⟨k, parity⟩) s fun t =>
          (t.frame? k).map (·.admitted) = some true ∧ t.granary = o.granary ∧ t.hbm = s.hbm)
        ∧ (f.tag = none → o.admitTest f.owner f.hdr.vc.toNat f.cells = .yes → Answers (.frameAdmission ⟨k, parity⟩) s fun t =>
          (t.frame? k).map (·.admitted) = some true
          ∧ Tab.get 0 t.granary.used f.owner = s.used f.owner + f.cells ∧ t.hbm = s.hbm
          ∧ (parity = true → t.fault.raised = s.fault.raised ++ [o.faultRec 1768 0]))
        ∧ (f.tag = none → o.admitTest f.owner f.hdr.vc.toNat f.cells = .wait →
          exec (.frameAdmission ⟨k, false⟩) s = .next o))
      ∧ (f.tailSeen = false → f.looked = true → f.admitted = true → f.ended = true → f.cutOff = false →
        f.short = false → f.long = false →
        (f.inTail.verdict = 0 → f.crcOk = true → Answers (.frameTail k .clean) s fun t => ∃ g, t.frame? k = some g
          ∧ g.tailSeen = true ∧ g.verdict = 0 ∧ g.marker = 0xFFFF ∧ t.core.verdict = s.core.verdict ∧ t.fault = s.fault)
        ∧ (∀ e, f.inTail.verdict = 0 → e ≠ .uncorrectable → f.crcOk = false → Answers (.frameTail k e) s fun t =>
          ∃ g, t.frame? k = some g ∧ g.tailSeen = true ∧ g.verdict = 1 ∧ g.reason = 1 ∧ g.marker = s.nodeId)
        ∧ (f.inTail.verdict = 0 → Answers (.frameTail k .uncorrectable) s fun t => ∃ g, t.frame? k = some g
          ∧ g.tailSeen = true ∧ g.verdict = 3 ∧ g.reason = 3 ∧ g.marker = s.nodeId
          ∧ s.faultRec 1767 0 ∈ t.fault.raised)
        ∧ (∀ e, f.inTail.verdict ≠ 0 → Answers (.frameTail k e) s fun t => ∃ g, t.frame? k = some g
          ∧ g.tailSeen = true ∧ g.verdict = min f.inTail.verdict.toNat 3 ∧ g.marker = f.inTail.marker.toNat))
      ∧ (∀ j, f.copies.findIdx? (fun c => c.finished && !c.released) = some j → f.looked = true → ∀ parity : Bool,
        (f.refs = 1 → Answers (.referenceRelease ⟨k, parity⟩) s fun t => t.frame? k = none ∧ t.hbm = s.hbm
          ∧ (f.tag = none → f.admitted = true → Tab.get 0 t.granary.used f.owner = s.used f.owner - f.cells))
        ∧ (2 ≤ f.refs → Answers (.referenceRelease ⟨k, parity⟩) s fun t =>
          (t.frame? k).map (·.refs) = some (f.refs - 1) ∧ t.granary = (s.granaryTurn 0).granary)))
    ∧ (∀ (plane : Fin 2) (i : Fin 32) c j,
      (c = max s.coreNow (Tab.get 0 s.core.hopNext (plane.val * 32 + i.val)) → j = (i.val + c + 16 * plane.val) % 32 →
        ∀ f n x, oldest plane (fun o => (Tab.get [] s.core.fifos (fifoKey plane j o)).length < 16) [] (s.inputCopies i)
          = some (f, n, x) → Answers (.fabricDescriptorHop false plane i) s fun t =>
          Tab.get [] t.core.fifos (fifoKey plane j x.egress) = Tab.get [] s.core.fifos (fifoKey plane j x.egress)
            ++ [⟨f.id, n, x.next plane, i.val, x.egress, x.hdr.vc.toNat, (x.seq0 + x.next plane) % 4096, c + 1⟩]
          ∧ t.core.reseq = s.core.reseq ∧ t.hbm = s.hbm)
      ∧ (c = max s.coreNow (Tab.get 0 s.core.hopNext (64 + plane.val * 32 + i.val)) →
        j = (i.val + 32 - c % 32 + 16 * plane.val) % 32 → ∀ d rest,
          Tab.get [] s.core.fifos (fifoKey plane i j) = d :: rest → d.at_ ≤ c →
          Answers (.fabricDescriptorHop true plane i) s fun t =>
            Tab.get [] t.core.fifos (fifoKey plane i j) = rest
            ∧ Tab.get [] t.core.reseq j = Tab.get [] s.core.reseq j ++ [d] ∧ t.hbm = s.hbm))
    ∧ (∀ (p : Fin 32) rs i d fl, rs = Tab.get [] s.core.reseq p.val → rs[i]? = some d →
        fl = (d.inPort * 32 + d.outPort) * 12 + d.vc →
        rs.findIdx? (fun d => d.seq == Tab.get 0 s.core.flowWant ((d.inPort * 32 + d.outPort) * 12 + d.vc)) = some i →
        Answers (.resequencerRelease p) s fun t => Tab.get [] t.core.reseq p.val = rs.eraseIdx i
          ∧ t.egressQ p d.vc = s.egressQ p d.vc ++ [d] ∧ Tab.get 0 t.core.flowWant fl = (d.seq + 1) % 4096
          ∧ d.vc ∈ Tab.get [] t.core.active p.val ∧ t.hbm = s.hbm)
    ∧ (∀ (p : Fin 32) (plane : Fin 2) o v d, s.drr p (Tab.get [] s.core.active p.val).length = (o, some v) →
        s.hasSlot p = true → o.egressHead p v = some d → Answers (.egressSlot p plane) s fun t =>
          t.egressQ p v = (s.egressQ p v).erase d ∧ t.hbm = s.hbm ∧ t.tuns = s.tuns)
    ∧ (∀ (p : Fin 32) plane v d rest, Tab.get [] s.core.active p.val = [v] → s.egressSt p v = .ready →
        s.hasSlot p = true → s.egressHead p v = some d → rest = (s.egressQ p v).erase d → Answers (.egressSlot p plane) s fun t =>
          t.egressQ p v = rest ∧ (∀ w, w ≠ p.val * 12 + v → Tab.get [] t.core.egress w = Tab.get [] s.core.egress w)
          ∧ t.hbm = s.hbm ∧ t.fault = s.fault)
    ∧ (∀ b i f, s.passIndex b = some i → s.core.held[i]? = some f → Answers (.tokenBucketPass b) s fun t =>
        t.core.held = s.core.held.eraseIdx i
        ∧ Tab.get [] t.core.inject f.port = Tab.get [] s.core.inject f.port ++ [f]
        ∧ (∀ w, w ∉ s.buckets f → t.bucketLevel w = (s.reach (s.coreFtc (s.passCycle (s.buckets f)))).bucketLevel w) ∧ t.hbm = s.hbm)

/-- Optical links, training and discovery (R256, R259, R260, R262, R263, R264, R266, R267, R269, R276, R277, R286). -/
def Obligations.OpticalLinks : Prop :=
  ∀ (s : State) (p : Fin 14) (l : Link), l = s.link p → s.alive = true →
    (∀ i : Fin 16, l.lit = true → bitOf l.trained.toNat i = true → (l.lane i).lock = true →
      Answers (.laneLockLost p i) s fun t => ((t.link p).lane i).lock = false
        ∧ ((t.link p).lane i).lostAt = some s.now ∧ ((t.link p).lane i).loss = satInc 8 (l.lane i).loss
        ∧ (t.link p).lost = l.lost ||| BitVec.ofNat 16 (2 ^ i.val) ∧ (t.link p).phase = l.phase ∧ t.hbm = s.hbm)
    ∧ (∀ (i : Fin 16) t0, (l.lane i).lostAt = some t0 →
      (s.now ≤ t0 + 40000 → Answers (.laneLockRegained p i) s fun t =>
        ((t.link p).lane i).lock = true ∧ ((t.link p).lane i).lostAt = none ∧ (t.link p).phase = l.phase)
      ∧ (t0 + 40000 < s.now → exec (.laneLockRegained p i) s = .next s))
    ∧ (l.lit = true → ∀ (c : Fin 6) due,
      (c = 1 ∧ (((l.trainedLanes.map l.lane).filterMap (·.lostAt)).min?).map (· + 40000) = some due)
        ∨ (c = 2 ∧ (∃ i ∈ l.trainedLanes, 5 ≤ (l.lane i).nakCnt) ∧ due = s.now)
        ∨ (c = 3 ∧ (((l.trainedLanes.map l.lane).filterMap (fun x => x.replay.head?.map (·.2.2))).min?).map (· + 100000)
            = some due) →
      Answers (.linkDown p c) s fun t => (t.link p).phase = .training ∧ (t.link p).down = true
        ∧ (t.link p).pending = true ∧ (t.link p).downCause = c.val ∧ (t.link p).downCnt = satInc 16 l.downCnt
        ∧ (t.link p).darkUntil = l.darkUntil ∧ t.now = max s.now due
        ∧ (∃ d, t.faultRec (srcLink p 1) d ∈ t.fault.raised) ∧ t.hbm = s.hbm)
    ∧ (s.isFatal = false → l.phase = .failed → l.enable = true → Answers (.linkRetrain p) s fun t =>
        (t.link p).phase = .training ∧ (t.link p).trainAt = t.now ∧ (t.link p).tried3 = false
        ∧ t.now = max s.now (l.trainAt + 400000000) ∧ t.hbm = s.hbm)
    ∧ (s.isFatal = false → l.enable = true → ∀ at_, at_ = max l.attemptAt (s.litFrom p) →
        (∀ o v, v = (if o.rate224 then 3 else 2) → l.phase = .training → v = s.attempts p → s.alpHas v = true →
          (l.minLanes p ≤ countLanes (lanesOf p o) → s.now ≤ at_ + 400000000 →
            Answers (.trainingComplete p o) s fun t =>
              (t.link p).phase = .hello ∧ (t.link p).version = v ∧ (t.link p).trained = lanesOf p o
              ∧ (t.link p).sent = [] ∧ (t.link p).nbValid = false ∧ t.now = max s.now at_)
          ∧ (countLanes (lanesOf p o) < l.minLanes p ∨ at_ + 400000000 < s.now →
            Answers (.trainingComplete p o) s fun t => (t.link p).trained = 0
              ∧ (t.link p).phase = (if v = 3 ∧ s.alpHas 2 = true then .training else .failed)))
        ∧ (l.phase = .hello → ∀ o, Answers (.trainingComplete p o) s fun t =>
            (t.link p).phase = (if l.version = 3 ∧ s.alpHas 2 = true then .training else .failed)
            ∧ t.now = max s.now (at_ + 400000000)))
    ∧ (∀ h, s.mayWrite h (0x200000 + p.val * 0x10000) = true →
        Answers (.lnkRetrain h p) s (fun t =>
          (t.link p).phase = (if l.enable = true ∧ s.opticsOn = true ∧ s.isFatal = false then .training else .disabled)
          ∧ (t.link p).downCause = 4
          ∧ (t.link p).downCnt = satInc 16 l.downCnt ∧ (t.link p).darkUntil = s.now + 400000 ∧ t.hbm = s.hbm)
        ∧ (∀ (v : Word) (trains : Prop), (trains ↔ bitOf v.toNat 0 = true ∧ s.opticsOn = true ∧ s.isFatal = false) →
          Answers (.lnkEnable h p v) s fun t =>
          (t.link p).enable = bitOf v.toNat 0 ∧ (t.link p).lanesMin = clampNat 1 (portLanes p) (bitsOf v.toNat 8 4)
          ∧ (bitOf v.toNat 1 = true → (t.link p).downCause = 4 ∧ (trains → (t.link p).phase = .training)
              ∧ (¬ trains → (t.link p).phase = .disabled))
          ∧ (bitOf v.toNat 1 = false → l.enable = true → bitOf v.toNat 0 = false →
              (t.link p).phase = .disabled ∧ (t.link p).downCause = 4)
          ∧ (bitOf v.toNat 1 = false → l.enable = false → trains → (t.link p).phase = .training)
          ∧ (bitOf v.toNat 1 = false → (l.enable = true ↔ bitOf v.toNat 0 = true) → (t.link p).phase = l.phase) ∧ t.hbm = s.hbm))
    ∧ (∀ (x : FlitSlot) (flit : List Byte), (∀ num, s.laneHears p x.lane = false →
        exec (.dataFlitReceive p x.lane num ⟨x.cw, x.fec⟩ flit) s = .next s ∧ exec (.creditFlitReceive p ⟨x, flit⟩) s = .next s
        ∧ exec (.helloReceive p ⟨x, flit⟩) s = .next s)
      ∧ ∀ o ok, s.laneHears p x.lane = true → s.codeword p x = (o, ok) →
        (((l.lane x.lane).cwNum = some x.cw.toNat → (l.lane x.lane).cwFlits < 10 →
            ok = !(l.lane x.lane).cwBad ∧ o.fault = s.fault)
          ∧ ((l.lane x.lane).cwNum ≠ some x.cw.toNat → ok = (x.fec != .bad)
            ∧ (x.fec = .clean → o.fault = s.fault)
            ∧ (x.fec = .corrected → (o.link p).fecCorr = satInc 32 l.fecCorr)
            ∧ (x.fec = .bad → (o.link p).fecUnc = satInc 32 l.fecUnc ∧ o.fault.raised = s.fault.raised
              ++ [s.faultRec (srcLink p 5) x.lane.val])))
        ∧ (l.phase = .up → ∀ num,
          (ok = false → exec (.dataFlitReceive p x.lane num ⟨x.cw, x.fec⟩ flit) s = .next (o.modLane p x.lane fun y => { y with nak := true }))
          ∧ (ok = true → flitGood flit = false → Answers (.dataFlitReceive p x.lane num ⟨x.cw, x.fec⟩ flit) s fun t =>
            (t.link p).crcBad = satInc 32 l.crcBad ∧ ((t.link p).lane x.lane).nak = true
            ∧ ((t.link p).lane x.lane).rxWant = (l.lane x.lane).rxWant ∧ t.core = s.core)
          ∧ (ok = true → flitGood flit = true → flitKind flit < 2 → exec (.dataFlitReceive p x.lane num ⟨x.cw, x.fec⟩ flit) s = .next o)
          ∧ (ok = true → flitGood flit = true → 2 ≤ flitKind flit → num.toNat ≠ (l.lane x.lane).rxWant →
            exec (.dataFlitReceive p x.lane num ⟨x.cw, x.fec⟩ flit) s = .next (o.modLane p x.lane fun y => { y with nak := true }))
          ∧ (ok = true → flitGood flit = true → 2 ≤ flitKind flit → num.toNat = (l.lane x.lane).rxWant →
            Answers (.dataFlitReceive p x.lane num ⟨x.cw, x.fec⟩ flit) s fun t =>
              ((t.link p).lane x.lane).rxWant = ((l.lane x.lane).rxWant + 1) % 4096 ∧ ((t.link p).lane x.lane).nak = false
              ∧ (t.link p).phase = .up ∧ t.fault = o.fault ∧ t.hbm = s.hbm))
        ∧ (ok = false ∨ flitGood flit = false ∨ flitKind flit ≠ 1 ∨ byteAt flit 60 ≠ 0 →
          exec (.creditFlitReceive p ⟨x, flit⟩) s = .next o)
        ∧ (ok = false ∨ flitGood flit = false ∨ flitKind flit ≠ 1 ∨ byteAt flit 60 ≠ 2 →
          exec (.helloReceive p ⟨x, flit⟩) s = .next o)
        ∧ (ok = true → flitGood flit = true → flitKind flit = 1 →
          (byteAt flit 60 = 0 → l.phase = .isolated → exec (.creditFlitReceive p ⟨x, flit⟩) s = .next o)
          ∧ (byteAt flit 60 = 0 → l.phase ≠ .isolated → Answers (.creditFlitReceive p ⟨x, flit⟩) s fun t =>
            (∀ v < 12, Tab.get 0 (t.link p).freedFar v = natAt (sliceB flit 0x20 28) (2 * v) 2) ∧ t.hbm = s.hbm
            ∧ (∀ i, l.trainedLanes = [i] → l.txWait = [] → natAt flit (2 * i) 2 = (l.lane i).txNum →
                (l.lane i).txNum < 4096 → (∀ r ∈ (l.lane i).replay, r.1 ≠ (l.lane i).txNum) →
                ((t.link p).lane i).replay = []))
          ∧ (∀ h, byteAt flit 60 = 2 → h = helloFrom (sliceB flit 0x20 28) → l.phase = .hello → l.nbValid = false →
            (∀ c d, wiring p h = some (c, d) → Answers (.helloReceive p ⟨x, flit⟩) s fun t => (t.link p).phase = .isolated
              ∧ (t.link p).miswire = true
              ∧ (bitOf l.code.toNat 31 = false → (t.link p).code = word (2 ^ 31 + c * 2 ^ 24 + d))
              ∧ t.fault.raised = o.fault.raised
                ++ [s.faultRec (srcLink p 2) ((t.link p).code.toNat)])
            ∧ (wiring p h = none → h.alpMin.toNat ≤ l.version → l.version ≤ h.alpMax.toNat →
              Answers (.helloReceive p ⟨x, flit⟩) s fun t => (t.link p).nbValid = true
                ∧ (t.link p).nbNode = h.node.toNat ∧ (t.link p).nbTag = h.certTag
                ∧ (6 ≤ p.val → (t.link p).phase = .up ∧ (t.link p).down = false)
                ∧ (p.val < 6 → (t.link p).phase = .up ∨ (t.link p).phase = .isolated))
            ∧ (wiring p h = none → l.version < h.alpMin.toNat → Answers (.helloReceive p ⟨x, flit⟩) s fun t =>
                (t.link p).phase = .failed ∧ t.fault = o.fault))
          ∧ (∀ h, byteAt flit 60 = 2 → h = helloFrom (sliceB flit 0x20 28) → l.phase = .isolated ∨ l.nbValid = true →
            Answers (.helloReceive p ⟨x, flit⟩) s fun t => (t.link p).nbValid = true ∧ (t.link p).nbNode = h.node.toNat
              ∧ (t.link p).nbTag = h.certTag ∧ (l.phase = .isolated → (t.link p).phase = .isolated)
              ∧ (l.phase ≠ .isolated → 6 ≤ p.val → (t.link p).phase = .up) ∧ t.hbm = s.hbm)))
    ∧ (l.phase = .up → Answers (.creditFlitSend p) s fun t =>
        (∃ more, t.out = more ++ .control p (l.slotHeader l.txLane) (sealFlit (l.acks
            ++ fit 28 ((vcList.map (s.freedNow p)).flatMap (leBytes 2)) ++ [0#8, 4#8])) :: s.out
          ∧ (l.txWait = [] → l.reTx = [] → more = []))
        ∧ (∀ v < 12, Tab.get 0 (t.link p).freedSent v = s.freedNow p v) ∧ t.hbm = s.hbm)
    ∧ (l.lit = true → Answers (.helloSend p) s fun t =>
        (∃ more, t.out = more ++ .control p (l.slotHeader l.txLane)
            (sealFlit (l.acks ++ fit 28 (helloBytes (s.helloOf p)) ++ [2#8, 4#8])) :: s.out
          ∧ (l.phase ≠ .up ∨ (l.txWait = [] ∧ l.reTx = []) → more = []))
        ∧ (t.link p).hellos = (l.hellos + 1) % 2 ^ 32 ∧ (t.link p).helloAt = t.now
        ∧ t.now = (if l.helloLast = helloContent (s.helloOf p) then max s.now (l.helloAt + 4000000)
            else s.now))
    ∧ (∀ h, s.mayWrite h 0x300040 = true →
        (s.disc.phase = .seeking → Answers (.discRoot h) s fun t => t.disc.coord = some (0, 0, 0) ∧ t.disc.root = true
          ∧ t.disc.node = some (nodeAt 0 0 0) ∧ t.links = s.links)
        ∧ (s.disc.phase ≠ .seeking → exec (.discRoot h) s = .next s)
        ∧ (s.grist.active = true → exec (.discForget h) s = .next s)
        ∧ (s.grist.active = false → Answers (.discForget h) s fun t => t.disc.coord = none ∧ t.disc.node = none
          ∧ t.disc.root = false ∧ t.disc.ring = (0, 0, 0) ∧ (∀ n < 6, (t.link n).nbOk = false)
          ∧ t.disc.phase = (if s.opticsLocked then .seeking else .idle)))
    ∧ (s.disc.timeout = false → s.disc.phase = .seeking ∨ s.disc.phase = .placed → Answers .discoveryTimeout s fun t =>
        t.disc = { s.disc with timeout := true } ∧ t.now = max s.now (s.disc.since + 8000000000))

/-- Fabric time and the root's source (R299, R300, R302, R303, R304, R305, R306). -/
def Obligations.FabricTime : Prop :=
  ∀ s : State, s.alive = true →
    (∀ p : Fin 14, (s.link p).phase = .up →
      (∀ o, o = s.dwell (s.link p).timeAt 4000000 →
        Answers (.timeExchangeSend p) s fun t =>
          (∃ more, t.out = more ++ .control p ((s.link p).slotHeader (s.link p).txLane)
              (sealFlit ((s.link p).acks ++ fit 28 (timeBytes (o.timeFlit p)) ++ [1#8, 4#8]))
            :: s.out ∧ ((s.link p).txWait = [] → (s.link p).reTx = [] → more = []))
          ∧ (t.link p).timeAt = t.now ∧ t.now = o.now ∧ t.time.ftc = o.time.ftc)
      ∧ ∀ (x : FlitSlot) (flit : List Byte),
        (s.laneHears p x.lane = false → exec (.timeExchangeReceive p x flit) s = .next s)
        ∧ ∀ o ok f, s.laneHears p x.lane = true → s.codeword p x = (o, ok) → f = timeFrom (sliceB flit 0x20 28) →
          (ok = false ∨ flitGood flit = false ∨ flitKind flit ≠ 1 ∨ byteAt flit 60 ≠ 1 →
            exec (.timeExchangeReceive p x flit) s = .next o)
          ∧ (ok = true → flitGood flit = true → flitKind flit = 1 → byteAt flit 60 = 1 →
            Answers (.timeExchangeReceive p x flit) s fun t => Tab.get {} t.time.portNb p = f
              ∧ Tab.get (0, 0) t.time.portRx p = (f.tx.toNat, s.time.ftc) ∧ t.hbm = s.hbm
              ∧ (f.echoTx ≠ 0 →
                Tab.get 0 t.time.portOfs p
                  = Int.tdiv (((s.time.ftc : Int) - f.tx.toNat) - ((f.echoRx.toNat : Int) - f.echoTx.toNat)) 2
                ∧ Tab.get 0 t.time.portDly p
                  = Int.tdiv (((f.echoRx.toNat : Int) - f.echoTx.toNat) + ((s.time.ftc : Int) - f.tx.toNat)) 2)))
    ∧ (∀ m : PtpSync, s.ptpOn = true → s.ptpHears m.domain = true → s.time.ptpMaster.getD m.masterId = m.masterId →
        m.followUp = false →
        (m.twoStep = true → exec (.ptpSync m) s = .next (s.modTime fun t =>
          { t with ptpMaster := some m.masterId, ptpReqAt := none, ptpWait := some (m.arrival : Int), srcAt := s.now }))
        ∧ (m.twoStep = false → ∀ ofs : Int, ofs = (m.arrival : Int) - m.masterTicks - s.time.ptpDelay →
          Answers (.ptpSync m) s fun t => t.time.ptpOfs = ofs ∧ t.time.ptpMaster = some m.masterId
            ∧ t.time.ptpSync = some (m.masterTicks, (m.arrival : Int) + ((t.time.ftc : Int) - s.time.ftc)) ∧ t.time.srcAt = s.now
            ∧ (40 < ofs.natAbs → t.time.phase = .acquiring)
            ∧ (ofs.natAbs ≤ 40 → s.time.phase = .acquiring → 15 ≤ s.time.inLock → t.time.phase = .locked)))
    ∧ (s.ptpOn = true → s.time.ptpSync.isSome = true → s.time.ptpReqAt = none → exec .ptpDelayReqSend s =
        .next ((s.modTime fun t => { t with ptpReqAt := some (t.ftc : Int) }).emit (.delayReq s.time.ftc)))
    ∧ (∀ t1 t2 t3 d m r, s.ptpOn = true → s.time.ptpSync = some (t1, t2) → s.time.ptpReqAt = some t3 →
        s.ptpHears d = true → s.time.ptpMaster = some m → exec (.ptpDelayResp d m r) s =
          .next (s.modTime fun t => { t with
            ptpDelay := Int.tdiv ((t2 - (t1 : Int)) + ((r : Int) - t3)) 2, ptpReqAt := none, ptpSync := none }))
    ∧ (s.timeRoot = true → s.timeSource ≠ 0 → s.time.phase ≠ .holdover → Answers .sourceSilent s fun t =>
        t.time.phase = .holdover ∧ t.time.ptpMaster = none ∧ t.now = max s.now (s.time.srcAt + 12000000000)
        ∧ (s.time.phase = .locked → t.fault.raised = s.fault.raised ++ [t.faultRec 1769 0])
        ∧ (s.time.phase ≠ .locked → t.fault = s.fault))
    ∧ (s.timeRoot = false ∨ s.timeSource ≠ 2 → exec .ppsInEdge s =
        .next (s.modTime fun t => { t with ppsIn := BitVec.ofNat 64 s.time.ftc }))
    ∧ (∀ ofs : Int, s.timeRoot = true → s.timeSource = 2 → ofs = (if s.time.ftc % second < second / 2
          then ((s.time.ftc % second : Nat) : Int) else (s.time.ftc % second : Nat) - second) →
        Answers .ppsInEdge s fun t => t.time.ppsIn = BitVec.ofNat 64 s.time.ftc ∧ t.time.srcAt = s.now
          ∧ (8 < ofs.natAbs → t.time.phase = .acquiring)
          ∧ (ofs.natAbs ≤ 8 → s.time.phase = .acquiring → 15 ≤ s.time.inLock → t.time.phase = .locked))
    ∧ (s.timeRoot = false → s.time.phase = .acquiring ∨ s.time.phase = .locked →
        (∀ e ∈ s.time.portNb, s.time.parent = some e.1) → Answers .parentTimeout s fun t => t.time.phase = .holdover
          ∧ t.time.parent = none ∧ t.time.depth = 0x3F ∧ t.now = max s.now (s.time.heardAt + 12000000)
          ∧ (s.time.history = [] → t.time.adj = s.time.adj))
    ∧ (s.timeRoot = false → s.time.phase = .acquiring ∨ s.time.phase = .locked → Answers .parentTimeout s fun t =>
        t.now = max s.now (s.time.heardAt + 12000000) ∧ (t.time.parent = none → t.time.phase = .holdover)
        ∧ (t.time.parent.isSome = true → t.time.phase = s.time.phase)
        ∧ (∀ p, s.time.parent = some p → t.time.portNb = s.time.portNb.drop p) ∧ t.hbm = s.hbm)
    ∧ (∀ p, s.mayWrite p 0x20020 = true →
        (s.timeRoot = true → s.mayStep = true → s.timeSource = 0 ∨ s.time.phase = .acquiring → Answers (.ftcSet p) s fun t => t.time.ftc = s.time.setTo.toNat
          ∧ t.time.stepped = true ∧ t.hbm = s.hbm)
        ∧ (s.timeRoot = false ∨ s.mayStep = false ∨ (s.timeSource ≠ 0 ∧ s.time.phase ≠ .acquiring) → exec (.ftcSet p) s = .next s))

/-- Layer digests and the job digest (R319, R320, R321, R322, R323). -/
def Obligations.LayerDigests : Prop :=
  ∀ s : State, s.alive = true →
    (∀ c rest e, s.time.closures = c :: rest → bitOf s.time.digCfg.toNat 31 = false →
        s.hbmReady s.digSlot 32 = true → s.hbmReady (s.digBase + 32 * c.layer) 32 = true →
        exec (.digestClosureWrite e) s = .next (s.modTime fun t => { t with closures := rest }))
    ∧ (∀ c rest slot a b r m e, s.time.closures = c :: rest → bitOf s.time.digCfg.toNat 31 = true →
        s.hbmReady s.digSlot 32 = true → s.hbmReady b 32 = true →
        slot = s.time.ringIndex % (orDefault (s.time.digCfg.toNat % 4096) 1 * 32768) →
        a = s.digBase + 2 ^ 21 + 32 * slot → b = s.digBase + 32 * c.layer →
        r = leBytes 8 c.d.toNat ++ leBytes 8 c.e.toNat ++ leBytes 4 c.period.toNat ++ leBytes 4 c.items
          ++ leBytes 2 c.layer ++ [BitVec.ofNat 8 (closureFlags c s.time.invalid), BitVec.ofNat 8 c.tun]
          ++ leBytes 2 s.blockPos ++ zeros 2 →
        m = s.hbmPut a r → Answers (.digestClosureWrite e) s fun t =>
          t.hbm = (m.hbmPut b (foldEntry (m.hbmBytes b 32) c (closureFlags c s.time.invalid))).hbm
          ∧ t.time.ringIndex = s.time.ringIndex + 1 ∧ ∃ more, t.time.closures = rest ++ more)
    ∧ (∀ p, s.mayWrite p 0x20020 = true →
        ((∃ e ∈ s.tuns, e.2.phase = .running ∨ e.2.phase = .waiting) → exec (.clearTable p) s = .next s)
        ∧ ((∀ e ∈ s.tuns, e.2.phase ≠ .running ∧ e.2.phase ≠ .waiting) → s.digBase + 2 ^ 21 ≤ hbmTop →
          Answers (.clearTable p) s fun t => t.time.ringIndex = 0 ∧ (∀ j < 2 ^ 21, t.hbmByte (s.digBase + j) = 0)
            ∧ (s.runAheadHits s.digBase (2 ^ 21) = [] → t.tuns = s.tuns) ∧ t.grist = s.grist))
    ∧ (∀ p layer root rest, s.mayWrite p 0x20214 = true → s.activeGroup = root :: rest →
        (s.time.reducing.isSome = true → exec (.digReduce p layer) s = .next s)
        ∧ (s.time.reducing = none → Answers (.digReduce p layer) s fun t =>
          t.time.reducing = some (layer.toNat, s.now) ∧ t.time.jobValid = false ∧ t.time.jobIncomplete = false
          ∧ t.time.parts = s.time.parts
          ∧ t.time.partsAt = (if root = s.nodeId then some (s.time.partsAt.getD s.now) else s.time.partsAt)
          ∧ t.hbm = s.hbm ∧ t.tuns = s.tuns))
    ∧ (∀ k x, s.inboxFor k [0x20] = some x → byteAt x.payload 0 = 1 → x.verdict = 0 →
        s.activeGroup.head? = some s.nodeId → x.hdr.src.toNat ∈ s.activeGroup →
        ∀ same : Prop, (same ↔ s.time.partsLayer = natAt x.payload 2 2 ∧ s.time.partsPeriod = natAt x.payload 4 4) →
        ((same → ∀ y ∈ s.time.parts, y.node ≠ x.hdr.src.toNat) → Answers (.jobDigestContribution k) s fun t =>
          (∀ y, y = ⟨x.hdr.src.toNat, byteAt x.payload 1 % 16, BitVec.ofNat 64 (natAt x.payload 8 8),
              BitVec.ofNat 64 (natAt x.payload 0x10 8), natAt x.payload 0x18 4⟩ →
            (same → t.time.parts = s.time.parts ++ [y]) ∧ (¬ same → t.time.parts = [y]))
          ∧ (same → t.time.partsAt = some (s.time.partsAt.getD s.now))
          ∧ t.time.partsLayer = natAt x.payload 2 2 ∧ t.time.partsPeriod = natAt x.payload 4 4 ∧ t.hbm = s.hbm)
        ∧ (same → (∃ y ∈ s.time.parts, y.node = x.hdr.src.toNat) →
          exec (.jobDigestContribution k) s = .next (s.taken x)))
    ∧ (∀ t0, s.time.partsAt = some t0 → s.activeGroup.head? = some s.nodeId → Answers .jobDigestTimeout s fun t =>
        t = (s.after (t0 + 400000000)).jobDecide ∧ t.time.parts = [] ∧ t.time.partsAt = none
        ∧ t.now = max s.now (t0 + 400000000) ∧ t.hbm = s.hbm)
    ∧ (∀ k x n, s.inboxFor k [0x21] = some x → byteAt x.payload 0 = 1 → x.verdict = 0 → s.time.reducing.isSome = true →
        n = natAt x.payload 0x1C 2 → exec (.jobDigestResult k) s = .next ((s.taken x).modTime fun t => { t with
          reducing := none, jobValid := n == s.activeGroup.length, jobIncomplete := !(n == s.activeGroup.length),
          jobFlags := byteAt x.payload 1 % 16, jobLayer := natAt x.payload 2 2, jobMembers := n,
          jobD := BitVec.ofNat 64 (natAt x.payload 8 8), jobE := BitVec.ofNat 64 (natAt x.payload 0x10 8),
          jobItems := natAt x.payload 0x18 4 }))

/-- Lauter runs and their control (R43, R198, R199, R200, R201, R207, R208, R211, R218, R223, R225, R226). -/
def Obligations.RecipeRuns : Prop :=
  ∀ (s : State) (u : Fin 4), s.alive = true →
    (s.isFatal = false → (s.lauter u).run = none → (s.lauter u).retry = none →
      (u.val = 0 → s.voteReady = true → Answers (.recipeRunStart u) s fun t =>
        (t.lauter u).run = some { vote := true, start := s.now } ∧ t = { s with lauters := t.lauters })
      ∧ (u.val = 0 → s.voteReady = false → s.digestReady = true → Answers (.recipeRunStart u) s fun t =>
        (t.lauter u).run = some { digest := true, start := s.now } ∧ t = { s with lauters := t.lauters })
      ∧ ((u.val = 0 → s.voteReady = false ∧ s.digestReady = false) → (s.proving = true → s.health.stage ≠ 3) →
        ∀ ord n c lv k, firstReady (s.readyChunks u) = some (ord, n, c, lv) → (s.ctx c).chunk? n lv = some k →
        (∀ rr, s.recipe u (s.boundSlot u (c % 256)) = some rr → Answers (.recipeRunStart u) s fun t => ∃ r,
          (t.lauter u).run = some r ∧ r.ctx = c ∧ r.chunk = n ∧ r.ordinal = ord ∧ r.level = lv ∧ r.pc = 0 ∧ r.loops = [] ∧ r.v = []
          ∧ r.xacc = [] ∧ r.xnan = [] ∧ r.xpinf = [] ∧ r.xninf = [] ∧ r.top = [] ∧ r.c0 = 0 ∧ r.total = 0 ∧ r.cursors = []
          ∧ r.out = [] ∧ r.start = s.now ∧ r.cycles = 6
          ∧ r.contribs.Perm k.parts ∧ r.contribs.Pairwise (fun a b => a.rank ≤ b.rank)
          ∧ t.hbm = s.hbm ∧ t.core = s.core ∧ t.tuns = s.tuns ∧ t.fault = s.fault)
        ∧ (s.recipe u (s.boundSlot u (c % 256)) = none → Answers (.recipeRunStart u) s fun t =>
          (t.lauter u).run = none ∧ c % 256 ∈ (t.lauter u).shut
          ∧ (bitOf (s.lauter u).exc.toNat 31 = false → (t.lauter u).exc = word (2 ^ 31 + 4 * 2 ^ 26
              + s.boundSlot u (c % 256) % 64 * 2 ^ 20 + c % 256 * 2 ^ 12))
          ∧ t.fault.raised.getLast? = some (t.faultRec (srcLauter u 1) ((t.lauter u).exc.toNat)))))
    ∧ (∀ r, (s.lauter u).run = some r → r.vote = false → r.digest = true → exec (.recipeRunEnd u) s =
        .next (if s.digestReady then s.jobDecide else s.endReduction Run.digest))
    ∧ (∀ r rr y, (s.lauter u).run = some r → r.vote = false → r.digest = false → s.recipe u r.slot = some rr →
      y = s.resumed u r →
      (r.ended = true ∨ rr.words ≤ r.pc → s.emitWaits u r = true → exec (.recipeRunEnd u) s =
        .next (s.modLauter u fun l => { l with run := some { r with waiting := true } }))
      ∧ (r.ended = true ∨ rr.words ≤ r.pc → s.emitWaits u r = false →
        (∀ c, r.contribs.find? (fun c => c.verdict != 0) = some c → exec (.recipeRunEnd u) s =
          .next ((s.runLeaves u y (y.cycles + 4) c.verdict).runResult y y.output c.verdict c.reason c.marker true))
        ∧ ((∀ c ∈ r.contribs, c.verdict = 0) →
          (r.failed = false → r.retry = false → exec (.recipeRunEnd u) s =
            .next ((s.runLeaves u y (y.cycles + 4) 0).runResult y y.output 0 0 0xFFFF true))
          ∧ (r.failed = false → r.retry = true → Answers (.recipeRunEnd u) s fun t => (t.lauter u).run = none
            ∧ t.fault.raised.getLast? = some (t.faultRec (srcLauter u 0) ((t.lauter u).residueReg)))
          ∧ (r.failed = true → r.retry = false → Answers (.recipeRunEnd u) s fun t => (t.lauter u).run = none
            ∧ (t.lauter u).retried = satInc 16 (s.lauter u).retried
            ∧ ∃ q, (t.lauter u).retry = some q ∧ q.retry = true ∧ q.contribs = r.contribs ∧ q.chunk = r.chunk
              ∧ q.ordinal = r.ordinal ∧ q.pc = 0 ∧ q.v = [] ∧ q.out = [])
          ∧ (r.failed = true → r.retry = true → Answers (.recipeRunEnd u) s fun t => (t.lauter u).run = none
            ∧ (t.lauter u).failed = satInc 16 (s.lauter u).failed ∧ r.ctx % 256 ∈ (t.lauter u).shut
            ∧ t.fault.raised.getLast? = some (t.faultRec (srcLauter u 1) ((t.lauter u).exc.toNat)))))
      ∧ (r.ended = false → r.pc < rr.words → recInfo (recOp (s.recipeWord rr r.pc)) = none →
          exec (.recipeRunEnd u) s = .next (s.lauterExc u r 1 1 r.pc))
      ∧ (r.ended = false → r.pc < rr.words → recInfo (recOp (s.recipeWord rr r.pc)) ≠ none →
          exec (.recipeRunEnd u) s = .next s))
    ∧ (∀ r, (s.lauter u).run = none → (s.lauter u).retry = some r → Answers (.residueRetry u) s fun t =>
        (t.lauter u).run = some { r with start := s.now } ∧ (t.lauter u).retry = none
        ∧ (∀ k, k ≠ u → t.lauter k = s.lauter k) ∧ t = { s with lauters := t.lauters })
    ∧ (∀ c op, recipeOpcode c = some (u, op) →
      ((∀ rr r w, ¬ s.recipeAt u op rr r w) → exec c s = .next s)
      ∧ (∀ rr r w k, s.recipeAt u op rr r w → recIllegal s.recipeVersion rr.words r w = some k →
          exec c s = .next (s.lauterExc u r 1 k r.pc))
      ∧ (∀ rr r w, s.recipeAt u op rr r w → recIllegal s.recipeVersion rr.words r w = none → recMv w = true →
          s.strict = true → exec c s = .next (s.lauterExc u r 2 0 r.pc))
      ∧ (∀ rr r w, s.recipeAt u op rr r w → recIllegal s.recipeVersion rr.words r w = none → (recMv w && s.strict) = false →
          4 ≤ op → op ≤ 8 → s.emitWaits u r = true → exec c s =
            .next (s.modLauter u fun l => { l with run := some { r with waiting := true } })))
    ∧ (∀ rr r w,
      (s.recipeRuns u 0x00 rr r w → Answers (.recEnd u) s fun t => s.ranTo t u w { s.begun u r w with ended := true }.stepped 0)
      ∧ (s.recipeRuns u 0x01 rr r w →
        (r.iterations w = 0 → Answers (.recLoop u) s fun t => s.ranTo t u w ((s.begun u r w).goto (r.pc + recX w + 1)) 0)
        ∧ (0 < r.iterations w → Answers (.recLoop u) s fun t => s.ranTo t u w { s.begun u r w with
            pc := r.pc + 1
            loops := ⟨recF w, r.pc + 1, r.pc + recX w, 0, r.iterations w, loopRecSize w⟩ :: r.loops } 0))
      ∧ (s.recipeRuns u 0x02 rr r w → Answers (.recLd u) s fun t => s.ranTo t u w
          ((s.begun u r w).setBytes (recD w) (recF w) (r.beatBytes (recF w))).stepped 0)
      ∧ (∀ f x n, f = recF w → x = recX w → n = min 64 ((r.contrib r.m).length / recordSize f x - 64 * r.idx 3) →
        s.recipeRuns u 0x03 rr r w → Answers (.recLdr u) s fun t => s.ranTo t u w { (s.begun u r w).setPairs (recD w)
          ((List.range n).map fun i => recordAt f x (r.contrib r.m) (64 * r.idx 3 + i)) with c0 := n }.stepped 0)
      ∧ (∀ c op more, (c, op, more) ∈ [(Instr.recEmit u, 0x04, r.regBytes (recA w) (recF w)),
          (.recEmitr u, 0x05, (r.pairs (recF w) (recA w) r.c0).flatMap fun p =>
            leBytes (keyBytes (recF w)) p.1 ++ leBytes (4 * (recX w % 4)) p.2),
          (.recEmitc u, 0x06, leBytes 8 (r.total % 2 ^ 32)), (.recCat u, 0x07, r.contrib r.m),
          (.recCata u, 0x08, (r.contribs.foldr insArrival []).flatMap (·.bytes))] →
        s.recipeRuns u op rr r w → Answers c s fun t => s.ranTo t u w { s.begun u r w with out := r.out ++ more }.stepped 0))

/-- The arithmetic of recipes (R206, R212, R213, R215, R216, R219, R220, R221, R222, R224). -/
def Obligations.RecipeArithmetic : Prop :=
  (∀ (r : Run) reg xs k, Tab.get 0 (r.setLanes reg xs).v k =
      if k / 64 = reg then BitVec.ofNat 64 (xs.getD (k % 64) 0) else Tab.get 0 r.v k)
  ∧ (∀ (s : State) (u : Fin 4) (rr : RecipeRec) (r : Run) (w : Nat) (q : Run) (f x : Nat), q = s.begun u r w → f = recF w → x = recX w →
    (∀ bad,
      (s.recipeRuns u 0x10 rr r w →
        (r.m = 0 → Answers (.recFacc u bad) s fun t => s.ranTo t u w
            ((q.checked bad).setElems w (((r.elemsB w).map (copyIn f)).map (·.1))).stepped
            (((r.elemsB w).map (copyIn f)).foldl (fun a y => Nat.lor a y.2) 0))
        ∧ (r.m ≠ 0 → Answers (.recFacc u bad) s fun t => s.ranTo t u w
            ((q.checked bad).setElems w ((List.zipWith (addIn f) (r.elemsD w) (r.elemsB w)).map (·.1))).stepped
            ((List.zipWith (addIn f) (r.elemsD w) (r.elemsB w)).foldl (fun a y => Nat.lor a y.2) 0)))
      ∧ (s.recipeRuns u 0x11 rr r w → Answers (.recFadd u bad) s fun t => s.ranTo t u w
          ((q.checked bad).setElems w ((List.zipWith (addIn f) (r.elemsA w) (r.elemsB w)).map (·.1))).stepped
          ((List.zipWith (addIn f) (r.elemsA w) (r.elemsB w)).foldl (fun a y => Nat.lor a y.2) 0))
      ∧ (s.recipeRuns u 0x12 rr r w → Answers (.recXadd u bad) s fun t => ∃ r', (t.lauter u).run = some r'
          ∧ r'.xadds = r.xadds + 1 ∧ r'.v = r.v ∧ r'.failed = (r.failed || bad)
          ∧ (∀ i neg m e, i < (r.elemsB w).length → fvOf f ((r.elemsB w).getD i 0) = .fin neg m e →
            Tab.get 0 r'.xacc i = Tab.get 0 r.xacc i + signedAt neg m e (-149))
          ∧ (∀ i, i < (r.elemsB w).length → fvOf f ((r.elemsB w).getD i 0) = .nan → Tab.get false r'.xnan i = true)
          ∧ ((∃ y ∈ r.elemsB w, isSnan f y = true) → bitOf (t.lauter u).flags.toNat 3 = true)
          ∧ t = { s.mvRun w with lauters := t.lauters })
      ∧ (s.recipeRuns u 0x14 rr r w → Answers (.recIadd u bad) s fun t => s.ranTo t u w
          ((q.checked bad).setElems w ((List.zipWith (iaddIn (fmtBits f)) (r.elemsA w) (r.elemsB w)).map (·.1))).stepped
          ((List.zipWith (iaddIn (fmtBits f)) (r.elemsA w) (r.elemsB w)).foldl (fun a y => Nat.lor a y.2) 0)))
    ∧ (s.recipeRuns u 0x13 rr r w → Answers (.recXemit u) s fun t => ∃ r', (t.lauter u).run = some r' ∧ r'.xacc = []
        ∧ r'.xnan = [] ∧ r'.xpinf = [] ∧ r'.xninf = [] ∧ r'.xadds = 0 ∧ t = { s.mvRun w with lauters := t.lauters }
        ∧ r'.v = (q.setElems w ((List.range (if f = 0 then 64 else 128)).map fun i =>
            (r.xround f ((if f = 0 then 64 * (x % 2) else 0) + i)).1)).v)
    ∧ (∀ c op ys, (c, op, ys) ∈ [(Instr.recMin u, 0x15, List.zipWith (pickIn f (bitOf w 2) false) (r.elemsA w) (r.elemsB w)),
          (.recMax u, 0x16, List.zipWith (pickIn f (bitOf w 2) true) (r.elemsA w) (r.elemsB w)),
          (.recCmp u, 0x1B, List.zipWith (fun a b => if cmpIn f x a b then 2 ^ fmtBits f - 1 else 0) (r.elemsA w) (r.elemsB w)),
          (.recSel u, 0x1C, List.zipWith (fun d p => if d != 0 then p.1 else p.2) (r.elemsD w)
            (List.zip (r.elemsA w) (r.elemsB w))),
          (.recMovc u, 0x1E, List.replicate (viewBytes f / keyBytes f)
            (s.field secRecipe (rr.at_ + 0x10 + 8 * (x % 8)) 8 % 2 ^ fmtBits f))] →
        s.recipeRuns u op rr r w → Answers c s fun t => s.ranTo t u w (q.setElems w ys).stepped 0)
    ∧ (∀ c op g, (c, op, g) ∈ [(Instr.recAnd u, 0x18, Nat.land), (.recOr u, 0x19, Nat.lor), (.recXor u, 0x1A, Nat.xor)] →
        s.recipeRuns u op rr r w → Answers c s fun t => ∃ r', (t.lauter u).run = some r'
          ∧ t = { s.mvRun w with lauters := t.lauters }
          ∧ (∀ k, k / 64 ≠ recD w → Tab.get 0 r'.v k = Tab.get 0 r.v k)
          ∧ ∀ i < 64, Tab.get 0 r'.v (64 * recD w + i) = BitVec.ofNat 64
              (g (Tab.get 0 r.v (64 * recA w + i)).toNat (if recS w then natAt (r.beatBytes 0) (4 * i) 4
                else (Tab.get 0 r.v (64 * recB w + i)).toNat)))
    ∧ (s.recipeRuns u 0x1D rr r w → Answers (.recMovv u) s fun t => ∃ r', (t.lauter u).run = some r'
        ∧ t = { s.mvRun w with lauters := t.lauters } ∧ (∀ k, k / 64 ≠ recD w → Tab.get 0 r'.v k = Tab.get 0 r.v k)
        ∧ (∀ i < 64, Tab.get 0 r'.v (64 * recD w + i) = if bitOf w 0 then 0 else Tab.get 0 r.v (64 * recA w + i)))
    ∧ (∀ (ps kept : List (Nat × Nat)), ps = List.zip (r.lanes (recA w)) (if bitOf w 0 then r.lanes (recA w + 1) else List.replicate 64 0) →
        kept = ((List.zip ps (r.lanesB w)).take (if bitOf w 1 then r.c0 else 64)).filterMap
          (fun y => if y.2 != 0 then some y.1 else none) →
        s.recipeRuns u 0x20 rr r w → Answers (.recCompact u) s fun t => s.ranTo t u w
          (Run.stepped { (if bitOf w 0 then q.setPairs (recD w) kept else q.setLanes (recD w) (kept.map Prod.fst)) with
            c0 := kept.length
            total := (r.total + kept.length) % 2 ^ 32 }) 0)
    ∧ (s.recipeRuns u 0x21 rr r w → Answers (.recSort u) s fun t => ∃ ps, s.ranTo t u w (q.setPairs (recD w) ps).stepped 0
        ∧ ps.Perm (r.pairs f (recA w) r.c0)
        ∧ ps.Pairwise (fun a b => if bitOf w 2 then keyOrder f b.1 ≤ keyOrder f a.1 else keyOrder f a.1 ≤ keyOrder f b.1))
    ∧ (s.recipeRuns u 0x22 rr r w → Answers (.recMerge u) s fun t => ∃ q' ps, q.mergeTake f x (bitOf w 2) 64 = (q', ps)
        ∧ s.ranTo t u w { q'.setPairs (recD w) ps with c0 := ps.length, total := (q'.total + ps.length) % 2 ^ 32 }.stepped 0
        ∧ ps.length ≤ 64)
    ∧ (s.recipeRuns u 0x23 rr r w → Answers (.recTopk u) s fun t => ∃ r', (t.lauter u).run = some r'
        ∧ (r.top.length ≤ x + 1 → r'.top.length ≤ x + 1) ∧ r'.topX = some (x + 1, b2n (bitOf (recD w) 0))
        ∧ r'.v = r.v ∧ r'.out = r.out ∧ r'.born = r.born + (r.pairs f (recA w) r.c0).length
        ∧ (∀ y ∈ r'.top, y ∈ r.top ∨ (y.key, y.val) ∈ r.pairs f (recA w) r.c0) ∧ t = { s.mvRun w with lauters := t.lauters }
        ∧ ∀ small, small = bitOf (recD w) 0 → r.top.length ≤ x + 1 → r.top.Pairwise (fun a b => topBefore f small b a = false) →
          r'.top.Pairwise (fun a b => topBefore f small b a = false)
          ∧ ∃ news dropped : List TopRec, news.map (fun y => (y.key, y.val)) = r.pairs f (recA w) r.c0
            ∧ (∀ i y, news[i]? = some y → y.index = 64 * r.idx 3 + i ∧ y.born = r.born + i
              ∧ y.rank = if recMv w then ((r.contribs.foldr insArrival []).findIdx? fun c =>
                  some c.rank == (r.contribs[r.m]?).map (·.rank)).getD 0 else r.m)
            ∧ (r'.top ++ dropped).Perm (r.top ++ news) ∧ r'.top.length = min (x + 1) (r.top.length + news.length)
            ∧ ∀ y ∈ dropped, ∀ z ∈ r'.top, topBefore f small y z = false)
    ∧ (∀ ps : List (Nat × Nat), ps = ((r.top.drop (64 * (x % 4))).take 64).map (fun y => (y.key, y.val)) →
        s.recipeRuns u 0x24 rr r w → Answers (.recTopke u) s fun t => s.ranTo t u w
          { q.setPairs (recD w) ps with c0 := ps.length, total := (r.total + ps.length) % 2 ^ 32 }.stepped 0)
    ∧ (s.recipeRuns u 0x28 rr r w → Answers (.recHatom u) s fun t => (t.lauter u).run = some q.stepped
        ∧ t = { s.mvRun w with lauters := t.lauters, atoms := t.atoms }
        ∧ t.atoms = s.atoms ++ (List.range 4).map fun i =>
            ⟨u, s.field secRecipe (rr.at_ + 8) 8 + 256 * r.beat.2 + 64 * i, f, sliceB (r.regBytes (recA w) f) (64 * i) 64⟩))
  ∧ (∀ (s : State) k e a n m, s.alive = true → s.atoms[k]? = some a → s.stackOf a.addr = some n → s.asleep (n / 4) = false →
      s.hbmReady a.addr 64 = true → s.atomBehind k a = false → a.addr % 64 = 0 → m = fmtBits a.fmt / 8 → Answers (.hbmAtomicAdd k e) s fun t =>
        t.atoms = s.atoms.eraseIdx k
        ∧ t.hbm = (s.hbmPut a.addr ((List.zipWith (fun y z => (addIn a.fmt y z).1)
            (numbersOf m (64 / m) (s.hbmBytes a.addr 64)) (numbersOf m (64 / m) a.bytes)).flatMap (leBytes m))).hbm)

/-- Collective operations (R232, R234, R240, R241, R242, R243, R244, R246, R247, R248, R249, R252). -/
def Obligations.Collectives : Prop :=
  ∀ s : State, s.alive = true →
    (∀ k x, ∀ e ∈ [(Instr.contrib k, 0x30), (.result k, 0x31), (.grant k, 0x32), (.retract k, 0x33)],
      (s.inboxFor k [e.2] = none → exec e.1 s = .next s)
      ∧ (s.inboxFor k [e.2] = some x → x.hdr.epoch.toNat / 32 ≠ s.col.gen → Answers e.1 s fun t =>
          t.col = { s.col with stale := satInc 16 s.col.stale } ∧ t.hbm = s.hbm ∧ t.tuns = s.tuns ∧ t.fault = s.fault))
    ∧ (∀ k x y r ch p, s.inboxFor k [0x30] = some x → x.hdr.epoch.toNat / 32 = s.col.gen →
        y = s.ctx (x.hdr.epIdx % 1024) →
        (y.chunks = [] → Answers (.contrib k) s fun t => t.col = s.col ∧ t.hbm = s.hbm ∧ t.tuns = s.tuns)
        ∧ (y.serving = true → s.group? y.group = some r → s.chunkFor r y x = some ch → y.ordinal = x.ord →
          y.group = x.hdr.stream.toNat → x.hdr.epoch.toNat = s.colEpoch y.round →
          p = ((ch.open_.find? fun q => q.rank == x.rank).getD { rank := x.rank, bytes := [] }).add k x →
          (endsChunk r.chunk x.payload.length p.bytes.length = false → Answers (.contrib k) s fun t =>
            (t.ctx (x.hdr.epIdx % 1024)).chunks = y.chunks.map (fun q => if q.index == ch.index && q.level == ch.level
              then { q with open_ := (ch.open_.filter fun o => o.rank != x.rank) ++ [p] } else q) ∧ t.hbm = s.hbm)
          ∧ (endsChunk r.chunk x.payload.length p.bytes.length = true → p.verdict ≠ 3 → Answers (.contrib k) s fun t =>
            (t.ctx (x.hdr.epIdx % 1024)).chunks = y.chunks.map (fun q => if q.index == ch.index && q.level == ch.level
              then { q with open_ := ch.open_.filter fun o => o.rank != x.rank, parts := ch.parts ++ [p] } else q)
            ∧ t.hbm = s.hbm)))
    ∧ (∀ k x r, s.inboxFor k [0x31] = some x → x.hdr.epoch.toNat / 32 = s.col.gen →
        s.group? x.hdr.stream.toNat = some r →
        ((x.ord, x.hdr.epoch.toNat) ∈ s.col.abandoned → Answers (.result k) s fun t => t.col = s.col ∧ t.tuns = s.tuns)
        ∧ ((x.ord, x.hdr.epoch.toNat) ∉ s.col.abandoned → endsChunk r.chunk x.payload.length x.payload.length = false →
          (∀ y ∈ s.col.results, ¬ (y.group = x.hdr.stream.toNat ∧ y.ordinal = x.ord ∧ y.epoch = x.hdr.epoch.toNat
            ∧ y.chunk = x.hdr.seq.toNat)) → Answers (.result k) s fun t => t.tuns = s.tuns ∧ t.hbm = s.hbm
          ∧ ∃ y : HeldResult, t.col = { s.col with results := s.col.results ++ [y] } ∧ y.group = x.hdr.stream.toNat
            ∧ y.ordinal = x.ord ∧ y.epoch = x.hdr.epoch.toNat ∧ y.chunk = x.hdr.seq.toNat ∧ y.bytes = x.payload
            ∧ y.verdict = x.verdict ∧ y.complete = false ∧ y.frames = [k])
        ∧ (∀ y, (x.ord, x.hdr.epoch.toNat) ∉ s.col.abandoned → s.col.results = [y] → y.group = x.hdr.stream.toNat →
          y.ordinal = x.ord → y.epoch = x.hdr.epoch.toNat → y.chunk = x.hdr.seq.toNat → y.complete = false →
          endsChunk r.chunk x.payload.length (y.bytes.length + x.payload.length) = false → Answers (.result k) s fun t =>
            t.tuns = s.tuns ∧ t.hbm = s.hbm ∧ ∃ z : HeldResult, t.col = { s.col with results := [z] }
            ∧ z.bytes = y.bytes ++ x.payload ∧ z.verdict = (if y.verdict ≠ 0 then y.verdict else x.verdict)
            ∧ z.frames = y.frames ++ [k] ∧ z.complete = false)
        ∧ ((x.ord, x.hdr.epoch.toNat) ∉ s.col.abandoned → s.col.results = [] → r.delivery ≠ 0 → r.id = x.hdr.stream.toNat →
          endsChunk r.chunk x.payload.length x.payload.length = true → x.payload.length % 64 = 0 →
          (s.recvFrom r (Tab.get {} s.col.resWant r.id)).isNone = true →
          (x.verdict ≠ 3 ∨ x.reason ≠ 6) → Answers (.result k) s fun t => t.tuns = s.tuns ∧ t.hbm = s.hbm
            ∧ ∃ z ∈ t.col.results, z.group = r.id ∧ z.ordinal = x.ord ∧ z.chunk = x.hdr.seq.toNat ∧ z.bytes = x.payload
              ∧ z.complete = true ∧ z.verdict = x.verdict))
    ∧ (∀ k x key, s.inboxFor k [0x32] = some x → x.hdr.epoch.toNat / 32 = s.col.gen → s.grantKey x = some key →
        Answers (.grant k) s fun t => t.hbm = s.hbm ∧ t.tuns = s.tuns ∧ t.col = { s.col with grants := t.col.grants }
        ∧ (∃ g ∈ t.col.grants, g.ordinal = x.ord ∧ g.epoch = x.hdr.epoch.toNat ∧ g.key = key
          ∧ g.from_ = x.hdr.src.toNat ∧ x.hdr.seq.toNat ≤ g.upTo)
        ∧ (∀ g, ¬ (g.ordinal = x.ord ∧ g.key = key ∧ g.from_ = x.hdr.src.toNat) →
            (g ∈ t.col.grants ↔ g ∈ s.col.grants)))
    ∧ (∀ k x, s.inboxFor k [0x33] = some x → x.hdr.epoch.toNat / 32 = s.col.gen → Answers (.retract k) s fun t =>
        t.col.retracted = true ∧ t.time.invalid = true ∧ t.col.stopRound.isSome = true ∧ t.hbm = s.hbm
        ∧ (s.col.retracted = false → t.col.retrLast = word x.ord
            ∧ t.col.retrInfo = word (x.hdr.src.toNat * 65536 + x.hdr.epoch.toNat))
        ∧ (s.col.retracted = true → t.col.retrLast = s.col.retrLast ∧ t.col.retrInfo = s.col.retrInfo)
        ∧ (x.rank ≠ noRank → t.tuns = s.tuns ∧ t.fault.raised = s.fault.raised ++ [s.faultRec 1762 0]
            ∧ t.col.ctxs = s.col.ctxs)
        ∧ (x.rank = noRank → ∀ c, (t.ctx c).serving = false))
    ∧ (∀ (c : Fin 1024) r i n l cells x, x = s.ctx c → s.isFatal = false → s.grist.frozen = false →
        c.val % 256 ∉ (s.lauter (c / 256)).shut → x.serving = true → s.roundOpen x.round = true →
        s.group? x.group = some r → s.ctxIssue x = some i →
        s.nextGrant r x i.chunks = some (n, l) → cells = s.inputCount r l * needCells r.chunk →
        (s.unusedMin c < cells + s.leftForResult c → exec (.chunkGrant c) s = .next s)
        ∧ (cells + s.leftForResult c ≤ s.unusedMin c → Answers (.chunkGrant c) s fun t =>
          t.ctx c = { x with
            chunks := x.chunks ++ [{ index := n, level := l, nm := s.inputCount r l, since := s.now, resv := cells }]
            granted := x.granted + 1
            nextN := Tab.set 0 x.nextN l (n + 1)
            indices := if x.indices.contains n then x.indices else x.indices ++ [n] }
          ∧ (∀ d, d ≠ c.val → t.ctx d = s.ctx d) ∧ t.col.grantedSincePitch = true ∧ t.hbm = s.hbm ∧ t.tuns = s.tuns
          ∧ (s.nodeId ∈ (r.inputs r.present l n s.nodeId).map (·.2) → ∃ g ∈ t.col.grants, g.ordinal = i.ord
              ∧ g.epoch = s.colEpoch x.round ∧ g.from_ = s.nodeId ∧ n ≤ g.upTo)))
    ∧ (∀ (g : Fin 4096) r p i, s.isFatal = false → s.group? g = some r →
        s.recvFrom r (Tab.get {} s.col.resNext g) = some p → (s.issuesOf g)[p.pos]? = some i →
        s.roundOpen p.round = true → s.isAbandoned i.ord p.round = false →
        (s.unusedMin r.ctx0 < needCells r.chunk + s.leftForGrant r.ctx0 → exec (.resultReserve g) s = .next s)
        ∧ (needCells r.chunk + s.leftForGrant r.ctx0 ≤ s.unusedMin r.ctx0 → Answers (.resultReserve g) s fun t =>
          t.col.resHeld = s.col.resHeld ++ [⟨g, i.ord, s.colEpoch p.round, p.chunk, needCells r.chunk⟩]
          ∧ t.col.ctxs = s.col.ctxs ∧ Tab.get {} t.col.resNext g = { p with chunk := p.chunk + 1 }
          ∧ t = { s with col := t.col }))
    ∧ (∀ (c : Fin 1024) x, x = s.ctx c → x.serving = true →
        (x.chunks ≠ [] → exec (.contextAdvance c) s = .next s)
        ∧ (∀ r i, s.group? x.group = some r → s.ctxIssue x = some i → x.chunks = [] →
          s.nextGrant r x i.chunks = none → (r.delivery = 0 → ∀ n ∈ x.indices, n ∈ x.forwarded) → Answers (.contextAdvance c) s fun t =>
            (t.ctx c).chunks = [] ∧ (t.ctx c).last = some (x.round, x.ordinal)
            ∧ ((t.ctx c).serving = true → s.roundOpen (t.ctx c).round = true ∧ (x.round < (t.ctx c).round
                ∨ (x.round = (t.ctx c).round ∧ x.ordinal < (t.ctx c).ordinal)))
            ∧ (∀ d, d ≠ c.val → t.ctx d = s.ctx d) ∧ t = { s with col := t.col }))
    ∧ ((s.col.stopped = false → s.col.stopRound.isSome = true → s.col.resHeld = [] → s.col.results = [] →
        (∀ f ∈ s.core.frames, f.owner < 256 ∨ 1280 ≤ f.owner) → (∀ e ∈ s.col.ctxs, s.ctxIdle e.1 = true) →
        exec .collectiveStop s = .next { s with col := { s.col with stopped := true } })
      ∧ (s.col.stopRound = none ∨ (∃ e ∈ s.col.ctxs, s.ctxIdle e.1 = false) → exec .collectiveStop s = .next s))
    ∧ (∀ (c : Fin 1024) x k, x = s.ctx c → x.serving = true →
        x.chunks.find? (fun k => k.state == 0 && !k.stalled && !s.chunkReady c x k) = some k →
        Answers (.collectiveStall c) s fun t => t.col.stall = true
          ∧ (t.ctx c).chunks = x.chunks.map (fun q =>
            if q.index == k.index && q.level == k.level then { q with stalled := true } else q)
          ∧ t.now = max s.now (k.since + s.colStallTicks) ∧ t.hbm = s.hbm ∧ t.tuns = s.tuns
          ∧ t.fault.raised = s.fault.raised ++ [t.faultRec 1761 0]
          ∧ (bitOf s.col.stallCtx.toNat 31 = false → t.col.stallOrd = word x.ordinal ∧ t.col.stallCtx = word (2 ^ 31 + c)
            ∧ (∀ o ∈ s.heldOrdinals, t.col.stallBlock.toNat ≤ o)
            ∧ (s.heldOrdinals ≠ [] → ∃ o ∈ s.heldOrdinals, t.col.stallBlock = word o)
            ∧ (s.heldOrdinals = [] → t.col.stallBlock = 0xFFFFFFFF#32))
          ∧ (bitOf s.col.stallCtx.toNat 31 = true → t.col.stallOrd = s.col.stallOrd ∧ t.col.stallCtx = s.col.stallCtx))
    ∧ (∀ (t : Fin 192) (q : Fin 64) r i p, s.tunActs t = true → 48 ≤ q.val → s.sourceAt t q = some (r, i, p) →
        (s.mayContribute t q = false → exec (.collectiveSend (.binding t q)) s = .next s)
        ∧ (∀ l h pos len es, s.mayContribute t q = true → s.bindingBusy t q = false → s.grist.frozen = false →
          r.combining.head? = some l → r.homeFor r.present p.chunk l s.nodeId = some h →
          positionIn r.present s.nodeId = some pos → len = min 4096 (chunkBytes r i p.chunk - p.offset) →
          es = (((s.tun t).queue q).far.map (·.1) ++ ((s.tun t).queue q).near).take (len / 64) → len ≤ es.length * 64 →
          Answers (.collectiveSend (.binding t q)) s fun v => v.tuns = s.tuns ∧ v.hbm = s.hbm
            ∧ Tab.get {} v.col.sources (bindKey t q) = s.placeAfter r i p len
            ∧ ∃ f, v.made (widePort t (s.binding t q).alt) f ∧ f.payload = es.flatMap entryBytes
              ∧ f.binding = some (t.val, q.val)))
    ∧ (∀ (u : Fin 4) (x : Fin 256) c y k r bytes v reason marker rest m l h piece last, c = 256 * u.val + x.val →
        y = s.ctx c → y.levels = [m] → y.chunks.find? (fun z => z.level == m) = some k → s.group? y.group = some r →
        k.out = (bytes, v, reason, marker) :: rest → r.above m = some l →
        r.homeFor r.present k.index l s.nodeId = some h →
        (s.holdsGrant y.ordinal y.round (partialKey c m) h k.index = false ∨ s.portBusy (ctxPort c) 8 = true →
          exec (.collectiveSend (.context u x)) s = .next s)
        ∧ (s.holdsGrant y.ordinal y.round (partialKey c m) h k.index = true → s.portBusy (ctxPort c) 8 = false →
          s.resultReserved r y.ordinal y.round k.index = true → s.roundOpen y.round = true → s.grist.frozen = false →
          piece = ((bytes.take r.chunk).drop k.sentTo).take 4096 →
          last = endsChunk r.chunk piece.length (k.sentTo + piece.length) →
          Answers (.collectiveSend (.context u x)) s fun t => t.tuns = s.tuns ∧ t.hbm = s.hbm
            ∧ (∃ f, t.made (ctxPort c) f ∧ f.payload = piece)
            ∧ (t.ctx c).chunks = (y.chunks.map fun z => if z.index == k.index && z.level == m
                then (if last then { z with out := rest, sentTo := 0 } else { z with sentTo := z.sentTo + piece.length })
                else z).filter fun z => !(z.state == 2 && z.out.isEmpty)))
    ∧ (∀ p : HostPort,
      (s.mayWrite p 0x3C0004 = true →
        (s.col.stopped = true ∨ s.col.grantedSincePitch = false → Answers (.colReset p) s fun t =>
          t.col.gen = (s.col.gen + 1) % 8 ∧ t.col.ctxs = [] ∧ t.col.grants = [] ∧ t.col.resHeld = [] ∧ t.col.results = []
          ∧ t.col.sources = [] ∧ t.col.round = s.col.round + BitVec.ofNat 64 s.curRound
          ∧ (∀ u < 4, (t.lauter u).shut = []) ∧ t.hbm = s.hbm ∧ t.tuns = s.tuns)
        ∧ (s.col.stopped = false → s.col.grantedSincePitch = true → exec (.colReset p) s = .next s)
        ∧ (s.col.retracted = true → exec (.colResume p) s = .next s)
        ∧ (s.col.retracted = false → exec (.colResume p) s =
            .next { s with col := { s.col with stopped := false, stopRound := none, shut := false } }))
      ∧ (∀ e : Byte, s.mayWrite p 0x3C0014 = true → ∀ j r,
        (jobTable (s.sec_ secOrdinal)).find? (fun j => j.1 == s.col.retractOrd.toNat) = some j → s.group? j.2 = some r →
        Answers (.colRetractGo p e) s fun t => t.col.retracted = true ∧ t.hbm = s.hbm ∧ t.tuns = s.tuns
          ∧ (s.col.retracted = false → t.col.retrLast = s.col.retractOrd
              ∧ t.col.retrInfo = word (s.nodeId * 65536 + e.toNat))
          ∧ t.col.ctxs = s.col.ctxs ∧ t.fault = s.fault)
      ∧ (∀ v : Word, s.mayWrite p 0x3C0008 = true →
        (exec (.colRoundWrite p false v) s = .next (s.modPort p fun x =>
            { x with hold := Tab.set none x.hold 0x3C0008 (some v) }))
        ∧ (∀ l : Word, Tab.get none (s.port p).hold 0x3C0008 = some l →
          ((s.col.stopped = true ∧ s.busyCount = 0) ∨ s.col.grantedSincePitch = false →
            Answers (.colRoundWrite p true v) s fun t => t.col.round = BitVec.ofNat 64 (v.toNat * 2 ^ 32 + l.toNat)
              ∧ t.col.gen = s.col.gen ∧ t.hbm = s.hbm ∧ t.tuns = s.tuns)
          ∧ (s.col.stopped = false → s.col.grantedSincePitch = true → Answers (.colRoundWrite p true v) s fun t =>
              t.col = s.col ∧ t.tuns = s.tuns))))
end

