-- ==== Sys2Proof/Laws/Access.lean ====
section
/-! SUPPORT. Laws/Access.lean: what a write of a control register can do (R9, R23, R75,
R354, R391), said once. -/
namespace Sys2Proof.Machine

/-- With no posted write of the port's host waiting, none is performed first (R328). -/
theorem flushPosted_of_nil {s : State} {p : HostPort} (h : (s.port p).posted = []) : s.flushPosted p = s := by
  unfold State.flushPosted; rw [h]; split <;> simp_all

/-- A port that serves has no posted write waiting, or the access is a remote one. -/
@[simp] theorem flushPosted_of_serves {s : State} {p : HostPort} (h : s.portServes p = true) : s.flushPosted p = s := by
  cases hr : s.host.remote
  · refine flushPosted_of_nil ?_
    simp_all [State.portServes, State.portConfig]
  · unfold State.flushPosted; rw [hr]

/-- A write that may act, acts on the state that its access has touched. -/
theorem hostWrite_of_mayWrite {s : State} {p : HostPort} {off : Nat} (act : State → State)
    (h : s.mayWrite p off = true) : s.hostWrite p off act = act (s.touched off) := by
  unfold State.mayWrite at h
  unfold State.hostWrite State.touched
  simp only [Bool.and_eq_true, Bool.not_eq_true', Bool.or_eq_true] at h
  obtain ⟨⟨⟨⟨h1, h2⟩, h3⟩, h4⟩, h5⟩ := h
  rw [flushPosted_of_serves h1]
  have h6 : (s.power.warm && !(blockOf off).1.warmServed) = false := by
    rcases h4 with h | h <;> simp [h]
  simp only [h1, h2, h3, h6, Bool.not_true, Bool.false_eq_true, if_false, Bool.or_self]
  generalize (blockOf off).1 = b at *
  cases b <;> simp_all <;> rcases h5 with h | h <;> simp [h]

/-- A write by a port that does not serve has no effect. -/
theorem hostWrite_of_not_serves {s : State} {p : HostPort} {off : Nat} (act : State → State)
    (h : s.portServes p = false) (g : (s.port p).posted = []) : s.hostWrite p off act = s := by
  simp [State.hostWrite, flushPosted_of_nil g, h]

/-- A write by a port without the token sets NOT_HOLDER and nothing else (R9). -/
theorem hostWrite_of_not_holds {s : State} {p : HostPort} {off : Nat} (act : State → State)
    (h : s.portServes p = true) (g : s.holds p = false) : s.hostWrite p off act = s.badAccess p 0 := by
  simp [State.hostWrite, h, g]

/-- Everything a control-register write can do once the posted writes before it are performed:
nothing, a bad-access status, or its action. -/
theorem hostWrite_cases (s : State) (p : HostPort) (off : Nat) (act : State → State) :
    s.hostWrite p off act = s.flushPosted p ∨ (∃ b, s.hostWrite p off act = (s.flushPosted p).badAccess p b)
      ∨ s.hostWrite p off act = act ((s.flushPosted p).touched off) := by
  unfold State.hostWrite State.touched
  dsimp only
  generalize s.flushPosted p = s
  split
  · exact .inl rfl
  split
  · exact .inr (.inl ⟨_, rfl⟩)
  split
  · exact .inr (.inl ⟨_, rfl⟩)
  split
  · split
    · exact .inr (.inl ⟨_, rfl⟩)
    split
    · exact .inl rfl
    · rename_i h _ _
      first
      | exact .inr (.inr rfl)
      | rw [h]; exact .inr (.inr rfl)
  · split
    · exact .inl rfl
    · rename_i h _
      refine .inr (.inr ?_)
      first
      | rfl
      | split
        · exact absurd ‹_› (h _)
        · rfl

/-- Outside the blocks of the tuns an access touches nothing. -/
theorem touched_of_not_tun {s : State} {off : Nat} (h : ∀ n, (blockOf off).1 ≠ .tun n) : s.touched off = s := by
  unfold State.touched
  split
  · exact absurd ‹_› (h _)
  · rfl

/-- A control-register command from a port without the token (R9). -/
theorem badAccess_local {s : State} {p : HostPort} {b : Nat} (h : s.host.remote = false) :
    s.badAccess p b =
      s.modPort p fun x => { x with bad := x.bad ||| BitVec.ofNat 6 (2 ^ b), badCnt := satInc 16 x.badCnt } := by
  simp [State.badAccess, h]

end Sys2Proof.Machine
end

