-- ==== Sys2Proof/Laws/Tab.lean ====
section
/-! SUPPORT. Laws/Tab.lean: sparse tables: a read after a write gives the value written, a
write leaves every other key, and every operation keeps the canonical form. -/
namespace Sys2Proof.Machine

variable {α : Type}

/-! ## Reads after writes -/

@[simp] theorem Tab.get_nil (d : α) (k : Nat) : Tab.get d ([] : Tab α) k = d := rfl

@[simp] theorem Tab.get_put_same (d v : α) (m : Tab α) (k : Nat) : Tab.get d (m.put k v) k = v := by
  induction m with
  | nil => simp [Tab.put, Tab.get]
  | cons e m ih =>
    obtain ⟨j, w⟩ := e
    simp only [Tab.put]
    split
    · simp [Tab.get]
    · split
      · simp [Tab.get]
      · rename_i h; simp [Tab.get, h, ih]

theorem Tab.get_put_other (d v : α) (m : Tab α) {k j : Nat} (h : j ≠ k) :
    Tab.get d (m.put k v) j = Tab.get d m j := by
  induction m with
  | nil => simp [Tab.put, Tab.get, h]
  | cons e m ih =>
    obtain ⟨i, w⟩ := e
    simp only [Tab.put]
    split
    · simp [Tab.get, h]
    · split
      · rename_i g; subst g; simp [Tab.get, h]
      · simp [Tab.get, ih]

@[simp] theorem Tab.get_drop_same (d : α) (m : Tab α) (k : Nat) : Tab.get d (m.drop k) k = d := by
  induction m with
  | nil => rfl
  | cons e m ih =>
    obtain ⟨j, w⟩ := e
    by_cases h : j = k
    · simpa [Tab.drop, h] using ih
    · have : ¬ k = j := fun g => h g.symm
      simpa [Tab.drop, h, Tab.get, this] using ih

theorem Tab.get_drop_other (d : α) (m : Tab α) {k j : Nat} (h : j ≠ k) :
    Tab.get d (m.drop k) j = Tab.get d m j := by
  induction m with
  | nil => rfl
  | cons e m ih =>
    obtain ⟨i, w⟩ := e
    by_cases g : i = k
    · subst g; simpa [Tab.drop, Tab.get, h] using ih
    · have ih' := ih
      simp only [Tab.drop] at ih'
      simp [Tab.drop, g, Tab.get, ih']

@[simp] theorem Tab.get_set_same [DecidableEq α] (d v : α) (m : Tab α) (k : Nat) : Tab.get d (m.set d k v) k = v := by
  unfold Tab.set; split
  · rename_i h; simp [h]
  · simp

theorem Tab.get_set_other [DecidableEq α] (d v : α) (m : Tab α) {k j : Nat} (h : j ≠ k) :
    Tab.get d (m.set d k v) j = Tab.get d m j := by
  unfold Tab.set; split
  · exact Tab.get_drop_other d m h
  · exact Tab.get_put_other d v m h

@[simp] theorem Tab.get_mod_same [DecidableEq α] (d : α) (m : Tab α) (k : Nat) (f : α → α) :
    Tab.get d (m.mod d k f) k = f (Tab.get d m k) := Tab.get_set_same d _ m k

theorem Tab.get_mod_other [DecidableEq α] (d : α) (m : Tab α) {k j : Nat} (f : α → α) (h : j ≠ k) :
    Tab.get d (m.mod d k f) j = Tab.get d m j := Tab.get_set_other d _ m h

/-! ## The canonical form -/

/-- The keys rise from `lo` on, where that is given. -/
theorem Tab.risingFrom_cons {lo : Option Nat} {j : Nat} {v : α} {m : Tab α} :
    Tab.risingFrom lo ((j, v) :: m) = true ↔ (∀ l, lo = some l → l < j) ∧ Tab.risingFrom (some j) m = true := by
  cases lo <;> simp [Tab.risingFrom]

theorem Tab.risingFrom_mono {m : Tab α} {a b : Option Nat} (h : ∀ l, b = some l → ∃ k, a = some k ∧ l ≤ k)
    (g : Tab.risingFrom a m = true) : Tab.risingFrom b m = true := by
  cases m with
  | nil => rfl
  | cons e m =>
    obtain ⟨j, v⟩ := e
    rw [Tab.risingFrom_cons] at g ⊢
    refine ⟨fun l hl => ?_, g.2⟩
    obtain ⟨k, hk, hle⟩ := h l hl
    exact Nat.lt_of_le_of_lt hle (g.1 k hk)

theorem Tab.risingFrom_put {m : Tab α} {lo : Option Nat} {k : Nat} {v : α} (h : ∀ l, lo = some l → l < k)
    (g : Tab.risingFrom lo m = true) : Tab.risingFrom lo (m.put k v) = true := by
  induction m generalizing lo with
  | nil => simp only [Tab.put]; exact Tab.risingFrom_cons.2 ⟨h, rfl⟩
  | cons e m ih =>
    obtain ⟨j, w⟩ := e
    rw [Tab.risingFrom_cons] at g
    simp only [Tab.put]
    split
    · rename_i hk
      exact Tab.risingFrom_cons.2 ⟨h, Tab.risingFrom_cons.2 ⟨fun l hl => by cases hl; exact hk, g.2⟩⟩
    · split
      · rename_i hk; subst hk; exact Tab.risingFrom_cons.2 ⟨h, g.2⟩
      · rename_i h1 h2
        exact Tab.risingFrom_cons.2 ⟨g.1, ih (fun l hl => by cases hl; omega) g.2⟩

theorem Tab.risingFrom_filter {m : Tab α} {lo : Option Nat} (p : Nat × α → Bool)
    (g : Tab.risingFrom lo m = true) : Tab.risingFrom lo (m.filter p) = true := by
  induction m generalizing lo with
  | nil => rfl
  | cons e m ih =>
    obtain ⟨j, w⟩ := e
    rw [Tab.risingFrom_cons] at g
    by_cases hp : p (j, w) = true
    · rw [List.filter_cons_of_pos hp]
      exact Tab.risingFrom_cons.2 ⟨g.1, ih g.2⟩
    · rw [List.filter_cons_of_neg hp]
      exact Tab.risingFrom_mono (fun l hl => ⟨j, rfl, Nat.le_of_lt (g.1 l hl)⟩) (ih g.2)

theorem Tab.mem_put {m : Tab α} {k : Nat} {v : α} {e : Nat × α} (h : e ∈ m.put k v) : e = (k, v) ∨ e ∈ m := by
  induction m with
  | nil => simpa [Tab.put] using h
  | cons x m ih =>
    obtain ⟨j, w⟩ := x
    simp only [Tab.put] at h
    split at h
    · simpa using h
    · split at h
      · rcases List.mem_cons.1 h with h | h
        · exact .inl h
        · exact .inr (List.mem_cons_of_mem _ h)
      · rcases List.mem_cons.1 h with h | h
        · exact .inr (by simp [h])
        · rcases ih h with h | h
          · exact .inl h
          · exact .inr (List.mem_cons_of_mem _ h)

variable [DecidableEq α]

/-- The canonical form, said of the entries. -/
theorem Tab.wfBy_iff {d : Nat → α} {m : Tab α} :
    Tab.wfBy d m = true ↔ Tab.risingFrom none m = true ∧ ∀ e ∈ m, e.2 ≠ d e.1 := by
  simp [Tab.wfBy]

/-- A write keeps the canonical form. -/
theorem Tab.wfBy_set {d : Nat → α} {m : Tab α} (k : Nat) (v : α) (h : Tab.wfBy d m = true) :
    Tab.wfBy d (m.set (d k) k v) = true := by
  rw [Tab.wfBy_iff] at h ⊢
  unfold Tab.set; split
  · exact ⟨Tab.risingFrom_filter _ h.1, fun e he => h.2 e (List.mem_filter.1 he).1⟩
  · rename_i hv
    refine ⟨Tab.risingFrom_put (fun l hl => by cases hl) h.1, fun e he => ?_⟩
    rcases Tab.mem_put he with rfl | he
    · exact hv
    · exact h.2 e he

/-- Writing a list keeps the canonical form. -/
theorem Tab.wfBy_setManyBy {d : Nat → α} {m : Tab α} (k : Nat) (vs : List α) (h : Tab.wfBy d m = true) :
    Tab.wfBy d (Tab.setManyBy d m k vs) = true := by
  induction vs generalizing m k with
  | nil => exact h
  | cons v vs ih => exact ih (k + 1) (Tab.wfBy_set k v h)

/-- Taking a range of keys out keeps the canonical form. -/
theorem Tab.wfBy_dropRange {d : Nat → α} {m : Tab α} (k n : Nat) (h : Tab.wfBy d m = true) :
    Tab.wfBy d (m.dropRange k n) = true := by
  rw [Tab.wfBy_iff] at h ⊢
  exact ⟨Tab.risingFrom_filter _ h.1, fun e he => h.2 e (List.mem_filter.1 he).1⟩

end Sys2Proof.Machine
end

