-- ==== Sys2Proof/Laws/Kept.lean ====
section
/-! SUPPORT. Laws/Kept.lean: what every shared operation keeps: the commands that wait,
the canonical form of HBM, and a legal control token. One lemma for each operation, in the
form that a chain of operations needs. -/
namespace Sys2Proof.Machine

/-- `t` waits for the same commands as `s`, and keeps the canonical form of HBM and a legal
control token. -/
def State.Kept (s t : State) : Prop :=
  t.pending = s.pending ∧ (hbmWf s = true → hbmWf t = true) ∧ (tokenLegal s → tokenLegal t)

theorem State.Kept.refl (s : State) : s.Kept s := ⟨rfl, id, id⟩

theorem State.Kept.trans {s t u : State} (h : s.Kept t) (g : t.Kept u) : s.Kept u :=
  ⟨g.1.trans h.1, fun x => g.2.1 (h.2.1 x), fun x => g.2.2 (h.2.2 x)⟩

/-- A fold of an operation that keeps them keeps them. -/
theorem State.Kept.foldl {α : Type} {s t : State} {f : State → α → State} {l : List α} (h : s.Kept t)
    (g : ∀ u a, s.Kept u → s.Kept (f u a)) : s.Kept (l.foldl f t) := by
  induction l generalizing t with
  | nil => exact h
  | cons a l ih => exact ih (g t a h)

/-- What has the queue, HBM and the holder of `t` keeps what `t` keeps. -/
theorem State.Kept.same {s t u : State} (h : s.Kept t) (h1 : u.pending = t.pending) (h2 : u.hbm = t.hbm)
    (h3 : u.hbmFill = t.hbmFill) (h4 : u.host.holder = t.host.holder) : s.Kept u := by
  unfold State.Kept hbmWf tokenLegal at *
  rw [h1, h2, h3, h4]; exact h

/-- An empty HBM is in its canonical form, and a token held by nobody is legal. -/
theorem State.Kept.fresh {s t u : State} (h : s.Kept t) (h1 : u.pending = t.pending) (h2 : u.hbm = [])
    (h4 : u.host.holder = t.host.holder ∨ u.host.holder = 0) : s.Kept u := by
  refine ⟨h1.trans h.1, fun _ => by simp [hbmWf, h2, Tab.wfBy, Tab.risingFrom], fun hs => ?_⟩
  have := h.2.2 hs
  unfold tokenLegal at *; omega

/-- A state that comes with an answer. -/
theorem State.Kept.of_fst {α : Type} {s t : State} {p : State × α} {x : α} (h : s.Kept p.1) (e : p = (t, x)) : s.Kept t := by
  subst e; exact h

/-! ## HBM -/

/-- Bytes written to HBM keep its canonical form. -/
theorem State.hbmPut_kept {s t : State} (h : s.Kept t) (a : Nat) (bs : List Byte) : s.Kept (t.hbmPut a bs) := by
  induction bs generalizing t a with
  | nil => exact h
  | cons b bs ih =>
    unfold State.hbmPut
    refine ih ?_ _
    split
    · exact ⟨h.1, fun hs => Tab.wfBy_set _ _ (h.2.1 hs), h.2.2⟩
    · exact h

/-! ## Single parts -/

theorem State.modPort_kept {s t : State} (h : s.Kept t) (p : HostPort) (f : PortSt → PortSt) : s.Kept (t.modPort p f) := by
  cases p <;> exact h

theorem State.modHost_kept {s t : State} (h : s.Kept t) (f : HostSt → HostSt)
    (g : (f t.host).holder = t.host.holder ∨ (f t.host).holder ≤ 2) : s.Kept (t.modHost f) :=
  ⟨h.1, h.2.1, fun hs => by have := h.2.2 hs; unfold tokenLegal State.modHost at *; dsimp only; omega⟩

/-! ## Ops -/

theorem State.setTun_kept {s₀ s : State} (hk : s₀.Kept s) (t : Nat) (x : Tun) : s₀.Kept (s.setTun t x) := by
  exact hk.same rfl rfl rfl rfl

theorem State.modTun_kept {s₀ s : State} (hk : s₀.Kept s) (t : Nat) (f : Tun → Tun) : s₀.Kept (s.modTun t f) := by
  unfold State.modTun
  try dsimp only
  repeat' with_reducible first
    | assumption
    | apply State.setTun_kept

theorem State.modTuns_kept {s₀ s : State} (hk : s₀.Kept s) (p : Nat → Bool) (f : Tun → Tun) : s₀.Kept (s.modTuns p f) := by
  unfold State.modTuns
  refine State.Kept.foldl hk (fun u _ h => ?_)
  split
  · exact State.modTun_kept h _ _
  · exact h

theorem State.modCtl_kept {s₀ s : State} (hk : s₀.Kept s) (n : Nat) (f : HbmCtl → HbmCtl) : s₀.Kept (s.modCtl n f) := by
  exact hk

theorem State.modStream_kept {s₀ s : State} (hk : s₀.Kept s) (k : Nat) (f : Stream → Stream) : s₀.Kept (s.modStream k f) := by
  exact hk

theorem State.modLauter_kept {s₀ s : State} (hk : s₀.Kept s) (u : Nat) (f : Lauter → Lauter) : s₀.Kept (s.modLauter u f) := by
  exact hk

theorem State.modLink_kept {s₀ s : State} (hk : s₀.Kept s) (p : Nat) (f : Link → Link) : s₀.Kept (s.modLink p f) := by
  exact hk

theorem State.modSq_kept {s₀ s : State} (hk : s₀.Kept s) (q : Nat) (f : StreamQ → StreamQ) : s₀.Kept (s.modSq q f) := by
  exact hk

theorem State.modCtx_kept {s₀ s : State} (hk : s₀.Kept s) (c : Nat) (f : Ctx → Ctx) : s₀.Kept (s.modCtx c f) := by
  exact hk

theorem State.modTime_kept {s₀ s : State} (hk : s₀.Kept s) (f : TimeSt → TimeSt) : s₀.Kept (s.modTime f) := by
  exact hk

theorem State.modGrist_kept {s₀ s : State} (hk : s₀.Kept s) (f : GristSt → GristSt) : s₀.Kept (s.modGrist f) := by
  exact hk

theorem State.modCore_kept {s₀ s : State} (hk : s₀.Kept s) (f : Core → Core) : s₀.Kept (s.modCore f) := by
  exact hk

theorem State.modGranary_kept {s₀ s : State} (hk : s₀.Kept s) (f : Granary → Granary) : s₀.Kept (s.modGranary f) := by
  exact hk

theorem State.modCol_kept {s₀ s : State} (hk : s₀.Kept s) (f : Collective → Collective) : s₀.Kept (s.modCol f) := by
  exact hk

theorem State.modPower_kept {s₀ s : State} (hk : s₀.Kept s) (f : Power → Power) : s₀.Kept (s.modPower f) := by
  exact hk

theorem State.modFault_kept {s₀ s : State} (hk : s₀.Kept s) (f : FaultSt → FaultSt) : s₀.Kept (s.modFault f) := by
  exact hk

theorem State.modBook_kept {s₀ s : State} (hk : s₀.Kept s) (f : Book → Book) : s₀.Kept (s.modBook f) := by
  exact hk

theorem State.modHealth_kept {s₀ s : State} (hk : s₀.Kept s) (f : Health → Health) : s₀.Kept (s.modHealth f) := by
  exact hk

theorem State.modSec_kept {s₀ s : State} (hk : s₀.Kept s) (f : Sec → Sec) : s₀.Kept (s.modSec f) := by
  exact hk

theorem State.modJournal_kept {s₀ s : State} (hk : s₀.Kept s) (f : Journal → Journal) : s₀.Kept (s.modJournal f) := by
  exact hk

theorem State.modCu_kept {s₀ s : State} (hk : s₀.Kept s) (f : CatchUp → CatchUp) : s₀.Kept (s.modCu f) := by
  exact hk

theorem State.emit_kept {s₀ s : State} (hk : s₀.Kept s) (o : Output) : s₀.Kept (s.emit o) := by
  exact hk.same rfl rfl rfl rfl

theorem State.useFree_kept {s₀ s : State} (hk : s₀.Kept s) : s₀.Kept (s.useFree) := by
  exact hk.same rfl rfl rfl rfl

theorem State.hwSet_kept {s₀ s : State} (hk : s₀.Kept s) (off n : Nat) : s₀.Kept (s.hwSet off n) := by
  unfold State.hwSet
  try dsimp only
  repeat' with_reducible first
    | assumption
    | apply State.modTime_kept

theorem State.mark_kept {s₀ s : State} (hk : s₀.Kept s) (bit : Nat) : s₀.Kept (s.mark bit) := by
  unfold State.mark
  try dsimp only
  repeat' with_reducible first
    | assumption
    | apply State.modTime_kept
    | apply State.hwSet_kept

theorem State.digInvalid_kept {s₀ s : State} (hk : s₀.Kept s) : s₀.Kept (s.digInvalid) := by
  unfold State.digInvalid
  try dsimp only
  repeat' with_reducible first
    | assumption
    | apply State.modTime_kept
    | apply State.hwSet_kept

theorem State.touchKettle_kept {s₀ s : State} (hk : s₀.Kept s) (k : Nat) : s₀.Kept (s.touchKettle k) := by
  unfold State.touchKettle
  try dsimp only
  repeat' with_reducible first
    | assumption
    | apply State.modPower_kept
    | split

theorem State.raiseIn_kept {s₀ s : State} (hk : s₀.Kept s) (src detail delay : Nat) : s₀.Kept (s.raiseIn src detail delay) := by
  unfold State.raiseIn
  try dsimp only
  repeat' with_reducible first
    | assumption
    | apply State.modFault_kept

theorem State.raise_kept {s₀ s : State} (hk : s₀.Kept s) (src detail : Nat) : s₀.Kept (s.raise src detail) := by
  unfold State.raise
  try dsimp only
  repeat' with_reducible first
    | assumption
    | apply State.raiseIn_kept

theorem State.dropTaint_kept {s₀ s : State} (hk : s₀.Kept s) (x : Taint) : s₀.Kept (s.dropTaint x) := by
  cases x <;> first | exact hk | exact State.burstLatent_kept hk _

theorem State.useTaint_kept {s₀ s : State} (hk : s₀.Kept s) (x : Taint) : s₀.Kept (s.useTaint x) := by
  cases x <;> first | exact hk | exact State.burstUsed_kept hk _ _

theorem State.setPoison_kept {s₀ s : State} (hk : s₀.Kept s) (a : Nat) (b : Bool) : s₀.Kept (s.setPoison a b) := by
  unfold State.setPoison
  try dsimp only
  repeat' with_reducible first
    | assumption
    | split
    | exact hk.same rfl rfl rfl rfl

theorem State.burstUsed_kept {s₀ s : State} (hk : s₀.Kept s) (n l : Nat) : s₀.Kept (s.burstUsed n l) := by
  unfold State.burstUsed
  try dsimp only
  repeat' with_reducible first
    | assumption
    | apply State.modCtl_kept
    | apply State.raise_kept

theorem State.burstLatent_kept {s₀ s : State} (hk : s₀.Kept s) (n : Nat) : s₀.Kept (s.burstLatent n) := by
  unfold State.burstLatent
  try dsimp only
  repeat' with_reducible first
    | assumption
    | apply State.modHealth_kept
    | apply State.raise_kept

theorem State.burstClass_kept {s₀ s : State} (hk : s₀.Kept s) (n : Nat) (u : Use) : s₀.Kept (s.burstClass n u) := by
  cases u
  · exact State.raise_kept hk _ _
  · exact State.burstLatent_kept hk _
  · exact hk

theorem State.eccAt_kept {s₀ s : State} (hk : s₀.Kept s) (n l : Nat) (o : EccOutcome) (src : Nat) (use : Use) : s₀.Kept (s.eccAt n l o src use) := by
  unfold State.eccAt
  try dsimp only
  repeat' with_reducible first
    | assumption
    | apply State.modCtl_kept
    | apply State.raise_kept
    | apply State.modHealth_kept
    | apply State.burstClass_kept
    | split

theorem State.eccRead_kept {s₀ s : State} (hk : s₀.Kept s) (a n : Nat) (e : Ecc) (src : Nat) (use : Use) : s₀.Kept (s.eccRead a n e src use) := by
  unfold State.eccRead
  try dsimp only
  repeat' with_reducible first
    | assumption
    | refine State.Kept.foldl ?_ (fun _ _ _ => ?_)
    | apply State.eccAt_kept
    | split

theorem State.dropFar_kept {s₀ s : State} (hk : s₀.Kept s) (t : Nat) : s₀.Kept (s.dropFar t) := by
  unfold State.dropFar
  try dsimp only
  repeat' with_reducible first
    | assumption
    | refine State.Kept.foldl ?_ (fun _ _ _ => ?_)
    | apply State.dropTaint_kept

/-! ## GranaryOps -/

theorem State.seeLevel_kept {s₀ s : State} (hk : s₀.Kept s) : s₀.Kept (s.seeLevel) := by
  unfold State.seeLevel
  try dsimp only
  repeat' with_reducible first
    | assumption
    | apply State.modGranary_kept

theorem State.charge_kept {s₀ s : State} (hk : s₀.Kept s) (o v n : Nat) : s₀.Kept (s.charge o v n) := by
  unfold State.charge
  try dsimp only
  repeat' with_reducible first
    | assumption
    | apply State.modGranary_kept

theorem State.takeCells_kept {s₀ s : State} (hk : s₀.Kept s) (o v n : Nat) : s₀.Kept (s.takeCells o v n).1 := by
  unfold State.takeCells
  repeat' with_reducible first | assumption | apply State.charge_kept | apply State.modGranary_kept | split

theorem State.giveCells_kept {s₀ s : State} (hk : s₀.Kept s) (o v n : Nat) : s₀.Kept (s.giveCells o v n) := by
  unfold State.giveCells
  try dsimp only
  repeat' with_reducible first
    | assumption
    | apply State.modGranary_kept

theorem State.modResv_kept {s₀ s : State} (hk : s₀.Kept s) (tag : Nat) (f : Reservation → Reservation) : s₀.Kept (s.modResv tag f) := by
  unfold State.modResv
  try dsimp only
  repeat' with_reducible first
    | assumption
    | apply State.modGranary_kept

theorem State.dropResv_kept {s₀ s : State} (hk : s₀.Kept s) (tag : Nat) : s₀.Kept (s.dropResv tag) := by
  unfold State.dropResv
  try dsimp only
  repeat' with_reducible first
    | assumption
    | apply State.modGranary_kept
    | apply State.giveCells_kept
    | split

/-! ## Clock -/

theorem State.sendSlot_kept {s₀ s : State} (hk : s₀.Kept s) (p i : Nat) (flit : Nat → Output) : s₀.Kept (s.sendSlot p i flit) := by
  unfold State.sendSlot
  try dsimp only
  repeat' with_reducible first
    | assumption
    | apply State.modLink_kept
    | apply State.emit_kept

theorem State.modFrame_kept {s₀ s : State} (hk : s₀.Kept s) (id : Nat) (f : Frame → Frame) : s₀.Kept (s.modFrame id f) := by
  unfold State.modFrame
  try dsimp only
  repeat' with_reducible first
    | assumption
    | apply State.modCore_kept

theorem State.modCopy_kept {s₀ s : State} (hk : s₀.Kept s) (id j : Nat) (f : Copy → Copy) : s₀.Kept (s.modCopy id j f) := by
  unfold State.modCopy
  try dsimp only
  repeat' with_reducible first
    | assumption
    | apply State.modFrame_kept

theorem State.corePhase_kept {s₀ s : State} (hk : s₀.Kept s) : s₀.Kept (s.corePhase) := by
  unfold State.corePhase
  try dsimp only
  repeat' with_reducible first
    | assumption
    | apply State.useFree_kept
    | split
    | exact hk.same rfl rfl rfl rfl

theorem State.passCycles_kept {s₀ s : State} (hk : s₀.Kept s) (n : Nat) : s₀.Kept (s.passCycles n) := by
  unfold State.passCycles
  try dsimp only
  repeat' with_reducible first
    | assumption
    | refine State.Kept.foldl ?_ (fun _ _ _ => ?_)
    | apply State.seeLevel_kept
    | apply State.modGranary_kept
    | apply State.modCore_kept
    | split

theorem State.reach_kept {s₀ s : State} (hk : s₀.Kept s) (due : Nat) : s₀.Kept (s.reach due) := by
  unfold State.reach
  split
  · exact hk
  · refine State.modTime_kept ?_ (fun x => { x with ftc := due })
    split
    · exact State.passCycles_kept hk _
    · exact hk

theorem State.after_kept {s₀ s : State} (hk : s₀.Kept s) (due : Nat) : s₀.Kept (s.after due) := by
  unfold State.after
  try dsimp only
  repeat' with_reducible first
    | assumption
    | apply State.reach_kept

theorem State.dwell_kept {s₀ s : State} (hk : s₀.Kept s) (last ticks : Nat) : s₀.Kept (s.dwell last ticks) := by
  unfold State.dwell
  try dsimp only
  repeat' with_reducible first
    | assumption
    | apply State.after_kept
    | split

theorem State.granaryTurn_kept {s₀ s : State} (hk : s₀.Kept s) (turn : Nat) : s₀.Kept (s.granaryTurn turn) := by
  unfold State.granaryTurn
  try dsimp only
  repeat' with_reducible first
    | assumption
    | apply State.reach_kept
    | apply State.modGranary_kept
    | split

theorem State.idleTick_kept {s₀ s : State} (hk : s₀.Kept s) : s₀.Kept (s.idleTick) := by
  unfold State.idleTick
  try dsimp only
  repeat' with_reducible first
    | assumption
    | apply State.reach_kept
    | split

/-! ## TunBase -/

theorem State.closeDigest_kept {s₀ s : State} (hk : s₀.Kept s) (id : Nat) (halted : Bool) : s₀.Kept (s.closeDigest id halted) := by
  unfold State.closeDigest
  try dsimp only
  repeat' with_reducible first
    | assumption
    | apply State.modTime_kept
    | apply State.setTun_kept
    | split

theorem State.digestItem_kept {s₀ s : State} (hk : s₀.Kept s) (id layer : Nat) (e : Entry) : s₀.Kept (s.digestItem id layer e) := by
  unfold State.digestItem
  try dsimp only
  repeat' with_reducible first
    | assumption
    | apply State.closeDigest_kept
    | apply State.modTun_kept
    | split

theorem State.closeStream_kept {s₀ s : State} (hk : s₀.Kept s) (k : Nat) : s₀.Kept (s.closeStream k) := by
  unfold State.closeStream
  exact State.modStream_kept (State.Kept.foldl (State.Kept.foldl hk fun _ _ h => State.dropTaint_kept h _)
    fun _ _ h => State.dropResv_kept h _) _ _

theorem State.cancelRunAhead_kept {s₀ s : State} (hk : s₀.Kept s) (t : Nat) : s₀.Kept (s.cancelRunAhead t) := by
  unfold State.cancelRunAhead
  try dsimp only
  repeat' with_reducible first
    | assumption
    | refine State.Kept.foldl ?_ (fun _ _ _ => ?_)
    | apply State.closeStream_kept
    | split

theorem State.closeStreams_kept {s₀ s : State} (hk : s₀.Kept s) (t : Nat) : s₀.Kept (s.closeStreams t) := by
  unfold State.closeStreams
  try dsimp only
  repeat' with_reducible first
    | assumption
    | refine State.Kept.foldl ?_ (fun _ _ _ => ?_)
    | apply State.closeStream_kept
    | split

theorem State.stopTun_kept {s₀ s : State} (hk : s₀.Kept s) (id : Nat) (ph : TunPhase) (c : Nat) : s₀.Kept (s.stopTun id ph c) := by
  unfold State.stopTun
  try dsimp only
  repeat' with_reducible first
    | assumption
    | apply State.modTun_kept

theorem State.closeBegun_kept {s₀ s : State} (hk : s₀.Kept s) (id : Nat) : s₀.Kept (s.closeBegun id) := by
  unfold State.closeBegun
  try dsimp only
  repeat' with_reducible first
    | assumption
    | apply State.admitted_kept
    | apply State.modCore_kept

theorem State.haltFaultAt_kept {s₀ s : State} (hk : s₀.Kept s) (id c : Nat) : s₀.Kept (s.haltFaultAt id c) := by
  unfold State.haltFaultAt
  try dsimp only
  repeat' with_reducible first
    | assumption
    | apply State.stopTun_kept
    | apply State.digInvalid_kept
    | apply State.cancelRunAhead_kept
    | apply State.closeBegun_kept
    | apply State.closeDigest_kept
    | split

theorem State.haltFault_kept {s₀ s : State} (hk : s₀.Kept s) (id : Nat) : s₀.Kept (s.haltFault id) := by
  unfold State.haltFault
  try dsimp only
  repeat' with_reducible first
    | assumption
    | apply State.haltFaultAt_kept

theorem State.haltSw_kept {s₀ s : State} (hk : s₀.Kept s) (id : Nat) : s₀.Kept (s.haltSw id) := by
  unfold State.haltSw
  try dsimp only
  repeat' with_reducible first
    | assumption
    | apply State.stopTun_kept
    | apply State.cancelRunAhead_kept
    | apply State.closeDigest_kept
    | split

theorem State.slip_kept {s₀ s : State} (hk : s₀.Kept s) (id kind queue end_ : Nat) (pc : Pc) (cycle : Nat) : s₀.Kept (s.slip id kind queue end_ pc cycle) := by
  unfold State.slip
  try dsimp only
  repeat' with_reducible first
    | assumption
    | apply State.modTun_kept
    | apply State.raise_kept
    | apply State.haltFaultAt_kept

theorem State.exceptionAt_kept {s₀ s : State} (hk : s₀.Kept s) (id k kind cause pc c : Nat) : s₀.Kept (s.exceptionAt id k kind cause pc c) := by
  unfold State.exceptionAt
  try dsimp only
  repeat' with_reducible first
    | assumption
    | apply State.modTun_kept
    | apply State.raise_kept
    | apply State.haltFaultAt_kept

theorem State.exception_kept {s₀ s : State} (hk : s₀.Kept s) (id k kind cause pc : Nat) : s₀.Kept (s.exception id k kind cause pc) := by
  unfold State.exception
  try dsimp only
  repeat' with_reducible first
    | assumption
    | apply State.exceptionAt_kept

theorem State.noteWait_kept {s₀ s : State} (hk : s₀.Kept s) (id f c : Nat) : s₀.Kept (s.noteWait id f c) := by
  unfold State.noteWait
  try dsimp only
  repeat' with_reducible first
    | assumption
    | apply State.modTun_kept

theorem State.takeFlag_kept {s₀ s : State} (hk : s₀.Kept s) (id f n : Nat) : s₀.Kept (s.takeFlag id f n) := by
  unfold State.takeFlag
  try dsimp only
  repeat' with_reducible first
    | assumption
    | apply State.modTun_kept
    | apply State.noteWait_kept

theorem State.raiseFlagIn_kept {s₀ s : State} (hk : s₀.Kept s) (id f n pc : Nat) (c : Option Nat) : s₀.Kept (s.raiseFlagIn id f n pc c) := by
  unfold State.raiseFlagIn
  try dsimp only
  repeat' with_reducible first
    | assumption
    | apply State.modTun_kept
    | apply State.noteWait_kept
    | apply State.exceptionAt_kept
    | split

theorem State.raiseFlag_kept {s₀ s : State} (hk : s₀.Kept s) (id f n pc : Nat) : s₀.Kept (s.raiseFlag id f n pc) := by
  unfold State.raiseFlag
  try dsimp only
  repeat' with_reducible first
    | assumption
    | apply State.raiseFlagIn_kept

theorem State.countFlag_kept {s₀ s : State} (hk : s₀.Kept s) (id q n : Nat) : s₀.Kept (s.countFlag id q n) := by
  unfold State.countFlag
  try dsimp only
  repeat' with_reducible first
    | assumption
    | apply State.raiseFlag_kept
    | split

theorem State.bindingFault_kept {s₀ s : State} (hk : s₀.Kept s) (id q kind : Nat) : s₀.Kept (s.bindingFault id q kind) := by
  unfold State.bindingFault
  try dsimp only
  repeat' with_reducible first
    | assumption
    | apply State.raise_kept
    | apply State.haltFault_kept

theorem State.streamFault_kept {s₀ s : State} (hk : s₀.Kept s) (id stream kind : Nat) : s₀.Kept (s.streamFault id stream kind) := by
  unfold State.streamFault
  try dsimp only
  repeat' with_reducible first
    | assumption
    | apply State.raise_kept
    | apply State.haltFault_kept

theorem State.runAheadConflict_kept {s₀ s : State} (hk : s₀.Kept s) (a n : Nat) : s₀.Kept (s.runAheadConflict a n) := by
  unfold State.runAheadConflict
  try dsimp only
  repeat' with_reducible first
    | assumption
    | refine State.Kept.foldl ?_ (fun _ _ _ => ?_)
    | apply State.streamFault_kept
    | split

theorem State.ctlWrite_kept {s₀ s : State} (hk : s₀.Kept s) (a : Nat) (bytes : List Byte) (e : Ecc) (src : Nat)
    (poison : Bool) : s₀.Kept (s.ctlWrite a bytes e src poison) := by
  unfold State.ctlWrite
  dsimp only
  split
  · exact hk
  · exact State.runAheadConflict_kept (State.hbmPut_kept (State.Kept.foldl (State.eccRead_kept hk _ _ _ _ _)
      fun _ _ h => State.setPoison_kept h _ _) _ _) _ _

/-! ## HostBase -/

theorem State.badAccess_kept {s₀ s : State} (hk : s₀.Kept s) (p : HostPort) (b : Nat) : s₀.Kept (s.badAccess p b) := by
  unfold State.badAccess
  try dsimp only
  repeat' with_reducible first
    | assumption
    | apply State.modPort_kept
    | split

theorem State.aerAdvisory_kept {s₀ s : State} (hk : s₀.Kept s) (p : HostPort) (bit : Nat) : s₀.Kept (s.aerAdvisory p bit) := by
  unfold State.aerAdvisory
  try dsimp only
  repeat' with_reducible first
    | assumption
    | apply State.modPort_kept
    | split

theorem State.windowWrite_kept {s₀ s : State} (hk : s₀.Kept s) (p : HostPort) (w : PostedWrite) : s₀.Kept (s.windowWrite p w) := by
  unfold State.windowWrite
  try dsimp only
  repeat' with_reducible first
    | assumption
    | apply State.badAccess_kept
    | apply State.ctlWrite_kept
    | split

theorem State.flushPosted_kept {s₀ s : State} (hk : s₀.Kept s) (p : HostPort) : s₀.Kept (s.flushPosted p) := by
  unfold State.flushPosted
  try dsimp only
  repeat' with_reducible first
    | assumption
    | refine State.Kept.foldl ?_ (fun _ _ _ => ?_)
    | apply State.windowWrite_kept
    | apply State.modPort_kept
    | split

/-- A control-register write keeps what its action keeps. -/
theorem State.hostWrite_kept {s₀ s : State} (hk : s₀.Kept s) (p : HostPort) (off : Nat) (act : State → State)
    (ha : ∀ u, s₀.Kept u → s₀.Kept (act u)) : s₀.Kept (s.hostWrite p off act) := by
  unfold State.hostWrite
  have hk := State.flushPosted_kept hk p
  dsimp only
  generalize s.flushPosted p = s at hk ⊢
  repeat' with_reducible first
    | assumption
    | apply State.badAccess_kept
    | apply ha
    | apply State.touchKettle_kept
    | split

theorem State.pairWrite_kept {s₀ s : State} (hk : s₀.Kept s) (p : HostPort) (lo : Nat) (high : Bool) (v : Word) (cur : DWord)
    (act : DWord → State → State) (ha : ∀ d u, s₀.Kept u → s₀.Kept (act d u)) : s₀.Kept (s.pairWrite p lo high v cur act) := by
  unfold State.pairWrite
  dsimp only
  split
  · exact State.modPort_kept hk _ _
  · exact ha _ _ (State.modPort_kept hk _ _)

theorem State.signal_kept {s₀ s : State} (hk : s₀.Kept s) (p : HostPort) (v : Nat) : s₀.Kept (s.signal p v) := by
  unfold State.signal
  try dsimp only
  repeat' with_reducible first
    | assumption
    | apply State.modPort_kept
    | apply State.emit_kept
    | split

theorem State.signalBoth_kept {s₀ s : State} (hk : s₀.Kept s) (v : Nat) : s₀.Kept (s.signalBoth v) := by
  unfold State.signalBoth
  try dsimp only
  repeat' with_reducible first
    | assumption
    | apply State.signal_kept

theorem State.flushVector_kept {s₀ s : State} (hk : s₀.Kept s) (p : HostPort) (v : Nat) : s₀.Kept (s.flushVector p v) := by
  unfold State.flushVector
  try dsimp only
  repeat' with_reducible first
    | assumption
    | apply State.modPort_kept
    | apply State.signal_kept
    | split

theorem State.sendWrite_kept {s₀ s : State} (hk : s₀.Kept s) (p : HostPort) (addr : Nat) (bytes : List Byte) (relaxed : Bool) : s₀.Kept (s.sendWrite p addr bytes relaxed) := by
  unfold State.sendWrite
  try dsimp only
  repeat' with_reducible first
    | assumption
    | refine State.Kept.foldl ?_ (fun _ _ _ => ?_)
    | apply State.emit_kept

/-! ## Frames -/

theorem State.source_kept {s₀ s : State} (hk : s₀.Kept s) (f : SrcFrame) : s₀.Kept (s.source f) := by
  unfold State.source
  try dsimp only
  repeat' with_reducible first
    | assumption
    | refine State.Kept.foldl ?_ (fun _ _ _ => ?_)
    | apply State.modCore_kept
    | apply State.modGranary_kept
    | split

theorem State.settleHeld_kept {s₀ s : State} (hk : s₀.Kept s) : s₀.Kept (s.settleHeld) := by
  unfold State.settleHeld
  try dsimp only
  repeat' with_reducible first
    | assumption
    | refine State.Kept.foldl ?_ (fun _ _ _ => ?_)
    | apply State.modCore_kept

theorem State.thaw_kept {s₀ s : State} (hk : s₀.Kept s) : s₀.Kept (s.thaw) := by
  unfold State.thaw
  try dsimp only
  repeat' with_reducible first
    | assumption
    | apply State.modGrist_kept
    | apply State.settleHeld_kept

theorem State.releaseDue_kept {s₀ s : State} (hk : s₀.Kept s) : s₀.Kept (s.releaseDue) := by
  unfold State.releaseDue
  try dsimp only
  repeat' with_reducible first
    | assumption
    | apply State.thaw_kept
    | split

/-! ## Maltings -/

theorem State.countVerdict_kept {s₀ s : State} (hk : s₀.Kept s) (p fld : Nat) : s₀.Kept (s.countVerdict p fld) := by
  unfold State.countVerdict
  try dsimp only
  repeat' with_reducible first
    | assumption
    | apply State.modCore_kept

theorem State.seeDepth_kept {s₀ s : State} (hk : s₀.Kept s) (ps : List Nat) : s₀.Kept (s.seeDepth ps) := by
  unfold State.seeDepth
  try dsimp only
  repeat' with_reducible first
    | assumption
    | refine State.Kept.foldl ?_ (fun _ _ _ => ?_)
    | apply State.modCore_kept

theorem State.rxSettle_kept {s₀ s : State} (hk : s₀.Kept s) (p v : Nat) : s₀.Kept (s.rxSettle p v) := by
  unfold State.rxSettle
  try dsimp only
  repeat' with_reducible first
    | assumption
    | refine State.Kept.foldl ?_ (fun _ _ _ => ?_)
    | apply State.admitted_kept
    | apply State.modLink_kept

theorem State.rxDrop_kept {s₀ s : State} (hk : s₀.Kept s) (p id : Nat) : s₀.Kept (s.rxDrop p id) := by
  unfold State.rxDrop
  try dsimp only
  repeat' with_reducible first
    | assumption
    | refine State.Kept.foldl ?_ (fun _ _ _ => ?_)
    | apply State.modLink_kept
    | apply State.rxSettle_kept

theorem State.bindingLeave_kept {s₀ s : State} (hk : s₀.Kept s) (t q len : Nat) (tile : Bool) : s₀.Kept (s.bindingLeave t q len tile) := by
  unfold State.bindingLeave
  try dsimp only
  repeat' with_reducible first
    | assumption
    | apply State.modTun_kept
    | apply State.countFlag_kept
    | split

theorem State.opFrame_kept {s₀ s : State} (hk : s₀.Kept s) (qi : Option (Nat × Nat)) (fail : Nat) : s₀.Kept (s.opFrame qi fail) := by
  unfold State.opFrame
  try dsimp only
  repeat' with_reducible first
    | assumption
    | apply State.modSq_kept
    | split

theorem State.opFrameDone_kept {s₀ s : State} (hk : s₀.Kept s) (id fail : Nat) : s₀.Kept (s.opFrameDone id fail) := by
  unfold State.opFrameDone
  try dsimp only
  repeat' with_reducible first
    | assumption
    | apply State.opFrame_kept
    | apply State.modFrame_kept

theorem State.sample_kept {s₀ s : State} (hk : s₀.Kept s) (p : Nat) (arrived : Header) (egress vc flags : Nat) : s₀.Kept (s.sample p arrived egress vc flags) := by
  unfold State.sample
  try dsimp only
  repeat' with_reducible first
    | assumption
    | apply State.modCore_kept
    | split

theorem State.headerError_kept {s₀ s : State} (hk : s₀.Kept s) (p cause : Nat) : s₀.Kept (s.headerError p cause) := by
  unfold State.headerError
  try dsimp only
  repeat' with_reducible first
    | assumption
    | apply State.countVerdict_kept
    | apply State.modCore_kept
    | apply State.raise_kept

theorem State.addCopy_kept {s₀ s : State} (hk : s₀.Kept s) (id : Nat) (c : Copy) : s₀.Kept (s.addCopy id c) := by
  unfold State.addCopy
  try dsimp only
  repeat' with_reducible first
    | assumption
    | apply State.countVerdict_kept
    | apply State.modCore_kept
    | apply State.modFrame_kept
    | split

theorem State.lookupFrame_kept {s₀ s : State} (hk : s₀.Kept s) (f : Frame) : s₀.Kept (s.lookupFrame f) := by
  unfold State.lookupFrame
  try dsimp only
  repeat' with_reducible first
    | assumption
    | refine State.Kept.foldl ?_ (fun _ _ _ => ?_)
    | apply State.modFrame_kept
    | apply State.headerError_kept
    | apply State.sample_kept
    | apply State.addCopy_kept
    | apply State.seeDepth_kept
    | split

theorem State.freeFrame_kept {s₀ s : State} (hk : s₀.Kept s) (id : Nat) : s₀.Kept (s.freeFrame id) := by
  unfold State.freeFrame
  try dsimp only
  repeat' with_reducible first
    | assumption
    | apply State.opFrame_kept
    | apply State.modCore_kept
    | apply State.dropResv_kept
    | apply State.admitted_kept
    | apply State.granaryTurn_kept
    | apply State.giveCells_kept
    | apply State.rxDrop_kept
    | split

theorem State.freeIfDone_kept {s₀ s : State} (hk : s₀.Kept s) (id : Nat) : s₀.Kept (s.freeIfDone id) := by
  unfold State.freeIfDone
  try dsimp only
  repeat' with_reducible first
    | assumption
    | apply State.freeFrame_kept
    | split

theorem State.refuseFrame_kept {s₀ s : State} (hk : s₀.Kept s) (f : Frame) (cause : Nat) : s₀.Kept (s.refuseFrame f cause) := by
  unfold State.refuseFrame
  try dsimp only
  repeat' with_reducible first
    | assumption
    | apply State.bindingLeave_kept
    | apply State.opFrame_kept
    | apply State.headerError_kept
    | apply State.sample_kept
    | apply State.modCore_kept
    | apply State.rxDrop_kept
    | split

theorem State.enterFrame_kept {s₀ s : State} (hk : s₀.Kept s) (f : Frame) : s₀.Kept (s.enterFrame f) := by
  unfold State.enterFrame
  try dsimp only
  repeat' with_reducible first
    | assumption
    | apply State.modCore_kept

theorem State.linkIngress_kept {s₀ s : State} (hk : s₀.Kept s) (p : Nat) : s₀.Kept (s.linkIngress p) := by
  unfold State.linkIngress
  try dsimp only
  repeat' with_reducible first
    | assumption
    | refine State.Kept.foldl ?_ (fun _ _ _ => ?_)
    | apply State.modLink_kept
    | apply State.enterFrame_kept
    | split

theorem State.innerIngress_kept {s₀ s : State} (hk : s₀.Kept s) (p : Nat) : s₀.Kept (s.innerIngress p) := by
  unfold State.innerIngress
  try dsimp only
  repeat' with_reducible first
    | assumption
    | apply State.modCore_kept
    | apply State.enterFrame_kept
    | split

theorem State.useResv_kept {s₀ s : State} (hk : s₀.Kept s) (f : Frame) : s₀.Kept (s.useResv f) := by
  unfold State.useResv
  try dsimp only
  repeat' with_reducible first
    | assumption
    | apply State.modCtx_kept
    | apply State.modCol_kept
    | split

theorem State.admitted_kept {s₀ s : State} (hk : s₀.Kept s) (f : Frame) : s₀.Kept (s.admitted f) := by
  unfold State.admitted
  try dsimp only
  repeat' with_reducible first
    | assumption
    | refine State.Kept.foldl ?_ (fun _ _ _ => ?_)
    | apply State.useResv_kept
    | apply State.modFrame_kept
    | apply State.bindingLeave_kept
    | apply State.rxSettle_kept
    | apply State.seeDepth_kept
    | split

theorem State.granaryParity_kept {s₀ s : State} (hk : s₀.Kept s) (parity : Bool) : s₀.Kept (s.granaryParity parity) := by
  unfold State.granaryParity
  try dsimp only
  repeat' with_reducible first
    | assumption
    | apply State.raise_kept
    | split

theorem State.resend_kept {s₀ s : State} (hk : s₀.Kept s) (p i num : Nat) (flit : List Byte) : s₀.Kept (s.resend p i num flit) := by
  unfold State.resend
  try dsimp only
  repeat' with_reducible first
    | assumption
    | apply State.modLink_kept
    | apply State.sendSlot_kept
    | apply State.modHealth_kept
    | apply State.raise_kept

theorem State.sendFlit_kept {s₀ s : State} (hk : s₀.Kept s) (p : Nat) (flit : List Byte) : s₀.Kept (s.sendFlit p flit) := by
  unfold State.sendFlit
  try dsimp only
  repeat' with_reducible first
    | assumption
    | apply State.modLink_kept
    | apply State.sendSlot_kept

theorem State.dataFlit_kept {s₀ s : State} (hk : s₀.Kept s) (p v : Nat) (sof isEnd : Bool) (bs : List Byte) : s₀.Kept (s.dataFlit p v sof isEnd bs) := by
  unfold State.dataFlit
  try dsimp only
  repeat' with_reducible first
    | assumption
    | apply State.modLink_kept

theorem State.fillFlits_kept {s₀ : State} (p v : Nat) (n : Nat) (s : State) (sof : Bool) (bs : List Byte) (hk : s₀.Kept s) :
    s₀.Kept (s.fillFlits p v n sof bs).1 := by
  induction n generalizing s sof bs with
  | zero => exact hk
  | succ n ih =>
    unfold State.fillFlits
    split
    · exact hk
    · exact ih _ _ _ (State.dataFlit_kept hk _ _ _ _ _)

theorem State.drainTx_kept {s₀ : State} (p n : Nat) (s : State) (hk : s₀.Kept s) : s₀.Kept (s.drainTx p n) := by
  induction n generalizing s with
  | zero => exact hk
  | succ n ih =>
    unfold State.drainTx
    dsimp only
    repeat' with_reducible first
      | assumption
      | apply ih
      | apply State.resend_kept
      | apply State.sendFlit_kept
      | split

theorem State.sendBytes_kept {s₀ s : State} (hk : s₀.Kept s) (p v : Nat) (bs : List Byte) (last : Bool) :
    s₀.Kept (s.sendBytes p v bs last) := by
  unfold State.sendBytes
  dsimp only
  refine State.drainTx_kept _ _ _ (State.modLink_kept ?_ _ _)
  split
  · exact State.dataFlit_kept (State.fillFlits_kept _ _ _ _ _ _ hk) _ _ _ _ _
  · exact State.fillFlits_kept _ _ _ _ _ _ hk

theorem State.copyOut_kept {s₀ s : State} (hk : s₀.Kept s) (p : Nat) (f : Frame) (j : Nat) (c : Copy) : s₀.Kept (s.copyOut p f j c) := by
  unfold State.copyOut
  try dsimp only
  repeat' with_reducible first
    | assumption
    | apply State.modCore_kept
    | apply State.modCopy_kept
    | split

theorem State.sendCell_kept {s₀ s : State} (hk : s₀.Kept s) (p v : Nat) : s₀.Kept (s.sendCell p v) := by
  unfold State.sendCell
  try dsimp only
  repeat' with_reducible first
    | assumption
    | apply State.modCore_kept
    | apply State.modLink_kept
    | apply State.sendBytes_kept
    | apply State.modCopy_kept
    | apply State.countVerdict_kept
    | apply State.copyOut_kept
    | split

theorem State.dropRef_kept {s₀ s : State} (hk : s₀.Kept s) (id : Nat) : s₀.Kept (s.dropRef id) := by
  unfold State.dropRef
  try dsimp only
  repeat' with_reducible first
    | assumption
    | apply State.modFrame_kept
    | apply State.freeIfDone_kept

theorem State.dropHold_kept {s₀ s : State} (hk : s₀.Kept s) (id : Nat) : s₀.Kept (s.dropHold id) := by
  unfold State.dropHold
  try dsimp only
  repeat' with_reducible first
    | assumption
    | apply State.modFrame_kept
    | apply State.dropRef_kept
    | split

theorem State.taken_kept {s₀ s : State} (hk : s₀.Kept s) (x : InFrame) : s₀.Kept (s.taken x) := by
  unfold State.taken
  try dsimp only
  repeat' with_reducible first
    | assumption
    | apply State.modCore_kept
    | apply State.modCopy_kept

theorem State.discardEgress_kept {s₀ s : State} (hk : s₀.Kept s) (p : Nat) : s₀.Kept (s.discardEgress p) := by
  unfold State.discardEgress
  try dsimp only
  repeat' with_reducible first
    | assumption
    | refine State.Kept.foldl ?_ (fun _ _ _ => ?_)
    | apply State.countVerdict_kept
    | apply State.modCore_kept

theorem State.cutIngress_kept {s₀ s : State} (hk : s₀.Kept s) (p : Nat) : s₀.Kept (s.cutIngress p) := by
  unfold State.cutIngress
  try dsimp only
  repeat' with_reducible first
    | assumption
    | apply State.modCore_kept

theorem State.drr_kept {s₀ : State} (p : Nat) (n : Nat) (s : State) (hk : s₀.Kept s) : s₀.Kept (s.drr p n).1 := by
  induction n generalizing s with
  | zero => exact hk
  | succ n ih =>
    unfold State.drr
    split
    · exact hk
    · split
      · exact hk
      · exact ih _ (State.modCore_kept hk _)
      · exact ih _ (State.modCore_kept hk _)

theorem State.cutSource_kept {s₀ s : State} (hk : s₀.Kept s) (p : Nat) (own : Option (Nat × Nat) → Bool) : s₀.Kept (s.cutSource p own) := by
  unfold State.cutSource
  try dsimp only
  repeat' with_reducible first
    | assumption
    | apply State.modCore_kept

/-! ## Groups -/

theorem State.dropHeld_kept {s₀ s : State} (hk : s₀.Kept s) (x : HeldResult) : s₀.Kept (s.dropHeld x) := by
  unfold State.dropHeld
  try dsimp only
  repeat' with_reducible first
    | assumption
    | refine State.Kept.foldl ?_ (fun _ _ _ => ?_)
    | apply State.dropHold_kept
    | apply State.giveCells_kept
    | split

theorem State.resultDone_kept {s₀ s : State} (hk : s₀.Kept s) (r : GroupRec) (x : HeldResult) (p : SrcPlace) : s₀.Kept (s.resultDone r x p) := by
  unfold State.resultDone
  try dsimp only
  repeat' with_reducible first
    | assumption
    | refine State.Kept.foldl ?_ (fun _ _ _ => ?_)
    | apply State.dropHeld_kept
    | apply State.modCol_kept

theorem State.deliverResults_kept {s₀ : State} (r : GroupRec) (n : Nat) (s : State) (hk : s₀.Kept s) :
    s₀.Kept (s.deliverResults r n) := by
  induction n generalizing s with
  | zero => exact hk
  | succ n ih =>
    unfold State.deliverResults
    split
    · exact hk
    · dsimp only
      split
      · exact ih _ (State.Kept.foldl (State.resultDone_kept hk _ _ _) fun _ _ h => State.bindingFault_kept h _ _ _)
      · split
        · exact ih _ (State.resultDone_kept
            (State.Kept.foldl hk fun _ _ h => State.modCol_kept (State.modTun_kept h _ _) _) _ _ _)
        · exact State.Kept.foldl hk fun _ _ h => State.modCol_kept (State.modTun_kept h _ _) _

theorem State.resultRefill_kept {s₀ s : State} (hk : s₀.Kept s) (t q : Nat) : s₀.Kept (s.resultRefill t q) := by
  unfold State.resultRefill
  dsimp only
  split
  · exact hk
  · split
    · exact hk
    · exact State.deliverResults_kept _ _ _ hk

/-! ## Flags -/

theorem State.setLtrFlags_kept {s₀ s : State} (hk : s₀.Kept s) (u flags : Nat) : s₀.Kept (s.setLtrFlags u flags) := by
  unfold State.setLtrFlags
  try dsimp only
  repeat' with_reducible first
    | assumption
    | apply State.modLauter_kept

/-! ## TunIssue -/

theorem State.crossOne_kept {s₀ s : State} (hk : s₀.Kept s) (x : Nat) : s₀.Kept (s.crossOne x) := by
  unfold State.crossOne
  try dsimp only
  repeat' with_reducible first
    | assumption
    | apply State.bindingFault_kept
    | apply State.modTun_kept
    | apply State.countFlag_kept
    | split
    | exact hk.same rfl rfl rfl rfl

theorem State.crossPush_kept {s₀ s : State} (hk : s₀.Kept s) (t q : Nat) : s₀.Kept (s.crossPush t q) := by
  unfold State.crossPush
  try dsimp only
  repeat' with_reducible first
    | assumption
    | apply State.modTun_kept
    | apply State.countFlag_kept
    | split
    | exact hk.same rfl rfl rfl rfl

theorem State.crossDue_kept {s₀ s : State} (hk : s₀.Kept s) (id x : Nat) : s₀.Kept (s.crossDue id x) := by
  unfold State.crossDue
  try dsimp only
  repeat' with_reducible first
    | assumption
    | apply State.crossPush_kept
    | apply State.crossOne_kept
    | split

theorem State.crossingsDue_kept {s₀ s : State} (hk : s₀.Kept s) (id : Nat) : s₀.Kept (s.crossingsDue id) := by
  unfold State.crossingsDue
  try dsimp only
  repeat' with_reducible first
    | assumption
    | refine State.Kept.foldl ?_ (fun _ _ _ => ?_)
    | apply State.crossDue_kept
    | split

theorem State.begin__kept {s₀ s : State} (hk : s₀.Kept s) (id : Nat) (x : Slot) : s₀.Kept (s.begin_ id x) := by
  unfold State.begin_
  try dsimp only
  repeat' with_reducible first
    | assumption
    | apply State.reach_kept
    | apply State.crossingsDue_kept
    | apply State.modTun_kept

theorem State.finish_kept {s₀ s : State} (hk : s₀.Kept s) (id : Nat) : s₀.Kept (s.finish id) := by
  unfold State.finish
  try dsimp only
  repeat' with_reducible first
    | assumption
    | apply State.setTun_kept
    | apply State.closeDigest_kept
    | split

theorem State.issue_kept {s₀ s : State} (hk : s₀.Kept s) (id op : Nat) (body : State → Slot → Nat → State)
    (hb : ∀ u x n, s₀.Kept u → s₀.Kept (body u x n)) : s₀.Kept (s.issue id op body) := by
  unfold State.issue
  split
  · exact hk
  · next x _ =>
    extract_lets t imm s1 s2
    have h1 : s₀.Kept s1 := State.modTun_kept (State.begin__kept hk _ _) _ _
    have h2 : s₀.Kept s2 := by
      unfold s2
      split
      · exact State.exception_kept h1 _ _ _ _ _
      · split
        · exact State.exception_kept h1 _ _ _ _ _
        · exact hb _ _ _ h1
    split
    · exact h2
    · exact State.finish_kept h2 _

theorem State.slipEmpty_kept {s₀ s : State} (hk : s₀.Kept s) (id : Nat) (x : Slot) : s₀.Kept (s.slipEmpty id x) := by
  unfold State.slipEmpty
  try dsimp only
  repeat' with_reducible first
    | assumption
    | apply State.slip_kept

theorem State.slipRes_kept {s₀ s : State} (hk : s₀.Kept s) (id : Nat) (x : Slot) (r : Nat) : s₀.Kept (s.slipRes id x r) := by
  unfold State.slipRes
  try dsimp only
  repeat' with_reducible first
    | assumption
    | apply State.slip_kept

theorem State.fly_kept {s₀ s : State} (hk : s₀.Kept s) (id : Nat) (x : Slot) (lat : Nat) (e : Effect) (flags : Nat) : s₀.Kept (s.fly id x lat e flags) := by
  unfold State.fly
  try dsimp only
  repeat' with_reducible first
    | assumption
    | apply State.modTun_kept

theorem State.pushEntry_kept {s₀ s : State} (hk : s₀.Kept s) (id q dst : Nat) (e : Entry) (pc : Pc) (u : Nat) : s₀.Kept (s.pushEntry id q dst e pc u) := by
  unfold State.pushEntry
  try dsimp only
  repeat' with_reducible first
    | assumption
    | apply State.streamFault_kept
    | apply State.modTun_kept
    | apply State.slip_kept
    | split

theorem State.tunWord_kept {s₀ s : State} (hk : s₀.Kept s) (id a : Nat) (o : EccOutcome) : s₀.Kept (s.tunWord id a o).1 := by
  unfold State.tunWord
  split
  · exact State.raise_kept (State.modHealth_kept (State.modTun_kept hk _ _) _) _ _
  · exact State.modTun_kept hk _ _
  · exact hk

theorem State.tunEcc_kept {s₀ s : State} (hk : s₀.Kept s) (id a : Nat) (sel : Nat → Bool) (e : Ecc) :
    s₀.Kept (s.tunEcc id a sel e).1 := by
  have h : ∀ (l : Ecc) (acc : State × Bool), s₀.Kept acc.1 → s₀.Kept (l.foldl (fun acc x =>
      if !sel x.1 then acc else
      let (s, bad) := acc.1.tunWord id (a + 8 * x.1) x.2
      (s, acc.2 || bad)) acc).1 := by
    intro l
    induction l with
    | nil => exact fun _ h => h
    | cons x l ih =>
      intro acc h
      rw [List.foldl_cons]
      refine ih _ ?_
      dsimp only
      split
      · exact h
      · exact State.tunWord_kept h _ _ _
  exact h _ _ hk

theorem State.tunMemFault_kept {s₀ s : State} (hk : s₀.Kept s) (id : Nat) : s₀.Kept (s.tunMemFault id) := by
  unfold State.tunMemFault
  try dsimp only
  repeat' with_reducible first
    | assumption
    | apply State.raise_kept
    | apply State.haltFault_kept

theorem State.landEffect_kept {s₀ s : State} (hk : s₀.Kept s) (id : Nat) (f : InFlight) : s₀.Kept (s.landEffect id f) := by
  unfold State.landEffect
  try dsimp only
  repeat' with_reducible first
    | assumption
    | refine State.Kept.foldl ?_ (fun _ _ _ => ?_)
    | apply State.pushEntry_kept
    | apply State.modTun_kept
    | apply State.raise_kept
    | apply State.raiseFlagIn_kept
    | split

theorem State.landFirst_kept {s₀ s : State} (hk : s₀.Kept s) (id : Nat) : s₀.Kept (s.landFirst id) := by
  unfold State.landFirst
  dsimp only
  split
  · exact hk
  · split
    · have h := State.tunEcc_kept (State.modTun_kept hk id (fun u => (u.atCycle (InFlight.land ‹_›)).setArith (InFlight.flags ‹_›)))
        id (‹Nat› / 64 * 64) inEntry ‹Ecc›
      split
      · exact State.tunMemFault_kept (State.modTun_kept h _ _) _
      · exact State.modTun_kept h _ _
    · exact State.landEffect_kept (State.modTun_kept (State.modTun_kept hk _ _) _ _) _ _

theorem State.drain_kept {s₀ s : State} (hk : s₀.Kept s) (id : Nat) : s₀.Kept (s.drain id) := by
  unfold State.drain
  try dsimp only
  repeat' with_reducible first
    | assumption
    | refine State.Kept.foldl ?_ (fun _ _ _ => ?_)
    | apply State.landFirst_kept

/-! ## TunLoad -/

theorem State.tunRefuse_kept {s₀ s : State} (hk : s₀.Kept s) (t : Nat) : s₀.Kept (s.tunRefuse t) := by
  unfold State.tunRefuse
  try dsimp only
  repeat' with_reducible first
    | assumption
    | apply State.modTun_kept

theorem State.loadBegin_kept {s₀ s : State} (hk : s₀.Kept s) (t : Nat) : s₀.Kept (s.loadBegin t) := by
  unfold State.loadBegin
  try dsimp only
  repeat' with_reducible first
    | assumption
    | apply State.tunRefuse_kept
    | apply State.drain_kept
    | apply State.modTun_kept
    | apply State.closeDigest_kept
    | apply State.cancelRunAhead_kept
    | split

theorem State.loadMark_kept {s₀ s : State} (hk : s₀.Kept s) (l : Nat) : s₀.Kept (s.loadMark l) := by
  unfold State.loadMark
  try dsimp only
  repeat' with_reducible first
    | assumption
    | apply State.modCtl_kept
    | split

theorem State.loadEnd_kept {s₀ s : State} (hk : s₀.Kept s) (t : Nat) (e : Ecc) : s₀.Kept (s.loadEnd t e) := by
  unfold State.loadEnd
  try dsimp only
  repeat' with_reducible first
    | assumption
    | refine State.Kept.foldl ?_ (fun _ _ _ => ?_)
    | apply State.modTun_kept
    | apply State.eccRead_kept
    | apply State.loadMark_kept
    | split

theorem State.armLaunch_kept {s₀ s : State} (hk : s₀.Kept s) (t : Nat) : s₀.Kept (s.armLaunch t) := by
  unfold State.armLaunch
  try dsimp only
  repeat' with_reducible first
    | assumption
    | apply State.modTun_kept
    | apply State.tunRefuse_kept
    | split

theorem State.tunHaltCmd_kept {s₀ s : State} (hk : s₀.Kept s) (t : Nat) : s₀.Kept (s.tunHaltCmd t) := by
  unfold State.tunHaltCmd
  try dsimp only
  repeat' with_reducible first
    | assumption
    | apply State.modTun_kept
    | apply State.haltSw_kept
    | apply State.tunRefuse_kept
    | split

theorem State.dropCrossings_kept {s₀ s : State} (hk : s₀.Kept s) (t : Nat) : s₀.Kept (s.dropCrossings t) := by
  exact hk.same rfl rfl rfl rfl

theorem State.tunClearCmd_kept {s₀ s : State} (hk : s₀.Kept s) (t : Nat) : s₀.Kept (s.tunClearCmd t) := by
  unfold State.tunClearCmd
  try dsimp only
  repeat' with_reducible first
    | assumption
    | apply State.tunRefuse_kept
    | apply State.drain_kept
    | apply State.dropFar_kept
    | apply State.closeDigest_kept
    | apply State.closeStreams_kept
    | apply State.dropCrossings_kept
    | apply State.modTun_kept
    | split

theorem State.tunFlagSet_kept {s₀ s : State} (hk : s₀.Kept s) (t f v : Nat) : s₀.Kept (s.tunFlagSet t f v) := by
  unfold State.tunFlagSet
  try dsimp only
  repeat' with_reducible first
    | assumption
    | apply State.modTun_kept
    | apply State.tunRefuse_kept
    | split

theorem State.latchStream_kept {s₀ s : State} (hk : s₀.Kept s) (t b : Nat) : s₀.Kept (s.latchStream t b) := by
  unfold State.latchStream
  try dsimp only
  repeat' with_reducible first
    | assumption
    | apply State.streamFault_kept
    | apply State.closeStream_kept
    | apply State.modStream_kept
    | split

theorem State.refill_kept {s₀ s : State} (hk : s₀.Kept s) (t q : Nat) : s₀.Kept (s.refill t q) := by
  unfold State.refill
  try dsimp only
  repeat' with_reducible first
    | assumption
    | apply State.modTun_kept
    | apply State.modStream_kept
    | split

/-- Replacing a part that is neither the queue, HBM nor the host block keeps them. -/
theorem State.crossings_kept {s₀ s : State} (hk : s₀.Kept s) (c : Tab (List Crossed)) : s₀.Kept { s with crossings := c } :=
  hk.same rfl rfl rfl rfl

@[inherit_doc State.crossings_kept]
theorem State.hbmMode_kept {s₀ s : State} (hk : s₀.Kept s) (w : Word) : s₀.Kept { s with hbmMode := w } :=
  hk.same rfl rfl rfl rfl

@[inherit_doc State.crossings_kept]
theorem State.streams_kept {s₀ s : State} (hk : s₀.Kept s) (x : Tab Stream) : s₀.Kept { s with streams := x } :=
  hk.same rfl rfl rfl rfl

@[inherit_doc State.crossings_kept]
theorem State.lauters_kept {s₀ s : State} (hk : s₀.Kept s) (x : Tab Lauter) : s₀.Kept { s with lauters := x } :=
  hk.same rfl rfl rfl rfl

theorem State.portTransfer_kept {s₀ s : State} (hk : s₀.Kept s) (t q : Nat) : s₀.Kept (s.portTransfer t q) := by
  unfold State.portTransfer
  extract_lets b s1 x
  have h1 : s₀.Kept s1 := State.resultRefill_kept (State.refill_kept hk _ _) _ _
  split
  · split
    · exact h1
    · split
      · exact h1
      · split
        · exact State.bindingFault_kept (State.useTaint_kept (State.modTun_kept h1 _ _) _) _ _ _
        · exact State.countFlag_kept (State.modTun_kept h1 _ _) _ _ _
  · split
    · exact h1
    · split
      · exact State.crossPush_kept h1 _ _
      · split
        · exact State.modTun_kept h1 _ _
        · split
          · exact State.countFlag_kept (State.modTun_kept h1 _ _) _ _ _
          · exact h1

/-! ## Streams -/

theorem State.rangeFault_kept {s₀ s : State} (hk : s₀.Kept s) (k : Nat) : s₀.Kept (s.rangeFault k) := by
  unfold State.rangeFault
  try dsimp only
  repeat' with_reducible first
    | assumption
    | apply State.closeStream_kept
    | apply State.streamFault_kept

theorem State.intoStore_kept {s₀ : State} (k n : Nat) (s : State) (hk : s₀.Kept s) : s₀.Kept (s.intoStore k n) := by
  induction n generalizing s with
  | zero => exact hk
  | succ n ih =>
    unfold State.intoStore
    dsimp only
    split
    · exact hk
    · exact ih _ (State.modStream_kept hk _ _)

theorem State.streamEntries_kept {s₀ s : State} (hk : s₀.Kept s) (k n : Nat) (es : List Entry) (t : Taint) : s₀.Kept (s.streamEntries k n es t) := by
  unfold State.streamEntries
  try dsimp only
  repeat' with_reducible first
    | assumption
    | apply State.modStream_kept
    | apply State.intoStore_kept
    | apply State.refill_kept

theorem State.streamData_kept {s₀ s : State} (hk : s₀.Kept s) (k n : Nat) (bytes : List Byte) (t : Taint) : s₀.Kept (s.streamData k n bytes t) := by
  unfold State.streamData
  try dsimp only
  repeat' with_reducible first
    | assumption
    | apply State.streamEntries_kept
    | apply State.modStream_kept
    | apply State.closeStream_kept
    | apply State.bindingFault_kept
    | split

theorem State.streamArrives_kept {s₀ s : State} (hk : s₀.Kept s) (k : Nat) (r : StreamRead) (bytes : List Byte) (t : Taint) : s₀.Kept (s.streamArrives k r bytes t) := by
  unfold State.streamArrives
  try dsimp only
  repeat' with_reducible first
    | assumption
    | apply State.modStream_kept
    | apply State.streamData_kept
    | split

theorem State.reserve_kept {s₀ s : State} (hk : s₀.Kept s) (p len : Nat) (r : Reservation) :
    s₀.Kept (s.reserve p len r).1 := by
  unfold State.reserve
  dsimp only
  split
  · exact State.granaryTurn_kept hk _
  · split
    · exact State.takeCells_kept (State.granaryTurn_kept hk _) _ _ _
    · exact State.modGranary_kept (State.takeCells_kept (State.granaryTurn_kept hk _) _ _ _) _

theorem State.reserveStream_kept {s₀ s : State} (hk : s₀.Kept s) (k : Nat) : s₀.Kept (s.reserveStream k) := by
  unfold State.reserveStream
  try dsimp only
  repeat' with_reducible first
    | assumption
    | apply State.reserve_kept
    | apply State.modStream_kept
    | refine State.Kept.of_fst ?_ ‹_›
    | split

theorem State.replyLost_kept {s₀ s : State} (hk : s₀.Kept s) (tag : Nat) : s₀.Kept (s.replyLost tag) := by
  unfold State.replyLost
  try dsimp only
  repeat' with_reducible first
    | assumption
    | apply State.dropResv_kept
    | apply State.modGranary_kept
    | apply State.modCore_kept

theorem State.streamReplyLost_kept {s₀ s : State} (hk : s₀.Kept s) (k tag : Nat) (r : Reservation) : s₀.Kept (s.streamReplyLost k tag r) := by
  unfold State.streamReplyLost
  try dsimp only
  repeat' with_reducible first
    | assumption
    | apply State.modStream_kept
    | apply State.replyLost_kept
    | apply State.closeStream_kept
    | apply State.streamFault_kept
    | split

theorem State.seqError_kept {s₀ s : State} (hk : s₀.Kept s) (h : Header) : s₀.Kept (s.seqError h) := by
  unfold State.seqError
  try dsimp only
  repeat' with_reducible first
    | assumption
    | apply State.modCore_kept

theorem State.bindingReceive_kept {s₀ s : State} (hk : s₀.Kept s) (x : InFrame) : s₀.Kept (s.bindingReceive x) := by
  unfold State.bindingReceive
  try dsimp only
  repeat' with_reducible first
    | assumption
    | apply State.taken_kept
    | apply State.modCore_kept
    | apply State.seqError_kept
    | apply State.bindingFault_kept
    | apply State.modTun_kept
    | split

theorem State.queueReceive_kept {s₀ s : State} (hk : s₀.Kept s) (x : InFrame) : s₀.Kept (s.queueReceive x) := by
  unfold State.queueReceive
  try dsimp only
  repeat' with_reducible first
    | assumption
    | apply State.taken_kept
    | apply State.seqError_kept
    | apply State.sendWrite_kept
    | apply State.modSq_kept
    | split

theorem State.performPosted_kept {s₀ s : State} (hk : s₀.Kept s) (p : HostPort) : s₀.Kept (s.performPosted p) := by
  unfold State.performPosted
  try dsimp only
  repeat' with_reducible first
    | assumption
    | refine State.Kept.foldl ?_ (fun _ _ _ => ?_)
    | apply State.modPort_kept
    | apply State.windowWrite_kept
    | split

theorem State.performWaiting_kept {s₀ s : State} (hk : s₀.Kept s) : s₀.Kept (s.performWaiting) := by
  unfold State.performWaiting
  try dsimp only
  repeat' with_reducible first
    | assumption
    | apply State.performPosted_kept

/-! ## JournalOps -/

theorem State.ringWrite_kept {s₀ s : State} (hk : s₀.Kept s) (base size off : Nat) (bs : List Byte) (ecc : Ecc) : s₀.Kept (s.ringWrite base size off bs ecc) := by
  unfold State.ringWrite
  try dsimp only
  repeat' with_reducible first
    | assumption
    | apply State.ctlWrite_kept

theorem State.mirrorSend_kept {s₀ s : State} (hk : s₀.Kept s) (node seq : Nat) (img : List Byte) : s₀.Kept (s.mirrorSend node seq img) := by
  unfold State.mirrorSend
  try dsimp only
  repeat' with_reducible first
    | assumption
    | refine State.Kept.foldl ?_ (fun _ _ _ => ?_)
    | apply State.source_kept

theorem State.journalOverrun_kept {s₀ s : State} (hk : s₀.Kept s) : s₀.Kept (s.journalOverrun) := by
  unfold State.journalOverrun
  try dsimp only
  repeat' with_reducible first
    | assumption
    | apply State.modJournal_kept
    | apply State.raise_kept

theorem State.closeEntry_kept {s₀ s : State} (hk : s₀.Kept s) (e : CjOpen) (ecc : Ecc) : s₀.Kept (s.closeEntry e ecc) := by
  unfold State.closeEntry
  try dsimp only
  repeat' with_reducible first
    | assumption
    | refine State.Kept.foldl ?_ (fun _ _ _ => ?_)
    | apply State.journalOverrun_kept
    | apply State.ringWrite_kept
    | apply State.modJournal_kept
    | apply State.mirrorSend_kept
    | split

theorem State.closeEntries_kept {s₀ s : State} (hk : s₀.Kept s) : s₀.Kept (s.closeEntries) := by
  unfold State.closeEntries
  try dsimp only
  repeat' with_reducible first
    | assumption
    | refine State.Kept.foldl ?_ (fun _ _ _ => ?_)
    | apply State.closeEntry_kept
    | apply State.modJournal_kept

/-! ## TunControl -/

theorem State.mvMark_kept {s₀ s : State} (hk : s₀.Kept s) (id : Nat) : s₀.Kept (s.mvMark id) := by
  unfold State.mvMark
  try dsimp only
  repeat' with_reducible first
    | assumption
    | apply State.modTun_kept
    | apply State.mark_kept

theorem State.pushValue_kept {s₀ s : State} (hk : s₀.Kept s) (id : Nat) (x : Slot) (v : Nat) : s₀.Kept (s.pushValue id x v) := by
  unfold State.pushValue
  try dsimp only
  repeat' with_reducible first
    | assumption
    | apply State.fly_kept

/-! ## SqOps -/

theorem State.modOp_kept {s₀ s : State} (hk : s₀.Kept s) (q i : Nat) (f : SqOp → SqOp) : s₀.Kept (s.modOp q i f) := by
  unfold State.modOp
  try dsimp only
  repeat' with_reducible first
    | assumption
    | apply State.modSq_kept

theorem State.hostRead_kept {s₀ s : State} (hk : s₀.Kept s) (p : HostPort) (addr len : Nat) (what : ReadFor) : s₀.Kept (s.hostRead p addr len what) := by
  unfold State.hostRead
  try dsimp only
  repeat' with_reducible first
    | assumption
    | refine State.Kept.foldl ?_ (fun _ _ _ => ?_)
    | apply State.modHost_kept
    | apply State.emit_kept
    | split
    | exact .inl rfl

theorem State.loadFrame_kept {s₀ s : State} (hk : s₀.Kept s) (q : Nat) (p : HostPort) (o : SqOp) (off : Nat) (bs : List Byte) (bad : Bool) : s₀.Kept (s.loadFrame q p o off bs bad) := by
  unfold State.loadFrame
  try dsimp only
  repeat' with_reducible first
    | assumption
    | apply State.modOp_kept
    | apply State.source_kept

theorem State.sendFrames_kept {s₀ : State} (q : Nat) (p : HostPort) (i n : Nat) (s : State) (hk : s₀.Kept s) :
    s₀.Kept (s.sendFrames q p i n) := by
  induction n generalizing s with
  | zero => exact hk
  | succ n ih =>
    unfold State.sendFrames
    dsimp only
    split
    · exact hk
    · split
      · exact hk
      · exact ih _ (State.source_kept (State.modOp_kept (State.modSq_kept hk _ _) _ _ _) _)

theorem State.opData_kept {s₀ s : State} (hk : s₀.Kept s) (q i off : Nat) (c : HostCpl) : s₀.Kept (s.opData q i off c) := by
  unfold State.opData
  try dsimp only
  repeat' with_reducible first
    | assumption
    | apply State.modOp_kept
    | apply State.loadFrame_kept
    | apply State.sendFrames_kept
    | apply State.finish_kept
    | split

theorem State.descData_kept {s₀ s : State} (hk : s₀.Kept s) (q first n : Nat) (c : HostCpl) : s₀.Kept (s.descData q first n c) := by
  unfold State.descData
  try dsimp only
  repeat' with_reducible first
    | assumption
    | apply State.modSq_kept
    | apply State.useFree_kept
    | split

theorem State.waitEnds_kept {s₀ s : State} (hk : s₀.Kept s) (q st : Nat) : s₀.Kept (s.waitEnds q st) := by
  unfold State.waitEnds
  try dsimp only
  repeat' with_reducible first
    | assumption
    | apply State.modSq_kept

theorem State.sqSignal_kept {s₀ s : State} (hk : s₀.Kept s) (q : Nat) : s₀.Kept (s.sqSignal q) := by
  unfold State.sqSignal
  try dsimp only
  repeat' with_reducible first
    | assumption
    | apply State.signal_kept
    | split

theorem State.sqSettle_kept {s₀ s : State} (hk : s₀.Kept s) (q : Nat) : s₀.Kept (s.sqSettle q) := by
  unfold State.sqSettle
  try dsimp only
  repeat' with_reducible first
    | assumption
    | apply State.modSq_kept
    | apply State.sqSignal_kept
    | split

theorem State.doorbell_kept {s₀ s : State} (hk : s₀.Kept s) (p : HostPort) (q : Nat) (ok : StreamQ → Bool) (set : StreamQ → StreamQ) : s₀.Kept (s.doorbell p q ok set) := by
  unfold State.doorbell
  try dsimp only
  repeat' with_reducible first
    | assumption
    | apply State.flushPosted_kept
    | apply State.badAccess_kept
    | apply State.modSq_kept
    | apply State.useFree_kept
    | apply State.sqSettle_kept
    | split

theorem State.sqResetBegin_kept {s₀ s : State} (hk : s₀.Kept s) (q : Nat) : s₀.Kept (s.sqResetBegin q) := by
  unfold State.sqResetBegin
  try dsimp only
  repeat' with_reducible first
    | assumption
    | apply State.modHost_kept
    | apply State.modSq_kept
    | split
    | exact .inl rfl

theorem State.sqWrite_kept {s₀ s : State} (hk : s₀.Kept s) (p : HostPort) (q off : Nat) (act : State → State) (hact : ∀ u, s₀.Kept u → s₀.Kept (act u)) : s₀.Kept (s.sqWrite p q off act) := by
  unfold State.sqWrite
  try dsimp only
  repeat' with_reducible first
    | assumption
    | apply State.hostWrite_kept
    | apply State.flushPosted_kept
    | apply State.badAccess_kept
    | apply hact
    | intro _ _
    | split

theorem State.sqCtrl_kept {s₀ s : State} (hk : s₀.Kept s) (q v : Nat) : s₀.Kept (s.sqCtrl q v) := by
  unfold State.sqCtrl
  try dsimp only
  repeat' with_reducible first
    | assumption
    | apply State.modSq_kept
    | apply State.sqResetBegin_kept
    | split

theorem State.reserveQueue_kept {s₀ s : State} (hk : s₀.Kept s) (q : Nat) : s₀.Kept (s.reserveQueue q) := by
  unfold State.reserveQueue
  dsimp only
  split
  · split
    · exact hk
    · split
      · exact State.Kept.of_fst (State.reserve_kept hk _ _ _) ‹_›
      · exact State.source_kept (State.modOp_kept (State.Kept.of_fst (State.reserve_kept hk _ _ _) ‹_›) _ _ _) _
  · exact hk

theorem State.queueReply_kept {s₀ s : State} (hk : s₀.Kept s) (x : InFrame) : s₀.Kept (s.queueReply x) := by
  unfold State.queueReply
  try dsimp only
  repeat' with_reducible first
    | assumption
    | apply State.taken_kept
    | apply State.sendWrite_kept
    | apply State.modOp_kept
    | apply State.finish_kept
    | split

/-! ## Restore -/

theorem State.pitchTun_kept {s₀ s : State} (hk : s₀.Kept s) (t : Nat) : s₀.Kept (s.pitchTun t) := by
  unfold State.pitchTun
  try dsimp only
  repeat' with_reducible first
    | assumption
    | apply State.dropFar_kept
    | apply State.modTun_kept

theorem State.resetTun_kept {s₀ s : State} (hk : s₀.Kept s) (t : Nat) (restored : Bool) : s₀.Kept (s.resetTun t restored) := by
  unfold State.resetTun
  try dsimp only
  repeat' with_reducible first
    | assumption
    | apply State.dropFar_kept
    | apply State.modTun_kept

theorem State.dropWaits_kept {s₀ s : State} (hk : s₀.Kept s) (p : Nat → Bool) : s₀.Kept (s.dropWaits p) := by
  unfold State.dropWaits
  try dsimp only
  repeat' with_reducible first
    | assumption
    | split
    | exact hk.same rfl rfl rfl rfl

theorem State.flushCrossings_kept {s₀ s : State} (hk : s₀.Kept s) (t : Nat) (gone : Nat → Bool) : s₀.Kept (s.flushCrossings t gone) := by
  unfold State.flushCrossings
  try dsimp only
  repeat' with_reducible first
    | assumption
    | refine State.Kept.foldl ?_ (fun _ _ _ => ?_)
    | apply State.raise_kept
    | apply State.dropCrossings_kept
    | split

theorem State.islandTun_kept {s₀ s : State} (hk : s₀.Kept s) (t : Nat) (restored : Bool) : s₀.Kept (s.islandTun t restored) := by
  unfold State.islandTun
  try dsimp only
  repeat' with_reducible first
    | assumption
    | apply State.closeStreams_kept
    | apply State.dropCrossings_kept
    | apply State.dropWaits_kept
    | apply State.resetTun_kept

theorem State.kettleStacks_kept {s₀ s : State} (hk : s₀.Kept s) (k : Nat) (a b : HbmPhase) : s₀.Kept (s.kettleStacks k a b) := by
  unfold State.kettleStacks
  try dsimp only
  repeat' with_reducible first
    | assumption
    | refine State.Kept.foldl ?_ (fun _ _ _ => ?_)
    | apply State.modCtl_kept

theorem State.cutTun_kept {s₀ s : State} (hk : s₀.Kept s) (t : Nat) : s₀.Kept (s.cutTun t) := by
  unfold State.cutTun
  try dsimp only
  repeat' with_reducible first
    | assumption
    | apply State.cutSource_kept

theorem State.unforce_kept {s₀ s : State} (hk : s₀.Kept s) (src n : Nat) : s₀.Kept (s.unforce src n) := by
  unfold State.unforce
  try dsimp only
  repeat' with_reducible first
    | assumption
    | refine State.Kept.foldl ?_ (fun _ _ _ => ?_)
    | apply State.modFault_kept

theorem State.dozeKettle_kept {s₀ s : State} (hk : s₀.Kept s) (k : Nat) : s₀.Kept (s.dozeKettle k) := by
  unfold State.dozeKettle
  try dsimp only
  repeat' with_reducible first
    | assumption
    | refine State.Kept.foldl ?_ (fun _ _ _ => ?_)
    | apply State.flushCrossings_kept
    | apply State.cutTun_kept
    | apply State.islandTun_kept
    | apply State.unforce_kept
    | apply State.modCtl_kept
    | apply State.kettleStacks_kept
    | apply State.modPower_kept

theorem State.wakeKettle_kept {s₀ s : State} (hk : s₀.Kept s) (k : Nat) : s₀.Kept (s.wakeKettle k) := by
  unfold State.wakeKettle
  try dsimp only
  repeat' with_reducible first
    | assumption
    | refine State.Kept.foldl ?_ (fun _ _ _ => ?_)
    | apply State.modTun_kept
    | apply State.kettleStacks_kept
    | apply State.modPower_kept

theorem State.colEmpty_kept {s₀ s : State} (hk : s₀.Kept s) : s₀.Kept (s.colEmpty) := by
  unfold State.colEmpty
  try dsimp only
  repeat' with_reducible first
    | assumption
    | refine State.Kept.foldl ?_ (fun _ _ _ => ?_)
    | apply State.dropHeld_kept
    | apply State.dropHold_kept
    | apply State.modCol_kept

/-! ## Grist -/

theorem State.gristPhase_kept {s₀ s : State} (hk : s₀.Kept s) (ph : GristPhase) : s₀.Kept (s.gristPhase ph) := by
  unfold State.gristPhase
  try dsimp only
  repeat' with_reducible first
    | assumption
    | apply State.modGrist_kept
    | apply State.signalBoth_kept
    | split

theorem State.gristRefuse_kept {s₀ s : State} (hk : s₀.Kept s) (cmd why : Nat) : s₀.Kept (s.gristRefuse cmd why) := by
  unfold State.gristRefuse
  try dsimp only
  repeat' with_reducible first
    | assumption
    | apply State.modGrist_kept

theorem State.gristCommand_kept {s₀ s : State} (hk : s₀.Kept s) (p : HostPort) (cmd : Nat) (accepts : GristPhase → Bool) (act : State → State) (hact : ∀ u, s₀.Kept u → s₀.Kept (act u)) : s₀.Kept (s.gristCommand p cmd accepts act) := by
  unfold State.gristCommand
  try dsimp only
  repeat' with_reducible first
    | assumption
    | apply State.hostWrite_kept
    | apply State.gristRefuse_kept
    | apply hact
    | intro _ _
    | split

theorem State.dropStage_kept {s₀ s : State} (hk : s₀.Kept s) : s₀.Kept (s.dropStage) := by
  unfold State.dropStage
  try dsimp only
  repeat' with_reducible first
    | assumption
    | apply State.modGrist_kept

theorem State.endReduction_kept {s₀ s : State} (hk : s₀.Kept s) (mine : Run → Bool) : s₀.Kept (s.endReduction mine) := by
  unfold State.endReduction
  try dsimp only
  repeat' with_reducible first
    | assumption
    | apply State.modLauter_kept
    | apply State.useFree_kept
    | split

theorem State.voteDecide_kept {s₀ s : State} (hk : s₀.Kept s) (ok : Bool) (c cause : Nat) : s₀.Kept (s.voteDecide ok c cause) := by
  unfold State.voteDecide
  try dsimp only
  repeat' with_reducible first
    | assumption
    | refine State.Kept.foldl ?_ (fun _ _ _ => ?_)
    | apply State.source_kept
    | apply State.endReduction_kept
    | apply State.modGrist_kept

theorem State.voteSettle_kept {s₀ s : State} (hk : s₀.Kept s) : s₀.Kept (s.voteSettle) := by
  unfold State.voteSettle
  try dsimp only
  repeat' with_reducible first
    | assumption
    | apply State.voteDecide_kept
    | split

theorem State.sendVote_kept {s₀ s : State} (hk : s₀.Kept s) : s₀.Kept (s.sendVote) := by
  unfold State.sendVote
  try dsimp only
  repeat' with_reducible first
    | assumption
    | apply State.modGrist_kept
    | apply State.source_kept

theorem State.pitchFence_kept {s₀ s : State} (hk : s₀.Kept s) (p : Nat) : s₀.Kept (s.pitchFence p) := by
  unfold State.pitchFence
  try dsimp only
  repeat' with_reducible first
    | assumption
    | apply State.modLink_kept

theorem State.applyRwp_kept {s₀ s : State} (hk : s₀.Kept s) : s₀.Kept s.applyRwp := by
  unfold State.applyRwp
  refine State.Kept.foldl hk fun u e hu => ?_
  dsimp only
  split
  · exact State.hbmMode_kept hu _
  · repeat' with_reducible first
      | assumption
      | apply State.modPower_kept
      | apply State.modCore_kept
      | split

theorem State.colPitch_kept {s₀ s : State} (hk : s₀.Kept s) (changed : Bool) (tuns : List Nat) : s₀.Kept (s.colPitch changed tuns) := by
  unfold State.colPitch
  try dsimp only
  repeat' with_reducible first
    | assumption
    | refine State.Kept.foldl ?_ (fun _ _ _ => ?_)
    | apply State.colEmpty_kept
    | apply State.modCol_kept
    | split

theorem State.applyStage_kept {s₀ s : State} (hk : s₀.Kept s) : s₀.Kept (s.applyStage) := by
  unfold State.applyStage
  try dsimp only
  repeat' with_reducible first
    | assumption
    | refine State.Kept.foldl ?_ (fun _ _ _ => ?_)
    | apply State.drain_kept
    | apply State.closeDigest_kept
    | apply State.closeStreams_kept
    | apply State.dropCrossings_kept
    | apply State.dropWaits_kept
    | apply State.colPitch_kept
    | apply State.modGrist_kept
    | apply State.applyRwp_kept
    | apply State.pitchTun_kept
    | apply State.modPower_kept
    | apply State.sqResetBegin_kept
    | apply State.modSq_kept
    | apply State.dozeKettle_kept
    | apply State.mark_kept
    | apply State.pitchFence_kept
    | apply State.modGranary_kept
    | apply State.modCu_kept
    | apply State.settleHeld_kept
    | split

theorem State.fenceAll_kept {s₀ s : State} (hk : s₀.Kept s) (b : Bool) : s₀.Kept (s.fenceAll b) := by
  unfold State.fenceAll
  try dsimp only
  repeat' with_reducible first
    | assumption
    | refine State.Kept.foldl ?_ (fun _ _ _ => ?_)
    | apply State.modLink_kept

theorem State.abortPitch_kept {s₀ s : State} (hk : s₀.Kept s) (cause : Nat) : s₀.Kept (s.abortPitch cause) := by
  unfold State.abortPitch
  try dsimp only
  repeat' with_reducible first
    | assumption
    | apply State.thaw_kept
    | apply State.dropStage_kept
    | apply State.modGrist_kept
    | apply State.gristPhase_kept

/-! ## ColOps -/

theorem State.sendResult_kept {s₀ s : State} (hk : s₀.Kept s) (port : Nat) (r : GroupRec) (ord epoch n dest : Nat) (bytes : List Byte) (v reason marker : Nat) : s₀.Kept (s.sendResult port r ord epoch n dest bytes v reason marker) := by
  unfold State.sendResult
  try dsimp only
  repeat' with_reducible first
    | assumption
    | refine State.Kept.foldl ?_ (fun _ _ _ => ?_)
    | apply State.source_kept

theorem State.markForwarded_kept {s₀ s : State} (hk : s₀.Kept s) (r : GroupRec) (ls : List Nat) (n : Nat) : s₀.Kept (s.markForwarded r ls n) := by
  unfold State.markForwarded
  try dsimp only
  repeat' with_reducible first
    | assumption
    | refine State.Kept.foldl ?_ (fun _ _ _ => ?_)
    | apply State.modCtx_kept
    | split

theorem State.forwardResult_kept {s₀ s : State} (hk : s₀.Kept s) (port : Nat) (r : GroupRec) (ord epoch n : Nat) (bytes : List Byte) (v reason marker : Nat) : s₀.Kept (s.forwardResult port r ord epoch n bytes v reason marker) := by
  unfold State.forwardResult
  try dsimp only
  repeat' with_reducible first
    | assumption
    | refine State.Kept.foldl ?_ (fun _ _ _ => ?_)
    | apply State.sendResult_kept
    | apply State.markForwarded_kept
    | split

theorem State.modResResv_kept {s₀ s : State} (hk : s₀.Kept s) (g ord epoch n : Nat) (f : Nat → Nat) : s₀.Kept (s.modResResv g ord epoch n f) := by
  unfold State.modResResv
  try dsimp only
  repeat' with_reducible first
    | assumption
    | apply State.modCol_kept

theorem State.resultHere_kept {s₀ s : State} (hk : s₀.Kept s) (port : Nat) (r : GroupRec) (ord epoch n : Nat) (bytes : List Byte) (v reason marker : Nat) (frames : List Nat) (mine : Bool) : s₀.Kept (s.resultHere port r ord epoch n bytes v reason marker frames mine) := by
  unfold State.resultHere
  try dsimp only
  repeat' with_reducible first
    | assumption
    | refine State.Kept.foldl ?_ (fun _ _ _ => ?_)
    | apply State.dropHold_kept
    | apply State.modCol_kept
    | apply State.modResResv_kept
    | apply State.charge_kept
    | apply State.forwardResult_kept
    | apply State.useFree_kept
    | apply State.deliverResults_kept
    | split

theorem State.topResult_kept {s₀ s : State} (hk : s₀.Kept s) (port : Nat) (r : GroupRec) (l ord epoch n : Nat) (bytes : List Byte) (v reason marker : Nat) : s₀.Kept (s.topResult port r l ord epoch n bytes v reason marker) := by
  unfold State.topResult
  try dsimp only
  repeat' with_reducible first
    | assumption
    | apply State.markForwarded_kept
    | apply State.resultHere_kept
    | apply State.sendResult_kept
    | apply State.forwardResult_kept
    | split

theorem State.modChunk_kept {s₀ s : State} (hk : s₀.Kept s) (c n l : Nat) (f : Chunk → Chunk) : s₀.Kept (s.modChunk c n l f) := by
  unfold State.modChunk
  try dsimp only
  repeat' with_reducible first
    | assumption
    | apply State.modCtx_kept

theorem State.settleChunks_kept {s₀ s : State} (hk : s₀.Kept s) (c : Nat) : s₀.Kept (s.settleChunks c) := by
  unfold State.settleChunks
  try dsimp only
  repeat' with_reducible first
    | assumption
    | apply State.modCtx_kept

theorem State.dropHolds_kept {s₀ s : State} (hk : s₀.Kept s) (k : Chunk) : s₀.Kept (s.dropHolds k) := by
  unfold State.dropHolds
  try dsimp only
  repeat' with_reducible first
    | assumption
    | refine State.Kept.foldl ?_ (fun _ _ _ => ?_)
    | apply State.dropHold_kept

theorem State.runOutput_kept {s₀ s : State} (hk : s₀.Kept s) (c n l ord epoch : Nat) (r : GroupRec) (bytes : List Byte) (v reason marker : Nat) (final : Bool) : s₀.Kept (s.runOutput c n l ord epoch r bytes v reason marker final) := by
  unfold State.runOutput
  try dsimp only
  repeat' with_reducible first
    | assumption
    | apply State.dropHolds_kept
    | apply State.modCtx_kept
    | apply State.modChunk_kept
    | apply State.topResult_kept
    | apply State.settleChunks_kept
    | split

theorem State.sendRetract_kept {s₀ s : State} (hk : s₀.Kept s) (r : GroupRec) (ord epoch rank : Nat) (self : Bool) : s₀.Kept (s.sendRetract r ord epoch rank self) := by
  unfold State.sendRetract
  try dsimp only
  repeat' with_reducible first
    | assumption
    | refine State.Kept.foldl ?_ (fun _ _ _ => ?_)
    | apply State.modCol_kept
    | apply State.retracted_kept
    | apply State.source_kept

theorem State.dropLater_kept {s₀ s : State} (hk : s₀.Kept s) : s₀.Kept (s.dropLater) := by
  unfold State.dropLater
  try dsimp only
  repeat' with_reducible first
    | assumption
    | apply State.modCol_kept
    | split

theorem State.retracted_kept {s₀ s : State} (hk : s₀.Kept s) (ord epoch src : Nat) : s₀.Kept (s.retracted ord epoch src) := by
  unfold State.retracted
  try dsimp only
  repeat' with_reducible first
    | assumption
    | apply State.modCol_kept
    | apply State.digInvalid_kept
    | apply State.raise_kept
    | apply State.dropLater_kept

theorem State.abandon_kept {s₀ s : State} (hk : s₀.Kept s) (is : List (Nat × Nat × Nat)) : s₀.Kept (s.abandon is) := by
  unfold State.abandon
  try dsimp only
  repeat' with_reducible first
    | assumption
    | refine State.Kept.foldl ?_ (fun _ _ _ => ?_)
    | apply State.dropHold_kept
    | apply State.dropHeld_kept
    | apply State.bindingFault_kept
    | apply State.modCol_kept
    | apply State.modLauter_kept

theorem State.retractOpen_kept {s₀ s : State} (hk : s₀.Kept s) : s₀.Kept (s.retractOpen) := by
  unfold State.retractOpen
  try dsimp only
  repeat' with_reducible first
    | assumption
    | refine State.Kept.foldl ?_ (fun _ _ _ => ?_)
    | apply State.sendRetract_kept
    | apply State.retracted_kept
    | apply State.abandon_kept
    | split

theorem State.retractTun_kept {s₀ s : State} (hk : s₀.Kept s) (t : Nat) : s₀.Kept (s.retractTun t) := by
  unfold State.retractTun
  try dsimp only
  repeat' with_reducible first
    | assumption
    | refine State.Kept.foldl ?_ (fun _ _ _ => ?_)
    | apply State.sendRetract_kept
    | split

/-! ## TimeBase -/

theorem State.timePhase_kept {s₀ s : State} (hk : s₀.Kept s) (ph : TimePhase) : s₀.Kept (s.timePhase ph) := by
  unfold State.timePhase
  try dsimp only
  repeat' with_reducible first
    | assumption
    | apply State.modTime_kept
    | apply State.mark_kept
    | apply State.raise_kept
    | split

theorem State.chooseParent_kept {s₀ s : State} (hk : s₀.Kept s) : s₀.Kept (s.chooseParent) := by
  unfold State.chooseParent
  try dsimp only
  repeat' with_reducible first
    | assumption
    | apply State.modTime_kept
    | apply State.hwSet_kept
    | apply State.raise_kept
    | apply State.timePhase_kept
    | split

/-! ## Links -/

theorem State.modLane_kept {s₀ s : State} (hk : s₀.Kept s) (p i : Nat) (f : Lane → Lane) : s₀.Kept (s.modLane p i f) := by
  unfold State.modLane
  try dsimp only
  repeat' with_reducible first
    | assumption
    | apply State.modLink_kept

theorem State.discSettle_kept {s₀ s : State} (hk : s₀.Kept s) : s₀.Kept (s.discSettle) := by
  unfold State.discSettle
  try dsimp only
  repeat' with_reducible first
    | assumption
    | split
    | exact hk.same rfl rfl rfl rfl

theorem State.declareDown_kept {s₀ s : State} (hk : s₀.Kept s) (p cause : Nat) (train : Bool) : s₀.Kept (s.declareDown p cause train) := by
  unfold State.declareDown
  try dsimp only
  repeat' with_reducible first
    | assumption
    | apply State.mark_kept
    | apply State.cutIngress_kept
    | apply State.discardEgress_kept
    | apply State.modLink_kept
    | apply State.modTime_kept
    | apply State.chooseParent_kept
    | apply State.raise_kept
    | apply State.discSettle_kept
    | apply State.retractOpen_kept
    | split

theorem State.attemptFails_kept {s₀ s : State} (hk : s₀.Kept s) (p v : Nat) : s₀.Kept (s.attemptFails p v) := by
  unfold State.attemptFails
  try dsimp only
  repeat' with_reducible first
    | assumption
    | apply State.modLink_kept

theorem State.rxShow_kept {s₀ s : State} (hk : s₀.Kept s) (r : RxFrame) : s₀.Kept (s.rxShow r) := by
  unfold State.rxShow
  try dsimp only
  repeat' with_reducible first
    | assumption
    | apply State.modFrame_kept
    | split

theorem State.rxFlit_kept {s₀ s : State} (hk : s₀.Kept s) (p : Nat) (f : List Byte) : s₀.Kept (s.rxFlit p f) := by
  unfold State.rxFlit
  try dsimp only
  repeat' with_reducible first
    | assumption
    | refine State.Kept.foldl ?_ (fun _ _ _ => ?_)
    | apply State.modLink_kept
    | apply State.rxShow_kept
    | apply State.rxSettle_kept
    | split

theorem State.ackWord_kept {s₀ s : State} (hk : s₀.Kept s) (p i w : Nat) : s₀.Kept (s.ackWord p i w) := by
  unfold State.ackWord
  try dsimp only
  repeat' with_reducible first
    | assumption
    | apply State.modLane_kept
    | apply State.modLink_kept
    | split

theorem State.codeword_kept {s₀ s : State} (hk : s₀.Kept s) (p : Nat) (x : FlitSlot) : s₀.Kept (s.codeword p x).1 := by
  unfold State.codeword
  dsimp only
  split
  · exact State.modLane_kept hk _ _ _
  · split
    · exact State.modLane_kept hk _ _ _
    · exact State.modLane_kept (State.raise_kept (State.modLane_kept (State.modLink_kept hk _ _) _ _ _) _ _) _ _ _
    · exact State.modLane_kept (State.raise_kept (State.modLink_kept hk _ _) _ _) _ _ _

theorem State.controlIn_kept {s₀ s : State} (hk : s₀.Kept s) (p : Nat) (x : FlitSlot) (flit : List Byte) (sub : Nat)
    (act : List Byte → State → State) (ha : ∀ b u, s₀.Kept u → s₀.Kept (act b u)) :
    s₀.Kept (s.controlIn p x flit sub act) := by
  unfold State.controlIn
  have h := State.codeword_kept hk p x
  dsimp only
  split
  · exact hk
  · split
    · exact h
    · refine ha _ _ ?_
      split
      · exact h
      · exact State.drainTx_kept _ _ _ (State.Kept.foldl h fun _ _ g => State.ackWord_kept g _ _ _)

theorem State.controlOut_kept {s₀ s : State} (hk : s₀.Kept s) (p sub : Nat) (body : List Byte) :
    s₀.Kept (s.controlOut p sub body) := by
  unfold State.controlOut
  exact State.drainTx_kept _ _ _ (State.sendSlot_kept (State.modLink_kept hk _ _) _ _ _)

theorem State.miswired_kept {s₀ s : State} (hk : s₀.Kept s) (p code detail : Nat) : s₀.Kept (s.miswired p code detail) := by
  unfold State.miswired
  try dsimp only
  repeat' with_reducible first
    | assumption
    | apply State.modLink_kept
    | apply State.raise_kept

theorem State.placeAt_kept {s₀ s : State} (hk : s₀.Kept s) (c : Nat × Nat × Nat) (root : Bool) : s₀.Kept (s.placeAt c root) := by
  exact hk.same rfl rfl rfl rfl

theorem State.helloPassed_kept {s₀ s : State} (hk : s₀.Kept s) (p : Nat) : s₀.Kept (s.helloPassed p) := by
  unfold State.helloPassed
  try dsimp only
  repeat' with_reducible first
    | assumption
    | apply State.modLink_kept
    | apply State.mark_kept
    | split

theorem State.placeBy_kept {s₀ s : State} (hk : s₀.Kept s) (p : Nat) (h : Hello) : s₀.Kept (s.placeBy p h) := by
  unfold State.placeBy
  try dsimp only
  repeat' with_reducible first
    | assumption
    | apply State.miswired_kept
    | apply State.placeAt_kept
    | apply State.helloPassed_kept
    | split
    | exact hk.same rfl rfl rfl rfl

theorem State.helloIn_kept {s₀ s : State} (hk : s₀.Kept s) (p : Nat) (h : Hello) : s₀.Kept (s.helloIn p h) := by
  unfold State.helloIn
  try dsimp only
  repeat' with_reducible first
    | assumption
    | apply State.modLink_kept
    | apply State.miswired_kept
    | apply State.placeBy_kept
    | apply State.discSettle_kept
    | apply State.helloPassed_kept
    | split

/-! ## Time -/

theorem State.stepTo_kept {s₀ s : State} (hk : s₀.Kept s) (c : Nat) : s₀.Kept (s.stepTo c) := by
  unfold State.stepTo
  try dsimp only
  repeat' with_reducible first
    | assumption
    | apply State.modTime_kept
    | apply State.modFault_kept
    | apply State.hwSet_kept
    | apply State.mark_kept

/-- Zeroing whole pages of HBM keeps its canonical form. -/
theorem State.hbmZero_kept {s₀ s : State} (hk : s₀.Kept s) (a pages : Nat) : s₀.Kept (s.hbmZero a pages) := by
  unfold State.hbmZero
  refine State.runAheadConflict_kept (State.Kept.foldl hk fun u i hu => ?_) _ _
  split
  · exact hu
  · refine ⟨hu.1, fun hs => ?_, hu.2.2⟩
    have := hu.2.1 hs
    unfold hbmWf at *
    dsimp only
    split
    · exact Tab.wfBy_dropRange _ _ this
    · exact Tab.wfBy_setManyBy _ _ this

theorem State.ppsEnable_kept {s₀ s : State} (hk : s₀.Kept s) (en : Bool) : s₀.Kept (s.ppsEnable en) := by
  exact hk.same rfl rfl rfl rfl

theorem State.timeCfgWrite_kept {s₀ s : State} (hk : s₀.Kept s) (v : Word) : s₀.Kept (s.timeCfgWrite v) := by
  unfold State.timeCfgWrite
  try dsimp only
  repeat' with_reducible first
    | assumption
    | apply State.modTime_kept
    | apply State.ppsEnable_kept
    | apply State.timePhase_kept
    | split

theorem State.servoStep_kept {s₀ s : State} (hk : s₀.Kept s) (theta : Int) : s₀.Kept (s.servoStep theta) := by
  unfold State.servoStep
  try dsimp only
  repeat' with_reducible first
    | assumption
    | apply State.modTime_kept
    | apply State.hwSet_kept
    | split

theorem State.lockStep_kept {s₀ s : State} (hk : s₀.Kept s) (theta : Int) : s₀.Kept (s.lockStep theta) := by
  unfold State.lockStep
  try dsimp only
  repeat' with_reducible first
    | assumption
    | apply State.timePhase_kept
    | apply State.modTime_kept
    | split

theorem State.firstStep_kept {s₀ s : State} (hk : s₀.Kept s) (theta : Int) : s₀.Kept (s.firstStep theta) := by
  unfold State.firstStep
  try dsimp only
  repeat' with_reducible first
    | assumption
    | apply State.modTime_kept
    | apply State.stepTo_kept
    | split

theorem State.exchange_kept {s₀ s : State} (hk : s₀.Kept s) (theta : Int) : s₀.Kept (s.exchange theta) := by
  unfold State.exchange
  try dsimp only
  repeat' with_reducible first
    | assumption
    | apply State.firstStep_kept
    | apply State.modTime_kept
    | apply State.servoStep_kept
    | apply State.lockStep_kept

theorem State.timeIn_kept {s₀ s : State} (hk : s₀.Kept s) (p : Nat) (f : TimeFlit) : s₀.Kept (s.timeIn p f) := by
  unfold State.timeIn
  try dsimp only
  repeat' with_reducible first
    | assumption
    | apply State.modTime_kept
    | apply State.chooseParent_kept
    | apply State.exchange_kept
    | split

theorem State.sourceEvent_kept {s₀ s : State} (hk : s₀.Kept s) (ofs : Int) (bound : Nat) (step : Bool) : s₀.Kept (s.sourceEvent ofs bound step) := by
  unfold State.sourceEvent
  try dsimp only
  repeat' with_reducible first
    | assumption
    | apply State.modTime_kept
    | apply State.timePhase_kept
    | apply State.firstStep_kept
    | apply State.servoStep_kept
    | split

theorem State.jobDecide_kept {s₀ s : State} (hk : s₀.Kept s) : s₀.Kept (s.jobDecide) := by
  unfold State.jobDecide
  try dsimp only
  repeat' with_reducible first
    | assumption
    | refine State.Kept.foldl ?_ (fun _ _ _ => ?_)
    | apply State.endReduction_kept
    | apply State.modTime_kept
    | apply State.source_kept

/-! ## CatchUp -/

theorem State.cuIssue_kept {s₀ s : State} (hk : s₀.Kept s) : s₀.Kept s.cuIssue := by
  unfold State.cuIssue
  dsimp only
  split
  · exact hk
  · split
    · exact hk
    · split
      · exact hk
      · split
        · exact State.Kept.of_fst (State.reserve_kept hk _ _ _) ‹_›
        · exact State.source_kept (State.modCu_kept (State.Kept.of_fst (State.reserve_kept hk _ _ _) ‹_›) _) _

theorem State.cuSettle_kept {s₀ s : State} (hk : s₀.Kept s) : s₀.Kept (s.cuSettle) := by
  unfold State.cuSettle
  try dsimp only
  repeat' with_reducible first
    | assumption
    | apply State.modCu_kept
    | split

/-! ## Recipes -/

theorem State.runLeaves_kept {s₀ s : State} (hk : s₀.Kept s) (u : Nat) (r : Run) (cycles v : Nat) : s₀.Kept (s.runLeaves u r cycles v) := by
  unfold State.runLeaves
  try dsimp only
  repeat' with_reducible first
    | assumption
    | apply State.after_kept
    | apply State.modLauter_kept

theorem State.runResult_kept {s₀ s : State} (hk : s₀.Kept s) (r : Run) (bytes : List Byte) (v reason marker : Nat) (final : Bool) : s₀.Kept (s.runResult r bytes v reason marker final) := by
  unfold State.runResult
  try dsimp only
  repeat' with_reducible first
    | assumption
    | apply State.runOutput_kept
    | split

theorem State.closeRun_kept {s₀ s : State} (hk : s₀.Kept s) (u : Nat) (r : Run) : s₀.Kept (s.closeRun u r) := by
  unfold State.closeRun
  try dsimp only
  repeat' with_reducible first
    | assumption
    | apply State.runLeaves_kept
    | apply State.runResult_kept

theorem State.closeLauter_kept {s₀ s : State} (hk : s₀.Kept s) (u : Nat) : s₀.Kept (s.closeLauter u) := by
  unfold State.closeLauter
  try dsimp only
  repeat' with_reducible first
    | assumption
    | apply State.modLauter_kept
    | apply State.closeRun_kept
    | apply State.runResult_kept
    | split

theorem State.lauterExc_kept {s₀ s : State} (hk : s₀.Kept s) (u : Nat) (r : Run) (kind cause pc : Nat) : s₀.Kept (s.lauterExc u r kind cause pc) := by
  unfold State.lauterExc
  try dsimp only
  repeat' with_reducible first
    | assumption
    | apply State.closeRun_kept
    | apply State.modLauter_kept
    | apply State.raise_kept

theorem State.endRun_kept {s₀ s : State} (hk : s₀.Kept s) (u : Nat) (r : Run) : s₀.Kept (s.endRun u r) := by
  unfold State.endRun
  try dsimp only
  repeat' with_reducible first
    | assumption
    | apply State.runLeaves_kept
    | apply State.runResult_kept
    | apply State.modHealth_kept
    | apply State.raise_kept
    | apply State.modLauter_kept
    | apply State.lauterExc_kept
    | split

theorem State.recipeStep_kept {s₀ s : State} (hk : s₀.Kept s) (u op : Nat) (act : RecipeRec → Nat → Run → Run × Nat) : s₀.Kept (s.recipeStep u op act) := by
  unfold State.recipeStep
  try dsimp only
  repeat' with_reducible first
    | assumption
    | apply State.lauterExc_kept
    | apply State.modLauter_kept
    | apply State.modTime_kept
    | apply State.hwSet_kept
    | apply State.mark_kept
    | apply State.setLtrFlags_kept
    | split

theorem State.recipeOp_kept {s₀ s : State} (hk : s₀.Kept s) (u op : Nat) (act : Nat → Run → Run) : s₀.Kept (s.recipeOp u op act) := by
  unfold State.recipeOp
  try dsimp only
  repeat' with_reducible first
    | assumption
    | apply State.recipeStep_kept

/-! ## Collective -/

theorem State.sendFromBinding_kept {s₀ s : State} (hk : s₀.Kept s) (t q : Nat) : s₀.Kept (s.sendFromBinding t q) := by
  unfold State.sendFromBinding
  try dsimp only
  repeat' with_reducible first
    | assumption
    | apply State.modCol_kept
    | apply State.source_kept
    | split

theorem State.sendFromLevel_kept {s₀ s t : State} (hk : s₀.Kept s) {c m : Nat} (h : s.sendFromLevel c m = some t) :
    s₀.Kept t := by
  unfold State.sendFromLevel at h
  dsimp only at h
  split at h
  · split at h
    · split at h
      · cases h
      · split at h
        · cases h
        · cases h
          exact State.settleChunks_kept (State.source_kept (State.modChunk_kept hk _ _ _ _) _) _
    · cases h
  · cases h

theorem State.sendFromContext_kept {s₀ s : State} (hk : s₀.Kept s) (c : Nat) : s₀.Kept (s.sendFromContext c) := by
  unfold State.sendFromContext
  cases h : (s.ctx c).levels.findSome? fun m => s.sendFromLevel c m with
  | none => exact hk
  | some t =>
    obtain ⟨m, _, hm⟩ := List.exists_of_findSome?_eq_some h
    exact State.sendFromLevel_kept hk hm

theorem State.beginInstance_kept {s₀ s : State} (hk : s₀.Kept s) (c : Nat) : s₀.Kept (s.beginInstance c) := by
  unfold State.beginInstance
  try dsimp only
  repeat' with_reducible first
    | assumption
    | apply State.modCtx_kept
    | split

theorem State.addGrant_kept {s₀ s : State} (hk : s₀.Kept s) (g : Grant) : s₀.Kept (s.addGrant g) := by
  unfold State.addGrant
  try dsimp only
  repeat' with_reducible first
    | assumption
    | apply State.modCol_kept

theorem State.takeCol_kept {s₀ s : State} (hk : s₀.Kept s) (k op : Nat) (act : InFrame → State → State)
    (ha : ∀ x u, s₀.Kept u → s₀.Kept (act x u)) : s₀.Kept (s.takeCol k op act) := by
  unfold State.takeCol
  dsimp only
  repeat' with_reducible first
    | assumption
    | apply State.dropHold_kept
    | apply State.modCol_kept
    | apply ha
    | apply State.taken_kept
    | split

theorem State.takeContrib_kept {s₀ s : State} (hk : s₀.Kept s) (c k : Nat) (x : InFrame) : s₀.Kept (s.takeContrib c k x) := by
  unfold State.takeContrib
  try dsimp only
  repeat' with_reducible first
    | assumption
    | refine State.Kept.foldl ?_ (fun _ _ _ => ?_)
    | apply State.dropHold_kept
    | apply State.modChunk_kept
    | apply State.modCol_kept
    | split

theorem State.takeResult_kept {s₀ s : State} (hk : s₀.Kept s) (k : Nat) (x : InFrame) : s₀.Kept (s.takeResult k x) := by
  unfold State.takeResult
  try dsimp only
  repeat' with_reducible first
    | assumption
    | apply State.dropHold_kept
    | apply State.modCol_kept
    | apply State.resultHere_kept
    | split

theorem State.colRebase_kept {s₀ s : State} (hk : s₀.Kept s) (base : DWord) : s₀.Kept (s.colRebase base) := by
  unfold State.colRebase
  try dsimp only
  repeat' with_reducible first
    | assumption
    | apply State.modCol_kept

/-! ## Faults -/

theorem State.bookPut_kept {s₀ s : State} (hk : s₀.Kept s) (x : BookRec) : s₀.Kept (s.bookPut x) := by
  unfold State.bookPut
  try dsimp only
  repeat' with_reducible first
    | assumption
    | apply State.modBook_kept
    | split

theorem State.event_kept {s₀ s : State} (hk : s₀.Kept s) (code detail : Nat) : s₀.Kept (s.event code detail) := by
  unfold State.event
  try dsimp only
  repeat' with_reducible first
    | assumption
    | apply State.bookPut_kept

theorem State.bookFault_kept {s₀ s : State} (hk : s₀.Kept s) (src cls detail : Nat) : s₀.Kept (s.bookFault src cls detail) := by
  unfold State.bookFault
  try dsimp only
  repeat' with_reducible first
    | assumption
    | apply State.bookPut_kept
    | split

theorem State.pulse_kept {s₀ s : State} (hk : s₀.Kept s) : s₀.Kept (s.pulse) := by
  unfold State.pulse
  try dsimp only
  repeat' with_reducible first
    | assumption
    | apply State.modFault_kept
    | split

theorem State.endHold_kept {s₀ s : State} (hk : s₀.Kept s) (why : Nat) : s₀.Kept (s.endHold why) := by
  unfold State.endHold
  try dsimp only
  repeat' with_reducible first
    | assumption
    | apply State.modHealth_kept
    | apply State.event_kept
    | split

theorem State.enterFatal_kept {s₀ s : State} (hk : s₀.Kept s) : s₀.Kept (s.enterFatal) := by
  unfold State.enterFatal
  try dsimp only
  repeat' with_reducible first
    | assumption
    | refine State.Kept.foldl ?_ (fun _ _ _ => ?_)
    | apply State.haltFault_kept
    | apply State.closeLauter_kept
    | apply State.declareDown_kept
    | apply State.modLink_kept
    | apply State.modJournal_kept
    | apply State.modFault_kept
    | apply State.endHold_kept
    | split

theorem State.takeFault_kept {s₀ s : State} (hk : s₀.Kept s) (r : FaultRec) : s₀.Kept (s.takeFault r) := by
  unfold State.takeFault
  extract_lets cls act fatal w bit g s0 s1 latches sn s2 enters s3 s4 s5 memory s6 s7
  have h1 : s₀.Kept s1 := State.hwSet_kept (State.modFault_kept hk _) _ _
  have hn : s₀.Kept sn := by
    unfold sn; split
    · exact h1
    · exact State.modFault_kept h1 _
  have h2 : s₀.Kept s2 := by
    unfold s2; split
    · exact hn
    · split <;> exact State.modFault_kept hn _
  have h3 : s₀.Kept s3 := by
    unfold s3; split
    · exact State.modFault_kept h2 _
    · exact h2
  have h4 : s₀.Kept s4 := by
    unfold s4; split
    · exact State.pulse_kept h3
    · exact h3
  have h5 : s₀.Kept s5 := by
    unfold s5; split
    · exact State.retractOpen_kept h4
    · exact h4
  have h6 : s₀.Kept s6 := by
    unfold s6; split
    · exact State.retractTun_kept h5 _
    · exact h5
  have h7 : s₀.Kept s7 := State.bookFault_kept h6 _ _ _
  split
  · exact State.enterFatal_kept h7
  · exact h7

theorem State.rescore_kept {s₀ s : State} (hk : s₀.Kept s) : s₀.Kept (s.rescore) := by
  unfold State.rescore
  try dsimp only
  repeat' with_reducible first
    | assumption
    | apply State.modHealth_kept
    | apply State.event_kept
    | split

/-- The overwriting of a proving run leaves an HBM that lists nothing. -/
theorem State.overwriteAll_kept {s₀ s : State} (hk : s₀.Kept s) : s₀.Kept s.overwriteAll := by
  unfold State.overwriteAll
  extract_lets n s1
  have h1 : s₀.Kept s1 := State.Kept.foldl hk fun u t hu => State.modTun_kept
    (State.dropWaits_kept (State.dropCrossings_kept (State.closeStreams_kept hu _) _) _) _ _
  clear_value s1
  exact h1.fresh rfl rfl (.inl rfl)

theorem State.endProve_kept {s₀ s : State} (hk : s₀.Kept s) (pass : Bool) : s₀.Kept (s.endProve pass) := by
  unfold State.endProve
  try dsimp only
  repeat' with_reducible first
    | assumption
    | apply State.modHealth_kept
    | apply State.raise_kept
    | apply State.event_kept
    | apply State.endHold_kept
    | apply State.rescore_kept
    | split

/-! ## FlagWaits -/

theorem State.setWalk_kept {s₀ s : State} (hk : s₀.Kept s) (w : Walk) (w' : Option Walk) : s₀.Kept (s.setWalk w w') := by
  unfold State.setWalk
  try dsimp only
  repeat' with_reducible first
    | assumption
    | split
    | exact hk.same rfl rfl rfl rfl

/-! ## Token -/

theorem portNum_le (p : HostPort) : portNum p ≤ 2 := by cases p <;> decide

theorem State.setHolder_kept {s₀ s : State} (hk : s₀.Kept s) (h last : Nat) (hh : h ≤ 2) : s₀.Kept (s.setHolder h last) := by
  unfold State.setHolder
  dsimp only
  repeat' with_reducible first
    | assumption
    | apply State.signalBoth_kept
    | apply State.modHost_kept
    | exact .inr hh
    | split
  all_goals (unfold HostSt.setReq; split <;> exact .inl rfl)

theorem State.releaseToken_kept {s₀ s : State} (hk : s₀.Kept s) (p : HostPort) (last : Nat) : s₀.Kept (s.releaseToken p last) := by
  unfold State.releaseToken
  try dsimp only
  repeat' with_reducible first
    | assumption
    | apply State.setHolder_kept
    | split
    | exact hk.same rfl rfl rfl rfl
    | exact Nat.zero_le _
    | exact portNum_le _

theorem State.tokenCommand_kept {s₀ s : State} (hk : s₀.Kept s) (p : HostPort) (act : State → State) (hact : ∀ u, s₀.Kept u → s₀.Kept (act u)) : s₀.Kept (s.tokenCommand p act) := by
  unfold State.tokenCommand
  try dsimp only
  repeat' with_reducible first
    | assumption
    | apply State.flushPosted_kept
    | apply hact
    | split

theorem State.holderLost_kept {s₀ s : State} (hk : s₀.Kept s) (p : HostPort) : s₀.Kept (s.holderLost p) := by
  unfold State.holderLost
  try dsimp only
  repeat' with_reducible first
    | assumption
    | apply State.modHost_kept
    | split
    | exact .inl rfl

theorem State.holderBack_kept {s₀ s : State} (hk : s₀.Kept s) (p : HostPort) : s₀.Kept (s.holderBack p) := by
  unfold State.holderBack
  try dsimp only
  repeat' with_reducible first
    | assumption
    | apply State.lost_kept
    | apply State.modHost_kept
    | split
    | exact .inl rfl

theorem State.configured_kept {s₀ s : State} (hk : s₀.Kept s) (p : HostPort) (cfg : PciCfg) (clr : AerClear) : s₀.Kept (s.configured p cfg clr) := by
  unfold State.configured
  try dsimp only
  repeat' with_reducible first
    | assumption
    | refine State.Kept.foldl ?_ (fun _ _ _ => ?_)
    | apply State.modPort_kept
    | apply State.flushVector_kept

theorem State.aerError_kept {s₀ s : State} (hk : s₀.Kept s) (p : HostPort) (bit : Nat) : s₀.Kept (s.aerError p bit) := by
  unfold State.aerError
  try dsimp only
  repeat' with_reducible first
    | assumption
    | apply State.modPort_kept

/-! ## Power -/

theorem State.loopsSeen_kept {s₀ s : State} (hk : s₀.Kept s) : s₀.Kept (s.loopsSeen) := by
  unfold State.loopsSeen
  try dsimp only
  repeat' with_reducible first
    | assumption
    | apply State.modPower_kept

theorem State.guardEngages_kept {s₀ s : State} (hk : s₀.Kept s) : s₀.Kept (s.guardEngages) := by
  unfold State.guardEngages
  try dsimp only
  repeat' with_reducible first
    | assumption
    | apply State.mark_kept
    | apply State.raise_kept

theorem State.pwrRefuse_kept {s₀ s : State} (hk : s₀.Kept s) : s₀.Kept (s.pwrRefuse) := by
  unfold State.pwrRefuse
  try dsimp only
  repeat' with_reducible first
    | assumption
    | apply State.modPower_kept

/-! ## Reset -/

theorem State.restoredBits_kept {s₀ s : State} (hk : s₀.Kept s) (n : Nat) : s₀.Kept (s.restoredBits n) := by
  unfold State.restoredBits
  try dsimp only
  repeat' with_reducible first
    | assumption
    | apply State.modPower_kept

theorem State.leaveStandby_kept {s₀ s : State} (hk : s₀.Kept s) : s₀.Kept s.leaveStandby := by
  unfold State.leaveStandby
  extract_lets s1 s2 s3 s4
  have h4 : s₀.Kept s4 := State.chooseParent_kept (State.timePhase_kept (State.Kept.foldl
    (State.modSec_kept (State.modPower_kept hk _) _) fun _ _ h => State.modTun_kept h _ _) _)
  split
  · exact State.timePhase_kept h4 _
  · exact h4

theorem State.flushLauter_kept {s₀ s : State} (hk : s₀.Kept s) (u : Nat) : s₀.Kept (s.flushLauter u) := by
  unfold State.flushLauter
  try dsimp only
  repeat' with_reducible first
    | assumption
    | refine State.Kept.foldl ?_ (fun _ _ _ => ?_)
    | apply State.raise_kept
    | apply State.taken_kept
    | apply State.cutSource_kept
    | split

theorem State.flushLink_kept {s₀ s : State} (hk : s₀.Kept s) (p : Nat) : s₀.Kept (s.flushLink p) := by
  unfold State.flushLink
  try dsimp only
  repeat' with_reducible first
    | assumption
    | apply State.raise_kept
    | split

theorem State.flushHost_kept {s₀ s : State} (hk : s₀.Kept s) (p : HostPort) : s₀.Kept (s.flushHost p) := by
  unfold State.flushHost
  try dsimp only
  repeat' with_reducible first
    | assumption
    | refine State.Kept.foldl ?_ (fun _ _ _ => ?_)
    | apply State.raise_kept
    | apply State.taken_kept
    | apply State.cutSource_kept
    | split

theorem State.flushQueues_kept {s₀ s : State} (hk : s₀.Kept s) (t : Nat) : s₀.Kept (s.flushQueues t) := by
  unfold State.flushQueues
  try dsimp only
  repeat' with_reducible first
    | assumption
    | refine State.Kept.foldl ?_ (fun _ _ _ => ?_)
    | apply State.raise_kept
    | split

theorem State.flushCtl_kept {s₀ s : State} (hk : s₀.Kept s) (k : Nat) : s₀.Kept (s.flushCtl k) := by
  unfold State.flushCtl
  try dsimp only
  repeat' with_reducible first
    | assumption
    | apply State.raise_kept
    | split

theorem State.flushSpared_kept {s₀ s : State} (hk : s₀.Kept s) : s₀.Kept (s.flushSpared) := by
  unfold State.flushSpared
  try dsimp only
  repeat' with_reducible first
    | assumption
    | refine State.Kept.foldl ?_ (fun _ _ _ => ?_)
    | apply State.raise_kept
    | split

theorem State.queuesReset_kept {s₀ s : State} (hk : s₀.Kept s) (q : Nat → Bool) : s₀.Kept (s.queuesReset q) := by
  unfold State.queuesReset
  try dsimp only
  repeat' with_reducible first
    | assumption
    | apply State.modHost_kept
    | apply State.modCore_kept
    | split
    | exact .inl rfl
    | exact hk.same rfl rfl rfl rfl

theorem State.stageLost_kept {s₀ s : State} (hk : s₀.Kept s) : s₀.Kept (s.stageLost) := by
  unfold State.stageLost
  try dsimp only
  repeat' with_reducible first
    | assumption
    | apply State.gristPhase_kept
    | apply State.modGrist_kept
    | apply State.restoredBits_kept
    | split

theorem State.refence_kept {s₀ s : State} (hk : s₀.Kept s) (p : Nat) : s₀.Kept (s.refence p) := by
  unfold State.refence
  try dsimp only
  repeat' with_reducible first
    | assumption
    | apply State.modLink_kept

theorem State.linksReset_kept {s₀ s : State} (hk : s₀.Kept s) (phase : LinkPhase) : s₀.Kept (s.linksReset phase) := by
  unfold State.linksReset
  try dsimp only
  repeat' with_reducible first
    | assumption
    | refine State.Kept.foldl ?_ (fun _ _ _ => ?_)
    | apply State.modTime_kept
    | apply State.chooseParent_kept
    | apply State.modLink_kept

theorem State.maltingsReset_kept {s₀ s : State} (hk : s₀.Kept s) : s₀.Kept (s.maltingsReset) := by
  exact hk.same rfl rfl rfl rfl

theorem State.silentDefaults_kept {s₀ s : State} (hk : s₀.Kept s) : s₀.Kept (s.silentDefaults) := by
  unfold State.silentDefaults
  try dsimp only
  repeat' with_reducible first
    | assumption
    | apply State.modFault_kept
    | apply State.modSec_kept
    | apply State.modTime_kept

theorem State.proveCut_kept {s₀ s : State} (hk : s₀.Kept s) : s₀.Kept (s.proveCut) := by
  unfold State.proveCut
  try dsimp only
  repeat' with_reducible first
    | assumption
    | apply State.endProve_kept
    | split

theorem State.islandReset_kept {s₀ s : State} (hk : s₀.Kept s) (n : Nat) : s₀.Kept (s.islandReset n) := by
  unfold State.islandReset
  split
  · split
    · exact hk
    · exact State.unforce_kept (State.islandTun_kept (State.cutTun_kept (State.flushQueues_kept
        (State.flushCrossings_kept hk _ _) _) _) _ _) _ _
  · split
    · exact State.streams_kept (State.modCtl_kept (State.unforce_kept (State.flushCtl_kept hk _) _ _) _ _) _
    · split
      · refine State.lauters_kept (State.Kept.foldl (State.unforce_kept
          (State.retractOpen_kept (State.closeLauter_kept (State.flushLauter_kept hk _) _)) _ _) ?_) _
        exact fun u i hu => State.modCtx_kept (State.Kept.foldl hu fun v k hv => State.dropHolds_kept hv k) _ _
      · exact State.modLink_kept (State.unforce_kept (State.refence_kept (State.declareDown_kept
          (State.flushLink_kept hk _) _ _ _) _) _ _) _ _

/-- Power that is lost takes HBM with it, and the control token from its holder. -/
theorem State.lost_kept {s₀ s : State} (hk : s₀.Kept s) : s₀.Kept s.lost := hk.fresh rfl rfl (.inr rfl)

theorem State.bootStep_kept {s₀ s : State} (hk : s₀.Kept s) (n : Nat) : s₀.Kept (s.bootStep n) := by
  unfold State.bootStep
  try dsimp only
  repeat' with_reducible first
    | assumption
    | refine State.Kept.foldl ?_ (fun _ _ _ => ?_)
    | apply State.modPower_kept
    | apply State.modCtl_kept
    | apply State.modLink_kept
    | apply State.discSettle_kept
    | split
    | exact hk.same rfl rfl rfl rfl

theorem State.stackTrained_kept {s₀ s : State} (hk : s₀.Kept s) (k : Nat) : s₀.Kept (s.stackTrained k) := by
  unfold State.stackTrained
  try dsimp only
  repeat' with_reducible first
    | assumption
    | apply State.useFree_kept
    | apply State.modCtl_kept

theorem State.stepPassed_kept {s₀ s : State} (hk : s₀.Kept s) (n : Nat) : s₀.Kept (s.stepPassed n) := by
  unfold State.stepPassed
  try dsimp only
  repeat' with_reducible first
    | assumption
    | refine State.Kept.foldl ?_ (fun _ _ _ => ?_)
    | apply State.modPower_kept
    | apply State.modBook_kept
    | apply State.modSec_kept
    | apply State.corePhase_kept
    | apply State.stackTrained_kept
    | apply State.performWaiting_kept
    | split

/-! ## Security -/

theorem State.secDone_kept {s₀ s : State} (hk : s₀.Kept s) (cmd code : Nat) : s₀.Kept (s.secDone cmd code) := by
  unfold State.secDone
  try dsimp only
  repeat' with_reducible first
    | assumption
    | apply State.modSec_kept

theorem State.fwFails_kept {s₀ s : State} (hk : s₀.Kept s) (code : Nat) : s₀.Kept (s.fwFails code) := by
  unfold State.fwFails
  try dsimp only
  repeat' with_reducible first
    | assumption
    | apply State.modHost_kept
    | apply State.secDone_kept
    | apply State.modSec_kept
    | split
    | exact .inl rfl

theorem State.fwReads_kept {s₀ : State} (n : Nat) (s : State) (hk : s₀.Kept s) : s₀.Kept (s.fwReads n) := by
  induction n generalizing s with
  | zero => exact hk
  | succ n ih =>
    unfold State.fwReads
    dsimp only
    split
    · exact hk
    · exact ih _ (State.modSec_kept (State.hostRead_kept hk _ _ _ _) _)

theorem State.fwData_kept {s₀ s : State} (hk : s₀.Kept s) (off len : Nat) (c : HostCpl) : s₀.Kept (s.fwData off len c) := by
  unfold State.fwData
  try dsimp only
  repeat' with_reducible first
    | assumption
    | apply State.modSec_kept
    | apply State.fwReads_kept
    | apply State.bootStep_kept
    | apply State.fwFails_kept
    | split

theorem State.fwDone_kept {s₀ s : State} (hk : s₀.Kept s) (code : Nat) : s₀.Kept (s.fwDone code) := by
  unfold State.fwDone
  try dsimp only
  repeat' with_reducible first
    | assumption
    | apply State.secDone_kept
    | apply State.modSec_kept
    | split

theorem State.ownerCommand_kept {s₀ s : State} (hk : s₀.Kept s) (p : HostPort) (e : Ecc) (op : Nat)
    (accepts : State → Bool) (act : List Byte → State → State) (ha : ∀ b u, s₀.Kept u → s₀.Kept (act b u)) :
    s₀.Kept (s.ownerCommand p e op accepts act) := by
  unfold State.ownerCommand
  refine State.hostWrite_kept hk _ _ _ fun u hu => ?_
  dsimp only
  repeat' with_reducible first
    | assumption
    | apply State.secDone_kept
    | apply State.modSec_kept
    | apply ha
    | apply State.eccRead_kept
    | split

theorem State.discardStage_kept {s₀ s : State} (hk : s₀.Kept s) : s₀.Kept (s.discardStage) := by
  unfold State.discardStage
  try dsimp only
  repeat' with_reducible first
    | assumption
    | apply State.dropStage_kept
    | apply State.gristPhase_kept
    | split

theorem State.mgmtReply_kept {s₀ s : State} (hk : s₀.Kept s) (bytes : List Byte) : s₀.Kept (s.mgmtReply bytes) := by
  unfold State.mgmtReply
  try dsimp only
  repeat' with_reducible first
    | assumption
    | refine State.Kept.foldl ?_ (fun _ _ _ => ?_)
    | apply State.emit_kept

theorem State.mgmtWake_kept {s₀ s : State} (hk : s₀.Kept s) (block : List Byte) : s₀.Kept (s.mgmtWake block) := by
  unfold State.mgmtWake
  try dsimp only
  repeat' with_reducible first
    | assumption
    | apply State.modSec_kept
    | apply State.leaveStandby_kept
    | split

theorem State.readEnds_kept {s₀ s : State} (hk : s₀.Kept s) (r : HostRead) (c : HostCpl) : s₀.Kept (s.readEnds r c) := by
  unfold State.readEnds
  try dsimp only
  repeat' with_reducible first
    | assumption
    | apply State.modHost_kept
    | apply State.descData_kept
    | apply State.opData_kept
    | apply State.fwData_kept
    | split
    | exact .inl rfl

/-! ## Registers -/

theorem State.gristSet_kept {s₀ s : State} (hk : s₀.Kept s) (o : Nat) (v : Word) : s₀.Kept (s.gristSet o v) := by
  unfold State.gristSet
  try dsimp only
  repeat' with_reducible first
    | assumption
    | apply State.modGrist_kept
    | split

theorem State.ftcSet_kept {s₀ s : State} (hk : s₀.Kept s) (o : Nat) (v : Word) : s₀.Kept (s.ftcSet o v) := by
  unfold State.ftcSet
  try dsimp only
  repeat' with_reducible first
    | assumption
    | apply State.modTime_kept
    | apply State.timeCfgWrite_kept
    | split

theorem State.hstSet_kept {s₀ s : State} (hk : s₀.Kept s) (o : Nat) (v : Word) : s₀.Kept (s.hstSet o v) := by
  unfold State.hstSet
  try dsimp only
  repeat' with_reducible first
    | assumption
    | apply State.modHost_kept
    | split
    | exact .inl rfl

theorem State.fltSet_kept {s₀ s : State} (hk : s₀.Kept s) (o : Nat) (v : Word) : s₀.Kept (s.fltSet o v) := by
  unfold State.fltSet
  try dsimp only
  repeat' with_reducible first
    | assumption
    | apply State.modFault_kept
    | split

theorem State.clbSet_kept {s₀ s : State} (hk : s₀.Kept s) (o : Nat) (v : Word) : s₀.Kept (s.clbSet o v) := by
  unfold State.clbSet
  try dsimp only
  repeat' with_reducible first
    | assumption
    | apply State.modBook_kept
    | split

theorem State.pwrSet_kept {s₀ s : State} (hk : s₀.Kept s) (o : Nat) (v : Word) : s₀.Kept (s.pwrSet o v) := by
  unfold State.pwrSet
  try dsimp only
  repeat' with_reducible first
    | assumption
    | apply State.modPower_kept
    | apply State.modGrist_kept
    | split

theorem State.secSet_kept {s₀ s : State} (hk : s₀.Kept s) (o : Nat) (v : Word) : s₀.Kept (s.secSet o v) := by
  unfold State.secSet
  try dsimp only
  repeat' with_reducible first
    | assumption
    | apply State.modSec_kept
    | split

theorem State.hbmSet_kept {s₀ s : State} (hk : s₀.Kept s) (k o : Nat) (v : Word) : s₀.Kept (s.hbmSet k o v) := by
  unfold State.hbmSet
  try dsimp only
  repeat' with_reducible first
    | assumption
    | apply State.modCtl_kept
    | split

theorem State.lnkSet_kept {s₀ s : State} (hk : s₀.Kept s) (k o : Nat) (v : Word) : s₀.Kept (s.lnkSet k o v) := by
  unfold State.lnkSet
  try dsimp only
  repeat' with_reducible first
    | assumption
    | apply State.modLink_kept
    | apply State.lost_kept
    | apply State.modLane_kept
    | split

theorem State.mltSet_kept {s₀ s : State} (hk : s₀.Kept s) (o : Nat) (v : Word) : s₀.Kept (s.mltSet o v) := by
  unfold State.mltSet
  try dsimp only
  repeat' with_reducible first
    | assumption
    | apply State.modCore_kept
    | apply State.modGrist_kept
    | apply State.modJournal_kept
    | apply State.modCu_kept
    | split
    | exact hk.same rfl rfl rfl rfl

theorem State.grnSet_kept {s₀ s : State} (hk : s₀.Kept s) (o : Nat) (v : Word) : s₀.Kept (s.grnSet o v) := by
  unfold State.grnSet
  try dsimp only
  repeat' with_reducible first
    | assumption
    | apply State.modGranary_kept
    | split

theorem State.ltrSet_kept {s₀ s : State} (hk : s₀.Kept s) (k o : Nat) (v : Word) : s₀.Kept (s.ltrSet k o v) := by
  unfold State.ltrSet
  try dsimp only
  repeat' with_reducible first
    | assumption
    | apply State.modLauter_kept
    | split

theorem State.colSet_kept {s₀ s : State} (hk : s₀.Kept s) (o : Nat) (v : Word) : s₀.Kept (s.colSet o v) := by
  unfold State.colSet
  try dsimp only
  repeat' with_reducible first
    | assumption
    | apply State.modCol_kept
    | apply State.retracted_kept
    | split

theorem State.tunSet_kept {s₀ s : State} (hk : s₀.Kept s) (k o : Nat) (v : Word) : s₀.Kept (s.tunSet k o v) := by
  unfold State.tunSet
  try dsimp only
  repeat' with_reducible first
    | assumption
    | apply State.modTun_kept
    | split

theorem State.sqSet_kept {s₀ s : State} (hk : s₀.Kept s) (q o : Nat) (v : Word) : s₀.Kept (s.sqSet q o v) := by
  unfold State.sqSet
  try dsimp only
  repeat' with_reducible first
    | assumption
    | apply State.modSq_kept
    | split

theorem State.blockSet_kept {s₀ s : State} (hk : s₀.Kept s) (b : Bar0Block) (o : Nat) (v : Word) : s₀.Kept (s.blockSet b o v) := by
  unfold State.blockSet
  try dsimp only
  repeat' with_reducible first
    | assumption
    | apply State.gristSet_kept
    | apply State.ftcSet_kept
    | apply State.hstSet_kept
    | apply State.fltSet_kept
    | apply State.clbSet_kept
    | apply State.pwrSet_kept
    | apply State.secSet_kept
    | apply State.hbmSet_kept
    | apply State.lnkSet_kept
    | apply State.mltSet_kept
    | apply State.grnSet_kept
    | apply State.ltrSet_kept
    | apply State.colSet_kept
    | apply State.tunSet_kept
    | apply State.sqSet_kept
    | split

theorem State.pairStore_kept {s₀ s : State} (hk : s₀.Kept s) (b : Bar0Block) (o : Nat) (d : DWord) : s₀.Kept (s.pairStore b o d) := by
  unfold State.pairStore
  try dsimp only
  repeat' with_reducible first
    | assumption
    | apply State.modGrist_kept
    | apply State.modTime_kept
    | apply State.modPort_kept
    | apply State.modBook_kept
    | apply State.modSec_kept
    | apply State.modJournal_kept
    | apply State.modCore_kept
    | apply State.modCu_kept
    | apply State.modTun_kept
    | apply State.modSq_kept
    | split

theorem State.read32_kept {s₀ s : State} (hk : s₀.Kept s) (p : HostPort) (off : Nat) : s₀.Kept (s.read32 p off).1 := by
  have h1 : ∀ x, s₀.Kept (match x with
      | Bar0Block.tun n => if s.forwardOnly n = true then s else s.touchKettle (n / 48) | _ => s) := by
    intro x; split
    · split
      · exact hk
      · exact State.touchKettle_kept hk _
    · exact hk
  unfold State.read32
  dsimp only
  split
  · split <;> exact hk
  · split
    · exact State.badAccess_kept hk _ _
    · split
      · exact State.modPort_kept (h1 _) _ _
      · split
        · exact State.modPort_kept (h1 _) _ _
        · exact h1 _
      · exact h1 _


theorem State.hostReadPart_kept {s₀ s : State} (hk : s₀.Kept s) (p : HostPort) (off size : Nat) :
    s₀.Kept (s.hostReadPart p off size) := by
  unfold State.hostReadPart
  exact State.emit_kept (State.read32_kept hk _ _) _

theorem State.hostReadWord_kept {s₀ s : State} (hk : s₀.Kept s) (p : HostPort) (off size : Nat) : s₀.Kept (s.hostReadWord p off size) := by
  unfold State.hostReadWord
  try dsimp only
  repeat' with_reducible first
    | assumption
    | apply State.flushPosted_kept
    | apply State.hostReadPart_kept
    | split

/-! ## TapOps -/

theorem State.modTap_kept {s₀ s : State} (hk : s₀.Kept s) (f : Tap → Tap) : s₀.Kept (s.modTap f) := by
  exact hk

theorem State.tapRise_kept {s₀ s : State} (hk : s₀.Kept s) (tms tdi : Bool) : s₀.Kept (s.tapRise tms tdi) := by
  unfold State.tapRise
  try dsimp only
  repeat' with_reducible first
    | assumption
    | apply State.modTap_kept
    | apply State.useFree_kept
    | split

theorem State.tapFall_kept {s₀ s : State} (hk : s₀.Kept s) : s₀.Kept (s.tapFall) := by
  unfold State.tapFall
  try dsimp only
  repeat' with_reducible first
    | assumption
    | apply State.modTap_kept

/-! ## TunMatrix -/

theorem State.loadRow_kept {s₀ s : State} (hk : s₀.Kept s) (id : Nat) (x : Slot) (isW : Bool) (tile row : Nat) : s₀.Kept (s.loadRow id x isW tile row) := by
  unfold State.loadRow
  try dsimp only
  repeat' with_reducible first
    | assumption
    | apply State.slipEmpty_kept
    | apply State.slipRes_kept
    | apply State.setTun_kept
    | apply State.fly_kept
    | split

theorem State.product_kept {s₀ s : State} (hk : s₀.Kept s) (id : Nat) (x : Slot) (bitmap : Option Nat) : s₀.Kept (s.product id x bitmap) := by
  unfold State.product
  try dsimp only
  repeat' with_reducible first
    | assumption
    | refine State.Kept.foldl ?_ (fun _ _ _ => ?_)
    | apply State.slipRes_kept
    | apply State.modTun_kept
    | split

/-! ## TunVector -/

theorem State.vectorOp_kept {s₀ s : State} (hk : s₀.Kept s) (id : Nat) (x : Slot) (rs : List Nat) (lat : Nat) (f : Tun → Nat → Nat × Nat) : s₀.Kept (s.vectorOp id x rs lat f) := by
  unfold State.vectorOp
  try dsimp only
  repeat' with_reducible first
    | assumption
    | refine State.Kept.foldl ?_ (fun _ _ _ => ?_)
    | apply State.slipRes_kept
    | apply State.fly_kept
    | split

theorem State.vectorAB_kept {s₀ s : State} (hk : s₀.Kept s) (id : Nat) (x : Slot) (lat : Nat) (f : Nat → Nat → Nat × Nat) : s₀.Kept (s.vectorAB id x lat f) := by
  unfold State.vectorAB
  try dsimp only
  repeat' with_reducible first
    | assumption
    | apply State.vectorOp_kept

theorem State.vectorA_kept {s₀ s : State} (hk : s₀.Kept s) (id : Nat) (x : Slot) (lat : Nat) (f : Nat → Nat × Nat) : s₀.Kept (s.vectorA id x lat f) := by
  unfold State.vectorA
  try dsimp only
  repeat' with_reducible first
    | assumption
    | apply State.vectorOp_kept

theorem State.vectorTree_kept {s₀ s : State} (hk : s₀.Kept s) (id : Nat) (x : Slot) (lat : Nat) (f : Nat → Nat → Nat × Nat) : s₀.Kept (s.vectorTree id x lat f) := by
  unfold State.vectorTree
  try dsimp only
  repeat' with_reducible first
    | assumption
    | apply State.vectorOp_kept

end Sys2Proof.Machine
end

