-- ==== Sys2Proof/Laws/Memory.lean ====
section
/-! SUPPORT. Laws/Memory.lean: the laws of HBM and of tun memory: two package addresses
never share a byte (R139), a read after a write to the same byte gives what was written,
a write leaves every other byte alone, and every write keeps the canonical form. -/
namespace Sys2Proof.Machine

/-- A number is known by its quotient and remainder. -/
theorem eq_of_div_mod {a b : Nat} (n : Nat) (h : a / n = b / n) (g : a % n = b % n) : a = b := by
  rw [← Nat.div_add_mod a n, ← Nat.div_add_mod b n, h, g]

/-- Two numbers written with one base agree in both digits. -/
theorem digits_eq {n s t l m : Nat} (h : s * n + l = t * n + m) (hl : l < n) (hm : m < n) : s = t ∧ l = m := by
  have h1 : s = t := by
    have := congrArg (· / n) h
    simpa [Nat.mul_comm _ n, Nat.mul_add_div (Nat.zero_lt_of_lt hl), Nat.div_eq_of_lt hl, Nat.div_eq_of_lt hm] using this
  subst h1
  exact ⟨rfl, Nat.add_left_cancel h⟩

/-- The part of a stack-local address above the 4 KiB page. -/
theorem page_lt {q n : Nat} (h : q < 25165824 * n) : q / n < 25165824 :=
  Nat.div_lt_of_lt_mul (by rw [Nat.mul_comm]; exact h)

/-- The pages of two addresses, spread over `n` stacks, that have one byte are equal. -/
theorem pages_eq {n x y u v : Nat} (hn : 0 < n) (hx : x / 4096 < 25165824 * n) (hy : y / 4096 < 25165824 * n)
    (h : (u * n + x / 4096 % n) * 103079215104 + (x / 4096 / n % 33554432 * 4096 + x % 4096)
      = (v * n + y / 4096 % n) * 103079215104 + (y / 4096 / n % 33554432 * 4096 + y % 4096)) : u = v ∧ x = y := by
  have px := page_lt hx
  have py := page_lt hy
  have rx : x % 4096 < 4096 := Nat.mod_lt _ (by decide)
  have ry : y % 4096 < 4096 := Nat.mod_lt _ (by decide)
  rw [Nat.mod_eq_of_lt (Nat.lt_trans px (by decide)), Nat.mod_eq_of_lt (Nat.lt_trans py (by decide))] at h
  obtain ⟨h1, h2⟩ := digits_eq h (by omega) (by omega)
  obtain ⟨h3, h4⟩ := digits_eq h2 rx ry
  obtain ⟨h5, h6⟩ := digits_eq h1 (Nat.mod_lt _ hn) (Nat.mod_lt _ hn)
  exact ⟨h5, eq_of_div_mod 4096 (eq_of_div_mod n h3 h6) h4⟩

/-- The map gives no two package addresses one byte (R139). -/
theorem hbmKey_inj {mode a b k : Nat} (h : hbmKey mode a = some k) (g : hbmKey mode b = some k) : a = b := by
  unfold hbmKey mapAddr at h g
  simp only [bitsOf, Nat.reducePow, Nat.reduceAdd, Nat.reduceSub] at h g
  split at h
  · simp at h
  split at g
  · simp at g
  rename_i la lb
  split at h
  · rename_i hm
    simp only [hm, if_true, Option.map_some, Option.some.injEq] at h g
    have e : ∀ x, x / 16384 = x / 4096 / 4 := fun x => by rw [Nat.div_div_eq_div_mul]
    rw [e] at h g
    have hx : a % 412316860416 < 412316860416 := Nat.mod_lt _ (by decide)
    have hy : b % 412316860416 < 412316860416 := Nat.mod_lt _ (by decide)
    obtain ⟨h1, h2⟩ := pages_eq (n := 4) (by decide) (by omega) (by omega) (h.trans g.symm)
    exact eq_of_div_mod _ h1 h2
  · rename_i hm
    simp only [hm, Bool.false_eq_true, if_false, Option.map_some, Option.some.injEq] at h g
    have e : ∀ x, x / 65536 = x / 4096 / 16 := fun x => by rw [Nat.div_div_eq_div_mul]
    rw [e] at h g
    exact (pages_eq (n := 16) (u := 0) (v := 0) (by decide) (by omega) (by omega) (by
      simpa only [Nat.zero_mul, Nat.zero_add] using h.trans g.symm)).2

/-- Only addresses below 1.5 TiB have a byte (R141). -/
theorem key_isSome {s : State} {a : Nat} : (s.key a).isSome = true ↔ a < 0x18000000000 := by
  unfold State.key hbmKey mapAddr
  split
  · simp; omega
  · split <;> simp <;> omega

@[simp] theorem hbmPut_nil (s : State) (a : Nat) : s.hbmPut a [] = s := rfl

/-- A write of HBM changes nothing but HBM. -/
theorem hbmPut_frame (s : State) (a : Nat) (bs : List Byte) : s.hbmPut a bs = { s with hbm := (s.hbmPut a bs).hbm } := by
  induction bs generalizing s a with
  | nil => rfl
  | cons b bs ih =>
    unfold State.hbmPut
    rw [ih]
    split <;> rfl

@[simp] theorem hbmPut_hbmFill (s : State) (a : Nat) (bs : List Byte) : (s.hbmPut a bs).hbmFill = s.hbmFill := by
  rw [hbmPut_frame]
@[simp] theorem hbmPut_key (s : State) (a : Nat) (bs : List Byte) (b : Nat) : (s.hbmPut a bs).key b = s.key b := by
  rw [hbmPut_frame]; rfl
@[simp] theorem hbmPut_tuns (s : State) (a : Nat) (bs : List Byte) : (s.hbmPut a bs).tuns = s.tuns := by
  rw [hbmPut_frame]
@[simp] theorem hbmPut_pending (s : State) (a : Nat) (bs : List Byte) : (s.hbmPut a bs).pending = s.pending := by
  rw [hbmPut_frame]

/-- A write of one byte: that byte then reads as written. -/
theorem hbmByte_put_one_same {s : State} {a : Nat} (b : Byte) (h : a < 0x18000000000) :
    (s.hbmPut a [b]).hbmByte a = b := by
  obtain ⟨k, hk⟩ := Option.isSome_iff_exists.1 (key_isSome (s := s).2 h)
  have hk' : (s.hbmPut a [b]).key a = some k := by rw [hbmPut_key]; exact hk
  unfold State.hbmByte
  rw [hk']
  simp [State.hbmPut, hk]

/-- A write leaves every byte before it and every byte after it alone. -/
theorem hbmByte_put_other {s : State} {a : Nat} {bs : List Byte} {c : Nat} (h : c < a ∨ a + bs.length ≤ c) :
    (s.hbmPut a bs).hbmByte c = s.hbmByte c := by
  induction bs generalizing s a with
  | nil => rfl
  | cons b bs ih =>
    unfold State.hbmPut
    rw [ih (by simp only [List.length_cons] at h; omega)]
    split
    · rename_i k hk
      unfold State.hbmByte
      have : State.key { s with hbm := Tab.set (unlisted s.hbmFill k) s.hbm k b } c = s.key c := rfl
      rw [this]
      split
      · rename_i j hj
        have : j ≠ k := by
          rintro rfl
          have := hbmKey_inj hk hj
          simp only [List.length_cons] at h; omega
        by_cases hv : b = unlisted s.hbmFill k
        · simp only [Tab.set, hv, if_true]; exact Tab.get_drop_other _ _ this
        · simp only [Tab.set, hv, if_false]; exact Tab.get_put_other _ _ _ this
      · rfl
    · rfl

/-- A write of bytes: each byte then reads as written. -/
theorem hbmByte_put_same {s : State} {a : Nat} {bs : List Byte} {i : Nat} (h : i < bs.length) (ha : a + i < 0x18000000000) :
    (s.hbmPut a bs).hbmByte (a + i) = bs[i] := by
  induction bs generalizing s a i with
  | nil => simp at h
  | cons b bs ih =>
    unfold State.hbmPut
    cases i with
    | zero =>
      rw [hbmByte_put_other (by omega)]
      exact hbmByte_put_one_same (s := s) b ha
    | succ i =>
      rw [show a + (i + 1) = a + 1 + i by omega]
      exact ih (by simpa using h) (by omega)

/-- A write keeps the canonical form of HBM. -/
theorem hbmWf_put {s : State} (h : hbmWf s = true) (a : Nat) (bs : List Byte) : hbmWf (s.hbmPut a bs) = true := by
  induction bs generalizing s a with
  | nil => exact h
  | cons b bs ih =>
    unfold State.hbmPut
    refine ih ?_ _
    split
    · exact Tab.wfBy_set _ _ h
    · exact h

/-- A write of tun memory keeps its canonical form. -/
theorem tunMem_wf_bytes {t : Tun} (h : Tab.wfBy (unlisted t.memFill) t.mem = true) (a : Nat) (bs : List Byte) :
    Tab.wfBy (unlisted (t.memBytes a bs).memFill) (t.memBytes a bs).mem = true := Tab.wfBy_setManyBy _ _ h

end Sys2Proof.Machine
end

