-- ==== Sys2Proof/Laws/State.lean ====
section
/-! SUPPORT. Laws/State.lean: what each update of the state leaves and sets, field by
field, so that no proof unfolds a record update. -/
namespace Sys2Proof.Machine

/-! ## setTun -/

@[simp] theorem State.setTun_pending (s : State) (t : Nat) (x : Tun) : (s.setTun t x).pending = s.pending := rfl
@[simp] theorem State.setTun_time (s : State) (t : Nat) (x : Tun) : (s.setTun t x).time = s.time := rfl
@[simp] theorem State.setTun_clk (s : State) (t : Nat) (x : Tun) : (s.setTun t x).clk = s.clk := rfl
@[simp] theorem State.setTun_grist (s : State) (t : Nat) (x : Tun) : (s.setTun t x).grist = s.grist := rfl
@[simp] theorem State.setTun_tuns (s : State) (t : Nat) (x : Tun) : (s.setTun t x).tuns = Tab.set {} s.tuns t x := rfl
@[simp] theorem State.setTun_crossings (s : State) (t : Nat) (x : Tun) : (s.setTun t x).crossings = s.crossings := rfl
@[simp] theorem State.setTun_raises (s : State) (t : Nat) (x : Tun) : (s.setTun t x).raises = s.raises := rfl
@[simp] theorem State.setTun_walks (s : State) (t : Nat) (x : Tun) : (s.setTun t x).walks = s.walks := rfl
@[simp] theorem State.setTun_hbm (s : State) (t : Nat) (x : Tun) : (s.setTun t x).hbm = s.hbm := rfl
@[simp] theorem State.setTun_hbmFill (s : State) (t : Nat) (x : Tun) : (s.setTun t x).hbmFill = s.hbmFill := rfl
@[simp] theorem State.setTun_poison (s : State) (t : Nat) (x : Tun) : (s.setTun t x).poison = s.poison := rfl
@[simp] theorem State.setTun_latent (s : State) (t : Nat) (x : Tun) : (s.setTun t x).latent = s.latent := rfl
@[simp] theorem State.setTun_ctls (s : State) (t : Nat) (x : Tun) : (s.setTun t x).ctls = s.ctls := rfl
@[simp] theorem State.setTun_hbmMode (s : State) (t : Nat) (x : Tun) : (s.setTun t x).hbmMode = s.hbmMode := rfl
@[simp] theorem State.setTun_streams (s : State) (t : Nat) (x : Tun) : (s.setTun t x).streams = s.streams := rfl
@[simp] theorem State.setTun_journal (s : State) (t : Nat) (x : Tun) : (s.setTun t x).journal = s.journal := rfl
@[simp] theorem State.setTun_core (s : State) (t : Nat) (x : Tun) : (s.setTun t x).core = s.core := rfl
@[simp] theorem State.setTun_granary (s : State) (t : Nat) (x : Tun) : (s.setTun t x).granary = s.granary := rfl
@[simp] theorem State.setTun_lauters (s : State) (t : Nat) (x : Tun) : (s.setTun t x).lauters = s.lauters := rfl
@[simp] theorem State.setTun_atoms (s : State) (t : Nat) (x : Tun) : (s.setTun t x).atoms = s.atoms := rfl
@[simp] theorem State.setTun_col (s : State) (t : Nat) (x : Tun) : (s.setTun t x).col = s.col := rfl
@[simp] theorem State.setTun_links (s : State) (t : Nat) (x : Tun) : (s.setTun t x).links = s.links := rfl
@[simp] theorem State.setTun_disc (s : State) (t : Nat) (x : Tun) : (s.setTun t x).disc = s.disc := rfl
@[simp] theorem State.setTun_host (s : State) (t : Nat) (x : Tun) : (s.setTun t x).host = s.host := rfl
@[simp] theorem State.setTun_sqs (s : State) (t : Nat) (x : Tun) : (s.setTun t x).sqs = s.sqs := rfl
@[simp] theorem State.setTun_catchUp (s : State) (t : Nat) (x : Tun) : (s.setTun t x).catchUp = s.catchUp := rfl
@[simp] theorem State.setTun_fault (s : State) (t : Nat) (x : Tun) : (s.setTun t x).fault = s.fault := rfl
@[simp] theorem State.setTun_book (s : State) (t : Nat) (x : Tun) : (s.setTun t x).book = s.book := rfl
@[simp] theorem State.setTun_health (s : State) (t : Nat) (x : Tun) : (s.setTun t x).health = s.health := rfl
@[simp] theorem State.setTun_power (s : State) (t : Nat) (x : Tun) : (s.setTun t x).power = s.power := rfl
@[simp] theorem State.setTun_sec (s : State) (t : Nat) (x : Tun) : (s.setTun t x).sec = s.sec := rfl
@[simp] theorem State.setTun_tap (s : State) (t : Nat) (x : Tun) : (s.setTun t x).tap = s.tap := rfl
@[simp] theorem State.setTun_pins (s : State) (t : Nat) (x : Tun) : (s.setTun t x).pins = s.pins := rfl
@[simp] theorem State.setTun_out (s : State) (t : Nat) (x : Tun) : (s.setTun t x).out = s.out := rfl
@[simp] theorem State.setTun_free (s : State) (t : Nat) (x : Tun) : (s.setTun t x).free = s.free := rfl

/-! ## modTun -/

@[simp] theorem State.modTun_pending (s : State) (t : Nat) (f : Tun → Tun) : (s.modTun t f).pending = s.pending := rfl
@[simp] theorem State.modTun_time (s : State) (t : Nat) (f : Tun → Tun) : (s.modTun t f).time = s.time := rfl
@[simp] theorem State.modTun_clk (s : State) (t : Nat) (f : Tun → Tun) : (s.modTun t f).clk = s.clk := rfl
@[simp] theorem State.modTun_grist (s : State) (t : Nat) (f : Tun → Tun) : (s.modTun t f).grist = s.grist := rfl
@[simp] theorem State.modTun_tuns (s : State) (t : Nat) (f : Tun → Tun) : (s.modTun t f).tuns = Tab.set {} s.tuns t (f (s.tun t)) := rfl
@[simp] theorem State.modTun_crossings (s : State) (t : Nat) (f : Tun → Tun) : (s.modTun t f).crossings = s.crossings := rfl
@[simp] theorem State.modTun_raises (s : State) (t : Nat) (f : Tun → Tun) : (s.modTun t f).raises = s.raises := rfl
@[simp] theorem State.modTun_walks (s : State) (t : Nat) (f : Tun → Tun) : (s.modTun t f).walks = s.walks := rfl
@[simp] theorem State.modTun_hbm (s : State) (t : Nat) (f : Tun → Tun) : (s.modTun t f).hbm = s.hbm := rfl
@[simp] theorem State.modTun_hbmFill (s : State) (t : Nat) (f : Tun → Tun) : (s.modTun t f).hbmFill = s.hbmFill := rfl
@[simp] theorem State.modTun_poison (s : State) (t : Nat) (f : Tun → Tun) : (s.modTun t f).poison = s.poison := rfl
@[simp] theorem State.modTun_latent (s : State) (t : Nat) (f : Tun → Tun) : (s.modTun t f).latent = s.latent := rfl
@[simp] theorem State.modTun_ctls (s : State) (t : Nat) (f : Tun → Tun) : (s.modTun t f).ctls = s.ctls := rfl
@[simp] theorem State.modTun_hbmMode (s : State) (t : Nat) (f : Tun → Tun) : (s.modTun t f).hbmMode = s.hbmMode := rfl
@[simp] theorem State.modTun_streams (s : State) (t : Nat) (f : Tun → Tun) : (s.modTun t f).streams = s.streams := rfl
@[simp] theorem State.modTun_journal (s : State) (t : Nat) (f : Tun → Tun) : (s.modTun t f).journal = s.journal := rfl
@[simp] theorem State.modTun_core (s : State) (t : Nat) (f : Tun → Tun) : (s.modTun t f).core = s.core := rfl
@[simp] theorem State.modTun_granary (s : State) (t : Nat) (f : Tun → Tun) : (s.modTun t f).granary = s.granary := rfl
@[simp] theorem State.modTun_lauters (s : State) (t : Nat) (f : Tun → Tun) : (s.modTun t f).lauters = s.lauters := rfl
@[simp] theorem State.modTun_atoms (s : State) (t : Nat) (f : Tun → Tun) : (s.modTun t f).atoms = s.atoms := rfl
@[simp] theorem State.modTun_col (s : State) (t : Nat) (f : Tun → Tun) : (s.modTun t f).col = s.col := rfl
@[simp] theorem State.modTun_links (s : State) (t : Nat) (f : Tun → Tun) : (s.modTun t f).links = s.links := rfl
@[simp] theorem State.modTun_disc (s : State) (t : Nat) (f : Tun → Tun) : (s.modTun t f).disc = s.disc := rfl
@[simp] theorem State.modTun_host (s : State) (t : Nat) (f : Tun → Tun) : (s.modTun t f).host = s.host := rfl
@[simp] theorem State.modTun_sqs (s : State) (t : Nat) (f : Tun → Tun) : (s.modTun t f).sqs = s.sqs := rfl
@[simp] theorem State.modTun_catchUp (s : State) (t : Nat) (f : Tun → Tun) : (s.modTun t f).catchUp = s.catchUp := rfl
@[simp] theorem State.modTun_fault (s : State) (t : Nat) (f : Tun → Tun) : (s.modTun t f).fault = s.fault := rfl
@[simp] theorem State.modTun_book (s : State) (t : Nat) (f : Tun → Tun) : (s.modTun t f).book = s.book := rfl
@[simp] theorem State.modTun_health (s : State) (t : Nat) (f : Tun → Tun) : (s.modTun t f).health = s.health := rfl
@[simp] theorem State.modTun_power (s : State) (t : Nat) (f : Tun → Tun) : (s.modTun t f).power = s.power := rfl
@[simp] theorem State.modTun_sec (s : State) (t : Nat) (f : Tun → Tun) : (s.modTun t f).sec = s.sec := rfl
@[simp] theorem State.modTun_tap (s : State) (t : Nat) (f : Tun → Tun) : (s.modTun t f).tap = s.tap := rfl
@[simp] theorem State.modTun_pins (s : State) (t : Nat) (f : Tun → Tun) : (s.modTun t f).pins = s.pins := rfl
@[simp] theorem State.modTun_out (s : State) (t : Nat) (f : Tun → Tun) : (s.modTun t f).out = s.out := rfl
@[simp] theorem State.modTun_free (s : State) (t : Nat) (f : Tun → Tun) : (s.modTun t f).free = s.free := rfl

/-! ## modCtl -/

@[simp] theorem State.modCtl_pending (s : State) (n : Nat) (f : HbmCtl → HbmCtl) : (s.modCtl n f).pending = s.pending := rfl
@[simp] theorem State.modCtl_time (s : State) (n : Nat) (f : HbmCtl → HbmCtl) : (s.modCtl n f).time = s.time := rfl
@[simp] theorem State.modCtl_clk (s : State) (n : Nat) (f : HbmCtl → HbmCtl) : (s.modCtl n f).clk = s.clk := rfl
@[simp] theorem State.modCtl_grist (s : State) (n : Nat) (f : HbmCtl → HbmCtl) : (s.modCtl n f).grist = s.grist := rfl
@[simp] theorem State.modCtl_tuns (s : State) (n : Nat) (f : HbmCtl → HbmCtl) : (s.modCtl n f).tuns = s.tuns := rfl
@[simp] theorem State.modCtl_crossings (s : State) (n : Nat) (f : HbmCtl → HbmCtl) : (s.modCtl n f).crossings = s.crossings := rfl
@[simp] theorem State.modCtl_raises (s : State) (n : Nat) (f : HbmCtl → HbmCtl) : (s.modCtl n f).raises = s.raises := rfl
@[simp] theorem State.modCtl_walks (s : State) (n : Nat) (f : HbmCtl → HbmCtl) : (s.modCtl n f).walks = s.walks := rfl
@[simp] theorem State.modCtl_hbm (s : State) (n : Nat) (f : HbmCtl → HbmCtl) : (s.modCtl n f).hbm = s.hbm := rfl
@[simp] theorem State.modCtl_hbmFill (s : State) (n : Nat) (f : HbmCtl → HbmCtl) : (s.modCtl n f).hbmFill = s.hbmFill := rfl
@[simp] theorem State.modCtl_poison (s : State) (n : Nat) (f : HbmCtl → HbmCtl) : (s.modCtl n f).poison = s.poison := rfl
@[simp] theorem State.modCtl_latent (s : State) (n : Nat) (f : HbmCtl → HbmCtl) : (s.modCtl n f).latent = s.latent := rfl
@[simp] theorem State.modCtl_ctls (s : State) (n : Nat) (f : HbmCtl → HbmCtl) : (s.modCtl n f).ctls = Tab.mod {} s.ctls n f := rfl
@[simp] theorem State.modCtl_hbmMode (s : State) (n : Nat) (f : HbmCtl → HbmCtl) : (s.modCtl n f).hbmMode = s.hbmMode := rfl
@[simp] theorem State.modCtl_streams (s : State) (n : Nat) (f : HbmCtl → HbmCtl) : (s.modCtl n f).streams = s.streams := rfl
@[simp] theorem State.modCtl_journal (s : State) (n : Nat) (f : HbmCtl → HbmCtl) : (s.modCtl n f).journal = s.journal := rfl
@[simp] theorem State.modCtl_core (s : State) (n : Nat) (f : HbmCtl → HbmCtl) : (s.modCtl n f).core = s.core := rfl
@[simp] theorem State.modCtl_granary (s : State) (n : Nat) (f : HbmCtl → HbmCtl) : (s.modCtl n f).granary = s.granary := rfl
@[simp] theorem State.modCtl_lauters (s : State) (n : Nat) (f : HbmCtl → HbmCtl) : (s.modCtl n f).lauters = s.lauters := rfl
@[simp] theorem State.modCtl_atoms (s : State) (n : Nat) (f : HbmCtl → HbmCtl) : (s.modCtl n f).atoms = s.atoms := rfl
@[simp] theorem State.modCtl_col (s : State) (n : Nat) (f : HbmCtl → HbmCtl) : (s.modCtl n f).col = s.col := rfl
@[simp] theorem State.modCtl_links (s : State) (n : Nat) (f : HbmCtl → HbmCtl) : (s.modCtl n f).links = s.links := rfl
@[simp] theorem State.modCtl_disc (s : State) (n : Nat) (f : HbmCtl → HbmCtl) : (s.modCtl n f).disc = s.disc := rfl
@[simp] theorem State.modCtl_host (s : State) (n : Nat) (f : HbmCtl → HbmCtl) : (s.modCtl n f).host = s.host := rfl
@[simp] theorem State.modCtl_sqs (s : State) (n : Nat) (f : HbmCtl → HbmCtl) : (s.modCtl n f).sqs = s.sqs := rfl
@[simp] theorem State.modCtl_catchUp (s : State) (n : Nat) (f : HbmCtl → HbmCtl) : (s.modCtl n f).catchUp = s.catchUp := rfl
@[simp] theorem State.modCtl_fault (s : State) (n : Nat) (f : HbmCtl → HbmCtl) : (s.modCtl n f).fault = s.fault := rfl
@[simp] theorem State.modCtl_book (s : State) (n : Nat) (f : HbmCtl → HbmCtl) : (s.modCtl n f).book = s.book := rfl
@[simp] theorem State.modCtl_health (s : State) (n : Nat) (f : HbmCtl → HbmCtl) : (s.modCtl n f).health = s.health := rfl
@[simp] theorem State.modCtl_power (s : State) (n : Nat) (f : HbmCtl → HbmCtl) : (s.modCtl n f).power = s.power := rfl
@[simp] theorem State.modCtl_sec (s : State) (n : Nat) (f : HbmCtl → HbmCtl) : (s.modCtl n f).sec = s.sec := rfl
@[simp] theorem State.modCtl_tap (s : State) (n : Nat) (f : HbmCtl → HbmCtl) : (s.modCtl n f).tap = s.tap := rfl
@[simp] theorem State.modCtl_pins (s : State) (n : Nat) (f : HbmCtl → HbmCtl) : (s.modCtl n f).pins = s.pins := rfl
@[simp] theorem State.modCtl_out (s : State) (n : Nat) (f : HbmCtl → HbmCtl) : (s.modCtl n f).out = s.out := rfl
@[simp] theorem State.modCtl_free (s : State) (n : Nat) (f : HbmCtl → HbmCtl) : (s.modCtl n f).free = s.free := rfl

/-! ## modStream -/

@[simp] theorem State.modStream_pending (s : State) (k : Nat) (f : Stream → Stream) : (s.modStream k f).pending = s.pending := rfl
@[simp] theorem State.modStream_time (s : State) (k : Nat) (f : Stream → Stream) : (s.modStream k f).time = s.time := rfl
@[simp] theorem State.modStream_clk (s : State) (k : Nat) (f : Stream → Stream) : (s.modStream k f).clk = s.clk := rfl
@[simp] theorem State.modStream_grist (s : State) (k : Nat) (f : Stream → Stream) : (s.modStream k f).grist = s.grist := rfl
@[simp] theorem State.modStream_tuns (s : State) (k : Nat) (f : Stream → Stream) : (s.modStream k f).tuns = s.tuns := rfl
@[simp] theorem State.modStream_crossings (s : State) (k : Nat) (f : Stream → Stream) : (s.modStream k f).crossings = s.crossings := rfl
@[simp] theorem State.modStream_raises (s : State) (k : Nat) (f : Stream → Stream) : (s.modStream k f).raises = s.raises := rfl
@[simp] theorem State.modStream_walks (s : State) (k : Nat) (f : Stream → Stream) : (s.modStream k f).walks = s.walks := rfl
@[simp] theorem State.modStream_hbm (s : State) (k : Nat) (f : Stream → Stream) : (s.modStream k f).hbm = s.hbm := rfl
@[simp] theorem State.modStream_hbmFill (s : State) (k : Nat) (f : Stream → Stream) : (s.modStream k f).hbmFill = s.hbmFill := rfl
@[simp] theorem State.modStream_poison (s : State) (k : Nat) (f : Stream → Stream) : (s.modStream k f).poison = s.poison := rfl
@[simp] theorem State.modStream_latent (s : State) (k : Nat) (f : Stream → Stream) : (s.modStream k f).latent = s.latent := rfl
@[simp] theorem State.modStream_ctls (s : State) (k : Nat) (f : Stream → Stream) : (s.modStream k f).ctls = s.ctls := rfl
@[simp] theorem State.modStream_hbmMode (s : State) (k : Nat) (f : Stream → Stream) : (s.modStream k f).hbmMode = s.hbmMode := rfl
@[simp] theorem State.modStream_streams (s : State) (k : Nat) (f : Stream → Stream) : (s.modStream k f).streams = Tab.mod {} s.streams k f := rfl
@[simp] theorem State.modStream_journal (s : State) (k : Nat) (f : Stream → Stream) : (s.modStream k f).journal = s.journal := rfl
@[simp] theorem State.modStream_core (s : State) (k : Nat) (f : Stream → Stream) : (s.modStream k f).core = s.core := rfl
@[simp] theorem State.modStream_granary (s : State) (k : Nat) (f : Stream → Stream) : (s.modStream k f).granary = s.granary := rfl
@[simp] theorem State.modStream_lauters (s : State) (k : Nat) (f : Stream → Stream) : (s.modStream k f).lauters = s.lauters := rfl
@[simp] theorem State.modStream_atoms (s : State) (k : Nat) (f : Stream → Stream) : (s.modStream k f).atoms = s.atoms := rfl
@[simp] theorem State.modStream_col (s : State) (k : Nat) (f : Stream → Stream) : (s.modStream k f).col = s.col := rfl
@[simp] theorem State.modStream_links (s : State) (k : Nat) (f : Stream → Stream) : (s.modStream k f).links = s.links := rfl
@[simp] theorem State.modStream_disc (s : State) (k : Nat) (f : Stream → Stream) : (s.modStream k f).disc = s.disc := rfl
@[simp] theorem State.modStream_host (s : State) (k : Nat) (f : Stream → Stream) : (s.modStream k f).host = s.host := rfl
@[simp] theorem State.modStream_sqs (s : State) (k : Nat) (f : Stream → Stream) : (s.modStream k f).sqs = s.sqs := rfl
@[simp] theorem State.modStream_catchUp (s : State) (k : Nat) (f : Stream → Stream) : (s.modStream k f).catchUp = s.catchUp := rfl
@[simp] theorem State.modStream_fault (s : State) (k : Nat) (f : Stream → Stream) : (s.modStream k f).fault = s.fault := rfl
@[simp] theorem State.modStream_book (s : State) (k : Nat) (f : Stream → Stream) : (s.modStream k f).book = s.book := rfl
@[simp] theorem State.modStream_health (s : State) (k : Nat) (f : Stream → Stream) : (s.modStream k f).health = s.health := rfl
@[simp] theorem State.modStream_power (s : State) (k : Nat) (f : Stream → Stream) : (s.modStream k f).power = s.power := rfl
@[simp] theorem State.modStream_sec (s : State) (k : Nat) (f : Stream → Stream) : (s.modStream k f).sec = s.sec := rfl
@[simp] theorem State.modStream_tap (s : State) (k : Nat) (f : Stream → Stream) : (s.modStream k f).tap = s.tap := rfl
@[simp] theorem State.modStream_pins (s : State) (k : Nat) (f : Stream → Stream) : (s.modStream k f).pins = s.pins := rfl
@[simp] theorem State.modStream_out (s : State) (k : Nat) (f : Stream → Stream) : (s.modStream k f).out = s.out := rfl
@[simp] theorem State.modStream_free (s : State) (k : Nat) (f : Stream → Stream) : (s.modStream k f).free = s.free := rfl

/-! ## modLauter -/

@[simp] theorem State.modLauter_pending (s : State) (u : Nat) (f : Lauter → Lauter) : (s.modLauter u f).pending = s.pending := rfl
@[simp] theorem State.modLauter_time (s : State) (u : Nat) (f : Lauter → Lauter) : (s.modLauter u f).time = s.time := rfl
@[simp] theorem State.modLauter_clk (s : State) (u : Nat) (f : Lauter → Lauter) : (s.modLauter u f).clk = s.clk := rfl
@[simp] theorem State.modLauter_grist (s : State) (u : Nat) (f : Lauter → Lauter) : (s.modLauter u f).grist = s.grist := rfl
@[simp] theorem State.modLauter_tuns (s : State) (u : Nat) (f : Lauter → Lauter) : (s.modLauter u f).tuns = s.tuns := rfl
@[simp] theorem State.modLauter_crossings (s : State) (u : Nat) (f : Lauter → Lauter) : (s.modLauter u f).crossings = s.crossings := rfl
@[simp] theorem State.modLauter_raises (s : State) (u : Nat) (f : Lauter → Lauter) : (s.modLauter u f).raises = s.raises := rfl
@[simp] theorem State.modLauter_walks (s : State) (u : Nat) (f : Lauter → Lauter) : (s.modLauter u f).walks = s.walks := rfl
@[simp] theorem State.modLauter_hbm (s : State) (u : Nat) (f : Lauter → Lauter) : (s.modLauter u f).hbm = s.hbm := rfl
@[simp] theorem State.modLauter_hbmFill (s : State) (u : Nat) (f : Lauter → Lauter) : (s.modLauter u f).hbmFill = s.hbmFill := rfl
@[simp] theorem State.modLauter_poison (s : State) (u : Nat) (f : Lauter → Lauter) : (s.modLauter u f).poison = s.poison := rfl
@[simp] theorem State.modLauter_latent (s : State) (u : Nat) (f : Lauter → Lauter) : (s.modLauter u f).latent = s.latent := rfl
@[simp] theorem State.modLauter_ctls (s : State) (u : Nat) (f : Lauter → Lauter) : (s.modLauter u f).ctls = s.ctls := rfl
@[simp] theorem State.modLauter_hbmMode (s : State) (u : Nat) (f : Lauter → Lauter) : (s.modLauter u f).hbmMode = s.hbmMode := rfl
@[simp] theorem State.modLauter_streams (s : State) (u : Nat) (f : Lauter → Lauter) : (s.modLauter u f).streams = s.streams := rfl
@[simp] theorem State.modLauter_journal (s : State) (u : Nat) (f : Lauter → Lauter) : (s.modLauter u f).journal = s.journal := rfl
@[simp] theorem State.modLauter_core (s : State) (u : Nat) (f : Lauter → Lauter) : (s.modLauter u f).core = s.core := rfl
@[simp] theorem State.modLauter_granary (s : State) (u : Nat) (f : Lauter → Lauter) : (s.modLauter u f).granary = s.granary := rfl
@[simp] theorem State.modLauter_lauters (s : State) (u : Nat) (f : Lauter → Lauter) : (s.modLauter u f).lauters = Tab.mod {} s.lauters u f := rfl
@[simp] theorem State.modLauter_atoms (s : State) (u : Nat) (f : Lauter → Lauter) : (s.modLauter u f).atoms = s.atoms := rfl
@[simp] theorem State.modLauter_col (s : State) (u : Nat) (f : Lauter → Lauter) : (s.modLauter u f).col = s.col := rfl
@[simp] theorem State.modLauter_links (s : State) (u : Nat) (f : Lauter → Lauter) : (s.modLauter u f).links = s.links := rfl
@[simp] theorem State.modLauter_disc (s : State) (u : Nat) (f : Lauter → Lauter) : (s.modLauter u f).disc = s.disc := rfl
@[simp] theorem State.modLauter_host (s : State) (u : Nat) (f : Lauter → Lauter) : (s.modLauter u f).host = s.host := rfl
@[simp] theorem State.modLauter_sqs (s : State) (u : Nat) (f : Lauter → Lauter) : (s.modLauter u f).sqs = s.sqs := rfl
@[simp] theorem State.modLauter_catchUp (s : State) (u : Nat) (f : Lauter → Lauter) : (s.modLauter u f).catchUp = s.catchUp := rfl
@[simp] theorem State.modLauter_fault (s : State) (u : Nat) (f : Lauter → Lauter) : (s.modLauter u f).fault = s.fault := rfl
@[simp] theorem State.modLauter_book (s : State) (u : Nat) (f : Lauter → Lauter) : (s.modLauter u f).book = s.book := rfl
@[simp] theorem State.modLauter_health (s : State) (u : Nat) (f : Lauter → Lauter) : (s.modLauter u f).health = s.health := rfl
@[simp] theorem State.modLauter_power (s : State) (u : Nat) (f : Lauter → Lauter) : (s.modLauter u f).power = s.power := rfl
@[simp] theorem State.modLauter_sec (s : State) (u : Nat) (f : Lauter → Lauter) : (s.modLauter u f).sec = s.sec := rfl
@[simp] theorem State.modLauter_tap (s : State) (u : Nat) (f : Lauter → Lauter) : (s.modLauter u f).tap = s.tap := rfl
@[simp] theorem State.modLauter_pins (s : State) (u : Nat) (f : Lauter → Lauter) : (s.modLauter u f).pins = s.pins := rfl
@[simp] theorem State.modLauter_out (s : State) (u : Nat) (f : Lauter → Lauter) : (s.modLauter u f).out = s.out := rfl
@[simp] theorem State.modLauter_free (s : State) (u : Nat) (f : Lauter → Lauter) : (s.modLauter u f).free = s.free := rfl

/-! ## modLink -/

@[simp] theorem State.modLink_pending (s : State) (p : Nat) (f : Link → Link) : (s.modLink p f).pending = s.pending := rfl
@[simp] theorem State.modLink_time (s : State) (p : Nat) (f : Link → Link) : (s.modLink p f).time = s.time := rfl
@[simp] theorem State.modLink_clk (s : State) (p : Nat) (f : Link → Link) : (s.modLink p f).clk = s.clk := rfl
@[simp] theorem State.modLink_grist (s : State) (p : Nat) (f : Link → Link) : (s.modLink p f).grist = s.grist := rfl
@[simp] theorem State.modLink_tuns (s : State) (p : Nat) (f : Link → Link) : (s.modLink p f).tuns = s.tuns := rfl
@[simp] theorem State.modLink_crossings (s : State) (p : Nat) (f : Link → Link) : (s.modLink p f).crossings = s.crossings := rfl
@[simp] theorem State.modLink_raises (s : State) (p : Nat) (f : Link → Link) : (s.modLink p f).raises = s.raises := rfl
@[simp] theorem State.modLink_walks (s : State) (p : Nat) (f : Link → Link) : (s.modLink p f).walks = s.walks := rfl
@[simp] theorem State.modLink_hbm (s : State) (p : Nat) (f : Link → Link) : (s.modLink p f).hbm = s.hbm := rfl
@[simp] theorem State.modLink_hbmFill (s : State) (p : Nat) (f : Link → Link) : (s.modLink p f).hbmFill = s.hbmFill := rfl
@[simp] theorem State.modLink_poison (s : State) (p : Nat) (f : Link → Link) : (s.modLink p f).poison = s.poison := rfl
@[simp] theorem State.modLink_latent (s : State) (p : Nat) (f : Link → Link) : (s.modLink p f).latent = s.latent := rfl
@[simp] theorem State.modLink_ctls (s : State) (p : Nat) (f : Link → Link) : (s.modLink p f).ctls = s.ctls := rfl
@[simp] theorem State.modLink_hbmMode (s : State) (p : Nat) (f : Link → Link) : (s.modLink p f).hbmMode = s.hbmMode := rfl
@[simp] theorem State.modLink_streams (s : State) (p : Nat) (f : Link → Link) : (s.modLink p f).streams = s.streams := rfl
@[simp] theorem State.modLink_journal (s : State) (p : Nat) (f : Link → Link) : (s.modLink p f).journal = s.journal := rfl
@[simp] theorem State.modLink_core (s : State) (p : Nat) (f : Link → Link) : (s.modLink p f).core = s.core := rfl
@[simp] theorem State.modLink_granary (s : State) (p : Nat) (f : Link → Link) : (s.modLink p f).granary = s.granary := rfl
@[simp] theorem State.modLink_lauters (s : State) (p : Nat) (f : Link → Link) : (s.modLink p f).lauters = s.lauters := rfl
@[simp] theorem State.modLink_atoms (s : State) (p : Nat) (f : Link → Link) : (s.modLink p f).atoms = s.atoms := rfl
@[simp] theorem State.modLink_col (s : State) (p : Nat) (f : Link → Link) : (s.modLink p f).col = s.col := rfl
@[simp] theorem State.modLink_links (s : State) (p : Nat) (f : Link → Link) : (s.modLink p f).links = Tab.mod {} s.links p f := rfl
@[simp] theorem State.modLink_disc (s : State) (p : Nat) (f : Link → Link) : (s.modLink p f).disc = s.disc := rfl
@[simp] theorem State.modLink_host (s : State) (p : Nat) (f : Link → Link) : (s.modLink p f).host = s.host := rfl
@[simp] theorem State.modLink_sqs (s : State) (p : Nat) (f : Link → Link) : (s.modLink p f).sqs = s.sqs := rfl
@[simp] theorem State.modLink_catchUp (s : State) (p : Nat) (f : Link → Link) : (s.modLink p f).catchUp = s.catchUp := rfl
@[simp] theorem State.modLink_fault (s : State) (p : Nat) (f : Link → Link) : (s.modLink p f).fault = s.fault := rfl
@[simp] theorem State.modLink_book (s : State) (p : Nat) (f : Link → Link) : (s.modLink p f).book = s.book := rfl
@[simp] theorem State.modLink_health (s : State) (p : Nat) (f : Link → Link) : (s.modLink p f).health = s.health := rfl
@[simp] theorem State.modLink_power (s : State) (p : Nat) (f : Link → Link) : (s.modLink p f).power = s.power := rfl
@[simp] theorem State.modLink_sec (s : State) (p : Nat) (f : Link → Link) : (s.modLink p f).sec = s.sec := rfl
@[simp] theorem State.modLink_tap (s : State) (p : Nat) (f : Link → Link) : (s.modLink p f).tap = s.tap := rfl
@[simp] theorem State.modLink_pins (s : State) (p : Nat) (f : Link → Link) : (s.modLink p f).pins = s.pins := rfl
@[simp] theorem State.modLink_out (s : State) (p : Nat) (f : Link → Link) : (s.modLink p f).out = s.out := rfl
@[simp] theorem State.modLink_free (s : State) (p : Nat) (f : Link → Link) : (s.modLink p f).free = s.free := rfl

/-! ## modSq -/

@[simp] theorem State.modSq_pending (s : State) (q : Nat) (f : StreamQ → StreamQ) : (s.modSq q f).pending = s.pending := rfl
@[simp] theorem State.modSq_time (s : State) (q : Nat) (f : StreamQ → StreamQ) : (s.modSq q f).time = s.time := rfl
@[simp] theorem State.modSq_clk (s : State) (q : Nat) (f : StreamQ → StreamQ) : (s.modSq q f).clk = s.clk := rfl
@[simp] theorem State.modSq_grist (s : State) (q : Nat) (f : StreamQ → StreamQ) : (s.modSq q f).grist = s.grist := rfl
@[simp] theorem State.modSq_tuns (s : State) (q : Nat) (f : StreamQ → StreamQ) : (s.modSq q f).tuns = s.tuns := rfl
@[simp] theorem State.modSq_crossings (s : State) (q : Nat) (f : StreamQ → StreamQ) : (s.modSq q f).crossings = s.crossings := rfl
@[simp] theorem State.modSq_raises (s : State) (q : Nat) (f : StreamQ → StreamQ) : (s.modSq q f).raises = s.raises := rfl
@[simp] theorem State.modSq_walks (s : State) (q : Nat) (f : StreamQ → StreamQ) : (s.modSq q f).walks = s.walks := rfl
@[simp] theorem State.modSq_hbm (s : State) (q : Nat) (f : StreamQ → StreamQ) : (s.modSq q f).hbm = s.hbm := rfl
@[simp] theorem State.modSq_hbmFill (s : State) (q : Nat) (f : StreamQ → StreamQ) : (s.modSq q f).hbmFill = s.hbmFill := rfl
@[simp] theorem State.modSq_poison (s : State) (q : Nat) (f : StreamQ → StreamQ) : (s.modSq q f).poison = s.poison := rfl
@[simp] theorem State.modSq_latent (s : State) (q : Nat) (f : StreamQ → StreamQ) : (s.modSq q f).latent = s.latent := rfl
@[simp] theorem State.modSq_ctls (s : State) (q : Nat) (f : StreamQ → StreamQ) : (s.modSq q f).ctls = s.ctls := rfl
@[simp] theorem State.modSq_hbmMode (s : State) (q : Nat) (f : StreamQ → StreamQ) : (s.modSq q f).hbmMode = s.hbmMode := rfl
@[simp] theorem State.modSq_streams (s : State) (q : Nat) (f : StreamQ → StreamQ) : (s.modSq q f).streams = s.streams := rfl
@[simp] theorem State.modSq_journal (s : State) (q : Nat) (f : StreamQ → StreamQ) : (s.modSq q f).journal = s.journal := rfl
@[simp] theorem State.modSq_core (s : State) (q : Nat) (f : StreamQ → StreamQ) : (s.modSq q f).core = s.core := rfl
@[simp] theorem State.modSq_granary (s : State) (q : Nat) (f : StreamQ → StreamQ) : (s.modSq q f).granary = s.granary := rfl
@[simp] theorem State.modSq_lauters (s : State) (q : Nat) (f : StreamQ → StreamQ) : (s.modSq q f).lauters = s.lauters := rfl
@[simp] theorem State.modSq_atoms (s : State) (q : Nat) (f : StreamQ → StreamQ) : (s.modSq q f).atoms = s.atoms := rfl
@[simp] theorem State.modSq_col (s : State) (q : Nat) (f : StreamQ → StreamQ) : (s.modSq q f).col = s.col := rfl
@[simp] theorem State.modSq_links (s : State) (q : Nat) (f : StreamQ → StreamQ) : (s.modSq q f).links = s.links := rfl
@[simp] theorem State.modSq_disc (s : State) (q : Nat) (f : StreamQ → StreamQ) : (s.modSq q f).disc = s.disc := rfl
@[simp] theorem State.modSq_host (s : State) (q : Nat) (f : StreamQ → StreamQ) : (s.modSq q f).host = s.host := rfl
@[simp] theorem State.modSq_sqs (s : State) (q : Nat) (f : StreamQ → StreamQ) : (s.modSq q f).sqs = Tab.mod {} s.sqs q f := rfl
@[simp] theorem State.modSq_catchUp (s : State) (q : Nat) (f : StreamQ → StreamQ) : (s.modSq q f).catchUp = s.catchUp := rfl
@[simp] theorem State.modSq_fault (s : State) (q : Nat) (f : StreamQ → StreamQ) : (s.modSq q f).fault = s.fault := rfl
@[simp] theorem State.modSq_book (s : State) (q : Nat) (f : StreamQ → StreamQ) : (s.modSq q f).book = s.book := rfl
@[simp] theorem State.modSq_health (s : State) (q : Nat) (f : StreamQ → StreamQ) : (s.modSq q f).health = s.health := rfl
@[simp] theorem State.modSq_power (s : State) (q : Nat) (f : StreamQ → StreamQ) : (s.modSq q f).power = s.power := rfl
@[simp] theorem State.modSq_sec (s : State) (q : Nat) (f : StreamQ → StreamQ) : (s.modSq q f).sec = s.sec := rfl
@[simp] theorem State.modSq_tap (s : State) (q : Nat) (f : StreamQ → StreamQ) : (s.modSq q f).tap = s.tap := rfl
@[simp] theorem State.modSq_pins (s : State) (q : Nat) (f : StreamQ → StreamQ) : (s.modSq q f).pins = s.pins := rfl
@[simp] theorem State.modSq_out (s : State) (q : Nat) (f : StreamQ → StreamQ) : (s.modSq q f).out = s.out := rfl
@[simp] theorem State.modSq_free (s : State) (q : Nat) (f : StreamQ → StreamQ) : (s.modSq q f).free = s.free := rfl

/-! ## modCtx -/

@[simp] theorem State.modCtx_pending (s : State) (c : Nat) (f : Ctx → Ctx) : (s.modCtx c f).pending = s.pending := rfl
@[simp] theorem State.modCtx_time (s : State) (c : Nat) (f : Ctx → Ctx) : (s.modCtx c f).time = s.time := rfl
@[simp] theorem State.modCtx_clk (s : State) (c : Nat) (f : Ctx → Ctx) : (s.modCtx c f).clk = s.clk := rfl
@[simp] theorem State.modCtx_grist (s : State) (c : Nat) (f : Ctx → Ctx) : (s.modCtx c f).grist = s.grist := rfl
@[simp] theorem State.modCtx_tuns (s : State) (c : Nat) (f : Ctx → Ctx) : (s.modCtx c f).tuns = s.tuns := rfl
@[simp] theorem State.modCtx_crossings (s : State) (c : Nat) (f : Ctx → Ctx) : (s.modCtx c f).crossings = s.crossings := rfl
@[simp] theorem State.modCtx_raises (s : State) (c : Nat) (f : Ctx → Ctx) : (s.modCtx c f).raises = s.raises := rfl
@[simp] theorem State.modCtx_walks (s : State) (c : Nat) (f : Ctx → Ctx) : (s.modCtx c f).walks = s.walks := rfl
@[simp] theorem State.modCtx_hbm (s : State) (c : Nat) (f : Ctx → Ctx) : (s.modCtx c f).hbm = s.hbm := rfl
@[simp] theorem State.modCtx_hbmFill (s : State) (c : Nat) (f : Ctx → Ctx) : (s.modCtx c f).hbmFill = s.hbmFill := rfl
@[simp] theorem State.modCtx_poison (s : State) (c : Nat) (f : Ctx → Ctx) : (s.modCtx c f).poison = s.poison := rfl
@[simp] theorem State.modCtx_latent (s : State) (c : Nat) (f : Ctx → Ctx) : (s.modCtx c f).latent = s.latent := rfl
@[simp] theorem State.modCtx_ctls (s : State) (c : Nat) (f : Ctx → Ctx) : (s.modCtx c f).ctls = s.ctls := rfl
@[simp] theorem State.modCtx_hbmMode (s : State) (c : Nat) (f : Ctx → Ctx) : (s.modCtx c f).hbmMode = s.hbmMode := rfl
@[simp] theorem State.modCtx_streams (s : State) (c : Nat) (f : Ctx → Ctx) : (s.modCtx c f).streams = s.streams := rfl
@[simp] theorem State.modCtx_journal (s : State) (c : Nat) (f : Ctx → Ctx) : (s.modCtx c f).journal = s.journal := rfl
@[simp] theorem State.modCtx_core (s : State) (c : Nat) (f : Ctx → Ctx) : (s.modCtx c f).core = s.core := rfl
@[simp] theorem State.modCtx_granary (s : State) (c : Nat) (f : Ctx → Ctx) : (s.modCtx c f).granary = s.granary := rfl
@[simp] theorem State.modCtx_lauters (s : State) (c : Nat) (f : Ctx → Ctx) : (s.modCtx c f).lauters = s.lauters := rfl
@[simp] theorem State.modCtx_atoms (s : State) (c : Nat) (f : Ctx → Ctx) : (s.modCtx c f).atoms = s.atoms := rfl
@[simp] theorem State.modCtx_col (s : State) (c : Nat) (f : Ctx → Ctx) : (s.modCtx c f).col = { s.col with ctxs := Tab.mod {} s.col.ctxs c f } := rfl
@[simp] theorem State.modCtx_links (s : State) (c : Nat) (f : Ctx → Ctx) : (s.modCtx c f).links = s.links := rfl
@[simp] theorem State.modCtx_disc (s : State) (c : Nat) (f : Ctx → Ctx) : (s.modCtx c f).disc = s.disc := rfl
@[simp] theorem State.modCtx_host (s : State) (c : Nat) (f : Ctx → Ctx) : (s.modCtx c f).host = s.host := rfl
@[simp] theorem State.modCtx_sqs (s : State) (c : Nat) (f : Ctx → Ctx) : (s.modCtx c f).sqs = s.sqs := rfl
@[simp] theorem State.modCtx_catchUp (s : State) (c : Nat) (f : Ctx → Ctx) : (s.modCtx c f).catchUp = s.catchUp := rfl
@[simp] theorem State.modCtx_fault (s : State) (c : Nat) (f : Ctx → Ctx) : (s.modCtx c f).fault = s.fault := rfl
@[simp] theorem State.modCtx_book (s : State) (c : Nat) (f : Ctx → Ctx) : (s.modCtx c f).book = s.book := rfl
@[simp] theorem State.modCtx_health (s : State) (c : Nat) (f : Ctx → Ctx) : (s.modCtx c f).health = s.health := rfl
@[simp] theorem State.modCtx_power (s : State) (c : Nat) (f : Ctx → Ctx) : (s.modCtx c f).power = s.power := rfl
@[simp] theorem State.modCtx_sec (s : State) (c : Nat) (f : Ctx → Ctx) : (s.modCtx c f).sec = s.sec := rfl
@[simp] theorem State.modCtx_tap (s : State) (c : Nat) (f : Ctx → Ctx) : (s.modCtx c f).tap = s.tap := rfl
@[simp] theorem State.modCtx_pins (s : State) (c : Nat) (f : Ctx → Ctx) : (s.modCtx c f).pins = s.pins := rfl
@[simp] theorem State.modCtx_out (s : State) (c : Nat) (f : Ctx → Ctx) : (s.modCtx c f).out = s.out := rfl
@[simp] theorem State.modCtx_free (s : State) (c : Nat) (f : Ctx → Ctx) : (s.modCtx c f).free = s.free := rfl

/-! ## modTime -/

@[simp] theorem State.modTime_pending (s : State) (f : TimeSt → TimeSt) : (s.modTime f).pending = s.pending := rfl
@[simp] theorem State.modTime_time (s : State) (f : TimeSt → TimeSt) : (s.modTime f).time = f s.time := rfl
@[simp] theorem State.modTime_clk (s : State) (f : TimeSt → TimeSt) : (s.modTime f).clk = s.clk := rfl
@[simp] theorem State.modTime_grist (s : State) (f : TimeSt → TimeSt) : (s.modTime f).grist = s.grist := rfl
@[simp] theorem State.modTime_tuns (s : State) (f : TimeSt → TimeSt) : (s.modTime f).tuns = s.tuns := rfl
@[simp] theorem State.modTime_crossings (s : State) (f : TimeSt → TimeSt) : (s.modTime f).crossings = s.crossings := rfl
@[simp] theorem State.modTime_raises (s : State) (f : TimeSt → TimeSt) : (s.modTime f).raises = s.raises := rfl
@[simp] theorem State.modTime_walks (s : State) (f : TimeSt → TimeSt) : (s.modTime f).walks = s.walks := rfl
@[simp] theorem State.modTime_hbm (s : State) (f : TimeSt → TimeSt) : (s.modTime f).hbm = s.hbm := rfl
@[simp] theorem State.modTime_hbmFill (s : State) (f : TimeSt → TimeSt) : (s.modTime f).hbmFill = s.hbmFill := rfl
@[simp] theorem State.modTime_poison (s : State) (f : TimeSt → TimeSt) : (s.modTime f).poison = s.poison := rfl
@[simp] theorem State.modTime_latent (s : State) (f : TimeSt → TimeSt) : (s.modTime f).latent = s.latent := rfl
@[simp] theorem State.modTime_ctls (s : State) (f : TimeSt → TimeSt) : (s.modTime f).ctls = s.ctls := rfl
@[simp] theorem State.modTime_hbmMode (s : State) (f : TimeSt → TimeSt) : (s.modTime f).hbmMode = s.hbmMode := rfl
@[simp] theorem State.modTime_streams (s : State) (f : TimeSt → TimeSt) : (s.modTime f).streams = s.streams := rfl
@[simp] theorem State.modTime_journal (s : State) (f : TimeSt → TimeSt) : (s.modTime f).journal = s.journal := rfl
@[simp] theorem State.modTime_core (s : State) (f : TimeSt → TimeSt) : (s.modTime f).core = s.core := rfl
@[simp] theorem State.modTime_granary (s : State) (f : TimeSt → TimeSt) : (s.modTime f).granary = s.granary := rfl
@[simp] theorem State.modTime_lauters (s : State) (f : TimeSt → TimeSt) : (s.modTime f).lauters = s.lauters := rfl
@[simp] theorem State.modTime_atoms (s : State) (f : TimeSt → TimeSt) : (s.modTime f).atoms = s.atoms := rfl
@[simp] theorem State.modTime_col (s : State) (f : TimeSt → TimeSt) : (s.modTime f).col = s.col := rfl
@[simp] theorem State.modTime_links (s : State) (f : TimeSt → TimeSt) : (s.modTime f).links = s.links := rfl
@[simp] theorem State.modTime_disc (s : State) (f : TimeSt → TimeSt) : (s.modTime f).disc = s.disc := rfl
@[simp] theorem State.modTime_host (s : State) (f : TimeSt → TimeSt) : (s.modTime f).host = s.host := rfl
@[simp] theorem State.modTime_sqs (s : State) (f : TimeSt → TimeSt) : (s.modTime f).sqs = s.sqs := rfl
@[simp] theorem State.modTime_catchUp (s : State) (f : TimeSt → TimeSt) : (s.modTime f).catchUp = s.catchUp := rfl
@[simp] theorem State.modTime_fault (s : State) (f : TimeSt → TimeSt) : (s.modTime f).fault = s.fault := rfl
@[simp] theorem State.modTime_book (s : State) (f : TimeSt → TimeSt) : (s.modTime f).book = s.book := rfl
@[simp] theorem State.modTime_health (s : State) (f : TimeSt → TimeSt) : (s.modTime f).health = s.health := rfl
@[simp] theorem State.modTime_power (s : State) (f : TimeSt → TimeSt) : (s.modTime f).power = s.power := rfl
@[simp] theorem State.modTime_sec (s : State) (f : TimeSt → TimeSt) : (s.modTime f).sec = s.sec := rfl
@[simp] theorem State.modTime_tap (s : State) (f : TimeSt → TimeSt) : (s.modTime f).tap = s.tap := rfl
@[simp] theorem State.modTime_pins (s : State) (f : TimeSt → TimeSt) : (s.modTime f).pins = s.pins := rfl
@[simp] theorem State.modTime_out (s : State) (f : TimeSt → TimeSt) : (s.modTime f).out = s.out := rfl
@[simp] theorem State.modTime_free (s : State) (f : TimeSt → TimeSt) : (s.modTime f).free = s.free := rfl

/-! ## modGrist -/

@[simp] theorem State.modGrist_pending (s : State) (f : GristSt → GristSt) : (s.modGrist f).pending = s.pending := rfl
@[simp] theorem State.modGrist_time (s : State) (f : GristSt → GristSt) : (s.modGrist f).time = s.time := rfl
@[simp] theorem State.modGrist_clk (s : State) (f : GristSt → GristSt) : (s.modGrist f).clk = s.clk := rfl
@[simp] theorem State.modGrist_grist (s : State) (f : GristSt → GristSt) : (s.modGrist f).grist = f s.grist := rfl
@[simp] theorem State.modGrist_tuns (s : State) (f : GristSt → GristSt) : (s.modGrist f).tuns = s.tuns := rfl
@[simp] theorem State.modGrist_crossings (s : State) (f : GristSt → GristSt) : (s.modGrist f).crossings = s.crossings := rfl
@[simp] theorem State.modGrist_raises (s : State) (f : GristSt → GristSt) : (s.modGrist f).raises = s.raises := rfl
@[simp] theorem State.modGrist_walks (s : State) (f : GristSt → GristSt) : (s.modGrist f).walks = s.walks := rfl
@[simp] theorem State.modGrist_hbm (s : State) (f : GristSt → GristSt) : (s.modGrist f).hbm = s.hbm := rfl
@[simp] theorem State.modGrist_hbmFill (s : State) (f : GristSt → GristSt) : (s.modGrist f).hbmFill = s.hbmFill := rfl
@[simp] theorem State.modGrist_poison (s : State) (f : GristSt → GristSt) : (s.modGrist f).poison = s.poison := rfl
@[simp] theorem State.modGrist_latent (s : State) (f : GristSt → GristSt) : (s.modGrist f).latent = s.latent := rfl
@[simp] theorem State.modGrist_ctls (s : State) (f : GristSt → GristSt) : (s.modGrist f).ctls = s.ctls := rfl
@[simp] theorem State.modGrist_hbmMode (s : State) (f : GristSt → GristSt) : (s.modGrist f).hbmMode = s.hbmMode := rfl
@[simp] theorem State.modGrist_streams (s : State) (f : GristSt → GristSt) : (s.modGrist f).streams = s.streams := rfl
@[simp] theorem State.modGrist_journal (s : State) (f : GristSt → GristSt) : (s.modGrist f).journal = s.journal := rfl
@[simp] theorem State.modGrist_core (s : State) (f : GristSt → GristSt) : (s.modGrist f).core = s.core := rfl
@[simp] theorem State.modGrist_granary (s : State) (f : GristSt → GristSt) : (s.modGrist f).granary = s.granary := rfl
@[simp] theorem State.modGrist_lauters (s : State) (f : GristSt → GristSt) : (s.modGrist f).lauters = s.lauters := rfl
@[simp] theorem State.modGrist_atoms (s : State) (f : GristSt → GristSt) : (s.modGrist f).atoms = s.atoms := rfl
@[simp] theorem State.modGrist_col (s : State) (f : GristSt → GristSt) : (s.modGrist f).col = s.col := rfl
@[simp] theorem State.modGrist_links (s : State) (f : GristSt → GristSt) : (s.modGrist f).links = s.links := rfl
@[simp] theorem State.modGrist_disc (s : State) (f : GristSt → GristSt) : (s.modGrist f).disc = s.disc := rfl
@[simp] theorem State.modGrist_host (s : State) (f : GristSt → GristSt) : (s.modGrist f).host = s.host := rfl
@[simp] theorem State.modGrist_sqs (s : State) (f : GristSt → GristSt) : (s.modGrist f).sqs = s.sqs := rfl
@[simp] theorem State.modGrist_catchUp (s : State) (f : GristSt → GristSt) : (s.modGrist f).catchUp = s.catchUp := rfl
@[simp] theorem State.modGrist_fault (s : State) (f : GristSt → GristSt) : (s.modGrist f).fault = s.fault := rfl
@[simp] theorem State.modGrist_book (s : State) (f : GristSt → GristSt) : (s.modGrist f).book = s.book := rfl
@[simp] theorem State.modGrist_health (s : State) (f : GristSt → GristSt) : (s.modGrist f).health = s.health := rfl
@[simp] theorem State.modGrist_power (s : State) (f : GristSt → GristSt) : (s.modGrist f).power = s.power := rfl
@[simp] theorem State.modGrist_sec (s : State) (f : GristSt → GristSt) : (s.modGrist f).sec = s.sec := rfl
@[simp] theorem State.modGrist_tap (s : State) (f : GristSt → GristSt) : (s.modGrist f).tap = s.tap := rfl
@[simp] theorem State.modGrist_pins (s : State) (f : GristSt → GristSt) : (s.modGrist f).pins = s.pins := rfl
@[simp] theorem State.modGrist_out (s : State) (f : GristSt → GristSt) : (s.modGrist f).out = s.out := rfl
@[simp] theorem State.modGrist_free (s : State) (f : GristSt → GristSt) : (s.modGrist f).free = s.free := rfl

/-! ## modCore -/

@[simp] theorem State.modCore_pending (s : State) (f : Core → Core) : (s.modCore f).pending = s.pending := rfl
@[simp] theorem State.modCore_time (s : State) (f : Core → Core) : (s.modCore f).time = s.time := rfl
@[simp] theorem State.modCore_clk (s : State) (f : Core → Core) : (s.modCore f).clk = s.clk := rfl
@[simp] theorem State.modCore_grist (s : State) (f : Core → Core) : (s.modCore f).grist = s.grist := rfl
@[simp] theorem State.modCore_tuns (s : State) (f : Core → Core) : (s.modCore f).tuns = s.tuns := rfl
@[simp] theorem State.modCore_crossings (s : State) (f : Core → Core) : (s.modCore f).crossings = s.crossings := rfl
@[simp] theorem State.modCore_raises (s : State) (f : Core → Core) : (s.modCore f).raises = s.raises := rfl
@[simp] theorem State.modCore_walks (s : State) (f : Core → Core) : (s.modCore f).walks = s.walks := rfl
@[simp] theorem State.modCore_hbm (s : State) (f : Core → Core) : (s.modCore f).hbm = s.hbm := rfl
@[simp] theorem State.modCore_hbmFill (s : State) (f : Core → Core) : (s.modCore f).hbmFill = s.hbmFill := rfl
@[simp] theorem State.modCore_poison (s : State) (f : Core → Core) : (s.modCore f).poison = s.poison := rfl
@[simp] theorem State.modCore_latent (s : State) (f : Core → Core) : (s.modCore f).latent = s.latent := rfl
@[simp] theorem State.modCore_ctls (s : State) (f : Core → Core) : (s.modCore f).ctls = s.ctls := rfl
@[simp] theorem State.modCore_hbmMode (s : State) (f : Core → Core) : (s.modCore f).hbmMode = s.hbmMode := rfl
@[simp] theorem State.modCore_streams (s : State) (f : Core → Core) : (s.modCore f).streams = s.streams := rfl
@[simp] theorem State.modCore_journal (s : State) (f : Core → Core) : (s.modCore f).journal = s.journal := rfl
@[simp] theorem State.modCore_core (s : State) (f : Core → Core) : (s.modCore f).core = f s.core := rfl
@[simp] theorem State.modCore_granary (s : State) (f : Core → Core) : (s.modCore f).granary = s.granary := rfl
@[simp] theorem State.modCore_lauters (s : State) (f : Core → Core) : (s.modCore f).lauters = s.lauters := rfl
@[simp] theorem State.modCore_atoms (s : State) (f : Core → Core) : (s.modCore f).atoms = s.atoms := rfl
@[simp] theorem State.modCore_col (s : State) (f : Core → Core) : (s.modCore f).col = s.col := rfl
@[simp] theorem State.modCore_links (s : State) (f : Core → Core) : (s.modCore f).links = s.links := rfl
@[simp] theorem State.modCore_disc (s : State) (f : Core → Core) : (s.modCore f).disc = s.disc := rfl
@[simp] theorem State.modCore_host (s : State) (f : Core → Core) : (s.modCore f).host = s.host := rfl
@[simp] theorem State.modCore_sqs (s : State) (f : Core → Core) : (s.modCore f).sqs = s.sqs := rfl
@[simp] theorem State.modCore_catchUp (s : State) (f : Core → Core) : (s.modCore f).catchUp = s.catchUp := rfl
@[simp] theorem State.modCore_fault (s : State) (f : Core → Core) : (s.modCore f).fault = s.fault := rfl
@[simp] theorem State.modCore_book (s : State) (f : Core → Core) : (s.modCore f).book = s.book := rfl
@[simp] theorem State.modCore_health (s : State) (f : Core → Core) : (s.modCore f).health = s.health := rfl
@[simp] theorem State.modCore_power (s : State) (f : Core → Core) : (s.modCore f).power = s.power := rfl
@[simp] theorem State.modCore_sec (s : State) (f : Core → Core) : (s.modCore f).sec = s.sec := rfl
@[simp] theorem State.modCore_tap (s : State) (f : Core → Core) : (s.modCore f).tap = s.tap := rfl
@[simp] theorem State.modCore_pins (s : State) (f : Core → Core) : (s.modCore f).pins = s.pins := rfl
@[simp] theorem State.modCore_out (s : State) (f : Core → Core) : (s.modCore f).out = s.out := rfl
@[simp] theorem State.modCore_free (s : State) (f : Core → Core) : (s.modCore f).free = s.free := rfl

/-! ## modGranary -/

@[simp] theorem State.modGranary_pending (s : State) (f : Granary → Granary) : (s.modGranary f).pending = s.pending := rfl
@[simp] theorem State.modGranary_time (s : State) (f : Granary → Granary) : (s.modGranary f).time = s.time := rfl
@[simp] theorem State.modGranary_clk (s : State) (f : Granary → Granary) : (s.modGranary f).clk = s.clk := rfl
@[simp] theorem State.modGranary_grist (s : State) (f : Granary → Granary) : (s.modGranary f).grist = s.grist := rfl
@[simp] theorem State.modGranary_tuns (s : State) (f : Granary → Granary) : (s.modGranary f).tuns = s.tuns := rfl
@[simp] theorem State.modGranary_crossings (s : State) (f : Granary → Granary) : (s.modGranary f).crossings = s.crossings := rfl
@[simp] theorem State.modGranary_raises (s : State) (f : Granary → Granary) : (s.modGranary f).raises = s.raises := rfl
@[simp] theorem State.modGranary_walks (s : State) (f : Granary → Granary) : (s.modGranary f).walks = s.walks := rfl
@[simp] theorem State.modGranary_hbm (s : State) (f : Granary → Granary) : (s.modGranary f).hbm = s.hbm := rfl
@[simp] theorem State.modGranary_hbmFill (s : State) (f : Granary → Granary) : (s.modGranary f).hbmFill = s.hbmFill := rfl
@[simp] theorem State.modGranary_poison (s : State) (f : Granary → Granary) : (s.modGranary f).poison = s.poison := rfl
@[simp] theorem State.modGranary_latent (s : State) (f : Granary → Granary) : (s.modGranary f).latent = s.latent := rfl
@[simp] theorem State.modGranary_ctls (s : State) (f : Granary → Granary) : (s.modGranary f).ctls = s.ctls := rfl
@[simp] theorem State.modGranary_hbmMode (s : State) (f : Granary → Granary) : (s.modGranary f).hbmMode = s.hbmMode := rfl
@[simp] theorem State.modGranary_streams (s : State) (f : Granary → Granary) : (s.modGranary f).streams = s.streams := rfl
@[simp] theorem State.modGranary_journal (s : State) (f : Granary → Granary) : (s.modGranary f).journal = s.journal := rfl
@[simp] theorem State.modGranary_core (s : State) (f : Granary → Granary) : (s.modGranary f).core = s.core := rfl
@[simp] theorem State.modGranary_granary (s : State) (f : Granary → Granary) : (s.modGranary f).granary = f s.granary := rfl
@[simp] theorem State.modGranary_lauters (s : State) (f : Granary → Granary) : (s.modGranary f).lauters = s.lauters := rfl
@[simp] theorem State.modGranary_atoms (s : State) (f : Granary → Granary) : (s.modGranary f).atoms = s.atoms := rfl
@[simp] theorem State.modGranary_col (s : State) (f : Granary → Granary) : (s.modGranary f).col = s.col := rfl
@[simp] theorem State.modGranary_links (s : State) (f : Granary → Granary) : (s.modGranary f).links = s.links := rfl
@[simp] theorem State.modGranary_disc (s : State) (f : Granary → Granary) : (s.modGranary f).disc = s.disc := rfl
@[simp] theorem State.modGranary_host (s : State) (f : Granary → Granary) : (s.modGranary f).host = s.host := rfl
@[simp] theorem State.modGranary_sqs (s : State) (f : Granary → Granary) : (s.modGranary f).sqs = s.sqs := rfl
@[simp] theorem State.modGranary_catchUp (s : State) (f : Granary → Granary) : (s.modGranary f).catchUp = s.catchUp := rfl
@[simp] theorem State.modGranary_fault (s : State) (f : Granary → Granary) : (s.modGranary f).fault = s.fault := rfl
@[simp] theorem State.modGranary_book (s : State) (f : Granary → Granary) : (s.modGranary f).book = s.book := rfl
@[simp] theorem State.modGranary_health (s : State) (f : Granary → Granary) : (s.modGranary f).health = s.health := rfl
@[simp] theorem State.modGranary_power (s : State) (f : Granary → Granary) : (s.modGranary f).power = s.power := rfl
@[simp] theorem State.modGranary_sec (s : State) (f : Granary → Granary) : (s.modGranary f).sec = s.sec := rfl
@[simp] theorem State.modGranary_tap (s : State) (f : Granary → Granary) : (s.modGranary f).tap = s.tap := rfl
@[simp] theorem State.modGranary_pins (s : State) (f : Granary → Granary) : (s.modGranary f).pins = s.pins := rfl
@[simp] theorem State.modGranary_out (s : State) (f : Granary → Granary) : (s.modGranary f).out = s.out := rfl
@[simp] theorem State.modGranary_free (s : State) (f : Granary → Granary) : (s.modGranary f).free = s.free := rfl

/-! ## modCol -/

@[simp] theorem State.modCol_pending (s : State) (f : Collective → Collective) : (s.modCol f).pending = s.pending := rfl
@[simp] theorem State.modCol_time (s : State) (f : Collective → Collective) : (s.modCol f).time = s.time := rfl
@[simp] theorem State.modCol_clk (s : State) (f : Collective → Collective) : (s.modCol f).clk = s.clk := rfl
@[simp] theorem State.modCol_grist (s : State) (f : Collective → Collective) : (s.modCol f).grist = s.grist := rfl
@[simp] theorem State.modCol_tuns (s : State) (f : Collective → Collective) : (s.modCol f).tuns = s.tuns := rfl
@[simp] theorem State.modCol_crossings (s : State) (f : Collective → Collective) : (s.modCol f).crossings = s.crossings := rfl
@[simp] theorem State.modCol_raises (s : State) (f : Collective → Collective) : (s.modCol f).raises = s.raises := rfl
@[simp] theorem State.modCol_walks (s : State) (f : Collective → Collective) : (s.modCol f).walks = s.walks := rfl
@[simp] theorem State.modCol_hbm (s : State) (f : Collective → Collective) : (s.modCol f).hbm = s.hbm := rfl
@[simp] theorem State.modCol_hbmFill (s : State) (f : Collective → Collective) : (s.modCol f).hbmFill = s.hbmFill := rfl
@[simp] theorem State.modCol_poison (s : State) (f : Collective → Collective) : (s.modCol f).poison = s.poison := rfl
@[simp] theorem State.modCol_latent (s : State) (f : Collective → Collective) : (s.modCol f).latent = s.latent := rfl
@[simp] theorem State.modCol_ctls (s : State) (f : Collective → Collective) : (s.modCol f).ctls = s.ctls := rfl
@[simp] theorem State.modCol_hbmMode (s : State) (f : Collective → Collective) : (s.modCol f).hbmMode = s.hbmMode := rfl
@[simp] theorem State.modCol_streams (s : State) (f : Collective → Collective) : (s.modCol f).streams = s.streams := rfl
@[simp] theorem State.modCol_journal (s : State) (f : Collective → Collective) : (s.modCol f).journal = s.journal := rfl
@[simp] theorem State.modCol_core (s : State) (f : Collective → Collective) : (s.modCol f).core = s.core := rfl
@[simp] theorem State.modCol_granary (s : State) (f : Collective → Collective) : (s.modCol f).granary = s.granary := rfl
@[simp] theorem State.modCol_lauters (s : State) (f : Collective → Collective) : (s.modCol f).lauters = s.lauters := rfl
@[simp] theorem State.modCol_atoms (s : State) (f : Collective → Collective) : (s.modCol f).atoms = s.atoms := rfl
@[simp] theorem State.modCol_col (s : State) (f : Collective → Collective) : (s.modCol f).col = f s.col := rfl
@[simp] theorem State.modCol_links (s : State) (f : Collective → Collective) : (s.modCol f).links = s.links := rfl
@[simp] theorem State.modCol_disc (s : State) (f : Collective → Collective) : (s.modCol f).disc = s.disc := rfl
@[simp] theorem State.modCol_host (s : State) (f : Collective → Collective) : (s.modCol f).host = s.host := rfl
@[simp] theorem State.modCol_sqs (s : State) (f : Collective → Collective) : (s.modCol f).sqs = s.sqs := rfl
@[simp] theorem State.modCol_catchUp (s : State) (f : Collective → Collective) : (s.modCol f).catchUp = s.catchUp := rfl
@[simp] theorem State.modCol_fault (s : State) (f : Collective → Collective) : (s.modCol f).fault = s.fault := rfl
@[simp] theorem State.modCol_book (s : State) (f : Collective → Collective) : (s.modCol f).book = s.book := rfl
@[simp] theorem State.modCol_health (s : State) (f : Collective → Collective) : (s.modCol f).health = s.health := rfl
@[simp] theorem State.modCol_power (s : State) (f : Collective → Collective) : (s.modCol f).power = s.power := rfl
@[simp] theorem State.modCol_sec (s : State) (f : Collective → Collective) : (s.modCol f).sec = s.sec := rfl
@[simp] theorem State.modCol_tap (s : State) (f : Collective → Collective) : (s.modCol f).tap = s.tap := rfl
@[simp] theorem State.modCol_pins (s : State) (f : Collective → Collective) : (s.modCol f).pins = s.pins := rfl
@[simp] theorem State.modCol_out (s : State) (f : Collective → Collective) : (s.modCol f).out = s.out := rfl
@[simp] theorem State.modCol_free (s : State) (f : Collective → Collective) : (s.modCol f).free = s.free := rfl

/-! ## modHost -/

@[simp] theorem State.modHost_pending (s : State) (f : HostSt → HostSt) : (s.modHost f).pending = s.pending := rfl
@[simp] theorem State.modHost_time (s : State) (f : HostSt → HostSt) : (s.modHost f).time = s.time := rfl
@[simp] theorem State.modHost_clk (s : State) (f : HostSt → HostSt) : (s.modHost f).clk = s.clk := rfl
@[simp] theorem State.modHost_grist (s : State) (f : HostSt → HostSt) : (s.modHost f).grist = s.grist := rfl
@[simp] theorem State.modHost_tuns (s : State) (f : HostSt → HostSt) : (s.modHost f).tuns = s.tuns := rfl
@[simp] theorem State.modHost_crossings (s : State) (f : HostSt → HostSt) : (s.modHost f).crossings = s.crossings := rfl
@[simp] theorem State.modHost_raises (s : State) (f : HostSt → HostSt) : (s.modHost f).raises = s.raises := rfl
@[simp] theorem State.modHost_walks (s : State) (f : HostSt → HostSt) : (s.modHost f).walks = s.walks := rfl
@[simp] theorem State.modHost_hbm (s : State) (f : HostSt → HostSt) : (s.modHost f).hbm = s.hbm := rfl
@[simp] theorem State.modHost_hbmFill (s : State) (f : HostSt → HostSt) : (s.modHost f).hbmFill = s.hbmFill := rfl
@[simp] theorem State.modHost_poison (s : State) (f : HostSt → HostSt) : (s.modHost f).poison = s.poison := rfl
@[simp] theorem State.modHost_latent (s : State) (f : HostSt → HostSt) : (s.modHost f).latent = s.latent := rfl
@[simp] theorem State.modHost_ctls (s : State) (f : HostSt → HostSt) : (s.modHost f).ctls = s.ctls := rfl
@[simp] theorem State.modHost_hbmMode (s : State) (f : HostSt → HostSt) : (s.modHost f).hbmMode = s.hbmMode := rfl
@[simp] theorem State.modHost_streams (s : State) (f : HostSt → HostSt) : (s.modHost f).streams = s.streams := rfl
@[simp] theorem State.modHost_journal (s : State) (f : HostSt → HostSt) : (s.modHost f).journal = s.journal := rfl
@[simp] theorem State.modHost_core (s : State) (f : HostSt → HostSt) : (s.modHost f).core = s.core := rfl
@[simp] theorem State.modHost_granary (s : State) (f : HostSt → HostSt) : (s.modHost f).granary = s.granary := rfl
@[simp] theorem State.modHost_lauters (s : State) (f : HostSt → HostSt) : (s.modHost f).lauters = s.lauters := rfl
@[simp] theorem State.modHost_atoms (s : State) (f : HostSt → HostSt) : (s.modHost f).atoms = s.atoms := rfl
@[simp] theorem State.modHost_col (s : State) (f : HostSt → HostSt) : (s.modHost f).col = s.col := rfl
@[simp] theorem State.modHost_links (s : State) (f : HostSt → HostSt) : (s.modHost f).links = s.links := rfl
@[simp] theorem State.modHost_disc (s : State) (f : HostSt → HostSt) : (s.modHost f).disc = s.disc := rfl
@[simp] theorem State.modHost_host (s : State) (f : HostSt → HostSt) : (s.modHost f).host = f s.host := rfl
@[simp] theorem State.modHost_sqs (s : State) (f : HostSt → HostSt) : (s.modHost f).sqs = s.sqs := rfl
@[simp] theorem State.modHost_catchUp (s : State) (f : HostSt → HostSt) : (s.modHost f).catchUp = s.catchUp := rfl
@[simp] theorem State.modHost_fault (s : State) (f : HostSt → HostSt) : (s.modHost f).fault = s.fault := rfl
@[simp] theorem State.modHost_book (s : State) (f : HostSt → HostSt) : (s.modHost f).book = s.book := rfl
@[simp] theorem State.modHost_health (s : State) (f : HostSt → HostSt) : (s.modHost f).health = s.health := rfl
@[simp] theorem State.modHost_power (s : State) (f : HostSt → HostSt) : (s.modHost f).power = s.power := rfl
@[simp] theorem State.modHost_sec (s : State) (f : HostSt → HostSt) : (s.modHost f).sec = s.sec := rfl
@[simp] theorem State.modHost_tap (s : State) (f : HostSt → HostSt) : (s.modHost f).tap = s.tap := rfl
@[simp] theorem State.modHost_pins (s : State) (f : HostSt → HostSt) : (s.modHost f).pins = s.pins := rfl
@[simp] theorem State.modHost_out (s : State) (f : HostSt → HostSt) : (s.modHost f).out = s.out := rfl
@[simp] theorem State.modHost_free (s : State) (f : HostSt → HostSt) : (s.modHost f).free = s.free := rfl

/-! ## modPower -/

@[simp] theorem State.modPower_pending (s : State) (f : Power → Power) : (s.modPower f).pending = s.pending := rfl
@[simp] theorem State.modPower_time (s : State) (f : Power → Power) : (s.modPower f).time = s.time := rfl
@[simp] theorem State.modPower_clk (s : State) (f : Power → Power) : (s.modPower f).clk = s.clk := rfl
@[simp] theorem State.modPower_grist (s : State) (f : Power → Power) : (s.modPower f).grist = s.grist := rfl
@[simp] theorem State.modPower_tuns (s : State) (f : Power → Power) : (s.modPower f).tuns = s.tuns := rfl
@[simp] theorem State.modPower_crossings (s : State) (f : Power → Power) : (s.modPower f).crossings = s.crossings := rfl
@[simp] theorem State.modPower_raises (s : State) (f : Power → Power) : (s.modPower f).raises = s.raises := rfl
@[simp] theorem State.modPower_walks (s : State) (f : Power → Power) : (s.modPower f).walks = s.walks := rfl
@[simp] theorem State.modPower_hbm (s : State) (f : Power → Power) : (s.modPower f).hbm = s.hbm := rfl
@[simp] theorem State.modPower_hbmFill (s : State) (f : Power → Power) : (s.modPower f).hbmFill = s.hbmFill := rfl
@[simp] theorem State.modPower_poison (s : State) (f : Power → Power) : (s.modPower f).poison = s.poison := rfl
@[simp] theorem State.modPower_latent (s : State) (f : Power → Power) : (s.modPower f).latent = s.latent := rfl
@[simp] theorem State.modPower_ctls (s : State) (f : Power → Power) : (s.modPower f).ctls = s.ctls := rfl
@[simp] theorem State.modPower_hbmMode (s : State) (f : Power → Power) : (s.modPower f).hbmMode = s.hbmMode := rfl
@[simp] theorem State.modPower_streams (s : State) (f : Power → Power) : (s.modPower f).streams = s.streams := rfl
@[simp] theorem State.modPower_journal (s : State) (f : Power → Power) : (s.modPower f).journal = s.journal := rfl
@[simp] theorem State.modPower_core (s : State) (f : Power → Power) : (s.modPower f).core = s.core := rfl
@[simp] theorem State.modPower_granary (s : State) (f : Power → Power) : (s.modPower f).granary = s.granary := rfl
@[simp] theorem State.modPower_lauters (s : State) (f : Power → Power) : (s.modPower f).lauters = s.lauters := rfl
@[simp] theorem State.modPower_atoms (s : State) (f : Power → Power) : (s.modPower f).atoms = s.atoms := rfl
@[simp] theorem State.modPower_col (s : State) (f : Power → Power) : (s.modPower f).col = s.col := rfl
@[simp] theorem State.modPower_links (s : State) (f : Power → Power) : (s.modPower f).links = s.links := rfl
@[simp] theorem State.modPower_disc (s : State) (f : Power → Power) : (s.modPower f).disc = s.disc := rfl
@[simp] theorem State.modPower_host (s : State) (f : Power → Power) : (s.modPower f).host = s.host := rfl
@[simp] theorem State.modPower_sqs (s : State) (f : Power → Power) : (s.modPower f).sqs = s.sqs := rfl
@[simp] theorem State.modPower_catchUp (s : State) (f : Power → Power) : (s.modPower f).catchUp = s.catchUp := rfl
@[simp] theorem State.modPower_fault (s : State) (f : Power → Power) : (s.modPower f).fault = s.fault := rfl
@[simp] theorem State.modPower_book (s : State) (f : Power → Power) : (s.modPower f).book = s.book := rfl
@[simp] theorem State.modPower_health (s : State) (f : Power → Power) : (s.modPower f).health = s.health := rfl
@[simp] theorem State.modPower_power (s : State) (f : Power → Power) : (s.modPower f).power = f s.power := rfl
@[simp] theorem State.modPower_sec (s : State) (f : Power → Power) : (s.modPower f).sec = s.sec := rfl
@[simp] theorem State.modPower_tap (s : State) (f : Power → Power) : (s.modPower f).tap = s.tap := rfl
@[simp] theorem State.modPower_pins (s : State) (f : Power → Power) : (s.modPower f).pins = s.pins := rfl
@[simp] theorem State.modPower_out (s : State) (f : Power → Power) : (s.modPower f).out = s.out := rfl
@[simp] theorem State.modPower_free (s : State) (f : Power → Power) : (s.modPower f).free = s.free := rfl

/-! ## modFault -/

@[simp] theorem State.modFault_pending (s : State) (f : FaultSt → FaultSt) : (s.modFault f).pending = s.pending := rfl
@[simp] theorem State.modFault_time (s : State) (f : FaultSt → FaultSt) : (s.modFault f).time = s.time := rfl
@[simp] theorem State.modFault_clk (s : State) (f : FaultSt → FaultSt) : (s.modFault f).clk = s.clk := rfl
@[simp] theorem State.modFault_grist (s : State) (f : FaultSt → FaultSt) : (s.modFault f).grist = s.grist := rfl
@[simp] theorem State.modFault_tuns (s : State) (f : FaultSt → FaultSt) : (s.modFault f).tuns = s.tuns := rfl
@[simp] theorem State.modFault_crossings (s : State) (f : FaultSt → FaultSt) : (s.modFault f).crossings = s.crossings := rfl
@[simp] theorem State.modFault_raises (s : State) (f : FaultSt → FaultSt) : (s.modFault f).raises = s.raises := rfl
@[simp] theorem State.modFault_walks (s : State) (f : FaultSt → FaultSt) : (s.modFault f).walks = s.walks := rfl
@[simp] theorem State.modFault_hbm (s : State) (f : FaultSt → FaultSt) : (s.modFault f).hbm = s.hbm := rfl
@[simp] theorem State.modFault_hbmFill (s : State) (f : FaultSt → FaultSt) : (s.modFault f).hbmFill = s.hbmFill := rfl
@[simp] theorem State.modFault_poison (s : State) (f : FaultSt → FaultSt) : (s.modFault f).poison = s.poison := rfl
@[simp] theorem State.modFault_latent (s : State) (f : FaultSt → FaultSt) : (s.modFault f).latent = s.latent := rfl
@[simp] theorem State.modFault_ctls (s : State) (f : FaultSt → FaultSt) : (s.modFault f).ctls = s.ctls := rfl
@[simp] theorem State.modFault_hbmMode (s : State) (f : FaultSt → FaultSt) : (s.modFault f).hbmMode = s.hbmMode := rfl
@[simp] theorem State.modFault_streams (s : State) (f : FaultSt → FaultSt) : (s.modFault f).streams = s.streams := rfl
@[simp] theorem State.modFault_journal (s : State) (f : FaultSt → FaultSt) : (s.modFault f).journal = s.journal := rfl
@[simp] theorem State.modFault_core (s : State) (f : FaultSt → FaultSt) : (s.modFault f).core = s.core := rfl
@[simp] theorem State.modFault_granary (s : State) (f : FaultSt → FaultSt) : (s.modFault f).granary = s.granary := rfl
@[simp] theorem State.modFault_lauters (s : State) (f : FaultSt → FaultSt) : (s.modFault f).lauters = s.lauters := rfl
@[simp] theorem State.modFault_atoms (s : State) (f : FaultSt → FaultSt) : (s.modFault f).atoms = s.atoms := rfl
@[simp] theorem State.modFault_col (s : State) (f : FaultSt → FaultSt) : (s.modFault f).col = s.col := rfl
@[simp] theorem State.modFault_links (s : State) (f : FaultSt → FaultSt) : (s.modFault f).links = s.links := rfl
@[simp] theorem State.modFault_disc (s : State) (f : FaultSt → FaultSt) : (s.modFault f).disc = s.disc := rfl
@[simp] theorem State.modFault_host (s : State) (f : FaultSt → FaultSt) : (s.modFault f).host = s.host := rfl
@[simp] theorem State.modFault_sqs (s : State) (f : FaultSt → FaultSt) : (s.modFault f).sqs = s.sqs := rfl
@[simp] theorem State.modFault_catchUp (s : State) (f : FaultSt → FaultSt) : (s.modFault f).catchUp = s.catchUp := rfl
@[simp] theorem State.modFault_fault (s : State) (f : FaultSt → FaultSt) : (s.modFault f).fault = f s.fault := rfl
@[simp] theorem State.modFault_book (s : State) (f : FaultSt → FaultSt) : (s.modFault f).book = s.book := rfl
@[simp] theorem State.modFault_health (s : State) (f : FaultSt → FaultSt) : (s.modFault f).health = s.health := rfl
@[simp] theorem State.modFault_power (s : State) (f : FaultSt → FaultSt) : (s.modFault f).power = s.power := rfl
@[simp] theorem State.modFault_sec (s : State) (f : FaultSt → FaultSt) : (s.modFault f).sec = s.sec := rfl
@[simp] theorem State.modFault_tap (s : State) (f : FaultSt → FaultSt) : (s.modFault f).tap = s.tap := rfl
@[simp] theorem State.modFault_pins (s : State) (f : FaultSt → FaultSt) : (s.modFault f).pins = s.pins := rfl
@[simp] theorem State.modFault_out (s : State) (f : FaultSt → FaultSt) : (s.modFault f).out = s.out := rfl
@[simp] theorem State.modFault_free (s : State) (f : FaultSt → FaultSt) : (s.modFault f).free = s.free := rfl

/-! ## modBook -/

@[simp] theorem State.modBook_pending (s : State) (f : Book → Book) : (s.modBook f).pending = s.pending := rfl
@[simp] theorem State.modBook_time (s : State) (f : Book → Book) : (s.modBook f).time = s.time := rfl
@[simp] theorem State.modBook_clk (s : State) (f : Book → Book) : (s.modBook f).clk = s.clk := rfl
@[simp] theorem State.modBook_grist (s : State) (f : Book → Book) : (s.modBook f).grist = s.grist := rfl
@[simp] theorem State.modBook_tuns (s : State) (f : Book → Book) : (s.modBook f).tuns = s.tuns := rfl
@[simp] theorem State.modBook_crossings (s : State) (f : Book → Book) : (s.modBook f).crossings = s.crossings := rfl
@[simp] theorem State.modBook_raises (s : State) (f : Book → Book) : (s.modBook f).raises = s.raises := rfl
@[simp] theorem State.modBook_walks (s : State) (f : Book → Book) : (s.modBook f).walks = s.walks := rfl
@[simp] theorem State.modBook_hbm (s : State) (f : Book → Book) : (s.modBook f).hbm = s.hbm := rfl
@[simp] theorem State.modBook_hbmFill (s : State) (f : Book → Book) : (s.modBook f).hbmFill = s.hbmFill := rfl
@[simp] theorem State.modBook_poison (s : State) (f : Book → Book) : (s.modBook f).poison = s.poison := rfl
@[simp] theorem State.modBook_latent (s : State) (f : Book → Book) : (s.modBook f).latent = s.latent := rfl
@[simp] theorem State.modBook_ctls (s : State) (f : Book → Book) : (s.modBook f).ctls = s.ctls := rfl
@[simp] theorem State.modBook_hbmMode (s : State) (f : Book → Book) : (s.modBook f).hbmMode = s.hbmMode := rfl
@[simp] theorem State.modBook_streams (s : State) (f : Book → Book) : (s.modBook f).streams = s.streams := rfl
@[simp] theorem State.modBook_journal (s : State) (f : Book → Book) : (s.modBook f).journal = s.journal := rfl
@[simp] theorem State.modBook_core (s : State) (f : Book → Book) : (s.modBook f).core = s.core := rfl
@[simp] theorem State.modBook_granary (s : State) (f : Book → Book) : (s.modBook f).granary = s.granary := rfl
@[simp] theorem State.modBook_lauters (s : State) (f : Book → Book) : (s.modBook f).lauters = s.lauters := rfl
@[simp] theorem State.modBook_atoms (s : State) (f : Book → Book) : (s.modBook f).atoms = s.atoms := rfl
@[simp] theorem State.modBook_col (s : State) (f : Book → Book) : (s.modBook f).col = s.col := rfl
@[simp] theorem State.modBook_links (s : State) (f : Book → Book) : (s.modBook f).links = s.links := rfl
@[simp] theorem State.modBook_disc (s : State) (f : Book → Book) : (s.modBook f).disc = s.disc := rfl
@[simp] theorem State.modBook_host (s : State) (f : Book → Book) : (s.modBook f).host = s.host := rfl
@[simp] theorem State.modBook_sqs (s : State) (f : Book → Book) : (s.modBook f).sqs = s.sqs := rfl
@[simp] theorem State.modBook_catchUp (s : State) (f : Book → Book) : (s.modBook f).catchUp = s.catchUp := rfl
@[simp] theorem State.modBook_fault (s : State) (f : Book → Book) : (s.modBook f).fault = s.fault := rfl
@[simp] theorem State.modBook_book (s : State) (f : Book → Book) : (s.modBook f).book = f s.book := rfl
@[simp] theorem State.modBook_health (s : State) (f : Book → Book) : (s.modBook f).health = s.health := rfl
@[simp] theorem State.modBook_power (s : State) (f : Book → Book) : (s.modBook f).power = s.power := rfl
@[simp] theorem State.modBook_sec (s : State) (f : Book → Book) : (s.modBook f).sec = s.sec := rfl
@[simp] theorem State.modBook_tap (s : State) (f : Book → Book) : (s.modBook f).tap = s.tap := rfl
@[simp] theorem State.modBook_pins (s : State) (f : Book → Book) : (s.modBook f).pins = s.pins := rfl
@[simp] theorem State.modBook_out (s : State) (f : Book → Book) : (s.modBook f).out = s.out := rfl
@[simp] theorem State.modBook_free (s : State) (f : Book → Book) : (s.modBook f).free = s.free := rfl

/-! ## modHealth -/

@[simp] theorem State.modHealth_pending (s : State) (f : Health → Health) : (s.modHealth f).pending = s.pending := rfl
@[simp] theorem State.modHealth_time (s : State) (f : Health → Health) : (s.modHealth f).time = s.time := rfl
@[simp] theorem State.modHealth_clk (s : State) (f : Health → Health) : (s.modHealth f).clk = s.clk := rfl
@[simp] theorem State.modHealth_grist (s : State) (f : Health → Health) : (s.modHealth f).grist = s.grist := rfl
@[simp] theorem State.modHealth_tuns (s : State) (f : Health → Health) : (s.modHealth f).tuns = s.tuns := rfl
@[simp] theorem State.modHealth_crossings (s : State) (f : Health → Health) : (s.modHealth f).crossings = s.crossings := rfl
@[simp] theorem State.modHealth_raises (s : State) (f : Health → Health) : (s.modHealth f).raises = s.raises := rfl
@[simp] theorem State.modHealth_walks (s : State) (f : Health → Health) : (s.modHealth f).walks = s.walks := rfl
@[simp] theorem State.modHealth_hbm (s : State) (f : Health → Health) : (s.modHealth f).hbm = s.hbm := rfl
@[simp] theorem State.modHealth_hbmFill (s : State) (f : Health → Health) : (s.modHealth f).hbmFill = s.hbmFill := rfl
@[simp] theorem State.modHealth_poison (s : State) (f : Health → Health) : (s.modHealth f).poison = s.poison := rfl
@[simp] theorem State.modHealth_latent (s : State) (f : Health → Health) : (s.modHealth f).latent = s.latent := rfl
@[simp] theorem State.modHealth_ctls (s : State) (f : Health → Health) : (s.modHealth f).ctls = s.ctls := rfl
@[simp] theorem State.modHealth_hbmMode (s : State) (f : Health → Health) : (s.modHealth f).hbmMode = s.hbmMode := rfl
@[simp] theorem State.modHealth_streams (s : State) (f : Health → Health) : (s.modHealth f).streams = s.streams := rfl
@[simp] theorem State.modHealth_journal (s : State) (f : Health → Health) : (s.modHealth f).journal = s.journal := rfl
@[simp] theorem State.modHealth_core (s : State) (f : Health → Health) : (s.modHealth f).core = s.core := rfl
@[simp] theorem State.modHealth_granary (s : State) (f : Health → Health) : (s.modHealth f).granary = s.granary := rfl
@[simp] theorem State.modHealth_lauters (s : State) (f : Health → Health) : (s.modHealth f).lauters = s.lauters := rfl
@[simp] theorem State.modHealth_atoms (s : State) (f : Health → Health) : (s.modHealth f).atoms = s.atoms := rfl
@[simp] theorem State.modHealth_col (s : State) (f : Health → Health) : (s.modHealth f).col = s.col := rfl
@[simp] theorem State.modHealth_links (s : State) (f : Health → Health) : (s.modHealth f).links = s.links := rfl
@[simp] theorem State.modHealth_disc (s : State) (f : Health → Health) : (s.modHealth f).disc = s.disc := rfl
@[simp] theorem State.modHealth_host (s : State) (f : Health → Health) : (s.modHealth f).host = s.host := rfl
@[simp] theorem State.modHealth_sqs (s : State) (f : Health → Health) : (s.modHealth f).sqs = s.sqs := rfl
@[simp] theorem State.modHealth_catchUp (s : State) (f : Health → Health) : (s.modHealth f).catchUp = s.catchUp := rfl
@[simp] theorem State.modHealth_fault (s : State) (f : Health → Health) : (s.modHealth f).fault = s.fault := rfl
@[simp] theorem State.modHealth_book (s : State) (f : Health → Health) : (s.modHealth f).book = s.book := rfl
@[simp] theorem State.modHealth_health (s : State) (f : Health → Health) : (s.modHealth f).health = f s.health := rfl
@[simp] theorem State.modHealth_power (s : State) (f : Health → Health) : (s.modHealth f).power = s.power := rfl
@[simp] theorem State.modHealth_sec (s : State) (f : Health → Health) : (s.modHealth f).sec = s.sec := rfl
@[simp] theorem State.modHealth_tap (s : State) (f : Health → Health) : (s.modHealth f).tap = s.tap := rfl
@[simp] theorem State.modHealth_pins (s : State) (f : Health → Health) : (s.modHealth f).pins = s.pins := rfl
@[simp] theorem State.modHealth_out (s : State) (f : Health → Health) : (s.modHealth f).out = s.out := rfl
@[simp] theorem State.modHealth_free (s : State) (f : Health → Health) : (s.modHealth f).free = s.free := rfl

/-! ## modSec -/

@[simp] theorem State.modSec_pending (s : State) (f : Sec → Sec) : (s.modSec f).pending = s.pending := rfl
@[simp] theorem State.modSec_time (s : State) (f : Sec → Sec) : (s.modSec f).time = s.time := rfl
@[simp] theorem State.modSec_clk (s : State) (f : Sec → Sec) : (s.modSec f).clk = s.clk := rfl
@[simp] theorem State.modSec_grist (s : State) (f : Sec → Sec) : (s.modSec f).grist = s.grist := rfl
@[simp] theorem State.modSec_tuns (s : State) (f : Sec → Sec) : (s.modSec f).tuns = s.tuns := rfl
@[simp] theorem State.modSec_crossings (s : State) (f : Sec → Sec) : (s.modSec f).crossings = s.crossings := rfl
@[simp] theorem State.modSec_raises (s : State) (f : Sec → Sec) : (s.modSec f).raises = s.raises := rfl
@[simp] theorem State.modSec_walks (s : State) (f : Sec → Sec) : (s.modSec f).walks = s.walks := rfl
@[simp] theorem State.modSec_hbm (s : State) (f : Sec → Sec) : (s.modSec f).hbm = s.hbm := rfl
@[simp] theorem State.modSec_hbmFill (s : State) (f : Sec → Sec) : (s.modSec f).hbmFill = s.hbmFill := rfl
@[simp] theorem State.modSec_poison (s : State) (f : Sec → Sec) : (s.modSec f).poison = s.poison := rfl
@[simp] theorem State.modSec_latent (s : State) (f : Sec → Sec) : (s.modSec f).latent = s.latent := rfl
@[simp] theorem State.modSec_ctls (s : State) (f : Sec → Sec) : (s.modSec f).ctls = s.ctls := rfl
@[simp] theorem State.modSec_hbmMode (s : State) (f : Sec → Sec) : (s.modSec f).hbmMode = s.hbmMode := rfl
@[simp] theorem State.modSec_streams (s : State) (f : Sec → Sec) : (s.modSec f).streams = s.streams := rfl
@[simp] theorem State.modSec_journal (s : State) (f : Sec → Sec) : (s.modSec f).journal = s.journal := rfl
@[simp] theorem State.modSec_core (s : State) (f : Sec → Sec) : (s.modSec f).core = s.core := rfl
@[simp] theorem State.modSec_granary (s : State) (f : Sec → Sec) : (s.modSec f).granary = s.granary := rfl
@[simp] theorem State.modSec_lauters (s : State) (f : Sec → Sec) : (s.modSec f).lauters = s.lauters := rfl
@[simp] theorem State.modSec_atoms (s : State) (f : Sec → Sec) : (s.modSec f).atoms = s.atoms := rfl
@[simp] theorem State.modSec_col (s : State) (f : Sec → Sec) : (s.modSec f).col = s.col := rfl
@[simp] theorem State.modSec_links (s : State) (f : Sec → Sec) : (s.modSec f).links = s.links := rfl
@[simp] theorem State.modSec_disc (s : State) (f : Sec → Sec) : (s.modSec f).disc = s.disc := rfl
@[simp] theorem State.modSec_host (s : State) (f : Sec → Sec) : (s.modSec f).host = s.host := rfl
@[simp] theorem State.modSec_sqs (s : State) (f : Sec → Sec) : (s.modSec f).sqs = s.sqs := rfl
@[simp] theorem State.modSec_catchUp (s : State) (f : Sec → Sec) : (s.modSec f).catchUp = s.catchUp := rfl
@[simp] theorem State.modSec_fault (s : State) (f : Sec → Sec) : (s.modSec f).fault = s.fault := rfl
@[simp] theorem State.modSec_book (s : State) (f : Sec → Sec) : (s.modSec f).book = s.book := rfl
@[simp] theorem State.modSec_health (s : State) (f : Sec → Sec) : (s.modSec f).health = s.health := rfl
@[simp] theorem State.modSec_power (s : State) (f : Sec → Sec) : (s.modSec f).power = s.power := rfl
@[simp] theorem State.modSec_sec (s : State) (f : Sec → Sec) : (s.modSec f).sec = f s.sec := rfl
@[simp] theorem State.modSec_tap (s : State) (f : Sec → Sec) : (s.modSec f).tap = s.tap := rfl
@[simp] theorem State.modSec_pins (s : State) (f : Sec → Sec) : (s.modSec f).pins = s.pins := rfl
@[simp] theorem State.modSec_out (s : State) (f : Sec → Sec) : (s.modSec f).out = s.out := rfl
@[simp] theorem State.modSec_free (s : State) (f : Sec → Sec) : (s.modSec f).free = s.free := rfl

/-! ## modJournal -/

@[simp] theorem State.modJournal_pending (s : State) (f : Journal → Journal) : (s.modJournal f).pending = s.pending := rfl
@[simp] theorem State.modJournal_time (s : State) (f : Journal → Journal) : (s.modJournal f).time = s.time := rfl
@[simp] theorem State.modJournal_clk (s : State) (f : Journal → Journal) : (s.modJournal f).clk = s.clk := rfl
@[simp] theorem State.modJournal_grist (s : State) (f : Journal → Journal) : (s.modJournal f).grist = s.grist := rfl
@[simp] theorem State.modJournal_tuns (s : State) (f : Journal → Journal) : (s.modJournal f).tuns = s.tuns := rfl
@[simp] theorem State.modJournal_crossings (s : State) (f : Journal → Journal) : (s.modJournal f).crossings = s.crossings := rfl
@[simp] theorem State.modJournal_raises (s : State) (f : Journal → Journal) : (s.modJournal f).raises = s.raises := rfl
@[simp] theorem State.modJournal_walks (s : State) (f : Journal → Journal) : (s.modJournal f).walks = s.walks := rfl
@[simp] theorem State.modJournal_hbm (s : State) (f : Journal → Journal) : (s.modJournal f).hbm = s.hbm := rfl
@[simp] theorem State.modJournal_hbmFill (s : State) (f : Journal → Journal) : (s.modJournal f).hbmFill = s.hbmFill := rfl
@[simp] theorem State.modJournal_poison (s : State) (f : Journal → Journal) : (s.modJournal f).poison = s.poison := rfl
@[simp] theorem State.modJournal_latent (s : State) (f : Journal → Journal) : (s.modJournal f).latent = s.latent := rfl
@[simp] theorem State.modJournal_ctls (s : State) (f : Journal → Journal) : (s.modJournal f).ctls = s.ctls := rfl
@[simp] theorem State.modJournal_hbmMode (s : State) (f : Journal → Journal) : (s.modJournal f).hbmMode = s.hbmMode := rfl
@[simp] theorem State.modJournal_streams (s : State) (f : Journal → Journal) : (s.modJournal f).streams = s.streams := rfl
@[simp] theorem State.modJournal_journal (s : State) (f : Journal → Journal) : (s.modJournal f).journal = f s.journal := rfl
@[simp] theorem State.modJournal_core (s : State) (f : Journal → Journal) : (s.modJournal f).core = s.core := rfl
@[simp] theorem State.modJournal_granary (s : State) (f : Journal → Journal) : (s.modJournal f).granary = s.granary := rfl
@[simp] theorem State.modJournal_lauters (s : State) (f : Journal → Journal) : (s.modJournal f).lauters = s.lauters := rfl
@[simp] theorem State.modJournal_atoms (s : State) (f : Journal → Journal) : (s.modJournal f).atoms = s.atoms := rfl
@[simp] theorem State.modJournal_col (s : State) (f : Journal → Journal) : (s.modJournal f).col = s.col := rfl
@[simp] theorem State.modJournal_links (s : State) (f : Journal → Journal) : (s.modJournal f).links = s.links := rfl
@[simp] theorem State.modJournal_disc (s : State) (f : Journal → Journal) : (s.modJournal f).disc = s.disc := rfl
@[simp] theorem State.modJournal_host (s : State) (f : Journal → Journal) : (s.modJournal f).host = s.host := rfl
@[simp] theorem State.modJournal_sqs (s : State) (f : Journal → Journal) : (s.modJournal f).sqs = s.sqs := rfl
@[simp] theorem State.modJournal_catchUp (s : State) (f : Journal → Journal) : (s.modJournal f).catchUp = s.catchUp := rfl
@[simp] theorem State.modJournal_fault (s : State) (f : Journal → Journal) : (s.modJournal f).fault = s.fault := rfl
@[simp] theorem State.modJournal_book (s : State) (f : Journal → Journal) : (s.modJournal f).book = s.book := rfl
@[simp] theorem State.modJournal_health (s : State) (f : Journal → Journal) : (s.modJournal f).health = s.health := rfl
@[simp] theorem State.modJournal_power (s : State) (f : Journal → Journal) : (s.modJournal f).power = s.power := rfl
@[simp] theorem State.modJournal_sec (s : State) (f : Journal → Journal) : (s.modJournal f).sec = s.sec := rfl
@[simp] theorem State.modJournal_tap (s : State) (f : Journal → Journal) : (s.modJournal f).tap = s.tap := rfl
@[simp] theorem State.modJournal_pins (s : State) (f : Journal → Journal) : (s.modJournal f).pins = s.pins := rfl
@[simp] theorem State.modJournal_out (s : State) (f : Journal → Journal) : (s.modJournal f).out = s.out := rfl
@[simp] theorem State.modJournal_free (s : State) (f : Journal → Journal) : (s.modJournal f).free = s.free := rfl

/-! ## modCu -/

@[simp] theorem State.modCu_pending (s : State) (f : CatchUp → CatchUp) : (s.modCu f).pending = s.pending := rfl
@[simp] theorem State.modCu_time (s : State) (f : CatchUp → CatchUp) : (s.modCu f).time = s.time := rfl
@[simp] theorem State.modCu_clk (s : State) (f : CatchUp → CatchUp) : (s.modCu f).clk = s.clk := rfl
@[simp] theorem State.modCu_grist (s : State) (f : CatchUp → CatchUp) : (s.modCu f).grist = s.grist := rfl
@[simp] theorem State.modCu_tuns (s : State) (f : CatchUp → CatchUp) : (s.modCu f).tuns = s.tuns := rfl
@[simp] theorem State.modCu_crossings (s : State) (f : CatchUp → CatchUp) : (s.modCu f).crossings = s.crossings := rfl
@[simp] theorem State.modCu_raises (s : State) (f : CatchUp → CatchUp) : (s.modCu f).raises = s.raises := rfl
@[simp] theorem State.modCu_walks (s : State) (f : CatchUp → CatchUp) : (s.modCu f).walks = s.walks := rfl
@[simp] theorem State.modCu_hbm (s : State) (f : CatchUp → CatchUp) : (s.modCu f).hbm = s.hbm := rfl
@[simp] theorem State.modCu_hbmFill (s : State) (f : CatchUp → CatchUp) : (s.modCu f).hbmFill = s.hbmFill := rfl
@[simp] theorem State.modCu_poison (s : State) (f : CatchUp → CatchUp) : (s.modCu f).poison = s.poison := rfl
@[simp] theorem State.modCu_latent (s : State) (f : CatchUp → CatchUp) : (s.modCu f).latent = s.latent := rfl
@[simp] theorem State.modCu_ctls (s : State) (f : CatchUp → CatchUp) : (s.modCu f).ctls = s.ctls := rfl
@[simp] theorem State.modCu_hbmMode (s : State) (f : CatchUp → CatchUp) : (s.modCu f).hbmMode = s.hbmMode := rfl
@[simp] theorem State.modCu_streams (s : State) (f : CatchUp → CatchUp) : (s.modCu f).streams = s.streams := rfl
@[simp] theorem State.modCu_journal (s : State) (f : CatchUp → CatchUp) : (s.modCu f).journal = s.journal := rfl
@[simp] theorem State.modCu_core (s : State) (f : CatchUp → CatchUp) : (s.modCu f).core = s.core := rfl
@[simp] theorem State.modCu_granary (s : State) (f : CatchUp → CatchUp) : (s.modCu f).granary = s.granary := rfl
@[simp] theorem State.modCu_lauters (s : State) (f : CatchUp → CatchUp) : (s.modCu f).lauters = s.lauters := rfl
@[simp] theorem State.modCu_atoms (s : State) (f : CatchUp → CatchUp) : (s.modCu f).atoms = s.atoms := rfl
@[simp] theorem State.modCu_col (s : State) (f : CatchUp → CatchUp) : (s.modCu f).col = s.col := rfl
@[simp] theorem State.modCu_links (s : State) (f : CatchUp → CatchUp) : (s.modCu f).links = s.links := rfl
@[simp] theorem State.modCu_disc (s : State) (f : CatchUp → CatchUp) : (s.modCu f).disc = s.disc := rfl
@[simp] theorem State.modCu_host (s : State) (f : CatchUp → CatchUp) : (s.modCu f).host = s.host := rfl
@[simp] theorem State.modCu_sqs (s : State) (f : CatchUp → CatchUp) : (s.modCu f).sqs = s.sqs := rfl
@[simp] theorem State.modCu_catchUp (s : State) (f : CatchUp → CatchUp) : (s.modCu f).catchUp = f s.catchUp := rfl
@[simp] theorem State.modCu_fault (s : State) (f : CatchUp → CatchUp) : (s.modCu f).fault = s.fault := rfl
@[simp] theorem State.modCu_book (s : State) (f : CatchUp → CatchUp) : (s.modCu f).book = s.book := rfl
@[simp] theorem State.modCu_health (s : State) (f : CatchUp → CatchUp) : (s.modCu f).health = s.health := rfl
@[simp] theorem State.modCu_power (s : State) (f : CatchUp → CatchUp) : (s.modCu f).power = s.power := rfl
@[simp] theorem State.modCu_sec (s : State) (f : CatchUp → CatchUp) : (s.modCu f).sec = s.sec := rfl
@[simp] theorem State.modCu_tap (s : State) (f : CatchUp → CatchUp) : (s.modCu f).tap = s.tap := rfl
@[simp] theorem State.modCu_pins (s : State) (f : CatchUp → CatchUp) : (s.modCu f).pins = s.pins := rfl
@[simp] theorem State.modCu_out (s : State) (f : CatchUp → CatchUp) : (s.modCu f).out = s.out := rfl
@[simp] theorem State.modCu_free (s : State) (f : CatchUp → CatchUp) : (s.modCu f).free = s.free := rfl

/-! ## emit -/

@[simp] theorem State.emit_pending (s : State) (o : Output) : (s.emit o).pending = s.pending := rfl
@[simp] theorem State.emit_time (s : State) (o : Output) : (s.emit o).time = s.time := rfl
@[simp] theorem State.emit_clk (s : State) (o : Output) : (s.emit o).clk = s.clk := rfl
@[simp] theorem State.emit_grist (s : State) (o : Output) : (s.emit o).grist = s.grist := rfl
@[simp] theorem State.emit_tuns (s : State) (o : Output) : (s.emit o).tuns = s.tuns := rfl
@[simp] theorem State.emit_crossings (s : State) (o : Output) : (s.emit o).crossings = s.crossings := rfl
@[simp] theorem State.emit_raises (s : State) (o : Output) : (s.emit o).raises = s.raises := rfl
@[simp] theorem State.emit_walks (s : State) (o : Output) : (s.emit o).walks = s.walks := rfl
@[simp] theorem State.emit_hbm (s : State) (o : Output) : (s.emit o).hbm = s.hbm := rfl
@[simp] theorem State.emit_hbmFill (s : State) (o : Output) : (s.emit o).hbmFill = s.hbmFill := rfl
@[simp] theorem State.emit_poison (s : State) (o : Output) : (s.emit o).poison = s.poison := rfl
@[simp] theorem State.emit_latent (s : State) (o : Output) : (s.emit o).latent = s.latent := rfl
@[simp] theorem State.emit_ctls (s : State) (o : Output) : (s.emit o).ctls = s.ctls := rfl
@[simp] theorem State.emit_hbmMode (s : State) (o : Output) : (s.emit o).hbmMode = s.hbmMode := rfl
@[simp] theorem State.emit_streams (s : State) (o : Output) : (s.emit o).streams = s.streams := rfl
@[simp] theorem State.emit_journal (s : State) (o : Output) : (s.emit o).journal = s.journal := rfl
@[simp] theorem State.emit_core (s : State) (o : Output) : (s.emit o).core = s.core := rfl
@[simp] theorem State.emit_granary (s : State) (o : Output) : (s.emit o).granary = s.granary := rfl
@[simp] theorem State.emit_lauters (s : State) (o : Output) : (s.emit o).lauters = s.lauters := rfl
@[simp] theorem State.emit_atoms (s : State) (o : Output) : (s.emit o).atoms = s.atoms := rfl
@[simp] theorem State.emit_col (s : State) (o : Output) : (s.emit o).col = s.col := rfl
@[simp] theorem State.emit_links (s : State) (o : Output) : (s.emit o).links = s.links := rfl
@[simp] theorem State.emit_disc (s : State) (o : Output) : (s.emit o).disc = s.disc := rfl
@[simp] theorem State.emit_host (s : State) (o : Output) : (s.emit o).host = s.host := rfl
@[simp] theorem State.emit_sqs (s : State) (o : Output) : (s.emit o).sqs = s.sqs := rfl
@[simp] theorem State.emit_catchUp (s : State) (o : Output) : (s.emit o).catchUp = s.catchUp := rfl
@[simp] theorem State.emit_fault (s : State) (o : Output) : (s.emit o).fault = s.fault := rfl
@[simp] theorem State.emit_book (s : State) (o : Output) : (s.emit o).book = s.book := rfl
@[simp] theorem State.emit_health (s : State) (o : Output) : (s.emit o).health = s.health := rfl
@[simp] theorem State.emit_power (s : State) (o : Output) : (s.emit o).power = s.power := rfl
@[simp] theorem State.emit_sec (s : State) (o : Output) : (s.emit o).sec = s.sec := rfl
@[simp] theorem State.emit_tap (s : State) (o : Output) : (s.emit o).tap = s.tap := rfl
@[simp] theorem State.emit_pins (s : State) (o : Output) : (s.emit o).pins = s.pins := rfl
@[simp] theorem State.emit_out (s : State) (o : Output) : (s.emit o).out = o :: s.out := rfl
@[simp] theorem State.emit_free (s : State) (o : Output) : (s.emit o).free = s.free := rfl

/-! ## useFree -/

@[simp] theorem State.useFree_pending (s : State) : (s.useFree).pending = s.pending := rfl
@[simp] theorem State.useFree_time (s : State) : (s.useFree).time = s.time := rfl
@[simp] theorem State.useFree_clk (s : State) : (s.useFree).clk = s.clk := rfl
@[simp] theorem State.useFree_grist (s : State) : (s.useFree).grist = s.grist := rfl
@[simp] theorem State.useFree_tuns (s : State) : (s.useFree).tuns = s.tuns := rfl
@[simp] theorem State.useFree_crossings (s : State) : (s.useFree).crossings = s.crossings := rfl
@[simp] theorem State.useFree_raises (s : State) : (s.useFree).raises = s.raises := rfl
@[simp] theorem State.useFree_walks (s : State) : (s.useFree).walks = s.walks := rfl
@[simp] theorem State.useFree_hbm (s : State) : (s.useFree).hbm = s.hbm := rfl
@[simp] theorem State.useFree_hbmFill (s : State) : (s.useFree).hbmFill = s.hbmFill := rfl
@[simp] theorem State.useFree_poison (s : State) : (s.useFree).poison = s.poison := rfl
@[simp] theorem State.useFree_latent (s : State) : (s.useFree).latent = s.latent := rfl
@[simp] theorem State.useFree_ctls (s : State) : (s.useFree).ctls = s.ctls := rfl
@[simp] theorem State.useFree_hbmMode (s : State) : (s.useFree).hbmMode = s.hbmMode := rfl
@[simp] theorem State.useFree_streams (s : State) : (s.useFree).streams = s.streams := rfl
@[simp] theorem State.useFree_journal (s : State) : (s.useFree).journal = s.journal := rfl
@[simp] theorem State.useFree_core (s : State) : (s.useFree).core = s.core := rfl
@[simp] theorem State.useFree_granary (s : State) : (s.useFree).granary = s.granary := rfl
@[simp] theorem State.useFree_lauters (s : State) : (s.useFree).lauters = s.lauters := rfl
@[simp] theorem State.useFree_atoms (s : State) : (s.useFree).atoms = s.atoms := rfl
@[simp] theorem State.useFree_col (s : State) : (s.useFree).col = s.col := rfl
@[simp] theorem State.useFree_links (s : State) : (s.useFree).links = s.links := rfl
@[simp] theorem State.useFree_disc (s : State) : (s.useFree).disc = s.disc := rfl
@[simp] theorem State.useFree_host (s : State) : (s.useFree).host = s.host := rfl
@[simp] theorem State.useFree_sqs (s : State) : (s.useFree).sqs = s.sqs := rfl
@[simp] theorem State.useFree_catchUp (s : State) : (s.useFree).catchUp = s.catchUp := rfl
@[simp] theorem State.useFree_fault (s : State) : (s.useFree).fault = s.fault := rfl
@[simp] theorem State.useFree_book (s : State) : (s.useFree).book = s.book := rfl
@[simp] theorem State.useFree_health (s : State) : (s.useFree).health = s.health := rfl
@[simp] theorem State.useFree_power (s : State) : (s.useFree).power = s.power := rfl
@[simp] theorem State.useFree_sec (s : State) : (s.useFree).sec = s.sec := rfl
@[simp] theorem State.useFree_tap (s : State) : (s.useFree).tap = s.tap := rfl
@[simp] theorem State.useFree_pins (s : State) : (s.useFree).pins = s.pins := rfl
@[simp] theorem State.useFree_out (s : State) : (s.useFree).out = s.out := rfl
@[simp] theorem State.useFree_free (s : State) : (s.useFree).free = s.free + 1 := rfl

/-! ## mark -/

@[simp] theorem State.mark_pending (s : State) (bit : Nat) : (s.mark bit).pending = s.pending := rfl
@[simp] theorem State.mark_time (s : State) (bit : Nat) : (s.mark bit).time = { s.time with
    marks := s.time.marks ||| BitVec.ofNat 9 (2 ^ bit)
    hw := Tab.mod 0 (if s.time.hwAt == s.now then s.time.hw else []) 0x20024 (· ||| BitVec.ofNat 32 (2 ^ bit))
    hwAt := s.now } := rfl
@[simp] theorem State.mark_clk (s : State) (bit : Nat) : (s.mark bit).clk = s.clk := rfl
@[simp] theorem State.mark_grist (s : State) (bit : Nat) : (s.mark bit).grist = s.grist := rfl
@[simp] theorem State.mark_tuns (s : State) (bit : Nat) : (s.mark bit).tuns = s.tuns := rfl
@[simp] theorem State.mark_crossings (s : State) (bit : Nat) : (s.mark bit).crossings = s.crossings := rfl
@[simp] theorem State.mark_raises (s : State) (bit : Nat) : (s.mark bit).raises = s.raises := rfl
@[simp] theorem State.mark_walks (s : State) (bit : Nat) : (s.mark bit).walks = s.walks := rfl
@[simp] theorem State.mark_hbm (s : State) (bit : Nat) : (s.mark bit).hbm = s.hbm := rfl
@[simp] theorem State.mark_hbmFill (s : State) (bit : Nat) : (s.mark bit).hbmFill = s.hbmFill := rfl
@[simp] theorem State.mark_poison (s : State) (bit : Nat) : (s.mark bit).poison = s.poison := rfl
@[simp] theorem State.mark_latent (s : State) (bit : Nat) : (s.mark bit).latent = s.latent := rfl
@[simp] theorem State.mark_ctls (s : State) (bit : Nat) : (s.mark bit).ctls = s.ctls := rfl
@[simp] theorem State.mark_hbmMode (s : State) (bit : Nat) : (s.mark bit).hbmMode = s.hbmMode := rfl
@[simp] theorem State.mark_streams (s : State) (bit : Nat) : (s.mark bit).streams = s.streams := rfl
@[simp] theorem State.mark_journal (s : State) (bit : Nat) : (s.mark bit).journal = s.journal := rfl
@[simp] theorem State.mark_core (s : State) (bit : Nat) : (s.mark bit).core = s.core := rfl
@[simp] theorem State.mark_granary (s : State) (bit : Nat) : (s.mark bit).granary = s.granary := rfl
@[simp] theorem State.mark_lauters (s : State) (bit : Nat) : (s.mark bit).lauters = s.lauters := rfl
@[simp] theorem State.mark_atoms (s : State) (bit : Nat) : (s.mark bit).atoms = s.atoms := rfl
@[simp] theorem State.mark_col (s : State) (bit : Nat) : (s.mark bit).col = s.col := rfl
@[simp] theorem State.mark_links (s : State) (bit : Nat) : (s.mark bit).links = s.links := rfl
@[simp] theorem State.mark_disc (s : State) (bit : Nat) : (s.mark bit).disc = s.disc := rfl
@[simp] theorem State.mark_host (s : State) (bit : Nat) : (s.mark bit).host = s.host := rfl
@[simp] theorem State.mark_sqs (s : State) (bit : Nat) : (s.mark bit).sqs = s.sqs := rfl
@[simp] theorem State.mark_catchUp (s : State) (bit : Nat) : (s.mark bit).catchUp = s.catchUp := rfl
@[simp] theorem State.mark_fault (s : State) (bit : Nat) : (s.mark bit).fault = s.fault := rfl
@[simp] theorem State.mark_book (s : State) (bit : Nat) : (s.mark bit).book = s.book := rfl
@[simp] theorem State.mark_health (s : State) (bit : Nat) : (s.mark bit).health = s.health := rfl
@[simp] theorem State.mark_power (s : State) (bit : Nat) : (s.mark bit).power = s.power := rfl
@[simp] theorem State.mark_sec (s : State) (bit : Nat) : (s.mark bit).sec = s.sec := rfl
@[simp] theorem State.mark_tap (s : State) (bit : Nat) : (s.mark bit).tap = s.tap := rfl
@[simp] theorem State.mark_pins (s : State) (bit : Nat) : (s.mark bit).pins = s.pins := rfl
@[simp] theorem State.mark_out (s : State) (bit : Nat) : (s.mark bit).out = s.out := rfl
@[simp] theorem State.mark_free (s : State) (bit : Nat) : (s.mark bit).free = s.free := rfl

/-! ## raise -/

@[simp] theorem State.raise_pending (s : State) (src detail : Nat) : (s.raise src detail).pending = s.pending := rfl
@[simp] theorem State.raise_time (s : State) (src detail : Nat) : (s.raise src detail).time = s.time := rfl
@[simp] theorem State.raise_clk (s : State) (src detail : Nat) : (s.raise src detail).clk = s.clk := rfl
@[simp] theorem State.raise_grist (s : State) (src detail : Nat) : (s.raise src detail).grist = s.grist := rfl
@[simp] theorem State.raise_tuns (s : State) (src detail : Nat) : (s.raise src detail).tuns = s.tuns := rfl
@[simp] theorem State.raise_crossings (s : State) (src detail : Nat) : (s.raise src detail).crossings = s.crossings := rfl
@[simp] theorem State.raise_raises (s : State) (src detail : Nat) : (s.raise src detail).raises = s.raises := rfl
@[simp] theorem State.raise_walks (s : State) (src detail : Nat) : (s.raise src detail).walks = s.walks := rfl
@[simp] theorem State.raise_hbm (s : State) (src detail : Nat) : (s.raise src detail).hbm = s.hbm := rfl
@[simp] theorem State.raise_hbmFill (s : State) (src detail : Nat) : (s.raise src detail).hbmFill = s.hbmFill := rfl
@[simp] theorem State.raise_poison (s : State) (src detail : Nat) : (s.raise src detail).poison = s.poison := rfl
@[simp] theorem State.raise_latent (s : State) (src detail : Nat) : (s.raise src detail).latent = s.latent := rfl
@[simp] theorem State.raise_ctls (s : State) (src detail : Nat) : (s.raise src detail).ctls = s.ctls := rfl
@[simp] theorem State.raise_hbmMode (s : State) (src detail : Nat) : (s.raise src detail).hbmMode = s.hbmMode := rfl
@[simp] theorem State.raise_streams (s : State) (src detail : Nat) : (s.raise src detail).streams = s.streams := rfl
@[simp] theorem State.raise_journal (s : State) (src detail : Nat) : (s.raise src detail).journal = s.journal := rfl
@[simp] theorem State.raise_core (s : State) (src detail : Nat) : (s.raise src detail).core = s.core := rfl
@[simp] theorem State.raise_granary (s : State) (src detail : Nat) : (s.raise src detail).granary = s.granary := rfl
@[simp] theorem State.raise_lauters (s : State) (src detail : Nat) : (s.raise src detail).lauters = s.lauters := rfl
@[simp] theorem State.raise_atoms (s : State) (src detail : Nat) : (s.raise src detail).atoms = s.atoms := rfl
@[simp] theorem State.raise_col (s : State) (src detail : Nat) : (s.raise src detail).col = s.col := rfl
@[simp] theorem State.raise_links (s : State) (src detail : Nat) : (s.raise src detail).links = s.links := rfl
@[simp] theorem State.raise_disc (s : State) (src detail : Nat) : (s.raise src detail).disc = s.disc := rfl
@[simp] theorem State.raise_host (s : State) (src detail : Nat) : (s.raise src detail).host = s.host := rfl
@[simp] theorem State.raise_sqs (s : State) (src detail : Nat) : (s.raise src detail).sqs = s.sqs := rfl
@[simp] theorem State.raise_catchUp (s : State) (src detail : Nat) : (s.raise src detail).catchUp = s.catchUp := rfl
@[simp] theorem State.raise_fault (s : State) (src detail : Nat) : (s.raise src detail).fault = { s.fault with raised := s.fault.raised ++ [{ src := src, stamp := s.time.ftc + s.faultDelay src, detail := detail, at_ := s.now + s.faultDelay src }] } := rfl
@[simp] theorem State.raise_book (s : State) (src detail : Nat) : (s.raise src detail).book = s.book := rfl
@[simp] theorem State.raise_health (s : State) (src detail : Nat) : (s.raise src detail).health = s.health := rfl
@[simp] theorem State.raise_power (s : State) (src detail : Nat) : (s.raise src detail).power = s.power := rfl
@[simp] theorem State.raise_sec (s : State) (src detail : Nat) : (s.raise src detail).sec = s.sec := rfl
@[simp] theorem State.raise_tap (s : State) (src detail : Nat) : (s.raise src detail).tap = s.tap := rfl
@[simp] theorem State.raise_pins (s : State) (src detail : Nat) : (s.raise src detail).pins = s.pins := rfl
@[simp] theorem State.raise_out (s : State) (src detail : Nat) : (s.raise src detail).out = s.out := rfl
@[simp] theorem State.raise_free (s : State) (src detail : Nat) : (s.raise src detail).free = s.free := rfl

/-! ## modPort -/

@[simp] theorem State.modPort_pending (s : State) (p : HostPort) (f : PortSt → PortSt) : (s.modPort p f).pending = s.pending := by
  cases p <;> rfl
@[simp] theorem State.modPort_time (s : State) (p : HostPort) (f : PortSt → PortSt) : (s.modPort p f).time = s.time := by
  cases p <;> rfl
@[simp] theorem State.modPort_clk (s : State) (p : HostPort) (f : PortSt → PortSt) : (s.modPort p f).clk = s.clk := by
  cases p <;> rfl
@[simp] theorem State.modPort_grist (s : State) (p : HostPort) (f : PortSt → PortSt) : (s.modPort p f).grist = s.grist := by
  cases p <;> rfl
@[simp] theorem State.modPort_tuns (s : State) (p : HostPort) (f : PortSt → PortSt) : (s.modPort p f).tuns = s.tuns := by
  cases p <;> rfl
@[simp] theorem State.modPort_crossings (s : State) (p : HostPort) (f : PortSt → PortSt) : (s.modPort p f).crossings = s.crossings := by
  cases p <;> rfl
@[simp] theorem State.modPort_raises (s : State) (p : HostPort) (f : PortSt → PortSt) : (s.modPort p f).raises = s.raises := by
  cases p <;> rfl
@[simp] theorem State.modPort_walks (s : State) (p : HostPort) (f : PortSt → PortSt) : (s.modPort p f).walks = s.walks := by
  cases p <;> rfl
@[simp] theorem State.modPort_hbm (s : State) (p : HostPort) (f : PortSt → PortSt) : (s.modPort p f).hbm = s.hbm := by
  cases p <;> rfl
@[simp] theorem State.modPort_hbmFill (s : State) (p : HostPort) (f : PortSt → PortSt) : (s.modPort p f).hbmFill = s.hbmFill := by
  cases p <;> rfl
@[simp] theorem State.modPort_poison (s : State) (p : HostPort) (f : PortSt → PortSt) : (s.modPort p f).poison = s.poison := by
  cases p <;> rfl
@[simp] theorem State.modPort_latent (s : State) (p : HostPort) (f : PortSt → PortSt) : (s.modPort p f).latent = s.latent := by
  cases p <;> rfl
@[simp] theorem State.modPort_ctls (s : State) (p : HostPort) (f : PortSt → PortSt) : (s.modPort p f).ctls = s.ctls := by
  cases p <;> rfl
@[simp] theorem State.modPort_hbmMode (s : State) (p : HostPort) (f : PortSt → PortSt) : (s.modPort p f).hbmMode = s.hbmMode := by
  cases p <;> rfl
@[simp] theorem State.modPort_streams (s : State) (p : HostPort) (f : PortSt → PortSt) : (s.modPort p f).streams = s.streams := by
  cases p <;> rfl
@[simp] theorem State.modPort_journal (s : State) (p : HostPort) (f : PortSt → PortSt) : (s.modPort p f).journal = s.journal := by
  cases p <;> rfl
@[simp] theorem State.modPort_core (s : State) (p : HostPort) (f : PortSt → PortSt) : (s.modPort p f).core = s.core := by
  cases p <;> rfl
@[simp] theorem State.modPort_granary (s : State) (p : HostPort) (f : PortSt → PortSt) : (s.modPort p f).granary = s.granary := by
  cases p <;> rfl
@[simp] theorem State.modPort_lauters (s : State) (p : HostPort) (f : PortSt → PortSt) : (s.modPort p f).lauters = s.lauters := by
  cases p <;> rfl
@[simp] theorem State.modPort_atoms (s : State) (p : HostPort) (f : PortSt → PortSt) : (s.modPort p f).atoms = s.atoms := by
  cases p <;> rfl
@[simp] theorem State.modPort_col (s : State) (p : HostPort) (f : PortSt → PortSt) : (s.modPort p f).col = s.col := by
  cases p <;> rfl
@[simp] theorem State.modPort_links (s : State) (p : HostPort) (f : PortSt → PortSt) : (s.modPort p f).links = s.links := by
  cases p <;> rfl
@[simp] theorem State.modPort_disc (s : State) (p : HostPort) (f : PortSt → PortSt) : (s.modPort p f).disc = s.disc := by
  cases p <;> rfl
@[simp] theorem State.modPort_sqs (s : State) (p : HostPort) (f : PortSt → PortSt) : (s.modPort p f).sqs = s.sqs := by
  cases p <;> rfl
@[simp] theorem State.modPort_catchUp (s : State) (p : HostPort) (f : PortSt → PortSt) : (s.modPort p f).catchUp = s.catchUp := by
  cases p <;> rfl
@[simp] theorem State.modPort_fault (s : State) (p : HostPort) (f : PortSt → PortSt) : (s.modPort p f).fault = s.fault := by
  cases p <;> rfl
@[simp] theorem State.modPort_book (s : State) (p : HostPort) (f : PortSt → PortSt) : (s.modPort p f).book = s.book := by
  cases p <;> rfl
@[simp] theorem State.modPort_health (s : State) (p : HostPort) (f : PortSt → PortSt) : (s.modPort p f).health = s.health := by
  cases p <;> rfl
@[simp] theorem State.modPort_power (s : State) (p : HostPort) (f : PortSt → PortSt) : (s.modPort p f).power = s.power := by
  cases p <;> rfl
@[simp] theorem State.modPort_sec (s : State) (p : HostPort) (f : PortSt → PortSt) : (s.modPort p f).sec = s.sec := by
  cases p <;> rfl
@[simp] theorem State.modPort_tap (s : State) (p : HostPort) (f : PortSt → PortSt) : (s.modPort p f).tap = s.tap := by
  cases p <;> rfl
@[simp] theorem State.modPort_pins (s : State) (p : HostPort) (f : PortSt → PortSt) : (s.modPort p f).pins = s.pins := by
  cases p <;> rfl
@[simp] theorem State.modPort_out (s : State) (p : HostPort) (f : PortSt → PortSt) : (s.modPort p f).out = s.out := by
  cases p <;> rfl
@[simp] theorem State.modPort_free (s : State) (p : HostPort) (f : PortSt → PortSt) : (s.modPort p f).free = s.free := by
  cases p <;> rfl
@[simp] theorem State.modPort_port (s : State) (p : HostPort) (f : PortSt → PortSt) :
    (s.modPort p f).port p = f (s.port p) := by cases p <;> rfl
@[simp] theorem State.modPort_holder (s : State) (p : HostPort) (f : PortSt → PortSt) :
    (s.modPort p f).host.holder = s.host.holder := by cases p <;> rfl
@[simp] theorem State.modPort_remote (s : State) (p : HostPort) (f : PortSt → PortSt) :
    (s.modPort p f).host.remote = s.host.remote := by cases p <;> rfl
@[simp] theorem State.modHost_modHost (s : State) (f g : HostSt → HostSt) :
    (s.modHost f).modHost g = s.modHost fun h => g (f h) := rfl

end Sys2Proof.Machine
end

