-- ==== Sys2Proof/Laws/Ops.lean ====
section
/-! SUPPORT. Laws/Ops.lean: one lemma for each shared operation that says everything it
can do: the parts of the state it reads back, and the parts it can change. -/
namespace Sys2Proof.Machine

/-! ## Reading back a part that has been changed -/

theorem setTun_tun (s : State) (i : Nat) (x : Tun) (k : Nat) : (s.setTun i x).tun k = if k = i then x else s.tun k := by
  unfold State.setTun State.tun
  split
  · subst_vars; simp
  · rw [Tab.get_set_other _ _ _ ‹_›]
@[simp] theorem setTun_tun_same (s : State) (i : Nat) (x : Tun) : (s.setTun i x).tun i = x := by simp [setTun_tun]
theorem setTun_tun_other (s : State) {i k : Nat} (x : Tun) (h : k ≠ i) : (s.setTun i x).tun k = s.tun k := by
  simp [setTun_tun, h]
theorem modTun_tun (s : State) (i : Nat) (f : Tun → Tun) (k : Nat) :
    (s.modTun i f).tun k = if k = i then f (s.tun i) else s.tun k := setTun_tun _ _ _ _
@[simp] theorem modTun_tun_same (s : State) (i : Nat) (f : Tun → Tun) : (s.modTun i f).tun i = f (s.tun i) := by
  simp [modTun_tun]
theorem modTun_tun_other (s : State) {i k : Nat} (f : Tun → Tun) (h : k ≠ i) : (s.modTun i f).tun k = s.tun k := by
  simp [modTun_tun, h]
@[simp] theorem modCtl_ctl_same (s : State) (n : Nat) (f : HbmCtl → HbmCtl) : (s.modCtl n f).ctl n = f (s.ctl n) := by
  simp [State.modCtl, State.ctl]
theorem modCtl_ctl_other (s : State) {n k : Nat} (f : HbmCtl → HbmCtl) (h : k ≠ n) : (s.modCtl n f).ctl k = s.ctl k :=
  Tab.get_mod_other _ _ _ h
@[simp] theorem modStream_stream_same (s : State) (k : Nat) (f : Stream → Stream) :
    (s.modStream k f).stream k = f (s.stream k) := by simp [State.modStream, State.stream]
theorem modStream_stream_other (s : State) {k j : Nat} (f : Stream → Stream) (h : j ≠ k) :
    (s.modStream k f).stream j = s.stream j := Tab.get_mod_other _ _ _ h
@[simp] theorem modLauter_lauter_same (s : State) (u : Nat) (f : Lauter → Lauter) :
    (s.modLauter u f).lauter u = f (s.lauter u) := by simp [State.modLauter, State.lauter]
theorem modLauter_lauter_other (s : State) {u k : Nat} (f : Lauter → Lauter) (h : k ≠ u) :
    (s.modLauter u f).lauter k = s.lauter k := Tab.get_mod_other _ _ _ h
@[simp] theorem modLink_link_same (s : State) (p : Nat) (f : Link → Link) : (s.modLink p f).link p = f (s.link p) := by
  simp [State.modLink, State.link]
theorem modLink_link_other (s : State) {p k : Nat} (f : Link → Link) (h : k ≠ p) : (s.modLink p f).link k = s.link k :=
  Tab.get_mod_other _ _ _ h
@[simp] theorem modSq_sq_same (s : State) (q : Nat) (f : StreamQ → StreamQ) : (s.modSq q f).sq q = f (s.sq q) := by
  simp [State.modSq, State.sq]
theorem modSq_sq_other (s : State) {q k : Nat} (f : StreamQ → StreamQ) (h : k ≠ q) : (s.modSq q f).sq k = s.sq k :=
  Tab.get_mod_other _ _ _ h
@[simp] theorem modCtx_ctx_same (s : State) (c : Nat) (f : Ctx → Ctx) : (s.modCtx c f).ctx c = f (s.ctx c) := by
  simp [State.modCtx, State.ctx]
theorem modCtx_ctx_other (s : State) {c k : Nat} (f : Ctx → Ctx) (h : k ≠ c) : (s.modCtx c f).ctx k = s.ctx k :=
  Tab.get_mod_other _ _ _ h
@[simp] theorem modPort_port_same (s : State) (p : HostPort) (f : PortSt → PortSt) : (s.modPort p f).port p = f (s.port p) := by
  cases p <;> rfl
theorem modPort_port_other (s : State) {p q : HostPort} (f : PortSt → PortSt) (h : q ≠ p) :
    (s.modPort p f).port q = s.port q := by
  cases p <;> cases q <;> first | rfl | exact absurd rfl h

/-! ## Frames: what an operation can change -/

/-- Raising a fault adds one record and changes nothing else (R350). -/
theorem raise_eq (s : State) (src detail : Nat) :
    s.raise src detail = { s with fault := { s.fault with raised := s.fault.raised ++
      [⟨src, s.time.ftc + s.faultDelay src, detail, false, s.now + s.faultDelay src⟩] } } := rfl

/-- The operation changes the granary and the telemetry of the ports only. -/
def State.PassFrame (s t : State) : Prop := t = { s with granary := t.granary, core := { s.core with tel := t.core.tel } }

theorem State.PassFrame.refl (s : State) : s.PassFrame s := rfl

theorem State.PassFrame.trans {s t u : State} (h : s.PassFrame t) (g : t.PassFrame u) : s.PassFrame u := by
  unfold State.PassFrame at *
  rw [g, h]

theorem State.PassFrame.foldl {α : Type} {f : State → α → State} (h : ∀ (u : State) (a : α), u.PassFrame (f u a))
    (l : List α) (s : State) : s.PassFrame (l.foldl f s) := by
  induction l generalizing s with
  | nil => exact .refl s
  | cons a l ih => exact (h s a).trans (ih (f s a))

/-- Core cycles that pass change the granary and port telemetry (R186, R195, R295). -/
theorem passCycles_frame (s : State) (n : Nat) : s.PassFrame (s.passCycles n) := by
  unfold State.passCycles
  split
  · exact .refl s
  · extract_lets s1 s2
    have h1 : s.PassFrame s1 := rfl
    have h2 : s.PassFrame s2 := by
      refine h1.trans (State.PassFrame.foldl ?_ _ _)
      intro u b
      rfl
    split
    · exact h2
    · refine h2.trans (State.PassFrame.foldl (fun u p => ?_) _ _)
      extract_lets st u1 u2
      have g1 : u.PassFrame u1 := by unfold u1; split <;> exact rfl
      have g2 : u.PassFrame u2 := g1.trans (by unfold u2; split <;> exact rfl)
      split
      · exact g2.trans rfl
      · exact g2

/-- A command fixed to an FTC count: the count is reached, and beside it only the islands' clocks,
the granary and port telemetry have changed. -/
theorem reach_frame (s : State) (due : Nat) : ∃ k g c, s.reach due = { s with
    time := { s.time with ftc := max s.time.ftc due }
    clk := k
    granary := g
    core := { s.core with tel := c } } := by
  unfold State.reach
  split
  · rw [Nat.max_eq_left ‹_›]; exact ⟨_, _, _, rfl⟩
  · rw [Nat.max_eq_right (by omega)]
    extract_lets clk s1
    have h1 : s.PassFrame s1 := by
      unfold s1; split
      · exact passCycles_frame _ _
      · exact .refl s
    have e : ∃ g c, s1 = { s with granary := g, core := { s.core with tel := c } } := ⟨_, _, h1⟩
    clear h1
    clear_value s1
    obtain ⟨g, c, rfl⟩ := e
    exact ⟨_, _, _, rfl⟩

@[simp] theorem reach_ftc (s : State) (due : Nat) : (s.reach due).time.ftc = max s.time.ftc due := by
  obtain ⟨_, _, _, h⟩ := reach_frame s due; rw [h]
@[simp] theorem reach_tuns (s : State) (due : Nat) : (s.reach due).tuns = s.tuns := by
  obtain ⟨_, _, _, h⟩ := reach_frame s due; rw [h]
@[simp] theorem reach_tun (s : State) (due k : Nat) : (s.reach due).tun k = s.tun k := by
  unfold State.tun; rw [reach_tuns]
@[simp] theorem reach_hbm (s : State) (due : Nat) : (s.reach due).hbm = s.hbm := by
  obtain ⟨_, _, _, h⟩ := reach_frame s due; rw [h]
@[simp] theorem reach_fault (s : State) (due : Nat) : (s.reach due).fault = s.fault := by
  obtain ⟨_, _, _, h⟩ := reach_frame s due; rw [h]
@[simp] theorem reach_host (s : State) (due : Nat) : (s.reach due).host = s.host := by
  obtain ⟨_, _, _, h⟩ := reach_frame s due; rw [h]
@[simp] theorem reach_power (s : State) (due : Nat) : (s.reach due).power = s.power := by
  obtain ⟨_, _, _, h⟩ := reach_frame s due; rw [h]
@[simp] theorem reach_grist (s : State) (due : Nat) : (s.reach due).grist = s.grist := by
  obtain ⟨_, _, _, h⟩ := reach_frame s due; rw [h]
@[simp] theorem reach_links (s : State) (due : Nat) : (s.reach due).links = s.links := by
  obtain ⟨_, _, _, h⟩ := reach_frame s due; rw [h]
@[simp] theorem reach_col (s : State) (due : Nat) : (s.reach due).col = s.col := by
  obtain ⟨_, _, _, h⟩ := reach_frame s due; rw [h]

/-- The sequencer moves on: its place and its loops change, nothing else (R51, R71, R72). -/
theorem advance_frame (a : Tun) (pc : Pc) (w : Nat) :
    ∃ n l r, a.advance pc w = { a with next := n, loops := l, replayRet := r } := by
  unfold Tun.advance
  simp only []
  repeat' split
  all_goals exact ⟨_, _, _, rfl⟩

/-- A frame that this node has made waits at its source or goes to its port, and changes
nothing but that and the counts of the buckets without level (R195). -/
theorem source_frame (s : State) (f : SrcFrame) : ∃ h c, s.source f = { s with
    granary := { s.granary with heldCnt := c }
    core := { s.core with held := (s.source f).core.held, inject := (s.source f).core.inject } }
      ∧ (s.source f).made f.port { f with hdr := h } := by
  unfold State.source
  extract_lets
  split
  · split
    · exact ⟨_, _, rfl, .inl (List.mem_append_right _ (List.mem_singleton.2 rfl))⟩
    · refine ⟨((s.setInter { f.hdr with length := BitVec.ofNat 16 f.payload.length }).sealed), s.granary.heldCnt, rfl, Or.inr ?_⟩
      show _ ∈ Tab.get [] (Tab.mod [] s.core.inject f.port (fun l => l ++ [_])) f.port
      rw [Tab.get_mod_same]
      exact List.mem_append_right _ (List.mem_singleton.2 rfl)
  · exact ⟨_, _, rfl, .inl (List.mem_append_right _ (List.mem_singleton.2 rfl))⟩

/-- What a recipe instruction does that R209 and R223 let run. -/
theorem recipeStep_runs {s : State} {u op w : Nat} {rr : RecipeRec} {r : Run} (h : s.recipeRuns u op rr r w)
    (act : RecipeRec → Nat → Run → Run × Nat) :
    s.recipeStep u op act = ((s.mvRun w).modLauter u fun l => { l with
      run := some (if op = 1 then (act rr w (s.begun u r w)).1 else (act rr w (s.begun u r w)).1.stepped) }).setLtrFlags u
        (act rr w (s.begun u r w)).2 := by
  obtain ⟨⟨h1, h2, h3, h4, h5, h6, h7, rfl, h9⟩, h10, h11, h12⟩ := h
  subst h9
  unfold State.recipeStep
  simp only [h2, h1, h3, h4, h5, h6, h10, h11, h12, Bool.not_true, Bool.or_self, Bool.false_eq_true, if_false, State.begun,
    Run.stepped, State.mvRun, beq_iff_eq, bne_self_eq_false, Nat.not_le.2 h7, decide_false]

end Sys2Proof.Machine
end

