-- ==== Sys2Proof/Laws/Tun.lean ====
section
/-! SUPPORT. Laws/Tun.lean: what the shared operations of the tuns can do: issuing an
instruction (R51, R423) and halting for a fault (R59, R103, R151). -/
namespace Sys2Proof.Machine

/-- The operation can change only the tuns, the streams, the time block, the granary, the frames
of the core, the faults raised and the counts of health. -/
def State.TunFrame (s t : State) : Prop :=
  t = { s with tuns := t.tuns, streams := t.streams, time := t.time, granary := t.granary, core := t.core,
               fault := t.fault, health := t.health }

theorem State.TunFrame.refl (s : State) : s.TunFrame s := rfl

theorem State.TunFrame.trans {s t u : State} (h : s.TunFrame t) (g : t.TunFrame u) : s.TunFrame u := by
  unfold State.TunFrame at *
  rw [g, h]

theorem State.TunFrame.foldl {α : Type} {f : State → α → State} (h : ∀ (u : State) (a : α), u.TunFrame (f u a)) (l : List α) (s : State) :
    s.TunFrame (l.foldl f s) := by
  induction l generalizing s with
  | nil => exact .refl s
  | cons a l ih => exact (h s a).trans (ih (f s a))

theorem dropResv_frame (s : State) (tag : Nat) : s.TunFrame (s.dropResv tag) := by
  unfold State.dropResv State.giveCells
  split <;> exact rfl

theorem dropTaint_frame (s : State) (x : Taint) : s.TunFrame (s.dropTaint x) := by cases x <;> exact rfl

theorem closeStream_frame (s : State) (k : Nat) : s.TunFrame (s.closeStream k) := by
  unfold State.closeStream
  exact ((State.TunFrame.foldl (fun _ _ => dropTaint_frame _ _) _ s).trans
    (State.TunFrame.foldl (fun _ _ => dropResv_frame _ _) _ _)).trans rfl

theorem cancelRunAhead_frame (s : State) (t : Nat) : s.TunFrame (s.cancelRunAhead t) := by
  refine State.TunFrame.foldl (fun u k => ?_) _ s
  dsimp only
  split
  · exact closeStream_frame _ _
  · exact .refl _

theorem closeDigest_frame (s : State) (id : Nat) (b : Bool) : s.TunFrame (s.closeDigest id b) := by
  unfold State.closeDigest
  extract_lets a e t c u
  have h : s.TunFrame u := by unfold u; split <;> exact rfl
  exact h.trans rfl

/-- Halting for a fault changes tuns, streams, closures, reservations, begun frames and the
findings of the reads it cancels only (R59, R103, R144, R151). -/
theorem haltFaultAt_frame (s : State) (id c : Nat) : s.TunFrame (s.haltFaultAt id c) := by
  unfold State.haltFaultAt
  extract_lets t s1 s2
  split
  · exact .refl _
  · have h2 : s.TunFrame s2 := (State.TunFrame.trans (t := s1.digInvalid) rfl (cancelRunAhead_frame _ _)).trans rfl
    split
    · exact h2.trans (closeDigest_frame _ _ _)
    · exact h2

/-- The operation leaves every tun but `id` alone. -/
def State.OtherTuns (s t : State) (id : Nat) : Prop := ∀ k, k ≠ id → t.tun k = s.tun k

theorem State.OtherTuns.trans {s t u : State} {id : Nat} (h : s.OtherTuns t id) (g : t.OtherTuns u id) :
    s.OtherTuns u id := fun k hk => (g k hk).trans (h k hk)

theorem modTun_otherTuns (s : State) (id : Nat) (f : Tun → Tun) : s.OtherTuns (s.modTun id f) id :=
  fun _ h => modTun_tun_other s f h

/-- A fold of an operation that leaves the tuns alone leaves them alone. -/
theorem foldl_tuns {α : Type} {f : State → α → State} (h : ∀ u a, (f u a).tuns = u.tuns) (l : List α) (s : State) :
    (l.foldl f s).tuns = s.tuns := by
  induction l generalizing s with
  | nil => rfl
  | cons a l ih => rw [List.foldl_cons, ih, h]

theorem closeStream_tuns (s : State) (k : Nat) : (s.closeStream k).tuns = s.tuns := by
  unfold State.closeStream
  refine (foldl_tuns (fun u r => ?_) _ _).trans (foldl_tuns (fun u x => ?_) _ s)
  · unfold State.dropResv State.giveCells
    split <;> rfl
  · cases x <;> rfl

theorem cancelRunAhead_tuns (s : State) (t : Nat) : (s.cancelRunAhead t).tuns = s.tuns := by
  unfold State.cancelRunAhead
  generalize s.streamsOf t = l
  induction l generalizing s with
  | nil => rfl
  | cons a l ih =>
    rw [List.foldl_cons, ih]
    dsimp only
    split
    · exact closeStream_tuns _ _
    · rfl

theorem closeDigest_otherTuns (s : State) (id : Nat) (b : Bool) : s.OtherTuns (s.closeDigest id b) id := by
  unfold State.closeDigest
  extract_lets a e t c u
  have h : u.tuns = s.tuns := by unfold u; split <;> rfl
  intro k hk
  rw [setTun_tun_other _ _ hk]
  unfold State.tun
  rw [h]

/-- Halting for a fault halts that tun and no other. -/
theorem haltFaultAt_otherTuns (s : State) (id c : Nat) : s.OtherTuns (s.haltFaultAt id c) id := by
  unfold State.haltFaultAt
  extract_lets t s1 s2
  split
  · exact fun _ _ => rfl
  · have h1 : s2.tuns = s1.tuns := cancelRunAhead_tuns s1.digInvalid id
    have h2 : s.OtherTuns s2 id := fun k hk => by
      have : s2.tun k = s1.tun k := by unfold State.tun; rw [h1]
      rw [this]
      exact modTun_tun_other _ _ hk
    split
    · exact h2.trans (closeDigest_otherTuns _ _ _)
    · exact h2

/-- An instruction that can issue issues, and then its own action is taken (R51, R423). -/
theorem issue_of_canIssue {s : State} {id op : Nat} {x : Slot} (h : s.canIssue id op x) (body : State → Slot → Nat → State)
    (hs : (((s.begin_ id x).modTun id (Tun.groupEnds x.w ((s.tun id).imm x.pc x.w))).strict = s.strict)) :
    s.issue id op body =
      let u := body ((s.begin_ id x).modTun id (Tun.groupEnds x.w ((s.tun id).imm x.pc x.w))) x ((s.tun id).imm x.pc x.w)
      if (u.tun id).haltable then u else u.finish id := by
  obtain ⟨h1, _, _, h3, h4⟩ := h
  unfold State.issue
  simp only [h1, h3, hs, h4, Bool.false_eq_true, if_false]

/-- A tun whose place does not hold that opcode, or that cannot issue now, is left alone. -/
theorem issue_of_not_ready {s : State} {id op : Nat} (h : s.ready id op = none) (body : State → Slot → Nat → State) :
    s.issue id op body = s := by
  simp only [State.issue, h]

end Sys2Proof.Machine
end

