-- ==== Sys2Proof/WellFormed.lean ====
section
/-! DEFINITION. WellFormed.lean: which commands the outside can give: every operand in
the range that the spec gives the register, the flit or the measurement it stands for. -/
namespace Sys2Proof

/-- A BAR0 offset: 64 MiB (R20). -/
def inBar0 (off : Nat) : Bool := off < 0x4000000
/-- The width in bytes of an access (R21). -/
def accessSize (n : Nat) : Bool := n == 1 || n == 2 || n == 4 || n == 8
/-- A port queue (R50). -/
def isPortQueue (q : Fin 64) : Bool := 48 ≤ q.val
/-- The bytes of one PCIe request (R325). -/
def transferSize (n : Nat) : Bool := 1 ≤ n && n ≤ 4096
/-- A trained width of a host port (R325). -/
def linkWidth (n : Nat) : Bool := n == 1 || n == 2 || n == 4 || n == 8 || n == 16
/-- Values that a host can program (R325, R326): Max_Payload_Size 128, 256 or 512, a power of two
from 128 to 4,096 for Max_Read_Request_Size, and a BAR4 of 64 GiB × 2^k, k = 0 to 5. -/
def pciCfgOk (c : PciCfg) : Bool :=
  (c.mps == 128 || c.mps == 256 || c.mps == 512) && (List.range 6).any (fun i => c.mrrs == 128 * 2 ^ i) && c.bar4 ≤ 5
/-- The bytes of one completion fit a read. -/
def completionSize : HostCpl → Bool
  | .data bs => transferSize bs.length
  | .poisoned bs => transferSize bs.length
  | .error => true

/-- The command's operands lie in their ranges. -/
def Instr.wf : Instr → Bool
  | .lowWordRead _ r => inBar0 r.off && accessSize r.size
  | .highWordRead _ r => inBar0 r.off && accessSize r.size
  | .lowWordWrite _ off _ => inBar0 off
  | .highWordWrite _ off _ => inBar0 off
  | .registerWrite _ off size _ => inBar0 off && accessSize size
  | .portQueueTransfer _ q => isPortQueue q
  | .bar4Read _ _ len _ => transferSize len
  | .bar4Write _ _ bytes _ => transferSize bytes.length
  | .bindingFrameSend _ q => isPortQueue q
  | .dataFlitReceive _ _ _ _ flit => flit.length == 64
  | .creditFlitReceive _ flit => flit.bytes.length == 64
  | .timeExchangeReceive _ _ flit => flit.length == 64
  | .helloReceive _ flit => flit.bytes.length == 64
  | .linkDown _ cause => cause != 0
  | .ptpSync m => m.domain ≤ 127
  | .ptpDelayResp domain _ _ => domain ≤ 127
  | .mgmtFrameReceive bytes => bytes.length ≤ 9216
  | .mgmtAttest nonce => nonce.length == 32
  | .mgmtWake block => block.length == 160
  | .healthSecond i => i.inletC ≤ 255 && i.flowCL ≤ 65535
  | .supplyWarningFall vin => vin < 3100
  | .supplyWarningRise vin => 3200 < vin && vin ≤ 4095
  | .guardMs meanW => meanW ≤ 65535
  | .powerSafety meanW => meanW ≤ 65535
  | .tjSample tj => tj ≤ 255
  | .hydrometerRun margin => margin ≤ 255
  | .laserBiasStep _ _ want => want ≤ 255
  | .bootStepEnd fail _ => fail ≤ 5
  | .hostLinkUp _ speed link => 1 ≤ speed && speed ≤ 5 && linkWidth link.width && pciCfgOk link.cfg
  | .portResetComplete p => pciCfgOk p.cfg
  | .hostReadCompletion _ c => completionSize c
  | .crossingDeliver .. | .gristStage .. | .stageComplete .. | .gristCheck .. | .checkComplete | .gristArm ..
  | .gristDisarm .. | .gristClear .. | .resolveKeep .. | .resolveApply .. | .gristPitchAtWrite ..
  | .hbmMapWrite .. | .quiescentVote | .voteContribution .. | .voteReductionComplete | .voteDeadline
  | .voteResult .. | .pitchCount | .freezeRelease | .tunLoad .. | .loadComplete .. | .armLaunch ..
  | .tunHalt .. | .tunClear .. | .tunFlagWrite .. | .launch .. | .resultPush .. | .issuePastStore ..
  | .tunEnterDone .. | .flagRaiseLand | .flagWaitResume .. | .flagWalkHop .. | .flagCycleRecheck ..
  | .flagWaitTimeout .. | .matrixProductStart .. | .matrixProductComplete .. | .nop .. | .waitCycles ..
  | .tunEnd .. | .tunLoop .. | .replay .. | .setf .. | .waitf .. | .setp .. | .rdcyc .. | .rdftc .. | .rdocc ..
  | .rdflag .. | .movl .. | .movs .. | .movq .. | .movz .. | .mlds .. | .mldw .. | .mldsc .. | .mmt ..
  | .mmtb .. | .mst .. | .mzero .. | .msetf .. | .vld .. | .vst .. | .vadd .. | .vsub .. | .vmul .. | .vfma ..
  | .vmax .. | .vmin .. | .vcmp .. | .vsel .. | .vbcast .. | .vredsum .. | .vredmax .. | .vexp .. | .vlog ..
  | .vrcp .. | .vrsqrt .. | .vtanh .. | .vsigm .. | .streamReadIssue .. | .streamReadReturn ..
  | .streamWritePerform .. | .spargeStep .. | .hbmCalibration .. | .journalCopy .. | .journalMirror ..
  | .journalAck .. | .mltCjStepWrite .. | .mltCjCommitWrite .. | .frameIngress .. | .frameLookup ..
  | .frameAdmission .. | .fabricDescriptorHop .. | .resequencerRelease .. | .egressSlot .. | .frameTail ..
  | .referenceRelease .. | .writeStreamReceive .. | .readReq .. | .readReply .. | .hbmWrite ..
  | .replyReserve .. | .replyTimeout .. | .tokenBucketPass .. | .recipeRunStart .. | .recipeRunEnd ..
  | .residueRetry .. | .recEnd .. | .recLoop .. | .recLd .. | .recLdr .. | .recEmit .. | .recEmitr ..
  | .recEmitc .. | .recCat .. | .recCata .. | .recFacc .. | .recFadd .. | .recXadd .. | .recXemit ..
  | .recIadd .. | .recMin .. | .recMax .. | .recAnd .. | .recOr .. | .recXor .. | .recCmp .. | .recSel ..
  | .recMovv .. | .recMovc .. | .recCompact .. | .recSort .. | .recMerge .. | .recTopk .. | .recTopke ..
  | .recHatom .. | .hbmAtomicAdd .. | .collectiveSend .. | .chunkGrant .. | .resultReserve .. | .contrib ..
  | .result .. | .grant .. | .retract .. | .contextAdvance .. | .collectiveStop | .collectiveStall ..
  | .colReset .. | .colResume .. | .colRetractGo .. | .colRoundWrite .. | .creditFlitSend ..
  | .timeExchangeSend .. | .helloSend .. | .laneLockLost ..
  | .linkRetrain .. | .trainingComplete .. | .lnkRetrain .. | .lnkEnable .. | .discRoot .. | .discForget ..
  | .discoveryTimeout | .lookupSampleWrite | .mltSampCfgWrite .. | .ptpDelayReqSend | .sourceSilent
  | .ppsInEdge | .ppsOutRise | .ppsOutFall | .parentTimeout | .ftcSet .. | .clearTable ..
  | .digestClosureWrite .. | .digReduce .. | .jobDigestContribution .. | .jobDigestTimeout
  | .jobDigestResult .. | .tokenRequest .. | .tokenGrant .. | .tokenDeny .. | .tokenRelease .. | .autoOn ..
  | .autoOff .. | .tokenTakeover | .descTailDoorbell .. | .cplHeadDoorbell .. | .descriptorFetch ..
  | .descNop .. | .descLoad .. | .descStore .. | .descSend .. | .descRecv .. | .descRread .. | .descRwrite ..
  | .descWait .. | .descriptorComplete .. | .sqEnable .. | .sqReset .. | .sqResetComplete .. | .regReq ..
  | .memReq .. | .regReply .. | .memReply .. | .mgmtChain | .mgmtStatus | .faultTake | .fltFirstClear ..
  | .fltForce .. | .faultPulseStart | .faultPulseEnd | .fltPinWrite .. | .bookSnapshot | .bookRecordWrite ..
  | .clbClear .. | .clbClearComplete | .healthSave | .hold .. | .holdRelease .. | .holdExpire | .prove ..
  | .abortProve .. | .proveStageEnd .. | .catchupStart .. | .catchupAbandon .. | .catchupReadIssue
  | .catchupReply .. | .catchupReadTimeout .. | .catchupVerifyComplete | .catchupZeroed | .supplyOff ..
  | .powerOn | .powerStageFault .. | .thermalClampStep | .equalisationStep .. | .warm .. | .warmResetComplete
  | .fabric .. | .standby .. | .doze .. | .wake .. | .kettleIdleEnter .. | .islandReset ..
  | .islandResetComplete | .packageReset | .packageResetRelease | .portReset ..
  | .fwLoad .. | .fwVerifyComplete | .ownerEnroll .. | .ownerRelease .. | .debugUnlock .. | .attest ..
  | .exportChain .. | .shieldBreach | .laneLockRegained .. | .hostLinkDown .. | .hostCompletionTimeout ..
  | .hostPortUncorrectableError .. | .mgmtHighBer .. | .railLeavesRegulation | .kettleWakeComplete ..
  | .tapTckEdge .. | .tapTrst .. | .hstVsBadWrite .. => true

end Sys2Proof
end

