-- ==== Sys2Proof/Tests/Slice0.lean ====
section
/-! SUPPORT. Tests/Slice0.lean: the checks of WellFormed refuse an ill-formed command; each
statement's hypotheses are met by a state and operands written out here; single commands
give what the spec says. -/
namespace Sys2Proof.Tests
open Sys2Proof Sys2Proof.Machine
/-! Elaborated one after another: the many closed evaluations at once would each hold a thread. -/
set_option Elab.async false

/-! ## States -/

/-- A package whose boot is done: port A's link is up and it holds the token (R330, R395). -/
def up : State := { State.reset with
  power := { step := 9 }
  host := { a := { linkUp := true, speed := 5, width := 16 }, b := { linkUp := true }, holder := 1 } }

/-- `s` after `n` ticks of the time logic since the power ramp. -/
def ticked (s : State) (n : Nat) : State := { s with clk := { s.clk with ticks := n } }

/-! ## Commands from the hosts, power and boot -/

theorem witness_invariants : hbmWf up = true ∧ tokenLegal up ∧ ∃ t, step up = .next t :=
  ⟨by decide, by unfold tokenLegal; decide, _, rfl⟩

theorem witness_registerHalves :
    let warm := up.modPower fun p => { p with warm := true }
    let latched := up.modPort .a fun x => { x with latch := [(0x10008, some 7)] }
    (up.portServes .a = true ∧ warm.portServes .a = true ∧ 0x1000A % 2 = 0 ∧ 0x10008 = 0x1000A / 4 * 4 ∧ msixAt 0x10008 = none
      ∧ blockOf 0x10008 = (.grist, 8) ∧ warm.silent 0x10008 = true ∧ up.silent 0x10008 = false
      ∧ (up.readTouched 0x10008).pairIn .grist 8 = some 0)
    ∧ (0x1000E % 2 = 0 ∧ 0x1000C = 0x1000E / 4 * 4 ∧ msixAt 0x1000C = none ∧ blockOf 0x1000C = (.grist, 12)
      ∧ up.silent 0x1000C = false ∧ (up.readTouched 0x1000C).pairIn .grist 12 = none ∧ 4 ≤ 12
      ∧ (up.readTouched 0x1000C).pairIn .grist (12 - 4) = some 0
      ∧ Tab.get none (latched.port .a).latch (0x1000C - 4) = some 7 ∧ latched.silent 0x1000C = false
      ∧ Tab.get none (up.port .a).latch (0x1000C - 4) = none)
    ∧ (msixAt 0x20010 = none ∧ blockOf 0x20010 = (.ftc, 16) ∧ up.silent 0x20010 = false
      ∧ (up.readTouched 0x20010).pairOf .ftc 16 = none)
    ∧ (0x10008 ∉ [0x10018, 0x330010, 0x330018, 0x3C0008] ∧ up.mayPut .a 0x10008 = true ∧ Bar0Block.has .grist 8 = true
      ∧ up.pairIn .grist 8 = some 0 ∧ Bar0Block.has .grist 12 = true ∧ up.pairIn .grist 12 = none)
    ∧ up.mayWrite .a 0x10008 = true
    ∧ Tab.get none ((up.modPort .a fun x => { x with hold := [(0x10008, some 7)] }).port .a).hold 0x10008 = some 7
    ∧ Tab.get none (up.port .a).hold 0x10008 = none := by
  refine ⟨⟨?_, ?_, ?_, ?_, ?_, ?_, ?_, ?_, ?_⟩, ⟨?_, ?_, ?_, ?_, ?_, ?_, ?_, ?_, ?_, ?_, ?_⟩, ⟨?_, ?_, ?_, ?_⟩,
    ⟨?_, ?_, ?_, ?_, ?_, ?_⟩, ?_, ?_, ?_⟩ <;> decide

theorem witness_registerWriteReadsBack : ∀ off ∈ [0x10010, 0x20010, 0x2020C, 0x30030, 0x5001C, 0x60010, 0x6001C, 0x60020,
    0x70014, 0x330208], up.mayWrite .a off = true := by decide
theorem witness_badShapeIsIgnored : up.portServes .a = true ∧ up.host.remote = false
    ∧ ¬ (2 = 4 ∧ 0x10010 % 4 = 0) ∧ ¬ (2 = 8 ∧ 0x10010 % 8 = 0) := by decide
theorem witness_nonHolder : controlWrite (.gristStage .b) = some (.b, 0x10000) ∧ up.portServes .b = true
    ∧ up.host.remote = false ∧ up.host.holder ≠ portNum .b := by decide

/-- A frame of operation `op` before a local endpoint of endpoint id `ep`, its tail good. -/
def inbox (op : Byte) (ep : Half) (opx : DWord) (payload : List Byte) : InFrame :=
  { id := 5, copy := 0, port := 28, inPort := 0, hdr := { op := op, endpoint := ep, opx := opx }, payload := payload
    verdict := 0, reason := 0, marker := 0xFFFF, order := 0 }
def hears (s : State) (x : InFrame) : State := { s with core := { s.core with inbox := [x] } }
def withFrame (x : InFrame) : State := { up with core := { up.core with inbox := [x] } }

theorem witness_remoteRegisterAccess :
    let w (off : Nat) := inbox 0x10 0x2000 (BitVec.ofNat 64 off) (leBytes 4 4 ++ [0, 0, 1, 0] ++ leBytes 4 3)
    let r (off : Nat) := inbox 0x10 0x2000 (BitVec.ofNat 64 off) (leBytes 4 4096 ++ zeros 4)
    let r4 := inbox 0x10 0x2000 0x20200 (leBytes 4 4 ++ zeros 4)
    let en (x : InFrame) := (withFrame x).modHost fun h => { h with regWrEn := true }
    (∀ off ∈ [0x10010, 0x10012], (withFrame (w off)).alive = true ∧ (withFrame (w off)).host.remote = false
      ∧ (withFrame (w off)).inboxFor 5 [0x10] = some (w off) ∧ (w off).verdict = 0
      ∧ bitOf (byteAt (w off).payload 6) 0 = true ∧ natAt (w off).payload 0 4 = 4 ∧ (withFrame (w off)).host.regWrEn = false
      ∧ (en (w off)).inboxFor 5 [0x10] = some (w off) ∧ (en (w off)).host.regWrEn = true ∧ (en (w off)).host.remote = false
      ∧ (en (w off)).power.warm = false ∧ (en (w off)).isFatal = false)
    ∧ ((w 0x10010).hdr.opx.toNat = 0x10010 ∧ (w 0x10012).hdr.opx.toNat % 4 ≠ 0)
    ∧ (∀ off ∈ [0, 2], (withFrame (r off)).inboxFor 5 [0x10] = some (r off) ∧ (r off).verdict = 0
      ∧ bitOf (byteAt (r off).payload 6) 0 = false ∧ natAt (r off).payload 0 4 = 4096 ∧ (r off).hdr.opx.toNat = off)
    ∧ ((withFrame r4).alive = true ∧ (withFrame r4).inboxFor 5 [0x10] = some r4 ∧ r4.verdict = 0
      ∧ bitOf (byteAt r4.payload 6) 0 = false ∧ natAt r4.payload 0 4 = 4 ∧ r4.hdr.opx.toNat = 0x20200
      ∧ (withFrame r4).power.warm = false) := by decide +kernel

theorem witness_tokenCommands :
    let free := up.modHost fun h => { h with holder := 0 }
    let asked := up.modHost fun h => h.setReq .b true
    (free.portConfig .a = true ∧ free.host.holder = 0)
    ∧ (up.portConfig .b = true ∧ up.host.holder = portNum (portOther .b) ∧ up.host.req .b = false)
    ∧ (asked.portConfig .a = true ∧ asked.host.holder = portNum .a ∧ asked.host.req (portOther .a) = true)
    ∧ up.host.req (portOther .a) = false := by decide

theorem witness_hostLinks :
    let lost := up.modHost fun h => { h with lostAt := some 0, auto := true }
    let gone := up.modHost fun h => { h with holder := 2 }
    (up.on = true ∧ (up.port .a).linkUp = true)
    ∧ (3 ≤ up.power.step ∧ (up.port .a).perst = false ∧ (up.port .a).inReset = false ∧ (up.port .a).pba = [] ∧ up.on = true)
    ∧ (lost.on = true ∧ lost.host.lostAt = some 0 ∧ lost.host.auto = true ∧ lost.host.holder = portNum .a)
    ∧ (up.host.holder = portNum .a ∧ gone.on = true ∧ (gone.port .a).linkUp = true ∧ gone.host.holder ≠ portNum .a)
    ∧ up.portConfig .a = true := by decide

def tjOf (tj rate : Nat) : State := up.modPower fun p => { p with tj := tj, therm := rate }
theorem witness_thermalClampStep :
    let c := up.power.clampC
    ((tjOf 105 64).measures = true ∧ 105 ≤ (tjOf 105 64).power.tj)
    ∧ (c < 105 ∧ (tjOf 104 64).measures = true ∧ (tjOf 104 64).power.tj < 105 ∧ c ≤ (tjOf 104 64).power.tj)
    ∧ ((tjOf c 64).power.tj < 105 ∧ (tjOf c 64).power.clampC ≤ (tjOf c 64).power.tj)
    ∧ ((tjOf (c - 6) 9).power.tj < 105 ∧ (tjOf (c - 6) 9).power.tj < c ∧ (tjOf (c - 6) 9).power.tj < c - 5)
    ∧ ((tjOf (c - 1) 9).power.tj < c ∧ ¬ (tjOf (c - 1) 9).power.tj < c - 5)
    ∧ ((tjOf (c - 5) 9).power.tj < c ∧ ¬ (tjOf (c - 5) 9).power.tj < c - 5) := by decide

def clampedAt (at_ now : Nat) : State :=
  ticked (up.modPower fun p => { p with safety := some at_ }) now
theorem witness_powerSafetyLimit :
    (up.measures = true ∧ up.power.safety = none)
    ∧ ((clampedAt 0 5).measures = true ∧ (clampedAt 0 5).power.safety = some 0)
    ∧ (3200 < 3201 ∨ (clampedAt 0 40000000).now < 0 + 40000000)
    ∧ (3200 < 3200 ∨ (clampedAt 0 39999999).now < 0 + 40000000)
    ∧ ((clampedAt 0 40000000).power.safety = some 0 ∧ 0 + 40000000 ≤ (clampedAt 0 40000000).now) := by decide

theorem witness_supplyAndGuard :
    let sup := up.modPower fun p => { p with guard := 0x80300C80#32 }
    let low := up.modPower fun p => { p with warnNow := true }
    let cap := up.modPower fun p => { p with guard := 0x40300C80#32 }
    let on := up.modPower fun p => { p with guardCap := true }
    let hot := { up with pins := { up.pins with thermLow := true } }
    let trip := up.modPower fun p => { p with tripped := true }
    (up.measures = true ∧ up.power.warnNow = false ∧ bitOf up.power.guard.toNat 31 = false)
    ∧ (sup.measures = true ∧ sup.power.warnNow = false ∧ bitOf sup.power.guard.toNat 31 = true)
    ∧ (low.measures = true ∧ low.power.warnNow = true)
    ∧ (cap.measures = true ∧ bitOf cap.power.guard.toNat 30 = true ∧ cap.power.guardCap = false ∧ cap.power.capW < 65535)
    ∧ (on.measures = true ∧ on.power.guardCap = true ∧ on.power.capW - 50 + 50 ≤ on.power.capW)
    ∧ (up.power.guardCap = false ∧ up.power.capW ≤ up.power.capW)
    ∧ (hot.measures = true ∧ hot.pins.thermLow = true ∧ up.pins.thermLow = false)
    ∧ (up.power.tripped = false ∧ trip.measures = true) ∧ up.pwrGood = true := by decide

/-- The active grist whose sections hold the listed bytes. -/
def grist (secs : Tab (Tab Byte)) : GristSt :=
  { up.grist with active := true, phase := .pitched, sections := secs.map fun e => (e.1, ⟨1, ⟨0x40000, e.2⟩⟩) }
def armed (secs : Tab (Tab Byte)) : State := { up with grist := grist secs }

/-- Lane 15 of port 0 holds a bias and an equalisation set at tick 4. -/
def biased (pct : Nat) : State :=
  up.modLink 0 fun l => { l with lanes := [(15, { biasPct := pct, biasAt := 4, eqAt := 4 })] }

theorem witness_adaptiveLoops :
    let re := armed [(secLongevity, [(0, 1)])]
    (up.measures = true ∧ up.replan = false) ∧ (re.measures = true ∧ re.replan = true ∧ re.power.minOfs ≤ re.power.maxOfs)
    ∧ (up.on = true ∧ up.opticsOn = true ∧ (15 : Fin 16).val < portLanes (0 : Fin 14) ∧ (1 : Fin 16).val < portLanes (13 : Fin 14))
    ∧ (min 255 39 < 40 ∧ up.power.marginArmed = true)
    ∧ ((((biased 20).link (0 : Fin 14)).lane (15 : Fin 16)).biasAt ≠ 0 ∧ (((biased 20).link (0 : Fin 14)).lane (15 : Fin 16)).eqAt ≠ 0
      ∧ (biased 20).on = true ∧ (biased 20).opticsOn = true
      ∧ (((biased 20).link (0 : Fin 14)).lane (15 : Fin 16)).biasSeen = false ∧ 20 ≤ (biased 20).power.maxPct) := by decide

def kettleAs (x : KettlePhase) : State := up.modPower fun p => { p with kettles := [(3, x)] }
theorem witness_kettleStates :
    let busy := { up with tuns := [(0, { phase := .armed })] }
    let waking := (kettleAs .doze).modPower fun p => { p with waking := [3] }
    (up.mayWrite .a 0x6002C = true ∧ busy.mayWrite .a 0x6002C = true
      ∧ ((kettlesOf 1).any fun k => !busy.asleep k && (busy.kettleBusy k || busy.kettleStreaming k)) = true)
    ∧ (up.asleep (3 : Fin 4) = false ∧ up.kettleBusy (3 : Fin 4) = false ∧ up.kettleStreaming (3 : Fin 4) = false)
    ∧ (kettleAs .doze).mayWrite .a 0x6002C = true ∧ ((kettlesOf 15).any fun k =>
        !(kettleAs .doze).asleep k && ((kettleAs .doze).kettleBusy k || (kettleAs .doze).kettleStreaming k)) = false
    ∧ ((kettleAs .doze).mayWrite .a 0x6002C = true ∧ (kettleAs .doze).kettle (3 : Fin 4) = .doze)
    ∧ (waking.alive = true ∧ waking.power.tripped = false ∧ waking.power.waking.contains (3 : Fin 4).val = true)
    ∧ (up.alive = true ∧ up.power.tripped = false ∧ up.kettle (3 : Fin 4) = .active) := by decide

theorem witness_powerAndPackageReset :
    let off := up.modPower fun p => { p with powered := false }
    let held := up.modPower fun p => { p with reset := true }
    up.power.powered = true ∧ off.power.powered = false ∧ up.power.reset = false ∧ held.power.reset = true := by decide

theorem witness_warmAndFabricReset :
    let warm := up.modPower fun p => { p with warm := true }
    (up.mayWrite .a 0x6002C = true ∧ up.power.warm = false) ∧ (warm.on = true ∧ warm.power.warm = true)
    ∧ (7 ≤ warm.power.step ∧ warm.power.failed = false ∧ warm.isFatal = false ∧ warm.host.a.posted = [] ∧ warm.host.b.posted = [])
    ∧ (up.mayWrite .a 0x6002C = true ∧ up.opticsOn = true ∧ up.openInstances = [] ∧ (up.link 13).enable = true
      ∧ ((up.modLink 13 fun l => { l with enable := false }).link 13).enable = false
      ∧ (up.modLink 13 fun l => { l with enable := false }).mayWrite .a 0x6002C = true) := by decide +kernel

/-! ## A small-order key, under which every message verifies (RFC 8032)

With the identity as public key and as R, and S = 0, the equation holds for every message: so a
block that names this unit's CERT_TAG, which no file gives, can be shown to be accepted. -/

/-- The encoding of the identity. -/
def idKey : List Byte := 1 :: zeros 31
/-- R the identity, S = 0. -/
def idSig : List Byte := idKey ++ zeros 32
/-- The point is the identity. -/
def IsId (p : EdPoint) : Prop := ∃ z, p = (0, z, z, 0)

theorem edAdd_id {p q : EdPoint} : IsId p → IsId q → IsId (edAdd p q) := by
  rintro ⟨y, rfl⟩ ⟨w, rfl⟩
  generalize hP : edP = P
  have ha : (y + P) * (w + P) % P = y * w % P := by
    simp [Nat.add_mul, Nat.mul_add, ← Nat.add_assoc]
  have hg : (2 * y * w % P + P) * (2 * y * w % P) % P = 2 * y * w % P * (y * w % P + y * w % P) % P := by
    rw [Nat.add_mul, Nat.add_mul_mod_self_left, Nat.mul_assoc 2 y w, Nat.mul_mod, Nat.mod_mod, Nat.mul_mod (_ % P) (_ + _),
      Nat.mod_mod, Nat.two_mul, Nat.add_mod (y * w % P), Nat.mod_mod, ← Nat.add_mod]
  refine ⟨2 * y * w % P * (y * w % P + y * w % P) % P, ?_⟩
  simp only [edAdd, hP]
  simp [ha, hg]
theorem edMul_id (n : Nat) : ∀ (k : Nat) (p : EdPoint), IsId p → IsId (edMul n k p) := by
  induction n with
  | zero => exact fun _ _ _ => ⟨1, rfl⟩
  | succ n ih =>
    intro k p h
    have := ih (k / 2) _ (edAdd_id h h)
    simp only [edMul]
    split
    · exact edAdd_id this h
    · exact this
theorem edMul_zero (n : Nat) : ∀ p : EdPoint, IsId (edMul n 0 p) := by
  induction n with
  | zero => exact fun _ => ⟨1, rfl⟩
  | succ n ih => intro p; simpa [edMul] using ih (edAdd p p)
theorem edEq_id {p q : EdPoint} : IsId p → IsId q → edEq p q = true := by
  rintro ⟨y, rfl⟩ ⟨w, rfl⟩
  simp [edEq, Nat.mul_comm]
theorem edDecode_id : edDecode idKey = some (0, 1, 1, 0) := by decide +kernel
theorem edVerify_id (msg : List Byte) : edVerify idKey msg idSig = true := by
  have h : idSig.take 32 = idKey := by decide
  have hs : natAt idSig 32 32 = 0 := by decide
  have hl : (0 < edL) := by decide
  have one : IsId (0, 1, 1, 0) := ⟨1, rfl⟩
  unfold edVerify
  rw [h, hs, edDecode_id]
  have := edEq_id (edMul_id 4 8 _ (edMul_zero 256 edBase)) (edMul_id 4 8 _
    (edAdd_id one (edMul_id 256 (leNat (sha512 (idKey ++ idKey ++ msg)) % edL) _ one)))
  simp [-List.append_assoc, hl, this, show idSig.length = 64 from by decide, show idKey.length = 32 from by decide]

theorem leNat_leBytes8 {c : Nat} (h : c < 2 ^ 64) : leNat (leBytes 8 c) = c := by
  simp only [leBytes, List.range_succ, List.range_zero, List.nil_append, List.map_cons, List.map_nil,
    List.cons_append, leNat, BitVec.toNat_ofNat]
  omega

theorem sliceB_skip {a r : List Byte} {i n : Nat} (h : a.length ≤ i) : sliceB (a ++ r) i n = sliceB r (i - a.length) n := by
  simp [sliceB, List.drop_append, List.drop_eq_nil_of_le h]
theorem sliceB_head {m r : List Byte} {n : Nat} (h : m.length = n) : sliceB (m ++ r) 0 n = m := by
  subst h; simp [sliceB, fit, zeros]
theorem sliceB_full {m : List Byte} {n : Nat} (h : m.length = n) : sliceB m 0 n = m := by
  subst h; simp [sliceB, fit, zeros]
theorem length_leBytes (n x : Nat) : (leBytes n x).length = n := by simp [leBytes]
theorem length_zeros (n : Nat) : (zeros n).length = n := by simp [zeros]

/-- An owner block of this unit at COUNT 0 (R399). -/
def ownerBlk (op arg : Nat) (key sig tag : List Byte) : List Byte :=
  leBytes 4 0x444D434F ++ (leBytes 2 op ++ (leBytes 2 arg ++ (leBytes 8 certTag.toNat ++ (leBytes 4 0 ++ (zeros 12
    ++ (key ++ (sig ++ (tag ++ zeros 24))))))))
theorem blk_fields {op arg : Nat} {key sig tag : List Byte} (hk : key.length = 32) (hs : sig.length + tag.length = 72) :
    let b := ownerBlk op arg key sig tag
    natAt b 0 4 = 0x444D434F ∧ natAt b 4 2 = leNat (leBytes 2 op) ∧ natAt b 6 2 = leNat (leBytes 2 arg)
      ∧ natAt b 8 8 = certTag.toNat ∧ natAt b 0x10 4 = 0 ∧ sliceB b 0x14 12 = zeros 12 ∧ sliceB b 0x20 32 = key
      ∧ sliceB b 0x40 72 = sig ++ tag ∧ sliceB b 0x88 24 = zeros 24
      ∧ (sig.length = 64 → sliceB b 0x40 64 = sig ∧ natAt b 0x80 8 = leNat tag) := by
  have h4 : leNat (leBytes 4 0x444D434F) = 0x444D434F ∧ leNat (leBytes 4 0) = 0 := by decide
  have ht (r : List Byte) : sig ++ (tag ++ r) = (sig ++ tag) ++ r := (List.append_assoc ..).symm
  refine ⟨?_, ?_, ?_, ?_, ?_, ?_, ?_, ?_, ?_, fun h => ?_⟩
  all_goals simp only [ownerBlk, natAt]
  · rw [sliceB_head (length_leBytes ..), h4.1]
  · simp [sliceB_skip, sliceB_head, length_leBytes]
  · simp [sliceB_skip, sliceB_head, length_leBytes]
  · simp [sliceB_skip, sliceB_head, length_leBytes, leNat_leBytes8 certTag.isLt]
  · simp [sliceB_skip, sliceB_head, length_leBytes, h4.2]
  · simp [sliceB_skip, sliceB_head, length_leBytes, length_zeros]
  · simp [sliceB_skip, sliceB_head, length_leBytes, length_zeros, hk]
  · rw [ht]; simp [-List.append_assoc, sliceB_skip, sliceB_head, length_leBytes, length_zeros, hk, hs]
  · rw [ht]; simp [-List.append_assoc, sliceB_skip, sliceB_full, length_leBytes, length_zeros, hk, hs]
  · have : tag.length = 8 := by omega
    simp [sliceB_skip, sliceB_head, length_leBytes, length_zeros, hk, h, this]

theorem idSig_length : idSig.length = 64 := by simp [idSig, idKey, zeros]

theorem enroll_accepted : Sec.blockCode {} (ownerBlk 1 0 idKey (zeros 64) (zeros 8)) = 0 := by
  obtain ⟨h0, h1, h2, h3, h4, h5, -, h7, h8, -⟩ := @blk_fields 1 0 idKey (zeros 64) (zeros 8) (by decide) (by decide)
  have : (zeros 64 ++ zeros 8).all (· == 0) = true := by decide
  simp only [Sec.blockCode, h0, h1, h2, h3, h4, h5, h7, h8, this]
  generalize ownerBlk 1 0 idKey (zeros 64) (zeros 8) = b
  generalize certTag.toNat = c
  simp [show leNat (leBytes 2 1) = 1 from by decide, show leNat (leBytes 2 0) = 0 from by decide]
  decide
/-- A block with an old COUNT is not accepted. -/
theorem enroll_counted : Sec.blockCode { count := 1 } (ownerBlk 1 0 idKey (zeros 64) (zeros 8)) ≠ 0 := by
  obtain ⟨h0, h1, h2, h3, h4, h5, -, h7, h8, -⟩ := @blk_fields 1 0 idKey (zeros 64) (zeros 8) (by decide) (by decide)
  have : (zeros 64 ++ zeros 8).all (· == 0) = true := by decide
  simp only [Sec.blockCode, h0, h1, h2, h3, h4, h5, h7, h8, this]
  generalize ownerBlk 1 0 idKey (zeros 64) (zeros 8) = b
  generalize certTag.toNat = c
  simp [show leNat (leBytes 2 1) = 1 from by decide, show leNat (leBytes 2 0) = 0 from by decide]
  split <;> simp
theorem owned_accepted {op arg : Nat} (h : (op, arg) ∈ [(2, 0), (3, 5), (4, 0)]) :
    Sec.blockCode { owner := idKey } (ownerBlk op arg (zeros 32) idSig (leBytes 8 (shaTag idKey))) = 0 := by
  obtain ⟨h0, h1, h2, h3, h4, h5, h6, -, h8, h9⟩ :=
    @blk_fields op arg (zeros 32) idSig (leBytes 8 (shaTag idKey)) (by decide) (by rw [length_leBytes, idSig_length])
  obtain ⟨h9, h10⟩ := h9 idSig_length
  have lt : shaTag idKey < 2 ^ 64 := by decide +kernel
  have he := edVerify_id ((ownerBlk op arg (zeros 32) idSig (leBytes 8 (shaTag idKey))).take 0x40)
  have hw : Sec.ownerTag { owner := idKey } = shaTag idKey := by
    rw [Sec.ownerTag, if_neg (by decide)]
  rw [leNat_leBytes8 lt] at h10
  simp only [Sec.blockCode, h0, h1, h2, h3, h4, h5, h6, h8, h9, h10, he, hw]
  generalize shaTag idKey = g
  generalize certTag.toNat = c
  simp at h
  rcases h with ⟨rfl, rfl⟩ | ⟨rfl, rfl⟩ | ⟨rfl, rfl⟩ <;> simp [show (idKey.isEmpty = false) from rfl] <;> decide

/-- What was written is read back. -/
theorem hbmBytes_put (s : State) (a : Nat) (bs : List Byte) (h : a + bs.length ≤ 0x18000000000) :
    (s.hbmPut a bs).hbmBytes a bs.length = bs := by
  apply List.ext_getElem
  · simp [State.hbmBytes]
  · intro i hi hj
    simp only [State.hbmBytes, List.getElem_map, List.getElem_range]
    rw [hbmByte_put_same hj (by omega)]

/-- The same, with the sixteen controllers ready. -/
def ready : State := { up with ctls := (List.range 16).map fun n => (n, { phase := .ready }) }

theorem witness_standbyAndWake :
    let busy := { up with tuns := [(0, { phase := .running })] }
    let sb := up.modPower fun p => { p with standby := true }
    let owned : Sec := { owner := idKey, loaded := true }
    let b := ownerBlk 4 0 (zeros 32) idSig (leBytes 8 (shaTag idKey))
    (busy.mayWrite .a 0x6002C = true ∧ busy.mayStep = false) ∧ (up.mayWrite .a 0x6002C = true ∧ up.mayStep = true)
    ∧ (sb.power.powered = true ∧ sb.power.reset = false ∧ sb.power.standby = true)
    ∧ ({ sb with sec := owned }.mgmtOn = true ∧ b.length = 160 ∧ owned.owner ≠ [] ∧ owned.blockCode b = 0 ∧ natAt b 4 2 = 4) := by
  refine ⟨by decide, by decide, by decide, by decide, ?_, nofun, owned_accepted (by decide), ?_⟩
  · simp only [ownerBlk, List.length_append, length_leBytes, length_zeros, idSig_length]
  · exact (blk_fields (by decide) (by rw [length_leBytes, idSig_length])).2.1

/-- Bytes at an offset of a section. -/
def at_ (o : Nat) (bs : List Byte) : Tab Byte := Tab.setMany 0 [] o bs
/-- Queue 1 is port A's, with the state `x`. -/
def queueAs (x : StreamQ) : State := { armed [(secQueue, at_ 16 [1]), (secFlags, at_ (8 + 4 * (256 * 2 + 7)) [1])] with
  ctls := ready.ctls, sqs := [(1, x)] }
theorem witness_islandAndPortReset :
    let one := up.modPower fun p => { p with island := some 0 }
    let held := up.modPort .a fun x => { x with inReset := true }
    (up.mayWrite .a 0x60030 = true ∧ one.mayWrite .a 0x60030 = true ∧ one.power.island = some 0)
    ∧ (up.power.island = none ∧ islandOk (208 : BitVec 9).toNat = false ∧ islandOk (207 : BitVec 9).toNat = true
      ∧ islandOk (238 : BitVec 9).toNat = true ∧ islandOk (239 : BitVec 9).toNat = false)
    ∧ (islandOk (191 : BitVec 9).toNat = true ∧ (191 : BitVec 9).toNat = 191 ∧ up.asleep (kettleOf 191) = false
      ∧ (192 : BitVec 9).toNat = 192 + 0 ∧ (207 : BitVec 9).toNat = 192 + 15 ∧ islandOk (219 : BitVec 9).toNat = true
      ∧ (219 : BitVec 9).toNat = 216 + 3 ∧ (238 : BitVec 9).toNat = 225 + 13)
    ∧ ((queueAs {}).queuesOf .a 1 = true ∧ (queueAs {}).on = true)
    ∧ (one.alive = true ∧ one.host.a.posted = [] ∧ one.host.b.posted = [] ∧ up.on = true ∧ up.host.holder = portNum .a ∧ up.host.holder ≠ portNum .b)
    ∧ (held.on = true ∧ (held.port .a).inReset = true) := by decide

def booting (n : Nat) : State := up.modPower fun p => { p with step := n }
theorem witness_bootSteps :
    let stopped := (booting 6).modPower fun p => { p with failed := true }
    (∀ n ∈ [1, 2, 3, 6, 7, 8], (booting n).on = true ∧ (booting n).power.failed = false ∧ stepTicks (booting n).power.step ≠ 0)
    ∧ (∀ e ∈ [(1, 1), (2, 2), (3, 3), (4, 3), (5, 6)], e.1 ≠ 0 ∧ failStep e.1 = (booting e.2).power.step)
    ∧ (stopped.on = true ∧ stopped.power.failed = true)
    ∧ (((booting 3).modPower fun p => { p with exitStandby := true }).power.step = 3
      ∧ ((booting 8).power.step = 8 ∧ { booting 8 with disc := { phase := .done } }.disc.phase = .done)) := by decide

def loads (n : Nat) : State := (booting 4).modSec fun x => { x with len := word n }
theorem witness_firmware :
    ((up.mayWrite .a 0x70004 = true ∧ up.power.step ≠ 4) ∧ ((loads 0).mayWrite .a 0x70004 = true ∧ (loads 0).sec.busy = false
      ∧ (loads 0).power.step = 4))
    ∧ ((loads 248).sec.len.toNat < 256 ∧ 2 ^ 25 < (loads (2 ^ 25 + 8)).sec.len.toNat ∧ (loads 260).sec.len.toNat % 8 ≠ 0)
    ∧ (∀ n ∈ [256, 2 ^ 25], 256 ≤ (loads n).sec.len.toNat ∧ (loads n).sec.len.toNat ≤ 2 ^ 25 ∧ (loads n).sec.len.toNat % 8 = 0
      ∧ (loads n).readsAt .a < 768)
    ∧ ((booting 5).on = true ∧ (booting 5).power.failed = false ∧ (booting 5).power.step = 5) := by decide

/-- An owner block stands at address 0. -/
def blockIn (x : Sec) (b : List Byte) : State := State.hbmPut { ready with sec := x } 0 b
theorem blockIn_frame (x : Sec) (b : List Byte) : blockIn x b = { ready with sec := x, hbm := (blockIn x b).hbm } :=
  hbmPut_frame _ _ _
theorem blockIn_ready (x : Sec) (b : List Byte) (hx : x.addr = 0) (hl : x.loadPort = 0) :
    (blockIn x b).mayWrite .a 0x70004 = true ∧ (blockIn x b).sec.busy = false
    ∧ (blockIn x b).hbmUp (blockIn x b).sec.addr.toNat 160 = true
    ∧ (blockIn x b).anyPoison (blockIn x b).sec.addr.toNat 160 = false
    ∧ (blockIn x b).sec.addr.toNat % 256 = 0 ∧ (blockIn x b).sec.addr.toNat + 160 ≤ hbmTop
    ∧ (blockIn x b).notArmed = true ∧ (blockIn x b).sec = x := by
  rw [blockIn_frame]
  generalize (blockIn x b).hbm = m
  have ha : State.hbmUp { ready with sec := x, hbm := m } 0 160 = true := by
    rw [show State.hbmUp { ready with sec := x, hbm := m } 0 160 = ready.hbmUp 0 160 from rfl]; decide
  refine ⟨show ready.mayWrite .a 0x70004 = true by decide, by simp [Sec.busy, hl], ?_, ?_, ?_, ?_, rfl, rfl⟩ <;> simp [hx]
  · exact ha
  · rw [show State.anyPoison { ready with sec := x, hbm := m } 0 160 = ready.anyPoison 0 160 from rfl]; decide
  · decide

theorem blockIn_block {x : Sec} {b : List Byte} (hx : x.addr = 0) (hb : b.length = 160) : (blockIn x b).ownerBlock = b := by
  have h : (blockIn x b).sec = x := by rw [blockIn_frame]
  have := hbmBytes_put { ready with sec := x } 0 b (by omega)
  rw [hb] at this
  unfold State.ownerBlock
  rw [h, hx]
  exact this
/-- Each owner's command has a block that is accepted (R399), and one that is not. -/
theorem witness_ownerCommands :
    let owned : Sec := { owner := idKey }
    let b (op arg : Nat) := ownerBlk op arg (zeros 32) idSig (leBytes 8 (shaTag idKey))
    let e := ownerBlk 1 0 idKey (zeros 64) (zeros 8)
    (natAt (blockIn {} e).ownerBlock 4 2 = 1 ∧ (blockIn {} e).sec.blockCode (blockIn {} e).ownerBlock = 0)
    ∧ (natAt (blockIn owned e).ownerBlock 4 2 = 1 ∧ (blockIn { count := 1 } e).sec.blockCode (blockIn { count := 1 } e).ownerBlock ≠ 0)
    ∧ (natAt (blockIn owned (b 2 0)).ownerBlock 4 2 = 2 ∧ (blockIn owned (b 2 0)).sec.owner ≠ []
      ∧ (blockIn owned (b 2 0)).sec.blockCode (blockIn owned (b 2 0)).ownerBlock = 0)
    ∧ (natAt (blockIn owned (b 3 5)).ownerBlock 4 2 = 3 ∧ (blockIn owned (b 3 5)).sec.owner ≠ []
      ∧ (blockIn owned (b 3 5)).sec.blockCode (blockIn owned (b 3 5)).ownerBlock = 0)
    ∧ (ready.modSec fun x => { x with addr := 64 }).sec.addr.toNat % 256 ≠ 0
    ∧ (firstBad [(3, .uncorrectable)] 0 160).isSome = true ∧ firstBad [] 0 160 = none := by
  have le : (ownerBlk 1 0 idKey (zeros 64) (zeros 8)).length = 160 := by
    simp only [ownerBlk, List.length_append, length_leBytes, length_zeros]; decide
  have lb (op arg : Nat) : (ownerBlk op arg (zeros 32) idSig (leBytes 8 (shaTag idKey))).length = 160 := by
    simp only [ownerBlk, List.length_append, length_leBytes, length_zeros, idSig_length]
  have fs (x : Sec) (b : List Byte) : (blockIn x b).sec = x := by rw [blockIn_frame]
  have n1 : natAt (ownerBlk 1 0 idKey (zeros 64) (zeros 8)) 4 2 = 1 := (blk_fields (by decide) (by decide)).2.1
  have n2 (op arg : Nat) : natAt (ownerBlk op arg (zeros 32) idSig (leBytes 8 (shaTag idKey))) 4 2 = leNat (leBytes 2 op) :=
    (blk_fields (by decide) (by rw [length_leBytes, idSig_length])).2.1
  simp only [fs]
  refine ⟨?_, ?_, ?_, ?_, by decide, by decide, by decide⟩
  · rw [blockIn_block rfl le]; exact ⟨n1, enroll_accepted⟩
  · rw [blockIn_block rfl le, blockIn_block rfl le]; exact ⟨n1, enroll_counted⟩
  · rw [blockIn_block rfl (lb ..)]; exact ⟨n2 .., nofun, owned_accepted (by decide)⟩
  · rw [blockIn_block rfl (lb ..)]; exact ⟨n2 .., nofun, owned_accepted (by decide)⟩

theorem witness_attestation :
    let eol := ready.modSec fun x => { x with life := 2 }
    let mg := ready.modSec fun x => { x with loaded := true }
    (eol.mayWrite .a 0x70004 = true ∧ eol.sec.life = 2)
    ∧ (ready.mayWrite .a 0x70004 = true ∧ ready.sec.life ≠ 2 ∧ ready.sec.busy = false
      ∧ ready.hbmUp ready.sec.addr.toNat 0x300 = true ∧ ready.sec.addr.toNat % 256 = 0
      ∧ ready.sec.addr.toNat + 0x300 ≤ hbmTop ∧ ready.anyPoison ready.sec.addr.toNat 32 = false
      ∧ firstBad [] ready.sec.addr.toNat 32 = none)
    ∧ (mg.mgmtOn = true ∧ mg.sec.life ≠ 2 ∧ (zeros 32).length = 32)
    ∧ (up.power.powered = true ∧ up.power.reset = false) := by decide
theorem ready_any (a n : Nat) : ready.hbmReady a n = true := by
  simp only [State.hbmReady, List.all_eq_true]
  intro l _
  have hk : ∀ k, ready.stackOf l = some k → k < 16 := by
    intro k h
    simp only [State.stackOf, show ready.hbmMode.toNat = 0 from by decide, mapAddr] at h
    split at h
    · simp at h
    · simp [bitsOf] at h
      omega
  split
  · rename_i k h
    have := hk k h
    have all : ∀ k < 16, ((ready.ctl k).phase == .ready) = true := by decide
    exact all k this
  · rfl
theorem ready_region (a n : Nat) : ready.regionReady a n = true := by
  simp only [State.regionReady, List.all_eq_true, ready_any, Bool.or_true, implies_true]
/-- Nothing but the length of the chain, which no file gives, decides whether it fits. -/
theorem witness_exportChain : ready.mayWrite .a 0x70004 = true ∧ ready.sec.busy = false
    ∧ ready.hbmUp ready.sec.addr.toNat chain.length = true ∧ ready.sec.addr.toNat % 256 = 0 := by
  have h : (List.range 16).any (fun k => (ready.ctl k).phase == .ready) = true := by decide
  refine ⟨by decide, by decide, ?_, by decide⟩
  unfold State.hbmUp
  rw [h, Bool.or_true, Bool.and_true]
  exact ready_any _ _

/-- The head of a datagram to port 51,960 that asks for the status (OP 3): Ethernet, IPv4, UDP. -/
def asksStatus : List Byte := [2, 0, 0, 0, 0, 9, 8, 0, 0x45, 0, 0, 30, 0, 0, 0, 0, 64, 17, 0x66, 0xCD, 10, 0, 0, 1, 10, 0, 0, 2,
  0x10, 0, 0xCA, 0xF8, 0, 10, 0, 0, 3, 0] ++ zeros 16
theorem asksStatus_datagram (m : List Byte) (hm : m.length = 6) (x y z w : Byte) :
    datagramOf (m ++ asksStatus ++ [x, y, z, w]) = some
      { mac := [2, 0, 0, 0, 0, 9], vlan := [], src := [10, 0, 0, 1], dst := [10, 0, 0, 2], port := 0x1000, payload := [3, 0] } := by
  have ht : (m ++ asksStatus ++ [x, y, z, w]).take ((m ++ asksStatus ++ [x, y, z, w]).length - 4) = m ++ asksStatus := by
    rw [List.length_append, List.length_cons, List.length_cons, List.length_cons, List.length_cons, List.length_nil,
      Nat.add_sub_cancel, List.take_left']
    rfl
  have hs (i n : Nat) (h : 6 ≤ i) : sliceB (m ++ asksStatus) i n = sliceB (zeros 6 ++ asksStatus) i n := by
    rw [sliceB_skip (by omega), sliceB_skip (by rw [length_zeros]; omega), hm, length_zeros]
  have hf (i n : Nat) (h : 6 ≤ i) : beField (m ++ asksStatus) i n = beField (zeros 6 ++ asksStatus) i n := by
    rw [beField, hs i n h, beField]
  have hb (i : Nat) (h : 6 ≤ i) : byteAt (m ++ asksStatus) i = byteAt (zeros 6 ++ asksStatus) i := by
    rw [byteAt, byteAt, List.getD_append_right _ _ _ _ (by omega), List.getD_append_right _ _ _ _ (by rw [length_zeros]; omega), hm,
      length_zeros]
  have hl : (m ++ asksStatus).length = (zeros 6 ++ asksStatus).length := by
    rw [List.length_append, List.length_append, hm, length_zeros]
  have hv : beField (m ++ asksStatus) 12 2 = 0x0800 := by rw [hf 12 2 (by omega)]; decide
  have hi : byteAt (m ++ asksStatus) 14 = 0x45 := by rw [hb 14 (by omega)]; decide
  unfold datagramOf
  simp only [ht, hv, hl]
  simp only [Nat.reduceBEq, Bool.false_eq_true, ↓reduceIte, Nat.reduceMod, Nat.reduceMul, Nat.reduceAdd, Nat.reduceSub, hi]
  rw [hs 14 20 (by omega), hf 12 2 (by omega), hf 16 2 (by omega), hf 20 2 (by omega), hb 23 (by omega), hf 38 2 (by omega),
    hf 36 2 (by omega), hf 40 2 (by omega), hs 26 8 (by omega), hs 6 6 (by omega), hs 12 0 (by omega), hs 26 4 (by omega),
    hs 30 4 (by omega), hf 34 2 (by omega), hs 34 _ (by omega), hs 42 _ (by omega)]
  decide +kernel
theorem crcBitsR_lt (k : Nat) : ∀ n c, c < 2 ^ 32 → k < 2 ^ 32 → crcBitsR k n c < 2 ^ 32 := by
  intro n
  induction n with
  | zero => exact fun _ h _ => h
  | succ n ih =>
    intro c h hk
    simp only [crcBitsR]
    refine ih _ ?_ hk
    split
    · exact Nat.xor_lt_two_pow (by omega) hk
    · omega
theorem crcFold_lt (bs : List Byte) : ∀ c, c < 2 ^ 32 →
    bs.foldl (fun c b => crcBitsR 0xEDB88320 8 (Nat.xor c b.toNat)) c < 2 ^ 32 := by
  induction bs with
  | nil => exact fun _ h => h
  | cons b bs ih => exact fun c h => ih _ (crcBitsR_lt _ _ _ (Nat.xor_lt_two_pow h (by omega)) (by decide))
theorem crc32_lt (bs : List Byte) : crc32 bs < 2 ^ 32 := by
  unfold crc32
  exact Nat.xor_lt_two_pow (crcFold_lt bs _ (by decide)) (by decide)
theorem crc_bytes (n : Nat) (h : n < 2 ^ 32) : ∃ x y z w, leBytes 4 n = [x, y, z, w] ∧ leNat [x, y, z, w] = n := by
  refine ⟨_, _, _, _, rfl, ?_⟩
  simp only [leNat, BitVec.toNat_ofNat]
  omega
/-- A frame to the lane, whatever its address, is taken and its datagram answered. -/
theorem witness_mgmtDatagram : ∃ frame d, mgmtTakes frame = true ∧ frame.take 6 = laneMac ∧ datagramOf frame = some d
    ∧ natAt d.payload 0 2 ≠ 4 ∧ up.mgmtAnswer d.payload = some up.mgmtStatus := by
  have hm : laneMac.length = 6 := by simp [laneMac, leBytes]
  obtain ⟨x, y, z, w, h, hn⟩ := crc_bytes _ (crc32_lt (laneMac ++ asksStatus))
  have hl : (laneMac ++ asksStatus).length = 60 := by rw [List.length_append, hm]; rfl
  refine ⟨laneMac ++ asksStatus ++ [x, y, z, w], _, ?_, ?_, asksStatus_datagram _ hm x y z w, by decide, rfl⟩
  · have ht : (laneMac ++ asksStatus ++ [x, y, z, w]).take 60 = laneMac ++ asksStatus := by rw [← hl, List.take_left']; rfl
    have hk : natAt (laneMac ++ asksStatus ++ [x, y, z, w]) 60 4 = crc32 (laneMac ++ asksStatus) := by
      rw [natAt, sliceB_skip (by omega), hl, Nat.sub_self, sliceB_full (by rfl), hn]
    have h6 : (laneMac ++ asksStatus ++ [x, y, z, w]).take 6 = laneMac := by
      rw [List.append_assoc, ← hm, List.take_left']; rfl
    have hp : natAt (laneMac ++ asksStatus ++ [x, y, z, w]) 12 2 = 8 := by
      rw [List.append_assoc, natAt, sliceB_skip (by omega), hm]; rfl
    unfold mgmtTakes
    have hb : (laneMac ++ asksStatus ++ [x, y, z, w]).length = 64 := by rw [List.length_append, hl]; rfl
    rw [hb, ht, hk, h6, hp]
    simp
  · rw [List.append_assoc, ← hm, List.take_left']; rfl

theorem witness_hostCompletions :
    let r : HostRead := { id := 3, port := 1, addr := 0, len := 128, what := .firmware 0 }
    let s := (loads 256).modSec fun x => { x with loadPort := 1, loading := 256 }
    let t := s.modHost fun h => { h with reads := [r] }
    let last := t.modSec fun x => { x with loading := 128 }
    (t.read? 3 = some r ∧ r.what = .firmware 0 ∧ t.portConfig (portOf r.port) = true ∧ (t.port (portOf r.port)).pci.cplOff = false
      ∧ t.host.remote = false ∧ t.sec.loadPort ≠ 0 ∧ t.power.step = 4 ∧ r.len < t.sec.loading)
    ∧ (last.read? 3 = some r ∧ last.portConfig (portOf r.port) = true ∧ last.sec.loadPort ≠ 0 ∧ last.power.step = 4
      ∧ r.len = last.sec.loading) := by decide

def faulted (src : Nat) (first : Option FaultRec) : State :=
  up.modFault fun f => { f with raised := [⟨src, 4, 0, false, 4⟩], first := first }
theorem witness_faultIsTaken :
    let r (n : Nat) : FaultRec := ⟨n, 4, 0, false, 4⟩
    (∀ n ∈ [1769, 1760, 1768], (faulted n none).on = true ∧ firstFault (faulted n none).fault.raised = some (r n)
      ∧ srcClass (r n).src ≠ 3)
    ∧ (srcClass 1769 = 0 ∧ srcClass 1760 = 1 ∧ (faulted 1760 none).fault.first = none
      ∧ (faulted 1760 (some (r 1761))).fault.first ≠ none
      ∧ firstFault (faulted 1760 (some (r 1761))).fault.raised = some (r 1760)) := by decide
theorem witness_fatalState : (faulted 1768 none).on = true ∧ (faulted 1768 none).fault.fatal = none
    ∧ firstFault (faulted 1768 none).fault.raised = some ⟨1768, 4, 0, false, 4⟩ ∧ srcClass 1768 = 2 := by decide
theorem witness_faultRegisters :
    let two := up.modFault fun f => { f with newest := [(⟨1769, 0, 0, false, 0⟩, 1), (⟨1768, 0, 0, false, 0⟩, 2)] }
    let due := up.modFault fun f => { f with pulseAt := some 9 }
    let on := ticked (up.modFault fun f => { f with pulsing := true, pulseFrom := 0 }) 80000
    (up.mayWrite .a 0x40000 = true ∧ up.fault.newest = [] ∧ two.mayWrite .a 0x40000 = true
      ∧ (two.fault.newest.filter fun y => y.1.at_ == two.now) = [(⟨1769, 0, 0, false, 0⟩, 1), (⟨1768, 0, 0, false, 0⟩, 2)])
    ∧ (up.mayWrite .a (0x40D00 + 4 * (56 : Fin 57).val) = true ∧ up.mayWrite .a 0x40018 = true)
    ∧ (bitOf 1 0 = true ∧ forcible (32 * 0 + 0) = true)
    ∧ (due.on = true ∧ due.fault.pulseAt = some 9)
    ∧ (on.on = true ∧ on.fault.pulsing = true ∧ on.now ≤ on.fault.pulseFrom + 80000) := by decide

def record (waiting : Bool) : BookRec :=
  { kind := 1, trigger := 1, source := 0, cls := 1, cycles := 0, firstS := 0, lastS := 0, detail := 0, node := 0, score := 0,
    seq := 0, waiting := waiting }
def book (f : Book → Book) : State := { up with book := f up.book }
theorem witness_cellarBook :
    let snap := book fun b => { b with pending := [record true] }
    let wr := book fun b => { b with pending := [record false] }
    let clr := book fun b => { b with clearing := true }
    (snap.on = true ∧ snap.book.pending.findIdx? (fun r => r.waiting) = some 0 ∧ snap.book.pending[0]? = some (record true))
    ∧ (wr.power.powered = true ∧ wr.power.reset = false ∧ wr.book.clearing = false ∧ wr.book.pending = [record false]
      ∧ (record false).waiting = false ∧ wr.book.records.length < 8192)
    ∧ (up.mayWrite .a 0x50028 = true ∧ up.book.clearing = false ∧ up.clearCode (up.anyPoison up.book.src.toNat 128) ≠ 1
      ∧ (firstBad [(0, .uncorrectable)] up.book.src.toNat 128).isSome = true)
    ∧ clr.book.clearing = true := by decide +kernel
/-- A full book, in which a record is dropped. -/
theorem witness_bookFull : 8192 ≤ (book fun b =>
    { b with pending := [record false], records := List.replicate 8192 (record false) }).book.records.length := by
  simp only [book, List.length_replicate, le_refl]

def healthy (f : Health → Health) : State := { up with health := f up.health }
theorem witness_healthAndHold :
    let held := healthy fun h => { h with hold := true }
    let later := { up with book := { up.book with secondAt := 5, records := [record false], pending := [record true] } }
    (up.cellarOn = true ∧ up.book.seconds % 60 = 0 ∧ (healthy fun h => { h with level := 2 }).health.level = 2)
    ∧ (later.on = true ∧ later.cellarOn = true ∧ later.book.secondAt ≠ 0 ∧ later.book.pending.length ≤ 12
      ∧ later.book.records.length < 8192
      ∧ (∀ x ∈ later.book.records.getLast?.toList ++ later.book.pending, x.kind = 1) ∧ later.mayWrite .a 0x40028 = true)
    ∧ (up.health.levelReg ≠ 3 ∧ held.health.level ≠ 3 ∧ (healthy fun h => { h with hold := true, level := 3 }).health.level = 3
      ∧ held.health.levelReg = 3)
    ∧ (up.mayWrite .a 0x40028 = true ∧ held.mayWrite .a 0x40028 = true ∧ held.health.hold = true)
    ∧ (held.cellarOn = true ∧ held.health.holdLeft = 0) := by decide
theorem witness_provingRun :
    let run (n : Nat) := healthy fun h => { h with result := 1, stage := n }
    (up.mayWrite .a 0x40028 = true ∧ up.mayProve = true)
    ∧ ((run 1).mayWrite .a 0x40028 = true ∧ (run 1).mayProve = false ∧ (run 1).proving = true ∧ (run 1).alive = true)
    ∧ ((run 4).proving = true ∧ (run 4).health.stage < 5 ∧ (run 5).proving = true ∧ 5 ≤ (run 5).health.stage
      ∧ (run 5).alive = true ∧ ∀ n ∈ [1, 4, 5], (run n).stageFails n = false)
    ∧ (((run 5).modPower fun p => { p with hydroAt := 1, margin := 39 }).stageFails 5 = true
      ∧ ((run 4).modLink 0 fun l => { l with phase := .up, proved := 1000000000 }).stageFails 4 = true) := by decide +kernel

def cu (f : CatchUp → CatchUp) : State := { ready with catchUp := f ready.catchUp }
def cuE : CuEntry := ⟨1, 1, 2, 0, 0x10000, 7, true⟩
def cuResv (tries : Nat) : Reservation := { cells := 9, who := .catchUp, since := 0, sent := true, tries := tries, node := 1 }
def cuWaits (tries : Nat) : State :=
  (cu fun c => { c with phase := .receiving }).modGranary fun g => { g with resv := [(2, cuResv tries)] }
theorem witness_catchUpEngine :
    let go := cu fun c => { c with phase := .receiving, entries := [cuE] }
    let x := inbox 0x13 0x5000 2 []
    let back := { cuWaits 0 with core := { (cuWaits 0).core with inbox := [x] } }
    let stale := { back with catchUp := { back.catchUp with run := 1 } }
    let ver (d : Nat) := cu fun c => { c with phase := .verifying, entries := [{ cuE with pages := 0, digest := d }] }
    let off := cu fun c => { c with phase := .abandoning, entries := [cuE] }
    (up.mayWrite .a 0x33020C = true ∧ up.catchUp.phase = .idle ∧ up.catchUp.count = 0)
    ∧ (go.alive = true ∧ go.isFatal = false ∧ go.catchUp.phase = .receiving ∧ go.cuOutstanding < go.catchUp.outst
      ∧ go.catchUp.nextRead = some (0, 0, 0) ∧ go.catchUp.entries[0]? = some cuE ∧ (go.granaryTurn 30).freeTag = some 0
      ∧ (go.granaryTurn 30).admitTest ownReply 0 (cellsOf 4096) = .yes)
    ∧ (back.inboxFor 5 [0x13] = some x ∧ x.hdr.epKind = 5 ∧ back.resv (x.hdr.opx.toNat % 65536) = some (cuResv 0)
      ∧ (cuResv 0).who = .catchUp ∧ (cuResv 0).sent = true ∧ back.catchUp.phase = .receiving ∧ x.verdict = 0
      ∧ (cuResv 0).epoch = back.catchUp.run ∧ back.isFatal = false ∧ back.hbmReady (cuResv 0).addr 4096 = true)
    ∧ (stale.inboxFor 5 [0x13] = some x ∧ stale.resv (x.hdr.opx.toNat % 65536) = some (cuResv 0)
      ∧ (cuResv 0).epoch ≠ stale.catchUp.run ∧ stale.hbmReady (cuResv 0).addr 4096 = true)
    ∧ (∀ n ∈ [1, 2], (cuWaits n).resv (2 : Fin 16384) = some (cuResv n) ∧ (cuWaits n).alive = true
      ∧ (cuResv n).who = .catchUp ∧ (cuResv n).sent = true ∧ (cuWaits n).core.frames.any (fun f => f.tag == some 2) = false
      ∧ (cuWaits n).catchUp.phase = .receiving ∧ (cuResv n).tries = n ∧ (cuResv n).epoch = (cuWaits n).catchUp.run
      ∧ (cuWaits n).isFatal = false)
    ∧ ((ver (crc64 [])).alive = true ∧ (ver (crc64 [])).catchUp.phase = .verifying ∧ (ver (crc64 [])).isFatal = false
      ∧ (∀ e ∈ (ver (crc64 [])).catchUp.entries, (ver (crc64 [])).regionReady e.dst e.len = true)
      ∧ (∀ e ∈ (ver (crc64 [])).catchUp.entries, (ver (crc64 [])).cuHolds e = true)
      ∧ (∀ e ∈ (ver (crc64 [] + 1)).catchUp.entries, (ver (crc64 [] + 1)).cuHolds e = false))
    ∧ (up.mayWrite .a 0x33020C = true ∧ go.catchUp.phase ∈ [.receiving, .verifying, .orphaned, .failed])
    ∧ (off.alive = true ∧ off.catchUp.phase = .abandoning ∧ off.isFatal = false
      ∧ (∀ e ∈ off.catchUp.entries, off.regionReady e.dst e.len = true) ∧ (∀ e ∈ off.catchUp.entries, inHbm e.dst e.len = true)) := by
  decide +kernel

theorem witness_catchUpStart :
    let man (bs : Tab Byte) : State := { armed [(secRoute, at_ 0x20 [0, 0, 1, 0])] with
      hbm := bs, disc := { node := some 0 }, catchUp := { cfg := 0x00400001#32 } }
    let good := man [(0, 1), (2, 1), (4, 1), (20, 4)]
    let bad := man [(0, 1), (2, 3), (4, 1), (20, 4)]
    (good.mayWrite .a 0x33020C = true ∧ good.catchUp.phase = .idle ∧ 1 ≤ good.catchUp.count ∧ good.catchUp.count ≤ 4096
      ∧ inHbm good.catchUp.man.toNat (32 * good.catchUp.count) = true
      ∧ good.cuBad [] ((List.range good.catchUp.count).map good.cuEntry) 0 = none)
    ∧ (bad.mayWrite .a 0x33020C = true ∧ bad.cuBad [] ((List.range bad.catchUp.count).map bad.cuEntry) 0 = some 0) := by
  decide +kernel

theorem witness_testAccessPort :
    let t (p : TapPhase) (r : Bool) := { up with tap := { up.tap with phase := p, trst := r } }
    (∀ p ∈ ([.captureDr, .captureIr, .updateDr] : List TapPhase), (t p false).tap.phase = p ∧ (t p false).tap.trst = false)
    ∧ ((t .shiftDr false).power.powered = true ∧ up.power.reset = false ∧ (t .shiftDr false).tap.trst = false ∧ (t .shiftDr false).tap.phase = .shiftDr)
    ∧ (t .shiftIr false).tap.phase = .shiftIr ∧ (t .updateIr false).tap.phase = .updateIr := by decide

def running : StreamQ := { en := true, phase := .running, port := some .a, version := 2, log2 := 4 }
/-- A descriptor with operation `op` and LENGTH `n`. -/
def dsc (op n : Nat) : List Byte := leBytes 1 op ++ zeros 3 ++ leBytes 4 n ++ zeros 56
def opOf (op n : Nat) : SqOp := { index := 3, desc := dsc op n }
def queueWith (o : SqOp) : State := queueAs { running with ops := [o], head := 4 }

theorem witness_streamQueueControl :
    let en : Word := 0xA0040000
    let off := queueAs {}
    let odd := queueAs { descBase := 2048 }
    let few : Word := 0xA0030000
    let rst := queueAs { running with phase := .resetting, ops := [{ opOf 0 0 with status := some 0 }] }
    let on := queueAs { running with ops := [{ opOf 1 64 with started := true }] }
    (off.portServes .a = true ∧ off.isFatal = false ∧ off.queuePort 1 = some .a ∧ off.power.warm = false
      ∧ (off.sq 1).en = false ∧ bitOf en.toNat 31 = true ∧ bitOf en.toNat 30 = false ∧ 1 ≤ bitsOf en.toNat 29 28
      ∧ off.grist.desc.lo ≤ bitsOf en.toNat 29 28 ∧ bitsOf en.toNat 29 28 ≤ off.grist.desc.hi
      ∧ (off.sq 1).descBase.toNat % 4096 = 0 ∧ (off.sq 1).cplBase.toNat % 4096 = 0 ∧ (off.sq 1).phase = .disabled
      ∧ 4 ≤ bitsOf en.toNat 19 16 ∧ bitsOf few.toNat 31 31 = 1 ∧ bitOf few.toNat 30 = false ∧ bitsOf few.toNat 19 16 < 4)
    ∧ (odd.portServes .a = true ∧ odd.queuePort 1 = some .a ∧ (odd.sq 1).en = false ∧ (odd.sq 1).descBase.toNat % 4096 ≠ 0)
    ∧ (((queueAs { cplBase := 2048 }).sq 1).cplBase.toNat % 4096 ≠ 0 ∧ (queueAs { cplBase := 2048 }).queuePort 1 = some .a
      ∧ bitsOf (0x80040000 : Word).toNat 29 28 = 0 ∧ off.grist.desc.hi < bitsOf (0xB0040000 : Word).toNat 29 28
      ∧ bitsOf (0x90040000 : Word).toNat 29 28 < ({ off.grist with desc := { off.grist.desc with lo := 2 } } : GristSt).desc.lo)
    ∧ (rst.alive = true ∧ rst.queuePort 1 = some .a ∧ (rst.sq 1).phase = .resetting
      ∧ (∀ o ∈ (rst.sq 1).ops, o.ended.isSome = true))
    ∧ (on.queuePort 1 = some .a ∧ (on.sq 1).en = true ∧ ringDist (16 % 65536) (on.sq 1).head ≤ (on.sq 1).size
      ∧ ringDist (on.sq 1).cplTail (0 % 65536) ≤ (on.sq 1).size
      ∧ (on.sq 1).size < ringDist (17 % 65536) (on.sq 1).head ∧ (on.sq 1).phase = .running ∧ (on.sq 1).stopping = none
      ∧ (∃ o ∈ (on.sq 1).ops, o.started = true))
    ∧ off.portServes (portOther .a) = true := by decide +kernel

theorem witness_descriptorsStart :
    let f := queueAs { running with descTail := 4 }
    ((f.sq 1).port = some .a ∧ f.portServes .a = true ∧ (f.sq 1).en = true ∧ (f.sq 1).phase = .running
      ∧ (f.sq 1).stopping = none ∧ f.grist.frozen = false ∧ f.sqPaused 1 = false ∧ (f.sq 1).fetching = 0 ∧ f.readFits .a (64 * 4) = true
      ∧ 4 = min (min 8 (ringDist (f.sq 1).descTail (f.sq 1).head))
        (min ((f.sq 1).size - ringDist (f.sq 1).head (f.sq 1).cplHead) ((f.sq 1).size - (f.sq 1).head % (f.sq 1).size)))
    ∧ (∀ op ∈ [0, 4, 5, 6, 7], (queueWith (opOf op 64)).sqTurn 1 op (fun _ => false) = some (opOf op 64))
    ∧ (∀ op ∈ [1, 3], (queueWith (opOf op 64)).sqTurn 1 op (fun o => o.next < o.len) = some (opOf op 64)
      ∧ ((queueWith (opOf op 64)).sq 1).port = some .a ∧ (queueWith (opOf op 64)).devOk (opOf op 64).dev (opOf op 64).len = true
      ∧ (queueWith (opOf op 64)).readFits .a (min (64 - (opOf op 64).next) (4096 - ((opOf op 64).dev + (opOf op 64).next) % 4096)) = true
      ∧ (queueWith (opOf op 64)).readFits .a (min (64 - (opOf op 64).next) 4096) = true)
    ∧ ((queueWith (opOf 2 64)).sqTurn 1 2 (fun _ => true) = some (opOf 2 64)
      ∧ (queueWith (opOf 2 64)).devOk (opOf 2 64).dev (opOf 2 64).len = true
      ∧ (queueWith (opOf 2 64)).hbmReady 0 (min 64 4096) = true ∧ (queueWith (opOf 2 64)).storeTurn 1 0 = true)
    ∧ ((queueWith (opOf 6 64)).host.holder = portNum .a ∧ (queueWith (opOf 6 64)).readFits .a (opOf 6 64).len = true
      ∧ ((queueWith (opOf 6 64)).modHost fun h => { h with holder := 2 }).host.holder ≠ portNum .a) := by decide +kernel
/-- A read of queue 1 that is outstanding at port A, for an operation of queue 1. -/
def hostReading (w : ReadFor) (o : SqOp) : State :=
  { queueWith { o with reads := 1 } with host := { up.host with reads := [{ id := 3, port := 1, addr := 0, len := 64, what := w }] } }
theorem witness_hostReads :
    let all := ([.opData 1 3 0, .opData 1 3 64] : List ReadFor)
    (∀ w ∈ .descriptors 1 4 2 :: all, ∀ op ∈ [1, 3, 6], ∃ r, (hostReading w (opOf op 128)).read? 3 = some r ∧ portOf r.port = .a ∧ r.what = w
      ∧ (hostReading w (opOf op 128)).portConfig .a = true ∧ ((hostReading w (opOf op 128)).port .a).pci.cplOff = false
      ∧ (hostReading w (opOf op 128)).host.remote = false ∧ ((hostReading w (opOf op 128)).sq 1).port = some .a
      ∧ ((hostReading w (opOf op 128)).sq 1).phase = .running
      ∧ ((hostReading w (opOf op 128)).sq 1).ops.find? (fun y => y.index == 3) = some { opOf op 128 with reads := 1 }
      ∧ (((hostReading w (opOf op 128)).sq 1).ops.filter (fun y => y.index == 3)).length = 1 ∧ (opOf op 128).op = op)
    ∧ (64 ≠ (opOf 3 128).made ∧ 0 = (opOf 3 128).made ∧ (opOf 3 128).got = [] ∧ 0 < min 4096 ((opOf 3 128).len - 0)
      ∧ (opOf 3 128).got.find? (fun g => g.1 == (opOf 3 128).made) = none) := by
  refine ⟨?_, by decide⟩
  intro w hw op hop
  simp only [List.mem_cons, List.not_mem_nil, or_false] at hw hop
  rcases hw with rfl | rfl | rfl <;> rcases hop with rfl | rfl | rfl <;>
    exact ⟨_, rfl, rfl, rfl, by decide +kernel, rfl, rfl, rfl, rfl, rfl, rfl, rfl⟩

/-- A WAIT of queue 1 for flag 7 of tun 2. -/
theorem witness_descWait :
    let o (n : Nat) : SqOp := { index := 3, desc := leBytes 1 7 ++ zeros 31 ++ [7, 2] ++ leBytes 2 n ++ zeros 28 }
    let s := queueWith (o 0)
    s.sqTurn 1 7 (fun _ => false) = some (o 0) ∧ (s.flagOwner (byteAt (o 0).desc 0x21) (byteAt (o 0).desc 0x20)).1 ≠ 0
    ∧ natAt (o 0).desc 0x22 2 ≤ (s.tun (byteAt (o 0).desc 0x21)).flag (byteAt (o 0).desc 0x20)
    ∧ (queueWith (o 1)).sqTurn 1 7 (fun _ => false) = some (o 1)
    ∧ (s.tun (byteAt (o 1).desc 0x21)).flag (byteAt (o 1).desc 0x20) < natAt (o 1).desc 0x22 2 := by decide +kernel

theorem witness_descriptorCompletes :
    let d (fl : Byte) := [1, fl, 0, 0] ++ zeros 28 ++ [9, 2, 1, 0] ++ zeros 28
    let o (fl : Byte) (st : Nat) : SqOp := { index := 3, status := some st, started := true, desc := d fl }
    let next : SqOp := { opOf 1 64 with index := 4, started := true }
    let s (fl : Byte) (st : Nat) : State := { queueAs { running with ops := [o fl st, next] } with
      grist := grist [(secQueue, at_ 16 [1]), (secFlags, at_ (8 + 4 * (256 * 2 + 9)) [3, 0, 1])] }
    (∀ st ∈ [0, 2], ((s 0 st).sq 1).port = some .a ∧ (s 0 st).portServes .a = true ∧ ((s 0 st).sq 1).phase = .running
      ∧ ((s 0 st).sq 1).stopping = none ∧ ((s 0 st).sq 1).ops = [o 0 st, next] ∧ (o 0 st).ended = some st
      ∧ (∃ x ∈ [next], x.started = true) ∧ (o 0 st).flagBit 3 = false ∧ (o 0 st).flagBit 2 = false)
    ∧ (((s 8 0).sq 1).port = some .a ∧ (o 8 0).flagBit 3 = true ∧ ((s 8 0).sq 1).version = 2
      ∧ (s 8 0).flagOwner (byteAt (o 8 0).desc 0x21) (byteAt (o 8 0).desc 0x20) = (3, 1)) := by decide +kernel

def memReqOf (fl : Byte) : InFrame := inbox 0x12 0x4000 64 (leBytes 4 64 ++ [0, 0, fl, 0] ++ zeros 64)
def memReqAt (fl : Byte) (en : Bool) : State := { ready with
  core := { ready.core with inbox := [memReqOf fl] }, host := { ready.host with memWrEn := en } }
def askedOp : SqOp := { opOf 5 4 with started := true }
def askedResv : Reservation := { cells := 1, who := .queue 1, since := 0, index := 3 }
def askedBy : State := (queueWith askedOp).modGranary fun g => { g with resv := [(6, askedResv)] }
/-- Stream 9 or the catch-up engine waits for the reply of tag 6. -/
def streamAsks (w : Requester) : State := { askedBy with
  granary := { askedBy.granary with resv := [(6, { askedResv with who := w })] }, streams := [(9, { active := true })] }
def answerOf (op : Byte) : InFrame := inbox op 0x2001 6 []
def answered (op : Byte) : State := { askedBy with core := { askedBy.core with inbox := [answerOf op] } }
theorem witness_memReq : ∀ e ∈ ([(0, false), (1, false), (1, true)] : List (Byte × Bool)),
    (memReqAt e.1 e.2).inboxFor 5 [0x12] = some (memReqOf e.1) ∧ (memReqAt e.1 e.2).serviceActs (memReqOf e.1).hdr = true
    ∧ (memReqAt e.1 e.2).accessTurn (memReqOf e.1) = true ∧ (memReqOf e.1).verdict = 0 ∧ 64 = natAt (memReqOf e.1).payload 0 4
    ∧ (memReqAt e.1 e.2).hbmReady (memReqOf e.1).hdr.opx.toNat 64 = true
    ∧ bitOf (byteAt (memReqOf e.1).payload 6) 0 = (e.1 == 1) ∧ (memReqAt e.1 e.2).host.memWrEn = e.2
    ∧ (memReqOf e.1).hdr.opx.toNat + 64 ≤ hbmTop := by decide +kernel
/-- A write of 64 bytes beyond HBM. -/
def memReqBeyond : InFrame := inbox 0x12 0x4000 (BitVec.ofNat 64 hbmTop) (leBytes 4 64 ++ [0, 0, 1, 0] ++ zeros 64)
theorem witness_memReqBeyond :
    let s := (hears ready memReqBeyond).modHost fun h => { h with memWrEn := true }
    s.inboxFor 5 [0x12] = some memReqBeyond ∧ s.serviceActs memReqBeyond.hdr = true ∧ s.accessTurn memReqBeyond = true
    ∧ memReqBeyond.verdict = 0 ∧ 64 = natAt memReqBeyond.payload 0 4 ∧ s.hbmReady memReqBeyond.hdr.opx.toNat 64 = true
    ∧ bitOf (byteAt memReqBeyond.payload 6) 0 = true ∧ s.host.memWrEn = true ∧ hbmTop < memReqBeyond.hdr.opx.toNat + 64 := by
  decide +kernel
theorem witness_replies : ∀ op ∈ ([0x11, 0x13] : List Byte),
    (answerOf op).hdr.epKind = 2 ∧ (answered op).resv ((answerOf op).hdr.opx.toNat % 65536) = some askedResv
    ∧ askedResv.who = .queue (Fin.ofNat 4096 (answerOf op).hdr.epIdx)
    ∧ ((answered op).sq (answerOf op).hdr.epIdx).port = some .a
    ∧ ((answered op).sq (answerOf op).hdr.epIdx).ops.find? (fun y => y.index == askedResv.index && y.started && y.status.isNone) = some askedOp
    ∧ (hears (queueWith askedOp) (answerOf op)).resv ((answerOf op).hdr.opx.toNat % 65536) = none
    ∧ (hears (queueWith askedOp) (answerOf op)).inboxFor 5 [op.toNat] = some (answerOf op) ∧ (answered op).inboxFor 5 [op.toNat] = some (answerOf op) := by
  decide +kernel
theorem witness_replyTimeout : askedBy.resv (6 : Fin 16384) = some askedResv ∧ askedBy.alive = true
    ∧ askedBy.core.frames.any (fun f => f.tag == some 6) = false ∧ askedResv.who = .queue 1
    ∧ ((streamAsks (.stream 9)).resv (6 : Fin 16384) = some { askedResv with who := .stream 9 } ∧ (streamAsks (.stream 9)).alive = true
      ∧ (streamAsks (.stream 9)).core.frames.any (fun f => f.tag == some 6) = false ∧ ((streamAsks (.stream 9)).stream 9).active = true
      ∧ ((streamAsks (.stream 9)).stream 9).epoch = ({ askedResv with who := .stream 9 } : Reservation).epoch)
    ∧ (streamAsks .catchUp).resv (6 : Fin 16384) = some { askedResv with who := .catchUp } := by decide +kernel

/-- A tun instruction (R77) with DELTA 1: its opcode, MODE, IMM and queue ends. -/
def ins (op mode imm ends : Nat) : BitVec 128 :=
  BitVec.ofNat 128 (1 + op * 2 ^ 8 + ends * 2 ^ 16 + imm * 2 ^ 64 + mode * 2 ^ 96)
/-- SRC0 pops queue 3; DST0 is queue 4 (R78). -/
def src3 : Nat := 0x83
def dst4 : Nat := 0x84 * 2 ^ 24
/-- The MV bit (R80). -/
def mv : Nat := 2 ^ 31
/-- The active grist of the tun tests: tun 0 owns its own flag 7 and flag 8 of tun 5 (R70). -/
def flags : Tab (Tab Byte) := [(secFlags, [(8 + 4 * 7, 1), (8 + 4 * (256 * 5 + 8), 1)])]
/-- Tun 0 runs a program of the one instruction `w`. -/
def tunAt (w : BitVec 128) (u : Tun) : State := { armed flags with tuns := [(0, { u with
  phase := .running
  next := some {}
  program := some { store := [w], loops := [⟨1, 1, 0, 1, [2], [], []⟩], replay := [ins 0 0 0 0], blocks := 1 } })] }
def slotOf (w : BitVec 128) : Slot := ⟨{}, w.toNat, 1⟩
/-- Queue 3 holds an entry, and tile S1 and buffer W2 are complete (R82, R90). -/
def fed (sparse : Bool) : Tun := {
  queues := [(3, { near := [9] })]
  stat := [(1, { fmt := 8, complete := true, sparse := sparse })]
  wbuf := [(2, { fmt := 8, complete := true })] }

/-- MODE of a product of S1 and W2 into A3. -/
def prod : Nat := 1 * 2 ^ 18 + 2 * 2 ^ 16 + 3 * 2 ^ 12
/-- Each opcode of R87 with operands that R80 admits. -/
def cases_ : List (Nat × BitVec 128) := [
  (0x00, ins 0x00 0 0 0), (0x01, ins 0x01 0 5 0), (0x02, ins 0x02 0 0 0), (0x03, ins 0x03 0 0 0), (0x04, ins 0x04 0 0 0),
  (0x05, ins 0x05 7 2 0), (0x05, ins 0x05 (5 * 65536 + 8) 2 0), (0x06, ins 0x06 7 2 0), (0x07, ins 0x07 3 9 0),
  (0x08, ins 0x08 mv 0 dst4), (0x09, ins 0x09 mv 0 dst4), (0x0A, ins 0x0A mv 3 dst4), (0x0B, ins 0x0B (mv + 7) 0 dst4),
  (0x10, ins 0x10 0 64 dst4), (0x11, ins 0x11 0 64 src3), (0x12, ins 0x12 0 0 (src3 + dst4)), (0x13, ins 0x13 0 0 dst4),
  (0x20, ins 0x20 (8 * 2 ^ 24) 63 src3), (0x21, ins 0x21 (8 * 2 ^ 24) 63 src3), (0x22, ins 0x22 0 3 src3),
  (0x23, ins 0x23 prod 0 0), (0x24, ins 0x24 prod 1 0), (0x25, ins 0x25 0 1 dst4), (0x26, ins 0x26 0xF000 0 0),
  (0x27, ins 0x27 7 1 0), (0x30, ins 0x30 0xF000 0 src3), (0x31, ins 0x31 0xF00 0 dst4), (0x32, ins 0x32 0xF120 0 0),
  (0x33, ins 0x33 0xF120 0 0), (0x34, ins 0x34 0xF120 0 0), (0x35, ins 0x35 0xF123 0 0), (0x36, ins 0x36 0xF120 0 0),
  (0x37, ins 0x37 0xF120 0 0), (0x38, ins 0x38 0xCF120 0 0), (0x39, ins 0x39 0xF123 0 0), (0x3A, ins 0x3A 0xF000 0x3F800000 0),
  (0x3B, ins 0x3B 0xF100 0 0), (0x3C, ins 0x3C 0xF100 0 0), (0x40, ins 0x40 0xF100 0 0), (0x41, ins 0x41 0xF100 0 0),
  (0x42, ins 0x42 0xF100 0 0), (0x43, ins 0x43 0xF100 0 0), (0x44, ins 0x44 0xF100 0 0), (0x45, ins 0x45 0xF100 0 0)]

/-- Every instruction of R87 can issue. -/
theorem witness_canIssue : ∀ e ∈ cases_, (tunAt e.2 (fed false)).canIssue 0 e.1 (slotOf e.2) := by
  unfold State.canIssue; decide +kernel
theorem witness_sources : ∀ e ∈ cases_, insSrc e.2.toNat 0 = (true, false, 3) →
    ((((tunAt e.2 (fed false)).issuing 0 (slotOf e.2)).tun 0).read0 e.2.toNat 1).isSome = true := by
  decide +kernel
theorem witness_tunSequencer :
    let u (n : Nat) : Tun := { fed false with flags := [(7, BitVec.ofNat 16 n)] }
    let s (n : Nat) : State := tunAt (ins 0x06 7 2 0) (u n)
    ((s 0).tun 0).program.isSome = true ∧ (∀ g, ((s 0).tun 0).program = some g →
      g.fetches (0 % 16) (bitsOf 0 16 4) (bitsOf 0 24 17) 0x2000 = true)
    ∧ (s 0).flagOwner 0 7 = (1, 0) ∧ (s 0).flagOwner 5 8 = (1, 0)
    ∧ (2 ≤ ((s 2).tun 0).flag 7 ∧ ((s 1).tun 0).flag 7 < 2) := by decide +kernel
theorem witness_tunReadsAndMoves :
    ((tunAt (ins 0x10 0 64 dst4) (fed false)).tun 0).imm {} (ins 0x10 0 64 dst4).toNat = 64
    ∧ ((tunAt (ins 0x11 0 64 src3) (fed false)).tun 0).imm {} (ins 0x11 0 64 src3).toNat = 64
    ∧ (((tunAt (ins 0x10 0 64 dst4) (fed false)).issuing 0 (slotOf (ins 0x10 0 64 dst4))).tun 0).reservedAt 64 = false
    ∧ (((tunAt (ins 0x11 0 64 src3) (fed false)).issuing 0 (slotOf (ins 0x11 0 64 src3))).tun 0).reservedAt 64 = false := by
  decide +kernel
/-- The frequency of tun 0 is its nominal one (R88, R316). -/
theorem witness_rdftc :
    let o := (tunAt (ins 0x09 mv 0 dst4) {}).issuing 0 (slotOf (ins 0x09 mv 0 dst4))
    let gone : Int := ((o.clk.tun * o.mhz 0 : Nat) : Int) - (((o.tun 0).oscAt * o.mhz 0 + (slotOf (ins 0x09 mv 0 dst4)).cycle * tunUnit : Nat) : Int)
    0 < o.oscStep * o.power.rate * o.mhz 0 ∧ o.oscStep * o.power.rate * o.mhz 0 ≤ 5 * tunUnit
    ∧ 0 ≤ gone + (4 * tunUnit : Nat) := by decide +kernel

theorem witness_tunMatrix : ∀ sp ∈ [false, true],
    let u := ((tunAt (ins 0x23 prod 0 0) (fed sp)).issuing 0 (slotOf (ins 0x23 prod 0 0))).tun 0
    (tunAt (ins 0x23 prod 0 0) (fed sp)).canIssue 0 0x23 (slotOf (ins 0x23 prod 0 0))
    ∧ (∀ r ∈ [0, 4, 1, 6, 11, 8, 23], u.busyOf 1 [r] = none) ∧ u.pending 1 (modeS prod) = false
    ∧ u.pending 1 (4 + modeW prod) = false ∧ u.pending 1 (8 + modeA prod) = false
    ∧ (u.tileS (modeS prod)).complete = true ∧ (u.tileW (modeW prod)).complete = true
    ∧ (u.tileS (modeS prod)).sparse = sp ∧ (u.dense.filter fun p => 1 < p.start).length < 4
    ∧ (u.sparse.filter fun p => 1 < p.start).length < 4
    ∧ (u.digItems = 0 ∨ u.digLayer = 0) ∧ (tunAt (ins 0x23 prod 0 0) (fed sp)).flagOwner 0 7 = (1, 0) := by
  unfold State.canIssue; decide +kernel
theorem witness_tunVector :
    let s := tunAt (ins 0x3A 0xF000 0x7FC00000 0) (fed false)
    let n := tunAt (ins 0x3A 0xF000 0x7F800001 0) (fed false)
    s.canIssue 0 0x3A (slotOf (ins 0x3A 0xF000 0x7FC00000 0)) ∧ f32IsNan 0x3F800000 = false ∧ f32IsNan 0x7FC00000 = true
    ∧ n.canIssue 0 0x3A (slotOf (ins 0x3A 0xF000 0x7F800001 0)) ∧ f32IsNan 0x7F800001 = true
    ∧ (∀ rs ∈ [[15], [1, 2, 15], [1, 15], [1, 2, 3, 15]], (s.issuing 0 (slotOf (ins 0x3A 0xF000 0x7FC00000 0))).vecFree 0
      (slotOf (ins 0x3A 0xF000 0x7FC00000 0)) rs) := by
  unfold State.canIssue State.vecFree; decide +kernel

/-- An opcode outside R87, a reserved bit, and an MV instruction under STRICT (R80). -/
theorem witness_tunExceptions :
    let bad := tunAt (ins 0x00 1 0 0) {}
    let x := slotOf (ins 0x00 1 0 0)
    let undef := tunAt (ins 0x0C 0 0 0) {}
    let m := ins 0x08 mv 0 dst4
    let strict := { tunAt m {} with grist := grist [(secIdent, at_ 6 [1])] }
    let gone := { tunAt (ins 0 0 0 0) {} with tuns := [(0, { phase := .running, program := some {}, next := some {} })] }
    (tunOpcode (.nop 0) = some (0, 0x00) ∧ bad.ready 0 0x00 = some x ∧ ((bad.issuing 0 x).tun 0).phase = .running
      ∧ (bad.tun 0).illegal x.pc x.w = some 2 ∧ ((bad.issuing 0 x).tun 0).excValid = false ∧ bad.ready 0 0x01 = none)
    ∧ (tunOpcode (.rdcyc 0) = some (0, 0x08) ∧ strict.ready 0 0x08 = some (slotOf m) ∧ ((strict.issuing 0 (slotOf m)).tun 0).phase = .running
      ∧ ((strict.issuing 0 (slotOf m)).tun 0).excValid = false
      ∧ (strict.tun 0).illegal {} m.toNat = none ∧ insMv m.toNat = true ∧ strict.strict = true)
    ∧ (undef.ready 0 0x0C = some (slotOf (ins 0x0C 0 0 0)) ∧ opDefined 0x0C = false
      ∧ ((undef.issuing 0 (slotOf (ins 0x0C 0 0 0))).tun 0).phase = .running
      ∧ ((undef.issuing 0 (slotOf (ins 0x0C 0 0 0))).tun 0).excValid = false)
    ∧ ((gone.tun 0).slot = none ∧ gone.tunActs 0 = true ∧ (gone.tun 0).phase = .running ∧ (gone.tun 0).next.isSome = true
      ∧ (gone.tun 0).settled ((gone.tun 0).issued + 1) = true ∧ (gone.tun 0).excValid = false) := by decide +kernel
theorem witness_slips :
    let busy : InFlight := ⟨0, 9, .vreg 15 [], 0, {}⟩
    (∀ e ∈ cases_, e.1 ∈ [0x12, 0x20, 0x21, 0x22, 0x30] → (tunAt e.2 {}).canIssue 0 e.1 (slotOf e.2)
      ∧ ((((tunAt e.2 {}).issuing 0 (slotOf e.2)).tun 0).queue (insSrc e.2.toNat 0).2.2).near = []
      ∧ (((tunAt e.2 {}).issuing 0 (slotOf e.2)).tun 0).slipValid = false)
    ∧ (tunAt (ins 0x32 0xF120 0 0) { inflight := [busy] }).canIssue 0 0x32 (slotOf (ins 0x32 0xF120 0 0))
    ∧ (((tunAt (ins 0x32 0xF120 0 0) { inflight := [busy] }).issuing 0 (slotOf (ins 0x32 0xF120 0 0))).tun 0).busyOf 1 ([1, 2, 15].map (24 + ·)) = some 39 := by
  unfold State.canIssue; decide +kernel

/-- Tun 0 runs, with `u`'s state; its program has come to its end. -/
def tunRun (u : Tun) : State := { armed flags with tuns := [(0, { u with phase := .running })] }
def landing (e : Effect) : InFlight := ⟨1, 4, e, 0, {}⟩
def lands (e : Effect) (q : Tab Queue) : State := tunRun { inflight := [landing e], queues := q }
def full32 : Tab Queue := [(4, { near := List.replicate 32 1 })]
def product (st : Bool) : Product := {
  issue := 1, start := 2, busy := 64, complete := 73, started := st, sTile := 1, wTile := 2, acc := 3
  s := {}, w := {}, ss := false, ws := false, sparse := false, fallback := false, bitmap := none }
theorem witness_tunResultsLand :
    (∀ e ∈ [Effect.push [(0, 4)] 7, .push [(0, 47)] 7, .memWrite 64 7, .vreg 15 [(63, 1)], .accZero 15 [4095], .raise 7 65535,
        .memRead 64 [(0, 4)] [], .memRead 64 [(0, 4)] [(7, .symbol)], .memRead 64 [(0, 4)] [(7, .uncorrectable)]],
      (lands e []).tunActs 0 = true ∧ firstLanding ((lands e []).tun 0).inflight = some (0, landing e)
      ∧ ((lands e []).tun 0).past (landing e).land = true)
    ∧ (((lands (.push [(0, 4)] 7) []).tun 0).queue 4).near.length < 32 ∧ ((lands (.raise 7 65535) []).tun 0).flag 7 + 65535 ≤ 65535
    ∧ (32 ≤ (((lands (.push [(0, 4)] 7) full32).tun 0).queue 4).near.length
      ∧ ((lands (.push [(0, 4)] 7) full32).tun 0).slipValid = false ∧ ((lands (.push [(0, 4)] 7) full32).tun 0).phase = .running
      ∧ firstLanding ((lands (.push [(0, 4)] 7) full32).tun 0).inflight = some (0, landing (.push [(0, 4)] 7)))
    ∧ (((tunRun { dense := [product false] }).tun 0).engine false).find? (fun p => !p.started) = some (product false)
    ∧ ((tunRun { dense := [product false] }).tun 0).past (product false).start = true ∧ (tunRun { dense := [product false] }).tunActs 0 = true
    ∧ ((tunRun { dense := [product true] }).tun 0).engine false = [product true]
    ∧ (product true).started = true ∧ ((tunRun { dense := [product true] }).tun 0).past (product true).complete = true
    ∧ (let u := (tunRun { ended := true }).tun 0
       u.phase = .running ∧ u.ended = true ∧ u.inflight = [] ∧ u.dense = [] ∧ u.sparse = [] ∧ u.digItems = 0 ∧ u.engineCnt = 0)
    := by decide +kernel

/-- An image of one END (R73). -/
def image : List Byte := leBytes 4 0x504E5554 ++ [1, 0, 0, 0] ++ leBytes 4 144 ++ [1, 0, 0, 0] ++ zeros 16
  ++ (List.range 15).flatMap (fun i => leBytes 4 (up.featReg (4 + 4 * i))) ++ zeros 36 ++ leBytes 16 (ins 2 0 0 0).toNat
def tunIs (p : TunPhase) (f : Tun → Tun) : State := { armed flags with tuns := [(0, f { phase := p })] }
def loadsImage (bs : List Byte) : State :=
  { tunIs .loading fun u => { u with loadLen := 144 } with hbm := at_ 0 bs, ctls := ready.ctls }
theorem witness_tunCommands :
    let arm := tunIs .loaded fun u => { u with launchAt := 4000 }
    (∀ p ∈ [TunPhase.idle, .armed, .running, .loaded], (tunIs p id).mayWrite .a (tunOff 0 0) = true
      ∧ ((tunIs p id).tun 0).phase = p ∧ (tunIs p id).proving = false)
    ∧ (arm.mayWrite .a (tunOff 0 0) = true ∧ arm.time.ftc + 4000 ≤ (arm.tun 0).launchAt.toNat
      ∧ (∀ e ∈ (arm.tun 0).queues, e.1 < 48 → e.2.near = []))
    ∧ ((tunIs .loaded id).tun 0).launchAt.toNat < (tunIs .loaded id).time.ftc + 4000
    ∧ (((tunIs .idle id).tun 0).phase ∉ [.loaded, .done] ∧ (healthy fun h => { h with result := 1, stage := 1 }).proving = true
      ∧ ∃ e ∈ ((tunIs .loaded (fun _ => fed false)).tun 0).queues, e.1 < 48 ∧ e.2.near ≠ [])
    ∧ (tunIs .idle id).mayWrite .a (tunOff 0 (0x400 + 4 * 255)) = true
    ∧ ((tunIs .armed id).tunActs 0 = true ∧ (tunIs .armed id).grist.release = none
      ∧ { tunIs .armed id with grist := { grist flags with frozen := true } }.grist.frozen = true
      ∧ (tunIs .armed id).grist.frozen = false) := by decide +kernel
theorem witness_loadComplete :
    let g := loadsImage image
    (∀ s ∈ [g, loadsImage []], s.tunActs 0 = true ∧ (s.tun 0).phase = .loading ∧ (s.tun 0).loadSrc.toNat % 256 = 0
      ∧ (s.tun 0).loadSrc.toNat + (s.tun 0).loadLen.toNat ≤ hbmTop
      ∧ s.regionReady (s.tun 0).loadSrc.toNat (s.tun 0).loadLen.toNat = true
      ∧ (linesOf (s.tun 0).loadSrc.toNat (s.tun 0).loadLen.toNat).find? (fun l => s.poisonedAt l
        || ([] : Ecc).any fun y => eccBad y.2 && burstAddr (s.tun 0).loadSrc.toNat y.1 / 64 * 64 == l) = none)
    ∧ (linesOf 0 144).find? (fun l => g.poisonedAt l
        || [(2, EccOutcome.uncorrectable)].any fun y => eccBad y.2 && burstAddr 0 y.1 / 64 * 64 == l) = some 64
    ∧ ((g.checkProgram 0 (g.hbmBlob 0 144) 144).isRight = true)
    ∧ (loadsImage []).checkProgram 0 ((loadsImage []).hbmBlob 0 144) 144 = .inl (1, 0) := by decide +kernel

/-- Bindings of tun 0: queue 48 reads stream 9, queue 49 feeds queue 50 of tun 1. -/
def bound : Tab (Tab Byte) := [(secPartition, at_ (partRec 0 + 8) ([1, 0, 0, 0, 9] ++ zeros 11 ++ [4, 0, 0, 0, 1, 0, 50]))]
/-- Queue 49 of tun 0 feeds queue 50 of tun 48, in the next kettle. -/
def ringed : Tab (Tab Byte) := [(secPartition, at_ (partRec 0 + 8 + 16) [4, 0, 0, 0, 48, 0, 50])]
theorem witness_portQueues :
    let s := { armed bound with tuns := [(0, { queues := [(48, { far := [(7, .good)] }), (49, { near := [8] })] })] }
    let c := { armed bound with crossings := [(1, [⟨8, 0, .good⟩])] }
    let o := { armed ringed with crossings := [(1, [⟨8, 0, .good⟩])], tuns := [(48, { phase := .running })] }
    (s.tunActs 0 = true ∧ (s.binding 0 48).flagEn = false ∧ (s.binding 0 48).kind = 1
      ∧ ((s.tun 0).queue 48).far = [(7, .good)]
      ∧ ((s.tun 0).queue 48).near.length < 32 ∧ (s.stream (kettleOf 0 * 256 + (s.binding 0 48).far % 256)).store = []
      ∧ (s.binding 0 48).result = false)
    ∧ ((s.binding 0 49).flagEn = false ∧ (s.binding 0 49).kind = 4 ∧ (s.binding 0 49).result = false
      ∧ ((s.tun 0).queue 49).near = [8] ∧ (s.binding 0 49).far % 65536 = 1 ∧ bitsOf (s.binding 0 49).far 23 16 = 50
      ∧ (Tab.get [] s.crossings 1).length < 16
      ∧ (Tab.get [] s.crossings 1).length + ((s.tun 1).queue 50).near.length < 32)
    ∧ (Tab.get [] c.crossings 1 = [⟨8, 0, .good⟩] ∧ c.crossingTo 1 = (1, 50) ∧ c.overRing 1 = false ∧ c.tunActs 1 = true
      ∧ (c.binding 1 50).flagEn = false)
    ∧ (Tab.get [] o.crossings 1 = [⟨8, 0, .good⟩] ∧ o.crossingTo 1 = (48, 50) ∧ o.overRing 1 = true ∧ o.tunActs 48 = true
      ∧ (o.binding 48 50).flagEn = false ∧ (o.tun 48).phase = .running) := by decide +kernel
/-- The stream that tun 0's queue 48 reads keeps the table of chapter 7 and has one user. -/
theorem witness_launchStreams :
    let s := { armed bound with ctls := [(0, { phase := .ready, dms := [(72, 0x40), (73, 0xFFFF), (74, 1)] })], tuns := [(0, { phase := .armed })] }
    s.tunActs 0 = true ∧ (s.tun 0).phase = .armed ∧ s.grist.release = none ∧ s.grist.frozen = false ∧ ∀ b < 16, (bindingIn (s.sec_ secPartition) 0 b).kind = 1 ∨ (bindingIn (s.sec_ secPartition) 0 b).kind = 2 →
      s.descFault (s.streamWords (kettleOf 0 * 256 + (bindingIn (s.sec_ secPartition) 0 b).far % 256))
        ((bindingIn (s.sec_ secPartition) 0 b).kind == 2) = false
      ∧ s.streamUsers (kettleOf 0 * 256 + (bindingIn (s.sec_ secPartition) 0 b).far % 256) = 1 := by decide +kernel

/-- Flag 7 of tun 0 is tun 0's, flag 9 of tun 0 queue 5's, flag 8 of tun 5 tun 0's; tun 5's flag 6 is undeclared. -/
def owners : Tab (Tab Byte) := [(secFlags, [(8 + 4 * 7, 1), (8 + 4 * 9, 3), (10 + 4 * 9, 5), (8 + 4 * (256 * 5 + 8), 1)])]
def waitsFor (f n have_ : Nat) : Tun := { phase := .waiting, blocked := true, waitFlag := f, waitCount := n, flags := [(f, BitVec.ofNat 16 have_)] }
def waiting (u : Tun) (x : StreamQ) (w : Walk) : State := { armed owners with tuns := [(0, u)], sqs := [(5, x)], walks := [w] }
def walk0 (c : Option Nat) : Walk := ⟨.tun 0, [⟨.tun 0, 0, 9⟩], [2], c⟩
def queueWaits : StreamQ := { en := true, phase := .waiting, waitTun := 5, waitFlag := 8, waitCount := 1 }
theorem witness_flagsAndWaits :
    let r (n : Nat) : State := { armed owners with raises := [⟨5, 8, n, none⟩], tuns := [(5, { phase := .running, flags := [(8, 1)] })] }
    let z := { r 1 with power := { (r 1).power with kettles := [(0, .doze)] } }
    (up.alive = true ∧ z.alive = true ∧ z.raises = [⟨5, 8, 1, none⟩] ∧ z.tunActs 5 = false ∧ (r 65534).tunActs 5 = true
      ∧ ((r 65534).tun 5).flag 8 + 65534 ≤ 65535 ∧ 65535 < ((r 65535).tun 5).flag 8 + 65535
      ∧ ((r 65535).tun 5).excValid = false ∧ ((r 65535).tun 5).phase = .running) := by decide +kernel
theorem witness_waits :
    let s := waiting (waitsFor 9 2 2) queueWaits (walk0 none)
    let e := waiting (waitsFor 9 2 1) queueWaits (walk0 (some 0))
    let open_ := waiting (waitsFor 9 2 2) queueWaits (walk0 (some 0))
    let go := waiting {} { queueWaits with waitCount := 0 } (walk0 none)
    let own := waiting (waitsFor 7 2 1) {} ⟨.tun 0, [⟨.tun 0, 0, 7⟩], [2], none⟩
    let back := waiting (waitsFor 9 2 1) queueWaits ⟨.tun 0, [⟨.tun 0, 0, 9⟩, ⟨.queue 5, 5, 8⟩], [2, 1], none⟩
    let free := waiting (waitsFor 6 2 1) {} ⟨.tun 0, [⟨.tun 0, 5, 6⟩], [2], none⟩
    let idle := waiting (waitsFor 9 2 1) {} (walk0 none)
    (s.waitOf (.tun 0) = some (0, 9, 2) ∧ 2 ≤ (s.tun 0).flag 9)
    ∧ (e.waitOf (.tun 0) = some (0, 9, 2) ∧ (e.tun 0).flag 9 < 2 ∧ e.waitOf (.queue 5) = some (5, 8, 1) ∧ (e.tun 5).flag 8 < 1)
    ∧ (∀ w ∈ s.walks ++ back.walks ++ free.walks ++ idle.walks, w.path.getLast?.isSome = true ∧ w.path.length < 16)
    ∧ (go.waitOf (.queue 5) = some (5, 8, 0) ∧ 0 ≤ (go.tun 5).flag 8 ∧ (go.sq 5).stopping = none)
    ∧ (free.openWalk (.tun 0) = some ⟨.tun 0, [⟨.tun 0, 5, 6⟩], [2], none⟩ ∧ free.ownerAgent 5 6 = none)
    ∧ (back.openWalk (.tun 0) = some ⟨.tun 0, [⟨.tun 0, 0, 9⟩, ⟨.queue 5, 5, 8⟩], [2, 1], none⟩
      ∧ back.ownerAgent 5 8 = some (.tun 0))
    ∧ (s.openWalk (.tun 0) = some (walk0 none) ∧ s.ownerAgent 0 9 = some (.queue 5) ∧ s.waitOf (.queue 5) = some (5, 8, 1))
    ∧ (idle.openWalk (.tun 0) = some (walk0 none) ∧ idle.ownerAgent 0 9 = some (.queue 5) ∧ idle.waitOf (.queue 5) = none)
    ∧ (e.walks = [walk0 (some 0)] ∧ (walk0 (some 0)).tuns = [0] ∧ e.stillCycle (walk0 (some 0)) = true
      ∧ open_.walks = [walk0 (some 0)] ∧ open_.stillCycle (walk0 (some 0)) = false) ∧ own.ownerAgent 0 7 = some (.tun 0) := by decide +kernel

def gr (f : GristSt → GristSt) : State := { ready with grist := f ready.grist }
def inPhase (p : GristPhase) : State := gr fun g => { g with phase := p }
/-- MODE is staged as it is in force. -/
def sameMode : Tab Word := [(0x100004, 0)]
theorem witness_gristCommands :
    let stage (src len : Nat) := gr fun g => { g with src := BitVec.ofNat 64 src, len := word len }
    let arm (now at_ : Nat) (q : Bool) : State := State.modTime (gr fun g =>
      { g with phase := .pass, quiet := q, passAt := 0, pitchAt := BitVec.ofNat 64 at_, rwp := if q then [] else sameMode }) fun t => { t with ftc := now }
    (∀ p ∈ [GristPhase.empty, .loading, .staged, .checking, .pass, .fail, .armed, .voted, .pitched, .aborted, .uncertain],
      (inPhase p).mayWrite .a 0x10000 = true ∧ (inPhase p).isFatal = false ∧ (inPhase p).grist.phase = p)
    ∧ (∀ n ∈ [256, 2 ^ 26], (stage 256 n).grist.src.toNat % 256 = 0 ∧ 256 ≤ (stage 256 n).grist.len.toNat
      ∧ (stage 256 n).grist.len.toNat ≤ 2 ^ 26 ∧ (stage 256 n).grist.len.toNat % 8 = 0
      ∧ (stage 256 n).grist.src.toNat + (stage 256 n).grist.len.toNat ≤ hbmTop)
    ∧ (stage 128 256).grist.src.toNat % 256 ≠ 0
    ∧ (∀ q ∈ [false, true], (arm 0 400000 q).proving = false ∧ ((arm 0 400000 q).grist.quiet = true
        ∨ Tab.get (word ((arm 0 400000 q).hbmMode.toNat % 2)) (arm 0 400000 q).grist.rwp 0x100004 = word ((arm 0 400000 q).hbmMode.toNat % 2)))
    ∧ (arm 0 399999 true).grist.pitchAt.toNat < (arm 0 399999 true).grist.passAt + 400000
    ∧ ((arm 320001 400000 true).grist.passAt + 400000 ≤ (arm 320001 400000 true).grist.pitchAt.toNat
      ∧ (arm 320001 400000 true).grist.pitchAt.toNat < (arm 320001 400000 true).time.ftc + 80000)
    ∧ (arm 320000 400000 true).time.ftc + 80000 ≤ (arm 320000 400000 true).grist.pitchAt.toNat := by decide +kernel
theorem witness_armNeedsItsLead : (inPhase .checking).alive = true ∧ (inPhase .checking).grist.phase = .checking := by decide +kernel
theorem witness_gristWrites :
    let pass := (inPhase .pass).modPort .a fun x => { x with hold := [(0x10018, some 5)] }
    (up.mayWrite .a 0x10018 = true ∧ up.grist.phase ≠ .pass ∧ pass.mayWrite .a 0x10018 = true ∧ pass.grist.phase = .pass
      ∧ Tab.get none (pass.port .a).hold 0x10018 = some 5)
    ∧ (∀ p ∈ [GristPhase.empty, .staged, .pass, .fail, .pitched, .aborted, .loading, .checking, .armed, .voted, .uncertain],
      (inPhase p).mayWrite .a 0x100004 = true) ∧ bitOf (1 : Word).toNat 30 = false
    ∧ ((inPhase .armed).grist.voteSent = false ∧ (inPhase .voted).grist.voteSent = false ∧ (gr fun g => { g with phase := .voted, voteSent := true }).grist.voteSent = true) := by
  decide +kernel

/-- A delta image of one ORDINAL section with one job ordinal, good under `idKey` (R27, R28, R42). -/
def delta : List Byte :=
  leBytes 4 0x54535247 ++ leBytes 2 3 ++ leBytes 2 1 ++ leBytes 4 280 ++ leBytes 4 0x09600200 ++ leBytes 8 1
    ++ sha512 [] ++ sha512 (leBytes 2 8 ++ leBytes 2 1 ++ leBytes 4 16 ++ leBytes 16 1) ++ idSig ++ leBytes 8 (shaTag idKey) ++ zeros 32
    ++ (leBytes 2 8 ++ leBytes 2 1 ++ leBytes 4 16 ++ leBytes 16 1)
def staging (owner : List Byte) (bs : List Byte) : State := { ready with
  sec := { owner := owner }, grist := { ready.grist with phase := .loading, active := true, image := Blob.ofList bs } }
theorem witness_stageComplete : (staging idKey delta).alive = true ∧ (staging idKey delta).grist.phase = .loading
    ∧ (staging idKey delta).hbmReady (staging idKey delta).grist.src.toNat (staging idKey delta).grist.image.len = true
    ∧ ((staging idKey delta).stageChecks (staging idKey delta).grist.image (staging idKey delta).grist.image.len
        ((staging idKey delta).grist.imageBad || (firstBad [] (staging idKey delta).grist.src.toNat
          (staging idKey delta).grist.image.len).isSome)).isRight = true
    ∧ (staging [] delta).stageChecks (staging [] delta).grist.image (staging [] delta).grist.image.len false = .inl (4, 0)
    ∧ (inPhase .checking).alive = true := by decide +kernel

/-- A block of one node, node 0, which is its own root (R31). -/
def alone : Tab (Tab Byte) := [(secIdent, [(0x0E, 1), (0x10, 1), (0x12, 1)])]
def member (node : Nat) (f : GristSt → GristSt) : State := { armed alone with
  disc := { node := some node }, grist := f { grist alone with phase := .armed, pitchAt := 50000 } }
def voteOf (op : Byte) (flag : Byte) : InFrame := inbox op 0x7000 0 ([0, flag, 0, 0, 0, 0, 0, 0] ++ leBytes 8 50000 ++ zeros 16)
theorem witness_vote :
    let c (f : Byte) (n : Nat) : State := hears (member n id) (voteOf 0x20 f)
    let all : State := { member 0 fun g => { g with parts := [⟨0, true, 3⟩], partsP := 50000 } with
      lauters := [(0, { run := some { vote := true } })] }
    let odd := inbox 0x20 0x7000 0 ([2] ++ zeros 31)
    (∀ e ∈ ([(0, 1), (1, 0), (0, 0)] : List (Byte × Nat)), (c e.1 e.2).alive = true
      ∧ (c e.1 e.2).inboxFor 5 [0x20] = some (voteOf 0x20 e.1) ∧ byteAt (voteOf 0x20 e.1).payload 0 = 0
      ∧ (voteOf 0x20 e.1).verdict = 0 ∧ (c e.1 e.2).grist.decided = false ∧ (c e.1 e.2).grist.parts = [])
    ∧ ((c 0 1).isRoot = false ∧ byteAt (voteOf 0x20 1).payload 1 = 1 ∧ (c 0 0).isRoot = true
      ∧ (voteOf 0x20 0).hdr.src.toNat ∈ (c 0 0).voteGroup ∧ byteAt (voteOf 0x20 0).payload 1 ≠ 1)
    ∧ ((hears (member 0 id) odd).inboxFor 5 [0x20] = some odd ∧ 2 ≤ byteAt odd.payload 0)
    ∧ (all.alive = true ∧ all.voteReady = true ∧ (all.lauter 0).run = some { vote := true }
      ∧ all.time.ftc + 40000 ≤ all.grist.partsP)
    ∧ ((member 0 id).isRoot = true ∧ (member 0 id).grist.phase = .armed ∧ (member 0 id).grist.parts = []
      ∧ 40000 ≤ (member 0 id).grist.pitchAt.toNat)
    ∧ ((hears (member 0 id) (voteOf 0x21 1)).inboxFor 5 [0x21] = some (voteOf 0x21 1)
      ∧ natAt (voteOf 0x21 1).payload 8 8 = (hears (member 0 id) (voteOf 0x21 1)).grist.pitchAt.toNat) := by decide +kernel
theorem witness_pitch :
    let h (r : Option (Bool × Nat × Nat)) := member 0 fun g => { g with phase := .voted, held := r }
    let q := member 0 fun g => { g with frozen := true }
    (q.alive = true ∧ q.grist.phase = .armed ∧ q.grist.frozen = true ∧ q.grist.voteSent = false ∧ q.quiescent = true)
    ∧ ((h (some (true, 10000, 0))).grist.phase = .voted ∧ 10000 + 40000 ≤ (h (some (true, 10000, 0))).grist.pitchAt.toNat
      ∧ (h (some (true, 10001, 0))).grist.pitchAt.toNat < 10001 + 40000)
    ∧ ((h (some (false, 1, 3))).grist.held = some (false, 1, 3) ∧ (h none).grist.held = none)
    ∧ (member 0 fun g => { g with release := some 9 }).grist.release = some 9 := by decide +kernel

theorem witness_hbmServices :
    let high := ready.modPort .a fun x => { x with winBase := 0x17FC0000000 }
    let doze := ready.modPower fun p => { p with kettles := [(0, .doze)] }
    let w := inbox 0x04 0x4000 128 (zeros 64)
    let r := inbox 0x02 0x4000 64 (leBytes 4 4096 ++ zeros 4)
    let p (s : State) (off : Nat) : PostedWrite := ⟨(s.port .a).winBase.toNat + off, zeros 128, []⟩
    let train := { ready with ctls := [] }
    let behind := train.modPort .a fun x => { x with posted := [p train 0] }
    (ready.portServes .a = true ∧ ready.power.warm = false ∧ ready.windowAwake 0 64 = true ∧ ready.hbmReady 0 64 = true
      ∧ 64 ≤ (ready.port .a).bar4Size ∧ (ready.port .a).bar4Size < 0x1000000000 - 63 + 64)
    ∧ (∀ s ∈ [ready, high, doze, train, behind], s.on = true ∧ (s.port .a).linkUp = true ∧ (s.port .a).inReset = false
      ∧ (s.port .a).pci.d3hot = false ∧ s.power.warm = false ∧ 0x3FFFFFC0 + (zeros 128).length ≤ (s.port .a).bar4Size)
    ∧ ((ready.port .a).posted = [] ∧ ready.windowWaits (p ready 0) = false ∧ (high.port .a).posted = []
      ∧ high.windowWaits (p high 0x3FFFFFC0) = false ∧ (doze.port .a).posted = [] ∧ doze.windowWaits (p doze 0) = false
      ∧ (train.port .a).posted = [] ∧ train.windowWaits (p train 0) = true ∧ (behind.port .a).posted = [p train 0]
      ∧ behind.windowWaits (p train 0) = true)
    ∧ (high.portServes .a = true ∧ hbmTop < (high.port .a).winBase.toNat + 0x3FFFFFC0 + 128)
    ∧ (doze.portServes .a = true ∧ (doze.port .a).winBase.toNat + 0 + 64 ≤ hbmTop ∧ doze.windowAwake 0 64 = false)
    ∧ ((hears ready w).inboxFor 5 [0x04] = some w ∧ (hears ready w).serviceActs w.hdr = true ∧ (hears ready w).accessTurn w = true
      ∧ (hears ready w).hbmReady w.hdr.opx.toNat w.payload.length = true)
    ∧ (let b := { w with verdict := 2 }
       (hears ready b).inboxFor 5 [0x04] = some b ∧ (hears ready b).serviceActs b.hdr = true ∧ (hears ready b).accessTurn b = true
       ∧ (hears ready b).hbmReady b.hdr.opx.toNat b.payload.length = true ∧ b.verdict ≠ 0
       ∧ (∃ l ∈ linesOf b.hdr.opx.toNat b.payload.length, l < hbmTop)
       ∧ ∃ l ∈ linesOf w.hdr.opx.toNat w.payload.length, w.hdr.opx.toNat ≤ l ∧ l + 64 ≤ w.hdr.opx.toNat + w.payload.length)
    ∧ ((hears ready r).inboxFor 5 [0x02] = some r ∧ (hears ready r).serviceActs r.hdr = true ∧ (hears ready r).accessTurn r = true ∧ r.verdict = 0
      ∧ natAt r.payload 0 4 = 4096 ∧ (hears ready r).hbmReady 64 4096 = true ∧ (hears ready r).anyPoison 64 4096 = false)
    ∧ (ready.alive = true ∧ (ready.ctl (15 : Fin 16)).phase = .ready ∧ ready.asleep ((15 : Fin 16).val / 4) = false
      ∧ ready.repro = false ∧ ready.tunActs (191 : Fin 192) = true ∧ (ready.tun 191).spargeAt < tunEntries
      ∧ { ready with grist := grist [(secTiming, at_ 0 [1])] }.repro = true)
    ∧ ((ready.ctl 0).progress + 1 < stackLines
      ∧ stackLines ≤ (({ ready with ctls := [(0, { phase := .ready, progress := stackLines - 1 })] } : State).ctl 0).progress + 1) := by
  decide +kernel

/-- Descriptor words of a plain stream of four entries (R146): local, or on node 1. -/
def plain (node : Nat) : List Word := [0x40, word node, 4, 0, 0, 64, 0, 0]
/-- Stream 9 of kettle 0, bound to queue 48 of tun 0. -/
def stream9 (st : Stream) (far : List (Entry × Taint)) (near : List Entry) : State := { armed bound with
  ctls := ready.ctls, streams := [(9, { st with queue := 48 })], tuns := [(0, { queues := [(48, { far := far, near := near })] })] }
def reading : Stream := { words := plain 0xFFFF, active := true }
def issuedRead : StreamRead := { nth := 0, epoch := 0, addr := 0, bytes := 64 }
theorem witness_streamReads :
    let rem : Stream := { reading with words := plain 1, reserved := [(0, 6)] }
    let high : Stream := { reading with base := 0x18000000000 }
    let back : Stream := { reading with reads := [issuedRead] }
    let on (st : Stream) := stream9 st [] []
    let asked (st : Stream) : State := { on st with granary := { resv := [(6, { cells := 1, who := .stream 9, since := 0, len := 256 })] } }
    (∀ st ∈ [reading, rem, high, back], (on st).moverActs 9 = true ∧ (on st).stream 9 = { st with queue := 48 })
    ∧ (({ reading with queue := 48 } : Stream).nextRead ((on reading).readRoom 9) = some (0, 0, 64) ∧ reading.remote = none
      ∧ beyondHbm 0 64 = false)
    ∧ (({ rem with queue := 48 } : Stream).nextRead ((on rem).readRoom 9) = some (0, 0, 256) ∧ rem.remote = some 1
      ∧ ((asked rem).stream 9).reserved = [(0, 6)] ∧ ((asked rem).resv 6).isSome = true)
    ∧ (({ high with queue := 48 } : Stream).nextRead ((on high).readRoom 9) = some (0, (hbmTop : Int), 64)
      ∧ beyondHbm (hbmTop : Int) 64 = true
      ∧ ({ on high with tuns := [(0, { phase := .running })] }.tun 0).phase = .running)
    ∧ (back.reads.find? (fun r => r.tag.isNone) = some issuedRead ∧ issuedRead.cut = false
      ∧ (on back).hbmReady issuedRead.addr issuedRead.bytes = true ∧ back.active = true ∧ ({ back with active := false } : Stream).active = false
      ∧ issuedRead.epoch = back.epoch ∧ back.form = 0 ∧ back.early = [] ∧ back.part = [] ∧ back.partBad = .good
      ∧ issuedRead.nth = back.arrived
      ∧ kettleOf 0 * 256 + ((on back).binding 0 48).far % 256 = 9)
    ∧ (let fresh : Stream := { rem with reserved := [] }
       let s : State := { on fresh with grist := up.grist }
       s.moverActs 9 = true ∧ ({ fresh with queue := 48 } : Stream).nextRead (s.readRoom 9) = some (0, 0, 256)
       ∧ fresh.remote = some 1 ∧ (s.granaryTurn (15 + 2 * (9 / 256))).freeTag = some 0
       ∧ (s.granaryTurn (15 + 2 * (9 / 256))).admitTest ownReply 0 (cellsOf 256) = .yes) := by decide +kernel
/-- A whole tile of zeros before the data mover. -/
def tile64 : List (Entry × Taint) := List.replicate 64 (0, .good)
theorem witness_streamReplies :
    let r : StreamRead := { issuedRead with tag := some 6 }
    let st : Stream := { reading with words := plain 1, reads := [r] }
    let x := inbox 0x03 0x4009 6 (zeros 64)
    let w : Stream := { reading with write := true }
    let ringW : Stream := { w with base := 0x8000000000 }
    let tiles : Stream := { w with words := 0x44 :: (plain 0xFFFF).drop 1 }
    ((hears (stream9 st [] []) x).inboxFor 5 [0x03] = some x ∧ x.hdr.epIdx = 9 ∧ 6 = x.hdr.opx.toNat % 65536
      ∧ st.reads.find? (fun r => r.tag == some 6) = some r ∧ st.active = true ∧ r.epoch = st.epoch
      ∧ x.hdr.epoch.toNat = st.epoch % 256 ∧ st.form = 0 ∧ st.early = [] ∧ st.part = [] ∧ st.partBad = .good ∧ r.nth = st.arrived
      ∧ (hears (stream9 st [] []) x).moverActs 9 = true)
    ∧ ((stream9 w [] [7]).moverActs 9 = true ∧ w.active = true ∧ w.write = true ∧ w.form = 0
      ∧ ((stream9 w [] [7]).tun 0).queue 48 = { near := [7] }
      ∧ w.entryAddr w.moved = 0 ∧ beyondHbm 0 64 = false ∧ (stream9 w [] [7]).hbmReady 0 64 = true)
    ∧ ((stream9 ringW [] [7]).moverRing 9 0x8000000000 = true ∧ ringW.entryAddr ringW.moved = 0x8000000000)
    ∧ ((stream9 tiles tile64 []).moverActs 9 = true ∧ tiles.active = true ∧ tiles.write = true ∧ tiles.form = 1
      ∧ tiles.tileAt = 0 ∧ 64 ≤ (((stream9 tiles tile64 []).tun 0).queue 48).far.length) := by decide +kernel
/-- Whatever the tile holds, its encoding fits the space from address 0, and the controllers are ready for it. -/
theorem witness_tileFits (st : Stream) (tile : List Byte) :
    let c := encodeTile 1 0 tile
    0 + (leBytes 8 c.1 ++ padTo8 c.2).length ≤ hbmTop
    ∧ (stream9 st tile64 []).hbmReady 0 (leBytes 8 c.1 ++ padTo8 c.2).length = true := by
  have key : ∀ (n : Nat) (p : List Byte), (if n ≤ p.length then fit n tile else p).length ≤ n := by
    intro n p
    split
    · simp only [fit, zeros, List.length_append, List.length_take, List.length_replicate]; omega
    · omega
  have h : (encodeTile 1 0 tile).2.length ≤ 4096 := by
    simp only [encodeTile]
    generalize 4096 = n
    exact key n _
  have len : ∀ p : List Byte, (padTo8 p).length = ceilDiv p.length 8 * 8 := by
    intro p
    simp only [padTo8, fit, zeros, ceilDiv, List.length_append, List.length_take, List.length_replicate]; omega
  refine ⟨?_, ready_any _ _⟩
  rw [List.length_append, length_leBytes, len]
  generalize (encodeTile 1 0 tile).2.length = n at h
  simp only [ceilDiv, hbmTop]; omega

/-- Queue 51 of tun 0 sends to queue 52 of tun 0 over the Maltings (R61, R178). -/
def far : Tab (Tab Byte) := [(secPartition, at_ (partRec 0 + 8 + 48) ([6, 0, 0, 0, 0, 0, 4] ++ zeros 9 ++ [5]))]
theorem witness_maltingsBindings :
    let s := { armed far with tuns := [(0, { queues := [(51, { near := [7] })] })] }
    let x := inbox 0x01 4 0 (zeros 128)
    let late : InFrame := { x with hdr := { x.hdr with seq := 1 } }
    let q := inbox 0x01 0x2001 0 (zeros 64)
    let o : SqOp := { opOf 4 64 with posted := true, started := true }
    let rx := hears (queueAs { running with ops := [o] }) q
    (s.tunActs 0 = true ∧ s.moverActs 0 = true ∧ (s.binding 0 51).kind = 6 ∧ bitsOf (s.binding 0 51).far 31 16 / 4096 ≠ 1
      ∧ s.bindForm 0 (s.binding 0 51) = 0 ∧ s.bindingBusy 0 51 = false
      ∧ ((((s.tun 0).queue 51).far.map (·.1)) ++ (if s.bindForm 0 (s.binding 0 51) = 0 then ((s.tun 0).queue 51).near else [])).take 64
        ≠ [])
    ∧ (∀ y ∈ [x, late], (hears s y).moverActs 0 = true ∧ (hears s y).inboxFor 5 [0x01] = some y ∧ y.hdr.epKind = 0
      ∧ y.hdr.epIdx / 16 = 0 ∧ 48 + y.hdr.epIdx % 16 = 52 ∧ (hears s y).asleep (kettleOf 0) = false
      ∧ (hears s y).bindForm 0 ((hears s y).binding 0 52) = 0
      ∧ (((hears s y).tun 0).queue 52).near.length + (((hears s y).tun 0).queue 52).far.length + y.payload.length / 64 ≤ 64
      ∧ y.verdict = 0 ∧ y.hdr.cmp = false)
    ∧ (x.hdr.seq.toNat = Tab.get 0 (s.tun 0).seqIn 4 ∧ late.hdr.seq.toNat ≠ Tab.get 0 (s.tun 0).seqIn 4)
    ∧ (rx.moverActs 0 = true ∧ rx.inboxFor 5 [0x01] = some q ∧ q.hdr.epKind = 2 ∧ q.hdr.seq.toNat = (rx.sq q.hdr.epIdx).seqIn
      ∧ (rx.sq q.hdr.epIdx).recvOp = some o ∧ (rx.sq q.hdr.epIdx).port = some .a) := by decide +kernel
/-- The same with FORM 1: queue 51 sends and queue 52 takes compressed tiles (R133, R178). -/
def farTiles : Tab (Tab Byte) := [(secPartition,
  at_ (partRec 0 + 8 + 48) ([6, 0, 0, 0, 0, 0, 4] ++ zeros 3 ++ [0x0D] ++ zeros 5 ++ [5] ++ zeros 9 ++ [0x0D]))]
theorem witness_compressedBindings :
    let s := { armed farTiles with tuns := [(0, { queues := [(51, { far := List.replicate 64 (7, .good) })] })] }
    let h := inbox 0x01 4 (8 * 2 ^ 16 + 0x61) (List.replicate 8 0x7F)
    let x : InFrame := { h with hdr := { h.hdr with flags := 2 } }
    (s.tunActs 0 = true ∧ (s.binding 0 51).kind = 6 ∧ bitsOf (s.binding 0 51).far 31 16 / 4096 ≠ 1
      ∧ s.bindForm 0 (s.binding 0 51) = 1 ∧ s.bindingBusy 0 51 = false
      ∧ ((((s.tun 0).queue 51).far.map (·.1)).take 64).length = 64)
    ∧ ((hears s x).moverActs 0 = true ∧ (hears s x).inboxFor 5 [0x01] = some x ∧ x.hdr.epKind = 0 ∧ x.hdr.epIdx / 16 = 0
      ∧ 48 + x.hdr.epIdx % 16 = 52 ∧ (hears s x).asleep (kettleOf 0) = false
      ∧ (hears s x).bindForm 0 ((hears s x).binding 0 52) = 1 ∧ (((hears s x).tun 0).queue 52).far = []
      ∧ x.hdr.seq.toNat = Tab.get 0 (s.tun 0).seqIn 4 ∧ x.verdict = 0 ∧ x.hdr.cmp = true
      ∧ (decodeTile 1 (bitsOf ((hears s x).binding 0 52).param 19 18) x.hdr.opx.toNat x.payload).isSome = true) := by decide +kernel

def cjOn (j : Journal) : State := { ready with journal := { j with cfg := 0xFFFF8010#32 } }
def copied : InFrame := { inbox 0x04 0x4000 0 (zeros 64) with port := 29 }
def mirrorOf (n : Nat) : InFrame :=
  { inbox 0x40 0x5000 0 (zeros 64) with hdr := { op := 0x40, endpoint := 0x5000, seq := BitVec.ofNat 32 n } }
def ackOf (v : Nat) : InFrame := { inbox 0x41 0x5000 3 [] with verdict := v }
def unmirrored : Journal := { entries := [⟨3, 0, 0, 4096, false⟩], unacked := [3] }
theorem witness_journal :
    (up.journalOn = false ∧ (cjOn {}).journalOn = true ∧ (hears (cjOn {}) copied).ringReady = true ∧ (hears (cjOn {}) copied).alive = true
      ∧ (hears (cjOn {}) copied).core.inbox.find? (fun x => x.id == 5 && x.journalCopy) = some copied
      ∧ (∀ y ∈ (hears (cjOn {}) copied).core.inbox, y.copyBefore copied = false)
      ∧ (hears up copied).core.inbox.find? (fun x => x.id == 5 && x.journalCopy) = some copied ∧ (hears up copied).journalOn = false
      ∧ 0 < copied.payload.length ∧ copied.payload.length < 1048576 ∧ (cjOn {}).journal.openE = [])
    ∧ (∀ n ∈ [0, 1], (hears ready (mirrorOf n)).inboxFor 5 [0x40] = some (mirrorOf n) ∧ (mirrorOf n).verdict = 0
      ∧ (mirrorOf n).hdr.seq.toNat = n) := by decide +kernel
/-- The mirror's region, whose base no file gives, is ready wherever it lies. -/
theorem witness_mirrorReady (n a : Nat) : (hears ready (mirrorOf n)).isFatal = false
    ∧ (hears ready (mirrorOf n)).regionReady (Config.mirrorBase + a) 4096 = true
    ∧ (hears ready (mirrorOf n)).hbmReady (Config.mirrorBase + a) 64 = true := ⟨rfl, ready_region _ _, ready_any _ _⟩
theorem witness_journalAck :
    (∀ v ∈ [0, 2], (hears (cjOn unmirrored) (ackOf v)).inboxFor 5 [0x41] = some (ackOf v) ∧ (ackOf v).verdict = v)
    ∧ (hears (cjOn unmirrored) (ackOf 0)).journal.entries.any (fun e => e.seq == (ackOf 0).hdr.opx.toNat && !e.mirrored) = true := by
  decide +kernel
theorem witness_journalWrites :
    let held (o : Nat) := up.modPort .a fun x => { x with hold := [(o, some 7)] }
    let smp := { ready with core := { ready.core with samples := [zeros 64] } }
    let on := { up with core := { up.core with sampCfg := 0x800A0001#32 } }
    (∀ o ∈ [0x330010, 0x330018], (held o).mayWrite .a o = true ∧ Tab.get none ((held o).port .a).hold o = some 7)
    ∧ (BitVec.ofNat 64 ((0 : Word).toNat * 2 ^ 32 + (7 : Word).toNat) ≠ up.journal.step ∧ up.journalOn = false
      ∧ (cjOn {}).journalOn = true ∧ (cjOn {}).journal.step = up.journal.step)
    ∧ (smp.alive = true ∧ smp.core.samples = [zeros 64]
      ∧ smp.hbmReady (smp.core.sampBase.toNat + 64 * smp.core.sampWp) 64 = true)
    ∧ (up.isFatal = false ∧ (faulted 1768 none).mayWrite .a 0x330010 = true ∧ (up.modFault fun f => { f with fatal := some ⟨1768, 4, 0, false, 4⟩ }).isFatal = true)
    ∧ (up.mayWrite .a 0x321000 = true ∧ bitOf (0x80000000 : Word).toNat 31 = true ∧ bitOf up.core.sampCfg.toNat 31 = false
      ∧ bitOf on.core.sampCfg.toNat 31 = true) := by decide +kernel

/-- A vote frame to node `d`, its header checked (R162, R165). -/
def voteHdr (d : Half) : Header :=
  Header.sealed { dest := d, endpoint := 0x7000, cls := 3, vc := 10, op := 0x20, length := 32 }
def srcFrame (h : Header) : SrcFrame := { port := 28, hdr := h, payload := zeros 32 }
def node0 (c : Core) : State := { armed alone with disc := { node := some 0, coord := some (0, 0, 0), ring := (4, 4, 4) }, core := c }
def inCore (f : Frame → Frame) : Frame :=
  f { id := 7, port := 28, hdr := voteHdr 0, payload := zeros 32, cells := 1, owner := 120 }
def holding (f : Frame) : State := node0 { frames := [f] }
def copyTo (e : Nat) : Copy := { egress := e, isLocal := true, hdr := voteHdr 0 }
theorem witness_ingress :
    let s (h : Header) := node0 { inject := [(28, [srcFrame h])] }
    (∀ h ∈ [voteHdr 0, { voteHdr 0 with hchk := 0 }], (s h).alive = true ∧ Tab.get [] (s h).core.inject 28 = [srcFrame h]
      ∧ (s h).stagingFree 28 h.vc.toNat = true
      ∧ [srcFrame h].findIdx? (fun f => (s h).stagingFree 28 f.hdr.vc.toNat) = some 0)
    ∧ (s (voteHdr 0)).ingressCause 28 (voteHdr 0) = none
    ∧ (s (voteHdr 0)).ingressCause 28 { voteHdr 0 with hchk := 0 } = some 1 := by decide +kernel
theorem witness_linkIngress :
    let r (h : Header) : RxFrame := { bytes := h.bytes ++ zeros 40, ended := true }
    let s (v : Nat) (h : Header) : State :=
      { node0 {} with links := [(0, { phase := .up, version := v, trained := 0xFFFF, rx := [(10, [r h])] })] }
    (∀ h ∈ [voteHdr 0, { voteHdr 0 with hchk := 0 }], (s 3 h).rxReady 0 = [(10, r h)] ∧ headerOf ((r h).bytes.take 32) = h)
    ∧ (s 2 (voteHdr 0)).rxReady 0 = [(10, r (voteHdr 0))]
    ∧ (s 3 (voteHdr 0)).linkCause 0 (voteHdr 0) = none
    ∧ ((s 3 (voteHdr 0)).linkCause 0 { voteHdr 0 with hchk := 0 }).isSome = true := by decide +kernel
theorem witness_lookup :
    let f := inCore id
    let g := inCore fun f => { f with hdr := voteHdr 1 }
    let b := inCore fun f => { f with bad := some 1 }
    (∀ x ∈ [f, g, b], (holding x).frame? 7 = some x ∧ x.looked = false ∧ x.owner < 256 ∧ x.copies = [] ∧ x.binding = none
      ∧ (∀ y ∈ (holding x).core.frames, y.before x = true → y.looked = true))
    ∧ (f.bad = none ∧ g.bad = none ∧ b.bad = some 1)
    ∧ ((holding f).isLocal f.hdr = true ∧ f.hdr.epKind ≠ 15 ∧ (holding f).journaled f.hdr = false)
    ∧ ((holding g).isLocal g.hdr = false ∧ ((holding g).routeRemote g.port g.hdr).isSome = true) := by decide +kernel
theorem witness_admission :
    let f := inCore id
    let t := inCore fun f => { f with tag := some 6 }
    let w := inCore fun f => { f with cells := 65 }
    let free : State := { holding f with grist := up.grist }
    let full : State := { holding w with granary := { phys := 524288, used := [(120, 524288)] } }
    (∀ x ∈ [f, t, w], x.admitted = false ∧ x.bad = none ∧ x.binding = none)
    ∧ ((holding t).frame? 7 = some t ∧ (holding t).recvWaits t = false ∧ t.tag.isSome = true)
    ∧ (free.frame? 7 = some f ∧ free.recvWaits f = false ∧ f.tag = none
      ∧ (free.granaryTurn (1 + f.port)).admitTest f.owner f.hdr.vc.toNat f.cells = .yes)
    ∧ (full.frame? 7 = some w ∧ full.recvWaits w = false ∧ w.tag = none
      ∧ (full.granaryTurn (1 + w.port)).admitTest w.owner w.hdr.vc.toNat w.cells = .wait) := by decide +kernel
theorem witness_tail :
    let a (v : Byte) (ok : Bool) := inCore fun f => { f with looked := true, admitted := true, inTail := { verdict := v }, crcOk := ok }
    let rel (n : Nat) := inCore fun f => { f with looked := true, refs := n, copies := [{ copyTo 28 with finished := true }], admitted := true }
    (∀ x ∈ [a 0 true, a 0 false, a 2 true], (holding x).frame? 7 = some x ∧ x.tailSeen = false ∧ x.looked = true
      ∧ x.admitted = true ∧ x.ended = true ∧ x.cutOff = false ∧ x.short = false ∧ x.long = false)
    ∧ (∀ n ∈ [1, 2], (holding (rel n)).frame? 7 = some (rel n) ∧ (rel n).looked = true ∧ (rel n).refs = n
      ∧ (rel n).copies.findIdx? (fun c => c.finished && !c.released) = some 0 ∧ (rel n).tag = none
      ∧ (rel n).admitted = true) := by decide +kernel
def hop : Desc := { frame := 7, copy := 0, cell := 0, inPort := 28, outPort := 28, vc := 10, seq := 0 }
theorem witness_fabric :
    let f := inCore fun f => { f with looked := true, admitted := true, refs := 1, copies := [{ copyTo 28 with cut := true }] }
    let s := holding f
    let mid := node0 { frames := [f], fifos := [(fifoKey 0 3 3, [hop])] }
    let rs := node0 { frames := [f], reseq := [(28, [hop])] }
    let q := node0 { frames := [{ f with tailSeen := true }], egress := [(28 * 12 + 10, [hop])], active := [(28, [10])] }
    ((oldest (0 : Fin 2) (fun o => (Tab.get [] s.core.fifos (fifoKey 0 28 o)).length < 16) [] (s.inputCopies 28)).isSome = true
      ∧ 28 = ((28 : Fin 32).val + max s.coreNow (Tab.get 0 s.core.hopNext (0 * 32 + 28)) + 16 * 0) % 32)
    ∧ (Tab.get [] mid.core.fifos (fifoKey 0 3 3) = [hop] ∧ hop.at_ ≤ max mid.coreNow (Tab.get 0 mid.core.hopNext (64 + 3))
      ∧ 3 = ((3 : Fin 32).val + 32 - max mid.coreNow (Tab.get 0 mid.core.hopNext (64 + 3)) % 32 + 16 * 0) % 32)
    ∧ (Tab.get [] rs.core.reseq 28 = [hop]
      ∧ (Tab.get [] rs.core.reseq 28).findIdx? (fun d => d.seq == Tab.get 0 rs.core.flowWant ((d.inPort * 32 + d.outPort) * 12 + d.vc)) = some 0)
    ∧ (let ql := { node0 { frames := [{ f with tailSeen := true, copies := [{ copyTo 0 with cut := true }] }]
                           egress := [(10, [{ hop with outPort := 0 }])], active := [(0, [10])] } with
                    links := [(0, { phase := .up, version := 3, trained := 1, lanes := [(0, { lock := true })], nbValid := true, nbOk := true
                                    freedFar := [(10, 1)] })] }
       ql.hasSlot 0 = true ∧ ql.egressSt 0 10 = .ready ∧ Tab.get [] ql.core.active 0 = [10]
       ∧ (ql.drr 0 1).2 = some 10 ∧ ql.egressHead 0 10 = some { hop with outPort := 0 })
    ∧ (q.hasSlot 28 = true ∧ Tab.get [] q.core.active 28 = [10] ∧ q.egressSt 28 10 = .ready ∧ q.egressQ 28 10 = [hop]
      ∧ q.drr 28 1 = (q, some 10) ∧ q.egressHead 28 10 = some hop) := by decide +kernel
/-- A class-3 bucket with level above 0 governs a held frame (R195). -/
theorem witness_buckets :
    let s := { armed [(secSched, [(0x180 + 8 * 259, 1)])] with
      disc := { node := some 0 }, core := { held := [{ srcFrame (voteHdr 0) with hdr := { voteHdr 0 with op := 0x12 } }] }
      granary := { level := [(259, 1)] } }
    (s.passIndex 259).isSome = true ∧ s.core.held[0]?.isSome = true := by decide +kernel

def linkAs (l : Link) : State := { up with links := [(0, l)] }
def lane1 (x : Lane) (p : LinkPhase) : Link := { phase := p, version := 3, trained := 1, lanes := [(0, x)] }
theorem witness_lanes :
    let l := lane1 { lock := true } .up
    let g (at_ now : Nat) : State := ticked (linkAs (lane1 { lostAt := some at_ } .up)) now
    ((linkAs l).link 0 = l ∧ (linkAs l).alive = true ∧ l.lit = true ∧ bitOf l.trained.toNat 0 = true ∧ (l.lane 0).lock = true)
    ∧ (∀ n ∈ [40000, 40001], (((g 0 n).link 0).lane 0).lostAt = some 0) ∧ (g 0 40000).now ≤ 0 + 40000
    ∧ 0 + 40000 < (g 0 40001).now := by decide +kernel
theorem witness_linkDown :
    let a : Link := { lane1 {} .up with trained := 3, lanes := [(0, { lostAt := some 9 }), (1, { lostAt := some 5 })] }
    let b := lane1 { lock := true, nakCnt := 5 } .hello
    let c := lane1 { lock := true, replay := [(0, [], 9)] } .isolated
    (a.lit = true ∧ (((a.trainedLanes.map a.lane).filterMap (·.lostAt)).min?).map (· + 40000) = some 40005)
    ∧ (b.lit = true ∧ (∃ i ∈ b.trainedLanes, 5 ≤ (b.lane i).nakCnt))
    ∧ (c.lit = true ∧ (((c.trainedLanes.map c.lane).filterMap (fun x => x.replay.head?.map (·.2.2))).min?).map (· + 100000)
      = some 100009) := by decide +kernel
theorem witness_training :
    let f := linkAs { phase := .failed }
    let t (tried : Bool) := linkAs { phase := .training, tried3 := tried }
    let o (n : Half) (r : Bool) : TrainOutcome := ⟨n, r⟩
    let late := ticked (t false) ((t false).litFrom 0 + 400000001)
    let off := linkAs { enable := false }
    (f.alive = true ∧ f.isFatal = false ∧ (f.link 0).phase = .failed ∧ (f.link 0).enable = true)
    ∧ (∀ e ∈ [(false, true, 3), (true, false, 2)], (t e.1).isFatal = false ∧ ((t e.1).link 0).phase = .training
      ∧ ((t e.1).link 0).enable = true ∧ (if (o 0xFF e.2.1).rate224 then 3 else 2) = e.2.2 ∧ (t e.1).attempts 0 = e.2.2
      ∧ (t e.1).alpHas e.2.2 = true ∧ ((t e.1).link 0).minLanes 0 ≤ countLanes (lanesOf 0 (o 0xFF e.2.1))
      ∧ (t e.1).now ≤ max ((t e.1).link 0).attemptAt ((t e.1).litFrom 0) + 400000000
      ∧ countLanes (lanesOf 0 (o 0x7F e.2.1)) < ((t e.1).link 0).minLanes 0)
    ∧ (late.attempts 0 = 3 ∧ max (late.link 0).attemptAt (late.litFrom 0) + 400000000 < late.now)
    ∧ ((linkAs (lane1 {} .hello)).isFatal = false ∧ (lane1 {} .hello).enable = true ∧ (lane1 {} .hello).phase = .hello)
    ∧ (f.mayWrite .a (0x200000 + 13 * 0x10000) = true ∧ f.mayWrite .a 0x200000 = true ∧ f.opticsOn = true)
    ∧ (off.mayWrite .a 0x200000 = true ∧ (off.link 0).enable = false ∧ off.opticsOn = true
      ∧ bitOf (1 : Word).toNat 0 = true ∧ bitOf (0 : Word).toNat 0 = false ∧ bitOf (2 : Word).toNat 1 = true
      ∧ bitOf (1 : Word).toNat 1 = false ∧ off.isFatal = false) := by decide +kernel
/-- A flit of zeros but for its KIND, its CRC right (R257). -/
def goodFlit (kind : Nat) : List Byte :=
  sealFlit (zeros 61 ++ [BitVec.ofNat 8 (4 * kind)])
/-- A flit in a clean codeword of lane 0. -/
def slot0 : FlitSlot := ⟨0, 0, .clean⟩
/-- A control flit of 28 bytes of content, SUBTYPE and the two bytes of its check (R257, R259). -/
def controlFlit (content : List Byte) (sub lo hi : Byte) : List Byte := zeros 32 ++ content ++ [sub, 4, lo, hi]
/-- A HELLO of PORT `q`, certificate tag `c` and ALP `m` at least and 3 at most (R266). -/
def helloFlit (q c m lo hi : Byte) : List Byte :=
  controlFlit ([c, 0, 0, 0, 0, 0, 0, 0, q, 48#8 ||| m, 0, 0, 255, 255] ++ zeros 14) 2 lo hi
/-- Such a flit is good and spells the HELLO of its fields. -/
def helloSpelt (q c m lo hi : Byte) : Bool :=
  let f := helloFlit q c m lo hi
  flitGood f && flitKind f == 1 && byteAt f 60 == 2
    && helloFrom (sliceB f 0x20 28) == { port := q, certTag := c.zeroExtend 64, alpMin := m.truncate 4 }
/-- A time flit that left at 4 and echoes the count `e` (R302). -/
def timeWire (e sub lo hi : Byte) : List Byte := controlFlit ([4, 0, 0, 0, 0, 0, 0, 0, e] ++ zeros 16 ++ [255, 255, 255]) sub lo hi
/-- Such a flit is good and spells its echo. -/
def timeSpelt (e lo hi : Byte) : Bool :=
  let f := timeWire e 1 lo hi
  flitGood f && flitKind f == 1 && byteAt f 60 == 1 && (timeFrom (sliceB f 0x20 28)).echoTx == e.zeroExtend 64
theorem witness_flits :
    let l (f : Lane → Lane) := lane1 (f { lock := true }) .up
    let s (f : Lane → Lane) := linkAs (l f)
    let ack := sealFlit ([1#8, 0#8] ++ zeros 58 ++ [0#8, 4#8])
    let r := l fun x => { x with txNum := 1, replay := [(0, zeros 64, 0)] }
    let slot (c : FecOutcome) : FlitSlot := ⟨0, 0, c⟩
    ((linkAs (lane1 {} .up)).laneHears 0 0 = false ∧ (s id).laneHears 0 0 = true ∧ (s id).alive = true ∧ (l id).phase = .up)
    ∧ (∀ c, ((l id).lane 0).cwNum ≠ some (slot c).cw.toNat ∧ ((s id).codeword 0 (slot c)).2 = (c != .bad))
    ∧ (∀ bad, let x (y : Lane) : Lane := { y with cwNum := some 0, cwBad := bad, cwFlits := 9 }
      (s x).laneHears 0 0 = true ∧ ((l x).lane 0).cwNum = some slot0.cw.toNat ∧ ((l x).lane 0).cwFlits < 10
      ∧ ((s x).codeword 0 slot0).2 = !bad)
    ∧ (flitGood (zeros 64) = false ∧ (∀ k ∈ [0, 1, 2, 3], flitGood (goodFlit k) = true ∧ flitKind (goodFlit k) = k)
      ∧ (0 : BitVec 12).toNat = ((l id).lane 0).rxWant ∧ (1 : BitVec 12).toNat ≠ ((l id).lane 0).rxWant)
    ∧ (flitGood ack = true ∧ flitKind ack = 1 ∧ byteAt ack 60 = 0 ∧ r.trainedLanes = [0] ∧ r.txWait = []
      ∧ natAt ack 0 2 = (r.lane 0).txNum ∧ (r.lane 0).txNum < 4096 ∧ (∀ x ∈ (r.lane 0).replay, x.1 ≠ (r.lane 0).txNum)) := by
  refine ⟨?_, ?_, ?_, ?_, ?_⟩
  · decide +kernel
  · intro c; cases c <;> decide +kernel
  all_goals decide +kernel
theorem witness_hello :
    let l := lane1 { lock := true } .hello
    let heard (f : Link → Link) := linkAs (f l)
    (l.lit = true ∧ l.phase = .hello ∧ l.nbValid = false ∧ l.code = 0 ∧ (linkAs l).laneHears 0 0 = true
      ∧ ((linkAs l).codeword 0 slot0).2 = true)
    ∧ helloSpelt 0 0 2 45 146 = true ∧ helloSpelt 0 0 4 91 78 = true ∧ helloSpelt 0 1 2 50 155 = true ∧ helloSpelt 0 1 4 68 71 = true
    ∧ helloSpelt 1 0 2 245 255 = true ∧ helloSpelt 1 0 4 131 35 = true ∧ helloSpelt 1 1 2 234 246 = true ∧ helloSpelt 1 1 4 156 42 = true
    ∧ helloSpelt 2 0 2 157 73 = true ∧ helloSpelt 2 0 4 235 149 = true ∧ helloSpelt 2 1 2 130 64 = true ∧ helloSpelt 2 1 4 244 156 = true
    ∧ helloSpelt 7 0 2 4 131 = true ∧ helloSpelt 7 0 4 114 95 = true ∧ helloSpelt 7 1 2 27 138 = true ∧ helloSpelt 7 1 4 109 86 = true
    ∧ wiring 0 { port := 0 } = some (1, 0) ∧ wiring 0 { port := 2 } = some (2, 2 * 2 ^ 20)
    ∧ (∀ f ∈ [(fun x : Link => { x with phase := .isolated }), (fun x => { x with nbValid := true })],
      (heard f).laneHears 0 0 = true ∧ ((heard f).codeword 0 slot0).2 = true ∧ (((heard f).link 0).phase = .isolated ∨ ((heard f).link 0).nbValid = true)) := by
  decide +kernel
/-- One of two neighbours has another certificate than this node, and such a one is wired well
(R266, R267). -/
theorem witness_wiring : ∃ c ∈ ([0, 1] : List DWord), ∀ m : BitVec 4,
    wiring 0 { port := 1, certTag := c, alpMin := m } = none ∧ wiring 6 { port := 7, certTag := c, alpMin := m } = none := by
  by_cases h : (0 : DWord) = certTag
  · refine ⟨1, by simp, fun m => ?_⟩
    have h1 : ¬ 1#64 = certTag := by rw [← h]; decide
    simp [wiring, h1]
  · refine ⟨0, by simp, fun m => ?_⟩
    have h0 : ¬ 0#64 = certTag := h
    simp [wiring, h0]
theorem witness_alpWindow : (∀ l : Link, l.version = 3 → (2 : BitVec 4).toNat ≤ l.version ∧ l.version ≤ (3 : BitVec 4).toNat
    ∧ l.version < (4 : BitVec 4).toNat) := by
  intro l h; rw [h]; decide
theorem witness_discovery :
    let d (p : DiscPhase) := { up with disc := { phase := p } }
    (∀ p ∈ [DiscPhase.seeking, .placed, .idle], (d p).mayWrite .a 0x300040 = true ∧ (d p).disc.phase = p
      ∧ (d p).grist.active = false ∧ (d p).disc.timeout = false ∧ (d p).alive = true)
    ∧ ((armed []).mayWrite .a 0x300040 = true ∧ (armed []).grist.active = true) := by decide +kernel

def timed (f : TimeSt → TimeSt) : State := { up with time := f up.time }
/-- The root of time with source `n` (R299, R305). -/
def rooted (n : Nat) (f : TimeSt → TimeSt) : State := timed fun t => { f t with cfg := word (2 ^ 31 + n * 2 ^ 29) }
theorem witness_fabricTime :
    let u := linkAs (lane1 { lock := true } .up)
    let h := timed fun t => { t with phase := .locked, parent := some 0, portNb := [(0, {})] }
    let p := timed fun t => { t with cfg := word (2 ^ 28) }
    ((u.link 0).phase = .up ∧ u.alive = true ∧ u.laneHears 0 0 = true ∧ (linkAs (lane1 {} .up)).laneHears 0 0 = false
      ∧ (u.codeword 0 slot0).2 = true ∧ (u.codeword 0 ⟨0, 0, .bad⟩).2 = false)
    ∧ timeSpelt 0 125 64 = true ∧ timeSpelt 5 228 138 = true
    ∧ byteAt (timeWire 5 0 213 185) 60 ≠ 1
    ∧ (h.alive = true ∧ h.timeRoot = false ∧ h.time.phase = .locked ∧ (∀ e ∈ h.time.portNb, h.time.parent = some e.1))
    ∧ (bitOf p.time.cfg.toNat 28 = true ∧ p.pins.ppsOut = false ∧ { p with pins := { p.pins with ppsOut := true } }.pins.ppsOut = true)
    ∧ (up.mayWrite .a 0x20020 = true ∧ up.timeRoot = false) := by decide +kernel
theorem witness_ppsPins :
    let p (b : Bool) := timed fun t => { t with cfg := word (if b then 2 ^ 28 else 0) }
    let h (c : Nat) : State := { timed (fun t => { t with ftc := c }) with pins := { up.pins with ppsOut := true } }
    (∀ b, (p b).on = true ∧ bitOf (p b).time.cfg.toNat 28 = b ∧ (p b).pins.ppsOut = false)
    ∧ (∀ c ∈ [4000000000, 4400000000], (h c).on = true ∧ (h c).pins.ppsOut = true ∧ 4000000000 ≤ (h c).time.ftc
      ∧ (h c).time.ftc ≤ 4000000000 + 400000000) := by decide +kernel
theorem witness_ptp :
    let r := rooted 1 id
    let w (n : Nat) := rooted 1 fun t => { t with phase := .acquiring, inLock := n }
    let m (a : Nat) (two : Bool) : PtpSync := { domain := 0, masterId := 4, masterTicks := 1000, arrival := a, followUp := false, twoStep := two }
    let q := rooted 1 fun t => { t with ptpSync := some (1, 2), ptpReqAt := some 3, ptpMaster := some 4 }
    let s0 := rooted 1 fun t => { t with ptpSync := some (1, 2) }
    (r.ptpOn = true ∧ r.ptpHears (m 0 true).domain = true ∧ r.time.ptpMaster.getD (m 0 true).masterId = (m 0 true).masterId
      ∧ (m 0 true).followUp = false ∧ (m 0 true).twoStep = true ∧ (m 0 false).twoStep = false)
    ∧ (40 < (((m 1041 false).arrival : Int) - (m 1041 false).masterTicks - r.time.ptpDelay).natAbs
      ∧ (((m 1040 false).arrival : Int) - (m 1040 false).masterTicks - r.time.ptpDelay).natAbs ≤ 40
      ∧ (w 15).time.phase = .acquiring ∧ 15 ≤ (w 15).time.inLock ∧ (w 15).ptpOn = true)
    ∧ (s0.ptpOn = true ∧ s0.time.ptpSync.isSome = true ∧ s0.time.ptpReqAt = none)
    ∧ (q.ptpOn = true ∧ q.time.ptpSync = some (1, 2) ∧ q.time.ptpReqAt = some 3 ∧ q.ptpHears 0 = true
      ∧ q.time.ptpMaster = some 4) := by decide +kernel
theorem witness_timeSources :
    let l := rooted 1 fun t => { t with phase := .locked }
    let p (now n : Nat) := rooted 2 fun t => { t with ftc := now, phase := .acquiring, inLock := n }
    (l.alive = true ∧ l.timeRoot = true ∧ l.timeSource ≠ 0 ∧ l.time.phase ≠ .holdover ∧ (rooted 1 id).time.phase ≠ .locked)
    ∧ (up.timeRoot = false ∧ (p 8 15).timeRoot = true ∧ (p 8 15).timeSource = 2 ∧ (p 8 15).time.ftc % second < second / 2
      ∧ (p 8 15).time.ftc % second = 8 ∧ (p 9 0).time.ftc % second = 9 ∧ (p 8 15).time.phase = .acquiring ∧ 15 ≤ (p 8 15).time.inLock)
    ∧ ((rooted 0 id).mayWrite .a 0x20020 = true ∧ (rooted 0 id).timeRoot = true ∧ (rooted 0 id).mayStep = true
      ∧ (rooted 0 id).timeSource = 0)
    ∧ (∀ n ∈ [1, 2], (p 8 15).mayWrite .a 0x20020 = true ∧ (rooted n fun t => { t with phase := .acquiring }).mayStep = true
      ∧ (rooted n fun t => { t with phase := .acquiring }).time.phase = .acquiring
      ∧ (rooted n fun t => { t with phase := .locked }).mayWrite .a 0x20020 = true
      ∧ (rooted n fun t => { t with phase := .locked }).timeSource ≠ 0
      ∧ (rooted n fun t => { t with phase := .locked }).time.phase ≠ .acquiring) := by decide +kernel

def jobAt (f : TimeSt → TimeSt) : State := { armed alone with disc := { node := some 0 }, time := f up.time }
/-- A block of nodes 0 and 1. -/
def pair : Tab (Tab Byte) := [(secIdent, [(0x0E, 2), (0x10, 1), (0x12, 1)])]
def pairAt (f : TimeSt → TimeSt) : State := { armed pair with disc := { node := some 0 }, time := f up.time }
def digOf (op : Byte) (src : Half) : InFrame :=
  { inbox op 0x7000 0 ([1] ++ zeros 31) with hdr := { op := op, endpoint := 0x7000, src := src } }
theorem witness_layerDigests :
    let c : Closure := ⟨0, 3, 1, 2, 0, 1, false, false⟩
    let off := { ready with time := { ready.time with closures := [c] } }
    let on := { off with time := { off.time with digCfg := 0x80000001#32 } }
    let run := { up with tuns := [(0, { phase := .running })] }
    let red (s : State) := s.modTime fun t => { t with reducing := some (3, 0) }
    (off.alive = true ∧ off.time.closures = [c] ∧ bitOf off.time.digCfg.toNat 31 = false)
    ∧ (on.time.closures = [c] ∧ bitOf on.time.digCfg.toNat 31 = true)
    ∧ (∀ s ∈ [off, on], s.hbmReady s.digSlot 32 = true ∧ s.hbmReady (s.digBase + 32 * c.layer) 32 = true)
    ∧ (run.mayWrite .a 0x20020 = true ∧ (∃ e ∈ run.tuns, e.2.phase = .running ∨ e.2.phase = .waiting))
    ∧ (up.mayWrite .a 0x20020 = true ∧ up.tuns = [] ∧ up.digBase + 2 ^ 21 ≤ hbmTop)
    ∧ ((jobAt id).mayWrite .a 0x20214 = true ∧ (jobAt id).activeGroup = [0] ∧ (jobAt id).time.reducing = none
      ∧ (red (jobAt id)).time.reducing = some (3, 0) ∧ (red (jobAt id)).activeGroup.head? = some (red (jobAt id)).nodeId) := by
  decide +kernel
theorem witness_jobDigest :
    let x := digOf 0x20 1
    let at1 (ps : List DigPart) (l : Nat) := hears (pairAt fun t => { t with parts := ps, partsLayer := l, partsAt := some 9 }) x
    let one := hears (jobAt id) (digOf 0x20 0)
    let y (n : Nat) : DigPart := ⟨n, 0, 1, 2, 3⟩
    let res := hears (jobAt fun t => { t with reducing := some (3, 0) }) (digOf 0x21 0)
    (∀ s ∈ [at1 [] 0, at1 [y 0] 0, at1 [y 1] 0, at1 [y 1] 5], s.alive = true ∧ s.inboxFor 5 [0x20] = some x
      ∧ byteAt x.payload 0 = 1 ∧ x.verdict = 0 ∧ s.activeGroup.head? = some s.nodeId ∧ x.hdr.src.toNat ∈ s.activeGroup
      ∧ s.time.partsPeriod = natAt x.payload 4 4 ∧ s.time.partsAt = some 9)
    ∧ (0 = natAt x.payload 2 2 ∧ 5 ≠ natAt x.payload 2 2 ∧ (∀ z ∈ (at1 [y 0] 0).time.parts, z.node ≠ x.hdr.src.toNat)
      ∧ (∃ z ∈ (at1 [y 1] 0).time.parts, z.node = x.hdr.src.toNat))
    ∧ (one.inboxFor 5 [0x20] = some (digOf 0x20 0) ∧ one.time.parts = [] ∧ one.activeGroup = [one.nodeId])
    ∧ (res.inboxFor 5 [0x21] = some (digOf 0x21 0) ∧ res.time.reducing.isSome = true) := by decide +kernel

/-- The active grist whose sections are exactly these, RECIPE in format version 2 (R204). -/
def gristOf (secs : List (Nat × Blob)) : GristSt :=
  { up.grist with active := true, phase := .pitched, sections := secs.map fun e => (e.1, ⟨2, e.2⟩) }
/-- A recipe instruction (R205): opcode, MV, D, A, B, F, S and X. -/
def recIns (op mv d a b f s x : Nat) : Nat :=
  op * 2 ^ 26 + mv * 2 ^ 25 + d * 2 ^ 21 + a * 2 ^ 17 + b * 2 ^ 13 + f * 2 ^ 9 + s * 2 ^ 8 + x
/-- RECIPE whose slot 2 of unit 0 holds `w` and an END, bound to context 0; slot 3 is bound to context 1 and empty. -/
def recipes (w : Nat) : Blob := ⟨1112, at_ 0 [2, 3] ++ at_ 1024 [0, 2, 2, 0] ++ at_ 1104 (leBytes 4 w)⟩
def theRec : RecipeRec := ⟨1024, 0, 2, 2⟩
def beats (v : Nat) : Contribution := { rank := 0, bytes := zeros 256, verdict := v }
def runOf (f : Run → Run) : Run := f { slot := 2, contribs := [beats 0], loops := [⟨0, 0, 0, 0, 2, 4⟩], c0 := 1, top := [⟨5, 6, 0, 0, 0⟩] }
def runAt (w : Nat) (r : Run) : State :=
  { up with grist := gristOf [(secRecipe, recipes w)], lauters := [(0, { run := some r })] }
/-- Each opcode of R211 to R222 with operands that R209 admits. -/
def recCases : List (Nat × Nat) := [
  (0x00, recIns 0x00 0 0 0 0 0 0 0), (0x01, recIns 0x01 0 0 0 0 2 0 1), (0x02, recIns 0x02 0 1 0 0 0 0 0), (0x03, recIns 0x03 0 1 0 0 0 0 1),
  (0x04, recIns 0x04 0 0 1 0 0 0 0), (0x05, recIns 0x05 0 0 1 0 0 0 1), (0x06, recIns 0x06 0 0 0 0 0 0 0), (0x07, recIns 0x07 0 0 0 0 0 0 0),
  (0x08, recIns 0x08 1 0 0 0 0 0 0), (0x10, recIns 0x10 0 1 0 2 0 0 0), (0x11, recIns 0x11 0 1 2 3 0 0 0), (0x12, recIns 0x12 0 0 0 1 0 0 0),
  (0x13, recIns 0x13 0 1 0 0 0 0 1), (0x14, recIns 0x14 0 1 2 3 9 0 0), (0x15, recIns 0x15 0 1 2 3 0 0 4), (0x16, recIns 0x16 0 1 2 3 0 0 4),
  (0x18, recIns 0x18 0 1 2 3 0 0 0), (0x19, recIns 0x19 0 1 2 3 0 0 0), (0x1A, recIns 0x1A 0 1 2 3 0 0 0), (0x1B, recIns 0x1B 0 1 2 3 0 0 7),
  (0x1C, recIns 0x1C 0 1 2 3 0 0 0), (0x1D, recIns 0x1D 0 1 2 0 0 0 0), (0x1E, recIns 0x1E 0 1 0 0 0 0 7), (0x20, recIns 0x20 0 1 3 5 0 0 3),
  (0x21, recIns 0x21 0 1 3 0 0 0 4), (0x22, recIns 0x22 0 1 0 0 0 0 5), (0x23, recIns 0x23 0 1 3 0 0 0 255), (0x24, recIns 0x24 0 1 0 0 0 0 3),
  (0x28, recIns 0x28 1 0 1 0 0 0 0)]
theorem witness_topSorted : ∀ small, (runOf id).top.length ≤ 255 + 1
    ∧ (runOf id).top.Pairwise (fun a b => topBefore 0 small b a = false) := by
  intro small; cases small <;> decide +kernel
theorem witness_recipe : (runAt 0 (runOf id)).recipe 0 2 = some theRec := by decide +kernel
/-- Every recipe instruction can run. -/
theorem witness_recipeRuns : ∀ e ∈ recCases, e.1 ≠ 0x01 → (runAt e.2 (runOf id)).recipeRuns 0 e.1 theRec (runOf id) e.2 := by
  unfold State.recipeRuns State.recipeAt; decide +kernel
def noLoop (r : Run) : Run := { r with loops := [] }
theorem witness_recipeLoops :
    let e : Run := noLoop (runOf fun r => { r with contribs := [] })
    let w := recIns 0x01 0 0 0 0 2 0 1
    (runAt w e).recipeRuns 0 0x01 ⟨1024, 0, 2, 2⟩ e w ∧ e.iterations w = 0
    ∧ (runAt w (noLoop (runOf id))).recipeRuns 0 0x01 theRec (noLoop (runOf id)) w ∧ 0 < (noLoop (runOf id)).iterations w := by
  unfold State.recipeRuns State.recipeAt; decide +kernel
theorem witness_recipeStops :
    let r := runOf id
    (recipeOpcode (.recEnd 0) = some (0, 0x00) ∧ (runAt 1 r).recipeAt 0 0x00 theRec r 1
      ∧ recIllegal (runAt 1 r).recipeVersion theRec.words r 1 = some 2)
    ∧ (let s := { runAt (recIns 0x08 1 0 0 0 0 0 0) r with grist := gristOf [(secIdent, ⟨24, at_ 6 [1]⟩), (secRecipe, recipes (recIns 0x08 1 0 0 0 0 0 0))] }
       s.recipeAt 0 0x08 theRec r (recIns 0x08 1 0 0 0 0 0 0) ∧ recIllegal s.recipeVersion theRec.words r (recIns 0x08 1 0 0 0 0 0 0) = none
       ∧ recMv (recIns 0x08 1 0 0 0 0 0 0) = true ∧ s.strict = true) := by
  unfold State.recipeAt; decide +kernel
/-- Group 5 of nodes 0 and 1 with one contribution each: its level 1 combines at context 1
and, when `fl` says so, its level 0 at context 0; a chunk has 2^`log` bytes (R229). -/
def groupBodyD (dv fl log : Byte) : Blob := Blob.ofList ([1, 0, 0, 0, 0, 0, 0, 0] ++ [5, 0, 1, dv, log, 1, fl, 0] ++ [0, 0, 1, 0]
  ++ List.replicate 6 0xFF ++ [2, 0, 1, 0, 1, 0] ++ zeros 8)
/-- One job, ordinal 9 of group 5, issued once with two chunks (R231). -/
def ordinalBody : Blob :=
  Blob.ofList ([1, 0, 0, 0, 1, 0, 0, 0] ++ [9, 0, 0, 0, 5, 0, 0, 0] ++ [9, 0, 0, 0, 2, 0, 0, 0] ++ leBytes 8 8192)
/-- Queue 50 of tun 0 contributes to group 5 (R232). -/
def partBody : Blob := ⟨0x40000, at_ 40 [6, 0, 0, 0, 0, 0, 0, 16, 5]⟩
/-- MIN of contexts 0 and 1 is `m` cells (R242). -/
def granaryBody (m : Nat) : Blob := ⟨0x4000, at_ 2056 (leBytes 4 m ++ leBytes 4 64 ++ leBytes 4 m ++ leBytes 4 64)⟩
def colGristD (dv fl log : Byte) (m : Nat) (w : Nat) : GristSt :=
  gristOf [(secIdent, ⟨24, at_ 14 [2, 0, 1, 0, 1, 0]⟩), (secPartition, partBody), (secGranary, granaryBody m),
    (secGroup, groupBodyD dv fl log), (secOrdinal, ordinalBody), (secRecipe, recipes w)]
def colGrist (fl log : Byte) (m : Nat) : GristSt := colGristD 0 fl log m 0
def col (fl log : Byte) (m : Nat) (c : Collective) : State := { up with
  grist := colGrist fl log m, disc := { node := some 0 }, col := c }
/-- Context `c` serves ordinal 9 at level `l`. -/
def serves (l nm : Nat) (ks : List Chunk) : Ctx :=
  { serving := true, ordinal := 9, group := 5, levels := [l], nm := nm, granted := ks.length
    nextN := if ks.isEmpty then [] else [(l, ks.length)], indices := ks.map (·.index)
    chunks := ks.map fun k => { k with level := l, nm := nm } }
/-- A frame of ordinal 9 and group 5 for context `c` (R165). -/
def colFrame (op : Byte) (c : Half) (epoch : Byte) (rank : Nat) (payload : List Byte) : InFrame :=
  { inbox op 0 0 payload with hdr := {
      op := op, endpoint := 0x1000 + c, stream := 5, epoch := epoch, opx := BitVec.ofNat 64 (9 + rank * 2 ^ 32) } }
/-- The grants that node 0 holds from itself for chunk 0. -/
def granted (key : Nat) : List Grant := [⟨9, 0, key, 0, 0⟩]

/-- Unit 0 runs `r`, whose output goes up from level 0, and the unit's port holds a frame (R208). -/
def waitsToEmit (w : Nat) (r : Run) : State := { up with
  grist := colGristD 0 1 0 17 w, disc := { node := some 0 }, lauters := [(0, { run := some r })]
  core := { up.core with inject := [(22, [{ port := 22, hdr := { vc := 8 }, payload := [] }])] } }
theorem witness_runEnds :
    let fin (f t : Bool) (v : Nat) : Run := runOf fun r => { r with ended := true, failed := f, retry := t, contribs := [beats v] }
    let at3 (w : Nat) := runAt w (runOf id)
    (∀ e ∈ [fin false false 0, fin false true 0, fin true false 0, fin true true 0, fin false false 2],
      ((runAt 0 e).lauter 0).run = some e ∧ e.vote = false ∧ e.digest = false ∧ (runAt 0 e).recipe 0 e.slot = some theRec
      ∧ e.ended = true)
    ∧ (∀ c ∈ (fin false false 0).contribs, c.verdict = 0) ∧ (runAt 0 (fin false false 0)).emitWaits 0 (fin false false 0) = false
    ∧ (let r : Run := { fin false false 0 with group := 5 }
       let s := waitsToEmit 0 r
       s.alive = true ∧ (s.lauter 0).run = some r ∧ r.vote = false ∧ r.digest = false ∧ s.recipe 0 r.slot = some theRec
       ∧ r.ended = true ∧ s.emitWaits 0 r = true)
    ∧ (let r : Run := { digest := true }
       let s := { up with lauters := [(0, { run := some r })] }
       (s.lauter 0).run = some r ∧ r.vote = false ∧ r.digest = true)
    ∧ ((fin false false 2).contribs.find? (fun c => c.verdict != 0)).isSome = true
    ∧ ((runOf id).ended = false ∧ (runOf id).pc < theRec.words ∧ recInfo (recOp ((at3 (recIns 0x3F 0 0 0 0 0 0 0)).recipeWord theRec 0)) = none
      ∧ recInfo (recOp ((at3 0).recipeWord theRec 0)) ≠ none)
    ∧ (let s := { up with lauters := [(0, { retry := some (runOf id) })] }
       (s.lauter 0).run = none ∧ (s.lauter 0).retry = some (runOf id) ∧ s.alive = true) := by decide +kernel
theorem witness_emitWaits :
    let w := recIns 0x04 0 0 1 0 0 0 0
    let r : Run := runOf fun r => { r with group := 5 }
    (waitsToEmit w r).recipeAt 0 0x04 theRec r w ∧ recIllegal (waitsToEmit w r).recipeVersion theRec.words r w = none
    ∧ (recMv w && (waitsToEmit w r).strict) = false ∧ (waitsToEmit w r).emitWaits 0 r = true := by
  unfold State.recipeAt; decide +kernel
theorem witness_recipeRunStart :
    let k : Chunk := { index := 0, parts := [beats 0] }
    let s := col 1 0 17 { ctxs := [(0, serves 0 1 [k])], grants := granted 1 }
    let j : Chunk := { index := 0, parts := [beats 0, { beats 0 with rank := 32 }] }
    let m := col 0 0 17 { ctxs := [(1, serves 1 2 [j])] }
    let v := member 0 fun g => { g with parts := [⟨0, true, 3⟩], partsP := 50000 }
    let d := jobAt fun t => { t with parts := [⟨0, 0, 1, 2, 3⟩], partsAt := some 0 }
    (v.alive = true ∧ v.isFatal = false ∧ (v.lauter 0).run = none ∧ (v.lauter 0).retry = none ∧ v.voteReady = true)
    ∧ (d.alive = true ∧ d.isFatal = false ∧ (d.lauter 0).run = none ∧ (d.lauter 0).retry = none ∧ d.voteReady = false
      ∧ d.digestReady = true)
    ∧ (s.alive = true ∧ s.isFatal = false ∧ s.voteReady = false ∧ s.digestReady = false ∧ s.proving = false
      ∧ (s.lauter 0).run = none ∧ (s.lauter 0).retry = none
      ∧ firstReady (s.readyChunks 0) = some (9, 0, 0, 0) ∧ (s.ctx 0).chunk? 0 0 = some { k with nm := 1 }
      ∧ s.recipe 0 (s.boundSlot 0 (0 % 256)) = some theRec)
    ∧ (m.alive = true ∧ m.isFatal = false ∧ m.voteReady = false ∧ m.digestReady = false ∧ m.proving = false
      ∧ (m.lauter 0).run = none ∧ (m.lauter 0).retry = none
      ∧ firstReady (m.readyChunks 0) = some (9, 0, 1, 1) ∧ (m.ctx 1).chunk? 0 1 = some { j with level := 1, nm := 2 }
      ∧ m.recipe 0 (m.boundSlot 0 (1 % 256)) = none ∧ bitOf (m.lauter 0).exc.toNat 31 = false) := by decide +kernel
theorem witness_recipeArithmetic :
    let two := runOf fun r => { r with contribs := [beats 0, { beats 0 with rank := 1 }], loops := [⟨2, 0, 0, 1, 2, 0⟩, ⟨0, 0, 0, 0, 2, 4⟩] }
    let w := recIns 0x10 0 1 0 2 0 0 0
    ((runAt w two).recipeRuns 0 0x10 theRec two w ∧ two.m ≠ 0 ∧ (runOf id).m = 0)
    ∧ (∀ i, i < 64 → fvOf 0 (((runOf id).elemsB (recIns 0x12 0 0 0 1 0 0 0)).getD i 0) = .fin false 0 (-149))
    ∧ fvOf 0 0x7FC00000 = .nan ∧ isSnan 0 0x7F800001 = true
    ∧ (let s := { ready with atoms := [⟨0, 64, 0, zeros 64⟩] }
       s.alive = true ∧ s.atoms[0]? = some ⟨0, 64, 0, zeros 64⟩ ∧ s.atomBehind 0 ⟨0, 64, 0, zeros 64⟩ = false ∧ 64 % 64 = 0 ∧ s.stackOf 64 = some 0 ∧ s.asleep (0 / 4) = false
       ∧ s.hbmReady 64 64 = true) := by
  unfold State.recipeRuns State.recipeAt; decide +kernel

theorem witness_collectiveFrames :
    (∀ op ∈ ([0x30, 0x31, 0x32, 0x33] : List Byte), (col 0 0 17 {}).inboxFor 5 [op.toNat] = none
      ∧ (hears (col 0 0 17 {}) (colFrame op 1 32 0 [])).inboxFor 5 [op.toNat] = some (colFrame op 1 32 0 [])
      ∧ (colFrame op 1 32 0 []).hdr.epoch.toNat / 32 ≠ (col 0 0 17 {}).col.gen
      ∧ (colFrame op 1 31 0 []).hdr.epoch.toNat / 32 = (col 0 0 17 {}).col.gen)
    ∧ ((col 0 0 17 {}).ctx 1).chunks = [] := by decide +kernel
def isGroup (s : State) (f : GroupRec → Bool) : Bool := match s.group? 5 with | some r => f r | none => false
def contribOf (n : Nat) : InFrame := colFrame 0x30 1 0 0 (zeros n)
def contribAt (log : Byte) (n : Nat) : State := hears (col 0 log 17 { ctxs := [(1, serves 1 2 [{ index := 0 }])] }) (contribOf n)
theorem witness_contrib :
    ∀ e ∈ ([(0, 256), (13, 4096)] : List (Byte × Nat)),
      (contribAt e.1 e.2).alive = true ∧ (contribAt e.1 e.2).ctx ((contribOf e.2).hdr.epIdx % 1024) = serves 1 2 [{ index := 0 }]
      ∧ isGroup (contribAt e.1 e.2) (fun r =>
        (contribAt e.1 e.2).chunkFor r (serves 1 2 [{ index := 0 }]) (contribOf e.2) == some { index := 0, level := 1, nm := 2 }) = true
      ∧ (({ rank := (contribOf e.2).rank, bytes := [] } : Contribution).add 5 (contribOf e.2)).verdict ≠ 3
      ∧ (contribOf e.2).ord = 9 ∧ (contribOf e.2).hdr.epoch.toNat = (contribAt e.1 e.2).colEpoch 0 := by decide +kernel
theorem witness_contribArrives (log : Byte) (n : Nat) : (contribAt log n).inboxFor 5 [0x30] = some (contribOf n) := rfl
theorem witness_contribEnds : isGroup (contribAt 0 256) (fun r => endsChunk r.chunk 256 256) = true
    ∧ isGroup (contribAt 13 4096) (fun r => !endsChunk r.chunk 4096 4096) = true
    ∧ (serves 1 2 [{ index := 0 }]).chunks ≠ [] ∧ (serves 1 2 []).chunks = [] := by decide +kernel
theorem witness_resultGrantRetract :
    let r (n : Nat) := colFrame 0x31 0 0 0xFFFFFFFF (zeros n)
    let g := colFrame 0x32 0 0 0xFFFFFFFF []
    let a (rank : Nat) := colFrame 0x33 0 0 rank []
    let s (log : Byte) (x : InFrame) (c : Collective) := hears (col 0 log 17 c) x
    let h : HeldResult := { group := 5, ordinal := 9, epoch := 0, chunk := 0, bytes := zeros 64, verdict := 0, reason := 0,
                            marker := 0xFFFF, complete := false, frames := [4] }
    let d : State := { s 0 (r 256) {} with grist := colGristD 3 0 0 17 0 }
    ((s 0 (r 64) { abandoned := [(9, 0)] }).inboxFor 5 [0x31] = some (r 64) ∧ ((s 0 (r 64) {}).group? 5).isSome = true
      ∧ (s 13 (r 4096) {}).inboxFor 5 [0x31] = some (r 4096) ∧ (s 13 (r 4096) {}).col.abandoned = []
      ∧ ((s 13 (r 4096) {}).group? 5).map (fun r => endsChunk r.chunk 4096 4096) = some false ∧ (s 13 (r 4096) {}).col.results = [])
    ∧ ((s 14 (r 4096) { results := [h] }).inboxFor 5 [0x31] = some (r 4096)
      ∧ ((s 14 (r 4096) { results := [h] }).group? 5).map (fun r => endsChunk r.chunk 4096 (64 + 4096)) = some false)
    ∧ (d.inboxFor 5 [0x31] = some (r 256) ∧ d.col.results = [] ∧ (r 256).verdict = 0
      ∧ isGroup d (fun g => g.delivery != 0 && g.id == 5 && endsChunk g.chunk 256 256
          && (d.recvFrom g (Tab.get {} d.col.resWant g.id)).isNone) = true)
    ∧ ((s 0 g {}).inboxFor 5 [0x32] = some g ∧ (s 0 g {}).grantKey g = some 0)
    ∧ (∀ e ∈ [(0, false), (0xFFFFFFFF, true)], (s 0 (a e.1) { retracted := e.2 }).inboxFor 5 [0x33] = some (a e.1)
      ∧ ((a e.1).rank = noRank ↔ e.2 = true)) := by decide +kernel

theorem witness_chunkGrant :
    ∀ m ∈ [33, 34], let s := col 0 0 m { ctxs := [(1, serves 1 2 [])] }
    s.alive = true ∧ s.isFatal = false ∧ s.grist.frozen = false ∧ 1 % 256 ∉ (s.lauter (1 / 256)).shut
    ∧ s.ctx 1 = serves 1 2 [] ∧ s.roundOpen 0 = true ∧ (s.ctxIssue (serves 1 2 [])).map (·.chunks) = some 2
    ∧ isGroup s (fun r => s.nextGrant r (serves 1 2 []) 2 == some (0, 1)
        && ((r.inputs r.present 1 0 s.nodeId).map (·.2)).contains s.nodeId
        && (s.inputCount r 1 * needCells r.chunk + s.leftForResult 1 ≤ s.unusedMin 1) == (m == 34)) = true := by decide +kernel
theorem witness_resultReserve :
    ∀ m ∈ [16, 17], let s := col 0 0 m {}
    s.isFatal = false ∧ s.roundOpen 0 = true ∧ s.isAbandoned 9 0 = false ∧ ((s.issuesOf 5)[0]?).map (·.ord) = some 9
    ∧ isGroup s (fun r => s.recvFrom r (Tab.get {} s.col.resNext 5) == some {} && r.ctx0 == 0
        && (needCells r.chunk + s.leftForGrant r.ctx0 ≤ s.unusedMin r.ctx0) == (m == 17)) = true := by decide +kernel
theorem witness_contextAdvance :
    let x : Ctx := { serves 1 2 [] with granted := 1, nextN := [(1, 2)], indices := [0], forwarded := [0] }
    let s := col 0 0 17 { ctxs := [(1, x)] }
    (serves 1 2 [{ index := 0 }]).chunks ≠ [] ∧ s.ctx 1 = x ∧ x.serving = true ∧ x.chunks = []
    ∧ (∀ n ∈ x.indices, n ∈ x.forwarded) ∧ (s.ctxIssue x).map (·.chunks) = some 2
    ∧ isGroup s (fun r => s.nextGrant r x 2 == none && r.delivery == 0) = true := by decide +kernel
theorem witness_collectiveStop :
    let s := col 0 0 17 { stopRound := some 0, ctxs := [(1, { serves 1 2 [] with round := 1 })] }
    let b := col 0 0 17 { stopRound := some 0, ctxs := [(1, serves 1 2 [])] }
    (s.col.stopped = false ∧ s.col.stopRound.isSome = true ∧ s.col.resHeld = [] ∧ s.col.results = []
      ∧ (∀ f ∈ s.core.frames, f.owner < 256 ∨ 1280 ≤ f.owner)
      ∧ (∀ e ∈ s.col.ctxs, s.ctxIdle e.1 = true))
    ∧ (∃ e ∈ b.col.ctxs, b.ctxIdle e.1 = false) ∧ (col 0 0 17 {}).col.stopRound = none := by decide +kernel
def stalls (w : Word) : State := col 0 0 17 { ctxs := [(1, serves 1 2 [{ index := 0 }])], stallCtx := w }
theorem witness_collectiveStall : (stalls 0).alive = true ∧ ((stalls 0).ctx 1).serving = true
    ∧ ((stalls 0).ctx 1).chunks.find? (fun k => k.state == 0 && !k.stalled && !(stalls 0).chunkReady 1 ((stalls 0).ctx 1) k)
      = some { index := 0, level := 1, nm := 2 }
    ∧ bitOf (stalls 0).col.stallCtx.toNat 31 = false ∧ bitOf (stalls 0x80000000).col.stallCtx.toNat 31 = true := by decide +kernel
theorem witness_noHeldOrdinals : (col 0 0 17 { ctxs := [(1, serves 1 2 [{ index := 0 }])] }).heldOrdinals = [] := by decide +kernel
theorem witness_heldOrdinals :
    ({ stalls 0 with tuns := [(0, { queues := [(50, { near := [8] })] })] } : State).heldOrdinals = [9] := by decide +kernel
theorem witness_bindingSends :
    let q : Queue := { far := List.replicate 32 (7, .good), near := List.replicate 32 8 }
    let s (g : List Grant) : State := { col 0 0 17 { grants := g, resHeld := [⟨5, 9, 0, 0, 17⟩] } with tuns := [(0, { queues := [(50, q)] })] }
    let t := s (granted 0)
    (t.tunActs 0 = true ∧ (t.sourceAt 0 50).map (fun x => (x.2.1.ord, x.2.1.bytes, x.2.2)) = some (9, 8192, {})
      ∧ (s []).mayContribute 0 50 = false ∧ t.mayContribute 0 50 = true ∧ t.bindingBusy 0 50 = false ∧ t.grist.frozen = false)
    ∧ isGroup t (fun r => r.combining.head? == some 1 && min 4096 (chunkBytes r ⟨9, 5, 2, 8192⟩ 0 - 0) == 4096 && r.homeFor r.present 0 1 t.nodeId == some 0
        && positionIn r.present t.nodeId == some 0 && chunkBytes r ⟨9, 5, 2, 8192⟩ 0 == 4096) = true
    ∧ 4096 ≤ ((((t.tun 0).queue 50).far.map (·.1) ++ ((t.tun 0).queue 50).near).take (4096 / 64)).length * 64 := by decide +kernel
theorem witness_contextSends :
    let k : Chunk := { index := 0, state := 2, out := [(zeros 256, 0, 0, 0xFFFF)] }
    let s (g : List Grant) := col 1 0 17 { ctxs := [(0, serves 0 1 [k])], grants := g, resHeld := [⟨5, 9, 0, 0, 17⟩] }
    let t := s (granted 1)
    let busy := { t with core := { t.core with inject := [(22, [{ port := 22, hdr := { vc := 8 }, payload := [] }])] } }
    t.ctx 0 = serves 0 1 [k] ∧ (t.ctx 0).levels = [0] ∧ (t.ctx 0).chunks.find? (fun z => z.level == 0) = some { k with nm := 1 }
    ∧ t.portBusy (ctxPort 0) 8 = false ∧ busy.portBusy (ctxPort 0) 8 = true
    ∧ isGroup t (fun r => r.above 0 == some 1 && r.homeFor r.present 0 1 t.nodeId == some 0
        && t.resultReserved r 9 0 0) = true
    ∧ (s []).holdsGrant 9 0 1 0 0 = false ∧ t.holdsGrant 9 0 1 0 0 = true ∧ t.roundOpen 0 = true ∧ t.grist.frozen = false := by
  decide +kernel
theorem witness_colRegisters :
    let s := col 0 0 17 { retractOrd := 9 }
    let h := s.modPort .a fun x => { x with hold := [(0x3C0008, some 5)] }
    s.mayWrite .a 0x3C0004 = true ∧ s.mayWrite .a 0x3C0014 = true ∧ s.mayWrite .a 0x3C0008 = true ∧ h.mayWrite .a 0x3C0008 = true
    ∧ Tab.get none (h.port .a).hold 0x3C0008 = some 5 ∧ s.col.grantedSincePitch = false
    ∧ (col 0 0 17 { stopped := true }).busyCount = 0
    ∧ ((jobTable (s.sec_ secOrdinal)).find? fun j => j.1 == s.col.retractOrd.toNat) = some (9, 5) ∧ (s.group? 5).isSome = true := by
  decide +kernel

/-! ## Ill-formed commands -/

/-- One ill-formed command for each check of WellFormed. -/
def illFormed : List Instr := [
  .lowWordRead .a ⟨0x4000000, 4⟩, .lowWordRead .a ⟨0, 3⟩, .highWordRead .a ⟨0x4000000, 4⟩, .highWordRead .a ⟨4, 0⟩,
  .lowWordWrite .a 0x4000000 0, .highWordWrite .a 0x4000000 0,
  .registerWrite .a 0x4000000 4 0, .registerWrite .a 0x20010 3 0, .portQueueTransfer 0 47, .bindingFrameSend 0 47,
  .bar4Read .a 0 0 [], .bar4Read .a 0 4097 [], .bar4Write .a 0 [] [], .dataFlitReceive 0 0 0 ⟨0, .clean⟩ (zeros 63),
  .creditFlitReceive 0 ⟨slot0, zeros 65⟩, .timeExchangeReceive 0 slot0 (zeros 63), .helloReceive 0 ⟨slot0, []⟩,
  .linkDown 0 0, .ptpDelayResp 128 0 0, .portResetComplete ⟨.a, 0, { mps := 1024 }, ⟨0, 0⟩⟩, .portResetComplete ⟨.a, 0, { mrrs := 8192 }, ⟨0, 0⟩⟩,
  .portResetComplete ⟨.a, 0, { bar4 := 6 }, ⟨0, 0⟩⟩, .hostLinkUp .a 5 ⟨16, { mps := 64 }, ⟨0, 0⟩⟩,
  .supplyWarningFall 3100, .supplyWarningRise 3200, .supplyWarningRise 4096, .guardMs 65536, .powerSafety 65536, .tjSample 256,
  .hydrometerRun 256, .laserBiasStep 0 0 256, .bootStepEnd 6 0, .hostLinkUp .a 0 ⟨16, {}, ⟨0, 0⟩⟩, .hostLinkUp .a 6 ⟨16, {}, ⟨0, 0⟩⟩,
  .hostLinkUp .a 5 ⟨3, {}, ⟨0, 0⟩⟩,
  .hostReadCompletion 0 (.data []), .hostReadCompletion 0 (.poisoned [])]
theorem test_illFormed : ∀ c ∈ illFormed, c.wf = false := by decide +kernel
theorem test_illFormedInputs (s : SecondInputs) (m : PtpSync) : (Instr.mgmtAttest (zeros 31)).wf = false
    ∧ (Instr.mgmtWake (zeros 159)).wf = false ∧ (Instr.healthSecond { s with inletC := 256 }).wf = false ∧ (Instr.healthSecond { s with flowCL := 65536 }).wf = false
    ∧ (Instr.ptpSync { m with domain := 128 }).wf = false := by
  simp [Instr.wf, zeros]
theorem test_longFrame : (Instr.mgmtFrameReceive (List.replicate 9217 0)).wf = false := by
  simp only [Instr.wf, List.length_replicate]; decide
theorem test_wellFormed : ∀ c ∈ [Instr.lowWordRead .a ⟨0x3FFFFF8, 2⟩, .registerWrite .b 0x20010 4 0, .portQueueTransfer 0 48,
    .bar4Write .a 0 [1] [], .helloReceive 0 ⟨slot0, zeros 64⟩, .linkDown 0 5, .supplyWarningFall 3099, .supplyWarningRise 3201, .hostLinkUp .a 5 ⟨16, {}, ⟨0, 0⟩⟩], c.wf = true := by
  decide +kernel

/-! ## Single commands -/

/-- The state that a command leaves. -/
def after (i : Instr) (s : State) : State := match exec i s with | .next t => t | _ => s

theorem test_idleStep : step up = .next up.idleTick ∧ up.idleTick.time.ftc = up.time.ftc + 1 := ⟨rfl, by decide +kernel⟩
theorem test_noWords : decodeTableWord 32 0 = none ∧ up.withFetchWord 32 0 = up := ⟨rfl, rfl⟩

/-- A pair of BF16 elements. -/
def bf (a b : Nat) : Elem × Elem := (elemOf 1 a, elemOf 1 b)
/-- The worked cases of chapter 5: OF is bit 0, NX bit 2, NV bit 3. -/
theorem test_workedCases :
    fusedGroup 0 [bf 0x7180 0x7180, bf 0x7FC1 0x3F80, bf 0x3FC0 0x4040, bf 0x3F80 0x3080] = (0x7FC00000, 5)
    ∧ fusedGroup 0 [bf 0x7180 0x7180, bf 0x7FC1 0x3F80, bf 0x3FC0 0x4040, bf 0x3F80 0x3580] = (0x7FC00000, 1)
    ∧ fusedGroup 0 [bf 0x7180 0x7180, bf 0x7F81 0x3F80, bf 0x3FC0 0x4040, bf 0x3F80 0x3080] = (0x7FC00000, 13)
    ∧ fusedGroup 0 [bf 0x3320 0x3F80, bf 0x3320 0x3F80, bf 0x3F80 0x3F80, bf 0 0x3F80] = (0x3F800000, 4) := by decide +kernel
/-- R119: (−3.0) × (+0) is −0, and (−0) + (−0) is −0. -/
theorem test_signedZero : (toF32 false (fvMul (fvOf 0 0xC0400000) (fvOf 0 0)).1).1 = 0x80000000
    ∧ (f32Add 0x80000000 0x80000000).1 = 0x80000000 ∧ (f32Add 0x80000000 0).1 = 0 := by decide +kernel
/-- The maps of R139. -/
theorem test_hbmMaps : mapAddr 0 0x6000003000 = some (7, 0) ∧ mapAddr 0 0x4010 = some (0, 0x1010)
    ∧ mapAddr 1 0x1F123 = some (15, 0x1123) ∧ mapAddr 0 0x18000000000 = none := by decide +kernel
theorem test_bar4Write : (after (.bar4Write .a 16 [1, 2] []) ready).hbmBytes 16 2 = [1, 2]
    ∧ (after (.bar4Write .b 16 [1, 2] []) up).hbmBytes 16 2 = [0, 0] := by decide +kernel
/-- R330: a request of the port that does not hold waits for the holder's GRANT. -/
theorem test_token : let t := after (.tokenRequest .b) up
    t.host.holder = 1 ∧ t.host.req .b = true ∧ (after (.tokenGrant .a) t).host.holder = 2
    ∧ (after (.tokenGrant .a) up).host.holder = 1 := by decide +kernel
/-- R412: PPS_OUT is driven low while PPS_OUT_EN is 0. -/
theorem test_ppsOutEn :
    let s : State := { ready with pins := { ready.pins with ppsOut := true } }
    (after (.registerWrite .a 0x2000C 4 0) s).pins.ppsOut = false
    ∧ (after (.registerWrite .a 0x2000C 4 (BitVec.ofNat 64 (2 ^ 28))) s).pins.ppsOut = true := by decide +kernel
/-- R34: ARM in EMPTY is refused with REFUSE_WHY 1. -/
theorem test_armRefused : let t := after (.gristArm .a) ready
    t.grist.phase = .empty ∧ t.grist.refuseWhy = 1 := by decide +kernel
/-- R269: the root takes (0, 0, 0). -/
theorem test_root : (after (.discRoot .a) { up with disc := { phase := .seeking } }).disc.coord = some (0, 0, 0) := by decide +kernel
/-- The example of R306: theta 6 and a delay of 1,000 ticks. -/
theorem test_timeExample :
    let flit := sealFlit (zeros 32 ++ timeBytes { tx := 8004000, echoTx := 8000000, echoRx := 8000994 } ++ [1#8, 4#8])
    let link : Link := { phase := .up, trained := 1, lanes := [(0, { lock := true })] }
    let s : State := { up with links := [(0, link)], time := { up.time with ftc := 8005006 } }
    let t := after (.timeExchangeReceive 0 slot0 flit) s
    Tab.get 0 t.time.portOfs 0 = 6 ∧ Tab.get 0 t.time.portDly 0 = 1000 := by decide +kernel
/-- R389: DOZE is refused for a kettle with a running tun. -/
theorem test_doze : (after (.doze .a 1) { ready with tuns := [(0, { phase := .running })] }).kettle 0 ≠ .doze
    ∧ (after (.doze .a 1) ready).kettle 0 = .doze := by decide +kernel
/-- R212 and R119: FACC adds 1.0 and 1.0 to 2.0 after the first member. -/
theorem test_facc : addIn 0 0x3F800000 0x3F800000 = (0x40000000, 0) ∧ copyIn 0 0x7F800001 = (0x7FC00000, 8) := by decide +kernel
/-- R242: NEED is 17 cells for a chunk of 4 KiB and 34 for one of 8 KiB. -/
theorem test_need : needCells 4096 = 17 ∧ needCells 8192 = 34 ∧ needCells 0 = 1 := by decide
/-- R237: the home of chunk n on a line of two nodes is node n mod 2, and its run has one input from each. -/
theorem test_homes : ∀ n ∈ [0, 1, 2], isGroup (col 0 0 17 {}) (fun r => r.homeFor r.present n 1 0 == some (n % 2)
    && r.inputs r.present 1 n (n % 2) == [(0, 0), (32, 1)]) = true := by decide +kernel
theorem test_homeLevel0 : isGroup (col 1 0 17 {}) (fun r => r.homeFor r.present 1 0 0 == some 0
    && r.inputs r.present 0 1 0 == [(0, 0)] && r.above 0 == some 1) = true := by decide +kernel

end Sys2Proof.Tests
end

namespace Sys2Proof.Machine

/-! # Every command keeps the queue, the form of HBM and a legal token

`State.Kept` is the invariant of Laws/Kept.lean; this part carries it from the shared operations
to the 295 commands, to `exec` and to `step`. -/

/-- The outcome is a next state that keeps what `s` has: its queue, the canonical form of HBM
and a legal control token. -/
def State.KeptOut (s : State) (o : Out) : Prop := ∃ t, o = .next t ∧ s.Kept t

theorem State.KeptOut.next {s t : State} (h : s.Kept t) : s.KeptOut (.next t) := ⟨t, rfl, h⟩

/-- The state of an outcome that keeps them. -/
theorem State.KeptOut.outState {s u : State} {o : Out} (h : s.KeptOut o) : s.Kept (outState u o) := by
  obtain ⟨t, rfl, ht⟩ := h
  exact ht

section
variable {s₀ s : State} (hk : s₀.Kept s)
include hk

/-! ## Shared operations that a command alone uses -/

theorem State.raises_kept (x : List Raise) : s₀.Kept { s with raises := x } := hk.same rfl rfl rfl rfl

theorem State.walks_kept (x : List Walk) : s₀.Kept { s with walks := x } := hk.same rfl rfl rfl rfl

theorem State.latent_kept (x : List Nat) : s₀.Kept { s with latent := x } := hk.same rfl rfl rfl rfl

theorem State.atoms_kept (x : List AtomAdd) : s₀.Kept { s with atoms := x } := hk.same rfl rfl rfl rfl

theorem State.links_kept (x : Tab Link) : s₀.Kept { s with links := x } := hk.same rfl rfl rfl rfl

theorem State.disc_kept (x : Disc) : s₀.Kept { s with disc := x } := hk.same rfl rfl rfl rfl

theorem State.pins_kept (x : Pins) : s₀.Kept { s with pins := x } := hk.same rfl rfl rfl rfl

theorem State.streamsEnd_kept : s₀.Kept { s with streams := [], crossings := [] } := hk.same rfl rfl rfl rfl

theorem State.ctlRead_kept (a n : Nat) (e : Ecc) (src : Nat) (use : Use) : s₀.Kept (s.ctlRead a n e src use).1 :=
  State.eccRead_kept hk ..

theorem State.ringEvent_kept (o : RingOutcome) : s₀.Kept (s.ringEvent o) := by
  cases o
  · exact hk
  · exact State.raise_kept (State.modHealth_kept hk _) _ _
  · exact State.raise_kept hk _ _

end

theorem State.appendEntry_kept {s₀ : State} (ecc : Ecc) (n : Nat) (s : State) (e : CjOpen) (hk : s₀.Kept s) :
    s₀.Kept (s.appendEntry ecc n e) := by
  induction n generalizing s e with
  | zero => exact hk
  | succ n ih =>
    unfold State.appendEntry
    dsimp only
    split
    · exact hk
    · refine ih _ _ ?_
      repeat' with_reducible first
        | assumption | apply State.closeEntry_kept | apply State.modJournal_kept | split

theorem State.rxDrain_kept {s₀ : State} (p n : Nat) (s : State) (hk : s₀.Kept s) : s₀.Kept (s.rxDrain p n) := by
  induction n generalizing s with
  | zero => exact hk
  | succ n ih =>
    unfold State.rxDrain
    dsimp only
    split
    · exact hk
    · exact ih _ (State.rxFlit_kept (State.modLink_kept (State.modLane_kept hk _ _ _) _ _) _ _)

/-- Setting a request leaves the holder alone. -/
@[simp] theorem HostSt.setReq_holder (h : HostSt) (p : HostPort) (b : Bool) : (h.setReq p b).holder = h.holder := by
  cases p <;> rfl

/-- A hop through either stage of the core keeps what `State.Kept` names (R170, R171). -/
theorem State.hop_kept {s₀ s t : State} (hk : s₀.Kept s) {second : Bool} {plane i c : Nat}
    (h : (if second then s.stage2 plane i c else s.stage1 plane i c) = some t) : s₀.Kept t := by
  split at h
  · unfold State.stage2 at h
    dsimp only at h
    split at h
    · cases h
    · split at h
      · cases h
      · cases h; exact State.modCore_kept hk _
  · unfold State.stage1 at h
    dsimp only at h
    split at h
    · cases h
    · cases h; exact State.modCopy_kept (State.modCore_kept hk _) _ _ _

/-! # One lemma for each command

Each follows the command's branches; at their ends stand operations of Laws/Kept.lean. The commands
that are one such operation have their proof in `exec_kept`. -/

section
variable {s₀ s : State} (hk : s₀.Kept s)
include hk

/-! ## Frames -/

@[simp] theorem execTokenBucketPass_kept (k : Nat) : s₀.KeptOut (execTokenBucketPass k s) := by
  unfold execTokenBucketPass
  repeat' with_reducible first
    | assumption | apply State.KeptOut.next | apply State.reach_kept | apply State.modGranary_kept
    | apply State.modCore_kept | split

/-! ## Maltings -/

@[simp] theorem execFrameLookup_kept (k : Nat) : s₀.KeptOut (execFrameLookup k s) := by
  unfold execFrameLookup
  repeat' with_reducible first
    | assumption | apply State.KeptOut.next | apply State.reach_kept | apply State.refuseFrame_kept
    | apply State.lookupFrame_kept | apply State.freeIfDone_kept | split

@[simp] theorem execFrameIngress_kept (p : Fin 32) : s₀.KeptOut (execFrameIngress p s) := by
  unfold execFrameIngress
  repeat' with_reducible first
    | assumption | apply State.KeptOut.next | apply State.linkIngress_kept | apply State.innerIngress_kept | split

@[simp] theorem execFrameAdmission_kept (k : GranaryAct) : s₀.KeptOut (execFrameAdmission k s) := by
  unfold execFrameAdmission
  repeat' with_reducible first
    | assumption | apply State.KeptOut.next | apply State.admitted_kept | apply State.granaryTurn_kept
    | apply State.granaryParity_kept | apply State.takeCells_kept | split

@[simp] theorem execFabricDescriptorHop_kept (second : Bool) (plane : Fin 2) (i : Fin 32) :
    s₀.KeptOut (execFabricDescriptorHop second plane i s) := by
  unfold execFabricDescriptorHop
  dsimp only
  split
  · exact .next hk
  · split
    · exact .next hk
    · next c t h =>
      obtain ⟨d, -, hd⟩ := List.exists_of_findSome?_eq_some h
      obtain ⟨u, hu, heq⟩ := Option.map_eq_some_iff.1 hd
      cases heq
      exact .next (State.reach_kept (State.modCore_kept (State.hop_kept hk hu) _) _)

@[simp] theorem execResequencerRelease_kept (p : Fin 32) : s₀.KeptOut (execResequencerRelease p s) := by
  unfold execResequencerRelease
  dsimp only
  repeat' with_reducible first
    | assumption | apply State.KeptOut.next | apply State.modCore_kept | split

@[simp] theorem execEgressSlot_kept (p : Fin 32) (plane : Fin 2) : s₀.KeptOut (execEgressSlot p plane s) := by
  unfold execEgressSlot
  dsimp only
  repeat' with_reducible first
    | assumption | apply State.KeptOut.next | apply State.drr_kept | apply State.sendCell_kept
    | apply State.modCore_kept | split

@[simp] theorem execFrameTail_kept (k : Nat) (e : EccOutcome) : s₀.KeptOut (execFrameTail k e s) := by
  unfold execFrameTail
  dsimp only
  repeat' with_reducible first
    | assumption | apply State.KeptOut.next | apply State.modCore_kept | apply State.opFrameDone_kept
    | apply State.modHealth_kept | apply State.raise_kept | apply State.countVerdict_kept | apply State.modFrame_kept
    | split

@[simp] theorem execReferenceRelease_kept (k : GranaryAct) : s₀.KeptOut (execReferenceRelease k s) := by
  unfold execReferenceRelease
  repeat' with_reducible first
    | assumption | apply State.KeptOut.next | apply State.granaryTurn_kept | apply State.granaryParity_kept
    | apply State.modCopy_kept | apply State.dropRef_kept | split

/-! ## TunLoad -/

@[simp] theorem execTunLoad_kept (p : HostPort) (t : Fin 192) : s₀.KeptOut (execTunLoad p t s) :=
  .next (State.hostWrite_kept hk _ _ _ fun _ h => State.loadBegin_kept h ..)

@[simp] theorem execLoadComplete_kept (t : Fin 192) (e : Ecc) : s₀.KeptOut (execLoadComplete t e s) := by
  unfold execLoadComplete
  repeat' with_reducible first
    | assumption | apply State.KeptOut.next | apply State.loadEnd_kept | split

@[simp] theorem execArmLaunch_kept (p : HostPort) (t : Fin 192) : s₀.KeptOut (execArmLaunch p t s) :=
  .next (State.hostWrite_kept hk _ _ _ fun _ h => State.armLaunch_kept h ..)

@[simp] theorem execTunHalt_kept (p : HostPort) (t : Fin 192) : s₀.KeptOut (execTunHalt p t s) :=
  .next (State.hostWrite_kept hk _ _ _ fun _ h => State.tunHaltCmd_kept h ..)

@[simp] theorem execTunClear_kept (p : HostPort) (t : Fin 192) : s₀.KeptOut (execTunClear p t s) :=
  .next (State.hostWrite_kept hk _ _ _ fun _ h => State.tunClearCmd_kept h ..)

@[simp] theorem execTunFlagWrite_kept (p : HostPort) (t : Fin 192) (f : Fin 256) (v : Word) :
    s₀.KeptOut (execTunFlagWrite p t f v s) :=
  .next (State.hostWrite_kept hk _ _ _ fun _ h => State.tunFlagSet_kept h ..)

@[simp] theorem execLaunch_kept (t : Fin 192) : s₀.KeptOut (execLaunch t s) := by
  unfold execLaunch
  dsimp only
  repeat' with_reducible first
    | assumption | apply State.KeptOut.next | refine State.Kept.foldl ?_ (fun _ _ _ => ?_) | apply State.reach_kept
    | apply State.releaseDue_kept | apply State.modTun_kept | apply State.mark_kept | apply State.useFree_kept
    | apply State.latchStream_kept | split

@[simp] theorem execPortQueueTransfer_kept (t : Fin 192) (q : Fin 64) :
    s₀.KeptOut (execPortQueueTransfer t q s) := by
  unfold execPortQueueTransfer
  repeat' with_reducible first
    | assumption | apply State.KeptOut.next | apply State.portTransfer_kept | split

@[simp] theorem execCrossingDeliver_kept (m : CrossingMove) : s₀.KeptOut (execCrossingDeliver m s) := by
  unfold execCrossingDeliver
  extract_lets ft
  split
  · exact .next hk
  · split
    · exact .next hk
    · extract_lets s1 s2
      have h2 : s₀.Kept s2 := by
        unfold s2 s1
        split
        · exact State.ringEvent_kept (State.reach_kept hk _) _
        · exact State.reach_kept hk _
      exact .next (State.crossOne_kept (State.crossings_kept h2 _) _)

/-! ## Streams -/

@[simp] theorem execStreamReadIssue_kept (k : Fin 1024) : s₀.KeptOut (execStreamReadIssue k s) := by
  unfold execStreamReadIssue
  dsimp only
  repeat' with_reducible first
    | assumption | apply State.KeptOut.next | apply State.rangeFault_kept | apply State.modStream_kept
    | apply State.modResv_kept | apply State.source_kept | split

@[simp] theorem execStreamReadReturn_kept (k : Fin 1024) (m : MoverOutcome) :
    s₀.KeptOut (execStreamReadReturn k m s) := by
  unfold execStreamReadReturn
  dsimp only
  repeat' with_reducible first
    | assumption | apply State.KeptOut.next | apply State.ringEvent_kept | apply State.modStream_kept
    | apply State.eccRead_kept | apply State.streamArrives_kept | split

@[simp] theorem execStreamWritePerform_kept (k : Fin 1024) (m : MoverOutcome) :
    s₀.KeptOut (execStreamWritePerform k m s) := by
  unfold execStreamWritePerform
  dsimp only
  repeat' with_reducible first
    | assumption | apply State.KeptOut.next | apply State.ringEvent_kept | apply State.rangeFault_kept
    | apply State.modTun_kept | apply State.modStream_kept | apply State.ctlWrite_kept | apply State.countFlag_kept
    | split

@[simp] theorem execReadReq_kept (k : Nat) (e : Ecc) : s₀.KeptOut (execReadReq k e s) := by
  unfold execReadReq
  dsimp only
  repeat' with_reducible first
    | assumption | apply State.KeptOut.next | apply State.ctlRead_kept | apply State.taken_kept
    | apply State.source_kept | split

@[simp] theorem execReadReply_kept (k : Nat) : s₀.KeptOut (execReadReply k s) := by
  unfold execReadReply
  dsimp only
  repeat' with_reducible first
    | assumption | apply State.KeptOut.next | apply State.taken_kept | apply State.modStream_kept
    | apply State.streamArrives_kept | split

@[simp] theorem execHbmWrite_kept (m : Taking) : s₀.KeptOut (execHbmWrite m s) := by
  unfold execHbmWrite
  repeat' with_reducible first
    | assumption | apply State.KeptOut.next | apply State.ctlWrite_kept | apply State.opFrameDone_kept
    | apply State.taken_kept | split

@[simp] theorem execBindingFrameSend_kept (t : Fin 192) (q : Fin 64) : s₀.KeptOut (execBindingFrameSend t q s) := by
  unfold execBindingFrameSend
  dsimp only
  repeat' with_reducible first
    | assumption | apply State.KeptOut.next | apply State.modTun_kept | apply State.source_kept | split

@[simp] theorem execWriteStreamReceive_kept (k : Nat) : s₀.KeptOut (execWriteStreamReceive k s) := by
  unfold execWriteStreamReceive
  repeat' with_reducible first
    | assumption | apply State.KeptOut.next | apply State.bindingReceive_kept | apply State.queueReceive_kept | split

@[simp] theorem execSpargeStep_kept (g : SpargeTarget) (m : SpargeRead) : s₀.KeptOut (execSpargeStep g m s) := by
  unfold execSpargeStep
  split
  · next n =>
    extract_lets c
    split
    · exact .next hk
    · next s1 l line s2 s3 behind _ =>
      have h2 : s₀.Kept s2 := by
        refine State.Kept.foldl (State.after_kept hk _) fun u x hu => ?_
        split
        · exact State.eccAt_kept hu ..
        · exact hu
      have h3 : s₀.Kept s3 := by
        unfold s3
        split
        · exact State.latent_kept h2 _
        · exact h2
      exact .next (State.modCtl_kept h3 ..)
  · split
    · exact .next hk
    · exact .next (State.modTun_kept (State.tunEcc_kept (State.after_kept hk _) ..) _ _)

@[simp] theorem execHbmCalibration_kept (n : Fin 16) (cellar : Bool) :
    s₀.KeptOut (execHbmCalibration n cellar s) := by
  unfold execHbmCalibration
  dsimp only
  repeat' with_reducible first
    | assumption | apply State.KeptOut.next | apply State.after_kept | apply State.modCtl_kept | split

@[simp] theorem execHbmMapWrite_kept (p : HostPort) (v : Word) : s₀.KeptOut (execHbmMapWrite p v s) := by
  refine .next (State.hostWrite_kept hk _ _ _ fun u hu => ?_)
  extract_lets w
  have hw : s₀.Kept w := by
    unfold w
    split
    · exact State.hbmMode_kept hu _
    · exact hu
  split <;> first | exact State.modGrist_kept hw _ | exact State.hbmMode_kept hw _

@[simp] theorem execBar4Read_kept (p : HostPort) (off len : Nat) (e : Ecc) :
    s₀.KeptOut (execBar4Read p off len e s) := by
  unfold execBar4Read
  dsimp only
  repeat' with_reducible first
    | assumption | apply State.KeptOut.next | apply State.ctlRead_kept | apply State.flushPosted_kept
    | apply State.badAccess_kept | apply State.aerAdvisory_kept | apply State.emit_kept | split

@[simp] theorem execBar4Write_kept (p : HostPort) (off : Nat) (bytes : List Byte) (e : Ecc) :
    s₀.KeptOut (execBar4Write p off bytes e s) := by
  unfold execBar4Write
  dsimp only
  repeat' with_reducible first
    | assumption | apply State.KeptOut.next | apply State.modPort_kept | apply State.performPosted_kept | split

/-! ## JournalOps -/

@[simp] theorem execJournalCopy_kept (m : Taking) : s₀.KeptOut (execJournalCopy m s) := by
  unfold execJournalCopy
  repeat' with_reducible first
    | assumption | apply State.KeptOut.next | apply State.appendEntry_kept | apply State.taken_kept | split

@[simp] theorem execJournalMirror_kept (m : Taking) : s₀.KeptOut (execJournalMirror m s) := by
  unfold execJournalMirror
  dsimp only
  repeat' with_reducible first
    | assumption | apply State.KeptOut.next | apply State.taken_kept | apply State.modJournal_kept
    | apply State.ctlWrite_kept | apply State.source_kept | split

@[simp] theorem execJournalAck_kept (k : Nat) : s₀.KeptOut (execJournalAck k s) := by
  unfold execJournalAck
  repeat' with_reducible first
    | assumption | apply State.KeptOut.next | apply State.taken_kept | apply State.modJournal_kept | split

@[simp] theorem execMltCjStepWrite_kept (p : HostPort) (high : Bool) (v : Word) :
    s₀.KeptOut (execMltCjStepWrite p high v s) := by
  unfold execMltCjStepWrite
  repeat' with_reducible first
    | assumption | apply State.KeptOut.next | refine State.hostWrite_kept ?_ _ _ _ (fun _ _ => ?_)
    | refine State.pairWrite_kept ?_ _ _ _ _ _ _ (fun _ _ _ => ?_) | apply State.closeEntries_kept
    | apply State.modJournal_kept | split

@[simp] theorem execMltCjCommitWrite_kept (p : HostPort) (high : Bool) (v : Word) :
    s₀.KeptOut (execMltCjCommitWrite p high v s) := by
  unfold execMltCjCommitWrite
  repeat' with_reducible first
    | assumption | apply State.KeptOut.next | refine State.hostWrite_kept ?_ _ _ _ (fun _ _ => ?_)
    | refine State.pairWrite_kept ?_ _ _ _ _ _ _ (fun _ _ _ => ?_) | apply State.modJournal_kept | split

@[simp] theorem execLookupSampleWrite_kept : s₀.KeptOut (execLookupSampleWrite s) := by
  unfold execLookupSampleWrite
  dsimp only
  repeat' with_reducible first
    | assumption | apply State.KeptOut.next | apply State.ctlWrite_kept | apply State.modCore_kept | split

@[simp] theorem execMltSampCfgWrite_kept (p : HostPort) (v : Word) : s₀.KeptOut (execMltSampCfgWrite p v s) :=
  .next (State.hostWrite_kept hk _ _ _ fun _ h => State.modCore_kept h ..)

/-! ## TunControl -/

@[simp] theorem execNop_kept (t : Fin 192) : s₀.KeptOut (execNop t s) := by
  unfold execNop
  repeat' with_reducible first
    | assumption | apply State.KeptOut.next | refine State.issue_kept ?_ _ _ _ (fun _ _ _ _ => ?_)

@[simp] theorem execTunEnd_kept (t : Fin 192) : s₀.KeptOut (execTunEnd t s) := by
  unfold execTunEnd
  repeat' with_reducible first
    | assumption | apply State.KeptOut.next | refine State.issue_kept ?_ _ _ _ (fun _ _ _ _ => ?_)
    | apply State.modTun_kept | apply State.cancelRunAhead_kept

@[simp] theorem execReplay_kept (m : Fetch) : s₀.KeptOut (execReplay m s) := by
  unfold execReplay
  dsimp only
  repeat' with_reducible first
    | assumption | apply State.KeptOut.next | refine State.issue_kept ?_ _ _ _ (fun _ _ _ _ => ?_)
    | apply State.tunEcc_kept | apply State.tunMemFault_kept | apply State.modTun_kept | split

@[simp] theorem execSetf_kept (t : Fin 192) : s₀.KeptOut (execSetf t s) := by
  refine .next (State.issue_kept hk _ _ _ fun u x n hu => ?_)
  dsimp only
  split
  · exact State.exception_kept hu ..
  · split
    · exact State.fly_kept hu ..
    · exact State.raises_kept hu _

@[simp] theorem execWaitf_kept (t : Fin 192) : s₀.KeptOut (execWaitf t s) := by
  refine .next (State.issue_kept hk _ _ _ fun u x n hu => ?_)
  dsimp only
  split
  · exact State.exception_kept hu ..
  · split
    · exact State.takeFlag_kept (State.modTun_kept hu _ _) ..
    · split
      · exact State.modTun_kept (State.modTun_kept hu _ _) _ _
      · exact State.walks_kept (State.modTun_kept (State.modTun_kept hu _ _) _ _) _

@[simp] theorem execRdcyc_kept (t : Fin 192) : s₀.KeptOut (execRdcyc t s) := by
  unfold execRdcyc
  repeat' with_reducible first
    | assumption | apply State.KeptOut.next | refine State.issue_kept ?_ _ _ _ (fun _ _ _ _ => ?_)
    | apply State.mvMark_kept | apply State.pushValue_kept

@[simp] theorem execRdftc_kept (t : Fin 192) : s₀.KeptOut (execRdftc t s) := by
  unfold execRdftc
  repeat' with_reducible first
    | assumption | apply State.KeptOut.next | refine State.issue_kept ?_ _ _ _ (fun _ _ _ _ => ?_)
    | apply State.useFree_kept | apply State.mvMark_kept | apply State.pushValue_kept

@[simp] theorem execRdocc_kept (t : Fin 192) : s₀.KeptOut (execRdocc t s) := by
  unfold execRdocc
  repeat' with_reducible first
    | assumption | apply State.KeptOut.next | refine State.issue_kept ?_ _ _ _ (fun _ _ _ _ => ?_)
    | apply State.mvMark_kept | apply State.fly_kept

@[simp] theorem execRdflag_kept (t : Fin 192) : s₀.KeptOut (execRdflag t s) := by
  unfold execRdflag
  repeat' with_reducible first
    | assumption | apply State.KeptOut.next | refine State.issue_kept ?_ _ _ _ (fun _ _ _ _ => ?_)
    | apply State.mvMark_kept | apply State.pushValue_kept

@[simp] theorem execResultPush_kept (t : Fin 192) : s₀.KeptOut (execResultPush t s) := by
  unfold execResultPush
  dsimp only
  repeat' with_reducible first
    | assumption | apply State.KeptOut.next | apply State.reach_kept | apply State.landFirst_kept | split

@[simp] theorem execIssuePastStore_kept (t : Fin 192) : s₀.KeptOut (execIssuePastStore t s) := by
  unfold execIssuePastStore
  dsimp only
  repeat' with_reducible first
    | assumption | apply State.KeptOut.next | refine State.issue_kept ?_ _ _ _ (fun _ _ _ _ => ?_)
    | apply State.reach_kept | apply State.modTun_kept | apply State.exceptionAt_kept | split

@[simp] theorem execTunEnterDone_kept (t : Fin 192) : s₀.KeptOut (execTunEnterDone t s) := by
  unfold execTunEnterDone
  dsimp only
  repeat' with_reducible first
    | assumption | apply State.KeptOut.next | apply State.reach_kept | apply State.modTun_kept
    | apply State.closeDigest_kept | split

/-! ## SqOps -/

@[simp] theorem execDescriptorFetch_kept (q : Fin 4096) : s₀.KeptOut (execDescriptorFetch q s) := by
  unfold execDescriptorFetch
  dsimp only
  repeat' with_reducible first
    | assumption | apply State.KeptOut.next | apply State.hostRead_kept | apply State.modSq_kept | split

@[simp] theorem execDescNop_kept (q : Fin 4096) : s₀.KeptOut (execDescNop q s) := by
  unfold execDescNop
  repeat' with_reducible first
    | assumption | apply State.KeptOut.next | apply State.modOp_kept | apply State.finish_kept | split

@[simp] theorem execDescLoad_kept (q : Fin 4096) : s₀.KeptOut (execDescLoad q s) := by
  unfold execDescLoad
  dsimp only
  repeat' with_reducible first
    | assumption | apply State.KeptOut.next | apply State.modOp_kept | apply State.hostRead_kept | split

@[simp] theorem execDescStore_kept (q : Fin 4096) (e : Ecc) : s₀.KeptOut (execDescStore q e s) := by
  unfold execDescStore
  dsimp only
  repeat' with_reducible first
    | assumption | apply State.KeptOut.next | apply State.ctlRead_kept | apply State.modOp_kept
    | apply State.sendWrite_kept | split

@[simp] theorem execDescSend_kept (q : Fin 4096) : s₀.KeptOut (execDescSend q s) := by
  unfold execDescSend
  dsimp only
  repeat' with_reducible first
    | assumption | apply State.KeptOut.next | apply State.modOp_kept | apply State.hostRead_kept | split

@[simp] theorem execDescRecv_kept (q : Fin 4096) : s₀.KeptOut (execDescRecv q s) := by
  unfold execDescRecv
  repeat' with_reducible first
    | assumption | apply State.KeptOut.next | apply State.modOp_kept | split

@[simp] theorem execDescRread_kept (q : Fin 4096) : s₀.KeptOut (execDescRread q s) := by
  unfold execDescRread
  repeat' with_reducible first
    | assumption | apply State.KeptOut.next | apply State.modOp_kept | split

@[simp] theorem execDescRwrite_kept (q : Fin 4096) : s₀.KeptOut (execDescRwrite q s) := by
  unfold execDescRwrite
  repeat' with_reducible first
    | assumption | apply State.KeptOut.next | apply State.modOp_kept | apply State.hostRead_kept | split

@[simp] theorem execDescWait_kept (q : Fin 4096) : s₀.KeptOut (execDescWait q s) := by
  unfold execDescWait
  split
  · exact .next hk
  · dsimp only
    split
    · exact .next (State.modOp_kept hk ..)
    · split
      · exact .next (State.modOp_kept (State.modTun_kept hk _ _) ..)
      · exact .next (State.walks_kept (State.modSq_kept (State.modOp_kept hk ..) _ _) _)

@[simp] theorem execDescriptorComplete_kept (q : Fin 4096) : s₀.KeptOut (execDescriptorComplete q s) := by
  unfold execDescriptorComplete
  extract_lets x
  split
  · split
    · exact .next hk
    · split
      · exact .next hk
      · extract_lets t f wants owned s1 st s2 s3 s4
        have h1 : s₀.Kept s1 := by
          unfold s1
          split
          · exact State.raises_kept hk _
          · exact hk
        have h3 : s₀.Kept s3 := State.modSq_kept (State.emit_kept h1 _) _ _
        have h4 : s₀.Kept s4 := by
          unfold s4
          split
          · exact State.sqSignal_kept h3 _
          · exact h3
        exact .next (State.sqSettle_kept h4 _)
  · exact .next hk

@[simp] theorem execDescTailDoorbell_kept (p : HostPort) (q : Fin 4096) (v : Word) :
    s₀.KeptOut (execDescTailDoorbell p q v s) := by
  unfold execDescTailDoorbell
  repeat' with_reducible first
    | assumption | apply State.KeptOut.next | apply State.doorbell_kept

@[simp] theorem execCplHeadDoorbell_kept (p : HostPort) (q : Fin 4096) (v : Word) :
    s₀.KeptOut (execCplHeadDoorbell p q v s) := by
  unfold execCplHeadDoorbell
  repeat' with_reducible first
    | assumption | apply State.KeptOut.next | apply State.doorbell_kept

@[simp] theorem execSqResetComplete_kept (q : Fin 4096) : s₀.KeptOut (execSqResetComplete q s) := by
  unfold execSqResetComplete
  dsimp only
  repeat' with_reducible first
    | assumption | apply State.KeptOut.next | apply State.modSq_kept | split

@[simp] theorem execSqEnable_kept (p : HostPort) (q : Fin 4096) (v : Word) : s₀.KeptOut (execSqEnable p q v s) :=
  .next (State.sqWrite_kept hk _ _ _ _ fun _ h => State.sqCtrl_kept h ..)

@[simp] theorem execRegReply_kept (k : Nat) : s₀.KeptOut (execRegReply k s) := by
  unfold execRegReply
  repeat' with_reducible first
    | assumption | apply State.KeptOut.next | apply State.queueReply_kept | apply State.taken_kept | split

@[simp] theorem execMemReq_kept (k : Nat) (e : Ecc) : s₀.KeptOut (execMemReq k e s) := by
  unfold execMemReq
  dsimp only
  repeat' with_reducible first
    | assumption | apply State.KeptOut.next | apply State.ctlRead_kept | apply State.taken_kept
    | apply State.ctlWrite_kept | apply State.source_kept | split

@[simp] theorem execReplyTimeout_kept (tag : Fin 16384) : s₀.KeptOut (execReplyTimeout tag s) := by
  unfold execReplyTimeout
  repeat' with_reducible first
    | assumption | apply State.KeptOut.next | apply State.after_kept | apply State.streamReplyLost_kept
    | apply State.replyLost_kept | apply State.raise_kept | apply State.modOp_kept | split

/-! ## Grist -/

@[simp] theorem execGristStage_kept (p : HostPort) : s₀.KeptOut (execGristStage p s) := by
  unfold execGristStage
  dsimp only
  repeat' with_reducible first
    | assumption | apply State.KeptOut.next | refine State.gristCommand_kept ?_ _ _ _ _ (fun _ _ => ?_)
    | apply State.gristRefuse_kept | apply State.dropStage_kept | apply State.modGrist_kept
    | apply State.gristPhase_kept | split

@[simp] theorem execStageComplete_kept (e : Ecc) : s₀.KeptOut (execStageComplete e s) := by
  unfold execStageComplete
  dsimp only
  repeat' with_reducible first
    | assumption | apply State.KeptOut.next | apply State.eccRead_kept | apply State.modGrist_kept
    | apply State.gristPhase_kept | apply State.voteSettle_kept | split

@[simp] theorem execGristCheck_kept (p : HostPort) : s₀.KeptOut (execGristCheck p s) :=
  .next (State.gristCommand_kept hk _ _ _ _ fun _ h => State.gristPhase_kept h ..)

@[simp] theorem execCheckComplete_kept : s₀.KeptOut (execCheckComplete s) := by
  unfold execCheckComplete
  repeat' with_reducible first
    | assumption | apply State.KeptOut.next | apply State.modGrist_kept | apply State.gristPhase_kept | split

@[simp] theorem execGristArm_kept (p : HostPort) : s₀.KeptOut (execGristArm p s) := by
  unfold execGristArm
  dsimp only
  repeat' with_reducible first
    | assumption | apply State.KeptOut.next | refine State.gristCommand_kept ?_ _ _ _ _ (fun _ _ => ?_)
    | apply State.gristRefuse_kept | apply State.releaseDue_kept | apply State.modGrist_kept
    | apply State.gristPhase_kept | apply State.sendVote_kept | split

@[simp] theorem execGristDisarm_kept (p : HostPort) : s₀.KeptOut (execGristDisarm p s) := by
  unfold execGristDisarm
  repeat' with_reducible first
    | assumption | apply State.KeptOut.next | refine State.gristCommand_kept ?_ _ _ _ _ (fun _ _ => ?_)
    | apply State.gristRefuse_kept | apply State.thaw_kept | apply State.modGrist_kept | apply State.gristPhase_kept
    | split

@[simp] theorem execGristClear_kept (p : HostPort) : s₀.KeptOut (execGristClear p s) := by
  unfold execGristClear
  repeat' with_reducible first
    | assumption | apply State.KeptOut.next | refine State.gristCommand_kept ?_ _ _ _ _ (fun _ _ => ?_)
    | apply State.dropStage_kept | apply State.gristPhase_kept

@[simp] theorem execGristPitchAtWrite_kept (p : HostPort) (high : Bool) (v : Word) :
    s₀.KeptOut (execGristPitchAtWrite p high v s) := by
  unfold execGristPitchAtWrite
  repeat' with_reducible first
    | assumption | apply State.KeptOut.next | refine State.hostWrite_kept ?_ _ _ _ (fun _ _ => ?_)
    | refine State.pairWrite_kept ?_ _ _ _ _ _ _ (fun _ _ _ => ?_) | apply State.modGrist_kept | split

@[simp] theorem execQuiescentVote_kept : s₀.KeptOut (execQuiescentVote s) := by
  unfold execQuiescentVote
  repeat' with_reducible first
    | assumption | apply State.KeptOut.next | apply State.sendVote_kept | split

@[simp] theorem execVoteContribution_kept (k : Nat) : s₀.KeptOut (execVoteContribution k s) := by
  unfold execVoteContribution
  dsimp only
  repeat' with_reducible first
    | assumption | apply State.KeptOut.next | apply State.taken_kept | apply State.modGrist_kept
    | apply State.voteSettle_kept | split

@[simp] theorem execVoteReductionComplete_kept : s₀.KeptOut (execVoteReductionComplete s) := by
  unfold execVoteReductionComplete
  dsimp only
  repeat' with_reducible first
    | assumption | apply State.KeptOut.next | apply State.voteDecide_kept | split

@[simp] theorem execVoteDeadline_kept : s₀.KeptOut (execVoteDeadline s) := by
  unfold execVoteDeadline
  dsimp only
  repeat' with_reducible first
    | assumption | apply State.KeptOut.next | apply State.voteSettle_kept | apply State.reach_kept
    | apply State.modGrist_kept | apply State.voteDecide_kept | split

@[simp] theorem execVoteResult_kept (k : Nat) : s₀.KeptOut (execVoteResult k s) := by
  unfold execVoteResult
  dsimp only
  repeat' with_reducible first
    | assumption | apply State.KeptOut.next | apply State.taken_kept | apply State.modGrist_kept
    | apply State.gristPhase_kept | split

@[simp] theorem execPitchCount_kept : s₀.KeptOut (execPitchCount s) := by
  unfold execPitchCount
  dsimp only
  repeat' with_reducible first
    | assumption | apply State.KeptOut.next | apply State.reach_kept | apply State.releaseDue_kept
    | apply State.applyStage_kept | apply State.modGrist_kept | apply State.gristPhase_kept
    | apply State.abortPitch_kept | apply State.fenceAll_kept | apply State.raise_kept | split

@[simp] theorem execFreezeRelease_kept : s₀.KeptOut (execFreezeRelease s) := by
  unfold execFreezeRelease
  repeat' with_reducible first
    | assumption | apply State.KeptOut.next | apply State.reach_kept | apply State.releaseDue_kept | split

@[simp] theorem execResolveKeep_kept (p : HostPort) : s₀.KeptOut (execResolveKeep p s) := by
  unfold execResolveKeep
  repeat' with_reducible first
    | assumption | apply State.KeptOut.next | refine State.gristCommand_kept ?_ _ _ _ _ (fun _ _ => ?_)
    | apply State.fenceAll_kept | apply State.abortPitch_kept

@[simp] theorem execResolveApply_kept (p : HostPort) : s₀.KeptOut (execResolveApply p s) := by
  unfold execResolveApply
  repeat' with_reducible first
    | assumption | apply State.KeptOut.next | refine State.gristCommand_kept ?_ _ _ _ _ (fun _ _ => ?_)
    | apply State.fenceAll_kept | apply State.applyStage_kept | apply State.thaw_kept | apply State.gristPhase_kept

/-! ## Links -/

@[simp] theorem execLaneLockLost_kept (p : Fin 14) (lane : Fin 16) : s₀.KeptOut (execLaneLockLost p lane s) := by
  unfold execLaneLockLost
  dsimp only
  repeat' with_reducible first
    | assumption | apply State.KeptOut.next | apply State.modLane_kept | apply State.modLink_kept | split

@[simp] theorem execLaneLockRegained_kept (p : Fin 14) (lane : Fin 16) :
    s₀.KeptOut (execLaneLockRegained p lane s) := by
  unfold execLaneLockRegained
  repeat' with_reducible first
    | assumption | apply State.KeptOut.next | apply State.modLane_kept | split

@[simp] theorem execLinkDown_kept (p : Fin 14) (cause : Fin 6) : s₀.KeptOut (execLinkDown p cause s) := by
  unfold execLinkDown
  dsimp only
  repeat' with_reducible first
    | assumption | apply State.KeptOut.next | apply State.after_kept | apply State.declareDown_kept | split

@[simp] theorem execLinkRetrain_kept (p : Fin 14) : s₀.KeptOut (execLinkRetrain p s) := by
  unfold execLinkRetrain
  dsimp only
  repeat' with_reducible first
    | assumption | apply State.KeptOut.next | apply State.after_kept | apply State.modLink_kept | split

@[simp] theorem execTrainingComplete_kept (p : Fin 14) (o : TrainOutcome) :
    s₀.KeptOut (execTrainingComplete p o s) := by
  unfold execTrainingComplete
  dsimp only
  repeat' with_reducible first
    | assumption | apply State.KeptOut.next | apply State.after_kept | apply State.attemptFails_kept
    | apply State.modLink_kept | split

@[simp] theorem execLnkEnable_kept (p : HostPort) (n : Fin 14) (v : Word) : s₀.KeptOut (execLnkEnable p n v s) := by
  unfold execLnkEnable
  dsimp only
  repeat' with_reducible first
    | assumption | apply State.KeptOut.next | refine State.hostWrite_kept ?_ _ _ _ (fun _ _ => ?_)
    | apply State.modLink_kept | apply State.declareDown_kept | split

@[simp] theorem execDataFlitReceive_kept (p : Fin 14) (lane : Fin 16) (num : BitVec 12) (c : Codeword)
    (flit : List Byte) :
    s₀.KeptOut (execDataFlitReceive p lane num c flit s) := by
  unfold execDataFlitReceive
  dsimp only
  repeat' with_reducible first
    | assumption | apply State.KeptOut.next | apply State.rxDrain_kept | apply State.codeword_kept
    | apply State.modLane_kept | apply State.modLink_kept | split

@[simp] theorem execCreditFlitReceive_kept (p : Fin 14) (flit : ControlFlit) :
    s₀.KeptOut (execCreditFlitReceive p flit s) := by
  unfold execCreditFlitReceive
  repeat' with_reducible first
    | assumption | apply State.KeptOut.next | refine State.Kept.foldl ?_ (fun _ _ _ => ?_)
    | refine State.controlIn_kept ?_ _ _ _ _ _ (fun _ _ _ => ?_) | apply State.modLink_kept | split

@[simp] theorem execCreditFlitSend_kept (p : Fin 14) : s₀.KeptOut (execCreditFlitSend p s) := by
  unfold execCreditFlitSend
  dsimp only
  repeat' with_reducible first
    | assumption | apply State.KeptOut.next | apply State.modLink_kept | apply State.controlOut_kept | split

@[simp] theorem execHelloSend_kept (p : Fin 14) : s₀.KeptOut (execHelloSend p s) := by
  unfold execHelloSend
  dsimp only
  repeat' with_reducible first
    | assumption | apply State.KeptOut.next | apply State.after_kept | apply State.modLink_kept
    | apply State.controlOut_kept | split

@[simp] theorem execDiscRoot_kept (p : HostPort) : s₀.KeptOut (execDiscRoot p s) := by
  unfold execDiscRoot
  repeat' with_reducible first
    | assumption | apply State.KeptOut.next | refine State.hostWrite_kept ?_ _ _ _ (fun _ _ => ?_)
    | apply State.placeAt_kept | apply State.discSettle_kept | split

@[simp] theorem execDiscForget_kept (p : HostPort) : s₀.KeptOut (execDiscForget p s) := by
  refine .next (State.hostWrite_kept hk _ _ _ fun u hu => ?_)
  split
  · exact hu
  · exact State.Kept.foldl (State.disc_kept hu _) fun _ _ h => State.modLink_kept h _ _

@[simp] theorem execDiscoveryTimeout_kept : s₀.KeptOut (execDiscoveryTimeout s) := by
  unfold execDiscoveryTimeout
  dsimp only
  split
  · exact .next hk
  · exact .next (State.disc_kept (State.after_kept hk _) _)

/-! ## Time -/

@[simp] theorem execFtcSet_kept (p : HostPort) : s₀.KeptOut (execFtcSet p s) := by
  unfold execFtcSet
  repeat' with_reducible first
    | assumption | apply State.KeptOut.next | refine State.hostWrite_kept ?_ _ _ _ (fun _ _ => ?_)
    | apply State.stepTo_kept | split

@[simp] theorem execTimeExchangeSend_kept (p : Fin 14) : s₀.KeptOut (execTimeExchangeSend p s) := by
  unfold execTimeExchangeSend
  dsimp only
  repeat' with_reducible first
    | assumption | apply State.KeptOut.next | apply State.dwell_kept | apply State.modLink_kept
    | apply State.controlOut_kept | split

@[simp] theorem execParentTimeout_kept : s₀.KeptOut (execParentTimeout s) := by
  unfold execParentTimeout
  dsimp only
  repeat' with_reducible first
    | assumption | apply State.KeptOut.next | apply State.after_kept | apply State.modTime_kept
    | apply State.chooseParent_kept | apply State.timePhase_kept | split

@[simp] theorem execPtpSync_kept (m : PtpSync) : s₀.KeptOut (execPtpSync m s) := by
  unfold execPtpSync
  dsimp only
  repeat' with_reducible first
    | assumption | apply State.KeptOut.next | apply State.modTime_kept | apply State.sourceEvent_kept | split

@[simp] theorem execPtpDelayReqSend_kept : s₀.KeptOut (execPtpDelayReqSend s) := by
  unfold execPtpDelayReqSend
  repeat' with_reducible first
    | assumption | apply State.KeptOut.next | apply State.modTime_kept | apply State.emit_kept | split

@[simp] theorem execPtpDelayResp_kept (domain masterId receiveTicks : Nat) :
    s₀.KeptOut (execPtpDelayResp domain masterId receiveTicks s) := by
  unfold execPtpDelayResp
  repeat' with_reducible first
    | assumption | apply State.KeptOut.next | apply State.modTime_kept | split

@[simp] theorem execSourceSilent_kept : s₀.KeptOut (execSourceSilent s) := by
  unfold execSourceSilent
  repeat' with_reducible first
    | assumption | apply State.KeptOut.next | apply State.after_kept | apply State.modTime_kept
    | apply State.timePhase_kept | split

@[simp] theorem execPpsInEdge_kept : s₀.KeptOut (execPpsInEdge s) := by
  unfold execPpsInEdge
  dsimp only
  repeat' with_reducible first
    | assumption | apply State.KeptOut.next | apply State.modTime_kept | apply State.sourceEvent_kept | split

@[simp] theorem execPpsOutRise_kept : s₀.KeptOut (execPpsOutRise s) := by
  unfold execPpsOutRise
  split
  · exact .next hk
  · exact .next (State.pins_kept (State.reach_kept hk _) _)

@[simp] theorem execPpsOutFall_kept : s₀.KeptOut (execPpsOutFall s) := by
  unfold execPpsOutFall
  split
  · exact .next hk
  · exact .next (State.pins_kept (State.reach_kept hk _) _)

@[simp] theorem execClearTable_kept (p : HostPort) : s₀.KeptOut (execClearTable p s) := by
  unfold execClearTable
  repeat' with_reducible first
    | assumption | apply State.KeptOut.next | refine State.hostWrite_kept ?_ _ _ _ (fun _ _ => ?_)
    | apply State.hbmZero_kept | apply State.modTime_kept | split

@[simp] theorem execDigestClosureWrite_kept (e : Ecc) : s₀.KeptOut (execDigestClosureWrite e s) := by
  unfold execDigestClosureWrite
  dsimp only
  repeat' with_reducible first
    | assumption | apply State.KeptOut.next | apply State.ctlRead_kept | apply State.modTime_kept
    | apply State.ctlWrite_kept | split

@[simp] theorem execDigReduce_kept (p : HostPort) (layer : Half) : s₀.KeptOut (execDigReduce p layer s) := by
  unfold execDigReduce
  repeat' with_reducible first
    | assumption | apply State.KeptOut.next | refine State.hostWrite_kept ?_ _ _ _ (fun _ _ => ?_)
    | apply State.modTime_kept | apply State.source_kept | split

@[simp] theorem execJobDigestContribution_kept (k : Nat) : s₀.KeptOut (execJobDigestContribution k s) := by
  unfold execJobDigestContribution
  dsimp only
  repeat' with_reducible first
    | assumption | apply State.KeptOut.next | apply State.taken_kept | apply State.modTime_kept | split

@[simp] theorem execJobDigestTimeout_kept : s₀.KeptOut (execJobDigestTimeout s) := by
  unfold execJobDigestTimeout
  repeat' with_reducible first
    | assumption | apply State.KeptOut.next | apply State.after_kept | apply State.jobDecide_kept | split

@[simp] theorem execJobDigestResult_kept (k : Nat) : s₀.KeptOut (execJobDigestResult k s) := by
  unfold execJobDigestResult
  dsimp only
  repeat' with_reducible first
    | assumption | apply State.KeptOut.next | apply State.taken_kept | apply State.modTime_kept | split

/-! ## CatchUp -/

@[simp] theorem execCatchupStart_kept (p : HostPort) : s₀.KeptOut (execCatchupStart p s) := by
  unfold execCatchupStart
  dsimp only
  repeat' with_reducible first
    | assumption | apply State.KeptOut.next | refine State.hostWrite_kept ?_ _ _ _ (fun _ _ => ?_)
    | apply State.modCu_kept | split

@[simp] theorem execReplyReserve_kept (r : Requester) : s₀.KeptOut (execReplyReserve r s) := by
  unfold execReplyReserve
  repeat' with_reducible first
    | assumption | apply State.KeptOut.next | apply State.reserveStream_kept | apply State.reserveQueue_kept
    | apply State.cuIssue_kept | split

@[simp] theorem execMemReply_kept (k : Nat) : s₀.KeptOut (execMemReply k s) := by
  unfold execMemReply
  repeat' with_reducible first
    | assumption | apply State.KeptOut.next | apply State.queueReply_kept | split

@[simp] theorem execCatchupReply_kept (m : Taking) : s₀.KeptOut (execCatchupReply m s) := by
  unfold execCatchupReply
  dsimp only
  repeat' with_reducible first
    | assumption | apply State.KeptOut.next | apply State.taken_kept | apply State.modResv_kept
    | apply State.ctlWrite_kept | apply State.modCu_kept | apply State.cuSettle_kept | split

@[simp] theorem execCatchupReadTimeout_kept (tag : Fin 16384) : s₀.KeptOut (execCatchupReadTimeout tag s) := by
  unfold execCatchupReadTimeout
  dsimp only
  repeat' with_reducible first
    | assumption | apply State.KeptOut.next | apply State.after_kept | apply State.replyLost_kept
    | apply State.modCu_kept | apply State.raise_kept | split

@[simp] theorem execCatchupVerifyComplete_kept : s₀.KeptOut (execCatchupVerifyComplete s) := by
  unfold execCatchupVerifyComplete
  repeat' with_reducible first
    | assumption | apply State.KeptOut.next | apply State.modCu_kept | apply State.raise_kept | split

@[simp] theorem execCatchupAbandon_kept (p : HostPort) : s₀.KeptOut (execCatchupAbandon p s) := by
  unfold execCatchupAbandon
  repeat' with_reducible first
    | assumption | apply State.KeptOut.next | refine State.hostWrite_kept ?_ _ _ _ (fun _ _ => ?_)
    | apply State.modCu_kept | split

@[simp] theorem execCatchupZeroed_kept : s₀.KeptOut (execCatchupZeroed s) := by
  unfold execCatchupZeroed
  repeat' with_reducible first
    | assumption | apply State.KeptOut.next | refine State.Kept.foldl ?_ (fun _ _ _ => ?_) | apply State.hbmZero_kept
    | apply State.modCu_kept | split

/-! ## Recipes -/

@[simp] theorem execRecipeRunStart_kept (u : Fin 4) : s₀.KeptOut (execRecipeRunStart u s) := by
  unfold execRecipeRunStart
  dsimp only
  repeat' with_reducible first
    | assumption | apply State.KeptOut.next | apply State.modLauter_kept | apply State.modChunk_kept
    | apply State.lauterExc_kept | split

@[simp] theorem execRecipeRunEnd_kept (u : Fin 4) : s₀.KeptOut (execRecipeRunEnd u s) := by
  unfold execRecipeRunEnd
  repeat' with_reducible first
    | assumption | apply State.KeptOut.next | apply State.jobDecide_kept | apply State.endReduction_kept
    | apply State.modLauter_kept | apply State.endRun_kept | apply State.lauterExc_kept | split

@[simp] theorem execResidueRetry_kept (u : Fin 4) : s₀.KeptOut (execResidueRetry u s) := by
  unfold execResidueRetry
  dsimp only
  repeat' with_reducible first
    | assumption | apply State.KeptOut.next | apply State.modLauter_kept | split

@[simp] theorem execRecHatom_kept (u : Fin 4) : s₀.KeptOut (execRecHatom u s) := by
  unfold execRecHatom
  extract_lets l s1
  have h1 : s₀.Kept s1 := State.recipeStep_kept hk ..
  split
  · exact .next h1
  · split
    · exact .next h1
    · extract_lets w base bs
      split
      · exact .next h1
      · exact .next (State.atoms_kept h1 _)

@[simp] theorem execHbmAtomicAdd_kept (k : Nat) (e : Ecc) : s₀.KeptOut (execHbmAtomicAdd k e s) := by
  unfold execHbmAtomicAdd
  split
  · exact .next hk
  · extract_lets served
    split
    · exact .next hk
    · next s1 _ _ =>
      have h1 : s₀.Kept s1 := State.atoms_kept hk _
      split
      · exact .next h1
      · exact .next (State.ctlWrite_kept (State.useFree_kept (State.ctlRead_kept h1 ..)) ..)

/-! ## Collective -/

@[simp] theorem execCollectiveSend_kept (c : ColSource) : s₀.KeptOut (execCollectiveSend c s) := by
  unfold execCollectiveSend
  repeat' with_reducible first
    | assumption | apply State.KeptOut.next | apply State.sendFromBinding_kept | apply State.sendFromContext_kept
    | split

@[simp] theorem execChunkGrant_kept (c : Fin 1024) : s₀.KeptOut (execChunkGrant c s) := by
  unfold execChunkGrant
  dsimp only
  repeat' with_reducible first
    | assumption | apply State.KeptOut.next | refine State.Kept.foldl ?_ (fun _ _ _ => ?_)
    | apply State.beginInstance_kept | apply State.modCtx_kept | apply State.modCol_kept | apply State.addGrant_kept
    | apply State.source_kept | split

@[simp] theorem execResultReserve_kept (g : Fin 4096) : s₀.KeptOut (execResultReserve g s) := by
  unfold execResultReserve
  dsimp only
  repeat' with_reducible first
    | assumption | apply State.KeptOut.next | apply State.modCol_kept | split

@[simp] theorem execContextAdvance_kept (c : Fin 1024) : s₀.KeptOut (execContextAdvance c s) := by
  unfold execContextAdvance
  dsimp only
  repeat' with_reducible first
    | assumption | apply State.KeptOut.next | apply State.modCtx_kept | apply State.beginInstance_kept | split

@[simp] theorem execGrant_kept (k : Nat) : s₀.KeptOut (execGrant k s) := by
  unfold execGrant
  dsimp only
  repeat' with_reducible first
    | assumption | apply State.KeptOut.next | refine State.takeCol_kept ?_ _ _ _ (fun _ _ _ => ?_)
    | apply State.dropHold_kept | apply State.addGrant_kept | split

@[simp] theorem execRetract_kept (k : Nat) : s₀.KeptOut (execRetract k s) := by
  unfold execRetract
  repeat' with_reducible first
    | assumption | apply State.KeptOut.next | refine State.takeCol_kept ?_ _ _ _ (fun _ _ _ => ?_)
    | apply State.dropHold_kept | apply State.retracted_kept | apply State.abandon_kept | split

@[simp] theorem execCollectiveStop_kept : s₀.KeptOut (execCollectiveStop s) := by
  unfold execCollectiveStop
  repeat' with_reducible first
    | assumption | apply State.KeptOut.next | apply State.modCol_kept | split

@[simp] theorem execCollectiveStall_kept (c : Fin 1024) : s₀.KeptOut (execCollectiveStall c s) := by
  unfold execCollectiveStall
  dsimp only
  repeat' with_reducible first
    | assumption | apply State.KeptOut.next | apply State.after_kept | apply State.modChunk_kept
    | apply State.modCol_kept | apply State.raise_kept | split

@[simp] theorem execColReset_kept (p : HostPort) : s₀.KeptOut (execColReset p s) := by
  unfold execColReset
  repeat' with_reducible first
    | assumption | apply State.KeptOut.next | refine State.Kept.foldl ?_ (fun _ _ _ => ?_)
    | refine State.hostWrite_kept ?_ _ _ _ (fun _ _ => ?_) | apply State.colEmpty_kept | apply State.modCol_kept
    | apply State.modLauter_kept | split

@[simp] theorem execColResume_kept (p : HostPort) : s₀.KeptOut (execColResume p s) := by
  unfold execColResume
  repeat' with_reducible first
    | assumption | apply State.KeptOut.next | refine State.hostWrite_kept ?_ _ _ _ (fun _ _ => ?_)
    | apply State.retracted_kept | apply State.modCol_kept | split

@[simp] theorem execColRetractGo_kept (p : HostPort) (epoch : Byte) : s₀.KeptOut (execColRetractGo p epoch s) := by
  unfold execColRetractGo
  dsimp only
  repeat' with_reducible first
    | assumption | apply State.KeptOut.next | refine State.hostWrite_kept ?_ _ _ _ (fun _ _ => ?_)
    | apply State.sendRetract_kept | split

@[simp] theorem execColRoundWrite_kept (p : HostPort) (high : Bool) (v : Word) :
    s₀.KeptOut (execColRoundWrite p high v s) := by
  unfold execColRoundWrite
  repeat' with_reducible first
    | assumption | apply State.KeptOut.next | refine State.hostWrite_kept ?_ _ _ _ (fun _ _ => ?_)
    | refine State.pairWrite_kept ?_ _ _ _ _ _ _ (fun _ _ _ => ?_) | apply State.colRebase_kept | split

/-! ## Faults -/

@[simp] theorem execBookRecordWrite_kept (ok : Bool) : s₀.KeptOut (execBookRecordWrite ok s) := by
  unfold execBookRecordWrite
  repeat' with_reducible first
    | assumption | apply State.KeptOut.next | apply State.modBook_kept | apply State.raise_kept | split

@[simp] theorem execClbClear_kept (p : HostPort) (e : Ecc) : s₀.KeptOut (execClbClear p e s) := by
  unfold execClbClear
  dsimp only
  repeat' with_reducible first
    | assumption | apply State.KeptOut.next | refine State.hostWrite_kept ?_ _ _ _ (fun _ _ => ?_)
    | apply State.eccRead_kept | apply State.modBook_kept | split

@[simp] theorem execClbClearComplete_kept : s₀.KeptOut (execClbClearComplete s) := by
  unfold execClbClearComplete
  repeat' with_reducible first
    | assumption | apply State.KeptOut.next | apply State.modBook_kept | split

@[simp] theorem execFaultTake_kept : s₀.KeptOut (execFaultTake s) := by
  unfold execFaultTake
  repeat' with_reducible first
    | assumption | apply State.KeptOut.next | apply State.after_kept | apply State.modFault_kept
    | apply State.takeFault_kept | split

@[simp] theorem execFltFirstClear_kept (p : HostPort) : s₀.KeptOut (execFltFirstClear p s) := by
  unfold execFltFirstClear
  dsimp only
  repeat' with_reducible first
    | assumption | apply State.KeptOut.next | refine State.hostWrite_kept ?_ _ _ _ (fun _ _ => ?_)
    | apply State.modFault_kept | apply State.pulse_kept | split

@[simp] theorem execFltForce_kept (p : HostPort) (w : Fin 57) (v : Word) : s₀.KeptOut (execFltForce p w v s) := by
  unfold execFltForce
  dsimp only
  repeat' with_reducible first
    | assumption | apply State.KeptOut.next | refine State.Kept.foldl ?_ (fun _ _ _ => ?_)
    | refine State.hostWrite_kept ?_ _ _ _ (fun _ _ => ?_) | apply State.modFault_kept | split

@[simp] theorem execFaultPulseStart_kept : s₀.KeptOut (execFaultPulseStart s) := by
  unfold execFaultPulseStart
  repeat' with_reducible first
    | assumption | apply State.KeptOut.next | apply State.after_kept | apply State.modFault_kept
    | apply State.signalBoth_kept | split

@[simp] theorem execFaultPulseEnd_kept : s₀.KeptOut (execFaultPulseEnd s) := by
  unfold execFaultPulseEnd
  repeat' with_reducible first
    | assumption | apply State.KeptOut.next | apply State.useFree_kept | apply State.after_kept
    | apply State.modFault_kept | split

@[simp] theorem execFltPinWrite_kept (p : HostPort) (v : Word) : s₀.KeptOut (execFltPinWrite p v s) :=
  .next (State.hostWrite_kept hk _ _ _ fun _ h => State.modFault_kept h ..)

@[simp] theorem execHealthSecond_kept (i : SecondInputs) : s₀.KeptOut (execHealthSecond i s) := by
  unfold execHealthSecond
  repeat' with_reducible first
    | assumption | apply State.KeptOut.next | apply State.dwell_kept | apply State.modHealth_kept
    | apply State.modBook_kept | apply State.modPower_kept | apply State.raise_kept | apply State.rescore_kept | split

@[simp] theorem execHealthSave_kept : s₀.KeptOut (execHealthSave s) := by
  unfold execHealthSave
  repeat' with_reducible first
    | assumption | apply State.KeptOut.next | apply State.modHealth_kept | split

@[simp] theorem execHold_kept (p : HostPort) : s₀.KeptOut (execHold p s) := by
  unfold execHold
  dsimp only
  repeat' with_reducible first
    | assumption | apply State.KeptOut.next | refine State.hostWrite_kept ?_ _ _ _ (fun _ _ => ?_)
    | apply State.modHealth_kept | apply State.event_kept | split

@[simp] theorem execHoldRelease_kept (p : HostPort) : s₀.KeptOut (execHoldRelease p s) :=
  .next (State.hostWrite_kept hk _ _ _ fun _ h => State.endHold_kept h ..)

@[simp] theorem execHoldExpire_kept : s₀.KeptOut (execHoldExpire s) := by
  unfold execHoldExpire
  repeat' with_reducible first
    | assumption | apply State.KeptOut.next | apply State.endHold_kept | split

@[simp] theorem execProve_kept (p : HostPort) : s₀.KeptOut (execProve p s) := by
  unfold execProve
  repeat' with_reducible first
    | assumption | apply State.KeptOut.next | refine State.hostWrite_kept ?_ _ _ _ (fun _ _ => ?_)
    | apply State.overwriteAll_kept | apply State.modHealth_kept | split

@[simp] theorem execAbortProve_kept (p : HostPort) : s₀.KeptOut (execAbortProve p s) := by
  unfold execAbortProve
  repeat' with_reducible first
    | assumption | apply State.KeptOut.next | refine State.hostWrite_kept ?_ _ _ _ (fun _ _ => ?_)
    | apply State.endProve_kept | split

@[simp] theorem execProveStageEnd_kept (pass : Bool) : s₀.KeptOut (execProveStageEnd pass s) := by
  unfold execProveStageEnd
  split
  · exact .next hk
  · split
    · exact .next (State.endProve_kept hk _)
    · extract_lets n s1 s2
      have h1 : s₀.Kept s1 := State.after_kept hk _
      have h2 : s₀.Kept s2 := by
        unfold s2
        split
        · exact State.links_kept h1 _
        · exact h1
      split
      · exact .next (State.endProve_kept h1 _)
      · split
        · exact .next (State.endProve_kept h2 _)
        · exact .next (State.modHealth_kept h2 _)

/-! ## FlagWaits -/

@[simp] theorem execFlagRaiseLand_kept : s₀.KeptOut (execFlagRaiseLand s) := by
  unfold execFlagRaiseLand
  split
  · exact .next hk
  · split
    · exact .next hk
    · extract_lets s1
      have h1 : s₀.Kept s1 := State.raises_kept hk _
      split
      · exact .next (State.raiseFlag_kept h1 ..)
      · exact .next h1

@[simp] theorem execFlagWaitResume_kept (a : Agent) : s₀.KeptOut (execFlagWaitResume a s) := by
  unfold execFlagWaitResume
  repeat' with_reducible first
    | assumption | apply State.KeptOut.next | apply State.modTun_kept | apply State.takeFlag_kept
    | apply State.waitEnds_kept | apply State.sqSettle_kept | split

@[simp] theorem execFlagWalkHop_kept (a : Agent) : s₀.KeptOut (execFlagWalkHop a s) := by
  unfold execFlagWalkHop
  repeat' with_reducible first
    | assumption | apply State.KeptOut.next | apply State.setWalk_kept | split

@[simp] theorem execFlagCycleRecheck_kept (a : Agent) : s₀.KeptOut (execFlagCycleRecheck a s) := by
  unfold execFlagCycleRecheck
  dsimp only
  repeat' with_reducible first
    | assumption | apply State.KeptOut.next | refine State.Kept.foldl ?_ (fun _ _ _ => ?_) | apply State.after_kept
    | apply State.setWalk_kept | apply State.modTun_kept | apply State.raise_kept | apply State.haltFault_kept
    | apply State.waitEnds_kept | split

@[simp] theorem execFlagWaitTimeout_kept (a : Agent) : s₀.KeptOut (execFlagWaitTimeout a s) := by
  unfold execFlagWaitTimeout
  repeat' with_reducible first
    | assumption | apply State.KeptOut.next | apply State.after_kept | apply State.raise_kept
    | apply State.haltFault_kept | apply State.waitEnds_kept | split

/-! ## Token -/

@[simp] theorem execTokenRequest_kept (p : HostPort) : s₀.KeptOut (execTokenRequest p s) := by
  refine .next (State.tokenCommand_kept hk _ _ fun u hu => ?_)
  repeat' with_reducible first
    | assumption | exact State.setHolder_kept hu _ _ (portNum_le _) | apply State.signalBoth_kept
    | exact State.modHost_kept hu _ (.inl (HostSt.setReq_holder ..)) | split

@[simp] theorem execTokenGrant_kept (p : HostPort) : s₀.KeptOut (execTokenGrant p s) := by
  refine .next (State.tokenCommand_kept hk _ _ fun u hu => ?_)
  split
  · exact State.setHolder_kept hu _ _ (portNum_le _)
  · exact hu

@[simp] theorem execTokenDeny_kept (p : HostPort) : s₀.KeptOut (execTokenDeny p s) := by
  refine .next (State.tokenCommand_kept hk _ _ fun u hu => ?_)
  split
  · exact State.modHost_kept hu _ (.inl (HostSt.setReq_holder ..))
  · exact hu

@[simp] theorem execAutoOn_kept (p : HostPort) : s₀.KeptOut (execAutoOn p s) := by
  unfold execAutoOn
  repeat' with_reducible first
    | assumption | apply State.KeptOut.next | refine State.tokenCommand_kept ?_ _ _ (fun _ _ => ?_)
    | apply State.modHost_kept | split | exact .inl rfl

@[simp] theorem execAutoOff_kept (p : HostPort) : s₀.KeptOut (execAutoOff p s) := by
  unfold execAutoOff
  repeat' with_reducible first
    | assumption | apply State.KeptOut.next | refine State.tokenCommand_kept ?_ _ _ (fun _ _ => ?_)
    | apply State.modHost_kept | split | exact .inl rfl

@[simp] theorem execTokenTakeover_kept : s₀.KeptOut (execTokenTakeover s) := by
  unfold execTokenTakeover
  split
  · exact .next hk
  · split
    · exact .next hk
    · refine .next (State.setHolder_kept (State.after_kept hk _) _ _ ?_)
      split
      · exact Nat.zero_le _
      · exact portNum_le _

@[simp] theorem execHostLinkDown_kept (p : HostPort) : s₀.KeptOut (execHostLinkDown p s) := by
  unfold execHostLinkDown
  repeat' with_reducible first
    | assumption | apply State.KeptOut.next | apply State.modPort_kept | apply State.holderLost_kept | split

@[simp] theorem execHostLinkUp_kept (p : HostPort) (speed : Nat) (link : LinkSetup) :
    s₀.KeptOut (execHostLinkUp p speed link s) := by
  unfold execHostLinkUp
  repeat' with_reducible first
    | assumption | apply State.KeptOut.next | apply State.modPort_kept | apply State.configured_kept
    | apply State.holderBack_kept | split

@[simp] theorem execHostPortUncorrectableError_kept (m : PortError) :
    s₀.KeptOut (execHostPortUncorrectableError m s) := by
  unfold execHostPortUncorrectableError
  repeat' with_reducible first
    | assumption | apply State.KeptOut.next | apply State.aerError_kept | apply State.raise_kept | split

@[simp] theorem execHstVsBadWrite_kept (p : HostPort) (v : Word) : s₀.KeptOut (execHstVsBadWrite p v s) := by
  unfold execHstVsBadWrite
  dsimp only
  repeat' with_reducible first
    | assumption | apply State.KeptOut.next | apply State.flushPosted_kept | apply State.modPort_kept | split

@[simp] theorem execMgmtHighBer_kept (lockLost : Bool) : s₀.KeptOut (execMgmtHighBer lockLost s) := by
  unfold execMgmtHighBer
  repeat' with_reducible first
    | assumption | apply State.KeptOut.next | apply State.modHost_kept | apply State.raise_kept | split
    | exact .inl rfl

/-! ## Power -/

@[simp] theorem execSupplyWarningFall_kept (vin : Nat) : s₀.KeptOut (execSupplyWarningFall vin s) := by
  unfold execSupplyWarningFall
  dsimp only
  repeat' with_reducible first
    | assumption | apply State.KeptOut.next | apply State.modPower_kept | apply State.mark_kept
    | apply State.raiseIn_kept | apply State.modHealth_kept | apply State.guardEngages_kept | split

@[simp] theorem execSupplyWarningRise_kept (vin : Nat) : s₀.KeptOut (execSupplyWarningRise vin s) := by
  unfold execSupplyWarningRise
  dsimp only
  repeat' with_reducible first
    | assumption | apply State.KeptOut.next | apply State.modPower_kept | apply State.event_kept | split

@[simp] theorem execPowerStageFault_kept (_n : Fin 8) : s₀.KeptOut (execPowerStageFault _n s) := by
  unfold execPowerStageFault
  repeat' with_reducible first
    | assumption | apply State.KeptOut.next | apply State.raise_kept | split

@[simp] theorem execRailLeavesRegulation_kept : s₀.KeptOut (execRailLeavesRegulation s) := by
  unfold execRailLeavesRegulation
  repeat' with_reducible first
    | assumption | apply State.KeptOut.next | apply State.modPower_kept | split

@[simp] theorem execGuardMs_kept (meanW : Nat) : s₀.KeptOut (execGuardMs meanW s) := by
  unfold execGuardMs
  dsimp only
  repeat' with_reducible first
    | assumption | apply State.KeptOut.next | apply State.dwell_kept | apply State.modPower_kept
    | apply State.guardEngages_kept | split

@[simp] theorem execPowerSafety_kept (meanW : Nat) : s₀.KeptOut (execPowerSafety meanW s) := by
  unfold execPowerSafety
  dsimp only
  repeat' with_reducible first
    | assumption | apply State.KeptOut.next | apply State.modPower_kept | apply State.mark_kept
    | apply State.event_kept | apply State.loopsSeen_kept | split

@[simp] theorem execTjSample_kept (tj : Nat) : s₀.KeptOut (execTjSample tj s) := by
  unfold execTjSample
  split
  · exact .next hk
  · extract_lets s1 pins s2
    have h2 : s₀.Kept s2 := State.pins_kept (State.modPower_kept hk _) _
    split
    · exact .next h2
    · exact .next (State.Kept.foldl (State.modPower_kept (State.raise_kept h2 _ _) _)
        fun _ _ h => State.modCtl_kept h _ _)

@[simp] theorem execThermalClampStep_kept : s₀.KeptOut (execThermalClampStep s) := by
  unfold execThermalClampStep
  repeat' with_reducible first
    | assumption | apply State.KeptOut.next | apply State.dwell_kept | apply State.modPower_kept
    | apply State.mark_kept | apply State.raise_kept | apply State.event_kept | apply State.loopsSeen_kept | split

@[simp] theorem execHydrometerRun_kept (margin : Nat) : s₀.KeptOut (execHydrometerRun margin s) := by
  unfold execHydrometerRun
  repeat' with_reducible first
    | assumption | apply State.KeptOut.next | apply State.dwell_kept | apply State.modPower_kept
    | apply State.raise_kept | apply State.loopsSeen_kept | split

@[simp] theorem execLaserBiasStep_kept (p : Fin 14) (lane : Fin 16) (want : Nat) :
    s₀.KeptOut (execLaserBiasStep p lane want s) := by
  unfold execLaserBiasStep
  repeat' with_reducible first
    | assumption | apply State.KeptOut.next | apply State.dwell_kept | apply State.modLane_kept
    | apply State.raise_kept | apply State.loopsSeen_kept | split

@[simp] theorem execEqualisationStep_kept (p : Fin 14) (lane : Fin 16) (atEnd : Bool) :
    s₀.KeptOut (execEqualisationStep p lane atEnd s) := by
  unfold execEqualisationStep
  repeat' with_reducible first
    | assumption | apply State.KeptOut.next | apply State.dwell_kept | apply State.modLane_kept
    | apply State.loopsSeen_kept | split

@[simp] theorem execDoze_kept (p : HostPort) (mask : BitVec 4) : s₀.KeptOut (execDoze p mask s) := by
  unfold execDoze
  repeat' with_reducible first
    | assumption | apply State.KeptOut.next | refine State.Kept.foldl ?_ (fun _ _ _ => ?_)
    | refine State.hostWrite_kept ?_ _ _ _ (fun _ _ => ?_) | apply State.pwrRefuse_kept | apply State.dozeKettle_kept
    | split

@[simp] theorem execWake_kept (p : HostPort) (mask : BitVec 4) : s₀.KeptOut (execWake p mask s) := by
  unfold execWake
  repeat' with_reducible first
    | assumption | apply State.KeptOut.next | refine State.Kept.foldl ?_ (fun _ _ _ => ?_)
    | refine State.hostWrite_kept ?_ _ _ _ (fun _ _ => ?_) | apply State.modPower_kept | split

@[simp] theorem execKettleWakeComplete_kept (k : Fin 4) : s₀.KeptOut (execKettleWakeComplete k s) := by
  unfold execKettleWakeComplete
  repeat' with_reducible first
    | assumption | apply State.KeptOut.next | apply State.wakeKettle_kept | apply State.performWaiting_kept | split

@[simp] theorem execKettleIdleEnter_kept (k : Fin 4) : s₀.KeptOut (execKettleIdleEnter k s) := by
  unfold execKettleIdleEnter
  repeat' with_reducible first
    | assumption | apply State.KeptOut.next | apply State.dwell_kept | apply State.modPower_kept | split

/-! ## Reset -/

@[simp] theorem execWarm_kept (p : HostPort) : s₀.KeptOut (execWarm p s) := by
  refine .next (State.hostWrite_kept hk _ _ _ fun u hu => ?_)
  split
  · exact hu
  · extract_lets s1 round open_ s2 s3 s4 s5 s6 s7 s8 s9
    have h2 : s₀.Kept s2 := by
      refine State.Kept.foldl (State.flushSpared_kept (State.proveCut_kept hu)) fun v t hv => ?_
      split
      · exact hv
      · exact State.resetTun_kept (State.closeStreams_kept hv _) _ _
    have h3 : s₀.Kept s3 := State.streamsEnd_kept h2
    have h5 : s₀.Kept s5 := State.linksReset_kept (State.stageLost_kept
      (State.queuesReset_kept (State.maltingsReset_kept (State.modFault_kept h3 _)) _)) _
    have h7 : s₀.Kept s7 := State.silentDefaults_kept (State.modJournal_kept (State.modCol_kept h5 _) _)
    have h9 : s₀.Kept s9 :=
      State.modPower_kept (State.Kept.foldl h7 fun _ _ h => State.modCtl_kept h _ _) _
    split
    · exact State.restoredBits_kept h9 _
    · exact h9

@[simp] theorem execWarmResetComplete_kept : s₀.KeptOut (execWarmResetComplete s) := by
  unfold execWarmResetComplete
  repeat' with_reducible first
    | assumption | apply State.KeptOut.next | apply State.after_kept | apply State.modPower_kept
    | apply State.linksReset_kept | apply State.restoredBits_kept | apply State.performWaiting_kept | split

@[simp] theorem execFabric_kept (p : HostPort) : s₀.KeptOut (execFabric p s) := by
  unfold execFabric
  repeat' with_reducible first
    | assumption | apply State.KeptOut.next | refine State.Kept.foldl ?_ (fun _ _ _ => ?_)
    | refine State.hostWrite_kept ?_ _ _ _ (fun _ _ => ?_) | apply State.declareDown_kept | apply State.refence_kept
    | apply State.restoredBits_kept | split

@[simp] theorem execIslandReset_kept (p : HostPort) (n : BitVec 9) : s₀.KeptOut (execIslandReset p n s) := by
  unfold execIslandReset
  repeat' with_reducible first
    | assumption | apply State.KeptOut.next | refine State.hostWrite_kept ?_ _ _ _ (fun _ _ => ?_)
    | apply State.modPower_kept | apply State.islandReset_kept | split

@[simp] theorem execIslandResetComplete_kept : s₀.KeptOut (execIslandResetComplete s) := by
  unfold execIslandResetComplete
  dsimp only
  repeat' with_reducible first
    | assumption | apply State.KeptOut.next | apply State.after_kept | apply State.modPower_kept
    | apply State.modCtl_kept | apply State.performWaiting_kept | apply State.restoredBits_kept | split

@[simp] theorem execSupplyOff_kept (vin : Nat) : s₀.KeptOut (execSupplyOff vin s) := by
  unfold execSupplyOff
  repeat' with_reducible first
    | assumption | apply State.KeptOut.next | apply State.lost_kept | apply State.modPower_kept | split

@[simp] theorem execPowerOn_kept : s₀.KeptOut (execPowerOn s) := by
  unfold execPowerOn
  repeat' with_reducible first
    | assumption | apply State.KeptOut.next | apply State.lost_kept | apply State.modHost_kept
    | apply State.modBook_kept | apply State.modPower_kept | split | exact .inl rfl

@[simp] theorem execPackageReset_kept : s₀.KeptOut (execPackageReset s) := by
  unfold execPackageReset
  repeat' with_reducible first
    | assumption | apply State.KeptOut.next | apply State.lost_kept | apply State.modPower_kept | split

@[simp] theorem execPackageResetRelease_kept : s₀.KeptOut (execPackageResetRelease s) := by
  unfold execPackageResetRelease
  repeat' with_reducible first
    | assumption | apply State.KeptOut.next | apply State.modPower_kept | split

/-- Standby loses HBM, which is then empty, and takes the token from its holder (R390). -/
@[simp] theorem execStandby_kept (p : HostPort) : s₀.KeptOut (execStandby p s) := by
  refine .next (State.hostWrite_kept hk _ _ _ fun u hu => ?_)
  split
  · exact State.pwrRefuse_kept hu
  · extract_lets s1 held meas3 loading lostJ s2 s3 s4 s5 s6 s7 s8 disc s9
    have h2 : s₀.Kept s2 := State.Kept.foldl (State.proveCut_kept hu) fun _ _ h => State.modTun_kept h _ _
    clear_value s2
    have h3 : s₀.Kept s3 := h2.fresh rfl rfl (.inl rfl)
    have h4 : s₀.Kept s4 := State.linksReset_kept (State.stageLost_kept
      (State.queuesReset_kept (State.maltingsReset_kept h3) _)) _
    have h5 : s₀.Kept s5 := State.modSec_kept (State.silentDefaults_kept
      (State.modJournal_kept (State.modCol_kept h4 _) _)) _
    have h6 : s₀.Kept s6 := by
      unfold s6
      split
      · exact State.modSec_kept h5 _
      · exact h5
    have h8 : s₀.Kept s8 := State.modHealth_kept (State.modHost_kept h6 _ (.inr (Nat.zero_le _))) _
    have h9 : s₀.Kept s9 := h8.same rfl rfl rfl rfl
    exact State.restoredBits_kept (State.modPower_kept h9 _) _

@[simp] theorem execPortReset_kept (p : HostPort) (c : PortResetCause) : s₀.KeptOut (execPortReset p c s) := by
  unfold execPortReset
  repeat' with_reducible first
    | assumption | apply State.KeptOut.next | apply State.leaveStandby_kept | apply State.modPort_kept
    | apply State.modHost_kept | apply State.flushHost_kept | apply State.queuesReset_kept
    | apply State.releaseToken_kept | apply State.holderLost_kept | split | exact .inl rfl

@[simp] theorem execPortResetComplete_kept (m : PortSetup) : s₀.KeptOut (execPortResetComplete m s) := by
  unfold execPortResetComplete
  dsimp only
  repeat' with_reducible first
    | assumption | apply State.KeptOut.next | apply State.after_kept | apply State.modPort_kept
    | apply State.configured_kept | apply State.holderBack_kept | apply State.restoredBits_kept | split

@[simp] theorem execBootStepEnd_kept (fail : Nat) (stack : Fin 16) : s₀.KeptOut (execBootStepEnd fail stack s) := by
  unfold execBootStepEnd
  dsimp only
  repeat' with_reducible first
    | assumption | apply State.KeptOut.next | apply State.modPower_kept | apply State.modFault_kept
    | apply State.modCtl_kept | apply State.raise_kept | apply State.after_kept | apply State.stepPassed_kept
    | apply State.bootStep_kept | split

/-! ## Security -/

@[simp] theorem execFwLoad_kept (p : HostPort) : s₀.KeptOut (execFwLoad p s) := by
  unfold execFwLoad
  dsimp only
  repeat' with_reducible first
    | assumption | apply State.KeptOut.next | refine State.hostWrite_kept ?_ _ _ _ (fun _ _ => ?_)
    | apply State.secDone_kept | apply State.modSec_kept | apply State.fwReads_kept | split

@[simp] theorem execFwVerifyComplete_kept : s₀.KeptOut (execFwVerifyComplete s) := by
  unfold execFwVerifyComplete
  dsimp only
  repeat' with_reducible first
    | assumption | apply State.KeptOut.next | apply State.after_kept | apply State.fwDone_kept
    | apply State.modPower_kept | apply State.bootStep_kept | apply State.modSec_kept | split

@[simp] theorem execOwnerEnroll_kept (p : HostPort) (e : Ecc) : s₀.KeptOut (execOwnerEnroll p e s) := by
  unfold execOwnerEnroll
  repeat' with_reducible first
    | assumption | apply State.KeptOut.next | refine State.ownerCommand_kept ?_ _ _ _ _ _ (fun _ _ _ => ?_)
    | apply State.discardStage_kept | apply State.modSec_kept

@[simp] theorem execOwnerRelease_kept (p : HostPort) (e : Ecc) : s₀.KeptOut (execOwnerRelease p e s) := by
  unfold execOwnerRelease
  repeat' with_reducible first
    | assumption | apply State.KeptOut.next | refine State.ownerCommand_kept ?_ _ _ _ _ _ (fun _ _ _ => ?_)
    | apply State.discardStage_kept | apply State.modSec_kept

@[simp] theorem execDebugUnlock_kept (p : HostPort) (e : Ecc) : s₀.KeptOut (execDebugUnlock p e s) := by
  unfold execDebugUnlock
  repeat' with_reducible first
    | assumption | apply State.KeptOut.next | refine State.ownerCommand_kept ?_ _ _ _ _ _ (fun _ _ _ => ?_)
    | apply State.modSec_kept

@[simp] theorem execAttest_kept (p : HostPort) (e : Ecc) : s₀.KeptOut (execAttest p e s) := by
  unfold execAttest
  dsimp only
  repeat' with_reducible first
    | assumption | apply State.KeptOut.next | refine State.hostWrite_kept ?_ _ _ _ (fun _ _ => ?_)
    | apply State.secDone_kept | apply State.eccRead_kept | apply State.ctlWrite_kept | split

@[simp] theorem execExportChain_kept (m : ChainExport) : s₀.KeptOut (execExportChain m s) := by
  unfold execExportChain
  dsimp only
  repeat' with_reducible first
    | assumption | apply State.KeptOut.next | refine State.hostWrite_kept ?_ _ _ _ (fun _ _ => ?_)
    | apply State.secDone_kept | apply State.ctlWrite_kept | apply State.modSec_kept | split

@[simp] theorem execShieldBreach_kept : s₀.KeptOut (execShieldBreach s) := by
  unfold execShieldBreach
  repeat' with_reducible first
    | assumption | apply State.KeptOut.next | apply State.modSec_kept | apply State.raise_kept | split

@[simp] theorem execMgmtChain_kept : s₀.KeptOut (execMgmtChain s) := by
  unfold execMgmtChain
  repeat' with_reducible first
    | assumption | apply State.KeptOut.next | apply State.mgmtReply_kept | split

@[simp] theorem execMgmtAttest_kept (nonce : List Byte) : s₀.KeptOut (execMgmtAttest nonce s) := by
  unfold execMgmtAttest
  repeat' with_reducible first
    | assumption | apply State.KeptOut.next | apply State.mgmtReply_kept | split

@[simp] theorem execMgmtWake_kept (block : List Byte) : s₀.KeptOut (execMgmtWake block s) := by
  unfold execMgmtWake
  repeat' with_reducible first
    | assumption | apply State.KeptOut.next | apply State.mgmtWake_kept | split

@[simp] theorem execHostReadCompletion_kept (k : Nat) (c : HostCpl) :
    s₀.KeptOut (execHostReadCompletion k c s) := by
  unfold execHostReadCompletion
  dsimp only
  repeat' with_reducible first
    | assumption | apply State.KeptOut.next | apply State.flushPosted_kept | apply State.aerAdvisory_kept
    | apply State.readEnds_kept | split

@[simp] theorem execHostCompletionTimeout_kept (k : Nat) : s₀.KeptOut (execHostCompletionTimeout k s) := by
  unfold execHostCompletionTimeout
  dsimp only
  repeat' with_reducible first
    | assumption | apply State.KeptOut.next | apply State.after_kept | apply State.aerError_kept
    | apply State.readEnds_kept | split

/-! ## Registers -/

@[simp] theorem execBookSnapshot_kept : s₀.KeptOut (execBookSnapshot s) := by
  unfold execBookSnapshot
  repeat' with_reducible first
    | assumption | apply State.KeptOut.next | apply State.modBook_kept | split

@[simp] theorem execMgmtStatus_kept : s₀.KeptOut (execMgmtStatus s) := by
  unfold execMgmtStatus
  repeat' with_reducible first
    | assumption | apply State.KeptOut.next | apply State.mgmtReply_kept | split

/-! ## Mgmt -/

@[simp] theorem execMgmtFrameReceive_kept (bytes : List Byte) : s₀.KeptOut (execMgmtFrameReceive bytes s) := by
  unfold execMgmtFrameReceive
  dsimp only
  repeat' with_reducible first
    | assumption | apply State.KeptOut.next | refine State.Kept.foldl ?_ (fun _ _ _ => ?_) | apply State.modHost_kept
    | apply State.mgmtWake_kept | apply State.emit_kept | split | exact .inl rfl

/-! ## TapOps -/

@[simp] theorem execTapTckEdge_kept (rising tms tdi : Bool) : s₀.KeptOut (execTapTckEdge rising tms tdi s) := by
  unfold execTapTckEdge
  repeat' with_reducible first
    | assumption | apply State.KeptOut.next | apply State.tapRise_kept | apply State.tapFall_kept | split

/-! ## TunMatrix -/

@[simp] theorem execMldsc_kept (t : Fin 192) : s₀.KeptOut (execMldsc t s) := by
  unfold execMldsc
  dsimp only
  repeat' with_reducible first
    | assumption | apply State.KeptOut.next | refine State.issue_kept ?_ _ _ _ (fun _ _ _ _ => ?_)
    | apply State.slipEmpty_kept | apply State.slipRes_kept | apply State.setTun_kept | apply State.fly_kept | split

@[simp] theorem execMatrixProductStart_kept (t : Fin 192) (sparse : Bool) :
    s₀.KeptOut (execMatrixProductStart t sparse s) := by
  unfold execMatrixProductStart
  dsimp only
  repeat' with_reducible first
    | assumption | apply State.KeptOut.next | apply State.reach_kept | apply State.modTun_kept | split

@[simp] theorem execMatrixProductComplete_kept (t : Fin 192) (sparse : Bool) :
    s₀.KeptOut (execMatrixProductComplete t sparse s) := by
  unfold execMatrixProductComplete
  dsimp only
  repeat' with_reducible first
    | assumption | apply State.KeptOut.next | apply State.reach_kept | apply State.modTun_kept | split

@[simp] theorem execMst_kept (t : Fin 192) : s₀.KeptOut (execMst t s) := by
  unfold execMst
  dsimp only
  repeat' with_reducible first
    | assumption | apply State.KeptOut.next | refine State.issue_kept ?_ _ _ _ (fun _ _ _ _ => ?_)
    | apply State.slipRes_kept | apply State.fly_kept | apply State.digestItem_kept | split

@[simp] theorem execMzero_kept (t : Fin 192) : s₀.KeptOut (execMzero t s) := by
  unfold execMzero
  dsimp only
  repeat' with_reducible first
    | assumption | apply State.KeptOut.next | refine State.issue_kept ?_ _ _ _ (fun _ _ _ _ => ?_)
    | apply State.slipRes_kept | apply State.fly_kept | split

@[simp] theorem execMsetf_kept (t : Fin 192) : s₀.KeptOut (execMsetf t s) := by
  unfold execMsetf
  dsimp only
  repeat' with_reducible first
    | assumption | apply State.KeptOut.next | refine State.issue_kept ?_ _ _ _ (fun _ _ _ _ => ?_)
    | apply State.exception_kept | apply State.fly_kept | split

/-! ## TunMover -/

@[simp] theorem execMovl_kept (t : Fin 192) (e : Ecc) : s₀.KeptOut (execMovl t e s) := by
  unfold execMovl
  dsimp only
  repeat' with_reducible first
    | assumption | apply State.KeptOut.next | refine State.issue_kept ?_ _ _ _ (fun _ _ _ _ => ?_)
    | apply State.exception_kept | apply State.fly_kept | split

@[simp] theorem execMovs_kept (t : Fin 192) : s₀.KeptOut (execMovs t s) := by
  unfold execMovs
  dsimp only
  repeat' with_reducible first
    | assumption | apply State.KeptOut.next | refine State.issue_kept ?_ _ _ _ (fun _ _ _ _ => ?_)
    | apply State.exception_kept | apply State.slipEmpty_kept | apply State.setTun_kept | apply State.fly_kept | split

@[simp] theorem execMovq_kept (t : Fin 192) : s₀.KeptOut (execMovq t s) := by
  unfold execMovq
  repeat' with_reducible first
    | assumption | apply State.KeptOut.next | refine State.issue_kept ?_ _ _ _ (fun _ _ _ _ => ?_)
    | apply State.slipEmpty_kept | apply State.setTun_kept | apply State.fly_kept | split

/-! ## TunVector -/

@[simp] theorem execVld_kept (t : Fin 192) : s₀.KeptOut (execVld t s) := by
  unfold execVld
  dsimp only
  repeat' with_reducible first
    | assumption | apply State.KeptOut.next | refine State.issue_kept ?_ _ _ _ (fun _ _ _ _ => ?_)
    | apply State.slipEmpty_kept | apply State.slipRes_kept | apply State.setTun_kept | apply State.fly_kept | split

@[simp] theorem execVst_kept (t : Fin 192) : s₀.KeptOut (execVst t s) := by
  unfold execVst
  dsimp only
  repeat' with_reducible first
    | assumption | apply State.KeptOut.next | refine State.issue_kept ?_ _ _ _ (fun _ _ _ _ => ?_)
    | apply State.slipRes_kept | apply State.fly_kept | apply State.digestItem_kept | split

@[simp] theorem execVfma_kept (t : Fin 192) : s₀.KeptOut (execVfma t s) := by
  unfold execVfma
  repeat' with_reducible first
    | assumption | apply State.KeptOut.next | refine State.issue_kept ?_ _ _ _ (fun _ _ _ _ => ?_)
    | apply State.vectorOp_kept

@[simp] theorem execVsel_kept (t : Fin 192) : s₀.KeptOut (execVsel t s) := by
  unfold execVsel
  repeat' with_reducible first
    | assumption | apply State.KeptOut.next | refine State.issue_kept ?_ _ _ _ (fun _ _ _ _ => ?_)
    | apply State.vectorOp_kept

/-! ## Writes of registers (R4 to R6, R340) -/

theorem State.ownerByBlock_kept (p : HostPort) : s₀.KeptOut (s.ownerByBlock p) := by
  unfold State.ownerByBlock
  split
  · exact execOwnerEnroll_kept hk ..
  · exact execOwnerRelease_kept hk ..
  · exact execDebugUnlock_kept hk ..

theorem State.commandWrite_kept {p : HostPort} {b : Bar0Block} {o : Nat} {v : Word} {r : Out}
    (h : s.commandWrite p b o v = some r) : s₀.KeptOut r := by
  unfold State.commandWrite at h
  dsimp only at h
  split at h
  case h_1 =>
    split at h
    · cases h
    · cases h
      split
      · exact execGristStage_kept hk ..
      · exact execGristCheck_kept hk ..
      · exact execGristArm_kept hk ..
      · exact execGristDisarm_kept hk ..
      · exact execGristClear_kept hk ..
      · exact execResolveKeep_kept hk ..
      · exact execResolveApply_kept hk ..
      · exact .next (State.hostWrite_kept hk _ _ _ fun _ hu => State.gristRefuse_kept hu ..)
  case h_2 =>
    split at h
    · split at h <;> cases h
      · exact execFtcSet_kept hk ..
      · exact execClearTable_kept hk ..
    · cases h; exact execDigReduce_kept hk ..
    · cases h
  case h_3 =>
    split at h
    · split at h <;> cases h
      exact execFltFirstClear_kept hk ..
    · cases h; exact execFltPinWrite_kept hk ..
    · split at h <;> cases h
      · exact execHold_kept hk ..
      · exact execHoldRelease_kept hk ..
      · exact execProve_kept hk ..
      · exact execAbortProve_kept hk ..
    · obtain ⟨w, -, rfl⟩ := Option.map_eq_some_iff.1 h
      exact execFltForce_kept hk ..
  case h_4 =>
    split at h <;> cases h
    exact execClbClear_kept hk ..
  case h_5 =>
    split at h
    · split at h <;> cases h
      · exact execWarm_kept hk ..
      · exact execFabric_kept hk ..
      · exact execStandby_kept hk ..
      · exact execDoze_kept hk ..
      · exact execWake_kept hk ..
    · cases h
      refine execIslandReset_kept ?_ ..
      split
      · refine State.hostWrite_kept hk _ _ _ fun _ hu => ?_
        split
        · exact hu
        · exact State.modPower_kept hu _
      · exact hk
    · cases h
  case h_6 =>
    split at h
    · cases h
    · split at h
      · obtain rfl := Option.some.inj h; exact execFwLoad_kept hk ..
      · obtain rfl := Option.some.inj h; exact State.ownerByBlock_kept hk ..
      · obtain rfl := Option.some.inj h; exact execAttest_kept hk ..
      · obtain rfl := Option.some.inj h; exact execExportChain_kept hk ..
      · cases h
  case h_7 =>
    split at h <;> cases h
    exact execHbmMapWrite_kept hk ..
  case h_8 =>
    split at h <;> cases h
    exact execLnkEnable_kept hk ..
  case h_9 =>
    split at h
    · split at h <;> cases h
      · exact execDiscRoot_kept hk ..
      · exact execDiscForget_kept hk ..
    · cases h; exact execMltSampCfgWrite_kept hk ..
    · split at h <;> cases h
      · exact execCatchupStart_kept hk ..
      · exact execCatchupAbandon_kept hk ..
    · cases h
  case h_10 =>
    split at h
    · split at h <;> cases h
      · exact execColReset_kept hk ..
      · exact execColResume_kept hk ..
    · cases h; exact execColRetractGo_kept hk ..
    · cases h
  case h_11 =>
    split at h
    · cases h
      split
      · exact execTunLoad_kept hk ..
      · exact execArmLaunch_kept hk ..
      · exact execTunHalt_kept hk ..
      · exact execTunClear_kept hk ..
      · exact .next (State.hostWrite_kept hk _ _ _ fun _ hu => State.tunRefuse_kept hu ..)
    · obtain ⟨f, -, rfl⟩ := Option.map_eq_some_iff.1 h
      exact execTunFlagWrite_kept hk ..
  case h_12 =>
    split at h <;> cases h
    exact execSqEnable_kept hk ..
  case h_13 => cases h

theorem State.pairHalf_kept (p : HostPort) (b : Bar0Block) (off lo : Nat) (high : Bool) (v : Word) :
    s₀.Kept (s.pairHalf p b off lo high v) := by
  have hact : ∀ (cur : DWord) (u : State), s₀.Kept u →
      s₀.Kept (u.pairWrite p off high v cur fun d s => s.pairStore b lo d) :=
    fun _ _ hu => State.pairWrite_kept hu _ _ _ _ _ _ fun _ _ h => State.pairStore_kept h ..
  unfold State.pairHalf
  dsimp only
  split
  · exact (execGristPitchAtWrite_kept hk ..).outState
  · exact (execMltCjStepWrite_kept hk ..).outState
  · exact (execMltCjCommitWrite_kept hk ..).outState
  · exact (execColRoundWrite_kept hk ..).outState
  · exact State.sqWrite_kept hk _ _ _ _ fun u hu => hact _ u hu
  · exact State.hostWrite_kept hk _ _ _ fun u hu => hact _ u hu

theorem State.write32_kept (p : HostPort) (off : Nat) (v : Word) : s₀.Kept (s.write32 p off v) := by
  unfold State.write32
  have hf := State.flushPosted_kept hk p
  dsimp only
  generalize s.flushPosted p = s at hf ⊢
  split
  · exact hf
  · split
    · split
      · exact hf
      · exact State.flushVector_kept (State.modPort_kept hf _ _) _ _
    · exact hf
    · split
      · repeat' with_reducible first
          | assumption | apply State.badAccess_kept | split
      · split
        · exact State.pairHalf_kept hf ..
        · split
          · next h => exact (State.commandWrite_kept hf h).outState
          · split
            · exact State.sqWrite_kept hf _ _ _ _ fun _ h => State.blockSet_kept h ..
            · exact State.hostWrite_kept hf _ _ _ fun _ h => State.blockSet_kept h ..

@[simp] theorem execLowWordWrite_kept (p : HostPort) (off : Nat) (v : Word) :
    s₀.KeptOut (execLowWordWrite p off v s) := by
  unfold execLowWordWrite
  repeat' with_reducible first
    | assumption | apply State.KeptOut.next | apply State.flushPosted_kept | apply State.badAccess_kept
    | apply State.write32_kept | split

@[simp] theorem execHighWordWrite_kept (p : HostPort) (off : Nat) (v : Word) :
    s₀.KeptOut (execHighWordWrite p off v s) :=
  execLowWordWrite_kept hk p off v

@[simp] theorem execRegisterWrite_kept (p : HostPort) (off size : Nat) (v : DWord) :
    s₀.KeptOut (execRegisterWrite p off size v s) := by
  unfold execRegisterWrite
  dsimp only
  repeat' with_reducible first
    | assumption | apply State.KeptOut.next | apply State.flushPosted_kept | apply State.badAccess_kept
    | apply State.write32_kept | split

/-- A remote access keeps what its accesses keep (R340). -/
theorem State.asRemote_kept {α : Type} (act : HostPort → State → State × α)
    (ha : ∀ p u, s₀.Kept u → s₀.Kept (act p u).1) : s₀.Kept (s.asRemote act).1 :=
  State.modHost_kept (State.modPort_kept (ha _ _ (State.modPort_kept (State.modHost_kept hk _ (.inl rfl)) _ _)) _ _) _
    (.inl rfl)

theorem readWords_kept (p : HostPort) (n off : Nat) : s₀.Kept (readWords p n off s).1 := by
  induction n generalizing s off with
  | zero => exact hk
  | succ n ih => exact ih (State.read32_kept hk ..) _

theorem writeWords_kept (p : HostPort) (vs : List Word) (off : Nat) : s₀.Kept (writeWords p vs off s) := by
  induction vs generalizing s off with
  | nil => exact hk
  | cons v vs ih => exact ih (State.write32_kept hk ..) _

@[simp] theorem execRegReq_kept (k : Nat) : s₀.KeptOut (execRegReq k s) := by
  unfold execRegReq
  split
  · exact .next hk
  · next x _ =>
    have ht : s₀.Kept (s.taken x) := State.taken_kept hk _
    dsimp only
    split
    · exact .next hk
    · split
      · exact .next (State.modCore_kept ht _)
      · split
        · exact .next ht
        · -- the reply leaves while the core runs
          have reply : ∀ (u : State) (f : SrcFrame), s₀.Kept u →
              s₀.Kept (if u.alive then u.source f else u) := by
            intro u f hu
            split
            · exact State.source_kept hu _
            · exact hu
          split
          · split
            · exact .next (reply _ _ ht)
            · refine .next (reply _ _ ?_)
              split
              · exact State.asRemote_kept ht _ fun p u hu => writeWords_kept hu ..
              · exact ht
          · split
            · exact .next (reply _ _ ht)
            · exact .next (reply _ _ (State.asRemote_kept ht _ fun p u hu => readWords_kept hu ..))

/-! ## The dispatch and the step -/

/-- Every command answers a next state that keeps the queue, the canonical form of HBM and a
legal control token. -/
theorem exec_kept (c : Instr) : s₀.KeptOut (exec c s) := by
  cases c with
  | recEnd _ | recLoop _ | recLd _ | recLdr _ | recEmit _ | recEmitr _ | recEmitc _ | recCat _ | recCata _
  | recMin _ | recMax _ | recAnd _ | recOr _ | recXor _ | recCmp _ | recSel _ | recMovv _ | recCompact _
  | recSort _ | recMerge _ | recTopk _ | recTopke _ =>
    exact .next (State.recipeOp_kept hk ..)
  | vadd _ | vsub _ | vmul _ | vmax _ | vmin _ | vcmp _ =>
    exact .next (State.issue_kept hk _ _ _ fun _ _ _ h => State.vectorAB_kept h ..)
  | vexp _ | vlog _ | vrcp _ | vrsqrt _ | vtanh _ | vsigm _ =>
    exact .next (State.issue_kept hk _ _ _ fun _ _ _ h => State.vectorA_kept h ..)
  | recFacc _ _ | recFadd _ _ | recXadd _ _ | recXemit _ | recIadd _ _ | recMovc _ =>
    exact .next (State.recipeStep_kept hk ..)
  | waitCycles _ | tunLoop _ | setp _ =>
    exact .next (State.issue_kept hk _ _ _ fun _ _ _ h => State.modTun_kept h ..)
  | lowWordRead _ _ | highWordRead _ _ =>
    exact .next (State.hostReadWord_kept hk ..)
  | mlds _ | mldw _ =>
    exact .next (State.issue_kept hk _ _ _ fun _ _ _ h => State.loadRow_kept h ..)
  | mmt _ | mmtb _ =>
    exact .next (State.issue_kept hk _ _ _ fun _ _ _ h => State.product_kept h ..)
  | vredsum _ | vredmax _ =>
    exact .next (State.issue_kept hk _ _ _ fun _ _ _ h => State.vectorTree_kept h ..)
  | movz _ =>
    exact .next (State.issue_kept hk _ _ _ fun _ _ _ h => State.fly_kept h ..)
  | vbcast _ =>
    exact .next (State.issue_kept hk _ _ _ fun _ _ _ h => State.vectorOp_kept h ..)
  | contrib _ =>
    exact .next (State.takeCol_kept hk _ _ _ fun _ _ h => State.takeContrib_kept h ..)
  | result _ =>
    exact .next (State.takeCol_kept hk _ _ _ fun _ _ h => State.takeResult_kept h ..)
  | timeExchangeReceive _ _ _ =>
    exact .next (State.controlIn_kept hk _ _ _ _ _ fun _ _ h => State.timeIn_kept h ..)
  | helloReceive _ _ =>
    exact .next (State.controlIn_kept hk _ _ _ _ _ fun _ _ h => State.helloIn_kept h ..)
  | lnkRetrain _ _ =>
    exact .next (State.hostWrite_kept hk _ _ _ fun _ h => State.declareDown_kept h ..)
  | tokenRelease _ =>
    exact .next (State.tokenCommand_kept hk _ _ fun _ h => State.releaseToken_kept h ..)
  | sqReset _ _ =>
    exact .next (State.sqWrite_kept hk _ _ _ _ fun _ h => State.sqResetBegin_kept h ..)
  | catchupReadIssue =>
    exact .next (State.cuIssue_kept hk ..)
  | tapTrst _ =>
    exact .next (State.modTap_kept hk ..)
  | _ => simp [exec, hk]

end

/-- A step takes the front command, and keeps the rest of the queue, the canonical form of HBM
and a legal control token. -/
theorem step_kept (s : State) : { s with pending := s.pending.tail }.KeptOut (step s) := by
  unfold step
  cases h : s.pending with
  | nil => exact .next (State.idleTick_kept (State.Kept.same (.refl _) h rfl rfl rfl))
  | cons c rest => exact exec_kept (.refl _) c

/-- Settles O5: every step keeps the invariant `State.Kept`, of which a legal token is a part. -/
theorem tokenStaysLegal : Obligations.TokenStaysLegal := by
  unfold Obligations.TokenStaysLegal
  intro s t hs ht
  obtain ⟨u, hu, -, -, htoken⟩ := step_kept s
  cases hu.symm.trans ht
  exact htoken hs

/-! # Writes that have no effect (R9, R21) -/

/-- Each command that writes a control register is one access through `hostWrite` (R9). -/
theorem exec_eq_hostWrite_of_controlWrite {c : Instr} {p : HostPort} {off : Nat} (h : controlWrite c = some (p, off))
    (s : State) : ∃ act, exec c s = .next (s.hostWrite p off act) := by
  cases c <;> cases h <;> exact ⟨_, rfl⟩

/-- A local port that is not the holder does not hold the token (R9). -/
theorem State.holds_eq_false {s : State} {p : HostPort} (hr : s.host.remote = false)
    (h : s.host.holder ≠ portNum p) :
    s.holds p = false := by
  simp [State.holds, hr, h]

/-- A write by a port that serves is recorded and does nothing else where it is neither 32 bits
nor 64 bits wide at a multiple of its width (R21). -/
theorem execRegisterWrite_of_misshapen {s : State} {p : HostPort} {off size : Nat} (v : DWord)
    (hs : s.portServes p = true) (h4 : ¬ (size = 4 ∧ off % 4 = 0)) (h8 : ¬ (size = 8 ∧ off % 8 = 0)) :
    execRegisterWrite p off size v s = .next (s.badAccess p 1) := by
  simp [execRegisterWrite, hs, h4, h8]

/-- Settles O10: a misshapen write and a write without the token both end in `badAccess`. -/
theorem writesWithoutEffect : Obligations.WritesWithoutEffect := by
  unfold Obligations.WritesWithoutEffect
  constructor
  · intro s p off size v hs hr h4 h8
    exact (execRegisterWrite_of_misshapen v hs h4 h8).trans (congrArg _ (badAccess_local hr))
  · intro c s p off hc hs hr hh
    obtain ⟨act, hact⟩ := exec_eq_hostWrite_of_controlWrite hc s
    rw [hact, hostWrite_of_not_holds act hs (State.holds_eq_false hr hh), badAccess_local hr]
    rfl

/-! # Plain registers read back what was written (R5, R6) -/

/-- A register that is no half of a 64-bit value reads its block's word. -/
theorem regRead_of_pairOf_eq_none {s : State} {off o : Nat} {b : Bar0Block} (hb : blockOf off = (b, o))
    (h : s.pairOf b o = none) : s.regRead off = s.blockReg b o % 2 ^ 32 := by
  unfold State.pairOf at h
  unfold State.regRead
  rw [hb]
  dsimp only
  split at h
  · cases h
  · next hlow =>
    rw [Option.not_isSome_iff_eq_none.1 hlow]
    split at h
    · cases h
    · next hhigh =>
      have hnone : (if o < 4 then none else s.pairIn b (o - 4)) = none := by
        split
        · rfl
        · simpa [show 4 ≤ o by omega] using hhigh
      rw [hnone]

theorem portServes_of_mayWrite {s : State} {p : HostPort} {off : Nat} (h : s.mayWrite p off = true) :
    s.portServes p = true := by
  simp only [State.mayWrite, Bool.and_eq_true] at h
  obtain ⟨⟨⟨⟨hserves, -⟩, -⟩, -⟩, -⟩ := h
  exact hserves

/-- A 32-bit write of a register that is neither a half of a 64-bit value nor a command stores by its
access code, outside the tuns and the stream queues. -/
theorem write32_eq_blockSet {s : State} {p : HostPort} {off o : Nat} {b : Bar0Block} {v : Word}
    (hm : s.mayWrite p off = true) (hb : blockOf off = (b, o)) (hmsix : msixAt off = none) (hhas : b.has o = true)
    (hpair : s.pairOf b o = none) (hcmd : s.commandWrite p b o v = none) (htun : ∀ n, b ≠ .tun n)
    (hsq : ∀ q, b ≠ .sq q) : s.write32 p off v = s.blockSet b o v := by
  have hserves := portServes_of_mayWrite hm
  have htouched : s.touched off = s := touched_of_not_tun fun n => by rw [hb]; exact htun n
  unfold State.write32
  simp only [flushPosted_of_serves hserves, hb, hserves, hmsix, hhas, hpair, hcmd, Bool.not_true, Bool.false_eq_true,
    if_false]
  rw [hostWrite_of_mayWrite _ hm, htouched]

/-- The register at `off` is a plain RW register with the writable bits `m`: its block, outside the
tuns and the stream queues, stores what its access code keeps and reads it again (R6). -/
structure PlainRegister (off : Nat) (b : Bar0Block) (o : Nat) (m : Word) : Prop where
  aligned : off % 4 = 0
  block : blockOf off = (b, o)
  notMsix : msixAt off = none
  has : b.has o = true
  notPair : ∀ s : State, s.pairOf b o = none
  notCommand : ∀ (s : State) (p : HostPort) (v : Word), s.commandWrite p b o v = none
  notTun : ∀ n, b ≠ .tun n
  notSq : ∀ q, b ≠ .sq q
  stores : ∀ (s : State) (v : Word), (s.blockSet b o v).blockReg b o = (v &&& m).toNat
  silent : ∀ (s : State) (v : Word), (s.blockSet b o v).out = s.out

/-- A 32-bit write of a plain register is read back with its reserved bits 0. -/
theorem PlainRegister.reads_back {off o : Nat} {b : Bar0Block} {m : Word} (r : PlainRegister off b o m) {s : State}
    {p : HostPort} (v : DWord) (hm : s.mayWrite p off = true) :
    Answers (.registerWrite p off 4 v) s fun t => t.regRead off = (word v.toNat &&& m).toNat ∧ t.out = s.out := by
  have hserves := portServes_of_mayWrite hm
  refine ⟨s.blockSet b o (word v.toNat), ?_, ?_, r.silent s _⟩
  · show execRegisterWrite p off 4 v s = _
    simp only [execRegisterWrite, flushPosted_of_serves hserves, r.aligned, beq_self_eq_true, Bool.and_self, if_true,
      write32_eq_blockSet hm r.block r.notMsix r.has (r.notPair s) (r.notCommand s p _) r.notTun r.notSq]
  · rw [regRead_of_pairOf_eq_none r.block (r.notPair _), r.stores, Nat.mod_eq_of_lt (BitVec.isLt _)]

/-- A mask of all ones keeps a word. -/
theorem toNat_eq_and_ones (v : Word) : v.toNat = (v &&& 0xFFFFFFFF#32).toNat :=
  congrArg BitVec.toNat (BitVec.and_allOnes (x := v)).symm

theorem gristLen_plain : PlainRegister 0x10010 .grist 0x10 0xFFFFFFFF#32 :=
  ⟨rfl, rfl, rfl, rfl, fun _ => rfl, fun _ _ _ => rfl, nofun, nofun, fun _ => toNat_eq_and_ones, fun _ _ => rfl⟩

theorem servo_plain : PlainRegister 0x20010 .ftc 0x10 0xFFFF00FF#32 :=
  ⟨rfl, rfl, rfl, rfl, fun _ => rfl, fun _ _ _ => rfl, nofun, nofun, fun _ _ => rfl, fun _ _ => rfl⟩

theorem digestPeriod_plain : PlainRegister 0x2020C .ftc 0x20C 0xFFFFFFFF#32 :=
  ⟨rfl, rfl, rfl, rfl, fun _ => rfl, fun _ _ _ => rfl, nofun, nofun, fun _ => toNat_eq_and_ones, fun _ _ => rfl⟩

/-- The two enable bits of a remote write make the low two bits of the word. -/
theorem twoBits_eq_and (v : Word) : b2n (bitOf v.toNat 1) * 2 + b2n (bitOf v.toNat 0) = (v &&& 3#32).toNat := by
  rw [BitVec.toNat_and, show (3#32 : Word).toNat = 2 ^ 2 - 1 from rfl, Nat.and_two_pow_sub_one_eq_mod]
  unfold b2n bitOf
  simp only [beq_iff_eq]
  split <;> split <;> omega

theorem remoteEnables_plain : PlainRegister 0x30030 .hst 0x30 3#32 :=
  ⟨rfl, rfl, rfl, rfl, fun _ => rfl, fun _ _ _ => rfl, nofun, nofun, fun _ => twoBits_eq_and, fun _ _ => rfl⟩

/-- The record index is the low 13 bits of the word. -/
theorem mod_8192_eq_and (v : Word) : v.toNat % 8192 = (v &&& 0x1FFF#32).toNat := by
  rw [BitVec.toNat_and, show (0x1FFF#32 : Word).toNat = 2 ^ 13 - 1 from rfl, Nat.and_two_pow_sub_one_eq_mod]

theorem bookIndex_plain : PlainRegister 0x5001C .clb 0x1C 0x1FFF#32 :=
  ⟨rfl, rfl, rfl, rfl, fun _ => rfl, fun _ _ _ => rfl, nofun, nofun, fun _ => mod_8192_eq_and, fun _ _ => rfl⟩

theorem thermalConfig_plain : PlainRegister 0x60010 .pwr 0x10 0x7F00FF#32 :=
  ⟨rfl, rfl, rfl, rfl, fun _ => rfl, fun _ _ _ => rfl, nofun, nofun, fun _ _ => rfl, fun _ _ => rfl⟩

theorem voltageBounds_plain : PlainRegister 0x6001C .pwr 0x1C 0xFFFFFF#32 :=
  ⟨rfl, rfl, rfl, rfl, fun _ => rfl, fun _ _ _ => rfl, nofun, nofun, fun _ _ => rfl, fun _ _ => rfl⟩

theorem laserBias_plain : PlainRegister 0x60020 .pwr 0x20 0xFF#32 :=
  ⟨rfl, rfl, rfl, rfl, fun _ => rfl, fun _ _ _ => rfl, nofun, nofun, fun _ _ => rfl, fun _ _ => rfl⟩

theorem securityLength_plain : PlainRegister 0x70014 .sec 0x14 0xFFFFFFFF#32 :=
  ⟨rfl, rfl, rfl, rfl, fun _ => rfl, fun _ _ _ => rfl, nofun, nofun, fun _ => toNat_eq_and_ones, fun _ _ => rfl⟩

theorem catchUpConfig_plain : PlainRegister 0x330208 .mlt 0x30208 0xFF1FFF#32 :=
  ⟨rfl, rfl, rfl, rfl, fun _ => rfl, fun _ _ _ => rfl, nofun, nofun, fun _ _ => rfl, fun _ _ => rfl⟩

/-- Settles O9: each register of the list is plain, and a plain register reads back. -/
theorem registerWriteReadsBack : Obligations.RegisterWriteReadsBack := by
  unfold Obligations.RegisterWriteReadsBack
  simp only [List.forall_mem_cons, List.not_mem_nil, false_imp_iff, implies_true, and_true]
  exact ⟨fun _ _ => gristLen_plain.reads_back, fun _ _ => servo_plain.reads_back,
    fun _ _ => digestPeriod_plain.reads_back, fun _ _ => remoteEnables_plain.reads_back,
    fun _ _ => bookIndex_plain.reads_back, fun _ _ => thermalConfig_plain.reads_back,
    fun _ _ => voltageBounds_plain.reads_back, fun _ _ => laserBias_plain.reads_back,
    fun _ _ => securityLength_plain.reads_back, fun _ _ => catchUpConfig_plain.reads_back⟩

/-! # The halves of a 64-bit register (R3, R4, R21)

## What leaves the host block alone -/

/-- A fold of an operation that leaves a part of the state leaves it. -/
theorem foldl_leaves {α β : Type} {g : State → β} {f : State → α → State} (h : ∀ u a, g (f u a) = g u)
    (l : List α) (s : State) : g (l.foldl f s) = g s := by
  induction l generalizing s with
  | nil => rfl
  | cons a l ih => exact (ih _).trans (h s a)

@[simp] theorem State.eccAt_host (s : State) (n l : Nat) (o : EccOutcome) (src : Nat) (use : Use) :
    (s.eccAt n l o src use).host = s.host := by
  cases o <;> cases use <;> rfl

@[simp] theorem State.eccRead_host (s : State) (a n : Nat) (e : Ecc) (src : Nat) (use : Use) :
    (s.eccRead a n e src use).host = s.host := by
  refine foldl_leaves (g := State.host) (fun u x => ?_) _ s
  split
  · rfl
  · split
    · rfl
    · exact State.eccAt_host ..

@[simp] theorem State.setPoison_host (s : State) (a : Nat) (b : Bool) : (s.setPoison a b).host = s.host := by
  unfold State.setPoison
  split
  · rfl
  · split <;> rfl

@[simp] theorem State.hbmPut_host (s : State) (a : Nat) (bs : List Byte) : (s.hbmPut a bs).host = s.host := by
  rw [hbmPut_frame]

@[simp] theorem State.haltFaultAt_host (s : State) (id c : Nat) : (s.haltFaultAt id c).host = s.host := by
  have h : s.haltFaultAt id c = _ := haltFaultAt_frame s id c
  rw [h]

/-- A stream fault halts a tun and leaves the host block alone (R151). -/
@[simp] theorem State.streamFault_host (s : State) (id stream kind : Nat) :
    (s.streamFault id stream kind).host = s.host :=
  State.haltFaultAt_host ..

@[simp] theorem State.runAheadConflict_host (s : State) (a n : Nat) : (s.runAheadConflict a n).host = s.host := by
  refine foldl_leaves (g := State.host) (fun u k => ?_) _ s
  dsimp only
  split
  · exact State.streamFault_host ..
  · rfl

@[simp] theorem State.ctlWrite_host (s : State) (a : Nat) (bytes : List Byte) (e : Ecc) (src : Nat) (poison : Bool) :
    (s.ctlWrite a bytes e src poison).host = s.host := by
  unfold State.ctlWrite
  split
  · rfl
  · simp [foldl_leaves (g := State.host) fun u a => State.setPoison_host u a _]

/-! ## A request whose posted writes have been performed (R328) -/

/-- What a port keeps for posted writes, with whether the access is a remote one. -/
def State.postedPart (s : State) (p : HostPort) : Bool × List PostedWrite := (s.host.remote, (s.port p).posted)

theorem State.badAccess_postedPart (s : State) (p : HostPort) (b : Nat) :
    (s.badAccess p b).postedPart p = s.postedPart p := by
  unfold State.badAccess
  split
  · rfl
  · cases p <;> rfl

theorem State.windowWrite_postedPart (s : State) (p : HostPort) (w : PostedWrite) :
    (s.windowWrite p w).postedPart p = s.postedPart p := by
  unfold State.windowWrite
  split
  · exact State.badAccess_postedPart ..
  · split
    · exact State.badAccess_postedPart ..
    · simp [State.postedPart, State.port]

/-- Once they are performed, no posted write waits. -/
@[simp] theorem flushPosted_flushPosted (s : State) (p : HostPort) :
    (s.flushPosted p).flushPosted p = s.flushPosted p := by
  by_cases h : s.host.remote = false ∧ (s.port p).posted ≠ []
  · obtain ⟨hr, hp⟩ := h
    obtain ⟨w, ws, hw⟩ := List.exists_cons_of_ne_nil hp
    refine flushPosted_of_nil ?_
    unfold State.flushPosted
    rw [hr, hw]
    dsimp only
    refine (congrArg Prod.snd (foldl_leaves (g := (State.postedPart · p))
      (fun u x => State.windowWrite_postedPart u p x) (w :: ws) _)).trans ?_
    simp [State.postedPart]
  · have hid : s.flushPosted p = s := by
      unfold State.flushPosted
      split
      · exact absurd ⟨‹_›, by simp [*]⟩ h
      · rfl
    rw [hid, hid]

theorem hostWrite_flushPosted (s : State) (p : HostPort) (off : Nat) (act : State → State) :
    (s.flushPosted p).hostWrite p off act = s.hostWrite p off act := by
  unfold State.hostWrite
  rw [flushPosted_flushPosted]

/-! ## Which half an offset is -/

theorem State.pairOf_low {s : State} {b : Bar0Block} {o d : Nat} (h : s.pairIn b o = some d) :
    s.pairOf b o = some (o, false) := by
  simp [State.pairOf, h]

theorem State.pairOf_high {s : State} {b : Bar0Block} {o d : Nat} (ho : 4 ≤ o) (h : s.pairIn b o = none)
    (hd : s.pairIn b (o - 4) = some d) : s.pairOf b o = some (o - 4, true) := by
  simp [State.pairOf, h, hd, ho]

/-! ## Reads -/

/-- What port `p` reads at `off` in a block that answers: a half of a 64-bit register, with the latches
of R4, or the word in force (R3). -/
def State.readAnswer (s : State) (p : HostPort) (off : Nat) : State × Nat :=
  match s.pairOf (blockOf off).1 (blockOf off).2 with
  | some (lo, false) =>
    (s.modPort p fun x =>
      { x with latch := Tab.set none x.latch off (some (word ((s.pairIn (blockOf off).1 lo).getD 0 / 2 ^ 32))) },
      (s.pairIn (blockOf off).1 lo).getD 0 % 2 ^ 32)
  | some (lo, true) =>
    match Tab.get none (s.port p).latch (off - 4) with
    | some h => (s.modPort p fun x => { x with latch := x.latch.drop (off - 4) }, h.toNat)
    | none => (s, (s.pairIn (blockOf off).1 lo).getD 0 / 2 ^ 32 % 2 ^ 32)
  | none => (s, s.regRead off)

section
variable {s : State} {p : HostPort} {w o d : Nat} {b : Bar0Block}

/-- A read of the MSI-X table changes nothing. -/
theorem read32_of_msix {x : Nat ⊕ Nat} (hm : msixAt w = some x) : (s.read32 p w).1 = s := by
  unfold State.read32
  simp only [hm]
  split
  · rfl
  · rfl

/-- A block that does not answer reads 0, and the access is recorded (R23, R329). -/
theorem read32_of_silent (hm : msixAt w = none) (h : s.silent w = true) : s.read32 p w = (s.badAccess p 2, 0) := by
  unfold State.read32
  simp only [hm, h, if_true]

/-- A block that answers reads once its kettle's Idle state has ended. -/
theorem read32_of_answering (hm : msixAt w = none) (h : s.silent w = false) :
    s.read32 p w = (s.readTouched w).readAnswer p w := by
  unfold State.read32
  simp only [hm, h, Bool.false_eq_true, if_false]
  rfl

/-- The low word latches the high half in force for its port (R4). -/
theorem readAnswer_low (hb : blockOf w = (b, o)) (hd : s.pairIn b o = some d) :
    s.readAnswer p w = (s.modPort p fun x =>
      { x with latch := Tab.set none x.latch w (some (word (d / 2 ^ 32))) }, d % 2 ^ 32) := by
  simp only [State.readAnswer, hb, State.pairOf_low hd, hd, Option.getD_some]

/-- The latched high half is read, and the latch is empty again (R4). -/
theorem readAnswer_high_latched {x : Word} (hb : blockOf w = (b, o)) (hp : s.pairOf b o = some (o - 4, true))
    (hl : Tab.get none (s.port p).latch (w - 4) = some x) :
    s.readAnswer p w = (s.modPort p fun y => { y with latch := y.latch.drop (w - 4) }, x.toNat) := by
  simp only [State.readAnswer, hb, hp, hl]

/-- Without a latch the high half in force is read (R4). -/
theorem readAnswer_high_unlatched (hb : blockOf w = (b, o)) (hp : s.pairOf b o = some (o - 4, true))
    (hd : s.pairIn b (o - 4) = some d) (hl : Tab.get none (s.port p).latch (w - 4) = none) :
    s.readAnswer p w = (s, d / 2 ^ 32 % 2 ^ 32) := by
  simp only [State.readAnswer, hb, hp, hd, hl, Option.getD_some]

/-- Any other register reads its word in force (R3). -/
theorem readAnswer_plain (hb : blockOf w = (b, o)) (hp : s.pairOf b o = none) :
    s.readAnswer p w = (s, s.regRead w) := by
  simp only [State.readAnswer, hb, hp]

end

@[simp] theorem touchKettle_host (s : State) (k : Nat) : (s.touchKettle k).host = s.host := by
  unfold State.touchKettle
  split <;> rfl

@[simp] theorem readTouched_host (s : State) (off : Nat) : (s.readTouched off).host = s.host := by
  unfold State.readTouched
  split
  · split
    · rfl
    · exact touchKettle_host ..
  · rfl

@[simp] theorem touched_host (s : State) (off : Nat) : (s.touched off).host = s.host := by
  unfold State.touched
  split
  · exact touchKettle_host ..
  · rfl

/-- The ports are parts of the host block. -/
theorem port_eq_of_host_eq {s t : State} (h : s.host = t.host) (p : HostPort) : s.port p = t.port p := by
  unfold State.port
  rw [h]

@[simp] theorem readTouched_port (s : State) (off : Nat) (p : HostPort) : (s.readTouched off).port p = s.port p :=
  port_eq_of_host_eq (readTouched_host ..) p

@[simp] theorem modGrist_port (s : State) (f : GristSt → GristSt) (p : HostPort) :
    (s.modGrist f).port p = s.port p :=
  port_eq_of_host_eq rfl p

@[simp] theorem touched_port (s : State) (off : Nat) (p : HostPort) : (s.touched off).port p = s.port p :=
  port_eq_of_host_eq (touched_host ..) p

/-- A read of 1, 2 or 4 bytes returns the addressed bytes of the word, which is read whole (R21). -/
theorem execLowWordRead_eq {s : State} {p : HostPort} {off size : Nat} (hs : s.portServes p = true)
    (hsize : size = 1 ∨ size = 2 ∨ size = 4) (ha : off % size = 0) :
    execLowWordRead p ⟨off, size⟩ s = .next ((s.read32 p (off / 4 * 4)).1.emit
      (.bar0 p off (readPart off size (s.read32 p (off / 4 * 4)).2))) := by
  unfold execLowWordRead State.hostReadWord
  rw [flushPosted_of_serves hs]
  rcases hsize with rfl | rfl | rfl <;> simp [hs, ha, State.hostReadPart, readPart]

/-- What decides whether a port serves: the supply, and the port's link, reset, posted writes and
power state (R325, R328). -/
def State.servingPart (s : State) (p : HostPort) : Bool × Bool × Bool × Bool × List PostedWrite × Bool :=
  (s.on, s.host.remote, (s.port p).linkUp, (s.port p).inReset, (s.port p).posted, (s.port p).pci.d3hot)

theorem portServes_eq_of_servingPart {s t : State} {p : HostPort} (h : t.servingPart p = s.servingPart p) :
    t.portServes p = s.portServes p := by
  simp only [State.servingPart, Prod.mk.injEq] at h
  simp only [State.portServes, State.portConfig, h]

theorem State.readTouched_servingPart (s : State) (off : Nat) (p : HostPort) :
    (s.readTouched off).servingPart p = s.servingPart p := by
  have hon : (s.readTouched off).on = s.on := by
    unfold State.readTouched State.touchKettle
    repeat' split
    all_goals rfl
  simp only [State.servingPart, hon, readTouched_host, readTouched_port]

/-- A change of the latches, or of the bad-access status, leaves it. -/
theorem State.modPort_servingPart (s : State) (p : HostPort) (f : PortSt → PortSt)
    (h : ∀ x, (f x).linkUp = x.linkUp ∧ (f x).inReset = x.inReset ∧ (f x).posted = x.posted
      ∧ (f x).pci = x.pci) :
    (s.modPort p f).servingPart p = s.servingPart p := by
  obtain ⟨h1, h2, h3, h4⟩ := h (s.port p)
  simp only [State.servingPart, modPort_port_same, h1, h2, h3, h4]
  cases p <;> rfl

theorem State.badAccess_servingPart (s : State) (p : HostPort) (n : Nat) :
    (s.badAccess p n).servingPart p = s.servingPart p := by
  unfold State.badAccess
  split
  · rfl
  · exact State.modPort_servingPart _ _ _ fun _ => ⟨rfl, rfl, rfl, rfl⟩

theorem State.readAnswer_servingPart (s : State) (p : HostPort) (off : Nat) :
    (s.readAnswer p off).1.servingPart p = s.servingPart p := by
  unfold State.readAnswer
  split
  · exact State.modPort_servingPart _ _ _ fun _ => ⟨rfl, rfl, rfl, rfl⟩
  · split
    · exact State.modPort_servingPart _ _ _ fun _ => ⟨rfl, rfl, rfl, rfl⟩
    · rfl
  · rfl

/-- After a read the port serves as before. -/
theorem State.read32_servingPart (s : State) (p : HostPort) (off : Nat) :
    (s.read32 p off).1.servingPart p = s.servingPart p := by
  cases hm : msixAt off with
  | some x => rw [read32_of_msix hm]
  | none =>
    cases hs : s.silent off with
    | true => rw [read32_of_silent hm hs, State.badAccess_servingPart]
    | false => rw [read32_of_answering hm hs, State.readAnswer_servingPart, State.readTouched_servingPart]

/-- A 64-bit read is the read of the low word and then that of the high one (R21). -/
theorem execLowWordRead_eight {s : State} {p : HostPort} {off : Nat} (hs : s.portServes p = true) (ha : off % 8 = 0) :
    Answers (.lowWordRead p ⟨off, 4⟩) s fun u =>
      exec (.lowWordRead p ⟨off, 8⟩) s = exec (.highWordRead p ⟨off + 4, 4⟩) u := by
  have hs' : (s.hostReadPart p off 4).portServes p = true :=
    (portServes_eq_of_servingPart (State.read32_servingPart s p (off / 4 * 4))).trans hs
  have h4 : off % 4 = 0 := by omega
  have h4' : (off + 4) % 4 = 0 := by omega
  refine ⟨s.hostReadPart p off 4, ?_, ?_⟩
  · show execLowWordRead p ⟨off, 4⟩ s = _
    simp [execLowWordRead, State.hostReadWord, hs, h4]
  · show execLowWordRead p ⟨off, 8⟩ s = execHighWordRead p ⟨off + 4, 4⟩ _
    simp [execLowWordRead, execHighWordRead, State.hostReadWord, hs, hs', ha, h4']

/-! ## Writes -/

/-- A word write at a multiple of 4 is `write32` once the posted writes are performed (R21, R328). -/
theorem execLowWordWrite_aligned {off : Nat} (h : off % 4 = 0) (p : HostPort) (v : Word) (s : State) :
    execLowWordWrite p off v s = .next ((s.flushPosted p).write32 p off v) := by
  simp [execLowWordWrite, h]

theorem portServes_of_mayPut {s : State} {p : HostPort} {off : Nat} (h : s.mayPut p off = true) :
    s.portServes p = true := by
  unfold State.mayPut at h
  split at h
  · split at h
    · simp only [Bool.and_eq_true] at h
      obtain ⟨⟨⟨hserves, -⟩, -⟩, -⟩ := h
      exact hserves
    · exact portServes_of_mayWrite h
  · exact portServes_of_mayWrite h

/-- A word write of a half goes to its 64-bit value. -/
theorem write32_half {s : State} {p : HostPort} {off o lo : Nat} {b : Bar0Block} {v : Word} {high : Bool}
    (hs : s.portServes p = true) (hb : blockOf off = (b, o)) (hm : msixAt off = none) (hh : b.has o = true)
    (hp : s.pairOf b o = some (lo, high)) : s.write32 p off v = s.pairHalf p b (off + lo - o) lo high v := by
  simp [State.write32, hs, hb, hm, hh, hp]

/-- Where a block of BAR0 begins (R20). -/
def Bar0Block.base : Bar0Block → Nat
  | .feat => 0 | .grist => 0x10000 | .ftc => 0x20000 | .hst => 0x30000 | .flt => 0x40000 | .clb => 0x50000
  | .pwr => 0x60000 | .sec => 0x70000 | .hbm n => 0x100000 + n * 0x10000 | .lnk n => 0x200000 + n * 0x10000
  | .mlt => 0x300000 | .grn => 0x340000 | .ltr n => 0x380000 + n * 0x10000 | .col => 0x3C0000
  | .tun n => 0x1000000 + n * 0x20000 | .sq n => 0x3000000 + n * 0x100 | .none_ => 0

/-- The place of an offset, by the test that decides its block. -/
theorem base_add_ite {c : Prop} [Decidable c] {x y : Bar0Block × Nat} {n : Nat} (h : c → x.1.base + x.2 = n)
    (g : ¬ c → y.1.base + y.2 = n) : (if c then x else y).1.base + (if c then x else y).2 = n := by
  split
  · exact h ‹_›
  · exact g ‹_›

/-- An offset is its block's base and its place in the block. -/
theorem base_add_of_blockOf {off o : Nat} {b : Bar0Block} (h : blockOf off = (b, o)) : b.base + o = off := by
  have hall : (blockOf off).1.base + (blockOf off).2 = off := by
    unfold blockOf
    repeat' with_reducible refine base_add_ite (fun _ => ?_) (fun _ => ?_)
    all_goals
      simp only [Bar0Block.base]
      omega
  rwa [h] at hall

/-- Ending a kettle's Idle state changes no 64-bit value. -/
@[simp] theorem touched_pairIn (s : State) (off o : Nat) (b : Bar0Block) :
    (s.touched off).pairIn b o = s.pairIn b o := by
  unfold State.touched State.touchKettle
  split
  · split <;> rfl
  · rfl

/-- Outside the stream queues, a half that is no command of its own and whose write may act takes it by
the rule of R4. -/
theorem pairHalf_of_mayWrite {s : State} {p : HostPort} {off o d : Nat} {b : Bar0Block} {high : Bool} {v : Word}
    (hb : blockOf off = (b, o)) (hd : s.pairIn b o = some d) (hoff : off ∉ [0x10018, 0x330010, 0x330018, 0x3C0008])
    (hmay : s.mayWrite p off = true) (hsq : ∀ q, b ≠ .sq q) :
    s.pairHalf p b off o high v =
      (s.touched off).pairWrite p off high v (BitVec.ofNat 64 d) fun d s => s.pairStore b o d := by
  have hbase := base_add_of_blockOf hb
  unfold State.pairHalf
  dsimp only
  split
  iterate 4 · exact absurd (by simp [← hbase, Bar0Block.base]) hoff
  · exact absurd rfl (hsq _)
  · rw [hostWrite_of_mayWrite _ hmay, touched_pairIn, hd]
    rfl

/-- A half of a stream queue whose write may act takes it by the rule of R4 (R344). -/
theorem pairHalf_sq_of_mayPut {s : State} {p : HostPort} {off o d q : Nat} {high : Bool} {v : Word}
    (hb : blockOf off = (.sq q, o)) (hd : s.pairIn (.sq q) o = some d) (hput : s.mayPut p off = true) :
    s.pairHalf p (.sq q) off o high v =
      (s.touched off).pairWrite p off high v (BitVec.ofNat 64 d) fun d s => s.pairStore (.sq q) o d := by
  have ht : s.touched off = s := touched_of_not_tun fun n => by rw [hb]; nofun
  have hplace : 0x3000000 + q * 0x100 + o = off := by simpa only [Bar0Block.base] using base_add_of_blockOf hb
  unfold State.mayPut at hput
  rw [hb] at hput
  show s.sqWrite p q o _ = _
  unfold State.sqWrite
  dsimp only at hput
  split at hput
  · next p' hq =>
    simp only [Bool.and_eq_true, Bool.not_eq_true', beq_iff_eq] at hput
    obtain ⟨⟨⟨hs, rfl⟩, hwarm⟩, hfatal⟩ := hput
    simp [hq, hs, hwarm, hfatal, ht, hd]
  · next hq =>
    rw [hq]
    dsimp only
    rw [hplace, hostWrite_of_mayWrite _ hput, ht, hd]
    rfl

/-- A half that is no command of its own, and whose write may act, takes it by the rule of R4. -/
theorem pairHalf_of_mayPut {s : State} {p : HostPort} {off o d : Nat} {b : Bar0Block} {high : Bool} {v : Word}
    (hb : blockOf off = (b, o)) (hd : s.pairIn b o = some d) (hoff : off ∉ [0x10018, 0x330010, 0x330018, 0x3C0008])
    (hput : s.mayPut p off = true) :
    s.pairHalf p b off o high v =
      (s.touched off).pairWrite p off high v (BitVec.ofNat 64 d) fun d s => s.pairStore b o d := by
  by_cases hq : ∃ q, b = .sq q
  · obtain ⟨q, rfl⟩ := hq
    exact pairHalf_sq_of_mayPut hb hd hput
  · have hsq : ∀ q, b ≠ .sq q := fun q h => hq ⟨q, h⟩
    refine pairHalf_of_mayWrite hb hd hoff ?_ hsq
    unfold State.mayPut at hput
    rw [hb] at hput
    dsimp only at hput
    split at hput
    · exact absurd rfl (hsq _)
    · exact hput

/-- A low half that may be written is held, and nothing else changes (R4). -/
theorem execLowWordWrite_holds {s : State} {p : HostPort} {off o d : Nat} {b : Bar0Block} (v : Word)
    (ha : off % 4 = 0) (hb : blockOf off = (b, o)) (hd : s.pairIn b o = some d)
    (hoff : off ∉ [0x10018, 0x330010, 0x330018, 0x3C0008]) (hput : s.mayPut p off = true) (hh : b.has o = true)
    (hm : msixAt off = none) :
    execLowWordWrite p off v s =
      .next ((s.touched off).modPort p fun x => { x with hold := Tab.set none x.hold off (some v) }) := by
  have hs := portServes_of_mayPut hput
  rw [execLowWordWrite_aligned ha, flushPosted_of_serves hs, write32_half hs hb hm hh (State.pairOf_low hd),
    Nat.add_sub_cancel, pairHalf_of_mayPut hb hd hoff hput]
  rfl

/-- A high half that may be written sets both halves from the low word held, or the high half alone,
and empties the hold (R4). -/
theorem execHighWordWrite_stores {s : State} {p : HostPort} {off o d : Nat} {b : Bar0Block} (v : Word)
    (ha : off % 4 = 0) (hb : blockOf off = (b, o)) (hd : s.pairIn b o = some d)
    (hoff : off ∉ [0x10018, 0x330010, 0x330018, 0x3C0008]) (hput : s.mayPut p off = true)
    (hh : b.has (o + 4) = true) (hm : msixAt (off + 4) = none)
    (hb' : blockOf (off + 4) = (b, o + 4)) (hhigh : s.pairIn b (o + 4) = none) :
    execHighWordWrite p (off + 4) v s =
      .next (((s.touched off).modPort p fun x => { x with hold := x.hold.drop off }).pairStore b o
        (BitVec.ofNat 64 (v.toNat * 2 ^ 32 + ((Tab.get none (s.port p).hold off).getD (word d)).toNat))) := by
  have hs := portServes_of_mayPut hput
  have hplace : off + 4 + o - (o + 4) = off := by omega
  have hword : BitVec.ofNat 32 (BitVec.ofNat 64 d).toNat = word d := by
    apply BitVec.eq_of_toNat_eq
    simp only [word, BitVec.toNat_ofNat]
    omega
  show execLowWordWrite p (off + 4) v s = _
  rw [execLowWordWrite_aligned (by omega), flushPosted_of_serves hs,
    write32_half hs hb' hm hh (State.pairOf_high (by omega) hhigh hd), Nat.add_sub_cancel, hplace,
    pairHalf_of_mayPut hb hd hoff hput]
  simp only [State.pairWrite, Bool.not_true, Bool.false_eq_true, if_false, touched_port, hword]

/-- A half whose write is a command of its own: the command's access performs the posted writes, and
the port serves or not, as the plain write would find it. -/
theorem execLowWordWrite_command {off o lo at_ : Nat} {b : Bar0Block} {high : Bool} {p : HostPort} {v : Word}
    {act : State → State} (s : State) (ha : off % 4 = 0) (hb : blockOf off = (b, o)) (hm : msixAt off = none)
    (hh : b.has o = true) (hp : ∀ u : State, u.pairOf b o = some (lo, high))
    (hcmd : ∀ u : State, u.pairHalf p b (off + lo - o) lo high v = u.hostWrite p at_ act) :
    execLowWordWrite p off v s = .next (s.hostWrite p at_ act) := by
  rw [execLowWordWrite_aligned ha]
  congr 1
  cases hs : (s.flushPosted p).portServes p with
  | true => rw [write32_half hs hb hm hh (hp _), hcmd, hostWrite_flushPosted]
  | false => simp [State.write32, State.hostWrite, hs]

theorem gristPitchAt_halves (s : State) (p : HostPort) (v : Word) :
    execLowWordWrite p 0x10018 v s = execGristPitchAtWrite p false v s
    ∧ execLowWordWrite p 0x1001C v s = execGristPitchAtWrite p true v s :=
  ⟨execLowWordWrite_command (b := .grist) (o := 0x18) (lo := 0x18) (high := false) s rfl rfl rfl rfl
      (fun _ => rfl) fun _ => rfl,
    execLowWordWrite_command (b := .grist) (o := 0x1C) (lo := 0x18) (high := true) s rfl rfl rfl rfl
      (fun _ => rfl) fun _ => rfl⟩

theorem mltCjStep_halves (s : State) (p : HostPort) (v : Word) :
    execLowWordWrite p 0x330010 v s = execMltCjStepWrite p false v s
    ∧ execLowWordWrite p 0x330014 v s = execMltCjStepWrite p true v s :=
  ⟨execLowWordWrite_command (b := .mlt) (o := 0x30010) (lo := 0x30010) (high := false) s rfl rfl rfl rfl
      (fun _ => rfl) fun _ => rfl,
    execLowWordWrite_command (b := .mlt) (o := 0x30014) (lo := 0x30010) (high := true) s rfl rfl rfl rfl
      (fun _ => rfl) fun _ => rfl⟩

theorem mltCjCommit_halves (s : State) (p : HostPort) (v : Word) :
    execLowWordWrite p 0x330018 v s = execMltCjCommitWrite p false v s
    ∧ execLowWordWrite p 0x33001C v s = execMltCjCommitWrite p true v s :=
  ⟨execLowWordWrite_command (b := .mlt) (o := 0x30018) (lo := 0x30018) (high := false) s rfl rfl rfl rfl
      (fun _ => rfl) fun _ => rfl,
    execLowWordWrite_command (b := .mlt) (o := 0x3001C) (lo := 0x30018) (high := true) s rfl rfl rfl rfl
      (fun _ => rfl) fun _ => rfl⟩

theorem colRound_halves (s : State) (p : HostPort) (v : Word) :
    execLowWordWrite p 0x3C0008 v s = execColRoundWrite p false v s
    ∧ execLowWordWrite p 0x3C000C v s = execColRoundWrite p true v s :=
  ⟨execLowWordWrite_command (b := .col) (o := 0x8) (lo := 0x8) (high := false) s rfl rfl rfl rfl
      (fun _ => rfl) fun _ => rfl,
    execLowWordWrite_command (b := .col) (o := 0xC) (lo := 0x8) (high := true) s rfl rfl rfl rfl
      (fun _ => rfl) fun _ => rfl⟩

/-- The high half of GRIST_SRC sets it, from the low word held or with the low half in force (R4). -/
theorem gristSrc_highWordWrite {s : State} {p : HostPort} (v : Word) (hmay : s.mayWrite p 0x10008 = true) :
    exec (.highWordWrite p 0x1000C v) s = .next
      ((s.modPort p fun x => { x with hold := x.hold.drop 0x10008 }).modGrist fun g => { g with
        src := BitVec.ofNat 64 (v.toNat * 2 ^ 32
          + ((Tab.get none (s.port p).hold 0x10008).getD (word s.grist.src.toNat)).toNat) }) :=
  execHighWordWrite_stores (off := 0x10008) v rfl rfl rfl (by decide) hmay rfl rfl rfl rfl

/-- Settles O8: one lemma for each kind of read and of write of a half. -/
theorem registerHalves : Obligations.RegisterHalves := by
  unfold Obligations.RegisterHalves
  refine ⟨fun _ _ _ _ => rfl, ?_, fun s p off hs ha => execLowWordRead_eight hs ha, ?_, fun s p v => ?_, ?_⟩
  · intro s p off size w o b hs hsize ha hw hm hb
    subst hw
    have hread := execLowWordRead_eq hs hsize ha
    refine ⟨fun hsil => ?_, fun d hsil hd => ?_, fun d hsil hlow ho hd => ⟨fun h hl => ?_, fun hl => ?_⟩,
      fun hsil hp => ?_⟩
    · exact hread.trans (by rw [read32_of_silent hm hsil]; simp [readPart, word])
    · exact hread.trans (by rw [read32_of_answering hm hsil, readAnswer_low hb hd])
    · exact hread.trans (by
        rw [read32_of_answering hm hsil,
          readAnswer_high_latched hb (State.pairOf_high ho hlow hd) (by rw [readTouched_port, hl])])
    · exact hread.trans (by
        rw [read32_of_answering hm hsil,
          readAnswer_high_unlatched hb (State.pairOf_high ho hlow hd) hd (by rw [readTouched_port, hl])])
    · exact hread.trans (by rw [read32_of_answering hm hsil, readAnswer_plain hb hp])
  · intro s p off o d b v ha hb hd hoff hput
    exact ⟨execLowWordWrite_holds v ha hb hd hoff hput,
      fun hh hm hb' hhigh => execHighWordWrite_stores v ha hb hd hoff hput hh hm hb' hhigh⟩
  · exact ⟨(gristPitchAt_halves s p v).1, (gristPitchAt_halves s p v).2, (mltCjStep_halves s p v).1,
      (mltCjStep_halves s p v).2, (mltCjCommit_halves s p v).1, (mltCjCommit_halves s p v).2,
      (colRound_halves s p v).1, (colRound_halves s p v).2⟩
  · intro s p v hmay
    have hwrite := gristSrc_highWordWrite v hmay
    refine ⟨fun l hl => ⟨_, hwrite, ?_, ?_, ?_⟩, fun hl => ⟨_, hwrite, ?_⟩⟩
    · simp [hl]
    · simp
    · rw [modGrist_port]
      exact modPort_port_other s _ (by cases p <;> nofun)
    · simp [hl, word]

end Sys2Proof.Machine

namespace Sys2Proof.Machine

/-! # The commands of a tun, its launch and its port queues

## What closing streams can change (R151) -/

/-- The operation can change only the streams, the granary, the faults raised and the counts of
health; the tuns and the time block stay. -/
def State.StreamFrame (s t : State) : Prop :=
  t = { s with streams := t.streams, granary := t.granary, fault := t.fault, health := t.health }

namespace State.StreamFrame
variable {s t u : State}

theorem refl (s : State) : s.StreamFrame s := rfl

theorem trans (h : s.StreamFrame t) (g : t.StreamFrame u) : s.StreamFrame u := by
  unfold State.StreamFrame at *
  rw [g, h]

theorem foldl {α : Type} {f : State → α → State} (h : ∀ (u : State) (a : α), u.StreamFrame (f u a))
    (l : List α) (s : State) : s.StreamFrame (l.foldl f s) := by
  induction l generalizing s with
  | nil => exact refl s
  | cons a l ih => exact (h s a).trans (ih (f s a))

theorem tuns (h : s.StreamFrame t) : t.tuns = s.tuns := by unfold State.StreamFrame at h; rw [h]
theorem tun (h : s.StreamFrame t) (k : Nat) : t.tun k = s.tun k := by
  unfold State.tun
  rw [h.tuns]
theorem time (h : s.StreamFrame t) : t.time = s.time := by unfold State.StreamFrame at h; rw [h]
theorem hbm (h : s.StreamFrame t) : t.hbm = s.hbm := by unfold State.StreamFrame at h; rw [h]
theorem grist (h : s.StreamFrame t) : t.grist = s.grist := by unfold State.StreamFrame at h; rw [h]
theorem ctls (h : s.StreamFrame t) : t.ctls = s.ctls := by unfold State.StreamFrame at h; rw [h]

end State.StreamFrame

theorem closeStream_streamFrame (s : State) (k : Nat) : s.StreamFrame (s.closeStream k) := by
  unfold State.closeStream
  refine ((State.StreamFrame.foldl (fun u x => ?_) _ s).trans (State.StreamFrame.foldl (fun u r => ?_) _ _)).trans rfl
  · cases x <;> exact rfl
  · unfold State.dropResv State.giveCells
    split <;> exact rfl

theorem cancelRunAhead_streamFrame (s : State) (t : Nat) : s.StreamFrame (s.cancelRunAhead t) := by
  refine State.StreamFrame.foldl (fun u k => ?_) _ s
  dsimp only
  split
  · exact closeStream_streamFrame _ _
  · exact .refl _

theorem closeStreams_streamFrame (s : State) (t : Nat) : s.StreamFrame (s.closeStreams t) := by
  refine State.StreamFrame.foldl (fun u k => ?_) _ s
  split
  · exact closeStream_streamFrame _ _
  · exact .refl _

theorem dropFar_streamFrame (s : State) (t : Nat) : s.StreamFrame (s.dropFar t) :=
  State.StreamFrame.foldl (fun _ x => by cases x <;> exact rfl) _ s

/-- Closing stream `k` leaves every other stream. -/
theorem closeStream_stream_other (s : State) {k j : Nat} (h : j ≠ k) : (s.closeStream k).stream j = s.stream j := by
  unfold State.closeStream
  dsimp only
  rw [modStream_stream_other _ _ h]
  unfold State.stream
  rw [foldl_leaves (g := State.streams) (fun u r => ?_), foldl_leaves (g := State.streams) (fun u x => ?_)]
  · cases x <;> rfl
  · unfold State.dropResv State.giveCells
    split <;> rfl

/-- Closing a stream takes back no fault that has been raised. -/
theorem closeStream_raised (s : State) (k : Nat) : s.fault.raised ⊆ (s.closeStream k).fault.raised := by
  unfold State.closeStream
  dsimp only
  rw [State.modStream_fault, foldl_leaves (g := State.fault) (fun u r => ?_)]
  · generalize (List.eraseDups (α := Taint) _) = l
    induction l generalizing s with
    | nil => exact List.Subset.refl _
    | cons x l ih =>
      refine List.Subset.trans ?_ (ih (s.dropTaint x))
      cases x
      · exact List.Subset.refl _
      · exact List.Subset.refl _
      · exact List.subset_append_left _ _
  · unfold State.dropResv State.giveCells
    split <;> rfl

theorem cancelRunAhead_raised (s : State) (t : Nat) : s.fault.raised ⊆ (s.cancelRunAhead t).fault.raised := by
  unfold State.cancelRunAhead
  generalize s.streamsOf t = l
  induction l generalizing s with
  | nil => exact List.Subset.refl _
  | cons k l ih =>
    rw [List.foldl_cons]
    refine List.Subset.trans ?_ (ih _)
    dsimp only
    split
    · exact closeStream_raised _ _
    · exact List.Subset.refl _

/-! ## What halting and landing can change (R55, R58, R59) -/

theorem State.TunFrame.hbm {s t : State} (h : s.TunFrame t) : t.hbm = s.hbm := by unfold State.TunFrame at h; rw [h]
theorem State.TunFrame.crossings {s t : State} (h : s.TunFrame t) : t.crossings = s.crossings := by
  unfold State.TunFrame at h; rw [h]

/-- What a closure leaves of the open digest (R319). -/
def Tun.digestClosed (u : Tun) : Tun :=
  { u with digD := 0, digE := 0, digItems := 0, digLayer := 0xFFFF, mvSeen := false, engineMap := 0, engineCnt := 0 }

/-- A closed digest begins anew, and nothing else of its tun changes (R319). -/
@[simp] theorem closeDigest_tun_same (s : State) (id : Nat) (b : Bool) :
    (s.closeDigest id b).tun id = (s.tun id).digestClosed := by
  unfold State.closeDigest
  dsimp only
  rw [setTun_tun_same]
  split <;> rfl

theorem closeDigest_invalid (s : State) (id : Nat) (b : Bool) :
    (s.closeDigest id b).time.invalid = s.time.invalid := by
  unfold State.closeDigest
  extract_lets a e t c u
  rw [State.setTun_time]
  unfold u
  split <;> rfl

theorem closeDigest_fault (s : State) (id : Nat) (b : Bool) : (s.closeDigest id b).fault = s.fault := by
  unfold State.closeDigest
  extract_lets a e t c u
  rw [State.setTun_fault]
  unfold u
  split <;> rfl

@[simp] theorem stopTun_tun_same (s : State) (id : Nat) (ph : TunPhase) (c : Nat) :
    (s.stopTun id ph c).tun id = { s.tun id with cycle := c, quietAt := s.now }.stop ph := modTun_tun_same s id _

/-- A fault leaves a tun that has halted or does not compute; another one stops, and then its digest
may be closed (R59). -/
theorem haltFaultAt_cases (s : State) (id c : Nat) :
    (s.haltFaultAt id c = s ∧ ((s.tun id).phase = .haltedFault ∨ (s.tun id).phase = .forwardOnly))
      ∨ ∃ u : State, (s.haltFaultAt id c = u ∨ s.haltFaultAt id c = u.closeDigest id true)
        ∧ u.tun id = (s.stopTun id .haltedFault c).tun id ∧ s.fault.raised ⊆ u.fault.raised := by
  unfold State.haltFaultAt
  extract_lets t s1 s2
  split
  · next h => exact .inl ⟨rfl, by simpa [t] using h⟩
  · refine .inr ⟨s2, ?_, ?_, ?_⟩
    · split
      · exact .inr rfl
      · exact .inl rfl
    · exact (cancelRunAhead_streamFrame s1.digInvalid id).tun id
    · exact cancelRunAhead_raised s1.digInvalid id

/-- A tun that a fault halts keeps its queues (R59). -/
theorem haltFaultAt_queues (s : State) (id c : Nat) : ((s.haltFaultAt id c).tun id).queues = (s.tun id).queues := by
  obtain ⟨h, -⟩ | ⟨u, h | h, hu, -⟩ := haltFaultAt_cases s id c
  · rw [h]
  · rw [h, hu, stopTun_tun_same]; rfl
  · rw [h, closeDigest_tun_same, hu, stopTun_tun_same]; rfl

theorem haltFaultAt_queue (s : State) (id c q : Nat) : ((s.haltFaultAt id c).tun id).queue q = (s.tun id).queue q := by
  unfold Tun.queue
  rw [haltFaultAt_queues]

/-- A running tun that a fault halts is HALTED_FAULT (R59). -/
theorem haltFaultAt_phase {s : State} {id : Nat} (c : Nat) (h : (s.tun id).phase = .running) :
    ((s.haltFaultAt id c).tun id).phase = .haltedFault := by
  obtain ⟨-, hp | hp⟩ | ⟨u, h | h, hu, -⟩ := haltFaultAt_cases s id c
  · cases h.symm.trans hp
  · cases h.symm.trans hp
  · rw [h, hu, stopTun_tun_same]; rfl
  · rw [h, closeDigest_tun_same, hu, stopTun_tun_same]; rfl

/-- A halt takes back no fault that has been raised. -/
theorem haltFaultAt_raised (s : State) (id c : Nat) : s.fault.raised ⊆ (s.haltFaultAt id c).fault.raised := by
  obtain ⟨h, -⟩ | ⟨u, h | h, -, hu⟩ := haltFaultAt_cases s id c
  · rw [h]; exact List.Subset.refl _
  · rw [h]; exact hu
  · rw [h, closeDigest_fault]; exact hu

theorem modTun_frame (s : State) (i : Nat) (f : Tun → Tun) : s.TunFrame (s.modTun i f) := rfl
theorem raise_frame (s : State) (src detail : Nat) : s.TunFrame (s.raise src detail) := rfl

theorem streamFault_frame (s : State) (id k n : Nat) : s.TunFrame (s.streamFault id k n) :=
  (raise_frame _ _ _).trans (haltFaultAt_frame _ _ _)

theorem bindingFault_frame (s : State) (id q n : Nat) : s.TunFrame (s.bindingFault id q n) :=
  (raise_frame _ _ _).trans (haltFaultAt_frame _ _ _)

theorem tunMemFault_frame (s : State) (id : Nat) : s.TunFrame (s.tunMemFault id) :=
  (raise_frame _ _ _).trans (haltFaultAt_frame _ _ _)

theorem slip_frame (s : State) (id k q e : Nat) (pc : Pc) (c : Nat) : s.TunFrame (s.slip id k q e pc c) := by
  unfold State.slip
  exact ((modTun_frame _ _ _).trans (raise_frame _ _ _)).trans (haltFaultAt_frame _ _ _)

theorem exceptionAt_frame (s : State) (id k kind cause pc c : Nat) :
    s.TunFrame (s.exceptionAt id k kind cause pc c) := by
  unfold State.exceptionAt
  exact ((modTun_frame _ _ _).trans (raise_frame _ _ _)).trans (haltFaultAt_frame _ _ _)

theorem raiseFlagIn_frame (s : State) (id f n pc : Nat) (c : Option Nat) : s.TunFrame (s.raiseFlagIn id f n pc c) := by
  unfold State.raiseFlagIn
  dsimp only
  split
  · exact (modTun_frame _ _ _).trans (modTun_frame _ _ _)
  · exact (modTun_frame _ _ _).trans (exceptionAt_frame _ _ _ _ _ _ _)

theorem pushEntry_frame (s : State) (id q d : Nat) (e : Entry) (pc : Pc) (c : Nat) :
    s.TunFrame (s.pushEntry id q d e pc c) := by
  unfold State.pushEntry
  extract_lets t x b st
  split
  · split
    · exact streamFault_frame _ _ _ _
    · exact .refl _
  split
  · exact rfl
  split
  · exact slip_frame _ _ _ _ _ _ _
  · exact rfl

theorem tunWord_frame (s : State) (id a : Nat) (o : EccOutcome) : s.TunFrame (s.tunWord id a o).1 := by
  cases o <;> exact rfl

theorem tunEcc_frame (s : State) (id a : Nat) (sel : Nat → Bool) (e : Ecc) : s.TunFrame (s.tunEcc id a sel e).1 := by
  unfold State.tunEcc
  generalize false = bad
  induction e generalizing s bad with
  | nil => exact .refl s
  | cons x e ih =>
    rw [List.foldl_cons]
    dsimp only
    split
    · exact ih _ _
    · exact (tunWord_frame _ _ _ _).trans (ih _ _)

theorem landEffect_frame (s : State) (id : Nat) (f : InFlight) : s.TunFrame (s.landEffect id f) := by
  unfold State.landEffect
  split
  case h_1 => exact State.TunFrame.foldl (fun _ _ => pushEntry_frame _ _ _ _ _ _ _) _ s
  case h_2 => exact pushEntry_frame _ _ _ _ _ _ _
  case h_3 => exact .refl s
  case h_7 =>
    dsimp only
    split
    · exact (modTun_frame _ _ _).trans (modTun_frame _ _ _)
    · exact modTun_frame _ _ _
  case h_10 => exact raiseFlagIn_frame _ _ _ _ _ _
  all_goals exact modTun_frame _ _ _

theorem landFirst_frame (s : State) (id : Nat) : s.TunFrame (s.landFirst id) := by
  have read (f : Tun → Tun) (a : Nat) (e : Ecc) : s.TunFrame ((s.modTun id f).tunEcc id a inEntry e).1 :=
    (modTun_frame _ _ _).trans (tunEcc_frame _ _ _ _ _)
  unfold State.landFirst
  dsimp only
  split
  · exact .refl _
  split
  · split
    · exact ((read _ _ _).trans (modTun_frame _ _ _)).trans (tunMemFault_frame _ _)
    · exact (read _ _ _).trans (modTun_frame _ _ _)
  · exact ((modTun_frame _ _ _).trans (modTun_frame _ _ _)).trans (landEffect_frame _ _ _)

theorem drain_frame (s : State) (id : Nat) : s.TunFrame (s.drain id) :=
  State.TunFrame.foldl (fun _ _ => landFirst_frame _ _) _ s

/-- With nothing in flight, nothing lands. -/
theorem drain_of_inflight_nil {s : State} {id : Nat} (h : (s.tun id).inflight = []) : s.drain id = s := by
  simp [State.drain, h]

/-! ## Writes to the registers of a tun (R20, R388) -/

/-- The offset of a register of a tun lies in the block of that tun (R20). -/
theorem blockOf_tunOff (t : Fin 192) {o : Nat} (h : o < 0x20000) : blockOf (tunOff t o) = (.tun t, o) := by
  have ht : t.val < 192 := t.isLt
  unfold blockOf tunOff
  iterate 17 rw [if_neg (by omega)]
  rw [if_pos (by omega), show (0x1000000 + t.val * 0x20000 + o - 0x1000000) / 0x20000 = t.val by omega,
    show (0x1000000 + t.val * 0x20000 + o - 0x1000000) % 0x20000 = o by omega]

/-- `s` with other power states of its kettles. -/
def State.withKettles (s : State) (x : Tab KettlePhase) : State := { s with power := { s.power with kettles := x } }

/-- Ending the Idle state of a kettle changes the power states of kettles only (R388). -/
theorem touchKettle_eq (s : State) (k : Nat) : ∃ x, s.touchKettle k = s.withKettles x := by
  unfold State.touchKettle
  split <;> exact ⟨_, rfl⟩

theorem touched_of_tun (s : State) {off n o : Nat} (h : blockOf off = (.tun n, o)) :
    s.touched off = s.touchKettle (n / 48) := by
  unfold State.touched
  rw [h]

/-- A write to a register of tun `t` that may act, acts on a state whose kettles' power states alone
may have changed (R9, R388). -/
theorem hostWrite_tun {s : State} {p : HostPort} {t : Fin 192} {o : Nat} (ho : o < 0x20000)
    (h : s.mayWrite p (tunOff t o) = true) (act : State → State) :
    ∃ x, s.hostWrite p (tunOff t o) act = act (s.withKettles x) := by
  obtain ⟨x, hx⟩ := touchKettle_eq s (t / 48)
  refine ⟨x, ?_⟩
  rw [hostWrite_of_mayWrite act h, touched_of_tun s (blockOf_tunOff t ho), hx]

/-! ## LOAD, ARM_LAUNCH, HALT and CLEAR (R73, R74, R76) -/

/-- A product changes accumulators and sticky flags only (R94, R121). -/
theorem write_eq (u : Tun) (p : Product) : ∃ a f, u.write p = { u with acc := a, arith := f } := by
  unfold Tun.write
  generalize p.compute _ = r
  exact ⟨_, _, rfl⟩

/-- Products that run to completion change accumulators and sticky flags only (R94, R121). -/
theorem finishProducts_frame (u : Tun) (c : Nat) :
    ∃ a f, u.finishProducts c = { u with acc := a, arith := f } := by
  unfold Tun.finishProducts
  generalize (List.filter _ _) = ps
  induction ps generalizing u with
  | nil => exact ⟨_, _, rfl⟩
  | cons p ps ih =>
    obtain ⟨a, f, h⟩ := ih (u.write p)
    obtain ⟨b, g, hw⟩ := write_eq u p
    rw [List.foldl_cons, h, hw]
    exact ⟨a, f, rfl⟩

section
variable {s : State} {t : Nat}

/-- What LOAD leaves of a tun (R73, R84, R137). -/
structure State.LoadBegun (s v : State) (t : Nat) : Prop where
  phase : (v.tun t).phase = .loading
  program : (v.tun t).program = none
  inflight : (v.tun t).inflight = []
  stat : (v.tun t).stat = []
  wbuf : (v.tun t).wbuf = []
  acc : (v.tun t).acc = []
  vregs : (v.tun t).vregs = []
  mem : (s.tun t).inflight = [] → (v.tun t).mem = (s.tun t).mem
  hbm : v.hbm = s.hbm

theorem loadBegin_of_idle (hp : s.proving = false)
    (h : (s.tun t).phase ∈ [.idle, .loaded, .done, .haltedFault, .haltedSw]) : s.LoadBegun (s.loadBegin t) t := by
  have eq : s.loadBegin t = ((((s.drain t).modTun t fun u => u.finishProducts (s.cycleNow t)).closeDigest t
      false).cancelRunAhead t).modTun t fun u => { u.emptySeq with
        phase := .loading, program := none, next := none, ended := false, loops := [], replayRet := none,
        inflight := [], stat := [], wbuf := [], acc := [], vregs := [], dense := [], sparse := [] } := by
    unfold State.loadBegin
    simp only [List.mem_cons, List.not_mem_nil, or_false] at h
    rcases h with h | h | h | h | h <;> simp [hp, h]
  have cancelled := cancelRunAhead_streamFrame
    (((s.drain t).modTun t fun u => u.finishProducts (s.cycleNow t)).closeDigest t false) t
  rw [eq]
  constructor
  case mem =>
    intro hn
    obtain ⟨a, f, hf⟩ := finishProducts_frame (s.tun t) (s.cycleNow t)
    rw [modTun_tun_same, cancelled.tun, closeDigest_tun_same, modTun_tun_same, drain_of_inflight_nil hn, hf]
    rfl
  case hbm =>
    rw [State.modTun_hbm, cancelled.hbm, (closeDigest_frame _ _ _).hbm, State.modTun_hbm, (drain_frame s t).hbm]
  all_goals rw [modTun_tun_same]

theorem loadBegin_refused (h : (s.tun t).phase ∈ [.armed, .running, .waiting, .loading] ∨ s.proving = true) :
    s.loadBegin t = s.tunRefuse t := by
  unfold State.loadBegin
  dsimp only
  split
  · rfl
  · next hp =>
    simp only [List.mem_cons, List.not_mem_nil, or_false, hp, Bool.false_eq_true] at h
    rcases h with h | h | h | h <;> rw [h]

theorem armLaunch_armed (hp : s.proving = false) (h : (s.tun t).phase ∈ [.loaded, .done])
    (hat : s.time.ftc + 4000 ≤ (s.tun t).launchAt.toNat) (hq : ∀ e ∈ (s.tun t).queues, e.1 < 48 → e.2.near = []) :
    s.armLaunch t = s.modTun t fun u => { u with phase := .armed } := by
  unfold State.armLaunch
  have hqs : ((s.tun t).queues.all fun e => 48 ≤ e.1 || e.2.near.isEmpty) = true := by
    simpa [List.all_eq_true, or_iff_not_imp_left] using hq
  simp only [List.mem_cons, List.not_mem_nil, or_false] at h
  rcases h with h | h <;> simp [hp, h, hat, hqs]

theorem armLaunch_refused (h : (s.tun t).launchAt.toNat < s.time.ftc + 4000 ∨ (s.tun t).phase ∉ [.loaded, .done]
      ∨ s.proving = true ∨ ∃ e ∈ (s.tun t).queues, e.1 < 48 ∧ e.2.near ≠ []) : s.armLaunch t = s.tunRefuse t := by
  unfold State.armLaunch
  refine if_neg fun hall => ?_
  simp only [Bool.and_eq_true, Bool.not_eq_true', Bool.or_eq_true, beq_iff_eq, decide_eq_true_eq, List.all_eq_true,
    List.isEmpty_iff] at hall
  obtain ⟨⟨⟨hp, hph⟩, hat⟩, hq⟩ := hall
  rcases h with h | h | h | ⟨e, he, hlt, hne⟩
  · omega
  · exact h (by simpa using hph)
  · simp [hp] at h
  · rcases hq e he with h | h
    · omega
    · exact hne h

theorem tunHaltCmd_armed (h : (s.tun t).phase = .armed) :
    s.tunHaltCmd t = s.modTun t fun u => { u with phase := .loaded, quietAt := s.now } := by
  unfold State.tunHaltCmd
  rw [h]

theorem tunHaltCmd_running (h : (s.tun t).phase ∈ [.running, .waiting]) : s.tunHaltCmd t = s.haltSw t := by
  unfold State.tunHaltCmd
  simp only [List.mem_cons, List.not_mem_nil, or_false] at h
  rcases h with h | h <;> rw [h]

/-- A software halt ends the program; queues, exceptions and the digests' validity stay (R76). -/
theorem haltSw_keeps (s : State) (t : Nat) :
    ((s.haltSw t).tun t).phase = .haltedSw ∧ ((s.haltSw t).tun t).queues = (s.tun t).queues
      ∧ ((s.haltSw t).tun t).excValid = (s.tun t).excValid ∧ (s.haltSw t).time.invalid = s.time.invalid
      ∧ (s.haltSw t).hbm = s.hbm := by
  have cancelled := cancelRunAhead_streamFrame (s.stopTun t .haltedSw (s.tunCycle t)) t
  unfold State.haltSw
  dsimp only
  split
  · rw [closeDigest_tun_same, closeDigest_invalid, (closeDigest_frame _ _ _).hbm, cancelled.tun, cancelled.time,
      cancelled.hbm, stopTun_tun_same]
    exact ⟨rfl, rfl, rfl, rfl, rfl⟩
  · rw [cancelled.tun, cancelled.time, cancelled.hbm, stopTun_tun_same]
    exact ⟨rfl, rfl, rfl, rfl, rfl⟩

theorem dropCrossings_tun (s : State) (t k : Nat) : (s.dropCrossings t).tun k = s.tun k := rfl
theorem dropCrossings_hbm (s : State) (t : Nat) : (s.dropCrossings t).hbm = s.hbm := rfl

/-- CLEAR empties a tun and leaves HBM, and the tun's memory unless results are in flight (R76, R137). -/
theorem tunClearCmd_clears (h : (s.tun t).phase ∉ [.loading, .running, .waiting]) :
    ∃ u : Tun, (s.tunClearCmd t).tun t = u.cleared ∧ ((s.tun t).inflight = [] → u.mem = (s.tun t).mem)
      ∧ (s.tunClearCmd t).hbm = s.hbm := by
  have eq : s.tunClearCmd t =
      (((((s.drain t).dropFar t).closeDigest t false).closeStreams t).dropCrossings t).modTun t Tun.cleared := by
    unfold State.tunClearCmd
    split <;> simp_all
  have closed := closeStreams_streamFrame (((s.drain t).dropFar t).closeDigest t false) t
  have dropped := dropFar_streamFrame (s.drain t) t
  rw [eq, modTun_tun_same]
  refine ⟨_, rfl, fun hn => ?_, ?_⟩
  · rw [dropCrossings_tun, closed.tun, closeDigest_tun_same, dropped.tun, drain_of_inflight_nil hn]
    rfl
  · rw [State.modTun_hbm, dropCrossings_hbm, closed.hbm, (closeDigest_frame _ _ _).hbm, dropped.hbm,
      (drain_frame s t).hbm]

theorem tunFlagSet_sets (h : (s.tun t).phase ∈ [.idle, .loaded, .done, .haltedFault, .haltedSw]) (f v : Nat) :
    s.tunFlagSet t f v = s.modTun t fun u => u.setFlag f (v % 65536) := by
  unfold State.tunFlagSet
  simp only [List.mem_cons, List.not_mem_nil, or_false] at h
  rcases h with h | h | h | h | h <;> simp [h]

end

theorem setFlag_flag_same (u : Tun) (f v : Nat) : (u.setFlag f v).flag f = v % 65536 := by
  simp [Tun.setFlag, Tun.flag]

theorem setFlag_flag_other (u : Tun) {f k : Nat} (v : Nat) (h : k ≠ f) : (u.setFlag f v).flag k = u.flag k := by
  unfold Tun.setFlag Tun.flag
  rw [Tab.get_set_other _ _ _ h]

/-! ## LOAD ends (R73, R143, R144) -/

/-- The operation can change only the controllers, the counts of health and the faults raised. -/
def State.EccFrame (s t : State) : Prop := t = { s with ctls := t.ctls, health := t.health, fault := t.fault }

namespace State.EccFrame
variable {s t u : State}

theorem refl (s : State) : s.EccFrame s := rfl

theorem trans (h : s.EccFrame t) (g : t.EccFrame u) : s.EccFrame u := by
  unfold State.EccFrame at *
  rw [g, h]

theorem foldl {α : Type} {f : State → α → State} (h : ∀ (u : State) (a : α), u.EccFrame (f u a)) (l : List α)
    (s : State) : s.EccFrame (l.foldl f s) := by
  induction l generalizing s with
  | nil => exact refl s
  | cons a l ih => exact (h s a).trans (ih (f s a))

theorem tun (h : s.EccFrame t) (k : Nat) : t.tun k = s.tun k := by unfold State.EccFrame at h; rw [h]; rfl
theorem hbm (h : s.EccFrame t) : t.hbm = s.hbm := by unfold State.EccFrame at h; rw [h]
theorem poisonedAt (h : s.EccFrame t) (a : Nat) : t.poisonedAt a = s.poisonedAt a := by
  unfold State.EccFrame at h; rw [h]; rfl
theorem hbmBlob (h : s.EccFrame t) (a n : Nat) : t.hbmBlob a n = s.hbmBlob a n := by
  unfold State.EccFrame at h; rw [h]; rfl
theorem checkProgram (h : s.EccFrame t) (k : Nat) (b : Blob) (n : Nat) :
    t.checkProgram k b n = s.checkProgram k b n := by
  unfold State.EccFrame at h; rw [h]; rfl

end State.EccFrame

/-- What a read finds changes the controllers' counts, the health and the faults only (R143, R144). -/
theorem eccRead_eccFrame (s : State) (a n : Nat) (e : Ecc) (src : Nat) (use : Use) :
    s.EccFrame (s.eccRead a n e src use) := by
  refine State.EccFrame.foldl (fun u x => ?_) _ s
  split
  · exact .refl _
  split
  · exact .refl _
  · next c l _ => generalize x.2 = o; cases o <;> cases use <;> exact rfl

theorem loadMark_eccFrame (s : State) (l : Nat) : s.EccFrame (s.loadMark l) := by
  unfold State.loadMark
  split <;> exact rfl

/-- LOAD cannot use the line `l` of an image at `src`: it is poisoned, or its read finds it uncorrected
(R73, R144). -/
def State.loadLineBad (s : State) (src : Nat) (e : Ecc) (l : Nat) : Bool :=
  s.poisonedAt l || e.any fun y => eccBad y.2 && burstAddr src y.1 / 64 * 64 == l

section
variable {s : State} {t : Nat} (hph : (s.tun t).phase = .loading) (ha : (s.tun t).loadSrc.toNat % 256 = 0)
  (hb : (s.tun t).loadSrc.toNat + (s.tun t).loadLen.toNat ≤ hbmTop) (e : Ecc)
include hph ha hb

/-- How LOAD ends for an image at a legal SOURCE: with the first line that it cannot use, with the first
check that fails, or with the program (R73). -/
theorem loadEnd_eq :
    ∃ v w : State, s.EccFrame v ∧ s.EccFrame w ∧ s.loadEnd t e =
      match (linesOf (s.tun t).loadSrc.toNat (s.tun t).loadLen.toNat).find?
        (s.loadLineBad (s.tun t).loadSrc.toNat e) with
      | some l => w.modTun t fun u =>
        { u with phase := .idle, loadCode := 4, loadDetail := l - (s.tun t).loadSrc.toNat }
      | none =>
        match s.checkProgram t (s.hbmBlob (s.tun t).loadSrc.toNat (s.tun t).loadLen.toNat) (s.tun t).loadLen.toNat with
        | .inl (c, d) => v.modTun t fun u => { u with phase := .idle, loadCode := c, loadDetail := d }
        | .inr p => v.modTun t fun u =>
          { (u.memBytes 0x3F0000 (p.replay.flatMap fun w => leBytes 16 w.toNat)).memBytes 0x3E0000
              (p.patches.flatMap fun e => leBytes 4 e.1 ++ leBytes 4 e.2.toNat) with
            phase := .loaded, loadCode := 0, loadDetail := 0, program := some p } := by
  have read : s.EccFrame (s.eccRead (s.tun t).loadSrc.toNat (s.tun t).loadLen.toNat e 6 .used) :=
    eccRead_eccFrame _ _ _ _ _ _
  have line : (fun l => (s.eccRead (s.tun t).loadSrc.toNat (s.tun t).loadLen.toNat e 6 .used).poisonedAt l
      || e.any fun y => eccBad y.2 && burstAddr (s.tun t).loadSrc.toNat y.1 / 64 * 64 == l)
      = s.loadLineBad (s.tun t).loadSrc.toNat e := by
    funext l
    rw [read.poisonedAt]
    rfl
  refine ⟨_, _, read, read.trans (State.EccFrame.foldl loadMark_eccFrame (List.filter
    (s.eccRead (s.tun t).loadSrc.toNat (s.tun t).loadLen.toNat e 6 .used).poisonedAt
    (linesOf (s.tun t).loadSrc.toNat (s.tun t).loadLen.toNat)) _), ?_⟩
  unfold State.loadEnd
  dsimp only
  rw [if_neg (by simp [hph]), if_neg (by simp only [hbmTop] at hb; simp [ha]; omega), line, read.hbmBlob,
    read.checkProgram] <;> rfl

/-- A line that LOAD cannot use ends it with code 4 and the line's offset (R73). -/
theorem loadEnd_of_badLine {l : Nat} (hl : (linesOf (s.tun t).loadSrc.toNat (s.tun t).loadLen.toNat).find?
      (s.loadLineBad (s.tun t).loadSrc.toNat e) = some l) :
    (s.loadEnd t e).tun t =
        { s.tun t with phase := .idle, loadCode := 4, loadDetail := l - (s.tun t).loadSrc.toNat }
      ∧ (s.loadEnd t e).hbm = s.hbm := by
  obtain ⟨v, w, -, hw, h⟩ := loadEnd_eq hph ha hb e
  rw [hl] at h
  rw [h, modTun_tun_same, hw.tun]
  exact ⟨rfl, hw.hbm⟩

/-- A check that fails ends LOAD with its code (R73). -/
theorem loadEnd_of_failedCheck {c d : Nat} (hl : (linesOf (s.tun t).loadSrc.toNat (s.tun t).loadLen.toNat).find?
      (s.loadLineBad (s.tun t).loadSrc.toNat e) = none)
    (hc : s.checkProgram t (s.hbmBlob (s.tun t).loadSrc.toNat (s.tun t).loadLen.toNat) (s.tun t).loadLen.toNat
      = .inl (c, d)) :
    (s.loadEnd t e).tun t = { s.tun t with phase := .idle, loadCode := c, loadDetail := d }
      ∧ (s.loadEnd t e).hbm = s.hbm := by
  obtain ⟨v, w, hv, -, h⟩ := loadEnd_eq hph ha hb e
  rw [hl, hc] at h
  rw [h, modTun_tun_same, hv.tun]
  exact ⟨rfl, hv.hbm⟩

/-- An image that passes every check leaves the tun LOADED with the program that it holds (R73). -/
theorem loadEnd_of_goodImage {g : Program} (hl : (linesOf (s.tun t).loadSrc.toNat (s.tun t).loadLen.toNat).find?
      (s.loadLineBad (s.tun t).loadSrc.toNat e) = none)
    (hg : s.checkProgram t (s.hbmBlob (s.tun t).loadSrc.toNat (s.tun t).loadLen.toNat) (s.tun t).loadLen.toNat
      = .inr g) :
    ((s.loadEnd t e).tun t).phase = .loaded ∧ ((s.loadEnd t e).tun t).program = some g
      ∧ ((s.loadEnd t e).tun t).loadCode = 0 ∧ ((s.loadEnd t e).tun t).queues = (s.tun t).queues
      ∧ (s.loadEnd t e).hbm = s.hbm := by
  obtain ⟨v, w, hv, -, h⟩ := loadEnd_eq hph ha hb e
  rw [hl, hg] at h
  rw [h, modTun_tun_same, hv.tun]
  exact ⟨rfl, rfl, rfl, rfl, hv.hbm⟩

end

/-! ## The launch (R51, R74, R146) -/

/-- The stream of binding `b` of tun `t`. -/
def State.bindStream (s : State) (t b : Nat) : Nat :=
  kettleOf t * 256 + (bindingIn (s.sec_ secPartition) t b).far % 256

/-- Binding `b` of tun `t` is a stream's: of kind 1 or 2 (R62). -/
def State.bindsStream (s : State) (t b : Nat) : Prop :=
  (bindingIn (s.sec_ secPartition) t b).kind = 1 ∨ (bindingIn (s.sec_ secPartition) t b).kind = 2

/-- A stream of which R146 allows the latch: its descriptor is legal and no other binding names it. -/
def State.latchable (s : State) (t b : Nat) : Prop :=
  s.descFault (s.streamWords (s.bindStream t b)) ((bindingIn (s.sec_ secPartition) t b).kind == 2) = false
    ∧ s.streamUsers (s.bindStream t b) = 1

/-- What `z` is once the stream of binding `b` of tun `t` is latched with the descriptor that `s` holds. -/
def State.latched (s : State) (t b : Nat) (z : Stream) : Prop :=
  z.active = true ∧ z.tun = t ∧ z.queue = 48 + b ∧ z.write = ((bindingIn (s.sec_ secPartition) t b).kind == 2)
    ∧ z.words = s.streamWords (s.bindStream t b) ∧ z.base = (bindingIn (s.sec_ secPartition) t b).param
    ∧ z.tileAt = (bindingIn (s.sec_ secPartition) t b).param ∧ z.store = [] ∧ z.moved = 0

theorem latchStream_of_not_binds {s : State} {t b : Nat} (h : ¬ s.bindsStream t b) : s.latchStream t b = s := by
  unfold State.bindsStream at h
  unfold State.latchStream
  exact if_pos (by simpa using h)

theorem latchStream_of_latchable {s : State} {t b : Nat} (h : s.bindsStream t b) (g : s.latchable t b) :
    s.latchStream t b = (s.closeStream (s.bindStream t b)).modStream (s.bindStream t b) fun st =>
      { words := s.streamWords (s.bindStream t b), base := (bindingIn (s.sec_ secPartition) t b).param, active := true,
        epoch := st.epoch, tun := t, queue := 48 + b, write := (bindingIn (s.sec_ secPartition) t b).kind == 2,
        tileAt := (bindingIn (s.sec_ secPartition) t b).param, reads := st.reads } := by
  obtain ⟨hd, hu⟩ := g
  unfold State.bindStream at hd hu
  unfold State.latchStream
  dsimp only
  rw [if_neg (by unfold State.bindsStream at h; rcases h with h | h <;> simp [h]), if_neg (by simp [hd, hu])]
  rfl

theorem latchStream_streamFrame {s : State} {t b : Nat} (g : s.bindsStream t b → s.latchable t b) :
    s.StreamFrame (s.latchStream t b) := by
  by_cases h : s.bindsStream t b
  · rw [latchStream_of_latchable h (g h)]
    exact (closeStream_streamFrame _ _).trans rfl
  · rw [latchStream_of_not_binds h]
    exact .refl s

/-- A latch reads the active grist and the descriptor tables of the controllers, and nothing else. -/
theorem latch_congr {s v : State} (hg : v.grist = s.grist) (hc : v.ctls = s.ctls) (t b : Nat) :
    v.bindStream t b = s.bindStream t b ∧ (v.bindsStream t b ↔ s.bindsStream t b)
      ∧ (v.latchable t b ↔ s.latchable t b) ∧ v.latched t b = s.latched t b := by
  have sec : v.sec_ = s.sec_ := by
    funext ty
    unfold State.sec_
    rw [hg]
  have words : v.streamWords = s.streamWords := by
    funext k
    unfold State.streamWords State.ctl
    rw [hc]
  have users : v.streamUsers = s.streamUsers := by
    funext k
    unfold State.streamUsers
    rw [sec]
  have fault : v.descFault = s.descFault := by
    funext ws w
    unfold State.descFault State.present State.rank
    rw [sec]
  unfold State.bindsStream State.latchable State.latched State.bindStream
  rw [sec, words, users, fault]
  exact ⟨rfl, .rfl, .rfl, rfl⟩

/-- A member of a list is at most the sum that a fold makes of it. -/
theorem le_foldl_add {l : List Nat} {n : Nat} (h : n ∈ l) : n ≤ l.foldl (· + ·) 0 := by
  rw [← List.sum_eq_foldl]
  exact List.single_le_sum (fun _ _ => Nat.zero_le _) _ h

/-- Two members of a list of at most one element are equal. -/
theorem eq_of_mem_of_length_le_one {α : Type} {l : List α} {a b : α} (h : l.length ≤ 1) (ha : a ∈ l) (hb : b ∈ l) :
    a = b := by
  match l, h with
  | [x], _ => rw [List.mem_singleton.1 ha, List.mem_singleton.1 hb]

/-- The bindings of tun `t` that name the stream `k`. -/
def State.namers (s : State) (t k : Nat) : List Nat :=
  (List.range 16).filter fun b =>
    let x := bindingIn (s.sec_ secPartition) t b
    (x.kind == 1 || x.kind == 2) && x.far % 256 == k % 256

theorem mem_namers {s : State} {t b k : Nat} (hb : b < 16) (h : s.bindsStream t b) (hk : s.bindStream t b = k) :
    b ∈ s.namers t k := by
  unfold State.bindsStream at h
  unfold State.bindStream at hk
  refine List.mem_filter.2 ⟨List.mem_range.2 hb, ?_⟩
  simp only [Bool.and_eq_true, Bool.or_eq_true, beq_iff_eq]
  exact ⟨h, by omega⟩

/-- The bindings of one tun that name a stream are at most those of its kettle (R146). -/
theorem length_namers_le (s : State) (t b : Nat) :
    (s.namers t (s.bindStream t b)).length ≤ s.streamUsers (s.bindStream t b) := by
  have hk : s.bindStream t b / 256 * 48 + t % 48 = t := by
    unfold State.bindStream kettleOf
    omega
  refine le_foldl_add (List.mem_map.2 ⟨t % 48, List.mem_range.2 (Nat.mod_lt _ (by decide)), ?_⟩)
  rw [hk]
  rfl

/-- A stream that one binding names is named by no other binding of its tun (R146). -/
theorem eq_of_bindStream_eq {s : State} {t b c : Nat} (hb : b < 16) (hc : c < 16) (bb : s.bindsStream t b)
    (bc : s.bindsStream t c) (e : s.bindStream t c = s.bindStream t b) (h : s.streamUsers (s.bindStream t b) = 1) :
    c = b :=
  eq_of_mem_of_length_le_one (h ▸ length_namers_le s t b) (mem_namers hc bc e) (mem_namers hb bb rfl)

theorem latchStream_latches {s : State} {t b : Nat} (h : s.bindsStream t b) (g : s.latchable t b) :
    s.latched t b ((s.latchStream t b).stream (s.bindStream t b)) := by
  rw [latchStream_of_latchable h g, modStream_stream_same]
  exact ⟨rfl, rfl, rfl, rfl, rfl, rfl, rfl, rfl, rfl⟩

theorem latchStream_stream_other {s : State} {t b k : Nat} (g : s.bindsStream t b → s.latchable t b)
    (hk : s.bindsStream t b → k ≠ s.bindStream t b) : (s.latchStream t b).stream k = s.stream k := by
  by_cases h : s.bindsStream t b
  · rw [latchStream_of_latchable h (g h), modStream_stream_other _ _ (hk h), closeStream_stream_other _ (hk h)]
  · rw [latchStream_of_not_binds h]

/-- The latches of a launch, as long as the tun runs (R146). -/
def State.latchAll (s : State) (t : Nat) (bs : List Nat) : State :=
  bs.foldl (fun s b => if (s.tun t).phase == .running then s.latchStream t b else s) s

/-- Where every stream of the tun can be latched, each of `bs` is, and each stays latched (R146). -/
theorem latchAll_latches {s : State} {t : Nat} (good : ∀ b < 16, s.bindsStream t b → s.latchable t b) {u : State}
    (hu : s.StreamFrame u) (run : (s.tun t).phase = .running) (bs : List Nat) (hbs : ∀ b ∈ bs, b < 16) :
    s.StreamFrame (u.latchAll t bs) ∧ ∀ c < 16, s.bindsStream t c →
      c ∈ bs ∨ s.latched t c (u.stream (s.bindStream t c)) →
      s.latched t c ((u.latchAll t bs).stream (s.bindStream t c)) := by
  induction bs generalizing u with
  | nil => exact ⟨hu, fun c _ _ h => h.resolve_left List.not_mem_nil⟩
  | cons b bs ih =>
    have hb : b < 16 := hbs b (List.mem_cons_self ..)
    obtain ⟨key, binds, able, same⟩ := latch_congr hu.grist hu.ctls t b
    have gu : u.bindsStream t b → u.latchable t b := fun h => able.2 (good b hb (binds.1 h))
    have head : u.latchAll t (b :: bs) = (u.latchStream t b).latchAll t bs := by
      unfold State.latchAll
      rw [List.foldl_cons, if_pos (by simp [hu.tun, run])]
    obtain ⟨frame, latched⟩ := ih (hu.trans (latchStream_streamFrame gu))
      fun c hc => hbs c (List.mem_cons_of_mem _ hc)
    rw [head]
    refine ⟨frame, fun c hc bc h => ?_⟩
    by_cases hcb : c = b
    · subst hcb
      refine latched c hc bc (.inr ?_)
      rw [← key, ← same]
      exact latchStream_latches (binds.2 bc) (gu (binds.2 bc))
    · have other : (u.latchStream t b).stream (s.bindStream t c) = u.stream (s.bindStream t c) := by
        refine latchStream_stream_other gu fun bb e => hcb ?_
        rw [key] at e
        obtain ⟨-, one⟩ := good b hb (binds.1 bb)
        exact eq_of_bindStream_eq hb hc (binds.1 bb) bc e one
      refine latched c hc bc (h.imp (fun h => ?_) fun h => other ▸ h)
      exact (List.mem_cons.1 h).resolve_left hcb

/-- What a launch makes of its tun before its streams are latched (R51, R74, R319). -/
structure State.Launched (s v : State) (t : Nat) : Prop where
  phase : (v.tun t).phase = .running
  next : (v.tun t).next = some {}
  base : (v.tun t).base = 0
  cycle : (v.tun t).cycle = 0
  launchFtc : (v.tun t).launchFtc = (s.tun t).launchAt.toNat
  period : (v.tun t).period = s.time.period
  queues : (v.tun t).queues = (s.tun t).queues
  ftc : v.time.ftc = max s.time.ftc (s.tun t).launchAt.toNat
  hbm : v.hbm = s.hbm
  grist : v.grist = s.grist
  ctls : v.ctls = s.ctls

/-- Latching the streams leaves what the launch has made of the tun. -/
theorem State.Launched.of_streamFrame {s u v : State} {t : Nat} (l : s.Launched u t) (h : u.StreamFrame v) :
    s.Launched v t := by
  constructor
  case ftc => rw [h.time, l.ftc]
  case hbm => rw [h.hbm, l.hbm]
  case grist => rw [h.grist, l.grist]
  case ctls => rw [h.ctls, l.ctls]
  all_goals rw [h.tun]
  exacts [l.phase, l.next, l.base, l.cycle, l.launchFtc, l.period, l.queues]

theorem releaseDue_of_none {s : State} (h : s.grist.release = none) : s.releaseDue = s := by
  unfold State.releaseDue
  rw [h]

theorem useFree_tun (s : State) (k : Nat) : s.useFree.tun k = s.tun k := rfl

/-- A record in FTC_RUN_MARKS that is made unless `b` changes nothing else (R314). -/
theorem unlessMark_frame (b : Bool) (s : State) (n : Nat) : ∃ m w a, (if b then s else s.mark n) =
    { s with time := { s.time with marks := m, hw := w, hwAt := a } } := by
  cases b <;> exact ⟨_, _, _, rfl⟩

/-- A launch while the grist is frozen is missed (R74). -/
theorem execLaunch_frozen {s : State} {t : Fin 192} (ha : s.tunActs t = true) (hp : (s.tun t).phase = .armed)
    (hr : s.grist.release = none) (hf : s.grist.frozen = true) :
    execLaunch t s = .next ((s.reach (s.tun t).launchAt.toNat).modTun t fun u =>
      { u with phase := .loaded, missed := true, quietAt := (s.reach (s.tun t).launchAt.toNat).now }) := by
  unfold execLaunch
  dsimp only
  rw [if_neg (by simp [ha, hp]), releaseDue_of_none (by rw [reach_grist, hr]), if_pos (by rw [reach_grist, hf])]

/-- Otherwise the tun runs from cycle 0 and its streams are latched (R51, R74, R146). -/
theorem execLaunch_runs {s : State} {t : Fin 192} (ha : s.tunActs t = true) (hp : (s.tun t).phase = .armed)
    (hr : s.grist.release = none) (hf : s.grist.frozen = false) :
    ∃ v, s.Launched v t ∧ execLaunch t s = .next (v.latchAll t (List.range 16)) := by
  unfold execLaunch
  extract_lets u s1 s2 s3 s4 gone phase s5
  rw [if_neg (by simp [u, ha, hp])]
  have h1 : s1 = s.reach u.launchAt.toNat := releaseDue_of_none (by rw [reach_grist, hr])
  rw [if_neg (by rw [h1, reach_grist, hf]; nofun)]
  obtain ⟨k, g, c, reached⟩ := reach_frame s u.launchAt.toNat
  obtain ⟨m, w, a, h2⟩ := unlessMark_frame (s1.time.phase == .locked) s1 0
  obtain ⟨m', w', a', h3⟩ := unlessMark_frame s2.repro s2 6
  have h : s3 = { s with
      time := { s.time with ftc := max s.time.ftc u.launchAt.toNat, marks := m', hw := w', hwAt := a' }
      clk := k, granary := g, core := { s.core with tel := c } } := by
    rw [show s3 = _ from h3, show s2 = _ from h2, h1, reached]
  have tun3 : s3.tun t = u := by rw [h]; rfl
  have tun4 : s4.tun t = _ := modTun_tun_same s3 t _
  have tun5 : s5.tun t = _ := (useFree_tun _ t).trans (modTun_tun_same s4 t _)
  refine ⟨s5, ?_, rfl⟩
  constructor
  case period =>
    rw [tun5, tun4]
    show s3.time.period = s.time.period
    rw [h]
  case ftc => simp only [s5, s4, State.useFree_time, State.modTun_time, h]; rfl
  case hbm => simp only [s5, s4, State.useFree_hbm, State.modTun_hbm, h]
  case grist => simp only [s5, s4, State.useFree_grist, State.modTun_grist, h]
  case ctls => simp only [s5, s4, State.useFree_ctls, State.modTun_ctls, h]
  all_goals rw [tun5, tun4, tun3]

/-! ## Port queues and crossings (R18, R61, R64) -/

/-- `s` with `l` in crossing `x`. -/
def State.setCrossing (s : State) (x : Nat) (l : List Crossed) : State :=
  { s with crossings := Tab.set [] s.crossings x l }

@[simp] theorem setCrossing_get_same (s : State) (x : Nat) (l : List Crossed) :
    Tab.get [] (s.setCrossing x l).crossings x = l := Tab.get_set_same ..

section
variable {s : State} {t q : Nat}

theorem modQueue_queue_same (u : Tun) (q : Nat) (f : Queue → Queue) :
    (u.modQueue q f).queue q = { f (u.queue q) with high := max (f (u.queue q)).high (f (u.queue q)).near.length } := by
  unfold Tun.modQueue Tun.queue
  rw [Tab.get_mod_same]

theorem modQueue_queue_other (u : Tun) {q k : Nat} (f : Queue → Queue) (h : k ≠ q) :
    (u.modQueue q f).queue k = u.queue k := by
  unfold Tun.modQueue Tun.queue
  rw [Tab.get_mod_other _ _ _ h]

/-- A binding without FLAG_EN counts into no flag (R64). -/
theorem countFlag_of_not_flagEn {n : Nat} (h : (s.binding t q).flagEn = false) : s.countFlag t q n = s := by
  simp [State.countFlag, h]

theorem refill_of_kind_ne (h : (s.binding t q).kind ≠ 1) : s.refill t q = s := by
  simp [State.refill, h]

theorem refill_of_store_nil (h : (s.stream (kettleOf t * 256 + (s.binding t q).far % 256)).store = []) :
    s.refill t q = s := by
  simp [State.refill, h]

theorem resultRefill_of_not_result (h : (s.binding t q).result = false) : s.resultRefill t q = s := by
  simp [State.resultRefill, h]

/-- The head of an inbound queue moves into the near half while that has room (R61). -/
theorem portTransfer_inbound {e : Entry} {rest : List (Entry × Taint)} (hf : (s.binding t q).flagEn = false)
    (hk : (s.binding t q).kind = 1) (hfar : ((s.tun t).queue q).far = (e, .good) :: rest)
    (hn : ((s.tun t).queue q).near.length < 32)
    (hs : (s.stream (kettleOf t * 256 + (s.binding t q).far % 256)).store = [])
    (hr : (s.binding t q).result = false) :
    s.portTransfer t q = s.modTun t fun u => u.modQueue q fun x => { x with far := rest, near := x.near ++ [e] } := by
  unfold State.portTransfer
  rw [refill_of_store_nil hs, resultRefill_of_not_result hr]
  dsimp only
  rw [if_pos (by simp [hk]), hfar]
  dsimp only
  rw [if_neg (by omega), if_neg (by simp)]
  exact countFlag_of_not_flagEn hf

/-- The head of a queue bound to another tun enters its crossing while there is room (R18, R61). -/
theorem portTransfer_outbound {e : Entry} {rest : List Entry} (hq : 48 ≤ q) (hq' : q < 64)
    (hf : (s.binding t q).flagEn = false) (hk : (s.binding t q).kind = 4) (hr : (s.binding t q).result = false)
    (hn : ((s.tun t).queue q).near = e :: rest)
    (hc : (Tab.get [] s.crossings (t * 16 + (q - 48))).length < 16)
    (hsum : (Tab.get [] s.crossings (t * 16 + (q - 48))).length
      + ((s.tun ((s.binding t q).far % 65536)).queue (bitsOf (s.binding t q).far 23 16)).near.length < 32) :
    s.portTransfer t q =
      (s.setCrossing (t * 16 + (q - 48)) (Tab.get [] s.crossings (t * 16 + (q - 48))
        ++ [⟨e, ((s.tun t).queue q).at_.headD s.clk.tun, .good⟩])).modTun t fun u => u.modQueue q fun x =>
          { x with near := rest, at_ := x.at_.drop 1 } := by
  have far : s.crossingTo (t * 16 + (q - 48)) = ((s.binding t q).far % 65536, bitsOf (s.binding t q).far 23 16) := by
    unfold State.crossingTo
    rw [show (t * 16 + (q - 48)) / 16 = t by omega, show 48 + (t * 16 + (q - 48)) % 16 = q by omega]
  unfold State.portTransfer
  rw [refill_of_kind_ne (by omega), resultRefill_of_not_result hr]
  dsimp only
  rw [if_neg (by simp [hk]), hn]
  dsimp only
  rw [if_pos (by simp [hk])]
  unfold State.crossPush
  dsimp only
  rw [far, hn]
  dsimp only
  rw [if_neg (by simp only [Bool.or_eq_true, decide_eq_true_eq]; omega)]
  exact countFlag_of_not_flagEn hf

end

/-- A good entry at the head of a crossing becomes visible in the far queue (R61). -/
theorem crossOne_good {s : State} {x f q : Nat} {c : Crossed} {rest : List Crossed}
    (hc : Tab.get [] s.crossings x = c :: rest) (hto : s.crossingTo x = (f, q)) (hf : (s.binding f q).flagEn = false)
    (hg : c.taint = .good) :
    s.crossOne x = (s.setCrossing x rest).modTun f fun u =>
      u.modQueue q fun y => { y with near := y.near ++ [c.entry] } := by
  unfold State.crossOne
  dsimp only
  rw [hto, hc]
  dsimp only
  rw [if_neg (by simp [hg])]
  exact countFlag_of_not_flagEn hf

/-- An entry that the ring has lost ends its crossing as binding data that went bad (R144, R347). -/
theorem crossOne_bad {s : State} {x f q : Nat} {c : Crossed} {rest : List Crossed}
    (hc : Tab.get [] s.crossings x = c :: rest) (hto : s.crossingTo x = (f, q)) (hb : c.taint = .bad) :
    s.crossOne x = (s.setCrossing x rest).bindingFault f q 1 := by
  unfold State.crossOne
  dsimp only
  rw [hto, hc]
  dsimp only
  rw [if_pos (by simp [hb])]
  rfl

/-- What a ring transfer reports leaves tuns, HBM, the grist and time (R347). -/
theorem ringEvent_keeps (s : State) (r : RingOutcome) :
    (∀ k, (s.ringEvent r).tun k = s.tun k) ∧ (s.ringEvent r).hbm = s.hbm ∧ (s.ringEvent r).grist = s.grist
      ∧ (s.ringEvent r).time = s.time ∧ (s.ringEvent r).now = s.now := by
  cases r <;> exact ⟨fun _ => rfl, rfl, rfl, rfl, rfl⟩

theorem ringEvent_good (s : State) : s.ringEvent .good = s := rfl

theorem ringEvent_raised_of_replayed (s : State) :
    (s.ringEvent .replayed).fault.raised = s.fault.raised ++ [s.faultRec 1783 0] := rfl

theorem ringEvent_raised_of_failed (s : State) :
    (s.ringEvent .failed).fault.raised = s.fault.raised ++ [s.faultRec 1784 0] := rfl

/-- The count by which the entry `c` of crossing `x` has crossed: 12 cycles of the receiver within a
kettle, 4 over the ring (R18, R61). -/
def State.crossedAt (s : State) (x : Nat) (c : Crossed) : Nat :=
  s.cyclesAfter (s.crossingTo x).1 c.at_ (if s.overRing x then 4 else 12)

/-- `s` when the entry `c` at the head of crossing `x` has crossed, and the ring, where the crossing
takes it, has reported how. -/
def State.crossed (s : State) (x : Nat) (ring : RingOutcome) (c : Crossed) : State :=
  if s.overRing x then (s.reach (s.crossedAt x c)).ringEvent ring else s.reach (s.crossedAt x c)

/-- The crossing takes the count forward and can report faults; tuns, HBM and the grist stay. -/
theorem crossed_keeps (s : State) (x : Nat) (ring : RingOutcome) (c : Crossed) :
    (∀ k, (s.crossed x ring c).tun k = s.tun k) ∧ (s.crossed x ring c).hbm = s.hbm
      ∧ (s.crossed x ring c).grist = s.grist ∧ (s.crossed x ring c).time = (s.reach (s.crossedAt x c)).time
      ∧ (s.crossed x ring c).now = (s.reach (s.crossedAt x c)).now := by
  unfold State.crossed
  split
  · obtain ⟨tun, hbm, grist, time, now⟩ := ringEvent_keeps (s.reach (s.crossedAt x c)) ring
    exact ⟨fun k => (tun k).trans (reach_tun ..), hbm.trans (reach_hbm ..), grist.trans (reach_grist ..), time, now⟩
  · exact ⟨fun k => reach_tun .., reach_hbm .., reach_grist .., rfl, rfl⟩

/-- Without the ring, or with a good transfer, no fault is reported (R347). -/
theorem crossed_fault_of_good {s : State} {x : Nat} {ring : RingOutcome} (c : Crossed)
    (h : s.overRing x = false ∨ ring = .good) : (s.crossed x ring c).fault = s.fault := by
  unfold State.crossed
  rcases h with h | rfl
  · rw [if_neg (by simp [h]), reach_fault]
  · rw [ringEvent_good, ite_self, reach_fault]

/-- A transfer over the ring that needed a replay reports source 1,783 (R347). -/
theorem crossed_raised_of_replayed {s : State} {x : Nat} (c : Crossed) (h : s.overRing x = true) :
    (s.crossed x .replayed c).fault.raised = s.fault.raised ++ [(s.reach (s.crossedAt x c)).faultRec 1783 0] := by
  unfold State.crossed
  rw [if_pos h, ringEvent_raised_of_replayed, reach_fault]

/-- A transfer over the ring that fails reports source 1,784 (R347). -/
theorem crossed_raised_of_failed {s : State} {x : Nat} (c : Crossed) (h : s.overRing x = true) :
    (s.crossed x .failed c).fault.raised = s.fault.raised ++ [(s.reach (s.crossedAt x c)).faultRec 1784 0] := by
  unfold State.crossed
  rw [if_pos h, ringEvent_raised_of_failed, reach_fault]

/-- A step of CROSSING_DELIVER: the head of the crossing, bad where the ring has failed, becomes visible
once it has crossed (R18, R61). -/
theorem execCrossingDeliver_eq {s : State} {x : Fin 3072} {c : Crossed} {rest : List Crossed} (ring : RingOutcome)
    (hc : Tab.get [] s.crossings x.val = c :: rest) (ha : s.tunActs (s.crossingTo x).1 = true) :
    execCrossingDeliver ⟨x, ring⟩ s = .next (((s.crossed x ring c).setCrossing x
      ((if s.overRing x && ring == .failed then { c with taint := .bad } else c) :: rest)).crossOne x) := by
  unfold execCrossingDeliver
  dsimp only
  rw [hc]
  dsimp only
  rw [if_neg (by simp [ha])]
  rfl

/-- The far end of a crossing, and its binding, are the active grist's (R62). -/
theorem crossingTo_congr {s v : State} (h : v.grist = s.grist) (x : Nat) : v.crossingTo x = s.crossingTo x := by
  unfold State.crossingTo State.binding State.sec_
  rw [h]

/-- The record of a fault is stamped by the count alone (R350). -/
theorem faultRec_congr {s v : State} (ht : v.time = s.time) (hn : v.now = s.now) (src detail : Nat) :
    v.faultRec src detail = s.faultRec src detail := by
  unfold State.faultRec State.faultDelay
  rw [ht, hn]

theorem binding_congr {s v : State} (h : v.grist = s.grist) (t q : Nat) : v.binding t q = s.binding t q := by
  unfold State.binding State.sec_
  rw [h]

/-! ## What the commands answer -/

section
variable {s : State} {p : HostPort} {t : Fin 192}

/-- A command that is one write of a register of tun `t` answers its action on a state whose kettles'
power states alone may have changed. -/
theorem answers_of_hostWrite {c : Instr} {o : Nat} {act : State → State} {P : State → Prop} (ho : o < 0x20000)
    (hm : s.mayWrite p (tunOff t o) = true) (hc : exec c s = .next (s.hostWrite p (tunOff t o) act))
    (h : ∀ x, P (act (s.withKettles x))) : Answers c s P := by
  obtain ⟨x, hx⟩ := hostWrite_tun ho hm act
  exact ⟨_, hc.trans (congrArg _ hx), h x⟩

/-- What a refused command leaves (R76): REFUSED set in its tun, the others and HBM as they are. -/
theorem tunRefuse_refuses (s : State) (t : Nat) :
    (s.tunRefuse t).tun t = { s.tun t with refused := true } ∧ (∀ k, k ≠ t → (s.tunRefuse t).tun k = s.tun k)
      ∧ (s.tunRefuse t).hbm = s.hbm :=
  ⟨modTun_tun_same .., fun _ h => modTun_tun_other _ _ h, rfl⟩

theorem tunLoad_begins (hm : s.mayWrite p (tunOff t 0) = true) (hp : s.proving = false)
    (h : (s.tun t).phase ∈ [.idle, .loaded, .done, .haltedFault, .haltedSw]) :
    Answers (.tunLoad p t) s fun v => (v.tun t).phase = .loading ∧ (v.tun t).program = none
      ∧ (v.tun t).inflight = [] ∧ (v.tun t).stat = [] ∧ (v.tun t).wbuf = [] ∧ (v.tun t).acc = []
      ∧ (v.tun t).vregs = [] ∧ ((s.tun t).inflight = [] → (v.tun t).mem = (s.tun t).mem) ∧ v.hbm = s.hbm := by
  refine answers_of_hostWrite (by decide) hm rfl fun x => ?_
  have b := loadBegin_of_idle (s := s.withKettles x) hp h
  exact ⟨b.phase, b.program, b.inflight, b.stat, b.wbuf, b.acc, b.vregs, b.mem, b.hbm⟩

theorem tunLoad_refused (hm : s.mayWrite p (tunOff t 0) = true)
    (h : (s.tun t).phase ∈ [.armed, .running, .waiting, .loading] ∨ s.proving = true) :
    Answers (.tunLoad p t) s fun v =>
      v.tun t = { s.tun t with refused := true } ∧ (∀ k, k ≠ t.val → v.tun k = s.tun k) ∧ v.hbm = s.hbm := by
  refine answers_of_hostWrite (by decide) hm rfl fun x => ?_
  rw [loadBegin_refused (s := s.withKettles x) h]
  exact tunRefuse_refuses _ _

theorem armLaunch_arms (hm : s.mayWrite p (tunOff t 0) = true) (hp : s.proving = false)
    (h : (s.tun t).phase ∈ [.loaded, .done]) (hat : s.time.ftc + 4000 ≤ (s.tun t).launchAt.toNat)
    (hq : ∀ e ∈ (s.tun t).queues, e.1 < 48 → e.2.near = []) : Answers (.armLaunch p t) s fun v =>
      v.tun t = { s.tun t with phase := .armed } ∧ (∀ k, k ≠ t.val → v.tun k = s.tun k) ∧ v.hbm = s.hbm := by
  refine answers_of_hostWrite (by decide) hm rfl fun x => ?_
  rw [armLaunch_armed (s := s.withKettles x) hp h hat hq]
  exact ⟨modTun_tun_same .., fun _ h => modTun_tun_other _ _ h, rfl⟩

theorem armLaunch_refuses (hm : s.mayWrite p (tunOff t 0) = true)
    (h : (s.tun t).launchAt.toNat < s.time.ftc + 4000 ∨ (s.tun t).phase ∉ [.loaded, .done]
      ∨ s.proving = true ∨ ∃ e ∈ (s.tun t).queues, e.1 < 48 ∧ e.2.near ≠ []) : Answers (.armLaunch p t) s fun v =>
      v.tun t = { s.tun t with refused := true } ∧ (∀ k, k ≠ t.val → v.tun k = s.tun k) ∧ v.hbm = s.hbm := by
  refine answers_of_hostWrite (by decide) hm rfl fun x => ?_
  rw [armLaunch_refused (s := s.withKettles x) h]
  exact tunRefuse_refuses _ _

theorem tunHalt_disarms (hm : s.mayWrite p (tunOff t 0) = true) (h : (s.tun t).phase = .armed) :
    Answers (.tunHalt p t) s fun v => v.tun t = { s.tun t with phase := .loaded, quietAt := s.now } := by
  refine answers_of_hostWrite (by decide) hm rfl fun x => ?_
  rw [tunHaltCmd_armed (s := s.withKettles x) h]
  exact modTun_tun_same ..

theorem tunHalt_halts (hm : s.mayWrite p (tunOff t 0) = true) (h : (s.tun t).phase ∈ [.running, .waiting]) :
    Answers (.tunHalt p t) s fun v => (v.tun t).phase = .haltedSw ∧ (v.tun t).queues = (s.tun t).queues
      ∧ (v.tun t).excValid = (s.tun t).excValid ∧ v.time.invalid = s.time.invalid ∧ v.hbm = s.hbm := by
  refine answers_of_hostWrite (by decide) hm rfl fun x => ?_
  rw [tunHaltCmd_running (s := s.withKettles x) h]
  exact haltSw_keeps _ _

theorem tunClear_clears (hm : s.mayWrite p (tunOff t 0) = true)
    (h : (s.tun t).phase ∉ [.loading, .running, .waiting]) :
    Answers (.tunClear p t) s fun v => (v.tun t).phase = .idle ∧ (v.tun t).program = none ∧ (v.tun t).queues = []
      ∧ (v.tun t).flags = [] ∧ (v.tun t).params = [] ∧ (v.tun t).slipValid = false
      ∧ ((s.tun t).inflight = [] → (v.tun t).mem = (s.tun t).mem) ∧ v.hbm = s.hbm := by
  refine answers_of_hostWrite (by decide) hm rfl fun x => ?_
  obtain ⟨u, cleared, mem, hbm⟩ := tunClearCmd_clears (s := s.withKettles x) h
  rw [cleared]
  exact ⟨rfl, rfl, rfl, rfl, rfl, rfl, mem, hbm⟩

theorem tunFlagWrite_sets {f : Fin 256} (v : Word) (hm : s.mayWrite p (tunOff t (0x400 + 4 * f.val)) = true)
    (h : (s.tun t).phase ∈ [.idle, .loaded, .done, .haltedFault, .haltedSw]) :
    Answers (.tunFlagWrite p t f v) s fun w => (w.tun t).flag f = v.toNat % 65536
      ∧ (∀ k, k ≠ f.val → (w.tun t).flag k = (s.tun t).flag k) ∧ (w.tun t).phase = (s.tun t).phase
      ∧ w.hbm = s.hbm := by
  refine answers_of_hostWrite (by omega) hm rfl fun x => ?_
  rw [tunFlagSet_sets (s := s.withKettles x) h, modTun_tun_same]
  exact ⟨by rw [setFlag_flag_same, Nat.mod_mod], fun k hk => setFlag_flag_other _ _ hk, rfl, rfl⟩

/-- LOAD ends once the controllers of its image are ready (R73, R392). -/
theorem exec_loadComplete (ha : s.tunActs t = true)
    (hr : s.regionReady (s.tun t).loadSrc.toNat (s.tun t).loadLen.toNat = true) (e : Ecc) :
    exec (.loadComplete t e) s = .next (s.loadEnd t e) :=
  if_pos (by rw [ha, hr]; rfl)

theorem launch_misses (ha : s.tunActs t = true) (hp : (s.tun t).phase = .armed) (hr : s.grist.release = none)
    (hf : s.grist.frozen = true) : Answers (.launch t) s fun v =>
      v.tun t = { s.tun t with phase := .loaded, missed := true, quietAt := v.now }
      ∧ v.time.ftc = max s.time.ftc (s.tun t).launchAt.toNat := by
  refine ⟨_, execLaunch_frozen ha hp hr hf, ?_, reach_ftc ..⟩
  rw [modTun_tun_same, reach_tun]
  rfl

theorem launch_runs (ha : s.tunActs t = true) (hp : (s.tun t).phase = .armed) (hr : s.grist.release = none)
    (hf : s.grist.frozen = false) (good : ∀ b < 16, s.bindsStream t b → s.latchable t b) :
    Answers (.launch t) s fun v => s.Launched v t
      ∧ ∀ b < 16, s.bindsStream t b → s.latched t b (v.stream (s.bindStream t b)) := by
  obtain ⟨u, l, hu⟩ := execLaunch_runs ha hp hr hf
  have same (b : Nat) := latch_congr l.grist l.ctls t b
  have able (b : Nat) (hb : b < 16) (bb : u.bindsStream t b) : u.latchable t b := by
    obtain ⟨-, binds, able, -⟩ := same b
    exact able.2 (good b hb (binds.1 bb))
  obtain ⟨frame, latched⟩ := latchAll_latches able (.refl u) l.phase (List.range 16) fun b => List.mem_range.1
  refine ⟨_, hu, l.of_streamFrame frame, fun b hb bb => ?_⟩
  obtain ⟨key, binds, -, latch⟩ := same b
  rw [← key, ← latch]
  exact latched b hb (binds.2 bb) (.inl (List.mem_range.2 hb))

end

theorem portQueueTransfer_inbound {s : State} {t : Fin 192} {q : Fin 64} {e : Entry} {rest : List (Entry × Taint)}
    (hq : 48 ≤ q.val) (ha : s.tunActs t = true) (hf : (s.binding t q).flagEn = false)
    (hk : (s.binding t q).kind = 1) (hfar : ((s.tun t).queue q).far = (e, .good) :: rest)
    (hn : ((s.tun t).queue q).near.length < 32)
    (hs : (s.stream (kettleOf t * 256 + (s.binding t q).far % 256)).store = [])
    (hr : (s.binding t q).result = false) : Answers (.portQueueTransfer t q) s fun v =>
      ((v.tun t).queue q).near = ((s.tun t).queue q).near ++ [e] ∧ ((v.tun t).queue q).far = rest
      ∧ (∀ k, k ≠ q.val → (v.tun t).queue k = (s.tun t).queue k) ∧ v.hbm = s.hbm := by
  refine ⟨_, if_pos (by simp [ha, hq]), ?_⟩
  rw [portTransfer_inbound hf hk hfar hn hs hr]
  dsimp only
  rw [modTun_tun_same, modQueue_queue_same]
  exact ⟨rfl, rfl, fun k hk => modQueue_queue_other _ _ hk, rfl⟩

theorem portQueueTransfer_outbound {s : State} {t : Fin 192} {q : Fin 64} {e : Entry} {rest : List Entry}
    (hq : 48 ≤ q.val) (ha : s.tunActs t = true) (hf : (s.binding t q).flagEn = false)
    (hk : (s.binding t q).kind = 4) (hr : (s.binding t q).result = false)
    (hn : ((s.tun t).queue q).near = e :: rest)
    (hc : (Tab.get [] s.crossings (t.val * 16 + (q.val - 48))).length < 16)
    (hsum : (Tab.get [] s.crossings (t.val * 16 + (q.val - 48))).length
      + ((s.tun ((s.binding t q).far % 65536)).queue (bitsOf (s.binding t q).far 23 16)).near.length < 32) :
    Answers (.portQueueTransfer t q) s fun v => ((v.tun t).queue q).near = rest
      ∧ Tab.get [] v.crossings (t.val * 16 + (q.val - 48)) = Tab.get [] s.crossings (t.val * 16 + (q.val - 48))
        ++ [⟨e, ((s.tun t).queue q).at_.headD s.clk.tun, .good⟩]
      ∧ v.hbm = s.hbm := by
  refine ⟨_, if_pos (by simp [ha, hq]), ?_⟩
  rw [portTransfer_outbound hq q.isLt hf hk hr hn hc hsum]
  dsimp only
  rw [modTun_tun_same, modQueue_queue_same]
  exact ⟨rfl, setCrossing_get_same .., rfl⟩

section
variable {s o : State} {x : Fin 3072} {ring : RingOutcome} {c : Crossed} {rest : List Crossed} {f q : Nat}
  (hc : Tab.get [] s.crossings x.val = c :: rest) (hto : s.crossingTo x = (f, q)) (ha : s.tunActs f = true)
include hc hto ha

theorem crossingDeliver_good (hf : (s.binding f q).flagEn = false) (hg : c.taint = .good)
    (ho : o = s.reach (s.cyclesAfter f c.at_ (if s.overRing x then 4 else 12)))
    (h : s.overRing x = false ∨ ring ≠ .failed) : Answers (.crossingDeliver ⟨x, ring⟩) s fun v =>
      ((v.tun f).queue q).near = ((s.tun f).queue q).near ++ [c.entry] ∧ Tab.get [] v.crossings x.val = rest
      ∧ (∀ k, k ≠ f → v.tun k = s.tun k) ∧ v.hbm = s.hbm ∧ v.time.ftc = o.time.ftc
      ∧ (s.overRing x = true → ring = .replayed → v.fault.raised = s.fault.raised ++ [o.faultRec 1783 0])
      ∧ (s.overRing x = false ∨ ring = .good → v.fault = s.fault) := by
  have step := execCrossingDeliver_eq ring hc (by rw [hto]; exact ha)
  have reached : o = s.reach (s.crossedAt x c) := by rw [ho, State.crossedAt, hto]
  obtain ⟨tun, hbm, grist, time, -⟩ := crossed_keeps s x ring c
  have replayed : s.overRing x = true → ring = .replayed →
      (s.crossed x ring c).fault.raised = s.fault.raised ++ [o.faultRec 1783 0] := by
    rintro hover rfl
    rw [reached, crossed_raised_of_replayed c hover]
  have unraised : s.overRing x = false ∨ ring = .good → (s.crossed x ring c).fault = s.fault :=
    crossed_fault_of_good c
  rw [← reached] at time
  generalize s.crossed x ring c = w at *
  rw [if_neg (by rcases h with h | h <;> simp [h]), crossOne_good (setCrossing_get_same w x (c :: rest))
    ((crossingTo_congr (s := s) grist x).trans hto)
    ((congrArg Binding.flagEn (binding_congr (s := s) grist f q)).trans hf) hg] at step
  refine ⟨_, step, ?_, ?_, fun k hk => ?_, hbm, congrArg _ time, replayed, unraised⟩
  · rw [modTun_tun_same, modQueue_queue_same]
    exact congrArg (fun u => (Tun.queue u q).near ++ [c.entry]) (tun f)
  · exact setCrossing_get_same ..
  · exact (modTun_tun_other _ _ hk).trans (tun k)

theorem crossingDeliver_failed (ho : o = s.reach (s.cyclesAfter f c.at_ (if s.overRing x then 4 else 12)))
    (hover : s.overRing x = true) (hring : ring = .failed) : Answers (.crossingDeliver ⟨x, ring⟩) s fun v =>
      (v.tun f).queue q = (s.tun f).queue q ∧ Tab.get [] v.crossings x.val = rest ∧ v.hbm = s.hbm
      ∧ ((s.tun f).phase = .running → (v.tun f).phase = .haltedFault) ∧ o.faultRec 1784 0 ∈ v.fault.raised
      ∧ o.faultRec (srcTun f 5) (256 + q) ∈ v.fault.raised := by
  subst hring
  have step := execCrossingDeliver_eq .failed hc (by rw [hto]; exact ha)
  have reached : o = s.reach (s.crossedAt x c) := by rw [ho, State.crossedAt, hto]
  obtain ⟨tun, hbm, grist, time, now⟩ := crossed_keeps s x .failed c
  have failed := crossed_raised_of_failed c hover
  rw [← reached] at time now failed
  generalize s.crossed x .failed c = w at *
  rw [if_pos (by simp [hover]), crossOne_bad (setCrossing_get_same w x ({ c with taint := .bad } :: rest))
    ((crossingTo_congr (s := s) grist x).trans hto) rfl] at step
  have raised := haltFaultAt_raised (((w.setCrossing x ({ c with taint := .bad } :: rest)).setCrossing x rest).raise
    (srcTun f 5) (1 * 256 + q)) f
  refine ⟨_, step, ?_, ?_, ?_, fun run => ?_, ?_, ?_⟩
  · exact (haltFaultAt_queue _ f _ q).trans (congrArg (Tun.queue · q) (tun f))
  · rw [(bindingFault_frame _ _ _ _).crossings]
    exact setCrossing_get_same ..
  · exact (bindingFault_frame _ _ _ _).hbm.trans hbm
  · exact haltFaultAt_phase _ ((congrArg Tun.phase (tun f)).trans run)
  · refine raised _ (List.mem_append_left _ ?_)
    show _ ∈ w.fault.raised
    rw [failed]
    exact List.mem_append_right _ (List.mem_singleton.2 rfl)
  · refine raised _ (List.mem_append_right _ (List.mem_singleton.2 ?_))
    rw [← faultRec_congr time now, Nat.one_mul]
    rfl

end

/-- Settles O47: one lemma for each command in each of its cases. A launch latches the tun's streams one
after another, and R146's rule that one binding names a stream keeps each latch from the next. -/
theorem tunCommands : Obligations.TunCommands := by
  unfold Obligations.TunCommands
  rintro s t u rfl
  refine ⟨fun p hm => ⟨tunLoad_begins hm, tunLoad_refused hm, armLaunch_arms hm, armLaunch_refuses hm,
    tunHalt_disarms hm, tunHalt_halts hm, tunClear_clears hm⟩, fun p f v => tunFlagWrite_sets v, ?_, ?_, ?_, ?_⟩
  · rintro ha hph hal htop hr e _ rfl
    have done := exec_loadComplete ha hr e
    exact ⟨fun l hl => ⟨_, done, loadEnd_of_badLine hph hal htop e hl⟩,
      fun g hl hg => ⟨_, done, loadEnd_of_goodImage hph hal htop e hl hg⟩,
      fun c d hl hc => ⟨_, done, loadEnd_of_failedCheck hph hal htop e hl hc⟩⟩
  · refine fun ha hp hr => ⟨launch_misses ha hp hr, fun hf good => ?_⟩
    obtain ⟨v, hv, l, latched⟩ := launch_runs ha hp hr hf fun b hb bb => good b hb _ rfl bb
    refine ⟨v, hv, l.phase, l.next, l.base, l.cycle, l.launchFtc, l.period, l.queues, ?_, l.ftc, l.hbm⟩
    rintro b hb y z rfl rfl hk
    exact latched b hb hk
  · rintro q b hq ha rfl hf
    exact ⟨fun e rest hk hfar hn hs hr => portQueueTransfer_inbound hq ha hf hk hfar hn hs hr,
      fun e rest hk hr hn hc hsum => portQueueTransfer_outbound hq ha hf hk hr hn hc hsum⟩
  · exact fun x ring c rest f q o hc hto ha hf hg ho =>
      ⟨crossingDeliver_good hc hto ha hf hg ho, crossingDeliver_failed hc hto ha ho⟩

end Sys2Proof.Machine

namespace Sys2Proof.Machine

/-! # The GRIST commands, the vote and the pitch

## What the pitch logic's own operations can change -/

/-- The operation can change only the frames on their way, the counts of the buckets, what goes to the
hosts, the lauter units and the free values; the grist stays. -/
def State.SendFrame (s t : State) : Prop :=
  t = { s with core := t.core, granary := t.granary, host := t.host, out := t.out, lauters := t.lauters, free := t.free }

namespace State.SendFrame
variable {s t u : State}

theorem refl (s : State) : s.SendFrame s := rfl

theorem trans (h : s.SendFrame t) (g : t.SendFrame u) : s.SendFrame u := by
  unfold State.SendFrame at *
  rw [g, h]

theorem foldl {α : Type} {f : State → α → State} (h : ∀ (u : State) (a : α), u.SendFrame (f u a)) (l : List α)
    (s : State) : s.SendFrame (l.foldl f s) := by
  induction l generalizing s with
  | nil => exact refl s
  | cons a l ih => exact (h s a).trans (ih (f s a))

/-- A change of the grist may as well come first. -/
theorem modGrist (h : s.SendFrame t) (f : GristSt → GristSt) : (s.modGrist f).SendFrame (t.modGrist f) := by
  unfold State.SendFrame at *
  rw [h]
  rfl

theorem grist (h : s.SendFrame t) : t.grist = s.grist := by unfold State.SendFrame at h; rw [h]
theorem hbm (h : s.SendFrame t) : t.hbm = s.hbm := by unfold State.SendFrame at h; rw [h]
theorem tuns (h : s.SendFrame t) : t.tuns = s.tuns := by unfold State.SendFrame at h; rw [h]
theorem time (h : s.SendFrame t) : t.time = s.time := by unfold State.SendFrame at h; rw [h]
theorem now (h : s.SendFrame t) : t.now = s.now := by unfold State.SendFrame at h; rw [h]; rfl
theorem fault (h : s.SendFrame t) : t.fault = s.fault := by unfold State.SendFrame at h; rw [h]
theorem links (h : s.SendFrame t) : t.links = s.links := by unfold State.SendFrame at h; rw [h]
theorem disc (h : s.SendFrame t) : t.disc = s.disc := by unfold State.SendFrame at h; rw [h]

end State.SendFrame

theorem signal_sends (s : State) (p : HostPort) (v : Nat) : s.SendFrame (s.signal p v) := by
  unfold State.signal
  dsimp only
  split
  · cases p <;> exact rfl
  · exact rfl

/-- A change of STATE signals its event and changes nothing else (R341). -/
theorem gristPhase_sends (s : State) (ph : GristPhase) :
    (s.modGrist fun g => { g with phase := ph }).SendFrame (s.gristPhase ph) := by
  unfold State.gristPhase
  split
  · next h =>
    rw [← eq_of_beq h]
    exact rfl
  · exact (signal_sends _ _ _).trans (signal_sends _ _ _)

theorem source_sends (s : State) (f : SrcFrame) : s.SendFrame (s.source f) := by
  obtain ⟨_, _, h, -⟩ := source_frame s f
  unfold State.SendFrame
  rw [h]

theorem settleHeld_sends (s : State) : s.SendFrame s.settleHeld := by
  unfold State.settleHeld
  refine State.SendFrame.trans (t := s.modCore _) rfl (State.SendFrame.foldl (fun u f => ?_) _ _)
  exact rfl

/-- The freeze ends, and frames leave that it held (R40). -/
theorem thaw_sends (s : State) : (s.modGrist fun g => { g with frozen := false, release := none }).SendFrame s.thaw :=
  settleHeld_sends _

/-- A freeze that is due for its release ends, and nothing else of the grist changes (R48). -/
theorem releaseDue_sends (s : State) : (s.modGrist fun g => { g with
    frozen := s.releaseDue.grist.frozen, release := s.releaseDue.grist.release }).SendFrame s.releaseDue := by
  unfold State.releaseDue
  split
  · split
    · rw [(thaw_sends s).grist]
      exact thaw_sends s
    · exact rfl
  · exact rfl

/-- The contribution leaves, and VOTE_SENT is kept (R42). -/
theorem sendVote_sends (s : State) : (s.modGrist fun g => { g with voteSent := true }).SendFrame s.sendVote :=
  source_sends _ _

/-- The end of a reduction changes the lauter units and the free values only (R200). -/
theorem endReduction_sends (s : State) (mine : Run → Bool) : s.SendFrame (s.endReduction mine) := by
  unfold State.endReduction
  split
  · split <;> exact rfl
  · exact rfl

/-- The decision goes to every member and is kept; the rest of the grist stays (R43 to R45). -/
theorem voteDecide_sends (s : State) (ok : Bool) (c cause : Nat) :
    (s.modGrist fun g => { g with decided := true }).SendFrame (s.voteDecide ok c cause) :=
  ((State.SendFrame.foldl (fun _ _ => source_sends _ _) _ s).trans (endReduction_sends _ _)).modGrist _

/-- The phase that a state enters may as well be entered first. -/
theorem State.SendFrame.gristPhase {s t : State} (h : s.SendFrame t) (ph : GristPhase) :
    (s.modGrist fun g => { g with phase := ph }).SendFrame (t.gristPhase ph) :=
  (h.modGrist _).trans (gristPhase_sends t ph)

theorem State.SendFrame.sendVote {s t : State} (h : s.SendFrame t) :
    (s.modGrist fun g => { g with voteSent := true }).SendFrame t.sendVote :=
  (h.modGrist _).trans (sendVote_sends t)

theorem taken_sends (s : State) (x : InFrame) : s.SendFrame (s.taken x) := rfl

/-! ## The states that accept a command (R33, R34) -/

/-- A write outside the blocks of the tuns that may act, acts. -/
theorem hostWrite_acts {s : State} {p : HostPort} {off : Nat} (hm : s.mayWrite p off = true)
    (ht : ∀ n, (blockOf off).1 ≠ .tun n) (act : State → State) : s.hostWrite p off act = act s := by
  rw [hostWrite_of_mayWrite act hm, touched_of_not_tun ht]

theorem Answers.imp {c : Instr} {s : State} {P Q : State → Prop} (h : Answers c s P) (g : ∀ t, P t → Q t) :
    Answers c s Q := by
  obtain ⟨t, ht, hP⟩ := h
  exact ⟨t, ht, g t hP⟩

section
variable {s : State} {p : HostPort} (hm : s.mayWrite p 0x10000 = true) (hf : s.isFatal = false)
include hm hf

theorem gristCommand_eq (cmd : Nat) (accepts : GristPhase → Bool) (act : State → State) :
    s.gristCommand p cmd accepts act = if accepts s.grist.phase then act s else s.gristRefuse cmd 1 := by
  unfold State.gristCommand
  rw [hostWrite_acts hm (fun _ => by simp [blockOf])]
  simp [hf]

section
variable {c : Instr} {cmd : Nat} {accepts : GristPhase → Bool} {act : State → State} {phs : List GristPhase}
  (hc : exec c s = .next (s.gristCommand p cmd accepts act))
include hc

/-- In a state that does not accept it a command is refused with WHY 1. -/
theorem gristCommand_refused (ha : ∀ ph, accepts ph = true → ph ∈ phs) (h : s.grist.phase ∉ phs) :
    exec c s = .next { s with grist := { s.grist with refusedCmd := cmd, refuseWhy := 1 } } := by
  rw [hc, gristCommand_eq hm hf, if_neg fun g => h (ha _ g)]
  rfl

/-- In a state that accepts it a command acts. -/
theorem gristCommand_acts (ha : ∀ ph ∈ phs, accepts ph = true) (h : s.grist.phase ∈ phs) :
    exec c s = .next (act s) := by
  rw [hc, gristCommand_eq hm hf, if_pos (ha _ h)]

end

/-! ## STAGE, CHECK and ARM (R34 to R36, R40, R140) -/

/-- STAGE discards the stage, but for staged RWP values, and copies the image. -/
theorem gristStage_copies (h : s.grist.phase ∈ [.empty, .fail, .pitched, .aborted])
    (ha : s.grist.src.toNat % 256 = 0) (hl : 256 ≤ s.grist.len.toNat) (hu : s.grist.len.toNat ≤ 2 ^ 26)
    (h8 : s.grist.len.toNat % 8 = 0) (ht : s.grist.src.toNat + s.grist.len.toNat ≤ hbmTop) :
    Answers (.gristStage p) s (s.modGrist fun g => { g with
      phase := .loading, image := s.hbmBlob g.src.toNat g.len.toNat, imageBad := s.anyPoison g.src.toNat g.len.toNat,
      staged := [], stagedSeq := 0, root := 0, members := 0, quiet := false, delta := false, voteSent := false,
      held := none }).SendFrame := by
  refine ⟨_, gristCommand_acts hm hf rfl (by decide) h, ?_⟩
  dsimp only
  rw [if_neg (by simp [ha, h8]; omega)]
  exact gristPhase_sends _ _

theorem gristStage_misaligned (h : s.grist.phase ∈ [.empty, .fail, .pitched, .aborted])
    (ha : s.grist.src.toNat % 256 ≠ 0) :
    exec (.gristStage p) s = .next { s with grist := { s.grist with refusedCmd := 1, refuseWhy := 3 } } := by
  rw [gristCommand_acts hm hf (c := .gristStage p) rfl (by decide) h]
  dsimp only
  rw [if_pos (by simp [ha])]
  rfl

theorem gristCheck_checks (h : s.grist.phase = .staged) :
    Answers (.gristCheck p) s (s.modGrist fun g => { g with phase := .checking }).SendFrame :=
  ⟨_, gristCommand_acts hm hf (phs := [.staged]) rfl (by decide) (by simp [h]), gristPhase_sends _ _⟩

section
variable (h : s.grist.phase = .pass) (hp : s.proving = false)
  (hq : s.grist.quiet = true
    ∨ Tab.get (word (s.hbmMode.toNat % 2)) s.grist.rwp 0x100004 = word (s.hbmMode.toNat % 2))
include h hp hq

/-- In PASS, where neither a proving run nor a change of the map refuses it, ARM judges its distances. -/
theorem exec_gristArm : exec (.gristArm p) s = .next (
    if s.grist.pitchAt.toNat < s.grist.passAt + 400000 then s.gristRefuse 3 2
    else if s.grist.pitchAt.toNat < s.time.ftc + 80000 then s.gristRefuse 3 4
    else
      let t := (s.releaseDue.modGrist fun g => { g with
        frozen := g.quiet || g.frozen, release := if g.quiet then none else g.release, voteSent := false,
        held := none }).gristPhase .armed
      if s.grist.quiet then t else t.sendVote) := by
  rw [gristCommand_acts hm hf (phs := [.pass]) (c := .gristArm p) rfl (by decide) (by simp [h])]
  dsimp only
  rw [if_neg]
  rcases hq with hq | hq
  · simp [hp, hq]
  · have hw : (word (s.hbmMode.toNat % 2)).toNat % 2 = s.hbmMode.toNat % 2 := by simp [word]
    simp [hp, hq, hw]

theorem gristArm_tooSoonAfterPass (h1 : s.grist.pitchAt.toNat < s.grist.passAt + 400000) :
    exec (.gristArm p) s = .next { s with grist := { s.grist with refusedCmd := 3, refuseWhy := 2 } } := by
  rw [exec_gristArm hm hf h hp hq, if_pos h1]
  rfl

theorem gristArm_tooSoonFromNow (h1 : s.grist.passAt + 400000 ≤ s.grist.pitchAt.toNat)
    (h2 : s.grist.pitchAt.toNat < s.time.ftc + 80000) :
    exec (.gristArm p) s = .next { s with grist := { s.grist with refusedCmd := 3, refuseWhy := 4 } } := by
  rw [exec_gristArm hm hf h hp hq, if_neg (by omega), if_pos h2]
  rfl

/-- With both leads ARM arms: it freezes a quiet stage and sends the vote of any other (R36, R40). -/
theorem gristArm_arms (h1 : s.grist.passAt + 400000 ≤ s.grist.pitchAt.toNat)
    (h2 : s.time.ftc + 80000 ≤ s.grist.pitchAt.toNat) :
    Answers (.gristArm p) s (s.modGrist fun g => { g with
      phase := .armed, frozen := g.quiet || s.releaseDue.grist.frozen,
      release := if g.quiet then none else s.releaseDue.grist.release, voteSent := !g.quiet, held := none }).SendFrame := by
  refine ⟨_, exec_gristArm hm hf h hp hq, ?_⟩
  rw [if_neg (by omega), if_neg (by omega)]
  have armed := ((releaseDue_sends s).modGrist fun g => { g with
    frozen := g.quiet || g.frozen, release := if g.quiet then none else g.release, voteSent := false,
    held := none }).gristPhase .armed
  cases hqt : s.grist.quiet
  · simpa [State.modGrist, hqt] using armed.sendVote
  · simpa [State.modGrist, hqt] using armed

end

end

/-! ## DISARM, CLEAR and KEEP (R34, R44, R46) -/

/-- The links once UNCERTAIN has been set or cleared on all of them (R274). -/
theorem fenceAll_eq (s : State) (b : Bool) : ∃ l, s.fenceAll b = { s with links := l } := by
  unfold State.fenceAll
  generalize List.range 14 = ps
  induction ps generalizing s with
  | nil => exact ⟨_, rfl⟩
  | cons p ps ih =>
    obtain ⟨l, h⟩ := ih (s.modLink p fun l => { l with uncertain := b })
    exact ⟨l, h⟩

theorem fenceAll_uncertain (s : State) (b : Bool) : ∀ n < 14, ((s.fenceAll b).link n).uncertain = b := by
  have fences (ps : List Nat) (u : State) (n : Nat) (h : n ∈ ps ∨ (u.link n).uncertain = b) :
      ((ps.foldl (fun s p => s.modLink p fun l => { l with uncertain := b }) u).link n).uncertain = b := by
    induction ps generalizing u with
    | nil => simpa using h
    | cons p ps ih =>
      refine ih _ ?_
      by_cases hn : n = p
      · right
        rw [hn, modLink_link_same]
      · rw [modLink_link_other _ _ hn]
        exact h.imp (fun h => (List.mem_cons.1 h).resolve_left hn) id
  exact fun n hn => fences _ s n (.inl (List.mem_range.2 hn))

/-- What an abort leaves of the grist: the stage is discarded and the freeze ends (R46). -/
def GristSt.abort (g : GristSt) (cause : Nat) : GristSt :=
  { g with phase := .aborted, cause := cause, frozen := false, release := none, staged := [], image := {},
           imageBad := false, stagedSeq := 0, rwp := [], root := 0, members := 0, quiet := false, delta := false,
           voteSent := false, held := none }

theorem abortPitch_sends (s : State) (cause : Nat) : (s.modGrist (·.abort cause)).SendFrame (s.abortPitch cause) :=
  (((thaw_sends s).modGrist _).modGrist _).gristPhase .aborted

section
variable {s : State} {p : HostPort} (hm : s.mayWrite p 0x10000 = true) (hf : s.isFatal = false)
include hm hf

section
variable (h : s.grist.phase ∈ [.armed, .voted])
include h

theorem exec_gristDisarm : exec (.gristDisarm p) s = .next (
    if s.grist.voteSent then s.gristRefuse 4 5
    else if s.grist.phase == .voted then s.gristRefuse 4 1
    else ((if s.grist.quiet then s.thaw else s).modGrist fun g =>
      { g with rwp := g.rwp.drop 0x100004, passAt := s.time.ftc }).gristPhase .pass) :=
  gristCommand_acts hm hf (c := .gristDisarm p) rfl (by decide) h

theorem gristDisarm_voteSent (hv : s.grist.voteSent = true) :
    exec (.gristDisarm p) s = .next { s with grist := { s.grist with refusedCmd := 4, refuseWhy := 5 } } := by
  rw [exec_gristDisarm hm hf h, if_pos hv]
  rfl

end

theorem gristDisarm_voted (h : s.grist.phase = .voted) (hv : s.grist.voteSent = false) :
    exec (.gristDisarm p) s = .next { s with grist := { s.grist with refusedCmd := 4, refuseWhy := 1 } } := by
  rw [exec_gristDisarm hm hf (by simp [h]), if_neg (by simp [hv]), if_pos (by simp [h])]
  rfl

theorem gristDisarm_disarms (h : s.grist.phase = .armed) (hv : s.grist.voteSent = false) :
    Answers (.gristDisarm p) s (s.modGrist fun g => { g with
      phase := .pass, frozen := !g.quiet && g.frozen, release := if g.quiet then none else g.release,
      rwp := g.rwp.drop 0x100004, passAt := s.time.ftc }).SendFrame := by
  refine ⟨_, exec_gristDisarm hm hf (by simp [h]), ?_⟩
  rw [if_neg (by simp [hv]), if_neg (by simp [h])]
  cases hq : s.grist.quiet
  · simpa [State.modGrist, hq] using ((State.SendFrame.refl s).modGrist fun g =>
      { g with rwp := g.rwp.drop 0x100004, passAt := s.time.ftc }).gristPhase .pass
  · simpa [State.modGrist, hq] using ((thaw_sends s).modGrist fun g =>
      { g with rwp := g.rwp.drop 0x100004, passAt := s.time.ftc }).gristPhase .pass

theorem gristClear_clears (h : s.grist.phase ∈ [.staged, .pass, .fail, .pitched, .aborted]) :
    Answers (.gristClear p) s (s.dropStage.modGrist fun g => { g with phase := .empty }).SendFrame :=
  ⟨_, gristCommand_acts hm hf rfl (by decide) h, gristPhase_sends _ _⟩

/-- KEEP ends the fence of every link and aborts with cause 7 (R46). -/
theorem resolveKeep_aborts (h : s.grist.phase = .uncertain) :
    Answers (.resolveKeep p) s ((s.fenceAll false).modGrist (·.abort 7)).SendFrame :=
  ⟨_, gristCommand_acts hm hf (phs := [.uncertain]) rfl (by decide) (by simp [h]), abortPitch_sends _ _⟩

end

/-! ## The ends of staging and checking (R35, R37) -/

/-- The contributions that the root holds are settled, or not: nothing but DECIDED changes of the grist (R44). -/
theorem voteSettle_sends (s : State) :
    (s.modGrist fun g => { g with decided := s.voteSettle.grist.decided }).SendFrame s.voteSettle := by
  unfold State.voteSettle
  split
  · split
    · rw [(voteDecide_sends ..).grist]
      exact voteDecide_sends ..
    · exact rfl
  · exact rfl

theorem State.EccFrame.stageChecks {s t : State} (h : s.EccFrame t) (g : Blob) (n : Nat) (bad : Bool) :
    t.stageChecks g n bad = s.stageChecks g n bad := by
  unfold State.EccFrame at h
  rw [h]
  rfl

theorem State.EccFrame.grist {s t : State} (h : s.EccFrame t) : t.grist = s.grist := by
  unfold State.EccFrame at h
  rw [h]

section
variable {s : State} (ha : s.alive = true)
include ha

section
variable (h : s.grist.phase = .loading) (hr : s.hbmReady s.grist.src.toNat s.grist.image.len = true) (e : Ecc)
include h hr

/-- A check that fails ends staging in FAIL with its code (R37). -/
theorem stageComplete_fails {c d : Nat} (hc : s.stageChecks s.grist.image s.grist.image.len
      (s.grist.imageBad || (firstBad e s.grist.src.toNat s.grist.image.len).isSome) = .inl (c, d)) :
    Answers (.stageComplete e) s fun t =>
      t.grist = { s.grist with phase := .fail, code := c, detail := d } ∧ t.hbm = s.hbm := by
  have read := eccRead_eccFrame s s.grist.src.toNat s.grist.image.len e 6 .used
  have failed (v : State) := ((State.SendFrame.refl v).modGrist fun x => { x with code := c, detail := d }).gristPhase .fail
  refine ⟨_, ?_, (failed _).grist.trans ?_, (failed _).hbm.trans read.hbm⟩
  · show execStageComplete e s = _
    unfold execStageComplete
    dsimp only
    rw [if_neg (by simp [ha, h, hr]), read.stageChecks, read.grist, hc]
  · simp only [State.modGrist_grist, read.grist]

/-- An image that passes every check is staged (R35). -/
theorem stageComplete_stages {y : List Placed} (hc : s.stageChecks s.grist.image s.grist.image.len
      (s.grist.imageBad || (firstBad e s.grist.src.toNat s.grist.image.len).isSome) = .inr y) :
    Answers (.stageComplete e) s fun t => t.grist.phase = .staged ∧ t.grist.code = 0
      ∧ t.grist.staged = y.map (fun q => (q.ty, q.sec)) ∧ t.grist.sections = s.grist.sections
      ∧ t.grist.stagedSeq = BitVec.ofNat 64 (s.grist.image.nat 0x10 8) ∧ t.hbm = s.hbm := by
  have read := eccRead_eccFrame s s.grist.src.toNat s.grist.image.len e 6 .used
  have staged (v : State) := ((gristPhase_sends v .staged).modGrist _).trans (voteSettle_sends _)
  show ∃ t, execStageComplete e s = .next t ∧ _
  unfold execStageComplete
  dsimp only
  rw [if_neg (by simp [ha, h, hr]), read.stageChecks, read.grist, hc]
  refine ⟨_, rfl, ?_⟩
  rw [(staged _).grist, (staged _).hbm]
  have sections := congrArg GristSt.sections read.grist
  exact ⟨rfl, rfl, rfl, sections, rfl, read.hbm⟩

end

/-- Checking ends in PASS, at a count that is kept, or in FAIL (R36, R37). -/
theorem checkComplete_sends (h : s.grist.phase = .checking) :
    Answers .checkComplete s (s.modGrist fun g => { g with
      code := s.checkResult.1, detail := s.checkResult.2,
      passAt := if s.checkResult.1 = 0 then s.time.ftc else g.passAt,
      phase := if s.checkResult.1 = 0 then .pass else .fail }).SendFrame := by
  have eq : exec .checkComplete s = .next ((s.modGrist fun g => { g with
      code := s.checkResult.1, detail := s.checkResult.2,
      passAt := if s.checkResult.1 == 0 then s.time.ftc else g.passAt }).gristPhase
        (if s.checkResult.1 == 0 then .pass else .fail)) := by
    show execCheckComplete s = _
    unfold execCheckComplete
    rw [if_neg (by simp [ha, h])]
  refine ⟨_, eq, ?_⟩
  simp only [beq_iff_eq]
  exact ((State.SendFrame.refl s).modGrist _).gristPhase _

end

/-! ## PITCH_AT and HBM_MAP (R33, R140) -/

section
variable {s : State} {p : HostPort} (hm : s.mayWrite p 0x10018 = true)
include hm

theorem exec_gristPitchAtWrite (high : Bool) (v : Word) : exec (.gristPitchAtWrite p high v) s = .next (
    if s.grist.phase != .pass then s else
    s.pairWrite p 0x10018 high v s.grist.pitchAt fun d s => s.modGrist fun g => { g with pitchAt := d }) :=
  congrArg _ (hostWrite_acts hm (fun _ => by simp [blockOf]) _)

theorem gristPitchAtWrite_ignored (h : s.grist.phase ≠ .pass) (high : Bool) (v : Word) :
    exec (.gristPitchAtWrite p high v) s = .next s := by
  rw [exec_gristPitchAtWrite hm, if_pos (by simp [h])]

theorem gristPitchAtWrite_low (h : s.grist.phase = .pass) (v : Word) : exec (.gristPitchAtWrite p false v) s =
    .next (s.modPort p fun x => { x with hold := Tab.set none x.hold 0x10018 (some v) }) := by
  rw [exec_gristPitchAtWrite hm, if_neg (by simp [h])]
  rfl

theorem gristPitchAtWrite_high (h : s.grist.phase = .pass) (v : Word) {l : Word}
    (hl : Tab.get none (s.port p).hold 0x10018 = some l) : exec (.gristPitchAtWrite p true v) s =
    .next ((s.modPort p fun x => { x with hold := x.hold.drop 0x10018 }).modGrist fun g =>
      { g with pitchAt := BitVec.ofNat 64 (v.toNat * 2 ^ 32 + l.toNat) }) := by
  rw [exec_gristPitchAtWrite hm, if_neg (by simp [h])]
  simp [State.pairWrite, hl]

end

section
variable {s : State} {p : HostPort} {v : Word} (hm : s.mayWrite p 0x100004 = true) (hv : bitOf v.toNat 30 = false)
include hm hv

/-- MODE is staged where the stage can change (R140). -/
theorem hbmMapWrite_stages (h : s.grist.phase ∈ [.empty, .staged, .pass, .fail, .pitched, .aborted]) :
    exec (.hbmMapWrite p v) s =
      .next { s with grist := { s.grist with rwp := Tab.put s.grist.rwp 0x100004 (word (v.toNat % 2)) } } := by
  show execHbmMapWrite p v s = _
  unfold execHbmMapWrite
  rw [hostWrite_acts hm (fun _ => by simp [blockOf])]
  simp only [List.mem_cons, List.not_mem_nil, or_false] at h
  rcases h with h | h | h | h | h | h <;> simp [hv, h, State.modGrist]

theorem hbmMapWrite_ignored (h : s.grist.phase ∈ [.loading, .checking, .armed, .voted, .uncertain]) :
    exec (.hbmMapWrite p v) s = .next { s with hbmMode := s.hbmMode ||| word (2 ^ 30) } := by
  show execHbmMapWrite p v s = _
  unfold execHbmMapWrite
  rw [hostWrite_acts hm (fun _ => by simp [blockOf])]
  simp only [List.mem_cons, List.not_mem_nil, or_false] at h
  rcases h with h | h | h | h | h <;> simp [hv, h]

end

/-- Settles O11: ARM judges its distances where nothing else refuses it, and a CHECK that passes keeps its count. -/
theorem armNeedsItsLead : Obligations.ArmNeedsItsLead := by
  unfold Obligations.ArmNeedsItsLead
  refine fun s p => ⟨fun ha h => (checkComplete_sends ha h).imp fun t sent => ?_, fun hm hf h hp hq =>
    ⟨gristArm_tooSoonAfterPass hm hf h hp hq, gristArm_tooSoonFromNow hm hf h hp hq, fun h1 h2 =>
      (gristArm_arms hm hf h hp hq h1 h2).imp fun t sent => by rw [sent.grist]; rfl⟩⟩
  rw [sent.grist]
  by_cases hc : s.checkResult.1 = 0 <;> simp [hc]

/-! # What the work on tuns, queues and frames leaves alone -/

/-- HBM, the grist and the lauter units: neither what a pitch does to the other blocks nor the output of a
recipe run changes them. -/
def State.stillPart (s : State) : List Host.Cell × GristSt × Tab Lauter := (s.hbm, s.grist, s.lauters)

theorem hbm_eq_of_stillPart {s t : State} (h : t.stillPart = s.stillPart) : t.hbm = s.hbm := congrArg (·.1) h
theorem grist_eq_of_stillPart {s t : State} (h : t.stillPart = s.stillPart) : t.grist = s.grist := congrArg (·.2.1) h
theorem lauters_eq_of_stillPart {s t : State} (h : t.stillPart = s.stillPart) : t.lauters = s.lauters :=
  congrArg (·.2.2) h
theorem lauter_eq_of_stillPart {s t : State} (h : t.stillPart = s.stillPart) (u : Nat) : t.lauter u = s.lauter u := by
  unfold State.lauter
  rw [lauters_eq_of_stillPart h]

theorem State.TunFrame.stillPart {s t : State} (h : s.TunFrame t) : t.stillPart = s.stillPart := by
  unfold State.TunFrame at h
  rw [h]
  rfl

theorem State.StreamFrame.stillPart {s t : State} (h : s.StreamFrame t) : t.stillPart = s.stillPart := by
  unfold State.StreamFrame at h
  rw [h]
  rfl

theorem foldl_stillPart {α : Type} {f : State → α → State} (h : ∀ u a, (f u a).stillPart = u.stillPart) (l : List α)
    (s : State) : (l.foldl f s).stillPart = s.stillPart :=
  foldl_leaves (g := State.stillPart) h l s

section
variable (s : State)

@[simp] theorem modCore_stillPart (f : Core → Core) : (s.modCore f).stillPart = s.stillPart := by rfl
@[simp] theorem modGranary_stillPart (f : Granary → Granary) : (s.modGranary f).stillPart = s.stillPart := by rfl
@[simp] theorem modCol_stillPart (f : Collective → Collective) : (s.modCol f).stillPart = s.stillPart := by rfl
@[simp] theorem modCtx_stillPart (c : Nat) (f : Ctx → Ctx) : (s.modCtx c f).stillPart = s.stillPart := by rfl
@[simp] theorem modTun_stillPart (t : Nat) (f : Tun → Tun) : (s.modTun t f).stillPart = s.stillPart := by rfl
@[simp] theorem modCtl_stillPart (n : Nat) (f : HbmCtl → HbmCtl) : (s.modCtl n f).stillPart = s.stillPart := by rfl
@[simp] theorem modLink_stillPart (p : Nat) (f : Link → Link) : (s.modLink p f).stillPart = s.stillPart := by rfl
@[simp] theorem modSq_stillPart (q : Nat) (f : StreamQ → StreamQ) : (s.modSq q f).stillPart = s.stillPart := by rfl
@[simp] theorem modPower_stillPart (f : Power → Power) : (s.modPower f).stillPart = s.stillPart := by rfl
@[simp] theorem modFault_stillPart (f : FaultSt → FaultSt) : (s.modFault f).stillPart = s.stillPart := by rfl
@[simp] theorem modCu_stillPart (f : CatchUp → CatchUp) : (s.modCu f).stillPart = s.stillPart := by rfl
@[simp] theorem useFree_stillPart : s.useFree.stillPart = s.stillPart := by rfl
@[simp] theorem raise_stillPart (src detail : Nat) : (s.raise src detail).stillPart = s.stillPart := by rfl
@[simp] theorem mark_stillPart (bit : Nat) : (s.mark bit).stillPart = s.stillPart := by rfl

@[simp] theorem reach_stillPart (due : Nat) : (s.reach due).stillPart = s.stillPart := by
  obtain ⟨_, _, _, h⟩ := reach_frame s due
  rw [h]
  rfl

@[simp] theorem source_stillPart (f : SrcFrame) : (s.source f).stillPart = s.stillPart := by
  obtain ⟨_, _, h, -⟩ := source_frame s f
  rw [h]
  rfl

@[simp] theorem settleHeld_stillPart : s.settleHeld.stillPart = s.stillPart := by
  unfold State.settleHeld
  refine (foldl_stillPart (fun u f => ?_) _ _).trans (modCore_stillPart _ _)
  exact modCore_stillPart _ _

/-! ## Frames that are given up (R188, R189) -/

@[simp] theorem opFrame_stillPart (q : Option (Nat × Nat)) (n : Nat) : (s.opFrame q n).stillPart = s.stillPart := by
  rcases q with - | q <;> rfl

@[simp] theorem dropResv_stillPart (tag : Nat) : (s.dropResv tag).stillPart = s.stillPart :=
  (dropResv_frame s tag).stillPart

@[simp] theorem granaryTurn_stillPart (n : Nat) : (s.granaryTurn n).stillPart = s.stillPart := by
  unfold State.granaryTurn
  dsimp only
  split <;> simp

@[simp] theorem giveCells_stillPart (o v n : Nat) : (s.giveCells o v n).stillPart = s.stillPart :=
  modGranary_stillPart _ _

@[simp] theorem rxDrop_stillPart (p id : Nat) : (s.rxDrop p id).stillPart = s.stillPart := by
  refine foldl_stillPart (fun u v => ?_) _ s
  unfold State.rxSettle
  simp

@[simp] theorem freeFrame_stillPart (id : Nat) : (s.freeFrame id).stillPart = s.stillPart := by
  unfold State.freeFrame
  split
  · rfl
  · next f _ =>
    extract_lets s1 s2 s3
    have h1 : s1.stillPart = s.stillPart := by unfold s1; split <;> simp
    have h3 : s3.stillPart = s2.stillPart := by
      unfold s3
      split
      · simp
      · split <;> simp
    have : s3.stillPart = s.stillPart := h3.trans h1
    split <;> simp [this]

@[simp] theorem dropHold_stillPart (id : Nat) : (s.dropHold id).stillPart = s.stillPart := by
  unfold State.dropHold State.dropRef State.freeIfDone State.modFrame
  split
  · split
    · split
      · split <;> simp
      · simp
    · rfl
  · rfl

@[simp] theorem dropHeld_stillPart (x : HeldResult) : (s.dropHeld x).stillPart = s.stillPart := by
  have h := foldl_stillPart dropHold_stillPart x.frames s
  unfold State.dropHeld
  dsimp only
  split
  · split <;> simp [h]
  · exact h

end

/-! ## The pitch (R48, R49) -/

section
variable (s : State)

@[simp] theorem dropWaits_stillPart (p : Nat → Bool) : (s.dropWaits p).stillPart = s.stillPart := by rfl
@[simp] theorem dropCrossings_stillPart (t : Nat) : (s.dropCrossings t).stillPart = s.stillPart := by rfl
@[simp] theorem unforce_stillPart (src n : Nat) : (s.unforce src n).stillPart = s.stillPart := by rfl

/-- What the old record of a tun governs is given up (R75). -/
theorem tunGivenUp_stillPart (t : Nat) :
    ((((s.drain t).closeDigest t false).closeStreams t).dropCrossings t).stillPart = s.stillPart := by
  rw [dropCrossings_stillPart, (closeStreams_streamFrame _ _).stillPart, (closeDigest_frame _ _ _).stillPart,
    (drain_frame _ _).stillPart]

@[simp] theorem colEmpty_stillPart : s.colEmpty.stillPart = s.stillPart := by
  unfold State.colEmpty
  dsimp only
  rw [modCol_stillPart, foldl_stillPart dropHold_stillPart, foldl_stillPart dropHeld_stillPart]

@[simp] theorem colPitch_stillPart (b : Bool) (ts : List Nat) : (s.colPitch b ts).stillPart = s.stillPart := by
  unfold State.colPitch
  dsimp only
  rw [modCol_stillPart]
  split
  · simp
  · exact foldl_stillPart (fun u t => modCol_stillPart u _) _ s

@[simp] theorem applyRwp_stillPart : s.applyRwp.stillPart = s.stillPart := by
  refine foldl_stillPart (fun u e => ?_) _ s
  dsimp only
  repeat' split
  all_goals rfl

@[simp] theorem pitchTun_stillPart (t : Nat) : (s.pitchTun t).stillPart = s.stillPart := by
  unfold State.pitchTun
  rw [modTun_stillPart, (dropFar_streamFrame _ _).stillPart]

@[simp] theorem resetTun_stillPart (t : Nat) (b : Bool) : (s.resetTun t b).stillPart = s.stillPart := by
  unfold State.resetTun
  rw [modTun_stillPart, (dropFar_streamFrame _ _).stillPart]

@[simp] theorem sqResetBegin_stillPart (q : Nat) : (s.sqResetBegin q).stillPart = s.stillPart := by rfl

@[simp] theorem flushCrossings_stillPart (t : Nat) (gone : Nat → Bool) :
    (s.flushCrossings t gone).stillPart = s.stillPart := by
  unfold State.flushCrossings
  dsimp only
  rw [dropCrossings_stillPart]
  refine foldl_stillPart (fun u e => ?_) _ s
  repeat' split
  all_goals simp

@[simp] theorem cutTun_stillPart (t : Nat) : (s.cutTun t).stillPart = s.stillPart := by rfl

@[simp] theorem islandTun_stillPart (t : Nat) (b : Bool) : (s.islandTun t b).stillPart = s.stillPart := by
  unfold State.islandTun
  rw [resetTun_stillPart, dropWaits_stillPart, dropCrossings_stillPart, (closeStreams_streamFrame _ _).stillPart]

@[simp] theorem kettleStacks_stillPart (k : Nat) (a b : HbmPhase) : (s.kettleStacks k a b).stillPart = s.stillPart :=
  foldl_stillPart (fun u _ => modCtl_stillPart u _ _) _ s

@[simp] theorem dozeKettle_stillPart (k : Nat) : (s.dozeKettle k).stillPart = s.stillPart := by
  unfold State.dozeKettle
  dsimp only
  rw [modPower_stillPart, kettleStacks_stillPart, foldl_stillPart (fun u _ => modCtl_stillPart u _ _),
    unforce_stillPart, unforce_stillPart, foldl_stillPart]
  simp

@[simp] theorem pitchFence_stillPart (p : Nat) : (s.pitchFence p).stillPart = s.stillPart := by rfl

end

theorem modGrist_stillPart_congr {s t : State} (h : t.stillPart = s.stillPart) (f : GristSt → GristSt) :
    (t.modGrist f).stillPart = (s.modGrist f).stillPart := by
  unfold State.stillPart
  rw [State.modGrist_grist, State.modGrist_grist, grist_eq_of_stillPart h, State.modGrist_hbm, State.modGrist_hbm,
    hbm_eq_of_stillPart h, State.modGrist_lauters, State.modGrist_lauters, lauters_eq_of_stillPart h]

/-- The grist once its stage has been applied: `new` are the sections in force (R48, R49). -/
def GristSt.applied (g : GristSt) (new : Tab Section) : GristSt :=
  { g with active := true, sections := new, staged := [], seq := g.stagedSeq,
           tag := BitVec.ofNat 64 (shaTag (effectiveBody new)), pitches := (g.pitches + 1) % 2 ^ 32,
           stored := (new :: g.stored).take 2, alp := windowIn (bodyIn new secLongevity) 4,
           desc := windowIn (bodyIn new secLongevity) 6, rcp := windowIn (bodyIn new secLongevity) 8, rwp := [] }

/-- The stage becomes the active grist; HBM and the lauter units stay. -/
theorem applyStage_stillPart (s : State) : s.applyStage.stillPart = (s.modGrist (·.applied s.afterPitch)).stillPart := by
  unfold State.applyStage
  extract_lets before first old new body tuns queues issues s1 s2 lon s3 s4 s5 s6 s7 s8 s9 s10 s11 s12
  have h1 : s1.stillPart = s.stillPart := foldl_stillPart tunGivenUp_stillPart _ s
  have h2 : s2.stillPart = s.stillPart := by rw [← h1]; exact colPitch_stillPart _ _ _
  have h4 : s4.stillPart = (s.modGrist (·.applied s.afterPitch)).stillPart :=
    (modGrist_stillPart_congr (applyRwp_stillPart s3) _).trans
      (modGrist_stillPart_congr h2 (·.applied s.afterPitch))
  have h5 : s5.stillPart = s4.stillPart := foldl_stillPart pitchTun_stillPart _ _
  have h6 : s6.stillPart = s5.stillPart := by unfold s6; split <;> simp
  have h7 : s7.stillPart = s6.stillPart := foldl_stillPart (fun u q => by split <;> simp) _ _
  have h8 : s8.stillPart = s7.stillPart := foldl_stillPart (fun u k => by split <;> simp) _ _
  have h9 : s9.stillPart = s8.stillPart := by unfold s9; split <;> simp
  have h10 : s10.stillPart = s9.stillPart := foldl_stillPart pitchFence_stillPart _ _
  calc s12.settleHeld.stillPart = s10.stillPart := by simp [s12, s11]
    _ = _ := by rw [h10, h9, h8, h7, h6, h5, h4]

/-! ## The GRIST commands as a whole -/

theorem exec_resolveApply {s : State} {p : HostPort} (hm : s.mayWrite p 0x10000 = true) (hf : s.isFatal = false)
    (h : s.grist.phase = .uncertain) :
    exec (.resolveApply p) s = .next ((s.fenceAll false).applyStage.thaw.gristPhase .pitched) := by
  show execResolveApply p s = _
  unfold execResolveApply
  rw [gristCommand_eq hm hf, if_pos (by simp [h])]

/-- A stage that is applied and then thawed and pitched, as a pitch ends (R46, R48). -/
theorem applied_pitches (s : State) :
    (s.applyStage.thaw.gristPhase .pitched).grist =
        { s.grist.applied s.afterPitch with phase := .pitched, frozen := false, release := none }
      ∧ (s.applyStage.thaw.gristPhase .pitched).hbm = s.hbm := by
  have sent := (thaw_sends s.applyStage).gristPhase .pitched
  have applied := applyStage_stillPart s
  have grist := grist_eq_of_stillPart applied
  have hbm := hbm_eq_of_stillPart applied
  rw [sent.grist, sent.hbm]
  generalize s.applyStage = u at *
  simp only [State.modGrist_grist] at *
  rw [grist]
  exact ⟨rfl, hbm⟩

/-- APPLY ends the fence of every link and pitches an uncertain grist: its stage becomes the active one (R46). -/
theorem resolveApply_pitches {s : State} {p : HostPort} (hm : s.mayWrite p 0x10000 = true) (hf : s.isFatal = false)
    (h : s.grist.phase = .uncertain) : Answers (.resolveApply p) s fun t =>
      t.grist = { s.grist.applied s.afterPitch with phase := .pitched, frozen := false, release := none }
      ∧ t.hbm = s.hbm := by
  obtain ⟨grist, hbm⟩ := applied_pitches (s.fenceAll false)
  refine ⟨_, exec_resolveApply hm hf h, grist.trans ?_, hbm.trans ?_⟩
  all_goals
    obtain ⟨l, hl⟩ := fenceAll_eq s false
    rw [hl]
  rfl

/-- The high half of PITCH_AT completes the pair that the low half latched (R33). -/
theorem gristPitchAtWrite_pairs {s : State} {p : HostPort} (hm : s.mayWrite p 0x10018 = true)
    (h : s.grist.phase = .pass) (v : Word) {l : Word} (hl : Tab.get none (s.port p).hold 0x10018 = some l) :
    Answers (.gristPitchAtWrite p true v) s fun t =>
      t.grist = { s.grist with pitchAt := BitVec.ofNat 64 (v.toNat * 2 ^ 32 + l.toNat) }
      ∧ (t.port p).hold = (s.port p).hold.drop 0x10018 ∧ t.hbm = s.hbm := by
  refine ⟨_, gristPitchAtWrite_high hm h v hl, ?_⟩
  generalize BitVec.ofNat 64 (v.toNat * 2 ^ 32 + l.toNat) = w
  refine ⟨?_, ?_, ?_⟩
  · rw [State.modGrist_grist, State.modPort_grist]
  · rw [modGrist_port, modPort_port_same]
  · rw [State.modGrist_hbm, State.modPort_hbm]

/-- Each of the seven commands is refused with WHY 1 where its states do not accept it (R33, R34). -/
theorem gristCommands_refused {s : State} {p : HostPort} (hm : s.mayWrite p 0x10000 = true) (hf : s.isFatal = false) :
    ∀ c ∈ [(Instr.gristStage p, 1, [GristPhase.empty, .fail, .pitched, .aborted]), (.gristCheck p, 2, [.staged]),
        (.gristArm p, 3, [.pass]), (.gristDisarm p, 4, [.armed, .voted]),
        (.gristClear p, 5, [.staged, .pass, .fail, .pitched, .aborted]), (.resolveKeep p, 6, [.uncertain]),
        (.resolveApply p, 7, [.uncertain])],
      s.grist.phase ∉ c.2.2 →
        exec c.1 s = .next { s with grist := { s.grist with refusedCmd := c.2.1, refuseWhy := 1 } } := by
  simp only [List.forall_mem_cons, List.not_mem_nil, false_imp_iff, implies_true, and_true]
  exact ⟨gristCommand_refused hm hf rfl (fun ph => by cases ph <;> decide),
    gristCommand_refused hm hf rfl (fun ph => by cases ph <;> decide),
    gristCommand_refused hm hf rfl (fun ph => by cases ph <;> decide),
    gristCommand_refused hm hf rfl (fun ph => by cases ph <;> decide),
    gristCommand_refused hm hf rfl (fun ph => by cases ph <;> decide),
    gristCommand_refused hm hf rfl (fun ph => by cases ph <;> decide),
    gristCommand_refused hm hf rfl (fun ph => by cases ph <;> decide)⟩

/-- Settles O49: one lemma for each command in each of its cases, and the frame of what a change of STATE, a
contribution and a decision send. -/
theorem gristCommands : Obligations.GristCommands := by
  unfold Obligations.GristCommands
  intro s p
  refine ⟨fun hm hf => ⟨gristCommands_refused hm hf, fun h => ⟨fun ha hl hu h8 ht => ?_, gristStage_misaligned hm hf h⟩,
    fun h => ?_, fun h hp hq h1 h2 => ?_, fun h => ⟨?_, fun h hv => ?_, gristDisarm_voted hm hf⟩, fun h => ?_,
    fun h => ⟨?_, ?_⟩⟩, ?_, fun ha h => ?_, fun v hm => ⟨?_, ?_, ?_⟩, fun v hm hv => ⟨?_, ?_⟩⟩
  · exact (gristStage_copies hm hf h ha hl hu h8 ht).imp fun t sent => by
      rw [sent.grist]
      exact ⟨rfl, rfl, rfl, rfl, rfl, sent.hbm, sent.tuns⟩
  · exact (gristCheck_checks hm hf h).imp fun t sent => ⟨sent.grist, sent.hbm, sent.tuns⟩
  · exact (gristArm_arms hm hf h hp hq h1 h2).imp fun t sent => ⟨sent.grist, sent.hbm, sent.tuns⟩
  · exact gristDisarm_voteSent hm hf (by simpa using h)
  · exact (gristDisarm_disarms hm hf h hv).imp fun t sent => ⟨sent.grist, sent.hbm, sent.tuns⟩
  · exact (gristClear_clears hm hf h).imp fun t sent => by
      rw [sent.grist]
      exact ⟨rfl, rfl, rfl, rfl, rfl, sent.hbm, sent.tuns⟩
  · exact (resolveKeep_aborts hm hf h).imp fun t sent => by
      have ends := fenceAll_uncertain s false
      obtain ⟨l, hl⟩ := fenceAll_eq s false
      rw [hl] at sent ends
      rw [sent.grist]
      refine ⟨rfl, rfl, rfl, rfl, fun n hn => ?_, sent.hbm, sent.tuns⟩
      rw [← ends n hn]
      unfold State.link
      rw [sent.links]
      rfl
  · exact (resolveApply_pitches hm hf h).imp fun t pitched => by
      rw [pitched.1]
      simp only [GristSt.applied, pitched.2, and_self]
  · rintro ha h hr e _ rfl
    exact ⟨fun c d hc => stageComplete_fails ha h hr e hc, fun y hc => stageComplete_stages ha h hr e hc⟩
  · exact (checkComplete_sends ha h).imp fun t sent => ⟨sent.grist, sent.hbm, sent.tuns⟩
  · exact fun h b => gristPitchAtWrite_ignored hm h b v
  · exact fun h => gristPitchAtWrite_low hm h v
  · exact fun l h hl => gristPitchAtWrite_pairs hm h v hl
  · exact hbmMapWrite_stages hm hv
  · exact hbmMapWrite_ignored hm hv

/-! ## A pitch that drops a held frame ends after its count -/

/-- A frame of a collective's context: looked up and admitted, all that keeps it is the context's hold. -/
def heldFrame : Frame :=
  { id := 0, port := 22, hdr := {}, payload := [], cells := 1, owner := 256, looked := true, admitted := true, refs := 1, hold := true }

/-- Armed with a good result at count P = 40,000, and P is now: the stage changes the groups, a collective
context holds a frame, and the granary has already acted in this core cycle. -/
def armedHolding : State :=
  { time := { ftc := 40000 }, granary := { turn := 1 }, core := { frames := [heldFrame] },
    grist := { phase := .armed, active := true, pitchAt := 40000, held := some (true, 0, 0),
               staged := [(secGroup, ⟨0, {}⟩)] } }

/-- The last hold is given up and the frame's cells go back in the next core cycle (R186). -/
theorem dropHold_armedHolding : armedHolding.dropHold 0 =
    (({ armedHolding with core := {} } : State).granaryTurn 0).giveCells 256 0 1 := by
  rfl

theorem colPitch_armedHolding : (armedHolding.colPitch true []).time.ftc = 40002 := by
  have hold : (armedHolding.colPitch true []).time.ftc = (armedHolding.dropHold 0).time.ftc := rfl
  rw [hold, dropHold_armedHolding]
  unfold State.granaryTurn State.giveCells
  dsimp only
  rw [if_pos (by decide)]
  simp only [State.modGranary_time, reach_ftc]
  decide
/-! ## What a pitch does after the collective places, in no time -/

theorem foldl_time {α : Type} {f : State → α → State} (h : ∀ u a, (f u a).time = u.time) (l : List α) (s : State) :
    (l.foldl f s).time = s.time :=
  foldl_leaves (g := State.time) h l s

section
variable (s : State)

theorem applyRwp_time : s.applyRwp.time = s.time := by
  refine foldl_time (fun u e => ?_) _ s
  dsimp only
  repeat' split
  all_goals rfl

theorem flushCrossings_time (t : Nat) (gone : Nat → Bool) : (s.flushCrossings t gone).time = s.time := by
  unfold State.flushCrossings
  refine foldl_time (fun u e => ?_) _ s
  dsimp only
  repeat' split
  all_goals rfl

theorem islandTun_time (t : Nat) (b : Bool) : (s.islandTun t b).time = s.time :=
  (dropFar_streamFrame _ t).time.trans (closeStreams_streamFrame _ _).time

theorem unforce_time (src n : Nat) : (s.unforce src n).time = s.time := State.modFault_time s _

theorem cutTun_time (t : Nat) : (s.cutTun t).time = s.time := rfl

theorem pitchFence_time (p : Nat) : (s.pitchFence p).time = s.time := State.modLink_time _ _ _

theorem kettleStacks_time (k : Nat) (a b : HbmPhase) : (s.kettleStacks k a b).time = s.time :=
  foldl_time (fun u _ => State.modCtl_time u _ _) _ s

theorem dozeKettle_time (k : Nat) : (s.dozeKettle k).time = s.time := by
  unfold State.dozeKettle
  dsimp only
  rw [State.modPower_time, kettleStacks_time, foldl_time (fun u _ => State.modCtl_time u _ _), unforce_time,
    unforce_time]
  refine foldl_time (fun u t => ?_) _ s
  rw [islandTun_time, cutTun_time]
  exact flushCrossings_time u t _

end

/-- Where no record of a tun or of a queue changes, the FTC after a pitch is that of the work on the collective
places. -/
theorem applyStage_ftc {s : State} (ha : s.grist.active = true)
    (hp : bodyIn s.afterPitch secPartition = bodyIn s.grist.sections secPartition)
    (hq : bodyIn s.afterPitch secQueue = bodyIn s.grist.sections secQueue) :
    s.applyStage.time.ftc = ((s.dropWaits fun _ => false).colPitch
      (s.grist.staged.any fun e => e.1 == secGroup || e.1 == secOrdinal) []).time.ftc := by
  unfold State.applyStage
  extract_lets before first old new body tuns queues issues s1 s2 lon s3 s4 s5 s6 s7 s8 s9 s10 s11 s12
  have htuns : tuns = [] := by simp [tuns, first, old, new, body, ha, hp, recordDiffers]
  have hqueues : queues = [] := by simp [queues, first, old, new, body, ha, hq, recordDiffers]
  have h2 : s2 = (s.dropWaits fun _ => false).colPitch
      (s.grist.staged.any fun e => e.1 == secGroup || e.1 == secOrdinal) [] := by
    simp only [s2, s1, htuns, issues, first, ha]
    rfl
  have h5 : s5.time.ftc = s2.time.ftc := by
    have applied : s5 = s4 := by unfold s5; rw [htuns, List.foldl_nil]
    rw [applied, State.modGrist_time, applyRwp_time, State.modGrist_time]
  have h6 : s6.time.ftc = s5.time.ftc := by unfold s6; split <;> rfl
  have h7 : s7 = s6 := by unfold s7; rw [hqueues, List.foldl_nil]
  have h8 : s8.time.ftc = s7.time.ftc := congrArg TimeSt.ftc (foldl_time (fun u k => by
    split
    · exact dozeKettle_time u k
    · rfl) _ _)
  have h9 : s9.time.ftc = s8.time.ftc := by
    unfold s9
    split
    · rw [State.mark_time]
    · rfl
  have h10 : s10.time.ftc = s9.time.ftc := congrArg TimeSt.ftc (foldl_time pitchFence_time _ _)
  rw [(settleHeld_sends s12).time, State.modCu_time, State.modGranary_time, h10, h9, h8, h7, h6, h5, h2]

/-- Refutes O50: the pitch drops a frame that a collective context holds, its cells go back in the granary's next
core cycle, and the FTC stands at 40,002 when the stage of P = 40,000 is pitched. -/
theorem not_gristVoteAndPitch : ¬ Obligations.GristVoteAndPitch := by
  unfold Obligations.GristVoteAndPitch
  intro h
  obtain ⟨-, -, -, -, -, -, pitch, -⟩ := h armedHolding rfl
  obtain ⟨t, ht, -, -, -, -, -, -, -, ftc, -⟩ := (pitch (.inl rfl)).1 0 0 rfl (by decide)
  have ends : exec .pitchCount armedHolding = .next
      ((armedHolding.applyStage.modGrist fun g => { g with release := none }).gristPhase .pitched) := by
    have counted : (armedHolding.reach 40000).releaseDue = armedHolding := rfl
    show execPitchCount armedHolding = _
    unfold execPitchCount
    dsimp only
    rw [if_neg (by decide), show armedHolding.grist.pitchAt.toNat = 40000 from rfl, counted]
    rfl
  have late : t.time.ftc = 40002 := by
    have last := Host.Outcome.next.inj (ht.symm.trans ends)
    rw [last, (gristPhase_sends _ _).time, State.modGrist_time, State.modGrist_time, applyStage_ftc rfl rfl rfl]
    exact colPitch_armedHolding
  have : max armedHolding.time.ftc armedHolding.grist.pitchAt.toNat = 40000 := by decide
  omega

/-! # The runs of the lauter units

## The way of a result (R201, R234, R240) -/

section
variable (s : State) (r : GroupRec)

@[simp] theorem modHealth_stillPart (f : Health → Health) : (s.modHealth f).stillPart = s.stillPart := by rfl
@[simp] theorem modChunk_stillPart (c n l : Nat) (f : Chunk → Chunk) : (s.modChunk c n l f).stillPart = s.stillPart :=
  modCtx_stillPart s c _
@[simp] theorem settleChunks_stillPart (c : Nat) : (s.settleChunks c).stillPart = s.stillPart := modCtx_stillPart s c _
@[simp] theorem charge_stillPart (o v n : Nat) : (s.charge o v n).stillPart = s.stillPart := modGranary_stillPart s _
@[simp] theorem modResResv_stillPart (g ord epoch n : Nat) (f : Nat → Nat) :
    (s.modResResv g ord epoch n f).stillPart = s.stillPart := modCol_stillPart s _

theorem dropHolds_stillPart (k : Chunk) : (s.dropHolds k).stillPart = s.stillPart :=
  foldl_stillPart dropHold_stillPart _ s

theorem markForwarded_stillPart (ls : List Nat) (n : Nat) : (s.markForwarded r ls n).stillPart = s.stillPart := by
  refine foldl_stillPart (fun u l => ?_) ls s
  split
  · rfl
  · exact modCtx_stillPart _ _ _

section
variable (port ord epoch n : Nat) (bytes : List Byte) (v reason marker : Nat)

theorem sendResult_stillPart (dest : Nat) :
    (s.sendResult port r ord epoch n dest bytes v reason marker).stillPart = s.stillPart :=
  foldl_stillPart (fun u _ => source_stillPart u _) _ s

theorem forwardResult_stillPart :
    (s.forwardResult port r ord epoch n bytes v reason marker).stillPart = s.stillPart := by
  have sent := foldl_stillPart (fun u d => sendResult_stillPart u r port ord epoch n bytes v reason marker d)
  unfold State.forwardResult
  dsimp only
  split
  · exact sent _ s
  · exact (markForwarded_stillPart _ _ _ _).trans (sent _ s)

end

theorem resultDone_stillPart (x : HeldResult) (p : SrcPlace) : (s.resultDone r x p).stillPart = s.stillPart :=
  (modCol_stillPart _ _).trans (dropHeld_stillPart s x)

theorem deliverResults_stillPart (n : Nat) : (s.deliverResults r n).stillPart = s.stillPart := by
  induction n generalizing s with
  | zero => rfl
  | succ n ih =>
    unfold State.deliverResults
    split
    · rfl
    · extract_lets bs m es t
      have faulted (u : State) : (bs.foldl (fun s b => s.bindingFault b.1 b.2 3) u).stillPart = u.stillPart :=
        foldl_stillPart (fun u b => (bindingFault_frame u _ _ _).stillPart) bs u
      have passed : t.stillPart = s.stillPart :=
        foldl_stillPart (fun u b => (modCol_stillPart _ _).trans (modTun_stillPart u _ _)) bs s
      split
      · rw [ih, faulted, resultDone_stillPart]
      · split
        · rw [ih, resultDone_stillPart, passed]
        · exact passed

section
variable (port ord epoch n : Nat) (bytes : List Byte) (v reason marker : Nat)

theorem resultHere_stillPart (frames : List Nat) (mine : Bool) :
    (s.resultHere port r ord epoch n bytes v reason marker frames mine).stillPart = s.stillPart := by
  unfold State.resultHere
  extract_lets k back own s1 s2 pad
  have h1 : s1.stillPart = s.stillPart := by unfold s1; split <;> simp
  have h2 : s2.stillPart = s.stillPart := by
    unfold s2
    split
    · rw [forwardResult_stillPart, h1]
    · exact h1
  split
  · rw [foldl_stillPart dropHold_stillPart, modResResv_stillPart, modCol_stillPart]
  · split
    next padded =>
      rw [deliverResults_stillPart, modCol_stillPart]
      split at padded
      · obtain ⟨-, rfl⟩ := Prod.mk.inj padded
        exact h2
      · obtain ⟨-, rfl⟩ := Prod.mk.inj padded
        rw [useFree_stillPart, h2]

theorem topResult_stillPart (l : Nat) :
    (s.topResult port r l ord epoch n bytes v reason marker).stillPart = s.stillPart := by
  unfold State.topResult
  extract_lets ps me superseded one s1
  have marked : (if superseded then s else s.markForwarded r [l] n).stillPart = s.stillPart := by
    split
    · rfl
    · exact markForwarded_stillPart _ _ _ _
  have sent (dest : Nat) : (one s dest).stillPart = s.stillPart := by
    unfold one
    dsimp only
    split
    · rw [resultHere_stillPart, marked]
    · rw [sendResult_stillPart, marked]
  have h1 : s1.stillPart = s.stillPart := by
    unfold s1
    split
    · exact forwardResult_stillPart _ _ _ _ _ _ _ _ _ _
    · rfl
  split
  · rw [resultHere_stillPart, h1]
  · exact sent _
  · exact sent _
  · exact marked

end

/-- The output of a run changes neither HBM nor the grist nor a lauter unit. -/
theorem runResult_stillPart (s : State) (r : Run) (bytes : List Byte) (v reason marker : Nat) (final : Bool) :
    (s.runResult r bytes v reason marker final).stillPart = s.stillPart := by
  unfold State.runResult
  split
  · rfl
  · unfold State.runOutput
    extract_lets s1 s2
    have h1 : s1.stillPart = s.stillPart := by
      unfold s1
      split
      · rfl
      · split
        · rfl
        · rw [modChunk_stillPart, modCtx_stillPart, dropHolds_stillPart]
    rw [settleChunks_stillPart]
    unfold s2
    split
    · rw [topResult_stillPart, h1]
    · rw [modChunk_stillPart, h1]

end

/-! ## The end of a run and its exceptions (R208, R226) -/

/-- What a unit holds once its run `r` has left the pipeline with a verdict. -/
def Lauter.leave (l : Lauter) (r : Run) (cycles v : Nat) : Lauter :=
  { l with run := none, runs := (l.runs + 1) % 2 ^ 32, lastCyc := min 65535 cycles, lastCtx := r.ctx % 256, lastVer := v }

/-- LTR_EXC once an exception of run `r` has come (R226). -/
def Lauter.excAfter (l : Lauter) (r : Run) (kind cause pc : Nat) : Word :=
  if bitOf l.exc.toNat 31 then l.exc ||| word (2 ^ 30)
  else word (2 ^ 31 + kind * 2 ^ 26 + r.slot % 64 * 2 ^ 20 + r.ctx % 256 * 2 ^ 12 + cause * 2 ^ 8 + pc)

theorem mem_insNat_self (x : Nat) (l : List Nat) : x ∈ insNat x l := by
  induction l with
  | nil => exact List.mem_singleton.2 rfl
  | cons y ys ih =>
    unfold insNat
    split
    · exact List.mem_cons_self
    · split
      · next h => exact h ▸ List.mem_cons_self
      · exact List.mem_cons_of_mem y ih

section
variable (s : State) (u : Nat) (r : Run)

theorem runLeaves_lauter (cycles v : Nat) : (s.runLeaves u r cycles v).lauter u = (s.lauter u).leave r cycles v := by
  unfold State.runLeaves State.after
  rw [modLauter_lauter_same, lauter_eq_of_stillPart (reach_stillPart _ _)]
  rfl

theorem runResult_lauter (q : Run) (bytes : List Byte) (v reason marker : Nat) (final : Bool) (k : Nat) :
    (s.runResult q bytes v reason marker final).lauter k = s.lauter k :=
  lauter_eq_of_stillPart (runResult_stillPart s q bytes v reason marker final) k

theorem closeRun_lauter : (s.closeRun u r).lauter u = (s.lauter u).leave r r.cycles 3 := by
  unfold State.closeRun
  rw [runResult_lauter, runLeaves_lauter]

theorem lauterExc_lauter (kind cause pc : Nat) : (s.lauterExc u r kind cause pc).lauter u =
    { (s.lauter u).leave r r.cycles 3 with
      shut := insNat (r.ctx % 256) (s.lauter u).shut, exc := (s.lauter u).excAfter r kind cause pc } := by
  unfold State.lauterExc
  dsimp only
  rw [lauter_eq_of_stillPart (raise_stillPart _ _ _), modLauter_lauter_same, closeRun_lauter]
  rfl

/-- The record of a fault is the last one once it has been raised. -/
theorem raise_last (src detail : Nat) :
    (s.raise src detail).fault.raised.getLast? = some ((s.raise src detail).faultRec src detail) := by
  rw [raise_eq, List.getLast?_append_of_ne_nil _ (by simp)]
  rfl

/-- Raising a fault leaves the lauter units. -/
theorem raise_lauter (src detail k : Nat) : (s.raise src detail).lauter k = s.lauter k :=
  lauter_eq_of_stillPart (raise_stillPart s src detail) k

theorem lauterExc_raises (kind cause pc : Nat) :
    (s.lauterExc u r kind cause pc).fault.raised.getLast? = some ((s.lauterExc u r kind cause pc).faultRec (srcLauter u 1)
      ((s.lauterExc u r kind cause pc).lauter u).exc.toNat) := by
  unfold State.lauterExc
  dsimp only
  rw [raise_last, raise_lauter]

/-! ## RECIPE_RUN_END (R201, R208, R225) -/

theorem find?_bad_eq_none {cs : List Contribution} (h : ∀ c ∈ cs, c.verdict = 0) :
    cs.find? (fun c => c.verdict != 0) = none :=
  List.find?_eq_none.2 fun c hc => by simp [h c hc]

theorem endRun_bad {c : Contribution} (h : r.contribs.find? (fun c => c.verdict != 0) = some c) :
    s.endRun u r = (s.runLeaves u r (r.cycles + 4) c.verdict).runResult r r.output c.verdict c.reason c.marker true := by
  unfold State.endRun
  rw [h]

section
variable (h : ∀ c ∈ r.contribs, c.verdict = 0)
include h

theorem endRun_good (hf : r.failed = false) (hr : r.retry = false) :
    s.endRun u r = (s.runLeaves u r (r.cycles + 4) 0).runResult r r.output 0 0 0xFFFF true := by
  unfold State.endRun
  rw [find?_bad_eq_none h]
  simp [hf, hr]

/-- A retry that is good raises the residue source (R225). -/
theorem endRun_repaired (hf : r.failed = false) (hr : r.retry = true) : ((s.endRun u r).lauter u).run = none
    ∧ (s.endRun u r).fault.raised.getLast? =
      some ((s.endRun u r).faultRec (srcLauter u 0) ((s.endRun u r).lauter u).residueReg) := by
  have eq : s.endRun u r =
      (((s.runLeaves u r (r.cycles + 4) 0).runResult r r.output 0 0 0xFFFF true).modHealth fun h =>
        { h with retried := h.retried + 1 }).raise (srcLauter u 0)
      (((s.runLeaves u r (r.cycles + 4) 0).runResult r r.output 0 0 0xFFFF true).lauter u).residueReg := by
    unfold State.endRun
    rw [find?_bad_eq_none h]
    simp [hf, hr]
  have kept : ((s.endRun u r).lauter u) =
      ((s.runLeaves u r (r.cycles + 4) 0).runResult r r.output 0 0 0xFFFF true).lauter u := by
    rw [eq, raise_lauter, lauter_eq_of_stillPart (modHealth_stillPart _ _)]
  constructor
  · rw [kept, runResult_lauter, runLeaves_lauter]
    rfl
  · rw [kept, eq, raise_last]

/-- A first mismatch keeps the run to be repeated (R225). -/
theorem endRun_mismatch (hf : r.failed = true) (hr : r.retry = false) : (s.endRun u r).lauter u =
    { (s.lauter u).leave r (r.cycles + 4) 3 with
      retried := satInc 16 (s.lauter u).retried, retry := some { r.fresh with retry := true } } := by
  unfold State.endRun
  rw [find?_bad_eq_none h]
  simp only [hf, hr, Bool.not_true, Bool.not_false, Bool.false_eq_true, if_false, if_true]
  rw [runResult_lauter, modLauter_lauter_same, runLeaves_lauter]
  rfl

/-- A second mismatch is an exception (R225, R226). -/
theorem endRun_failed (hf : r.failed = true) (hr : r.retry = true) : s.endRun u r =
    (s.modLauter u fun l => { l with failed := satInc 16 l.failed }).lauterExc u
      { r with cycles := r.cycles + 4, out := r.output } 3 0 0 := by
  unfold State.endRun
  rw [find?_bad_eq_none h]
  simp [hf, hr]

end

end

section
variable {s : State} {u : Fin 4} (ha : s.alive = true)
include ha

section
variable {r : Run} {rr : RecipeRec} (hrun : (s.lauter u).run = some r) (hv : r.vote = false) (hd : r.digest = false)
  (hrr : s.recipe u r.slot = some rr)
include hrun hv

theorem recipeRunEnd_digest (hd : r.digest = true) : exec (.recipeRunEnd u) s =
    .next (if s.digestReady then s.jobDecide else s.endReduction Run.digest) := by
  show execRecipeRunEnd u s = _
  unfold execRecipeRunEnd
  rw [hrun]
  dsimp only
  rw [if_neg (by simp [ha, hv]), if_pos hd]

include hd hrr

theorem exec_recipeRunEnd : exec (.recipeRunEnd u) s = .next (
    if r.ended || rr.words ≤ r.pc then
      if s.emitWaits u r then s.modLauter u fun l => { l with run := some { r with waiting := true } }
      else s.endRun u (s.resumed u r)
    else if (recInfo (recOp (s.recipeWord rr r.pc))).isNone then s.lauterExc u r 1 1 r.pc
    else s) := by
  show execRecipeRunEnd u s = _
  unfold execRecipeRunEnd
  rw [hrun]
  dsimp only
  rw [if_neg (by simp [ha, hv]), if_neg (by simp [hd]), hrr]
  dsimp only
  repeat' split
  all_goals rfl

section
variable (hend : r.ended = true ∨ rr.words ≤ r.pc)
include hend

theorem recipeRunEnd_waits (hw : s.emitWaits u r = true) : exec (.recipeRunEnd u) s =
    .next (s.modLauter u fun l => { l with run := some { r with waiting := true } }) := by
  rw [exec_recipeRunEnd ha hrun hv hd hrr, if_pos (by simpa using hend), if_pos hw]

theorem recipeRunEnd_ends (hw : s.emitWaits u r = false) :
    exec (.recipeRunEnd u) s = .next (s.endRun u (s.resumed u r)) := by
  rw [exec_recipeRunEnd ha hrun hv hd hrr, if_pos (by simpa using hend), if_neg (by simp [hw])]

end

section
variable (he : r.ended = false) (hpc : r.pc < rr.words)
include he hpc

theorem recipeRunEnd_unknown (hi : recInfo (recOp (s.recipeWord rr r.pc)) = none) :
    exec (.recipeRunEnd u) s = .next (s.lauterExc u r 1 1 r.pc) := by
  rw [exec_recipeRunEnd ha hrun hv hd hrr, if_neg (by simp [he, hpc]), if_pos (by simp [hi])]

theorem recipeRunEnd_known (hi : recInfo (recOp (s.recipeWord rr r.pc)) ≠ none) :
    exec (.recipeRunEnd u) s = .next s := by
  rw [exec_recipeRunEnd ha hrun hv hd hrr, if_neg (by simp [he, hpc]), if_neg (by simpa using hi)]

end

end

/-- The retry starts as the run of its unit (R225). -/
theorem residueRetry_starts {r : Run} (hrun : (s.lauter u).run = none) (hr : (s.lauter u).retry = some r) :
    exec (.residueRetry u) s =
      .next (s.modLauter u fun l => { l with run := some { r with start := s.now }, retry := none }) := by
  show execResidueRetry u s = _
  unfold execResidueRetry
  dsimp only
  rw [hrun, hr]
  dsimp only
  rw [if_neg (by simp [ha])]

end

/-- What a run keeps of itself when it goes on after a wait (R208). -/
theorem resumed_eq (s : State) (u : Nat) (r : Run) : ∃ w n, s.resumed u r = { r with waiting := w, cycles := n } := by
  unfold State.resumed
  split
  · exact ⟨_, _, rfl⟩
  · exact ⟨_, _, rfl⟩

/-! ## RECIPE_RUN_START (R198 to R200) -/

theorem insContrib_perm (c : Contribution) (ds : List Contribution) : (insContrib c ds).Perm (c :: ds) := by
  induction ds with
  | nil => exact .refl _
  | cons d ds ih =>
    unfold insContrib
    split
    · exact .refl _
    · exact (ih.cons d).trans (.swap c d ds)

theorem insContrib_sorted (c : Contribution) {ds : List Contribution} (h : ds.Pairwise fun a b => a.rank ≤ b.rank) :
    (insContrib c ds).Pairwise fun a b => a.rank ≤ b.rank := by
  induction ds with
  | nil => exact List.pairwise_singleton _ _
  | cons d ds ih =>
    obtain ⟨least, sorted⟩ := List.pairwise_cons.1 h
    unfold insContrib
    split
    · next before =>
      refine List.pairwise_cons.2 ⟨fun x hx => ?_, h⟩
      rcases List.mem_cons.1 hx with rfl | hx
      · exact before.le
      · exact before.le.trans (least x hx)
    · next before =>
      refine List.pairwise_cons.2 ⟨fun x hx => ?_, ih sorted⟩
      rcases List.mem_cons.1 ((insContrib_perm c ds).mem_iff.1 hx) with rfl | hx
      · exact not_lt.1 before
      · exact least x hx

theorem sortedContribs_perm (cs : List Contribution) : (cs.foldr insContrib []).Perm cs := by
  induction cs with
  | nil => exact .refl _
  | cons c cs ih => exact (insContrib_perm c _).trans (ih.cons c)

theorem sortedContribs_sorted (cs : List Contribution) :
    (cs.foldr insContrib []).Pairwise fun a b => a.rank ≤ b.rank := by
  induction cs with
  | nil => exact .nil
  | cons c cs ih => exact insContrib_sorted c ih

/-- The run with which unit `u` starts chunk `k` of context `c`, but for the TRIM of its recipe (R199, R200). -/
def State.firstRun (s : State) (u ord n c lv : Nat) (k : Chunk) : Run :=
  { ctx := c, slot := s.boundSlot u (c % 256) % 64, group := (s.ctx c).group, ordinal := ord, chunk := n,
    epoch := s.colEpoch (s.ctx c).round, level := lv, contribs := k.parts.foldr insContrib [], start := s.now }

theorem recipe_modChunk (s : State) (c n l : Nat) (f : Chunk → Chunk) (u slot : Nat) :
    (s.modChunk c n l f).recipe u slot = s.recipe u slot := rfl

section
variable {s : State} {u : Fin 4} (ha : s.alive = true) (hf : s.isFatal = false) (hrun : (s.lauter u).run = none)
  (hretry : (s.lauter u).retry = none)
include ha hf hrun hretry

theorem recipeRunStart_vote (hu : u.val = 0) (h : s.voteReady = true) : exec (.recipeRunStart u) s =
    .next (s.modLauter u fun l => { l with run := some { vote := true, start := s.now } }) := by
  show execRecipeRunStart u s = _
  unfold execRecipeRunStart
  dsimp only
  rw [if_neg (by simp [ha, hf, hrun, hretry]), if_pos (by simp [hu, h])]

theorem recipeRunStart_digest (hu : u.val = 0) (hv : s.voteReady = false) (h : s.digestReady = true) :
    exec (.recipeRunStart u) s =
      .next (s.modLauter u fun l => { l with run := some { digest := true, start := s.now } }) := by
  show execRecipeRunStart u s = _
  unfold execRecipeRunStart
  dsimp only
  rw [if_neg (by simp [ha, hf, hrun, hretry]), if_neg (by simp [hv]), if_pos (by simp [hu, h])]

section
variable (hr : u.val = 0 → s.voteReady = false ∧ s.digestReady = false)
  (hp : s.proving = true → s.health.stage ≠ 3) {ord n c lv : Nat} {k : Chunk}
  (hready : firstReady (s.readyChunks u) = some (ord, n, c, lv)) (hk : (s.ctx c).chunk? n lv = some k)
include hr hp hready hk

theorem recipeRunStart_chunk {rr : RecipeRec} (hrr : s.recipe u (s.boundSlot u (c % 256)) = some rr) :
    exec (.recipeRunStart u) s = .next ((s.modChunk c n lv fun k => { k with state := 1 }).modLauter u fun l =>
      { l with run := some { s.firstRun u ord n c lv k with trim := bitOf (s.field secRecipe (rr.at_ + 4) 2) 0 } }) := by
  show execRecipeRunStart u s = _
  unfold execRecipeRunStart
  dsimp only
  rw [if_neg (by simp [ha, hf, hrun, hretry]), if_neg (by simpa using fun hu => (hr hu).1),
    if_neg (by simpa using fun hu => (hr hu).2), if_neg (by simpa using hp), hready]
  dsimp only
  rw [hk]
  dsimp only
  rw [recipe_modChunk, hrr]
  rfl

theorem recipeRunStart_missing (hrr : s.recipe u (s.boundSlot u (c % 256)) = none) : exec (.recipeRunStart u) s =
    .next ((s.modChunk c n lv fun k => { k with state := 1 }).lauterExc u
      { s.firstRun u ord n c lv k with cycles := 0 } 4 0 0) := by
  show execRecipeRunStart u s = _
  unfold execRecipeRunStart
  dsimp only
  rw [if_neg (by simp [ha, hf, hrun, hretry]), if_neg (by simpa using fun hu => (hr hu).1),
    if_neg (by simpa using fun hu => (hr hu).2), if_neg (by simpa using hp), hready]
  dsimp only
  rw [hk]
  dsimp only
  rw [recipe_modChunk, hrr]
  rfl

end

end

/-! ## The words of a recipe that do not run (R208, R209, R223) -/

section
variable {s : State} {u op : Nat} (act : RecipeRec → Nat → Run → Run × Nat)

/-- A command whose opcode is not that of the next word does nothing. -/
theorem recipeStep_elsewhere (h : ∀ rr r w, ¬ s.recipeAt u op rr r w) : s.recipeStep u op act = s := by
  unfold State.recipeStep
  split
  · rfl
  · next r hrun =>
    split
    · rfl
    · next hgo =>
      split
      · rfl
      · next rr hrr =>
        dsimp only
        split
        · rfl
        · next hop =>
          simp only [Bool.or_eq_true, Bool.not_eq_true', decide_eq_true_eq, bne_iff_ne, not_or, not_le, not_not,
            Bool.not_eq_true, Bool.not_eq_false] at hgo hop
          obtain ⟨⟨⟨ha, hv⟩, hd⟩, he⟩ := hgo
          exact absurd ⟨ha, hrun, hv, hd, he, hrr, hop.1, rfl, hop.2⟩ (h rr r _)

section
variable {rr : RecipeRec} {r : Run} {w : Nat} (h : s.recipeAt u op rr r w)
include h

theorem recipeStep_illegal {k : Nat} (hk : recIllegal s.recipeVersion rr.words r w = some k) :
    s.recipeStep u op act = s.lauterExc u r 1 k r.pc := by
  obtain ⟨ha, hrun, hv, hd, he, hrr, hpc, rfl, hop⟩ := h
  unfold State.recipeStep
  simp only [ha, hrun, hv, hd, he, hrr, hop, hk, Nat.not_le.2 hpc, Bool.not_true, Bool.or_self, Bool.false_eq_true,
    if_false, bne_self_eq_false, decide_false]

variable (hl : recIllegal s.recipeVersion rr.words r w = none)
include hl

theorem recipeStep_strict (hm : recMv w = true) (hs : s.strict = true) :
    s.recipeStep u op act = s.lauterExc u r 2 0 r.pc := by
  obtain ⟨ha, hrun, hv, hd, he, hrr, hpc, rfl, hop⟩ := h
  unfold State.recipeStep
  simp only [ha, hrun, hv, hd, he, hrr, hop, hl, hm, hs, Nat.not_le.2 hpc, Bool.not_true, Bool.or_self,
    Bool.false_eq_true, if_false, bne_self_eq_false, decide_false, Bool.and_self, if_true]

theorem recipeStep_waits (hm : (recMv w && s.strict) = false) (h4 : 4 ≤ op) (h8 : op ≤ 8) (hw : s.emitWaits u r = true) :
    s.recipeStep u op act = s.modLauter u fun l => { l with run := some { r with waiting := true } } := by
  obtain ⟨ha, hrun, hv, hd, he, hrr, hpc, rfl, hop⟩ := h
  unfold State.recipeStep
  simp only [ha, hrun, hv, hd, he, hrr, hop, hl, hm, hw, h4, h8, Nat.not_le.2 hpc, Bool.not_true, Bool.or_self,
    Bool.false_eq_true, if_false, bne_self_eq_false, decide_false, decide_true, Bool.and_self, if_true]

end

end

section
variable {s t : State} {u : Fin 4}

/-- Where its word does not run HATOM sends no add: the unit has no run, or is as it was. -/
theorem exec_recHatom_idle (ht : ∀ act, s.recipeStep u 0x28 act = t)
    (hu : (t.lauter u).run = none ∨ t.lauter u = s.lauter u) : exec (.recHatom u) s = .next t := by
  show execRecHatom u s = _
  unfold execRecHatom
  dsimp only
  rw [ht]
  split
  · rfl
  · split
    · rfl
    · rw [if_pos (by simpa using hu)]

/-- A recipe instruction steps its unit's run by its opcode; HATOM may send its adds besides. -/
theorem exec_of_recipeOpcode {c : Instr} {op : Nat} (h : recipeOpcode c = some (u, op)) :
    (∃ act, exec c s = .next (s.recipeStep u op act)) ∨ c = .recHatom u ∧ op = 0x28 := by
  cases c
  case recHatom =>
    obtain ⟨rfl, rfl⟩ := Prod.mk.inj (Option.some.inj h)
    exact .inr ⟨rfl, rfl⟩
  all_goals cases h <;> exact .inl ⟨_, rfl⟩

/-- What the step of a run comes to whatever the instruction's effect, the instruction does. -/
theorem exec_of_recipeStep {c : Instr} {op : Nat} (h : recipeOpcode c = some (u, op))
    (ht : ∀ act, s.recipeStep u op act = t) (hu : op = 0x28 → (t.lauter u).run = none ∨ t.lauter u = s.lauter u) :
    exec c s = .next t := by
  rcases exec_of_recipeOpcode (s := s) h with ⟨act, eq⟩ | ⟨rfl, rfl⟩
  · rw [eq, ht]
  · exact exec_recHatom_idle ht (hu rfl)

end

theorem lauterExc_run (s : State) (u : Nat) (r : Run) (kind cause pc : Nat) :
    ((s.lauterExc u r kind cause pc).lauter u).run = none := by
  rw [lauterExc_lauter]
  rfl

/-! ## The words of a recipe that run -/

/-- A word that runs leaves the run that its effect gives, with the flags that it sets. -/
theorem recipeStep_ranTo {s : State} {u op w : Nat} {rr : RecipeRec} {r : Run} (h : s.recipeRuns u op rr r w)
    (act : RecipeRec → Nat → Run → Run × Nat) : s.ranTo (s.recipeStep u op act) u w
      (if op = 1 then (act rr w (s.begun u r w)).1 else (act rr w (s.begun u r w)).1.stepped)
      (act rr w (s.begun u r w)).2 := by
  rw [recipeStep_runs h]
  have mv (k : Nat) : (s.mvRun w).lauter k = s.lauter k := by
    unfold State.mvRun
    split <;> rfl
  unfold State.setLtrFlags State.ranTo
  simp only [modLauter_lauter_same, mv, true_and]
  refine ⟨fun k hk => ?_, rfl⟩
  rw [modLauter_lauter_other _ _ hk, modLauter_lauter_other _ _ hk, mv]

/-- What of a run the wait for its port and the cycles of a word do not touch. -/
def Run.Untimed {α : Type} (f : Run → α) : Prop :=
  ∀ (r : Run) (w e : Bool) (n : Nat), f { r with waiting := w, cycles := n, lastEmit := e } = f r

theorem Run.Untimed.begun {α : Type} {f : Run → α} (hf : Run.Untimed f) (s : State) (u : Nat) (r : Run) (w : Nat) :
    f (s.begun u r w) = f r := by
  unfold State.begun
  dsimp only
  obtain ⟨_, _, eq⟩ := resumed_eq s u r
  rw [eq]
  exact hf r _ _ _

section
variable {s : State} {u op w : Nat} {rr : RecipeRec} {r : Run} (h : s.recipeRuns u op rr r w)
include h

/-- An instruction without flags goes on with what its effect leaves. -/
theorem recipeOp_ranTo (hop : op ≠ 1) {act : Nat → Run → Run} {q : Run} (hq : act w (s.begun u r w) = q) :
    s.ranTo (s.recipeOp u op act) u w q.stepped 0 := by
  have ran := recipeStep_ranTo h fun _ w r => (act w r, 0)
  rw [if_neg hop] at ran
  rw [← hq]
  exact ran

/-- An emit adds to the output what it reads of the run (R211, R218). -/
theorem recipeEmit_ranTo (hop : op ≠ 1) {bytes : Nat → Run → List Byte} (hb : Run.Untimed (bytes w)) :
    s.ranTo (s.recipeOp u op fun w r => { r with out := r.out ++ bytes w r }) u w
      { s.begun u r w with out := r.out ++ bytes w r }.stepped 0 := by
  have out : (s.begun u r w).out = r.out := Run.Untimed.begun (f := Run.out) (fun _ _ _ _ => rfl) s u r w
  exact recipeOp_ranTo h hop (by rw [out, hb.begun s u r w])

end

/-- What the LOOP word `w` makes of the run (R207). -/
def Run.loopWord (r : Run) (w : Nat) : Run :=
  if r.iterations w == 0 then r.goto (r.pc + recX w + 1)
  else { r with pc := r.pc + 1,
                loops := ⟨recF w, r.pc + 1, r.pc + recX w, 0, r.iterations w, loopRecSize w⟩ :: r.loops }

section
variable {s : State} {u : Fin 4} {w : Nat} {rr : RecipeRec} {r : Run}

section
variable (h : s.recipeRuns u 0x01 rr r w)
include h

theorem recLoop_ranTo : Answers (.recLoop u) s fun t => s.ranTo t u w ((s.begun u r w).loopWord w) 0 :=
  ⟨_, rfl, recipeStep_ranTo h fun _ w r => (r.loopWord w, 0)⟩

/-- LOOP skips its body when there is no iteration (R207). -/
theorem recLoop_skips (hn : r.iterations w = 0) : Answers (.recLoop u) s fun t =>
    s.ranTo t u w ((s.begun u r w).goto (r.pc + recX w + 1)) 0 := by
  have pc : (s.begun u r w).pc = r.pc := Run.Untimed.begun (f := Run.pc) (fun _ _ _ _ => rfl) s u r w
  have iterations : (s.begun u r w).iterations w = r.iterations w :=
    Run.Untimed.begun (f := fun r => r.iterations w) (fun _ _ _ _ => rfl) s u r w
  have ran := recLoop_ranTo h
  unfold Run.loopWord at ran
  rwa [iterations, pc, if_pos (by simp [hn])] at ran

/-- LOOP goes into its body when there is an iteration (R207). -/
theorem recLoop_enters (hn : 0 < r.iterations w) : Answers (.recLoop u) s fun t => s.ranTo t u w { s.begun u r w with
    pc := r.pc + 1
    loops := ⟨recF w, r.pc + 1, r.pc + recX w, 0, r.iterations w, loopRecSize w⟩ :: r.loops } 0 := by
  have pc : (s.begun u r w).pc = r.pc := Run.Untimed.begun (f := Run.pc) (fun _ _ _ _ => rfl) s u r w
  have loops : (s.begun u r w).loops = r.loops := Run.Untimed.begun (f := Run.loops) (fun _ _ _ _ => rfl) s u r w
  have iterations : (s.begun u r w).iterations w = r.iterations w :=
    Run.Untimed.begun (f := fun r => r.iterations w) (fun _ _ _ _ => rfl) s u r w
  have ran := recLoop_ranTo h
  unfold Run.loopWord at ran
  rwa [iterations, pc, loops, if_neg (by simp [hn.ne'])] at ran

end

/-- LD loads a beat of its contribution (R211). -/
theorem recLd_ranTo (h : s.recipeRuns u 0x02 rr r w) : Answers (.recLd u) s fun t => s.ranTo t u w
    ((s.begun u r w).setBytes (recD w) (recF w) (r.beatBytes (recF w))).stepped 0 := by
  have beat : (s.begun u r w).beatBytes (recF w) = r.beatBytes (recF w) :=
    Run.Untimed.begun (f := fun r => r.beatBytes (recF w)) (fun _ _ _ _ => rfl) s u r w
  exact ⟨_, rfl, recipeOp_ranTo h (by decide) (by rw [beat])⟩

/-- LDR loads up to 64 records of its contribution (R218). -/
theorem recLdr_ranTo {f x n : Nat} (h : s.recipeRuns u 0x03 rr r w) (hf : f = recF w) (hx : x = recX w)
    (hn : n = min 64 ((r.contrib r.m).length / recordSize f x - 64 * r.idx 3)) :
    Answers (.recLdr u) s fun t => s.ranTo t u w { (s.begun u r w).setPairs (recD w)
      ((List.range n).map fun i => recordAt f x (r.contrib r.m) (64 * r.idx 3 + i)) with c0 := n }.stepped 0 := by
  have contrib : (s.begun u r w).contrib (s.begun u r w).m = r.contrib r.m :=
    Run.Untimed.begun (f := fun r => r.contrib r.m) (fun _ _ _ _ => rfl) s u r w
  have idx : (s.begun u r w).idx 3 = r.idx 3 :=
    Run.Untimed.begun (f := fun r => r.idx 3) (fun _ _ _ _ => rfl) s u r w
  subst hf hx hn
  exact ⟨_, rfl, recipeOp_ranTo h (by decide) (by dsimp only; rw [contrib, idx])⟩

end

/-! ## The runs as a whole -/

section
variable {s : State} {u : Fin 4} (ha : s.alive = true)
include ha

section
variable (hf : s.isFatal = false) (hrun : (s.lauter u).run = none) (hretry : (s.lauter u).retry = none)
  (hr : u.val = 0 → s.voteReady = false ∧ s.digestReady = false) (hp : s.proving = true → s.health.stage ≠ 3)
  {ord n c lv : Nat} {k : Chunk} (hready : firstReady (s.readyChunks u) = some (ord, n, c, lv))
  (hk : (s.ctx c).chunk? n lv = some k)
include hf hrun hretry hr hp hready hk

/-- Where no recipe is bound to the context its chunk ends by the exception "recipe missing" (R200, R226). -/
theorem recipeRunStart_excepts (hrr : s.recipe u (s.boundSlot u (c % 256)) = none) :
    Answers (.recipeRunStart u) s fun t => (t.lauter u).run = none ∧ c % 256 ∈ (t.lauter u).shut
      ∧ (bitOf (s.lauter u).exc.toNat 31 = false → (t.lauter u).exc = word (2 ^ 31 + 4 * 2 ^ 26
          + s.boundSlot u (c % 256) % 64 * 2 ^ 20 + c % 256 * 2 ^ 12))
      ∧ t.fault.raised.getLast? = some (t.faultRec (srcLauter u 1) ((t.lauter u).exc.toNat)) := by
  refine ⟨_, recipeRunStart_missing ha hf hrun hretry hr hp hready hk hrr, lauterExc_run _ _ _ _ _ _, ?_, fun hx => ?_,
    lauterExc_raises _ _ _ _ _ _⟩
  · rw [lauterExc_lauter]
    exact mem_insNat_self _ _
  · rw [lauterExc_lauter]
    have same : (s.modChunk c n lv fun k => { k with state := 1 }).lauter u = s.lauter u :=
      lauter_eq_of_stillPart (modChunk_stillPart s c n lv _) u
    unfold Lauter.excAfter
    rw [same, if_neg (by simp [hx])]
    simp only [State.firstRun, Nat.mod_mod, Nat.zero_mul, Nat.add_zero]

end

section
variable {r : Run} {rr : RecipeRec} (hrun : (s.lauter u).run = some r) (hv : r.vote = false) (hd : r.digest = false)
  (hrr : s.recipe u r.slot = some rr) (hend : r.ended = true ∨ rr.words ≤ r.pc) (hw : s.emitWaits u r = false)
include hrun hv hd hrr hend hw

theorem recipeRunEnd_bad {c : Contribution} (hc : r.contribs.find? (fun c => c.verdict != 0) = some c) :
    exec (.recipeRunEnd u) s = .next ((s.runLeaves u (s.resumed u r) ((s.resumed u r).cycles + 4) c.verdict).runResult
      (s.resumed u r) (s.resumed u r).output c.verdict c.reason c.marker true) := by
  rw [recipeRunEnd_ends ha hrun hv hd hrr hend hw, endRun_bad]
  obtain ⟨_, _, eq⟩ := resumed_eq s u r
  rwa [eq]

section
variable (hgood : ∀ c ∈ r.contribs, c.verdict = 0)
include hgood

theorem recipeRunEnd_good (hf : r.failed = false) (hr : r.retry = false) :
    exec (.recipeRunEnd u) s = .next ((s.runLeaves u (s.resumed u r) ((s.resumed u r).cycles + 4) 0).runResult
      (s.resumed u r) (s.resumed u r).output 0 0 0xFFFF true) := by
  rw [recipeRunEnd_ends ha hrun hv hd hrr hend hw, endRun_good]
  all_goals
    obtain ⟨_, _, eq⟩ := resumed_eq s u r
    rwa [eq]

theorem recipeRunEnd_repaired (hf : r.failed = false) (hr : r.retry = true) :
    Answers (.recipeRunEnd u) s fun t => (t.lauter u).run = none
      ∧ t.fault.raised.getLast? = some (t.faultRec (srcLauter u 0) ((t.lauter u).residueReg)) := by
  refine ⟨_, recipeRunEnd_ends ha hrun hv hd hrr hend hw, ?_⟩
  obtain ⟨_, _, eq⟩ := resumed_eq s u r
  rw [eq]
  exact endRun_repaired s u _ hgood hf hr

theorem recipeRunEnd_mismatch (hf : r.failed = true) (hr : r.retry = false) :
    Answers (.recipeRunEnd u) s fun t => (t.lauter u).run = none
      ∧ (t.lauter u).retried = satInc 16 (s.lauter u).retried
      ∧ ∃ q, (t.lauter u).retry = some q ∧ q.retry = true ∧ q.contribs = r.contribs ∧ q.chunk = r.chunk
        ∧ q.ordinal = r.ordinal ∧ q.pc = 0 ∧ q.v = [] ∧ q.out = [] := by
  refine ⟨_, recipeRunEnd_ends ha hrun hv hd hrr hend hw, ?_⟩
  obtain ⟨_, _, eq⟩ := resumed_eq s u r
  rw [endRun_mismatch s u _ (by rwa [eq]) (by rwa [eq]) (by rwa [eq]), eq]
  exact ⟨rfl, rfl, _, rfl, rfl, rfl, rfl, rfl, rfl, rfl, rfl⟩

theorem recipeRunEnd_failed (hf : r.failed = true) (hr : r.retry = true) :
    Answers (.recipeRunEnd u) s fun t => (t.lauter u).run = none
      ∧ (t.lauter u).failed = satInc 16 (s.lauter u).failed ∧ r.ctx % 256 ∈ (t.lauter u).shut
      ∧ t.fault.raised.getLast? = some (t.faultRec (srcLauter u 1) ((t.lauter u).exc.toNat)) := by
  refine ⟨_, recipeRunEnd_ends ha hrun hv hd hrr hend hw, ?_⟩
  obtain ⟨_, _, eq⟩ := resumed_eq s u r
  rw [endRun_failed s u _ (by rwa [eq]) (by rwa [eq]) (by rwa [eq]), eq]
  refine ⟨lauterExc_run _ _ _ _ _ _, ?_, ?_, lauterExc_raises _ _ _ _ _ _⟩
  · rw [lauterExc_lauter, modLauter_lauter_same]
    rfl
  · rw [lauterExc_lauter]
    exact mem_insNat_self _ _

end

end

end

/-- Settles O58: the start, the end and the retry of a run by the branches of their commands, the words that do not
run by what stops them, and those that run by the common rule of a step. -/
theorem recipeRuns : Obligations.RecipeRuns := by
  unfold Obligations.RecipeRuns
  intro s u ha
  refine ⟨fun hf hrun hretry => ⟨fun hu h => ?_, fun hu hv h => ?_, fun hr hp ord n c lv k hready hk => ⟨fun rr hrr => ?_,
      recipeRunStart_excepts ha hf hrun hretry hr hp hready hk⟩⟩,
    fun r hrun hv hd => recipeRunEnd_digest ha hrun hv hd, ?_, fun r hrun hr => ?_, fun c op hc => ⟨?_, ?_, ?_, ?_⟩,
    fun rr r w => ⟨?_, ?_, ?_, ?_, ?_⟩⟩
  · exact ⟨_, recipeRunStart_vote ha hf hrun hretry hu h, by rw [modLauter_lauter_same], rfl⟩
  · exact ⟨_, recipeRunStart_digest ha hf hrun hretry hu hv h, by rw [modLauter_lauter_same], rfl⟩
  · refine ⟨_, recipeRunStart_chunk ha hf hrun hretry hr hp hready hk hrr, _, by rw [modLauter_lauter_same], ?_⟩
    exact ⟨rfl, rfl, rfl, rfl, rfl, rfl, rfl, rfl, rfl, rfl, rfl, rfl, rfl, rfl, rfl, rfl, rfl, rfl,
      sortedContribs_perm _, sortedContribs_sorted _, rfl, rfl, rfl, rfl⟩
  · rintro r rr _ hrun hv hd hrr rfl
    exact ⟨recipeRunEnd_waits ha hrun hv hd hrr, fun hend hw => ⟨fun c => recipeRunEnd_bad ha hrun hv hd hrr hend hw,
        fun hgood => ⟨recipeRunEnd_good ha hrun hv hd hrr hend hw hgood,
          recipeRunEnd_repaired ha hrun hv hd hrr hend hw hgood, recipeRunEnd_mismatch ha hrun hv hd hrr hend hw hgood,
          recipeRunEnd_failed ha hrun hv hd hrr hend hw hgood⟩⟩,
      recipeRunEnd_unknown ha hrun hv hd hrr, recipeRunEnd_known ha hrun hv hd hrr⟩
  · exact ⟨_, residueRetry_starts ha hrun hr, by rw [modLauter_lauter_same], by rw [modLauter_lauter_same],
      fun k hk => modLauter_lauter_other s _ fun h => hk (Fin.ext h), rfl⟩
  · exact fun h => exec_of_recipeStep hc (fun act => recipeStep_elsewhere act h) fun _ => .inr rfl
  · exact fun rr r w k h hk => exec_of_recipeStep hc (fun act => recipeStep_illegal act h hk) fun _ =>
      .inl (lauterExc_run _ _ _ _ _ _)
  · exact fun rr r w h hl hm hs => exec_of_recipeStep hc (fun act => recipeStep_strict act h hl hm hs) fun _ =>
      .inl (lauterExc_run _ _ _ _ _ _)
  · exact fun rr r w h hl hm h4 h8 hw => exec_of_recipeStep hc (fun act => recipeStep_waits act h hl hm h4 h8 hw)
      fun _ => by omega
  · exact fun h => ⟨_, rfl, recipeOp_ranTo h (by decide) rfl⟩
  · exact fun h => ⟨recLoop_skips h, recLoop_enters h⟩
  · exact recLd_ranTo
  · exact fun f x n hf hx hn h => recLdr_ranTo h hf hx hn
  · simp only [List.mem_cons, List.not_mem_nil, or_false]
    rintro c op more (h | h | h | h | h) runs
    all_goals
      obtain ⟨rfl, rfl, rfl⟩ := h
      exact ⟨_, rfl, recipeEmit_ranTo runs (by decide) fun _ _ _ _ => rfl⟩

end Sys2Proof.Machine

namespace Sys2Proof.Machine

/-! # The instructions of a tun, their results, and its waits

## What issuing reaches: crossings that are due (R61) -/

/-- The operation can change only what faults of tuns change, and the crossings and clocks. -/
def State.DueFrame (s t : State) : Prop :=
  t = { s with tuns := t.tuns, streams := t.streams, time := t.time, granary := t.granary, core := t.core,
               fault := t.fault, health := t.health, crossings := t.crossings, clk := t.clk }

namespace State.DueFrame
variable {s t u : State}

theorem refl (s : State) : s.DueFrame s := rfl

theorem trans (h : s.DueFrame t) (g : t.DueFrame u) : s.DueFrame u := by
  unfold State.DueFrame at *
  rw [g, h]

theorem foldl {α : Type} {f : State → α → State} (h : ∀ (u : State) (a : α), u.DueFrame (f u a)) (l : List α)
    (s : State) : s.DueFrame (l.foldl f s) := by
  induction l generalizing s with
  | nil => exact refl s
  | cons a l ih => exact (h s a).trans (ih (f s a))

theorem of_tunFrame (h : s.TunFrame t) : s.DueFrame t := by
  unfold State.TunFrame at h
  unfold State.DueFrame
  rw [h]

theorem hbm (h : s.DueFrame t) : t.hbm = s.hbm := by unfold State.DueFrame at h; rw [h]
theorem grist (h : s.DueFrame t) : t.grist = s.grist := by unfold State.DueFrame at h; rw [h]

end State.DueFrame

theorem countFlag_dueFrame (s : State) (id q n : Nat) : s.DueFrame (s.countFlag id q n) := by
  unfold State.countFlag
  dsimp only
  split
  · exact .of_tunFrame (raiseFlagIn_frame _ _ _ _ _ _)
  · exact .refl s

theorem crossOne_dueFrame (s : State) (x : Nat) : s.DueFrame (s.crossOne x) := by
  unfold State.crossOne
  dsimp only
  split
  · exact .refl s
  · split
    · refine .trans ?_ (.of_tunFrame (bindingFault_frame _ _ _ _))
      exact rfl
    · refine .trans ?_ (countFlag_dueFrame _ _ _ _)
      exact rfl

theorem crossPush_dueFrame (s : State) (t q : Nat) : s.DueFrame (s.crossPush t q) := by
  unfold State.crossPush
  dsimp only
  split
  · exact .refl s
  · split
    · exact .refl s
    · refine .trans ?_ (countFlag_dueFrame _ _ _ _)
      exact rfl

theorem crossDue_dueFrame (s : State) (id x : Nat) : s.DueFrame (s.crossDue id x) := by
  unfold State.crossDue
  split
  · split
    · refine State.DueFrame.trans ?_ (crossOne_dueFrame _ x)
      split
      · exact crossPush_dueFrame _ _ _
      · exact .refl s
    · exact .refl s
  · exact .refl s

theorem crossingsDue_dueFrame (s : State) (id : Nat) : s.DueFrame (s.crossingsDue id) := by
  refine State.DueFrame.foldl (fun u i => ?_) _ s
  dsimp only
  split
  · exact .refl u
  · exact State.DueFrame.foldl (fun _ _ => crossDue_dueFrame _ _ _) _ u

/-- Until an instruction issues, time passes and entries cross (R61); HBM and the grist stay. -/
theorem issuing_dueFrame (s : State) (t : Nat) (x : Slot) : s.DueFrame (s.issuing t x) := by
  obtain ⟨k, g, c, h⟩ := reach_frame s (s.cycleFtc t x.cycle)
  refine State.DueFrame.trans (t := s.reach (s.cycleFtc t x.cycle)) ?_ (crossingsDue_dueFrame _ _)
  rw [h]
  exact rfl

/-! ## A state of which one tun has changed -/

namespace State.onlyTun
variable {s v : State} {t : Nat} {a : Tun}

theorem refl (s : State) (t : Nat) : s.onlyTun s t (s.tun t) := ⟨rfl, fun _ _ => rfl, rfl⟩

theorem modTun (h : s.onlyTun v t a) (f : Tun → Tun) : s.onlyTun (v.modTun t f) t (f a) := by
  obtain ⟨tun, others, eq⟩ := h
  refine ⟨by rw [modTun_tun_same, tun], fun k hk => (modTun_tun_other _ _ hk).trans (others k hk), ?_⟩
  unfold State.modTun State.setTun
  rw [eq]

theorem setTun (h : s.onlyTun v t a) (b : Tun) : s.onlyTun (v.setTun t b) t b := h.modTun fun _ => b

/-- The rest of the state can change alongside: `g` sets parts that are not tuns. -/
theorem map {g : State → State} (h : s.onlyTun v t a) (hg : ∀ u, (g u).tuns = u.tuns)
    (hs : ∀ u x, g { u with tuns := x } = { g u with tuns := x }) : (g s).onlyTun (g v) t a := by
  obtain ⟨tun, others, eq⟩ := h
  refine ⟨?_, fun k hk => ?_, ?_⟩
  · unfold State.tun at *
    rw [hg, tun]
  · have := others k hk
    unfold State.tun at *
    rw [hg, hg, this]
  · rw [hg]
    conv_lhs => rw [eq, hs]

theorem tun (h : s.onlyTun v t a) : v.tun t = a := h.1
theorem other (h : s.onlyTun v t a) {k : Nat} (hk : k ≠ t) : v.tun k = s.tun k := h.2.1 k hk
theorem eq (h : s.onlyTun v t a) : v = { s with tuns := v.tuns } := h.2.2
theorem time (h : s.onlyTun v t a) : v.time = s.time := by rw [h.eq]
theorem clk (h : s.onlyTun v t a) : v.clk = s.clk := by rw [h.eq]
theorem hbm (h : s.onlyTun v t a) : v.hbm = s.hbm := by rw [h.eq]
theorem grist (h : s.onlyTun v t a) : v.grist = s.grist := by rw [h.eq]
theorem fault (h : s.onlyTun v t a) : v.fault = s.fault := by rw [h.eq]
theorem power (h : s.onlyTun v t a) : v.power = s.power := by rw [h.eq]
theorem streams (h : s.onlyTun v t a) : v.streams = s.streams := by rw [h.eq]
theorem raises (h : s.onlyTun v t a) : v.raises = s.raises := by rw [h.eq]
theorem walks (h : s.onlyTun v t a) : v.walks = s.walks := by rw [h.eq]
theorem now (h : s.onlyTun v t a) : v.now = s.now := by unfold State.now; rw [h.clk]
theorem flagOwner (h : s.onlyTun v t a) (g f : Nat) : v.flagOwner g f = s.flagOwner g f := by
  unfold State.flagOwner State.field State.sec_
  rw [h.grist]
theorem mhz (h : s.onlyTun v t a) (i : Nat) : v.mhz i = s.mhz i := by
  unfold State.mhz State.field State.sec_
  rw [h.grist]
theorem freeNat (h : s.onlyTun v t a) : v.freeNat = s.freeNat := by unfold State.freeNat; rw [h.eq]

end State.onlyTun

/-! ## The sequencer moves on (R51, R71, R72) -/

/-- The sequencer's way depends on the program, the nests and the return of the tun alone. -/
theorem advance_with (a : Tun) (pc : Pc) (w c : Nat) (qs : Tab Queue) (fl : List InFlight) (mv : Bool) :
    ({ a with cycle := c, queues := qs, inflight := fl, mvSeen := mv }).advance pc w
      = { a.advance pc w with cycle := c, queues := qs, inflight := fl, mvSeen := mv } := by
  unfold Tun.advance
  rw [show ({ a with cycle := c, queues := qs, inflight := fl, mvSeen := mv } : Tun).nest pc = a.nest pc from rfl]
  dsimp only
  repeat' split
  all_goals rfl

/-- Issuing changes the place, the nests, the cycles and what is in flight, nothing else. -/
theorem issuedAs_eq (a : Tun) (x : Slot) (new : List InFlight) : ∃ n l r, a.issuedAs x new = { a with
    next := n, loops := l, replayRet := r, pc := x.pc, base := x.cycle, issued := x.cycle, first := false,
    cycle := max a.cycle x.cycle, inflight := a.inflight ++ new } := by
  obtain ⟨n, l, r, h⟩ := advance_frame a x.pc x.w
  refine ⟨n, l, r, ?_⟩
  unfold Tun.issuedAs
  rw [h]

section
variable (a : Tun) (x : Slot) (new : List InFlight)

@[simp] theorem issuedAs_phase : (a.issuedAs x new).phase = a.phase := by
  obtain ⟨_, _, _, h⟩ := issuedAs_eq a x new; rw [h]
@[simp] theorem issuedAs_program : (a.issuedAs x new).program = a.program := by
  obtain ⟨_, _, _, h⟩ := issuedAs_eq a x new; rw [h]
@[simp] theorem issuedAs_params : (a.issuedAs x new).params = a.params := by
  obtain ⟨_, _, _, h⟩ := issuedAs_eq a x new; rw [h]
@[simp] theorem issuedAs_queues : (a.issuedAs x new).queues = a.queues := by
  obtain ⟨_, _, _, h⟩ := issuedAs_eq a x new; rw [h]
@[simp] theorem issuedAs_flags : (a.issuedAs x new).flags = a.flags := by
  obtain ⟨_, _, _, h⟩ := issuedAs_eq a x new; rw [h]
@[simp] theorem issuedAs_inflight : (a.issuedAs x new).inflight = a.inflight ++ new := by
  obtain ⟨_, _, _, h⟩ := issuedAs_eq a x new; rw [h]
@[simp] theorem issuedAs_dense : (a.issuedAs x new).dense = a.dense := by
  obtain ⟨_, _, _, h⟩ := issuedAs_eq a x new; rw [h]
@[simp] theorem issuedAs_sparse : (a.issuedAs x new).sparse = a.sparse := by
  obtain ⟨_, _, _, h⟩ := issuedAs_eq a x new; rw [h]
@[simp] theorem issuedAs_oscAt : (a.issuedAs x new).oscAt = a.oscAt := by
  obtain ⟨_, _, _, h⟩ := issuedAs_eq a x new; rw [h]
@[simp] theorem issuedAs_excValid : (a.issuedAs x new).excValid = a.excValid := by
  obtain ⟨_, _, _, h⟩ := issuedAs_eq a x new; rw [h]
@[simp] theorem issuedAs_slipValid : (a.issuedAs x new).slipValid = a.slipValid := by
  obtain ⟨_, _, _, h⟩ := issuedAs_eq a x new; rw [h]
@[simp] theorem issuedAs_vregs : (a.issuedAs x new).vregs = a.vregs := by
  obtain ⟨_, _, _, h⟩ := issuedAs_eq a x new; rw [h]
@[simp] theorem issuedAs_queue (q : Nat) : (a.issuedAs x new).queue q = a.queue q := by
  unfold Tun.queue; rw [issuedAs_queues]
@[simp] theorem issuedAs_flag (f : Nat) : (a.issuedAs x new).flag f = a.flag f := by
  unfold Tun.flag; rw [issuedAs_flags]
@[simp] theorem issuedAs_reservedAt (d : Nat) : (a.issuedAs x new).reservedAt d = a.reservedAt d := by
  unfold Tun.reservedAt; rw [issuedAs_program]
@[simp] theorem issuedAs_haltable : (a.issuedAs x new).haltable = a.haltable := by
  unfold Tun.haltable; rw [issuedAs_phase]

/-- A tun that has issued waits for the same pending results and products as before. -/
theorem issuedAs_busyOf (c : Nat) (rs : List Nat) : (a.issuedAs x []).busyOf c rs = a.busyOf c rs := by
  unfold Tun.busyOf Tun.pending Tun.held
  simp

/-- Put one more result in flight. -/
theorem issuedAs_append (f : InFlight) :
    { a.issuedAs x new with inflight := (a.issuedAs x new).inflight ++ [f] } = a.issuedAs x (new ++ [f]) := by
  unfold Tun.issuedAs
  simp

end

/-- Issuing reads and moves neither the queues nor MV_SEEN, and adds to what is in flight. -/
theorem issuedAs_with (a : Tun) (x : Slot) (qs : Tab Queue) (fl new : List InFlight) (mv : Bool) :
    Tun.issuedAs { a with queues := qs, inflight := fl, mvSeen := mv } x new
      = { a.issuedAs x [] with queues := qs, inflight := fl ++ new, mvSeen := mv } := by
  have h := advance_with a x.pc x.w a.cycle qs fl mv
  obtain ⟨n, l, r, hf⟩ := advance_frame a x.pc x.w
  rw [hf] at h
  unfold Tun.issuedAs
  rw [hf]
  exact congrArg (fun b : Tun => { b with
    pc := x.pc, base := x.cycle, issued := x.cycle, first := false, cycle := max a.cycle x.cycle,
    inflight := fl ++ new }) h

theorem issuedAs_mvSeen (a : Tun) (x : Slot) :
    { a.issuedAs x [] with mvSeen := true } = Tun.issuedAs { a with mvSeen := true } x [] := by
  rw [issuedAs_with a x a.queues a.inflight [] true]
  obtain ⟨_, _, _, h⟩ := issuedAs_eq a x []
  rw [h]

/-- SRC0 is read alike before and after the sequencer has moved on (R57, R78). -/
theorem read0_issuedAs (a : Tun) (x : Slot) (w c : Nat) :
    (a.issuedAs x []).read0 w c = (a.read0 w c).map fun y => (y.1, y.2.issuedAs x []) := by
  unfold Tun.read0
  dsimp only
  rw [issuedAs_queue]
  split
  · rfl
  · split
    · rfl
    · refine congrArg some (Prod.ext rfl (Eq.trans ?_ (issuedAs_with a x _ _ [] a.mvSeen).symm))
      obtain ⟨_, _, _, h⟩ := issuedAs_eq a x []
      rw [h]
      simp only [List.append_nil]

end Sys2Proof.Machine

namespace Sys2Proof.Machine

/-! ## An instruction issues (R51, R423) -/

/-- The slot that is ready stands at the tun's place and holds the opcode. -/
theorem ready_spec {s : State} {t op : Nat} {x : Slot} (h : s.ready t op = some x) :
    (s.tun t).slot = some x ∧ insOp x.w = op := by
  unfold State.ready at h
  dsimp only at h
  split at h
  · cases h
  · next y hy =>
    split at h
    · next hc =>
      cases h
      simp only [Bool.and_eq_true, beq_iff_eq] at hc
      obtain ⟨⟨-, hop⟩, -⟩ := hc
      exact ⟨hy, hop⟩
    · cases h

theorem canIssue_op {s : State} {t op : Nat} {x : Slot} (h : s.canIssue t op x) : insOp x.w = op := (ready_spec h.1).2

theorem groupEnds_of_op {w imm : Nat} (h1 : insOp w ≠ 1) (h4 : insOp w ≠ 4) (a : Tun) : Tun.groupEnds w imm a = a := by
  unfold Tun.groupEnds
  simp [h1, h4]

/-- REPLAY, and a WAIT_CYCLES that waits, end their co-issue group (R422). -/
theorem groupEnds_eq (w imm : Nat) (a : Tun) : ∃ b, Tun.groupEnds w imm a = { a with first := b } := by
  unfold Tun.groupEnds
  split <;> exact ⟨_, rfl⟩

/-- `s` once the sequencer has issued the slot `x`, before what the instruction itself does. -/
def State.hasIssued (s : State) (t : Nat) (x : Slot) : State :=
  (s.begin_ t x).modTun t (Tun.groupEnds x.w ((s.tun t).imm x.pc x.w))

/-- What follows every instruction: a tun that has halted may have come to the end of its group (R319). -/
def State.afterIssue (s : State) (t : Nat) : State := if (s.tun t).haltable then s else s.finish t

theorem afterIssue_of_haltable {s : State} {t : Nat} (h : (s.tun t).haltable = true) : s.afterIssue t = s := if_pos h

theorem haltable_of_running {a : Tun} (h : a.phase = .running) : a.haltable = true := by
  unfold Tun.haltable
  rw [h]

/-- Of the running tun, the sequencer has moved on. -/
theorem hasIssued_onlyTun {s : State} {t : Nat} {x : Slot} (h : ((s.issuing t x).tun t).phase = .running) :
    (s.issuing t x).onlyTun (s.hasIssued t x) t
      (Tun.groupEnds x.w ((s.tun t).imm x.pc x.w) (((s.issuing t x).tun t).issuedAs x [])) := by
  refine State.onlyTun.modTun ?_ _
  have moved (a : Tun) (ha : a.haltable = true) : { (a.atCycle x.cycle).advance x.pc x.w with
      pc := x.pc, base := x.cycle, issued := x.cycle, first := false } = a.issuedAs x [] := by
    obtain ⟨n, l, r, hf⟩ := advance_frame a x.pc x.w
    have hw := advance_with a x.pc x.w (max a.cycle x.cycle) a.queues a.inflight a.mvSeen
    rw [hf] at hw
    unfold Tun.atCycle Tun.issuedAs
    rw [if_pos ha, hf, List.append_nil]
    exact congrArg (fun b : Tun => { b with pc := x.pc, base := x.cycle, issued := x.cycle, first := false }) hw
  have issued := (State.onlyTun.refl (s.issuing t x) t).modTun fun a =>
    { (a.atCycle x.cycle).advance x.pc x.w with pc := x.pc, base := x.cycle, issued := x.cycle, first := false }
  rw [moved _ (haltable_of_running h)] at issued
  exact issued

theorem strict_of_grist {s v : State} (h : v.grist = s.grist) : v.strict = s.strict := by
  unfold State.strict State.field State.sec_
  rw [h]

theorem issuing_strict (s : State) (t : Nat) (x : Slot) : (s.issuing t x).strict = s.strict :=
  strict_of_grist (issuing_dueFrame s t x).grist

theorem hasIssued_strict (s : State) (t : Nat) (x : Slot) : (s.hasIssued t x).strict = s.strict :=
  (strict_of_grist (by
    unfold State.hasIssued State.begin_
    rw [State.modTun_grist, State.modTun_grist]
    rfl)).trans (issuing_strict s t x)

section
variable {s : State} {t op : Nat} {x : Slot} (h : s.ready t op = some x) (body : State → Slot → Nat → State)
include h

theorem issue_of_ready : s.issue t op body = (match (s.tun t).illegal x.pc x.w with
    | some k => (s.hasIssued t x).exception t 2 1 k x.pc.num
    | none => if insMv x.w && s.strict then (s.hasIssued t x).exception t 2 2 0 x.pc.num
      else body (s.hasIssued t x) x ((s.tun t).imm x.pc x.w)).afterIssue t := by
  rw [← hasIssued_strict s t x]
  unfold State.issue
  rw [h]
  rfl

/-- An instruction that no condition of R423 stops takes its own action. -/
theorem issue_acts (hl : (s.tun t).illegal x.pc x.w = none) (hs : (insMv x.w && s.strict) = false) :
    s.issue t op body = (body (s.hasIssued t x) x ((s.tun t).imm x.pc x.w)).afterIssue t := by
  rw [issue_of_ready h, hl]
  dsimp only
  rw [if_neg (by rw [hs]; exact Bool.false_ne_true)]

/-- An illegal instruction is an exception of KIND 1 with its cause (R80, R103). -/
theorem issue_illegal {k : Nat} (hl : (s.tun t).illegal x.pc x.w = some k) :
    s.issue t op body = ((s.hasIssued t x).exception t 2 1 k x.pc.num).afterIssue t := by
  rw [issue_of_ready h, hl]

/-- Under the strict contract an MV instruction is an exception of KIND 2 (R99, R103). -/
theorem issue_strict (hl : (s.tun t).illegal x.pc x.w = none) (hm : insMv x.w = true) (hs : s.strict = true) :
    s.issue t op body = ((s.hasIssued t x).exception t 2 2 0 x.pc.num).afterIssue t := by
  rw [issue_of_ready h, hl]
  dsimp only
  rw [if_pos (by rw [hm, hs]; rfl)]

end

section
variable {s o : State} {t : Fin 192} {op : Nat} {x : Slot} {a : Tun} (ho : o = s.issuing t x) (ha : a = o.tun t)
  (h : s.canIssue t op x)
include ho ha h

/-- The tun that can issue computes. -/
theorem canIssue_haltable : a.haltable = true := by
  obtain ⟨-, -, running, -⟩ := h
  rw [ha, ho]
  exact haltable_of_running running

variable {c : Instr} {body : State → Slot → Nat → State} {P : State → Prop} (hc : exec c s = .next (s.issue t op body))
include hc

/-- What an instruction that can issue answers: its own action, on the state in which it has issued. -/
theorem answers_of_canIssue (hb : ∀ v, o.onlyTun v t (Tun.groupEnds x.w ((s.tun t).imm x.pc x.w) (a.issuedAs x [])) →
    P ((body v x ((s.tun t).imm x.pc x.w)).afterIssue t)) : Answers c s P := by
  obtain ⟨ready, -, running, legal, allowed⟩ := h
  rw [ha, ho] at hb
  exact ⟨_, hc.trans (congrArg _ (issue_acts ready body legal allowed)), hb _ (hasIssued_onlyTun running)⟩

variable (h1 : op ≠ 1) (h4 : op ≠ 4)
include h1 h4

/-- The same for an instruction that does not end its co-issue group. -/
theorem answers_of_canIssue' (hb : ∀ v, o.onlyTun v t (a.issuedAs x []) →
    P ((body v x ((s.tun t).imm x.pc x.w)).afterIssue t)) : Answers c s P := by
  refine answers_of_canIssue ho ha h hc fun v hv => hb v ?_
  rw [groupEnds_of_op (canIssue_op h ▸ h1) (canIssue_op h ▸ h4)] at hv
  exact hv

/-- An instruction that leaves its tun computing and changes nothing but that tun and what `w` has. -/
theorem answers_onlyTun {w : State} {b : Tun} (hh : b.haltable = a.haltable)
    (hb : ∀ v, o.onlyTun v t (a.issuedAs x []) → w.onlyTun (body v x ((s.tun t).imm x.pc x.w)) t b) :
    Answers c s fun v => w.onlyTun v t b := by
  refine answers_of_canIssue' ho ha h hc h1 h4 fun v hv => ?_
  rw [afterIssue_of_haltable (by rw [(hb v hv).tun, hh, canIssue_haltable ho ha h])]
  exact hb v hv

end

/-- A result put in flight joins those of its tun (R55). -/
theorem State.onlyTun.fly {o v : State} {t : Nat} {a : Tun} {x : Slot} {new : List InFlight}
    (h : o.onlyTun v t (a.issuedAs x new)) (lat : Nat) (e : Effect) (fl : Nat) :
    o.onlyTun (v.fly t x lat e fl) t (a.issuedAs x (new ++ [⟨x.cycle, x.cycle + lat, e, fl, x.pc⟩])) := by
  have := h.modTun fun u => { u with inflight := u.inflight ++ [⟨x.cycle, x.cycle + lat, e, fl, x.pc⟩] }
  rwa [issuedAs_append] at this

end Sys2Proof.Machine

namespace Sys2Proof.Machine

/-! ## Moves, memory accesses and the RD instructions (R88, R89) -/

/-- Reading SRC0 changes the queues, and the counts that RDOCC of the same cycle gives. -/
theorem read0_eq {a u : Tun} {w c : Nat} {e : Entry} (h : a.read0 w c = some (e, u)) :
    ∃ qs fl, u = { a with queues := qs, inflight := fl } := by
  unfold Tun.read0 at h
  dsimp only at h
  split at h
  · cases h
  · split at h
    · cases h
      exact ⟨_, _, rfl⟩
    · cases h
      exact ⟨_, _, rfl⟩

theorem read0_of_onlyTun {o v : State} {t w c : Nat} {a u : Tun} {x : Slot} {e : Entry}
    (hv : o.onlyTun v t (a.issuedAs x [])) (h : a.read0 w c = some (e, u)) :
    (v.tun t).read0 w c = some (e, u.issuedAs x []) := by
  rw [hv.tun, read0_issuedAs, h]
  rfl

theorem mark_onlyTun {o v : State} {t : Nat} {a : Tun} (h : o.onlyTun v t a) (n : Nat) :
    (o.mark n).onlyTun (v.mark n) t a :=
  h.map (g := (·.mark n)) (fun _ => rfl) fun _ _ => rfl

theorem useFree_onlyTun {o v : State} {t : Nat} {a : Tun} (h : o.onlyTun v t a) : o.useFree.onlyTun v.useFree t a :=
  h.map (g := State.useFree) (fun _ => rfl) fun _ _ => rfl

/-- An MV instruction sets MV_SEEN of its tun, and the MV mark (R316). -/
theorem mvMark_onlyTun {o v : State} {t : Nat} {a : Tun} {x : Slot} (h : o.onlyTun v t (a.issuedAs x [])) :
    (o.mark 8).onlyTun (v.mvMark t) t (Tun.issuedAs { a with mvSeen := true } x []) := by
  have seen := h.modTun fun u => { u with mvSeen := true }
  rw [issuedAs_mvSeen] at seen
  exact mark_onlyTun seen 8

/-- How many ticks before the present one an RDFTC of cycle `c` of tun `t` reads the count (R88). -/
def State.ftcLag (s : State) (t c : Nat) : Nat :=
  let perTick := s.oscStep * s.power.rate * s.mhz t
  let gone : Int := (s.clk.tun * s.mhz t : Nat) - (((s.tun t).oscAt * s.mhz t + c * tunUnit : Nat) : Int)
  let lo := ceilDiv (gone + 4 * tunUnit).toNat perTick
  let hi := (gone + 9 * tunUnit).toNat / perTick
  lo + s.freeNat % (hi - lo + 1)

theorem exec_rdftc (t : Fin 192) (s : State) : exec (.rdftc t) s = .next (s.issue t 0x09 fun s x _ =>
    ((s.useFree).mvMark t).pushValue t x (s.time.ftc - s.ftcLag t x.cycle)) := rfl

theorem ftcLag_of_onlyTun {o v : State} {t : Nat} {a : Tun} (h : o.onlyTun v t a) (ha : a.oscAt = (o.tun t).oscAt)
    (c : Nat) : v.ftcLag t c = o.ftcLag t c := by
  unfold State.ftcLag State.oscStep
  rw [h.tun, ha, h.time, h.power, h.clk, h.mhz, h.freeNat]

theorem le_ceilDiv_mul (n : Nat) {p : Nat} (hp : 0 < p) : n ≤ ceilDiv n p * p := by
  have := Nat.lt_div_mul_add (a := n + p - 1) hp
  unfold ceilDiv
  omega

theorem ceilDiv_mul_lt (n : Nat) {p : Nat} (hp : 0 < p) : ceilDiv n p * p < n + p := by
  have := Nat.div_mul_le_self (n + p - 1) p
  unfold ceilDiv
  omega

section
variable {s : State} {t p : Nat} {gone : Int} (hp : p = s.oscStep * s.power.rate * s.mhz t) {c : Nat}
  (hg : gone = ((s.clk.tun * s.mhz t : Nat) : Int) - (((s.tun t).oscAt * s.mhz t + c * tunUnit : Nat) : Int))
include hp hg

/-- The count is that of a tick at least 4 cycles before the issue cycle (R88). -/
theorem ftcLag_ge (pos : 0 < p) : gone + (4 * tunUnit : Nat) ≤ (s.ftcLag t c * p : Nat) := by
  have lo := le_ceilDiv_mul (gone + 4 * tunUnit).toNat pos
  have le : (gone + 4 * tunUnit).toNat ≤ s.ftcLag t c * p := by
    unfold State.ftcLag
    rw [← hp, ← hg]
    exact lo.trans (Nat.mul_le_mul_right p (Nat.le_add_right _ _))
  have self := Int.self_le_toNat (gone + 4 * tunUnit)
  push_cast at *
  omega

/-- ... and, where a tick is at most 5 cycles, at most 9 cycles before it (R88). -/
theorem ftcLag_le (pos : 0 < p) (short : p ≤ 5 * tunUnit) (later : 0 ≤ gone + (4 * tunUnit : Nat)) :
    (s.ftcLag t c * p : Nat) ≤ gone + (9 * tunUnit : Nat) := by
  have lo : ceilDiv (gone + 4 * tunUnit).toNat p ≤ (gone + 9 * tunUnit).toNat / p := by
    have := ceilDiv_mul_lt (gone + 4 * tunUnit).toNat pos
    rw [Nat.le_div_iff_mul_le pos]
    push_cast at later
    omega
  have le : s.ftcLag t c ≤ (gone + 9 * tunUnit).toNat / p := by
    unfold State.ftcLag
    rw [← hp, ← hg]
    dsimp only
    have := Nat.le_of_lt_succ (Nat.mod_lt s.freeNat (Nat.zero_lt_succ
      ((gone + 9 * tunUnit).toNat / p - ceilDiv (gone + 4 * tunUnit).toNat p)))
    exact (Nat.add_le_add_left this _).trans_eq (Nat.add_sub_cancel' lo)
  have hi : s.ftcLag t c * p ≤ (gone + 9 * tunUnit).toNat := (Nat.le_div_iff_mul_le pos).1 le
  push_cast at *
  omega

end

theorem read0_haltable {a u : Tun} {w c : Nat} {e : Entry} (h : a.read0 w c = some (e, u)) : u.haltable = a.haltable := by
  obtain ⟨_, _, rfl⟩ := read0_eq h
  rfl

/-- What an RD instruction that puts `e` in flight for cycle t + 2 leaves of its tun (R88, R316). -/
def Tun.afterRd (a : Tun) (x : Slot) (e : Effect) : Tun :=
  Tun.issuedAs { a with mvSeen := true } x [⟨x.cycle, x.cycle + 2, e, 0, x.pc⟩]

theorem afterRd_haltable (a : Tun) (x : Slot) (e : Effect) : (a.afterRd x e).haltable = a.haltable :=
  issuedAs_haltable _ _ _

section
variable {s o : State} {t : Fin 192} {x : Slot} {a : Tun} (ho : o = s.issuing t x) (ha : a = o.tun t)
include ho ha

theorem movz_answers (h : s.canIssue t 0x13 x) : Answers (.movz t) s fun v => o.onlyTun v t
    (a.issuedAs x [⟨x.cycle, x.cycle + 1, .push (dstsOf x.w) 0, 0, x.pc⟩]) :=
  answers_onlyTun ho ha h rfl (by decide) (by decide) (issuedAs_haltable ..) fun _ hv => hv.fly 1 _ _

theorem movq_answers {e : Entry} {u : Tun} (h : s.canIssue t 0x12 x) (hr : a.read0 x.w x.cycle = some (e, u)) :
    Answers (.movq t) s fun v =>
      o.onlyTun v t (u.issuedAs x [⟨x.cycle, x.cycle + 1, .push (dstsOf x.w) e, 0, x.pc⟩]) := by
  refine answers_onlyTun ho ha h rfl (by decide) (by decide) (by rw [issuedAs_haltable, read0_haltable hr])
    fun v hv => ?_
  rw [read0_of_onlyTun hv hr]
  exact (hv.setTun _).fly 1 _ _

theorem movl_answers {e : Ecc} {d : Nat} (h : s.canIssue t 0x10 x)
    (hd : d = (s.tun t).imm x.pc x.w % 2 ^ 22 / 64 * 64) (hf : a.reservedAt d = false) :
    Answers (.movl t e) s fun v =>
      o.onlyTun v t (a.issuedAs x [⟨x.cycle, x.cycle + 1, .memRead d (dstsOf x.w) e, 0, x.pc⟩]) := by
  subst hd
  refine answers_onlyTun ho ha h rfl (by decide) (by decide) (issuedAs_haltable ..) fun v hv => ?_
  dsimp only
  rw [hv.tun, issuedAs_reservedAt, hf]
  exact hv.fly 1 _ _

theorem movs_answers {e : Entry} {u : Tun} {d : Nat} (h : s.canIssue t 0x11 x)
    (hd : d = (s.tun t).imm x.pc x.w % 2 ^ 22 / 64 * 64) (hf : a.reservedAt d = false)
    (hr : a.read0 x.w x.cycle = some (e, u)) : Answers (.movs t) s fun v =>
      o.onlyTun v t (u.issuedAs x [⟨x.cycle, x.cycle + 1, .memWrite d e, 0, x.pc⟩]) := by
  subst hd
  refine answers_onlyTun ho ha h rfl (by decide) (by decide) (by rw [issuedAs_haltable, read0_haltable hr])
    fun v hv => ?_
  dsimp only
  rw [read0_of_onlyTun hv hr, hv.tun, issuedAs_reservedAt, hf]
  exact (hv.setTun _).fly 1 _ _

theorem rdcyc_answers (h : s.canIssue t 0x08 x) : Answers (.rdcyc t) s fun v => (o.mark 8).onlyTun v t
    (a.afterRd x (.push (dstsOf x.w) (BitVec.ofNat 512 (x.cycle % 2 ^ 64)))) :=
  answers_onlyTun ho ha h rfl (by decide) (by decide) (afterRd_haltable ..) fun _ hv => (mvMark_onlyTun hv).fly 2 _ _

theorem rdocc_answers {q : Nat} (h : s.canIssue t 0x0A x) (hq : q = (s.tun t).imm x.pc x.w % 64) :
    Answers (.rdocc t) s fun v => (o.mark 8).onlyTun v t
      (a.afterRd x (.occ (insDst x.w 0).2.2 q (a.queue q).near.length)) := by
  subst hq
  refine answers_onlyTun ho ha h rfl (by decide) (by decide) (afterRd_haltable ..) fun v hv => ?_
  dsimp only
  rw [hv.tun, issuedAs_queue]
  exact (mvMark_onlyTun hv).fly 2 _ _

theorem rdflag_answers (h : s.canIssue t 0x0B x) : Answers (.rdflag t) s fun v => (o.mark 8).onlyTun v t
    (a.afterRd x (.push (dstsOf x.w) (BitVec.ofNat 512 (a.flag (insMode x.w % 256) % 2 ^ 64)))) := by
  refine answers_onlyTun ho ha h rfl (by decide) (by decide) (afterRd_haltable ..) fun v hv => ?_
  rw [hv.tun, issuedAs_flag]
  exact (mvMark_onlyTun hv).fly 2 _ _

theorem rdftc_answers (h : s.canIssue t 0x09 x) : Answers (.rdftc t) s fun v =>
    (State.mark { o with free := o.free + 1 } 8).onlyTun v t (a.afterRd x (.push (dstsOf x.w)
      (BitVec.ofNat 512 ((o.time.ftc - o.ftcLag t x.cycle) % 2 ^ 64)))) := by
  refine answers_onlyTun ho ha h (exec_rdftc t s) (by decide) (by decide) (afterRd_haltable ..) fun v hv => ?_
  rw [ftcLag_of_onlyTun hv ((issuedAs_oscAt _ _ _).trans (congrArg _ ha)), hv.time]
  exact (mvMark_onlyTun (useFree_onlyTun hv)).fly 2 _ _

end

/-- Settles O42: each instruction's own lemma; RDFTC's count lies within the bounds of its lag. -/
theorem tunReadsAndMoves : Obligations.TunReadsAndMoves := by
  unfold Obligations.TunReadsAndMoves
  intro s o t x a ho ha
  refine ⟨movz_answers ho ha, fun e u => movq_answers ho ha, fun e d => movl_answers ho ha,
    fun e u d => movs_answers ho ha, rdcyc_answers ho ha, ?_, fun q => rdocc_answers ho ha,
    rdflag_answers ho ha⟩
  intro p gone h hp hg
  obtain ⟨v, hv, only⟩ := rdftc_answers ho ha h
  rw [ha] at hg
  exact ⟨v, hv, _, ftcLag_ge hp hg, ftcLag_le hp hg, only⟩

end Sys2Proof.Machine

namespace Sys2Proof.Machine

/-! ## What a fault makes of a tun that computes (R57, R59, R103, R319) -/

theorem closeDigest_ftc (s : State) (id : Nat) (b : Bool) : (s.closeDigest id b).time.ftc = s.time.ftc := by
  unfold State.closeDigest
  extract_lets a e t c u
  rw [State.setTun_time]
  unfold u
  split <;> rfl

/-- What of a tun a halt leaves: all but its phase, its place, its wait and its open digest. -/
def Tun.kept (a : Tun) : Tun :=
  { a with phase := .idle, cycle := 0, quietAt := 0, blocked := false, ended := false, metAt := none, next := none,
           digD := 0, digE := 0, digItems := 0, digLayer := 0, mvSeen := false, engineMap := 0, engineCnt := 0 }

/-- `v` is `s` with tun `t` halted for a fault, as `b` but for what a halt changes. -/
structure State.HaltsAs (s v : State) (t : Nat) (b : Tun) : Prop where
  phase : (v.tun t).phase = .haltedFault
  tun : (v.tun t).kept = b.kept
  other : s.OtherTuns v t
  frame : s.TunFrame v
  raised : s.fault.raised ⊆ v.fault.raised
  invalid : v.time.invalid = true
  ftc : v.time.ftc = s.time.ftc

namespace State.HaltsAs
variable {s v : State} {t : Nat} {b : Tun} (h : s.HaltsAs v t b)
include h

/-- A part of a tun that a halt leaves is as `b` has it. -/
theorem part {β : Type} (g : Tun → β) (hg : ∀ a, g a.kept = g a) : g (v.tun t) = g b := by
  rw [← hg, h.tun, hg]

theorem hbm : v.hbm = s.hbm := h.frame.hbm
theorem now : v.now = s.now := by
  have := h.frame
  unfold State.TunFrame at this
  rw [this]
  rfl
theorem queues : (v.tun t).queues = b.queues := h.part Tun.queues fun _ => rfl
theorem inflight : (v.tun t).inflight = b.inflight := h.part Tun.inflight fun _ => rfl
theorem flags : (v.tun t).flags = b.flags := h.part Tun.flags fun _ => rfl
theorem params : (v.tun t).params = b.params := h.part Tun.params fun _ => rfl
theorem vregs : (v.tun t).vregs = b.vregs := h.part Tun.vregs fun _ => rfl
theorem mem : (v.tun t).mem = b.mem := h.part Tun.mem fun _ => rfl
theorem memUe : (v.tun t).memUe = b.memUe := h.part Tun.memUe fun _ => rfl
theorem excReg : (v.tun t).excReg = b.excReg := h.part Tun.excReg fun _ => rfl
theorem slipReg : (v.tun t).slipReg = b.slipReg := h.part Tun.slipReg fun _ => rfl

/-- The digest that closes with the halt is not among what the halt leaves (R319). -/
theorem closeDigest (c : Bool) : s.HaltsAs (v.closeDigest t c) t b where
  phase := by rw [closeDigest_tun_same]; exact h.phase
  tun := by rw [closeDigest_tun_same]; exact h.tun
  other := h.other.trans (closeDigest_otherTuns _ _ _)
  frame := h.frame.trans (closeDigest_frame _ _ _)
  raised := by rw [closeDigest_fault]; exact h.raised
  invalid := by rw [closeDigest_invalid]; exact h.invalid
  ftc := by rw [closeDigest_ftc, h.ftc]

theorem endGroup : s.HaltsAs (v.setTun t { v.tun t with next := none }) t b where
  phase := by rw [setTun_tun_same]; exact h.phase
  tun := by rw [setTun_tun_same]; exact h.tun
  other := h.other.trans fun _ hk => setTun_tun_other _ _ hk
  frame := h.frame.trans rfl
  raised := h.raised
  invalid := h.invalid
  ftc := h.ftc

/-- The end of a co-issue group after the halt changes nothing that the halt leaves. -/
theorem afterIssue : s.HaltsAs (v.afterIssue t) t b := by
  unfold State.afterIssue State.finish
  dsimp only
  split
  · exact h
  · split
    · exact h
    · split
      · exact h
      · exact h.endGroup.closeDigest true

end State.HaltsAs

/-- A fault that is reported before the halt is among those raised after it (R350). -/
theorem State.HaltsAs.reported {s v : State} {t src d : Nat} {b : Tun} (h : (s.raise src d).HaltsAs v t b) :
    s.faultRec src d ∈ v.fault.raised :=
  h.raised (List.mem_append_right _ (List.mem_singleton.2 rfl))

/-- What the tun itself has been changed to before the halt is part of what the halt finds. -/
theorem State.HaltsAs.of_modTun {s v : State} {t : Nat} {b : Tun} {f : Tun → Tun}
    (h : (s.modTun t f).HaltsAs v t b) : s.HaltsAs v t b where
  phase := h.phase
  tun := h.tun
  other := (modTun_otherTuns s t f).trans h.other
  frame := (modTun_frame s t f).trans h.frame
  raised := h.raised
  invalid := h.invalid
  ftc := h.ftc

/-- The fault halts a tun that computes (R59, R103, R151). -/
theorem haltFaultAt_halts {s : State} {t : Nat} (c : Nat) (h : (s.tun t).haltable = true) :
    s.HaltsAs (s.haltFaultAt t c) t (s.tun t) := by
  have stopped := cancelRunAhead_streamFrame (s.stopTun t .haltedFault c).digInvalid t
  have raised := cancelRunAhead_raised (s.stopTun t .haltedFault c).digInvalid t
  have own := stopTun_tun_same s t .haltedFault c
  have open_ : s.HaltsAs (((s.stopTun t .haltedFault c).digInvalid.cancelRunAhead t).closeBegun t) t (s.tun t) := by
    have tun : (((s.stopTun t .haltedFault c).digInvalid.cancelRunAhead t).closeBegun t).tun t
        = (s.stopTun t .haltedFault c).tun t := stopped.tun t
    have others : s.OtherTuns (s.stopTun t .haltedFault c) t := modTun_otherTuns s t _
    constructor
    case phase => rw [tun, own]; rfl
    case tun => rw [tun, own]; rfl
    case other => exact fun k hk => (stopped.tun k).trans (others k hk)
    case frame => exact (State.TunFrame.trans (t := (s.stopTun t .haltedFault c).digInvalid) rfl
      (cancelRunAhead_frame _ _)).trans rfl
    case raised => exact raised
    case invalid => exact (congrArg TimeSt.invalid stopped.time :)
    case ftc => exact (congrArg TimeSt.ftc stopped.time :)
  unfold State.haltFaultAt
  dsimp only
  rw [if_neg (by unfold Tun.haltable at h; split at h <;> simp_all)]
  split
  · exact open_.closeDigest true
  · exact open_

/-- What the first exception since CLEAR leaves in the registers of a tun (R103). -/
def Tun.excepted (a : Tun) (kind cause pc : Nat) : Tun :=
  { a with excValid := true, excKind := kind, excCause := cause, excPc := pc }

theorem exceptionAt_halts {s : State} {t : Nat} (h : (s.tun t).haltable = true) (hv : (s.tun t).excValid = false)
    (k kind cause pc c : Nat) : (s.raise (srcTun t k) ((s.tun t).excepted kind cause pc).excReg).HaltsAs
      (s.exceptionAt t k kind cause pc c) t ((s.tun t).excepted kind cause pc) := by
  have first : s.modTun t (fun a => if a.excValid then { a with excMulti := true }
      else { a with excValid := true, excKind := kind, excCause := cause, excPc := pc })
      = s.modTun t fun a => a.excepted kind cause pc :=
    congrArg (s.setTun t) (if_neg (by rw [hv]; exact Bool.false_ne_true))
  have own : (s.modTun t fun a => a.excepted kind cause pc).tun t = (s.tun t).excepted kind cause pc :=
    modTun_tun_same ..
  unfold State.exceptionAt
  dsimp only
  rw [first, own]
  have halts := haltFaultAt_halts (s := (s.raise (srcTun t k) ((s.tun t).excepted kind cause pc).excReg).modTun t
    fun a => a.excepted kind cause pc) c (by rw [modTun_tun_same]; exact h)
  rw [modTun_tun_same] at halts
  exact halts.of_modTun

/-- What the first slip since CLEAR leaves in the registers of a tun (R57, R59). -/
def Tun.slipped (a : Tun) (kind queue end_ : Nat) (pc : Pc) (cycle : Nat) : Tun :=
  { a with slipValid := true, slipKind := kind, slipQueue := queue, slipEnd := end_, slipPc := pc, slipCycle := cycle }

theorem slip_halts {s : State} {t : Nat} (h : (s.tun t).haltable = true) (hv : (s.tun t).slipValid = false)
    (kind queue end_ : Nat) (pc : Pc) (c : Nat) :
    (s.raise (srcTun t 0) ((s.tun t).slipped kind queue end_ pc c).slipReg).HaltsAs
      (s.slip t kind queue end_ pc c) t ((s.tun t).slipped kind queue end_ pc c) := by
  have first : s.modTun t (fun a => if a.slipValid then a else
      { a with slipValid := true, slipKind := kind, slipQueue := queue, slipEnd := end_, slipPc := pc, slipCycle := c })
      = s.modTun t fun a => a.slipped kind queue end_ pc c :=
    congrArg (s.setTun t) (if_neg (by rw [hv]; exact Bool.false_ne_true))
  have own : (s.modTun t fun a => a.slipped kind queue end_ pc c).tun t = (s.tun t).slipped kind queue end_ pc c :=
    modTun_tun_same ..
  unfold State.slip
  dsimp only
  rw [first, own]
  have halts := haltFaultAt_halts (s := (s.raise (srcTun t 0) ((s.tun t).slipped kind queue end_ pc c).slipReg).modTun t
    fun a => a.slipped kind queue end_ pc c) c (by rw [modTun_tun_same]; exact h)
  rw [modTun_tun_same] at halts
  exact halts.of_modTun

/-- An uncorrected word of tun memory halts the tun that reads it (R145). -/
theorem tunMemFault_halts {s : State} {t : Nat} (h : (s.tun t).haltable = true) :
    (s.raise (srcTun t 3) (s.tun t).memErrReg).HaltsAs (s.tunMemFault t) t (s.tun t) :=
  haltFaultAt_halts (s := s.raise (srcTun t 3) (s.tun t).memErrReg) _ h

/-! ## Reads of tun memory (R145) -/

/-- A tun but for what a read of its memory finds. -/
def Tun.butMemErr (a : Tun) : Tun := { a with memUe := false, memCe := 0, memAddr := 0 }

theorem tunWord_bad (s : State) (t a : Nat) (o : EccOutcome) : (s.tunWord t a o).2 = (o == .uncorrectable) := by
  cases o <;> rfl

theorem tunWord_tun (s : State) (t a : Nat) (o : EccOutcome) :
    ((s.tunWord t a o).1.tun t).butMemErr = (s.tun t).butMemErr := by
  cases o
  case symbol =>
    show ((s.modTun t fun a => { a with memCe := min 511 (a.memCe + 1) }).tun t).butMemErr = _
    rw [modTun_tun_same]
    rfl
  case uncorrectable =>
    show ((s.modTun t fun u => if u.memUe then u else { u with memUe := true, memAddr := a }).tun t).butMemErr = _
    rw [modTun_tun_same]
    split <;> rfl
  all_goals rfl

theorem tunWord_memUe (s : State) (t a : Nat) (o : EccOutcome) :
    ((s.tunWord t a o).1.tun t).memUe = ((s.tun t).memUe || o == .uncorrectable) := by
  cases o
  case symbol =>
    show ((s.modTun t fun a => { a with memCe := min 511 (a.memCe + 1) }).tun t).memUe = _
    rw [modTun_tun_same]
    exact (Bool.or_false _).symm
  case uncorrectable =>
    show ((s.modTun t fun u => if u.memUe then u else { u with memUe := true, memAddr := a }).tun t).memUe = _
    rw [modTun_tun_same]
    split
    · next h => rw [h]; rfl
    · exact (Bool.or_true _).symm
  all_goals exact (Bool.or_false _).symm

/-- What a read of tun memory finds: whether a word is uncorrected, in the register if so, and beside its error
registers nothing of the tun changes. -/
theorem tunEcc_spec (s : State) (t a : Nat) (sel : Nat → Bool) (e : Ecc) :
    ((s.tunEcc t a sel e).2 = e.any fun y => sel y.1 && y.2 == .uncorrectable)
      ∧ ((s.tunEcc t a sel e).1.tun t).butMemErr = (s.tun t).butMemErr
      ∧ (((s.tunEcc t a sel e).1.tun t).memUe = ((s.tun t).memUe || e.any fun y => sel y.1 && y.2 == .uncorrectable)) := by
  have fold (bad : Bool) : ∀ r, r = e.foldl (fun (acc : State × Bool) x => if !sel x.1 then acc else
      let (s, bad) := acc.1.tunWord t (a + 8 * x.1) x.2
      (s, acc.2 || bad)) (s, bad) →
      (r.2 = (bad || e.any fun y => sel y.1 && y.2 == .uncorrectable)) ∧ (r.1.tun t).butMemErr = (s.tun t).butMemErr
      ∧ ((r.1.tun t).memUe = ((s.tun t).memUe || e.any fun y => sel y.1 && y.2 == .uncorrectable)) := by
    induction e generalizing s bad with
    | nil => rintro _ rfl; simp
    | cons y e ih =>
      rintro _ rfl
      rw [List.foldl_cons]
      by_cases hy : sel y.1 = true
      · obtain ⟨h1, h2, h3⟩ := ih (s.tunWord t (a + 8 * y.1) y.2).1 (bad || (s.tunWord t (a + 8 * y.1) y.2).2) _ rfl
        simp only [hy, Bool.not_true, Bool.false_eq_true, if_false, List.any_cons, Bool.true_and]
        refine ⟨by rw [h1, tunWord_bad, Bool.or_assoc], h2.trans (tunWord_tun ..), ?_⟩
        rw [h3, tunWord_memUe, Bool.or_assoc]
      · obtain ⟨h1, h2, h3⟩ := ih s bad _ rfl
        simp only [hy, Bool.not_false, if_true, List.any_cons, Bool.false_and, Bool.false_or]
        exact ⟨h1, h2, h3⟩
  exact fold false _ rfl

/-- A read that finds every word of its range clean changes nothing. -/
theorem tunEcc_clean {s : State} {t a : Nat} {sel : Nat → Bool} {e : Ecc}
    (h : ∀ y ∈ e, sel y.1 = true → y.2 = .clean) : s.tunEcc t a sel e = (s, false) := by
  unfold State.tunEcc
  induction e with
  | nil => rfl
  | cons y e ih =>
    rw [List.foldl_cons]
    have rest := ih fun z hz => h z (List.mem_cons_of_mem _ hz)
    by_cases hy : sel y.1 = true
    · rw [h y (List.mem_cons_self ..) hy]
      simp only [hy, Bool.not_true, Bool.false_eq_true, if_false]
      exact rest
    · simp only [hy, Bool.not_false, if_true]
      exact rest

end Sys2Proof.Machine

namespace Sys2Proof.Machine

/-! ## Cancelling run-ahead (R151) -/

/-- What a closed stream no longer holds. -/
def Stream.isClosed (z : Stream) : Prop := z.active = false ∧ z.store = [] ∧ z.reserved = []

/-- Stream `k` reads ahead for tun `t`. -/
def State.runsAheadFor (s : State) (t k : Nat) : Prop :=
  (s.stream k).tun = t ∧ (s.stream k).write = false ∧ (s.stream k).runahead ≠ 0

/-- One step of the cancelling of run-ahead: stream `k` is closed where it reads ahead for tun `t`. -/
def State.closeAhead (s : State) (t k : Nat) : State :=
  if (s.stream k).tun == t && !(s.stream k).write && (s.stream k).runahead != 0 then s.closeStream k else s

theorem cancelRunAhead_eq (s : State) (t : Nat) :
    s.cancelRunAhead t = (s.streamsOf t).foldl (fun s k => s.closeAhead t k) s := rfl

theorem closeStream_stream_same (s : State) (k : Nat) : (s.closeStream k).stream k = (s.stream k).close := by
  unfold State.closeStream
  dsimp only
  rw [modStream_stream_same]
  unfold State.stream
  rw [foldl_leaves (g := State.streams) (fun u r => ?_), foldl_leaves (g := State.streams) (fun u x => ?_)]
  · cases x <;> rfl
  · unfold State.dropResv State.giveCells
    split <;> rfl

section
variable {s : State} {t k : Nat}

theorem closeAhead_closes (h : s.runsAheadFor t k) : ((s.closeAhead t k).stream k).isClosed := by
  obtain ⟨ht, hw, hr⟩ := h
  unfold State.closeAhead
  rw [if_pos (by simp [ht, hw, hr]), closeStream_stream_same]
  exact ⟨rfl, rfl, rfl⟩

theorem closeAhead_stream_other {j : Nat} (h : k ≠ j) : (s.closeAhead t j).stream k = s.stream k := by
  unfold State.closeAhead
  split
  · exact closeStream_stream_other _ h
  · rfl

theorem closeAhead_isClosed (h : (s.stream k).isClosed) (j : Nat) : ((s.closeAhead t j).stream k).isClosed := by
  by_cases hk : k = j
  · subst hk
    unfold State.closeAhead
    split
    · rw [closeStream_stream_same]
      exact ⟨rfl, rfl, rfl⟩
    · exact h
  · rwa [closeAhead_stream_other hk]

theorem foldl_closeAhead_isClosed (h : (s.stream k).isClosed) (l : List Nat) :
    ((l.foldl (fun s j => s.closeAhead t j) s).stream k).isClosed := by
  induction l generalizing s with
  | nil => exact h
  | cons j l ih => exact ih (closeAhead_isClosed h j)

theorem foldl_closeAhead_closes (h : s.runsAheadFor t k) {l : List Nat} (hk : k ∈ l) :
    ((l.foldl (fun s j => s.closeAhead t j) s).stream k).isClosed := by
  induction l generalizing s with
  | nil => cases hk
  | cons j l ih =>
    rw [List.foldl_cons]
    by_cases hj : k = j
    · subst hj
      exact foldl_closeAhead_isClosed (closeAhead_closes h) l
    · refine ih ?_ ((List.mem_cons.1 hk).resolve_left hj)
      unfold State.runsAheadFor
      rwa [closeAhead_stream_other hj]

/-- Every stream that reads ahead for the tun is closed (R151). -/
theorem cancelRunAhead_closes (h : s.runsAheadFor t k) (hk : k ∈ s.streamsOf t) :
    ((s.cancelRunAhead t).stream k).isClosed := foldl_closeAhead_closes h hk

end

theorem streamsOf_of_grist {s v : State} (h : v.grist = s.grist) (t : Nat) : v.streamsOf t = s.streamsOf t := by
  unfold State.streamsOf State.sec_
  rw [h]

/-! ## REPLAY (R72, R102) -/

/-- What the fetch of a REPLAY with the operand `imm` finds in tun memory (R72, R145). -/
def State.fetch (s : State) (t : Nat) (g : Program) (imm : Nat) (e : Ecc) : State × Bool :=
  s.tunEcc t 0x3E0000 (g.fetches (imm % 16) (bitsOf imm 16 4) (bitsOf imm 24 17)) e

/-- A word that a REPLAY with the operand `imm` fetches is found to be uncorrected. -/
def Program.fetchBad (g : Program) (imm : Nat) (e : Ecc) : Bool :=
  e.any fun y => g.fetches (imm % 16) (bitsOf imm 16 4) (bitsOf imm 24 17) y.1 && y.2 == .uncorrectable

/-- What the fetch leaves of the tun, and whether it is bad. -/
theorem fetch_spec {v : State} (t : Nat) {a : Tun} (hv : v.tun t = a) (g : Program) (imm : Nat) (e : Ecc) :
    ((v.fetch t g imm e).2 = g.fetchBad imm e) ∧ ((v.fetch t g imm e).1.tun t).butMemErr = a.butMemErr
      ∧ (g.fetchBad imm e = true → ((v.fetch t g imm e).1.tun t).memUe = true) := by
  subst hv
  obtain ⟨bad, kept, ue⟩ := tunEcc_spec v t 0x3E0000 (g.fetches (imm % 16) (bitsOf imm 16 4) (bitsOf imm 24 17)) e
  exact ⟨bad, kept, fun hb => ue.trans (by rw [show (List.any e _) = true from hb, Bool.or_true])⟩

/-- The tun at the start of a replay block, its parameters patched (R72). -/
def Tun.replayed (u : Tun) (x : Slot) (imm : Nat) (g : Program) : Tun :=
  { u with
    params := ((g.patches.drop (bitsOf imm 16 4)).take (bitsOf imm 24 17)).foldl (fun r y => Tab.set 0 r y.1 y.2) u.params
    replayRet := u.next.map (·.index)
    next := if u.haltable then some ⟨true, blockStart (imm % 16) 0 g.replay⟩ else none
    base := x.cycle + 1 + ceilDiv (bitsOf imm 24 17) 4 }

theorem replayed_of_haltable {u : Tun} (x : Slot) (imm : Nat) (g : Program) (h : u.haltable = true) :
    u.replayed x imm g = { u with
      params := ((g.patches.drop (bitsOf imm 16 4)).take (bitsOf imm 24 17)).foldl
        (fun r y => Tab.set 0 r y.1 y.2) u.params
      replayRet := u.next.map (·.index)
      next := some ⟨true, blockStart (imm % 16) 0 g.replay⟩
      base := x.cycle + 1 + ceilDiv (bitsOf imm 24 17) 4 } := by
  unfold Tun.replayed
  rw [if_pos h]

/-- A tun whose REPLAY has issued, at the start of the block (R72). -/
theorem replayed_issuedAs {a : Tun} {x : Slot} {imm : Nat} (g : Program) (h : a.haltable = true) :
    Tun.replayed { a.issuedAs x [] with first := true } x imm g = { a.issuedAs x [] with
      params := ((g.patches.drop (bitsOf imm 16 4)).take (bitsOf imm 24 17)).foldl
        (fun r y => Tab.set 0 r y.1 y.2) a.params
      replayRet := (a.issuedAs x []).next.map (·.index)
      next := some ⟨true, blockStart (imm % 16) 0 g.replay⟩
      first := true, base := x.cycle + 1 + ceilDiv (bitsOf imm 24 17) 4 } := by
  rw [← issuedAs_params a x []]
  exact replayed_of_haltable x imm g ((issuedAs_haltable a x []).trans h)

/-- REPLAY's own action on a tun that holds the program `g`. -/
theorem exec_replay (t : Fin 192) (e : Ecc) : ∃ body, (∀ s, exec (.replay ⟨t, e⟩) s = .next (s.issue t 0x04 body))
    ∧ ∀ v x imm g, (v.tun t).program = some g → body v x imm = if (v.fetch t g imm e).2
      then (v.fetch t g imm e).1.tunMemFault t else (v.fetch t g imm e).1.modTun t fun u => u.replayed x imm g := by
  refine ⟨_, fun s => rfl, fun v x imm g hg => ?_⟩
  obtain ⟨-, kept, -⟩ := tunEcc_spec v t 0x3E0000 (g.fetches (imm % 16) (bitsOf imm 16 4) (bitsOf imm 24 17)) e
  have program : ((v.fetch t g imm e).1.tun t).program = some g := (congrArg Tun.program kept :).trans hg
  dsimp only
  rw [hg]
  show (if (v.fetch t g imm e).2 then (v.fetch t g imm e).1.tunMemFault t else (v.fetch t g imm e).1.setTun t
    (match ((v.fetch t g imm e).1.tun t).program with | none => _ | some p => _)) = _
  rw [program]
  rfl

/-! ## The control instructions (R51, R65, R66, R71, R79, R88) -/

/-- A WAIT_CYCLES that waits ends its co-issue group (R422). -/
theorem groupEnds_wait {w : Nat} (imm : Nat) (a : Tun) (h : insOp w = 1) (ha : a.first = false) :
    Tun.groupEnds w imm a = { a with first := imm != 0 } := by
  unfold Tun.groupEnds
  by_cases hi : imm = 0
  · rw [if_neg (by simp [h, hi]), hi, bne_self_eq_false, ← ha]
  · rw [if_pos (by simp [h, hi]), bne_iff_ne.2 hi]

theorem groupEnds_replay {w : Nat} (imm : Nat) (a : Tun) (h : insOp w = 4) :
    Tun.groupEnds w imm a = { a with first := true } := by
  unfold Tun.groupEnds
  rw [if_pos (by simp [h])]

theorem ownerFault_of_owner {s : State} {t g f : Nat} (h : s.flagOwner g f = (1, t)) : s.ownerFault t g f = none := by
  unfold State.ownerFault
  rw [h]
  simp

/-- A tun that notes in cycle `c` whether its wait on flag `f` is met (R66). -/
def Tun.notesWait (a : Tun) (f c : Nat) : Tun :=
  if a.waitMet f then { a with metAt := some (a.metAt.getD c) }
  else if a.waitFlag == f then { a with metAt := none } else a

theorem noteWait_eq (s : State) (t f c : Nat) : s.noteWait t f c = s.modTun t fun a => a.notesWait f c := rfl

/-- Noting a wait changes the note alone. -/
theorem notesWait_eq (a : Tun) (f c : Nat) : a.notesWait f c = { a with metAt := (a.notesWait f c).metAt } := by
  unfold Tun.notesWait
  split
  · rfl
  · split <;> rfl

theorem notesWait_of_met {a : Tun} {f : Nat} (h : a.waitMet f = true) (c : Nat) :
    (a.notesWait f c).metAt = some (a.metAt.getD c) := by
  unfold Tun.notesWait
  rw [if_pos h]

theorem notesWait_of_unmet {a : Tun} {f : Nat} (h : a.waitMet f = false) (hf : a.waitFlag = f) (c : Nat) :
    (a.notesWait f c).metAt = none := by
  unfold Tun.notesWait
  rw [if_neg (by rw [h]; exact Bool.false_ne_true), if_pos (beq_iff_eq.2 hf)]

theorem waitMet_of_running {a : Tun} (h : a.phase = .running) (f : Nat) : a.waitMet f = false := by
  unfold Tun.waitMet
  rw [h]
  rfl

/-- A wait that nothing blocks takes its count; the tun computes on (R66). -/
theorem takeFlag_onlyTun {o v : State} {t f n : Nat} {a : Tun} (h : o.onlyTun v t a) (hp : a.phase = .running)
    (hf : a.waitFlag = f) :
    o.onlyTun (v.takeFlag t f n) t { a.setFlag f (a.flag f - n) with metAt := none } := by
  have noted := (h.modTun fun u => u.setFlag f (u.flag f - n)).modTun fun u => u.notesWait f (v.cycleNow t)
  have none_ : ((a.setFlag f (a.flag f - n)).notesWait f (v.cycleNow t)).metAt = none :=
    notesWait_of_unmet (waitMet_of_running (a := a.setFlag f (a.flag f - n)) hp f) hf _
  rw [notesWait_eq, none_] at noted
  exact noted

theorem raises_onlyTun {o v : State} {t : Nat} {a : Tun} (h : o.onlyTun v t a) (x : List Raise) :
    State.onlyTun { o with raises := x } { v with raises := x } t a :=
  h.map (g := fun s : State => { s with raises := x }) (fun _ => rfl) fun _ _ => rfl

theorem walks_onlyTun {o v : State} {t : Nat} {a : Tun} (h : o.onlyTun v t a) (x : List Walk) :
    State.onlyTun { o with walks := x } { v with walks := x } t a :=
  h.map (g := fun s : State => { s with walks := x }) (fun _ => rfl) fun _ _ => rfl

section
variable {s o : State} {t : Fin 192} {x : Slot} {a : Tun} (ho : o = s.issuing t x) (ha : a = o.tun t)
include ho ha

theorem canIssue_running {op : Nat} (h : s.canIssue t op x) : a.phase = .running := by
  obtain ⟨-, -, running, -⟩ := h
  rwa [ha, ho]

theorem nop_answers (h : s.canIssue t 0x00 x) : Answers (.nop t) s fun v => o.onlyTun v t (a.issuedAs x []) :=
  answers_onlyTun ho ha h rfl (by decide) (by decide) (issuedAs_haltable a x []) fun _ hv => hv

theorem waitCycles_answers (h : s.canIssue t 0x01 x) {imm : Nat} (hi : imm = (s.tun t).imm x.pc x.w) :
    Answers (.waitCycles t) s fun v =>
      o.onlyTun v t { a.issuedAs x [] with base := x.cycle + imm, first := imm != 0 } := by
  subst hi
  refine answers_of_canIssue ho ha h rfl fun v hv => ?_
  rw [groupEnds_wait _ _ (canIssue_op h) rfl] at hv
  have done := hv.modTun fun u => { u with base := x.cycle + (s.tun t).imm x.pc x.w }
  rw [afterIssue_of_haltable (by
    rw [done.tun]
    exact (issuedAs_haltable a x []).trans (canIssue_haltable ho ha h))]
  exact done

theorem tunLoop_answers (h : s.canIssue t 0x03 x) {imm : Nat} (hi : imm = (s.tun t).imm x.pc x.w) :
    Answers (.tunLoop t) s fun v => o.onlyTun v t { a.issuedAs x [] with
      loops := ⟨imm % 16, List.replicate 6 0⟩ :: (a.issuedAs x []).loops } := by
  subst hi
  exact answers_onlyTun ho ha h rfl (by decide) (by decide) (issuedAs_haltable a x []) fun _ hv => hv.modTun _

theorem setp_answers (h : s.canIssue t 0x07 x) {imm : Nat} (hi : imm = (s.tun t).imm x.pc x.w) :
    Answers (.setp t) s fun v => o.onlyTun v t { a.issuedAs x [] with
      params := Tab.set 0 a.params (insMode x.w % 64) (word imm) } := by
  subst hi
  rw [← issuedAs_params a x []]
  exact answers_onlyTun ho ha h rfl (by decide) (by decide) (issuedAs_haltable a x []) fun _ hv => hv.modTun _

/-- SETF of an own flag (R65). -/
theorem setf_own {g f n : Nat} (h : s.canIssue t 0x05 x) (hg : g = bitsOf (insMode x.w) 23 16)
    (hf : f = insMode x.w % 256) (hn : n = (s.tun t).imm x.pc x.w % 65536) (hown : o.flagOwner g f = (1, t.val))
    (ht : g = t.val) : Answers (.setf t) s fun v =>
      o.onlyTun v t (a.issuedAs x [⟨x.cycle, x.cycle + 1, .raise f n, 0, x.pc⟩]) := by
  subst hg hf hn
  refine answers_onlyTun ho ha h rfl (by decide) (by decide) (issuedAs_haltable ..) fun v hv => ?_
  dsimp only
  rw [ownerFault_of_owner ((hv.flagOwner _ _).trans hown)]
  dsimp only
  rw [if_pos (beq_iff_eq.2 ht)]
  exact hv.fly 1 _ _

/-- SETF of another tun's flag (R65). -/
theorem setf_other {g f n : Nat} (h : s.canIssue t 0x05 x) (hg : g = bitsOf (insMode x.w) 23 16)
    (hf : f = insMode x.w % 256) (hn : n = (s.tun t).imm x.pc x.w % 65536) (hown : o.flagOwner g f = (1, t.val))
    (ht : g ≠ t.val) : Answers (.setf t) s fun v =>
      State.onlyTun { o with raises := o.raises ++ [⟨g, f, n, some t.val⟩] } v t (a.issuedAs x []) := by
  subst hg hf hn
  refine answers_onlyTun ho ha h rfl (by decide) (by decide) (issuedAs_haltable a x []) fun v hv => ?_
  dsimp only
  rw [ownerFault_of_owner ((hv.flagOwner _ _).trans hown)]
  dsimp only
  rw [if_neg (mt beq_iff_eq.1 ht), hv.raises]
  exact raises_onlyTun hv _

/-- WAITF whose count is met takes it (R66). -/
theorem waitf_takes {f n : Nat} (h : s.canIssue t 0x06 x) (hf : f = insMode x.w % 256)
    (hn : n = (s.tun t).imm x.pc x.w % 65536) (hown : (o.flagOwner t f).1 ≠ 0) (hm : n ≤ a.flag f) :
    Answers (.waitf t) s fun v => o.onlyTun v t { Tun.setFlag (a.issuedAs x []) f (a.flag f - n) with
      waitFlag := f, waitCount := n, metAt := none } := by
  subst hf hn
  refine answers_onlyTun ho ha h rfl (by decide) (by decide) (issuedAs_haltable a x []) fun v hv => ?_
  dsimp only
  rw [if_neg (by rw [hv.flagOwner]; exact mt beq_iff_eq.1 hown), if_pos (by rw [hv.tun, issuedAs_flag]; exact hm),
    ← issuedAs_flag a x []]
  exact takeFlag_onlyTun (hv.modTun _) ((issuedAs_phase a x []).trans (canIssue_running ho ha h)) rfl

/-- WAITF whose count is not met blocks the tun and starts a walk (R66, R67). -/
theorem waitf_blocks {f n : Nat} (h : s.canIssue t 0x06 x) (hf : f = insMode x.w % 256)
    (hn : n = (s.tun t).imm x.pc x.w % 65536) (hown : (o.flagOwner t f).1 ≠ 0) (hm : a.flag f < n) :
    Answers (.waitf t) s fun v =>
      State.onlyTun { o with walks := o.walks ++ [newWalk (.tun t) t f n] } v t { a.issuedAs x [] with
        waitFlag := f, waitCount := n, phase := .waiting, blocked := true, waitSince := o.now, metAt := none } := by
  subst hf hn
  refine answers_onlyTun ho ha h rfl (by decide) (by decide) (canIssue_haltable ho ha h).symm fun v hv => ?_
  dsimp only
  rw [if_neg (by rw [hv.flagOwner]; exact mt beq_iff_eq.1 hown), if_neg (by rw [hv.tun, issuedAs_flag]; omega),
    if_neg (by rw [hv.tun, issuedAs_haltable, canIssue_haltable ho ha h]; exact Bool.false_ne_true)]
  have blocked := (hv.modTun fun u => { u with
    waitFlag := insMode x.w % 256, waitCount := (s.tun t).imm x.pc x.w % 65536 }).modTun fun u =>
      { u with phase := .waiting, blocked := true, waitSince := v.now, metAt := none }
  rw [State.modTun_walks, State.modTun_walks, hv.walks, ← hv.now]
  exact walks_onlyTun blocked _

/-- END: nothing is left to issue, and the run-ahead of the tun is cancelled (R88, R151). -/
theorem tunEnd_answers (h : s.canIssue t 0x02 x) : Answers (.tunEnd t) s fun v =>
    v.tun t = { a.issuedAs x [] with next := none, ended := true, loops := [] }
      ∧ (∀ k, k ≠ t.val → v.tun k = o.tun k) ∧ v.hbm = o.hbm ∧ v.time = o.time
      ∧ ∀ k ∈ o.streamsOf t, o.runsAheadFor t k → (v.stream k).isClosed := by
  refine answers_of_canIssue' ho ha h rfl (by decide) (by decide) fun v hv => ?_
  have ended := hv.modTun fun u => { u with next := none, ended := u.haltable, loops := [] }
  rw [issuedAs_haltable, canIssue_haltable ho ha h] at ended
  dsimp only
  generalize v.modTun t _ = w at ended ⊢
  have cancelled := cancelRunAhead_streamFrame w t
  have tun := (cancelled.tun t).trans ended.tun
  rw [afterIssue_of_haltable (by
    rw [tun]
    exact (issuedAs_haltable a x []).trans (canIssue_haltable ho ha h))]
  refine ⟨tun, fun k hk => (cancelled.tun k).trans (ended.other hk), cancelled.hbm.trans ended.hbm,
    cancelled.time.trans ended.time, fun k hk ahead => cancelRunAhead_closes ?_ ?_⟩
  · unfold State.runsAheadFor State.stream
    rwa [ended.streams]
  · rwa [streamsOf_of_grist ended.grist]

section
variable {g : Program} {e : Ecc} {imm : Nat} (h : s.canIssue t 0x04 x) (hi : imm = (s.tun t).imm x.pc x.w)
  (hg : a.program = some g)
include h hi hg

/-- What a REPLAY answers, by what its fetch finds. -/
theorem replay_answers {P : State → Prop} (hb : ∀ v, o.onlyTun v t { a.issuedAs x [] with first := true } →
      P ((if (v.fetch t g imm e).2 then (v.fetch t g imm e).1.tunMemFault t
        else (v.fetch t g imm e).1.modTun t fun u => u.replayed x imm g).afterIssue t)) :
    Answers (.replay ⟨t, e⟩) s P := by
  obtain ⟨body, step, acts⟩ := exec_replay t e
  refine answers_of_canIssue ho ha h (step s) fun v hv => ?_
  rw [groupEnds_replay _ _ (canIssue_op h)] at hv
  rw [acts v x _ g (by rw [hv.tun]; exact (issuedAs_program a x []).trans hg), ← hi]
  exact hb v hv

/-- REPLAY whose fetch finds every word clean (R72). -/
theorem replay_clean (hc : ∀ y ∈ e, g.fetches (imm % 16) (bitsOf imm 16 4) (bitsOf imm 24 17) y.1 = true → y.2 = .clean) :
    Answers (.replay ⟨t, e⟩) s fun v =>
      o.onlyTun v t (Tun.replayed { a.issuedAs x [] with first := true } x imm g) := by
  refine replay_answers ho ha h hi hg fun v hv => ?_
  rw [show v.fetch t g imm e = (v, false) from tunEcc_clean hc]
  have done := hv.modTun fun u => u.replayed x imm g
  rw [if_neg Bool.false_ne_true, afterIssue_of_haltable (by
    rw [done.tun]
    exact (issuedAs_haltable a x []).trans (canIssue_haltable ho ha h))]
  exact done

/-- REPLAY whose fetch finds no word uncorrected (R72, R145). -/
theorem replay_corrected (hb : g.fetchBad imm e = false) : Answers (.replay ⟨t, e⟩) s fun v =>
    (v.tun t).butMemErr = (Tun.replayed { a.issuedAs x [] with first := true } x imm g).butMemErr := by
  refine replay_answers ho ha h hi hg fun v hv => ?_
  obtain ⟨bad, kept, -⟩ := fetch_spec t hv.tun g imm e
  generalize v.fetch t g imm e = r at *
  have done : ((r.1.modTun t fun u => u.replayed x imm g).tun t).butMemErr
      = (Tun.replayed { a.issuedAs x [] with first := true } x imm g).butMemErr := by
    rw [modTun_tun_same]
    exact congrArg (fun u : Tun => (u.replayed x imm g)) kept
  rw [bad, hb, if_neg Bool.false_ne_true, afterIssue_of_haltable]
  · exact done
  · exact (congrArg Tun.haltable done :).trans ((issuedAs_haltable a x []).trans (canIssue_haltable ho ha h))

/-- REPLAY whose fetch finds a word uncorrected (R145). -/
theorem replay_uncorrected (hb : g.fetchBad imm e = true) : Answers (.replay ⟨t, e⟩) s fun v =>
    (v.tun t).phase = .haltedFault ∧ (v.tun t).memUe = true ∧ (v.tun t).params = a.params
      ∧ srcTun t 3 ∈ v.fault.raised.map (·.src) := by
  refine replay_answers ho ha h hi hg fun v hv => ?_
  obtain ⟨bad, kept, ue⟩ := fetch_spec t hv.tun g imm e
  generalize v.fetch t g imm e = r at *
  have computes : (r.1.tun t).haltable = true :=
    (congrArg Tun.haltable kept :).trans ((issuedAs_haltable a x []).trans (canIssue_haltable ho ha h))
  have halts := (tunMemFault_halts computes).afterIssue
  rw [bad, hb, if_pos rfl]
  exact ⟨halts.phase, halts.memUe.trans (ue hb), halts.params.trans ((congrArg Tun.params kept :).trans
    (issuedAs_params a x [])), List.mem_map.2 ⟨_, halts.reported, rfl⟩⟩

end

end

theorem fetchBad_eq_false {g : Program} {imm : Nat} {e : Ecc} (h : ∀ y ∈ e,
    g.fetches (imm % 16) (bitsOf imm 16 4) (bitsOf imm 24 17) y.1 = true → y.2 ≠ .uncorrectable) :
    g.fetchBad imm e = false :=
  List.any_eq_false.2 fun y hy hb => by
    obtain ⟨hf, hu⟩ := Bool.and_eq_true_iff.1 hb
    exact h y hy hf (beq_iff_eq.1 hu)

theorem fetchBad_eq_true {g : Program} {imm : Nat} {e : Ecc} (h : ∃ y ∈ e,
    g.fetches (imm % 16) (bitsOf imm 16 4) (bitsOf imm 24 17) y.1 = true ∧ y.2 = .uncorrectable) :
    g.fetchBad imm e = true := by
  obtain ⟨y, hy, hf, hu⟩ := h
  exact List.any_eq_true.2 ⟨y, hy, Bool.and_eq_true_iff.2 ⟨hf, beq_iff_eq.2 hu⟩⟩

/-- Settles O41: one lemma for each instruction in each of its cases. -/
theorem tunSequencer : Obligations.TunSequencer := by
  unfold Obligations.TunSequencer
  intro s o t x a b imm m ho ha hb hi hm
  have hb := hb.symm
  have hm := hm.symm
  subst hb hm
  refine ⟨nop_answers ho ha, fun h => waitCycles_answers ho ha h hi, fun h => tunLoop_answers ho ha h hi, ?_,
    fun h => setp_answers ho ha h hi,
    fun g f n h hg hf hn hown => ⟨setf_own ho ha h hg hf (hi ▸ hn) hown, setf_other ho ha h hg hf (hi ▸ hn) hown⟩,
    fun f n h hf hn hown => ⟨waitf_takes ho ha h hf (hi ▸ hn) hown, waitf_blocks ho ha h hf (hi ▸ hn) hown⟩, ?_⟩
  · intro g e c h hg hc
    rw [← replayed_issuedAs g (canIssue_haltable ho ha h)] at hc
    subst hc
    refine ⟨replay_clean ho ha h hi hg, fun hb => ?_, fun hb => replay_uncorrected ho ha h hi hg (fetchBad_eq_true hb)⟩
    obtain ⟨v, hv, kept⟩ := replay_corrected ho ha h hi hg (fetchBad_eq_false hb)
    exact ⟨v, hv, (congrArg Tun.params kept :), (congrArg Tun.next kept :), (congrArg Tun.base kept :),
      (congrArg Tun.replayRet kept :), (congrArg Tun.phase kept :).trans (issuedAs_phase a x [])⟩
  · intro h
    obtain ⟨v, hv, tun, others, hbm, time, closed⟩ := tunEnd_answers ho ha h
    exact ⟨v, hv, tun, others, hbm, time, fun k hk ht hw hr => closed k hk ⟨ht, hw, hr⟩⟩

end Sys2Proof.Machine

namespace Sys2Proof.Machine

/-! ## Slips and exceptions (R57, R59, R80, R85, R103) -/

/-- Every tun instruction issues by its opcode. -/
theorem exec_of_tunOpcode {c : Instr} {t : Fin 192} {op : Nat} (h : tunOpcode c = some (t, op)) (s : State) :
    ∃ body, exec c s = .next (s.issue t op body) := by
  cases c
  all_goals cases h <;> exact ⟨_, rfl⟩

theorem exec_of_not_ready {c : Instr} {t : Fin 192} {op : Nat} {s : State} (hc : tunOpcode c = some (t, op))
    (h : s.ready t op = none) : exec c s = .next s := by
  obtain ⟨body, hb⟩ := exec_of_tunOpcode hc s
  rw [hb, issue_of_not_ready h]

theorem faultRec_of_onlyTun {o w : State} {t : Nat} {b : Tun} (h : o.onlyTun w t b) (src d : Nat) :
    w.faultRec src d = o.faultRec src d := faultRec_congr h.time h.now src d

/-- An opcode that is not in the table is illegal by cause 1 (R80). -/
theorem illegal_of_undefined {w : Nat} (h : opDefined (insOp w) = false) (a : Tun) (pc : Pc) :
    a.illegal pc w = some 1 := by
  unfold Tun.illegal
  dsimp only
  rw [if_pos (by rw [h]; rfl)]

/-- What an exception of the instruction at `pc` leaves of tun `t` and of the package (R59, R80, R103). -/
structure State.Excepts (o v : State) (t : Nat) (a : Tun) (kind cause pc : Nat) : Prop where
  phase : (v.tun t).phase = .haltedFault
  valid : (v.tun t).excValid = true
  kind_ : (v.tun t).excKind = kind
  cause_ : (v.tun t).excCause = cause
  pc_ : (v.tun t).excPc = pc
  queues : (v.tun t).queues = a.queues
  hbm : v.hbm = o.hbm
  invalid : v.time.invalid = true
  reported : o.faultRec (srcTun t 2) (v.tun t).excReg ∈ v.fault.raised

theorem excepts_of_haltsAs {w v : State} {t kind cause pc : Nat} {b : Tun}
    (h : (w.raise (srcTun t 2) (b.excepted kind cause pc).excReg).HaltsAs v t (b.excepted kind cause pc)) :
    w.Excepts v t b kind cause pc where
  phase := h.phase
  valid := h.part Tun.excValid fun _ => rfl
  kind_ := h.part Tun.excKind fun _ => rfl
  cause_ := h.part Tun.excCause fun _ => rfl
  pc_ := h.part Tun.excPc fun _ => rfl
  queues := h.queues
  hbm := h.hbm
  invalid := h.invalid
  reported := by rw [h.excReg]; exact h.reported

theorem State.Excepts.of_onlyTun {o w v : State} {t kind cause pc : Nat} {a b : Tun} (h : w.Excepts v t b kind cause pc)
    (hw : o.onlyTun w t b) (hq : b.queues = a.queues) : o.Excepts v t a kind cause pc where
  phase := h.phase
  valid := h.valid
  kind_ := h.kind_
  cause_ := h.cause_
  pc_ := h.pc_
  queues := h.queues.trans hq
  hbm := h.hbm.trans hw.hbm
  invalid := h.invalid
  reported := by rw [← faultRec_of_onlyTun hw]; exact h.reported

/-- The exception of an instruction that has issued, whatever it leaves of its group (R80, R103, R422). -/
theorem exception_excepts {o w : State} {t : Nat} {a b : Tun} (hw : o.onlyTun w t b) (hb : b.haltable = true)
    (he : b.excValid = false) (hq : b.queues = a.queues) (kind cause pc : Nat) :
    o.Excepts ((w.exception t 2 kind cause pc).afterIssue t) t a kind cause pc := by
  have halts := exceptionAt_halts (s := w) (t := t) (by rw [hw.tun, hb]) (by rw [hw.tun, he]) 2 kind cause pc
    (w.tun t).issued
  rw [hw.tun] at halts
  unfold State.exception
  rw [hw.tun]
  exact (excepts_of_haltsAs halts.afterIssue).of_onlyTun hw hq

/-- HBM is as before when an instruction issues. -/
theorem issuing_hbm {s o : State} {t : Nat} {x : Slot} (ho : o = s.issuing t x) : o.hbm = s.hbm := by
  rw [ho]
  exact (issuing_dueFrame s t x).hbm

section
variable {s o : State} {t : Fin 192} {x : Slot} {a : Tun} (ho : o = s.issuing t x) (ha : a = o.tun t)
  (hp : a.phase = .running) (he : a.excValid = false)
include ho ha hp he

theorem hasIssued_excepts (kind cause : Nat) :
    o.Excepts (((s.hasIssued t x).exception t 2 kind cause x.pc.num).afterIssue t) t a kind cause x.pc.num := by
  have issued := hasIssued_onlyTun (s := s) (t := t) (x := x) (by rw [← ho, ← ha, hp])
  rw [← ho, ← ha] at issued
  obtain ⟨f, ends⟩ := groupEnds_eq x.w ((s.tun t).imm x.pc x.w) (a.issuedAs x [])
  rw [ends] at issued
  exact exception_excepts issued ((issuedAs_haltable a x []).trans (haltable_of_running hp))
    ((issuedAs_excValid a x []).trans he) (issuedAs_queues a x []) kind cause x.pc.num

variable {op : Nat} (hr : s.ready t op = some x)
include hr

theorem issue_excepts_illegal {k : Nat} (hl : (s.tun t).illegal x.pc x.w = some k) (body : State → Slot → Nat → State) :
    o.Excepts (s.issue t op body) t a 1 k x.pc.num := by
  rw [issue_illegal hr body hl]
  exact hasIssued_excepts ho ha hp he 1 k

theorem issue_excepts_strict (hl : (s.tun t).illegal x.pc x.w = none) (hm : insMv x.w = true) (hs : o.strict = true)
    (body : State → Slot → Nat → State) : o.Excepts (s.issue t op body) t a 2 0 x.pc.num := by
  rw [issue_strict hr body hl hm (by rw [ho] at hs; exact (issuing_strict s t x).symm.trans hs)]
  exact hasIssued_excepts ho ha hp he 2 0

/-- ISSUE_PAST_STORE at an opcode that is not in the table (R80 cause 1). -/
theorem issuePastStore_undefined (hu : opDefined op = false) :
    Answers (.issuePastStore t) s fun v => o.Excepts v t a 1 1 x.pc.num := by
  obtain ⟨slot, hop⟩ := ready_spec hr
  subst hop
  refine ⟨s.issue t (insOp x.w) fun s _ _ => s, ?_,
    issue_excepts_illegal ho ha hp he hr (illegal_of_undefined hu _ _) _⟩
  show execIssuePastStore t s = _
  unfold execIssuePastStore
  dsimp only
  rw [slot]
  dsimp only
  rw [if_neg (by rw [hu]; exact Bool.false_ne_true)]

end

/-- The state in which the sequencer of tun `t` comes to cycle `c` and has nothing more to fetch. -/
def State.pastStore (s : State) (t c : Nat) : State :=
  (s.reach (s.cycleFtc t c)).modTun t fun u => { u.atCycle c with next := none }

theorem pastStore_tun {s : State} {t : Nat} (h : (s.tun t).phase = .running) (c : Nat) :
    (s.pastStore t c).tun t = { s.tun t with cycle := max (s.tun t).cycle c, next := none } := by
  unfold State.pastStore
  rw [modTun_tun_same, reach_tun]
  unfold Tun.atCycle
  rw [if_pos (haltable_of_running h)]

/-- ISSUE_PAST_STORE past the last store instruction (R80 cause 7). -/
theorem issuePastStore_past {s : State} {t : Fin 192} {g : Program} (hn : (s.tun t).slot = none)
    (ht : s.tunActs t = true) (hp : (s.tun t).phase = .running) (hx : (s.tun t).next.isSome = true)
    (hs : (s.tun t).settled ((s.tun t).issued + 1) = true) (he : (s.tun t).excValid = false)
    (hg : (s.tun t).program = some g) : Answers (.issuePastStore t) s fun v => (v.tun t).phase = .haltedFault
      ∧ (v.tun t).excKind = 1 ∧ (v.tun t).excCause = 7 ∧ (v.tun t).excPc = g.store.length - 1 ∧ v.hbm = s.hbm := by
  have step : exec (.issuePastStore t) s = .next ((s.pastStore t ((s.tun t).issued + 1)).exceptionAt t 2 1 7
      (((s.tun t).program.map fun p => p.store.length - 1).getD 0) ((s.tun t).issued + 1)) := by
    show execIssuePastStore t s = _
    unfold execIssuePastStore
    dsimp only
    rw [hn]
    exact if_pos (by simp only [ht, hp, hx, hs, Bool.and_self, BEq.rfl])
  have tun := pastStore_tun hp ((s.tun t).issued + 1)
  have hbm : (s.pastStore t ((s.tun t).issued + 1)).hbm = s.hbm := by
    unfold State.pastStore
    rw [State.modTun_hbm, reach_hbm]
  generalize s.pastStore t ((s.tun t).issued + 1) = w at *
  have halts := exceptionAt_halts (s := w) (t := t) (by rw [tun]; exact haltable_of_running hp) (by rw [tun]; exact he)
    2 1 7 (((s.tun t).program.map fun p => p.store.length - 1).getD 0) ((s.tun t).issued + 1)
  have spec := excepts_of_haltsAs halts
  exact ⟨_, step, spec.phase, spec.kind_, spec.cause_, spec.pc_.trans (by rw [hg]; rfl), spec.hbm.trans hbm⟩

/-! ### Slips -/

theorem read0_of_empty {a : Tun} {w : Nat} (h : (a.queue (insSrc w 0).2.2).near = []) (c : Nat) : a.read0 w c = none := by
  unfold Tun.read0
  dsimp only
  rw [h]

/-- The instruction `c` of opcode `op` reads SRC0 before all else, and slips where it is empty (R57). -/
def readsFirst (t : Fin 192) (c : Instr) (op : Nat) : Prop :=
  ∃ body, (∀ s, exec c s = .next (s.issue t op body))
    ∧ ∀ (v : State) (x : Slot) (imm : Nat), (v.tun t).read0 x.w x.cycle = none → body v x imm = v.slipEmpty t x

theorem movq_readsFirst (t : Fin 192) : readsFirst t (.movq t) 0x12 :=
  ⟨_, fun _ => rfl, fun v x imm h => by rw [h]⟩

theorem mlds_readsFirst (t : Fin 192) : readsFirst t (.mlds t) 0x20 :=
  ⟨_, fun _ => rfl, fun v x imm h => by unfold State.loadRow; dsimp only; rw [h]⟩

theorem mldw_readsFirst (t : Fin 192) : readsFirst t (.mldw t) 0x21 :=
  ⟨_, fun _ => rfl, fun v x imm h => by unfold State.loadRow; dsimp only; rw [h]⟩

theorem mldsc_readsFirst (t : Fin 192) : readsFirst t (.mldsc t) 0x22 :=
  ⟨_, fun _ => rfl, fun v x imm h => by dsimp only; rw [h]⟩

theorem vld_readsFirst (t : Fin 192) : readsFirst t (.vld t) 0x30 :=
  ⟨_, fun _ => rfl, fun v x imm h => by dsimp only; rw [h]⟩

section
variable {s o : State} {t : Fin 192} {x : Slot} {a : Tun} (ho : o = s.issuing t x) (ha : a = o.tun t) {op : Nat}
  (h : s.canIssue t op x) (h1 : op ≠ 1) (h4 : op ≠ 4) (hs : a.slipValid = false)
include ho ha h h1 h4 hs

/-- An instruction whose own action is a slip, the first since CLEAR (R57, R59, R85). -/
theorem answers_slip {c : Instr} {body : State → Slot → Nat → State} (hc : exec c s = .next (s.issue t op body))
    {k q : Nat} (hb : ∀ v, o.onlyTun v t (a.issuedAs x []) →
      body v x ((s.tun t).imm x.pc x.w) = v.slip t k q 0 x.pc x.cycle) :
    Answers c s fun v => ∃ b, o.onlyTun b t (a.issuedAs x [])
      ∧ (b.raise (srcTun t 0) ((a.issuedAs x []).slipped k q 0 x.pc x.cycle).slipReg).HaltsAs v t
        ((a.issuedAs x []).slipped k q 0 x.pc x.cycle) := by
  refine answers_of_canIssue' ho ha h hc h1 h4 fun v hv => ⟨v, hv, ?_⟩
  have halts := slip_halts (s := v) (t := t)
    (by rw [hv.tun]; exact (issuedAs_haltable a x []).trans (canIssue_haltable ho ha h))
    (by rw [hv.tun]; exact (issuedAs_slipValid a x []).trans hs) k q 0 x.pc x.cycle
  rw [hb v hv]
  rw [hv.tun] at halts
  exact halts.afterIssue

/-- An empty SRC0 is a slip of KIND 1, and nothing goes in flight (R57). -/
theorem readsFirst_slips {c : Instr} (hc : readsFirst t c op) (hq : (a.queue (insSrc x.w 0).2.2).near = []) :
    Answers c s fun v => (v.tun t).phase = .haltedFault ∧ (v.tun t).slipValid = true ∧ (v.tun t).slipKind = 1
      ∧ (v.tun t).slipQueue = (insSrc x.w 0).2.2 ∧ (v.tun t).slipPc = x.pc ∧ (v.tun t).slipCycle = x.cycle
      ∧ (v.tun t).inflight = a.inflight ∧ v.hbm = s.hbm
      ∧ o.faultRec (srcTun t 0) ((v.tun t).slipReg) ∈ v.fault.raised := by
  obtain ⟨body, step, slips⟩ := hc
  obtain ⟨v, hv, b, hb, halts⟩ := answers_slip ho ha h h1 h4 hs (step s) fun v hv => slips v x _ (by
    rw [hv.tun]
    exact read0_of_empty ((issuedAs_queue a x [] _).symm ▸ hq) _)
  refine ⟨v, hv, halts.phase, halts.part Tun.slipValid fun _ => rfl, halts.part Tun.slipKind fun _ => rfl,
    halts.part Tun.slipQueue fun _ => rfl, halts.part Tun.slipPc fun _ => rfl, halts.part Tun.slipCycle fun _ => rfl,
    halts.inflight.trans ?_, (halts.hbm.trans hb.hbm).trans (issuing_hbm ho), ?_⟩
  · exact (issuedAs_inflight a x []).trans (List.append_nil _)
  · rw [halts.slipReg, ← faultRec_of_onlyTun hb]
    exact halts.reported

end

/-- A vector register in use is a slip of KIND 3, and no register changes (R85). -/
theorem vadd_slips {s o : State} {t : Fin 192} {x : Slot} {a : Tun} (ho : o = s.issuing t x) (ha : a = o.tun t) {r : Nat}
    (h : s.canIssue t 0x32 x) (hr : a.busyOf x.cycle ([modeVa (insMode x.w), modeVb (insMode x.w),
      modeVd (insMode x.w)].map (24 + ·)) = some r) (hs : a.slipValid = false) :
    Answers (.vadd t) s fun v => (v.tun t).phase = .haltedFault ∧ (v.tun t).slipKind = 3 ∧ (v.tun t).slipQueue = r
      ∧ (v.tun t).vregs = a.vregs ∧ v.hbm = s.hbm := by
  obtain ⟨v, hv, b, hb, halts⟩ := answers_slip (k := 3) (q := r) ho ha h (by decide) (by decide) hs (c := .vadd t) rfl
    fun v hv => by
      unfold State.vectorAB State.vectorOp
      dsimp only
      rw [hv.tun, issuedAs_busyOf]
      simp only [List.cons_append, List.nil_append]
      rw [hr]
      rfl
  exact ⟨v, hv, halts.phase, halts.part Tun.slipKind fun _ => rfl, halts.part Tun.slipQueue fun _ => rfl,
    halts.vregs.trans (issuedAs_vregs a x []), (halts.hbm.trans hb.hbm).trans (issuing_hbm ho)⟩

/-- Settles O45: an exception or a slip of each kind halts the tun; what R423 finds comes before the
instruction's own action. -/
theorem tunExceptions : Obligations.TunExceptions := by
  unfold Obligations.TunExceptions
  intro s o t x a ho ha
  have hbm := issuing_hbm ho
  refine ⟨fun c op hc => exec_of_not_ready hc, ?_, ?_, ?_, fun g => issuePastStore_past, ?_,
    fun r h hr hs => vadd_slips ho ha h hr hs⟩
  · intro c op k hc hr hp hl he
    obtain ⟨body, step⟩ := exec_of_tunOpcode hc s
    have spec := issue_excepts_illegal ho ha hp he hr hl body
    exact ⟨_, step, spec.phase, spec.valid, spec.kind_, spec.cause_, spec.pc_, spec.queues, spec.hbm.trans hbm,
      spec.invalid, spec.reported⟩
  · intro c op hc hr hp hl hm hs he
    obtain ⟨body, step⟩ := exec_of_tunOpcode hc s
    have spec := issue_excepts_strict ho ha hp he hr hl hm hs body
    exact ⟨_, step, spec.phase, spec.kind_, spec.pc_, spec.reported, spec.hbm.trans hbm⟩
  · intro op hr hu hp he
    obtain ⟨v, hv, spec⟩ := issuePastStore_undefined ho ha hp he hr hu
    exact ⟨v, hv, spec.phase, spec.kind_, spec.cause_, spec.pc_, spec.hbm.trans hbm⟩
  · intro e he h hq hs
    have reads : readsFirst t e.1 e.2 ∧ e.2 ≠ 1 ∧ e.2 ≠ 4 := by
      simp only [List.mem_cons, List.not_mem_nil, or_false] at he
      rcases he with rfl | rfl | rfl | rfl | rfl
      · exact ⟨movq_readsFirst t, (by decide : 0x12 ≠ 1), (by decide : 0x12 ≠ 4)⟩
      · exact ⟨mlds_readsFirst t, (by decide : 0x20 ≠ 1), (by decide : 0x20 ≠ 4)⟩
      · exact ⟨mldw_readsFirst t, (by decide : 0x21 ≠ 1), (by decide : 0x21 ≠ 4)⟩
      · exact ⟨mldsc_readsFirst t, (by decide : 0x22 ≠ 1), (by decide : 0x22 ≠ 4)⟩
      · exact ⟨vld_readsFirst t, (by decide : 0x30 ≠ 1), (by decide : 0x30 ≠ 4)⟩
    obtain ⟨reads, h1, h4⟩ := reads
    exact readsFirst_slips ho ha h h1 h4 hs reads hq

end Sys2Proof.Machine

namespace Sys2Proof.Machine

/-! ## Results land (R55, R58, R85) -/

/-- TUN_CYCLE alone moves on with a cycle (R76). -/
theorem atCycle_eq (u : Tun) (c : Nat) : ∃ n, u.atCycle c = { u with cycle := n } := by
  unfold Tun.atCycle
  split
  · exact ⟨_, rfl⟩
  · exact ⟨_, rfl⟩

/-- The tun in the cycle in which its result `f` lands, before the effect. -/
def Tun.reaches (u : Tun) (f : InFlight) : Tun := (u.atCycle f.land).setArith f.flags

theorem reaches_eq (u : Tun) (f : InFlight) :
    ∃ n, u.reaches f = { u with cycle := n, arith := u.arith ||| BitVec.ofNat 12 f.flags } := by
  obtain ⟨n, h⟩ := atCycle_eq u f.land
  unfold Tun.reaches Tun.setArith
  rw [h]
  exact ⟨n, rfl⟩

/-- The same with the result out of those in flight. -/
def Tun.landing (u : Tun) (i : Nat) (f : InFlight) : Tun :=
  { u.reaches f with inflight := takeOut i (u.reaches f).inflight }

theorem landing_eq (u : Tun) (i : Nat) (f : InFlight) : ∃ n, u.landing i f =
    { u with cycle := n, arith := u.arith ||| BitVec.ofNat 12 f.flags, inflight := takeOut i u.inflight } := by
  obtain ⟨n, h⟩ := reaches_eq u f
  unfold Tun.landing
  rw [h]
  exact ⟨n, rfl⟩

section
variable (u : Tun) (i : Nat) (f : InFlight)

@[simp] theorem landing_inflight : (u.landing i f).inflight = takeOut i u.inflight := by
  obtain ⟨_, h⟩ := landing_eq u i f; rw [h]
@[simp] theorem landing_arith : (u.landing i f).arith = u.arith ||| BitVec.ofNat 12 f.flags := by
  obtain ⟨_, h⟩ := landing_eq u i f; rw [h]
@[simp] theorem landing_queues : (u.landing i f).queues = u.queues := by
  obtain ⟨_, h⟩ := landing_eq u i f; rw [h]
@[simp] theorem landing_queue (q : Nat) : (u.landing i f).queue q = u.queue q := by
  unfold Tun.queue; rw [landing_queues]
@[simp] theorem landing_flags : (u.landing i f).flags = u.flags := by
  obtain ⟨_, h⟩ := landing_eq u i f; rw [h]
@[simp] theorem landing_flag (g : Nat) : (u.landing i f).flag g = u.flag g := by
  unfold Tun.flag; rw [landing_flags]
@[simp] theorem landing_mem : (u.landing i f).mem = u.mem := by
  obtain ⟨_, h⟩ := landing_eq u i f; rw [h]
@[simp] theorem landing_memPut (a : Nat) (e : Entry) : ((u.landing i f).memPut a e).mem = (u.memPut a e).mem := by
  obtain ⟨_, h⟩ := landing_eq u i f; rw [h]; rfl
@[simp] theorem landing_vregs : (u.landing i f).vregs = u.vregs := by
  obtain ⟨_, h⟩ := landing_eq u i f; rw [h]
@[simp] theorem landing_acc : (u.landing i f).acc = u.acc := by
  obtain ⟨_, h⟩ := landing_eq u i f; rw [h]
@[simp] theorem landing_phase : (u.landing i f).phase = u.phase := by
  obtain ⟨_, h⟩ := landing_eq u i f; rw [h]
@[simp] theorem landing_slipValid : (u.landing i f).slipValid = u.slipValid := by
  obtain ⟨_, h⟩ := landing_eq u i f; rw [h]

end

/-- In `w` tun `t` is as `b`; HBM and the faults are those of `s`. -/
structure State.Reached (s w : State) (t : Nat) (b : Tun) : Prop where
  tun : w.tun t = b
  hbm : w.hbm = s.hbm
  fault : w.fault = s.fault

namespace State.Reached
variable {s w : State} {t : Nat} {b : Tun} (h : s.Reached w t b)
include h

theorem modTun (f : Tun → Tun) : s.Reached (w.modTun t f) t (f b) where
  tun := by rw [modTun_tun_same, h.tun]
  hbm := h.hbm
  fault := h.fault

end State.Reached

theorem reached_reach (s : State) (due t : Nat) : s.Reached (s.reach due) t (s.tun t) where
  tun := reach_tun s due t
  hbm := reach_hbm s due
  fault := reach_fault s due

/-! ### A push (R57, R58) -/

section
variable {w : State} {t q d : Nat} {e : Entry} {pc : Pc} {c : Nat} (hq : q < 48)
include hq

/-- A queue below 48 has no binding (R61). -/
theorem own_binding : (if 48 ≤ q then w.binding t q else {}) = {} := if_neg (by omega)

/-- A push to a queue of the tun's own that has room. -/
theorem pushEntry_room (h : ((w.tun t).queue q).near.length < 32) : ∃ g : Queue → List Nat,
    w.pushEntry t q d e pc c = w.modTun t fun a => a.modQueue q fun x => { x with near := x.near ++ [e], at_ := g x } := by
  unfold State.pushEntry
  dsimp only
  rw [own_binding hq]
  exact ⟨fun x => x.at_, (if_neg Bool.false_ne_true).trans (if_pos h)⟩

/-- A push to a full queue of the tun's own is a slip of KIND 2 (R58). -/
theorem pushEntry_full (h : 32 ≤ ((w.tun t).queue q).near.length) (hh : (w.tun t).haltable = true) :
    w.pushEntry t q d e pc c = w.slip t 2 q d pc c := by
  unfold State.pushEntry
  dsimp only
  rw [own_binding hq]
  exact (if_neg Bool.false_ne_true).trans ((if_neg (Nat.not_lt.2 h)).trans (if_pos hh))

end

/-! ### The result that lands first -/

section
variable {s : State} {t : Fin 192} {u : Tun} {i : Nat} {f : InFlight} (hu : u = s.tun t) (ha : s.tunActs t = true)
  (hf : firstLanding u.inflight = some (i, f)) (hp : u.past f.land = true)
include hu ha hf hp

/-- RESULT_PUSH comes to the cycle in which the first result lands. -/
theorem resultPush_reaches : ∃ w, s.Reached w t u ∧ exec (.resultPush t) s = .next (w.landFirst t) := by
  rw [hu] at hf hp
  refine ⟨_, hu ▸ reached_reach s (if f.eff.isRaise then s.cycleFtc t f.land else s.landFtc t f.land) t, ?_⟩
  show execResultPush t s = _
  unfold execResultPush
  dsimp only
  rw [hf]
  exact if_pos (by rw [ha, hp]; rfl)

/-- Every effect but the read of tun memory takes its result out of those in flight. -/
theorem resultPush_lands (hm : ∀ a ds e, f.eff ≠ .memRead a ds e) {P : State → Prop}
    (h : ∀ w, s.Reached w t (u.landing i f) → P (w.landEffect t f)) : Answers (.resultPush t) s P := by
  obtain ⟨w, hw, step⟩ := resultPush_reaches hu ha hf hp
  have lands : w.landFirst t = ((w.modTun t fun a => a.reaches f).modTun t fun a =>
      { a with inflight := takeOut i a.inflight }).landEffect t f := by
    unfold State.landFirst
    dsimp only
    rw [hw.tun, hf]
    dsimp only
    cases he : f.eff with
    | memRead a ds e => exact absurd he (hm a ds e)
    | _ => rfl
  exact ⟨_, step.trans (congrArg _ lands), h _ ((hw.modTun _).modTun _)⟩

theorem push_lands {d q : Nat} {e : Entry} (he : f.eff = .push [(d, q)] e) (hq : q < 48)
    (room : (u.queue q).near.length < 32) : Answers (.resultPush t) s fun v =>
      ((v.tun t).queue q).near = (u.queue q).near ++ [e] ∧ (∀ k, k ≠ q → (v.tun t).queue k = u.queue k)
      ∧ (v.tun t).inflight = takeOut i u.inflight ∧ (v.tun t).arith = u.arith ||| BitVec.ofNat 12 f.flags
      ∧ (v.tun t).mem = u.mem ∧ v.hbm = s.hbm ∧ v.fault = s.fault := by
  refine resultPush_lands hu ha hf hp (fun _ _ _ h => by rw [he] at h; cases h) fun w hw => ?_
  have effect_ : w.landEffect t f = w.pushEntry t q d e f.pc f.land := by unfold State.landEffect; rw [he]; rfl
  obtain ⟨g, push⟩ := pushEntry_room (w := w) (t := t) (d := d) (e := e) (pc := f.pc) (c := f.land) hq
    (by rw [hw.tun, landing_queue]; exact room)
  have done := hw.modTun fun a => a.modQueue q fun x => { x with near := x.near ++ [e], at_ := g x }
  rw [← push, ← effect_] at done
  refine ⟨?_, fun k hk => ?_, ?_, ?_, ?_, done.hbm, done.fault⟩
  · rw [done.tun, modQueue_queue_same, landing_queue]
  · rw [done.tun, modQueue_queue_other _ _ hk, landing_queue]
  · rw [done.tun]; exact landing_inflight u i f
  · rw [done.tun]; exact landing_arith u i f
  · rw [done.tun]; exact landing_mem u i f

theorem push_slips {d q : Nat} {e : Entry} (he : f.eff = .push [(d, q)] e) (hq : q < 48)
    (full : 32 ≤ (u.queue q).near.length) (hr : u.phase = .running) (hs : u.slipValid = false) :
    Answers (.resultPush t) s fun v => (v.tun t).phase = .haltedFault
      ∧ (v.tun t).slipKind = 2 ∧ (v.tun t).slipQueue = q ∧ (v.tun t).slipEnd = d
      ∧ (v.tun t).queue q = u.queue q ∧ v.hbm = s.hbm := by
  refine resultPush_lands hu ha hf hp (fun _ _ _ h => by rw [he] at h; cases h) fun w hw => ?_
  have computes : (w.tun t).haltable = true := haltable_of_running (by rw [hw.tun, landing_phase]; exact hr)
  have effect_ : w.landEffect t f = w.pushEntry t q d e f.pc f.land := by unfold State.landEffect; rw [he]; rfl
  rw [effect_, pushEntry_full hq (by rw [hw.tun, landing_queue]; exact full) computes]
  have halts := slip_halts computes (by rw [hw.tun, landing_slipValid]; exact hs) 2 q d f.pc f.land
  refine ⟨halts.phase, halts.part Tun.slipKind fun _ => rfl, halts.part Tun.slipQueue fun _ => rfl,
    halts.part Tun.slipEnd fun _ => rfl, ?_, halts.hbm.trans hw.hbm⟩
  refine (halts.part (fun a => a.queue q) fun _ => rfl).trans ?_
  show (w.tun t).queue q = _
  rw [hw.tun, landing_queue]

theorem memWrite_lands {a : Nat} {e : Entry} (he : f.eff = .memWrite a e) : Answers (.resultPush t) s fun v =>
    (v.tun t).mem = (u.memPut a e).mem ∧ (v.tun t).queues = u.queues ∧ (v.tun t).inflight = takeOut i u.inflight
      ∧ v.hbm = s.hbm := by
  refine resultPush_lands hu ha hf hp (fun _ _ _ h => by rw [he] at h; cases h) fun w hw => ?_
  have done := hw.modTun fun b => b.memPut a e
  have effect_ : w.landEffect t f = w.modTun t fun b => b.memPut a e := by unfold State.landEffect; rw [he]
  rw [effect_, done.tun]
  exact ⟨landing_memPut u i f a e, landing_queues u i f, landing_inflight u i f, done.hbm⟩

theorem vreg_lands {r : Nat} {ls : List (Nat × Word)} (he : f.eff = .vreg r ls) : Answers (.resultPush t) s fun v =>
    (v.tun t).vregs = ls.foldl (fun m l => Tab.set 0 m (r * 64 + l.1) l.2) u.vregs
      ∧ (v.tun t).arith = u.arith ||| BitVec.ofNat 12 f.flags ∧ (v.tun t).mem = u.mem ∧ v.hbm = s.hbm := by
  refine resultPush_lands hu ha hf hp (fun _ _ _ h => by rw [he] at h; cases h) fun w hw => ?_
  have done := hw.modTun fun b => { b with vregs := ls.foldl (fun m l => Tab.set 0 m (r * 64 + l.1) l.2) b.vregs }
  have effect_ : w.landEffect t f = w.modTun t fun b =>
      { b with vregs := ls.foldl (fun m l => Tab.set 0 m (r * 64 + l.1) l.2) b.vregs } := by
    unfold State.landEffect; rw [he]
  rw [effect_, done.tun]
  exact ⟨by rw [← landing_vregs u i f], landing_arith u i f, landing_mem u i f, done.hbm⟩

theorem accZero_lands {a : Nat} {cells : List Nat} (he : f.eff = .accZero a cells) : Answers (.resultPush t) s fun v =>
    (v.tun t).acc = cells.foldl (fun m k => Tab.set 0 m (a * 4096 + k) 0) u.acc ∧ (v.tun t).queues = u.queues
      ∧ v.hbm = s.hbm := by
  refine resultPush_lands hu ha hf hp (fun _ _ _ h => by rw [he] at h; cases h) fun w hw => ?_
  have done := hw.modTun fun b => { b with acc := cells.foldl (fun m k => Tab.set 0 m (a * 4096 + k) 0) b.acc }
  have effect_ : w.landEffect t f = w.modTun t fun b =>
      { b with acc := cells.foldl (fun m k => Tab.set 0 m (a * 4096 + k) 0) b.acc } := by
    unfold State.landEffect; rw [he]
  rw [effect_, done.tun]
  exact ⟨by rw [← landing_acc u i f], landing_queues u i f, done.hbm⟩

end

/-! ### A raise (R65) -/

/-- A raise that its flag can hold. -/
theorem raiseFlagIn_fits {w : State} {t g n : Nat} (h : (w.tun t).flag g + n ≤ 65535) (pc : Nat) (c : Option Nat) :
    w.raiseFlagIn t g n pc c = (w.modTun t fun a => a.setFlag g ((w.tun t).flag g + n)).modTun t fun a =>
      a.notesWait g (c.getD (w.cycleNow t)) := by
  unfold State.raiseFlagIn
  dsimp only
  rw [if_pos h]
  rfl

theorem raise_lands {s : State} {t : Fin 192} {u : Tun} {i : Nat} {f : InFlight} (hu : u = s.tun t)
    (ha : s.tunActs t = true) (hf : firstLanding u.inflight = some (i, f)) (hp : u.past f.land = true) {g n : Nat}
    (he : f.eff = .raise g n) (fits : u.flag g + n ≤ 65535) : Answers (.resultPush t) s fun v =>
      (v.tun t).flag g = u.flag g + n ∧ (∀ k, k ≠ g → (v.tun t).flag k = u.flag k) ∧ v.fault = s.fault := by
  refine resultPush_lands hu ha hf hp (fun _ _ _ h => by rw [he] at h; cases h) fun w hw => ?_
  have effect_ : w.landEffect t f = w.raiseFlagIn t g n f.pc.num (some f.land) := by unfold State.landEffect; rw [he]
  have flag : (w.tun t).flag g = u.flag g := by rw [hw.tun, landing_flag]
  rw [effect_, raiseFlagIn_fits (by rw [flag]; exact fits), flag]
  have done := (hw.modTun fun a => a.setFlag g (u.flag g + n)).modTun fun a => a.notesWait g f.land
  refine ⟨?_, fun k hk => ?_, done.fault⟩
  · refine Eq.trans (congrArg (fun a => a.flag g) done.tun) ?_
    rw [notesWait_eq]
    exact (setFlag_flag_same ..).trans (Nat.mod_eq_of_lt (by omega))
  · refine Eq.trans (congrArg (fun a => a.flag k) done.tun) ?_
    rw [notesWait_eq]
    exact (setFlag_flag_other _ _ hk).trans (landing_flag u i f k)

/-! ### A read of tun memory (R88, R145) -/

/-- A read of tun memory, in flight as element `i`, becomes the push of the entry `x` three cycles on (R88). -/
def Tun.pushNext (b : Tun) (i : Nat) (f : InFlight) (ds : List (Nat × Nat)) (x : Entry) : Tun :=
  { b with inflight := putIn { f with land := f.land + 3, eff := .push ds x } i b.inflight }

/-- What of a tun coming to the cycle of a landing does not change. -/
theorem reaches_part {β : Type} (g : Tun → β) (hg : ∀ u c x, g { u with cycle := c, arith := x } = g u) (u : Tun)
    (f : InFlight) : g (u.reaches f) = g u := by
  obtain ⟨n, h⟩ := reaches_eq u f
  rw [h, hg]

/-- What neither that nor the ECC of its memory changes. -/
theorem part_of_kept {u b : Tun} {f : InFlight} (kept : b.butMemErr = (u.reaches f).butMemErr) {β : Type} (g : Tun → β)
    (hb : ∀ b, g b.butMemErr = g b) (hg : ∀ u c x, g { u with cycle := c, arith := x } = g u) : g b = g u := by
  rw [← hb, kept, hb, reaches_part g hg]

section
variable {s : State} {t : Fin 192} {u : Tun} {i : Nat} {f : InFlight} (hu : u = s.tun t) (ha : s.tunActs t = true)
  (hf : firstLanding u.inflight = some (i, f)) (hp : u.past f.land = true) {a : Nat} {ds : List (Nat × Nat)} {e : Ecc}
  (he : f.eff = .memRead a ds e)
include hu ha hf hp he

/-- A read of tun memory looks at the words of its entry, then goes on as their push or halts the tun. -/
theorem memRead_reads : ∃ w, s.Reached w t (u.reaches f) ∧ exec (.resultPush t) s =
    .next (if (w.tunEcc t (a / 64 * 64) inEntry e).2 then ((w.tunEcc t (a / 64 * 64) inEntry e).1.modTun t fun b =>
        { b with inflight := takeOut i b.inflight }).tunMemFault t
      else (w.tunEcc t (a / 64 * 64) inEntry e).1.modTun t fun b =>
        b.pushNext i f ds (((w.tunEcc t (a / 64 * 64) inEntry e).1.tun t).memEntry a)) := by
  obtain ⟨w, hw, step⟩ := resultPush_reaches hu ha hf hp
  refine ⟨_, hw.modTun fun b => b.reaches f, step.trans (congrArg _ ?_)⟩
  unfold State.landFirst
  dsimp only
  rw [hw.tun, hf]
  dsimp only
  rw [he]
  rfl

theorem memRead_pushes (good : ∀ y ∈ e, y.1 < 8 → y.2 ≠ .uncorrectable) : Answers (.resultPush t) s fun v =>
    (v.tun t).inflight = putIn { f with land := f.land + 3, eff := .push ds (u.memEntry a) } i u.inflight
      ∧ (v.tun t).queues = u.queues ∧ (v.tun t).mem = u.mem ∧ v.hbm = s.hbm
      ∧ ((∀ y ∈ e, y.2 = .clean) → v.fault = s.fault ∧ (v.tun t).memCe = u.memCe) := by
  obtain ⟨w, hw, step⟩ := memRead_reads hu ha hf hp he
  obtain ⟨bad, kept, -⟩ := tunEcc_spec w t (a / 64 * 64) inEntry e
  have ok : (w.tunEcc t (a / 64 * 64) inEntry e).2 = false := by
    rw [bad, List.any_eq_false]
    intro y hy
    simp only [inEntry, Bool.and_eq_true, decide_eq_true_eq, beq_iff_eq, not_and]
    exact good y hy
  rw [if_neg (by rw [ok]; exact Bool.false_ne_true)] at step
  have clean : (∀ y ∈ e, y.2 = .clean) → (w.tunEcc t (a / 64 * 64) inEntry e).1 = w := fun h => by
    rw [tunEcc_clean fun y hy _ => h y hy]
  have frame := tunEcc_frame w t (a / 64 * 64) inEntry e
  generalize (w.tunEcc t (a / 64 * 64) inEntry e).1 = r at *
  rw [hw.tun] at kept
  refine ⟨_, step, ?_, ?_, ?_, frame.hbm.trans hw.hbm, fun h => ?_⟩
  · rw [modTun_tun_same]
    unfold Tun.pushNext
    rw [part_of_kept kept (fun b => b.memEntry a) (fun _ => rfl) fun _ _ _ => rfl,
      part_of_kept kept Tun.inflight (fun _ => rfl) fun _ _ _ => rfl]
  · rw [modTun_tun_same]
    exact part_of_kept kept Tun.queues (fun _ => rfl) fun _ _ _ => rfl
  · rw [modTun_tun_same]
    exact part_of_kept kept Tun.mem (fun _ => rfl) fun _ _ _ => rfl
  · rw [clean h, modTun_tun_same, hw.tun]
    exact ⟨hw.fault, reaches_part Tun.memCe (fun _ _ _ => rfl) u f⟩

theorem memRead_halts (badWord : ∃ y ∈ e, y.1 < 8 ∧ y.2 = .uncorrectable) (hr : u.phase = .running) :
    Answers (.resultPush t) s fun v => (v.tun t).phase = .haltedFault ∧ (v.tun t).memUe = true
      ∧ (v.tun t).queues = u.queues ∧ (v.tun t).mem = u.mem ∧ v.hbm = s.hbm := by
  obtain ⟨w, hw, step⟩ := memRead_reads hu ha hf hp he
  obtain ⟨bad, kept, memUe⟩ := tunEcc_spec w t (a / 64 * 64) inEntry e
  have found : (e.any fun y => inEntry y.1 && y.2 == .uncorrectable) = true := by
    obtain ⟨y, hy, h8, hue⟩ := badWord
    exact List.any_eq_true.2 ⟨y, hy, by simp [inEntry, h8, hue]⟩
  rw [if_pos (bad.trans found)] at step
  rw [found, Bool.or_true] at memUe
  have frame := tunEcc_frame w t (a / 64 * 64) inEntry e
  generalize (w.tunEcc t (a / 64 * 64) inEntry e).1 = r at *
  rw [hw.tun] at kept
  have own : (r.modTun t fun b => { b with inflight := takeOut i b.inflight }).tun t
      = { r.tun t with inflight := takeOut i (r.tun t).inflight } := modTun_tun_same ..
  have halts := tunMemFault_halts (s := r.modTun t fun b => { b with inflight := takeOut i b.inflight }) (t := t)
    (haltable_of_running (by rw [own]; exact (part_of_kept kept Tun.phase (fun _ => rfl) fun _ _ _ => rfl).trans hr))
  rw [own] at halts
  exact ⟨_, step, halts.phase, halts.memUe.trans memUe,
    halts.queues.trans (part_of_kept kept Tun.queues (fun _ => rfl) fun _ _ _ => rfl),
    halts.mem.trans (part_of_kept kept Tun.mem (fun _ => rfl) fun _ _ _ => rfl), (halts.hbm.trans frame.hbm).trans hw.hbm⟩

end

/-! ## Products start and complete (R94, R121) -/

@[simp] theorem setEngine_engine_same (u : Tun) (b : Bool) (ps : List Product) : (u.setEngine b ps).engine b = ps := by
  cases b <;> rfl

@[simp] theorem setEngine_engine_other (u : Tun) (b : Bool) (ps : List Product) :
    (u.setEngine b ps).engine (!b) = u.engine (!b) := by
  cases b <;> rfl

theorem setEngine_acc (u : Tun) (b : Bool) (ps : List Product) : (u.setEngine b ps).acc = u.acc := by cases b <;> rfl
theorem setEngine_arith (u : Tun) (b : Bool) (ps : List Product) : (u.setEngine b ps).arith = u.arith := by cases b <;> rfl

/-- The first waiting product of an engine starts (R94). -/
theorem matrixProductStart_starts {s : State} {t : Fin 192} {u : Tun} (hu : u = s.tun t) (ha : s.tunActs t = true)
    {b : Bool} {p : Product} (hp : (u.engine b).find? (fun p => !p.started) = some p) (past : u.past p.start = true)
    (front : ∀ q ∈ u.engine (!b), q.acc = p.acc → p.issue ≤ q.issue) : Answers (.matrixProductStart t b) s fun v =>
      (v.tun t).engine b = (u.engine b).map (fun q => if q.issue = p.issue then { q with started := true } else q)
      ∧ (v.tun t).engine (!b) = u.engine (!b) ∧ (v.tun t).acc = u.acc
      ∧ v.time.ftc = max s.time.ftc (s.landFtc t p.start) ∧ v.hbm = s.hbm := by
  have behind : ((u.engine !b).any fun q => q.acc == p.acc && decide (q.issue < p.issue)) = false := by
    rw [List.any_eq_false]
    intro q hq
    simp only [Bool.and_eq_true, beq_iff_eq, decide_eq_true_eq, not_and, Nat.not_lt]
    exact front q hq
  have step : exec (.matrixProductStart t b) s = .next ((s.reach (s.landFtc t p.start)).modTun t fun u =>
      (u.atCycle p.start).setEngine b
        ((u.engine b).map fun q => if q.issue == p.issue then { q with started := true } else q)) := by
    show execMatrixProductStart t b s = _
    unfold execMatrixProductStart
    dsimp only
    rw [← hu, hp]
    exact if_pos (by rw [ha, past, behind]; rfl)
  have ftc := reach_ftc s (s.landFtc t p.start)
  have reached := reached_reach s (s.landFtc t p.start) t
  generalize s.reach (s.landFtc t p.start) = w at *
  rw [← hu] at reached
  have done := reached.modTun fun u => (u.atCycle p.start).setEngine b
    ((u.engine b).map fun q => if q.issue == p.issue then { q with started := true } else q)
  obtain ⟨n, cycle⟩ := atCycle_eq u p.start
  rw [cycle] at done
  refine ⟨_, step, ?_, ?_, ?_, (congrArg TimeSt.ftc (State.modTun_time ..)).trans ftc, done.hbm⟩
  · rw [done.tun, setEngine_engine_same]
    simp only [beq_iff_eq]
  · rw [done.tun, setEngine_engine_other]
    rfl
  · rw [done.tun, setEngine_acc]

/-- What a product writes (R94, R121). -/
theorem write_of_compute {u : Tun} {p : Product} {ws : List (Nat × Nat)} {f : Nat}
    (h : p.compute (fun i => (Tab.get 0 u.acc (p.acc * 4096 + i)).toNat) = (ws, f)) : u.write p = { u with
      acc := ws.foldr (fun e m => Tab.set 0 m (p.acc * 4096 + e.1) (word e.2)) u.acc
      arith := u.arith ||| BitVec.ofNat 12 (engineBits (if p.sparse then .sparse else .dense) f) } := by
  unfold Tun.write
  rw [h]
  rfl

/-- The first product of an engine completes (R94, R121). -/
theorem matrixProductComplete_completes {s : State} {t : Fin 192} {u : Tun} (hu : u = s.tun t)
    (ha : s.tunActs t = true) {b : Bool} {p : Product} {rest : List Product} {ws : List (Nat × Nat)} {f : Nat}
    (hp : u.engine b = p :: rest) (started : p.started = true) (past : u.past p.complete = true)
    (h : p.compute (fun i => (Tab.get 0 u.acc (p.acc * 4096 + i)).toNat) = (ws, f)) :
    Answers (.matrixProductComplete t b) s fun v =>
      (v.tun t).engine b = rest ∧ (v.tun t).engine (!b) = u.engine (!b)
      ∧ (v.tun t).acc = ws.foldr (fun e m => Tab.set 0 m (p.acc * 4096 + e.1) (word e.2)) u.acc
      ∧ (v.tun t).arith = u.arith ||| BitVec.ofNat 12 (engineBits (if p.sparse then .sparse else .dense) f)
      ∧ v.time.ftc = max s.time.ftc (s.landFtc t p.complete) ∧ v.hbm = s.hbm := by
  have step : exec (.matrixProductComplete t b) s = .next ((s.reach (s.landFtc t p.complete)).modTun t fun u =>
      ((u.write p).atCycle p.complete).setEngine b rest) := by
    show execMatrixProductComplete t b s = _
    unfold execMatrixProductComplete
    dsimp only
    rw [← hu, hp]
    exact if_pos (by rw [ha, past, started]; rfl)
  have ftc := reach_ftc s (s.landFtc t p.complete)
  have reached := reached_reach s (s.landFtc t p.complete) t
  generalize s.reach (s.landFtc t p.complete) = w at *
  rw [← hu] at reached
  have done := reached.modTun fun u => ((u.write p).atCycle p.complete).setEngine b rest
  obtain ⟨n, cycle⟩ := atCycle_eq (u.write p) p.complete
  rw [cycle, write_of_compute h] at done
  refine ⟨_, step, ?_, ?_, ?_, ?_, (congrArg TimeSt.ftc (State.modTun_time ..)).trans ftc, done.hbm⟩
  · rw [done.tun, setEngine_engine_same]
  · rw [done.tun, setEngine_engine_other]
    rfl
  · rw [done.tun, setEngine_acc]
  · rw [done.tun, setEngine_arith]

/-! ## A program ends (R88, R319) -/

theorem closeDigest_closures {s : State} {t : Nat} (hd : (s.tun t).digItems = 0) (he : (s.tun t).engineCnt = 0)
    (b : Bool) : (s.closeDigest t b).time.closures = s.time.closures := by
  unfold State.closeDigest
  dsimp only
  rw [State.setTun_time, he, if_neg (show ¬ (0 % 64 != 0) = true by decide), hd]
  rfl

theorem reach_closures (s : State) (due : Nat) : (s.reach due).time.closures = s.time.closures := by
  obtain ⟨_, _, _, h⟩ := reach_frame s due
  rw [h]

/-- After END, with nothing left, the tun is DONE and its digest closed (R88, R319). -/
theorem tunEnterDone_ends {s : State} {t : Fin 192} {u : Tun} (hu : u = s.tun t) (ha : s.tunActs t = true)
    (hr : u.phase = .running) (ended : u.ended = true) (hi : u.inflight = []) (hd : u.dense = []) (hs : u.sparse = []) :
    Answers (.tunEnterDone t) s fun v => (v.tun t).phase = .done ∧ (v.tun t).cycle = max u.cycle u.issued + 1
        ∧ (v.tun t).digItems = 0 ∧ (v.tun t).engineCnt = 0
        ∧ (u.digItems = 0 → u.engineCnt = 0 → v.time.closures = s.time.closures)
        ∧ (v.tun t).queues = u.queues ∧ (v.tun t).mem = u.mem ∧ v.hbm = s.hbm ∧ v.fault = s.fault := by
  have step : exec (.tunEnterDone t) s = .next (State.closeDigest (((s.reach (s.cycleFtc t (max u.cycle u.issued + 1)))).modTun
      t fun u' => { u' with cycle := max u.cycle u.issued + 1, phase := .done, ended := false,
                            quietAt := (s.reach (s.cycleFtc t (max u.cycle u.issued + 1))).now }) t false) := by
    show execTunEnterDone t s = _
    unfold execTunEnterDone
    dsimp only
    rw [← hu]
    exact if_pos (by rw [ha, hr, ended, hi, hd, hs]; rfl)
  have closures := reach_closures s (s.cycleFtc t (max u.cycle u.issued + 1))
  have reached := reached_reach s (s.cycleFtc t (max u.cycle u.issued + 1)) t
  generalize s.reach (s.cycleFtc t (max u.cycle u.issued + 1)) = w at *
  rw [← hu] at reached
  have done := reached.modTun fun u' => { u' with
    cycle := max u.cycle u.issued + 1, phase := .done, ended := false, quietAt := w.now }
  have own := closeDigest_tun_same (w.modTun t fun u' => { u' with
    cycle := max u.cycle u.issued + 1, phase := .done, ended := false, quietAt := w.now }) t false
  rw [done.tun] at own
  refine ⟨_, step, ?_, ?_, ?_, ?_, fun h0 hc => ?_, ?_, ?_, (closeDigest_frame _ _ _).hbm.trans done.hbm,
    (closeDigest_fault _ _ _).trans done.fault⟩
  case refine_5 =>
    rw [closeDigest_closures (by rw [done.tun]; exact h0) (by rw [done.tun]; exact hc), State.modTun_time, closures]
  all_goals rw [own]; rfl

/-- Settles O46: each kind of result that lands, each product, and END at the program's last cycle. -/
theorem tunResultsLand : Obligations.TunResultsLand := by
  unfold Obligations.TunResultsLand
  intro s t u hu ha
  refine ⟨fun i f hf hp => ⟨fun d q e he hq room => push_lands hu ha hf hp he hq room,
      fun d q e he hq full hr hs => push_slips hu ha hf hp he hq full hr hs,
      fun a e he => memWrite_lands hu ha hf hp he, fun r ls he => vreg_lands hu ha hf hp he,
      fun a cells he => accZero_lands hu ha hf hp he, fun g n he fits => raise_lands hu ha hf hp he fits,
      fun a ds e he => ⟨memRead_pushes hu ha hf hp he, memRead_halts hu ha hf hp he⟩⟩,
    fun b p hp past front => matrixProductStart_starts hu ha hp past front,
    fun b p rest ws f hp started past h => matrixProductComplete_completes hu ha hp started past h,
    fun hr ended hi hd hs => tunEnterDone_ends hu ha hr ended hi hd hs⟩

end Sys2Proof.Machine

namespace Sys2Proof.Machine

/-! ## Raises land (R65) -/

/-- FLAG_RAISE_LAND takes the oldest raise; toward a tun that sleeps it is gone. -/
theorem exec_flagRaiseLand {s : State} (hs : s.alive = true) {r : Raise} {rest : List Raise} (h : s.raises = r :: rest) :
    exec .flagRaiseLand s = .next (if s.tunActs r.tun then
      ({ s with raises := rest } : State).raiseFlagIn r.tun r.flag r.n 0xFFFF none else { s with raises := rest }) := by
  show execFlagRaiseLand s = _
  unfold execFlagRaiseLand
  rw [h]
  exact if_neg (by rw [hs]; exact Bool.false_ne_true)

/-- The wait of a tun, when it has one (R66). -/
theorem waitOf_tun {s : State} {t ft f n : Nat} (h : s.waitOf (.tun t) = some (ft, f, n)) :
    (s.tun t).phase = .waiting ∧ (s.tun t).blocked = true ∧ ft = t ∧ (s.tun t).waitFlag = f ∧ (s.tun t).waitCount = n := by
  unfold State.waitOf at h
  dsimp only at h
  split at h
  · next hc =>
    rw [Bool.and_eq_true, beq_iff_eq] at hc
    cases h
    exact ⟨hc.1, hc.2, rfl, rfl, rfl⟩
  · cases h

/-- The wait of a queue, when it has one (R66). -/
theorem waitOf_queue {s : State} {q ft f n : Nat} (h : s.waitOf (.queue q) = some (ft, f, n)) :
    (s.sq q).phase = .waiting := by
  unfold State.waitOf at h
  dsimp only at h
  split at h
  · next hc => exact beq_iff_eq.1 hc
  · cases h

theorem haltable_of_waiting {a : Tun} (h : a.phase = .waiting) : a.haltable = true := by
  unfold Tun.haltable
  rw [h]

/-- The note of a blocked wait on flag `f` says whether its count is met (R66). -/
theorem notesWait_of_waiting {a : Tun} (hp : a.phase = .waiting) (hb : a.blocked = true) (c : Nat) :
    (a.notesWait a.waitFlag c).metAt = if a.waitCount ≤ a.flag a.waitFlag then some (a.metAt.getD c) else none := by
  have met : a.waitMet a.waitFlag = decide (a.waitCount ≤ a.flag a.waitFlag) := by
    unfold Tun.waitMet
    rw [hp, hb, beq_self_eq_true]
    simp only [BEq.rfl, Bool.and_self, Bool.true_and]
  split
  · next h => exact notesWait_of_met (met.trans (decide_eq_true h)) c
  · next h => exact notesWait_of_unmet (met.trans (decide_eq_false h)) rfl c

section
variable {w : State} {t f n : Nat}

/-- A raise that its flag can hold is added to it, and the wait of the tun noted (R65, R66). -/
theorem raiseFlagIn_onlyTun (fits : (w.tun t).flag f + n ≤ 65535) (pc : Nat) :
    w.onlyTun (w.raiseFlagIn t f n pc none) t
      (((w.tun t).setFlag f ((w.tun t).flag f + n)).notesWait f (w.cycleNow t)) := by
  rw [raiseFlagIn_fits fits, Option.getD_none]
  exact ((State.onlyTun.refl w t).modTun fun a => a.setFlag f ((w.tun t).flag f + n)).modTun fun a =>
    a.notesWait f (w.cycleNow t)

/-- A raise beyond what its flag holds saturates it and halts its tun (R65, R103). -/
theorem raiseFlagIn_overflows (high : 65535 < (w.tun t).flag f + n) (he : (w.tun t).excValid = false)
    (hr : (w.tun t).phase = .running) (pc : Nat) : ∃ u, w.onlyTun u t ((w.tun t).setFlag f 65535)
      ∧ (u.raise (srcTun t 1) (((w.tun t).setFlag f 65535).excepted 5 0 pc).excReg).HaltsAs
        (w.raiseFlagIn t f n pc none) t (((w.tun t).setFlag f 65535).excepted 5 0 pc) := by
  have full : w.raiseFlagIn t f n pc none =
      (w.modTun t fun a => a.setFlag f 65535).exceptionAt t 1 5 0 pc (w.tunCycle t) := by
    unfold State.raiseFlagIn
    dsimp only
    rw [if_neg (Nat.not_le.2 high)]
    rfl
  have set := (State.onlyTun.refl w t).modTun fun a => a.setFlag f 65535
  rw [full]
  generalize w.modTun t _ = u at set ⊢
  have halts := exceptionAt_halts (s := u) (t := t) (by rw [set.tun]; exact haltable_of_running hr)
    (by rw [set.tun]; exact he) 1 5 0 pc (w.tunCycle t)
  rw [set.tun] at halts
  exact ⟨u, set, halts⟩

end

section
variable {s : State} (hs : s.alive = true) {r : Raise} {rest : List Raise} (h : s.raises = r :: rest)
include hs h

theorem flagRaiseLand_asleep (ha : s.tunActs r.tun = false) : exec .flagRaiseLand s = .next { s with raises := rest } := by
  rw [exec_flagRaiseLand hs h, if_neg (by rw [ha]; exact Bool.false_ne_true)]

variable (ha : s.tunActs r.tun = true)
include ha

/-- A raise adds its count to the flag, and a wait on it is noted (R65, R66). -/
theorem flagRaiseLand_adds (fits : (s.tun r.tun).flag r.flag + r.n ≤ 65535) : Answers .flagRaiseLand s fun v =>
    v.raises = rest
    ∧ v.tun r.tun = { (s.tun r.tun).setFlag r.flag ((s.tun r.tun).flag r.flag + r.n) with metAt := (v.tun r.tun).metAt }
    ∧ (s.waitOf (.tun r.tun) = some (r.tun, r.flag, (s.tun r.tun).waitCount) → (v.tun r.tun).metAt =
      if (s.tun r.tun).waitCount ≤ (s.tun r.tun).flag r.flag + r.n
      then some ((s.tun r.tun).metAt.getD (s.cycleNow r.tun)) else none)
    ∧ (∀ k, k ≠ r.tun → v.tun k = s.tun k) ∧ v.fault = s.fault ∧ v.hbm = s.hbm := by
  have step := exec_flagRaiseLand hs h
  rw [if_pos ha] at step
  have done := raiseFlagIn_onlyTun (w := { s with raises := rest }) fits 0xFFFF
  generalize State.raiseFlagIn _ r.tun r.flag r.n 0xFFFF none = v at step done
  have noted : v.tun r.tun = ((s.tun r.tun).setFlag r.flag ((s.tun r.tun).flag r.flag + r.n)).notesWait r.flag
    (s.cycleNow r.tun) := done.tun
  refine ⟨_, step, done.raises, ?_, fun hw => ?_, fun k hk => done.other hk, done.fault, done.hbm⟩
  · rw [noted]
    exact notesWait_eq ..
  · obtain ⟨waits, blocked, -, hf, -⟩ := waitOf_tun hw
    have note := notesWait_of_waiting (a := (s.tun r.tun).setFlag r.flag ((s.tun r.tun).flag r.flag + r.n)) waits blocked
      (s.cycleNow r.tun)
    rw [show ((s.tun r.tun).setFlag r.flag ((s.tun r.tun).flag r.flag + r.n)).waitFlag = r.flag from hf,
      setFlag_flag_same, Nat.mod_eq_of_lt (by omega)] at note
    rw [noted]
    exact note

/-- A raise beyond what the flag holds saturates it and halts its tun (R65). -/
theorem flagRaiseLand_overflows (high : 65535 < (s.tun r.tun).flag r.flag + r.n) (he : (s.tun r.tun).excValid = false)
    (hr : (s.tun r.tun).phase = .running) : Answers .flagRaiseLand s fun v => (v.tun r.tun).flag r.flag = 65535
      ∧ (v.tun r.tun).phase = .haltedFault ∧ (v.tun r.tun).excKind = 5 ∧ (v.tun r.tun).excPc = 0xFFFF
      ∧ s.faultRec (srcTun r.tun 1) ((v.tun r.tun).excReg) ∈ v.fault.raised := by
  have step := exec_flagRaiseLand hs h
  rw [if_pos ha] at step
  obtain ⟨u, set, halts⟩ := raiseFlagIn_overflows (w := { s with raises := rest }) high he hr 0xFFFF
  generalize State.raiseFlagIn _ r.tun r.flag r.n 0xFFFF none = v at step halts
  refine ⟨_, step, ?_, halts.phase, halts.part Tun.excKind fun _ => rfl, halts.part Tun.excPc fun _ => rfl, ?_⟩
  · refine (halts.part (fun a => a.flag r.flag) fun _ => rfl).trans ?_
    exact (setFlag_flag_same (s.tun r.tun) r.flag 65535).trans (by decide)
  · rw [halts.excReg]
    have reported := halts.reported
    rw [faultRec_of_onlyTun set] at reported
    exact reported

end

/-! ## A wait that is met (R66) -/

/-- The tun whose wait is met goes on in cycle `r`. -/
def Tun.resumed (u : Tun) (r : Nat) : Tun :=
  { u with phase := .running, blocked := false, base := r, issued := r, cycle := max u.cycle r, metAt := none, first := true }

theorem flag_lt (u : Tun) (f : Nat) : u.flag f < 65536 := (Tab.get 0 u.flags f).isLt

section
variable {s : State} (hs : s.alive = true) {f n ft : Nat} (met : n ≤ (s.tun ft).flag f)
include hs met

/-- A tun takes its count and goes on from the first cycle in which the count was there (R66). -/
theorem flagWaitResume_tun {t : Nat} (ht : ft = t) (h : s.waitOf (.tun t) = some (ft, f, n)) :
    Answers (.flagWaitResume (.tun t)) s fun v =>
      (v.tun t).phase = .running ∧ (v.tun t).blocked = false ∧ (v.tun t).flag f = (s.tun t).flag f - n
      ∧ (v.tun t).base = max (s.tun t).issued ((s.tun t).metAt.getD (s.cycleNow t)) ∧ (v.tun t).next = (s.tun t).next
      ∧ (∀ k, k ≠ t → v.tun k = s.tun k) ∧ v.hbm = s.hbm := by
  subst ht
  have step : exec (.flagWaitResume (.tun ft)) s = .next ((s.modTun ft fun u =>
      u.resumed (max (s.tun ft).issued ((s.tun ft).metAt.getD (s.cycleNow ft)))).takeFlag ft f n) := by
    show execFlagWaitResume (.tun ft) s = _
    unfold execFlagWaitResume
    rw [h]
    exact if_neg (by simp [hs, met])
  obtain ⟨-, -, -, hf, -⟩ := waitOf_tun h
  have done := takeFlag_onlyTun (n := n) ((State.onlyTun.refl s ft).modTun fun u =>
    u.resumed (max (s.tun ft).issued ((s.tun ft).metAt.getD (s.cycleNow ft)))) rfl hf
  refine ⟨_, step, ?_, ?_, ?_, ?_, ?_, fun k hk => done.other hk, done.hbm⟩
  case refine_3 =>
    rw [done.tun]
    exact (setFlag_flag_same ..).trans (Nat.mod_eq_of_lt (Nat.lt_of_le_of_lt (Nat.sub_le _ _) (flag_lt (s.tun ft) f)))
  all_goals rw [done.tun]; rfl

/-- A queue that nothing stops takes its count, and its WAIT_FLAG completes (R66, R338). -/
theorem flagWaitResume_queue {q : Nat} (h : s.waitOf (.queue q) = some (ft, f, n)) (going : (s.sq q).stopping = none) :
    exec (.flagWaitResume (.queue q)) s = .next ((s.takeFlag ft f n).waitEnds q 0) := by
  have settled : ((s.takeFlag ft f n).waitEnds q 0).sqSettle q = (s.takeFlag ft f n).waitEnds q 0 := by
    have still : (((s.takeFlag ft f n).waitEnds q 0).sq q).stopping = none := by
      unfold State.waitEnds
      rw [modSq_sq_same]
      exact going
    unfold State.sqSettle
    dsimp only
    rw [still]
  show execFlagWaitResume (.queue q) s = _
  unfold execFlagWaitResume
  rw [h]
  exact (if_neg (by simp [hs, met])).trans (congrArg _ settled)

end

/-! ## A walk (R67) -/

section
variable {s : State} (hs : s.alive = true) {a : Agent} {w : Walk} {e : CycEntry} (hw : s.openWalk a = some w)
  (he : w.path.getLast? = some e)
include hs hw he

/-- What the next hop of a walk does, by the owner of the last flag on its path. -/
theorem exec_flagWalkHop : exec (.flagWalkHop a) s = (match s.ownerAgent e.ftun e.flag with
    | none => .next (s.setWalk w none)
    | some b =>
      if b == w.origin then
        .next (s.setWalk w (if w.path.length == 1 then none else some { w with closed := some s.now }))
      else match s.waitOf b with
        | some (ft, f, n) =>
          .next (s.setWalk w (if 16 ≤ w.path.length then none else
            some { w with path := w.path ++ [⟨b, ft, f⟩], counts := w.counts ++ [n] }))
        | none => .next (s.setWalk w none)) := by
  show execFlagWalkHop a s = _
  unfold execFlagWalkHop
  rw [hw]
  dsimp only
  rw [he]
  exact if_neg (by rw [hs]; exact Bool.false_ne_true)

theorem flagWalkHop_ends (ho : s.ownerAgent e.ftun e.flag = none) : exec (.flagWalkHop a) s = .next (s.setWalk w none) := by
  rw [exec_flagWalkHop hs hw he, ho]

theorem flagWalkHop_closes (ho : s.ownerAgent e.ftun e.flag = some w.origin) (hl : 2 ≤ w.path.length) :
    exec (.flagWalkHop a) s = .next (s.setWalk w (some { w with closed := some s.now })) := by
  rw [exec_flagWalkHop hs hw he, ho]
  dsimp only
  rw [if_pos (beq_self_eq_true _), if_neg (by simp only [beq_iff_eq]; omega)]

variable {b : Agent} (ho : s.ownerAgent e.ftun e.flag = some b) (hb : b ≠ w.origin)
include ho hb

theorem flagWalkHop_goesOn {t f n : Nat} (hn : s.waitOf b = some (t, f, n)) (hl : w.path.length < 16) :
    exec (.flagWalkHop a) s =
      .next (s.setWalk w (some { w with path := w.path ++ [⟨b, t, f⟩], counts := w.counts ++ [n] })) := by
  rw [exec_flagWalkHop hs hw he, ho]
  dsimp only
  rw [if_neg (mt beq_iff_eq.1 hb), hn]
  dsimp only
  rw [if_neg (Nat.not_le.2 hl)]

theorem flagWalkHop_meetsRunning (hn : s.waitOf b = none) : exec (.flagWalkHop a) s = .next (s.setWalk w none) := by
  rw [exec_flagWalkHop hs hw he, ho]
  dsimp only
  rw [if_neg (mt beq_iff_eq.1 hb), hn]

end

/-! ## Time passes up to a tick -/

theorem reach_now (s : State) (due : Nat) : (s.reach due).now = s.now + (due - s.time.ftc) := by
  unfold State.reach
  split
  · next h => rw [Nat.sub_eq_zero_of_le h]; rfl
  · rfl

theorem after_now (s : State) (due : Nat) : (s.after due).now = max s.now due := by
  unfold State.after
  rw [reach_now]
  omega

section
variable (s : State) (due : Nat)

@[simp] theorem after_tuns : (s.after due).tuns = s.tuns := reach_tuns ..
@[simp] theorem after_tun (k : Nat) : (s.after due).tun k = s.tun k := reach_tun ..
@[simp] theorem after_fault : (s.after due).fault = s.fault := reach_fault ..
@[simp] theorem after_walks : (s.after due).walks = s.walks := by
  obtain ⟨_, _, _, h⟩ := reach_frame s (s.time.ftc + (due - s.now))
  unfold State.after
  rw [h]
@[simp] theorem after_sqs : (s.after due).sqs = s.sqs := by
  obtain ⟨_, _, _, h⟩ := reach_frame s (s.time.ftc + (due - s.now))
  unfold State.after
  rw [h]
@[simp] theorem after_sq (q : Nat) : (s.after due).sq q = s.sq q := by
  unfold State.sq
  rw [after_sqs]

end

/-- The record of a fault is of the present count and tick (R350). -/
theorem faultRec_of_ftc {s v : State} (hf : v.time.ftc = s.time.ftc) (hn : v.now = s.now) (src d : Nat) :
    v.faultRec src d = s.faultRec src d := by
  unfold State.faultRec State.faultDelay
  rw [hf, hn]

/-! ## Waits beyond the stall limit (R69) -/

section
variable {s : State} {a : Agent} {ft f n : Nat}

/-- A wait whose count is met is no timeout. -/
theorem flagWaitTimeout_met (h : s.waitOf a = some (ft, f, n)) (met : n ≤ (s.tun ft).flag f) :
    exec (.flagWaitTimeout a) s = .next s := by
  show execFlagWaitTimeout a s = _
  unfold execFlagWaitTimeout
  rw [h]
  exact if_pos (by rw [decide_eq_true met, Bool.or_true])

variable (hs : s.alive = true) (unmet : (s.tun ft).flag f < n)
include hs unmet

theorem flagWaitTimeout_tun {t : Nat} (h : s.waitOf (.tun t) = some (ft, f, n)) :
    Answers (.flagWaitTimeout (.tun t)) s fun v => (v.tun t).phase = .haltedFault ∧ (v.tun t).flags = (s.tun t).flags
      ∧ v.now = max s.now ((s.tun t).waitSince + s.stallTicks + 1)
      ∧ v.faultRec (srcTun t 1) ((s.tun t).flagWaitReg) ∈ v.fault.raised := by
  have step : exec (.flagWaitTimeout (.tun t)) s = .next (((s.after ((s.tun t).waitSince + s.stallTicks + 1)).raise
      (srcTun t 1) ((s.after ((s.tun t).waitSince + s.stallTicks + 1)).tun t).flagWaitReg).haltFault t) := by
    show execFlagWaitTimeout (.tun t) s = _
    unfold execFlagWaitTimeout
    rw [h]
    exact if_neg (by simp [hs, unmet])
  have own := after_tun s ((s.tun t).waitSince + s.stallTicks + 1) t
  have now := after_now s ((s.tun t).waitSince + s.stallTicks + 1)
  generalize s.after ((s.tun t).waitSince + s.stallTicks + 1) = w at *
  rw [own] at step
  unfold State.haltFault at step
  have halts := haltFaultAt_halts (s := w.raise (srcTun t 1) (s.tun t).flagWaitReg) (t := t)
    ((w.raise (srcTun t 1) (s.tun t).flagWaitReg).tunCycle t)
    (haltable_of_waiting ((congrArg Tun.phase own).trans (waitOf_tun h).1))
  refine ⟨_, step, halts.phase, halts.flags.trans (congrArg Tun.flags own), halts.now.trans now, ?_⟩
  rw [faultRec_of_ftc (s := w) halts.ftc halts.now]
  exact halts.reported

theorem flagWaitTimeout_queue {q : Nat} (h : s.waitOf (.queue q) = some (ft, f, n)) :
    Answers (.flagWaitTimeout (.queue q)) s fun v =>
      (v.sq q).phase = .running ∧ (v.sq q).ops = (s.sq q).ops.map (fun o =>
        if o.op == 7 && o.started && o.status.isNone then SqOp.finish 8 0 o else o)
      ∧ v.now = max s.now ((s.sq q).waitSince + s.stallTicks + 1) ∧ v.tuns = s.tuns ∧ v.fault = s.fault := by
  have step : exec (.flagWaitTimeout (.queue q)) s =
      .next ((s.after ((s.sq q).waitSince + s.stallTicks + 1)).waitEnds q 8) := by
    show execFlagWaitTimeout (.queue q) s = _
    unfold execFlagWaitTimeout
    rw [h]
    exact if_neg (by simp [hs, unmet])
  have own := after_sq s ((s.sq q).waitSince + s.stallTicks + 1) q
  have now := after_now s ((s.sq q).waitSince + s.stallTicks + 1)
  have tuns := after_tuns s ((s.sq q).waitSince + s.stallTicks + 1)
  have fault := after_fault s ((s.sq q).waitSince + s.stallTicks + 1)
  generalize s.after ((s.sq q).waitSince + s.stallTicks + 1) = w at *
  unfold State.waitEnds at step
  refine ⟨_, step, ?_, ?_, now, tuns, fault⟩
  · rw [modSq_sq_same, own]
    exact if_pos (beq_iff_eq.2 (waitOf_queue h))
  · rw [modSq_sq_same, own]

end

/-! ## A closed walk still standing (R68) -/

/-- A walk that stands alone is taken out. -/
theorem setWalk_alone {s : State} {w : Walk} (h : s.walks = [w]) : s.setWalk w none = { s with walks := [] } := by
  unfold State.setWalk
  rw [h]
  simp

/-- Whether a walk still stands depends on the tuns and the queues alone. -/
theorem stillCycle_congr {s v : State} (ht : v.tuns = s.tuns) (hq : v.sqs = s.sqs) (w : Walk) :
    v.stillCycle w = s.stillCycle w := by
  have waits (a : Agent) : v.waitOf a = s.waitOf a := by
    cases a
    · unfold State.waitOf State.tun
      rw [ht]
    · unfold State.waitOf State.sq
      rw [hq]
  unfold State.stillCycle State.tun
  rw [ht]
  simp only [waits]

/-- Each tun of a walk that still stands is blocked. -/
theorem waits_of_stillCycle {s : State} {w : Walk} (h : s.stillCycle w = true) {k : Nat} (hk : k ∈ w.tuns) :
    (s.tun k).phase = .waiting := by
  obtain ⟨e, he, ha⟩ := List.mem_filterMap.1 hk
  unfold State.stillCycle at h
  have still := List.all_eq_true.1 h e he
  cases agent : e.agent with
  | queue q => rw [agent] at ha; cases ha
  | tun t =>
    rw [agent] at ha still
    cases ha
    cases hw : s.waitOf (.tun k) with
    | none => rw [hw] at still; cases still
    | some x => exact (waitOf_tun hw).1

/-- Several tuns record a walk in TUN_FCYC (R68). -/
def State.recordCycle (s : State) (ts : List Nat) (p : List CycEntry) : State :=
  ts.foldl (fun s t => s.modTun t fun u => { u with fcyc := p }) s

theorem recordCycle_spec (s : State) (ts : List Nat) (p : List CycEntry) :
    s.recordCycle ts p = { s with tuns := (s.recordCycle ts p).tuns }
      ∧ ∀ k, (s.recordCycle ts p).tun k = if k ∈ ts then { s.tun k with fcyc := p } else s.tun k := by
  induction ts generalizing s with
  | nil => exact ⟨rfl, fun k => rfl⟩
  | cons t ts ih =>
    obtain ⟨frame, tuns⟩ := ih (s.modTun t fun u => { u with fcyc := p })
    refine ⟨frame, fun k => (tuns k).trans ?_⟩
    by_cases hk : k = t
    · subst hk
      rw [modTun_tun_same]
      simp
    · rw [modTun_tun_other _ _ hk]
      simp [hk]

/-- `v` is `s` with some of its tuns halted for faults. -/
structure State.SomeHalt (s v : State) : Prop where
  kept : ∀ k, (v.tun k).kept = (s.tun k).kept
  phase : ∀ k, (v.tun k).phase = (s.tun k).phase ∨ (v.tun k).phase = .haltedFault
  frame : s.TunFrame v
  raised : s.fault.raised ⊆ v.fault.raised
  ftc : v.time.ftc = s.time.ftc

namespace State.SomeHalt

theorem refl (s : State) : s.SomeHalt s := ⟨fun _ => rfl, fun _ => .inl rfl, rfl, List.Subset.refl _, rfl⟩

theorem trans {s v u : State} (h : s.SomeHalt v) (g : v.SomeHalt u) : s.SomeHalt u where
  kept k := (g.kept k).trans (h.kept k)
  phase k := (g.phase k).elim (fun same => same ▸ h.phase k) .inr
  frame := h.frame.trans g.frame
  raised := List.Subset.trans h.raised g.raised
  ftc := g.ftc.trans h.ftc

theorem now {s v : State} (h : s.SomeHalt v) : v.now = s.now := by
  have frame := h.frame
  unfold State.TunFrame at frame
  rw [frame]
  rfl

theorem walks {s v : State} (h : s.SomeHalt v) : v.walks = s.walks := by
  have frame := h.frame
  unfold State.TunFrame at frame
  rw [frame]

end State.SomeHalt

/-- A fault halts a tun that computes, and leaves one that a fault has halted (R59). -/
theorem haltFault_someHalt {s : State} {t : Nat} (h : (s.tun t).haltable = true ∨ (s.tun t).phase = .haltedFault) :
    s.SomeHalt (s.haltFault t) ∧ ((s.haltFault t).tun t).phase = .haltedFault := by
  rcases h with h | h
  · have halts := haltFaultAt_halts (s.tunCycle t) h
    refine ⟨⟨fun k => ?_, fun k => ?_, halts.frame, halts.raised, halts.ftc⟩, halts.phase⟩
    · by_cases hk : k = t
      · subst hk; exact halts.tun
      · exact congrArg Tun.kept (halts.other k hk)
    · by_cases hk : k = t
      · subst hk; exact .inr halts.phase
      · exact .inl (congrArg Tun.phase (halts.other k hk))
  · have same : s.haltFault t = s := by
      unfold State.haltFault State.haltFaultAt
      dsimp only
      exact if_pos (by rw [h]; rfl)
    rw [same]
    exact ⟨.refl s, h⟩

/-- A fault halts each of several tuns that compute (R68). -/
theorem haltFaults_halt (ts : List Nat) (s : State)
    (h : ∀ k ∈ ts, (s.tun k).haltable = true ∨ (s.tun k).phase = .haltedFault) :
    s.SomeHalt (ts.foldl State.haltFault s) ∧ ∀ k ∈ ts, ((ts.foldl State.haltFault s).tun k).phase = .haltedFault := by
  induction ts generalizing s with
  | nil => exact ⟨.refl s, fun k hk => absurd hk List.not_mem_nil⟩
  | cons t ts ih =>
    obtain ⟨one, halted⟩ := haltFault_someHalt (h t (List.mem_cons_self ..))
    obtain ⟨rest, all⟩ := ih (s.haltFault t) fun k hk => by
      refine (one.phase k).elim (fun same => ?_) .inr
      unfold Tun.haltable
      rw [same]
      exact h k (List.mem_cons_of_mem _ hk)
    refine ⟨one.trans rest, fun k hk => ?_⟩
    rcases List.mem_cons.1 hk with rfl | hk
    · exact (rest.phase k).elim (fun same => same.trans halted) id
    · exact all k hk

/-- The waits of the queues on a walk end with STATUS 7 (R68, R337). -/
def State.endCycleWaits (s : State) (p : List CycEntry) : State :=
  p.foldl (fun s e => match e.agent with | .queue q => s.waitEnds q 7 | .tun _ => s) s

theorem endCycleWaits_frame (s : State) (p : List CycEntry) :
    s.endCycleWaits p = { s with sqs := (s.endCycleWaits p).sqs } := by
  induction p generalizing s with
  | nil => rfl
  | cons e p ih =>
    unfold State.endCycleWaits at *
    rw [List.foldl_cons]
    cases e.agent with
    | tun t => exact ih s
    | queue q => exact ih (s.waitEnds q 7)

/-- What a closed walk that still stands leads to (R68): its tuns, of which `h` is the first, halt. -/
def State.breakCycle (s : State) (w : Walk) (h : Nat) : State :=
  (w.tuns.foldl State.haltFault ((s.recordCycle w.tuns w.path).raise (srcTun h 1) (2 ^ 31 + w.path.length))).endCycleWaits
    w.path

section
variable {s : State} (hs : s.alive = true) {a : Agent} {w : Walk} {c h : Nat} {ts : List Nat} (hw : s.walks = [w])
  (ho : w.origin = a) (hc : w.closed = some c) (ht : w.tuns = h :: ts)
include hs hw ho hc ht

/-- FLAG_CYCLE_RECHECK of a walk that stands alone: 4,000 ticks after it closed it is taken out. -/
theorem exec_flagCycleRecheck : ∃ r : State, r.walks = [] ∧ r.tuns = s.tuns ∧ r.sqs = s.sqs ∧ r.fault = s.fault
    ∧ r.now = max s.now (c + 4000)
    ∧ exec (.flagCycleRecheck a) s = .next (if s.stillCycle w then r.breakCycle w h else r) := by
  have alone : (s.after (c + 4000)).setWalk w none = { s.after (c + 4000) with walks := [] } :=
    setWalk_alone ((after_walks ..).trans hw)
  have still : ((s.after (c + 4000)).setWalk w none).stillCycle w = s.stillCycle w := by
    rw [alone]
    exact stillCycle_congr (after_tuns ..) (after_sqs ..) w
  have found : s.walks.find? (fun w => w.origin == a && w.closed.isSome) = some w := by
    rw [hw]
    simp [ho, hc]
  have lowest : (s.walks.any fun v => v.closed.isSome && v.same w && decide (agentCode v.origin < agentCode w.origin))
      = false := by
    rw [hw]
    simp
  have step : exec (.flagCycleRecheck a) s = .next (if s.stillCycle w then
      ((s.after (c + 4000)).setWalk w none).breakCycle w h else (s.after (c + 4000)).setWalk w none) := by
    show execFlagCycleRecheck a s = _
    unfold execFlagCycleRecheck
    rw [found]
    dsimp only
    rw [if_neg (by rw [hs]; exact Bool.false_ne_true), lowest, hc, ht]
    rw [Option.getD_some, still, Bool.false_or]
    cases s.stillCycle w
    · rfl
    · unfold State.breakCycle State.recordCycle State.endCycleWaits
      rw [ht]
      rfl
  refine ⟨_, ?_, ?_, ?_, ?_, ?_, step⟩
  · rw [alone]
  · rw [alone]; exact after_tuns ..
  · rw [alone]; exact after_sqs ..
  · rw [alone]; exact after_fault ..
  · rw [alone]; exact after_now ..

theorem flagCycleRecheck_gone (still : s.stillCycle w = false) : Answers (.flagCycleRecheck a) s fun v =>
    v.walks = [] ∧ v.tuns = s.tuns ∧ v.sqs = s.sqs ∧ v.fault = s.fault := by
  obtain ⟨r, walks, tuns, sqs, fault, -, step⟩ := exec_flagCycleRecheck hs hw ho hc ht
  rw [if_neg (by rw [still]; exact Bool.false_ne_true)] at step
  exact ⟨r, step, walks, tuns, sqs, fault⟩

theorem flagCycleRecheck_halts (still : s.stillCycle w = true) : Answers (.flagCycleRecheck a) s fun v =>
    (∀ k ∈ w.tuns, (v.tun k).phase = .haltedFault ∧ (v.tun k).fcyc = w.path ∧ (v.tun k).flags = (s.tun k).flags)
      ∧ v.walks = [] ∧ v.now = max s.now (c + 4000)
      ∧ v.faultRec (srcTun h 1) (2 ^ 31 + w.path.length) ∈ v.fault.raised := by
  obtain ⟨r, walks, tuns, -, -, now, step⟩ := exec_flagCycleRecheck hs hw ho hc ht
  rw [if_pos still] at step
  obtain ⟨recFrame, recTun⟩ := recordCycle_spec r w.tuns w.path
  have ofS (k : Nat) : r.tun k = s.tun k := by unfold State.tun; rw [tuns]
  unfold State.breakCycle at step
  generalize r.recordCycle w.tuns w.path = r1 at *
  have recNow : r1.now = r.now := by rw [recFrame]; rfl
  have recWalks : r1.walks = r.walks := by rw [recFrame]
  obtain ⟨some_, all⟩ := haltFaults_halt w.tuns (r1.raise (srcTun h 1) (2 ^ 31 + w.path.length)) fun k hk =>
    .inl (haltable_of_waiting (by
      show (r1.tun k).phase = _
      rw [recTun, if_pos hk, ofS]
      exact waits_of_stillCycle still hk))
  generalize w.tuns.foldl State.haltFault (r1.raise (srcTun h 1) (2 ^ 31 + w.path.length)) = r2 at *
  have ends := endCycleWaits_frame r2 w.path
  generalize r2.endCycleWaits w.path = v at *
  have same (k : Nat) : v.tun k = r2.tun k := by rw [ends]; rfl
  have fault : v.fault = r2.fault := by rw [ends]
  have nowV : v.now = r1.now := Eq.trans (by rw [ends]; rfl) some_.now
  refine ⟨v, step, fun k hk => ?_, ?_, nowV.trans (recNow.trans now), ?_⟩
  · have kept : (r2.tun k).kept = Tun.kept { s.tun k with fcyc := w.path } :=
      (some_.kept k).trans (congrArg Tun.kept ((recTun k).trans ((if_pos hk).trans (by rw [ofS]))))
    rw [same]
    exact ⟨all k hk, (congrArg Tun.fcyc kept :), (congrArg Tun.flags kept :)⟩
  · rw [show v.walks = r2.walks by rw [ends]]
    exact some_.walks.trans (recWalks.trans walks)
  · rw [faultRec_of_ftc (s := r1) (Eq.trans (by rw [ends]) some_.ftc) nowV, fault]
    exact some_.raised (List.mem_append_right _ (List.mem_singleton.2 rfl))

end

/-- Settles O48: a raise, a wait, a hop of a walk, a closed walk and the stall limit, one lemma for each case. -/
theorem flagsAndWaits : Obligations.FlagsAndWaits := by
  unfold Obligations.FlagsAndWaits
  intro s hs
  refine ⟨fun r rest h => ⟨flagRaiseLand_asleep hs h, flagRaiseLand_adds hs h, flagRaiseLand_overflows hs h⟩,
    fun t n f h met => flagWaitResume_tun hs met rfl h,
    fun q t n f h met going => flagWaitResume_queue hs met h going,
    fun a w e hw he => ⟨flagWalkHop_ends hs hw he, flagWalkHop_closes hs hw he,
      fun b t f n ho hb hn hl => flagWalkHop_goesOn hs hw he ho hb hn hl,
      fun b ho hb hn => flagWalkHop_meetsRunning hs hw he ho hb hn⟩,
    fun a w c h ts hw ho hc ht => ⟨flagCycleRecheck_halts hs hw ho hc ht, flagCycleRecheck_gone hs hw ho hc ht⟩,
    fun a t f n h met => flagWaitTimeout_met h met,
    fun t f n h unmet => flagWaitTimeout_tun hs unmet h,
    fun q t f n h unmet => flagWaitTimeout_queue hs unmet h⟩

end Sys2Proof.Machine

namespace Sys2Proof.Machine

/-! ## What an instruction of a tun finds once it has issued (R51, R97) -/

section
variable (a : Tun) (x : Slot) (new : List InFlight)

@[simp] theorem issuedAs_lane (r i : Nat) : (a.issuedAs x new).lane r i = a.lane r i := by
  unfold Tun.lane
  rw [issuedAs_vregs]
@[simp] theorem issuedAs_srParams : (a.issuedAs x new).srParams = a.srParams := by
  unfold Tun.srParams
  rw [issuedAs_params]
@[simp] theorem issuedAs_acc : (a.issuedAs x new).acc = a.acc := by
  obtain ⟨_, _, _, h⟩ := issuedAs_eq a x new
  rw [h]
@[simp] theorem issuedAs_digItems : (a.issuedAs x new).digItems = a.digItems := by
  obtain ⟨_, _, _, h⟩ := issuedAs_eq a x new
  rw [h]
@[simp] theorem issuedAs_digLayer : (a.issuedAs x new).digLayer = a.digLayer := by
  obtain ⟨_, _, _, h⟩ := issuedAs_eq a x new
  rw [h]

end

/-! ## Digest items (R317) -/

/-- The sequencer's way does not depend on the digest. -/
theorem foldItem_advance (pos id layer : Nat) (e : Entry) (a : Tun) (pc : Pc) (w : Nat) :
    (a.foldItem pos id layer e).advance pc w = (a.advance pc w).foldItem pos id layer e := by
  unfold Tun.advance
  rw [show (a.foldItem pos id layer e).nest pc = a.nest pc from rfl]
  dsimp only [Tun.foldItem]
  repeat' split
  all_goals rfl

/-- An item folds in alike before and after the sequencer has moved on. -/
theorem foldItem_issuedAs (pos id layer : Nat) (e : Entry) (a : Tun) (x : Slot) (new : List InFlight) :
    (a.issuedAs x new).foldItem pos id layer e = (a.foldItem pos id layer e).issuedAs x new := by
  unfold Tun.issuedAs
  rw [foldItem_advance]
  rfl

theorem blockPos_of_onlyTun {o v : State} {t : Nat} {a : Tun} (h : o.onlyTun v t a) : v.blockPos = o.blockPos := by
  rw [h.eq]
  rfl

/-- An entry of the layer of the open digest, or the first of one, folds in and closes nothing (R317, R319). -/
theorem State.onlyTun.digestItem {o v : State} {t layer : Nat} {a : Tun} {x : Slot} {new : List InFlight}
    (h : o.onlyTun v t (a.issuedAs x new)) (same : a.digItems = 0 ∨ a.digLayer = layer) (e : Entry) :
    o.onlyTun (v.digestItem t layer e) t ((a.foldItem o.blockPos t layer e).issuedAs x new) := by
  have stays : ¬ ((v.tun t).digItems != 0 && (v.tun t).digLayer != layer) = true := by
    rw [h.tun, issuedAs_digItems, issuedAs_digLayer]
    rcases same with none_ | this <;> simp [*]
  unfold State.digestItem
  dsimp only
  rw [if_neg stays, blockPos_of_onlyTun h, ← foldItem_issuedAs]
  exact h.modTun _

end Sys2Proof.Machine

namespace Sys2Proof.Machine

/-! ## Loads of tiles and scales (R90, R91) -/

/-- MLDS and MLDW of a tile that is free (R91). -/
theorem State.onlyTun.loadRow {o v : State} {t : Nat} {u w : Tun} {x : Slot} {e : Entry}
    (hv : o.onlyTun v t (u.issuedAs x [])) (hr : u.read0 x.w x.cycle = some (e, w)) {isW : Bool} {tile : Nat}
    (free : u.busyOf x.cycle [if isW then 4 + tile else tile] = none) (row : Nat) :
    o.onlyTun (v.loadRow t x isW tile row) t (w.issuedAs x
      [⟨x.cycle, x.cycle + 1, .tileRow isW tile row (modeFmt (insMode x.w)) e, 0, x.pc⟩]) := by
  unfold State.loadRow
  dsimp only
  rw [read0_of_onlyTun hv hr, hv.tun, issuedAs_busyOf, free]
  exact (hv.setTun _).fly 1 _ _

/-! ## Products (R85, R94, R130, R132) -/

/-- The first cycle from `c` on in which all of `ps` have completed. -/
def afterAll (c : Nat) (ps : List Product) : Nat := ps.foldl (fun c p => max c (p.complete + 1)) c

theorem le_afterAll (c : Nat) (ps : List Product) : c ≤ afterAll c ps := by
  induction ps generalizing c with
  | nil => exact le_rfl
  | cons p ps ih => exact (Nat.le_max_left c _).trans (ih _)

theorem complete_lt_afterAll {p : Product} {ps : List Product} (h : p ∈ ps) (c : Nat) : p.complete < afterAll c ps := by
  induction ps generalizing c with
  | nil => cases h
  | cons q ps ih =>
    rcases List.mem_cons.1 h with rfl | hp
    · exact (Nat.le_max_right c _).trans (le_afterAll _ ps)
    · exact ih hp _

/-- That cycle is `c`, or follows the completion of one of them. -/
theorem afterAll_attained (c : Nat) (ps : List Product) :
    afterAll c ps = c ∨ ∃ p ∈ ps, p.complete + 1 = afterAll c ps := by
  induction ps generalizing c with
  | nil => exact .inl rfl
  | cons p ps ih =>
    rcases ih (max c (p.complete + 1)) with h | ⟨q, hq, h⟩
    · rcases max_choice c (p.complete + 1) with hc | hp
      · exact .inl (h.trans hc)
      · exact .inr ⟨p, List.mem_cons_self, (h.trans hp).symm⟩
    · exact .inr ⟨q, List.mem_cons_of_mem p hq, h⟩

/-- The cycle from which an engine is free for its next product. -/
def Tun.engineFree (u : Tun) (sparse : Bool) : Nat := if sparse then u.sparseFree else u.denseFree

/-- The product at the slot `x` goes to the sparse engine (R125, R132). -/
def Tun.goesSparse (u : Tun) (x : Slot) (bm : Option Nat) : Bool :=
  bm.isSome || (u.tileS (modeS (insMode x.w))).sparse

/-- The product that MMT, or MMTB with its bitmap, issues at the slot `x` of tun `u` (R94). -/
def Tun.newProduct (u : Tun) (x : Slot) (bm : Option Nat) : Product :=
  let m := insMode x.w
  let st := u.tileS (modeS m)
  let wt := u.tileW (modeW m)
  let sparse := u.goesSparse x bm
  let fb := sparse && bm.isNone && !(fmtIsInt st.fmt && fmtIsInt wt.fmt && !modeSs m && !modeWs m)
    && needFallback st wt (modeSs m) (modeWs m)
  let times := productTimes st wt sparse fb bm
  let start := afterAll (max (x.cycle + 1) (u.engineFree sparse))
    ((if sparse then u.dense else u.sparse).filter fun p => p.acc == modeA m)
  { issue := x.cycle, start := start, busy := times.1, complete := start + times.2, sTile := modeS m,
    wTile := modeW m, acc := modeA m, s := st, w := wt, ss := modeSs m, ws := modeWs m, sparse := sparse,
    fallback := fb, bitmap := bm }

/-- A product joins the queue of its engine, which is free after it (R94). -/
def Tun.enqueue (u : Tun) (p : Product) : Tun :=
  if p.sparse then { u with sparse := u.sparse ++ [p], sparseFree := p.start + p.busy }
  else { u with dense := u.dense ++ [p], denseFree := p.start + p.busy }

/-- What the product at `x` reads and writes is not pending, and its operands are complete (R85). -/
structure Tun.OperandsFree (u : Tun) (x : Slot) : Prop where
  s : u.pending x.cycle (modeS (insMode x.w)) = false
  w : u.pending x.cycle (4 + modeW (insMode x.w)) = false
  acc : u.pending x.cycle (8 + modeA (insMode x.w)) = false
  sComplete : (u.tileS (modeS (insMode x.w))).complete = true
  wComplete : (u.tileW (modeW (insMode x.w))).complete = true

/-- An engine's wait queue has room in cycle `c` (R94). -/
def Tun.hasRoom (u : Tun) (c : Nat) (sparse : Bool) : Prop := ((u.engine sparse).filter fun p => c < p.start).length < 4

/-- A product that nothing stops joins the queue of its engine. -/
theorem product_eq {s : State} {t : Nat} {u : Tun} {x : Slot} {bm : Option Nat} (hu : s.tun t = u)
    (free : u.OperandsFree x) (room : u.hasRoom x.cycle (u.goesSparse x bm)) :
    s.product t x bm = s.modTun t fun u' => u'.enqueue (u.newProduct x bm) := by
  obtain ⟨hs, hw, ha, cs, cw⟩ := free
  subst hu
  unfold State.product
  dsimp only
  rw [if_neg (by simp [hs, cs]), if_neg (by simp [hw, cw]), if_neg (by simp [ha])]
  exact if_neg (Nat.not_le.2 room)

/-- A product issues alike before and after the sequencer has moved on. -/
theorem newProduct_issuedAs (u : Tun) (x : Slot) (bm : Option Nat) :
    (u.issuedAs x []).newProduct x bm = u.newProduct x bm := by
  obtain ⟨_, _, _, h⟩ := issuedAs_eq u x []
  rw [h]
  rfl

/-- A product takes at least 7 cycles from its start to its completion (R94). -/
theorem le_productTimes (s w : Tile) (sparse fb : Bool) (bm : Option Nat) : 7 ≤ (productTimes s w sparse fb bm).2 := by
  unfold productTimes
  dsimp only
  repeat' split
  all_goals omega

section
variable {u : Tun} {x : Slot} {bm : Option Nat}

/-- A product of engine `b` starts after its issue, once its engine is free and those on its accumulator
tile in the other engine have completed (R94). -/
theorem newProduct_start {b : Bool} (h : u.goesSparse x bm = b) :
    (∀ q ∈ if b then u.dense else u.sparse, q.acc = (u.newProduct x bm).acc → q.complete < (u.newProduct x bm).start)
      ∧ x.cycle < (u.newProduct x bm).start ∧ u.engineFree b ≤ (u.newProduct x bm).start := by
  subst h
  have least := le_afterAll (max (x.cycle + 1) (u.engineFree (u.goesSparse x bm)))
    ((if u.goesSparse x bm then u.dense else u.sparse).filter fun p => p.acc == modeA (insMode x.w))
  refine ⟨fun q hq ha => ?_, (Nat.le_max_left _ _).trans least, (Nat.le_max_right _ _).trans least⟩
  have same : (q.acc == modeA (insMode x.w)) = true := beq_iff_eq.2 ha
  exact complete_lt_afterAll (List.mem_filter.2 ⟨hq, same⟩) _

/-- How long the dense engine takes (R94). -/
theorem newProduct_dense (h : u.goesSparse x bm = false) :
    (u.newProduct x bm).busy = denseTime (u.newProduct x bm).s (u.newProduct x bm).w
      ∧ (u.newProduct x bm).complete
        = (u.newProduct x bm).start + denseTime (u.newProduct x bm).s (u.newProduct x bm).w + 7 := by
  have times (s w : Tile) (fb : Bool) : productTimes s w (u.goesSparse x bm) fb bm
      = (denseTime s w, denseTime s w + 7) := by rw [h]; rfl
  exact ⟨congrArg Prod.fst (times _ _ _), congrArg (fun y => _ + y.2) (times _ _ _)⟩

theorem Tun.OperandsFree.issuedAs (free : u.OperandsFree x) : (u.issuedAs x []).OperandsFree x := by
  obtain ⟨_, _, _, h⟩ := issuedAs_eq u x []
  rw [h, List.append_nil]
  obtain ⟨hs, hw, ha, cs, cw⟩ := free
  exact ⟨hs, hw, ha, cs, cw⟩

theorem goesSparse_issuedAs (bm : Option Nat) : (u.issuedAs x []).goesSparse x bm = u.goesSparse x bm := by
  obtain ⟨_, _, _, h⟩ := issuedAs_eq u x []
  rw [h]
  rfl

theorem hasRoom_issuedAs (c : Nat) (b : Bool) : (u.issuedAs x []).hasRoom c b ↔ u.hasRoom c b := by
  unfold Tun.hasRoom Tun.engine
  rw [issuedAs_dense, issuedAs_sparse]

end

/-- A product that nothing stops issues (R85, R94). -/
theorem State.onlyTun.product {o v : State} {t : Nat} {u : Tun} {x : Slot} (hv : o.onlyTun v t (u.issuedAs x []))
    {bm : Option Nat} (free : u.OperandsFree x) (room : u.hasRoom x.cycle (u.goesSparse x bm)) :
    o.onlyTun (v.product t x bm) t ((u.issuedAs x []).enqueue (u.newProduct x bm)) := by
  rw [product_eq hv.tun free.issuedAs (by rwa [goesSparse_issuedAs, hasRoom_issuedAs]), newProduct_issuedAs]
  exact hv.modTun _

theorem enqueue_haltable (a : Tun) (p : Product) : (a.enqueue p).haltable = a.haltable := by
  unfold Tun.enqueue
  split <;> rfl

theorem enqueue_of_dense (a : Tun) {p : Product} (h : p.sparse = false) :
    a.enqueue p = { a with dense := a.dense ++ [p], denseFree := p.start + p.busy } := by
  unfold Tun.enqueue
  rw [h]
  rfl

theorem enqueue_of_sparse (a : Tun) {p : Product} (h : p.sparse = true) :
    a.enqueue p = { a with sparse := a.sparse ++ [p], sparseFree := p.start + p.busy } := by
  unfold Tun.enqueue
  rw [h]
  rfl

/-! ## The matrix instructions (R90 to R95, R132) -/

section
variable {s o : State} {t : Fin 192} {x : Slot} {u : Tun} (ho : o = s.issuing t x) (hu : u = o.tun t)
include ho hu

section
variable {e : Entry} {w : Tun} (hr : u.read0 x.w x.cycle = some (e, w))
include hr

theorem mlds_answers (h : s.canIssue t 0x20 x) (free : u.busyOf x.cycle [modeS (insMode x.w)] = none) :
    Answers (.mlds t) s fun v => o.onlyTun v t (w.issuedAs x [⟨x.cycle, x.cycle + 1,
      .tileRow false (modeS (insMode x.w)) ((s.tun t).imm x.pc x.w % 64) (modeFmt (insMode x.w)) e, 0, x.pc⟩]) :=
  answers_onlyTun ho hu h rfl (by decide) (by decide) ((issuedAs_haltable ..).trans (read0_haltable hr))
    fun _ hv => hv.loadRow hr (isW := false) free _

theorem mldw_answers (h : s.canIssue t 0x21 x) (free : u.busyOf x.cycle [4 + modeW (insMode x.w)] = none) :
    Answers (.mldw t) s fun v => o.onlyTun v t (w.issuedAs x [⟨x.cycle, x.cycle + 1,
      .tileRow true (modeW (insMode x.w)) ((s.tun t).imm x.pc x.w % 64) (modeFmt (insMode x.w)) e, 0, x.pc⟩]) :=
  answers_onlyTun ho hu h rfl (by decide) (by decide) ((issuedAs_haltable ..).trans (read0_haltable hr))
    fun _ hv => hv.loadRow hr (isW := true) free _

/-- MLDSC: a slot of the scales of S or of W (R91). -/
theorem mldsc_answers (h : s.canIssue t 0x22 x) (free : u.busyOf x.cycle
      [if bitOf (insMode x.w) 8 then 4 + modeW (insMode x.w) else modeS (insMode x.w)] = none) :
    Answers (.mldsc t) s fun v => o.onlyTun v t (w.issuedAs x [⟨x.cycle, x.cycle + 1,
      .slot (bitOf (insMode x.w) 8) (if bitOf (insMode x.w) 8 then modeW (insMode x.w) else modeS (insMode x.w))
        ((s.tun t).imm x.pc x.w % 4) (b2n (bitOf (insMode x.w) 7)) (bitsOf (insMode x.w) 6 4)
        (bitsOf (insMode x.w) 3 2) e, 0, x.pc⟩]) := by
  have tile : (if bitOf (insMode x.w) 8 then
        4 + (if bitOf (insMode x.w) 8 then modeW (insMode x.w) else modeS (insMode x.w))
      else if bitOf (insMode x.w) 8 then modeW (insMode x.w) else modeS (insMode x.w))
      = if bitOf (insMode x.w) 8 then 4 + modeW (insMode x.w) else modeS (insMode x.w) := by
    cases bitOf (insMode x.w) 8 <;> rfl
  refine answers_onlyTun ho hu h rfl (by decide) (by decide) ((issuedAs_haltable ..).trans (read0_haltable hr))
    fun v hv => ?_
  dsimp only
  rw [tile, read0_of_onlyTun hv hr, hv.tun, issuedAs_busyOf, free]
  exact (hv.setTun _).fly 1 _ _

end

theorem mmt_answers (h : s.canIssue t 0x23 x) (free : u.OperandsFree x)
    (room : u.hasRoom x.cycle (u.goesSparse x none)) :
    Answers (.mmt t) s fun v => o.onlyTun v t ((u.issuedAs x []).enqueue (u.newProduct x none)) :=
  answers_onlyTun ho hu h rfl (by decide) (by decide) ((enqueue_haltable ..).trans (issuedAs_haltable ..))
    fun _ hv => hv.product free room

theorem mmtb_answers {imm : Nat} (hi : imm = (s.tun t).imm x.pc x.w) (h : s.canIssue t 0x24 x)
    (free : u.OperandsFree x) (room : u.hasRoom x.cycle true) :
    Answers (.mmtb t) s fun v => o.onlyTun v t ((u.issuedAs x []).enqueue (u.newProduct x (some imm))) := by
  subst hi
  exact answers_onlyTun ho hu h rfl (by decide) (by decide) ((enqueue_haltable ..).trans (issuedAs_haltable ..))
    fun _ hv => hv.product (bm := some _) free room

/-- MST: the converted segment, pushed and folded into the digest, and its zeroing (R92, R317). -/
theorem mst_answers (h : s.canIssue t 0x25 x) (free : u.busyOf x.cycle [8 + modeA (insMode x.w)] = none)
    {imm n c0 e f : Nat} {cells : List Nat} (hi : imm = (s.tun t).imm x.pc x.w)
    (hn : n = fmtLanes (modeFmt (insMode x.w))) (hc : c0 = n * bitsOf imm 7 6)
    (hcells : cells = (List.range n).map fun i => imm % 64 * 64 + c0 + i)
    (he : convertWords (modeFmt (insMode x.w)) (bitOf (insMode x.w) 21) (bitOf (insMode x.w) 23) (bitsOf imm 31 16)
      (u.srParams.1 + 64 * (imm % 64) + c0) u.srParams.2
      (cells.map fun k => (Tab.get 0 u.acc (modeA (insMode x.w) * 4096 + k)).toNat) = (e, f))
    (same : u.digItems = 0 ∨ u.digLayer = bitsOf imm 31 16) : Answers (.mst t) s fun v => o.onlyTun v t
      ((u.foldItem o.blockPos t (bitsOf imm 31 16) (BitVec.ofNat 512 e)).issuedAs x
        (⟨x.cycle, x.cycle + 3, .push (dstsOf x.w) (BitVec.ofNat 512 e), engineBits .dense f, x.pc⟩ ::
          (if bitOf (insMode x.w) 22 then [⟨x.cycle, x.cycle + 1, .accZero (modeA (insMode x.w)) cells, 0, x.pc⟩]
            else []))) := by
  subst hi hn hc hcells
  refine answers_onlyTun ho hu h rfl (by decide) (by decide) (issuedAs_haltable ..) fun v hv => ?_
  dsimp only
  rw [hv.tun, issuedAs_busyOf, free]
  simp only [issuedAs_srParams, issuedAs_acc, he]
  have pushed := hv.fly 3 (.push (dstsOf x.w) (BitVec.ofNat 512 e)) (engineBits .dense f)
  refine State.onlyTun.digestItem ?_ same _
  split
  · exact pushed.fly 1 _ _
  · exact pushed

theorem mzero_answers (h : s.canIssue t 0x26 x) (free : u.busyOf x.cycle [8 + modeA (insMode x.w)] = none) :
    Answers (.mzero t) s fun v => o.onlyTun v t (u.issuedAs x
      [⟨x.cycle, x.cycle + 1, .accZero (modeA (insMode x.w)) (List.range 4096), 0, x.pc⟩]) := by
  refine answers_onlyTun ho hu h rfl (by decide) (by decide) (issuedAs_haltable ..) fun v hv => ?_
  dsimp only
  rw [hv.tun, issuedAs_busyOf, free]
  exact hv.fly 1 _ _

/-- MSETF: the raise lands once the products of the tun have completed (R95). -/
theorem msetf_answers (h : s.canIssue t 0x27 x) (own : o.flagOwner t (insMode x.w % 256) = (1, t.val)) :
    Answers (.msetf t) s fun v => o.onlyTun v t (u.issuedAs x
      [⟨x.cycle, x.cycle + (afterAll (x.cycle + 1) (u.dense ++ u.sparse) - x.cycle),
        .raise (insMode x.w % 256) ((s.tun t).imm x.pc x.w % 65536), 0, x.pc⟩]) := by
  refine answers_onlyTun ho hu h rfl (by decide) (by decide) (issuedAs_haltable ..) fun v hv => ?_
  dsimp only
  rw [ownerFault_of_owner ((hv.flagOwner _ _).trans own), hv.tun, issuedAs_dense, issuedAs_sparse]
  exact hv.fly _ _ _

end

/-- Settles O43: each instruction's own lemma; a product's place by what holds of `Tun.newProduct`, MSETF's
cycle by what holds of `afterAll`. -/
theorem tunMatrixInstructions : Obligations.TunMatrixInstructions := by
  unfold Obligations.TunMatrixInstructions
  intro s o t x u m imm ho hu hm hi
  subst hm
  refine ⟨fun e w hr => ⟨fun h free => hi ▸ mlds_answers ho hu hr h free,
      fun h free => hi ▸ mldw_answers ho hu hr h free,
      fun h free => hi ▸ mldsc_answers ho hu hr h free⟩,
    fun ps pw pa cs cw => ?_,
    fun free => ⟨fun n c0 e f cells h hn hc hcells he same => mst_answers ho hu h free hi hn hc hcells he same,
      fun h => mzero_answers ho hu h free⟩, fun h own => ?_⟩
  · have free : u.OperandsFree x := ⟨ps, pw, pa, cs, cw⟩
    refine ⟨fun h dense room => ?_, fun h sparse room => ?_, fun h room => ?_⟩
    · have engine : u.goesSparse x none = false := dense
      obtain ⟨v, hv, only⟩ := mmt_answers ho hu h free (by rw [engine]; exact room)
      obtain ⟨behind, later, start⟩ := newProduct_start engine
      rw [enqueue_of_dense _ engine, issuedAs_dense] at only
      obtain ⟨busy, complete⟩ := newProduct_dense engine
      refine ⟨v, hv, u.newProduct x none, ?_, ?_, behind, rfl, rfl, rfl, rfl, engine, later, start, complete, ?_⟩
      · rw [only.tun]
      · rw [only.tun, ← issuedAs_sparse u x []]
      · rwa [busy] at only
    · have engine : u.goesSparse x none = true := sparse
      obtain ⟨v, hv, only⟩ := mmt_answers ho hu h free (by rw [engine]; exact room)
      obtain ⟨behind, later, start⟩ := newProduct_start engine
      rw [enqueue_of_sparse _ engine, issuedAs_sparse] at only
      refine ⟨v, hv, u.newProduct x none, ?_, ?_, behind, rfl, rfl, rfl, rfl, engine, later, start,
        Nat.add_le_add_left (le_productTimes ..) _, only⟩
      · rw [only.tun]
      · rw [only.tun, ← issuedAs_dense u x []]
    · obtain ⟨v, hv, only⟩ := mmtb_answers ho hu hi h free room
      obtain ⟨behind, later, start⟩ := newProduct_start (u := u) (x := x) (bm := some imm) rfl
      rw [enqueue_of_sparse _ rfl, issuedAs_sparse] at only
      refine ⟨v, hv, u.newProduct x (some imm), ?_, ?_, behind, rfl, rfl, rfl, rfl, rfl, later, start, ?_, only⟩
      · rw [only.tun]
      · rw [only.tun, ← issuedAs_dense u x []]
      · exact (Nat.add_assoc ..).symm
  · obtain ⟨v, hv, only⟩ := msetf_answers ho hu h own
    have later := le_afterAll (x.cycle + 1) (u.dense ++ u.sparse)
    have attained := afterAll_attained (x.cycle + 1) (u.dense ++ u.sparse)
    refine ⟨v, hv, _, Nat.le_sub_of_add_le' later, fun p hp => ?_, ?_, hi ▸ only⟩
    · have := complete_lt_afterAll hp (x.cycle + 1)
      omega
    · rw [Nat.add_sub_cancel' (Nat.le_of_succ_le later)]
      exact attained.imp_left fun h => by rw [h, Nat.add_sub_cancel_left]

end Sys2Proof.Machine

namespace Sys2Proof.Machine

/-! ## The vector instructions (R85, R96, R97) -/

/-- What a vector instruction puts in flight: the lanes that `f` gives for VD, and their flags. -/
def vecResult (x : Slot) (lat : Nat) (f : Nat → Nat × Nat) : InFlight :=
  ⟨x.cycle, x.cycle + lat, .vreg (modeVd (insMode x.w)) (vecLanes f), vecFlags f, x.pc⟩

/-- The lanes that are listed first and then read by number. -/
theorem map_getD_range (f : Nat → Nat × Nat) :
    (List.range 64).map (fun i => (i, word (((List.range 64).map f).getD i (0, 0)).1)) = vecLanes f :=
  List.map_congr_left fun i hi => by simp [List.getD, List.mem_range.1 hi]

/-- A lane-by-lane operation on VA, VB and VC. -/
def State.vectorABC (s : State) (t : Nat) (x : Slot) (lat : Nat) (f : Nat → Nat → Nat → Nat × Nat) : State :=
  let m := insMode x.w
  s.vectorOp t x [modeVa m, modeVb m, modeVc m] lat fun u i =>
    f (u.lane (modeVa m) i) (u.lane (modeVb m) i) (u.lane (modeVc m) i)

section
variable {o v : State} {t : Nat} {u : Tun} {x : Slot} (hv : o.onlyTun v t (u.issuedAs x []))
include hv

/-- A vector instruction whose registers are free puts in flight the lanes that `f` gives (R85, R97). -/
theorem State.onlyTun.vectorOp {rs : List Nat}
    (free : u.busyOf x.cycle ((rs ++ [modeVd (insMode x.w)]).map (24 + ·)) = none) (lat : Nat)
    (f : Tun → Nat → Nat × Nat) {g : Nat → Nat × Nat} (hf : ∀ i, f (u.issuedAs x []) i = g i) :
    o.onlyTun (v.vectorOp t x rs lat f) t (u.issuedAs x [vecResult x lat g]) := by
  unfold State.vectorOp
  dsimp only
  rw [hv.tun, issuedAs_busyOf, free, funext hf, map_getD_range]
  exact hv.fly lat _ _

theorem State.onlyTun.vectorA
    (free : u.busyOf x.cycle ([modeVa (insMode x.w), modeVd (insMode x.w)].map (24 + ·)) = none)
    (lat : Nat) (f : Nat → Nat × Nat) : o.onlyTun (v.vectorA t x lat f) t
      (u.issuedAs x [vecResult x lat fun i => f (u.lane (modeVa (insMode x.w)) i)]) :=
  hv.vectorOp (rs := [modeVa (insMode x.w)]) free lat _ fun i => by rw [issuedAs_lane]

theorem State.onlyTun.vectorAB
    (free : u.busyOf x.cycle ([modeVa (insMode x.w), modeVb (insMode x.w), modeVd (insMode x.w)].map (24 + ·)) = none)
    (lat : Nat) (f : Nat → Nat → Nat × Nat) : o.onlyTun (v.vectorAB t x lat f) t (u.issuedAs x [vecResult x lat
      fun i => f (u.lane (modeVa (insMode x.w)) i) (u.lane (modeVb (insMode x.w)) i)]) :=
  hv.vectorOp (rs := [modeVa (insMode x.w), modeVb (insMode x.w)]) free lat _ fun i => by
    rw [issuedAs_lane, issuedAs_lane]

theorem State.onlyTun.vectorABC (free : u.busyOf x.cycle ([modeVa (insMode x.w), modeVb (insMode x.w),
      modeVc (insMode x.w), modeVd (insMode x.w)].map (24 + ·)) = none) (lat : Nat) (f : Nat → Nat → Nat → Nat × Nat) :
    o.onlyTun (v.vectorABC t x lat f) t (u.issuedAs x [vecResult x lat fun i =>
      f (u.lane (modeVa (insMode x.w)) i) (u.lane (modeVb (insMode x.w)) i) (u.lane (modeVc (insMode x.w)) i)]) :=
  hv.vectorOp (rs := [modeVa (insMode x.w), modeVb (insMode x.w), modeVc (insMode x.w)]) free lat _ fun i => by
    rw [issuedAs_lane, issuedAs_lane, issuedAs_lane]

theorem State.onlyTun.vectorTree
    (free : u.busyOf x.cycle ([modeVa (insMode x.w), modeVd (insMode x.w)].map (24 + ·)) = none) (lat : Nat)
    (f : Nat → Nat → Nat × Nat) : o.onlyTun (v.vectorTree t x lat f) t (u.issuedAs x [vecResult x lat
      fun _ => treeReduce f ((List.range 64).map (u.lane (modeVa (insMode x.w))))]) := by
  have lanes : (u.issuedAs x []).lane (modeVa (insMode x.w)) = u.lane (modeVa (insMode x.w)) :=
    funext (issuedAs_lane u x [] _)
  unfold State.vectorTree
  dsimp only
  rw [hv.tun, lanes]
  exact hv.vectorOp (rs := [modeVa (insMode x.w)]) free lat _ fun _ => rfl

end

/-- Flags that are already there are not added again. -/
theorem foldl_lor_replicate (n y f : Nat) :
    (List.replicate n (y, f)).foldl (fun a z => Nat.lor a z.2) f = f := by
  induction n with
  | zero => rfl
  | succ n ih =>
    rw [List.replicate_succ, List.foldl_cons, show Nat.lor f (y, f).2 = f from Nat.or_self f, ih]

/-- Lanes that are all alike have the flags of one (R121). -/
theorem vecFlags_const (y f : Nat) : vecFlags (fun _ => (y, f)) = engineBits .vector f := by
  have all : (List.range 64).map (fun _ => (y, f)) = (y, f) :: List.replicate 63 (y, f) := List.map_const' ..
  unfold vecFlags
  rw [all, List.foldl_cons, show Nat.lor 0 (y, f).2 = f from Nat.zero_or f, foldl_lor_replicate]

/-- The command `c` is the vector instruction of opcode `op`, whose own action at the slot `x` is `act`
of its IMM. -/
def isVector (t : Fin 192) (x : Slot) (c : Instr) (op : Nat) (act : State → Nat → State) : Prop :=
  opUnit op = 2 ∧ ∃ body, (∀ s, exec c s = .next (s.issue t op body)) ∧ ∀ v imm, body v x imm = act v imm

section
variable {s o : State} {t : Fin 192} {x : Slot} {u : Tun} (ho : o = s.issuing t x) (hu : u = o.tun t)
include ho hu

/-- A vector instruction answers the state that its own action leaves, its tun still computing. -/
theorem isVector.answers {c : Instr} {op : Nat} {act : State → Nat → State} (hc : isVector t x c op act)
    (h : s.canIssue t op x) {b : Tun} {new : List InFlight} (hb : b.haltable = u.haltable)
    (acts : ∀ v, o.onlyTun v t (u.issuedAs x []) →
      o.onlyTun (act v ((s.tun t).imm x.pc x.w)) t (b.issuedAs x new)) :
    Answers c s fun v => o.onlyTun v t (b.issuedAs x new) := by
  obtain ⟨vector, body, step, eq⟩ := hc
  have other {k : Nat} (hk : opUnit k = 0) : op ≠ k := by
    rintro rfl
    exact absurd (vector.symm.trans hk) (by decide)
  refine answers_onlyTun ho hu h (step s) (other rfl) (other rfl) ((issuedAs_haltable b x new).trans hb) fun v hv => ?_
  rw [eq]
  exact acts v hv

/-- VBCAST of the pattern `y` with the flags `f` (R96, R97, R119). -/
theorem vbcast_answers (h : s.canIssue t 0x3A x) (free : u.busyOf x.cycle [24 + modeVd (insMode x.w)] = none)
    {y f : Nat}
    (hy : (if f32IsNan ((s.tun t).imm x.pc x.w) then (0x7FC00000, if isSnan 0 ((s.tun t).imm x.pc x.w) then 8 else 0)
      else ((s.tun t).imm x.pc x.w, 0)) = (y, f)) : Answers (.vbcast t) s fun v => o.onlyTun v t
        (u.issuedAs x [⟨x.cycle, x.cycle + 1, .vreg (modeVd (insMode x.w)) (vecLanes fun _ => (y, 0)),
          engineBits .vector f, x.pc⟩]) := by
  have vector : isVector t x (.vbcast t) 0x3A fun v imm => v.vectorOp t x [] 1 fun _ _ =>
      if f32IsNan imm then (0x7FC00000, if isSnan 0 imm then 8 else 0) else (imm, 0) :=
    ⟨rfl, _, fun _ => rfl, fun _ _ => rfl⟩
  refine vector.answers ho hu h rfl fun v hv => ?_
  rw [← vecFlags_const y f]
  exact hv.vectorOp (rs := []) (g := fun _ => (y, f)) free 1 _ fun _ => hy

/-- VLD: the converted part of SRC0 (R96, R97). -/
theorem vld_answers {e : Entry} {w : Tun} (h : s.canIssue t 0x30 x) (hr : u.read0 x.w x.cycle = some (e, w))
    (free : u.busyOf x.cycle [24 + modeVd (insMode x.w)] = none) {n : Nat} {ys : List (Nat × Nat)}
    (hn : n = fmtLanes (modeFmt (insMode x.w))) (hy : ys = (List.range n).map fun i =>
      loadLane (modeFmt (insMode x.w)) (entryElem e (fmtBits (modeFmt (insMode x.w))) i)) :
    Answers (.vld t) s fun v => o.onlyTun v t (w.issuedAs x [⟨x.cycle, x.cycle + 2,
      .vreg (modeVd (insMode x.w)) ((List.range n).map fun i =>
        (n * ((s.tun t).imm x.pc x.w % 4) + i, word (ys.getD i (0, 0)).1)),
      engineBits .vector (ys.foldl (fun a y => Nat.lor a y.2) 0), x.pc⟩]) := by
  subst hn hy
  refine answers_onlyTun ho hu h rfl (by decide) (by decide) ((issuedAs_haltable ..).trans (read0_haltable hr))
    fun v hv => ?_
  dsimp only
  rw [read0_of_onlyTun hv hr, hv.tun, issuedAs_busyOf, free]
  exact (hv.setTun _).fly 2 _ _

/-- VST: the converted part of VA, pushed and folded into the digest (R96, R97, R317). -/
theorem vst_answers (h : s.canIssue t 0x31 x) (free : u.busyOf x.cycle [24 + modeVa (insMode x.w)] = none)
    {n imm e f : Nat}
    (hi : imm = (s.tun t).imm x.pc x.w) (hn : n = fmtLanes (modeFmt (insMode x.w)))
    (he : convertWords (modeFmt (insMode x.w)) false (bitOf (insMode x.w) 23) (bitsOf imm 31 16)
      (u.srParams.1 + n * (imm % 4)) u.srParams.2
      ((List.range n).map fun i => u.lane (modeVa (insMode x.w)) (n * (imm % 4) + i)) = (e, f))
    (same : u.digItems = 0 ∨ u.digLayer = bitsOf imm 31 16) : Answers (.vst t) s fun v => o.onlyTun v t
      ((u.foldItem o.blockPos t (bitsOf imm 31 16) (BitVec.ofNat 512 e)).issuedAs x
        [⟨x.cycle, x.cycle + 3, .push (dstsOf x.w) (BitVec.ofNat 512 e), engineBits .vector f, x.pc⟩]) := by
  subst hn hi
  refine answers_onlyTun ho hu h rfl (by decide) (by decide) (issuedAs_haltable ..) fun v hv => ?_
  dsimp only
  rw [hv.tun, issuedAs_busyOf, free]
  simp only [issuedAs_srParams, issuedAs_lane, he]
  exact (hv.fly 3 _ _).digestItem same _

end

/-- Settles O44: the shared actions of the vector instructions put their lanes in flight; VLD and VST by a
lemma of their own. -/
theorem tunVectorInstructions : Obligations.TunVectorInstructions := by
  unfold Obligations.TunVectorInstructions
  intro s o t x u m imm ho hu hm hi
  subst hm
  have free {rs : List Nat} (h : o.vecFree t x rs) : u.busyOf x.cycle (rs.map (24 + ·)) = none := hu ▸ h
  refine ⟨fun e he h hf => ?_, fun e he h hf => ?_, fun e he h hf => ?_, fun h hf nan => ?_, fun h hf nan => ?_,
    fun e he h hf => ?_, fun n e w ys h hr hf hn hy => hi ▸ vld_answers ho hu h hr (free hf) hn hy,
    fun n e f h hf hn he same => vst_answers ho hu h (free hf) hi hn he same⟩
  case refine_1 =>
    have vector : isVector t x e.1 e.2.1 fun v _ => v.vectorAB t x e.2.2.1 e.2.2.2 := by
      simp only [List.mem_cons, List.not_mem_nil, or_false] at he
      rcases he with rfl | rfl | rfl | rfl | rfl | rfl
      all_goals exact ⟨rfl, _, fun _ => rfl, fun _ _ => rfl⟩
    exact vector.answers ho hu h rfl fun v hv => hv.vectorAB (free hf) _ _
  case refine_2 =>
    have vector : isVector t x e.1 e.2.1 fun v _ => v.vectorA t x 12 e.2.2 := by
      simp only [List.mem_cons, List.not_mem_nil, or_false] at he
      rcases he with rfl | rfl | rfl | rfl | rfl | rfl
      all_goals exact ⟨rfl, _, fun _ => rfl, fun _ _ => rfl⟩
    exact vector.answers ho hu h rfl fun v hv => hv.vectorA (free hf) _ _
  case refine_3 =>
    have vector : isVector t x e.1 e.2.1 fun v _ => v.vectorABC t x e.2.2.1 e.2.2.2 := by
      simp only [List.mem_cons, List.not_mem_nil, or_false] at he
      rcases he with rfl | rfl
      all_goals exact ⟨rfl, _, fun _ => rfl, fun _ _ => rfl⟩
    exact vector.answers ho hu h rfl fun v hv => hv.vectorABC (free hf) _ _
  case refine_4 => exact vbcast_answers (f := 0) ho hu h (free hf) (by rw [← hi, nan, if_neg Bool.false_ne_true])
  case refine_5 =>
    rw [show (if isSnan 0 imm then 0x800 else 0) = engineBits .vector (if isSnan 0 imm then 8 else 0) from
      (apply_ite (engineBits .vector) (isSnan 0 imm = true) 8 0).symm]
    exact vbcast_answers ho hu h (free hf) (by rw [← hi, nan, if_pos rfl])
  case refine_6 =>
    have vector : isVector t x e.1 e.2.1 fun v _ => v.vectorTree t x e.2.2.1 e.2.2.2 := by
      simp only [List.mem_cons, List.not_mem_nil, or_false] at he
      rcases he with rfl | rfl
      all_goals exact ⟨rfl, _, fun _ => rfl, fun _ _ => rfl⟩
    exact vector.answers ho hu h rfl fun v hv => hv.vectorTree (free hf) _ _

end Sys2Proof.Machine

namespace Sys2Proof.Machine

/-! # The memories and the state at reset -/

/-- Settles O4: every step keeps the invariant `State.Kept`, of which the canonical form is a part. -/
theorem hbmCanonicalKept : Obligations.HbmCanonicalKept := by
  unfold Obligations.HbmCanonicalKept
  intro s t hs ht
  obtain ⟨u, hu, -, hwf, -⟩ := step_kept s
  cases hu.symm.trans ht
  exact hwf hs

/-- Settles O6: the state at reset is one closed value, and each register is read by evaluating the
model on it. -/
theorem resetIsLegal : Obligations.ResetIsLegal := by
  unfold Obligations.ResetIsLegal
  refine ⟨rfl, Nat.zero_le 2, rfl, ?_⟩
  decide +kernel

end Sys2Proof.Machine

namespace Sys2Proof.Machine

/-! # What a controller's write can change (R152, R425)

## Beside HBM -/

/-- The state but for the bytes and marks of HBM and what the halt of a tun and the findings of a read can
change (R59, R144): the tuns and their streams, the controllers, time's records, the granary, the core's
frames, faults and health. -/
def State.steady (s : State) : State :=
  { s with tuns := [], streams := [], hbm := [], poison := [], ctls := [], time := {}, granary := {},
           core := { s.core with frames := [] }, fault := {}, health := {} }

section
variable {s t : State}

theorem out_eq_of_steady (h : t.steady = s.steady) : t.out = s.out := (congrArg State.out h :)
theorem grist_eq_of_steady (h : t.steady = s.steady) : t.grist = s.grist := (congrArg State.grist h :)
theorem journal_eq_of_steady (h : t.steady = s.steady) : t.journal = s.journal := (congrArg State.journal h :)
theorem hbmMode_eq_of_steady (h : t.steady = s.steady) : t.hbmMode = s.hbmMode := (congrArg State.hbmMode h :)
theorem hbmFill_eq_of_steady (h : t.steady = s.steady) : t.hbmFill = s.hbmFill := (congrArg State.hbmFill h :)

theorem State.EccFrame.steady (h : s.EccFrame t) : t.steady = s.steady := by
  unfold State.EccFrame at h
  rw [h]
  rfl

theorem State.StreamFrame.steady (h : s.StreamFrame t) : t.steady = s.steady := by
  unfold State.StreamFrame at h
  rw [h]
  rfl

end

section
variable (s : State)

theorem modTun_steady (id : Nat) (f : Tun → Tun) : (s.modTun id f).steady = s.steady := rfl
theorem modStream_steady (k : Nat) (f : Stream → Stream) : (s.modStream k f).steady = s.steady := rfl
theorem raise_steady (src d : Nat) : (s.raise src d).steady = s.steady := rfl

theorem closeDigest_steady (id : Nat) (b : Bool) : (s.closeDigest id b).steady = s.steady := by
  unfold State.closeDigest
  extract_lets a e t c u
  have h : u.steady = s.steady := by unfold u; split <;> rfl
  exact h

theorem haltFaultAt_steady (id c : Nat) : (s.haltFaultAt id c).steady = s.steady := by
  unfold State.haltFaultAt
  extract_lets t s1 s2
  have h2 : s2.steady = s.steady := by
    have h : (s1.digInvalid.cancelRunAhead id).steady = s1.digInvalid.steady := (cancelRunAhead_streamFrame _ id).steady
    exact h
  clear_value s2
  split
  · rfl
  · split
    · rw [closeDigest_steady, h2]
    · exact h2

theorem streamFault_steady (id k n : Nat) : (s.streamFault id k n).steady = s.steady := by
  unfold State.streamFault State.haltFault
  rw [haltFaultAt_steady, raise_steady]

theorem bindingFault_steady (id q n : Nat) : (s.bindingFault id q n).steady = s.steady := by
  unfold State.bindingFault State.haltFault
  rw [haltFaultAt_steady, raise_steady]

theorem countFlag_steady (id q n : Nat) : (s.countFlag id q n).steady = s.steady := by
  unfold State.countFlag State.raiseFlag State.raiseFlagIn State.exceptionAt State.noteWait
  dsimp only
  split
  · split
    · rw [modTun_steady, modTun_steady]
    · rw [haltFaultAt_steady, raise_steady, modTun_steady, modTun_steady]
  · rfl

theorem ringEvent_steady (r : RingOutcome) : (s.ringEvent r).steady = s.steady := by cases r <;> rfl

theorem runAheadConflict_steady (a n : Nat) : (s.runAheadConflict a n).steady = s.steady := by
  refine foldl_leaves (g := State.steady) (fun u k => ?_) _ s
  dsimp only
  split
  · rw [streamFault_steady]
  · rfl

end

theorem State.TunFrame.poisonedAt {s t : State} (h : s.TunFrame t) (a : Nat) : t.poisonedAt a = s.poisonedAt a := by
  unfold State.TunFrame at h
  rw [h]
  rfl

theorem countFlag_frame (s : State) (id q n : Nat) : s.TunFrame (s.countFlag id q n) := by
  unfold State.countFlag
  dsimp only
  split
  · exact raiseFlagIn_frame ..
  · exact .refl s

theorem runAheadConflict_frame (s : State) (a n : Nat) : s.TunFrame (s.runAheadConflict a n) := by
  refine State.TunFrame.foldl (fun u k => ?_) _ s
  dsimp only
  split
  · exact streamFault_frame ..
  · exact .refl u

/-! ## The queues of the tuns -/

/-- The queues of tun `k`. -/
def State.tunQueues (s : State) (k : Nat) : Tab Queue := (s.tun k).queues

theorem queue_eq_of_tunQueues {s t : State} {k : Nat} (h : t.tunQueues k = s.tunQueues k) (q : Nat) :
    (t.tun k).queue q = (s.tun k).queue q := by
  change Tab.get {} (t.tunQueues k) q = Tab.get {} (s.tunQueues k) q
  rw [h]

section
variable (s : State) (k : Nat)

theorem modTun_tunQueues {id : Nat} {f : Tun → Tun} (h : ∀ u, (f u).queues = u.queues) :
    (s.modTun id f).tunQueues k = s.tunQueues k := by
  unfold State.tunQueues
  rw [modTun_tun]
  split
  · next e => subst e; exact h _
  · rfl

theorem haltFaultAt_tunQueues (id c : Nat) : (s.haltFaultAt id c).tunQueues k = s.tunQueues k := by
  by_cases h : k = id
  · subst h; exact haltFaultAt_queues s k c
  · exact congrArg Tun.queues (haltFaultAt_otherTuns s id c k h)

theorem runAheadConflict_tunQueues (a n : Nat) : (s.runAheadConflict a n).tunQueues k = s.tunQueues k := by
  refine foldl_leaves (g := (State.tunQueues · k)) (fun u j => ?_) _ s
  dsimp only
  split
  · exact haltFaultAt_tunQueues ..
  · rfl

theorem noteWait_tunQueues (id f c : Nat) : (s.noteWait id f c).tunQueues k = s.tunQueues k := by
  refine modTun_tunQueues s k fun u => ?_
  split
  · rfl
  · split <;> rfl

theorem exceptionAt_tunQueues (id n kind cause pc c : Nat) :
    (s.exceptionAt id n kind cause pc c).tunQueues k = s.tunQueues k := by
  unfold State.exceptionAt
  extract_lets v
  have h : v.tunQueues k = s.tunQueues k := modTun_tunQueues s k fun u => by split <;> rfl
  rw [haltFaultAt_tunQueues]
  exact h

theorem countFlag_tunQueues (id q n : Nat) : (s.countFlag id q n).tunQueues k = s.tunQueues k := by
  have set (f v : Nat) : (s.modTun id fun u => u.setFlag f v).tunQueues k = s.tunQueues k :=
    modTun_tunQueues s k fun _ => rfl
  unfold State.countFlag State.raiseFlag State.raiseFlagIn
  dsimp only
  split
  · split
    · rw [noteWait_tunQueues, set]
    · rw [exceptionAt_tunQueues, set]
  · rfl

end

/-! ## Poison marks of lines (R425) -/

theorem mem_insNat {x y : Nat} {l : List Nat} : y ∈ insNat x l ↔ y = x ∨ y ∈ l := by
  induction l with
  | nil => simp [insNat]
  | cons z l ih =>
    unfold insNat
    split
    · simp
    · split
      · next h => simp [h]
      · simp only [List.mem_cons, ih]
        tauto

/-- A line begins at a multiple of 64 in its stack too (R139). -/
theorem hbmKey_mod_line {mode a k : Nat} (h : hbmKey mode a = some k) (ha : a % 64 = 0) : k % 64 = 0 := by
  unfold hbmKey mapAddr at h
  split at h
  · simp at h
  · split at h
    · simp only [Option.map_some, Option.some.injEq] at h
      omega
    · simp only [Option.map_some, Option.some.injEq] at h
      omega

/-- Two lines have one mark only when they are the same line (R139). -/
theorem line_eq_of_key {s : State} {a c k j : Nat} (ha : s.key a = some k) (hc : s.key c = some j) (h : k / 64 = j / 64)
    (la : a % 64 = 0) (lc : c % 64 = 0) : a = c := by
  have hk : k = j := by
    have := hbmKey_mod_line ha la
    have := hbmKey_mod_line hc lc
    omega
  subst hk
  exact hbmKey_inj ha hc

theorem poisonedAt_eq_false_of_beyond {s : State} {a : Nat} (h : hbmTop ≤ a) : s.poisonedAt a = false := by
  have hk : s.key a = none := by
    rw [← Option.not_isSome_iff_eq_none, key_isSome]
    exact Nat.not_lt.2 h
  unfold State.poisonedAt
  rw [hk]

theorem setPoison_key (s : State) (a c : Nat) (b : Bool) : (s.setPoison a b).key c = s.key c := by
  unfold State.setPoison
  split
  · rfl
  · split <;> rfl

/-- The mark of a line of HBM, once it has been set or cleared. -/
theorem setPoison_poisonedAt_same (s : State) {a : Nat} (b : Bool) (h : a < hbmTop) :
    (s.setPoison a b).poisonedAt a = b := by
  obtain ⟨k, hk⟩ := Option.isSome_iff_exists.1 (key_isSome (s := s).2 h)
  unfold State.poisonedAt
  rw [setPoison_key, hk]
  unfold State.setPoison
  rw [hk]
  cases b
  · simp
  · simpa using mem_insNat_self _ _

/-- The mark of one line is no other line's. -/
theorem setPoison_poisonedAt_other (s : State) {a c : Nat} (b : Bool) (la : a % 64 = 0) (lc : c % 64 = 0) (h : c ≠ a) :
    (s.setPoison a b).poisonedAt c = s.poisonedAt c := by
  unfold State.poisonedAt
  rw [setPoison_key]
  cases hc : s.key c with
  | none => rfl
  | some j =>
    unfold State.setPoison
    cases ha : s.key a with
    | none => rfl
    | some k =>
      have hne : j / 64 ≠ k / 64 := fun e => h (line_eq_of_key hc ha e lc la)
      cases b <;> simp [mem_insNat, hne]

theorem mod_line_of_mem_linesOf {a n l : Nat} (h : l ∈ linesOf a n) : l % 64 = 0 := by
  unfold linesOf at h
  split at h
  · simp at h
  · obtain ⟨i, -, rfl⟩ := List.mem_map.1 h
    omega

/-! ## The bytes and the marks that a write leaves (R152, R425) -/

/-- The bytes that a write leaves are a matter of HBM's contents and its map. -/
theorem hbmPut_hbm_congr {s v : State} (h : v.hbm = s.hbm) (hf : v.hbmFill = s.hbmFill) (hm : v.hbmMode = s.hbmMode)
    (a : Nat) (bs : List Byte) : (v.hbmPut a bs).hbm = (s.hbmPut a bs).hbm := by
  induction bs generalizing s v a with
  | nil => exact h
  | cons b bs ih =>
    have hk : v.key a = s.key a := by unfold State.key; rw [hm]
    unfold State.hbmPut
    rw [hk]
    split
    · apply ih
      · dsimp only
        rw [h, hf]
      · exact hf
      · exact hm
    · exact ih h hf hm _

/-- The line `l` that a write of `n` bytes at `a` touches is written in part. -/
def partOf (a n l : Nat) : Bool := l < a || a + n < l + 64

/-- What the controllers find that counts for a write: at lines written in part, and in its commands and
addresses (R143, R152). -/
def foundBy (a n : Nat) (e : Ecc) : Ecc :=
  e.filter fun x => partOf a n (burstAddr a x.1 / 64 * 64) || x.2 == .parityRetried || x.2 == .parityFailed

/-- The line `l` of a write keeps or gains a poison mark. -/
def State.keepsMark (s : State) (a n : Nat) (e : Ecc) (poison : Bool) (l : Nat) : Bool :=
  poison || (partOf a n l && s.poisonedAt l
    || (foundBy a n e).any fun x => eccBad x.2 && burstAddr a x.1 / 64 * 64 == l)

/-- The lines of a write get their marks. -/
def State.marked (s : State) (a n : Nat) (e : Ecc) (poison : Bool) (ls : List Nat) : State :=
  ls.foldl (fun s l => s.setPoison l (s.keepsMark a n e poison l)) s

/-- A write of bytes: findings, marks, bytes, and the conflicts with streams that run ahead. -/
theorem ctlWrite_eq {bytes : List Byte} (h : bytes ≠ []) (s : State) (a : Nat) (e : Ecc) (src : Nat) (poison : Bool) :
    s.ctlWrite a bytes e src poison =
      ((((s.eccRead a bytes.length (foundBy a bytes.length e) src .used).marked a bytes.length e poison
        (linesOf a bytes.length)).hbmPut a bytes).runAheadConflict a bytes.length) :=
  if_neg (by simp [h])

theorem ctlWrite_nil (s : State) (a : Nat) (e : Ecc) (src : Nat) (poison : Bool) : s.ctlWrite a [] e src poison = s := rfl

section
variable (s : State) (a n : Nat) (e : Ecc) (poison : Bool)

theorem setPoison_leaves {β : Type} {g : State → β} (h : ∀ (u : State) x, g { u with poison := x } = g u) (b : Bool) :
    g (s.setPoison a b) = g s := by
  unfold State.setPoison
  split
  · rfl
  · split <;> exact h ..

theorem marked_leaves {β : Type} {g : State → β} (h : ∀ (u : State) x, g { u with poison := x } = g u)
    (ls : List Nat) : g (s.marked a n e poison ls) = g s :=
  foldl_leaves (g := g) (fun u l => setPoison_leaves u l h _) ls s

/-- The lines that a write does not touch keep their marks. -/
theorem marked_poisonedAt_other {ls : List Nat} (hls : ∀ l ∈ ls, l % 64 = 0) {c : Nat} (hc : c % 64 = 0) (h : c ∉ ls) :
    (s.marked a n e poison ls).poisonedAt c = s.poisonedAt c := by
  induction ls generalizing s with
  | nil => rfl
  | cons l ls ih =>
    obtain ⟨hl, hls⟩ := List.forall_mem_cons.1 hls
    obtain ⟨hcl, hcs⟩ := not_or.1 (mt List.mem_cons.2 h)
    exact (ih _ hls hcs).trans (setPoison_poisonedAt_other s _ hl hc hcl)

/-- A line of a write has the mark that the write gives it in every state. -/
theorem marked_poisonedAt_of_mem {ls : List Nat} (hls : ∀ l ∈ ls, l % 64 = 0) {c : Nat} (h : c ∈ ls) (hc : c < hbmTop)
    {b : Bool} (hb : ∀ v : State, v.keepsMark a n e poison c = b) : (s.marked a n e poison ls).poisonedAt c = b := by
  induction ls generalizing s with
  | nil => simp at h
  | cons l ls ih =>
    obtain ⟨hl, hrest⟩ := List.forall_mem_cons.1 hls
    by_cases hcs : c ∈ ls
    · exact ih _ hrest hcs
    · obtain rfl := (List.mem_cons.1 h).resolve_right hcs
      change ((s.setPoison c _).marked a n e poison ls).poisonedAt c = b
      rw [marked_poisonedAt_other _ a n e poison hrest hl hcs, setPoison_poisonedAt_same _ _ hc, hb]

end

section
variable (s : State) (a : Nat) (bytes : List Byte) (e : Ecc) (src : Nat) (poison : Bool)

theorem hbmPut_steady : (s.hbmPut a bytes).steady = s.steady := by
  rw [hbmPut_frame]
  rfl

/-- Beside the bytes and marks of HBM a write changes only what its findings and its conflicts do. -/
theorem ctlWrite_steady : (s.ctlWrite a bytes e src poison).steady = s.steady := by
  by_cases h : bytes = []
  · rw [h, ctlWrite_nil]
  · rw [ctlWrite_eq h, runAheadConflict_steady, hbmPut_steady,
      marked_leaves (g := State.steady) (h := fun _ _ => rfl),
      (eccRead_eccFrame ..).steady]

/-- The bytes of a write are in HBM. -/
theorem ctlWrite_hbm : (s.ctlWrite a bytes e src poison).hbm = (s.hbmPut a bytes).hbm := by
  by_cases h : bytes = []
  · rw [h, ctlWrite_nil, hbmPut_nil]
  · have read := eccRead_eccFrame s a bytes.length (foundBy a bytes.length e) src .used
    rw [ctlWrite_eq h, (runAheadConflict_frame ..).hbm]
    refine hbmPut_hbm_congr ?_ ?_ ?_ a bytes
    · rw [marked_leaves (g := State.hbm) (h := fun _ _ => rfl), read.hbm]
    · rw [marked_leaves (g := State.hbmFill) (h := fun _ _ => rfl), hbmFill_eq_of_steady read.steady]
    · rw [marked_leaves (g := State.hbmMode) (h := fun _ _ => rfl), hbmMode_eq_of_steady read.steady]

theorem ctlWrite_tunQueues (k : Nat) : (s.ctlWrite a bytes e src poison).tunQueues k = s.tunQueues k := by
  by_cases h : bytes = []
  · rw [h, ctlWrite_nil]
  · rw [ctlWrite_eq h, runAheadConflict_tunQueues, hbmPut_frame]
    refine (marked_leaves (g := (State.tunQueues · k)) _ _ _ _ _ (fun _ _ => rfl) _).trans ?_
    exact congrArg Tun.queues ((eccRead_eccFrame ..).tun k)

variable {s a bytes e src poison}

/-- A line of a write has the mark that the write gives it in every state. -/
theorem ctlWrite_poisonedAt {l : Nat} (h : l ∈ linesOf a bytes.length) (hl : l < hbmTop) {b : Bool}
    (hb : ∀ v : State, v.keepsMark a bytes.length e poison l = b) :
    (s.ctlWrite a bytes e src poison).poisonedAt l = b := by
  have hne : bytes ≠ [] := by rintro rfl; simp [linesOf] at h
  rw [ctlWrite_eq hne, (runAheadConflict_frame ..).poisonedAt, hbmPut_frame]
  exact marked_poisonedAt_of_mem _ _ _ _ _ (fun _ => mod_line_of_mem_linesOf) h hl hb

/-- A poisoned write marks every line that it touches (R425). -/
theorem ctlWrite_poisons {l : Nat} (h : l ∈ linesOf a bytes.length) (hl : l < hbmTop) :
    (s.ctlWrite a bytes e src true).poisonedAt l = true :=
  ctlWrite_poisonedAt h hl fun _ => rfl

/-- A write whose findings are none of uncorrected data leaves no mark at a whole line (R425). -/
theorem ctlWrite_good_line {l : Nat} (h : l ∈ linesOf a bytes.length) (he : ∀ y ∈ e, eccBad y.2 = false) (h1 : a ≤ l)
    (h2 : l + 64 ≤ a + bytes.length) : (s.ctlWrite a bytes e src false).poisonedAt l = false := by
  by_cases hl : l < hbmTop
  · refine ctlWrite_poisonedAt h hl fun v => ?_
    have hp : partOf a bytes.length l = false := by simp [partOf]; omega
    have hf : (foundBy a bytes.length e).any (fun x => eccBad x.2 && burstAddr a x.1 / 64 * 64 == l) = false :=
      List.any_eq_false.2 fun x hx => by simp [he x (List.mem_filter.1 hx).1]
    unfold State.keepsMark
    rw [hp, hf]
    rfl
  · exact poisonedAt_eq_false_of_beyond (Nat.not_lt.1 hl)

end

end Sys2Proof.Machine

namespace Sys2Proof.Machine

/-! # BAR4, the HBM services and the background work -/

/-! ## BAR4 (R326 to R328) -/

section
variable {s : State} {p : HostPort} {off len a : Nat} {e : Ecc}

/-- A BAR4 read that its port serves, outside a warm reset. -/
theorem exec_bar4Read (hs : s.portServes p = true) (hw : s.power.warm = false)
    (ha : a = (s.port p).winBase.toNat + off) : exec (.bar4Read p off len e) s =
      if (s.port p).bar4Size < off + len then .next s
      else if hbmTop < a + len then .next (((s.badAccess p 3).aerAdvisory p 20).emit (.unsupported p off))
      else if s.windowAwake a len = false then .next (((s.badAccess p 2).aerAdvisory p 20).emit (.unsupported p off))
      else if s.hbmReady a len = false then .next s
      else .next ((s.eccRead a len e 3 .used).emit
        (.bar4 p off (s.hbmBytes a len) (s.anyPoison a len || (firstBad e a len).isSome))) := by
  subst ha
  change execBar4Read p off len e s = _
  unfold execBar4Read
  simp [hs, hw, State.ctlRead]

theorem bar4Read_answers (hs : s.portServes p = true) (hw : s.power.warm = false)
    (ha : a = (s.port p).winBase.toNat + off) (hsize : off + len ≤ (s.port p).bar4Size) (htop : a + len ≤ hbmTop)
    (awake : s.windowAwake a len = true) (ready : s.hbmReady a len = true) :
    Answers (.bar4Read p off len e) s fun t => t.hbm = s.hbm ∧ t.grist = s.grist ∧ t.tuns = s.tuns ∧ t.out =
      .bar4 p off (s.hbmBytes a len) (s.anyPoison a len || (firstBad e a len).isSome) :: s.out := by
  have read := eccRead_eccFrame s a len e 3 .used
  have hexec := exec_bar4Read (e := e) (len := len) hs hw ha
  rw [if_neg (by omega), if_neg (by omega), if_neg (by simp [awake]), if_neg (by simp [ready])] at hexec
  refine ⟨_, hexec, read.hbm, (State.emit_grist _ _).trans (grist_eq_of_steady read.steady), ?_,
    congrArg (_ :: ·) (out_eq_of_steady read.steady)⟩
  unfold State.EccFrame at read
  rw [read]
  rfl

end

theorem modPort_modPort (s : State) (p : HostPort) (f g : PortSt → PortSt) :
    (s.modPort p f).modPort p g = s.modPort p fun x => g (f x) := by cases p <;> rfl

theorem modPort_eq_self {s : State} {p : HostPort} {f : PortSt → PortSt} (h : f (s.port p) = s.port p) :
    s.modPort p f = s := by
  cases p
  · change { s with host := { s.host with a := f (s.port .a) } } = s
    rw [h]
    rfl
  · change { s with host := { s.host with b := f (s.port .b) } } = s
    rw [h]
    rfl

theorem modPort_windowWaits (s : State) (p : HostPort) (f : PortSt → PortSt) (w : PostedWrite) :
    (s.modPort p f).windowWaits w = s.windowWaits w := by cases p <;> rfl

/-- A port whose oldest posted write waits performs none (R328). -/
theorem performPosted_of_waiting {s : State} {p : HostPort} {y : PostedWrite} {ys : List PostedWrite}
    (h : (s.port p).posted = y :: ys) (hy : s.windowWaits y = true) : s.performPosted p = s := by
  unfold State.performPosted
  refine List.foldl_fixed' (fun w => if_neg ?_) _
  rw [h]
  simp only [List.head?_cons, Bool.and_eq_true, beq_iff_eq, Option.some.injEq, Bool.not_eq_true']
  rintro ⟨rfl, hn⟩
  rw [hy] at hn
  cases hn

/-- Where no other waits, a posted write that need not wait is performed at once (R327, R328). -/
theorem performPosted_of_one {s : State} {p : HostPort} {w : PostedWrite} (h : (s.port p).posted = [])
    (hw : s.windowWaits w = false) :
    (s.modPort p fun x => { x with posted := x.posted ++ [w] }).performPosted p = s.windowWrite p w := by
  have back : (s.modPort p fun x => { x with posted := x.posted ++ [w] }).modPort p
      (fun x => { x with posted := x.posted.drop 1 }) = s := by
    rw [modPort_modPort, modPort_eq_self]
    rw [h, List.nil_append, List.drop_one, List.tail_cons, ← h]
  have posted : ((s.modPort p fun x => { x with posted := x.posted ++ [w] }).port p).posted = [w] := by
    rw [modPort_port_same, h]
    rfl
  have ready : (s.modPort p fun x => { x with posted := x.posted ++ [w] }).windowWaits w = false := by
    rw [modPort_windowWaits, hw]
  generalize (s.modPort p fun x => { x with posted := x.posted ++ [w] }) = v at back posted ready ⊢
  unfold State.performPosted
  rw [posted, List.foldl_cons, List.foldl_nil, posted, ready, if_pos (by simp), back]

section
variable {s : State} {p : HostPort} {off : Nat} {bytes : List Byte} {e : Ecc} {w : PostedWrite}
  (on : s.on = true) (up : (s.port p).linkUp = true) (noReset : (s.port p).inReset = false)
  (d0 : (s.port p).pci.d3hot = false) (hsize : off + bytes.length ≤ (s.port p).bar4Size)
  (hw : w = ⟨(s.port p).winBase.toNat + off, bytes, e⟩)
include on up noReset d0 hsize hw

theorem exec_bar4Write : exec (.bar4Write p off bytes e) s =
    .next ((s.modPort p fun x => { x with posted := x.posted ++ [w] }).performPosted p) := by
  subst hw
  refine if_neg ?_
  simp [on, up, noReset, d0]
  omega

/-- With none waiting before it, a write whose controllers are ready is performed or discarded (R327). -/
theorem bar4Write_performs (h : (s.port p).posted = []) (ready : s.windowWaits w = false) :
    exec (.bar4Write p off bytes e) s = .next (s.windowWrite p w) := by
  rw [exec_bar4Write on up noReset d0 hsize hw, performPosted_of_one h ready]

theorem bar4Write_writes (h : (s.port p).posted = []) (ready : s.windowWaits w = false)
    (htop : w.addr + bytes.length ≤ hbmTop) (awake : s.windowAwake w.addr bytes.length = true) :
    Answers (.bar4Write p off bytes e) s fun t => t.hbm = (s.hbmPut w.addr bytes).hbm ∧ t.out = s.out
      ∧ t.grist = s.grist ∧ t.host = s.host := by
  have hb : w.bytes = bytes := by rw [hw]
  have same := ctlWrite_steady s w.addr bytes w.ecc 3 false
  refine ⟨s.ctlWrite w.addr bytes w.ecc 3 false, ?_, ctlWrite_hbm .., out_eq_of_steady same, grist_eq_of_steady same,
    State.ctlWrite_host ..⟩
  rw [bar4Write_performs on up noReset d0 hsize hw h ready]
  unfold State.windowWrite
  rw [hb, if_neg (by omega), if_neg (by simp [awake])]

theorem bar4Write_waits (h : ((s.port p).posted = [] ∧ s.windowWaits w = true)
      ∨ ∃ y ys, (s.port p).posted = y :: ys ∧ s.windowWaits y = true) :
    exec (.bar4Write p off bytes e) s = .next (s.modPort p fun x => { x with posted := x.posted ++ [w] }) := by
  rw [exec_bar4Write on up noReset d0 hsize hw]
  obtain ⟨h, hw⟩ | ⟨y, ys, h, hy⟩ := h
  · rw [performPosted_of_waiting (y := w) (ys := []) (by rw [modPort_port_same]; dsimp only; rw [h]; rfl)
      (by rw [modPort_windowWaits, hw])]
  · rw [performPosted_of_waiting (y := y) (ys := ys ++ [w]) (by rw [modPort_port_same]; dsimp only; rw [h]; rfl)
      (by rw [modPort_windowWaits, hy])]

end

/-! ## The services of a kettle (R165) -/

theorem opFrameDone_leaves {β : Type} {g : State → β} (hq : ∀ u x, g { u with sqs := x } = g u)
    (hc : ∀ u x, g { u with core := x } = g u) (s : State) (id fail : Nat) : g (s.opFrameDone id fail) = g s := by
  unfold State.opFrameDone
  refine (hc _ _).trans ?_
  unfold State.opFrame
  split
  · rfl
  · exact hq _ _

/-- A frame that has been taken is before its endpoint no more. -/
theorem taken_inbox (s : State) (x : InFrame) : ∀ y ∈ (s.taken x).core.inbox, ¬ (y.id = x.id ∧ y.copy = x.copy) := by
  intro y hy
  have h : y ∈ s.core.inbox.filter fun y => !(y.id == x.id && y.copy == x.copy) := hy
  simpa [imp_iff_not_or] using (List.mem_filter.1 h).2

theorem source_inbox (s : State) (f : SrcFrame) : (s.source f).core.inbox = s.core.inbox := by
  obtain ⟨_, _, h, -⟩ := source_frame s f
  rw [h]

theorem hbmWrite_performs {s : State} {k : Taking} {x : InFrame} (hx : s.inboxFor k.frame [0x04] = some x)
    (acts : s.serviceActs x.hdr = true) (turn : s.accessTurn x = true)
    (ready : s.hbmReady x.hdr.opx.toNat x.payload.length = true) : Answers (.hbmWrite k) s fun t =>
      t.hbm = (s.hbmPut x.hdr.opx.toNat x.payload).hbm
      ∧ (x.verdict ≠ 0 → ∀ l ∈ linesOf x.hdr.opx.toNat x.payload.length, l < hbmTop → t.poisonedAt l = true)
      ∧ (x.verdict = 0 → (∀ y ∈ k.ecc, eccBad y.2 = false) → ∀ l ∈ linesOf x.hdr.opx.toNat x.payload.length,
          x.hdr.opx.toNat ≤ l → l + 64 ≤ x.hdr.opx.toNat + x.payload.length → t.poisonedAt l = false)
      ∧ ∀ y ∈ t.core.inbox, ¬ (y.id = x.id ∧ y.copy = x.copy) := by
  have hexec : exec (.hbmWrite k) s = .next (((s.ctlWrite x.hdr.opx.toNat x.payload k.ecc 3 (x.verdict != 0)).opFrameDone
      k.frame (if x.verdict == 0 then 0 else 3)).taken x) := by
    change execHbmWrite k s = _
    unfold execHbmWrite
    rw [hx]
    simp [acts, turn, ready]
  have hbm (v : State) (n m : Nat) : ((v.opFrameDone n m).taken x).hbm = v.hbm :=
    opFrameDone_leaves (g := State.hbm) (fun _ _ => rfl) (fun _ _ => rfl) v n m
  have mark (v : State) (n m l : Nat) : ((v.opFrameDone n m).taken x).poisonedAt l = v.poisonedAt l :=
    opFrameDone_leaves (g := (State.poisonedAt · l)) (fun _ _ => rfl) (fun _ _ => rfl) v n m
  refine ⟨_, hexec, (hbm ..).trans (ctlWrite_hbm ..), fun hv l hl top => ?_, fun hv he l hl h1 h2 => ?_, taken_inbox _ x⟩
  · rw [mark, bne_iff_ne.2 hv]
    exact ctlWrite_poisons hl top
  · rw [mark, bne_eq_false_iff_eq.2 hv]
    exact ctlWrite_good_line hl he h1 h2

section
variable {s : State} {k : Nat} {x : InFrame} {a len : Nat} (hx : s.inboxFor k [0x02] = some x)
  (acts : s.serviceActs x.hdr = true) (turn : s.accessTurn x = true) (good : x.verdict = 0) (ha : a = x.hdr.opx.toNat)
  (hlen : len = natAt x.payload 0 4) (lines : len % 64 = 0) (pos : 0 < len) (most : len ≤ 4096)
  (top : a + len ≤ hbmTop) (ready : s.hbmReady a len = true)
include hx acts turn good ha hlen lines pos most top ready

theorem exec_readReq (e : Ecc) : exec (.readReq k e) s = .next (((s.eccRead a len e 1 .used).taken x).source
    { port := (s.eccRead a len e 1 .used).hbmPort x.hdr.epIdx a, payload := s.hbmBytes a len,
      hdr := { (s.eccRead a len e 1 .used).mkHeader 1 4 0x03 x.hdr.src.toNat
          (endpointOf 4 (x.hdr.stream.toNat % 4096)) with
        stream := x.hdr.stream, epoch := x.hdr.epoch, opx := BitVec.ofNat 64 (natAt x.payload 4 2) }
      tail := if s.anyPoison a len || (firstBad e a len).isSome then (s.eccRead a len e 1 .used).mkTail 3 4 else {} }) := by
  subst ha hlen
  change execReadReq k e s = _
  unfold execReadReq
  rw [hx]
  dsimp only
  rw [if_neg (by simp [acts, turn, Nat.min_eq_left most, ready]), if_neg (by simp [good, lines]; omega),
    decide_eq_false (by omega), Bool.or_false]
  rfl

theorem readReq_answers (e : Ecc) : Answers (.readReq k e) s fun t =>
    t.hbm = s.hbm ∧ ∀ y ∈ t.core.inbox, ¬ (y.id = x.id ∧ y.copy = x.copy) := by
  refine ⟨_, exec_readReq hx acts turn good ha hlen lines pos most top ready e, ?_, ?_⟩
  · rw [(source_sends ..).hbm, (taken_sends ..).hbm, (eccRead_eccFrame ..).hbm]
  · rw [source_inbox]
    exact taken_inbox _ x

theorem readReq_good (mark : s.anyPoison a len = false) : exec (.readReq k []) s = .next ((s.taken x).source
    { port := s.hbmPort x.hdr.epIdx a, payload := s.hbmBytes a len,
      hdr := { s.mkHeader 1 4 0x03 x.hdr.src.toNat (endpointOf 4 (x.hdr.stream.toNat % 4096)) with
        stream := x.hdr.stream, epoch := x.hdr.epoch, opx := BitVec.ofNat 64 (natAt x.payload 4 2) } }) := by
  rw [exec_readReq hx acts turn good ha hlen lines pos most top ready [], mark]
  rfl

end

/-! ## Sparge and calibration (R153, R154) -/

/-- Where the pass of sparge over a stack stands: its lines read, the passes before it, its beginning. -/
def HbmCtl.pass (c : HbmCtl) : Nat × Nat × Nat := (c.progress, c.passes, c.passFrom)

theorem raise_ctl (s : State) (src d n : Nat) : (s.raise src d).ctl n = s.ctl n := rfl

theorem modHealth_ctl (s : State) (f : Health → Health) (n : Nat) : (s.modHealth f).ctl n = s.ctl n := rfl

/-- What a read finds leaves the pass of its stack. -/
theorem eccAt_pass (s : State) (n l : Nat) (o : EccOutcome) (src : Nat) (use : Use) :
    ((s.eccAt n l o src use).ctl n).pass = (s.ctl n).pass := by
  have burst (v : State) : ((v.burstClass n use).ctl n) = v.ctl n := by cases use <;> rfl
  have mod (f : HbmCtl → HbmCtl) (hf : ∀ c, (f c).pass = c.pass) : ((s.modCtl n f).ctl n).pass = (s.ctl n).pass := by
    rw [modCtl_ctl_same, hf]
  cases o
  case clean => rfl
  case parityFailed =>
    change (State.ctl (State.burstClass _ n use) n).pass = _
    rw [burst]
    exact mod _ fun _ => rfl
  case uncorrectable =>
    change (State.ctl (State.burstClass _ n use) n).pass = _
    rw [burst]
    exact mod _ fun c => by dsimp only; split <;> rfl
  all_goals
    unfold State.eccAt
    simp only [raise_ctl, modHealth_ctl, modCtl_ctl_same]
    rfl

theorem eccAt_eccFrame (s : State) (n l : Nat) (o : EccOutcome) (src : Nat) (use : Use) :
    s.EccFrame (s.eccAt n l o src use) := by
  cases o <;> cases use <;> exact rfl

/-- The findings of sparge at line `i` of stack `n` (R144, R153). -/
def State.spargeLine (s : State) (n i : Nat) (e : Ecc) : State :=
  e.foldl (fun s x => if x.1 < 2 then s.eccAt n (i * 64 + 32 * x.1) x.2 4 .unused else s) s

theorem spargeLine_eccFrame (s : State) (n i : Nat) (e : Ecc) : s.EccFrame (s.spargeLine n i e) := by
  refine State.EccFrame.foldl (fun u x => ?_) e s
  split
  · exact eccAt_eccFrame ..
  · exact .refl u

theorem spargeLine_pass (s : State) (n i : Nat) (e : Ecc) : ((s.spargeLine n i e).ctl n).pass = (s.ctl n).pass := by
  refine foldl_leaves (g := fun u => (u.ctl n).pass) (fun u x => ?_) e s
  split
  · exact eccAt_pass ..
  · rfl

theorem passTicks_congr {s v : State} (h : v.grist = s.grist) (n : Nat) : v.passTicks n = s.passTicks n := by
  have hf (ty off k : Nat) : v.field ty off k = s.field ty off k := by
    unfold State.field State.sec_
    rw [h]
  unfold State.passTicks State.repro State.spargeTicks State.spargeHours State.cellarTicks State.mhz State.cellarSlots
  simp only [hf]

theorem now_eq_of_steady {s v : State} (h : v.steady = s.steady) : v.now = s.now := (congrArg State.now h :)

theorem modCtl_now (s : State) (n : Nat) (f : HbmCtl → HbmCtl) : (s.modCtl n f).now = s.now := rfl

/-- Passing up to a tick leaves the controllers. -/
theorem after_ctl (s : State) (due n : Nat) : (s.after due).ctl n = s.ctl n := by
  obtain ⟨_, _, _, h⟩ := reach_frame s (s.time.ftc + (due - s.now))
  unfold State.after
  rw [h]
  rfl

theorem after_hbm (s : State) (due : Nat) : (s.after due).hbm = s.hbm := reach_hbm ..

theorem after_grist (s : State) (due : Nat) : (s.after due).grist = s.grist := reach_grist ..

/-- `s` with other lines listed as latent. -/
def State.withLatent (s : State) (l : List Nat) : State := { s with latent := l }

theorem withLatent_now (s : State) (l : List Nat) : (s.withLatent l).now = s.now := rfl

theorem withLatent_ctl (s : State) (l : List Nat) (n : Nat) : (s.withLatent l).ctl n = s.ctl n := rfl

/-- A step of sparge's pass over a stack at line `c.progress`, that ends or goes on (R153). -/
def HbmCtl.sparged (c : HbmCtl) (now ticks : Nat) (behind : Bool) : HbmCtl :=
  if c.progress + 1 < stackLines then { c with progress := c.progress + 1, behind := behind }
  else { c with progress := 0, passes := satInc 16 c.passes, passFrom := max now (c.passFrom + ticks), behind := behind }

theorem sparged_of_lt {c : HbmCtl} (now ticks : Nat) (b : Bool) (h : c.progress + 1 < stackLines) :
    (c.sparged now ticks b).pass = (c.progress + 1, c.passes, c.passFrom) := by
  unfold HbmCtl.sparged
  rw [if_pos h]
  rfl

theorem sparged_of_last {c : HbmCtl} (now ticks : Nat) (b : Bool) (h : stackLines ≤ c.progress + 1) :
    (c.sparged now ticks b).pass = (0, satInc 16 c.passes, max now (c.passFrom + ticks)) := by
  unfold HbmCtl.sparged
  rw [if_neg (Nat.not_lt.2 h)]
  rfl

section
variable {s : State} {n : Fin 16} {cellar : Bool}

/-- With the reproducible-timing bit set, sparge and calibration wait for a cellar slot (R154). -/
theorem background_waits (h : s.repro = true) (e : Ecc) :
    exec (.spargeStep (.stack n) ⟨e, false⟩) s = .next s ∧ exec (.hbmCalibration n false) s = .next s := by
  constructor
  · change execSpargeStep (.stack n) ⟨e, false⟩ s = _
    unfold execSpargeStep
    exact if_pos (by simp [h])
  · exact if_pos (by simp [h])

variable (ha : s.alive = true) (hp : (s.ctl n).phase = .ready) (hk : s.asleep (n.val / 4) = false)
  (slot : s.repro = false ∨ cellar = true)
include ha hp hk slot

theorem exec_hbmCalibration : exec (.hbmCalibration n cellar) s =
    .next ((s.after ((s.ctl n).lastCal + s.calMs * 4000000)).modCtl n fun c =>
      { c with lastCal := (s.after ((s.ctl n).lastCal + s.calMs * 4000000)).now, calibrations := c.calibrations + 1 }) := by
  change execHbmCalibration n cellar s = _
  unfold execHbmCalibration
  dsimp only
  rw [if_neg (by rcases slot with h | h <;> simp [ha, hp, hk, h])]

theorem hbmCalibration_counts : Answers (.hbmCalibration n cellar) s fun t =>
    (t.ctl n).calibrations = (s.ctl n).calibrations + 1 ∧ (t.ctl n).lastCal = t.now
    ∧ t.now = max s.now ((s.ctl n).lastCal + s.calMs * 4000000) ∧ t.hbm = s.hbm := by
  have hexec := exec_hbmCalibration ha hp hk slot
  generalize (s.ctl n).lastCal + s.calMs * 4000000 = due at hexec ⊢
  refine ⟨_, hexec, ?_, ?_, (modCtl_now ..).trans (after_now s due), (State.modCtl_hbm ..).trans (after_hbm s due)⟩
  · rw [modCtl_ctl_same, after_ctl]
  · rw [modCtl_ctl_same, modCtl_now]

/-- The state when the line of sparge's pass is due (R153). -/
def State.spargeDue (s : State) (n : Nat) : State :=
  s.after ((s.ctl n).passFrom + (s.ctl n).progress * s.passTicks n / stackLines)

theorem exec_spargeStep_stack (e : Ecc) : ∃ (b : Bool) (l : List Nat),
    exec (.spargeStep (.stack n) ⟨e, cellar⟩) s =
      .next ((((s.spargeDue n).spargeLine n (s.ctl n).progress e).withLatent l).modCtl n fun c =>
        c.sparged (s.spargeDue n).now ((s.spargeDue n).passTicks n) b) := by
  have line := spargeLine_eccFrame (s.spargeDue n) n (s.ctl n).progress e
  have hexec : exec (.spargeStep (.stack n) ⟨e, cellar⟩) s = execSpargeStep (.stack n) ⟨e, cellar⟩ s := rfl
  unfold execSpargeStep at hexec
  dsimp -zeta only at hexec
  extract_lets c u l line_ v w behind at hexec
  rw [if_neg (by rcases slot with h | h <;> simp [c, ha, hp, hk, h])] at hexec
  obtain ⟨l, hl⟩ : ∃ l, w = ((s.spargeDue n).spargeLine n (s.ctl n).progress e).withLatent l := by
    unfold w
    split <;> exact ⟨_, rfl⟩
  have now : w.now = (s.spargeDue n).now := by
    rw [hl, withLatent_now]
    exact now_eq_of_steady line.steady
  have ticks : w.passTicks n = (s.spargeDue n).passTicks n := by
    rw [hl]
    exact passTicks_congr (grist_eq_of_steady line.steady) n
  refine ⟨behind, l, hexec.trans ?_⟩
  rw [← hl, ← now, ← ticks]
  rfl

/-- A step of sparge's pass over a stack that is ready: the next line is read at its time (R153). -/
theorem spargeStep_stack (e : Ecc) : Answers (.spargeStep (.stack n) ⟨e, cellar⟩) s fun t =>
    t.hbm = s.hbm ∧ (e = [] → t.fault = s.fault)
    ∧ t.now = max s.now ((s.ctl n).passFrom + (s.ctl n).progress * s.passTicks n / stackLines)
    ∧ ((s.ctl n).progress + 1 < stackLines →
        (t.ctl n).pass = ((s.ctl n).progress + 1, (s.ctl n).passes, (s.ctl n).passFrom))
    ∧ (stackLines ≤ (s.ctl n).progress + 1 → (t.ctl n).pass =
        (0, satInc 16 (s.ctl n).passes, max t.now ((s.ctl n).passFrom + s.passTicks n))) := by
  obtain ⟨b, l, hexec⟩ := exec_spargeStep_stack ha hp hk slot e
  have line := spargeLine_eccFrame (s.spargeDue n) n (s.ctl n).progress e
  have pass : ((s.spargeDue n).spargeLine n (s.ctl n).progress e |>.ctl n).pass = (s.ctl n).pass :=
    (spargeLine_pass ..).trans (congrArg HbmCtl.pass (after_ctl ..))
  have now := now_eq_of_steady line.steady
  have ticks : (s.spargeDue n).passTicks n = s.passTicks n := passTicks_congr (after_grist ..) n
  have due : (s.spargeDue n).now = _ := after_now ..
  obtain ⟨progress, rest⟩ := Prod.mk.inj pass
  obtain ⟨passes, passFrom⟩ := Prod.mk.inj rest
  refine ⟨_, hexec, line.hbm.trans (after_hbm ..), ?_, (modCtl_now ..).trans (now.trans due), fun h => ?_, fun h => ?_⟩
  · rintro rfl
    exact after_fault ..
  · rw [modCtl_ctl_same, withLatent_ctl, sparged_of_lt _ _ _ (by rwa [progress]), progress, passes, passFrom]
  · rw [modCtl_ctl_same, withLatent_ctl, sparged_of_last _ _ _ (by rwa [progress]), passes, passFrom, ticks, modCtl_now]
    exact congrArg (fun x => (0, satInc 16 (s.ctl n).passes, max x ((s.ctl n).passFrom + s.passTicks n))) now.symm

end

theorem tunEcc_otherTuns (s : State) (id a : Nat) (sel : Nat → Bool) (e : Ecc) :
    s.OtherTuns (s.tunEcc id a sel e).1 id := by
  have word (u : State) (b : Nat) (o : EccOutcome) : u.OtherTuns (u.tunWord id b o).1 id := by
    cases o
    case symbol => exact modTun_otherTuns u id fun t => { t with memCe := min 511 (t.memCe + 1) }
    case uncorrectable =>
      exact modTun_otherTuns u id fun t => if t.memUe then t else { t with memUe := true, memAddr := b }
    all_goals exact fun _ _ => rfl
  unfold State.tunEcc
  generalize false = bad
  induction e generalizing s bad with
  | nil => exact fun _ _ => rfl
  | cons x e ih =>
    rw [List.foldl_cons]
    dsimp only
    split
    · exact ih _ _
    · exact State.OtherTuns.trans (word _ _ _) (ih _ _)

/-- The next entry of a tun memory, once sparge has read it (R153). -/
def Tun.sparged (u : Tun) (now ticks : Nat) : Tun :=
  if u.spargeAt + 1 < tunEntries then { u with spargeAt := u.spargeAt + 1 }
  else { u with spargeAt := 0, spargeFrom := max now (u.spargeFrom + ticks) }

theorem sparged_spec {u : Tun} (now ticks : Nat) (h : u.spargeAt < tunEntries) :
    (u.sparged now ticks).spargeAt = (u.spargeAt + 1) % tunEntries ∧ (u.sparged now ticks).mem = u.mem
      ∧ (u.sparged now ticks).phase = u.phase := by
  unfold Tun.sparged
  split
  · next g => exact ⟨(Nat.mod_eq_of_lt g).symm, rfl, rfl⟩
  · next g =>
    rw [show u.spargeAt + 1 = tunEntries by omega, Nat.mod_self]
    exact ⟨rfl, rfl, rfl⟩

theorem spargeStep_tunMem {s : State} {k : Fin 192} (e : Ecc) (cellar : Bool) (acts : s.tunActs k = true)
    (inPass : (s.tun k).spargeAt < tunEntries) : Answers (.spargeStep (.tunMem k) ⟨e, cellar⟩) s fun t =>
      (t.tun k).spargeAt = ((s.tun k).spargeAt + 1) % tunEntries ∧ (t.tun k).mem = (s.tun k).mem
      ∧ (t.tun k).phase = (s.tun k).phase ∧ (∀ i, i ≠ k.val → t.tun i = s.tun i) ∧ t.hbm = s.hbm
      ∧ (e = [] → t.fault = s.fault) := by
  let due := (s.tun k).spargeFrom + (s.tun k).spargeAt * s.spargeTicks / tunEntries
  let v := ((s.after due).tunEcc k ((s.tun k).spargeAt * 64) inEntry e).1
  have hexec : exec (.spargeStep (.tunMem k) ⟨e, cellar⟩) s = .next (v.modTun k (·.sparged v.now v.spargeTicks)) :=
    if_neg (by simp [acts])
  have kept : (v.tun k).butMemErr = (s.tun k).butMemErr :=
    (tunEcc_spec ..).2.1.trans (congrArg Tun.butMemErr (after_tun ..))
  have same {β : Type} (g : Tun → β) (hg : ∀ u, g u.butMemErr = g u) : g (v.tun k) = g (s.tun k) := by
    rw [← hg, kept, hg]
  have at_ := same Tun.spargeAt fun _ => rfl
  obtain ⟨next, mem, phase⟩ := sparged_spec v.now v.spargeTicks (u := v.tun k) (at_ ▸ inPass)
  have frame : v.hbm = s.hbm := ((tunEcc_frame ..).hbm).trans (after_hbm ..)
  have clean : e = [] → v.fault = s.fault := by
    intro he
    have : v = s.after due := by
      unfold v
      rw [tunEcc_clean (by simp [he])]
    rw [this, after_fault]
  refine ⟨_, hexec, ?_, ?_, ?_, fun i hi => ?_, frame, clean⟩
  · rw [modTun_tun_same, next, at_]
  · rw [modTun_tun_same, mem, same Tun.mem fun _ => rfl]
  · rw [modTun_tun_same, phase, same Tun.phase fun _ => rfl]
  · rw [modTun_tun_other _ _ hi, tunEcc_otherTuns _ _ _ _ _ i hi, after_tun]

/-- Settles O51: BAR4, the two HBM services, sparge and calibration, each by its own lemma. -/
theorem hbmServices : Obligations.HbmServices := by
  unfold Obligations.HbmServices
  intro s
  refine ⟨fun p off len a e hs hw ha =>
      ⟨fun h => ?readTooLong, fun h => ⟨?readAnswers, fun h1 => ?readBeyond, fun top h1 => ?readAsleep⟩⟩,
    fun p off bytes e w on up noReset d0 warm hsize hw =>
      ⟨fun h ready => ⟨?writeWrites, fun h1 => ?writeBeyond, fun top h1 => ?writeAsleep⟩, ?writeWaits⟩,
    fun k x hx acts turn ready => hbmWrite_performs hx acts turn ready,
    fun k x a len e hx acts turn good ha hlen lines pos most top ready => ⟨?requestAnswers, fun he mark => ?requestGood⟩,
    fun n cellar ha hp hk slot => ⟨fun e => ?spargeStack, hbmCalibration_counts ha hp hk slot⟩,
    fun n e h => background_waits h e, fun k e cellar acts inPass => spargeStep_tunMem e cellar acts inPass⟩
  case readTooLong => rw [exec_bar4Read hs hw ha, if_pos h]
  case readAnswers => exact bar4Read_answers hs hw ha h
  case readBeyond => rw [exec_bar4Read hs hw ha, if_neg (by omega), if_pos h1]
  case readAsleep => rw [exec_bar4Read hs hw ha, if_neg (by omega), if_neg (by omega), if_pos h1]
  case writeWrites => exact bar4Write_writes on up noReset d0 hsize hw h ready
  case writeBeyond =>
    rw [bar4Write_performs on up noReset d0 hsize hw h ready]
    subst hw
    exact congrArg _ (if_pos h1)
  case writeAsleep =>
    rw [bar4Write_performs on up noReset d0 hsize hw h ready]
    subst hw
    exact congrArg _ ((if_neg (Nat.not_lt.2 top)).trans (if_pos (by simpa using h1)))
  case writeWaits => exact bar4Write_waits on up noReset d0 hsize hw
  case requestAnswers => exact readReq_answers hx acts turn good ha hlen lines pos most top ready e
  case requestGood =>
    subst he
    exact readReq_good hx acts turn good ha hlen lines pos most top ready mark
  case spargeStack =>
    refine (spargeStep_stack ha hp hk slot e).imp fun t ⟨hbm, fault, now, goesOn, ends⟩ =>
      ⟨hbm, fault, now, fun h => ?_, fun h => ?_⟩
    · obtain ⟨progress, rest⟩ := Prod.mk.inj (goesOn h)
      exact ⟨progress, (Prod.mk.inj rest).1⟩
    · obtain ⟨progress, rest⟩ := Prod.mk.inj (ends h)
      exact ⟨progress, Prod.mk.inj rest⟩

end Sys2Proof.Machine

namespace Sys2Proof.Machine

/-! # The cask journal and the lookup sampler -/

theorem State.SendFrame.journal {s t : State} (h : s.SendFrame t) : t.journal = s.journal := by
  unfold State.SendFrame at h
  rw [h]

theorem ctlWrite_journal (s : State) (a : Nat) (bytes : List Byte) (e : Ecc) (src : Nat) (poison : Bool) :
    (s.ctlWrite a bytes e src poison).journal = s.journal := journal_eq_of_steady (ctlWrite_steady ..)

/-! ## Copies (R156, R181) -/

section
variable {s : State} {k : Taking} {x : InFrame}
  (hx : s.core.inbox.find? (fun x => x.id == k.frame && x.journalCopy) = some x) (ha : s.alive = true)
  (turn : ∀ y ∈ s.core.inbox, y.copyBefore x = false)
include hx ha turn

theorem journalCopy_off (off : s.journalOn = false) : exec (.journalCopy k) s = .next (s.taken x) := by
  change execJournalCopy k s = _
  unfold execJournalCopy
  rw [hx]
  dsimp only
  rw [if_neg (by simpa [ha, off] using turn), if_pos (by simp [off])]

/-- The entry that a copy opens, with what the engine knows of it besides (R156). -/
def State.copied (s : State) (x : InFrame) (layer stream : Nat) : CjOpen :=
  { kind := if x.hdr.op.toNat = 4 then 1 else 2, step := s.journal.step, layer := layer, rank := s.rank x.hdr.src.toNat,
    stream := stream, src := x.hdr.src.toNat, bytes := x.payload, bad := x.verdict != 0 }

theorem exec_journalCopy (on : s.journalOn = true) (ready : s.ringReady = true) :
    ∃ layer stream, exec (.journalCopy k) s = .next ((s.taken x).appendEntry k.ecc 3 (s.copied x layer stream)) := by
  have hexec : exec (.journalCopy k) s = execJournalCopy k s := rfl
  unfold execJournalCopy at hexec
  rw [hx] at hexec
  dsimp -zeta only at hexec
  extract_lets load src s' layer e at hexec
  rw [if_neg (by simpa [ha, ready] using turn), if_neg (by simp [on])] at hexec
  refine ⟨layer, if load then (src.map (·.1)).getD 0 else x.hdr.stream.toNat, hexec.trans ?_⟩
  have he : e = s.copied x layer (if load then (src.map (·.1)).getD 0 else x.hdr.stream.toNat) := by
    simp [e, State.copied, load]
  rw [he]

end

/-- Bytes of a key that no open entry has, fewer than fill an entry, open one (R156). -/
theorem appendEntry_opens {s : State} {e : CjOpen} (ecc : Ecc) (n : Nat) (some_ : 0 < e.bytes.length)
    (few : e.bytes.length < 1048576) (new : ∀ y ∈ s.journal.openE, y.src ≠ e.src) :
    s.appendEntry ecc (n + 2) e = s.modJournal fun j => { j with openE := j.openE ++ [e] } := by
  have none_ : s.journal.openE.find? (fun x => x.kind == e.kind && x.stream == e.stream && x.src == e.src) = none :=
    List.find?_eq_none.2 fun y hy => by simp [new y hy]
  have all : e.bytes.take 1048576 = e.bytes := List.take_of_length_le few.le
  have rest : e.bytes.drop 1048576 = [] := List.drop_of_length_le few.le
  unfold State.appendEntry
  dsimp only
  rw [if_neg (by simpa using List.ne_nil_of_length_pos some_), none_]
  dsimp only
  rw [List.length_nil, Nat.sub_zero, List.nil_append, all, rest, Bool.or_self, if_neg (Nat.not_le.2 few)]
  rfl

/-- A copy of a new key opens an entry (R156). -/
theorem journalCopy_opens {s : State} {k : Taking} {x : InFrame}
    (hx : s.core.inbox.find? (fun x => x.id == k.frame && x.journalCopy) = some x) (ha : s.alive = true)
    (turn : ∀ y ∈ s.core.inbox, y.copyBefore x = false) (on : s.journalOn = true) (ready : s.ringReady = true)
    (some_ : 0 < x.payload.length) (few : x.payload.length < 1048576)
    (new : ∀ y ∈ s.journal.openE, y.src ≠ x.hdr.src.toNat) :
    Answers (.journalCopy k) s fun t => ∃ e : CjOpen,
      t.journal.openE = s.journal.openE ++ [e] ∧ e.bytes = x.payload ∧ e.step = s.journal.step
      ∧ e.kind = (if x.hdr.op.toNat = 4 then 1 else 2) ∧ e.src = x.hdr.src.toNat ∧ e.bad = (x.verdict != 0)
      ∧ t.journal.entries = s.journal.entries ∧ t.hbm = s.hbm := by
  obtain ⟨layer, stream, hexec⟩ := exec_journalCopy hx ha turn on ready
  rw [appendEntry_opens (s := s.taken x) (e := s.copied x layer stream) k.ecc 1 some_ few new] at hexec
  exact ⟨_, hexec, s.copied x layer stream, rfl, rfl, rfl, rfl, rfl, rfl, rfl, rfl⟩

/-! ## The mirror (R159) -/

theorem journalMirror_writes {s : State} {k : Taking} {x : InFrame} {i off : Nat}
    (hx : s.inboxFor k.frame [0x40] = some x) (good : x.verdict = 0) (hi : i = x.hdr.seq.toNat)
    (ho : off = if i = 0 then s.journal.mirrorAt
      else Tab.get 0 s.journal.mirrorOff (x.hdr.src.toNat * 2 ^ 64 + x.hdr.opx.toNat))
    (run : s.isFatal = false) (region : s.regionReady (Config.mirrorBase + off + 4096 * i) 4096 = true)
    (ready : s.hbmReady (Config.mirrorBase + off) 64 = true) :
    Answers (.journalMirror k) s fun t => t.hbm = (s.hbmPut (Config.mirrorBase + off + 4096 * i) x.payload).hbm
      ∧ t.journal.mirrorAt = (if i = 0 then s.journal.mirrorAt + entrySize (natAt x.payload 0x14 4)
          else s.journal.mirrorAt)
      ∧ t.journal.entries = s.journal.entries := by
  have place : (if (x.hdr.seq.toNat == 0) = true then s.journal.mirrorAt
      else Tab.get 0 s.journal.mirrorOff (x.hdr.src.toNat * 2 ^ 64 + x.hdr.opx.toNat)) = off := by
    rw [ho, hi]
    exact if_congr beq_iff_eq rfl rfl
  have hexec : exec (.journalMirror k) s = execJournalMirror k s := rfl
  unfold execJournalMirror at hexec
  rw [hx] at hexec
  dsimp -zeta only at hexec
  extract_lets j key n base s1 size s2 off' at_ s3 h0 h at hexec
  have hbase : base = Config.mirrorBase + off := congrArg (Config.mirrorBase + ·) place
  have hat : at_ = Config.mirrorBase + off := congrArg (Config.mirrorBase + ·) place
  have hn : n = i := hi.symm
  have written : s3.hbm = (s.hbmPut (Config.mirrorBase + off + 4096 * i) x.payload).hbm := by
    unfold s3 s2
    rw [ctlWrite_hbm, hat, hn]
    split
    · exact hbmPut_hbm_congr (s := s) (v := s1.modJournal _) rfl rfl rfl _ _
    · exact hbmPut_hbm_congr (s := s) (v := s1) rfl rfl rfl _ _
  have journal : s3.journal = s2.journal := ctlWrite_journal ..
  have places : s2.journal.mirrorAt = if i = 0 then s.journal.mirrorAt + entrySize (natAt x.payload 0x14 4)
      else s.journal.mirrorAt := by
    unfold s2 size
    rw [hn]
    by_cases h0 : i = 0 <;> simp [h0] <;> rfl
  have entries : s2.journal.entries = s.journal.entries := by
    unfold s2
    split <;> rfl
  rw [hbase, hn, if_neg (by simp [region, ready]), if_neg (by simp [good, show s1.isFatal = false from run])] at hexec
  split at hexec
  · exact ⟨_, hexec, written, by rw [journal, places], by rw [journal, entries]⟩
  · have send := source_sends s3 { port := 29, hdr := h, payload := [] }
    exact ⟨_, hexec, by rw [send.hbm, written], by rw [send.journal, journal, places],
      by rw [send.journal, journal, entries]⟩

theorem journalAck_acknowledges {s : State} {k : Nat} {x : InFrame} (hx : s.inboxFor k [0x41] = some x) :
    Answers (.journalAck k) s fun t => t.hbm = s.hbm
      ∧ (x.verdict = 0 → t.journal.unacked = s.journal.unacked.erase x.hdr.opx.toNat
          ∧ ∀ e ∈ t.journal.entries, e.seq = x.hdr.opx.toNat → e.mirrored = true)
      ∧ (x.verdict ≠ 0 → t.journal = s.journal) := by
  have hexec : exec (.journalAck k) s = execJournalAck k s := rfl
  unfold execJournalAck at hexec
  rw [hx] at hexec
  dsimp only at hexec
  by_cases good : x.verdict = 0
  · rw [if_neg (by simp [good])] at hexec
    refine ⟨_, hexec, rfl, fun _ => ⟨rfl, fun e he hs => ?_⟩, fun h => absurd good h⟩
    obtain ⟨e, -, rfl⟩ := List.mem_map.1 he
    split at hs
    · next h => rw [if_pos h]
    · next h => exact absurd (beq_iff_eq.2 hs) h
  · rw [if_pos (by simp [good])] at hexec
    exact ⟨_, hexec, rfl, fun h => absurd h good, fun _ => rfl⟩

/-! ## Step keys and COMMIT (R156, R158) -/

theorem mirrorSend_journal (s : State) (node seq : Nat) (img : List Byte) :
    (s.mirrorSend node seq img).journal = s.journal :=
  foldl_leaves (g := State.journal) (fun u _ => (source_sends u _).journal) _ s

/-- An entry that closes leaves the entries that are open. -/
theorem closeEntry_openE (s : State) (e : CjOpen) (ecc : Ecc) : (s.closeEntry e ecc).journal.openE = s.journal.openE := by
  unfold State.closeEntry
  extract_lets j size need held img s1 x s2
  have h2 : s2.journal.openE = s.journal.openE := by
    change s1.journal.openE = s.journal.openE
    unfold s1 State.ringWrite
    rw [ctlWrite_journal, ctlWrite_journal]
  split
  · rfl
  split
  · rfl
  split
  · rfl
  split
  · rw [mirrorSend_journal, h2]
  · exact h2

theorem closeEntries_openE (s : State) : s.closeEntries.journal.openE = [] :=
  foldl_leaves (g := fun u => u.journal.openE) (fun u e => closeEntry_openE u e []) _ _

theorem modPort_isFatal (s : State) (p : HostPort) (f : PortSt → PortSt) : (s.modPort p f).isFatal = s.isFatal := by
  cases p <;> rfl

section
variable {s : State} {p : HostPort} {v l : Word} {d : DWord} (hd : d = BitVec.ofNat 64 (v.toNat * 2 ^ 32 + l.toNat))
include hd

/-- The high half of a register follows the low half that its port holds (R4). -/
theorem pairWrite_of_held {lo : Nat} (held : Tab.get none (s.port p).hold lo = some l) (cur : DWord)
    (act : DWord → State → State) :
    s.pairWrite p lo true v cur act = act d (s.modPort p fun x => { x with hold := x.hold.drop lo }) := by
  unfold State.pairWrite
  rw [if_neg (by simp), held, hd]
  rfl

/-- A new step closes every entry that is open (R156, R158). -/
theorem mltCjStepWrite_closes (may : s.mayWrite p 0x330010 = true)
    (held : Tab.get none (s.port p).hold 0x330010 = some l) :
    Answers (.mltCjStepWrite p true v) s fun t => t.journal.step = d
      ∧ (d = s.journal.step ∨ s.isFatal = true → t.journal = { s.journal with step := d } ∧ t.hbm = s.hbm)
      ∧ (d ≠ s.journal.step → s.isFatal = false → t.journal.openE = []) := by
  have hexec : exec (.mltCjStepWrite p true v) s = execMltCjStepWrite p true v s := rfl
  unfold execMltCjStepWrite at hexec
  rw [hostWrite_acts may (fun _ => by simp [blockOf]), pairWrite_of_held hd held] at hexec
  have step := State.modPort_journal s p fun x => { x with hold := x.hold.drop 0x330010 }
  have fatal := modPort_isFatal s p fun x => { x with hold := x.hold.drop 0x330010 }
  have hbm := State.modPort_hbm s p fun x => { x with hold := x.hold.drop 0x330010 }
  generalize (s.modPort p fun x => { x with hold := x.hold.drop 0x330010 }) = u at hexec step fatal hbm
  dsimp only at hexec
  rw [step, fatal] at hexec
  by_cases h : d = s.journal.step ∨ s.isFatal = true
  · rw [if_pos (by simpa using h)] at hexec
    refine ⟨_, hexec, rfl, fun _ => ⟨?_, hbm⟩, fun hne run => ?_⟩
    · rw [← step]
      rfl
    · simp [hne, run] at h
  · rw [if_neg (by simpa using h)] at hexec
    exact ⟨_, hexec, rfl, fun h' => absurd h' h, fun _ _ => closeEntries_openE u⟩

/-- COMMIT moves up alone (R156). -/
theorem mltCjCommitWrite_rises (may : s.mayWrite p 0x330018 = true)
    (held : Tab.get none (s.port p).hold 0x330018 = some l) :
    Answers (.mltCjCommitWrite p true v) s fun t => t.hbm = s.hbm ∧ t.journal = { s.journal with
      commit := if d.toNat < s.journal.commit.toNat then s.journal.commit else d } := by
  have hexec : exec (.mltCjCommitWrite p true v) s = execMltCjCommitWrite p true v s := rfl
  unfold execMltCjCommitWrite at hexec
  rw [hostWrite_acts may (fun _ => by simp [blockOf]), pairWrite_of_held hd held] at hexec
  refine ⟨_, hexec, ?_⟩
  by_cases h : d.toNat < s.journal.commit.toNat <;> cases p <;> simp [h, State.modPort]

end

/-! ## The lookup sampler (R296) -/

/-- Beside its frames a controller's write leaves the core. -/
theorem ctlWrite_core (s : State) (a : Nat) (bytes : List Byte) (e : Ecc) (src : Nat) (poison : Bool) :
    { (s.ctlWrite a bytes e src poison).core with frames := [] } = { s.core with frames := [] } :=
  (congrArg State.core (ctlWrite_steady s a bytes e src poison) :)

theorem lookupSampleWrite_writes {s : State} {r : List Byte} {rest : List (List Byte)} (ha : s.alive = true)
    (hr : s.core.samples = r :: rest) (ready : s.hbmReady (s.core.sampBase.toNat + 64 * s.core.sampWp) 64 = true) :
    Answers .lookupSampleWrite s fun t => t.hbm = (s.hbmPut (s.core.sampBase.toNat + 64 * s.core.sampWp) r).hbm
      ∧ t.core.samples = rest ∧ t.core.sampWp = (s.core.sampWp + 1) % s.core.sampSlots := by
  have hexec : exec .lookupSampleWrite s = execLookupSampleWrite s := rfl
  unfold execLookupSampleWrite at hexec
  rw [hr] at hexec
  dsimp -zeta only at hexec
  extract_lets c u at hexec
  rw [if_neg (by simpa [ha] using ready)] at hexec
  have core : { u.core with frames := [] } = { s.core with frames := [] } := ctlWrite_core ..
  have wp : u.core.sampWp = s.core.sampWp := (congrArg Core.sampWp core :)
  have cfg : u.core.sampCfg = s.core.sampCfg := (congrArg Core.sampCfg core :)
  refine ⟨_, hexec, ctlWrite_hbm .., rfl, ?_⟩
  change (u.core.sampWp + 1) % u.core.sampSlots = _
  unfold Core.sampSlots
  rw [wp, cfg]

/-- The word of the sampler's CFG: EN, the base-2 logarithm of the rate, SIZE (R296). -/
def samplerCfg (w size : Nat) : Word := word (b2n (bitOf w 31) * 2 ^ 31 + bitsOf w 20 16 * 65536 + size)

theorem samplerCfg_fields (w : Nat) {size : Nat} (h : size < 65536) :
    bitOf (samplerCfg w size).toNat 31 = bitOf w 31 ∧ bitsOf (samplerCfg w size).toNat 20 16 = bitsOf w 20 16
    ∧ (samplerCfg w size).toNat % 65536 = size := by
  have hb : b2n (bitOf w 31) ≤ 1 := by cases bitOf w 31 <;> decide
  have hr : bitsOf w 20 16 < 32 := Nat.mod_lt _ (by decide)
  have hw : (samplerCfg w size).toNat = b2n (bitOf w 31) * 2 ^ 31 + bitsOf w 20 16 * 65536 + size := by
    unfold samplerCfg word
    rw [BitVec.toNat_ofNat]
    omega
  rw [hw]
  refine ⟨?_, ?_, by omega⟩
  · change ((b2n (bitOf w 31) * 2 ^ 31 + bitsOf w 20 16 * 65536 + size) / 2 ^ 31 % 2 == 1) = _
    cases bitOf w 31 <;> simp [b2n] <;> omega
  · change (b2n (bitOf w 31) * 2 ^ 31 + bitsOf w 20 16 * 65536 + size) / 2 ^ 16 % 2 ^ 5 = _
    omega

theorem mltSampCfgWrite_sets {s : State} {p : HostPort} {v : Word} (may : s.mayWrite p 0x321000 = true) :
    Answers (.mltSampCfgWrite p v) s fun t => t.hbm = s.hbm ∧ bitOf t.core.sampCfg.toNat 31 = bitOf v.toNat 31
      ∧ bitsOf t.core.sampCfg.toNat 20 16 = bitsOf v.toNat 20 16
      ∧ t.core.sampCfg.toNat % 65536
          = (if bitOf s.core.sampCfg.toNat 31 then s.core.sampCfg.toNat % 65536 else v.toNat % 65536)
      ∧ (bitOf v.toNat 31 = true → bitOf s.core.sampCfg.toNat 31 = false → t.core.sampWp = 0 ∧ t.core.lookups = 0)
      ∧ (bitOf s.core.sampCfg.toNat 31 = true → t.core.sampWp = s.core.sampWp ∧ t.core.lookups = s.core.lookups) := by
  have hexec : exec (.mltSampCfgWrite p v) s = execMltSampCfgWrite p v s := rfl
  unfold execMltSampCfgWrite at hexec
  rw [hostWrite_acts may (fun _ => by simp [blockOf])] at hexec
  refine ⟨_, hexec, rfl, ?_⟩
  have size : (if bitOf s.core.sampCfg.toNat 31 then s.core.sampCfg.toNat % 65536 else v.toNat % 65536) < 65536 := by
    split <;> omega
  obtain ⟨en, rate, low⟩ := samplerCfg_fields v.toNat size
  by_cases restart : (bitOf v.toNat 31 && !bitOf s.core.sampCfg.toNat 31) = true
  · rw [State.modCore_core, if_pos restart]
    rw [Bool.and_eq_true, Bool.not_eq_true'] at restart
    exact ⟨en, rate, low, fun _ _ => ⟨rfl, rfl⟩, fun on => absurd (restart.2.symm.trans on) (by decide)⟩
  · rw [State.modCore_core, if_neg restart]
    exact ⟨en, rate, low, fun hn off => absurd (by simp [hn, off]) restart, fun _ => ⟨rfl, rfl⟩⟩

/-- Settles O53: a copy opens one entry, and closing an entry leaves the open ones; a write by a controller
leaves the journal and the core but for its frames. -/
theorem journalAndSampler : Obligations.JournalAndSampler := by
  unfold Obligations.JournalAndSampler
  intro s
  exact ⟨fun k x hx ha turn => ⟨journalCopy_off hx ha turn, journalCopy_opens hx ha turn⟩,
    fun k x i off hx good hi ho run region ready => journalMirror_writes hx good hi ho run region ready,
    fun k x hx => journalAck_acknowledges hx,
    fun p v l d hd => ⟨mltCjStepWrite_closes hd, mltCjCommitWrite_rises hd⟩,
    fun r rest ha hr ready => lookupSampleWrite_writes ha hr ready,
    fun p v may => mltSampCfgWrite_sets may⟩

end Sys2Proof.Machine

namespace Sys2Proof.Machine

/-! # Data-mover streams: reads that leave (R147, R148, R151, R191) -/

theorem State.SendFrame.stream {s t : State} (h : s.SendFrame t) (k : Nat) : t.stream k = s.stream k := by
  unfold State.SendFrame at h
  rw [h]
  rfl

/-! ## A stream that a range fault closes (R151) -/

theorem State.StreamFrame.faultRec {s t : State} (h : s.StreamFrame t) (src d : Nat) :
    t.faultRec src d = s.faultRec src d := by
  unfold State.StreamFrame at h
  rw [h]
  rfl

theorem closeDigest_streams (s : State) (id : Nat) (b : Bool) : (s.closeDigest id b).streams = s.streams := by
  unfold State.closeDigest
  extract_lets a e t c u
  change u.streams = s.streams
  unfold u
  split <;> rfl

/-- A stream that is closed stays so when a fault halts a tun. -/
theorem haltFaultAt_isClosed {s : State} {j : Nat} (h : (s.stream j).isClosed) (id c : Nat) :
    ((s.haltFaultAt id c).stream j).isClosed := by
  unfold State.haltFaultAt
  extract_lets t s1 s2
  have h2 : (s2.stream j).isClosed := by
    have closed : (s1.digInvalid.stream j).isClosed := h
    exact foldl_closeAhead_isClosed (t := id) closed (s1.digInvalid.streamsOf id)
  clear_value s2
  split
  · exact h
  · split
    · unfold State.stream
      rw [closeDigest_streams]
      exact h2
    · exact h2

section
variable (s : State) (k : Nat)

theorem rangeFault_isClosed : ((s.rangeFault k).stream k).isClosed := by
  refine haltFaultAt_isClosed ?_ _ _
  change ((s.closeStream k).stream k).isClosed
  rw [closeStream_stream_same]
  exact ⟨rfl, rfl, rfl⟩

theorem rangeFault_hbm : (s.rangeFault k).hbm = s.hbm :=
  (streamFault_frame ..).hbm.trans (closeStream_streamFrame s k).hbm

theorem rangeFault_raises :
    s.faultRec (srcTun (s.stream k).tun 4) (3 * 256 + k % 256) ∈ (s.rangeFault k).fault.raised := by
  refine haltFaultAt_raised _ _ _ ?_
  rw [← (closeStream_streamFrame s k).faultRec]
  exact List.mem_append_right _ (List.mem_singleton.2 rfl)

variable {s k}

theorem rangeFault_halts (h : (s.tun (s.stream k).tun).phase = .running) :
    ((s.rangeFault k).tun (s.stream k).tun).phase = .haltedFault := by
  refine haltFaultAt_phase _ ?_
  change ((s.closeStream k).tun (s.stream k).tun).phase = .running
  unfold State.tun
  rw [closeStream_tuns]
  exact h

end

/-! ## Reads -/

section
variable {s : State} {k : Fin 1024} {n len : Nat} {a : Int} (acts : s.moverActs k = true)
  (next : (s.stream k).nextRead (s.readRoom k) = some (n, a, len))
include acts next

theorem streamReadIssue_local (here : (s.stream k).remote = none) (within : beyondHbm a len = false) :
    exec (.streamReadIssue k) s = .next (s.modStream k fun st => st.sentRead n a.toNat len none) := by
  change execStreamReadIssue k s = _
  unfold execStreamReadIssue
  dsimp only
  rw [next]
  dsimp only
  rw [if_neg (by simp [acts]), if_neg (by simp [within]), here]

theorem streamReadIssue_remote {node i tag : Nat} {rest : List (Nat × Nat)} {v : Reservation}
    (far : (s.stream k).remote = some node) (within : beyondHbm a len = false)
    (held : (s.stream k).reserved = (i, tag) :: rest) (hv : s.resv tag = some v) :
    Answers (.streamReadIssue k) s fun t =>
      t.stream k = (s.stream k).sentRead n a.toNat v.len (some tag) ∧ t.hbm = s.hbm ∧ t.tuns = s.tuns := by
  have hexec : exec (.streamReadIssue k) s = execStreamReadIssue k s := rfl
  unfold execStreamReadIssue at hexec
  extract_lets st at hexec
  rw [next] at hexec
  dsimp -zeta only at hexec
  rw [if_neg (by simp [acts]), if_neg (by simp [within]), far, held] at hexec
  simp -zeta only [List.head?_cons, Option.bind_some, hv, Option.map_some] at hexec
  extract_lets _ h s1 s2 at hexec
  have send := source_sends s2
    { port := 14 + 2 * (k / 256), hdr := h, payload := leBytes 4 v.len ++ leBytes 2 tag ++ zeros 2 }
  refine ⟨_, hexec, ?_, send.hbm, send.tuns⟩
  rw [send.stream, modStream_stream_same]
  rfl

theorem streamReadIssue_beyond (beyond : beyondHbm a len = true)
    (run : (s.tun (s.stream k).tun).phase = .running) : Answers (.streamReadIssue k) s fun t =>
      (t.stream k).active = false ∧ (t.tun (s.stream k).tun).phase = .haltedFault ∧ t.hbm = s.hbm
      ∧ s.faultRec (srcTun (s.stream k).tun 4) (3 * 256 + k.val % 256) ∈ t.fault.raised := by
  have hexec : exec (.streamReadIssue k) s = .next (s.rangeFault k) := by
    change execStreamReadIssue k s = _
    unfold execStreamReadIssue
    dsimp only
    rw [next]
    dsimp only
    rw [if_neg (by simp [acts]), if_pos beyond]
  obtain ⟨inactive, -, -⟩ := rangeFault_isClosed s k
  exact ⟨_, hexec, inactive, rangeFault_halts run, rangeFault_hbm s k, rangeFault_raises s k⟩

end

/-! ## The cells that a reply needs (R191) -/

/-- A turn of the granary leaves the streams. -/
theorem granaryTurn_streams (s : State) (n : Nat) : (s.granaryTurn n).streams = s.streams := by
  unfold State.granaryTurn
  extract_lets g s1
  change s1.streams = s.streams
  unfold s1
  split
  · obtain ⟨_, _, _, h⟩ := reach_frame s (s.coreFtc (s.coreNow + 1))
    rw [h]
  · rfl

section
variable {s : State} {p len tag : Nat} {r : Reservation} (free : (s.granaryTurn (1 + p)).freeTag = some tag)
  (room : (s.granaryTurn (1 + p)).admitTest ownReply 0 (cellsOf len) = .yes)
include free room

theorem reserve_reserves : ∃ u, s.reserve p len r = (u, some tag) ∧ u.streams = s.streams ∧ u.hbm = s.hbm
    ∧ (u.resv tag).map (fun v => (v.who, v.node, v.addr, v.len)) = some (r.who, r.node, r.addr, len) := by
  have streams := granaryTurn_streams s (1 + p)
  have hbm := hbm_eq_of_stillPart (granaryTurn_stillPart s (1 + p))
  unfold State.reserve
  generalize s.granaryTurn (1 + p) = o at free room streams hbm ⊢
  dsimp only
  rw [free]
  unfold State.takeCells
  dsimp only
  rw [room]
  dsimp only
  rw [if_neg (by simp)]
  refine ⟨_, rfl, streams, hbm, ?_⟩
  unfold State.resv
  rw [State.modGranary_granary, List.find?_cons_of_pos (by simp)]
  rfl

end

theorem replyReserve_reserves {s : State} {k : Fin 1024} {node n len tag : Nat} {a : Int} (acts : s.moverActs k = true)
    (far : (s.stream k).remote = some node) (next : (s.stream k).nextRead (s.readRoom k) = some (n, a, len))
    (none_ : (s.stream k).reserved = []) (within : beyondHbm a len = false)
    (free : (s.granaryTurn (15 + 2 * (k / 256))).freeTag = some tag)
    (room : (s.granaryTurn (15 + 2 * (k / 256))).admitTest ownReply 0 (cellsOf len) = .yes) :
    Answers (.replyReserve (.stream k)) s fun t => t.stream k = { s.stream k with reserved := [(n, tag)] }
      ∧ (t.resv tag).map (fun r => (r.who, r.node, r.addr, r.len)) = some (.stream k, node, a.toNat, len)
      ∧ t.hbm = s.hbm := by
  rw [show 15 + 2 * (k.val / 256) = 1 + (14 + 2 * (k.val / 256)) by omega] at free room
  obtain ⟨u, hu, streams, hbm, resv⟩ := reserve_reserves (r := { cells := 0, who := .stream k, since := 0
                                                                 epoch := (s.stream k).epoch, node := node
                                                                 addr := a.toNat, index := n }) free room
  have self : Fin.ofNat 1024 k.val = k := Fin.ext (Nat.mod_eq_of_lt k.isLt)
  refine ⟨u.modStream k fun st => { st with reserved := [(n, tag)] }, ?_, ?_, resv, hbm⟩
  · change Host.Outcome.next (s.reserveStream k) = _
    unfold State.reserveStream
    dsimp only
    rw [next, far]
    dsimp only
    rw [if_neg (by simp [acts, none_, within]), self, hu]
  · rw [modStream_stream_same]
    unfold State.stream
    rw [streams]

end Sys2Proof.Machine

namespace Sys2Proof.Machine

/-! # Data-mover streams: data that returns (R141, R150, R151, R424) -/

/-! ## Its way into the run-ahead store and the far half -/

theorem entriesOf_length (n : Nat) (bs : List Byte) : (entriesOf n bs).length = n := by
  induction n generalizing bs with
  | zero => rfl
  | succ n ih => rw [entriesOf, List.length_cons, ih]

theorem fit_length (n : Nat) (bs : List Byte) : (fit n bs).length = n := by
  unfold fit
  simp [zeros]
  omega

/-- From `s` to `v`, with `more` behind what queue `q` of tun `t` and the store of stream `k` hold. -/
structure State.Passes (s v : State) (k t q : Nat) (more : List (Entry × Taint)) : Prop where
  order : ((v.tun t).queue q).far ++ (v.stream k).store = ((s.tun t).queue q).far ++ (s.stream k).store ++ more
  near : ((v.tun t).queue q).near = ((s.tun t).queue q).near
  hbm : v.hbm = s.hbm
  core : v.core = s.core

/-- A refill moves entries from the store to the far half in their order (R147). -/
theorem refill_passes {s : State} {t q k : Nat} (hk : kettleOf t * 256 + (s.binding t q).far % 256 = k) :
    s.Passes (s.refill t q) k t q [] ∧ ((s.refill t q).stream k).arrived = (s.stream k).arrived := by
  have still : ∀ k, s.Passes s k t q [] := fun k => ⟨by rw [List.append_nil], rfl, rfl, rfl⟩
  unfold State.refill
  subst hk
  extract_lets b k st far n s1
  split
  · exact ⟨still k, rfl⟩
  split
  · exact ⟨still k, rfl⟩
  · refine ⟨⟨?_, ?_, rfl, rfl⟩, by rw [modStream_stream_same]; rfl⟩
    · rw [modStream_stream_same, State.tun, State.modStream_tuns]
      change ((s1.tun t).queue q).far ++ (s.stream k).store.drop n = _
      unfold s1
      rw [modTun_tun_same, modQueue_queue_same, List.append_assoc, List.take_append_drop, List.append_nil]
    · change ((s1.tun t).queue q).near = _
      unfold s1
      rw [modTun_tun_same, modQueue_queue_same]

/-- The stream with entries taken into its store in their turn, none returned early. -/
def Stream.takesIn (st : Stream) (mark : Taint) (es : List Entry) : Stream :=
  { st with early := [], arrived := st.arrived + es.length, store := st.store ++ markEntries mark es }

/-- The stream with one return that waits for its turn. -/
def Stream.waits (st : Stream) (n : Nat) (es : List Entry) (mark : Taint) : Stream := { st with early := [(n, es, mark)] }

/-- Entries in their turn go to the store, and from it to the queue (R150). -/
theorem streamEntries_eq {s : State} {k : Nat} (form : (s.stream k).form = 0) (early : (s.stream k).early = [])
    (es : List Entry) (mark : Taint) :
    ∃ u : State, s.streamEntries k (s.stream k).arrived es mark = u.refill (s.stream k).tun (s.stream k).queue
      ∧ u.stream k = (s.stream k).takesIn mark es
      ∧ u = { s with streams := u.streams } := by
  unfold State.streamEntries
  extract_lets s1 st
  have hst : st = (s.stream k).waits (s.stream k).arrived es mark := by
    unfold st s1
    rw [modStream_stream_same, early]
    rfl
  have one : s1.intoStore k st.early.length = s1.modStream k fun st =>
      { st with early := st.early.filter (·.1 != (s.stream k).arrived)
                arrived := if st.form == 0 then (s.stream k).arrived + es.length else (s.stream k).arrived + 1
                store := st.store ++ markEntries mark es } := by
    have found : (s1.stream k).early.find? (fun e => e.1 == (s1.stream k).arrived)
        = some ((s.stream k).arrived, es, mark) := by
      change st.early.find? (fun e => e.1 == st.arrived) = _
      rw [hst]
      simp [Stream.waits]
    rw [hst]
    change s1.intoStore k 1 = _
    unfold State.intoStore
    dsimp only
    rw [found]
    rfl
  refine ⟨s1.intoStore k st.early.length, by rw [hst]; rfl, ?_, by rw [one]; rfl⟩
  have hform : ((s.stream k).waits (s.stream k).arrived es mark).form = 0 := form
  rw [one, modStream_stream_same, show s1.stream k = _ from hst]
  rw [hform]
  simp [Stream.waits, Stream.takesIn]

section
variable {s : State} {k : Nat} (form : (s.stream k).form = 0) (early : (s.stream k).early = [])
  (home : kettleOf (s.stream k).tun * 256 + (s.binding (s.stream k).tun (s.stream k).queue).far % 256 = k)
include form early home

theorem streamEntries_passes (es : List Entry) (mark : Taint) :
    s.Passes (s.streamEntries k (s.stream k).arrived es mark) k (s.stream k).tun (s.stream k).queue (markEntries mark es)
    ∧ ((s.streamEntries k (s.stream k).arrived es mark).stream k).arrived = (s.stream k).arrived + es.length := by
  obtain ⟨u, hu, stream, same⟩ := streamEntries_eq form early es mark
  have binding : u.binding (s.stream k).tun (s.stream k).queue = s.binding (s.stream k).tun (s.stream k).queue := by
    rw [same]
    rfl
  have tun : u.tun (s.stream k).tun = s.tun (s.stream k).tun := by
    rw [same]
    rfl
  have hbm : u.hbm = s.hbm := by rw [same]
  have core : u.core = s.core := by rw [same]
  obtain ⟨passes, arrived⟩ := refill_passes (s := u) (t := (s.stream k).tun) (q := (s.stream k).queue) (k := k)
    (by rw [binding, home])
  rw [hu]
  refine ⟨⟨?_, ?_, passes.hbm.trans hbm, passes.core.trans core⟩, by rw [arrived, stream]; rfl⟩
  · rw [passes.order, tun, stream, List.append_nil, List.append_assoc]
    rfl
  · rw [passes.near, tun]

variable (part : (s.stream k).part = []) (good : (s.stream k).partBad = .good)
include part good

/-- Data of a read in its turn passes behind what waits, with its mark (R150, R424). -/
theorem streamArrives_passes {r : StreamRead} (turn : r.nth = (s.stream k).arrived) (bytes : List Byte) (mark : Taint) :
    s.Passes (s.streamArrives k r bytes mark) k (s.stream k).tun (s.stream k).queue
        (markEntries mark (entriesOf (bytes.length / 64) bytes))
    ∧ ((s.streamArrives k r bytes mark).stream k).arrived = (s.stream k).arrived + bytes.length / 64 := by
  have h : s.streamArrives k r bytes mark
      = s.streamEntries k (s.stream k).arrived (entriesOf (bytes.length / 64) bytes) mark := by
    unfold State.streamArrives State.streamData
    simp only [form, part, good, turn, bne_self_eq_false, Bool.false_and, Bool.false_eq_true, if_false, List.nil_append,
      BEq.rfl, if_true]
  have passes := streamEntries_passes form early home (entriesOf (bytes.length / 64) bytes) mark
  rw [entriesOf_length] at passes
  rw [h]
  exact passes

end

/-! ## Data of HBM (R141, R144, R151) -/

theorem State.EccFrame.streams {s t : State} (h : s.EccFrame t) : t.streams = s.streams := by
  unfold State.EccFrame at h
  rw [h]
theorem State.EccFrame.tuns {s t : State} (h : s.EccFrame t) : t.tuns = s.tuns := by
  unfold State.EccFrame at h
  rw [h]
theorem State.EccFrame.stream {s t : State} (h : s.EccFrame t) (k : Nat) : t.stream k = s.stream k := by
  unfold State.stream
  rw [h.streams]
theorem State.EccFrame.binding {s t : State} (h : s.EccFrame t) (t' q : Nat) : t.binding t' q = s.binding t' q := by
  unfold State.EccFrame at h
  rw [h]
  rfl
theorem State.EccFrame.hbmBytes {s t : State} (h : s.EccFrame t) (a n : Nat) : t.hbmBytes a n = s.hbmBytes a n := by
  unfold State.EccFrame at h
  rw [h]
  rfl
theorem State.EccFrame.taintOf {s t : State} (h : s.EccFrame t) (a n : Nat) (e : Ecc) :
    t.taintOf a n e = s.taintOf a n e := by
  unfold State.EccFrame at h
  rw [h]
  rfl

theorem ringEvent_eccFrame (s : State) (r : RingOutcome) : s.EccFrame (s.ringEvent r) := by cases r <;> exact rfl

theorem State.EccFrame.core {s t : State} (h : s.EccFrame t) : t.core = s.core := by
  unfold State.EccFrame at h
  rw [h]

theorem State.Passes.of_same {s u v : State} {k t q : Nat} {more : List (Entry × Taint)} (h : u.Passes v k t q more)
    (tun : u.tun t = s.tun t) (store : (u.stream k).store = (s.stream k).store) (hbm : u.hbm = s.hbm)
    (core : u.core = s.core) : s.Passes v k t q more where
  order := by rw [h.order, tun, store]
  near := by rw [h.near, tun]
  hbm := h.hbm.trans hbm
  core := h.core.trans core

section
variable {s : State} {k : Fin 1024} {r : StreamRead} {e : Ecc} {ring : RingOutcome} (acts : s.moverActs k = true)
  (due : (s.stream k).reads.find? (fun r => r.tag.isNone) = some r) (ready : r.cut || s.hbmReady r.addr r.bytes = true)
include acts due ready

/-- The mark of data that a ring transfer lost or a reset cut off is bad (R141, R392). -/
def State.returnMark (s : State) (k : Nat) (r : StreamRead) (e : Ecc) (ring : RingOutcome) : Taint :=
  if r.cut || (s.moverRing k r.addr && ring == .failed) then .bad else s.taintOf r.addr r.bytes e

theorem exec_streamReadReturn : ∃ u : State, (s.modStream k fun st => { st with reads := st.reads.erase r }).EccFrame u
    ∧ exec (.streamReadReturn k ⟨e, ring⟩) s = .next (if (s.stream k).active && r.epoch == (s.stream k).epoch
        then u.streamArrives k r (s.hbmBytes r.addr r.bytes) (s.returnMark k r e ring) else u) := by
  have hexec : exec (.streamReadReturn k ⟨e, ring⟩) s = execStreamReadReturn k ⟨e, ring⟩ s := rfl
  unfold execStreamReadReturn at hexec
  extract_lets st at hexec
  rw [due] at hexec
  dsimp -zeta only at hexec
  have now_ : (r.cut || s.hbmReady r.addr r.bytes) = true := by simpa using ready
  rw [if_neg (by rw [now_]; simp [acts])] at hexec
  extract_lets s1 open_ x ahead far lost e' s2 mark use s3 at hexec
  have ring_ : s1.EccFrame s2 := by
    unfold s2
    split
    · exact ringEvent_eccFrame s1 ring
    · exact .refl s1
  have read : s1.EccFrame s3 := ring_.trans (eccRead_eccFrame ..)
  have hmark : mark = s.returnMark k r e ring := by
    unfold mark State.returnMark
    refine ite_congr rfl (fun _ => rfl) fun kept => ?_
    have whole : r.cut = false := by
      rw [Bool.not_eq_true, Bool.or_eq_false_iff] at kept
      exact kept.1
    unfold e'
    rw [ring_.taintOf, whole]
    rfl
  refine ⟨s3, read, hexec.trans ?_⟩
  rw [hmark, read.hbmBytes]
  rfl

theorem streamReadReturn_closed (closed : (s.stream k).active = false ∨ r.epoch ≠ (s.stream k).epoch) :
    Answers (.streamReadReturn k ⟨e, ring⟩) s fun t => (t.stream k).reads = (s.stream k).reads.erase r
      ∧ (t.stream k).store = (s.stream k).store ∧ t.tuns = s.tuns ∧ t.hbm = s.hbm := by
  obtain ⟨u, same, hexec⟩ := exec_streamReadReturn (e := e) (ring := ring) acts due ready
  have stream := same.stream k
  rw [modStream_stream_same] at stream
  rw [if_neg (by simpa [imp_iff_not_or] using closed)] at hexec
  exact ⟨u, hexec, by rw [stream], by rw [stream], same.tuns, same.hbm⟩

theorem streamReadReturn_passes (active : (s.stream k).active = true) (epoch : r.epoch = (s.stream k).epoch)
    (form : (s.stream k).form = 0) (early : (s.stream k).early = []) (part : (s.stream k).part = [])
    (good : (s.stream k).partBad = .good) (turn : r.nth = (s.stream k).arrived)
    (home : kettleOf (s.stream k).tun * 256 + (s.binding (s.stream k).tun (s.stream k).queue).far % 256 = k.val) :
    Answers (.streamReadReturn k ⟨e, ring⟩) s fun t =>
      s.Passes t k (s.stream k).tun (s.stream k).queue
        (markEntries (s.returnMark k r e ring) (entriesOf (r.bytes / 64) (s.hbmBytes r.addr r.bytes)))
      ∧ (t.stream k).arrived = (s.stream k).arrived + r.bytes / 64 := by
  obtain ⟨u, same, hexec⟩ := exec_streamReadReturn (e := e) (ring := ring) acts due ready
  have stream := same.stream k
  rw [modStream_stream_same] at stream
  rw [if_pos (by simp [active, epoch])] at hexec
  have bytes : (s.hbmBytes r.addr r.bytes).length = r.bytes := by simp [State.hbmBytes]
  obtain ⟨passes, arrived⟩ := streamArrives_passes (s := u) (k := k) (r := r) (by rw [stream]; exact form)
    (by rw [stream]; exact early) (by rw [stream, same.binding]; exact home) (by rw [stream]; exact part)
    (by rw [stream]; exact good) (by rw [stream]; exact turn) (s.hbmBytes r.addr r.bytes) (s.returnMark k r e ring)
  rw [stream, bytes] at passes arrived
  exact ⟨_, hexec, passes.of_same (s := s) (same.tun _) (by rw [stream]) same.hbm same.core, arrived⟩

end

/-! ## Replies (R151, R191) -/

/-- A frame that is taken, and the reads of its tag that are not awaited any longer. -/
theorem readReply_passes {s : State} {i : Nat} {k : Fin 1024} {x : InFrame} {tag : Nat} {r : StreamRead}
    (hx : s.inboxFor i [0x03] = some x) (hk : x.hdr.epIdx = k.val) (ht : tag = x.hdr.opx.toNat % 65536)
    (hr : (s.stream k).reads.find? (fun r => r.tag == some tag) = some r) (active : (s.stream k).active = true)
    (epoch : r.epoch = (s.stream k).epoch) (sent : x.hdr.epoch.toNat = (s.stream k).epoch % 256)
    (form : (s.stream k).form = 0) (early : (s.stream k).early = []) (part : (s.stream k).part = [])
    (good : (s.stream k).partBad = .good) (turn : r.nth = (s.stream k).arrived)
    (home : kettleOf (s.stream k).tun * 256 + (s.binding (s.stream k).tun (s.stream k).queue).far % 256 = k.val) :
    Answers (.readReply i) s fun t =>
      (s.taken x).Passes t k (s.stream k).tun (s.stream k).queue (markEntries (if x.verdict = 0 then .good else .bad)
        (entriesOf (r.bytes / 64) (fit r.bytes x.payload))) := by
  have hexec : exec (.readReply i) s = execReadReply i s := rfl
  unfold execReadReply at hexec
  rw [hx] at hexec
  dsimp -zeta only at hexec
  rw [hk, ← ht] at hexec
  extract_lets i' tag' st read u at hexec
  rw [show read = some r from hr] at hexec
  dsimp -zeta only at hexec
  rw [if_neg (by simp [st, i', active, epoch, sent])] at hexec
  have taken := taken_sends s x
  have stream : u.stream k = { s.stream k with reads := (s.stream k).reads.filter fun r => r.tag != some tag } := by
    unfold u
    rw [modStream_stream_same, taken.stream]
  have binding : u.binding (s.stream k).tun (s.stream k).queue = s.binding (s.stream k).tun (s.stream k).queue :=
    binding_congr taken.grist _ _
  obtain ⟨passes, -⟩ := streamArrives_passes (s := u) (k := k) (r := r) (by rw [stream]; exact form)
    (by rw [stream]; exact early) (by rw [stream, binding]; exact home) (by rw [stream]; exact part)
    (by rw [stream]; exact good) (by rw [stream]; exact turn) (fit r.bytes x.payload) (if x.verdict = 0 then .good else .bad)
  rw [stream, fit_length] at passes
  refine ⟨_, hexec.trans ?_, passes.of_same rfl ?_ rfl rfl⟩
  · congr 2
    exact if_congr beq_iff_eq rfl rfl
  · rw [stream, taken.stream]

end Sys2Proof.Machine

namespace Sys2Proof.Machine

/-! # Data-mover streams: writes (R141, R148, R152) -/

/-- A write of entries from a queue, counted in its flag, leaves the queues, the output and the grist. -/
theorem countFlag_ctlWrite_leaves {s v : State} (same : v.steady = s.steady) (hbm : v.hbm = s.hbm) (a : Nat)
    (bytes : List Byte) (e : Ecc) (poison : Bool) (t q n : Nat) :
    ((v.ctlWrite a bytes e 1 poison).countFlag t q n).hbm = (s.hbmPut a bytes).hbm
    ∧ (((v.ctlWrite a bytes e 1 poison).countFlag t q n).tun t).queue q = (v.tun t).queue q
    ∧ ((v.ctlWrite a bytes e 1 poison).countFlag t q n).out = s.out
    ∧ ((v.ctlWrite a bytes e 1 poison).countFlag t q n).grist = s.grist := by
  have kept : ((v.ctlWrite a bytes e 1 poison).countFlag t q n).steady = s.steady := by
    rw [countFlag_steady, ctlWrite_steady, same]
  refine ⟨?_, queue_eq_of_tunQueues ?_ q, out_eq_of_steady kept, grist_eq_of_steady kept⟩
  · rw [(countFlag_frame ..).hbm, ctlWrite_hbm]
    exact hbmPut_hbm_congr hbm (hbmFill_eq_of_steady same) (hbmMode_eq_of_steady same) a bytes
  · rw [countFlag_tunQueues, ctlWrite_tunQueues]

theorem ringEvent_if_steady (s : State) (far : Bool) (r : RingOutcome) :
    (if far then s.ringEvent r else s).steady = s.steady := by
  split
  · exact ringEvent_steady s r
  · rfl

theorem ringEvent_if_hbm (s : State) (far : Bool) (r : RingOutcome) : (if far then s.ringEvent r else s).hbm = s.hbm := by
  split
  · exact (ringEvent_keeps s r).2.1
  · rfl

theorem ringEvent_if_tun (s : State) (far : Bool) (r : RingOutcome) (k : Nat) :
    (if far then s.ringEvent r else s).tun k = s.tun k := by
  split
  · exact (ringEvent_keeps s r).1 k
  · rfl

theorem entryBytes_length (v : Entry) : (entryBytes v).length = 64 := by simp [entryBytes, leBytes]

/-- The line at which a piece of bytes begins is among its lines. -/
theorem line_mem_linesOf {a n : Nat} (h : 0 < n) : a / 64 * 64 ∈ linesOf a n := by
  unfold linesOf
  rw [if_neg (by simp; omega)]
  refine List.mem_map.2 ⟨0, List.mem_range.2 ?_, by omega⟩
  omega

section
variable {s : State} {k : Fin 1024} (acts : s.moverActs k = true) (active : (s.stream k).active = true)
  (write : (s.stream k).write = true)
include acts active write

theorem streamWritePerform_entry (form : (s.stream k).form = 0) {v : Entry} {rest : List Entry} {a : Int}
    (near : ((s.tun (s.stream k).tun).queue (s.stream k).queue).near = v :: rest)
    (ha : a = (s.stream k).entryAddr (s.stream k).moved) (within : beyondHbm a 64 = false)
    (ready : s.hbmReady a.toNat 64 = true) (e : Ecc) (ring : RingOutcome) :
    Answers (.streamWritePerform k ⟨e, ring⟩) s fun t =>
      t.hbm = (s.hbmPut a.toNat (entryBytes v)).hbm
      ∧ ((t.tun (s.stream k).tun).queue (s.stream k).queue).near = rest ∧ t.out = s.out ∧ t.grist = s.grist
      ∧ (s.moverRing k a.toNat = true → ring = .failed → t.poisonedAt (a.toNat / 64 * 64) = true) := by
  have hexec : exec (.streamWritePerform k ⟨e, ring⟩) s = execStreamWritePerform k ⟨e, ring⟩ s := rfl
  unfold execStreamWritePerform at hexec
  extract_lets st t q x a' far s1 _ _ _ at hexec
  rw [if_neg (by simp [st, acts, active, write]), if_pos (beq_iff_eq.2 form), near] at hexec
  dsimp -zeta only at hexec
  rw [if_neg (by simp [a', st, ← ha, within]), if_neg (by simp [a', st, ← ha, ready])] at hexec
  extract_lets s2 s3 at hexec
  rw [show a' = a from ha.symm] at hexec
  have same : s3.steady = s.steady := ringEvent_if_steady s far ring
  have hbm : s3.hbm = s.hbm := ringEvent_if_hbm s far ring
  obtain ⟨written, queue, out, grist⟩ := countFlag_ctlWrite_leaves same hbm a.toNat (entryBytes v) e
    (far && ring == .failed) t q 1
  refine ⟨_, hexec, written, ?_, out, grist, fun ringed failed => ?_⟩
  · refine (congrArg Queue.near queue).trans ?_
    change ((s2.tun t).queue q).near = rest
    unfold s2
    rw [modTun_tun_same, modQueue_queue_same]
  · have hfar : far = true := by
      unfold far
      rw [show a' = a from ha.symm, ringed]
    have inside : a.toNat + 64 ≤ hbmTop := by
      simp [beyondHbm] at within
      omega
    rw [(countFlag_frame ..).poisonedAt, hfar, failed]
    refine ctlWrite_poisons ?_ (by omega)
    rw [entryBytes_length]
    exact line_mem_linesOf (by decide)

theorem streamWritePerform_tile (form : (s.stream k).form ≠ 0)
    (full : 64 ≤ ((s.tun (s.stream k).tun).queue (s.stream k).queue).far.length) {c : Nat × List Byte} {bytes : List Byte}
    (hc : c = encodeTile (s.stream k).form (s.stream k).widthCode
      ((((s.tun (s.stream k).tun).queue (s.stream k).queue).far.take 64).flatMap fun v => entryBytes v.1))
    (hb : bytes = leBytes 8 c.1 ++ padTo8 c.2) (within : (s.stream k).tileAt + bytes.length ≤ hbmTop)
    (ready : s.hbmReady (s.stream k).tileAt bytes.length = true) (e : Ecc) (ring : RingOutcome) :
    Answers (.streamWritePerform k ⟨e, ring⟩) s fun t =>
      t.hbm = (s.hbmPut (s.stream k).tileAt bytes).hbm
      ∧ ((t.tun (s.stream k).tun).queue (s.stream k).queue).near
        = ((s.tun (s.stream k).tun).queue (s.stream k).queue).near
      ∧ ((t.tun (s.stream k).tun).queue (s.stream k).queue).far
        = ((s.tun (s.stream k).tun).queue (s.stream k).queue).far.drop 64
      ∧ t.out = s.out ∧ t.grist = s.grist := by
  have hexec : exec (.streamWritePerform k ⟨e, ring⟩) s = execStreamWritePerform k ⟨e, ring⟩ s := rfl
  unfold execStreamWritePerform at hexec
  extract_lets st t q x _ _ _ far s1 s2 at hexec
  rw [if_neg (by simp [st, acts, active, write]), if_neg (mt beq_iff_eq.1 form), if_neg (by simpa [x] using full), ← hc]
    at hexec
  dsimp -zeta only at hexec
  rw [← hb] at hexec
  extract_lets written_ s3 at hexec
  rw [if_neg (Nat.not_lt.2 within), if_neg (by simp [st, written_, ready])] at hexec
  obtain ⟨written, queue, out, grist⟩ := countFlag_ctlWrite_leaves (v := s3) (ringEvent_if_steady s far ring)
    (ringEvent_if_hbm s far ring) st.tileAt bytes e (far && ring == .failed) t q 64
  have drained : ((s2.tun t).queue q).near = x.near ∧ ((s2.tun t).queue q).far = x.far.drop 64 := by
    unfold s2 s1
    rw [modTun_tun_same, modQueue_queue_same, ringEvent_if_tun]
    exact ⟨rfl, rfl⟩
  obtain ⟨near, far_⟩ := drained
  exact ⟨_, hexec, written, (congrArg Queue.near queue).trans near, (congrArg Queue.far queue).trans far_, out, grist⟩

end

end Sys2Proof.Machine

namespace Sys2Proof.Machine

theorem State.SendFrame.tun {s t : State} (h : s.SendFrame t) (k : Nat) : t.tun k = s.tun k := by
  unfold State.tun
  rw [h.tuns]

/-! # Binding frames and receive queues (R178) -/

theorem bindingFrameSend_counts {s : State} {g : Fin 192} {b : Fin 64} {y : Binding} {es : List Entry}
    (acts : s.tunActs g = true) (hb : 48 ≤ b.val) (hy : y = s.binding g b) (kind : y.kind = 6)
    (far : bitsOf y.far 31 16 / 4096 ≠ 1) (idle : s.bindingBusy g b = false)
    (hes : es = ((((s.tun g).queue b).far.map (·.1))
      ++ (if s.bindForm g y = 0 then ((s.tun g).queue b).near else [])).take 64)
    (some_ : es ≠ []) (full : s.bindForm g y ≠ 0 → es.length = 64) :
    Answers (.bindingFrameSend g b) s fun t => (t.tun g).queues = (s.tun g).queues
      ∧ Tab.get 0 (t.tun g).seqOut (b.val - 48) = (Tab.get 0 (s.tun g).seqOut (b.val - 48) + 1) % 2 ^ 32
      ∧ t.hbm = s.hbm ∧ t.fault = s.fault := by
  subst hy
  have hexec : exec (.bindingFrameSend g b) s = execBindingFrameSend g b s := rfl
  unfold execBindingFrameSend at hexec
  extract_lets y x form ep es' bytes seq packed h0 s1 at hexec
  have same : es' = es := by
    rw [hes]
    unfold es'
    congr 2
    exact if_congr beq_iff_eq rfl rfl
  rw [if_neg (by simp [y, ep, acts, kind, far, idle]; omega), same,
    if_neg (by simpa [some_, form] using fun h => (full h).ge)] at hexec
  generalize (if form == 0 then (0, bytes) else (packed.1, padTo8 packed.2)) = pair at hexec
  obtain ⟨hdr, p⟩ := pair
  dsimp -zeta only at hexec
  extract_lets h at hexec
  have send := source_sends s1 { port := widePort g y.alt, hdr := h, payload := p, binding := some (g.val, b.val) }
  have tun : s1.tun g = { s.tun g with seqOut := Tab.set 0 (s.tun g).seqOut (b.val - 48) ((seq + 1) % 2 ^ 32) } :=
    modTun_tun_same ..
  refine ⟨_, hexec, ?_, ?_, send.hbm, send.fault⟩
  · rw [send.tun, tun]
  · rw [send.tun, tun]
    exact Tab.get_set_same ..

/-! ## A kettle's inbound binding -/

/-- The entries of a frame fit the queue of its binding (R178). -/
def State.bindingFits (s : State) (g b : Nat) (x : InFrame) : Bool :=
  if s.bindForm g (s.binding g b) == 0 then
    ((s.tun g).queue b).near.length + ((s.tun g).queue b).far.length + x.payload.length / 64 ≤ 64
  else ((s.tun g).queue b).far.isEmpty

/-- The entries that a frame brings, in the form of its binding (R177, R292). -/
def State.bindingEntries (s : State) (g b : Nat) (x : InFrame) : Option (List Entry) :=
  if s.bindForm g (s.binding g b) == 0 then
    (if x.hdr.cmp then none else some (entriesOf (x.payload.length / 64) x.payload))
  else if !x.hdr.cmp then none
  else (decodeTile (s.bindForm g (s.binding g b)) (bitsOf (s.binding g b).param 19 18) x.hdr.opx.toNat x.payload).map
    (entriesOf 64)

section
variable {s : State} {i : Nat} {x : InFrame} (hx : s.inboxFor i [0x01] = some x)
include hx

theorem exec_writeStreamReceive : exec (.writeStreamReceive i) s =
    .next (if x.hdr.epKind == 0 then s.bindingReceive x else s.queueReceive x) := by
  change execWriteStreamReceive i s = _
  unfold execWriteStreamReceive
  rw [hx]

variable (ep : x.hdr.epKind = 0) {g b : Nat} (hg : g = x.hdr.epIdx / 16) (hb : b = 48 + x.hdr.epIdx % 16)
  (awake : s.asleep (kettleOf g) = false) (fits : s.bindingFits g b x = true)
include ep hg hb awake fits

/-- A frame with another SEQ faults (R178). -/
theorem exec_bindingReceive_outOfSequence (seq : x.hdr.seq.toNat ≠ Tab.get 0 (s.tun g).seqIn (b - 48)) :
    exec (.writeStreamReceive i) s = .next (((s.taken x).seqError x.hdr).bindingFault g b 4) := by
  subst hg hb
  have hexec := exec_writeStreamReceive hx
  rw [if_pos (beq_iff_eq.2 ep)] at hexec
  unfold State.bindingReceive at hexec
  extract_lets h g b bd form want qu n fits' halted entries at hexec
  have hfits : fits' = true := by
    rw [← fits]
    unfold fits' State.bindingFits n
    exact if_ctx_congr Iff.rfl (fun h => by rw [if_pos h]) fun _ => rfl
  rw [if_neg (by simp [g, h, awake]), if_neg (by simp [hfits]), if_pos (bne_iff_ne.2 seq)] at hexec
  exact hexec

/-- A frame with the expected SEQ and a good verdict adds its entries to its queue (R178). -/
theorem bindingReceive_adds (seq : x.hdr.seq.toNat = Tab.get 0 (s.tun g).seqIn (b - 48)) (good : x.verdict = 0)
    {es : List Entry} (hes : s.bindingEntries g b x = some es) :
    Answers (.writeStreamReceive i) s fun t =>
      ((t.tun g).queue b).far = ((s.tun g).queue b).far ++ es.map (fun e => (e, .good))
      ∧ ((t.tun g).queue b).near = ((s.tun g).queue b).near
      ∧ Tab.get 0 (t.tun g).seqIn (b - 48) = (x.hdr.seq.toNat + 1) % 2 ^ 32 ∧ t.fault = s.fault ∧ t.hbm = s.hbm := by
  subst hg hb
  have hexec := exec_writeStreamReceive hx
  rw [if_pos (beq_iff_eq.2 ep)] at hexec
  unfold State.bindingReceive at hexec
  extract_lets h g b bd form want qu n fits' halted entries at hexec
  have hfits : fits' = true := by
    rw [← fits]
    unfold fits' State.bindingFits n
    exact if_ctx_congr Iff.rfl (fun h => by rw [if_pos h]) fun _ => rfl
  have hentries : entries = some es := by
    rw [← hes]
    unfold entries State.bindingEntries n
    exact if_ctx_congr Iff.rfl (fun h => by rw [if_pos h]) fun _ => rfl
  rw [if_neg (by simp [g, h, awake]), if_neg (by simp [hfits]), if_neg (by rw [bne_iff_ne, not_not]; exact seq),
    if_neg (by simp [good]),
    hentries] at hexec
  dsimp -zeta only at hexec
  rw [if_neg (by simp [hfits])] at hexec
  have taken := taken_sends s x
  have queue := modQueue_queue_same (s.tun g) b fun y => { y with far := y.far ++ es.map fun e => (e, .good) }
  refine ⟨_, hexec, ?_, ?_, ?_, taken.fault, taken.hbm⟩
  · rw [modTun_tun_same, taken.tun]
    exact congrArg Queue.far queue
  · rw [modTun_tun_same, taken.tun]
    exact (congrArg Queue.near queue).trans rfl
  · rw [modTun_tun_same]
    exact (Tab.get_set_same ..).trans (by rw [seq])

end

section
variable (s : State) (h : Header)

theorem seqError_latches : bitOf (s.seqError h).core.seqErr.toNat 31 = true := by
  unfold State.seqError
  rw [State.modCore_core]
  split
  · assumption
  · have small : h.endpoint.toNat < 2 ^ 16 := h.endpoint.isLt
    unfold bitOf word
    rw [BitVec.toNat_ofNat, beq_iff_eq]
    omega

end

theorem bindingReceive_faults {s : State} {i : Nat} {x : InFrame} {g b : Nat} (hx : s.inboxFor i [0x01] = some x)
    (ep : x.hdr.epKind = 0) (hg : g = x.hdr.epIdx / 16) (hb : b = 48 + x.hdr.epIdx % 16)
    (awake : s.asleep (kettleOf g) = false) (fits : s.bindingFits g b x = true)
    (seq : x.hdr.seq.toNat ≠ Tab.get 0 (s.tun g).seqIn (b - 48)) : Answers (.writeStreamReceive i) s fun t =>
      (t.tun g).queue b = (s.tun g).queue b ∧ bitOf t.core.seqErr.toNat 31 = true ∧ t.hbm = s.hbm
      ∧ s.faultRec (srcTun g 5) (4 * 256 + b) ∈ t.fault.raised := by
  have taken := taken_sends s x
  refine ⟨_, exec_bindingReceive_outOfSequence hx ep hg hb awake fits seq, ?_, ?_, ?_, ?_⟩
  · refine (haltFaultAt_queue ..).trans ?_
    change ((s.taken x).tun g).queue b = _
    rw [taken.tun]
  · have kept := congrArg (fun v => v.core.seqErr) (bindingFault_steady ((s.taken x).seqError x.hdr) g b 4)
    exact (congrArg (fun w : Word => bitOf w.toNat 31) kept).trans (seqError_latches ..)
  · exact (bindingFault_frame ..).hbm.trans taken.hbm
  · refine haltFaultAt_raised _ _ _ ?_
    rw [← faultRec_congr (v := (s.taken x).seqError x.hdr) taken.time taken.now]
    exact List.mem_append_right _ (List.mem_singleton.2 rfl)

/-! ## A receive queue -/

theorem foldl_emit_out {α : Type} (f : α → Output) (l : List α) (s : State) :
    (l.foldl (fun s a => s.emit (f a)) s).out = (l.map f).reverse ++ s.out := by
  induction l generalizing s with
  | nil => rfl
  | cons a l ih =>
    rw [List.foldl_cons, ih, List.map_cons, List.reverse_cons, List.append_assoc]
    rfl

section
variable (s : State) (p : HostPort) (a : Nat) (bytes : List Byte) (relaxed : Bool)

theorem sendWrite_out : (s.sendWrite p a bytes relaxed).out = s.withWrites p a bytes relaxed := foldl_emit_out _ _ _

theorem sendWrite_leaves {β : Type} {f : State → β} (h : ∀ u o, f (State.emit u o) = f u) :
    f (s.sendWrite p a bytes relaxed) = f s := foldl_leaves (g := f) (fun u _ => h u _) _ s

end

theorem mem_ops_of_recvOp {q : StreamQ} {o : SqOp} (h : q.recvOp = some o) : o ∈ q.ops := by
  have hr : o ∈ q.recvs := List.mem_of_mem_head? h
  unfold StreamQ.recvs at hr
  split at hr
  · simp at hr
  · exact List.takeWhile_subset _ (List.mem_filter.1 hr).1

theorem queueReceive_fills {s : State} {i : Nat} {x : InFrame} {o : SqOp} {p : HostPort}
    (hx : s.inboxFor i [0x01] = some x) (ep : x.hdr.epKind = 2) (seq : x.hdr.seq.toNat = (s.sq x.hdr.epIdx).seqIn)
    (ho : (s.sq x.hdr.epIdx).recvOp = some o) (hp : (s.sq x.hdr.epIdx).port = some p) :
    Answers (.writeStreamReceive i) s fun t => t.out = s.withWrites p (natAt o.desc 8 8) x.payload true
      ∧ (t.sq x.hdr.epIdx).seqIn = ((s.sq x.hdr.epIdx).seqIn + 1) % 2 ^ 32
      ∧ (∃ z ∈ (t.sq x.hdr.epIdx).ops, z.index = o.index ∧ z.status = some (if x.verdict = 0 then 0 else 3)
          ∧ z.bytes = x.hdr.length.toNat) ∧ t.hbm = s.hbm := by
  have hexec := exec_writeStreamReceive hx
  rw [if_neg (by simp [ep])] at hexec
  unfold State.queueReceive at hexec
  extract_lets h q sq at hexec
  rw [if_neg (by simpa using seq), show sq.recvOp = some o from ho, show sq.port = some p from hp] at hexec
  dsimp -zeta only at hexec
  extract_lets s1 at hexec
  have sqs : s1.sqs = s.sqs := sendWrite_leaves s p _ _ _ (f := State.sqs) fun _ _ => rfl
  have hbm : s1.hbm = s.hbm := sendWrite_leaves s p _ _ _ (f := State.hbm) fun _ _ => rfl
  have out : s1.out = s.withWrites p (natAt o.desc 8 8) x.payload true := sendWrite_out ..
  clear_value s1
  have old : (s1.taken x).sq q = s.sq q := by
    change Tab.get {} s1.sqs q = _
    rw [sqs]
    rfl
  refine ⟨_, hexec, out, ?_, ?_, hbm⟩
  · rw [modSq_sq_same, old]
  · rw [modSq_sq_same, old]
    refine ⟨_, List.mem_map.2 ⟨o, mem_ops_of_recvOp ho, rfl⟩, ?_⟩
    rw [if_pos (beq_self_eq_true _)]
    exact ⟨rfl, congrArg some (if_congr beq_iff_eq rfl rfl), rfl⟩

/-- Settles O52: data passes through the run-ahead store to the far half in its order, a controller's write
leaves the queues, and a frame of a binding or a receive queue is judged by its SEQ. -/
theorem dataMoverStreams : Obligations.DataMoverStreams := by
  unfold Obligations.DataMoverStreams
  rintro s k st q rfl rfl acts
  refine ⟨fun n a len next => ⟨streamReadIssue_local acts next,
      fun node i tag rest v far within held hv => streamReadIssue_remote acts next far within held hv,
      streamReadIssue_beyond acts next⟩,
    fun r e ring due ready => ⟨streamReadReturn_closed acts due ready, ?returns⟩,
    fun node n a len tag far next none_ within free room => replyReserve_reserves acts far next none_ within free room,
    ?replies,
    fun active write form v rest a e ring near ha within ready =>
      streamWritePerform_entry acts active write form near ha within ready e ring,
    fun active write form full c bytes e ring hc hb within ready =>
      streamWritePerform_tile acts active write form full hc hb within ready e ring,
    fun g b y es acts hb hy kind far idle hes some_ full =>
      bindingFrameSend_counts acts hb hy kind far idle hes some_ full,
    ?entries, ?tiles,
    fun i x o p hx ep seq ho hp => queueReceive_fills hx ep seq ho hp⟩
  case returns =>
    rintro mark active epoch form early part good turn rfl home
    refine (streamReadReturn_passes acts due ready active epoch form early part good turn home).imp ?_
    rintro t ⟨passes, arrived⟩
    exact ⟨passes.order, arrived, passes.near, passes.hbm⟩
  case replies =>
    intro i x tag r hx hk ht hr active epoch sent form early part good turn home
    refine (readReply_passes hx hk ht hr active epoch sent form early part good turn home).imp fun t passes => ?_
    refine ⟨?_, ?_, passes.hbm⟩
    · rw [passes.order, (taken_sends s x).tun, (taken_sends s x).stream]
    · rw [passes.core]
      exact taken_inbox s x
  case entries =>
    rintro i x g b y hx ep hg hb rfl awake form room
    have fits : s.bindingFits g b x = true := by simpa [State.bindingFits, form] using room
    exact ⟨fun seq good plain => bindingReceive_adds hx ep hg hb awake fits seq good
        (by simp [State.bindingEntries, form, plain]),
      bindingReceive_faults hx ep hg hb awake fits⟩
  case tiles =>
    rintro i x g b y tile hx ep hg hb rfl awake form empty seq good packed decoded
    have fits : s.bindingFits g b x = true := by simp [State.bindingFits, form, empty]
    have added := bindingReceive_adds hx ep hg hb awake fits seq good
      (es := entriesOf 64 tile) (by simp [State.bindingEntries, form, packed, decoded])
    rw [empty, List.nil_append] at added
    exact added

end Sys2Proof.Machine

namespace Sys2Proof.Machine

/-! # A frame's way through the Maltings

## What the counts and the ports' own books leave alone -/

/-- The state but for counts and samples, the ports' receive FIFOs, the operations of the stream queues, the
collectives' reservations and the numbers that flows have reached: what only records that a frame passes. -/
def State.unbooked (s : State) : State :=
  { s with links := [], sqs := [], col := {},
           core := { s.core with tel := [], verdict := [], lookups := 0, sampLost := 0, samples := []
                                 flowNext := [] } }

section
variable {s t : State} (h : t.unbooked = s.unbooked)
include h

theorem frame?_eq_of_unbooked (k : Nat) : t.frame? k = s.frame? k := (congrArg (State.frame? · k) h :)
theorem frames_eq_of_unbooked : t.core.frames = s.core.frames := (congrArg (·.core.frames) h :)
theorem hdrErr_eq_of_unbooked : t.core.hdrErr = s.core.hdrErr := (congrArg (·.core.hdrErr) h :)
theorem hbm_eq_of_unbooked : t.hbm = s.hbm := (congrArg State.hbm h :)
theorem fault_eq_of_unbooked : t.fault = s.fault := (congrArg State.fault h :)
theorem granary_eq_of_unbooked : t.granary = s.granary := (congrArg State.granary h :)
theorem time_eq_of_unbooked : t.time = s.time := (congrArg State.time h :)
theorem now_eq_of_unbooked : t.now = s.now := (congrArg State.now h :)
theorem nodeId_eq_of_unbooked : t.nodeId = s.nodeId := (congrArg State.nodeId h :)
theorem journaled_eq_of_unbooked (x : Header) : t.journaled x = s.journaled x := (congrArg (State.journaled · x) h :)

end

section
variable (s : State)

theorem countVerdict_unbooked (p fld : Nat) : (s.countVerdict p fld).unbooked = s.unbooked := rfl

theorem seeDepth_unbooked (ps : List Nat) : (s.seeDepth ps).unbooked = s.unbooked :=
  foldl_leaves (g := State.unbooked) (f := fun u p => u.modCore fun c =>
    { c with tel := Tab.mod 0 c.tel (p * 8 + 5) (max (u.depth p)) }) (fun _ _ => rfl) ps s

theorem opFrame_unbooked (q : Option (Nat × Nat)) (fail : Nat) : (s.opFrame q fail).unbooked = s.unbooked := by
  rcases q with - | q <;> rfl

theorem sample_unbooked (p : Nat) (x : Header) (egress vc flags : Nat) :
    (s.sample p x egress vc flags).unbooked = s.unbooked := by
  unfold State.sample
  extract_lets cfg n s1
  have h1 : s1.unbooked = s.unbooked := rfl
  clear_value s1
  split
  · rfl
  · split
    · exact h1
    · split <;> exact h1

theorem modLink_unbooked (p : Nat) (f : Link → Link) : (s.modLink p f).unbooked = s.unbooked := rfl

theorem rxSettle_unbooked (p v : Nat) : (s.rxSettle p v).unbooked = s.unbooked := modLink_unbooked ..

theorem rxDrop_unbooked (p id : Nat) : (s.rxDrop p id).unbooked = s.unbooked :=
  foldl_leaves (g := State.unbooked) (fun _ _ => (rxSettle_unbooked ..).trans (modLink_unbooked ..)) _ s

theorem modFrame_unbooked {s t : State} (h : t.unbooked = s.unbooked) (k : Nat) (u : Frame → Frame) :
    (t.modFrame k u).unbooked = (s.modFrame k u).unbooked := (congrArg (State.modFrame · k u) h :)

theorem useResv_unbooked (f : Frame) : (s.useResv f).unbooked = s.unbooked := by
  unfold State.useResv
  extract_lets
  split
  · rfl
  · split
    · rfl
    · split <;> rfl

/-- A frame without an outbound binding has its cells: it alone has changed (R185). -/
theorem admitted_unbooked {f : Frame} (h : f.binding = none) :
    (s.admitted f).unbooked = (s.modFrame f.id fun x => { x with admitted := true }).unbooked := by
  unfold State.admitted
  rw [h]
  dsimp -zeta only
  extract_lets s1 s2 s3
  have h2 : s2.unbooked = (s.modFrame f.id fun x => { x with admitted := true }).unbooked :=
    modFrame_unbooked (useResv_unbooked s f) ..
  clear_value s2
  rw [seeDepth_unbooked, ← h2]
  unfold s3
  split
  · exact foldl_leaves (g := State.unbooked) (fun _ _ => rxSettle_unbooked ..) _ s2
  · rfl

/-- A frame that has one more copy. -/
def Frame.withCopy (f : Frame) (c : Copy) : Frame :=
  { f with copies := f.copies ++ [c], refs := f.refs + 1 }

/-- A copy is given its place, and counts among the references of its frame (R172, R188). -/
theorem addCopy_unbooked {id : Nat} {f : Frame} (h : s.frame? id = some f) (c : Copy) : ∃ n, (s.addCopy id c).unbooked =
    (s.modFrame id (·.withCopy { c with seq0 := n, finished := s.egressDown c.egress })).unbooked := by
  unfold State.addCopy
  rw [h]
  dsimp -zeta only
  extract_lets down s1 flow n s2
  refine ⟨n, ?_⟩
  have h2 : s2.unbooked = s.unbooked := by
    have h1 : s1.unbooked = s.unbooked := by
      unfold s1
      split
      · exact countVerdict_unbooked ..
      · rfl
    unfold s2
    split
    · exact h1
    · exact h1
  exact modFrame_unbooked h2 ..

end

/-! ## Frames of the core -/

theorem id_of_frame? {s : State} {k : Nat} {f : Frame} (h : s.frame? k = some f) : f.id = k := by
  simpa using List.find?_some h

/-- A change of a frame that keeps its name is a change of what its name finds. -/
theorem modFrame_frame? (s : State) (k : Nat) {u : Frame → Frame} (hu : ∀ x, (u x).id = x.id) :
    (s.modFrame k u).frame? k = (s.frame? k).map u := by
  unfold State.modFrame State.frame?
  rw [State.modCore_core, List.find?_map]
  have same : (fun f : Frame => f.id == k) ∘ (fun x => if x.id == k then u x else x) = fun f => f.id == k := by
    funext x
    dsimp only [Function.comp]
    split
    · rw [hu]
    · rfl
  rw [same]
  refine Option.map_congr fun x hx => ?_
  rw [if_pos (List.find?_some (p := fun f : Frame => f.id == k) hx)]

theorem frame?_eq_none_of_frames {s : State} {k : Nat} {l : List Frame}
    (h : s.core.frames = l.filter fun x => x.id != k) : s.frame? k = none := by
  unfold State.frame?
  rw [h, List.find?_eq_none]
  intro x hx
  simpa using (List.mem_filter.1 hx).2

end Sys2Proof.Machine

namespace Sys2Proof.Machine

/-! ## Ingress (R167, R184, R285) -/

/-- A search that keeps the element of the least rank, the first of several, finds one of a list that has any. -/
theorem foldl_least {α : Type} {r : α → Nat} {g : Option α → α → Option α} {l : List α} {o : Option α}
    (ho : l.foldl g none = o) (hl : l ≠ []) (none_ : ∀ x, g none x = some x)
    (some_ : ∀ b x, g (some b) x = if r x < r b then some x else some b) :
    ∃ e ∈ l, o = some e ∧ ∀ y ∈ l, r e ≤ r y := by
  subst ho
  induction l using List.reverseRecOn with
  | nil => exact absurd rfl hl
  | append_singleton l x ih =>
    rw [List.foldl_concat]
    by_cases empty : l = []
    · subst empty
      exact ⟨x, by simp, none_ x, by simp⟩
    · obtain ⟨e, mem, found, least⟩ := ih empty
      rw [found, some_]
      split
      · next earlier =>
        refine ⟨x, by simp, rfl, fun y hy => ?_⟩
        rcases List.mem_append.1 hy with hy | hy
        · exact earlier.le.trans (least y hy)
        · rw [List.mem_singleton.1 hy]
      · next later =>
        refine ⟨e, List.mem_append_left _ mem, rfl, fun y hy => ?_⟩
        rcases List.mem_append.1 hy with hy | hy
        · exact least y hy
        · rw [List.mem_singleton.1 hy]
          exact Nat.le_of_not_lt later

section
variable {s : State} (alive : s.alive = true) {p : Fin 32}
include alive

/-- The first frame of an internal source whose staging cell is free takes it (R184). -/
theorem frameIngress_inner (inner : 14 ≤ p.val) {i : Nat} {f : SrcFrame}
    (first : (Tab.get [] s.core.inject p.val).findIdx? (fun f => s.stagingFree p f.hdr.vc.toNat) = some i)
    (at_ : (Tab.get [] s.core.inject p.val)[i]? = some f) : Answers (.frameIngress p) s fun t => ∃ g : Frame,
      t.core.frames = s.core.frames ++ [g] ∧ g.id = s.core.nextId ∧ g.port = p.val ∧ g.hdr = f.hdr
      ∧ g.payload = f.payload ∧ g.inTail = f.tail ∧ g.looked = false ∧ g.admitted = false ∧ g.at_ = s.coreNow
      ∧ g.bad = s.ingressCause p f.hdr ∧ Tab.get [] t.core.inject p.val = (Tab.get [] s.core.inject p.val).eraseIdx i
      ∧ t.hbm = s.hbm := by
  have hexec : exec (.frameIngress p) s = execFrameIngress p s := rfl
  unfold execFrameIngress at hexec
  rw [if_neg (by simp [alive]), if_neg (by omega)] at hexec
  unfold State.innerIngress at hexec
  extract_lets fs at hexec
  rw [show fs.findIdx? _ = some i from first] at hexec
  dsimp -zeta only at hexec
  rw [show fs[i]? = some f from at_] at hexec
  exact ⟨_, hexec, _, rfl, rfl, rfl, rfl, rfl, rfl, rfl, rfl, rfl, rfl, Tab.get_set_same .., rfl⟩

/-- Of the received frames that are ready, the earliest takes its staging cell (R184, R285). -/
theorem frameIngress_link (link : p.val < 14) (ready : s.rxReady p ≠ []) : Answers (.frameIngress p) s fun t =>
    ∃ e ∈ s.rxReady p, (∀ y ∈ s.rxReady p, e.2.order ≤ y.2.order) ∧ ∃ g : Frame,
      t.core.frames = s.core.frames ++ [g] ∧ g.id = s.core.nextId ∧ g.port = p.val ∧ g.link = true
      ∧ g.bad = s.linkCause p (headerOf (e.2.bytes.take 32)) ∧ g.at_ = s.coreNow
      ∧ g.hdr = (if g.bad = none ∧ (s.link p).version = 2 then fromV2 (headerOf (e.2.bytes.take 32))
          else headerOf (e.2.bytes.take 32)) ∧ t.hbm = s.hbm := by
  have hexec : exec (.frameIngress p) s = execFrameIngress p s := rfl
  unfold execFrameIngress at hexec
  rw [if_neg (by simp [alive]), if_pos link] at hexec
  unfold State.linkIngress at hexec
  split at hexec
  · next never =>
    obtain ⟨e, -, found, -⟩ :=
      foldl_least (r := fun x : Nat × RxFrame => x.2.order) never ready (fun _ => rfl) fun _ _ => rfl
    cases found
  · next v r hr =>
    obtain ⟨e, mem, found, least⟩ :=
      foldl_least (r := fun x : Nat × RxFrame => x.2.order) hr ready (fun _ => rfl) fun _ _ => rfl
    obtain rfl : (v, r) = e := Option.some.inj found
    extract_lets h put bad h' at hexec
    refine ⟨_, hexec, (v, r), mem, least, _, rfl, rfl, rfl, rfl, rfl, rfl, ?_, rfl⟩
    change h' = _
    unfold h'
    refine if_congr ?_ rfl rfl
    simp [bad, h]

end

end Sys2Proof.Machine

namespace Sys2Proof.Machine

/-! ## Time that passes on the way -/

theorem reach_frames (s : State) (due : Nat) : (s.reach due).core.frames = s.core.frames := by
  obtain ⟨_, _, _, h⟩ := reach_frame s due
  rw [h]

theorem reach_frame? (s : State) (due k : Nat) : (s.reach due).frame? k = s.frame? k := by
  unfold State.frame?
  rw [reach_frames]

section
variable (s : State) (due : Nat)

@[simp] theorem reach_isLocal (h : Header) : (s.reach due).isLocal h = s.isLocal h := by
  obtain ⟨_, _, _, e⟩ := reach_frame s due
  rw [e]
  rfl

@[simp] theorem reach_routeCopy (p : Nat) (h : Header) : (s.reach due).routeCopy p h = s.routeCopy p h := by
  obtain ⟨_, _, _, e⟩ := reach_frame s due
  rw [e]
  rfl

@[simp] theorem reach_journaled (h : Header) : (s.reach due).journaled h = s.journaled h := by
  obtain ⟨_, _, _, e⟩ := reach_frame s due
  rw [e]
  rfl

@[simp] theorem reach_egressDown (e : Nat) : (s.reach due).egressDown e = s.egressDown e := by
  unfold State.egressDown State.link
  rw [reach_links]

end

/-! ## Lookup (R167 to R169) -/

/-- A header error latches its word and raises its source with it (R167). -/
theorem headerError_unbooked {s t : State} (h : t.unbooked = s.unbooked) (p cause : Nat) : ∃ w,
    (t.headerError p cause).unbooked =
      ((s.modCore fun c => { c with hdrErr := w }).raise (srcPort p 0) w.toNat).unbooked :=
  ⟨_, (congrArg (fun u => ((u.modCore fun c => { c with hdrErr := (t.headerError p cause).core.hdrErr }).raise
    (srcPort p 0) (t.headerError p cause).core.hdrErr.toNat)) h :)⟩

theorem filterFrames_unbooked {s t : State} (h : t.unbooked = s.unbooked) (keep : Frame → Bool) :
    (t.modCore fun c => { c with frames := c.frames.filter keep }).unbooked =
      (s.modCore fun c => { c with frames := c.frames.filter keep }).unbooked :=
  (congrArg (State.modCore · fun c => { c with frames := c.frames.filter keep }) h :)

/-- A frame of no binding that is refused leaves the core, and its header error is latched and raised (R167). -/
theorem refuseFrame_unbooked (s : State) {f : Frame} (h : f.binding = none) (cause : Nat) : ∃ w,
    (s.refuseFrame f cause).unbooked =
      ((s.modCore fun c => { c with hdrErr := w, frames := c.frames.filter fun x => x.id != f.id }).raise
        (srcPort f.port 0) w.toNat).unbooked := by
  unfold State.refuseFrame
  rw [h]
  dsimp -zeta only
  extract_lets s1 s2 s3
  have h2 : s2.unbooked = ((s1.opFrame f.queue 3).headerError f.port cause).unbooked := sample_unbooked ..
  have h1 := opFrame_unbooked s1 f.queue 3
  generalize s1.opFrame f.queue 3 = u at h1 h2
  obtain ⟨w, hw⟩ := headerError_unbooked h1 f.port cause
  refine ⟨w, Eq.trans ?_ (filterFrames_unbooked (h2.trans hw) fun x => x.id != f.id)⟩
  split
  · exact rxDrop_unbooked ..
  · rfl

/-- What a header error leaves of the state: the frame is gone and its source raised, and no time passes (R167). -/
theorem refuseFrame_refuses (s : State) {f : Frame} (h : f.binding = none) (cause : Nat) {t : State}
    (ht : t = s.refuseFrame f cause) :
    t.core.frames = s.core.frames.filter (fun x => x.id != f.id) ∧ t.hbm = s.hbm ∧ t.time.ftc = s.time.ftc
      ∧ t.fault.raised = s.fault.raised ++ [t.faultRec (srcPort f.port 0) t.core.hdrErr.toNat] := by
  obtain ⟨w, hw⟩ := refuseFrame_unbooked s h cause
  rw [← ht] at hw
  have time : t.time = s.time := (time_eq_of_unbooked hw :)
  refine ⟨(frames_eq_of_unbooked hw :), (hbm_eq_of_unbooked hw :), congrArg TimeSt.ftc time, ?_⟩
  rw [faultRec_congr time (now_eq_of_unbooked hw :), hdrErr_eq_of_unbooked hw, fault_eq_of_unbooked hw]
  rfl

/-- A frame as its lookup finds it: with no reference but those of the copies it gets (R188). -/
def Frame.unreferenced (f : Frame) : Frame := { f with looked := true, hold := false, refs := 0 }

/-- Its one copy is made, with one reference (R168, R179, R188). -/
theorem lookupFrame_frame? {s : State} {f : Frame} {e : Nat} {l : Bool} {h : Header} (hf : s.frame? f.id = some f)
    (own : f.owner < 256) (one : (s.isLocal f.hdr && f.hdr.epKind == 15) = false)
    (route : s.routeCopy f.port f.hdr = .inr (e, l, h)) (plain : l = true → s.journaled h = false) :
    (s.lookupFrame f).hbm = s.hbm ∧ ∃ c, c.isLocal = l ∧ c.egress = e ∧ c.hdr = h ∧ c.finished = s.egressDown e ∧
      (s.lookupFrame f).frame? f.id = some (f.unreferenced.withCopy c) := by
  have unheld : decide (256 ≤ f.owner) = false := decide_eq_false (by omega)
  unfold State.lookupFrame
  extract_lets h0 hold s1 each h1 s2
  have hs1 : s1.frame? f.id = some f.unreferenced := by
    have loose : hold = false := by simp [hold, unheld]
    unfold s1
    rw [loose]
    exact (modFrame_frame? s f.id (u := fun x => x.unreferenced) fun _ => rfl).trans (by rw [hf]; rfl)
  obtain ⟨n, hn⟩ := addCopy_unbooked s1 hs1 (s1.copyTo f e l false h)
  have h2 : s2.unbooked = (s1.modFrame f.id
      (·.withCopy { s1.copyTo f e l false h with seq0 := n, finished := s1.egressDown e })).unbooked := by
    unfold s2
    rw [if_neg (by rw [Bool.not_eq_true]; exact one)]
    rw [show s1.routeCopy f.port h0 = .inr (e, l, h) from route]
    dsimp -zeta only [each]
    extract_lets c s3
    have h3 : s3.unbooked = _ := (sample_unbooked ..).trans hn
    have off : (l && s3.journaled h) = false := by
      cases l
      · rfl
      · have same : s3.journaled h = s.journaled h := journaled_eq_of_unbooked h3 h
        rw [same, plain rfl]
        rfl
    rw [if_neg (by rw [off]; exact Bool.false_ne_true)]
    exact h3
  have h4 := (seeDepth_unbooked s2 (((s2.frame? f.id).map fun x => x.copies.map (·.egress)).getD [])).trans h2
  refine ⟨(hbm_eq_of_unbooked h4 :), { s1.copyTo f e l false h with seq0 := n, finished := s1.egressDown e },
    rfl, rfl, rfl, rfl, ?_⟩
  exact (frame?_eq_of_unbooked h4 _).trans ((modFrame_frame? _ _ (by exact fun _ => rfl)).trans (by rw [hs1]; rfl))

theorem freeIfDone_of_referenced {s : State} {k : Nat} {f : Frame} (hf : s.frame? k = some f) (h : f.refs ≠ 0) :
    s.freeIfDone k = s := by
  unfold State.freeIfDone
  rw [hf]
  exact if_neg (by simp [h])

section
variable {s : State} (alive : s.alive = true) {k : Nat} {f : Frame} (hf : s.frame? k = some f)
include alive hf

section
variable (new : f.looked = false) (first : ∀ x ∈ s.core.frames, x.before f = true → x.looked = true)
include new first

/-- Four core cycles after its cell 0 a frame is refused for its header error, or gets its copies (R168, R173). -/
theorem exec_frameLookup : exec (.frameLookup k) s = .next (f.bad.elim
    (((s.reach (s.coreFtc (f.at_ + 4))).lookupFrame f).freeIfDone k)
    ((s.reach (s.coreFtc (f.at_ + 4))).refuseFrame f)) := by
  have hexec : exec (.frameLookup k) s = execFrameLookup k s := rfl
  have turn : (s.core.frames.any fun x => !x.looked && x.before f) = false := by
    rw [List.any_eq_false]
    intro x hx
    simpa using fun unlooked => mt (first x hx) (by simp [unlooked])
  unfold execFrameLookup at hexec
  rw [hf] at hexec
  dsimp -zeta only at hexec
  rw [if_neg (by simp [alive, new, turn])] at hexec
  extract_lets s1 at hexec
  rw [hexec]
  cases f.bad with
  | none => rw [Option.elim_none]
  | some c => rw [Option.elim_some]

/-- A frame with a header error is discarded and raises its source (R167). -/
theorem frameLookup_refuses {c : Nat} (bad : f.bad = some c) (unbound : f.binding = none) :
    Answers (.frameLookup k) s fun t =>
      t.core.frames = s.core.frames.filter (fun x => x.id != k) ∧ t.hbm = s.hbm
      ∧ t.time.ftc = max s.time.ftc (s.coreFtc (f.at_ + 4))
      ∧ t.fault.raised = s.fault.raised ++ [t.faultRec (srcPort f.port 0) t.core.hdrErr.toNat] := by
  have hexec := exec_frameLookup alive hf new first
  rw [bad, Option.elim_some] at hexec
  obtain ⟨frames, hbm, ftc, raised⟩ := refuseFrame_refuses (s.reach (s.coreFtc (f.at_ + 4))) unbound c rfl
  rw [reach_frames, id_of_frame? hf] at frames
  rw [reach_hbm] at hbm
  rw [reach_ftc] at ftc
  rw [reach_fault] at raised
  exact ⟨_, hexec, frames, hbm, ftc, raised⟩

/-- A frame of no header error gets the copy that its endpoint or its route asks for (R168). -/
theorem frameLookup_copies (good : f.bad = none) (own : f.owner < 256) (fresh : f.copies = []) {e : Nat} {l : Bool}
    {h : Header} (one : (s.isLocal f.hdr && f.hdr.epKind == 15) = false)
    (route : s.routeCopy f.port f.hdr = .inr (e, l, h)) (plain : l = true → s.journaled h = false) :
    Answers (.frameLookup k) s fun t => ∃ g c, t.frame? k = some g ∧ g.looked = true ∧ g.refs = 1 ∧ g.copies = [c]
      ∧ c.isLocal = l ∧ c.egress = e ∧ c.hdr = h ∧ c.finished = s.egressDown e ∧ t.hbm = s.hbm := by
  have hexec := exec_frameLookup alive hf new first
  rw [good, Option.elim_none] at hexec
  obtain rfl := id_of_frame? hf
  have ⟨hbm, c, isLocal, egress, hdr, finished, found⟩ := lookupFrame_frame? (s := s.reach (s.coreFtc (f.at_ + 4)))
    (f := f) (e := e) (l := l) (h := h) ((reach_frame? ..).trans hf) own (by simpa using one) (by simpa using route)
    (by simpa using plain)
  rw [freeIfDone_of_referenced found (by exact Nat.succ_ne_zero _)] at hexec
  refine ⟨_, hexec, _, c, found, rfl, rfl, ?_, isLocal, egress, hdr, ?_, hbm.trans (reach_hbm ..)⟩
  · exact congrArg (· ++ [c]) fresh
  · rw [finished]
    simp

end

end

end Sys2Proof.Machine

namespace Sys2Proof.Machine

/-! ## The granary's turn (R185, R186) -/

theorem passCycles_used (s : State) (n : Nat) : (s.passCycles n).granary.used = s.granary.used := by
  unfold State.passCycles
  split
  · rfl
  · extract_lets s1 s2
    have h2 : s2.granary.used = s.granary.used :=
      foldl_leaves (g := fun u => u.granary.used) (f := fun u b => u.modGranary fun g =>
        { g with level := Tab.set 0 g.level b (min (u.bucketLevel b + n * u.rate b) (u.bucketCap b)) })
        (fun _ _ => rfl) _ s1
    split
    · exact h2
    · refine (foldl_leaves (g := fun u => u.granary.used) (fun u p => ?_) _ s2).trans h2
      extract_lets st u1 u2
      have h : u2.granary = u.granary := by
        have h1 : u1.granary = u.granary := by unfold u1; split <;> rfl
        unfold u2
        split <;> exact h1
      split <;> exact congrArg Granary.used h

theorem reach_used (s : State) (due : Nat) : (s.reach due).granary.used = s.granary.used := by
  unfold State.reach
  split
  · rfl
  · dsimp only
    split
    · exact passCycles_used _ _
    · rfl

section
variable (s : State) (turn : Nat)

/-- The granary takes the act in the present core cycle or the next (R186). -/
theorem granaryTurn_eq : ∃ u, (u = s ∨ u = s.reach (s.coreFtc (s.coreNow + 1)))
    ∧ s.granaryTurn turn = u.modGranary fun g => { g with turnAt := u.coreNow, turn := turn } := by
  unfold State.granaryTurn
  extract_lets g u
  refine ⟨u, ?_, rfl⟩
  unfold u
  split
  · exact .inr rfl
  · exact .inl rfl

theorem granaryTurn_used : (s.granaryTurn turn).granary.used = s.granary.used := by
  obtain ⟨u, hu, h⟩ := granaryTurn_eq s turn
  rw [h]
  change u.granary.used = s.granary.used
  clear h
  rcases hu with rfl | rfl
  · rfl
  · exact reach_used s _

theorem granaryTurn_frames : (s.granaryTurn turn).core.frames = s.core.frames := by
  obtain ⟨u, hu, h⟩ := granaryTurn_eq s turn
  rw [h, State.modGranary_core]
  rcases hu with rfl | rfl
  · rfl
  · exact reach_frames s _

theorem granaryTurn_frame? (k : Nat) : (s.granaryTurn turn).frame? k = s.frame? k := by
  unfold State.frame?
  rw [granaryTurn_frames]

theorem granaryTurn_fault : (s.granaryTurn turn).fault = s.fault := by
  obtain ⟨u, hu, h⟩ := granaryTurn_eq s turn
  rw [h, State.modGranary_fault]
  rcases hu with rfl | rfl
  · rfl
  · exact reach_fault s _

theorem granaryTurn_hbm : (s.granaryTurn turn).hbm = s.hbm := hbm_eq_of_stillPart (granaryTurn_stillPart s turn)

variable (parity : Bool)

theorem granaryParity_granary : (s.granaryParity parity).granary = s.granary := by cases parity <;> rfl
theorem granaryParity_hbm : (s.granaryParity parity).hbm = s.hbm := by cases parity <;> rfl
theorem granaryParity_admitTest (o v n : Nat) : (s.granaryParity parity).admitTest o v n = s.admitTest o v n := by
  cases parity <;> rfl
theorem granaryParity_frame? (k : Nat) : (s.granaryParity parity).frame? k = s.frame? k := by cases parity <;> rfl

end

/-! ## Admission (R185, R191) -/

/-- A frame of no binding that has its cells is admitted, whatever paid for them. -/
theorem admitted_admits (s : State) {f g : Frame} {k : Nat} (hf : s.frame? k = some g) (hk : f.id = k)
    (unbound : f.binding = none) {t : State} (ht : t = s.admitted f) : (t.frame? k).map (·.admitted) = some true
      ∧ t.granary = s.granary ∧ t.hbm = s.hbm ∧ t.fault = s.fault := by
  subst hk
  have h := admitted_unbooked s unbound
  rw [← ht] at h
  refine ⟨?_, (granary_eq_of_unbooked h :), (hbm_eq_of_unbooked h :), (fault_eq_of_unbooked h :)⟩
  rw [frame?_eq_of_unbooked h, modFrame_frame? _ _ (by exact fun _ => rfl), hf]
  rfl

theorem takeCells_of_yes {s : State} {o v n : Nat} (h : s.admitTest o v n = .yes) :
    s.takeCells o v n = (s.charge o v n, true) := by
  unfold State.takeCells
  rw [h]

theorem takeCells_of_wait {s : State} {o v n : Nat} (h : s.admitTest o v n = .wait) :
    s.takeCells o v n = (s, false) := by
  unfold State.takeCells
  rw [h]

theorem charge_used (s : State) (o v n : Nat) : Tab.get 0 (s.charge o v n).granary.used o = s.used o + n :=
  Tab.get_set_same ..

section
variable {s : State} (alive : s.alive = true) {k : Nat} {f : Frame} (hf : s.frame? k = some f)
  (waiting : f.admitted = false) (good : f.bad = none) (posted : s.recvWaits f = false)
include alive hf waiting good posted

/-- A frame is admitted when a reservation pays for it or the granary gives its cells (R185, R191). -/
theorem exec_frameAdmission (parity : Bool) {o : State} (ho : o = (s.granaryTurn (1 + f.port)).granaryParity parity) :
    exec (.frameAdmission ⟨k, parity⟩) s = .next (if f.tag.isSome then o.admitted f
      else if (o.takeCells f.owner f.hdr.vc.toNat f.cells).2 then
        (o.takeCells f.owner f.hdr.vc.toNat f.cells).1.admitted f
      else (o.takeCells f.owner f.hdr.vc.toNat f.cells).1) := by
  have hexec : exec (.frameAdmission ⟨k, parity⟩) s = execFrameAdmission ⟨k, parity⟩ s := rfl
  unfold execFrameAdmission at hexec
  dsimp only at hexec
  rw [hf] at hexec
  dsimp only at hexec
  rw [if_neg (by simp [alive, waiting, good, posted]), ← ho] at hexec
  rw [hexec]
  split
  · rfl
  · rfl

variable (unbound : f.binding = none)
include unbound

/-- A reply whose reservation pays for it is admitted at once (R191). -/
theorem frameAdmission_reserved (parity : Bool) (tag : f.tag.isSome = true) :
    Answers (.frameAdmission ⟨k, parity⟩) s fun t => (t.frame? k).map (·.admitted) = some true
      ∧ t.granary = (s.granaryTurn (1 + f.port)).granary ∧ t.hbm = s.hbm := by
  have hexec := exec_frameAdmission alive hf waiting good posted parity rfl
  rw [if_pos tag] at hexec
  obtain ⟨admitted, granary, hbm, -⟩ := admitted_admits ((s.granaryTurn (1 + f.port)).granaryParity parity)
    ((granaryParity_frame? ..).trans ((granaryTurn_frame? ..).trans hf)) (id_of_frame? hf) unbound rfl
  exact ⟨_, hexec, admitted, granary.trans (granaryParity_granary ..),
    hbm.trans ((granaryParity_hbm ..).trans (granaryTurn_hbm ..))⟩

/-- A frame to which the granary grants its cells is charged them (R185). -/
theorem frameAdmission_granted (parity : Bool) (tag : f.tag = none)
    (grant : (s.granaryTurn (1 + f.port)).admitTest f.owner f.hdr.vc.toNat f.cells = .yes) :
    Answers (.frameAdmission ⟨k, parity⟩) s fun t => (t.frame? k).map (·.admitted) = some true
      ∧ Tab.get 0 t.granary.used f.owner = s.used f.owner + f.cells ∧ t.hbm = s.hbm
      ∧ (parity = true → t.fault.raised = s.fault.raised ++ [(s.granaryTurn (1 + f.port)).faultRec 1768 0]) := by
  have hexec := exec_frameAdmission alive hf waiting good posted parity rfl
  rw [if_neg (by simp [tag]), takeCells_of_yes ((granaryParity_admitTest ..).trans grant), if_pos rfl] at hexec
  obtain ⟨admitted, granary, hbm, fault⟩ := admitted_admits
    (((s.granaryTurn (1 + f.port)).granaryParity parity).charge f.owner f.hdr.vc.toNat f.cells)
    ((granaryParity_frame? ..).trans ((granaryTurn_frame? ..).trans hf)) (id_of_frame? hf) unbound rfl
  refine ⟨_, hexec, admitted, ?_, hbm.trans ((granaryParity_hbm ..).trans (granaryTurn_hbm ..)), fun raised => ?_⟩
  · rw [granary, charge_used]
    unfold State.used
    rw [granaryParity_granary, granaryTurn_used]
  · subst raised
    rw [fault, ← granaryTurn_fault s (1 + f.port)]
    rfl

end

/-- A frame to which the granary does not grant its cells waits (R184, R185). -/
theorem frameAdmission_waits {s : State} (alive : s.alive = true) {k : Nat} {f : Frame} (hf : s.frame? k = some f)
    (waiting : f.admitted = false) (good : f.bad = none) (posted : s.recvWaits f = false) (tag : f.tag = none)
    (wait : (s.granaryTurn (1 + f.port)).admitTest f.owner f.hdr.vc.toNat f.cells = .wait) :
    exec (.frameAdmission ⟨k, false⟩) s = .next (s.granaryTurn (1 + f.port)) := by
  have hexec := exec_frameAdmission alive hf waiting good posted false (o := s.granaryTurn (1 + f.port)) rfl
  rw [if_neg (by simp [tag]), takeCells_of_wait wait, if_neg Bool.false_ne_true] at hexec
  exact hexec

end Sys2Proof.Machine

namespace Sys2Proof.Machine

/-! ## The fabric (R171, R172) -/

/-- Time that passes leaves the core as it was but for telemetry. -/
theorem reach_core (s : State) (due : Nat) : ∃ c, (s.reach due).core = { s.core with tel := c } := by
  obtain ⟨_, _, _, h⟩ := reach_frame s due
  exact ⟨_, by rw [h]⟩

section
variable {s : State} (alive : s.alive = true)
include alive

/-- A connection that can carry a descriptor at once carries it at once (R171). -/
theorem exec_fabricDescriptorHop {second : Bool} {plane : Fin 2} {i : Fin 32} {c : Nat} {u : State}
    (hc : c = max s.coreNow (Tab.get 0 s.core.hopNext (b2n second * 64 + plane.val * 32 + i.val)))
    (hop : (if second then s.stage2 plane i c else s.stage1 plane i c) = some u) :
    Answers (.fabricDescriptorHop second plane i) s fun t =>
      t.core.fifos = u.core.fifos ∧ t.core.reseq = u.core.reseq ∧ t.hbm = u.hbm := by
  have hexec : exec (.fabricDescriptorHop second plane i) s = execFabricDescriptorHop second plane i s := rfl
  unfold execFabricDescriptorHop at hexec
  rw [if_neg (by simp [alive])] at hexec
  extract_lets key c0 hop' at hexec
  have now : hop' c0 = some u := by rw [show c0 = c from hc.symm]; exact hop
  rw [List.range_succ_eq_map, List.findSome?_cons, Nat.add_zero, now] at hexec
  dsimp -zeta only [Option.map_some] at hexec
  refine ⟨_, hexec, ?_⟩
  obtain ⟨tel, core⟩ :=
    reach_core (u.modCore fun y => { y with hopNext := Tab.put y.hopNext key (c0 + 1) }) (u.coreFtc c0)
  rw [core, reach_hbm]
  exact ⟨rfl, rfl, rfl⟩

/-- The oldest descriptor of an input crosses stage 1, behind those of its flow (R171). -/
theorem fabricDescriptorHop_first {plane : Fin 2} {i : Fin 32} {c j : Nat}
    (hc : c = max s.coreNow (Tab.get 0 s.core.hopNext (plane.val * 32 + i.val)))
    (hj : j = (i.val + c + 16 * plane.val) % 32) {f : Frame} {n : Nat} {x : Copy}
    (next : oldest plane (fun o => (Tab.get [] s.core.fifos (fifoKey plane j o)).length < 16) [] (s.inputCopies i)
      = some (f, n, x)) : Answers (.fabricDescriptorHop false plane i) s fun t =>
      Tab.get [] t.core.fifos (fifoKey plane j x.egress) = Tab.get [] s.core.fifos (fifoKey plane j x.egress)
        ++ [⟨f.id, n, x.next plane, i.val, x.egress, x.hdr.vc.toNat, (x.seq0 + x.next plane) % 4096, c + 1⟩]
      ∧ t.core.reseq = s.core.reseq ∧ t.hbm = s.hbm := by
  subst hj
  obtain ⟨u, hu, fifo, reseq, hbm⟩ : ∃ u, s.stage1 plane i c = some u
      ∧ Tab.get [] u.core.fifos (fifoKey plane ((i.val + c + 16 * plane.val) % 32) x.egress)
        = Tab.get [] s.core.fifos (fifoKey plane ((i.val + c + 16 * plane.val) % 32) x.egress)
          ++ [⟨f.id, n, x.next plane, i.val, x.egress, x.hdr.vc.toNat, (x.seq0 + x.next plane) % 4096, c + 1⟩]
      ∧ u.core.reseq = s.core.reseq ∧ u.hbm = s.hbm := by
    unfold State.stage1
    dsimp only
    rw [next]
    exact ⟨_, rfl, Tab.get_mod_same (d := []) s.core.fifos _ fun q => q ++ _, rfl, rfl⟩
  obtain ⟨t, hexec, fifos', reseq', hbm'⟩ :=
    exec_fabricDescriptorHop alive (second := false) (by rw [hc]; simp [b2n]) hu
  exact ⟨t, hexec, by rw [fifos', fifo], reseq'.trans reseq, hbm'.trans hbm⟩

/-- The first descriptor of an intermediate's FIFO crosses stage 2 (R171). -/
theorem fabricDescriptorHop_second {plane : Fin 2} {i : Fin 32} {c j : Nat}
    (hc : c = max s.coreNow (Tab.get 0 s.core.hopNext (64 + plane.val * 32 + i.val)))
    (hj : j = (i.val + 32 - c % 32 + 16 * plane.val) % 32) {d : Desc} {rest : List Desc}
    (head : Tab.get [] s.core.fifos (fifoKey plane i j) = d :: rest) (there : d.at_ ≤ c) :
    Answers (.fabricDescriptorHop true plane i) s fun t => Tab.get [] t.core.fifos (fifoKey plane i j) = rest
      ∧ Tab.get [] t.core.reseq j = Tab.get [] s.core.reseq j ++ [d] ∧ t.hbm = s.hbm := by
  subst hj
  obtain ⟨u, hu, fifo, reseq, hbm⟩ : ∃ u, s.stage2 plane i c = some u
      ∧ Tab.get [] u.core.fifos (fifoKey plane i ((i.val + 32 - c % 32 + 16 * plane.val) % 32)) = rest
      ∧ Tab.get [] u.core.reseq ((i.val + 32 - c % 32 + 16 * plane.val) % 32)
        = Tab.get [] s.core.reseq ((i.val + 32 - c % 32 + 16 * plane.val) % 32) ++ [d] ∧ u.hbm = s.hbm := by
    unfold State.stage2
    dsimp only
    rw [head]
    dsimp only
    rw [if_neg (by omega)]
    exact ⟨_, rfl, Tab.get_set_same .., Tab.get_set_same .., rfl⟩
  obtain ⟨t, hexec, fifos', reseq', hbm'⟩ :=
    exec_fabricDescriptorHop alive (second := true) (by rw [hc]; simp [b2n]) hu
  exact ⟨t, hexec, by rw [fifos', fifo], by rw [reseq', reseq], hbm'.trans hbm⟩

/-- The next descriptor of a flow is released in its order, and its VC takes its turns (R172, R194). -/
theorem resequencerRelease_releases {p : Fin 32} {i : Nat} {d : Desc}
    (at_ : (Tab.get [] s.core.reseq p.val)[i]? = some d)
    (next : (Tab.get [] s.core.reseq p.val).findIdx?
      (fun d => d.seq == Tab.get 0 s.core.flowWant ((d.inPort * 32 + d.outPort) * 12 + d.vc)) = some i) :
    Answers (.resequencerRelease p) s fun t =>
      Tab.get [] t.core.reseq p.val = (Tab.get [] s.core.reseq p.val).eraseIdx i
      ∧ t.egressQ p d.vc = s.egressQ p d.vc ++ [d]
      ∧ Tab.get 0 t.core.flowWant ((d.inPort * 32 + d.outPort) * 12 + d.vc) = (d.seq + 1) % 4096
      ∧ d.vc ∈ Tab.get [] t.core.active p.val ∧ t.hbm = s.hbm := by
  have hexec : exec (.resequencerRelease p) s = execResequencerRelease p s := rfl
  unfold execResequencerRelease at hexec
  extract_lets rs flow at hexec
  rw [show rs.findIdx? _ = some i from next] at hexec
  dsimp -zeta only at hexec
  rw [show rs[i]? = some d from at_] at hexec
  dsimp -zeta only at hexec
  rw [if_neg (by simp [alive])] at hexec
  refine ⟨_, hexec, Tab.get_set_same ..,
    Tab.get_mod_same (d := []) s.core.egress _ fun q => q ++ [d], Tab.get_set_same .., ?_, rfl⟩
  change d.vc ∈ Tab.get [] (if (Tab.get [] s.core.active p.val).contains d.vc then s.core.active
    else Tab.set [] s.core.active p.val (Tab.get [] s.core.active p.val ++ [d.vc])) p.val
  split
  · next listed => exact List.contains_iff_mem.1 listed
  · rw [Tab.get_set_same]
    exact List.mem_append_right _ (List.mem_singleton.2 rfl)

/-! ## The token buckets (R195) -/

omit alive in
theorem get_foldl_mod_of_notMem {α : Type} [DecidableEq α] (d : α) (f : α → α) {l : List Nat} {w : Nat} (h : w ∉ l)
    (m : Tab α) : Tab.get d (l.foldl (fun t b => Tab.mod d t b f) m) w = Tab.get d m w := by
  induction l generalizing m with
  | nil => rfl
  | cons b l ih =>
    rw [List.mem_cons, not_or] at h
    rw [List.foldl_cons, ih h.2, Tab.get_mod_other _ _ _ h.1]

/-- A frame that its buckets pass leaves its source, and no other bucket pays for it (R195). -/
theorem tokenBucketPass_passes {b i : Nat} {f : SrcFrame} (turn : s.passIndex b = some i)
    (hf : s.core.held[i]? = some f) : Answers (.tokenBucketPass b) s fun t =>
      t.core.held = s.core.held.eraseIdx i
      ∧ Tab.get [] t.core.inject f.port = Tab.get [] s.core.inject f.port ++ [f]
      ∧ (∀ w, w ∉ s.buckets f → t.bucketLevel w = (s.reach (s.coreFtc (s.passCycle (s.buckets f)))).bucketLevel w)
      ∧ t.hbm = s.hbm := by
  have hexec : exec (.tokenBucketPass b) s = execTokenBucketPass b s := rfl
  unfold execTokenBucketPass at hexec
  rw [if_neg (by simp [alive]), turn] at hexec
  dsimp -zeta only at hexec
  rw [hf] at hexec
  dsimp only at hexec
  obtain ⟨u, hu⟩ : ∃ u, u = s.reach (s.coreFtc (s.passCycle (s.buckets f))) := ⟨_, rfl⟩
  have hbm : u.hbm = s.hbm := by rw [hu, reach_hbm]
  obtain ⟨tel, core⟩ : ∃ x, u.core = { s.core with tel := x } := by rw [hu]; exact reach_core ..
  rw [← hu] at hexec ⊢
  refine ⟨_, hexec, ?_, ?_, fun w hw => ?_, hbm⟩
  · change u.core.held.eraseIdx i = _
    rw [core]
  · refine (Tab.get_mod_same (d := []) u.core.inject f.port fun q => q ++ [f]).trans ?_
    rw [core]
  · exact get_foldl_mod_of_notMem (0 : Int) (fun x => x - cellsOf f.payload.length * 512000) hw u.granary.level

end

end Sys2Proof.Machine

namespace Sys2Proof.Machine

/-! ## The egress slots (R170, R194, R257 to R261) -/

/-- From `s` to `t` only link ports and what has left the package have changed, and port `p` has as much to send
again as before. -/
def State.Sends (s t : State) (p : Nat) : Prop :=
  t = { s with links := t.links, out := t.out } ∧ (t.link p).reTx = (s.link p).reTx

theorem State.Sends.refl (s : State) (p : Nat) : s.Sends s p := ⟨rfl, rfl⟩

theorem State.Sends.trans {s t u : State} {p : Nat} (h : s.Sends t p) (g : t.Sends u p) : s.Sends u p := by
  refine ⟨?_, g.2.trans h.2⟩
  rw [g.1, h.1]

section
variable (s : State) (p : Nat)

theorem modLink_sends (f : Link → Link) (h : (f (s.link p)).reTx = (s.link p).reTx) : s.Sends (s.modLink p f) p :=
  ⟨rfl, by rw [modLink_link_same, h]⟩

theorem sendFlit_sends (flit : List Byte) : s.Sends (s.sendFlit p flit) p :=
  (modLink_sends s p _ rfl).trans ((modLink_sends _ p _ rfl).trans ⟨rfl, rfl⟩)

theorem dataFlit_sends (v : Nat) (sof isEnd : Bool) (bs : List Byte) : s.Sends (s.dataFlit p v sof isEnd bs) p :=
  modLink_sends s p _ rfl

theorem fillFlits_sends (v n : Nat) (sof : Bool) (bs : List Byte) : s.Sends (s.fillFlits p v n sof bs).1 p := by
  induction n generalizing s sof bs with
  | zero => exact .refl s p
  | succ n ih =>
    unfold State.fillFlits
    split
    · exact .refl s p
    · exact (dataFlit_sends s p v sof false (bs.take 61)).trans (ih _ _ _)

/-- A port with nothing to send again sends only flits that wait for their first slot (R260). -/
theorem drainTx_sends (n : Nat) (none_ : (s.link p).reTx = []) : s.Sends (s.drainTx p n) p := by
  induction n generalizing s with
  | zero => exact .refl s p
  | succ n ih =>
    unfold State.drainTx
    extract_lets l
    split
    · exact .refl s p
    · rw [show l.reTx = [] from none_]
      dsimp only
      split
      · next flit _ =>
        split
        · have sent := sendFlit_sends s p flit
          exact sent.trans (ih _ (sent.2.trans none_))
        · exact .refl s p
      · exact .refl s p

theorem sendBytes_sends (v : Nat) (bs : List Byte) (last : Bool) (none_ : (s.link p).reTx = []) :
    s.Sends (s.sendBytes p v bs last) p := by
  unfold State.sendBytes
  extract_lets l buf
  have filled := fillFlits_sends s p v (buf.length / 61) (!Tab.get false l.txOpen v) buf
  generalize s.fillFlits p v (buf.length / 61) (!Tab.get false l.txOpen v) buf = made at filled
  obtain ⟨s1, sof, rest⟩ := made
  dsimp -zeta only at filled ⊢
  extract_lets s2 s3
  have made : s.Sends s2 p := by
    unfold s2
    split
    · exact filled.trans (dataFlit_sends ..)
    · exact filled
  have kept : s.Sends s3 p := made.trans (modLink_sends s2 p _ rfl)
  exact kept.trans (drainTx_sends s3 p _ (kept.2.trans none_))

end

/-- The state but for what a cell that leaves an egress can change beside its queues: the link ports, what has
left the package, and the rest of the core. -/
def State.beyondEgress (s : State) : State := { s with links := [], out := [], core := { egress := s.core.egress } }

theorem State.Sends.beyondEgress {s t : State} {p : Nat} (h : s.Sends t p) : t.beyondEgress = s.beyondEgress := by
  rw [h.1]
  rfl

theorem countVerdict_beyondEgress (s : State) (p fld : Nat) : (s.countVerdict p fld).beyondEgress = s.beyondEgress :=
  rfl

theorem copyOut_beyondEgress (s : State) (p : Nat) (f : Frame) (j : Nat) (c : Copy) :
    (s.copyOut p f j c).beyondEgress = s.beyondEgress := by
  unfold State.copyOut
  split
  · rfl
  · extract_lets s1
    have h1 : s1.beyondEgress = s.beyondEgress := rfl
    clear_value s1
    split
    · exact h1
    · exact h1

/-- A cell that leaves takes its descriptor out of its queue; a link port with nothing to send again changes
nothing else outside the core and the links (R194). -/
theorem sendCell_beyondEgress {s : State} {p v : Nat} {d : Desc} (head : s.egressHead p v = some d)
    (none_ : p < 14 → (s.link p).reTx = []) : (s.sendCell p v).beyondEgress =
      (s.modCore fun c => { c with egress := Tab.mod [] c.egress (p * 12 + v) (·.erase d) }).beyondEgress := by
  unfold State.sendCell
  rw [head]
  dsimp -zeta only
  extract_lets s1
  change _ = s1.beyondEgress
  have links : s1.links = s.links := rfl
  clear_value s1
  split
  · rfl
  · next f _ =>
    split
    · rfl
    · next c _ =>
      extract_lets last s2 s3 s4 s5
      have h2 : s1.Sends s2 p := by
        unfold s2
        split
        · exact modLink_sends s1 p _ rfl
        · exact .refl s1 p
      have h3 : s3.beyondEgress = s1.beyondEgress := by
        unfold s3
        split
        · next link =>
          have quiet : (s1.link p).reTx = [] := by unfold State.link; rw [links]; exact none_ link
          exact (h2.trans (sendBytes_sends s2 p v _ last (h2.2.trans quiet))).beyondEgress
        · rfl
      have h4 : s4.beyondEgress = s1.beyondEgress := h3
      have h5 : s5.beyondEgress = s1.beyondEgress := by
        unfold s5
        split
        · exact (countVerdict_beyondEgress ..).trans h4
        · exact h4
      split
      · exact h4
      · exact (copyOut_beyondEgress ..).trans h5

/-- The search for a VC that can send moves VCs in its list and returns deficits (R194). -/
theorem drr_eq (s : State) (p n : Nat) : ∃ a d,
    (s.drr p n).1 = s.modCore fun c => { c with active := a, deficit := d } := by
  induction n generalizing s with
  | zero => exact ⟨_, _, rfl⟩
  | succ n ih =>
    unfold State.drr
    split
    · exact ⟨_, _, rfl⟩
    · split
      · exact ⟨_, _, rfl⟩
      · obtain ⟨a, d, h⟩ := ih _
        exact ⟨a, d, h⟩
      · obtain ⟨a, d, h⟩ := ih _
        exact ⟨a, d, h⟩

section
variable {s : State} (alive : s.alive = true) {p : Fin 32} (slot : s.hasSlot p = true)
include slot

theorem reTx_of_hasSlot (link : p.val < 14) : (s.link p).reTx = [] := by
  unfold State.hasSlot Link.takesCell at slot
  simp only [Bool.or_eq_true, Bool.and_eq_true, decide_eq_true_eq, List.isEmpty_iff] at slot
  rcases slot with far | ⟨-, ⟨empty, -⟩, -⟩
  · omega
  · exact empty

include alive

/-- The VC whose turn it is sends its next cell, and no other queue changes (R194). -/
theorem egressSlot_sends (plane : Fin 2) {o : State} {v : Nat} {d : Desc}
    (turn : s.drr p (Tab.get [] s.core.active p.val).length = (o, some v)) (head : o.egressHead p v = some d) :
    Answers (.egressSlot p plane) s fun t => t.egressQ p v = (s.egressQ p v).erase d
      ∧ (∀ w, w ≠ p.val * 12 + v → Tab.get [] t.core.egress w = Tab.get [] s.core.egress w)
      ∧ t.hbm = s.hbm ∧ t.tuns = s.tuns ∧ t.fault = s.fault := by
  have hexec : exec (.egressSlot p plane) s = execEgressSlot p plane s := rfl
  unfold execEgressSlot at hexec
  rw [if_neg (by simp [alive, slot]; omega), turn] at hexec
  dsimp -zeta only at hexec
  obtain ⟨a, b, ho⟩ := drr_eq s p (Tab.get [] s.core.active p.val).length
  rw [turn] at ho
  dsimp only at ho
  have quiet : p.val < 14 → (o.link p).reTx = [] := by
    rw [ho]
    exact reTx_of_hasSlot slot
  have sent := sendCell_beyondEgress head quiet
  extract_lets deficit u at hexec
  have egress : u.core.egress = Tab.mod [] o.core.egress (p.val * 12 + v) (·.erase d) :=
    (congrArg (·.core.egress) sent :)
  have hbm : u.hbm = o.hbm := (congrArg State.hbm sent :)
  have tuns : u.tuns = o.tuns := (congrArg State.tuns sent :)
  have fault : u.fault = o.fault := (congrArg State.fault sent :)
  have queues : o.core.egress = s.core.egress := by rw [ho]; rfl
  rw [queues] at egress
  clear_value u
  refine ⟨_, hexec, ?_, fun w hw => ?_, by rw [ho] at hbm; exact hbm, by rw [ho] at tuns; exact tuns,
    by rw [ho] at fault; exact fault⟩
  · exact (congrArg (Tab.get [] · (p.val * 12 + v)) egress).trans (Tab.get_mod_same ..)
  · exact (congrArg (Tab.get [] · w) egress).trans (Tab.get_mod_other _ _ _ hw)

end

end Sys2Proof.Machine

namespace Sys2Proof.Machine

/-! ## The tail (R174 to R176) -/

/-- The frame with its tail seen: its outgoing VERDICT, REASON and MARKER (R174). -/
def Frame.closed (f : Frame) (verdict reason marker : Nat) : Frame :=
  { f with tailSeen := true, verdict := verdict, reason := reason, marker := marker }

/-- A frame that the tail of `f` closes at node `node`: a verdict that is set already stays, else this hop's own
judgement is set (R175, R176). -/
def Frame.concluded (f : Frame) (e : EccOutcome) (node : Nat) (x : Frame) : Frame :=
  if f.inTail.verdict.toNat = 0 then
    x.closed (f.judge e).1 (f.judge e).2 (if (f.judge e).1 == 0 then 0xFFFF else node)
  else x.closed (min f.inTail.verdict.toNat 3) x.inTail.reason.toNat x.inTail.marker.toNat

theorem concluded_id (f : Frame) (e : EccOutcome) (node : Nat) (x : Frame) : (f.concluded e node x).id = x.id := by
  unfold Frame.concluded
  split <;> rfl

/-- The arrival of the tail of frame `f` is counted, by its stream queue too (R295, R335). -/
def State.tailCounted (s : State) (k : Nat) (f : Frame) : State :=
  if f.hdr.op.toNat == 0x01 then (s.modCore (·.tel_ f.port 6 1)).opFrameDone k 0 else s.modCore (·.tel_ f.port 6 1)

/-- What was found of the cells that held the frame is counted or raised (R144, R176). -/
def State.cellsFound (s : State) (e : EccOutcome) : State :=
  match e with
  | .symbol => (s.modHealth fun h => { h with cellCorr := h.cellCorr + 1 }).raise 1766 0
  | .uncorrectable => s.raise 1767 0
  | _ => s

section
variable (s : State) (e : EccOutcome)

theorem cellsFound_core : (s.cellsFound e).core = s.core := by cases e <;> rfl
theorem cellsFound_nodeId : (s.cellsFound e).nodeId = s.nodeId := by cases e <;> rfl
theorem cellsFound_frame? (k : Nat) : (s.cellsFound e).frame? k = s.frame? k := by
  unfold State.frame?
  rw [cellsFound_core]

end

theorem opFrame_core (s : State) (q : Option (Nat × Nat)) (fail : Nat) : (s.opFrame q fail).core = s.core := by
  rcases q with - | q <;> rfl

section
variable {s : State} {k : Nat} {f : Frame}

theorem tailCounted_leaves {β : Type} {g : State → β} (hq : ∀ u x, g { u with sqs := x } = g u)
    (hc : ∀ u x, g { u with core := x } = g u) : g (s.tailCounted k f) = g s := by
  unfold State.tailCounted
  split
  · exact (opFrameDone_leaves hq hc _ k 0).trans (hc s _)
  · exact hc s _

theorem tailCounted_verdict : (s.tailCounted k f).core.verdict = s.core.verdict := by
  unfold State.tailCounted State.opFrameDone
  split
  · exact (congrArg Core.verdict (opFrame_core (s.modCore (·.tel_ f.port 6 1)) _ 0) :)
  · rfl

/-- The frame stays as it was, but that its stream queue may have counted it. -/
theorem tailCounted_frame? (hf : s.frame? k = some f) :
    ∃ b, (s.tailCounted k f).frame? k = some { f with performed := b } := by
  unfold State.tailCounted
  split
  · refine ⟨true, (modFrame_frame? _ _ (by exact fun _ => rfl)).trans ?_⟩
    unfold State.frame?
    rw [opFrame_core]
    exact congrArg (Option.map _) hf
  · exact ⟨f.performed, hf⟩

variable (alive : s.alive = true) (hf : s.frame? k = some f) (fresh : f.tailSeen = false) (looked : f.looked = true)
  (admitted : f.admitted = true) (ended : f.ended = true) (whole : f.cutOff = false)
include alive hf fresh looked admitted ended whole

/-- The tail is counted and its findings reported, and then it closes its frame (R174 to R176). -/
theorem exec_frameTail (e : EccOutcome) {u : State} (hu : u = (s.tailCounted k f).cellsFound e) :
    ∃ v : State, exec (.frameTail k e) s = .next (v.modFrame k (f.concluded e s.nodeId))
      ∧ v.unbooked = u.unbooked ∧ (f.inTail.verdict.toNat = 0 → (f.judge e).1 = 0 → v = u) := by
  have hexec : exec (.frameTail k e) s = execFrameTail k e s := rfl
  unfold execFrameTail at hexec
  rw [hf] at hexec
  dsimp -zeta only at hexec
  rw [if_neg (by simp [alive, fresh, looked, admitted, ended])] at hexec
  extract_lets inc s1 s2 s3 own s4 s5 at hexec
  have h3 : s3 = u := by
    have h1 : s1 = s.modCore (·.tel_ f.port 6 1) := if_neg (by simp [whole])
    rw [hu]
    unfold s3 s2
    rw [h1]
    rfl
  have h4 : s4.unbooked = s3.unbooked := by
    unfold s4
    split
    · exact countVerdict_unbooked ..
    · rfl
  have h5 : s5.unbooked = s3.unbooked := by
    unfold s5
    split
    · rfl
    · exact countVerdict_unbooked ..
  have node : s5.nodeId = s.nodeId := by
    rw [nodeId_eq_of_unbooked h5, h3, hu, cellsFound_nodeId]
    exact tailCounted_leaves (g := State.nodeId) (fun _ _ => rfl) fun _ _ => rfl
  unfold Frame.concluded
  by_cases zero : f.inTail.verdict.toNat = 0
  · simp only [if_pos zero]
    refine ⟨s5, ?_, h5.trans (congrArg State.unbooked h3), fun _ good => (if_pos (beq_iff_eq.2 good)).trans h3⟩
    rw [hexec, if_neg (by simp [inc, zero]), ← node]
    rfl
  · simp only [if_neg zero]
    refine ⟨s4, ?_, h4.trans (congrArg State.unbooked h3), fun h => absurd h zero⟩
    rw [hexec, if_pos (by simp [inc, zero, whole])]
    rfl

/-- A frame whose tail has come is closed; its ingress counts no verdict that is good (R175, R176). -/
theorem frameTail_closes (e : EccOutcome) : Answers (.frameTail k e) s fun t =>
    (∃ b, t.frame? k = some (f.concluded e s.nodeId { f with performed := b }))
      ∧ t.fault = ((s.tailCounted k f).cellsFound e).fault
      ∧ (f.inTail.verdict.toNat = 0 → (f.judge e).1 = 0 → t.core.verdict = s.core.verdict) := by
  obtain ⟨v, hexec, hv, same⟩ := exec_frameTail alive hf fresh looked admitted ended whole e rfl
  obtain ⟨b, hb⟩ := tailCounted_frame? hf
  refine ⟨_, hexec, ⟨b, ?_⟩, (fault_eq_of_unbooked hv :), fun unset good => ?_⟩
  · rw [modFrame_frame? _ _ (concluded_id _ _ _), frame?_eq_of_unbooked hv, cellsFound_frame?, hb]
    rfl
  · rw [same unset good]
    exact (congrArg Core.verdict (cellsFound_core ..)).trans tailCounted_verdict

/-- A frame without a verdict gets this hop's own, and what was found of its cells is reported (R176). -/
theorem frameTail_judges {e : EccOutcome} {v r : Nat} (unset : f.inTail.verdict = 0) (judged : f.judge e = (v, r)) :
    Answers (.frameTail k e) s fun t => ∃ g, t.frame? k = some g ∧ g.tailSeen = true ∧ g.verdict = v ∧ g.reason = r
      ∧ g.marker = (if v == 0 then 0xFFFF else s.nodeId) ∧ (v = 0 → t.core.verdict = s.core.verdict)
      ∧ t.fault = ((s.tailCounted k f).cellsFound e).fault := by
  have zero : f.inTail.verdict.toNat = 0 := by rw [unset]; rfl
  obtain ⟨t, hexec, ⟨b, found⟩, fault, verdict⟩ := frameTail_closes alive hf fresh looked admitted ended whole e
  unfold Frame.concluded at found
  rw [if_pos zero, judged] at found
  rw [judged] at verdict
  exact ⟨t, hexec, _, found, rfl, rfl, rfl, rfl, verdict zero, fault⟩

/-- A verdict that is set already stays (R175). -/
theorem frameTail_keeps (e : EccOutcome) (marked : f.inTail.verdict ≠ 0) : Answers (.frameTail k e) s fun t =>
    ∃ g, t.frame? k = some g ∧ g.tailSeen = true ∧ g.verdict = min f.inTail.verdict.toNat 3
      ∧ g.marker = f.inTail.marker.toNat := by
  obtain ⟨t, hexec, ⟨b, found⟩, -, -⟩ := frameTail_closes alive hf fresh looked admitted ended whole e
  have nonzero : f.inTail.verdict.toNat ≠ 0 := fun zero => marked (BitVec.eq_of_toNat_eq zero)
  unfold Frame.concluded at found
  rw [if_neg nonzero] at found
  exact ⟨t, hexec, _, found, rfl, rfl, rfl⟩

end

theorem tailCounted_fault {s : State} {k : Nat} {f : Frame} : (s.tailCounted k f).fault = s.fault :=
  tailCounted_leaves (g := State.fault) (fun _ _ => rfl) fun _ _ => rfl

/-- An uncorrectable cell raises its source (R176). -/
theorem tail_raises {s : State} {k : Nat} {f : Frame} :
    s.faultRec 1767 0 ∈ ((s.tailCounted k f).cellsFound .uncorrectable).fault.raised := by
  have time : (s.tailCounted k f).time = s.time :=
    tailCounted_leaves (g := State.time) (fun _ _ => rfl) fun _ _ => rfl
  have now : (s.tailCounted k f).now = s.now := tailCounted_leaves (g := State.now) (fun _ _ => rfl) fun _ _ => rfl
  rw [← faultRec_congr time now]
  exact List.mem_append_right _ (List.mem_singleton.2 rfl)

end Sys2Proof.Machine

namespace Sys2Proof.Machine

/-! ## References (R188) -/

theorem dropResv_core (s : State) (tag : Nat) : (s.dropResv tag).core = s.core := by
  unfold State.dropResv State.giveCells
  split <;> rfl

theorem giveCells_used (s : State) (o v n : Nat) : Tab.get 0 (s.giveCells o v n).granary.used o = s.used o - n :=
  Tab.get_set_same ..

/-- A frame that is freed leaves the core, and its owner has its cells no more (R188). -/
theorem freeFrame_frees {s : State} {k : Nat} {f : Frame} (hf : s.frame? k = some f) :
    (s.freeFrame k).frame? k = none ∧ (f.tag = none → f.admitted = true →
      Tab.get 0 (s.freeFrame k).granary.used f.owner = s.used f.owner - f.cells) := by
  unfold State.freeFrame
  rw [hf]
  dsimp -zeta only
  extract_lets s1 s2 s3
  have h1 : s1.unbooked = s.unbooked := by
    unfold s1
    split
    · rfl
    · exact opFrame_unbooked ..
  have frames : s3.core.frames = s1.core.frames.filter fun x => x.id != k := by
    unfold s3
    split
    · rw [dropResv_core]
      rfl
    · split
      · exact granaryTurn_frames s2 0
      · rfl
  have used : f.tag = none → f.admitted = true → Tab.get 0 s3.granary.used f.owner = s.used f.owner - f.cells := by
    intro tag admitted
    unfold s3
    rw [tag]
    dsimp -zeta only
    rw [if_pos admitted, giveCells_used]
    unfold State.used
    rw [granaryTurn_used, show s2.granary = s.granary from (granary_eq_of_unbooked h1 :)]
  clear_value s3
  split
  · have h := rxDrop_unbooked s3 f.port k
    rw [granary_eq_of_unbooked h, frame?_eq_of_unbooked h]
    exact ⟨frame?_eq_none_of_frames frames, used⟩
  · exact ⟨frame?_eq_none_of_frames frames, used⟩

theorem freeIfDone_of_unreferenced {s : State} {k : Nat} {f : Frame} (hf : s.frame? k = some f)
    (looked : f.looked = true) (refs : f.refs = 0) : s.freeIfDone k = s.freeFrame k := by
  unfold State.freeIfDone
  rw [hf]
  exact if_pos (by simp [looked, refs])

section
variable (s : State) (k j : Nat)

theorem modFrame_granary (u : Frame → Frame) : (s.modFrame k u).granary = s.granary := rfl
theorem modFrame_hbm (u : Frame → Frame) : (s.modFrame k u).hbm = s.hbm := rfl
theorem modCopy_granary (u : Copy → Copy) : (s.modCopy k j u).granary = s.granary := rfl
theorem modCopy_hbm (u : Copy → Copy) : (s.modCopy k j u).hbm = s.hbm := rfl

end

/-- A copy of the frame is marked and one reference taken back: the frame is what it was but for these. -/
theorem markCopy_dropRef_frame? {s : State} {k : Nat} {f : Frame} (hf : s.frame? k = some f) (j : Nat) (u : Copy → Copy) :
    ((s.modCopy k j u).modFrame k fun f => { f with refs := f.refs - 1 }).frame? k =
      some { f with copies := modAt u j f.copies, refs := f.refs - 1 } := by
  unfold State.modCopy
  rw [modFrame_frame? _ _ (by exact fun _ => rfl), modFrame_frame? _ _ (by exact fun _ => rfl), hf]
  rfl

section
variable {s : State} (alive : s.alive = true) {k j : Nat} {f : Frame} (hf : s.frame? k = some f)
  (left : f.copies.findIdx? (fun c => c.finished && !c.released) = some j)
include alive hf left

/-- The copy that has left is marked, and its reference is taken back (R186, R188). -/
theorem exec_referenceRelease (parity : Bool) : ∃ v : State,
    exec (.referenceRelease ⟨k, parity⟩) s = .next (v.freeIfDone k)
    ∧ (∃ cs, v.frame? k = some { f with copies := cs, refs := f.refs - 1 })
    ∧ v.granary = (s.granaryTurn 0).granary ∧ v.hbm = s.hbm := by
  have hexec : exec (.referenceRelease ⟨k, parity⟩) s = execReferenceRelease ⟨k, parity⟩ s := rfl
  unfold execReferenceRelease at hexec
  dsimp only at hexec
  rw [hf] at hexec
  dsimp only at hexec
  rw [left] at hexec
  dsimp only at hexec
  rw [if_neg (by simp [alive])] at hexec
  refine ⟨_, hexec, ⟨modAt (fun c => { c with released := true }) j f.copies, ?_⟩, ?_, ?_⟩
  · exact markCopy_dropRef_frame? ((granaryParity_frame? ..).trans ((granaryTurn_frame? ..).trans hf)) ..
  · rw [modFrame_granary, modCopy_granary, granaryParity_granary]
  · rw [modFrame_hbm, modCopy_hbm, granaryParity_hbm, granaryTurn_hbm]

/-- The last reference frees the frame (R188). -/
theorem referenceRelease_last (parity : Bool) (looked : f.looked = true) (refs : f.refs = 1) :
    Answers (.referenceRelease ⟨k, parity⟩) s fun t => t.frame? k = none ∧ t.hbm = s.hbm
      ∧ (f.tag = none → f.admitted = true → Tab.get 0 t.granary.used f.owner = s.used f.owner - f.cells) := by
  obtain ⟨v, hexec, ⟨cs, hv⟩, granary, hbm⟩ := exec_referenceRelease alive hf left parity
  rw [freeIfDone_of_unreferenced hv looked (by rw [refs])] at hexec
  obtain ⟨gone, used⟩ := freeFrame_frees hv
  refine ⟨_, hexec, gone, (hbm_eq_of_stillPart (freeFrame_stillPart v k)).trans hbm, fun tag admitted => ?_⟩
  rw [used tag admitted]
  unfold State.used
  rw [granary, granaryTurn_used]

/-- A frame that is still referenced stays (R188). -/
theorem referenceRelease_other (parity : Bool) (refs : 2 ≤ f.refs) :
    Answers (.referenceRelease ⟨k, parity⟩) s fun t =>
      (t.frame? k).map (·.refs) = some (f.refs - 1) ∧ t.granary = (s.granaryTurn 0).granary := by
  obtain ⟨v, hexec, ⟨cs, hv⟩, granary, -⟩ := exec_referenceRelease alive hf left parity
  rw [freeIfDone_of_referenced hv (by exact Nat.sub_ne_zero_of_lt refs)] at hexec
  exact ⟨v, hexec, congrArg (Option.map _) hv, granary⟩

end

end Sys2Proof.Machine

namespace Sys2Proof.Machine

/-- Settles O54: each command on a frame's way is one of the laws above, at the frame, descriptor or VC that is
next. -/
theorem framePath : Obligations.FramePath := by
  unfold Obligations.FramePath
  intro s alive
  refine ⟨?first, ?found, ?earliest, ?only, ?frames, ?hops,
    fun p rs i d fl hrs at_ hfl next => ?release, ?slots, ?oneVc,
    fun b i f turn held => tokenBucketPass_passes alive turn held⟩
  case first =>
    intro p f rest inner queue free
    have first : (Tab.get [] s.core.inject p.val).findIdx? (fun f => s.stagingFree p f.hdr.vc.toNat) = some 0 := by
      rw [queue, List.findIdx?_cons, if_pos free]
    obtain ⟨t, hexec, g, frames, id, port, hdr, payload, tail, looked, admitted, at_, bad, inject, hbm⟩ :=
      frameIngress_inner alive inner first (by rw [queue]; rfl)
    rw [queue] at inject
    exact ⟨t, hexec, g, frames, id, port, hdr, payload, tail, looked, admitted, at_, bad, inject, hbm⟩
  case found =>
    rintro p i f fs inner rfl first at_
    obtain ⟨t, hexec, g, frames, -, port, hdr, payload, -, -, -, -, -, inject, hbm⟩ :=
      frameIngress_inner alive inner first at_
    exact ⟨t, hexec, inject, hbm, g, frames, port, hdr, payload⟩
  case earliest =>
    intro p link ready
    obtain ⟨t, hexec, e, mem, least, g, frames, -, port, isLink, bad, -, -, hbm⟩ := frameIngress_link alive link ready
    exact ⟨t, hexec, e, mem, g, least, frames, port, isLink, bad, hbm⟩
  case only =>
    rintro p v r h link ready rfl
    obtain ⟨t, hexec, e, mem, -, g, frames, id, port, isLink, bad, at_, hdr, hbm⟩ :=
      frameIngress_link alive link (by rw [ready]; exact List.cons_ne_nil _ _)
    rw [ready, List.mem_singleton] at mem
    subst mem
    exact ⟨t, hexec, g, frames, id, port, isLink, bad, at_, hdr, hbm⟩
  case frames =>
    intro k f hf
    refine ⟨fun new first => ⟨fun c bad unbound => frameLookup_refuses alive hf new first bad unbound,
      fun good own fresh => ⟨?here, ?there⟩⟩, ?admission, ?tail, ?references⟩
    case here =>
      intro here single plain
      obtain ⟨t, hexec, g, c, found, looked, refs, copies, isLocal, egress, hdr, -, hbm⟩ :=
        frameLookup_copies alive hf new first good own fresh (by simp [single])
          (show s.routeCopy f.port f.hdr = .inr (s.localPort f.hdr, true, f.hdr) from if_pos here) fun _ => plain
      exact ⟨t, hexec, g, c, found, looked, refs, copies, isLocal, egress, hdr, hbm⟩
    case there =>
      intro e h there route
      exact frameLookup_copies alive hf new first good own fresh (by simp [there])
        (by unfold State.routeCopy; rw [if_neg (by simp [there]), route]) nofun
    case admission =>
      rintro parity o waiting good posted unbound rfl
      exact ⟨frameAdmission_reserved alive hf waiting good posted unbound parity,
        frameAdmission_granted alive hf waiting good posted unbound parity,
        frameAdmission_waits alive hf waiting good posted⟩
    case tail =>
      intro fresh looked admitted ended whole short long
      have judges {e v r} := frameTail_judges alive hf fresh looked admitted ended whole (e := e) (v := v) (r := r)
      refine ⟨?clean, ?crc, ?cells, fun e marked => frameTail_keeps alive hf fresh looked admitted ended whole e marked⟩
      case clean =>
        intro unset crc
        have judged : f.judge .clean = (0, 0) := by simp [Frame.judge, whole, short, long, crc]
        obtain ⟨t, hexec, g, found, seen, verdict, -, marker, count, fault⟩ := judges unset judged
        exact ⟨t, hexec, g, found, seen, verdict, marker, count rfl, fault.trans tailCounted_fault⟩
      case crc =>
        intro e unset correctable crc
        have judged : f.judge e = (1, 1) := by simp [Frame.judge, whole, short, long, crc, correctable]
        obtain ⟨t, hexec, g, found, seen, verdict, reason, marker, -⟩ := judges unset judged
        exact ⟨t, hexec, g, found, seen, verdict, reason, marker⟩
      case cells =>
        intro unset
        have judged : f.judge .uncorrectable = (3, 3) := by simp [Frame.judge, whole, short]
        obtain ⟨t, hexec, g, found, seen, verdict, reason, marker, -, fault⟩ := judges unset judged
        exact ⟨t, hexec, g, found, seen, verdict, reason, marker, fault ▸ tail_raises⟩
    case references =>
      intro j left looked parity
      exact ⟨referenceRelease_last alive hf left parity looked, referenceRelease_other alive hf left parity⟩
  case hops =>
    intro plane i c j
    exact ⟨fun hc hj f n x next => fabricDescriptorHop_first alive hc hj next,
      fun hc hj d rest head there => fabricDescriptorHop_second alive hc hj head there⟩
  case release =>
    subst hrs hfl
    exact resequencerRelease_releases alive at_ next
  case slots =>
    intro p plane o v d turn slot head
    obtain ⟨t, hexec, queue, -, hbm, tuns, -⟩ := egressSlot_sends alive slot plane turn head
    exact ⟨t, hexec, queue, hbm, tuns⟩
  case oneVc =>
    rintro p plane v d rest active ready slot head rfl
    have turn : s.drr p (Tab.get [] s.core.active p.val).length = (s, some v) := by
      rw [active, List.length_singleton]
      unfold State.drr
      rw [active]
      dsimp only
      rw [ready]
    obtain ⟨t, hexec, queue, others, hbm, -, fault⟩ := egressSlot_sends alive slot plane turn head
    exact ⟨t, hexec, queue, others, hbm, fault⟩

end Sys2Proof.Machine

namespace Sys2Proof.Machine

/-! # Remote memory accesses, their replies and their timeout

## A remote memory access (R340) -/

section
variable {s : State} {k : Nat} {x : InFrame} {len : Nat} (hx : s.inboxFor k [0x12] = some x)
  (acts : s.serviceActs x.hdr = true) (turn : s.accessTurn x = true) (good : x.verdict = 0)
  (hlen : len = natAt x.payload 0 4) (words : len % 4 = 0) (pos : 0 < len) (most : len ≤ 4096)
  (ready : s.hbmReady x.hdr.opx.toNat len = true)
include hx acts turn good hlen words pos most ready

/-- A good request is taken and answered. It changes HBM where it is a write, writes are enabled and it lies in
HBM; then its bytes stand at its address. -/
theorem memReq_performs (e : Ecc) : Answers (.memReq k e) s fun t =>
    t.hbm = (if bitOf (byteAt x.payload 6) 0 = true ∧ s.host.memWrEn = true ∧ x.hdr.opx.toNat + len ≤ hbmTop then
      (s.hbmPut x.hdr.opx.toNat (sliceB x.payload 8 len)).hbm else s.hbm)
    ∧ ∀ y ∈ t.core.inbox, ¬ (y.id = x.id ∧ y.copy = x.copy) := by
  subst hlen
  have hexec : exec (.memReq k e) s = execMemReq k e s := rfl
  unfold execMemReq at hexec
  rw [hx] at hexec
  dsimp -zeta only at hexec
  extract_lets h len a tag port ok s1 at hexec
  rw [if_neg (by simp [h, a, len, acts, turn, Nat.min_eq_left most, ready]),
    if_neg (by simp [len, good, words]; omega)] at hexec
  have answered (u : State) (f : SrcFrame) :
      ∀ y ∈ ((u.taken x).source f).core.inbox, ¬ (y.id = x.id ∧ y.copy = x.copy) := by
    rw [source_inbox]
    exact taken_inbox u x
  have kept (u : State) (f : SrcFrame) : ((u.taken x).source f).hbm = u.hbm :=
    (source_sends ..).hbm.trans (taken_sends ..).hbm
  by_cases write : bitOf (byteAt x.payload 6) 0 = true
  · rw [if_pos write] at hexec
    refine ⟨_, hexec, (kept ..).trans ?_, answered _ _⟩
    unfold s1 ok
    by_cases may : s.host.memWrEn = true ∧ a + len ≤ hbmTop
    · rw [if_pos (by simpa using may), if_pos ⟨write, may⟩, ctlWrite_hbm]
    · rw [if_neg (by simpa using may), if_neg fun h => may h.2]
  · rw [if_neg write] at hexec
    refine ⟨_, hexec, (kept ..).trans ?_, answered _ _⟩
    rw [if_neg fun h => write h.1]
    exact (eccRead_eccFrame ..).hbm

end

/-! ## The reply to a queue's request (R191, R340) -/

/-- A reply of either kind to a queue goes to the queue that its endpoint names. -/
theorem exec_reply {s : State} {k : Nat} {x : InFrame} (ep : x.hdr.epKind = 2) {c : Instr × Nat}
    (hc : c ∈ [(Instr.regReply k, 0x11), (.memReply k, 0x13)]) (hx : s.inboxFor k [c.2] = some x) :
    exec c.1 s = .next (s.queueReply x) := by
  obtain rfl | rfl : c = (Instr.regReply k, 0x11) ∨ c = (Instr.memReply k, 0x13) := by simpa using hc
  · change execRegReply k s = _
    unfold execRegReply
    rw [show s.inboxFor k [0x11] = some x from hx]
    exact congrArg _ (if_pos (by simp [ep]))
  · change execMemReply k s = _
    unfold execMemReply
    rw [show s.inboxFor k [0x13] = some x from hx]
    exact congrArg _ (if_pos (by simp [ep]))

/-- The STATUS that a reply gives its descriptor (R340). -/
def InFrame.replyStatus (x : InFrame) : Nat :=
  if x.verdict ≠ 0 then 3 else if x.hdr.opx.toNat / 65536 % 256 = 1 then 4 else 0

theorem taken_resv (s : State) (x : InFrame) (tag : Nat) : (s.taken x).resv tag = s.resv tag := rfl

theorem taken_sq (s : State) (x : InFrame) (q : Nat) : (s.taken x).sq q = s.sq q := rfl

section
variable {s : State} {x : InFrame}

/-- A reply that no reservation awaits does nothing (R191). -/
theorem queueReply_unreserved (hr : s.resv (x.hdr.opx.toNat % 65536) = none) : s.queueReply x = s.taken x := by
  unfold State.queueReply
  dsimp only
  rw [taken_resv, hr]

variable {r : Reservation} {o : SqOp} {p : HostPort} (hr : s.resv (x.hdr.opx.toNat % 65536) = some r)
  (who : r.who = .queue (Fin.ofNat 4096 x.hdr.epIdx)) (hp : (s.sq x.hdr.epIdx).port = some p)
  (ho : (s.sq x.hdr.epIdx).ops.find? (fun y => y.index == r.index && y.started && y.status.isNone) = some o)
include hr who hp ho

/-- The reply to a queue completes its descriptor; the data of a good remote read goes to the host (R340). -/
theorem queueReply_eq : s.queueReply x = (if x.replyStatus = 0 ∧ o.op = 5 then
      (s.taken x).sendWrite p o.host (fit o.len x.payload) true else s.taken x).modOp x.hdr.epIdx
      r.index (SqOp.finish x.replyStatus (if x.replyStatus = 0 then o.len else 0)) := by
  have index : o.index = r.index := by
    have found := List.find?_some ho
    simp only [Bool.and_eq_true, beq_iff_eq] at found
    obtain ⟨⟨index, -⟩, -⟩ := found
    exact index
  have status : (if x.verdict != 0 then 3 else if x.hdr.opx.toNat / 65536 % 256 == 1 then 4 else 0) = x.replyStatus :=
    if_congr bne_iff_ne rfl (if_congr beq_iff_eq rfl rfl)
  unfold State.queueReply
  dsimp only
  rw [taken_resv, taken_sq, hr, hp]
  dsimp only
  rw [ho]
  dsimp only
  rw [if_neg (by simp [who]), index, status]
  simp only [Bool.and_eq_true, beq_iff_eq]

/-- What the reply to a queue changes: its descriptor, and what goes to the host (R340). -/
theorem queueReply_completes : (s.queueReply x).hbm = s.hbm ∧ (s.queueReply x).tuns = s.tuns
    ∧ ((s.queueReply x).sq x.hdr.epIdx).ops = (s.sq x.hdr.epIdx).ops.map (fun y =>
        if y.index = r.index then SqOp.finish x.replyStatus (if x.replyStatus = 0 then o.len else 0) y else y)
    ∧ (s.queueReply x).out =
        if x.replyStatus = 0 ∧ o.op = 5 then s.withWrites p o.host (fit o.len x.payload) true else s.out := by
  rw [queueReply_eq hr who hp ho]
  generalize x.replyStatus = st
  have sent {β : Type} (g : State → β) (hg : ∀ u y, g (State.emit u y) = g u) :
      g (if st = 0 ∧ o.op = 5 then (s.taken x).sendWrite p o.host (fit o.len x.payload) true else s.taken x) =
        g (s.taken x) := by
    split
    · exact sendWrite_leaves _ _ _ _ _ hg
    · rfl
  refine ⟨sent State.hbm fun _ _ => rfl, sent State.tuns fun _ _ => rfl, ?_, ?_⟩
  · unfold State.modOp
    rw [modSq_sq_same, sent (State.sq · x.hdr.epIdx) fun _ _ => rfl, taken_sq]
    simp only [beq_iff_eq]
  · change State.out (ite _ _ _) = _
    rw [apply_ite State.out, sendWrite_out]
    rfl

end

/-! ## A reservation that ends without its reply (R289) -/

/-- A reservation that is returned is no more; the others stay (R191). -/
theorem dropResv_resv (s : State) (tag k : Nat) : (s.dropResv tag).resv k = if k = tag then none else s.resv k := by
  have only : (s.granary.resv.filter fun e => e.1 != tag).find? (fun e => e.1 == k) =
      if k = tag then none else s.granary.resv.find? fun e => e.1 == k := by
    rw [List.find?_filter]
    split
    · next same =>
      subst same
      simp
    · next other =>
      refine congrArg (List.find? · s.granary.resv) (funext fun e => ?_)
      by_cases h : e.1 = k <;> simp [h, other]
  unfold State.dropResv
  split
  · next none_ =>
    split
    · next same => rw [same, none_]
    · rfl
  · unfold State.giveCells State.resv
    refine (congrArg (Option.map _) only).trans ?_
    split <;> rfl

section
variable {s : State} {tag : Nat} (gone : s.resv tag = none)
include gone

theorem dropResv_resv_none (k : Nat) : (s.dropResv k).resv tag = none := by
  rw [dropResv_resv, gone, ite_self]

/-- A tag that names no reservation names none when a stream is closed (R151). -/
theorem closeStream_resv_none (k : Nat) : (s.closeStream k).resv tag = none := by
  unfold State.closeStream
  extract_lets st taints s1
  have h1 : s1.resv tag = none := by
    refine (foldl_leaves (g := (State.resv · tag)) (fun u x => ?_) taints s).trans gone
    cases x <;> rfl
  change State.resv (List.foldl _ s1 st.reserved) tag = none
  exact List.foldlRecOn (motive := fun u : State => u.resv tag = none) _ _ h1 fun u hu e _ => dropResv_resv_none hu e.2

theorem cancelRunAhead_resv_none (id : Nat) : (s.cancelRunAhead id).resv tag = none := by
  rw [cancelRunAhead_eq]
  refine List.foldlRecOn (motive := fun u : State => u.resv tag = none) _ _ gone fun u hu k _ => ?_
  unfold State.closeAhead
  split
  · exact closeStream_resv_none hu k
  · exact hu

theorem closeDigest_resv_none (id : Nat) (b : Bool) : (s.closeDigest id b).resv tag = none := by
  unfold State.closeDigest
  extract_lets a e t c u
  change u.resv tag = none
  unfold u
  split <;> exact gone

theorem haltFaultAt_resv_none (id c : Nat) : (s.haltFaultAt id c).resv tag = none := by
  unfold State.haltFaultAt
  extract_lets t s1 s2
  have h2 : s2.resv tag = none := cancelRunAhead_resv_none (s := s1.digInvalid) gone id
  clear_value s2
  split
  · exact gone
  · split
    · exact closeDigest_resv_none h2 id true
    · exact h2

theorem streamFault_resv_none (id k n : Nat) : (s.streamFault id k n).resv tag = none :=
  haltFaultAt_resv_none (s := s.raise _ _) gone _ _

end

theorem resv_eq_of_granary {s t : State} (h : t.granary = s.granary) (tag : Nat) : t.resv tag = s.resv tag := by
  unfold State.resv
  rw [h]

section
variable (s : State) (tag : Nat)

theorem dropResv_granary : s.dropResv tag = { s with granary := (s.dropResv tag).granary } := by
  unfold State.dropResv State.giveCells
  split <;> rfl

/-- A reservation that ends at the timeout is no more (R289). -/
theorem replyLost_resv : (s.replyLost tag).resv tag = none := by
  have kept : (s.replyLost tag).granary.resv = (s.dropResv tag).granary.resv := by
    unfold State.replyLost
    rw [State.modCore_granary, State.modGranary_granary]
  unfold State.resv
  rw [kept]
  exact (dropResv_resv s tag tag).trans (if_pos rfl)

/-- The end at the timeout changes the granary and the core only (R289). -/
theorem replyLost_frame : ∃ g c, s.replyLost tag = { s with granary := g, core := c } := by
  unfold State.replyLost
  rw [dropResv_granary]
  exact ⟨_, _, rfl⟩

/-- The tag of a lost reply is counted and shown (R289). -/
theorem replyLost_core : (s.replyLost tag).core =
    { s.core with lostCnt := satInc 16 s.core.lostCnt, lostTag := tag } := by
  unfold State.replyLost
  rw [State.modCore_core, State.modGranary_core, dropResv_core]

end

/-- The state once tag `tag` has been lost, and with it the request of queue `q` at ring index `i` that awaited it
(R289, R340). -/
def State.requestLost (s : State) (q i tag : Nat) : State :=
  ((s.replyLost tag).raise 1765 0).modOp q i fun o => if o.status.isNone then o.finish 5 0 else o

section
variable (s : State) (q i tag : Nat)

theorem requestLost_resv : (s.requestLost q i tag).resv tag = none := by
  have granary : (s.requestLost q i tag).granary = (s.replyLost tag).granary := by
    unfold State.requestLost State.modOp
    rw [State.modSq_granary, State.raise_granary]
  exact (resv_eq_of_granary granary tag).trans (replyLost_resv s tag)

theorem requestLost_raises : ∃ x ∈ (s.requestLost q i tag).fault.raised, x.src = 1765 :=
  ⟨_, List.mem_append_right _ (List.mem_singleton.2 rfl), rfl⟩

theorem requestLost_ops : ((s.requestLost q i tag).sq q).ops =
    (s.sq q).ops.map (fun o => if o.index = i ∧ o.status = none then SqOp.finish 5 0 o else o) := by
  have sq : ((s.replyLost tag).raise 1765 0).sq q = s.sq q := by
    obtain ⟨g, c, frame⟩ := replyLost_frame s tag
    rw [frame]
    rfl
  unfold State.requestLost State.modOp
  rw [modSq_sq_same, sq]
  refine List.map_congr_left fun o _ => ?_
  simp only [beq_iff_eq, Option.isNone_iff_eq_none, ite_and]

theorem requestLost_frame : (s.requestLost q i tag).now = s.now ∧ (s.requestLost q i tag).tuns = s.tuns
    ∧ (s.requestLost q i tag).hbm = s.hbm := by
  unfold State.requestLost
  obtain ⟨g, c, frame⟩ := replyLost_frame s tag
  rw [frame]
  exact ⟨rfl, rfl, rfl⟩

end

/-- The epoch of stream `k` in which a read with reservation `r` has been sent is open. -/
def State.awaits (s : State) (k : Nat) (r : Reservation) : Prop :=
  (s.stream k).active = true ∧ (s.stream k).epoch = r.epoch

/-- The state once tag `tag` has been lost, and with it the read of stream `k` that awaited it (R289). -/
def State.readLost (s : State) (k tag : Nat) : State :=
  (s.modStream k fun st => { st with reads := st.reads.filter fun x => x.tag != some tag
                                     reserved := st.reserved.filter fun x => x.2 != tag }).replyLost tag

section
variable (s : State) (k tag : Nat)

theorem readLost_resv : (s.readLost k tag).resv tag = none := replyLost_resv ..

theorem readLost_core : (s.readLost k tag).core =
    { s.core with lostCnt := satInc 16 s.core.lostCnt, lostTag := tag } := by
  unfold State.readLost
  rw [replyLost_core, State.modStream_core]

theorem readLost_frame : ∃ m g c, s.readLost k tag = { s with streams := m, granary := g, core := c } := by
  unfold State.readLost
  obtain ⟨g, c, h⟩ := replyLost_frame (s.modStream k _) tag
  exact ⟨_, g, c, h⟩

end

section
variable {s : State} {k tag : Nat} {r : Reservation}

/-- A read whose epoch is closed ends, and nothing more (R289). -/
theorem streamReplyLost_of_not_awaits (h : ¬ s.awaits k r) : s.streamReplyLost k tag r = s.readLost k tag := by
  unfold State.awaits at h
  exact if_neg (by simpa using h)

/-- A read of an open epoch closes its stream, with the reply-lost fault of its tun (R289, R347). -/
theorem streamReplyLost_of_awaits (h : s.awaits k r) :
    s.streamReplyLost k tag r = ((s.readLost k tag).closeStream k).streamFault (s.stream k).tun k 5 := by
  unfold State.awaits at h
  exact if_pos (by simpa using h)

/-- However the loss is taken, the reservation is no more, and HBM and all that a halt leaves are those of the state
in which the tag is lost. -/
theorem streamReplyLost_keeps : (s.streamReplyLost k tag r).resv tag = none
    ∧ (s.streamReplyLost k tag r).hbm = (s.readLost k tag).hbm
    ∧ (s.streamReplyLost k tag r).steady = (s.readLost k tag).steady := by
  by_cases h : s.awaits k r
  · rw [streamReplyLost_of_awaits h]
    have closed := closeStream_streamFrame (s.readLost k tag) k
    exact ⟨streamFault_resv_none (closeStream_resv_none (readLost_resv ..) k) _ _ _,
      (streamFault_frame ..).hbm.trans closed.hbm, (streamFault_steady ..).trans closed.steady⟩
  · rw [streamReplyLost_of_not_awaits h]
    exact ⟨readLost_resv .., rfl, rfl⟩

theorem streamReplyLost_closes (h : s.awaits k r) : ((s.streamReplyLost k tag r).stream k).active = false
    ∧ ∃ x ∈ (s.streamReplyLost k tag r).fault.raised, x.src = srcTun (s.stream k).tun 4 := by
  rw [streamReplyLost_of_awaits h]
  generalize s.readLost k tag = v
  have closed : (((v.closeStream k).raise (srcTun (s.stream k).tun 4) (5 * 256 + k % 256)).stream k).isClosed := by
    change ((v.closeStream k).stream k).isClosed
    rw [closeStream_stream_same]
    exact ⟨rfl, rfl, rfl⟩
  obtain ⟨inactive, -, -⟩ := haltFaultAt_isClosed closed (s.stream k).tun
    (State.tunCycle (State.raise _ _ _) (s.stream k).tun)
  exact ⟨inactive, _, haltFaultAt_raised _ _ _ (List.mem_append_right _ (List.mem_singleton.2 rfl)), rfl⟩

end

/-! ## 10 ms without a reply (R289) -/

theorem after_stream (s : State) (due k : Nat) : (s.after due).stream k = s.stream k := by
  obtain ⟨_, _, _, h⟩ := reach_frame s (s.time.ftc + (due - s.now))
  unfold State.after
  rw [h]
  rfl

theorem after_lostCnt (s : State) (due : Nat) : (s.after due).core.lostCnt = s.core.lostCnt := by
  obtain ⟨_, h⟩ := reach_core s (s.time.ftc + (due - s.now))
  unfold State.after
  rw [h]

theorem streamReplyLost_now (s : State) (k tag : Nat) (r : Reservation) : (s.streamReplyLost k tag r).now = s.now := by
  obtain ⟨-, -, same⟩ := streamReplyLost_keeps (s := s) (k := k) (tag := tag) (r := r)
  obtain ⟨_, _, _, lost⟩ := readLost_frame s k tag
  rw [now_eq_of_steady same, lost]
  rfl

theorem streamReplyLost_hbm (s : State) (k tag : Nat) (r : Reservation) : (s.streamReplyLost k tag r).hbm = s.hbm := by
  obtain ⟨-, hbm, -⟩ := streamReplyLost_keeps (s := s) (k := k) (tag := tag) (r := r)
  obtain ⟨_, _, _, lost⟩ := readLost_frame s k tag
  rw [hbm, lost]

/-- What the halt of a tun leaves has the loss count and the lost tag in it. -/
theorem lost_eq_of_steady {s t : State} (h : t.steady = s.steady) :
    t.core.lostCnt = s.core.lostCnt ∧ t.core.lostTag = s.core.lostTag :=
  ⟨congrArg (·.core.lostCnt) h, congrArg (·.core.lostTag) h⟩

theorem streamReplyLost_counts (s : State) (k tag : Nat) (r : Reservation) :
    (s.streamReplyLost k tag r).core.lostCnt = satInc 16 s.core.lostCnt
      ∧ (s.streamReplyLost k tag r).core.lostTag = tag := by
  obtain ⟨-, -, same⟩ := streamReplyLost_keeps (s := s) (k := k) (tag := tag) (r := r)
  have core := readLost_core s k tag
  obtain ⟨counted, shown⟩ := lost_eq_of_steady same
  exact ⟨counted.trans (congrArg Core.lostCnt core), shown.trans (congrArg Core.lostTag core)⟩

section
variable {s : State} {tag : Fin 16384} {r : Reservation} (hr : s.resv tag = some r) (alive : s.alive = true)
  (unsent : s.core.frames.any (fun f => f.tag == some tag.val) = false)
include hr alive unsent

/-- What ends with the reservation is what its requester says (R289). -/
theorem exec_replyTimeout : exec (.replyTimeout tag) s = .next
    (match r.who with
    | .stream k => (s.after (r.since + 40000000)).streamReplyLost k tag r
    | .queue q => (s.after (r.since + 40000000)).requestLost q r.index tag
    | .catchUp => s) := by
  change execReplyTimeout tag s = _
  unfold execReplyTimeout
  rw [hr]
  dsimp only
  rw [if_neg (by simp [alive, unsent])]
  cases r.who <;> rfl

theorem replyTimeout_catchUp (who : r.who = .catchUp) : exec (.replyTimeout tag) s = .next s := by
  rw [exec_replyTimeout hr alive unsent, who]

theorem replyTimeout_stream {k : Fin 1024} (who : r.who = .stream k) : Answers (.replyTimeout tag) s fun t =>
    t.resv tag = none ∧ t.now = max s.now (r.since + 40000000) ∧ t.hbm = s.hbm
    ∧ t.core.lostCnt = satInc 16 s.core.lostCnt ∧ t.core.lostTag = tag.val
    ∧ ((s.stream k).active = true → (s.stream k).epoch = r.epoch → (t.stream k).active = false
        ∧ ∃ x ∈ t.fault.raised, x.src = 8 * (s.stream k).tun + 4) := by
  have hexec := exec_replyTimeout hr alive unsent
  rw [who] at hexec
  obtain ⟨gone, -, -⟩ := streamReplyLost_keeps (s := s.after (r.since + 40000000)) (k := k) (tag := tag) (r := r)
  obtain ⟨counted, shown⟩ := streamReplyLost_counts (s.after (r.since + 40000000)) k tag r
  rw [after_lostCnt] at counted
  refine ⟨_, hexec, gone, (streamReplyLost_now ..).trans (after_now ..),
    (streamReplyLost_hbm ..).trans (after_hbm ..), counted, shown, fun active epoch => ?_⟩
  rw [← after_stream s (r.since + 40000000)] at active epoch ⊢
  exact streamReplyLost_closes ⟨active, epoch⟩

theorem replyTimeout_queue {q : Fin 4096} (who : r.who = .queue q) : Answers (.replyTimeout tag) s fun t =>
    (t.sq q).ops = (s.sq q).ops.map (fun o => if o.index = r.index ∧ o.status = none then SqOp.finish 5 0 o else o)
    ∧ t.resv tag = none ∧ (∃ x ∈ t.fault.raised, x.src = 1765)
    ∧ t.now = max s.now (r.since + 40000000) ∧ t.tuns = s.tuns ∧ t.hbm = s.hbm := by
  have hexec := exec_replyTimeout hr alive unsent
  rw [who] at hexec
  have ops := requestLost_ops (s.after (r.since + 40000000)) q r.index tag
  rw [after_sq] at ops
  obtain ⟨now, tuns, hbm⟩ := requestLost_frame (s.after (r.since + 40000000)) q r.index tag
  exact ⟨_, hexec, ops, requestLost_resv .., requestLost_raises .., now.trans (after_now ..),
    tuns.trans (after_tuns ..), hbm.trans (after_hbm ..)⟩

end

/-- Settles O40: an access by what it does to HBM, a reply by what it does to its queue, and a timeout by what its
reservation was for. -/
theorem remoteOperations : Obligations.RemoteOperations := by
  unfold Obligations.RemoteOperations
  intro s
  refine ⟨fun k x len e hx acts turn good hlen words pos most ready => ?access,
    fun k x r o p st ep hr who hp ho hst c hc hx => ?reply,
    fun k x ep hr c hc hx => ?unreserved,
    fun tag r hr alive unsent => ⟨fun k who => ?stream, fun who => ?catchUp⟩,
    fun tag r q hr alive unsent who => ?queue⟩
  case access =>
    obtain ⟨t, hexec, hbm, inbox⟩ := memReq_performs hx acts turn good hlen words pos most ready e
    refine ⟨t, hexec, fun read => ?_, fun _ off => ?_, fun write on within => ?_, fun _ _ beyond => ?_, inbox⟩
    · rw [hbm, if_neg (by simp [read])]
    · rw [hbm, if_neg (by simp [off])]
    · rw [hbm, if_pos ⟨write, on, within⟩]
    · rw [hbm, if_neg (by omega)]
  case reply =>
    subst hst
    obtain ⟨hbm, tuns, ops, out⟩ := queueReply_completes hr who hp ho
    exact ⟨_, exec_reply ep hc hx, ops, fun ok load => out.trans (if_pos ⟨ok, load⟩),
      fun other => out.trans (if_neg (by tauto)), tuns, hbm⟩
  case unreserved => rw [exec_reply ep hc hx, queueReply_unreserved hr]
  case stream => exact replyTimeout_stream hr alive unsent who
  case catchUp => exact replyTimeout_catchUp hr alive unsent who
  case queue => exact replyTimeout_queue hr alive unsent who

end Sys2Proof.Machine

namespace Sys2Proof.Machine

/-! # The arithmetic of recipes

## Lanes, and the numbers of a byte string (R206) -/

/-- A run of writes at the keys from `base` on. -/
theorem get_foldl_set {α : Type} [DecidableEq α] (d : α) (f : Nat → α) (base n : Nat) (t : Tab α) (k : Nat) :
    Tab.get d ((List.range n).foldl (fun t i => Tab.set d t (base + i) (f i)) t) k =
      if base ≤ k ∧ k < base + n then f (k - base) else Tab.get d t k := by
  induction n with
  | zero => rw [if_neg (by omega)]; rfl
  | succ n ih =>
    rw [List.range_succ, List.foldl_append]
    by_cases h : k = base + n
    · subst h
      rw [if_pos (by omega), Nat.add_sub_cancel_left]
      exact Tab.get_set_same d _ _ _
    · refine (Tab.get_set_other d _ _ h).trans (ih.trans ?_)
      exact if_congr (by omega) rfl rfl

theorem setLanes_get (r : Run) (reg : Nat) (xs : List Nat) (k : Nat) : Tab.get 0 (r.setLanes reg xs).v k =
    if k / 64 = reg then BitVec.ofNat 64 (xs.getD (k % 64) 0) else Tab.get 0 r.v k := by
  refine (get_foldl_set 0 (fun i => BitVec.ofNat 64 (xs.getD i 0)) (64 * reg) 64 r.v k).trans ?_
  by_cases h : k / 64 = reg
  · rw [if_pos (by omega), if_pos h, show k - 64 * reg = k % 64 by omega]
  · rw [if_neg (by omega), if_neg h]

theorem lanes_getElem? (r : Run) (reg : Nat) {i : Nat} (h : i < 64) :
    (r.lanes reg)[i]? = some (Tab.get 0 r.v (64 * reg + i)).toNat := by
  simp [Run.lanes, h]

theorem leNat_append_zeros (bs : List Byte) (n : Nat) : leNat (bs ++ zeros n) = leNat bs := by
  induction bs with
  | nil =>
    induction n with
    | zero => rfl
    | succ n ih =>
      change 0 + 256 * leNat (zeros n) = 0
      rw [show leNat (zeros n) = 0 from ih]
  | cons b bs ih => exact congrArg (b.toNat + 256 * ·) ih

/-- The number at an offset is that of the bytes there: zeros beyond the end add nothing. -/
theorem natAt_eq (bs : List Byte) (i n : Nat) : natAt bs i n = leNat ((bs.drop i).take n) := leNat_append_zeros _ _

theorem numbersOf_getElem? (n : Nat) {k i : Nat} (h : i < k) (bs : List Byte) :
    (numbersOf n k bs)[i]? = some (natAt bs (n * i) n) := by
  rw [natAt_eq]
  induction k generalizing i bs with
  | zero => omega
  | succ k ih =>
    cases i with
    | zero => rfl
    | succ i =>
      refine (ih (by omega) (bs.drop n)).trans ?_
      rw [List.drop_drop, Nat.mul_succ, Nat.add_comm]

/-- Operand B of a bitwise instruction, lane by lane. -/
theorem lanesB_getElem? (r : Run) (w : Nat) {i : Nat} (h : i < 64) : (r.lanesB w)[i]? = some (
    if recS w then natAt (r.beatBytes 0) (4 * i) 4 else (Tab.get 0 r.v (64 * recB w + i)).toNat) := by
  unfold Run.lanesB
  split
  · exact numbersOf_getElem? 4 h _
  · exact lanes_getElem? r _ h

/-! ## What an instruction reads, and what it writes (R208) -/

/-- The run once a word has begun: but for its wait and its time it is the run. -/
theorem begun_eq (s : State) (u : Nat) (r : Run) (w : Nat) :
    ∃ wt n e, s.begun u r w = { r with waiting := wt, cycles := n, lastEmit := e } := by
  unfold State.begun
  obtain ⟨wt, n, eq⟩ := resumed_eq s u r
  rw [eq]
  exact ⟨_, _, _, rfl⟩

@[simp] theorem stepped_v (r : Run) : r.stepped.v = r.v := rfl
@[simp] theorem stepped_cycles (r : Run) : r.stepped.cycles = r.cycles := rfl

section
variable {s : State} {u op w : Nat} {rr : RecipeRec} {r : Run} (h : s.recipeRuns u op rr r w) (hop : op ≠ 1)
include h hop

/-- An instruction leaves what it writes by what it has read of the run, which is what the run held before. -/
theorem recipeStep_reads {act : RecipeRec → Nat → Run → Run × Nat} {α : Type} {reads : Run → α}
    (untimed : Run.Untimed reads) {write : α → Run → Run × Nat} (hact : ∀ q, act rr w q = write (reads q) q) :
    s.ranTo (s.recipeStep u op act) u w (write (reads r) (s.begun u r w)).1.stepped
      (write (reads r) (s.begun u r w)).2 := by
  have ran := recipeStep_ranTo h act
  rwa [if_neg hop, hact, untimed.begun] at ran

end

/-! ## Adds, exact adds and wrapping adds (R212 to R215) -/

/-- What one element makes of a lane of XACC, and of the mark that it has met a NaN (R213). -/
def xaddLane (f x : Nat) (lane : Int × Bool) : Int × Bool :=
  match fvOf f x with
  | .nan => (lane.1, true)
  | .inf _ => lane
  | .fin neg m e => (lane.1 + signedAt neg m e (-149), lane.2)

/-- Lane `k` of XACC with its NaN mark. -/
def Run.xlane (r : Run) (k : Nat) : Int × Bool := (Tab.get 0 r.xacc k, Tab.get false r.xnan k)

section
variable (f : Nat) (r : Run)

theorem xaddOne_frame (i x : Nat) : ∃ a n p m, r.xaddOne f i x = { r with xacc := a, xnan := n, xpinf := p, xninf := m } := by
  unfold Run.xaddOne
  split
  · exact ⟨_, _, _, _, rfl⟩
  · split <;> exact ⟨_, _, _, _, rfl⟩
  · exact ⟨_, _, _, _, rfl⟩

/-- Adding elements changes XACC and its marks only. -/
theorem xaddAll_frame (i : Nat) (xs : List Nat) :
    ∃ a n p m, Run.xaddAll f r i xs = { r with xacc := a, xnan := n, xpinf := p, xninf := m } := by
  induction xs generalizing r i with
  | nil => exact ⟨_, _, _, _, rfl⟩
  | cons x xs ih =>
    obtain ⟨_, _, _, _, one⟩ := xaddOne_frame f r i x
    obtain ⟨_, _, _, _, rest⟩ := ih (r.xaddOne f i x) (i + 1)
    exact ⟨_, _, _, _, rest.trans (by rw [one])⟩

theorem xaddOne_xlane_same (i x : Nat) : (r.xaddOne f i x).xlane i = xaddLane f x (r.xlane i) := by
  unfold Run.xaddOne xaddLane Run.xlane
  cases fvOf f x with
  | nan => simp only [Tab.get_set_same]
  | inf neg => cases neg <;> rfl
  | fin neg m e => simp only [Tab.get_mod_same]

theorem xaddOne_xlane_other {i k : Nat} (x : Nat) (h : k ≠ i) : (r.xaddOne f i x).xlane k = r.xlane k := by
  unfold Run.xaddOne Run.xlane
  cases fvOf f x with
  | nan => simp only [Tab.get_set_other _ _ _ h]
  | inf neg => cases neg <;> rfl
  | fin neg m e => simp only [Tab.get_mod_other _ _ _ h]

theorem xaddAll_xlane_before {i k : Nat} (xs : List Nat) (h : k < i) : (Run.xaddAll f r i xs).xlane k = r.xlane k := by
  induction xs generalizing r i with
  | nil => rfl
  | cons x xs ih => exact (ih _ (by omega)).trans (xaddOne_xlane_other f r x (by omega))

/-- Each lane takes the one element that is its own (R213). -/
theorem xaddAll_xlane (i : Nat) {xs : List Nat} {j : Nat} (h : j < xs.length) :
    (Run.xaddAll f r i xs).xlane (i + j) = xaddLane f (xs.getD j 0) (r.xlane (i + j)) := by
  induction xs generalizing r i j with
  | nil => simp at h
  | cons x xs ih =>
    cases j with
    | zero => exact (xaddAll_xlane_before f _ xs (by omega)).trans (xaddOne_xlane_same f r i x)
    | succ j =>
      have rest := ih (r.xaddOne f i x) (i + 1) (Nat.lt_of_succ_lt_succ h)
      rw [xaddOne_xlane_other f r x (by omega), Nat.add_right_comm, Nat.add_assoc] at rest
      exact rest

end

/-- NV of LTR_ARITH_FLAGS, once raised. -/
theorem bitOf_flags_nv : ∀ flags : BitVec 4, bitOf (flags ||| BitVec.ofNat 4 8).toNat 3 = true := by decide

section
variable {s : State} {u : Fin 4} {w : Nat} {rr : RecipeRec} {r : Run}

/-- An instruction that reports flags writes VD by what it has read, and checks its residues (R212, R215, R224). -/
theorem recFlagged_ranTo {op : Nat} (h : s.recipeRuns u op rr r w) (hop : op ≠ 1) (bad : Bool)
    {act : RecipeRec → Nat → Run → Run × Nat} {ys : Run → List (Nat × Nat)} (untimed : Run.Untimed ys)
    (hact : ∀ q, act rr w q = (q.checked bad).setFlagged w (ys q)) :
    s.ranTo (s.recipeStep u op act) u w (((s.begun u r w).checked bad).setElems w ((ys r).map (·.1))).stepped
      ((ys r).foldl (fun a y => Nat.lor a y.2) 0) :=
  recipeStep_reads h hop untimed (write := fun ys q => (q.checked bad).setFlagged w ys) hact

theorem recFadd_ranTo (h : s.recipeRuns u 0x11 rr r w) (bad : Bool) : Answers (.recFadd u bad) s fun t => s.ranTo t u w
    (((s.begun u r w).checked bad).setElems w
      ((List.zipWith (addIn (recF w)) (r.elemsA w) (r.elemsB w)).map (·.1))).stepped
    ((List.zipWith (addIn (recF w)) (r.elemsA w) (r.elemsB w)).foldl (fun a y => Nat.lor a y.2) 0) :=
  ⟨_, rfl, recFlagged_ranTo h (by decide) bad
    (ys := fun r => List.zipWith (addIn (recF w)) (r.elemsA w) (r.elemsB w)) (fun _ _ _ _ => rfl) fun _ => rfl⟩

theorem recIadd_ranTo (h : s.recipeRuns u 0x14 rr r w) (bad : Bool) : Answers (.recIadd u bad) s fun t => s.ranTo t u w
    (((s.begun u r w).checked bad).setElems w
      ((List.zipWith (iaddIn (fmtBits (recF w))) (r.elemsA w) (r.elemsB w)).map (·.1))).stepped
    ((List.zipWith (iaddIn (fmtBits (recF w))) (r.elemsA w) (r.elemsB w)).foldl (fun a y => Nat.lor a y.2) 0) :=
  ⟨_, rfl, recFlagged_ranTo h (by decide) bad
    (ys := fun r => List.zipWith (iaddIn (fmtBits (recF w))) (r.elemsA w) (r.elemsB w)) (fun _ _ _ _ => rfl) fun _ => rfl⟩

/-- What FACC writes: a copy at member 0, a sum after it (R212). -/
def Run.faccElems (r : Run) (w : Nat) : List (Nat × Nat) :=
  if r.m = 0 then (r.elemsB w).map (copyIn (recF w)) else List.zipWith (addIn (recF w)) (r.elemsD w) (r.elemsB w)

theorem faccElems_first {r : Run} {w : Nat} (m : r.m = 0) : r.faccElems w = (r.elemsB w).map (copyIn (recF w)) := if_pos m
theorem faccElems_later {r : Run} {w : Nat} (m : r.m ≠ 0) :
    r.faccElems w = List.zipWith (addIn (recF w)) (r.elemsD w) (r.elemsB w) := if_neg m

theorem recFacc_ranTo (h : s.recipeRuns u 0x10 rr r w) (bad : Bool) : Answers (.recFacc u bad) s fun t => s.ranTo t u w
    (((s.begun u r w).checked bad).setElems w ((r.faccElems w).map (·.1))).stepped
    ((r.faccElems w).foldl (fun a y => Nat.lor a y.2) 0) := by
  refine ⟨_, rfl, recFlagged_ranTo h (by decide) bad (ys := fun r => r.faccElems w) (fun _ _ _ _ => rfl) fun q => ?_⟩
  change (if (q.m == 0) = true then _ else _) = (q.checked bad).setFlagged w (q.faccElems w)
  unfold Run.faccElems
  by_cases m : q.m = 0
  · rw [if_pos (by simp [m]), if_pos m]
    rfl
  · rw [if_neg (by simp [m]), if_neg m]
    rfl

theorem recXadd_ranTo (h : s.recipeRuns u 0x12 rr r w) (bad : Bool) : Answers (.recXadd u bad) s fun t => s.ranTo t u w
    { ((s.begun u r w).checked bad).xaddAll (recF w) 0 (r.elemsB w) with xadds := r.xadds + 1 }.stepped
    (if (r.elemsB w).any (isSnan (recF w)) then 8 else 0) :=
  ⟨_, rfl, recipeStep_reads h (by decide) (reads := fun r => (r.elemsB w, r.xadds + 1))
    (write := fun p q => ({ (q.checked bad).xaddAll (recF w) 0 p.1 with xadds := p.2 },
      if p.1.any (isSnan (recF w)) then 8 else 0)) (fun _ _ _ _ => rfl) fun _ => rfl⟩

/-- XADD: each element goes exactly to its lane of XACC (R213, R214, R224). -/
theorem recXadd_runs (h : s.recipeRuns u 0x12 rr r w) (bad : Bool) : Answers (.recXadd u bad) s fun t =>
    ∃ r', (t.lauter u).run = some r' ∧ r'.xadds = r.xadds + 1 ∧ r'.v = r.v ∧ r'.failed = (r.failed || bad)
      ∧ (∀ i neg m e, i < (r.elemsB w).length → fvOf (recF w) ((r.elemsB w).getD i 0) = .fin neg m e →
        Tab.get 0 r'.xacc i = Tab.get 0 r.xacc i + signedAt neg m e (-149))
      ∧ (∀ i, i < (r.elemsB w).length → fvOf (recF w) ((r.elemsB w).getD i 0) = .nan → Tab.get false r'.xnan i = true)
      ∧ ((∃ y ∈ r.elemsB w, isSnan (recF w) y = true) → bitOf (t.lauter u).flags.toNat 3 = true)
      ∧ t = { s.mvRun w with lauters := t.lauters } := by
  obtain ⟨t, hexec, run, flags, -, -, -, frame⟩ := recXadd_ranTo h bad
  obtain ⟨_, _, _, begun⟩ := begun_eq s u r w
  generalize r.elemsB w = ys at *
  obtain ⟨_, _, _, _, leaves⟩ := xaddAll_frame (recF w) ((s.begun u r w).checked bad) 0 ys
  have lane {i : Nat} (hi : i < ys.length) :
      (Run.xaddAll (recF w) ((s.begun u r w).checked bad) 0 ys).xlane i = xaddLane (recF w) (ys.getD i 0) (r.xlane i) := by
    have at_i := xaddAll_xlane (recF w) ((s.begun u r w).checked bad) 0 hi
    rw [Nat.zero_add, begun] at at_i
    rw [begun]
    exact at_i
  refine ⟨t, hexec, _, run, rfl, ?_, ?_, fun i neg m e hi hv => ?_, fun i hi hv => ?_, fun ⟨y, hy, snan⟩ => ?_, frame⟩
  · change (Run.xaddAll _ _ _ _).v = _
    rw [leaves, begun]
    rfl
  · change (Run.xaddAll _ _ _ _).failed = _
    rw [leaves, begun]
    rfl
  · have sum := congrArg Prod.fst (lane hi)
    unfold xaddLane at sum
    rw [hv] at sum
    exact sum
  · have mark := congrArg Prod.snd (lane hi)
    unfold xaddLane at mark
    rw [hv] at mark
    exact mark
  · refine (congrArg (fun f : BitVec 4 => bitOf f.toNat 3) flags).trans ?_
    rw [if_pos (List.any_eq_true.2 ⟨y, hy, snan⟩)]
    exact bitOf_flags_nv _

/-- The lanes that XEMIT rounds (R213). -/
def Run.xemitElems (r : Run) (w : Nat) : List (Nat × Nat) :=
  (List.range (if recF w = 0 then 64 else 128)).map fun i =>
    r.xround (recF w) ((if recF w = 0 then 64 * (recX w % 2) else 0) + i)

theorem recXemit_ranTo (h : s.recipeRuns u 0x13 rr r w) : Answers (.recXemit u) s fun t => s.ranTo t u w
    { (s.begun u r w).setElems w ((r.xemitElems w).map Prod.fst) with
      xacc := [], xnan := [], xpinf := [], xninf := [], xadds := 0 }.stepped
    ((r.xemitElems w).foldl (fun t x => Nat.lor t x.2) 0) :=
  ⟨_, rfl, recipeStep_reads h (by decide) (reads := fun r => r.xemitElems w)
    (write := fun ys q => ({ q.setElems w (ys.map Prod.fst) with
      xacc := [], xnan := [], xpinf := [], xninf := [], xadds := 0 }, ys.foldl (fun t x => Nat.lor t x.2) 0))
    (fun _ _ _ _ => rfl) fun q => by simp only [Run.xemitElems, Run.setFlagged, beq_iff_eq]⟩

/-- XEMIT: the lanes of XACC rounded into VD, and XACC cleared (R213). -/
theorem recXemit_runs (h : s.recipeRuns u 0x13 rr r w) : Answers (.recXemit u) s fun t =>
    ∃ r', (t.lauter u).run = some r' ∧ r'.xacc = [] ∧ r'.xnan = [] ∧ r'.xpinf = [] ∧ r'.xninf = [] ∧ r'.xadds = 0
      ∧ t = { s.mvRun w with lauters := t.lauters }
      ∧ r'.v = ((s.begun u r w).setElems w ((r.xemitElems w).map (·.1))).v := by
  obtain ⟨t, hexec, run, -, -, -, -, frame⟩ := recXemit_ranTo h
  exact ⟨t, hexec, _, run, rfl, rfl, rfl, rfl, rfl, frame, rfl⟩

end

/-! ## Elements and lanes (R211, R216) -/

section
variable {s : State} {u op w : Nat} {rr : RecipeRec} {r : Run} (h : s.recipeRuns u op rr r w) (hop : op ≠ 1)
include h hop

/-- An instruction without flags writes VD by what it reads of the run. -/
theorem recElems_ranTo {ys : RecipeRec → Nat → Run → List Nat} (untimed : Run.Untimed (ys rr w)) :
    s.ranTo (s.recipeStep u op fun rr w q => (q.setElems w (ys rr w q), 0)) u w
      ((s.begun u r w).setElems w (ys rr w r)).stepped 0 :=
  recipeStep_reads h hop untimed (write := fun ys q => (q.setElems w ys, 0)) fun _ => rfl

/-- An instruction on whole lanes writes the 64 lanes of VD and no other. -/
theorem recLanes_runs {xs : Nat → Run → List Nat} (untimed : Run.Untimed (xs w)) {t : State}
    (ht : s.recipeOp u op (fun w q => q.setLanes (recD w) (xs w q)) = t) : ∃ r', (t.lauter u).run = some r'
      ∧ t = { s.mvRun w with lauters := t.lauters }
      ∧ (∀ k, k / 64 ≠ recD w → Tab.get 0 r'.v k = Tab.get 0 r.v k)
      ∧ ∀ i < 64, Tab.get 0 r'.v (64 * recD w + i) = BitVec.ofNat 64 ((xs w r).getD i 0) := by
  obtain ⟨run, -, -, -, -, frame⟩ := recipeStep_reads h hop (act := fun _ w q => (q.setLanes (recD w) (xs w q), 0)) untimed
    (write := fun xs q => (q.setLanes (recD w) xs, 0)) fun _ => rfl
  subst ht
  obtain ⟨_, _, _, begun⟩ := begun_eq s u r w
  refine ⟨_, run, frame, fun k hk => ?_, fun i hi => ?_⟩
  · rw [stepped_v, setLanes_get, if_neg hk, begun]
  · rw [stepped_v, setLanes_get, if_pos (by omega), show (64 * recD w + i) % 64 = i by omega]

end

section
variable {s : State} {u : Fin 4} {w : Nat} {rr : RecipeRec} {r : Run}

/-- AND, OR and XOR act lane by lane (R216). -/
theorem recBitwise_runs {op : Nat} (h : s.recipeRuns u op rr r w) (hop : op ≠ 1) {c : Instr} (g : Nat → Nat → Nat)
    (hc : exec c s = .next (s.recipeOp u op fun w r =>
      r.setLanes (recD w) (List.zipWith g (r.lanes (recA w)) (r.lanesB w)))) :
    Answers c s fun t => ∃ r', (t.lauter u).run = some r' ∧ t = { s.mvRun w with lauters := t.lauters }
      ∧ (∀ k, k / 64 ≠ recD w → Tab.get 0 r'.v k = Tab.get 0 r.v k)
      ∧ ∀ i < 64, Tab.get 0 r'.v (64 * recD w + i) = BitVec.ofNat 64
          (g (Tab.get 0 r.v (64 * recA w + i)).toNat (if recS w then natAt (r.beatBytes 0) (4 * i) 4
            else (Tab.get 0 r.v (64 * recB w + i)).toNat)) := by
  obtain ⟨r', run, frame, others, lanes⟩ := recLanes_runs h hop
    (xs := fun w r => List.zipWith g (r.lanes (recA w)) (r.lanesB w)) (fun _ _ _ _ => rfl) rfl
  refine ⟨_, hc, r', run, frame, others, fun i hi => (lanes i hi).trans ?_⟩
  rw [List.getD_eq_getElem?_getD, List.getElem?_zipWith, lanes_getElem? r _ hi, lanesB_getElem? r w hi]
  rfl

/-- MOVV moves the lanes of VA, or clears VD (R211). -/
theorem recMovv_runs (h : s.recipeRuns u 0x1D rr r w) : Answers (.recMovv u) s fun t => ∃ r', (t.lauter u).run = some r'
    ∧ t = { s.mvRun w with lauters := t.lauters } ∧ (∀ k, k / 64 ≠ recD w → Tab.get 0 r'.v k = Tab.get 0 r.v k)
    ∧ (∀ i < 64, Tab.get 0 r'.v (64 * recD w + i) = if bitOf w 0 then 0 else Tab.get 0 r.v (64 * recA w + i)) := by
  obtain ⟨r', run, frame, others, lanes⟩ := recLanes_runs h (by decide)
    (xs := fun w r => if bitOf w 0 then [] else r.lanes (recA w)) (fun _ _ _ _ => rfl) rfl
  refine ⟨_, rfl, r', run, frame, others, fun i hi => (lanes i hi).trans ?_⟩
  split
  · rfl
  · rw [List.getD_eq_getElem?_getD, lanes_getElem? r _ hi]
    simp

/-! ## Records (R219 to R221) -/

/-- The pairs that COMPACT keeps: those whose lane of operand B is not 0 (R221). -/
def Run.keptPairs (r : Run) (w : Nat) : List (Nat × Nat) :=
  ((List.zip (List.zip (r.lanes (recA w)) (if bitOf w 0 then r.lanes (recA w + 1) else List.replicate 64 0))
    (r.lanesB w)).take (if bitOf w 1 then r.c0 else 64)).filterMap fun y => if y.2 != 0 then some y.1 else none

/-- COMPACT keeps the marked lanes, and counts them (R221). -/
theorem recCompact_ranTo (h : s.recipeRuns u 0x20 rr r w) : Answers (.recCompact u) s fun t => s.ranTo t u w
    (Run.stepped { (if bitOf w 0 then (s.begun u r w).setPairs (recD w) (r.keptPairs w)
        else (s.begun u r w).setLanes (recD w) ((r.keptPairs w).map Prod.fst)) with
      c0 := (r.keptPairs w).length
      total := (r.total + (r.keptPairs w).length) % 2 ^ 32 }) 0 := by
  refine ⟨_, rfl, recipeStep_reads h (by decide) (reads := fun r => (r.keptPairs w, r.total))
    (write := fun kept q => ({ (if bitOf w 0 then q.setPairs (recD w) kept.1
        else q.setLanes (recD w) (kept.1.map Prod.fst)) with
      c0 := kept.1.length
      total := (kept.2 + kept.1.length) % 2 ^ 32 }, 0)) (fun _ _ _ _ => rfl) fun q => ?_⟩
  have total : (if bitOf w 0 then q.setPairs (recD w) (q.keptPairs w)
      else q.setLanes (recD w) ((q.keptPairs w).map Prod.fst)).total = q.total := by split <;> rfl
  rw [← total]
  rfl

/-- The order of SORT: by key, upward or downward (R219). -/
def keyOrdered (f : Nat) (down : Bool) (a b : Nat × Nat) : Prop :=
  if down then keyOrder f b.1 ≤ keyOrder f a.1 else keyOrder f a.1 ≤ keyOrder f b.1

theorem keyOrdered_total (f : Nat) (down : Bool) : Std.Total (keyOrdered f down) := by
  refine ⟨fun a b => ?_⟩
  cases down
  · exact Nat.le_total _ _
  · exact Nat.le_total _ _

theorem keyOrdered_trans (f : Nat) (down : Bool) : IsTrans (Nat × Nat) (keyOrdered f down) := by
  refine ⟨fun a b c hab hbc => ?_⟩
  cases down
  · exact Nat.le_trans hab hbc
  · exact Nat.le_trans hbc hab

theorem keyOrdered_iff (f : Nat) (down : Bool) (a b : Nat × Nat) : keyOrdered f down a b ↔
    ¬ if down then keyOrder f a.1 < keyOrder f b.1 else keyOrder f b.1 < keyOrder f a.1 := by
  cases down
  · exact Nat.not_lt.symm
  · exact Nat.not_lt.symm

/-- SORT inserts by the library's ordered insertion. -/
theorem insKey_eq (f : Nat) (down : Bool) [DecidableRel (keyOrdered f down)] (p : Nat × Nat) (qs : List (Nat × Nat)) :
    insKey f down p qs = qs.orderedInsert (keyOrdered f down) p := by
  induction qs with
  | nil => rfl
  | cons q qs ih =>
    rw [List.orderedInsert_cons]
    unfold insKey
    dsimp only
    by_cases h : keyOrdered f down p q
    · rw [if_pos h, if_neg ((keyOrdered_iff f down p q).1 h)]
    · rw [if_neg h, if_pos (not_not.1 (mt (keyOrdered_iff f down p q).2 h)), ih]

/-- SORT orders the pairs by key (R219). -/
theorem recSort_runs (h : s.recipeRuns u 0x21 rr r w) : Answers (.recSort u) s fun t => ∃ ps,
    s.ranTo t u w ((s.begun u r w).setPairs (recD w) ps).stepped 0
    ∧ ps.Perm (r.pairs (recF w) (recA w) r.c0) ∧ ps.Pairwise (keyOrdered (recF w) (bitOf w 2)) := by
  classical
  have := keyOrdered_total (recF w) (bitOf w 2)
  have := keyOrdered_trans (recF w) (bitOf w 2)
  have sorts (qs : List (Nat × Nat)) :
      qs.foldr (insKey (recF w) (bitOf w 2)) [] = qs.insertionSort (keyOrdered (recF w) (bitOf w 2)) := by
    rw [show insKey (recF w) (bitOf w 2) = _ from funext fun p => funext fun qs => insKey_eq _ _ p qs]
    rfl
  refine ⟨_, rfl, _, recipeStep_reads h (by decide)
    (reads := fun r => (r.pairs (recF w) (recA w) r.c0).foldr (insKey (recF w) (bitOf w 2)) [])
    (write := fun ps q => (q.setPairs (recD w) ps, 0)) (fun _ _ _ _ => rfl) fun _ => rfl, ?_, ?_⟩
  · rw [sorts]
    exact List.perm_insertionSort _ _
  · rw [sorts]
    exact List.pairwise_insertionSort _ _

theorem mergeTake_length (f x : Nat) (down : Bool) (n : Nat) (r : Run) : (r.mergeTake f x down n).2.length ≤ n := by
  induction n generalizing r with
  | zero => exact Nat.le_refl 0
  | succ n ih =>
    unfold Run.mergeTake
    split
    · exact Nat.zero_le _
    · exact Nat.succ_le_succ (ih _)

/-- MERGE takes at most 64 records of its members (R219). -/
theorem recMerge_runs (h : s.recipeRuns u 0x22 rr r w) : Answers (.recMerge u) s fun t => ∃ q' ps,
    (s.begun u r w).mergeTake (recF w) (recX w) (bitOf w 2) 64 = (q', ps)
    ∧ s.ranTo t u w { q'.setPairs (recD w) ps with c0 := ps.length, total := (q'.total + ps.length) % 2 ^ 32 }.stepped 0
    ∧ ps.length ≤ 64 :=
  ⟨_, rfl, ((s.begun u r w).mergeTake (recF w) (recX w) (bitOf w 2) 64).1,
    ((s.begun u r w).mergeTake (recF w) (recX w) (bitOf w 2) 64).2, rfl, recipeOp_ranTo h (by decide) rfl,
    mergeTake_length ..⟩

/-- The pairs that TOPKE reads of the set held: 64 of them, from the block that X names (R220). -/
def Run.topPairs (r : Run) (x : Nat) : List (Nat × Nat) :=
  ((r.top.drop (64 * (x % 4))).take 64).map fun y => (y.key, y.val)

theorem recTopke_ranTo (h : s.recipeRuns u 0x24 rr r w) : Answers (.recTopke u) s fun t => s.ranTo t u w
    { (s.begun u r w).setPairs (recD w) (r.topPairs (recX w)) with
      c0 := (r.topPairs (recX w)).length
      total := (r.total + (r.topPairs (recX w)).length) % 2 ^ 32 }.stepped 0 :=
  ⟨_, rfl, recipeStep_reads h (by decide) (reads := fun r => (r.topPairs (recX w), r.total))
    (write := fun p q => ({ q.setPairs (recD w) p.1 with c0 := p.1.length, total := (p.2 + p.1.length) % 2 ^ 32 }, 0))
    (fun _ _ _ _ => rfl) fun _ => rfl⟩

end

/-! ## The set that TOPK holds (R220) -/

/-- The place of a record in the order of the set: key, rank, index, age. -/
def topPlace (f : Nat) (small : Bool) (a : TopRec) : ℤ ×ₗ ℕ ×ₗ ℕ ×ₗ ℕ :=
  toLex (if small then (keyOrder f a.key : ℤ) else -(keyOrder f a.key : ℤ), toLex (a.rank, toLex (a.index, a.born)))

section
variable {f : Nat} {small : Bool}

theorem topBefore_iff {a b : TopRec} : topBefore f small a b = true ↔ topPlace f small a < topPlace f small b := by
  unfold topBefore topPlace
  simp only [Prod.Lex.lt_iff, ofLex_toLex]
  cases small <;> grind

theorem topBefore_eq_false_iff {a b : TopRec} :
    topBefore f small b a = false ↔ topPlace f small a ≤ topPlace f small b := by
  rw [← Bool.not_eq_true, topBefore_iff, not_lt]

theorem insTop_perm (a : TopRec) (bs : List TopRec) : (insTop f small a bs).Perm (a :: bs) := by
  induction bs with
  | nil => exact .refl _
  | cons b bs ih =>
    unfold insTop
    split
    · exact .refl _
    · exact (ih.cons b).trans (.swap a b bs)

theorem insTop_sorted (a : TopRec) {bs : List TopRec} (h : bs.Pairwise fun a b => topBefore f small b a = false) :
    (insTop f small a bs).Pairwise fun a b => topBefore f small b a = false := by
  induction bs with
  | nil => exact List.pairwise_singleton _ _
  | cons b bs ih =>
    obtain ⟨first, sorted⟩ := List.pairwise_cons.1 h
    simp only [topBefore_eq_false_iff] at first
    unfold insTop
    split
    · next before =>
      have le : topPlace f small a ≤ topPlace f small b := (topBefore_iff.1 before).le
      refine List.pairwise_cons.2 ⟨fun y hy => topBefore_eq_false_iff.2 ?_, h⟩
      rcases List.mem_cons.1 hy with rfl | hy
      · exact le
      · exact le.trans (first y hy)
    · next before =>
      refine List.pairwise_cons.2 ⟨fun y hy => topBefore_eq_false_iff.2 ?_, ih sorted⟩
      rcases List.mem_cons.1 ((insTop_perm a bs).mem_iff.1 hy) with rfl | hy
      · exact topBefore_eq_false_iff.1 (Bool.not_eq_true _ ▸ before)
      · exact first y hy

/-- A record beyond the first `k` has no part in the first `k` that a further insertion leaves. -/
theorem take_insTop_take (a : TopRec) (k : Nat) (bs : List TopRec) :
    (insTop f small a (bs.take k)).take k = (insTop f small a bs).take k := by
  induction bs generalizing k with
  | nil => rw [List.take_nil]
  | cons b bs ih =>
    cases k with
    | zero => rfl
    | succ k =>
      unfold insTop
      by_cases h : topBefore f small a b = true
      · simp only [List.take_succ_cons, if_pos h]
        change a :: ((b :: bs).take (k + 1)).take k = _
        rw [List.take_take, Nat.min_eq_left (Nat.le_succ k)]
      · simp only [List.take_succ_cons, if_neg h, ih]

end

/-- Records inserted one after the other into a set that holds all of them. -/
def insTops (f : Nat) (small : Bool) (news bs : List TopRec) : List TopRec :=
  news.foldl (fun t a => insTop f small a t) bs

/-- Records inserted one after the other into a set that holds `k` of them (R220). -/
def topAfter (f : Nat) (small : Bool) (k : Nat) (news bs : List TopRec) : List TopRec :=
  news.foldl (fun t a => (insTop f small a t).take k) bs

section
variable (f : Nat) (small : Bool) (k : Nat) (news : List TopRec) {bs : List TopRec}

theorem insTops_perm (bs : List TopRec) : (insTops f small news bs).Perm (bs ++ news) := by
  induction news generalizing bs with
  | nil => rw [List.append_nil]; exact .refl _
  | cons a news ih =>
    exact (ih _).trans (((insTop_perm a bs).append_right news).trans List.perm_middle.symm)

theorem insTops_sorted (h : bs.Pairwise fun a b => topBefore f small b a = false) :
    (insTops f small news bs).Pairwise fun a b => topBefore f small b a = false := by
  induction news generalizing bs with
  | nil => exact h
  | cons a news ih => exact ih (insTop_sorted a h)

/-- The set of `k` holds the first `k` of all the records that it has met. -/
theorem topAfter_take (bs : List TopRec) : topAfter f small k news (bs.take k) = (insTops f small news bs).take k := by
  induction news generalizing bs with
  | nil => rfl
  | cons a news ih => exact (congrArg _ (take_insTop_take a k bs)).trans (ih _)

theorem topAfter_eq (h : bs.length ≤ k) : topAfter f small k news bs = (insTops f small news bs).take k := by
  rw [← topAfter_take, List.take_of_length_le h]

theorem mem_topAfter {y : TopRec} (h : y ∈ topAfter f small k news bs) : y ∈ bs ∨ y ∈ news := by
  induction news generalizing bs with
  | nil => exact .inl h
  | cons a news ih =>
    rcases ih h with h | h
    · rcases List.mem_cons.1 ((insTop_perm a bs).mem_iff.1 (List.mem_of_mem_take h)) with rfl | h
      · exact .inr List.mem_cons_self
      · exact .inl h
    · exact .inr (List.mem_cons_of_mem a h)

variable (len : bs.length ≤ k)
include len

theorem topAfter_length : (topAfter f small k news bs).length = min k (bs.length + news.length) := by
  rw [topAfter_eq f small k news len, List.length_take, (insTops_perm f small news bs).length_eq, List.length_append]

variable (sorted : bs.Pairwise fun a b => topBefore f small b a = false)
include sorted

theorem topAfter_sorted : (topAfter f small k news bs).Pairwise fun a b => topBefore f small b a = false := by
  rw [topAfter_eq f small k news len]
  exact (insTops_sorted f small news sorted).sublist (List.take_sublist _ _)

/-- What the set has dropped, beside which it holds all that it has met, and none of which comes before a record
that it holds (R220). -/
theorem topAfter_dropped : ∃ dropped : List TopRec, (topAfter f small k news bs ++ dropped).Perm (bs ++ news)
    ∧ ∀ y ∈ dropped, ∀ z ∈ topAfter f small k news bs, topBefore f small y z = false := by
  have all := insTops_sorted f small news sorted
  rw [topAfter_eq f small k news len]
  rw [← List.take_append_drop k (insTops f small news bs), List.pairwise_append] at all
  refine ⟨(insTops f small news bs).drop k, ?_, fun y hy z hz => all.2.2 z hz y hy⟩
  rw [List.take_append_drop]
  exact insTops_perm f small news bs

end

/-- The rank of the member whose records TOPK takes: its place in the order of arrival under MV, its position
else (R220). -/
def Run.topRank (r : Run) (w : Nat) : Nat :=
  if recMv w then
    ((r.contribs.foldr insArrival []).findIdx? fun c => some c.rank == (r.contribs[r.m]?).map (·.rank)).getD 0
  else r.m

/-- The records that TOPK takes from its pair of registers (R220). -/
def Run.topNews (r : Run) (w : Nat) : List TopRec :=
  (List.range (r.pairs (recF w) (recA w) r.c0).length).map fun i =>
    let p := (r.pairs (recF w) (recA w) r.c0).getD i (0, 0)
    { key := p.1, val := p.2, rank := r.topRank w, index := 64 * r.idx 3 + i, born := r.born + i }

section
variable (r : Run) (w : Nat)

theorem topNews_length : (r.topNews w).length = (r.pairs (recF w) (recA w) r.c0).length := by
  unfold Run.topNews
  rw [List.length_map, List.length_range]

theorem topNews_pairs : (r.topNews w).map (fun y => (y.key, y.val)) = r.pairs (recF w) (recA w) r.c0 := by
  refine List.ext_getElem (by rw [List.length_map, topNews_length]) fun i _ hi => ?_
  simp only [Run.topNews, List.getElem_map, List.getElem_range, List.getD_eq_getElem _ _ hi]

theorem topNews_getElem? {i : Nat} {y : TopRec} (h : (r.topNews w)[i]? = some y) :
    y.index = 64 * r.idx 3 + i ∧ y.born = r.born + i ∧ y.rank = r.topRank w := by
  obtain ⟨hi, rfl⟩ := List.getElem?_eq_some_iff.1 h
  simp only [Run.topNews, List.getElem_map, List.getElem_range, and_self]

end

section
variable {s : State} {u : Fin 4} {w : Nat} {rr : RecipeRec} {r : Run}

/-- TOPK puts its new records into the set, and counts them (R220). -/
theorem recTopk_ranTo (h : s.recipeRuns u 0x23 rr r w) : Answers (.recTopk u) s fun t => s.ranTo t u w
    { s.begun u r w with
      top := topAfter (recF w) (bitOf (recD w) 0) (recX w + 1) (r.topNews w) r.top
      topX := some (recX w + 1, b2n (bitOf (recD w) 0))
      born := r.born + (r.pairs (recF w) (recA w) r.c0).length }.stepped 0 :=
  ⟨_, rfl, recipeStep_reads h (by decide)
    (reads := fun r => (topAfter (recF w) (bitOf (recD w) 0) (recX w + 1) (r.topNews w) r.top,
      r.born + (r.pairs (recF w) (recA w) r.c0).length))
    (write := fun p q => ({ q with
      top := p.1, topX := some (recX w + 1, b2n (bitOf (recD w) 0)), born := p.2 }, 0))
    (fun _ _ _ _ => rfl) fun _ => rfl⟩

theorem recTopk_runs (h : s.recipeRuns u 0x23 rr r w) : Answers (.recTopk u) s fun t => ∃ r', (t.lauter u).run = some r'
    ∧ (r.top.length ≤ recX w + 1 → r'.top.length ≤ recX w + 1)
    ∧ r'.topX = some (recX w + 1, b2n (bitOf (recD w) 0))
    ∧ r'.v = r.v ∧ r'.out = r.out ∧ r'.born = r.born + (r.pairs (recF w) (recA w) r.c0).length
    ∧ (∀ y ∈ r'.top, y ∈ r.top ∨ (y.key, y.val) ∈ r.pairs (recF w) (recA w) r.c0)
    ∧ t = { s.mvRun w with lauters := t.lauters }
    ∧ ∀ small, small = bitOf (recD w) 0 → r.top.length ≤ recX w + 1 →
      r.top.Pairwise (fun a b => topBefore (recF w) small b a = false) →
      r'.top.Pairwise (fun a b => topBefore (recF w) small b a = false)
      ∧ ∃ news dropped : List TopRec, news.map (fun y => (y.key, y.val)) = r.pairs (recF w) (recA w) r.c0
        ∧ (∀ i y, news[i]? = some y → y.index = 64 * r.idx 3 + i ∧ y.born = r.born + i ∧ y.rank = r.topRank w)
        ∧ (r'.top ++ dropped).Perm (r.top ++ news) ∧ r'.top.length = min (recX w + 1) (r.top.length + news.length)
        ∧ ∀ y ∈ dropped, ∀ z ∈ r'.top, topBefore (recF w) small y z = false := by
  obtain ⟨t, hexec, run, -, -, -, -, frame⟩ := recTopk_ranTo h
  obtain ⟨_, _, _, begun⟩ := begun_eq s u r w
  refine ⟨t, hexec, _, run, fun len => ?_, rfl, ?_, ?_, rfl, fun y hy => ?_, frame, ?_⟩
  · exact (topAfter_length _ _ _ _ len).trans_le (Nat.min_le_left _ _)
  · rw [begun]; rfl
  · rw [begun]; rfl
  · refine (mem_topAfter _ _ _ _ hy).imp_right fun new => ?_
    rw [← topNews_pairs]
    exact List.mem_map_of_mem new
  · rintro small rfl len sorted
    obtain ⟨dropped, perm, behind⟩ := topAfter_dropped _ _ _ (r.topNews w) len sorted
    exact ⟨topAfter_sorted _ _ _ _ len sorted, r.topNews w, dropped, topNews_pairs r w, fun i y => topNews_getElem? r w,
      perm, topAfter_length _ _ _ _ len, behind⟩

end

/-! ## HATOM and the adds of the controllers (R13, R119, R142, R222) -/

theorem mvRun_atoms (s : State) (w : Nat) : (s.mvRun w).atoms = s.atoms := by
  unfold State.mvRun
  split <;> rfl

/-- A word counts its cycles on top of those of the run (R208). -/
theorem begun_cycles (s : State) (u : Nat) (r : Run) (w : Nat) :
    r.cycles + (s.resumed u r).cost w ≤ (s.begun u r w).cycles := by
  refine Nat.add_le_add_right ?_ _
  unfold State.resumed
  split
  · exact Nat.le_max_left _ _
  · exact Nat.le_refl _

section
variable {s : State} {u : Fin 4} {w : Nat} {rr : RecipeRec} {r : Run} (h : s.recipeRuns u 0x28 rr r w)
include h

theorem recHatom_step : s.ranTo (s.recipeStep u 0x28 fun _ _ r => (r, 0)) u w (s.begun u r w).stepped 0 :=
  recipeStep_reads h (by decide) (reads := fun _ => ()) (write := fun _ q => (q, 0)) (fun _ _ _ _ => rfl) fun _ => rfl

/-- The cycle that HATOM takes shows that its word has run. -/
theorem recHatom_changes : (s.begun u r w).stepped ≠ r := by
  intro same
  obtain ⟨⟨-, -, -, -, -, -, -, -, opcode⟩, -⟩ := h
  have cost : (s.resumed u r).cost w = 1 := by
    unfold Run.cost
    rw [opcode]
    rfl
  have more := begun_cycles s u r w
  rw [← stepped_cycles (s.begun u r w), same, cost] at more
  omega

/-- HATOM sends four lines of adds to their controllers (R222). -/
theorem exec_recHatom : exec (.recHatom u) s = .next { s.recipeStep u 0x28 fun _ _ r => (r, 0) with
    atoms := s.atoms ++ (List.range 4).map fun i =>
      ⟨u, s.field secRecipe (rr.at_ + 8) 8 + 256 * r.beat.2 + 64 * i, recF w,
        sliceB (r.regBytes (recA w) (recF w)) (64 * i) 64⟩ } := by
  obtain ⟨run, -, -, -, -, frame⟩ := recHatom_step h
  have changes := recHatom_changes h
  have atoms := (congrArg State.atoms frame).trans (mvRun_atoms s w)
  obtain ⟨⟨-, hrun, -, -, -, hrr, -, hw, -⟩, -, -, -⟩ := h
  change execRecHatom u s = _
  unfold execRecHatom
  dsimp only
  rw [hrun]
  dsimp only
  rw [hrr]
  dsimp only
  rw [← hw, if_neg, atoms]
  simp only [Bool.or_eq_true, beq_iff_eq, not_or]
  refine ⟨by simp [run], fun same => changes ?_⟩
  rw [same, hrun] at run
  exact (Option.some.inj run).symm

theorem recHatom_runs : Answers (.recHatom u) s fun t => (t.lauter u).run = some (s.begun u r w).stepped
    ∧ t = { s.mvRun w with lauters := t.lauters, atoms := t.atoms }
    ∧ t.atoms = s.atoms ++ (List.range 4).map fun i =>
        ⟨u, s.field secRecipe (rr.at_ + 8) 8 + 256 * r.beat.2 + 64 * i, recF w,
          sliceB (r.regBytes (recA w) (recF w)) (64 * i) 64⟩ := by
  obtain ⟨run, -, -, -, -, frame⟩ := recHatom_step h
  refine ⟨_, exec_recHatom h, run, ?_, rfl⟩
  rw [frame]

end

/-- The line that a controller stores for an add: each element of the old line plus the one that HATOM sent (R222). -/
def State.atomSum (s : State) (a : AtomAdd) : List Byte :=
  let m := fmtBits a.fmt / 8
  (List.zipWith (fun y z => (addIn a.fmt y z).1) (numbersOf m (64 / m) (s.hbmBytes a.addr 64))
    (numbersOf m (64 / m) a.bytes)).flatMap (leBytes m)

/-- A controller takes one add from those on their way, and adds it into its stored line. -/
theorem hbmAtomicAdd_runs {s : State} {k n : Nat} {a : AtomAdd} (e : Ecc) (alive : s.alive = true)
    (ha : s.atoms[k]? = some a) (stack : s.stackOf a.addr = some n) (awake : s.asleep (n / 4) = false)
    (ready : s.hbmReady a.addr 64 = true) (turn : s.atomBehind k a = false) : Answers (.hbmAtomicAdd k e) s fun t =>
      t.atoms = s.atoms.eraseIdx k ∧ t.hbm = (s.hbmPut a.addr (s.atomSum a)).hbm := by
  let taken : State := { s with atoms := s.atoms.eraseIdx k }
  let read := taken.eccRead a.addr 64 e (s.freeNat % 8) .used
  have frame : taken.EccFrame read := eccRead_eccFrame ..
  refine ⟨read.useFree.ctlWrite a.addr (s.atomSum a) [] 0 (taken.anyPoison a.addr 64 || (firstBad e a.addr 64).isSome),
    ?_, ?_, ?_⟩
  · change execHbmAtomicAdd k e s = _
    have here : taken.stackOf a.addr = some n := stack
    unfold execHbmAtomicAdd
    rw [ha]
    dsimp only
    rw [stack]
    dsimp only
    rw [if_neg (by simp [alive, awake, ready, turn]), if_neg (by rw [here]; simp)]
    rfl
  · exact (congrArg State.atoms (ctlWrite_steady ..)).trans (congrArg State.atoms frame.steady)
  · rw [ctlWrite_hbm]
    have fill : read.hbmFill = taken.hbmFill := hbmFill_eq_of_steady frame.steady
    have mode : read.hbmMode = taken.hbmMode := hbmMode_eq_of_steady frame.steady
    exact hbmPut_hbm_congr (s := s) (v := read.useFree) frame.hbm fill mode _ _

/-- Settles O59: an instruction leaves what it writes by what it reads of the run; a lane of XACC takes the one
element that is its own, the set of TOPK is the head of an ordered list of all its records, and HATOM's cycle
tells that its word has run. -/
theorem recipeArithmetic : Obligations.RecipeArithmetic := by
  unfold Obligations.RecipeArithmetic
  refine ⟨setLanes_get, ?_, fun s k e a n m alive ha stack awake ready turn _ hm => ?_⟩
  · rintro s u rr r w _ _ _ rfl rfl rfl
    refine ⟨fun bad => ⟨fun h => ⟨fun m => ?_, fun m => ?_⟩, fun h => recFadd_ranTo h bad, fun h => recXadd_runs h bad,
        fun h => recIadd_ranTo h bad⟩,
      fun h => ?_, ?_, ?_, recMovv_runs, ?_, recSort_runs, recMerge_runs, recTopk_runs, ?_, recHatom_runs⟩
    · rw [← faccElems_first m]
      exact recFacc_ranTo h bad
    · rw [← faccElems_later m]
      exact recFacc_ranTo h bad
    · have runs := recXemit_runs h
      unfold Run.xemitElems at runs
      rwa [List.map_map] at runs
    · simp only [List.mem_cons, List.not_mem_nil, or_false]
      rintro c op ys (h | h | h | h | h) runs
      all_goals
        obtain ⟨rfl, rfl, rfl⟩ := h
        exact ⟨_, rfl, recElems_ranTo runs (by decide) fun _ _ _ _ => rfl⟩
    · simp only [List.mem_cons, List.not_mem_nil, or_false]
      rintro c op g (h | h | h) runs
      all_goals
        obtain ⟨rfl, rfl, rfl⟩ := h
        exact recBitwise_runs runs (by decide) _ rfl
    · rintro _ _ rfl rfl h
      exact recCompact_ranTo h
    · rintro _ rfl h
      exact recTopke_ranTo h
  · subst hm
    exact hbmAtomicAdd_runs e alive ha stack awake ready turn

end Sys2Proof.Machine

namespace Sys2Proof.Machine

/-! # FABRIC with a collective open (R294, R391) -/

/-- What FABRIC does to port `n`. -/
def State.fabricPort (s : State) (n : Nat) : State :=
  if (s.link n).enable then (s.declareDown n 4 (!s.isFatal)).refence n else s

/-- FABRIC that may act goes through the ports, and sets its status bit. -/
theorem exec_fabric_of_mayWrite {s : State} {p : HostPort} (may : s.mayWrite p 0x6002C = true)
    (optics : s.opticsOn = true) :
    exec (.fabric p) s = .next (((List.range 14).foldl State.fabricPort s).restoredBits 8) := by
  change Host.Outcome.next _ = _
  rw [hostWrite_of_mayWrite _ may]
  change Host.Outcome.next (if !s.opticsOn then s else _) = _
  rw [optics]
  rfl

/-- GROUP: group 5 of node 0 alone, with `n` contributions a chunk, combined at level 0 on context 0 (R228). -/
def loneGroup (n : Byte) : Blob :=
  Blob.ofList ([1, 0, 0, 0, 0, 0, 0, 0] ++ [5, 0, 1, 0, 0, n, 1, 0] ++ zeros 10 ++ [1, 0, 1, 0, 1, 0] ++ zeros 8)

/-- Chunk 0 with its contribution, whose frame the context holds. -/
def heldChunk : Chunk := { index := 0, nm := 1, parts := [{ rank := 0, bytes := [], frames := [0] }] }

/-- Port A's host holds the token, link 0 carries job traffic, context 0 serves ordinal 9 of group 5 with
`heldChunk`, and the granary has already acted for port 22 in this core cycle. -/
def fabricHolding : State :=
  { power := { step := 9 }, host := { a := { linkUp := true }, holder := 1 }
    grist := { phase := .pitched, active := true, sections := [(secGroup, ⟨0, loneGroup 1⟩)] }
    disc := { node := some 0, phase := .done }, links := [(0, { phase := .up, version := 3, pending := false })]
    granary := { turn := 23, used := [(256, 1)] }, core := { frames := [heldFrame] }
    col := { ctxs := [(0, { serving := true, ordinal := 9, group := 5, levels := [0], nm := 1, granted := 1,
                            chunks := [heldChunk] })] } }

/-- Link 0 goes down, ordinal 9 is abandoned, and the held frame's cells go back in the granary's next
core cycle (R186, R294). -/
theorem fabricPorts_fabricHolding_ftc : ((List.range 14).foldl State.fabricPort fabricHolding).time.ftc = 2 := by
  decide +kernel

/-- Refutes O21: with a collective open, FABRIC gives up a frame that a context holds, and that ends in the
granary's next core cycle: the FTC, at 0 before, stands at 2. -/
theorem not_warmAndFabricReset : ¬ Obligations.WarmAndFabricReset := by
  unfold Obligations.WarmAndFabricReset
  intro h
  obtain ⟨-, -, fabric⟩ := h fabricHolding .a
  have may : fabricHolding.mayWrite .a 0x6002C = true := by decide
  have optics : fabricHolding.opticsOn = true := by decide
  obtain ⟨t, ht, -, -, ftc, -⟩ := fabric may optics
  obtain rfl := Host.Outcome.next.inj ((exec_fabric_of_mayWrite may optics).symm.trans ht)
  unfold State.restoredBits at ftc
  rw [State.modPower_time, fabricPorts_fabricHolding_ftc] at ftc
  exact absurd ftc (by decide)

/-! # Collectives: the last frame of a contribution (R245, R246) -/

/-- A collective frame of the present generation is taken, and then its operation acts (R249). -/
theorem takeCol_of_gen {s : State} {k op : Nat} {x : InFrame} (hx : s.inboxFor k [op] = some x)
    (gen : x.hdr.epoch.toNat / 32 = s.col.gen) (act : InFrame → State → State) :
    s.takeCol k op act = act x (s.taken x) := by
  have same : (s.taken x).col = s.col := rfl
  unfold State.takeCol
  rw [hx]
  dsimp only
  rw [same, gen, bne_self_eq_false, if_neg Bool.false_ne_true]

/-- The contribution of the rank of frame `k` to chunk `ch`, with that frame. -/
def Chunk.contribution (ch : Chunk) (k : Nat) (x : InFrame) : Contribution :=
  ((ch.open_.find? fun p => p.rank == x.rank).getD { rank := x.rank, bytes := [] }).add k x

/-- Frame `k`, which has arrived as `x`, belongs to chunk `ch` of what context `c` serves as `y` for group `r`,
and ends a contribution whose verdict does not say superseded. -/
structure State.Completes (s : State) (c k : Nat) (x : InFrame) (y : Ctx) (r : GroupRec) (ch : Chunk) : Prop where
  ctx : s.ctx c = y
  serving : y.serving = true
  group : s.group? y.group = some r
  chunk : s.chunkFor r y x = some ch
  ord : y.ordinal = x.ord
  stream : y.group = x.hdr.stream.toNat
  epoch : x.hdr.epoch.toNat = s.colEpoch y.round
  ends : endsChunk r.chunk x.payload.length (ch.contribution k x).bytes.length = true
  stands : (ch.contribution k x).verdict ≠ 3

/-- Chunk `q` with the complete contribution `p` beside those that it has; `rest` are still arriving. -/
def Chunk.withPart (q : Chunk) (rest : List Contribution) (p : Contribution) : Chunk :=
  { q with open_ := rest, parts := q.parts ++ [p] }

section
variable {s : State} {c k : Nat} {x : InFrame} {y : Ctx} {r : GroupRec} {ch : Chunk}

theorem State.Completes.taken (h : s.Completes c k x y r ch) : (s.taken x).Completes c k x y r ch :=
  ⟨h.ctx, h.serving, h.group, h.chunk, h.ord, h.stream, h.epoch, h.ends, h.stands⟩

/-- Such a frame adds its contribution to every chunk of that index and level: each keeps its own. -/
theorem takeContrib_completes (h : s.Completes c k x y r ch) :
    s.takeContrib c k x = s.modChunk c ch.index ch.level
      (·.withPart (ch.open_.filter fun p => p.rank != x.rank) (ch.contribution k x)) := by
  obtain ⟨ctx, serving, group, chunk, ord, stream, epoch, ends, stands⟩ := h
  have found : ((s.group? y.group).bind fun r => (s.chunkFor r y x).map fun ch => (r, ch)) = some (r, ch) := by
    rw [group, Option.bind_some, chunk, Option.map_some]
  unfold Chunk.contribution at ends stands ⊢
  unfold State.takeContrib
  dsimp only
  rw [ctx, found]
  dsimp only
  rw [if_neg (by simp [serving, ord, stream, epoch]), if_neg (by simp [ends]), if_neg (by simp [stands])]
  rfl

/-- So does CONTRIB with such a frame of the present generation. -/
theorem contrib_completes (hx : s.inboxFor k [0x30] = some x) (gen : x.hdr.epoch.toNat / 32 = s.col.gen)
    (h : s.Completes (x.hdr.epIdx % 1024) k x y r ch) :
    Answers (.contrib k) s fun t => (t.ctx (x.hdr.epIdx % 1024)).chunks = y.chunks.map fun q =>
      if q.index == ch.index && q.level == ch.level then
        q.withPart (ch.open_.filter fun p => p.rank != x.rank) (ch.contribution k x)
      else q := by
  refine ⟨_, rfl, ?_⟩
  rw [takeCol_of_gen hx gen, takeContrib_completes h.taken]
  change (((s.taken x).modChunk _ _ _ _).ctx _).chunks = _
  unfold State.modChunk
  rw [modCtx_ctx_same, h.taken.ctx]

end

/-- A frame of rank 0 that carries a whole contribution of group 5 to chunk 0 of ordinal 9 (R233). -/
def rankZero : InFrame :=
  { id := 1, copy := 0, port := 22, inPort := 14, hdr := { op := 0x30, endpoint := 0x1000, stream := 5, opx := 9 },
    payload := [], verdict := 0, reason := 0, marker := 0xFFFF, order := 0 }

/-- A context with two chunks of index 0 and level 0: one has no contribution yet, the other that of rank 1. -/
def twinChunks : Ctx :=
  { serving := true, ordinal := 9, group := 5, levels := [0], nm := 2, granted := 2,
    chunks := [{ index := 0, nm := 2 }, { index := 0, nm := 2, parts := [{ rank := 1, bytes := [] }] }] }

/-- The contribution of rank 0 has reached the context of `twinChunks`. -/
def twins : State :=
  { grist := { phase := .pitched, active := true, sections := [(secGroup, ⟨0, loneGroup 2⟩)] }
    disc := { node := some 0 }, core := { inbox := [rankZero] }, col := { ctxs := [(0, twinChunks)] } }

/-- The frame belongs to the first of the two chunks. -/
theorem chunkFor_twins : ∃ r, twins.group? 5 = some r ∧ twins.chunkFor r twinChunks rankZero = some { index := 0, nm := 2 } :=
  Option.bind_eq_some_iff.1 (by decide +kernel :
    ((twins.group? 5).bind fun r => twins.chunkFor r twinChunks rankZero) = some { index := 0, nm := 2 })

/-- Refutes O60: where a context has two chunks of one index and level, CONTRIB leaves the second with its own
contribution and the new one, and the statement with the new one alone. No command makes such a context, whose
chunks of a level have rising indices (R242); the statement speaks of every state. -/
theorem not_collectives : ¬ Obligations.Collectives := by
  unfold Obligations.Collectives
  intro h
  obtain ⟨-, contrib, -⟩ := h twins rfl
  obtain ⟨r, group, chunk⟩ := chunkFor_twins
  have arrives : twins.inboxFor 1 [0x30] = some rankZero := rfl
  obtain ⟨t, ht, model⟩ := contrib_completes arrives rfl
    ⟨rfl, rfl, group, chunk, rfl, rfl, rfl, rfl, by decide⟩
  obtain ⟨v, hv, stated, -⟩ := ((contrib 1 rankZero twinChunks r _ _ arrives rfl rfl).2 rfl group chunk rfl rfl rfl
    rfl).2 rfl (by decide)
  obtain rfl := Host.Outcome.next.inj (ht.symm.trans hv)
  have appended : ((t.ctx 0).chunks.map fun q => q.parts.length) = [1, 2] :=
    congrArg (List.map fun q : Chunk => q.parts.length) model
  have replaced : ((t.ctx 0).chunks.map fun q => q.parts.length) = [1, 1] :=
    congrArg (List.map fun q : Chunk => q.parts.length) stated
  exact absurd (appended.symm.trans replaced) (by decide)

end Sys2Proof.Machine

namespace Sys2Proof.Machine

/-! # A port that goes down with a collective open (R186, R262, R294) -/

/-- LINK_DOWN with cause 2 declares a port down of which a trained lane has had five NAKs (R262). -/
theorem exec_linkDown_of_naks {s : State} {p : Fin 14} {i : Nat} (alive : s.alive = true) (lit : (s.link p).lit = true)
    (trained : i ∈ (s.link p).trainedLanes) (naks : 5 ≤ ((s.link p).lane i).nakCnt) :
    exec (.linkDown p 2) s = .next (s.declareDown p 2 true) := by
  have any : (((s.link p).trainedLanes.map (s.link p).lane).any fun x => 5 ≤ x.nakCnt) = true :=
    List.any_eq_true.2 ⟨_, List.mem_map_of_mem trained, decide_eq_true naks⟩
  change execLinkDown p 2 s = _
  unfold execLinkDown
  dsimp only
  rw [alive, lit, if_neg (by decide)]
  exact if_pos any

/-- Link 0, UP on lane 0, whose far side has asked five times for one flit. -/
def nakkedLink : Link :=
  { phase := .up, version := 3, pending := false, trained := 1, lanes := [(0, { lock := true, nakCnt := 5 })] }

/-- `fabricHolding`, whose context 0 holds an admitted frame and whose granary has already acted for port 22
in this core cycle, with link 0 as `nakkedLink`. -/
def nakkedHolding : State := { fabricHolding with links := [(0, nakkedLink)] }

/-- Taking link 0 down retracts ordinal 9, and the cells of its frame go back in the granary's next core
cycle: two ticks pass (R186, R294). -/
theorem declareDown_nakkedHolding_now : (nakkedHolding.declareDown 0 2 true).now = 2 := by
  decide +kernel

/-- Refutes O55: a fifth NAK takes the port down at once, but with a collective open the port that goes down
gives up a frame that a context holds. The granary frees its cells in the next core cycle when it has already
acted in the present one, so that `now`, at 0 before, stands at 2 where the statement has `max 0 0`. -/
theorem not_opticalLinks : ¬ Obligations.OpticalLinks := by
  unfold Obligations.OpticalLinks
  intro h
  obtain ⟨-, -, linkDown, -⟩ := h nakkedHolding 0 _ rfl rfl
  have naks : ∃ i ∈ (nakkedHolding.link 0).trainedLanes, 5 ≤ ((nakkedHolding.link 0).lane i).nakCnt :=
    ⟨0, by decide, by decide⟩
  obtain ⟨t, ht, -, -, -, -, -, -, now, -⟩ := linkDown rfl 2 0 (.inr (.inl ⟨rfl, naks, rfl⟩))
  obtain ⟨i, trained, five⟩ := naks
  obtain rfl := Host.Outcome.next.inj ((exec_linkDown_of_naks (p := 0) rfl rfl trained five).symm.trans ht)
  exact absurd (declareDown_nakkedHolding_now.symm.trans now) (by decide)

end Sys2Proof.Machine

namespace Sys2Proof.Machine

/-! # One command in each step (Commands) -/

/-- Settles O3: the step of each command keeps the rest of the queue, which `State.Kept` says. -/
theorem stepConsumesOneCommand : Obligations.StepConsumesOneCommand := by
  unfold Obligations.StepConsumesOneCommand
  intro s
  obtain ⟨t, ht, pending, -⟩ := step_kept s
  exact ⟨t, ht, pending⟩

/-- Settles O2: `exec_kept` gives the next state of every command. -/
theorem everyCommandAnswers : Obligations.EveryCommandAnswers := by
  unfold Obligations.EveryCommandAnswers
  intro c s
  obtain ⟨t, ht, -⟩ := exec_kept (.refl s) c
  exact ⟨t, ht⟩

/-- Settles O1. -/
theorem stepRunsFrontCommand : Obligations.StepRunsFrontCommand := by
  unfold Obligations.StepRunsFrontCommand
  refine ⟨fun _ _ _ => rfl, fun s idle => ?_⟩
  unfold step
  rw [idle]

end Sys2Proof.Machine

namespace Sys2Proof.Machine

/-! # Fabric time (R299 to R306)

## What the states of time and the servo can change -/

/-- The operation can change the time state and the faults on their way. -/
def State.TimeFrame (s t : State) : Prop := t = { s with time := t.time, fault := t.fault }

namespace State.TimeFrame
variable {s t u : State}

theorem refl (s : State) : s.TimeFrame s := rfl

theorem trans (h : s.TimeFrame t) (g : t.TimeFrame u) : s.TimeFrame u := by
  unfold State.TimeFrame at *
  rw [g, h]

theorem hbm (h : s.TimeFrame t) : t.hbm = s.hbm := (congrArg State.hbm h :)
theorem tuns (h : s.TimeFrame t) : t.tuns = s.tuns := (congrArg State.tuns h :)
theorem pins (h : s.TimeFrame t) : t.pins = s.pins := (congrArg State.pins h :)
theorem now (h : s.TimeFrame t) : t.now = s.now := (congrArg State.now h :)

end State.TimeFrame

section
variable (s : State)

theorem modTime_timeFrame (f : TimeSt → TimeSt) : s.TimeFrame (s.modTime f) := rfl

theorem timePhase_timeFrame (ph : TimePhase) : s.TimeFrame (s.timePhase ph) := by
  unfold State.timePhase
  dsimp only
  split
  · exact .refl s
  · split <;> exact rfl

theorem servoStep_timeFrame (theta : Int) : s.TimeFrame (s.servoStep theta) := by
  unfold State.servoStep
  extract_lets
  split <;> exact rfl

theorem lockStep_timeFrame (theta : Int) : s.TimeFrame (s.lockStep theta) := by
  unfold State.lockStep
  extract_lets
  split
  · split
    · exact timePhase_timeFrame ..
    · exact rfl
  · split
    · exact timePhase_timeFrame ..
    · exact rfl
  · exact .refl s

theorem firstStep_timeFrame (theta : Int) : s.TimeFrame (s.firstStep theta) := by
  unfold State.firstStep
  dsimp only
  split <;> exact rfl

theorem exchange_timeFrame (theta : Int) : s.TimeFrame (s.exchange theta) :=
  ((firstStep_timeFrame s theta).trans (modTime_timeFrame _ _)).trans
    ((servoStep_timeFrame _ theta).trans (lockStep_timeFrame _ theta))

theorem chooseParent_timeFrame : s.TimeFrame s.chooseParent := by
  unfold State.chooseParent
  split
  · exact .refl s
  extract_lets roots s1
  have conflict : s.TimeFrame s1 := by
    unfold s1
    split <;> exact rfl
  clear_value s1
  split
  · exact conflict.trans rfl
  · dsimp only
    split
    · exact conflict.trans ((modTime_timeFrame _ _).trans (timePhase_timeFrame ..))
    · exact conflict.trans ((modTime_timeFrame _ _).trans (timePhase_timeFrame ..))
    · exact conflict.trans rfl

theorem sourceEvent_timeFrame (ofs : Int) (bound : Nat) (step : Bool) : s.TimeFrame (s.sourceEvent ofs bound step) := by
  unfold State.sourceEvent
  extract_lets s1 s2 s3 k
  have h2 : s.TimeFrame s2 := by
    unfold s2
    split
    · exact (modTime_timeFrame s _).trans (timePhase_timeFrame ..)
    · exact (modTime_timeFrame s _).trans (timePhase_timeFrame ..)
    · exact rfl
  have h3 : s.TimeFrame s3 := by
    refine h2.trans (State.TimeFrame.trans ?_ (servoStep_timeFrame ..))
    split
    · exact firstStep_timeFrame ..
    · exact .refl _
  clear_value s3
  split
  · exact h3.trans ((modTime_timeFrame _ _).trans (timePhase_timeFrame ..))
  · split
    · exact h3.trans (timePhase_timeFrame ..)
    · exact h3.trans rfl

end

/-! ## The time state beside the lock and the servo -/

/-- The time state but for the lock, the servo and the records of both (R305, R314). -/
def TimeSt.unlocked (x : TimeSt) : TimeSt :=
  { x with phase := .free, inLock := 0, outLock := 0, first := true, integ := 0, adj := 0, history := [],
           pinned := false, marks := 0, hw := [], hwAt := 0 }

section
variable (s : State)

theorem timePhase_unlocked (ph : TimePhase) : (s.timePhase ph).time.unlocked = s.time.unlocked := by
  unfold State.timePhase
  dsimp only
  split
  · rfl
  · split <;> rfl

theorem servoStep_unlocked (theta : Int) : (s.servoStep theta).time.unlocked = s.time.unlocked := by
  unfold State.servoStep
  extract_lets
  split <;> rfl

theorem lockStep_unlocked (theta : Int) : (s.lockStep theta).time.unlocked = s.time.unlocked := by
  unfold State.lockStep
  extract_lets
  split
  · split
    · exact timePhase_unlocked ..
    · rfl
  · split
    · exact timePhase_unlocked ..
    · rfl
  · rfl

theorem timePhase_phase (ph : TimePhase) : (s.timePhase ph).time.phase = ph := by
  unfold State.timePhase
  dsimp only
  split
  · next h => exact eq_of_beq h
  · split <;> rfl

theorem timePhase_adj (ph : TimePhase) : (s.timePhase ph).time.adj = s.time.adj := by
  unfold State.timePhase
  dsimp only
  split
  · rfl
  · split <;> rfl

/-- The time state once the FTC stands at `n`: the PTP exchange in progress bears the counts of the new scale (R306). -/
def TimeSt.shifted (x : TimeSt) (n : Nat) (stepped : Bool) : TimeSt :=
  { x with ftc := n, stepped := stepped, ptpWait := x.ptpWait.map (· + ((n : Int) - x.ftc)),
           ptpReqAt := x.ptpReqAt.map (· + ((n : Int) - x.ftc)),
           ptpSync := x.ptpSync.map fun y => (y.1, y.2 + ((n : Int) - x.ftc)) }

theorem TimeSt.shifted_self (x : TimeSt) : x.shifted x.ftc x.stepped = x := by
  simp [TimeSt.shifted]

theorem firstStep_unlocked (theta : Int) : ∃ n b, (s.firstStep theta).time.unlocked = (s.time.shifted n b).unlocked := by
  unfold State.firstStep
  dsimp only
  split
  · exact ⟨_, _, rfl⟩
  · exact ⟨s.time.ftc, s.time.stepped, by rw [TimeSt.shifted_self]; rfl⟩

/-- The first exchange of a lock changes neither its state nor its count. -/
theorem firstStep_lock (theta : Int) :
    (s.firstStep theta).time.phase = s.time.phase ∧ (s.firstStep theta).time.inLock = s.time.inLock := by
  unfold State.firstStep
  dsimp only
  split <;> exact ⟨rfl, rfl⟩

theorem servoStep_lock (theta : Int) :
    (s.servoStep theta).time.phase = s.time.phase ∧ (s.servoStep theta).time.inLock = s.time.inLock := by
  unfold State.servoStep
  extract_lets
  split <;> exact ⟨rfl, rfl⟩

end

/-! ## An event of the root's source (R299) -/

/-- What the source last said, and a state of time that follows a source (R299). -/
def State.sourceHeard (s : State) : State :=
  let s := s.modTime fun t => { t with srcAt := s.now }
  match s.time.phase with | .holdover => s.timePhase .acquiring | .free => s.timePhase .acquiring | _ => s

section
variable (s : State) (ofs : Int) (bound : Nat) (step : Bool)

theorem sourceHeard_unlocked : s.sourceHeard.time.unlocked = { s.time with srcAt := s.now }.unlocked := by
  unfold State.sourceHeard
  dsimp only
  split
  · rw [timePhase_unlocked]; rfl
  · rw [timePhase_unlocked]; rfl
  · rfl

/-- The state in which an event of the source is judged. -/
def State.sourceSteered (s : State) (ofs : Int) (step : Bool) : State :=
  (if step then s.sourceHeard.firstStep ofs else s.sourceHeard).servoStep ofs

theorem sourceEvent_eq : s.sourceEvent ofs bound step =
    if bound < ofs.natAbs then ((s.sourceSteered ofs step).modTime fun t => { t with inLock := 0 }).timePhase .acquiring
    else if 16 ≤ (s.sourceSteered ofs step).time.inLock + 1 && (s.sourceSteered ofs step).time.phase != .locked
    then (s.sourceSteered ofs step).timePhase .locked
    else (s.sourceSteered ofs step).modTime fun t => { t with inLock := (s.sourceSteered ofs step).time.inLock + 1 } := rfl

theorem sourceEvent_unlocked : (s.sourceEvent ofs bound step).time.unlocked = (s.sourceSteered ofs step).time.unlocked := by
  rw [sourceEvent_eq]
  split
  · rw [timePhase_unlocked]; rfl
  · split
    · rw [timePhase_unlocked]
    · rfl

theorem sourceSteered_unlocked : (s.sourceSteered ofs false).time.unlocked = { s.time with srcAt := s.now }.unlocked := by
  refine (servoStep_unlocked _ ofs).trans ?_
  rw [if_neg Bool.false_ne_true, sourceHeard_unlocked]

variable {s ofs bound step}

/-- An offset beyond the bound leads to ACQUIRING (R299). -/
theorem sourceEvent_acquires (h : bound < ofs.natAbs) : (s.sourceEvent ofs bound step).time.phase = .acquiring := by
  rw [sourceEvent_eq, if_pos h, timePhase_phase]

/-- The sixteenth offset in a row within the bound locks (R299). -/
theorem sourceEvent_locks (h : ofs.natAbs ≤ bound) (acq : s.time.phase = .acquiring) (count : 15 ≤ s.time.inLock) :
    (s.sourceEvent ofs bound step).time.phase = .locked := by
  have heard : s.sourceHeard = s.modTime fun t => { t with srcAt := s.now } := by
    unfold State.sourceHeard
    dsimp only
    rw [State.modTime_time, acq]
  have lock : (s.sourceSteered ofs step).time.phase = .acquiring ∧ (s.sourceSteered ofs step).time.inLock = s.time.inLock := by
    unfold State.sourceSteered
    obtain ⟨p, n⟩ := servoStep_lock (if step then s.sourceHeard.firstStep ofs else s.sourceHeard) ofs
    rw [p, n]
    split
    · obtain ⟨p, n⟩ := firstStep_lock s.sourceHeard ofs
      rw [p, n, heard]
      exact ⟨acq, rfl⟩
    · rw [heard]
      exact ⟨acq, rfl⟩
  obtain ⟨phase, inLock⟩ := lock
  rw [sourceEvent_eq, if_neg (by omega), if_pos (by simp [phase, inLock]; omega), timePhase_phase]

end

/-! ## PPS_OUT and PPS_IN (R301) -/

theorem second_eq : second = 4000000000 := rfl

section
variable {s : State} (on : s.on = true)
include on

theorem exec_ppsOutRise (en : bitOf s.time.cfg.toNat 28 = true) (low : s.pins.ppsOut = false) :
    exec .ppsOutRise s = .next { s.reach (ceilDiv s.time.ftc second * second) with
      pins := { s.pins with ppsOut := true } } := by
  obtain ⟨_, _, _, reach⟩ := reach_frame s (ceilDiv s.time.ftc second * second)
  change (if _ then _ else Host.Outcome.next { s.reach (ceilDiv s.time.ftc second * second) with
    pins := { (s.reach (ceilDiv s.time.ftc second * second)).pins with ppsOut := true } }) = _
  rw [if_neg (by simp [on, en, low]), reach]

theorem exec_ppsOutFall (high : s.pins.ppsOut = true) :
    exec .ppsOutFall s = .next { s.reach (s.time.ftc / second * second + 400000000) with
      pins := { s.pins with ppsOut := false } } := by
  obtain ⟨_, _, _, reach⟩ := reach_frame s (s.time.ftc / second * second + 400000000)
  change (if _ then _ else Host.Outcome.next { s.reach (s.time.ftc / second * second + 400000000) with
    pins := { (s.reach (s.time.ftc / second * second + 400000000)).pins with ppsOut := false } }) = _
  rw [if_neg (by simp [on, high]), reach]

/-- A rising edge of PPS_IN is an event of the root's source where that is PPS_IN (R299, R301). -/
theorem exec_ppsInEdge : exec .ppsInEdge s =
    .next (if !s.timeRoot || s.timeSource != 2 then s.modTime fun t => { t with ppsIn := BitVec.ofNat 64 s.time.ftc }
      else (s.modTime fun t => { t with ppsIn := BitVec.ofNat 64 s.time.ftc }).sourceEvent
        (if s.time.ftc % second < second / 2 then ((s.time.ftc % second : Nat) : Int)
         else (s.time.ftc % second : Nat) - second) 8 false) := by
  change (if !s.on then _ else _) = _
  rw [on]
  exact (apply_ite Host.Outcome.next _ _ _).symm

theorem ppsOutRise_answers (en : bitOf s.time.cfg.toNat 28 = true) (low : s.pins.ppsOut = false) :
    Answers .ppsOutRise s fun t =>
      t.pins = { s.pins with ppsOut := true } ∧ t.time = { s.time with ftc := t.time.ftc } ∧ t.hbm = s.hbm ∧ t.tuns = s.tuns
      ∧ t.time.ftc % 4000000000 = 0 ∧ s.time.ftc ≤ t.time.ftc ∧ t.time.ftc < s.time.ftc + 4000000000 := by
  have run := exec_ppsOutRise on en low
  have le := le_ceilDiv_mul s.time.ftc (p := second) (by decide)
  have lt := ceilDiv_mul_lt s.time.ftc (p := second) (by decide)
  have whole := Nat.mul_mod_left (ceilDiv s.time.ftc second) second
  generalize ceilDiv s.time.ftc second * second = n at run le lt whole
  obtain ⟨k, g, c, reach⟩ := reach_frame s n
  rw [reach] at run
  rw [second_eq] at lt whole
  refine ⟨_, run, rfl, rfl, rfl, rfl, ?_⟩
  rw [Nat.max_eq_right le]
  exact ⟨whole, le, lt⟩

theorem ppsOutFall_answers (high : s.pins.ppsOut = true) :
    Answers .ppsOutFall s fun t => t.pins = { s.pins with ppsOut := false } ∧ t.hbm = s.hbm ∧ t.tuns = s.tuns
      ∧ t.time = { s.time with ftc := max s.time.ftc (s.time.ftc / 4000000000 * 4000000000 + 400000000) } := by
  have run := exec_ppsOutFall on high
  rw [second_eq] at run
  generalize s.time.ftc / 4000000000 * 4000000000 + 400000000 = n at run ⊢
  obtain ⟨_, _, _, reach⟩ := reach_frame s n
  rw [reach] at run
  exact ⟨_, run, rfl, rfl, rfl, rfl⟩

theorem ppsInEdge_answers : Answers .ppsInEdge s fun t =>
    t.time.ppsIn = BitVec.ofNat 64 s.time.ftc ∧ t.time.ftc = s.time.ftc ∧ t.pins = s.pins ∧ t.hbm = s.hbm
      ∧ t.tuns = s.tuns := by
  refine ⟨_, exec_ppsInEdge on, ?_⟩
  split
  · exact ⟨rfl, rfl, rfl, rfl, rfl⟩
  · have frame := sourceEvent_timeFrame (s.modTime fun t => { t with ppsIn := BitVec.ofNat 64 s.time.ftc })
    have same := sourceEvent_unlocked (s.modTime fun t => { t with ppsIn := BitVec.ofNat 64 s.time.ftc })
    refine ⟨?_, ?_, (frame ..).pins, (frame ..).hbm, (frame ..).tuns⟩
    · exact (congrArg TimeSt.ppsIn ((same ..).trans (sourceSteered_unlocked ..)) :)
    · exact (congrArg TimeSt.ftc ((same ..).trans (sourceSteered_unlocked ..)) :)

end

/-- Settles O7: each edge of PPS_OUT reaches its count, and an event of PPS_IN that steers the rate steps no count. -/
theorem ppsPins : Obligations.PpsPins := by
  unfold Obligations.PpsPins
  intro s on
  refine ⟨ppsOutRise_answers on, fun dis => if_pos (by simp [dis]), fun high => ?_, fun n high whole after within => ?_,
    ppsInEdge_answers on⟩
  · obtain ⟨t, ht, pins, hbm, tuns, time⟩ := ppsOutFall_answers on high
    exact ⟨t, ht, pins, hbm, tuns, by rw [time]⟩
  · obtain ⟨t, ht, pins, hbm, tuns, time⟩ := ppsOutFall_answers on high
    refine ⟨t, ht, pins, ?_, hbm, tuns⟩
    have count : max s.time.ftc (s.time.ftc / 4000000000 * 4000000000 + 400000000) = n + 400000000 := by omega
    rw [time, count]

end Sys2Proof.Machine

namespace Sys2Proof.Machine

/-! # Power (R376 to R389) -/

/-- `s` once time has passed (R297): the count, the clocks, the granary's order and the ports' telemetry are others. -/
def State.later (s : State) (n : Nat) (k : Clocks) (g : Granary) (c : Tab Nat) : State :=
  { s with time := { s.time with ftc := n }, clk := k, granary := g, core := { s.core with tel := c } }

theorem reach_later (s : State) (due : Nat) : ∃ k g c, s.reach due = s.later (max s.time.ftc due) k g c :=
  reach_frame s due

theorem after_later (s : State) (due : Nat) : ∃ n k g c, s.after due = s.later n k g c :=
  ⟨_, reach_later s (s.time.ftc + (due - s.now))⟩

theorem dwell_later (s : State) (last ticks : Nat) : ∃ n k g c, s.dwell last ticks = s.later n k g c := by
  unfold State.dwell
  split
  · exact ⟨s.time.ftc, s.clk, s.granary, s.core.tel, rfl⟩
  · exact after_later ..

theorem dwell_now (s : State) (last ticks : Nat) :
    (s.dwell last ticks).now = if last = 0 then s.now else max s.now (last + ticks) := by
  unfold State.dwell
  by_cases h : last = 0
  · rw [if_pos h, if_pos (beq_iff_eq.mpr h)]
  · rw [if_neg h, if_neg (by simpa using h), after_now]

theorem on_of_measures {s : State} (h : s.measures = true) : s.on = true := by
  unfold State.measures at h
  rw [Bool.and_eq_true] at h
  exact h.1

theorem cellarOn_of_on {s : State} (h : s.on = true) : s.cellarOn = true := by
  unfold State.on at h
  unfold State.cellarOn
  simp only [Bool.and_eq_true] at h ⊢
  exact h.1

/-! ## The thermal clamp (R384) -/

/-- What a step of the thermal clamp leaves in the power state (R384, R386). -/
def Power.clamped (p : Power) (now : Nat) : Power :=
  let r := thermalStep p.tj p.clampC p.minRate p.therm
  let ovr := !p.thermOvr && 105 ≤ p.tj && r < p.minRate || (p.thermOvr && r < p.minRate)
  { p with therm := r, thermAt := now, thermOvr := ovr,
           thermPin := !ovr && p.clampC ≤ p.tj && p.tj < 105 && p.therm ≤ p.minRate }

theorem thermalStep_cases (tj clampC minRate rate : Nat) :
    (105 ≤ tj → thermalStep tj clampC minRate rate = max 8 (rate - 2))
    ∧ (tj < 105 → clampC ≤ tj → thermalStep tj clampC minRate rate = if minRate < rate then max minRate (rate - 2) else rate)
    ∧ (tj < 105 → tj < clampC → tj < clampC - 5 → thermalStep tj clampC minRate rate = min 64 (rate + 2))
    ∧ (tj < 105 → tj < clampC → ¬ tj < clampC - 5 → thermalStep tj clampC minRate rate = rate) := by
  unfold thermalStep
  refine ⟨fun h => if_pos h, fun h g => ?_, fun h g l => ?_, fun h g l => ?_⟩
  · rw [if_neg (by omega), if_pos g]
  · rw [if_neg (by omega), if_neg (by omega), if_pos l]
  · rw [if_neg (by omega), if_neg (by omega), if_neg l]

theorem bookPut_frame (s : State) (x : BookRec) : ∃ k, s.bookPut x = { s with book := k } := by
  unfold State.bookPut
  extract_lets
  split
  · exact ⟨_, rfl⟩
  · split
    · exact ⟨_, rfl⟩
    · split <;> exact ⟨_, rfl⟩

/-- A record of an event and the status of the loops change the book and that status alone (R360, R386). -/
theorem eventSeen_frame (s : State) (b : Bool) (code detail : Nat) : ∃ k x,
    (if b then s.event code detail else s).loopsSeen = { s with book := k, power := { s.power with loopSeen := x } } := by
  split
  · obtain ⟨k, event⟩ := bookPut_frame s (s.bookRec 2 code 0xFFFF 0 detail)
    unfold State.event
    rw [event]
    exact ⟨k, _, rfl⟩
  · exact ⟨_, _, rfl⟩

/-- The state of a step of the thermal clamp but for the event that it records. -/
def State.thermClamped (s : State) : State :=
  let v := s.modPower fun p => p.clamped s.now
  if v.power.therm < s.power.therm then (v.mark 3).raise 1776 0 else v

theorem exec_thermalClampStep {s : State} (h : s.measures = true) : ∃ (b : Bool) (d : Nat), exec .thermalClampStep s =
    .next (if b then (s.dwell s.power.thermAt 4000000).thermClamped.event 2 d
      else (s.dwell s.power.thermAt 4000000).thermClamped).loopsSeen :=
  ⟨_, _, (if_neg (by simp [h]) : execThermalClampStep s = _)⟩

theorem thermClamped_cases (s : State) :
    s.thermClamped = (s.modPower fun p => p.clamped s.now) ∧ ¬ s.thermClamped.power.therm < s.power.therm
    ∨ s.thermClamped = ((s.modPower fun p => p.clamped s.now).mark 3).raise 1776 0
      ∧ s.thermClamped.power.therm < s.power.therm := by
  unfold State.thermClamped
  dsimp only
  split
  · next h => exact .inr ⟨rfl, h⟩
  · next h => exact .inl ⟨rfl, h⟩

/-- Settles O15: the step's rate is `thermalStep`, and a lower rate raises. -/
theorem thermalClampStep : Obligations.ThermalClampStep := by
  unfold Obligations.ThermalClampStep
  intro s h
  obtain ⟨b, d, run⟩ := exec_thermalClampStep h
  have now := dwell_now s s.power.thermAt 4000000
  obtain ⟨n, k, g, c, dwell⟩ := dwell_later s s.power.thermAt 4000000
  rw [dwell] at run now
  obtain ⟨_, _, seen⟩ := eventSeen_frame (s.later n k g c).thermClamped b 2 d
  rw [seen] at run
  obtain ⟨hot, warm, cool, still⟩ := thermalStep_cases s.power.tj s.power.clampC s.power.minRate s.power.therm
  obtain ⟨step, low⟩ | ⟨step, low⟩ := thermClamped_cases (s.later n k g c)
  · rw [step] at run low
    exact ⟨_, run, hot, warm, cool, still, fun l => absurd l low, fun _ => ⟨rfl, rfl⟩, now, rfl, rfl⟩
  · rw [step] at run low
    exact ⟨_, run, hot, warm, cool, still, fun _ => ⟨rfl, rfl⟩, fun l => absurd low l, now, rfl, rfl⟩

/-! ## The safety limit (R382) -/

theorem rate_le_of_safety {p : Power} (h : p.safety.isSome = true) : p.rate ≤ 32 := by
  unfold Power.rate
  rw [if_pos h]
  exact (Nat.min_le_right ..).trans (Nat.min_le_right ..)

section
variable {s : State} (h : s.measures = true)
include h

/-- A mean above 3,500 W clamps, and may be recorded (R382, R386). -/
theorem exec_powerSafety_clamps (free : s.power.safety = none) {w : Nat} (high : 3500 < w) : ∃ (b : Bool) (d : Nat),
    exec (.powerSafety w) s = .next (if b then (((s.modPower fun p =>
        { p with safety := some s.now, powerOvr := 32 < s.power.guardRate }).mark 5).event 2 d)
      else (s.modPower fun p => { p with safety := some s.now, powerOvr := 32 < s.power.guardRate }).mark 5).loopsSeen := by
  refine ⟨32 < s.power.guardRate, 2 + s.power.guardRate * 256, ?_⟩
  change execPowerSafety w s = _
  unfold execPowerSafety
  rw [if_neg (by simp [h])]
  dsimp only
  rw [free]
  dsimp only
  rw [if_neg (Nat.not_le.mpr high)]
  simp only [decide_eq_true_eq]

theorem exec_powerSafety_low (free : s.power.safety = none) {w : Nat} (low : w ≤ 3500) :
    exec (.powerSafety w) s = .next s := by
  change execPowerSafety w s = _
  unfold execPowerSafety
  rw [if_neg (by simp [h])]
  dsimp only
  rw [free]
  exact if_pos low

/-- While it clamps, a high mean and one that comes too early change nothing, and another ends it (R382). -/
theorem exec_powerSafety_clamped {at_ : Nat} (clamped : s.power.safety = some at_) (w : Nat) : exec (.powerSafety w) s =
    if 3200 < w || s.now < at_ + 40000000 then .next s
    else .next (s.modPower fun p => { p with safety := none, powerOvr := false }) := by
  change execPowerSafety w s = _
  unfold execPowerSafety
  rw [if_neg (by simp [h])]
  dsimp only
  rw [clamped]

end

/-- Settles O16. -/
theorem powerSafetyLimit : Obligations.PowerSafetyLimit := by
  unfold Obligations.PowerSafetyLimit
  intro s w h
  refine ⟨fun free high => ?_, fun free low => exec_powerSafety_low h free low, fun at_ clamped stays => ?_, fun at_ clamped low old => ?_⟩
  · obtain ⟨b, d, run⟩ := exec_powerSafety_clamps h free high
    obtain ⟨_, _, seen⟩ := eventSeen_frame ((s.modPower fun p =>
      { p with safety := some s.now, powerOvr := 32 < s.power.guardRate }).mark 5) b 2 d
    rw [seen] at run
    exact ⟨_, run, rfl, rate_le_of_safety rfl, rfl⟩
  · exact ⟨(exec_powerSafety_clamped h clamped w).trans (if_pos (by simpa using stays)),
      rate_le_of_safety (by rw [clamped]; rfl)⟩
  · exact ⟨_, (exec_powerSafety_clamped h clamped w).trans (if_neg (by simp; omega)), rfl, rfl⟩

/-! ## The input, the guard and the junction temperature (R378 to R383) -/

section
variable {s : State}

theorem supplyWarningFall_answers (on : s.on = true) {vin : Nat} (low : vin < 3100) (idle : s.power.warnNow = false) :
    Answers (.supplyWarningFall vin) s fun t =>
      t.power.warnNow = true ∧ t.power.warnSeen = true ∧ t.power.vin = vin
      ∧ (bitOf s.power.guard.toNat 31 = false → t.time.marks = s.time.marks ||| 16#9
          ∧ t.fault.raised = s.fault.raised ++ [⟨1774, s.time.ftc, 0, false, s.now⟩])
      ∧ (bitOf s.power.guard.toNat 31 = true → t.power.guardSup = true
          ∧ t.fault.raised = s.fault.raised ++ [⟨1774, s.time.ftc, 0, false, s.now⟩, s.faultRec 1787 0]) := by
  refine ⟨_, (if_neg (by simp [cellarOn_of_on on, warnFall, Nat.not_le.mpr low]) : execSupplyWarningFall vin s = _).trans
    ((if_neg (by simp [idle])).trans (apply_ite Host.Outcome.next _ _ _).symm), ?_⟩
  split
  · next sup => exact ⟨rfl, rfl, rfl, fun h => absurd (h.symm.trans sup) Bool.false_ne_true, fun _ => ⟨rfl, List.append_assoc ..⟩⟩
  · next sup => exact ⟨rfl, rfl, rfl, fun _ => ⟨rfl, rfl⟩, fun h => absurd h sup⟩

theorem supplyWarningRise_answers (on : s.on = true) {vin : Nat} (high : 3200 < vin) (warn : s.power.warnNow = true) :
    Answers (.supplyWarningRise vin) s fun t => t.power.warnNow = false ∧ t.power.guardSup = false
      ∧ t.power.vin = vin % 4096 ∧ t.power.warnSeen = s.power.warnSeen ∧ t.fault = s.fault := by
  refine ⟨_, (if_neg (by simp [cellarOn_of_on on, warnRise, Nat.not_le.mpr high, warn]) : execSupplyWarningRise vin s = _), ?_⟩
  obtain ⟨k, event⟩ := bookPut_frame (s.modPower fun p =>
    { p with vin := vin % 4096, vinAt := some s.now, warnNow := false, guardSup := false }) _
  unfold State.event
  rw [event]
  exact ⟨rfl, rfl, rfl, rfl, rfl⟩

/-- A mean of a millisecond is kept, and engages the guard's cap, releases it, or leaves it (R381). -/
theorem exec_guardMs (h : s.measures = true) {w : Nat} (small : w < 65536) {u v : State}
    (hu : u = s.dwell s.power.guardAt 4000000)
    (hv : v = u.modPower fun p => { p with meanW := w, peakW := max p.peakW w, guardAt := u.now }) :
    exec (.guardMs w) s = .next (
      if bitOf u.power.guard.toNat 30 && !u.power.guardCap && decide (u.power.capW < w)
      then (v.modPower fun p => { p with guardCap := true }).guardEngages
      else if u.power.guardCap && (!bitOf u.power.guard.toNat 30 || decide (w + 50 ≤ u.power.capW))
      then v.modPower fun p => { p with guardCap := false } else v) := by
  subst hv hu
  change execGuardMs w s = _
  unfold execGuardMs
  rw [if_neg (by simp [h]), Nat.mod_eq_of_lt small, apply_ite Host.Outcome.next, apply_ite Host.Outcome.next]

theorem guardMs_answers (h : s.measures = true) {w : Nat} (small : w < 65536) : Answers (.guardMs w) s fun t =>
    t.power.meanW = w ∧ t.power.peakW = max s.power.peakW w
    ∧ (bitOf s.power.guard.toNat 30 = true → s.power.guardCap = false → s.power.capW < w → t.power.guardCap = true
        ∧ t.fault.raised = s.fault.raised ++ [t.faultRec 1787 0] ∧ t.time.marks = s.time.marks ||| 32#9)
    ∧ (s.power.guardCap = true → w + 50 ≤ s.power.capW → t.power.guardCap = false ∧ t.fault = s.fault)
    ∧ (s.power.guardCap = false → w ≤ s.power.capW → t.power.guardCap = false ∧ t.fault = s.fault) := by
  have run := exec_guardMs h small rfl rfl
  obtain ⟨n, k, g, c, dwell⟩ := dwell_later s s.power.guardAt 4000000
  rw [dwell] at run
  refine ⟨_, run, ?_⟩
  split
  · next engage =>
    simp only [Bool.and_eq_true, Bool.not_eq_true', decide_eq_true_eq] at engage
    obtain ⟨⟨_, cap⟩, above⟩ := engage
    exact ⟨rfl, rfl, fun _ _ _ => ⟨rfl, rfl, rfl⟩, fun on => absurd (cap.symm.trans on) Bool.false_ne_true,
      fun _ low => absurd above (Nat.not_lt.mpr low)⟩
  · next stays =>
    simp only [Bool.and_eq_true, Bool.not_eq_true', decide_eq_true_eq] at stays
    have not_engaged {P : Prop} (en : bitOf s.power.guard.toNat 30 = true) (cap : s.power.guardCap = false)
      (above : s.power.capW < w) : P := absurd ⟨⟨en, cap⟩, above⟩ stays
    split
    · exact ⟨rfl, rfl, not_engaged, fun _ _ => ⟨rfl, rfl⟩, fun _ _ => ⟨rfl, rfl⟩⟩
    · next keeps =>
      simp only [Bool.and_eq_true, Bool.or_eq_true, decide_eq_true_eq, not_and, not_or] at keeps
      exact ⟨rfl, rfl, not_engaged, fun cap low => absurd low (keeps cap).2, fun cap _ => ⟨cap, rfl⟩⟩

/-- Switching controllers off changes the controllers alone (R383). -/
theorem allOff_frame (l : List Nat) (s : State) :
    ∃ x, l.foldl (fun s n => s.modCtl n fun c => { c with phase := .off }) s = { s with ctls := x } := by
  induction l generalizing s with
  | nil => exact ⟨_, rfl⟩
  | cons n l ih =>
    obtain ⟨x, hx⟩ := ih (s.modCtl n fun c => { c with phase := .off })
    exact ⟨x, hx⟩

theorem tjSample_answers (h : s.measures = true) (tj : Nat) : Answers (.tjSample tj) s fun t =>
    t.power.tj = min 255 tj ∧ t.power.tjMax = max s.power.tjMax (min 255 tj)
    ∧ (t.pins.thermLow = true ↔ 100 ≤ tj ∨ (95 ≤ tj ∧ s.pins.thermLow = true))
    ∧ (110 ≤ tj → s.power.tripped = false → t.power.tripped = true
        ∧ t.fault.raised = s.fault.raised ++ [s.faultRec 1777 0])
    ∧ (tj < 110 → t.fault = s.fault ∧ t.power.tripped = s.power.tripped) := by
  have low : ((decide (100 ≤ tj) || (decide (95 ≤ tj) && s.pins.thermLow)) = true)
      ↔ 100 ≤ tj ∨ (95 ≤ tj ∧ s.pins.thermLow = true) := by simp
  unfold Answers
  change ∃ t, execTjSample tj s = _ ∧ _
  unfold execTjSample
  rw [if_neg (by simp [h])]
  extract_lets s1 s2 s3
  split
  · next quiet =>
    refine ⟨_, rfl, rfl, rfl, low, fun hot cold => ?_, fun _ => ⟨rfl, rfl⟩⟩
    obtain cool | trip := (Bool.or_eq_true ..).mp quiet
    · exact absurd hot (Nat.not_le.mpr (of_decide_eq_true cool))
    · exact absurd (cold.symm.trans trip) Bool.false_ne_true
  · next hot =>
    obtain ⟨x, off⟩ := allOff_frame (List.range 16) _
    exact ⟨_, congrArg Host.Outcome.next off, rfl, rfl, low, fun _ _ => ⟨rfl, rfl⟩, fun cold => absurd hot (by simp [cold])⟩

end

/-- Settles O17. -/
theorem supplyAndGuard : Obligations.SupplyAndGuard := by
  unfold Obligations.SupplyAndGuard
  intro s h
  have on := on_of_measures h
  refine ⟨fun _ => supplyWarningFall_answers on, fun _ => supplyWarningRise_answers on, fun _ => guardMs_answers h,
    tjSample_answers h, fun n => if_neg (by simp [on]), fun good => ?_⟩
  refine ⟨_, (if_neg (by simp [good]) : execRailLeavesRegulation s = _), ?_, rfl⟩
  simp [State.pwrGood]

/-! ## The loops of the hydrometer, the laser bias and the equalisation (R385 to R387) -/

section
variable (s : State) (p i : Nat) (f : Lane → Lane)

@[simp] theorem modLane_lane : ((s.modLane p i f).link p).lane i = f ((s.link p).lane i) := by
  unfold State.modLane
  rw [modLink_link_same]
  exact Tab.get_mod_same ..

@[simp] theorem modLane_phase : ((s.modLane p i f).link p).phase = (s.link p).phase := by
  unfold State.modLane
  rw [modLink_link_same]

end

/-- What a run of the hydrometer leaves in the power state (R387). -/
def hydroRan (x : Power) (replan : Bool) (m now : Nat) : Power :=
  let want := if m + 10 < x.target then x.offset + 1 else if x.target + 10 < m then x.offset - 1 else x.offset
  let held := max x.minOfs (min x.maxOfs want)
  { x with margin := m, hydroAt := now, offset := if replan then held else 0, hydroPin := replan && held != want,
           marginArmed := 50 < m || (x.marginArmed && !decide (m < 40)) }

theorem exec_hydrometerRun {s : State} (h : s.measures = true) (margin : Nat) :
    ∃ n k g c, exec (.hydrometerRun margin) s =
      .next (if decide (min 255 margin < 40) && s.power.marginArmed
        then ((s.later n k g c).modPower fun x => hydroRan x s.replan (min 255 margin) (s.later n k g c).now).raise 1779 0
        else (s.later n k g c).modPower fun x => hydroRan x s.replan (min 255 margin) (s.later n k g c).now).loopsSeen := by
  have run : exec (.hydrometerRun margin) s = _ := (if_neg (by simp [h]) : execHydrometerRun margin s = _)
  obtain ⟨n, k, g, c, dwell⟩ : ∃ n k g c, (if s.replan then s.dwell s.power.hydroAt 240000000000 else s) = s.later n k g c := by
    split
    · exact dwell_later ..
    · exact ⟨s.time.ftc, s.clk, s.granary, s.core.tel, rfl⟩
  dsimp only at run
  rw [dwell] at run
  exact ⟨n, k, g, c, run⟩

theorem hydrometerRun_answers {s : State} (h : s.measures = true) (m : Nat) : Answers (.hydrometerRun m) s fun t =>
    t.power.margin = min 255 m
    ∧ (s.replan = false → t.power.offset = 0)
    ∧ (s.replan = true → t.power.offset = max s.power.minOfs (min s.power.maxOfs
        (if min 255 m + 10 < s.power.target then s.power.offset + 1
         else if s.power.target + 10 < min 255 m then s.power.offset - 1 else s.power.offset)))
    ∧ (50 < min 255 m → t.power.marginArmed = true)
    ∧ (min 255 m < 40 → s.power.marginArmed = true →
        t.fault.raised = s.fault.raised ++ [t.faultRec 1779 0] ∧ t.power.marginArmed = false)
    ∧ (40 ≤ min 255 m ∨ s.power.marginArmed = false → t.fault = s.fault) := by
  obtain ⟨n, k, g, c, run⟩ := exec_hydrometerRun h m
  generalize min 255 m = v at run ⊢
  refine ⟨_, run, ?_⟩
  split
  · next raises =>
    obtain ⟨low, armed⟩ := (Bool.and_eq_true ..).mp raises
    have low := of_decide_eq_true low
    refine ⟨rfl, fun off => if_neg (by simp [off]), fun on => if_pos on, fun high => absurd high (by omega),
      fun _ _ => ⟨rfl, ?_⟩, fun quiet => ?_⟩
    · exact (congrArg₂ _ (decide_eq_false (by omega)) (by simp [low]) : (decide (50 < v) || (s.power.marginArmed && !decide (v < 40))) = (false || false))
    · obtain quiet | quiet := quiet
      · exact absurd low (by omega)
      · exact absurd (quiet.symm.trans armed) Bool.false_ne_true
  · next quiet =>
    refine ⟨rfl, fun off => if_neg (by simp [off]), fun on => if_pos on, fun high => ?_, fun low armed => ?_, fun _ => rfl⟩
    · exact (congrArg (· || _) (decide_eq_true high) :)
    · exact absurd (by simp [low, armed]) quiet

/-- A bias that moves has been held since its last move (R385). -/
def State.biasMoves (s : State) (p lane b : Nat) : State :=
  if b == ((s.link p).lane lane).biasPct then s else
    (s.dwell ((s.link p).lane lane).biasAt 4000000000).modLane p lane fun x =>
      { x with biasAt := (s.dwell ((s.link p).lane lane).biasAt 4000000000).now }

theorem biasMoves_frame (s : State) (p lane b : Nat) :
    ((s.biasMoves p lane b).link p).phase = (s.link p).phase ∧ (s.biasMoves p lane b).fault = s.fault
    ∧ (((s.link p).lane lane).biasAt ≠ 0 → b ≠ ((s.link p).lane lane).biasPct →
        (s.biasMoves p lane b).now = max s.now (((s.link p).lane lane).biasAt + 4000000000)) := by
  unfold State.biasMoves
  split
  · next same => exact ⟨rfl, rfl, fun _ moves => absurd (eq_of_beq same) moves⟩
  · have now := dwell_now s ((s.link p).lane lane).biasAt 4000000000
    obtain ⟨n, k, g, c, dwell⟩ := dwell_later s ((s.link p).lane lane).biasAt 4000000000
    rw [dwell] at now ⊢
    exact ⟨modLane_phase .., rfl, fun held _ => now.trans (if_neg held)⟩

/-- The lane with the bias `b`. -/
def Lane.biased (x : Lane) (b hi : Nat) : Lane := { x with biasPct := b, biasPin := b == hi, biasSeen := 20 ≤ b }

theorem laserBiasStep_answers {s : State} (on : s.on = true) (optics : s.opticsOn = true) {p : Fin 14} {lane : Fin 16}
    (want : Nat) (carried : lane.val < portLanes p) {x : Lane} (hx : x = (s.link p).lane lane) {b : Nat}
    (hb : b = min s.power.maxPct (if (want - x.biasPct) * 100 ≤ 2 * (100 + x.biasPct)
      && (x.biasPct - want) * 100 ≤ 2 * (100 + x.biasPct) then x.biasPct else want)) :
    Answers (.laserBiasStep p lane want) s fun t =>
      ∃ y : Lane, (t.link p).lane lane = y.biased b s.power.maxPct
      ∧ (x.biasAt ≠ 0 → b ≠ x.biasPct → t.now = max s.now (x.biasAt + 4000000000))
      ∧ (t.link p).phase = (s.link p).phase
      ∧ (20 ≤ b → x.biasSeen = false →
          t.fault.raised = s.fault.raised ++ [t.faultRec (1600 + 6 * p.val + 3) lane.val])
      ∧ (b < 20 → t.fault = s.fault) := by
  have run : exec (.laserBiasStep p lane want) s =
      .next (if decide (20 ≤ b) && !x.biasSeen
        then ((s.biasMoves p lane b).modLane p lane fun y => y.biased b s.power.maxPct).raise (srcLink p 3) lane
        else (s.biasMoves p lane b).modLane p lane fun y => y.biased b s.power.maxPct).loopsSeen := by
    subst hb hx
    exact (if_neg (by simp [on, optics, carried]) : execLaserBiasStep p lane want s = _)
  obtain ⟨phase, fault, now⟩ := biasMoves_frame s p lane b
  rw [← hx] at now
  generalize s.biasMoves p lane b = u at run phase fault now
  have after := modLane_lane u p lane fun y => y.biased b s.power.maxPct
  have same := (modLane_phase u p lane fun y => y.biased b s.power.maxPct).trans phase
  refine ⟨_, run, (u.link p).lane lane, ?_⟩
  split
  · next raises =>
    exact ⟨after, now, same, fun _ _ => congrArg (fun f => f.raised ++ _) fault, fun low => absurd raises (by simp; omega)⟩
  · next quiet =>
    exact ⟨after, now, same, fun high seen => absurd (by simp [high, seen]) quiet, fun _ => fault⟩

theorem equalisationStep_answers {s : State} (on : s.on = true) (optics : s.opticsOn = true) {p : Fin 14} {lane : Fin 16}
    (atEnd : Bool) (carried : lane.val < portLanes p) : Answers (.equalisationStep p lane atEnd) s fun t =>
      ((t.link p).lane lane).eqPin = atEnd ∧ ((t.link p).lane lane).biasPct = ((s.link p).lane lane).biasPct
        ∧ (((s.link p).lane lane).eqAt ≠ 0 → t.now = max s.now (((s.link p).lane lane).eqAt + 40000000))
        ∧ t.fault = s.fault := by
  have run : exec (.equalisationStep p lane atEnd) s = _ :=
    (if_neg (by simp [on, optics, carried]) : execEqualisationStep p lane atEnd s = _)
  have now := dwell_now s ((s.link p).lane lane).eqAt 40000000
  dsimp only at run
  obtain ⟨n, k, g, c, dwell⟩ := dwell_later s ((s.link p).lane lane).eqAt 40000000
  rw [dwell] at run now
  have after := modLane_lane (s.later n k g c) p lane fun x =>
    { x with eqPin := atEnd, eqAt := (s.later n k g c).now }
  exact ⟨_, run, congrArg Lane.eqPin after, (congrArg Lane.biasPct after :), fun held => now.trans (if_neg held), rfl⟩

/-- Settles O18. -/
theorem adaptiveLoops : Obligations.AdaptiveLoops := by
  unfold Obligations.AdaptiveLoops
  intro s
  refine ⟨fun m h => hydrometerRun_answers h m, fun p lane want on optics carried => ?_,
    fun p lane atEnd on optics carried => equalisationStep_answers on optics atEnd carried⟩
  refine (laserBiasStep_answers on optics want carried rfl rfl).imp fun t ⟨y, after, now, phase, raised, fault⟩ => ?_
  rw [after]
  refine ⟨?_, rfl, now, phase, raised, fault⟩
  simp only [Lane.biased, Bool.and_eq_true, decide_eq_true_eq]

end Sys2Proof.Machine

namespace Sys2Proof.Machine

/-! # The supply, the host's token and its links (R329 to R331, R342, R376, R377) -/

/-- Settles O20: what survives is what `State.lost` keeps. -/
theorem powerAndPackageReset : Obligations.PowerAndPackageReset := by
  unfold Obligations.PowerAndPackageReset
  intro s
  refine ⟨fun vin out on => ?_, fun off => ?_, fun run => ?_, fun held => if_neg (by simp [held])⟩
  · have inside : (decide (resetFall < vin) && decide (vin < overRise)) = false := by
      unfold resetFall overRise
      obtain low | high := out
      · rw [decide_eq_false (by omega), Bool.false_and]
      · rw [decide_eq_false (p := vin < 4200) (by omega), Bool.and_false]
    exact ⟨_, if_neg (by rw [on, inside]; decide), rfl, rfl, rfl, rfl, rfl, rfl, rfl, rfl, rfl, rfl, rfl, rfl, rfl, rfl, rfl⟩
  · exact ⟨_, if_neg (by simp [off]), rfl, rfl, rfl, rfl, rfl, rfl, rfl, rfl, rfl, rfl, rfl, rfl, rfl, rfl, rfl, rfl⟩
  · exact ⟨_, if_neg (by simp [run]), rfl, rfl, rfl, rfl, rfl, rfl, rfl, rfl, rfl, rfl, rfl, rfl, rfl, rfl, rfl⟩

/-! ## What signals change (R325) -/

/-- The operation changes the pending vectors and what has left the package alone. -/
def State.Signalled (s t : State) : Prop :=
  t = { s with host := { s.host with a := t.host.a, b := t.host.b }, out := t.out }
  ∧ ∀ q, t.port q = { s.port q with pba := (t.port q).pba }

namespace State.Signalled
variable {s t u : State}

theorem refl (s : State) : s.Signalled s := ⟨rfl, fun _ => rfl⟩

theorem trans (h : s.Signalled t) (g : t.Signalled u) : s.Signalled u := by
  obtain ⟨h, hp⟩ := h
  obtain ⟨g, gp⟩ := g
  exact ⟨by rw [g, h], fun q => by rw [gp, hp]⟩

theorem time (h : s.Signalled t) : t.time = s.time := (congrArg State.time h.1 :)
theorem clk (h : s.Signalled t) : t.clk = s.clk := (congrArg State.clk h.1 :)
theorem grist (h : s.Signalled t) : t.grist = s.grist := (congrArg State.grist h.1 :)
theorem tuns (h : s.Signalled t) : t.tuns = s.tuns := (congrArg State.tuns h.1 :)
theorem sqs (h : s.Signalled t) : t.sqs = s.sqs := (congrArg State.sqs h.1 :)
theorem hbm (h : s.Signalled t) : t.hbm = s.hbm := (congrArg State.hbm h.1 :)
theorem hbmFill (h : s.Signalled t) : t.hbmFill = s.hbmFill := (congrArg State.hbmFill h.1 :)
theorem streams (h : s.Signalled t) : t.streams = s.streams := (congrArg State.streams h.1 :)
theorem fault (h : s.Signalled t) : t.fault = s.fault := (congrArg State.fault h.1 :)
theorem power (h : s.Signalled t) : t.power = s.power := (congrArg State.power h.1 :)
theorem sec (h : s.Signalled t) : t.sec = s.sec := (congrArg State.sec h.1 :)
theorem now (h : s.Signalled t) : t.now = s.now := congrArg Clocks.ticks h.clk
theorem holder (h : s.Signalled t) : t.host.holder = s.host.holder := (congrArg (·.host.holder) h.1 :)
theorem last (h : s.Signalled t) : t.host.last = s.host.last := (congrArg (·.host.last) h.1 :)
theorem changes (h : s.Signalled t) : t.host.changes = s.host.changes := (congrArg (·.host.changes) h.1 :)
theorem lostAt (h : s.Signalled t) : t.host.lostAt = s.host.lostAt := (congrArg (·.host.lostAt) h.1 :)

theorem req (h : s.Signalled t) (p : HostPort) : t.host.req p = s.host.req p := by
  rw [h.1]
  cases p <;> rfl

theorem lost (h : s.Signalled t) (p : HostPort) : (t.port p).lost = (s.port p).lost := by
  rw [h.2]
  rfl

end State.Signalled

section
variable (s : State) (p : HostPort) (v : Nat)

theorem modPba_signalled (f : Tab Bool → Tab Bool) : s.Signalled (s.modPort p fun x => { x with pba := f x.pba }) := by
  cases p <;> exact ⟨rfl, fun q => by cases q <;> rfl⟩

theorem signal_signalled : s.Signalled (s.signal p v) := by
  unfold State.signal
  dsimp only
  split
  · exact modPba_signalled s p (Tab.set false · v true)
  · exact ⟨rfl, fun _ => rfl⟩

theorem signalBoth_signalled : s.Signalled (s.signalBoth v) := (signal_signalled ..).trans (signal_signalled ..)

theorem flushVector_signalled : s.Signalled (s.flushVector p v) := by
  unfold State.flushVector
  dsimp only
  split
  · exact (modPba_signalled s p (Tab.set false · v false)).trans (signal_signalled ..)
  · exact .refl s

theorem flushVectors_signalled (l : Tab Bool) : s.Signalled (l.foldl (fun s e => s.flushVector p e.1) s) := by
  induction l generalizing s with
  | nil => exact .refl s
  | cons e l ih => exact (flushVector_signalled s p e.1).trans (ih _)

/-! ## The token (R330) -/

/-- The host state once HOLDER is `h` for the cause `last` (R330, R331). -/
def State.heldBy (s : State) (h last : Nat) : HostSt :=
  let x := { s.host with
    holder := h, last := last, changes := (s.host.changes + 1) % 65536
    lostAt := if h != 0 && (s.port (portOf h)).lost then some s.now else none }
  if h == 0 then x else x.setReq (portOf h) false

variable {s}

/-- HOLDER changes, and both ports are told (R330). -/
theorem setHolder_eq {h : Nat} (other : s.host.holder ≠ h) (last : Nat) :
    s.setHolder h last = State.signalBoth { s with host := s.heldBy h last } 2047 := by
  unfold State.setHolder
  rw [if_neg (show ¬(s.host.holder == h) = true by simpa using other)]
  unfold State.heldBy
  dsimp only
  split <;> rfl

theorem setHolder_signalled {h : Nat} (other : s.host.holder ≠ h) (last : Nat) :
    State.Signalled { s with host := s.heldBy h last } (s.setHolder h last) := by
  rw [setHolder_eq other]
  exact signalBoth_signalled ..

/-- A port that configuration requests reach has no posted write waiting (R325). -/
theorem posted_of_config {p : HostPort} (h : s.portConfig p = true) : (s.port p).posted = [] := by
  unfold State.portConfig at h
  simp only [Bool.and_eq_true, List.isEmpty_iff] at h
  exact h.2

theorem tokenCommand_of_config {p : HostPort} (h : s.portConfig p = true) (act : State → State) :
    s.tokenCommand p act = act s := by
  unfold State.tokenCommand
  rw [flushPosted_of_nil (posted_of_config h), if_pos h]

theorem portNum_ne_zero (p : HostPort) : portNum p ≠ 0 := by cases p <;> decide
theorem portOf_portNum (p : HostPort) : portOf (portNum p) = p := by cases p <;> rfl
theorem portNum_other_ne (p : HostPort) : portNum (portOther p) ≠ portNum p := by cases p <;> decide

/-- The port that takes the token requests it no more (R330). -/
theorem heldBy_req (s : State) (p : HostPort) (last : Nat) : (s.heldBy (portNum p) last).req p = false := by
  cases p <;> rfl

theorem heldBy_none (s : State) (last : Nat) (p : HostPort) : (s.heldBy 0 last).req p = s.host.req p := by
  cases p <;> rfl

theorem heldBy_holder (s : State) (h last : Nat) : (s.heldBy h last).holder = h ∧ (s.heldBy h last).last = last
    ∧ (s.heldBy h last).changes = (s.host.changes + 1) % 65536 := by
  unfold State.heldBy HostSt.setReq
  dsimp only
  split
  · exact ⟨rfl, rfl, rfl⟩
  · split <;> exact ⟨rfl, rfl, rfl⟩

end

/-- What a change of HOLDER leaves in the token. -/
theorem setHolder_token {s : State} {h : Nat} (other : s.host.holder ≠ h) (last : Nat) :
    (s.setHolder h last).host.holder = h ∧ (s.setHolder h last).host.last = last
    ∧ (s.setHolder h last).host.changes = (s.host.changes + 1) % 65536 := by
  have told := setHolder_signalled other last
  rw [told.holder, told.last, told.changes]
  exact heldBy_holder s h last

/-- RELEASE by the holder frees the token, which a requesting port then takes (R330). -/
theorem releaseToken_eq {s : State} {p : HostPort} (mine : s.host.holder = portNum p) (last : Nat) :
    s.releaseToken p last = if s.host.req (portOther p) then (s.setHolder 0 last).setHolder (portNum (portOther p)) 1
      else s.setHolder 0 last := by
  have other : s.host.holder ≠ 0 := mine ▸ portNum_ne_zero p
  unfold State.releaseToken
  rw [if_neg (by simp [mine])]
  dsimp only
  rw [(setHolder_signalled other last).req, heldBy_none]

/-- Settles O13: each token command is its own change of the token, told to both ports. -/
theorem tokenCommands : Obligations.TokenCommands := by
  unfold Obligations.TokenCommands
  intro s p config
  have acts (act : State → State) : (.next (s.tokenCommand p act) : Out) = .next (act s) :=
    congrArg _ (tokenCommand_of_config config act)
  refine ⟨fun free => ?_, fun held quiet => ?_, fun mine asked => ?_, fun mine => ⟨?_, ?_, ?_, fun quiet => ?_, fun asked => ?_⟩⟩
  · have other : s.host.holder ≠ portNum p := free ▸ (portNum_ne_zero p).symm
    obtain ⟨holder, last, changes⟩ := setHolder_token other 1
    have told := setHolder_signalled other 1
    exact ⟨_, (acts _).trans (congrArg _ (if_pos (beq_iff_eq.mpr free))), holder, last, changes, told.time, told.grist,
      told.hbm, told.fault⟩
  · refine (acts _).trans (congrArg _ ((if_neg ?_).trans (if_neg ?_)))
    · rw [held]
      simpa using portNum_ne_zero _
    · rw [held, quiet]
      simpa using portNum_other_ne p
  · have other : s.host.holder ≠ portNum (portOther p) := mine ▸ (portNum_other_ne p).symm
    obtain ⟨holder, last, -⟩ := setHolder_token other 2
    refine ⟨_, (acts _).trans (congrArg _ (if_pos ?_)), holder, last, ?_⟩
    · rw [asked]
      simpa using mine
    · rw [(setHolder_signalled other 2).req]
      exact heldBy_req ..
  · exact (acts _).trans (congrArg _ (if_pos (beq_iff_eq.mpr mine)))
  · exact (acts _).trans (congrArg _ (if_pos (beq_iff_eq.mpr mine)))
  · exact (acts _).trans (congrArg _ (if_pos (beq_iff_eq.mpr mine)))
  · have other : s.host.holder ≠ 0 := mine ▸ portNum_ne_zero p
    have run := (acts fun s => s.releaseToken p 3).trans (congrArg _ ((releaseToken_eq mine 3).trans (if_neg (by simp [quiet]))))
    exact ⟨_, run, setHolder_token other 3⟩
  · have other : (s.setHolder 0 3).host.holder ≠ portNum (portOther p) := by
      rw [(setHolder_token (mine ▸ portNum_ne_zero p) 3).1]
      exact (portNum_ne_zero _).symm
    have run := (acts fun s => s.releaseToken p 3).trans (congrArg _ ((releaseToken_eq mine 3).trans (if_pos asked)))
    obtain ⟨holder, last, -⟩ := setHolder_token other 1
    exact ⟨_, run, holder, last, ((setHolder_signalled other 1).req _).trans (heldBy_req ..)⟩

/-! ## The links of the ports (R331, R343) -/

section
variable (s : State) (p : HostPort) (f : PortSt → PortSt)

@[simp] theorem modPort_lostAt : (s.modPort p f).host.lostAt = s.host.lostAt := by cases p <;> rfl
@[simp] theorem modPort_now : (s.modPort p f).now = s.now := by cases p <;> rfl

theorem portOther_ne : portOther p ≠ p := by cases p <;> decide

theorem holderLost_frame : ∃ x, s.holderLost p = { s with host := { s.host with lostAt := x } }
    ∧ x = if s.host.holder = portNum p then some (s.host.lostAt.getD s.now) else s.host.lostAt := by
  unfold State.holderLost
  split
  · next h =>
    simp only [Bool.and_eq_true, beq_iff_eq, Option.isNone_iff_eq_none] at h
    obtain ⟨mine, none⟩ := h
    exact ⟨_, rfl, by rw [if_pos mine, none]; rfl⟩
  · next h =>
    refine ⟨_, rfl, ?_⟩
    split
    · next mine =>
      cases runs : s.host.lostAt with
      | none => exact absurd (by simp [mine, runs]) h
      | some n => rfl
    · rfl

theorem holderBack_frame : ∃ x, s.holderBack p = { s with host := { s.host with lostAt := x } }
    ∧ ((s.port p).lost = false → x = if s.host.holder = portNum p then none else s.host.lostAt) := by
  unfold State.holderBack
  split
  · next h =>
    rw [Bool.and_eq_true, beq_iff_eq] at h
    exact ⟨_, rfl, fun _ => (if_pos h.1).symm⟩
  · next h =>
    refine ⟨_, rfl, fun back => (if_neg fun mine => h ?_).symm⟩
    simp [mine, back]

/-- A configuration that a host programs, and the vectors that may then be sent (R325). -/
theorem configured_signalled (cfg : PciCfg) (clr : AerClear) : State.Signalled
    (s.modPort p fun x => { x with pci := cfg, aer := x.aer &&& ~~~clr.unc, aerCor := x.aerCor &&& ~~~clr.cor })
    (s.configured p cfg clr) := flushVectors_signalled ..

theorem configured_out {s : State} {p : HostPort} (none : (s.port p).pba = []) (cfg : PciCfg) (clr : AerClear) :
    (s.configured p cfg clr).out = s.out := by
  unfold State.configured
  dsimp only
  rw [modPort_port_same]
  dsimp only
  rw [none]
  exact State.modPort_out ..

end

section
variable {s : State} {p : HostPort} (on : s.on = true)
include on

theorem hostLinkDown_answers (up : (s.port p).linkUp = true) : Answers (.hostLinkDown p) s fun t =>
    (t.port p).linkUp = false ∧ (t.port p).speed = 0 ∧ t.port (portOther p) = s.port (portOther p)
      ∧ t.host.holder = s.host.holder
      ∧ t.host.lostAt = (if s.host.holder = portNum p then some (s.host.lostAt.getD s.now) else s.host.lostAt) := by
  have run : exec (.hostLinkDown p) s = _ := if_neg (by simp [on, up])
  obtain ⟨x, lost, at_⟩ := holderLost_frame (s.modPort p fun x => { x with linkUp := false, speed := 0, width := 0 }) p
  rw [modPort_lostAt, State.modPort_holder, modPort_now] at at_
  rw [lost] at run
  have mine := modPort_port_same s p fun x => { x with linkUp := false, speed := 0, width := 0 }
  refine ⟨_, run, (congrArg PortSt.linkUp mine :), (congrArg PortSt.speed mine :),
    modPort_port_other s _ (portOther_ne p), State.modPort_holder .., at_⟩

theorem hostLinkUp_answers (speed width : Nat) (cfg : PciCfg) (clr : AerClear) (step : 3 ≤ s.power.step)
    (perst : (s.port p).perst = false) (live : (s.port p).inReset = false) :
    Answers (.hostLinkUp p speed ⟨width, cfg, clr⟩) s fun t =>
      (t.port p).linkUp = true ∧ (t.port p).speed = speed % 16 ∧ (t.port p).width = width % 64 ∧ (t.port p).pci = cfg
        ∧ (t.port p).aer = (s.port p).aer &&& ~~~clr.unc ∧ (t.port p).aerCor = (s.port p).aerCor &&& ~~~clr.cor
        ∧ t.host.lostAt = (if s.host.holder = portNum p then none else s.host.lostAt)
        ∧ t.hbm = s.hbm ∧ ((s.port p).pba = [] → t.out = s.out) := by
  have run : exec (.hostLinkUp p speed ⟨width, cfg, clr⟩) s = _ :=
    if_neg (by simp [on, perst, live, Nat.not_lt.mpr step])
  dsimp only at run
  generalize hu : (s.modPort p fun x => { x with linkUp := true, speed := speed % 16, width := width % 64 }) = u at run
  have port : u.port p = { s.port p with linkUp := true, speed := speed % 16, width := width % 64 } := by
    rw [← hu, modPort_port_same]
  have told := configured_signalled u p cfg clr
  have config : (u.configured p cfg clr).port p = { s.port p with
      linkUp := true, speed := speed % 16, width := width % 64, pci := cfg
      aer := (s.port p).aer &&& ~~~clr.unc, aerCor := (s.port p).aerCor &&& ~~~clr.cor
      pba := ((u.configured p cfg clr).port p).pba } := by
    rw [told.2, modPort_port_same, port]
  obtain ⟨x, back, at_⟩ := holderBack_frame (u.configured p cfg clr) p
  have at_ := at_ (by rw [config]; simp [PortSt.lost, perst, live])
  rw [told.lostAt, told.holder, modPort_lostAt, State.modPort_holder, ← hu, modPort_lostAt, State.modPort_holder] at at_
  rw [back] at run
  refine ⟨_, run, (congrArg PortSt.linkUp config :), (congrArg PortSt.speed config :), (congrArg PortSt.width config :),
    (congrArg PortSt.pci config :), (congrArg PortSt.aer config :), (congrArg PortSt.aerCor config :), at_, ?_, fun none => ?_⟩
  · refine told.hbm.trans ((State.modPort_hbm ..).trans ?_)
    rw [← hu, State.modPort_hbm]
  · refine (configured_out ?_ cfg clr).trans ?_
    · rw [port, none]
    · rw [← hu, State.modPort_out]

/-- 100 ms after the holder's link was lost, the other port takes the token unless it is lost too (R331). -/
theorem tokenTakeover_answers {at_ : Nat} (lost : s.host.lostAt = some at_) (auto : s.host.auto = true)
    (mine : s.host.holder = portNum p) : Answers .tokenTakeover s fun t =>
      t.host.last = 4 ∧ t.now = max s.now (at_ + 400000000)
        ∧ t.host.holder = (if (s.port (portOther p)).lost then 0 else portNum (portOther p)) := by
  have run : exec .tokenTakeover s = .next ((s.after (at_ + takeoverTicks)).setHolder
      (if (s.port (portOther p)).lost then 0 else portNum (portOther p)) 4) := by
    have now := after_later s (at_ + takeoverTicks)
    obtain ⟨n, k, g, c, after⟩ := now
    change execTokenTakeover s = _
    unfold execTokenTakeover
    rw [lost]
    dsimp only
    rw [if_neg (by simp [on, auto, mine, portNum_ne_zero]), after, mine, portOf_portNum]
    rfl
  have now := after_now s (at_ + takeoverTicks)
  obtain ⟨n, k, g, c, after⟩ := after_later s (at_ + takeoverTicks)
  rw [after] at run now
  generalize target : (if (s.port (portOther p)).lost then 0 else portNum (portOther p)) = h at run ⊢
  have other : (s.later n k g c).host.holder ≠ h := by
    change s.host.holder ≠ h
    rw [mine, ← target]
    split
    · exact portNum_ne_zero p
    · exact (portNum_other_ne p).symm
  obtain ⟨holder, last, -⟩ := setHolder_token other 4
  exact ⟨_, run, last, (setHolder_signalled other 4).now.trans now, holder⟩

end

/-- Settles O14. -/
theorem hostLinks : Obligations.HostLinks := by
  unfold Obligations.HostLinks
  intro s p on
  refine ⟨hostLinkDown_answers on, fun speed width cfg clr => hostLinkUp_answers on speed width cfg clr,
    fun at_ => tokenTakeover_answers on, fun bit => if_neg (by simp [on]), fun lock => ?_, fun v config => ?_⟩
  · exact ⟨_, if_neg (by simp [on]), rfl, rfl, rfl⟩
  · change execHstVsBadWrite p v s = _
    unfold execHstVsBadWrite
    rw [flushPosted_of_nil (posted_of_config config)]
    exact if_neg (by simp [config])

end Sys2Proof.Machine

namespace Sys2Proof.Machine

/-! # Kettles, boot and Standby (R388 to R395) -/

/-! ## What waiting posted writes change (R328) -/

/-- The state but for what the writes of a host to HBM change: its ports and what `State.steady` leaves out. -/
def State.unwritten (s : State) : State := { s.steady with host := {} }

section
variable (s : State) (p : HostPort)

theorem modPort_unwritten (f : PortSt → PortSt) : (s.modPort p f).unwritten = s.unwritten := by cases p <;> rfl

theorem windowWrite_unwritten (w : PostedWrite) : (s.windowWrite p w).unwritten = s.unwritten := by
  have bad (b : Nat) : (s.badAccess p b).unwritten = s.unwritten := by
    unfold State.badAccess
    split
    · rfl
    · exact modPort_unwritten ..
  unfold State.windowWrite
  split
  · exact bad 3
  · split
    · exact bad 2
    · exact congrArg (fun x => { x with host := {} }) (ctlWrite_steady ..)

theorem performPosted_unwritten : (s.performPosted p).unwritten = s.unwritten := by
  refine foldl_leaves (fun u w => ?_) _ s
  split
  · exact (windowWrite_unwritten ..).trans (modPort_unwritten ..)
  · rfl

theorem performWaiting_unwritten : s.performWaiting.unwritten = s.unwritten :=
  (performPosted_unwritten ..).trans (performPosted_unwritten ..)

theorem performWaiting_power : s.performWaiting.power = s.power := (congrArg State.power (performWaiting_unwritten s) :)
theorem performWaiting_now : s.performWaiting.now = s.now := (congrArg State.now (performWaiting_unwritten s) :)

theorem performPosted_of_none {s : State} {p : HostPort} (h : (s.port p).posted = []) : s.performPosted p = s := by
  unfold State.performPosted
  rw [h]
  rfl

/-- Nothing that waits at the ports is performed where nothing waits. -/
theorem performWaiting_of_none {s : State} (a : s.host.a.posted = []) (b : s.host.b.posted = []) : s.performWaiting = s := by
  unfold State.performWaiting
  rw [performPosted_of_none (p := .a) a, performPosted_of_none (p := .b) b]

end

/-! ## Kettles that doze and wake (R388, R389) -/

section
variable (s : State)

theorem foldl_power {α : Type} {f : State → α → State} (h : ∀ u a, (f u a).power = u.power) (l : List α) (s : State) :
    (l.foldl f s).power = s.power :=
  foldl_leaves (g := State.power) h l s

theorem flushCrossings_power (t : Nat) (gone : Nat → Bool) : (s.flushCrossings t gone).power = s.power := by
  unfold State.flushCrossings
  refine foldl_power (fun u e => ?_) _ s
  dsimp only
  repeat' split
  all_goals rfl

theorem islandTun_power (t : Nat) (b : Bool) : (s.islandTun t b).power = s.power :=
  (congrArg State.power (dropFar_streamFrame _ t) :).trans (congrArg State.power (closeStreams_streamFrame s t) :)

theorem kettleStacks_power (k : Nat) (a b : HbmPhase) : (s.kettleStacks k a b).power = s.power :=
  foldl_power (fun u _ => State.modCtl_power u _ _) _ s

theorem cutTun_power (t : Nat) : (s.cutTun t).power = s.power := rfl
theorem unforce_power (src n : Nat) : (s.unforce src n).power = s.power := rfl

/-- The power state with the kettles and the wakes given. -/
def Power.withKettles (p : Power) (ks : Tab KettlePhase) (ws : List Nat) : Power := { p with kettles := ks, waking := ws }

theorem dozeKettle_power (k : Nat) : (s.dozeKettle k).power =
    s.power.withKettles (Tab.set .active s.power.kettles k .doze) (s.power.waking.filter (· != k)) := by
  unfold State.dozeKettle
  dsimp only
  rw [State.modPower_power, kettleStacks_power, foldl_power (fun u _ => State.modCtl_power u _ _), unforce_power,
    unforce_power, foldl_power fun u t => (islandTun_power ..).trans ((cutTun_power ..).trans (flushCrossings_power ..))]
  rfl

theorem dozeKettle_hbm (k : Nat) : (s.dozeKettle k).hbm = s.hbm := hbm_eq_of_stillPart (dozeKettle_stillPart s k)

/-- The kettles of the list doze, and nothing else of the power state but the wakes under way changes. -/
theorem dozeKettles_power (l : List Nat) : ∃ ks ws, (l.foldl State.dozeKettle s).power = s.power.withKettles ks ws
    ∧ ∀ j, Tab.get .active ks j = if j ∈ l then .doze else Tab.get .active s.power.kettles j := by
  induction l generalizing s with
  | nil => exact ⟨s.power.kettles, s.power.waking, rfl, fun j => (if_neg List.not_mem_nil).symm⟩
  | cons k l ih =>
    obtain ⟨ks, ws, power, doze⟩ := ih (s.dozeKettle k)
    rw [dozeKettle_power] at power doze
    dsimp only [Power.withKettles] at doze
    rw [List.foldl_cons]
    refine ⟨ks, ws, power, fun j => (doze j).trans ?_⟩
    by_cases later : j ∈ l
    · rw [if_pos later, if_pos (.tail _ later)]
    · rw [if_neg later]
      by_cases here : j = k
      · rw [here, if_pos (.head _), Tab.get_set_same]
      · rw [if_neg (by simp [here, later]), Tab.get_set_other _ _ _ here]

/-- The kettles of the list begin to wake. -/
def State.wakes (s : State) (l : List Nat) : State :=
  l.foldl (fun s k => if s.kettle k == .doze then s.modPower fun p => { p with waking := insNat k p.waking } else s) s

theorem wakes_frame (l : List Nat) : ∃ ws, s.wakes l = s.modPower (fun p => { p with waking := ws })
    ∧ ∀ j, j ∈ ws ↔ j ∈ s.power.waking ∨ (j ∈ l ∧ s.kettle j = .doze) := by
  induction l generalizing s with
  | nil => exact ⟨s.power.waking, rfl, fun j => by simp⟩
  | cons k l ih =>
    unfold State.wakes
    rw [List.foldl_cons]
    split
    · next dozes =>
      obtain ⟨ws, frame, mem⟩ := ih (s.modPower fun p => { p with waking := insNat k p.waking })
      refine ⟨ws, frame, fun j => (mem j).trans ?_⟩
      have same : (s.modPower fun p => { p with waking := insNat k p.waking }).kettle j = s.kettle j := rfl
      rw [same, State.modPower_power, mem_insNat, List.mem_cons]
      have dozes := eq_of_beq dozes
      constructor
      · rintro ((rfl | old) | ⟨later, doze⟩)
        · exact .inr ⟨.inl rfl, dozes⟩
        · exact .inl old
        · exact .inr ⟨.inr later, doze⟩
      · rintro (old | ⟨rfl | later, doze⟩)
        · exact .inl (.inr old)
        · exact .inl (.inl rfl)
        · exact .inr ⟨later, doze⟩
    · next awake =>
      obtain ⟨ws, frame, mem⟩ := ih s
      refine ⟨ws, frame, fun j => (mem j).trans ?_⟩
      rw [List.mem_cons]
      constructor
      · rintro (old | ⟨later, doze⟩)
        · exact .inl old
        · exact .inr ⟨.inr later, doze⟩
      · rintro (old | ⟨rfl | later, doze⟩)
        · exact .inl old
        · exact absurd (beq_iff_eq.mpr doze) awake
        · exact .inr ⟨later, doze⟩

end

section
variable {s : State} {p : HostPort} (hm : s.mayWrite p 0x6002C = true)
include hm

/-- DOZE refuses a kettle of the mask (R389). -/
def State.refusesDoze (s : State) (mask : BitVec 4) : Bool :=
  (kettlesOf mask).any fun k => !s.asleep k && (s.kettleBusy k || s.kettleStreaming k)

theorem exec_doze (mask : BitVec 4) : exec (.doze p mask) s = .next
    ((((kettlesOf mask).filter fun k => !s.asleep k).filter fun k => !(s.kettleBusy k || s.kettleStreaming k)).foldl
      State.dozeKettle (if ((kettlesOf mask).filter fun k => !s.asleep k).any (fun k => s.kettleBusy k || s.kettleStreaming k)
        then s.pwrRefuse else s)) :=
  congrArg Host.Outcome.next (hostWrite_acts hm (fun _ => by simp [blockOf]) _)

theorem exec_wake (mask : BitVec 4) : exec (.wake p mask) s = .next (s.wakes (kettlesOf mask)) :=
  congrArg Host.Outcome.next (hostWrite_acts hm (fun _ => by simp [blockOf]) _)

omit hm in
theorem kettle_of_lit {s : State} {k : Nat} (h : (s.power.tripped || s.power.standby) = false) :
    s.kettle k = Tab.get .active s.power.kettles k :=
  if_neg (by simp [h])

theorem doze_answers (mask : BitVec 4) : Answers (.doze p mask) s fun t => t.hbm = s.hbm
    ∧ t.power.refused = (s.power.refused
        || (kettlesOf mask).any fun k => !s.asleep k && (s.kettleBusy k || s.kettleStreaming k))
    ∧ (∀ k ∈ kettlesOf mask, s.asleep k = false →
        t.kettle k = if s.kettleBusy k = true ∨ s.kettleStreaming k = true then s.kettle k else .doze)
    ∧ (∀ k, k ∉ kettlesOf mask → t.kettle k = s.kettle k) := by
  generalize hu : (if ((kettlesOf mask).filter fun k => !s.asleep k).any (fun k => s.kettleBusy k || s.kettleStreaming k)
    then s.pwrRefuse else s) = u
  have run := hu ▸ exec_doze hm mask
  have hbm : u.hbm = s.hbm := by
    rw [← hu]
    split <;> rfl
  have power : u.power = { s.power with refused := s.power.refused || s.refusesDoze mask } := by
    rw [← hu]
    unfold State.refusesDoze
    rw [← List.any_filter]
    split
    · next refuses => rw [refuses, Bool.or_true]; rfl
    · next quiet => rw [Bool.eq_false_of_not_eq_true quiet, Bool.or_false]
  obtain ⟨ks, ws, after, doze⟩ := dozeKettles_power u
    (((kettlesOf mask).filter fun k => !s.asleep k).filter fun k => !(s.kettleBusy k || s.kettleStreaming k))
  rw [power] at after doze
  refine ⟨_, run, (foldl_leaves dozeKettle_hbm _ u).trans hbm, (congrArg Power.refused after :), fun k named awake => ?_,
    fun k other => ?_⟩
  · have mem : k ∈ ((kettlesOf mask).filter fun k => !s.asleep k).filter (fun k => !(s.kettleBusy k || s.kettleStreaming k))
        ↔ ¬(s.kettleBusy k = true ∨ s.kettleStreaming k = true) := by
      simp [named, awake]
    have lit : (s.power.tripped || s.power.standby) = false := by
      unfold State.asleep State.kettle at awake
      refine Bool.eq_false_of_not_eq_true fun off => ?_
      rw [if_pos off] at awake
      exact absurd awake (by decide)
    rw [kettle_of_lit (by rw [after]; exact lit), kettle_of_lit lit, after]
    refine (doze k).trans ?_
    by_cases busy : s.kettleBusy k = true ∨ s.kettleStreaming k = true
    · rw [if_neg (mem.not.mpr (not_not.mpr busy)), if_pos busy]
    · rw [if_pos (mem.mpr busy), if_neg busy]
  · have same : Tab.get .active ks k = Tab.get .active s.power.kettles k := (doze k).trans (if_neg (by simp [other]))
    unfold State.kettle
    rw [after]
    exact congrArg (fun x => if s.power.tripped || s.power.standby then .off else x) same

omit hm in
theorem kettlesOf_single (k : Fin 4) : kettlesOf (BitVec.ofNat 4 (2 ^ k.val)) = [k.val] := by
  revert k
  decide

theorem doze_single (k : Fin 4) (awake : s.asleep k = false) (idle : s.kettleBusy k = false)
    (still : s.kettleStreaming k = false) : Answers (.doze p (BitVec.ofNat 4 (2 ^ k.val))) s fun t =>
      t.kettle k = .doze ∧ t.power.refused = s.power.refused ∧ t.hbm = s.hbm := by
  refine (doze_answers hm _).imp fun t ⟨hbm, refused, dozes, _⟩ => ?_
  rw [kettlesOf_single] at refused dozes
  exact ⟨(dozes k (.head _) awake).trans (if_neg (by simp [idle, still])), by simpa [idle, still] using refused, hbm⟩

theorem wake_answers (mask : BitVec 4) : Answers (.wake p mask) s fun t =>
    (∀ k ∈ kettlesOf mask, s.kettle k = .doze → k ∈ t.power.waking) ∧ t.tuns = s.tuns ∧ t.hbm = s.hbm := by
  obtain ⟨ws, frame, mem⟩ := wakes_frame s (kettlesOf mask)
  have run := exec_wake hm mask
  rw [frame] at run
  exact ⟨_, run, fun k named dozes => (mem k).mpr (.inr ⟨named, dozes⟩), rfl, rfl⟩

end

theorem wakeKettle_frame (s : State) (k : Nat) : ∃ us cs, s.wakeKettle k = { s with
    tuns := us, ctls := cs
    power := { s.power with
      kettles := Tab.set .active s.power.kettles k .active, waking := s.power.waking.filter (· != k)
      restored := s.power.restored ||| 1 } } := by
  have tuns (l : List Nat) (s : State) : ∃ us, l.foldl (fun s t => s.modTun t fun u =>
      { u with phase := s.restPhase t, restored := u.restored || !s.forwardOnly t }) s = { s with tuns := us } := by
    induction l generalizing s with
    | nil => exact ⟨_, rfl⟩
    | cons t l ih => exact ih _
  have ctls (l : List Nat) (s : State) : ∃ cs, l.foldl (fun s i => s.modCtl (4 * k + i) fun c =>
      if c.phase == .selfRefresh then { c with phase := .ready } else c) s = { s with ctls := cs } := by
    induction l generalizing s with
    | nil => exact ⟨_, rfl⟩
    | cons t l ih => exact ih _
  obtain ⟨us, hu⟩ := tuns (tunsOf k) s
  obtain ⟨cs, hc⟩ := ctls (List.range 4) { s with tuns := us }
  unfold State.wakeKettle State.kettleStacks
  dsimp only
  rw [hu, hc]
  exact ⟨us, cs, rfl⟩

theorem on_of_alive {s : State} (h : s.alive = true) : s.on = true := by
  unfold State.alive at h
  exact ((Bool.and_eq_true ..).mp h).1

theorem not_standby_of_on {s : State} (h : s.on = true) : s.power.standby = false := by
  unfold State.on at h
  simp only [Bool.and_eq_true, Bool.not_eq_true'] at h
  exact h.2

section
variable {s : State} (alive : s.alive = true) (cool : s.power.tripped = false) (k : Fin 4)
include alive cool

theorem kettleWakeComplete_answers (wakes : s.power.waking.contains k.val = true) :
    Answers (.kettleWakeComplete k) s fun t => t.kettle k = .active
      ∧ (s.host.a.posted = [] → s.host.b.posted = [] → t.hbm = s.hbm) := by
  have run : exec (.kettleWakeComplete k) s = .next (s.wakeKettle k).performWaiting := if_pos (by rw [alive, wakes]; rfl)
  obtain ⟨us, cs, frame⟩ := wakeKettle_frame s k
  rw [frame] at run
  refine ⟨_, run, ?_, fun a b => ?_⟩
  · unfold State.kettle
    rw [performWaiting_power]
    dsimp only
    rw [Tab.get_set_same, if_neg (by simp [cool, not_standby_of_on (on_of_alive alive)])]
  · rw [performWaiting_of_none (by exact a) (by exact b)]

theorem kettleIdleEnter_answers (active : s.kettle k = .active) (idle : s.kettleBusy k = false) :
    Answers (.kettleIdleEnter k) s fun t => t.kettle k = .idle ∧ t.tuns = s.tuns ∧ t.hbm = s.hbm := by
  have run : exec (.kettleIdleEnter k) s = _ := if_neg (by simp [alive, active, idle])
  obtain ⟨n, c, g, x, dwell⟩ := dwell_later s (s.kettleQuietAt k) 4000000
  rw [dwell] at run
  refine ⟨_, run, ?_, rfl, rfl⟩
  rw [kettle_of_lit (by simp [State.later, cool, not_standby_of_on (on_of_alive alive)])]
  exact Tab.get_set_same KettlePhase.active .idle ..

end

/-- Settles O19. -/
theorem kettleStates : Obligations.KettleStates := by
  unfold Obligations.KettleStates
  intro s p
  refine ⟨fun mask hm => doze_answers hm mask, fun k hm => doze_single hm k, fun mask hm => wake_answers hm mask,
    fun k hm dozes => (wake_answers hm _).imp fun t ⟨wakes, tuns, _⟩ => ⟨wakes k (by rw [kettlesOf_single]; exact .head _) dozes, tuns⟩,
    fun k alive cool => kettleWakeComplete_answers alive cool k, fun k alive cool => kettleIdleEnter_answers alive cool k⟩

/-! ## Boot (R394, R395) -/

section
variable (s : State)

theorem stackTrained_frame (k : Nat) : (s.stackTrained k).power = s.power ∧ (s.stackTrained k).now = s.now := ⟨rfl, rfl⟩

/-- The work of a step takes no time and leaves whether boot has failed. -/
theorem stepPassed_frame (n : Nat) : (s.stepPassed n).now = s.now ∧ (s.stepPassed n).power.failed = s.power.failed
    ∧ (s.stepPassed n).power.exitStandby = s.power.exitStandby := by
  unfold State.stepPassed
  split
  · dsimp only
    split <;> exact ⟨rfl, rfl, rfl⟩
  · exact ⟨rfl, rfl, rfl⟩
  · have power := foldl_power (fun u k => (stackTrained_frame u k).1) (List.range 16) s
    have now := foldl_leaves (g := State.now) (fun u k => (stackTrained_frame u k).2) (List.range 16) s
    rw [performWaiting_now, performWaiting_power, power]
    exact ⟨now, rfl, rfl⟩
  · exact ⟨rfl, rfl, rfl⟩

theorem modLink_now (p : Nat) (f : Link → Link) : (s.modLink p f).now = s.now := rfl

theorem discSettle_frame : s.discSettle.power = s.power ∧ s.discSettle.now = s.now := by
  unfold State.discSettle
  split <;> exact ⟨rfl, rfl⟩

/-- A step begins now (R394). -/
theorem bootStep_frame (n : Nat) : (s.bootStep n).now = s.now
    ∧ (s.bootStep n).power = { s.power with step := n, stepAt := s.now } := by
  unfold State.bootStep
  extract_lets u
  have hu : u.now = s.now ∧ u.power = { s.power with step := n, stepAt := s.now } := ⟨rfl, rfl⟩
  clear_value u
  obtain ⟨now, power⟩ := hu
  split
  · exact ⟨(foldl_leaves (g := State.now) (fun u k => modCtl_now u k _) _ u).trans now,
      (foldl_power (fun u k => State.modCtl_power u k _) _ u).trans power⟩
  · exact ⟨(foldl_leaves (g := State.now) (fun u k => modLink_now u k _) _ u).trans now,
      (foldl_power (fun u k => State.modLink_power u k _) _ u).trans power⟩
  · exact ⟨(discSettle_frame _).2.trans now, (discSettle_frame _).1.trans power⟩
  · exact ⟨now, power⟩

end

section
variable {s : State} (on : s.on = true) (going : s.power.failed = false) (timed : stepTicks s.power.step ≠ 0) (k : Fin 16)
include on going timed

theorem bootStepEnd_passes : Answers (.bootStepEnd 0 k) s fun t =>
    t.power.step = (if s.power.step = 3 ∧ s.power.exitStandby = true then 5 else s.power.step + 1)
    ∧ t.power.failed = false
    ∧ t.now = (if s.power.step = 8 ∧ s.disc.phase = .done then s.now
        else max s.now (s.power.stepAt + stepTicks s.power.step))
    ∧ t.power.stepAt = t.now := by
  have still : (if s.power.step == 8 && s.disc.phase == .done then s
      else s.after (s.power.stepAt + stepTicks s.power.step)).power = s.power := by
    split
    · rfl
    · obtain ⟨n, c, g, x, after⟩ := after_later s (s.power.stepAt + stepTicks s.power.step)
      rw [after]
      rfl
  have run : exec (.bootStepEnd 0 k) s = .next (((if s.power.step == 8 && s.disc.phase == .done then s
      else s.after (s.power.stepAt + stepTicks s.power.step)).stepPassed s.power.step).bootStep
        (if s.power.step == 3 && s.power.exitStandby then 5 else s.power.step + 1)) := by
    refine (if_neg (by simp [on, going, timed]) : execBootStepEnd 0 k s = _).trans ((if_neg (by decide)).trans ?_)
    unfold State.nextStep
    dsimp only
    rw [still]
  have wait : (if s.power.step == 8 && s.disc.phase == .done then s
      else s.after (s.power.stepAt + stepTicks s.power.step)).now
        = (if s.power.step = 8 ∧ s.disc.phase = .done then s.now else max s.now (s.power.stepAt + stepTicks s.power.step)) := by
    rw [apply_ite State.now, after_now]
    simp
  generalize (if s.power.step == 8 && s.disc.phase == .done then s
    else s.after (s.power.stepAt + stepTicks s.power.step)) = u at run wait still
  obtain ⟨passNow, passFailed, -⟩ := stepPassed_frame u s.power.step
  obtain ⟨now, power⟩ := bootStep_frame (u.stepPassed s.power.step)
    (if s.power.step == 3 && s.power.exitStandby then 5 else s.power.step + 1)
  refine ⟨_, run, ?_, ?_, now.trans (passNow.trans wait), ?_⟩
  · rw [power]
    simp
  · rw [power]
    exact passFailed.trans ((congrArg Power.failed still).trans going)
  · rw [power]
    exact now.symm

theorem bootStepEnd_fails {f : Nat} (fault : f ≠ 0) (here : failStep f = s.power.step) : Answers (.bootStepEnd f k) s fun t =>
    t.power.failed = true ∧ t.power.fail = f ∧ t.power.step = s.power.step ∧ t.fault.drive = true
    ∧ (s.power.step = 6 → (t.ctl k).phase = .failed
        ∧ (t.fault.raised.drop s.fault.raised.length).map (·.src) = [1539 + 4 * k.val])
    ∧ (s.power.step ≠ 6 → t.fault.raised = s.fault.raised) := by
  have run : exec (.bootStepEnd f k) s = _ :=
    (if_neg (by simp [on, going, timed]) : execBootStepEnd f k s = _).trans
      ((if_pos (by simpa using fault)).trans (if_neg (by simpa using here)))
  by_cases six : s.power.step = 6
  · refine ⟨_, run.trans (if_neg (by simp [six])), rfl, rfl, rfl, rfl, fun _ => ⟨?_, ?_⟩, fun other => absurd six other⟩
    · rw [raise_ctl, modCtl_ctl_same]
    · rw [raise_eq]
      dsimp only
      rw [State.modCtl_fault, State.modFault_fault, State.modPower_fault, List.drop_left]
      simp [srcHbm]
      omega
  · exact ⟨_, run.trans (if_pos (by simpa using six)), rfl, rfl, rfl, rfl, fun six' => absurd six' six, fun _ => rfl⟩

end

/-- Settles O24. -/
theorem bootSteps : Obligations.BootSteps := by
  unfold Obligations.BootSteps
  intro s k on
  exact ⟨fun going timed => bootStepEnd_passes on going timed k,
    fun f fault going here timed => bootStepEnd_fails on going timed k fault here,
    fun f failed => if_pos (by simp [failed])⟩

end Sys2Proof.Machine

namespace Sys2Proof.Machine

/-! # Standby (R390, R393) -/

/-! ## The count under a change of parent -/

theorem timePhase_ftc (s : State) (ph : TimePhase) : (s.timePhase ph).time.ftc = s.time.ftc :=
  (congrArg TimeSt.ftc (timePhase_unlocked s ph) :)

theorem chooseParent_ftc (s : State) : s.chooseParent.time.ftc = s.time.ftc := by
  unfold State.chooseParent
  split
  · rfl
  extract_lets roots s1
  have conflict : s1.time.ftc = s.time.ftc := by
    unfold s1
    split <;> rfl
  clear_value s1
  split
  · exact conflict
  · dsimp only
    split
    · exact (timePhase_ftc ..).trans conflict
    · exact (timePhase_ftc ..).trans conflict
    · exact conflict

/-! ## What Standby loses (R393) -/

/-- What a proving run that is cut leaves changed: the health, the faults on their way and the book (R365). -/
theorem proveCut_frame (s : State) : ∃ h f k, s.proveCut = { s with health := h, fault := f, book := k } := by
  unfold State.proveCut
  split
  · obtain ⟨k, event⟩ := bookPut_frame (((s.modHealth fun h =>
      { h with result := 3, elapsed := s.proveSeconds }).raise 1785 0)) (State.bookRec _ 2 5 0xFFFF 0 _)
    exact ⟨_, _, k, event⟩
  · exact ⟨_, _, _, rfl⟩

/-- The stage is empty, and ACTIVE is kept (R391, R393). -/
theorem stageLost_frame (s : State) : ∃ g o h p, s.stageLost = { s with grist := g, out := o, host := h, power := p }
    ∧ g.phase = .empty ∧ g.active = s.grist.active := by
  have phase : ∃ o h, s.gristPhase .empty = { s with grist := { s.grist with phase := .empty }, out := o, host := h } := by
    unfold State.gristPhase
    split
    · next same =>
      rw [← show s.grist.phase = .empty from eq_of_beq same]
      exact ⟨_, _, rfl⟩
    · exact ⟨_, _, (signalBoth_signalled ..).1⟩
  obtain ⟨o, h, phase⟩ := phase
  unfold State.stageLost
  dsimp only
  rw [phase]
  split <;> exact ⟨_, o, h, _, rfl, rfl, rfl⟩

/-- What Standby loses of HBM, the streams and the stream queues, with the grist and the count. -/
def State.standbyPart (s : State) : List Host.Cell × Nat × Tab Stream × Tab StreamQ × GristSt × Nat :=
  (s.hbm, s.hbmFill, s.streams, s.sqs, s.grist, s.time.ftc)

section
variable (s : State)

theorem modCol_standbyPart (f : Collective → Collective) : (s.modCol f).standbyPart = s.standbyPart := rfl
theorem modJournal_standbyPart (f : Journal → Journal) : (s.modJournal f).standbyPart = s.standbyPart := rfl
theorem modSec_standbyPart (f : Sec → Sec) : (s.modSec f).standbyPart = s.standbyPart := rfl
theorem modHost_standbyPart (f : HostSt → HostSt) : (s.modHost f).standbyPart = s.standbyPart := rfl
theorem modHealth_standbyPart (f : Health → Health) : (s.modHealth f).standbyPart = s.standbyPart := rfl
theorem silentDefaults_standbyPart : s.silentDefaults.standbyPart = s.standbyPart := rfl

end

theorem proveCut_standbyPart (s : State) : s.proveCut.standbyPart = s.standbyPart := by
  obtain ⟨_, _, _, cut⟩ := proveCut_frame s
  rw [cut]
  rfl

/-- Every stream queue is at its reset values (R393). -/
theorem queuesReset_standbyPart (s : State) : (s.queuesReset fun _ => true).standbyPart =
    (s.hbm, s.hbmFill, s.streams, [], s.grist, s.time.ftc) := by
  have none : s.sqs.filter (fun e => !(fun _ => true) e.1) = [] := List.filter_eq_nil_iff.mpr fun _ _ => by simp
  unfold State.queuesReset State.standbyPart
  exact congrArg (fun q => (s.hbm, s.hbmFill, s.streams, q, s.grist, s.time.ftc)) none

theorem stageLost_standbyPart {s : State} {l : List Host.Cell} {n k : Nat} {x : Tab Stream} {q : Tab StreamQ} {g : GristSt}
    (h : s.standbyPart = (l, n, x, q, g, k)) : ∃ u, s.stageLost.standbyPart = (l, n, x, q, u, k)
      ∧ u.phase = .empty ∧ u.active = g.active := by
  simp only [State.standbyPart, Prod.mk.injEq] at h
  obtain ⟨rfl, rfl, rfl, rfl, rfl, rfl⟩ := h
  obtain ⟨u, _, _, _, lost, empty, active⟩ := stageLost_frame s
  rw [lost]
  exact ⟨u, rfl, empty, active⟩

/-- The links at their reset values, and the parent that the node then has (R299, R393). -/
theorem linksReset_standbyPart (s : State) (ph : LinkPhase) : (s.linksReset ph).standbyPart = s.standbyPart := by
  refine (foldl_leaves (g := State.standbyPart) (fun u p => ?_) _ _).trans ?_
  · rfl
  · have parent := chooseParent_timeFrame (s.modTime fun t => { t with portNb := [], portRx := [] })
    have count := chooseParent_ftc (s.modTime fun t => { t with portNb := [], portRx := [] })
    unfold State.standbyPart
    rw [count, parent]
    rfl

theorem answers_of_run {c : Instr} {s u : State} {P : State → Prop} (run : exec c s = .next u) (h : ∀ t, t = u → P t) :
    Answers c s P := ⟨u, run, h u rfl⟩

theorem foldl_tunsFrame {g : State → Nat → State} (h : ∀ s t, ∃ us, g s t = { s with tuns := us }) (l : List Nat) (s : State) :
    ∃ us, l.foldl g s = { s with tuns := us } := by
  induction l generalizing s with
  | nil => exact ⟨_, rfl⟩
  | cons t l ih =>
    obtain ⟨us, hu⟩ := h s t
    obtain ⟨vs, hv⟩ := ih { s with tuns := us }
    exact ⟨vs, by rw [List.foldl_cons, hu, hv]⟩

section
variable {s : State} {p : HostPort} (hm : s.mayWrite p 0x6002C = true)
include hm

theorem exec_standby_refused (busy : s.mayStep = false) :
    exec (.standby p) s = .next (s.modPower fun x => { x with refused := true }) :=
  congrArg Host.Outcome.next ((hostWrite_acts hm (fun _ => by simp [blockOf]) _).trans (if_pos (by simp [busy])))

theorem standby_answers (idle : s.mayStep = true) : Answers (.standby p) s fun t =>
    t.power.standby = true ∧ t.hbm = [] ∧ t.hbmFill = 0 ∧ t.streams = [] ∧ t.sqs = [] ∧ t.host.holder = 0
    ∧ t.grist.phase = .empty ∧ t.grist.active = s.grist.active ∧ t.time.ftc = s.time.ftc := by
  have run : exec (.standby p) s = _ := congrArg Host.Outcome.next
    ((hostWrite_acts hm (fun _ => by simp [blockOf]) _).trans (if_neg (by simp [idle])))
  refine answers_of_run run fun t ht => ?_
  clear run
  extract_lets +onlyGivenNames a at ht
  have ha : a.standbyPart = s.standbyPart := proveCut_standbyPart s
  clear_value a
  extract_lets +onlyGivenNames held meas3 loading lostJ b at ht
  have hb : b.standbyPart = a.standbyPart := foldl_leaves (g := State.standbyPart) (f := fun s t =>
    s.modTun t fun _ => { phase := s.restPhase t, spargeFrom := s.now }) (fun _ _ => rfl) (List.range 192) a
  clear_value b
  extract_lets +onlyGivenNames c d at ht
  have hc : (c.maltingsReset.queuesReset fun _ => true).standbyPart = ([], 0, [], [], b.grist, b.time.ftc) :=
    queuesReset_standbyPart ..
  obtain ⟨x, hd, empty, kept⟩ := stageLost_standbyPart hc
  replace hd : d.standbyPart = ([], 0, [], [], x, b.time.ftc) := (linksReset_standbyPart ..).trans hd
  clear_value d
  extract_lets +onlyGivenNames e f at ht
  have hf : f.standbyPart = d.standbyPart := by
    have he : e.standbyPart = d.standbyPart := by
      unfold e
      rw [modSec_standbyPart, silentDefaults_standbyPart, modJournal_standbyPart, modCol_standbyPart]
    unfold f
    split
    · rw [modSec_standbyPart, he]
    · exact he
  clear_value f
  have holder : t.host.holder = 0 := by rw [ht]; rfl
  have standby : t.power.standby = true := by rw [ht]; rfl
  extract_lets +onlyGivenNames g h at ht
  have hh : h.standbyPart = f.standbyPart := (modHealth_standbyPart g _).trans (modHost_standbyPart f _)
  clear_value h
  have hj : t.standbyPart = h.standbyPart := by
    rw [ht]
    rfl
  rw [hh, hf, hd] at hj
  simp only [State.standbyPart, Prod.mk.injEq] at ha hb hj
  obtain ⟨hbm, fill, streams, sqs, grist, ftc⟩ := hj
  obtain ⟨-, -, -, -, gristA, ftcA⟩ := ha
  obtain ⟨-, -, -, -, gristB, ftcB⟩ := hb
  exact ⟨standby, hbm, fill, streams, sqs, holder, grist ▸ empty, by rw [grist, kept, gristB, gristA],
    ftc.trans (ftcB.trans ftcA)⟩

end

/-! ## The end of Standby (R298, R390) -/

/-- The end of Standby: boot from the power ramp, no measurement of firmware in force, HBM as it was. -/
theorem leaveStandby_frame (s : State) : s.leaveStandby.hbm = s.hbm
    ∧ s.leaveStandby.sec = { s.sec with fwValid := false, svn := 0, meas3 := [] }
    ∧ ∃ r, s.leaveStandby.power = { s.power with
        standby := false, step := 2, stepAt := s.now, cause := 6, exitStandby := true, regulated := true, restored := r } := by
  unfold State.leaveStandby
  extract_lets a b c d
  have hc : ∃ us, c = { b with tuns := us } := foldl_tunsFrame (fun _ _ => ⟨_, rfl⟩) _ _
  obtain ⟨us, hc⟩ := hc
  have hd : c.TimeFrame d := (timePhase_timeFrame ..).trans (chooseParent_timeFrame ..)
  have last : c.TimeFrame (if d.timeRoot && d.timeSource == 0 then d.timePhase .locked else d) := by
    split
    · exact hd.trans (timePhase_timeFrame ..)
    · exact hd
  generalize (if d.timeRoot && d.timeSource == 0 then d.timePhase .locked else d) = t at last ⊢
  unfold State.TimeFrame at last
  rw [last, hc]
  exact ⟨rfl, rfl, _, rfl⟩

/-- Settles O22: what Standby loses is `State.standbyPart`, and both wakes are `State.leaveStandby`. -/
theorem standbyAndWake : Obligations.StandbyAndWake := by
  unfold Obligations.StandbyAndWake
  intro s p
  refine ⟨exec_standby_refused, standby_answers, fun on live still => ?_, fun block on still size owner good op => ?_⟩
  · obtain ⟨hbm, sec, _, power⟩ := leaveStandby_frame s
    refine ⟨_, if_pos (by simp [on, live, still]), ?_⟩
    rw [if_pos (by decide)]
    dsimp only
    rw [power, sec]
    exact ⟨rfl, rfl, rfl, rfl, hbm⟩
  · obtain ⟨hbm, sec, _, power⟩ := leaveStandby_frame (s.modSec Sec.counted)
    have owned : s.sec.owner.isEmpty = false := by simpa using owner
    refine ⟨_, (if_neg (by simp [on])).trans (congrArg _ (if_neg (by simp [still, size, owned, good, op]))), ?_⟩
    dsimp only
    rw [power, sec]
    exact ⟨rfl, rfl, rfl, rfl, rfl, hbm⟩

end Sys2Proof.Machine

namespace Sys2Proof.Machine

/-! # The fault block, the cellar book and health (R350 to R365) -/

theorem ite_fst_ne {c : Prop} [Decidable c] {x : Bar0Block} {a b : Bar0Block × Nat} (ha : a.1 ≠ x) (hb : b.1 ≠ x) :
    (if c then a else b).1 ≠ x := by
  split
  · exact ha
  · exact hb

/-- Below BAR0's tun blocks an offset is no tun's (R23). -/
theorem blockOf_ne_tun {off : Nat} (h : off < 0x1000000) (n : Nat) : (blockOf off).1 ≠ .tun n := by
  unfold blockOf
  rw [if_pos h]
  repeat refine ite_fst_ne Bar0Block.noConfusion ?_
  exact Bar0Block.noConfusion

/-! ## The fault block's registers (R351 to R353) -/

section
variable {s : State} {p : HostPort}

/-- A pulse that is requested changes the pulse alone (R352). -/
theorem pulse_frame (s : State) : ∃ x, s.pulse = s.modFault fun f => { f with pulseAt := x } := by
  unfold State.pulse
  split
  · exact ⟨s.fault.pulseAt, rfl⟩
  · exact ⟨_, rfl⟩

/-- The fault state once the faults `l` of the present tick are those since the clear (R351). -/
def FaultSt.sinceClear (f : FaultSt) (l : List (FaultRec × Nat)) : FaultSt :=
  { f with first := l.head?.map (·.1), firstCls := (l.head?.map (·.2)).getD 0, ovf := 1 < l.length, ovfCnt := l.length - 1 }

theorem fltFirstClear_empty (hm : s.mayWrite p 0x40000 = true) (old : ∀ x ∈ s.fault.newest, x.1.at_ ≠ s.now) :
    exec (.fltFirstClear p) s = .next { s with
      fault := { s.fault with first := none, firstCls := 0, ovf := false, ovfCnt := 0 } } := by
  have none : (s.fault.newest.filter fun y => y.1.at_ == s.now) = [] :=
    List.filter_eq_nil_iff.mpr fun x hx => by simpa using old x hx
  refine congrArg Host.Outcome.next ((hostWrite_acts hm (blockOf_ne_tun (by decide)) _).trans ?_)
  dsimp only
  rw [none]
  rfl

theorem exec_fltFirstClear_late (hm : s.mayWrite p 0x40000 = true) {r : FaultRec} {c : Nat} {xs : List (FaultRec × Nat)}
    (late : (s.fault.newest.filter fun y => y.1.at_ == s.now) = (r, c) :: xs) :
    exec (.fltFirstClear p) s = .next (if s.fault.first != some r && c == 1 && bitOf (s.action r.src) 0
      then (s.modFault fun f => f.sinceClear ((r, c) :: xs)).pulse else s.modFault fun f => f.sinceClear ((r, c) :: xs)) := by
  refine congrArg Host.Outcome.next ((hostWrite_acts hm (blockOf_ne_tun (by decide)) _).trans ?_)
  dsimp only
  rw [late]
  rfl

theorem fltFirstClear_latches (hm : s.mayWrite p 0x40000 = true) {x : FaultRec × Nat} {xs : List (FaultRec × Nat)}
    (late : (s.fault.newest.filter fun y => y.1.at_ == s.now) = x :: xs) : Answers (.fltFirstClear p) s fun t =>
      t.fault.first = some x.1 ∧ t.fault.firstCls = x.2 ∧ (t.fault.ovf = true ↔ xs ≠ []) ∧ t.fault.ovfCnt = xs.length
        ∧ t.fault.seen = s.fault.seen ∧ t.fault.raised = s.fault.raised ∧ t.hbm = s.hbm := by
  obtain ⟨r, c⟩ := x
  have more : (decide (1 < xs.length + 1) = true) ↔ xs ≠ [] := by
    rw [decide_eq_true_eq, Nat.lt_add_left_iff_pos, List.length_pos_iff]
  refine ⟨_, exec_fltFirstClear_late hm late, ?_⟩
  split
  · obtain ⟨_, pulse⟩ := pulse_frame (s.modFault fun f => f.sinceClear ((r, c) :: xs))
    rw [pulse]
    exact ⟨rfl, rfl, more, rfl, rfl, rfl, rfl⟩
  · exact ⟨rfl, rfl, more, rfl, rfl, rfl, rfl⟩

end

theorem bitOf_eq_testBit (x i : Nat) : bitOf x i = x.testBit i := by
  rw [Nat.testBit_eq_decide_div_mod_eq]
  rfl

theorem bitOf_or_left {x : Word} {i : Nat} (h : bitOf x.toNat i = true) (y : Word) : bitOf (x ||| y).toNat i = true := by
  rw [bitOf_eq_testBit] at h ⊢
  rw [BitVec.toNat_or, Nat.testBit_or, h, Bool.true_or]

theorem bitOf_or_word (x : Word) {b : Nat} (hb : b < 32) : bitOf (x ||| word (2 ^ b)).toNat b = true := by
  have small : 2 ^ b < 2 ^ 32 := Nat.pow_lt_pow_right (by decide) hb
  rw [bitOf_eq_testBit, BitVec.toNat_or, Nat.testBit_or]
  unfold word
  rw [BitVec.toNat_ofNat, Nat.mod_eq_of_lt small, Nat.testBit_two_pow_self, Bool.or_true]

/-- A force bit written 1 (R353). -/
def State.forceBit (s : State) (w : Nat) (v : Word) (b : Nat) : State :=
  let n := 32 * w + b
  let bit : Word := word (2 ^ b)
  if !bitOf v.toNat b || !forcible n || bitOf (Tab.get 0 s.fault.force w).toNat b then s else
  s.modFault fun f =>
    { f with force := Tab.mod 0 f.force w fun x => x ||| bit,
             raised := f.raised ++ [{ src := n, stamp := s.time.ftc + 1, detail := 0xFFFFFFFF, forced := true, at_ := s.now + 1 }] }

/-- Only the force bits and the faults on their way change, and no force bit is lost. -/
theorem forceBit_frame (s : State) (w : Nat) (v : Word) (b : Nat) :
    (∃ x y, s.forceBit w v b = s.modFault fun f => { f with force := x, raised := y })
    ∧ (∀ i, bitOf (Tab.get 0 s.fault.force w).toNat i = true → bitOf (Tab.get 0 (s.forceBit w v b).fault.force w).toNat i = true)
    ∧ (b < 32 → bitOf v.toNat b = true → forcible (32 * w + b) = true →
        bitOf (Tab.get 0 (s.forceBit w v b).fault.force w).toNat b = true) := by
  unfold State.forceBit
  dsimp only
  split
  · next stays =>
    refine ⟨⟨s.fault.force, s.fault.raised, rfl⟩, fun _ h => h, fun _ written can => ?_⟩
    simpa [written, can] using stays
  · refine ⟨⟨_, _, rfl⟩, fun i h => ?_, fun hb _ _ => ?_⟩
    · rw [State.modFault_fault, Tab.get_mod_same]
      exact bitOf_or_left h _
    · rw [State.modFault_fault, Tab.get_mod_same]
      exact bitOf_or_word _ hb

theorem forceBits_frame (w : Nat) (v : Word) (l : List Nat) (s : State) :
    (∃ x y, l.foldl (fun s b => s.forceBit w v b) s = s.modFault fun f => { f with force := x, raised := y })
    ∧ (∀ i, bitOf (Tab.get 0 s.fault.force w).toNat i = true →
        bitOf (Tab.get 0 (l.foldl (fun s b => s.forceBit w v b) s).fault.force w).toNat i = true)
    ∧ ∀ b ∈ l, b < 32 → bitOf v.toNat b = true → forcible (32 * w + b) = true →
        bitOf (Tab.get 0 (l.foldl (fun s b => s.forceBit w v b) s).fault.force w).toNat b = true := by
  induction l generalizing s with
  | nil => exact ⟨⟨s.fault.force, s.fault.raised, rfl⟩, fun _ h => h, fun _ h => absurd h List.not_mem_nil⟩
  | cons b l ih =>
    obtain ⟨⟨x, y, frame⟩, keeps, sets⟩ := forceBit_frame s w v b
    obtain ⟨⟨x', y', frame'⟩, keeps', sets'⟩ := ih (s.forceBit w v b)
    rw [List.foldl_cons]
    refine ⟨⟨x', y', by rw [frame', frame]; rfl⟩, fun i h => keeps' i (keeps i h), fun i hi hb written can => ?_⟩
    obtain rfl | later := List.mem_cons.mp hi
    · exact keeps' _ (sets hb written can)
    · exact sets' i later hb written can

section
variable {s : State} {p : HostPort}

theorem fltForce_answers {w : Fin 57} {v : Word} (hm : s.mayWrite p (0x40D00 + 4 * w) = true) :
    Answers (.fltForce p w v) s fun t =>
      (∀ b < 32, bitOf v.toNat b = true → forcible (32 * w.val + b) = true →
        bitOf (Tab.get 0 t.fault.force w.val).toNat b = true)
      ∧ t.fault.first = s.fault.first ∧ t.fault.seen = s.fault.seen ∧ t.hbm = s.hbm := by
  have run : exec (.fltForce p w v) s = .next ((List.range 32).foldl (fun s b => s.forceBit w v b) s) :=
    congrArg Host.Outcome.next (hostWrite_acts hm (blockOf_ne_tun (by omega)) _)
  obtain ⟨⟨x, y, frame⟩, -, sets⟩ := forceBits_frame w v (List.range 32) s
  refine ⟨_, run, fun b hb => sets b (List.mem_range.mpr hb) hb, ?_⟩
  rw [frame]
  exact ⟨rfl, rfl, rfl⟩

/-- FAULT_N is driven low where its pulse is due (R352). -/
theorem faultPulseStart_answers (on : s.on = true) {at_ : Nat} (due : s.fault.pulseAt = some at_) :
    Answers .faultPulseStart s fun t => t.fault.pulsing = true ∧ t.fault.low = true ∧ t.fault.pulseAt = none
      ∧ t.now = max s.now at_ ∧ t.fault.pulseFrom = t.now := by
  have run : exec .faultPulseStart s = .next (((s.after at_).modFault fun f =>
      { f with pulseAt := none, pulsing := true, pulseFrom := (s.after at_).now }).signalBoth 2046) := by
    change execFaultPulseStart s = _
    unfold execFaultPulseStart
    rw [due]
    exact if_neg (by simp [on])
  have told := signalBoth_signalled ((s.after at_).modFault fun f =>
    { f with pulseAt := none, pulsing := true, pulseFrom := (s.after at_).now }) 2046
  have now : _ = (s.after at_).now := told.now
  refine ⟨_, run, ?_⟩
  dsimp only
  rw [now, told.fault]
  exact ⟨rfl, rfl, rfl, after_now s at_, rfl⟩

/-- A pulse ends 80,000 to 100,000 ticks after it began (R352). -/
theorem faultPulseEnd_answers (on : s.on = true) (low : s.fault.pulsing = true) (early : s.now ≤ s.fault.pulseFrom + 80000) :
    Answers .faultPulseEnd s fun t =>
      t.fault.pulsing = false ∧ s.fault.pulseFrom + 80000 ≤ t.now ∧ t.now ≤ s.fault.pulseFrom + 100000 := by
  have run : exec .faultPulseEnd s = _ := if_neg (by simp [on, low])
  have short := Nat.mod_lt s.freeNat (y := 20001) (by decide)
  have now := after_now s.useFree (s.fault.pulseFrom + 80000 + s.freeNat % 20001)
  have still : s.useFree.now = s.now := rfl
  generalize s.freeNat % 20001 = n at run short now
  obtain ⟨m, k, g, c, after⟩ := after_later s.useFree (s.fault.pulseFrom + 80000 + n)
  rw [after] at run now
  have ends : (s.useFree.later m k g c).now = s.fault.pulseFrom + 80000 + n := by omega
  exact ⟨_, run, rfl, (by omega : s.fault.pulseFrom + 80000 ≤ (s.useFree.later m k g c).now),
    (by omega : (s.useFree.later m k g c).now ≤ s.fault.pulseFrom + 100000)⟩

end

/-- Settles O31. -/
theorem faultRegisters : Obligations.FaultRegisters := by
  unfold Obligations.FaultRegisters
  intro s p
  exact ⟨fltFirstClear_empty, fun x xs hm late => fltFirstClear_latches hm late, fun w v hm => fltForce_answers hm,
    fun v hm => congrArg Host.Outcome.next (hostWrite_acts hm (blockOf_ne_tun (by decide)) _),
    fun at_ on due => faultPulseStart_answers on due, faultPulseEnd_answers⟩

end Sys2Proof.Machine

namespace Sys2Proof.Machine

/-! # The cellar book, health and the proving run (R355 to R365) -/

/-! ## The cellar book (R355 to R361) -/

section
variable {s : State} {p : HostPort}

theorem bookSnapshot_answers (on : s.on = true) {i : Nat} {x : BookRec}
    (waits : s.book.pending.findIdx? (fun r => r.waiting) = some i) (here : s.book.pending[i]? = some x) :
    Answers .bookSnapshot s fun t => t.book.pending[i]? = some { x with
        waiting := false
        snaps := (List.range (min 48 (s.field secRecorder (0x208 + 200 * x.list) 2))).map fun j =>
          s.innerRead (s.field secRecorder (0x208 + 200 * x.list + 8 + 4 * j) 4 + 4) * 2 ^ 32
            + s.innerRead (s.field secRecorder (0x208 + 200 * x.list + 8 + 4 * j) 4) }
      ∧ t.book.records = s.book.records ∧ t.book.pending.length = s.book.pending.length := by
  have run : exec .bookSnapshot s = _ := if_neg (by simp [on])
  rw [waits] at run
  refine ⟨_, run, ?_, rfl, List.length_modify ..⟩
  exact (List.getElem?_modify_eq ..).trans (congrArg _ here)

theorem exec_bookRecordWrite {ok : Bool} {x : BookRec} {rest : List BookRec} (powered : s.power.powered = true)
    (live : s.power.reset = false) (open_ : s.book.clearing = false) (oldest : s.book.pending = x :: rest)
    (taken : x.waiting = false) : exec (.bookRecordWrite ok) s =
      if 8192 ≤ s.book.records.length then
        .next (s.modBook fun b => { b with pending := rest, dropped := satInc 32 b.dropped })
      else if ok then .next (s.modBook fun b => { b with pending := rest, records := b.records ++ [x] })
      else .next ((s.modBook fun b => { b with pending := rest, dropped := satInc 32 b.dropped }).raise 1780 0) := by
  change execBookRecordWrite ok s = _
  unfold execBookRecordWrite
  rw [oldest]
  exact if_neg (by simp [powered, live, open_, taken])

theorem bookRecordWrite_answers {ok : Bool} {x : BookRec} {rest : List BookRec} (powered : s.power.powered = true)
    (live : s.power.reset = false) (open_ : s.book.clearing = false) (oldest : s.book.pending = x :: rest)
    (taken : x.waiting = false) : Answers (.bookRecordWrite ok) s fun t =>
      t.book.pending = rest
      ∧ (s.book.records.length < 8192 → ok = true → t.book.records = s.book.records ++ [x] ∧ t.fault = s.fault)
      ∧ (8192 ≤ s.book.records.length → t.book.records = s.book.records ∧ t.book.dropped = satInc 32 s.book.dropped)
      ∧ (s.book.records.length < 8192 → ok = false → t.book.records = s.book.records
          ∧ t.book.dropped = satInc 32 s.book.dropped ∧ t.fault.raised = s.fault.raised ++ [s.faultRec 1780 0]) := by
  have run := exec_bookRecordWrite (ok := ok) powered live open_ oldest taken
  by_cases full : 8192 ≤ s.book.records.length
  · exact ⟨_, run.trans (if_pos full), rfl, fun room => absurd full (Nat.not_le.mpr room), fun _ => ⟨rfl, rfl⟩,
      fun room => absurd full (Nat.not_le.mpr room)⟩
  · cases ok
    · exact ⟨_, run.trans (if_neg full), rfl, nofun, fun is => absurd is full, fun _ _ => ⟨rfl, rfl, rfl⟩⟩
    · exact ⟨_, run.trans (if_neg full), rfl, fun _ _ => ⟨rfl, rfl⟩, fun is => absurd is full, nofun⟩

/-- The findings of a read do not change what a clear command amounts to. -/
theorem State.EccFrame.clearCode {s t : State} (h : s.EccFrame t) (bad : Bool) : t.clearCode bad = s.clearCode bad := by
  unfold State.EccFrame at h
  rw [h]
  rfl

theorem clbClear_answers (hm : s.mayWrite p 0x50028 = true) (open_ : s.book.clearing = false) (e : Ecc) {bad : Bool}
    (hb : bad = ((firstBad e s.book.src.toNat 128).isSome || s.anyPoison s.book.src.toNat 128)) :
    Answers (.clbClear p e) s fun t =>
      t.book.records = s.book.records ∧ t.book.clears = s.book.clears ∧ t.hbm = s.hbm
      ∧ (t.book.clearing = true ↔ s.clearCode bad = 1) ∧ (s.clearCode bad ≠ 1 → t.book.result = s.clearCode bad) := by
  have read := eccRead_eccFrame s s.book.src.toNat 128 e 6 .used
  have code := read.clearCode bad
  have poison : (s.eccRead s.book.src.toNat 128 e 6 .used).anyPoison s.book.src.toNat 128
      = s.anyPoison s.book.src.toNat 128 := by
    unfold State.EccFrame at read
    rw [read]
    rfl
  have run : exec (.clbClear p e) s = .next (if s.clearCode bad == 1
      then (s.eccRead s.book.src.toNat 128 e 6 .used).modBook fun b => { b with clearing := true }
      else (s.eccRead s.book.src.toNat 128 e 6 .used).modBook fun b => { b with result := s.clearCode bad }) := by
    refine congrArg Host.Outcome.next ((hostWrite_acts hm (blockOf_ne_tun (by decide)) _).trans ((if_neg (by simp [open_])).trans ?_))
    dsimp only
    rw [poison, ← hb, code]
  have book : (s.eccRead s.book.src.toNat 128 e 6 .used).book = s.book := (congrArg State.book read :)
  have hbm : (s.eccRead s.book.src.toNat 128 e 6 .used).hbm = s.hbm := (congrArg State.hbm read :)
  refine ⟨_, run, ?_⟩
  split
  · next good =>
    have good := eq_of_beq good
    exact ⟨(congrArg Book.records book :), (congrArg Book.clears book :), hbm, ⟨fun _ => good, fun _ => rfl⟩, fun other => absurd good other⟩
  · next other =>
    have other : s.clearCode bad ≠ 1 := by simpa using other
    refine ⟨(congrArg Book.records book :), (congrArg Book.clears book :), hbm, ⟨fun clears => ?_, fun good => absurd good other⟩, fun _ => rfl⟩
    rw [State.modBook_book, book] at clears
    exact absurd (open_.symm.trans clears) Bool.false_ne_true

end

/-- Settles O32. -/
theorem cellarBook : Obligations.CellarBook := by
  unfold Obligations.CellarBook
  intro s p
  exact ⟨fun i x on waits here => bookSnapshot_answers on waits here,
    fun ok x rest powered live open_ oldest taken => bookRecordWrite_answers powered live open_ oldest taken,
    fun e bad hm open_ hb => clbClear_answers hm open_ e hb,
    fun clearing => ⟨_, if_neg (by simp [clearing]), rfl, rfl, rfl, rfl, _, rfl, rfl, rfl⟩⟩

/-! ## Events that are recorded (R358 to R360) -/

/-- The book has room, and its last record and those that await their write are of faults (R358, R359). -/
def Book.Fresh (b : Book) : Prop :=
  b.pending.length ≤ 12 ∧ b.records.length < 8192 ∧ ∀ x ∈ b.records.getLast?.toList ++ b.pending, x.kind = 1

/-- What the records of the list say that happened. -/
def recordsOf (l : List BookRec) : List (Nat × Nat × Nat) := l.map fun x => (x.kind, x.trigger, x.detail)

/-- A record that no repeat takes in awaits its write (R358, R359). -/
theorem bookPut_appends {s : State} {x : BookRec} (room : s.book.noPlace = false)
    (pending : sameAs x s.book.pending.getLast? = false)
    (written : s.book.pending = [] → sameAs x s.book.records.getLast? = false) :
    s.bookPut x = s.modBook fun b => { b with pending := b.pending ++ [x] } := by
  unfold State.bookPut
  dsimp only
  rw [if_neg (by simp [pending]), if_neg, if_neg (by simp [room])]
  cases none : s.book.pending with
  | nil => simp [written none]
  | cons y l => simp

section
variable {s : State} (code detail : Nat)

theorem event_of_fresh (fresh : s.book.Fresh) : ∃ x, recordsOf [x] = [(2, code, detail)] ∧
    s.event code detail = s.modBook fun b => { b with pending := b.pending ++ [x] } := by
  obtain ⟨few, room, faults⟩ := fresh
  refine ⟨_, rfl, bookPut_appends ?_ ?_ fun _ => ?_⟩
  · unfold Book.noPlace
    rw [decide_eq_false (by omega), decide_eq_false (by omega), Bool.or_self]
  · cases last : s.book.pending.getLast? with
    | none => rfl
    | some y => simp [sameAs, BookRec.same, State.bookRec, faults y (by simp [List.mem_of_getLast? last])]
  · cases last : s.book.records.getLast? with
    | none => rfl
    | some y => simp [sameAs, BookRec.same, State.bookRec, faults y (by simp [last])]

/-- A second event of another code is a record of its own. -/
theorem event_after {l : List BookRec} {y : BookRec} (few : l.length ≤ 14) (room : s.book.records.length < 8192)
    (last : s.book.pending = l ++ [y]) (other : y.trigger ≠ code) : ∃ x, recordsOf [x] = [(2, code, detail)] ∧
      s.event code detail = s.modBook fun b => { b with pending := b.pending ++ [x] } := by
  refine ⟨_, rfl, bookPut_appends ?_ ?_ fun none => ?_⟩
  · unfold Book.noPlace
    rw [last, List.length_append, List.length_singleton, decide_eq_false (by omega), decide_eq_false (by omega), Bool.or_self]
  · rw [last]
    simp [sameAs, BookRec.same, State.bookRec, other]
  · simp [last] at none

end

/-! ## Hold (R364) -/

theorem event_frame (s : State) (code detail : Nat) : ∃ k, s.event code detail = { s with book := k } :=
  bookPut_frame ..

theorem event_seconds (s : State) (code detail : Nat) : (s.event code detail).book.seconds = s.book.seconds := by
  unfold State.event State.bookPut
  extract_lets
  split
  · rfl
  · split
    · rfl
    · split <;> rfl

/-- Event 4 of a hold, and event 3 where what LEVEL reads changes (R364). -/
theorem holdEvents_frame (s : State) (why d : Nat) (same : Bool) : ∃ k,
    (if same then s.event 4 why else (s.event 4 why).event 3 d) = { s with book := k }
    ∧ (s.book.Fresh → recordsOf (k.pending.drop s.book.pending.length) = (2, 4, why) :: if same then [] else [(2, 3, d)]) := by
  by_cases fresh : s.book.Fresh
  · obtain ⟨x, hx, first⟩ := event_of_fresh 4 why fresh
    have trigger : x.trigger = 4 := by simp [recordsOf] at hx; omega
    cases same with
    | true =>
      rw [if_pos rfl, first]
      refine ⟨_, rfl, fun _ => ?_⟩
      dsimp only
      rw [List.drop_left, hx]
      rfl
    | false =>
      obtain ⟨few, room, -⟩ := fresh
      obtain ⟨y, hy, second⟩ := event_after (s := s.modBook fun b => { b with pending := b.pending ++ [x] }) 3 d
        (few.trans (by decide)) room rfl (by rw [trigger]; decide)
      rw [if_neg Bool.false_ne_true, first, second]
      refine ⟨_, rfl, fun _ => ?_⟩
      dsimp only
      rw [State.modBook_book, List.append_assoc, List.drop_left]
      exact congrArg₂ (· ++ ·) hx hy
  · obtain ⟨k, first⟩ := event_frame s 4 why
    obtain ⟨k', second⟩ := event_frame { s with book := k } 3 d
    cases same
    · exact ⟨k', by rw [if_neg Bool.false_ne_true, first, second], fun is => absurd is fresh⟩
    · exact ⟨k, by rw [if_pos rfl, first], fun is => absurd is fresh⟩

/-- A hold that ends is recorded, with the level that LEVEL then reads (R364). -/
theorem endHold_frame {s : State} (held : s.health.hold = true) (why : Nat) : ∃ k,
    s.endHold why = { s with health := { s.health with hold := false, holdLeft := 0 }, book := k }
    ∧ (s.book.Fresh → recordsOf (k.pending.drop s.book.pending.length)
        = (2, 4, why) :: if s.health.level = 3 then [] else [(2, 3, s.health.level + 768)]) := by
  obtain ⟨k, events, records⟩ := holdEvents_frame (s.modHealth fun h => { h with hold := false, holdLeft := 0 }) why
    (s.health.level + 3 * 256) (s.health.level == 3)
  refine ⟨k, ?_, fun fresh => (records fresh).trans (by simp)⟩
  unfold State.endHold
  rw [if_neg (by simp [held])]
  obtain ⟨k', event⟩ := event_frame (s.modHealth fun h => { h with hold := false, holdLeft := 0 }) 4 why
  dsimp only
  rw [event] at events ⊢
  exact events

section
variable {s : State} {p : HostPort} (hm : s.mayWrite p 0x40028 = true)
include hm

theorem hold_answers : Answers (.hold p) s fun t =>
    t.health.hold = true ∧ t.health.levelReg = 3 ∧ t.health.holdLeft = s.holdHours * 3600
      ∧ t.health.level = s.health.level ∧ t.fault = s.fault
      ∧ (s.book.Fresh → recordsOf (t.book.pending.drop s.book.pending.length) = (2, 4, 1) ::
          (if s.health.levelReg = 3 then [] else [(2, 3, 3 + s.health.levelReg * 256)])) := by
  obtain ⟨k, events, records⟩ := holdEvents_frame (s.modHealth fun h => { h with hold := true, holdLeft := s.holdHours * 3600 }) 1
    (3 + s.health.levelReg * 256) (s.health.levelReg == 3)
  have run : exec (.hold p) s = .next _ :=
    congrArg Host.Outcome.next ((hostWrite_acts hm (blockOf_ne_tun (by decide)) _).trans events)
  exact ⟨_, run, rfl, rfl, rfl, rfl, rfl, fun fresh => (records fresh).trans (by simp)⟩

theorem holdRelease_answers (held : s.health.hold = true) : Answers (.holdRelease p) s fun t =>
    t.health.hold = false ∧ t.health.levelReg = s.health.level ∧ t.fault = s.fault
      ∧ (s.book.Fresh → recordsOf (t.book.pending.drop s.book.pending.length)
          = (2, 4, 2) :: (if s.health.level = 3 then [] else [(2, 3, s.health.level + 768)])) := by
  obtain ⟨k, ends, records⟩ := endHold_frame held 2
  have run : exec (.holdRelease p) s = .next _ :=
    congrArg Host.Outcome.next ((hostWrite_acts hm (blockOf_ne_tun (by decide)) _).trans ends)
  exact ⟨_, run, rfl, rfl, rfl, records⟩

end

theorem holdExpire_answers {s : State} (powered : s.cellarOn = true) (held : s.health.hold = true) (none : s.health.holdLeft = 0) :
    Answers .holdExpire s fun t => t.health.hold = false ∧ t.health.level = s.health.level
      ∧ (s.book.Fresh → recordsOf (t.book.pending.drop s.book.pending.length)
          = (2, 4, 3) :: (if s.health.level = 3 then [] else [(2, 3, s.health.level + 768)])) := by
  obtain ⟨k, ends, records⟩ := endHold_frame held 3
  exact ⟨_, (if_pos (by simp [powered, held, none])).trans (congrArg _ ends), rfl, rfl, records⟩

/-! ## The seconds of health (R362, R363) -/

/-- SCORE and the level are computed, and a changed LEVEL is recorded (R362, R363). -/
theorem rescore_frame (s : State) : ∃ k, s.rescore = { s with
      health := { s.health with score := s.scoreNow, level := s.nextLevel s.scoreNow }, book := k }
    ∧ k.seconds = s.book.seconds
    ∧ (s.book.Fresh → recordsOf (k.pending.drop s.book.pending.length) =
        if s.nextLevel s.scoreNow = s.health.level ∨ s.health.hold = true then []
        else [(2, 3, s.nextLevel s.scoreNow + s.health.level * 256)]) := by
  have decides : ((s.nextLevel s.scoreNow == s.health.level || s.health.hold) = true)
      ↔ s.nextLevel s.scoreNow = s.health.level ∨ s.health.hold = true := by simp
  unfold State.rescore
  dsimp only
  split
  · next quiet =>
    refine ⟨s.book, rfl, rfl, fun _ => ?_⟩
    rw [List.drop_length, if_pos (decides.mp quiet)]
    rfl
  · next changes =>
    have seconds := event_seconds (s.modHealth fun h =>
      { h with score := s.scoreNow, level := s.nextLevel s.scoreNow }) 3 (s.nextLevel s.scoreNow + s.health.level * 256)
    by_cases fresh : s.book.Fresh
    · obtain ⟨x, hx, event⟩ := event_of_fresh (s := s.modHealth fun h =>
        { h with score := s.scoreNow, level := s.nextLevel s.scoreNow }) 3
        (s.nextLevel s.scoreNow + s.health.level * 256) fresh
      rw [event]
      refine ⟨_, rfl, rfl, fun _ => ?_⟩
      rw [if_neg (decides.not.mp changes), ← hx]
      exact congrArg recordsOf List.drop_left
    · obtain ⟨k, event⟩ := event_frame (s.modHealth fun h =>
        { h with score := s.scoreNow, level := s.nextLevel s.scoreNow }) 3 (s.nextLevel s.scoreNow + s.health.level * 256)
      rw [event] at seconds ⊢
      exact ⟨k, rfl, seconds, fun is => absurd is fresh⟩

/-- From level 2 no score leads below level 1, and no score leads beyond level 2 (R363). -/
theorem nextLevel_range (s : State) (score : Nat) : (s.health.level = 2 → 1 ≤ s.nextLevel score) ∧ s.nextLevel score ≤ 2 := by
  unfold State.nextLevel
  split
  · next h => exact ⟨fun two => absurd (h.symm.trans two) (by decide), by (repeat' split) <;> decide⟩
  · next h => exact ⟨fun two => absurd (h.symm.trans two) (by decide), by (repeat' split) <;> decide⟩
  · split <;> exact ⟨fun _ => by decide, by decide⟩

theorem healthSecond_answers {s : State} (powered : s.cellarOn = true) (i : SecondInputs) {e : Nat} {cool : Bool}
    (he : e = s.health.hbmCorr + 16 * s.health.hbmLatent + s.health.tunCorr + s.health.ringCorr + s.health.cellCorr
      + 64 * s.health.retried + s.health.replayed / 4096) (hc : cool = decide (40 < i.inletC ∨ i.flowCL < 200)) :
    Answers (.healthSecond i) s fun t =>
      t.book.seconds = s.book.seconds + 1 ∧ t.health.hbmCorr = 0 ∧ t.health.warnings = 0
      ∧ t.health.own = (s.health.own - s.health.own / 2 ^ s.decay
          + (min 64 e + if i.hot = true ∧ cool = false then 16 else 0)) % 2 ^ 32
      ∧ t.health.env = (s.health.env - s.health.env / 2 ^ s.decay
          + ((if cool = true then 16 else 0) + 16 * s.health.warnings
            + if i.hot = true ∧ cool = true then 16 else 0)) % 2 ^ 32
      ∧ t.health.score = t.scoreNow
      ∧ t.health.holdLeft = s.health.holdLeft - 1 ∧ t.power.inlet = i.inletC ∧ t.power.flow = i.flowCL
      ∧ t.fault.raised = s.fault.raised ++ (if cool = true then [t.faultRec 1778 0] else [])
      ∧ (s.on = true → s.book.secondAt ≠ 0 → t.now = max s.now (s.book.secondAt + 4000000000))
      ∧ (s.health.level = 2 → 1 ≤ t.health.level) ∧ t.health.level ≤ 2
      ∧ (s.book.Fresh → recordsOf (t.book.pending.drop s.book.pending.length) =
          if t.health.level = s.health.level ∨ s.health.hold = true then []
          else [(2, 3, t.health.level + s.health.level * 256)])
      ∧ t.hbm = s.hbm := by
  have run : exec (.healthSecond i) s = _ := if_neg (by simp [powered])
  have now : s.on = true → s.book.secondAt ≠ 0 → (if s.on then s.dwell s.book.secondAt 4000000000 else s).now
      = max s.now (s.book.secondAt + 4000000000) := fun on later => by
    rw [if_pos on, dwell_now, if_neg later]
  obtain ⟨n, k, g, c, dwell⟩ : ∃ n k g c, (if s.on then s.dwell s.book.secondAt 4000000000 else s) = s.later n k g c := by
    split
    · exact dwell_later ..
    · exact ⟨s.time.ftc, s.clk, s.granary, s.core.tel, rfl⟩
  have hcool : (decide (40 < i.inletC) || decide (i.flowCL < 200)) = cool := by
    rw [hc]
    simp
  rw [dwell, hcool] at run
  rw [dwell] at now
  generalize hv : (ite (cool = true) _ _ : State) = v at run
  have own : v.health.own = (s.health.own - s.health.own / 2 ^ s.decay
      + (min 64 e + if i.hot = true ∧ cool = false then 16 else 0)) % 2 ^ 32 := by
    have hot : (i.hot = true ∧ cool = false) = ((i.hot && !cool) = true) := by simp
    simp only [hot]
    rw [← hv, he]
    split <;> rfl
  have env : v.health.env = (s.health.env - s.health.env / 2 ^ s.decay
      + ((if cool = true then 16 else 0) + 16 * s.health.warnings
        + if i.hot = true ∧ cool = true then 16 else 0)) % 2 ^ 32 := by
    have hot : (i.hot = true ∧ cool = true) = ((i.hot && cool) = true) := by simp
    simp only [hot]
    rw [← hv]
    split <;> rfl
  have health : v.health.hbmCorr = 0 ∧ v.health.warnings = 0 ∧ v.health.holdLeft = s.health.holdLeft - 1
      ∧ v.health.level = s.health.level ∧ v.health.hold = s.health.hold := by
    rw [← hv]
    split <;> exact ⟨rfl, rfl, rfl, rfl, rfl⟩
  have book : v.book.seconds = s.book.seconds + 1 ∧ v.book.pending = s.book.pending ∧ v.book.records = s.book.records := by
    rw [← hv]
    split <;> exact ⟨rfl, rfl, rfl⟩
  have rest : v.power.inlet = i.inletC ∧ v.power.flow = i.flowCL ∧ v.now = (s.later n k g c).now ∧ v.hbm = s.hbm := by
    rw [← hv]
    split <;> exact ⟨rfl, rfl, rfl, rfl⟩
  have raised : v.fault.raised = s.fault.raised ++ (if cool = true then [v.faultRec 1778 0] else []) := by
    rw [← hv]
    split
    · rfl
    · exact (List.append_nil _).symm
  clear hv
  obtain ⟨corr, warnings, left, level, hold⟩ := health
  obtain ⟨seconds, pending, records⟩ := book
  obtain ⟨inlet, flow, same, hbm⟩ := rest
  obtain ⟨b, rescore, kept, events⟩ := rescore_frame v
  obtain ⟨low, high⟩ := nextLevel_range v v.scoreNow
  have fresh : s.book.Fresh → v.book.Fresh := by
    unfold Book.Fresh
    rw [pending, records]
    exact id
  rw [rescore] at run
  rw [pending, level, hold] at events
  exact ⟨_, run, kept.trans seconds, corr, warnings, own, env, rfl, left, inlet, flow, raised,
    fun on later => same.trans (now on later), fun two => low (level.trans two), high, fun is => events (fresh is), hbm⟩

/-- Settles O33. -/
theorem healthAndHold : Obligations.HealthAndHold := by
  unfold Obligations.HealthAndHold
  intro s p
  exact ⟨fun i e cool he hc powered => healthSecond_answers powered i he hc,
    fun powered whole => if_neg (by simp [powered, whole]), hold_answers, holdRelease_answers,
    fun powered held none => holdExpire_answers powered held none⟩

/-! ## The proving run (R365) -/

/-- A run that fails raises 1,785 and is recorded. -/
theorem endProve_fails (s : State) : ∃ k, s.endProve false = { s with
    health := { s.health with result := 3, elapsed := s.proveSeconds }
    fault := { s.fault with raised := s.fault.raised ++ [s.faultRec 1785 0] }
    book := k } :=
  event_frame ((s.modHealth fun h => { h with result := 3, elapsed := s.proveSeconds }).raise 1785 0) 5 _

/-- A run that passes clears the own penalty, ends a hold and counts. -/
theorem endProve_passes (s : State) : (s.endProve true).health.result = 2
    ∧ (s.endProve true).health.passes = satInc 8 s.health.passes ∧ (s.endProve true).health.own = 0
    ∧ (s.endProve true).health.hold = false := by
  unfold State.endProve
  dsimp only
  rw [if_neg (by decide), if_pos rfl]
  generalize hu : State.modHealth _ _ = u
  have health : u.health.result = 2 ∧ u.health.passes = satInc 8 s.health.passes ∧ u.health.own = 0 := by
    rw [← hu]
    exact ⟨rfl, rfl, rfl⟩
  clear hu
  obtain ⟨h, k, ends, same⟩ : ∃ h k, u.endHold 4 = { u with health := h, book := k }
      ∧ h = { u.health with hold := false, holdLeft := h.holdLeft } := by
    cases held : u.health.hold with
    | false => exact ⟨u.health, u.book, if_pos (by simp [held]), by rw [← held]⟩
    | true =>
      obtain ⟨k, ends, -⟩ := endHold_frame held 4
      exact ⟨_, k, ends, rfl⟩
  rw [ends]
  obtain ⟨k', event⟩ := event_frame { u with health := h, book := k } 5 u.proveReg
  rw [event]
  obtain ⟨k'', rescore, -⟩ := rescore_frame { u with health := h, book := k' }
  rw [rescore]
  obtain ⟨result, passes, own⟩ := health
  exact ⟨(congrArg Health.result same :).trans result, (congrArg Health.passes same :).trans passes,
    (congrArg Health.own same :).trans own, (congrArg Health.hold same :)⟩

section
variable {s : State} {p : HostPort}

/-- A stage that fails ends the run with the result failed, and raises 1,785. -/
theorem answers_of_endProve {c : Instr} {u : State} (run : exec c s = .next (u.endProve false)) :
    Answers c s fun t => t.health.result = 3 ∧ t.health.passes = u.health.passes
      ∧ t.fault.raised = u.fault.raised ++ [u.faultRec 1785 0] ∧ t.time = u.time ∧ t.now = u.now := by
  obtain ⟨k, fails⟩ := endProve_fails u
  rw [fails] at run
  exact ⟨_, run, rfl, rfl, rfl, rfl, rfl⟩

theorem prove_answers (hm : s.mayWrite p 0x40028 = true) (may : s.mayProve = true) : Answers (.prove p) s fun t =>
    t.proving = true ∧ t.health.stage = 1 ∧ t.health.proveAt = s.now ∧ t.hbm = [] ∧ t.poison = []
      ∧ t.hbmFill = s.free + 1 := by
  have run : exec (.prove p) s = _ :=
    congrArg Host.Outcome.next ((hostWrite_acts hm (blockOf_ne_tun (by decide)) _).trans (if_neg (by simp [may])))
  exact ⟨_, run, rfl, rfl, rfl, rfl, rfl, rfl⟩

variable (runs : s.proving = true) (alive : s.alive = true)
include runs alive

/-- A pass at the end of the stage, where the package's own measures decide too. -/
theorem exec_proveStageEnd : ∃ n k g c, (s.later n k g c).now = max s.now (s.health.proveAt + stageEnd s.health.stage * 4000000000)
    ∧ exec (.proveStageEnd true) s =
      (let u := s.later n k g c
       if s.stageFails s.health.stage then .next (u.endProve false) else
       let v := if s.health.stage == 3
         then { u with links := (u.links.map fun e => (e.1, { e.2 with proved := 0 })).filter fun e => e.2 != {} } else u
       if 5 ≤ s.health.stage then .next (v.endProve true) else .next (v.modHealth fun h => { h with stage := s.health.stage + 1 })) := by
  have run : exec (.proveStageEnd true) s = _ :=
    (if_neg (by simp [runs, alive]) : execProveStageEnd true s = _).trans (if_neg (by decide))
  have now := after_now s (s.health.proveAt + stageEnd s.health.stage * 4000000000)
  obtain ⟨n, k, g, c, after⟩ := after_later s (s.health.proveAt + stageEnd s.health.stage * 4000000000)
  dsimp only at run
  rw [after] at run now
  exact ⟨n, k, g, c, now, run⟩

theorem proveStageEnd_answers :
    Answers (.proveStageEnd false) s (fun t => t.health.result = 3
      ∧ t.fault.raised = s.fault.raised ++ [s.faultRec 1785 0])
    ∧ (s.stageFails s.health.stage = true → Answers (.proveStageEnd true) s fun t => t.health.result = 3
      ∧ t.health.passes = s.health.passes ∧ t.fault.raised = s.fault.raised ++ [t.faultRec 1785 0])
    ∧ (s.health.stage < 5 → s.stageFails s.health.stage = false → Answers (.proveStageEnd true) s fun t =>
      t.proving = true ∧ t.health.stage = s.health.stage + 1
        ∧ t.now = max s.now (s.health.proveAt + stageEnd s.health.stage * 4000000000))
    ∧ (5 ≤ s.health.stage → s.stageFails s.health.stage = false → Answers (.proveStageEnd true) s fun t =>
      t.health.result = 2 ∧ t.health.passes = satInc 8 s.health.passes ∧ t.health.own = 0 ∧ t.health.hold = false) := by
  have stop : exec (.proveStageEnd false) s = .next (s.endProve false) :=
    (if_neg (by simp [runs, alive]) : execProveStageEnd false s = _).trans (if_pos rfl)
  obtain ⟨n, k, g, c, now, run⟩ := exec_proveStageEnd runs alive
  dsimp only at run
  refine ⟨(answers_of_endProve stop).imp fun t ⟨result, _, raised, _⟩ => ⟨result, raised⟩, fun fails => ?_,
    fun early passes => ?_, fun last passes => ?_⟩
  · exact (answers_of_endProve (run.trans (if_pos fails))).imp fun t ⟨result, passes, raised, time, now⟩ =>
      ⟨result, passes, by rw [raised, faultRec_congr time now]; rfl⟩
  · have run := run.trans ((if_neg (by simp [passes])).trans (if_neg (Nat.not_le.mpr early)))
    refine ⟨_, run, ?_⟩
    split <;> exact ⟨runs, rfl, now⟩
  · have run := run.trans ((if_neg (by simp [passes])).trans (if_pos last))
    refine ⟨_, run, ?_⟩
    obtain ⟨result, count, own, hold⟩ := endProve_passes (if s.health.stage == 3 then { s.later n k g c with
      links := ((s.later n k g c).links.map fun e => (e.1, { e.2 with proved := 0 })).filter fun e => e.2 != {} }
      else s.later n k g c)
    refine ⟨result, count.trans ?_, own, hold⟩
    split <;> rfl

end

/-- Settles O34. -/
theorem provingRun : Obligations.ProvingRun := by
  unfold Obligations.ProvingRun
  intro s p
  refine ⟨fun hm busy => ?_, prove_answers, proveStageEnd_answers, fun hm runs => ?_⟩
  · exact congrArg Host.Outcome.next ((hostWrite_acts hm (blockOf_ne_tun (by decide)) _).trans (if_pos (by simp [busy])))
  · have run : exec (.abortProve p) s = .next (s.endProve false) :=
      congrArg Host.Outcome.next ((hostWrite_acts hm (blockOf_ne_tun (by decide)) _).trans (if_pos runs))
    exact (answers_of_endProve run).imp fun t ⟨result, passes, raised, _⟩ => ⟨result, passes, raised⟩

end Sys2Proof.Machine

namespace Sys2Proof.Machine

/-! # The test access port (R406, R412) -/

section
variable {s : State}

theorem exec_tapTckEdge (powered : s.power.powered = true) (live : s.power.reset = false) (high : s.tap.trst = false)
    (rise tms tdi : Bool) : exec (.tapTckEdge rise tms tdi) s = .next (if rise then s.tapRise tms tdi else s.tapFall) :=
  if_neg (by simp [powered, live, high])

/-- A rising edge captures or shifts, and leads to the next state of IEEE 1149.1. -/
theorem tapRise_spec (s : State) (tms tdi : Bool) : s.tapRise tms tdi = { s with tap := (s.tapRise tms tdi).tap, free := (s.tapRise tms tdi).free }
    ∧ (s.tapRise tms tdi).tap.phase = s.tap.phase.next tms ∧ (s.tapRise tms tdi).tap.ir = s.tap.ir
    ∧ (s.tapRise tms tdi).tap.cells = s.tap.cells ∧ (s.tapRise tms tdi).tap.chain = s.tap.chain
    ∧ (s.tap.phase ≠ .captureDr → s.tap.phase ≠ .captureIr → (s.tapRise tms tdi).free = s.free)
    ∧ (s.tap.phase = .captureDr → (s.tapRise tms tdi).tap.dr = s.captured)
    ∧ (s.tap.phase = .captureIr → [true, false] <+: (s.tapRise tms tdi).tap.irSh)
    ∧ (s.tap.phase = .shiftDr → (s.tapRise tms tdi).tap.dr = s.tap.dr.drop 1 ++ [tdi])
    ∧ (s.tap.phase = .shiftIr → (s.tapRise tms tdi).tap.irSh = s.tap.irSh.drop 1 ++ [tdi]) := by
  unfold State.tapRise
  cases phase : s.tap.phase
  case captureDr => exact ⟨rfl, congrArg (TapPhase.next · tms) phase, rfl, rfl, rfl, fun other => absurd rfl other, fun _ => rfl, nofun, nofun, nofun⟩
  case shiftDr => exact ⟨rfl, congrArg (TapPhase.next · tms) phase, rfl, rfl, rfl, fun _ _ => rfl, nofun, nofun, fun _ => rfl, nofun⟩
  case captureIr =>
    exact ⟨rfl, congrArg (TapPhase.next · tms) phase, rfl, rfl, rfl, fun _ other => absurd rfl other, nofun,
      fun _ => List.prefix_append .., nofun, nofun⟩
  case shiftIr => exact ⟨rfl, congrArg (TapPhase.next · tms) phase, rfl, rfl, rfl, fun _ _ => rfl, nofun, nofun, nofun, fun _ => rfl⟩
  all_goals exact ⟨rfl, congrArg (TapPhase.next · tms) phase, rfl, rfl, rfl, fun _ _ => rfl, nofun, nofun, nofun, nofun⟩

/-- A falling edge updates, and drives TDO in the shift states alone. -/
theorem tapFall_spec (s : State) : s.tapFall = { s with tap := s.tapFall.tap } ∧ s.tapFall.tap.phase = s.tap.phase
    ∧ (s.tap.phase = .updateIr → s.tapFall.tap.ir = s.tap.irSh)
    ∧ s.tapFall.tap.cells = (if s.tap.phase = .updateDr ∧ (s.tapInstr = 1 ∨ s.tapInstr = 2) then s.tap.dr else s.tap.cells)
    ∧ s.tapFall.tap.chain = (if s.tap.phase = .updateDr ∧ s.tapInstr = 3 then s.tap.dr else s.tap.chain)
    ∧ s.tapFall.tap.tdo = (match s.tap.phase with
        | .shiftDr => s.tap.dr.head? | .shiftIr => s.tap.irSh.head? | _ => none) := by
  refine ⟨rfl, ?_⟩
  unfold State.tapFall State.modTap
  dsimp only
  cases phase : s.tap.phase
  case updateDr => exact ⟨rfl, nofun, by simp, by simp, rfl⟩
  case updateIr => exact ⟨rfl, fun _ => rfl, by simp, by simp, rfl⟩
  all_goals exact ⟨rfl, nofun, by simp, by simp, rfl⟩

end

/-- Settles O36. -/
theorem testAccessPort : Obligations.TestAccessPort := by
  unfold Obligations.TestAccessPort
  refine fun s => ⟨fun tms tdi powered live high => ⟨⟨_, exec_tapTckEdge powered live high true tms tdi, tapRise_spec s tms tdi⟩,
    _, exec_tapTckEdge powered live high false tms tdi, tapFall_spec s⟩, rfl, rfl⟩

end Sys2Proof.Machine

namespace Sys2Proof.Machine

/-! # Firmware and the owner (R398 to R408) -/

/-! ## Reads of a host's memory (R325) -/

theorem foldl_emit_eq {α : Type} (f : α → Output) (l : List α) (s : State) :
    l.foldl (fun s a => s.emit (f a)) s = { s with out := (l.map f).reverse ++ s.out } := by
  rw [← foldl_emit_out]
  induction l generalizing s with
  | nil => rfl
  | cons a l ih =>
    rw [List.foldl_cons, ih]
    rfl

/-- A read waits at the host, and its requests leave (R325). -/
theorem hostRead_eq (s : State) (p : HostPort) (a len : Nat) (w : ReadFor) : s.hostRead p a len w = { s with
    host := { s.host with
      nextRead := s.host.nextRead + 1, reads := s.host.reads ++ [⟨s.host.nextRead, portNum p, a, len, w, s.now⟩] }
    out := s.withReads p a len } := by
  unfold State.hostRead State.withReads
  exact foldl_emit_eq ..

theorem fwReads_frame (n : Nat) (s : State) : ∃ h o k, s.fwReads n = { s with host := h, out := o, sec := { s.sec with loadNext := k } } := by
  induction n generalizing s with
  | zero => exact ⟨s.host, s.out, s.sec.loadNext, rfl⟩
  | succ n ih =>
    unfold State.fwReads
    dsimp only
    split
    · exact ⟨s.host, s.out, s.sec.loadNext, rfl⟩
    · rw [hostRead_eq]
      obtain ⟨h, o, k, reads⟩ := ih (State.modSec { s with host := _, out := _ } _)
      exact ⟨h, o, k, reads⟩

/-! ## Loading and verifying firmware (R394, R401, R402) -/

theorem bootStep_sec (s : State) (n : Nat) : (s.bootStep n).sec = s.sec := by
  unfold State.bootStep
  extract_lets u
  have hu : u.sec = s.sec := rfl
  clear_value u
  rw [← hu]
  split
  · exact foldl_leaves (g := State.sec) (fun u k => State.modCtl_sec u k _) _ u
  · exact foldl_leaves (g := State.sec) (fun u k => State.modLink_sec u k _) _ u
  · unfold State.discSettle
    split <;> rfl
  · rfl

/-- The lengths that no image has (R401). -/
theorem illegalLength_iff (n : Nat) : (decide (n < 256) || decide (fwMax < n) || n % 8 != 0) = true
    ↔ n < 256 ∨ 2 ^ 25 < n ∨ n % 8 ≠ 0 := by
  simp only [Bool.or_eq_true, decide_eq_true_eq, bne_iff_ne, or_assoc]
  rfl

section
variable {s : State} {p : HostPort}

section
variable (hm : s.mayWrite p 0x70004 = true)
include hm

theorem exec_fwLoad_refused (h : s.sec.busy = true ∨ s.power.step ≠ 4) :
    exec (.fwLoad p) s = .next (s.modSec fun x => { x with lastCmd := 1, code := 1 }) :=
  congrArg Host.Outcome.next ((hostWrite_acts hm (blockOf_ne_tun (by decide)) _).trans (if_pos (by simpa using h)))

variable (idle : s.sec.busy = false) (step : s.power.step = 4)
include idle step

theorem exec_fwLoad_illegal (h : s.sec.len.toNat < 256 ∨ 2 ^ 25 < s.sec.len.toNat ∨ s.sec.len.toNat % 8 ≠ 0) :
    exec (.fwLoad p) s = .next (s.modSec fun x => { x with lastCmd := 1, code := 2 }) :=
  congrArg Host.Outcome.next ((hostWrite_acts hm (blockOf_ne_tun (by decide)) _).trans
    ((if_neg (by simp [idle, step])).trans (if_pos ((illegalLength_iff _).mpr h))))

theorem fwLoad_begins (low : 256 ≤ s.sec.len.toNat) (high : s.sec.len.toNat ≤ 2 ^ 25) (whole : s.sec.len.toNat % 8 = 0) :
    Answers (.fwLoad p) s fun t => t.sec.code = 0 ∧ t.sec.lastCmd = 1 ∧ t.sec.loadPort = portNum p
      ∧ t.sec.busy = true ∧ t.sec.loading = s.sec.len.toNat ∧ t.hbm = s.hbm ∧ t.power = s.power := by
  have run : exec (.fwLoad p) s = _ := congrArg Host.Outcome.next ((hostWrite_acts hm (blockOf_ne_tun (by decide)) _).trans
    ((if_neg (by simp [idle, step])).trans (if_neg ((illegalLength_iff _).not.mpr (by omega)))))
  dsimp only at run
  obtain ⟨h, o, k, reads⟩ := fwReads_frame 768 ((s.secDone 1 0).modSec fun x => { x with
    parts := [], loading := s.sec.len.toNat, loadNext := 0, loadLen := s.sec.len.toNat, loadAddr := x.addr.toNat
    loadPort := portNum p })
  rw [reads] at run
  exact ⟨_, run, rfl, rfl, rfl, by cases p <;> rfl, rfl, rfl, rfl⟩

end

/-- The end of a verification ends the load that it belongs to, and shows its code there (R408). -/
theorem fwDone_spec (s : State) (code : Nat) : (s.fwDone code).sec.busy = false
    ∧ (s.fwDone code).sec.code = (if s.sec.loadPort = 0 then s.sec.code else code)
    ∧ s.fwDone code = { s with sec := { s.sec with
        lastCmd := (s.fwDone code).sec.lastCmd, code := (s.fwDone code).sec.code, loadPort := (s.fwDone code).sec.loadPort } } := by
  unfold State.fwDone
  split
  · next none =>
    have none : s.sec.loadPort = 0 := eq_of_beq none
    exact ⟨by simp [Sec.busy, none], (if_pos none).symm, rfl⟩
  · next some => exact ⟨rfl, (if_neg (by simpa using some)).symm, rfl⟩

/-- The verification ends: a good image sets what it measures and leads on, another counts a reject (R402). -/
theorem fwVerifyComplete_answers (on : s.on = true) (going : s.power.failed = false) (step : s.power.step = 5) {code : Nat}
    (hc : code = fwCode s.sec.image s.sec.floor) : Answers .fwVerifyComplete s fun t =>
      t.now = max s.now (s.power.stepAt + 120000000) ∧ t.sec.busy = false
      ∧ t.sec.code = (if s.sec.loadPort = 0 then s.sec.code else code)
      ∧ t.power.step = (if code = 0 then 6 else 4)
      ∧ t.sec.fwValid = (if code = 0 then true else s.sec.fwValid)
      ∧ t.sec.svn = (if code = 0 then natAt s.sec.image 0x10 2 else s.sec.svn)
      ∧ t.sec.floor = (if code = 0 then natAt s.sec.image 0x10 2 else s.sec.floor)
      ∧ t.power.rejects = (if code = 0 then s.power.rejects else satInc 8 s.power.rejects) := by
  have run : exec .fwVerifyComplete s = _ := if_neg (by simp [on, going, step])
  have now := after_now s (s.power.stepAt + 120000000)
  obtain ⟨n, k, g, c, after⟩ := after_later s (s.power.stepAt + 120000000)
  dsimp only at run
  rw [after] at run now
  have same : (s.later n k g c).sec = s.sec := rfl
  rw [same, ← hc] at run
  obtain ⟨free, shown, frame⟩ := fwDone_spec (s.later n k g c) code
  by_cases good : code = 0
  · have run := run.trans (if_neg (by simp [good]))
    rw [good] at shown free frame
    generalize (s.later n k g c).fwDone 0 = u at run free shown frame
    obtain ⟨still, power⟩ := bootStep_frame (u.modSec fun x => { x with
      floor := natAt s.sec.image 0x10 2, svn := natAt s.sec.image 0x10 2, fwValid := true, meas0 := sha512 s.sec.image }) 6
    have sec := bootStep_sec (u.modSec fun x => { x with
      floor := natAt s.sec.image 0x10 2, svn := natAt s.sec.image 0x10 2, fwValid := true, meas0 := sha512 s.sec.image }) 6
    refine ⟨_, run, ?_⟩
    dsimp only
    rw [sec, power, still]
    simp only [if_pos good]
    refine ⟨?_, free, by rw [good]; exact shown, trivial, rfl, rfl, rfl, ?_⟩
    · rw [frame]; exact now
    · rw [frame]; rfl
  · have run := run.trans (if_pos (by simpa using good))
    generalize (s.later n k g c).fwDone code = u at run free shown frame
    obtain ⟨still, power⟩ := bootStep_frame (u.modPower fun p => { p with rejects := satInc 8 p.rejects }) 4
    have sec := bootStep_sec (u.modPower fun p => { p with rejects := satInc 8 p.rejects }) 4
    refine ⟨_, run, ?_⟩
    dsimp only
    rw [sec, power, still]
    simp only [if_neg good]
    refine ⟨?_, free, shown, trivial, ?_, ?_, ?_, ?_⟩
    all_goals rw [frame]
    · exact now
    all_goals rfl

end

/-- Settles O25. -/
theorem firmware : Obligations.Firmware := by
  unfold Obligations.Firmware
  intro s p
  exact ⟨exec_fwLoad_refused, fun hm idle step => ⟨exec_fwLoad_illegal hm idle step,
    fun low high whole _ => fwLoad_begins hm idle step low high whole⟩,
    fun on going step => fwVerifyComplete_answers on going step rfl⟩

/-! ## The owner's commands (R398 to R400) -/

theorem gristPhase_frame (s : State) (ph : GristPhase) :
    ∃ o h, s.gristPhase ph = { s with grist := { s.grist with phase := ph }, out := o, host := h } := by
  unfold State.gristPhase
  split
  · next same =>
    rw [← show s.grist.phase = ph from eq_of_beq same]
    exact ⟨s.out, s.host, rfl⟩
  · exact ⟨_, _, (signalBoth_signalled ..).1⟩

/-- The stage that an enrolment or release discards (R400). -/
theorem discardStage_frame (s : State) : ∃ g o h, s.discardStage = { s with grist := g, out := o, host := h } := by
  have drop : ∃ g o h, s.dropStage.gristPhase .empty = { s with grist := g, out := o, host := h } := by
    obtain ⟨o, h, phase⟩ := gristPhase_frame s.dropStage .empty
    exact ⟨_, o, h, phase⟩
  unfold State.discardStage
  split
  · exact drop
  · exact drop
  · exact drop
  · exact ⟨s.grist, s.out, s.host, rfl⟩

section
variable {s : State} {p : HostPort} {e : Ecc} {op : Nat} {accepts : State → Bool} {act : List Byte → State → State}
  (hm : s.mayWrite p 0x70004 = true) (idle : s.sec.busy = false) (up : s.hbmUp s.sec.addr.toNat 160 = true)
include hm idle up

theorem ownerCommand_misaligned (h : s.sec.addr.toNat % 256 ≠ 0) :
    s.ownerCommand p e op accepts act = s.modSec fun x => { x with lastCmd := 2, code := 2 } :=
  (hostWrite_acts hm (blockOf_ne_tun (by decide)) _).trans
    ((if_neg (by simp [idle, up])).trans (if_pos (by simp [h])))

variable (whole : s.sec.addr.toNat % 256 = 0) (inside : s.sec.addr.toNat + 160 ≤ hbmTop) (this : natAt s.ownerBlock 4 2 = op)
include whole inside this

/-- A block of the command's OP that was read: its code, and its effect where the state accepts it (R399). -/
theorem ownerCommand_eq {read : State} (hr : read = s.eccRead s.sec.addr.toNat 160 e 6 .used) :
    s.ownerCommand p e op accepts act =
      if (firstBad e s.sec.addr.toNat 160).isSome || s.anyPoison s.sec.addr.toNat 160 then read.secDone 2 8
      else if s.sec.blockCode s.ownerBlock != 0 then read.secDone 2 (s.sec.blockCode s.ownerBlock)
      else if !accepts read then read.secDone 2 1
      else ((act s.ownerBlock read).modSec Sec.counted).secDone 2 0 := by
  subst hr
  have read := eccRead_eccFrame s s.sec.addr.toNat 160 e 6 .used
  have sec : (s.eccRead s.sec.addr.toNat 160 e 6 .used).sec = s.sec := (congrArg State.sec read :)
  have poison : (s.eccRead s.sec.addr.toNat 160 e 6 .used).anyPoison s.sec.addr.toNat 160
      = s.anyPoison s.sec.addr.toNat 160 := by
    unfold State.EccFrame at read
    rw [read]
    rfl
  refine (hostWrite_acts hm (blockOf_ne_tun (by decide)) _).trans ((if_neg (by simp [idle, up])).trans
    ((if_neg (by simp [whole]; omega)).trans ((if_neg (by simp [this])).trans ?_)))
  dsimp only
  rw [poison, sec, this, bne_self_eq_false, Bool.false_or]

theorem ownerCommand_bad (h : (firstBad e s.sec.addr.toNat 160).isSome = true ∨ s.anyPoison s.sec.addr.toNat 160 = true) :
    s.ownerCommand p e op accepts act = (s.eccRead s.sec.addr.toNat 160 e 6 .used).secDone 2 8 :=
  (ownerCommand_eq hm idle up whole inside this rfl).trans (if_pos (by simpa using h))

variable (clean : firstBad e s.sec.addr.toNat 160 = none) (sound : s.anyPoison s.sec.addr.toNat 160 = false)
include clean sound

theorem ownerCommand_wrong (h : s.sec.blockCode s.ownerBlock ≠ 0) : s.ownerCommand p e op accepts act =
    (s.eccRead s.sec.addr.toNat 160 e 6 .used).secDone 2 (s.sec.blockCode s.ownerBlock) :=
  (ownerCommand_eq hm idle up whole inside this rfl).trans ((if_neg (by simp [clean, sound])).trans (if_pos (by simpa using h)))

theorem ownerCommand_acts (good : s.sec.blockCode s.ownerBlock = 0)
    (takes : accepts (s.eccRead s.sec.addr.toNat 160 e 6 .used) = true) : s.ownerCommand p e op accepts act =
      ((act s.ownerBlock (s.eccRead s.sec.addr.toNat 160 e 6 .used)).modSec Sec.counted).secDone 2 0 :=
  (ownerCommand_eq hm idle up whole inside this rfl).trans ((if_neg (by simp [clean, sound])).trans
    ((if_neg (by simp [good])).trans (if_neg (by simp [takes]))))

end

/-- The findings of a read leave the security block, the grist and HBM. -/
theorem eccRead_keeps (s : State) (a n : Nat) (e : Ecc) (src : Nat) (use : Use) : (s.eccRead a n e src use).sec = s.sec
    ∧ (s.eccRead a n e src use).grist = s.grist ∧ (s.eccRead a n e src use).hbm = s.hbm :=
  have read := eccRead_eccFrame s a n e src use
  ⟨(congrArg State.sec read :), (congrArg State.grist read :), (congrArg State.hbm read :)⟩

/-- The security block as DEBUG_UNLOCK's block `b` leaves it: the scope, measured (R406). -/
def Sec.unlocked (b : List Byte) (x : Sec) : Sec := { x with
  scope := BitVec.ofNat 3 (natAt b 6 2), meas3 := sha512 (fit 64 x.meas3 ++ sliceB b 6 2 ++ sliceB b 0x10 4) }

/-- Settles O26. -/
theorem ownerCommands : Obligations.OwnerCommands := by
  unfold Obligations.OwnerCommands
  intro s p e hm idle up
  obtain ⟨sec, grist, hbm⟩ := eccRead_keeps s s.sec.addr.toNat 160 e 6 .used
  obtain ⟨g, o, h, drop⟩ := discardStage_frame (s.eccRead s.sec.addr.toNat 160 e 6 .used)
  have armed : (s.eccRead s.sec.addr.toNat 160 e 6 .used).notArmed = s.notArmed := by
    unfold State.notArmed
    rw [grist]
  have next {a b : State} (h : a = b) : (.next a : Out) = .next b := congrArg _ h
  refine ⟨fun odd => ⟨next (ownerCommand_misaligned hm idle up odd), next (ownerCommand_misaligned hm idle up odd),
      next (ownerCommand_misaligned hm idle up odd)⟩,
    fun whole inside bad => ⟨fun op => next (ownerCommand_bad hm idle up whole inside op bad),
      fun op => next (ownerCommand_bad hm idle up whole inside op bad), fun op => next (ownerCommand_bad hm idle up whole inside op bad)⟩,
    fun whole inside clean sound => ⟨fun op => ⟨fun good free => ?_, fun wrong => ?_⟩, fun op good free owned => ?_, fun op good owned => ?_⟩⟩
  · have run := next (ownerCommand_acts (accepts := State.notArmed)
      (act := fun b s => s.discardStage.modSec fun x => { x with owner := sliceB b 0x20 32, life := max x.life 1 })
      hm idle up whole inside op clean sound good (armed.trans free))
    rw [drop] at run
    refine ⟨_, run, rfl, rfl, ?_, ?_, hbm⟩
    · exact (congrArg (fun x : Sec => (x.count + 1) % 2 ^ 32) sec :)
    · exact (congrArg (fun x : Sec => max x.life 1) sec :)
  · exact next (ownerCommand_wrong hm idle up whole inside op clean sound wrong)
  · have takes : ((s.eccRead s.sec.addr.toNat 160 e 6 .used).notArmed
        && !(s.eccRead s.sec.addr.toNat 160 e 6 .used).sec.owner.isEmpty) = true := by
      rw [armed, sec, free]
      simpa using owned
    have run := next (ownerCommand_acts (accepts := fun s => s.notArmed && !s.sec.owner.isEmpty)
      (act := fun _ s => s.discardStage.modSec fun x => { x with owner := [], life := if x.life == 2 then 2 else 0 })
      hm idle up whole inside op clean sound good takes)
    rw [drop] at run
    exact ⟨_, run, rfl, rfl, (congrArg (fun x : Sec => (x.count + 1) % 2 ^ 32) sec :), hbm⟩
  · have run := next (ownerCommand_acts (accepts := fun s => !s.sec.owner.isEmpty)
      (act := fun b s => s.modSec (Sec.unlocked b))
      hm idle up whole inside op clean sound good (by rw [sec]; simpa using owned))
    refine ⟨_, run, ?_, ?_, ?_, ?_, ?_⟩ <;>
      simp only [State.secDone, State.modSec_sec, State.modSec_grist, State.modSec_hbm, Sec.counted, Sec.unlocked,
        sec, grist, hbm]

end Sys2Proof.Machine


namespace Sys2Proof.Machine

/-! ## The stream queues' registers and doorbells -/

variable {s : State}

/-- The ports of the queues stand in the grist, not in the queues (R332). -/
@[simp] theorem modSq_queuePort (s : State) (q k : Nat) (f : StreamQ → StreamQ) :
    (s.modSq q f).queuePort k = s.queuePort k := rfl

section
variable {p : HostPort} {q : Nat} (serves : s.portServes p = true)
include serves

/-- A write of the port that the grist gives the queue acts (R344). -/
theorem sqWrite_acts (alive : s.isFatal = false) (own : s.queuePort q = some p) (cold : s.power.warm = false) (off : Nat)
    (act : State → State) : s.sqWrite p q off act = act s := by
  unfold State.sqWrite
  rw [own]
  dsimp only
  rw [flushPosted_of_serves serves, if_neg (by simp [serves]), if_neg (by simp), if_neg (by simp [cold]),
    if_neg (by simp [alive])]

/-- A doorbell of the port that the grist gives the queue sets its index, or stops the queue with STATUS 1 (R333, R338). -/
theorem doorbell_own (alive : s.isFatal = false) (own : s.queuePort q = some p) (ok : StreamQ → Bool)
    (set : StreamQ → StreamQ) : s.doorbell p q ok set = if ok (s.sq q) then s.modSq q set
      else if (s.sq q).stopping.isSome || (s.sq q).phase == .stopped || (s.sq q).phase == .resetting then s
      else ((s.modSq q fun x => { x with stopping := some (1, s.freeNat % 65536) }).useFree).sqSettle q := by
  unfold State.doorbell
  dsimp only
  rw [flushPosted_of_serves serves, if_neg (by simp [serves]), if_neg (by simp [own]), if_neg (by simp [alive])]

/-- A doorbell of another port's queue is a bad access (R329, R333). -/
theorem doorbell_other (own : s.queuePort q ≠ some p) (ok : StreamQ → Bool) (set : StreamQ → StreamQ) :
    s.doorbell p q ok set = s.badAccess p 4 := by
  unfold State.doorbell
  dsimp only
  rw [flushPosted_of_serves serves, if_neg (by simp [serves]), if_pos (by simp [own])]

end

@[simp] theorem useFree_sq (s : State) (q : Nat) : s.useFree.sq q = s.sq q := rfl

/-- A queue with something started does not settle: it is stopped later (R338). -/
theorem sqSettle_of_started {q : Nat} (h : (s.sq q).ops.any (·.started) = true) : s.sqSettle q = s := by
  unfold State.sqSettle
  dsimp only
  split
  · rfl
  · exact if_pos (by simp [h])

/-- What a disabled queue must meet to be enabled by the value `v` of SQ_CTRL (R333, R344). -/
def State.mayEnable (s : State) (q v : Nat) : Bool :=
  (s.queuePort q).isSome && 1 ≤ bitsOf v 29 28 && s.grist.desc.lo ≤ bitsOf v 29 28
    && bitsOf v 29 28 ≤ s.grist.desc.hi && (s.sq q).descBase.toNat % 4096 == 0 && (s.sq q).cplBase.toNat % 4096 == 0
    && 4 ≤ bitsOf v 19 16

section
variable {q v : Nat} (off : (s.sq q).en = false) (en : bitOf v 31 = true) (noReset : bitOf v 30 = false)
include off en noReset

/-- EN on a disabled queue enables it at the port that the grist gives it (R344). -/
theorem sqCtrl_enables (may : s.mayEnable q v = true) (idle : (s.sq q).phase = .disabled) :
    (s.sqCtrl q v).sq q = { s.sq q with
      en := true, phase := .running, port := s.queuePort q, done := 0, version := bitsOf v 29 28, log2 := bitsOf v 19 16 } := by
  unfold State.sqCtrl
  dsimp only
  rw [noReset, off, en]
  simp only [Bool.false_eq_true, if_false, Bool.not_true]
  refine (congrArg (State.sq · q) (if_neg (show ¬(!s.mayEnable q v) = true by simp [may]))).trans ?_
  rw [if_neg (by simp [idle]), modSq_sq_same, modSq_sq_same]
  rfl

/-- EN on a disabled queue that may not be enabled leaves it disabled with error 0x20 (R344). -/
theorem sqCtrl_refuses (may : s.mayEnable q v = false) : (s.sqCtrl q v).sq q = { s.sq q with
    version := bitsOf v 29 28, log2 := bitsOf v 19 16, err := 0x20 } := by
  unfold State.sqCtrl
  dsimp only
  rw [noReset, off, en]
  simp only [Bool.false_eq_true, if_false, Bool.not_true]
  refine (congrArg (State.sq · q) (if_pos (show (!s.mayEnable q v) = true by simp [may]))).trans ?_
  rw [modSq_sq_same, modSq_sq_same, ← off]

end

/-- Settles O37. -/
theorem streamQueueControl : Obligations.StreamQueueControl := by
  unfold Obligations.StreamQueueControl
  intro s p q v serves alive own cold
  have ctrl : exec (.sqEnable p q v) s = .next (s.sqCtrl q v.toNat) :=
    congrArg Host.Outcome.next (sqWrite_acts serves alive own cold 0 _)
  have refused (off : (s.sq q).en = false) (en : bitOf v.toNat 31 = true) (noReset : bitOf v.toNat 30 = false)
      (may : s.mayEnable q v.toNat = false) : Answers (.sqEnable p q v) s fun t =>
        (t.sq q).en = false ∧ (t.sq q).err = 0x20 ∧ (t.sq q).phase = (s.sq q).phase := by
    refine ⟨_, ctrl, ?_⟩
    dsimp only
    rw [sqCtrl_refuses off en noReset may]
    exact ⟨off, rfl, rfl⟩
  refine ⟨fun off en noReset => ⟨fun v1 lo hi desc cpl idle log2 => ⟨_, ctrl, ?_⟩, fun bad => refused off en noReset ?_,
      fun small => refused off en noReset ?_⟩,
    ⟨_, congrArg Host.Outcome.next (sqWrite_acts serves alive own cold 0 _), ?_⟩, fun on resetting done => if_neg ?_,
    ⟨fun legal => ?_, fun legal => ?_, fun far run going started => ?_⟩, fun other => ⟨?_, ?_⟩⟩
  · refine (sqCtrl_enables off en noReset ?_ idle).trans (by rw [own])
    simp only [State.mayEnable, own, Option.isSome_some, Bool.and_eq_true, decide_eq_true_eq, beq_iff_eq, true_and]
    exact ⟨⟨⟨⟨⟨v1, lo⟩, hi⟩, desc⟩, cpl⟩, log2⟩
  · simp only [State.mayEnable, ← Bool.not_eq_true, Bool.and_eq_true, decide_eq_true_eq, beq_iff_eq]
    omega
  · simp only [State.mayEnable, ← Bool.not_eq_true, Bool.and_eq_true, decide_eq_true_eq]
    omega
  · unfold State.sqResetBegin
    dsimp only
    rw [modSq_sq_same]
    exact ⟨rfl, rfl, fun o h => by simp at h; exact ⟨h.1, h.2.1⟩, rfl, rfl⟩
  · simpa [on, resetting, Option.isSome_iff_ne_none] using done
  · exact congrArg Host.Outcome.next ((doorbell_own serves alive own _ _).trans (if_pos (by simpa using legal)))
  · exact congrArg Host.Outcome.next ((doorbell_own serves alive own _ _).trans (if_pos (by simpa using legal)))
  · refine ⟨_, congrArg Host.Outcome.next ((doorbell_own serves alive own _ _).trans ((if_neg (by simpa using far)).trans
      ((if_neg (by simp [run, going])).trans (sqSettle_of_started ?_)))), ?_, ?_⟩
    · simpa using started
    · simp
    · simp
  · exact congrArg Host.Outcome.next (doorbell_other other (by rw [own]; cases p <;> decide) _ _)
  · exact congrArg Host.Outcome.next (doorbell_other other (by rw [own]; cases p <;> decide) _ _)

end Sys2Proof.Machine


namespace Sys2Proof.Machine

/-! # The operations of a stream queue (R334 to R336) -/

variable {s : State} {q : Fin 4096} {p : HostPort} {o : SqOp}

theorem exec_descNop (turn : s.sqTurn q 0 (fun _ => false) = some o) :
    exec (.descNop q) s = .next (s.modOp q o.index (SqOp.finish 0 0)) := by
  change execDescNop q s = _
  unfold execDescNop
  rw [turn]

theorem exec_descRecv (turn : s.sqTurn q 4 (fun _ => false) = some o) :
    exec (.descRecv q) s = .next (s.modOp q o.index fun o => { o with posted := true }) := by
  change execDescRecv q s = _
  unfold execDescRecv
  rw [turn]

theorem exec_descRread (turn : s.sqTurn q 5 (fun _ => false) = some o) :
    exec (.descRread q) s = .next (s.modOp q o.index fun o => { o with started := true }) := by
  change execDescRread q s = _
  unfold execDescRread
  rw [turn]

/-- What a read sent to a host leaves: the requests go out, and HBM stays (R325). -/
theorem hostRead_out (s : State) (p : HostPort) (a len : Nat) (w : ReadFor) :
    (s.hostRead p a len w).out = s.withReads p a len ∧ (s.hostRead p a len w).hbm = s.hbm := by
  rw [hostRead_eq]
  exact ⟨rfl, rfl⟩

section
variable (hp : (s.sq q).port = some p)
include hp

/-- A running queue with descriptors to fetch reads up to eight of one stretch of its ring (R333). -/
theorem descriptorFetch_reads {n : Nat} (serves : s.portServes p = true) (en : (s.sq q).en = true)
    (run : (s.sq q).phase = .running) (going : (s.sq q).stopping = none) (thawed : s.grist.frozen = false)
    (unpaused : s.sqPaused q = false) (none_ : (s.sq q).fetching = 0) (fits : s.readFits p (64 * n) = true)
    (hn : n = min (min 8 (ringDist (s.sq q).descTail (s.sq q).head))
        (min ((s.sq q).size - ringDist (s.sq q).head (s.sq q).cplHead) ((s.sq q).size - (s.sq q).head % (s.sq q).size)))
    (some_ : n ≠ 0) : exec (.descriptorFetch q) s = .next ((s.hostRead p
        ((s.sq q).descBase.toNat + 64 * ((s.sq q).head % (s.sq q).size)) (64 * n)
        (.descriptors q (s.sq q).head n)).modSq q fun x =>
      { x with fetching := n, head := (x.head + n) % 65536 }) := by
  change execDescriptorFetch q s = _
  unfold execDescriptorFetch
  dsimp only
  rw [hp]
  dsimp only
  rw [← hn, if_neg (by simp [serves, en, run, going, thawed, unpaused, none_, fits, some_])]

/-- The next piece of a LOAD is read from the host (R335). -/
theorem descLoad_reads {n : Nat} (turn : s.sqTurn q 1 (fun o => o.next < o.len) = some o)
    (dev : s.devOk o.dev o.len = true) (hn : n = min (o.len - o.next) (4096 - (o.dev + o.next) % 4096))
    (fits : s.readFits p n = true) : exec (.descLoad q) s = .next ((s.modOp q o.index fun o =>
        { o with started := true, reads := o.reads + 1, next := o.next + n }).hostRead p (o.host + o.next) n
          (.opData q o.index o.next)) := by
  change execDescLoad q s = _
  unfold execDescLoad
  rw [turn, hp]
  dsimp only
  rw [if_neg (by simp [dev]), ← hn, if_neg (by simp [fits])]

/-- The next 4,096 bytes of a SEND are read from the host (R335). -/
theorem descSend_reads (turn : s.sqTurn q 3 (fun o => o.next < o.len) = some o)
    (fits : s.readFits p (min (o.len - o.next) 4096) = true) : exec (.descSend q) s = .next ((s.modOp q o.index fun x =>
        { x with started := true, reads := x.reads + 1, next := x.next + min (o.len - o.next) 4096 }).hostRead p
          (o.host + o.next) (min (o.len - o.next) 4096) (.opData q o.index o.next)) := by
  change execDescSend q s = _
  unfold execDescSend
  rw [turn, hp]
  dsimp only
  rw [if_neg (by simp [fits])]

/-- The data of an RWRITE is read from the host when its port holds the token, else it ends with STATUS 4 (R340). -/
theorem exec_descRwrite (turn : s.sqTurn q 6 (fun _ => false) = some o) : exec (.descRwrite q) s =
    .next (if s.host.holder ≠ portNum p then s.modOp q o.index (SqOp.finish 4 0)
      else if s.readFits p o.len = false then s
      else (s.modOp q o.index fun x => { x with started := true, reads := 1, next := x.len }).hostRead p o.host o.len
        (.opData q o.index 0)) := by
  change execDescRwrite q s = _
  unfold execDescRwrite
  rw [turn, hp]
  dsimp only
  split <;> split <;> simp_all

/-- The next piece of a STORE leaves to the host, and no byte of HBM changes (R335). -/
theorem descStore_writes {n : Nat} {e : Ecc} (turn : s.sqTurn q 2 (fun _ => true) = some o)
    (dev : s.devOk o.dev o.len = true) (hn : n = min (o.len - o.next) (4096 - (o.dev + o.next) % 4096))
    (ready : s.hbmReady (o.dev + o.next) n = true) (next : s.storeTurn q (o.dev + o.next) = true) :
    Answers (.descStore q e) s fun t =>
      t.out = s.withWrites p (o.host + o.next) (s.hbmBytes (o.dev + o.next) n) true ∧ t.hbm = s.hbm := by
  have read := eccRead_eccFrame s (o.dev + o.next) n e 3 .used
  have out : (s.eccRead (o.dev + o.next) n e 3 .used).out = s.out := (congrArg State.out read :)
  have host : (s.eccRead (o.dev + o.next) n e 3 .used).host = s.host := (congrArg State.host read :)
  have hbm : (s.eccRead (o.dev + o.next) n e 3 .used).hbm = s.hbm := (congrArg State.hbm read :)
  change Answers (.descStore q e) s _
  unfold Answers
  change ∃ t, execDescStore q e s = _ ∧ _
  unfold execDescStore
  rw [turn, hp]
  dsimp only [State.ctlRead]
  rw [if_neg (by simp [dev]), ← hn, if_neg (by simp [ready, next])]
  refine ⟨_, rfl, ?_, ?_⟩
  · change ((State.sendWrite _ p _ _ true).out) = _
    rw [sendWrite_out]
    unfold State.withWrites State.port
    rw [out, host]
  · change ((State.sendWrite _ p _ _ true).hbm) = _
    rw [sendWrite_leaves (f := State.hbm) _ _ _ _ _ fun _ _ => rfl, hbm]

end

/-- A WAIT takes its count from a flag that has it, else the queue waits (R66, R67). -/
theorem exec_descWait (turn : s.sqTurn q 7 (fun _ => false) = some o)
    (owned : (s.flagOwner (byteAt o.desc 0x21) (byteAt o.desc 0x20)).1 ≠ 0) : ∃ walks, exec (.descWait q) s =
    .next (if natAt o.desc 0x22 2 ≤ (s.tun (byteAt o.desc 0x21)).flag (byteAt o.desc 0x20) then
        (s.modTun (byteAt o.desc 0x21) fun u => u.setFlag (byteAt o.desc 0x20)
          (u.flag (byteAt o.desc 0x20) - natAt o.desc 0x22 2)).modOp q o.index (SqOp.finish 0 0)
      else { (s.modOp q o.index fun o => { o with started := true }).modSq q fun x => { x with
          phase := .waiting, waitFlag := byteAt o.desc 0x20, waitTun := byteAt o.desc 0x21,
          waitCount := natAt o.desc 0x22 2, waitSince := s.now } with walks := walks }) := by
  change ∃ walks, execDescWait q s = _
  unfold execDescWait
  rw [turn]
  dsimp only
  rw [if_neg (by simpa using owned)]
  split
  · exact ⟨[], rfl⟩
  · exact ⟨_, rfl⟩

/-- Settles O38. -/
theorem descriptorsStart : Obligations.DescriptorsStart := by
  unfold Obligations.DescriptorsStart
  intro s q p hp
  refine ⟨fun n serves en run going thawed unpaused none_ fits hn some_ => ⟨_, descriptorFetch_reads hp serves en run going
      thawed unpaused none_ fits hn some_, ?_⟩, fun o turn => exec_descNop turn,
    fun o turn dev fits => ⟨_, descLoad_reads hp turn dev rfl fits, hostRead_out ..⟩,
    fun o n e turn dev hn ready next => descStore_writes hp turn dev hn ready next,
    fun o turn fits => ⟨_, descSend_reads hp turn fits, hostRead_out ..⟩, fun o turn => exec_descRecv turn,
    fun o turn => exec_descRread turn, fun o turn => ⟨fun foreign => ?_, fun own fits => ?_⟩,
    fun o turn owned => ⟨fun met => ?_, fun unmet => ?_⟩⟩
  · rw [hostRead_eq]
    refine ⟨rfl, ?_, ?_, rfl⟩
    · rw [modSq_sq_same]
    · rw [modSq_sq_same]
      rfl
  · rw [exec_descRwrite hp turn, if_pos foreign]
  · refine ⟨_, (exec_descRwrite hp turn).trans (congrArg Host.Outcome.next
      ((if_neg (by simp [own])).trans (if_neg (by simp [fits])))), hostRead_out ..⟩
  · obtain ⟨walks, run⟩ := exec_descWait turn owned
    rw [if_pos met] at run
    refine ⟨_, run, ?_, rfl⟩
    have small : (s.tun (byteAt o.desc 0x21)).flag (byteAt o.desc 0x20) < 65536 := BitVec.isLt _
    have set := setFlag_flag_same (s.tun (byteAt o.desc 0x21)) (byteAt o.desc 0x20)
      ((s.tun (byteAt o.desc 0x21)).flag (byteAt o.desc 0x20) - natAt o.desc 0x22 2)
    rw [Nat.mod_eq_of_lt (by omega)] at set
    exact (congrArg (Tun.flag · (byteAt o.desc 0x20)) (modTun_tun_same s (byteAt o.desc 0x21) fun u =>
      u.setFlag (byteAt o.desc 0x20) (u.flag (byteAt o.desc 0x20) - natAt o.desc 0x22 2))).trans set
  · obtain ⟨walks, run⟩ := exec_descWait turn owned
    rw [if_neg (by omega)] at run
    have waits := modSq_sq_same (s.modOp q o.index fun o => { o with started := true }) q fun x => { x with
      phase := .waiting, waitFlag := byteAt o.desc 0x20, waitTun := byteAt o.desc 0x21,
      waitCount := natAt o.desc 0x22 2, waitSince := s.now }
    exact ⟨_, run, (congrArg StreamQ.phase waits :), (congrArg StreamQ.waitTun waits :), rfl, rfl⟩

end Sys2Proof.Machine


namespace Sys2Proof.Machine

/-! # The oldest descriptor leaves its ring (R336 to R338) -/

variable {s t u : State} {q : Fin 4096} {p : HostPort} {o : SqOp} {rest : List SqOp} {st : Nat}

/-- Signals only add to what has left the package. -/
theorem signal_out (s : State) (p : HostPort) (v : Nat) : s.out <:+ (s.signal p v).out := by
  unfold State.signal
  dsimp only
  split
  · cases p <;> exact List.suffix_refl _
  · exact List.suffix_cons _ _

theorem sqSignal_signalled (s : State) (q : Nat) : s.Signalled (s.sqSignal q) := by
  unfold State.sqSignal
  split
  · exact signal_signalled ..
  · exact signal_signalled ..
  · exact .refl s

theorem sqSignal_out (s : State) (q : Nat) : s.out <:+ (s.sqSignal q).out := by
  unfold State.sqSignal
  split
  · exact signal_out ..
  · exact signal_out ..
  · exact List.suffix_refl _

theorem State.Signalled.sq (h : s.Signalled t) (k : Nat) : t.sq k = s.sq k := by
  unfold State.sq
  rw [h.sqs]

/-- Queue `q` has at most been stopped: its indices stay, its operations stay or are gone. -/
structure State.Settled (s t : State) (q : Nat) : Prop where
  cplTail : (t.sq q).cplTail = (s.sq q).cplTail
  done : (t.sq q).done = (s.sq q).done
  ops : ∀ x ∈ (t.sq q).ops, x ∈ (s.sq q).ops
  tuns : t.tuns = s.tuns
  hbm : t.hbm = s.hbm
  out : s.out <:+ t.out

/-- What has been signalled is settled. -/
theorem State.Signalled.settled (h : s.Signalled t) (out : s.out <:+ t.out) (q : Nat) : s.Settled t q where
  cplTail := by rw [h.sq]
  done := by rw [h.sq]
  ops x hx := by rwa [h.sq] at hx
  tuns := h.tuns
  hbm := h.hbm
  out := out

theorem State.Settled.trans {k : Nat} (h : s.Settled t k) (g : t.Settled u k) : s.Settled u k where
  cplTail := g.cplTail.trans h.cplTail
  done := g.done.trans h.done
  ops x hx := h.ops x (g.ops x hx)
  tuns := g.tuns.trans h.tuns
  hbm := g.hbm.trans h.hbm
  out := h.out.trans g.out

theorem sqSettle_settled (s : State) (q : Nat) : s.Settled (s.sqSettle q) q := by
  unfold State.sqSettle
  dsimp only
  split
  · exact (State.Signalled.refl s).settled (List.suffix_refl _) q
  · split
    · exact (State.Signalled.refl s).settled (List.suffix_refl _) q
    · refine State.Settled.trans ?_ ((sqSignal_signalled _ q).settled (sqSignal_out _ q) q)
      constructor <;> simp [modSq_sq_same]

/-- The descriptor `o`, complete with `st`, asks for a raise (R336). -/
def StreamQ.wantsRaise (x : StreamQ) (o : SqOp) (st : Nat) : Bool :=
  x.version == 2 && o.flagBit 3 && st != 1 && (o.ended != some 10 || o.started)
/-- The STATUS it shows: 6 where the queue does not own the flag to raise (R336). -/
def State.statusShown (s : State) (q : Nat) (o : SqOp) (st : Nat) : Nat :=
  if (s.sq q).wantsRaise o st && !(s.flagOwner (byteAt o.desc 0x21) (byteAt o.desc 0x20) == (3, q)) && st == 0 then 6 else st
/-- The raises once it is complete (R336). -/
def State.raisesBy (s : State) (q : Nat) (o : SqOp) (st : Nat) : List Raise :=
  if (s.sq q).wantsRaise o st && s.flagOwner (byteAt o.desc 0x21) (byteAt o.desc 0x20) == (3, q) then
    s.raises ++ [⟨byteAt o.desc 0x21, byteAt o.desc 0x20, natAt o.desc 0x22 2, none⟩] else s.raises
/-- The state once its record has been written and it has left its ring (R337). -/
def State.leftRing (s : State) (q : Nat) (p : HostPort) (o : SqOp) (rest : List SqOp) (st : Nat) : State :=
  State.modSq { s with
      raises := s.raisesBy q o st
      out := .hostWrite (portNum p) ((s.sq q).cplBase.toNat + 16 * (o.index % (s.sq q).size))
        ((s.sq q).record o (s.statusShown q o st)) false :: s.out } q fun x => { x with
    ops := rest, cplTail := (o.index + 1) % 65536, done := (x.done + 1) % 2 ^ 32,
    stopping := if s.statusShown q o st != 0 && x.stopping.isNone then some (s.statusShown q o st, o.index) else x.stopping }

/-- A complete descriptor that may leave does so, is signalled when it asks for it, and the queue settles. -/
theorem exec_descriptorComplete (hp : (s.sq q).port = some p) (serves : s.portServes p = true)
    (ops : (s.sq q).ops = o :: rest) (ended : o.ended = some st)
    (run : (s.sq q).phase = .running ∨ (s.sq q).phase = .waiting) (may : (s.sq q).stopping = none ∨ o.started = true) :
    exec (.descriptorComplete q) s = .next (State.sqSettle
      (if o.flagBit 2 then (s.leftRing q p o rest st).sqSignal q else s.leftRing q p o rest st) q) := by
  change execDescriptorComplete q s = _
  unfold execDescriptorComplete
  dsimp only
  rw [ops, hp]
  dsimp only
  rw [ended]
  dsimp only
  rw [if_neg (by obtain h | h := run <;> obtain g | g := may <;> simp [serves, h, g])]
  unfold State.leftRing State.raisesBy State.statusShown StreamQ.wantsRaise
  rw [ended]
  generalize ((s.sq q).version == 2 && o.flagBit 3 && st != 1 && (some st != some 10 || o.started)) = wants
  generalize (s.flagOwner (byteAt o.desc 0x21) (byteAt o.desc 0x20) == (3, q.val)) = owned
  cases wants <;> cases owned <;> rfl

/-- A complete descriptor's vector is signalled when it asks for it (R337). -/
theorem signalledWhen (s : State) (b : Bool) (q : Nat) : s.Signalled (if b then s.sqSignal q else s)
    ∧ s.out <:+ (if b then s.sqSignal q else s).out := by
  split
  · exact ⟨sqSignal_signalled s q, sqSignal_out s q⟩
  · exact ⟨.refl s, List.suffix_refl _⟩

/-- The queue as the descriptor that has left its ring leaves it. -/
theorem leftRing_sq (s : State) (q : Nat) (p : HostPort) (o : SqOp) (rest : List SqOp) (st : Nat) :
    (s.leftRing q p o rest st).sq q = { s.sq q with
      ops := rest, cplTail := (o.index + 1) % 65536, done := ((s.sq q).done + 1) % 2 ^ 32,
      stopping := if s.statusShown q o st != 0 && (s.sq q).stopping.isNone then some (s.statusShown q o st, o.index)
        else (s.sq q).stopping } := by
  unfold State.leftRing
  rw [modSq_sq_same]
  rfl

/-- Without RAISE a descriptor shows its own STATUS, and nothing is raised (R336). -/
theorem statusShown_of_quiet (quiet : o.flagBit 3 = false) (s : State) (q st : Nat) : s.statusShown q o st = st
    ∧ s.raisesBy q o st = s.raises := by
  have wants : (s.sq q).wantsRaise o st = false := by simp [StreamQ.wantsRaise, quiet]
  exact ⟨if_neg (by simp [wants]), if_neg (by simp [wants])⟩

/-- Without RAISE the record of its own STATUS leaves (R337). -/
theorem leftRing_out (quiet : o.flagBit 3 = false) (s : State) (q : Nat) (p : HostPort) (rest : List SqOp) (st : Nat) :
    (s.leftRing q p o rest st).out = .hostWrite (portNum p)
      ((s.sq q).cplBase.toNat + 16 * (o.index % (s.sq q).size)) ((s.sq q).record o st) false :: s.out := by
  unfold State.leftRing
  rw [(statusShown_of_quiet quiet s q st).1]
  rfl

/-- The owner's RAISE at version 2 without a failure is sent (R336). -/
theorem raisesBy_of_owner (raise : o.flagBit 3 = true) (ended : o.ended = some 0) (version : (s.sq q).version = 2)
    (owner : s.flagOwner (byteAt o.desc 0x21) (byteAt o.desc 0x20) = (3, q.val)) : s.statusShown q o 0 = 0
    ∧ s.raisesBy q o 0 = s.raises ++ [⟨byteAt o.desc 0x21, byteAt o.desc 0x20, natAt o.desc 0x22 2, none⟩] := by
  have wants : (s.sq q).wantsRaise o 0 = true := by simp [StreamQ.wantsRaise, raise, ended, version]
  exact ⟨if_neg (by simp [owner]), if_pos (by simp [wants, owner])⟩

/-- Settles O39. -/
theorem descriptorCompletes : Obligations.DescriptorCompletes := by
  unfold Obligations.DescriptorCompletes
  intro s q p o rest st hp serves ops ended
  have left := leftRing_sq s q p o rest st
  obtain ⟨signalled, grown⟩ := signalledWhen (s.leftRing q p o rest st) (o.flagBit 2) q
  refine ⟨fun run may => ⟨_, exec_descriptorComplete hp serves ops ended run may, ?_⟩,
    fun run going started => ⟨_, exec_descriptorComplete hp serves ops ended (.inl run) (.inl going), ?_⟩⟩
  · have settled := (signalled.settled grown q).trans (sqSettle_settled _ q)
    refine ⟨settled.cplTail.trans (by rw [left]), settled.done.trans (by rw [left]), fun x hx => ?_, settled.tuns, settled.hbm,
      fun quiet => settled.out.subset ?_⟩
    · have := settled.ops x hx
      rwa [left] at this
    · rw [leftRing_out quiet]
      exact List.mem_cons_self
  · have sq := (signalled.sq q).trans left
    have raises := congrArg State.raises signalled.1
    rw [sqSettle_of_started (by rw [sq]; simpa using started)]
    generalize hu : (if o.flagBit 2 = true then (s.leftRing q p o rest st).sqSignal q else s.leftRing q p o rest st) = u
      at signalled sq raises
    dsimp only
    rw [sq, signalled.tuns, signalled.hbm]
    refine ⟨rfl, rfl, rfl, fun quiet => ?_, fun raise version ok owner => ?_, rfl, rfl⟩
    · obtain ⟨shown, none_⟩ := statusShown_of_quiet quiet s q st
      refine ⟨raises.trans none_, ?_, fun silent => ?_⟩
      · rw [shown, going]
        simp
      · rw [← hu, if_neg (by simp [silent]), leftRing_out quiet]
    · subst ok
      obtain ⟨shown, sent⟩ := raisesBy_of_owner raise ended version owner
      refine ⟨?_, raises.trans sent⟩
      rw [shown, going]
      rfl

end Sys2Proof.Machine


namespace Sys2Proof.Machine

/-! # A link's island reset with a collective open (R186, R294, R392) -/

/-- ISLAND_RESET of an island that exists resets it when no reset is in progress, and begins the reset's time. -/
theorem exec_islandReset_of_mayWrite {s : State} {p : HostPort} {n : BitVec 9} (may : s.mayWrite p 0x60030 = true)
    (free : s.power.island = none) (ok : islandOk n.toNat = true) : exec (.islandReset p n) s =
    .next ((s.islandReset n.toNat).modPower fun x => { x with island := some n.toNat, islandAt := s.now }) :=
  congrArg Host.Outcome.next ((hostWrite_acts may (blockOf_ne_tun (by decide)) _).trans
    ((if_neg (by simp [free])).trans (if_neg (by simp [ok]))))

/-- The reset of link 0's island takes the link down, ordinal 9 is abandoned, and the held frame's cells go back in
the granary's next core cycle: two ticks pass. -/
theorem islandReset_fabricHolding_now : (fabricHolding.islandReset 225).now = 2 := by
  decide +kernel

/-- Refutes O23: with a collective open, the reset of a link's island gives up a frame that a context holds, and that
ends in the granary's next core cycle: `now`, at 0 before, stands at 2, and BUSY has begun at 0. -/
theorem not_islandAndPortReset : ¬ Obligations.IslandAndPortReset := by
  unfold Obligations.IslandAndPortReset
  intro h
  obtain ⟨island, -⟩ := h fabricHolding .a
  have may : fabricHolding.mayWrite .a 0x60030 = true := by decide
  obtain ⟨-, -, reset⟩ := island 225 may
  have ok : islandOk (225#9).toNat = true := by decide
  obtain ⟨t, ht, -, -, -, now, -⟩ := reset rfl ok
  obtain rfl := Host.Outcome.next.inj ((exec_islandReset_of_mayWrite may rfl ok).symm.trans ht)
  have begun (u : State) (f : Power → Power) : (u.modPower f).now = u.now := rfl
  rw [begun, show (225#9).toNat = 225 from rfl, islandReset_fabricHolding_now] at now
  exact absurd now (by decide)

end Sys2Proof.Machine


namespace Sys2Proof.Machine

/-! # Faults that are taken (R348 to R354)

## What giving collectives up leaves -/

/-- What has been latched of the faults taken (R350, R351, R354). -/
structure FaultSt.Latched where
  seen : Tab Word
  first : Option FaultRec
  firstCls : Nat
  ovf : Bool
  ovfCnt : Nat
  fatal : Option FaultRec

@[inherit_doc FaultSt.Latched] def FaultSt.latched (f : FaultSt) : FaultSt.Latched :=
  ⟨f.seen, f.first, f.firstCls, f.ovf, f.ovfCnt, f.fatal⟩

/-- HBM and what has been latched stay, no tun begins to run or wait, and every link keeps its phase and ENABLE or
loses them. -/
structure State.Subdued (s t : State) : Prop where
  hbm : t.hbm = s.hbm
  latched : t.fault.latched = s.fault.latched
  phase : ∀ k, (t.tun k).phase = (s.tun k).phase ∨ (t.tun k).phase = .haltedFault
  link : ∀ p, ((t.link p).phase = (s.link p).phase ∨ (t.link p).phase = .disabled)
    ∧ ((t.link p).enable = (s.link p).enable ∨ (t.link p).enable = false)

namespace State.Subdued
variable {s t u : State}

theorem trans (h : s.Subdued t) (g : t.Subdued u) : s.Subdued u where
  hbm := g.hbm.trans h.hbm
  latched := g.latched.trans h.latched
  phase k := (g.phase k).elim (fun same => same ▸ h.phase k) .inr
  link p := by
    obtain ⟨phase, enable⟩ := g.link p
    exact ⟨phase.elim (fun same => same ▸ (h.link p).1) .inr, enable.elim (fun same => same ▸ (h.link p).2) .inr⟩

theorem refl (s : State) : s.Subdued s := ⟨rfl, rfl, fun _ => .inl rfl, fun _ => ⟨.inl rfl, .inl rfl⟩⟩

/-- An operation that leaves HBM, the latches, the tuns and the links. -/
theorem unchanged (hbm : t.hbm = s.hbm) (latched : t.fault.latched = s.fault.latched) (tuns : t.tuns = s.tuns)
    (links : t.links = s.links) : s.Subdued t where
  hbm := hbm
  latched := latched
  phase k := by
    unfold State.tun
    exact .inl (by rw [tuns])
  link p := by
    unfold State.link
    rw [links]
    exact ⟨.inl rfl, .inl rfl⟩

theorem foldl {α : Type} {f : State → α → State} (h : ∀ (u : State) (a : α), u.Subdued (f u a)) (l : List α) (s : State) :
    s.Subdued (l.foldl f s) := by
  induction l generalizing s with
  | nil => exact .refl s
  | cons a l ih => exact (h s a).trans (ih (f s a))

end State.Subdued

open State.Subdued (unchanged)

section
variable (s : State)

theorem raise_subdued (src detail : Nat) : s.Subdued (s.raise src detail) := unchanged rfl rfl rfl rfl
theorem modCol_subdued (f : Collective → Collective) : s.Subdued (s.modCol f) := unchanged rfl rfl rfl rfl
theorem modCtx_subdued (c : Nat) (f : Ctx → Ctx) : s.Subdued (s.modCtx c f) := unchanged rfl rfl rfl rfl
theorem modCore_subdued (f : Core → Core) : s.Subdued (s.modCore f) := unchanged rfl rfl rfl rfl
theorem modGranary_subdued (f : Granary → Granary) : s.Subdued (s.modGranary f) := unchanged rfl rfl rfl rfl
theorem modLauter_subdued (u : Nat) (f : Lauter → Lauter) : s.Subdued (s.modLauter u f) := unchanged rfl rfl rfl rfl
theorem modTime_subdued (f : TimeSt → TimeSt) : s.Subdued (s.modTime f) := unchanged rfl rfl rfl rfl
theorem useFree_subdued : s.Subdued s.useFree := unchanged rfl rfl rfl rfl

theorem modTun_subdued {i : Nat} {f : Tun → Tun} (h : (f (s.tun i)).phase = (s.tun i).phase
    ∨ (f (s.tun i)).phase = .haltedFault) : s.Subdued (s.modTun i f) where
  hbm := rfl
  latched := rfl
  phase k := by
    rw [modTun_tun]
    split
    · next same => exact same ▸ h
    · exact .inl rfl
  link _ := ⟨.inl rfl, .inl rfl⟩

theorem modLink_subdued {i : Nat} {f : Link → Link}
    (h : ((f (s.link i)).phase = (s.link i).phase ∨ (f (s.link i)).phase = .disabled)
      ∧ ((f (s.link i)).enable = (s.link i).enable ∨ (f (s.link i)).enable = false)) :
    s.Subdued (s.modLink i f) where
  hbm := rfl
  latched := rfl
  phase _ := .inl rfl
  link p := by
    by_cases same : p = i
    · rw [same, modLink_link_same]
      exact h
    · rw [modLink_link_other _ _ same]
      exact ⟨.inl rfl, .inl rfl⟩

theorem reach_subdued (due : Nat) : s.Subdued (s.reach due) := by
  obtain ⟨_, _, _, h⟩ := reach_frame s due
  rw [h]
  exact unchanged rfl rfl rfl rfl

theorem source_subdued (f : SrcFrame) : s.Subdued (s.source f) := by
  obtain ⟨_, _, h, -⟩ := source_frame s f
  rw [h]
  exact unchanged rfl rfl rfl rfl

theorem rxSettle_subdued (p v : Nat) : s.Subdued (s.rxSettle p v) := modLink_subdued s ⟨.inl rfl, .inl rfl⟩

theorem rxDrop_subdued (p id : Nat) : s.Subdued (s.rxDrop p id) :=
  .foldl (fun u v => (modLink_subdued u (by exact ⟨.inl rfl, .inl rfl⟩)).trans (rxSettle_subdued _ p v)) _ s

theorem granaryTurn_subdued (n : Nat) : s.Subdued (s.granaryTurn n) := by
  unfold State.granaryTurn
  dsimp only
  split
  · exact (reach_subdued s _).trans (modGranary_subdued _ _)
  · exact modGranary_subdued _ _

theorem dropResv_subdued (tag : Nat) : s.Subdued (s.dropResv tag) := by
  unfold State.dropResv
  split
  · exact .refl s
  · exact unchanged rfl rfl rfl rfl

theorem opFrame_subdued (q : Option (Nat × Nat)) (n : Nat) : s.Subdued (s.opFrame q n) := by
  rcases q with - | q <;> exact unchanged rfl rfl rfl rfl

theorem freeFrame_subdued (id : Nat) : s.Subdued (s.freeFrame id) := by
  unfold State.freeFrame
  split
  · exact .refl s
  · next f _ =>
    extract_lets s1 s2 s3
    have h1 : s.Subdued s1 := by
      unfold s1
      split
      · exact .refl s
      · exact opFrame_subdued s _ _
    have h3 : s2.Subdued s3 := by
      unfold s3
      split
      · exact dropResv_subdued s2 _
      · split
        · exact (granaryTurn_subdued s2 0).trans (modGranary_subdued _ _)
        · exact .refl s2
    have whole : s.Subdued s3 := (h1.trans (modCore_subdued s1 _)).trans h3
    split
    · exact whole.trans (rxDrop_subdued _ _ _)
    · exact whole

theorem dropHold_subdued (id : Nat) : s.Subdued (s.dropHold id) := by
  unfold State.dropHold State.dropRef State.freeIfDone State.modFrame
  have marked := fun f g => (modCore_subdued s f).trans (modCore_subdued (s.modCore f) g)
  split
  · split
    · split
      · split
        · exact (marked _ _).trans (freeFrame_subdued _ _)
        · exact marked _ _
      · exact marked _ _
    · exact .refl s
  · exact .refl s

theorem dropHeld_subdued (x : HeldResult) : s.Subdued (s.dropHeld x) := by
  have h : s.Subdued (x.frames.foldl State.dropHold s) := .foldl dropHold_subdued x.frames s
  unfold State.dropHeld
  dsimp only
  split
  · split
    · exact h
    · exact h.trans (modGranary_subdued _ _)
  · exact h

theorem dropHolds_subdued (k : Chunk) : s.Subdued (s.dropHolds k) := .foldl dropHold_subdued _ s

theorem closeStream_subdued (k : Nat) : s.Subdued (s.closeStream k) := by
  unfold State.closeStream
  refine (State.Subdued.foldl (fun u x => ?_) _ s).trans
    ((State.Subdued.foldl (fun u r => dropResv_subdued u _) _ _).trans (unchanged rfl rfl rfl rfl))
  cases x <;> exact unchanged rfl rfl rfl rfl

theorem closeDigest_subdued (id : Nat) (b : Bool) : s.Subdued (s.closeDigest id b) where
  hbm := (closeDigest_frame s id b).hbm
  latched := congrArg FaultSt.latched (closeDigest_fault s id b)
  phase k := by
    by_cases same : k = id
    · rw [same, closeDigest_tun_same]
      exact .inl rfl
    · exact .inl (congrArg Tun.phase (closeDigest_otherTuns s id b k same))
  link p := by
    rw [(closeDigest_frame s id b)]
    exact ⟨.inl rfl, .inl rfl⟩

theorem closeBegun_subdued (id : Nat) : s.Subdued (s.closeBegun id) := unchanged rfl rfl rfl rfl

/-- A halt for a fault stops its tun, and no other begins to run (R59). -/
theorem haltFaultAt_subdued (id c : Nat) : s.Subdued (s.haltFaultAt id c) := by
  unfold State.haltFaultAt
  extract_lets t s1 s2
  have h1 : s.Subdued s1 := modTun_subdued s (.inr rfl)
  have h2 : s.Subdued s2 := by
    refine h1.trans (State.Subdued.trans ?_ (closeBegun_subdued (s1.digInvalid.cancelRunAhead id) id))
    refine State.Subdued.trans (t := s1.digInvalid) (unchanged rfl rfl rfl rfl) (.foldl (fun u k => ?_) _ _)
    dsimp only
    split
    · exact closeStream_subdued u k
    · exact .refl u
  split
  · exact .refl s
  · split
    · exact h2.trans (closeDigest_subdued _ _ _)
    · exact h2

theorem haltFault_subdued (id : Nat) : s.Subdued (s.haltFault id) := haltFaultAt_subdued s id _

theorem bindingFault_subdued (id q n : Nat) : s.Subdued (s.bindingFault id q n) :=
  (raise_subdued s _ _).trans (haltFault_subdued _ id)

theorem sendRetract_subdued (r : GroupRec) (ord epoch rank : Nat) (self : Bool) :
    s.Subdued (s.sendRetract r ord epoch rank self) :=
  (modCol_subdued s _).trans (.foldl (fun u _ => source_subdued u _) _ _)

theorem dropLater_subdued : s.Subdued s.dropLater := by
  unfold State.dropLater
  split
  · exact .refl s
  · exact modCol_subdued s _

theorem retracted_subdued (ord epoch src : Nat) : s.Subdued (s.retracted ord epoch src) := by
  unfold State.retracted
  refine State.Subdued.trans ?_ (dropLater_subdued _)
  exact unchanged rfl rfl rfl rfl

theorem abandon_subdued (is : List (Nat × Nat × Nat)) : s.Subdued (s.abandon is) := by
  unfold State.abandon
  extract_lets keys gone partly frames s1 s2 s3 ctxs s4
  have h1 : s.Subdued s1 := .foldl dropHold_subdued _ s
  have h2 : s1.Subdued s2 := .foldl dropHeld_subdued _ s1
  have h3 : s2.Subdued s3 := .foldl (fun u b => bindingFault_subdued u _ _ _) _ s2
  exact (h1.trans (h2.trans (h3.trans (modCol_subdued s3 _)))).trans (.foldl (fun u k => modLauter_subdued u k _) _ _)

theorem retractOpen_subdued : s.Subdued s.retractOpen := by
  unfold State.retractOpen
  refine State.Subdued.trans (.foldl (fun u i => ?_) _ s) (abandon_subdued _ _)
  split
  · exact .refl u
  · exact (sendRetract_subdued u _ _ _ _ _).trans (retracted_subdued _ _ _ _)

theorem retractTun_subdued (t : Nat) : s.Subdued (s.retractTun t) := by
  refine .foldl (fun u b => ?_) _ s
  split
  · exact sendRetract_subdued u _ _ _ _ _
  · exact .refl u

/-! ## What the close of a lauter unit leaves (R201, R354) -/

theorem markForwarded_subdued (r : GroupRec) (ls : List Nat) (n : Nat) : s.Subdued (s.markForwarded r ls n) := by
  refine .foldl (fun u l => ?_) ls s
  split
  · exact .refl u
  · exact modCtx_subdued u _ _

theorem resultDone_subdued (r : GroupRec) (x : HeldResult) (p : SrcPlace) : s.Subdued (s.resultDone r x p) := by
  unfold State.resultDone
  exact State.Subdued.trans (dropHeld_subdued s x) (modCol_subdued _ _)

theorem deliverResults_subdued (r : GroupRec) (n : Nat) : s.Subdued (s.deliverResults r n) := by
  induction n generalizing s with
  | zero => exact .refl s
  | succ n ih =>
    unfold State.deliverResults
    split
    · exact .refl s
    · extract_lets bs m es t
      have passed : s.Subdued t :=
        .foldl (fun u b => (modTun_subdued u (by exact .inl rfl)).trans (modCol_subdued _ _)) bs s
      split
      · exact ((resultDone_subdued s r _ _).trans (.foldl (fun u b => bindingFault_subdued u _ _ _) bs _)).trans (ih _)
      · split
        · exact (passed.trans (resultDone_subdued _ _ _ _)).trans (ih _)
        · exact passed

section
variable (r : GroupRec) (port ord epoch n : Nat) (bytes : List Byte) (v reason marker : Nat)

theorem sendResult_subdued (dest : Nat) : s.Subdued (s.sendResult port r ord epoch n dest bytes v reason marker) :=
  .foldl (fun u _ => source_subdued u _) _ s

theorem forwardResult_subdued : s.Subdued (s.forwardResult port r ord epoch n bytes v reason marker) := by
  have sent (l : List Nat) : s.Subdued
      (l.foldl (fun u d => u.sendResult port r ord epoch n d bytes v reason marker) s) :=
    .foldl (fun u d => sendResult_subdued u r port ord epoch n bytes v reason marker d) l s
  unfold State.forwardResult
  dsimp only
  split
  · exact sent _
  · exact (sent _).trans (markForwarded_subdued _ _ _ _)

theorem resultHere_subdued (frames : List Nat) (mine : Bool) :
    s.Subdued (s.resultHere port r ord epoch n bytes v reason marker frames mine) := by
  unfold State.resultHere
  extract_lets k back own s1 s2 pad
  have h1 : s.Subdued s1 := by
    unfold s1
    split
    · exact .refl s
    · exact unchanged rfl rfl rfl rfl
  have h2 : s.Subdued s2 := by
    unfold s2
    split
    · exact h1.trans (forwardResult_subdued s1 r port ord epoch n bytes v reason marker)
    · exact h1
  split
  · refine State.Subdued.trans ?_ (.foldl dropHold_subdued _ _)
    exact unchanged rfl rfl rfl rfl
  · split
    next padded =>
      refine State.Subdued.trans ?_ (deliverResults_subdued _ _ _)
      refine State.Subdued.trans ?_ (modCol_subdued _ _)
      split at padded
      · obtain ⟨-, rfl⟩ := Prod.mk.inj padded
        exact h2
      · obtain ⟨-, rfl⟩ := Prod.mk.inj padded
        exact h2.trans (useFree_subdued s2)

theorem topResult_subdued (l : Nat) : s.Subdued (s.topResult port r l ord epoch n bytes v reason marker) := by
  unfold State.topResult
  extract_lets ps me superseded one s1
  have marked : s.Subdued (if superseded then s else s.markForwarded r [l] n) := by
    split
    · exact .refl s
    · exact markForwarded_subdued _ _ _ _
  have sent (dest : Nat) : s.Subdued (one s dest) := by
    unfold one
    dsimp only
    split
    · exact marked.trans (resultHere_subdued _ _ _ _ _ _ _ _ _ _ _ _)
    · exact marked.trans (sendResult_subdued _ _ _ _ _ _ _ _ _ _ _)
  have h1 : s.Subdued s1 := by
    unfold s1
    split
    · exact forwardResult_subdued _ _ _ _ _ _ _ _ _ _
    · exact .refl s
  split
  · exact h1.trans (resultHere_subdued _ _ _ _ _ _ _ _ _ _ _ _)
  · exact sent _
  · exact sent _
  · exact marked

end

theorem runResult_subdued (r : Run) (bytes : List Byte) (v reason marker : Nat) (final : Bool) :
    s.Subdued (s.runResult r bytes v reason marker final) := by
  unfold State.runResult
  split
  · exact .refl s
  · unfold State.runOutput
    extract_lets s1 s2
    have h1 : s.Subdued s1 := by
      unfold s1
      split
      · exact .refl s
      · split
        · exact .refl s
        · exact (dropHolds_subdued s _).trans (unchanged rfl rfl rfl rfl)
    refine State.Subdued.trans ?_ (modCtx_subdued s2 _ _)
    unfold s2
    split
    · exact h1.trans (topResult_subdued _ _ _ _ _ _ _ _ _ _ _)
    · exact h1.trans (modCtx_subdued _ _ _)

theorem closeLauter_subdued (u : Nat) : s.Subdued (s.closeLauter u) := by
  unfold State.closeLauter
  extract_lets l s1
  have h1 : s.Subdued s1 := by
    unfold s1
    split
    · split
      · exact modLauter_subdued s _ _
      · exact ((reach_subdued s _).trans (modLauter_subdued _ _ _)).trans (runResult_subdued _ _ _ _ _ _ _)
    · exact .refl s
  split
  · exact h1.trans ((modLauter_subdued s1 _ _).trans (runResult_subdued _ _ _ _ _ _ _))
  · exact h1

/-! ## What a port that goes down leaves (R262, R354) -/

theorem discardEgress_subdued (p : Nat) : s.Subdued (s.discardEgress p) := by
  unfold State.discardEgress
  refine State.Subdued.trans ?_ (modCore_subdued _ _)
  exact .foldl (f := fun u _ => u.countVerdict p 0) (fun u _ => unchanged rfl rfl rfl rfl) _ s

theorem timePhase_subdued (ph : TimePhase) : s.Subdued (s.timePhase ph) := by
  unfold State.timePhase
  dsimp only
  split
  · exact .refl s
  · split <;> exact unchanged rfl rfl rfl rfl

theorem chooseParent_subdued : s.Subdued s.chooseParent := by
  unfold State.chooseParent
  split
  · exact .refl s
  extract_lets roots s1
  have conflict : s.Subdued s1 := by
    unfold s1
    split <;> exact unchanged rfl rfl rfl rfl
  clear_value s1
  split
  · exact conflict.trans (modTime_subdued s1 _)
  · dsimp only
    split
    · exact (conflict.trans (modTime_subdued s1 _)).trans (timePhase_subdued _ _)
    · exact (conflict.trans (modTime_subdued s1 _)).trans (timePhase_subdued _ _)
    · exact conflict.trans (modTime_subdued s1 _)

theorem discSettle_subdued : s.Subdued s.discSettle := by
  unfold State.discSettle
  split <;> exact unchanged rfl rfl rfl rfl

/-- A port that is declared down and does not train is DISABLED (R262, R354). -/
theorem declareDown_subdued (p cause : Nat) : s.Subdued (s.declareDown p cause false)
    ∧ ((s.declareDown p cause false).link p).phase = .disabled := by
  unfold State.declareDown
  extract_lets l job s1 s2 now s3 s4 s5 s6
  have h1 : s.Subdued s1 := by
    unfold s1
    split
    · exact unchanged rfl rfl rfl rfl
    · exact .refl s
  have h2 : s1.Subdued s2 := State.Subdued.trans (modCore_subdued s1 _) (discardEgress_subdued _ p)
  have h3 : s2.Subdued s3 := modLink_subdued s2 ⟨.inr rfl, .inl rfl⟩
  have down : (s3.link p).phase = .disabled := by
    unfold s3
    rw [modLink_link_same]
    rfl
  have h5 : s3.Subdued s5 := (modTime_subdued s3 _).trans (chooseParent_subdued s4)
  have h6 : s5.Subdued s6 := (raise_subdued s5 _ _).trans (discSettle_subdued _)
  have last : s6.Subdued (if job then s6.retractOpen else s6) := by
    split
    · exact retractOpen_subdued s6
    · exact .refl s6
  have after := (h5.trans h6).trans last
  exact ⟨((h1.trans h2).trans h3).trans after, (after.link p).1.elim (·.trans down) id⟩

/-! ## A fault is taken (R350, R351, R354) -/

theorem bookPut_subdued (x : BookRec) : s.Subdued (s.bookPut x) := by
  obtain ⟨_, h⟩ := bookPut_frame s x
  rw [h]
  exact unchanged rfl rfl rfl rfl

theorem bookFault_subdued (src cls detail : Nat) : s.Subdued (s.bookFault src cls detail) := by
  unfold State.bookFault
  dsimp only
  split
  · split
    · exact .refl s
    · exact bookPut_subdued s _
  · split
    · split
      · exact bookPut_subdued s _
      · exact .refl s
    · split <;> exact bookPut_subdued s _

theorem pulse_subdued : s.Subdued s.pulse := by
  obtain ⟨_, h⟩ := pulse_frame s
  rw [h]
  exact unchanged rfl rfl rfl rfl

theorem endHold_keeps (why : Nat) : ∃ h k, s.endHold why = { s with health := h, book := k } := by
  by_cases held : s.health.hold = true
  · obtain ⟨k, h, -⟩ := endHold_frame held why
    exact ⟨_, _, h⟩
  · exact ⟨s.health, s.book, if_pos (by simpa using held)⟩

/-- What each step of a fold establishes of its element, and every step keeps, holds of every element in the end. -/
theorem foldl_establishes {α : Type} {f : State → α → State} {P : α → State → Prop}
    (subdues : ∀ (u : State) (a : α), u.Subdued (f u a)) (keeps : ∀ {u v : State} (a : α), u.Subdued v → P a u → P a v)
    (does : ∀ u a, P a (f u a)) (l : List α) : ∀ a ∈ l, P a (l.foldl f s) := by
  induction l generalizing s with
  | nil => exact fun a h => absurd h List.not_mem_nil
  | cons b l ih =>
    intro a h
    obtain rfl | h := List.mem_cons.1 h
    · exact keeps a (.foldl subdues l (f s a)) (does s a)
    · exact ih (f s b) a h

/-- A tun that neither runs nor waits. -/
def State.tunStill (t : Nat) (s : State) : Prop := (s.tun t).phase ≠ .running ∧ (s.tun t).phase ≠ .waiting
/-- A link that is disabled, and whose ENABLE is 0. -/
def State.linkDead (p : Nat) (s : State) : Prop := (s.link p).phase = .disabled ∧ (s.link p).enable = false

variable {s}

theorem State.tunStill.of_subdued {u v : State} (t : Nat) (h : u.Subdued v) (still : u.tunStill t) : v.tunStill t := by
  unfold State.tunStill at *
  obtain same | halted := h.phase t
  · rwa [same]
  · rw [halted]
    decide

theorem State.linkDead.of_subdued {u v : State} (p : Nat) (h : u.Subdued v) (dead : u.linkDead p) : v.linkDead p := by
  obtain ⟨phase, enable⟩ := h.link p
  exact ⟨phase.elim (·.trans dead.1) id, enable.elim (·.trans dead.2) id⟩

variable (s)

/-- What the fatal state does to tun `t` (R354). -/
def State.fatalTun (s : State) (t : Nat) : State :=
  match (s.tun t).phase with | .running => s.haltFault t | .waiting => s.haltFault t | _ => s

theorem fatalTun_subdued (t : Nat) : s.Subdued (s.fatalTun t) := by
  unfold State.fatalTun
  split
  · exact haltFault_subdued s t
  · exact haltFault_subdued s t
  · exact .refl s

theorem fatalTun_still (t : Nat) : (s.fatalTun t).tunStill t := by
  have halts (h : (s.tun t).haltable = true) : (s.haltFault t).tunStill t := by
    unfold State.tunStill
    rw [(haltFault_someHalt (.inl h)).2]
    decide
  unfold State.fatalTun
  split
  · next run => exact halts (by simp [Tun.haltable, run])
  · next wait => exact halts (by simp [Tun.haltable, wait])
  · next run wait => exact ⟨run, wait⟩

/-- What the fatal state does to port `p` (R354). -/
def State.fatalPort (s : State) (p : Nat) : State :=
  if (s.link p).enable || (s.link p).phase != .disabled
  then (s.declareDown p 4 false).modLink p fun l => { l with enable := false } else s

theorem fatalPort_subdued (p : Nat) : s.Subdued (s.fatalPort p) := by
  unfold State.fatalPort
  split
  · exact (declareDown_subdued s p 4).1.trans (modLink_subdued _ ⟨.inl rfl, .inr rfl⟩)
  · exact .refl s

theorem fatalPort_dead (p : Nat) : (s.fatalPort p).linkDead p := by
  unfold State.fatalPort State.linkDead
  split
  · rw [modLink_link_same]
    exact ⟨(declareDown_subdued s p 4).2, rfl⟩
  · next out => simpa [and_comm] using out

theorem enterFatal_eq : s.enterFatal = State.endHold (State.modFault (State.modJournal
    ((List.range 14).foldl State.fatalPort ((List.range 4).foldl State.closeLauter ((List.range 192).foldl State.fatalTun s)))
      fun j => { j with openE := [] }) fun f => { f with drive := true }) 4 := rfl

/-- The fatal state is entered: tuns and ports stop, the journal closes and DRIVE is 1 (R354). -/
theorem enterFatal_spec : s.Subdued s.enterFatal ∧ (∀ t < 192, s.enterFatal.tunStill t)
    ∧ (∀ p < 14, s.enterFatal.linkDead p) ∧ s.enterFatal.journal.openE = [] ∧ s.enterFatal.fault.drive = true := by
  have stops : s.Subdued ((List.range 192).foldl State.fatalTun s) := .foldl fatalTun_subdued _ s
  have still := foldl_establishes s fatalTun_subdued State.tunStill.of_subdued fatalTun_still (List.range 192)
  rw [enterFatal_eq]
  generalize (List.range 192).foldl State.fatalTun s = s1 at stops still ⊢
  have closes : s1.Subdued ((List.range 4).foldl State.closeLauter s1) := .foldl closeLauter_subdued _ s1
  generalize (List.range 4).foldl State.closeLauter s1 = s2 at closes ⊢
  have lowers : s2.Subdued ((List.range 14).foldl State.fatalPort s2) := .foldl fatalPort_subdued _ s2
  have dead := foldl_establishes s2 fatalPort_subdued State.linkDead.of_subdued fatalPort_dead (List.range 14)
  generalize (List.range 14).foldl State.fatalPort s2 = s3 at lowers dead ⊢
  obtain ⟨h, k, ends⟩ := endHold_keeps ((s3.modJournal fun j => { j with openE := [] }).modFault fun f =>
    { f with drive := true }) 4
  rw [ends]
  have last : s3.Subdued { (s3.modJournal fun j => { j with openE := [] }).modFault fun f =>
      { f with drive := true } with health := h, book := k } := unchanged rfl rfl rfl rfl
  exact ⟨(stops.trans closes).trans (lowers.trans last),
    fun t ht => .of_subdued t ((closes.trans lowers).trans last) (still t (List.mem_range.2 ht)),
    fun p hp => .of_subdued p last (dead p (List.mem_range.2 hp)), rfl, rfl⟩

/-- What is latched once fault `r` is, beside the fatal one (R350, R351). -/
def FaultSt.Latched.taking (l : FaultSt.Latched) (r : FaultRec) : FaultSt.Latched :=
  let seen := { l with seen := Tab.mod 0 l.seen (r.src / 32) fun x => x ||| word (2 ^ (r.src % 32)) }
  if srcClass r.src = 0 then seen
  else if l.first = none then { seen with first := some r, firstCls := srcClass r.src }
  else { seen with ovf := true, ovfCnt := satInc 16 l.ovfCnt }
/-- The same with another fatal fault. -/
def FaultSt.Latched.fatalTo (l : FaultSt.Latched) (x : Option FaultRec) : FaultSt.Latched := { l with fatal := x }

/-- A fault that is taken is latched, and what it does besides only subdues; a fatal one enters the fatal state
(R350, R351, R354). -/
theorem takeFault_latches (r : FaultRec) : ∃ u v : State, u.hbm = s.hbm
    ∧ (∃ x, u.fault.latched = (s.fault.latched.taking r).fatalTo x)
    ∧ (srcClass r.src = 2 → s.fault.fatal = none → u.fault.fatal = some r ∧ s.takeFault r = v.enterFatal)
    ∧ u.Subdued v ∧ v.Subdued (s.takeFault r) := by
  unfold State.takeFault
  extract_lets cls act fatal w bit g s1 s2 latches s3 s4 enters s5 s6 s7 memory s8 s9
  have h3 : s3.hbm = s.hbm ∧ s3.fault.latched = { s.fault.latched with
      seen := Tab.mod 0 s.fault.seen (r.src / 32) (fun x => x ||| word (2 ^ (r.src % 32))) } := by
    unfold s3
    split <;> exact ⟨rfl, rfl⟩
  have first : s2.fault.first = s.fault.first := rfl
  have h4 : s4.hbm = s3.hbm ∧ s4.fault.latched = if cls = 0 then s3.fault.latched
      else if s.fault.first = none then { s3.fault.latched with first := some r, firstCls := cls }
      else { s3.fault.latched with ovf := true, ovfCnt := satInc 16 s3.fault.latched.ovfCnt } := by
    unfold s4 latches
    rw [first]
    by_cases corrected : cls = 0
    · rw [if_pos (by simp [corrected]), if_pos corrected]
      exact ⟨rfl, rfl⟩
    · rw [if_neg (by simp [corrected]), if_neg corrected]
      by_cases empty : s.fault.first = none
      · rw [if_pos (by simp [corrected, empty]), if_pos empty]
        exact ⟨rfl, rfl⟩
      · rw [if_neg (by simp [empty]), if_neg empty]
        exact ⟨rfl, rfl⟩
  have taken4 : s4.fault.latched = s.fault.latched.taking r := by
    rw [h4.2, h3.2]
    rfl
  have h5 : s5.hbm = s4.hbm
      ∧ s5.fault.latched = s4.fault.latched.fatalTo (if enters then some r else s4.fault.fatal) := by
    unfold s5
    split <;> exact ⟨rfl, rfl⟩
  have h6 : s5.Subdued s6 := by
    unfold s6
    split
    · exact pulse_subdued s5
    · exact .refl s5
  have h7 : s6.Subdued s7 := by
    unfold s7
    split
    · exact retractOpen_subdued s6
    · exact .refl s6
  have h8 : s7.Subdued s8 := by
    unfold s8
    split
    · exact retractTun_subdued s7 _
    · exact .refl s7
  have fatal4 : s4.fault.fatal = s.fault.fatal := by
    have kept : (s.fault.latched.taking r).fatal = s.fault.fatal := by
      unfold FaultSt.Latched.taking
      dsimp only
      split
      · rfl
      · split <;> rfl
    exact (congrArg FaultSt.Latched.fatal taken4).trans kept
  refine ⟨s5, s9, h5.1.trans (h4.1.trans h3.1), ⟨_, by rw [h5.2, taken4]⟩,
    fun grave none_ => ?_, (h6.trans h7).trans (h8.trans (bookFault_subdued s8 _ _ _)), ?_⟩
  · have enters : enters = true := by
      unfold enters fatal State.isFatal
      rw [fatal4, none_]
      simp [cls, grave]
    exact ⟨(congrArg FaultSt.Latched.fatal h5.2).trans (if_pos enters), if_pos enters⟩
  · split
    · exact (enterFatal_spec s9).1
    · exact .refl s9

end

/-- FAULT_TAKE takes the next fault at its time (R350). -/
theorem exec_faultTake {r : FaultRec} (on : s.on = true) (next : firstFault s.fault.raised = some r)
    (real : srcClass r.src ≠ 3) : ∃ w : State, exec .faultTake s = .next (w.takeFault r) ∧ w.hbm = s.hbm
    ∧ w.fault.latched = s.fault.latched := by
  obtain ⟨n, k, g, c, later⟩ := after_later s r.at_
  refine ⟨(s.after r.at_).modFault fun f => { f with raised := f.raised.erase r }, ?_, ?_⟩
  · change execFaultTake s = _
    unfold execFaultTake
    rw [next]
    dsimp only
    rw [if_neg (by simp [on]), if_neg (by simp [real])]
  · rw [later]
    exact ⟨rfl, rfl⟩

section
variable {l : FaultSt.Latched} {r : FaultRec}

theorem FaultSt.Latched.taking_seen (l : FaultSt.Latched) (r : FaultRec) :
    bitOf (Tab.get 0 (l.taking r).seen (r.src / 32)).toNat (r.src % 32) = true := by
  have set : (l.taking r).seen = Tab.mod 0 l.seen (r.src / 32) fun x => x ||| word (2 ^ (r.src % 32)) := by
    unfold FaultSt.Latched.taking
    dsimp only
    split
    · rfl
    · split <;> rfl
  rw [set, Tab.get_mod_same]
  exact bitOf_or_word _ (Nat.mod_lt _ (by decide))

/-- A corrected fault leaves FLT_FIRST and the overflow (R351). -/
theorem FaultSt.Latched.taking_corrected (corrected : srcClass r.src = 0) :
    (l.taking r).first = l.first ∧ (l.taking r).ovf = l.ovf ∧ (l.taking r).ovfCnt = l.ovfCnt := by
  unfold FaultSt.Latched.taking
  dsimp only
  rw [if_pos corrected]
  exact ⟨rfl, rfl, rfl⟩

/-- Any other fault is latched in an empty FLT_FIRST (R351). -/
theorem FaultSt.Latched.taking_first (grave : srcClass r.src ≠ 0) (empty : l.first = none) :
    (l.taking r).first = some r ∧ (l.taking r).firstCls = srcClass r.src ∧ (l.taking r).ovf = l.ovf := by
  unfold FaultSt.Latched.taking
  dsimp only
  rw [if_neg grave, if_pos empty]
  exact ⟨rfl, rfl, rfl⟩

/-- It counts as overflow behind another (R351). -/
theorem FaultSt.Latched.taking_overflow (grave : srcClass r.src ≠ 0) (full : l.first ≠ none) :
    (l.taking r).first = l.first ∧ (l.taking r).ovf = true ∧ (l.taking r).ovfCnt = satInc 16 l.ovfCnt := by
  unfold FaultSt.Latched.taking
  dsimp only
  rw [if_neg grave, if_neg full]
  exact ⟨rfl, rfl, rfl⟩

end

/-- Settles O29. -/
theorem faultIsTaken : Obligations.FaultIsTaken := by
  unfold Obligations.FaultIsTaken
  intro s r on next real
  obtain ⟨w, run, hbm, same⟩ := exec_faultTake on next real
  obtain ⟨u, v, hbm', ⟨x, took⟩, -, rest, last⟩ := takeFault_latches w r
  have whole := rest.trans last
  have latched : (w.takeFault r).fault.latched = (s.fault.latched.taking r).fatalTo x := by
    rw [whole.latched, took, same]
  have seen : (w.takeFault r).fault.seen = (s.fault.latched.taking r).seen := (congrArg FaultSt.Latched.seen latched :)
  have first : (w.takeFault r).fault.first = (s.fault.latched.taking r).first := (congrArg FaultSt.Latched.first latched :)
  have cls : (w.takeFault r).fault.firstCls = (s.fault.latched.taking r).firstCls :=
    (congrArg FaultSt.Latched.firstCls latched :)
  have ovf : (w.takeFault r).fault.ovf = (s.fault.latched.taking r).ovf := (congrArg FaultSt.Latched.ovf latched :)
  have count : (w.takeFault r).fault.ovfCnt = (s.fault.latched.taking r).ovfCnt :=
    (congrArg FaultSt.Latched.ovfCnt latched :)
  refine ⟨_, run, ?_, fun corrected => ?_, fun grave empty => ?_, fun grave full => ?_, whole.hbm.trans (hbm'.trans hbm)⟩
  · rw [seen]
    exact FaultSt.Latched.taking_seen _ _
  · rw [first, ovf, count]
    exact FaultSt.Latched.taking_corrected corrected
  · rw [first, cls, ovf]
    exact FaultSt.Latched.taking_first grave empty
  · rw [first, ovf, count]
    exact FaultSt.Latched.taking_overflow grave full

/-- Settles O30. -/
theorem fatalState : Obligations.FatalState := by
  unfold Obligations.FatalState
  intro s r on calm next grave
  obtain ⟨w, run, -, same⟩ := exec_faultTake on next (by omega)
  have calm' : w.fault.fatal = none := (congrArg FaultSt.Latched.fatal same :).trans calm
  obtain ⟨u, v, -, -, fatal, rest, last⟩ := takeFault_latches w r
  obtain ⟨entered, enters⟩ := fatal grave calm'
  obtain ⟨-, still, dead, journal, drive⟩ := enterFatal_spec v
  have standing : (w.takeFault r).fault.fatal = some r :=
    (congrArg FaultSt.Latched.fatal (rest.trans last).latched).trans entered
  refine ⟨_, run, ?_, ?_⟩
  · unfold State.isFatal
    rw [standing]
    rfl
  · rw [enters]
    refine ⟨drive, journal, still, fun p hp => ?_⟩
    obtain ⟨phase, enable⟩ := dead p hp
    rw [phase]
    exact ⟨by decide, by decide, fun _ => enable⟩

end Sys2Proof.Machine


namespace Sys2Proof.Machine

/-! # Attestation, the management lane and the shield (R397, R403 to R405, R407) -/

section
variable {s : State} {p : HostPort}

/-- A REVOKED unit does not attest (R398). -/
theorem attest_revoked {e : Ecc} (hm : s.mayWrite p 0x70004 = true) (gone : s.sec.life = 2) :
    exec (.attest p e) s = .next (s.secDone 3 1) :=
  congrArg Host.Outcome.next ((hostWrite_acts hm (blockOf_ne_tun (by decide)) _).trans (if_pos (by simp [gone])))

/-- ATTEST with a good nonce writes its report (R404). -/
theorem attest_reports {e : Ecc} (good : firstBad e s.sec.addr.toNat 32 = none) (hm : s.mayWrite p 0x70004 = true)
    (life : s.sec.life ≠ 2) (idle : s.sec.busy = false) (up : s.hbmUp s.sec.addr.toNat 0x300 = true)
    (whole : s.sec.addr.toNat % 256 = 0) (inside : s.sec.addr.toNat + 0x300 ≤ hbmTop)
    (clean : s.anyPoison s.sec.addr.toNat 32 = false) : exec (.attest p e) s =
    .next (((s.eccRead s.sec.addr.toNat 32 e 6 .used).ctlWrite (s.sec.addr.toNat + 0x100)
      (s.report (s.hbmBytes s.sec.addr.toNat 32)) [] 6 false).secDone 3 0) := by
  have read := eccRead_eccFrame s s.sec.addr.toNat 32 e 6 .used
  have poison : (s.eccRead s.sec.addr.toNat 32 e 6 .used).anyPoison s.sec.addr.toNat 32 = false := by
    rw [← clean]
    unfold State.EccFrame at read
    rw [read]
    rfl
  have report (nonce : List Byte) : (s.eccRead s.sec.addr.toNat 32 e 6 .used).report nonce = s.report nonce := by
    rw [read]
    rfl
  refine congrArg Host.Outcome.next ((hostWrite_acts hm (blockOf_ne_tun (by decide)) _).trans ?_)
  dsimp only
  rw [if_neg (by simp [idle, up, life]), if_neg (by simp [whole]; omega), if_neg (by simp [good, poison]), report]

/-- EXPORT_CHAIN writes the chain and its length where HBM has room for it (R404). -/
theorem exec_exportChain {e : Ecc} (hm : s.mayWrite p 0x70004 = true) (idle : s.sec.busy = false)
    (up : s.hbmUp s.sec.addr.toNat chain.length = true) (whole : s.sec.addr.toNat % 256 = 0) :
    exec (.exportChain ⟨p, e⟩) s = .next (if hbmTop < s.sec.addr.toNat + chain.length then s.secDone 4 2
      else ((s.ctlWrite s.sec.addr.toNat chain e 6 false).modSec fun x => { x with len := word chain.length }).secDone 4 0) := by
  refine congrArg Host.Outcome.next ((hostWrite_acts hm (blockOf_ne_tun (by decide)) _).trans ?_)
  dsimp only
  rw [if_neg (by simp [idle, up])]
  simp only [whole, bne_self_eq_false, Bool.false_or, decide_eq_true_eq]

end

/-- A reply of at most 1,400 bytes leaves in one piece. -/
theorem mgmtPieces_short {bs : List Byte} (some_ : bs ≠ []) (short : bs.length ≤ 1400) : mgmtPieces bs = [bs] := by
  have := List.length_pos_iff.2 some_
  have one : ceilDiv bs.length 1400 = 1 := by unfold ceilDiv; omega
  unfold mgmtPieces
  rw [one]
  simpa using List.take_of_length_le short

/-- What the management core answers does not depend on the state of the ports. -/
theorem mgmtAnswer_modHost (s : State) (f : HostSt → HostSt) (req : List Byte) :
    (s.modHost f).mgmtAnswer req = s.mgmtAnswer req := by
  have status : (s.modHost f).mgmtStatus = s.mgmtStatus := rfl
  have report (nonce : List Byte) : (s.modHost f).report nonce = s.report nonce := rfl
  unfold State.mgmtAnswer
  rw [status]
  simp only [report, State.modHost_sec]

theorem leaveStandby_host (s : State) : s.leaveStandby.host = s.host := by
  unfold State.leaveStandby
  extract_lets a b c d
  have hc : ∃ us, c = { b with tuns := us } := foldl_tunsFrame (fun _ _ => ⟨_, rfl⟩) _ _
  obtain ⟨us, hc⟩ := hc
  have hd : c.TimeFrame d := (timePhase_timeFrame ..).trans (chooseParent_timeFrame ..)
  have last : c.TimeFrame (if d.timeRoot && d.timeSource == 0 then d.timePhase .locked else d) := by
    split
    · exact hd.trans (timePhase_timeFrame ..)
    · exact hd
  refine (congrArg State.host last :).trans ?_
  rw [hc]
  rfl

theorem mgmtWake_host (s : State) (block : List Byte) : (s.mgmtWake block).host = s.host := by
  unfold State.mgmtWake
  split
  · rfl
  · exact leaveStandby_host _

/-- A received frame sets LOCK (R342). -/
def HostSt.received (h : HostSt) (takes : Bool) : HostSt :=
  { h with mgmtLock := true, dropped := if takes then h.dropped else satInc 16 h.dropped }

/-- A frame that the lane receives changes LOCK and the count alone of what the ports hold. -/
theorem mgmtFrameReceive_host {s : State} (bytes : List Byte) (on : s.power.powered = true) (live : s.power.reset = false) :
    Answers (.mgmtFrameReceive bytes) s fun t => t.host = s.host.received (mgmtTakes bytes) := by
  unfold Answers
  change ∃ t, execMgmtFrameReceive bytes s = _ ∧ _
  unfold execMgmtFrameReceive
  rw [if_neg (by simp [on, live])]
  extract_lets takes s1
  have h1 : s1.host = s.host.received (mgmtTakes bytes) := rfl
  clear_value s1
  split
  · exact ⟨_, rfl, h1⟩
  · split
    · exact ⟨_, rfl, h1⟩
    · split
      · exact ⟨_, rfl, (mgmtWake_host _ _).trans h1⟩
      · split
        · exact ⟨_, rfl, h1⟩
        · refine ⟨_, rfl, ?_⟩
          rw [foldl_emit_eq]
          exact h1

/-- A taken frame with a request to the lane is answered to its sender (R405). -/
theorem mgmtFrameReceive_answers {s : State} {frame bs : List Byte} {d : Datagram} (on : s.mgmtOn = true)
    (takes : mgmtTakes frame = true) (lane : frame.take 6 = laneMac) (hd : datagramOf frame = some d)
    (noWake : natAt d.payload 0 2 ≠ 4) (answer : s.mgmtAnswer d.payload = some bs) :
    exec (.mgmtFrameReceive frame) s = .next { s with
      host := { s.host with mgmtLock := true }
      out := ((mgmtPieces bs).map fun x => .mgmt (d.reply x)).reverse ++ s.out } := by
  have awake : s.power.powered = true ∧ s.power.reset = false ∧ s.sec.loaded = true := by
    simpa [State.mgmtOn, and_assoc] using on
  obtain ⟨powered, live, -⟩ := awake
  have still (f : HostSt → HostSt) : (s.modHost f).mgmtOn = true := on
  change execMgmtFrameReceive frame s = _
  unfold execMgmtFrameReceive
  dsimp only
  rw [if_neg (by simp [powered, live]), takes, still, lane, if_neg (by simp), hd]
  dsimp only
  rw [if_neg (by simpa using noWake), mgmtAnswer_modHost, answer]
  dsimp only
  rw [foldl_emit_eq]
  rfl

theorem ctlWrite_sec (s : State) (a : Nat) (bytes : List Byte) (e : Ecc) (src : Nat) (poison : Bool) :
    (s.ctlWrite a bytes e src poison).sec = s.sec :=
  (congrArg State.sec (ctlWrite_steady (s := s) ..) :)

/-- Settles O27. -/
theorem attestationAndManagement : Obligations.AttestationAndManagement := by
  unfold Obligations.AttestationAndManagement
  intro s p
  refine ⟨fun e hm gone => attest_revoked hm gone,
    fun e good hm life idle up whole inside clean => ⟨_, attest_reports good hm life idle up whole inside clean, ?_⟩,
    fun e hm idle up whole => ⟨_, exec_exportChain hm idle up whole, ?_⟩,
    fun on => ⟨if_pos on, fun nonce life size => if_neg (by simp [on, life, size]), ?_,
      fun frame d bs takes lane hd noWake answer =>
        ⟨_, mgmtFrameReceive_answers on takes lane hd noWake answer, rfl, rfl⟩⟩,
    fun bytes on live => ?_, fun on => if_neg (by simp [on])⟩
  · have read := eccRead_eccFrame s s.sec.addr.toNat 32 e 6 .used
    generalize s.report (s.hbmBytes s.sec.addr.toNat 32) = bytes
    have count : ((s.eccRead s.sec.addr.toNat 32 e 6 .used).ctlWrite (s.sec.addr.toNat + 0x100) bytes [] 6
        false).sec.count = s.sec.count := by
      rw [ctlWrite_sec]
      exact (congrArg (·.sec.count) read :)
    refine ⟨rfl, rfl, count, (ctlWrite_hbm ..).trans (hbmPut_hbm_congr read.hbm ?_ ?_ _ _)⟩
    · exact hbmFill_eq_of_steady read.steady
    · exact hbmMode_eq_of_steady read.steady
  · clear up
    generalize chain = bs
    by_cases beyond : hbmTop < s.sec.addr.toNat + bs.length
    · rw [if_pos beyond, if_neg (by omega), if_neg (by omega), if_neg (by omega)]
      exact ⟨rfl, rfl, rfl, rfl⟩
    · rw [if_neg beyond, if_pos (by omega), if_pos (by omega), if_pos (by omega)]
      exact ⟨rfl, rfl, rfl, ctlWrite_hbm ..⟩
  · refine (if_neg (by simp [on])).trans ?_
    unfold State.mgmtReply
    have size : s.mgmtStatus.length = 12 := by simp [State.mgmtStatus, leBytes]
    rw [mgmtPieces_short (List.length_pos_iff.1 (by omega)) (by omega)]
    rfl
  · obtain ⟨t, run, host⟩ := mgmtFrameReceive_host bytes on live
    exact ⟨t, run, (congrArg HostSt.mgmtLock host :), (congrArg HostSt.dropped host :)⟩

end Sys2Proof.Machine


namespace Sys2Proof.Machine

/-! # Regions of HBM that are zeroed (R323, R372) -/

theorem Tab.get_dropRange {α : Type} (d : α) (m : Tab α) (k n j : Nat) :
    Tab.get d (m.dropRange k n) j = if k ≤ j ∧ j < k + n then d else Tab.get d m j := by
  induction m with
  | nil => simp [Tab.dropRange]
  | cons e m ih =>
    obtain ⟨i, v⟩ := e
    by_cases h : k ≤ i ∧ i < k + n
    · have gone : Tab.dropRange ((i, v) :: m) k n = Tab.dropRange m k n := List.filter_cons_of_neg (by simpa using h)
      rw [gone, ih, Tab.get]
      split
      · rfl
      · rw [if_neg (by rintro rfl; omega)]
    · have kept : Tab.dropRange ((i, v) :: m) k n = (i, v) :: Tab.dropRange m k n :=
        List.filter_cons_of_pos (by simp; omega)
      rw [kept, Tab.get, Tab.get, ih]
      by_cases same : j = i
      · rw [if_pos same, if_pos same, if_neg (by rw [same]; exact h)]
      · rw [if_neg same, if_neg same]

theorem Tab.get_setManyBy_replicate {α : Type} [DecidableEq α] (d : Nat → α) (v : α) (n k j : Nat) (m : Tab α) :
    Tab.get (d j) (Tab.setManyBy d m k (List.replicate n v)) j = if k ≤ j ∧ j < k + n then v else Tab.get (d j) m j := by
  have other (i : Nat) (m : Tab α) (h : j ≠ i) : Tab.get (d j) (Tab.set (d i) m i v) j = Tab.get (d j) m j := by
    unfold Tab.set
    split
    · exact Tab.get_drop_other _ _ h
    · exact Tab.get_put_other _ _ _ h
  induction n generalizing k m with
  | zero =>
    rw [if_neg (by omega)]
    rfl
  | succ n ih =>
    rw [List.replicate_succ, Tab.setManyBy, ih]
    by_cases same : j = k
    · rw [same, if_neg (by omega), if_pos (by omega), Tab.get_set_same]
    · rw [other k m same]
      by_cases inside : k ≤ j ∧ j < k + (n + 1)
      · rw [if_pos inside, if_pos (by omega)]
      · rw [if_neg inside, if_neg (by omega)]

/-- What HBM holds under key `k`. -/
def State.cell (s : State) (k : Nat) : Byte := Tab.get (unlisted s.hbmFill k) s.hbm k

/-- The page at `a` is zeroed. -/
def State.zeroPage (s : State) (a : Nat) : State :=
  match s.key a with
  | none => s
  | some k => { s with hbm := if s.hbmFill == 0 then Tab.dropRange s.hbm k 4096
                              else Tab.setManyBy (unlisted s.hbmFill) s.hbm k (zeros 4096)
                       poison := s.poison.filter fun l => l < k / 64 || k / 64 + 64 ≤ l }

theorem hbmZero_eq (s : State) (a pages : Nat) : s.hbmZero a pages =
    ((List.range pages).foldl (fun s i => s.zeroPage (a + 4096 * i)) s).runAheadConflict a (4096 * pages) := rfl

theorem zeroPage_frame (s : State) (a : Nat) : ∃ h m, s.zeroPage a = { s with hbm := h, poison := m } := by
  unfold State.zeroPage
  split
  · exact ⟨_, _, rfl⟩
  · exact ⟨_, _, rfl⟩

theorem zeroPage_cell (s : State) (a j : Nat) : (s.zeroPage a).cell j =
    if ∃ k, s.key a = some k ∧ k ≤ j ∧ j < k + 4096 then 0 else s.cell j := by
  unfold State.zeroPage
  split
  · next none_ =>
    rw [if_neg (by simp [none_])]
  · next k some_ =>
    have reach : (∃ i, s.key a = some i ∧ i ≤ j ∧ j < i + 4096) ↔ k ≤ j ∧ j < k + 4096 := by simp [some_]
    simp only [reach]
    unfold State.cell
    dsimp only
    split
    · next fill =>
      rw [Tab.get_dropRange]
      simp [unlisted, fill]
    · exact Tab.get_setManyBy_replicate (unlisted s.hbmFill) 0 4096 k j s.hbm

/-- The bytes of a page follow each other in its stack. -/
theorem hbmKey_page (mode : Nat) {a j : Nat} (whole : a % 4096 = 0) (inside : j < 4096) :
    hbmKey mode (a + j) = (hbmKey mode a).map (· + j) := by
  unfold hbmKey mapAddr bitsOf
  by_cases beyond : 0x18000000000 ≤ a
  · rw [if_pos beyond, if_pos (by omega)]
    rfl
  · rw [if_neg beyond, if_neg (by omega)]
    split
    · simp only [Option.map_some, Option.some.injEq]
      omega
    · simp only [Option.map_some, Option.some.injEq]
      omega

/-- The page at `a` reads 0 once it has been zeroed. -/
theorem zeroPage_byte (s : State) {a j : Nat} (whole : a % 4096 = 0) (inside : j < 4096) :
    (s.zeroPage a).hbmByte (a + j) = 0 := by
  obtain ⟨h, m, frame⟩ := zeroPage_frame s a
  have key : (s.zeroPage a).key (a + j) = (s.key a).map (· + j) := by
    rw [frame]
    exact hbmKey_page _ whole inside
  unfold State.hbmByte
  rw [key]
  cases found : s.key a with
  | none => rfl
  | some k => exact (zeroPage_cell s a (k + j)).trans (if_pos ⟨k, found, by omega, by omega⟩)

/-- A byte that reads 0 does so while pages are zeroed. -/
theorem zeroPage_byte_zero {s : State} {x : Nat} (zero : s.hbmByte x = 0) (a : Nat) : (s.zeroPage a).hbmByte x = 0 := by
  obtain ⟨h, m, frame⟩ := zeroPage_frame s a
  have key : (s.zeroPage a).key x = s.key x := by
    rw [frame]
    rfl
  unfold State.hbmByte at zero ⊢
  rw [key]
  cases found : s.key x with
  | none => rfl
  | some k =>
    rw [found] at zero
    refine (zeroPage_cell s a k).trans ?_
    split
    · rfl
    · exact zero

theorem zeroPages_byte_zero {s : State} {x : Nat} (zero : s.hbmByte x = 0) (a : Nat) (l : List Nat) :
    (l.foldl (fun s i => s.zeroPage (a + 4096 * i)) s).hbmByte x = 0 := by
  induction l generalizing s with
  | nil => exact zero
  | cons i l ih => exact ih (zeroPage_byte_zero zero _)

theorem runAheadConflict_hbmByte (s : State) (a n x : Nat) : (s.runAheadConflict a n).hbmByte x = s.hbmByte x := by
  rw [runAheadConflict_frame s a n]
  rfl

/-- Whole pages read 0 once they have been zeroed (R323, R372). -/
theorem hbmZero_byte (s : State) {a pages j : Nat} (whole : a % 4096 = 0) (inside : j < 4096 * pages) :
    (s.hbmZero a pages).hbmByte (a + j) = 0 := by
  rw [hbmZero_eq, runAheadConflict_hbmByte]
  have page : ∀ l : List Nat, j / 4096 ∈ l → ∀ s : State,
      (l.foldl (fun s i => s.zeroPage (a + 4096 * i)) s).hbmByte (a + j) = 0 := by
    intro l
    induction l with
    | nil => exact fun h => absurd h List.not_mem_nil
    | cons i l ih =>
      intro h s
      obtain same | h := List.mem_cons.1 h
      · have zero := zeroPage_byte s (a := a + 4096 * i) (j := j % 4096) (by omega) (by omega)
        rw [show a + 4096 * i + j % 4096 = a + j by omega] at zero
        exact zeroPages_byte_zero zero a l
      · exact ih h _
  exact page _ (List.mem_range.2 (by omega)) s

/-- A byte that reads 0 does so while a region is zeroed. -/
theorem hbmZero_byte_zero {s : State} {x : Nat} (zero : s.hbmByte x = 0) (a pages : Nat) :
    (s.hbmZero a pages).hbmByte x = 0 := by
  rw [hbmZero_eq, runAheadConflict_hbmByte]
  exact zeroPages_byte_zero zero a _

/-- Zeroing changes HBM, and what its conflicts with run-ahead change (R152). -/
theorem hbmZero_conflict (s : State) (a pages : Nat) : ∃ h m, s.hbmZero a pages =
    State.runAheadConflict { s with hbm := h, poison := m } a (4096 * pages) := by
  have pagesFrame (l : List Nat) : ∃ h m, l.foldl (fun s i => s.zeroPage (a + 4096 * i)) s =
      { s with hbm := h, poison := m } := by
    induction l using List.reverseRecOn with
    | nil => exact ⟨_, _, rfl⟩
    | append_singleton l i ih =>
      obtain ⟨h, m, ih⟩ := ih
      rw [List.foldl_append, ih]
      obtain ⟨h, m, last⟩ := zeroPage_frame { s with hbm := h, poison := m } (a + 4096 * i)
      exact ⟨h, m, last⟩
  obtain ⟨h, m, frame⟩ := pagesFrame (List.range pages)
  exact ⟨h, m, by rw [hbmZero_eq, frame]⟩

end Sys2Proof.Machine


namespace Sys2Proof.Machine

/-! # Layer digests (R319 to R323)

## What a write leaves of the digest state -/

/-- BASE, the ring index and the digest settings stay; closures only join. -/
structure State.DigestKept (s t : State) : Prop where
  base : t.time.digBase = s.time.digBase
  index : t.time.ringIndex = s.time.ringIndex
  closures : ∃ more, t.time.closures = s.time.closures ++ more

namespace State.DigestKept
variable {s t u : State}

theorem of_time (h : t.time = s.time) : s.DigestKept t := ⟨by rw [h], by rw [h], [], by rw [h, List.append_nil]⟩

theorem refl (s : State) : s.DigestKept s := of_time rfl

theorem trans (h : s.DigestKept t) (g : t.DigestKept u) : s.DigestKept u := by
  obtain ⟨a, ha⟩ := h.closures
  obtain ⟨b, hb⟩ := g.closures
  exact ⟨g.base.trans h.base, g.index.trans h.index, a ++ b, by rw [hb, ha, List.append_assoc]⟩

theorem foldl {α : Type} {f : State → α → State} (h : ∀ (u : State) (a : α), u.DigestKept (f u a)) (l : List α) (s : State) :
    s.DigestKept (l.foldl f s) := by
  induction l generalizing s with
  | nil => exact .refl s
  | cons a l ih => exact (h s a).trans (ih (f s a))

end State.DigestKept

section
variable (s : State)

theorem closeDigest_digestKept (id : Nat) (b : Bool) : s.DigestKept (s.closeDigest id b) := by
  unfold State.closeDigest
  extract_lets a e t c u
  refine State.DigestKept.trans ?_ (.of_time (State.setTun_time u id _))
  unfold u
  split
  · exact .refl s
  · exact ⟨rfl, rfl, [c], rfl⟩

theorem haltFaultAt_digestKept (id c : Nat) : s.DigestKept (s.haltFaultAt id c) := by
  unfold State.haltFaultAt
  extract_lets t s1 s2
  have h2 : s.DigestKept s2 := by
    have cancelled := (cancelRunAhead_streamFrame s1.digInvalid id).time
    have closed : s2.time = (s1.digInvalid.cancelRunAhead id).time := rfl
    refine State.DigestKept.trans (t := s1.digInvalid) ⟨rfl, rfl, [], (List.append_nil _).symm⟩ (.of_time ?_)
    rw [closed, cancelled]
  split
  · exact .refl s
  · split
    · exact h2.trans (closeDigest_digestKept _ _ _)
    · exact h2

theorem streamFault_digestKept (id k n : Nat) : s.DigestKept (s.streamFault id k n) :=
  State.DigestKept.trans (t := s.raise (srcTun id 4) (n * 256 + k % 256)) (.of_time rfl) (haltFaultAt_digestKept _ _ _)

theorem ctlWrite_digestKept (a : Nat) (bytes : List Byte) (e : Ecc) (src : Nat) (poison : Bool) :
    s.DigestKept (s.ctlWrite a bytes e src poison) := by
  by_cases h : bytes = []
  · rw [h, ctlWrite_nil]
    exact .refl s
  · have read := eccRead_eccFrame s a bytes.length (foundBy a bytes.length e) src .used
    rw [ctlWrite_eq h]
    refine State.DigestKept.trans (.of_time ?_) (.foldl (fun u k => ?_) _ _)
    · rw [hbmPut_frame]
      exact (marked_leaves _ _ _ _ _ (g := State.time) (fun _ _ => rfl) _).trans (congrArg State.time read :)
    · dsimp only
      split
      · exact streamFault_digestKept u _ _ _
      · exact .refl u

end

/-! ## The ring and the table (R320, R323) -/

variable {s : State} {c : Closure} {rest : List Closure} {e : Ecc}

/-- The 32 bytes of the ring record of closure `c` (R320). -/
def State.ringRecord (s : State) (c : Closure) : List Byte :=
  leBytes 8 c.d.toNat ++ leBytes 8 c.e.toNat ++ leBytes 4 c.period.toNat ++ leBytes 4 c.items
    ++ leBytes 2 c.layer ++ [BitVec.ofNat 8 (closureFlags c s.time.invalid), BitVec.ofNat 8 c.tun]
    ++ leBytes 2 s.blockPos ++ zeros 2

/-- The ring goes on at record `n`. -/
def TimeSt.ringTo (t : TimeSt) (n : Nat) : TimeSt := { t with ringIndex := n }

@[simp] theorem TimeSt.ringTo_digBase (t : TimeSt) (n : Nat) : (t.ringTo n).digBase = t.digBase := rfl
@[simp] theorem TimeSt.ringTo_closures (t : TimeSt) (n : Nat) : (t.ringTo n).closures = t.closures := rfl
@[simp] theorem TimeSt.ringTo_ringIndex (t : TimeSt) (n : Nat) : (t.ringTo n).ringIndex = n := rfl

/-- The state once the ring record of the oldest closure has been written. -/
def State.recorded (s : State) (c : Closure) (rest : List Closure) (e : Ecc) : State :=
  ((s.modTime fun t => { t with closures := rest }).ctlWrite s.digSlot (s.ringRecord c) (e.filter (·.1 < 2)) 5 false).modTime
    fun t => t.ringTo (t.ringIndex + 1)

section
variable (on : s.alive = true) (hc : s.time.closures = c :: rest) (ring : s.hbmReady s.digSlot 32 = true)
  (table : s.hbmReady (s.digBase + 32 * c.layer) 32 = true)
include on hc ring table

/-- While the digest is off the oldest closure is dropped (R319). -/
theorem digestClosureWrite_off (off : bitOf s.time.digCfg.toNat 31 = false) :
    exec (.digestClosureWrite e) s = .next (s.modTime fun t => { t with closures := rest }) := by
  change execDigestClosureWrite e s = _
  unfold execDigestClosureWrite
  rw [hc]
  dsimp only
  rw [if_neg (by simp [on, ring, table])]
  exact if_pos (by simp [off])

/-- Else it is written as the next record and folded into its table entry (R320). -/
theorem digestClosureWrite_on (enabled : bitOf s.time.digCfg.toNat 31 = true) :
    exec (.digestClosureWrite e) s = .next
      (((s.recorded c rest e).eccRead ((s.recorded c rest e).digBase + 32 * c.layer) 32 (eccFrom e 2) 5 .used).ctlWrite
        ((s.recorded c rest e).digBase + 32 * c.layer)
        (foldEntry ((s.recorded c rest e).hbmBytes ((s.recorded c rest e).digBase + 32 * c.layer) 32) c
          (closureFlags c s.time.invalid)) [] 5
        ((s.recorded c rest e).anyPoison ((s.recorded c rest e).digBase + 32 * c.layer) 32
          || (firstBad (eccFrom e 2) ((s.recorded c rest e).digBase + 32 * c.layer) 32).isSome)) := by
  change execDigestClosureWrite e s = _
  unfold execDigestClosureWrite
  rw [hc]
  dsimp only
  rw [if_neg (by simp [on, ring, table])]
  exact if_neg (by simp [enabled])

end

/-- The write of the record leaves BASE and HBM but for the record, and advances the ring. -/
theorem recorded_spec (s : State) (c : Closure) (rest : List Closure) (e : Ecc) :
    (s.recorded c rest e).time.digBase = s.time.digBase
    ∧ (s.recorded c rest e).time.ringIndex = s.time.ringIndex + 1
    ∧ (∃ more, (s.recorded c rest e).time.closures = rest ++ more)
    ∧ (s.recorded c rest e).hbm = (s.hbmPut s.digSlot (s.ringRecord c)).hbm
    ∧ (s.recorded c rest e).hbmFill = s.hbmFill ∧ (s.recorded c rest e).hbmMode = s.hbmMode := by
  have kept := ctlWrite_digestKept (s.modTime fun t => { t with closures := rest }) s.digSlot (s.ringRecord c)
    (e.filter (·.1 < 2)) 5 false
  have hbm := ctlWrite_hbm (s.modTime fun t => { t with closures := rest }) s.digSlot (s.ringRecord c)
    (e.filter (·.1 < 2)) 5 false
  have steady := ctlWrite_steady (s.modTime fun t => { t with closures := rest }) s.digSlot (s.ringRecord c)
    (e.filter (·.1 < 2)) 5 false
  have put : ((s.modTime fun t => { t with closures := rest }).hbmPut s.digSlot (s.ringRecord c)).hbm
      = (s.hbmPut s.digSlot (s.ringRecord c)).hbm :=
    hbmPut_hbm_congr (State.modTime_hbm s _) (State.modTime_hbmFill s _) (State.modTime_hbmMode s _) _ _
  obtain ⟨more, closures⟩ := kept.closures
  unfold State.recorded
  rw [State.modTime_time, State.modTime_hbm, State.modTime_hbmFill, State.modTime_hbmMode, TimeSt.ringTo_digBase,
    TimeSt.ringTo_closures, TimeSt.ringTo_ringIndex]
  exact ⟨kept.base, congrArg (· + 1) kept.index, ⟨more, closures⟩, hbm.trans put, hbmFill_eq_of_steady steady,
    hbmMode_eq_of_steady steady⟩

/-- Where two states hold the same in HBM, they read the same there. -/
theorem hbmByte_congr {s t : State} (hbm : t.hbm = s.hbm) (fill : t.hbmFill = s.hbmFill) (mode : t.hbmMode = s.hbmMode)
    (a : Nat) : t.hbmByte a = s.hbmByte a := by
  unfold State.hbmByte State.key
  rw [hbm, fill, mode]

theorem hbmBytes_congr {s t : State} (hbm : t.hbm = s.hbm) (fill : t.hbmFill = s.hbmFill) (mode : t.hbmMode = s.hbmMode)
    (a n : Nat) : t.hbmBytes a n = s.hbmBytes a n := by
  unfold State.hbmBytes
  simp only [hbmByte_congr hbm fill mode]

/-! ## The job digest (R322) -/

/-- Frames that leave do so without a change of the state of time. -/
theorem sources_time {α : Type} (f : State → α → SrcFrame) (l : List α) (s : State) :
    (l.foldl (fun s a => s.source (f s a)) s).time = s.time ∧ (l.foldl (fun s a => s.source (f s a)) s).hbm = s.hbm
      ∧ (l.foldl (fun s a => s.source (f s a)) s).clk = s.clk := by
  induction l generalizing s with
  | nil => exact ⟨rfl, rfl, rfl⟩
  | cons a l ih =>
    obtain ⟨time, hbm, clk⟩ := ih (s.source (f s a))
    obtain ⟨_, _, sent, -⟩ := source_frame s (f s a)
    rw [sent] at time hbm clk
    rw [List.foldl_cons, sent]
    exact ⟨time, hbm, clk⟩

/-- The root decides: what it holds leaves as the job digest (R322). -/
theorem jobDecide_spec (s : State) : s.jobDecide.time = { s.time with parts := [], partsAt := none }
    ∧ s.jobDecide.hbm = s.hbm ∧ s.jobDecide.now = s.now := by
  have ended := endReduction_sends s Run.digest
  unfold State.jobDecide
  extract_lets ps d e items flags pay s1
  have h1 : s1.time = { s.time with parts := [], partsAt := none } ∧ s1.hbm = s.hbm ∧ s1.clk = s.clk := by
    unfold s1
    rw [ended]
    exact ⟨rfl, rfl, rfl⟩
  clear_value s1
  obtain ⟨time, hbm, clk⟩ := sources_time (fun s m => ({ port := 22, hdr := s.mkHeader 3 10 0x21 m (endpointOf 7 0), payload := pay } : SrcFrame))
    s1.activeGroup s1
  refine ⟨time.trans h1.1, hbm.trans h1.2.1, ?_⟩
  unfold State.now
  rw [clk, h1.2.2]

/-- A tun of the table runs or waits. -/
def Tun.going (u : Tun) : Bool := match u.phase with | .running => true | .waiting => true | _ => false

theorem Tun.going_iff (u : Tun) : u.going = true ↔ u.phase = .running ∨ u.phase = .waiting := by
  unfold Tun.going
  cases u.phase <;> simp

/-- CLEAR_TABLE acts while no tun is RUNNING or WAITING (R323). -/
theorem exec_clearTable {p : HostPort} (hm : s.mayWrite p 0x20020 = true) : exec (.clearTable p) s =
    .next (if s.tuns.any (fun e => e.2.going) then s
      else (s.hbmZero s.digBase 512).modTime fun t => { t with ringIndex := 0 }) :=
  congrArg Host.Outcome.next (hostWrite_acts hm (blockOf_ne_tun (by decide)) _)

/-- What CLEAR_TABLE leaves beside the bytes that it zeroes (R152, R323). -/
theorem hbmZero_keeps (s : State) (a pages : Nat) : (s.hbmZero a pages).grist = s.grist
    ∧ (s.runAheadHits a (4096 * pages) = [] → (s.hbmZero a pages).tuns = s.tuns) := by
  obtain ⟨h, m, zeroed⟩ := hbmZero_conflict s a pages
  rw [zeroed]
  refine ⟨(congrArg State.grist (runAheadConflict_frame _ _ _) :), fun none_ => ?_⟩
  have hits : State.runAheadHits { s with hbm := h, poison := m } a (4096 * pages) = [] := none_
  unfold State.runAheadConflict
  rw [hits]
  rfl

/-- The oldest closure is written as the next record of the ring and folded into its table entry (R320). -/
theorem digestClosureWrite_records {slot a b : Nat} {r : List Byte} {m : State} (on : s.alive = true)
    (hc : s.time.closures = c :: rest) (ring : s.hbmReady s.digSlot 32 = true) (table : s.hbmReady b 32 = true)
    (enabled : bitOf s.time.digCfg.toNat 31 = true)
    (hslot : slot = s.time.ringIndex % (orDefault (s.time.digCfg.toNat % 4096) 1 * 32768))
    (ha : a = s.digBase + 2 ^ 21 + 32 * slot) (hb : b = s.digBase + 32 * c.layer) (hr : r = s.ringRecord c)
    (hm : m = s.hbmPut a r) : Answers (.digestClosureWrite e) s fun t =>
      t.hbm = (m.hbmPut b (foldEntry (m.hbmBytes b 32) c (closureFlags c s.time.invalid))).hbm
      ∧ t.time.ringIndex = s.time.ringIndex + 1 ∧ ∃ more, t.time.closures = rest ++ more := by
  obtain ⟨base, index, ⟨more, closures⟩, hbm, fill, mode⟩ := recorded_spec s c rest e
  have slotAt : s.digSlot = a := by rw [ha, hslot]; rfl
  have table' : s.hbmReady (s.digBase + 32 * c.layer) 32 = true := hb ▸ table
  have at_ : (s.recorded c rest e).digBase + 32 * c.layer = b := by
    rw [hb]
    unfold State.digBase
    rw [base]
  have record : s.ringRecord c = r := hr.symm
  have run := digestClosureWrite_on (e := e) on hc ring table' enabled
  rw [at_] at run
  rw [slotAt, record, ← hm] at hbm
  have same := hbmPut_frame s a r
  have fill' : m.hbmFill = s.hbmFill := by rw [hm, same]
  have mode' : m.hbmMode = s.hbmMode := by rw [hm, same]
  rw [hbmBytes_congr hbm (fill.trans fill'.symm) (mode.trans mode'.symm)] at run
  generalize s.recorded c rest e = w at *
  have read := eccRead_eccFrame w b 32 (eccFrom e 2) 5 .used
  generalize foldEntry (m.hbmBytes b 32) c (closureFlags c s.time.invalid) = entry at run ⊢
  have kept := ctlWrite_digestKept (w.eccRead b 32 (eccFrom e 2) 5 .used) b entry []
    5 (w.anyPoison b 32 || (firstBad (eccFrom e 2) b 32).isSome)
  have time : (w.eccRead b 32 (eccFrom e 2) 5 .used).time = w.time := (congrArg State.time read :)
  refine ⟨_, run, (ctlWrite_hbm ..).trans (hbmPut_hbm_congr (read.hbm.trans hbm) ?_ ?_ _ _), ?_, ?_⟩
  · exact (hbmFill_eq_of_steady read.steady).trans (fill.trans fill'.symm)
  · exact (hbmMode_eq_of_steady read.steady).trans (mode.trans mode'.symm)
  · exact kept.index.trans ((congrArg TimeSt.ringIndex time).trans index)
  · obtain ⟨further, joined⟩ := kept.closures
    exact ⟨more ++ further, by rw [joined, time, closures, List.append_assoc]⟩

/-- CLEAR_TABLE zeroes the table and the ring index unless a tun runs (R323). -/
theorem clearTable_zeroes {p : HostPort} (hm : s.mayWrite p 0x20020 = true)
    (still : ∀ e ∈ s.tuns, e.2.phase ≠ .running ∧ e.2.phase ≠ .waiting) : Answers (.clearTable p) s fun t =>
      t.time.ringIndex = 0 ∧ (∀ j < 2 ^ 21, t.hbmByte (s.digBase + j) = 0)
      ∧ (s.runAheadHits s.digBase (2 ^ 21) = [] → t.tuns = s.tuns) ∧ t.grist = s.grist := by
  have quiet : ¬(s.tuns.any fun e => e.2.going) = true := by
    rw [List.any_eq_true]
    rintro ⟨e, he, busy⟩
    obtain ⟨run, wait⟩ := still e he
    exact ((Tun.going_iff _).1 busy).elim run wait
  obtain ⟨grist, tuns⟩ := hbmZero_keeps s s.digBase 512
  rw [show 4096 * 512 = 2 ^ 21 by norm_num] at tuns
  have run := exec_clearTable hm
  rw [if_neg quiet] at run
  have whole : s.digBase % 4096 = 0 := by
    unfold State.digBase
    omega
  have zero (j : Nat) (hj : j < 2 ^ 21) : (s.hbmZero s.digBase 512).hbmByte (s.digBase + j) = 0 :=
    hbmZero_byte s whole (by omega)
  generalize s.hbmZero s.digBase 512 = w at *
  refine ⟨_, run, rfl, fun j hj => ?_, fun none_ => (State.modTime_tuns w _).trans (tuns none_),
    (State.modTime_grist w _).trans grist⟩
  exact (hbmByte_congr (State.modTime_hbm w _) (State.modTime_hbmFill w _) (State.modTime_hbmMode w _) _).trans (zero j hj)

/-- The contribution that frame `x` carries (R322). -/
def InFrame.digPart (x : InFrame) : DigPart :=
  ⟨x.hdr.src.toNat, byteAt x.payload 1 % 16, BitVec.ofNat 64 (natAt x.payload 8 8),
    BitVec.ofNat 64 (natAt x.payload 0x10 8), natAt x.payload 0x18 4⟩

/-- The root takes a contribution unless it holds that node's for the same layer and period (R322). -/
theorem exec_jobDigestContribution {k : Nat} {x : InFrame} (hx : s.inboxFor k [0x20] = some x)
    (kind : byteAt x.payload 0 = 1) (good : x.verdict = 0) (root : s.activeGroup.head? = some s.nodeId)
    (member : x.hdr.src.toNat ∈ s.activeGroup) {same : Bool} (hsame : same =
      (s.time.partsLayer == natAt x.payload 2 2 && s.time.partsPeriod == natAt x.payload 4 4)) :
    exec (.jobDigestContribution k) s = .next
      (if (if same then s.time.parts else []).any fun y => y.node == x.hdr.src.toNat then s.taken x
      else (s.taken x).modTime fun t => { t with
        parts := (if same then s.time.parts else []) ++ [x.digPart], partsLayer := natAt x.payload 2 2,
        partsPeriod := natAt x.payload 4 4,
        partsAt := if t.partsAt.isNone || (!same && !t.parts.isEmpty) then some s.now else t.partsAt }) := by
  change execJobDigestContribution k s = _
  unfold execJobDigestContribution
  rw [hx]
  dsimp only
  rw [if_neg (by simp [kind])]
  have group : (s.taken x).activeGroup = s.activeGroup := rfl
  have node : (s.taken x).nodeId = s.nodeId := rfl
  rw [group, node, if_neg (by simp [good, root, member])]
  subst hsame
  exact (apply_ite _ _ _ _).symm

/-- REDUCE sends this member's entry once (R322). -/
theorem digReduce_sends {p : HostPort} {layer : Half} {root : Nat} {rest : List Nat} (hm : s.mayWrite p 0x20214 = true)
    (group : s.activeGroup = root :: rest) (idle : s.time.reducing = none) : Answers (.digReduce p layer) s fun t =>
      t.time.reducing = some (layer.toNat, s.now) ∧ t.time.jobValid = false ∧ t.time.jobIncomplete = false
      ∧ t.time.parts = s.time.parts
      ∧ t.time.partsAt = (if root = s.nodeId then some (s.time.partsAt.getD s.now) else s.time.partsAt)
      ∧ t.hbm = s.hbm ∧ t.tuns = s.tuns := by
  refine ⟨_, congrArg Host.Outcome.next (hostWrite_acts hm (blockOf_ne_tun (by decide)) _), ?_⟩
  dsimp only
  rw [group]
  dsimp only
  rw [if_neg (by simp [idle])]
  rw [(source_sends _ _).time, (source_sends _ _).hbm, (source_sends _ _).tuns]
  refine ⟨rfl, rfl, rfl, rfl, ?_, rfl, rfl⟩
  rw [State.modTime_time]
  by_cases own : root = s.nodeId <;> cases h : s.time.partsAt <;> simp [own]

/-- Settles O57. -/
theorem layerDigests : Obligations.LayerDigests := by
  unfold Obligations.LayerDigests
  intro s on
  refine ⟨fun c rest e hc off ring table => digestClosureWrite_off on hc ring table off,
    fun c rest slot a b r m e hc enabled ring table hslot ha hb hr hm => ?_, fun p hm => ⟨?_, ?_⟩,
    fun p layer root rest hm group => ⟨?_, digReduce_sends hm group⟩,
    fun k x hx kind good root member same hsame => ⟨?_, ?_⟩, fun t0 begun root => ?_,
    fun k x n hx kind good reducing hn => ?_⟩
  · exact digestClosureWrite_records on hc ring table enabled hslot ha hb hr hm
  · rintro ⟨e, he, busy⟩
    rw [exec_clearTable hm, if_pos (List.any_eq_true.2 ⟨e, he, (Tun.going_iff _).2 busy⟩)]
  · exact fun still _ => clearTable_zeroes hm still
  · exact fun busy => congrArg Host.Outcome.next ((hostWrite_acts hm (blockOf_ne_tun (by decide)) _).trans (by
      dsimp only
      rw [group]
      exact if_pos busy))
  · intro fresh
    by_cases alike : same
    · have none_ : ¬(s.time.parts.any fun y => y.node == x.hdr.src.toNat) = true := by simpa using fresh alike
      have run := exec_jobDigestContribution hx kind good root member (same := true) (by simp [hsame.1 alike])
      rw [if_pos rfl, if_neg none_] at run
      refine ⟨_, run, ?_, fun _ => ?_, rfl, rfl, State.modTime_hbm (s.taken x) _⟩
      · rintro y rfl
        exact ⟨fun _ => rfl, fun other => absurd alike other⟩
      · have time : (s.taken x).time = s.time := rfl
        rw [State.modTime_time, time]
        cases h : s.time.partsAt <;> simp
    · have run := exec_jobDigestContribution hx kind good root member (same := false)
        (by simpa [Bool.eq_false_iff, ← hsame] using alike)
      refine ⟨_, run, ?_, fun h => absurd h alike, rfl, rfl, State.modTime_hbm (s.taken x) _⟩
      rintro y rfl
      exact ⟨fun h => absurd h alike, fun _ => rfl⟩
  · rintro alike ⟨y, hy, own⟩
    rw [exec_jobDigestContribution hx kind good root member (same := true) (by simp [hsame.1 alike])]
    have held : (s.time.parts.any fun y => y.node == x.hdr.src.toNat) = true :=
      List.any_eq_true.2 ⟨y, hy, beq_iff_eq.2 own⟩
    rw [if_pos rfl, if_pos held]
  · have run : exec .jobDigestTimeout s = .next (s.after (t0 + 400000000)).jobDecide := by
      change execJobDigestTimeout s = _
      unfold execJobDigestTimeout
      rw [begun]
      dsimp only
      rw [if_neg (by simp [on, root])]
    have now := after_now s (t0 + 400000000)
    have hbm := after_hbm s (t0 + 400000000)
    generalize s.after (t0 + 400000000) = w at *
    obtain ⟨time, same, unhurried⟩ := jobDecide_spec w
    exact ⟨_, run, rfl, (congrArg TimeSt.parts time :), (congrArg TimeSt.partsAt time :), unhurried.trans now,
      same.trans hbm⟩
  · change execJobDigestResult k s = _
    unfold execJobDigestResult
    rw [hx]
    dsimp only
    rw [if_neg (by simp [kind])]
    subst hn
    have time : (s.taken x).time = s.time := rfl
    exact if_neg (by simp [good, time, Option.isSome_iff_ne_none.1 reducing])

end Sys2Proof.Machine


namespace Sys2Proof.Machine

/-! # The catch-up engine (R366 to R372) -/

variable {s : State}

/-! ## The manifest (R367) -/

theorem cuBad_congr {t : State} (h : ∀ before e, t.cuGood before e = s.cuGood before e) (es before : List CuEntry) (i : Nat) :
    t.cuBad before es i = s.cuBad before es i := by
  induction es generalizing before i with
  | nil => rfl
  | cons e es ih =>
    unfold State.cuBad
    rw [h, ih]

/-- The engine as START leaves it before it looks at the manifest (R367). -/
def CatchUp.begun (c : CatchUp) (es : List CuEntry) : CatchUp :=
  { c with entry := 0, off := 0, lost := 0xFFFF, done := 0, again := [], entries := es, run := c.run + 1 }

/-- What START finds wrong with the manifest, if anything (R367). -/
def State.cuStartBad (s : State) : Option Nat :=
  if s.catchUp.count == 0 || 4096 < s.catchUp.count || !inHbm s.catchUp.man.toNat (32 * s.catchUp.count) then some 0
  else s.cuBad [] ((List.range (min s.catchUp.count 4096)).map s.cuEntry) 0

/-- START, once it is accepted (R367). -/
def State.cuStart (s : State) : State :=
  match s.cuStartBad with
  | some i => (s.modCu (·.begun ((List.range (min s.catchUp.count 4096)).map s.cuEntry))).modCu fun c =>
      { c with phase := .failed, entry := i }
  | none => (s.modCu (·.begun ((List.range (min s.catchUp.count 4096)).map s.cuEntry))).modCu fun c =>
      { c with phase := .receiving }

/-- START in a phase that accepts it (R367). -/
theorem exec_catchupStart {p : HostPort} (hm : s.mayWrite p 0x33020C = true)
    (rest : s.catchUp.phase = .idle ∨ s.catchUp.phase = .committed ∨ s.catchUp.phase = .failed) :
    exec (.catchupStart p) s = .next s.cuStart := by
  refine congrArg Host.Outcome.next ((hostWrite_acts hm (blockOf_ne_tun (by decide)) _).trans ?_)
  have bad (es : List CuEntry) : (s.modCu (·.begun es)).cuBad [] es 0 = s.cuBad [] es 0 :=
    cuBad_congr (s := s) (t := s.modCu (·.begun es)) (fun _ _ => rfl) es [] 0
  unfold State.cuStart State.cuStartBad
  rw [← bad]
  obtain h | h | h := rest <;> rw [h] <;> rfl

theorem cuStart_spec (s : State) : s.cuStart.catchUp.lost = 0xFFFF ∧ s.cuStart.catchUp.done = 0 ∧ s.cuStart.hbm = s.hbm
    ∧ (∀ i, s.cuStartBad = some i → s.cuStart.catchUp.phase = .failed ∧ s.cuStart.catchUp.entry = i)
    ∧ (s.cuStartBad = none → s.cuStart.catchUp.phase = .receiving) := by
  unfold State.cuStart
  cases s.cuStartBad with
  | some i => exact ⟨rfl, rfl, rfl, fun j hj => ⟨rfl, Option.some.inj hj⟩, fun h => nomatch h⟩
  | none => exact ⟨rfl, rfl, rfl, fun j h => (nomatch h), fun _ => rfl⟩

/-! ## Reads (R190, R368) -/

theorem granaryTurn_catchUp (s : State) (n : Nat) : (s.granaryTurn n).catchUp = s.catchUp := by
  obtain ⟨u, hu, h⟩ := granaryTurn_eq s n
  rw [h, State.modGranary_catchUp]
  obtain rfl | rfl := hu
  · rfl
  · obtain ⟨_, _, _, later⟩ := reach_frame s (s.coreFtc (s.coreNow + 1))
    rw [later]

theorem takeCells_catchUp (s : State) (o v n : Nat) : (s.takeCells o v n).1.catchUp = s.catchUp := by
  unfold State.takeCells
  split <;> rfl

/-- A reservation leaves the catch-up engine (R190). -/
theorem reserve_catchUp (s : State) (p len : Nat) (r : Reservation) : (s.reserve p len r).1.catchUp = s.catchUp := by
  unfold State.reserve
  dsimp only
  split
  · exact granaryTurn_catchUp s _
  · split
    · rw [takeCells_catchUp, granaryTurn_catchUp]
    · exact (takeCells_catchUp _ _ _ _).trans (granaryTurn_catchUp s _)

/-- A frame that leaves changes neither the engine nor the reservations. -/
theorem source_keeps (s : State) (f : SrcFrame) (tag : Nat) : (s.source f).catchUp = s.catchUp
    ∧ (s.source f).resv tag = s.resv tag ∧ (s.source f).hbm = s.hbm := by
  obtain ⟨_, _, sent, -⟩ := source_frame s f
  rw [sent]
  exact ⟨rfl, rfl, rfl⟩

/-- The engine's next read reserves its reply and leaves (R190, R368). -/
theorem cuIssue_issues {i off tries tag : Nat} {e : CuEntry} (on : s.alive = true) (calm : s.isFatal = false)
    (run : s.catchUp.phase = .receiving) (few : s.cuOutstanding < s.catchUp.outst)
    (next : s.catchUp.nextRead = some (i, off, tries)) (entry : s.catchUp.entries[i]? = some e)
    (free : (s.granaryTurn 30).freeTag = some tag)
    (room : (s.granaryTurn 30).admitTest ownReply 0 (cellsOf 4096) = .yes) :
    s.cuIssue.catchUp = s.catchUp.advance ∧ (s.cuIssue.resv tag).isSome = true ∧ s.cuIssue.hbm = s.hbm := by
  unfold State.cuIssue
  dsimp only
  rw [if_neg (by simp [on, calm, run]; omega), next]
  dsimp only
  rw [entry]
  dsimp only
  generalize hr : Reservation.mk .. = r
  obtain ⟨u, reserved, -, hbm, held⟩ := reserve_reserves (p := 29) (len := 4096) (r := r) free room
  have catchUp := reserve_catchUp s 29 4096 r
  rw [reserved] at catchUp ⊢
  dsimp only at catchUp ⊢
  obtain ⟨engine, kept, same⟩ := source_keeps (u.modCu CatchUp.advance)
    { port := 29, hdr := { (u.mkHeader 3 10 0x12 e.src
        (endpointOf 3 ((u.stackOf (e.srcAddr + off)).getD 0 / 4))) with
      stream := 0xFFFF, opx := BitVec.ofNat 64 (e.srcAddr + off) }, payload := leBytes 4 4096 ++ leBytes 2 tag ++ zeros 2 } tag
  refine ⟨engine.trans ?_, (congrArg Option.isSome kept).trans ?_, same.trans hbm⟩
  · rw [State.modCu_catchUp, catchUp]
  · have held := congrArg Option.isSome held
    rwa [Option.isSome_map] at held

theorem cuSettle_keeps (s : State) : s.cuSettle.catchUp.done = s.catchUp.done ∧ s.cuSettle.hbm = s.hbm := by
  unfold State.cuSettle
  dsimp only
  split <;> exact ⟨rfl, rfl⟩

theorem ctlWrite_catchUp (s : State) (a : Nat) (bytes : List Byte) (e : Ecc) (src : Nat) (poison : Bool) :
    (s.ctlWrite a bytes e src poison).catchUp = s.catchUp :=
  (congrArg State.catchUp (ctlWrite_steady (s := s) ..) :)

section
variable {k : Taking} {x : InFrame} {r : Reservation} (hx : s.inboxFor k.frame [0x13] = some x)
  (ep : x.hdr.epKind = 5) (hr : s.resv (x.hdr.opx.toNat % 65536) = some r) (who : r.who = .catchUp) (sent : r.sent = true)
  (ready : s.hbmReady r.addr 4096 = true)
include hx ep hr who sent ready

/-- A reply to the engine is no longer awaited; one of its run, while it receives, is written and counted (R368). -/
theorem exec_catchupReply : exec (.catchupReply k) s = .next
    (if s.catchUp.phase != .receiving || r.epoch != s.catchUp.run || s.isFatal then
      (s.taken x).modResv (x.hdr.opx.toNat % 65536) fun r => { r with sent := false }
    else State.cuSettle ((((s.taken x).modResv (x.hdr.opx.toNat % 65536) fun r => { r with sent := false }).ctlWrite r.addr
      (fit 4096 x.payload) k.ecc 5 (x.verdict != 0)).modCu fun c => { c with done := c.done + 4096 })) := by
  change execCatchupReply k s = _
  unfold execCatchupReply
  rw [hx]
  dsimp only
  rw [if_neg (by simp [ep]), hr, if_neg (by simp [ready])]
  dsimp only
  rw [if_neg (by simp [who, sent])]
  exact (apply_ite _ _ _ _).symm

theorem catchupReply_writes (epoch : r.epoch = s.catchUp.run) (calm : s.isFatal = false)
    (run : s.catchUp.phase = .receiving) : Answers (.catchupReply k) s fun t =>
      t.catchUp.done = s.catchUp.done + 4096 ∧ t.hbm = (s.hbmPut r.addr (fit 4096 x.payload)).hbm := by
  have run := exec_catchupReply hx ep hr who sent ready
  rw [if_neg (by simp [*])] at run
  obtain ⟨done, hbm⟩ := cuSettle_keeps ((((s.taken x).modResv (x.hdr.opx.toNat % 65536) fun r =>
    { r with sent := false }).ctlWrite r.addr (fit 4096 x.payload) k.ecc 5 (x.verdict != 0)).modCu fun c =>
      { c with done := c.done + 4096 })
  refine ⟨_, run, done.trans ?_, hbm.trans ?_⟩
  · rw [State.modCu_catchUp, ctlWrite_catchUp]
    rfl
  · rw [State.modCu_hbm, ctlWrite_hbm]
    exact hbmPut_hbm_congr (v := (s.taken x).modResv (x.hdr.opx.toNat % 65536) fun r => { r with sent := false })
      (s := s) rfl rfl rfl _ _

theorem catchupReply_stale (epoch : r.epoch ≠ s.catchUp.run) : Answers (.catchupReply k) s fun t =>
    t.catchUp = s.catchUp ∧ t.hbm = s.hbm := by
  have run := exec_catchupReply hx ep hr who sent ready
  rw [if_pos (by simp [epoch])] at run
  exact ⟨_, run, rfl, rfl⟩

end

theorem catchupReadTimeout_spec {tag : Fin 16384} {r : Reservation} (hr : s.resv tag = some r) (on : s.alive = true)
    (who : r.who = .catchUp) (sent : r.sent = true)
    (gone : s.core.frames.any (fun f => f.tag == some tag.val) = false) (run : s.catchUp.phase = .receiving)
    (epoch : r.epoch = s.catchUp.run) (calm : s.isFatal = false) : Answers (.catchupReadTimeout tag) s fun t =>
        (r.tries < 2 → t.catchUp.phase = .receiving ∧ t.catchUp.again = s.catchUp.again
            ++ [(r.index, r.addr - ((s.catchUp.entries[r.index]?).map (·.dst)).getD 0, r.tries + 1)])
        ∧ (2 ≤ r.tries → t.catchUp.phase = .orphaned ∧ t.catchUp.lost = r.node ∧ t.catchUp.entry = r.index)
        ∧ t.hbm = s.hbm := by
  unfold Answers
  change ∃ t, execCatchupReadTimeout tag s = _ ∧ _
  unfold execCatchupReadTimeout
  rw [hr]
  dsimp only
  rw [if_neg (by simp [on, who, sent, gone])]
  obtain ⟨n, k, g, c, later⟩ := after_later s (r.since + 40000000)
  obtain ⟨g', c', lost⟩ := replyLost_frame (s.after (r.since + 40000000)) tag
  rw [lost, later]
  dsimp only
  have receives : ¬(s.catchUp.phase != .receiving || r.epoch != s.catchUp.run || s.isFatal) = true := by
    simp [run, epoch, calm]
  refine (if_neg receives).symm ▸ ?_
  by_cases few : r.tries < 2
  · rw [if_pos few]
    exact ⟨_, rfl, fun _ => ⟨run, rfl⟩, fun many => absurd few (by omega), rfl⟩
  · rw [if_neg few]
    exact ⟨_, rfl, fun less => absurd less few, fun _ => ⟨rfl, rfl, rfl⟩, rfl⟩

/-! ## Verifying and abandoning (R369, R372) -/

/-- The engine once it has verified its regions (R369). -/
def State.cuVerified (s : State) : State :=
  match s.catchUp.entries.findIdx? fun e => !s.cuHolds e with
  | some i => (s.modCu fun c => { c with phase := .failed, entry := i }).raise 1786 0
  | none => s.modCu fun c => { c with phase := .committed }

theorem exec_catchupVerifyComplete (on : s.alive = true) (run : s.catchUp.phase = .verifying) (calm : s.isFatal = false)
    (ready : ∀ e ∈ s.catchUp.entries, s.regionReady e.dst e.len = true) :
    exec .catchupVerifyComplete s = .next s.cuVerified := by
  change execCatchupVerifyComplete s = _
  unfold execCatchupVerifyComplete State.cuVerified
  rw [if_neg (by simp [on, run, calm]), if_neg (by simpa using ready)]
  cases s.catchUp.entries.findIdx? fun e => !s.cuHolds e with
  | some i => rfl
  | none => rfl

/-- Verification commits what holds its digests, and fails otherwise (R369). -/
theorem catchupVerifyComplete_spec (on : s.alive = true) (run : s.catchUp.phase = .verifying) (calm : s.isFatal = false)
    (ready : ∀ e ∈ s.catchUp.entries, s.regionReady e.dst e.len = true) : Answers .catchupVerifyComplete s fun t =>
        ((∀ e ∈ s.catchUp.entries, s.cuHolds e = true) → t.catchUp.phase = .committed ∧ t.fault = s.fault)
        ∧ (∀ e ∈ s.catchUp.entries, s.cuHolds e = false → t.catchUp.phase = .failed
            ∧ t.fault.raised = s.fault.raised ++ [s.faultRec 1786 0])
        ∧ t.hbm = s.hbm := by
  have run := exec_catchupVerifyComplete on run calm ready
  unfold State.cuVerified at run
  cases found : s.catchUp.entries.findIdx? fun e => !s.cuHolds e with
  | none =>
    rw [found] at run
    dsimp only at run
    have holds := List.findIdx?_eq_none_iff.1 found
    exact ⟨_, run, fun _ => ⟨rfl, rfl⟩, fun e he bad => absurd (holds e he) (by simp [bad]), rfl⟩
  | some i =>
    rw [found] at run
    dsimp only at run
    refine ⟨_, run, fun all => ?_, fun _ _ _ => ⟨rfl, ?_⟩, rfl⟩
    · rw [List.findIdx?_eq_none_iff.2 fun e he => by simp [all e he]] at found
      nomatch found
    · rw [raise_eq]
      rfl

/-- Every destination region of the manifest zeroed in turn (R372). -/
def State.cuZero (s : State) (l : List CuEntry) : State :=
  l.foldl (fun s e => if inHbm e.dst e.len then s.hbmZero e.dst e.pages else s) s

theorem cuZero_byte_zero {x : Nat} (l : List CuEntry) {s : State} (zero : s.hbmByte x = 0) :
    (s.cuZero l).hbmByte x = 0 := by
  induction l generalizing s with
  | nil => exact zero
  | cons e l ih =>
    refine ih (s := if inHbm e.dst e.len then s.hbmZero e.dst e.pages else s) ?_
    split
    · exact hbmZero_byte_zero zero _ _
    · exact zero

theorem cuZero_byte {e : CuEntry} {l : List CuEntry} (he : e ∈ l) (inside : inHbm e.dst e.len = true) {j : Nat}
    (hj : j < e.len) (s : State) : (s.cuZero l).hbmByte (e.dst + j) = 0 := by
  induction l generalizing s with
  | nil => exact absurd he List.not_mem_nil
  | cons d l ih =>
    obtain rfl | he := List.mem_cons.1 he
    · refine cuZero_byte_zero (s := if inHbm e.dst e.len then s.hbmZero e.dst e.pages else s) l ?_
      rw [if_pos inside]
      unfold inHbm at inside
      refine hbmZero_byte s (by simp at inside; omega) ?_
      unfold CuEntry.len at hj
      omega
    · exact ih he _

/-- The zeroing ends ABANDON with zeros in every destination region (R372). -/
theorem catchupZeroed_spec (on : s.alive = true) (run : s.catchUp.phase = .abandoning) (calm : s.isFatal = false)
    (ready : ∀ e ∈ s.catchUp.entries, s.regionReady e.dst e.len = true) : Answers .catchupZeroed s fun t =>
      t.catchUp.phase = .idle
        ∧ ∀ e ∈ s.catchUp.entries, inHbm e.dst e.len = true → ∀ j < e.len, t.hbmByte (e.dst + j) = 0 := by
  have run : exec .catchupZeroed s = .next ((s.cuZero s.catchUp.entries).modCu fun c => { c with phase := .idle }) := by
    change execCatchupZeroed s = _
    unfold execCatchupZeroed
    rw [if_neg (by simp [on, run, calm]), if_neg (by simpa using ready)]
    rfl
  have zero : ∀ e ∈ s.catchUp.entries, inHbm e.dst e.len = true → ∀ j < e.len,
      (s.cuZero s.catchUp.entries).hbmByte (e.dst + j) = 0 := fun e he inside j hj => cuZero_byte he inside hj s
  generalize s.cuZero s.catchUp.entries = w at *
  refine ⟨_, run, rfl, fun e he inside j hj => ?_⟩
  exact (hbmByte_congr (State.modCu_hbm w _) (State.modCu_hbmFill w _) (State.modCu_hbmMode w _) _).trans
    (zero e he inside j hj)

/-- Settles O35: by each command of the engine: what it reserves, writes or zeroes, and the phase it leaves. -/
theorem catchUpEngine : Obligations.CatchUpEngine := by
  unfold Obligations.CatchUpEngine
  intro s p
  refine ⟨fun hm rest => ?_, fun i off tries e tag on calm run few next entry free room => ?_,
    fun k x r hx ep hr who sent epoch calm ready run good => ?_, fun k x r hx ep hr who sent epoch ready => ?_,
    fun tag r hr on who sent gone run epoch calm => ?_, fun on run calm ready => ?_, fun hm run => ?_,
    fun on run calm ready => ?_⟩
  · obtain ⟨lost, zero, hbm, bad, good⟩ := cuStart_spec s
    refine ⟨_, exec_catchupStart hm rest, lost, zero, hbm, fun none_ => bad 0 ?_, fun some_ few inside => ?_⟩
    · unfold State.cuStartBad
      rw [if_pos (by simp [none_])]
    · have checked : s.cuStartBad = s.cuBad [] ((List.range s.catchUp.count).map s.cuEntry) 0 := by
        unfold State.cuStartBad
        rw [if_neg (by simp [inside]; omega), Nat.min_eq_left few]
      rw [checked] at bad good
      exact ⟨good, bad⟩
  · have issued := cuIssue_issues on calm run few next entry free room
    exact ⟨⟨_, rfl, issued⟩, ⟨_, rfl, issued⟩⟩
  · exact catchupReply_writes hx ep hr who sent ready epoch calm run
  · exact catchupReply_stale hx ep hr who sent ready epoch
  · exact catchupReadTimeout_spec hr on who sent gone run epoch calm
  · exact catchupVerifyComplete_spec on run calm ready
  · refine congrArg Host.Outcome.next ((hostWrite_acts hm (blockOf_ne_tun (by decide)) _).trans ?_)
    simp only [List.mem_cons, List.not_mem_nil, or_false] at run
    obtain h | h | h | h := run <;> rw [h] <;> rfl
  · exact catchupZeroed_spec on run calm ready

end Sys2Proof.Machine


namespace Sys2Proof.Machine

/-! # Remote register accesses (R340) -/

variable {s : State}

/-! ## What a read can change -/

/-- The operation changes the host block and the states of the kettles only. -/
def State.ReadFrame (s t : State) : Prop :=
  ∃ h k, t = { s with host := h, power := { s.power with kettles := k } }

theorem State.ReadFrame.rfl {s : State} : s.ReadFrame s := ⟨_, _, Eq.refl _⟩

theorem State.ReadFrame.trans {s t u : State} (h : s.ReadFrame t) (h' : t.ReadFrame u) : s.ReadFrame u := by
  obtain ⟨_, _, rfl⟩ := h
  obtain ⟨_, _, rfl⟩ := h'
  exact ⟨_, _, Eq.refl _⟩

theorem State.ReadFrame.core {s t : State} (h : s.ReadFrame t) : t.core = s.core := by
  obtain ⟨_, _, rfl⟩ := h
  rfl

theorem State.ReadFrame.alive {s t : State} (h : s.ReadFrame t) : t.alive = s.alive := by
  obtain ⟨_, _, rfl⟩ := h
  rfl

theorem modHost_readFrame (s : State) (f : HostSt → HostSt) : s.ReadFrame (s.modHost f) := ⟨_, _, rfl⟩

theorem modPort_readFrame (s : State) (p : HostPort) (f : PortSt → PortSt) : s.ReadFrame (s.modPort p f) := by
  cases p <;> exact ⟨_, _, rfl⟩

theorem badAccess_readFrame (s : State) (p : HostPort) (b : Nat) : s.ReadFrame (s.badAccess p b) := by
  unfold State.badAccess
  split
  · exact .rfl
  · exact modPort_readFrame s p _

theorem touchKettle_readFrame (s : State) (k : Nat) : s.ReadFrame (s.touchKettle k) := by
  unfold State.touchKettle
  split
  · exact ⟨_, _, rfl⟩
  · exact .rfl

theorem readTouched_readFrame (s : State) (off : Nat) : s.ReadFrame (s.readTouched off) := by
  unfold State.readTouched
  split
  · split
    · exact .rfl
    · exact touchKettle_readFrame s _
  · exact .rfl

theorem readAnswer_readFrame (s : State) (p : HostPort) (off : Nat) : s.ReadFrame (s.readAnswer p off).1 := by
  unfold State.readAnswer
  split
  · dsimp only
    exact modPort_readFrame s p _
  · split
    · dsimp only
      exact modPort_readFrame s p _
    · exact .rfl
  · exact .rfl

theorem read32_readFrame (s : State) (p : HostPort) (off : Nat) : s.ReadFrame (s.read32 p off).1 := by
  cases hm : msixAt off with
  | some x => rw [read32_of_msix hm]; exact .rfl
  | none =>
    cases hs : s.silent off with
    | true => rw [read32_of_silent hm hs]; exact badAccess_readFrame s p 2
    | false =>
      rw [read32_of_answering hm hs]
      exact (readTouched_readFrame s off).trans (readAnswer_readFrame _ p off)

theorem readWords_readFrame (p : HostPort) (n off : Nat) (s : State) : s.ReadFrame (readWords p n off s).1 := by
  induction n generalizing s off with
  | zero => exact .rfl
  | succ n ih => exact (read32_readFrame s p off).trans (ih _ _)

theorem readWords_length (p : HostPort) (n off : Nat) (s : State) : (readWords p n off s).2.length = 4 * n := by
  induction n generalizing s off with
  | zero => rfl
  | succ n ih =>
    refine (List.length_append ..).trans ?_
    rw [ih]
    simp [leBytes]
    omega

/-! ## An access as the holder of the token -/

/-- The state in which a remote access acts: as an access of the holder's port, with empty latches. -/
def State.remoteEntered (s : State) : State :=
  (s.modHost fun h => { h with remote := true }).modPort (portOf s.host.holder) fun x => { x with latch := [], hold := [] }

/-- The remote access that began in `s` ends: the port has its own latches and holds again. -/
def State.remoteLeft (s t : State) : State :=
  (t.modPort (portOf s.host.holder) fun y =>
    { y with latch := (s.port (portOf s.host.holder)).latch, hold := (s.port (portOf s.host.holder)).hold }).modHost
      fun h => { h with remote := false }

theorem asRemote_eq {α : Type} (s : State) (act : HostPort → State → State × α) :
    s.asRemote act = (s.remoteLeft (act (portOf s.host.holder) s.remoteEntered).1,
      (act (portOf s.host.holder) s.remoteEntered).2) := rfl

theorem remoteEntered_eq (s : State) : s.remoteEntered = { s with host := s.remoteEntered.host } := by
  unfold State.remoteEntered
  cases portOf s.host.holder <;> rfl

theorem remoteEntered_remote (s : State) : s.remoteEntered.host.remote = true := by
  unfold State.remoteEntered
  cases portOf s.host.holder <;> rfl

/-- An access that leaves the host block leaves it as it was before (R340). -/
theorem remoteLeft_host {t : State} (local_ : s.host.remote = false) (same : t.host = s.remoteEntered.host) :
    (s.remoteLeft t).host = s.host := by
  have left : (s.remoteLeft t).host = { s.host with remote := false } := by
    unfold State.remoteLeft State.modHost
    unfold State.remoteEntered State.modHost at same
    dsimp only
    cases hp : portOf s.host.holder
    · rw [hp] at same
      unfold State.modPort at same ⊢
      dsimp only at same ⊢
      rw [same]
      rfl
    · rw [hp] at same
      unfold State.modPort at same ⊢
      dsimp only at same ⊢
      rw [same]
      rfl
  rw [left, ← local_]

theorem remoteLeft_eq (s t : State) : s.remoteLeft t = { t with host := (s.remoteLeft t).host } := by
  unfold State.remoteLeft
  cases portOf s.host.holder <;> rfl

theorem remoteEntered_readFrame (s : State) : s.ReadFrame s.remoteEntered :=
  (modHost_readFrame s _).trans (modPort_readFrame _ _ _)

theorem remoteLeft_readFrame (s t : State) : t.ReadFrame (s.remoteLeft t) :=
  (modPort_readFrame t _ _).trans (modHost_readFrame _ _)

/-- A remote access reaches every block that neither sleeps nor stops (R340). -/
theorem remoteEntered_mayWrite (on : s.alive = true) (p : HostPort) :
    s.remoteEntered.mayWrite p 0x10010 = true := by
  have remote := remoteEntered_remote s
  rw [remoteEntered_eq] at remote ⊢
  have on' : s.on = true ∧ s.power.warm = false := by simpa [State.alive] using on
  generalize s.remoteEntered.host = h at *
  have serves : State.portServes { s with host := h } p = true := by
    unfold State.portServes
    rw [show State.on { s with host := h } = true from on'.1, remote]
    rfl
  have holds : State.holds { s with host := h } p = true := by
    unfold State.holds
    rw [remote]
    rfl
  have warm : State.power { s with host := h } = s.power := rfl
  unfold State.mayWrite
  rw [serves, holds, warm, on'.2]
  simp [blockOf, Bar0Block.kettle, Bar0Block.fatalServed]

theorem asRemote_readFrame {α : Type} (act : HostPort → State → State × α) (h : ∀ p u, State.ReadFrame u (act p u).1) :
    s.ReadFrame (s.asRemote act).1 :=
  (remoteEntered_readFrame s).trans ((h _ _).trans (remoteLeft_readFrame s _))

/-! ## REG_REQ -/

/-- The reply to the request of header `h` (R340). -/
def State.regReply (s : State) (h : Header) (tag st : Nat) (data : List Byte) : State :=
  s.source { port := 28, hdr := s.replyHeader h 0x11 tag st, payload := data }

/-- The reply leaves while the package runs. -/
def State.regAnswer (s : State) (h : Header) (tag st : Nat) (data : List Byte) : State :=
  if s.alive then s.regReply h tag st data else s

theorem regAnswer_of_alive (on : s.alive = true) (h : Header) (tag st : Nat) (data : List Byte) :
    s.regAnswer h tag st data = s.regReply h tag st data := if_pos on

/-- The words that a write request carries are written. -/
def State.regWritten (s : State) (x : InFrame) : State :=
  (s.asRemote fun p s => (writeWords p ((List.range (natAt x.payload 0 4 / 4)).map fun i =>
    word (natAt x.payload (8 + 4 * i) 4)) x.hdr.opx.toNat s, ())).1

/-- The words that a read request asks for. -/
def State.regWords (s : State) (x : InFrame) : State × List Byte :=
  s.asRemote fun p s => readWords p (natAt x.payload 0 4 / 4) x.hdr.opx.toNat s

theorem regWords_readFrame (s : State) (x : InFrame) : s.ReadFrame (s.regWords x).1 :=
  asRemote_readFrame _ fun p u => readWords_readFrame p _ _ u

/-- A reply that leaves changes neither GRIST, HBM, the host block nor the time. -/
theorem regReply_keeps (s : State) (h : Header) (tag st : Nat) (data : List Byte) :
    (s.regReply h tag st data).grist = s.grist ∧ (s.regReply h tag st data).hbm = s.hbm
      ∧ (s.regReply h tag st data).host = s.host ∧ (s.regReply h tag st data).time = s.time := by
  obtain ⟨_, _, sent, -⟩ := source_frame s { port := 28, hdr := s.replyHeader h 0x11 tag st, payload := data }
  unfold State.regReply
  rw [sent]
  exact ⟨rfl, rfl, rfl, rfl⟩

section
variable {k : Nat} {x : InFrame} (on : s.alive = true) (hx : s.inboxFor k [0x10] = some x) (good : x.verdict = 0)
  (whole : natAt x.payload 0 4 % 4 = 0) (some_ : 0 < natAt x.payload 0 4) (most : natAt x.payload 0 4 ≤ 4096)
include on hx good whole some_ most

/-- A request that keeps its form is served (R340). -/
theorem exec_regReq : exec (.regReq k) s =
    if bitOf (byteAt x.payload 6) 0 then
      if !s.host.regWrEn then .next ((s.taken x).regAnswer x.hdr (natAt x.payload 4 2) 1 [])
      else .next ((if x.hdr.opx.toNat % 4 == 0 then (s.taken x).regWritten x else s.taken x).regAnswer x.hdr
        (natAt x.payload 4 2) 0 [])
    else if x.hdr.opx.toNat % 4 != 0 then
      .next ((s.taken x).regAnswer x.hdr (natAt x.payload 4 2) 0 (zeros (natAt x.payload 0 4)))
    else .next (((s.taken x).regWords x).1.regAnswer x.hdr (natAt x.payload 4 2) 0 ((s.taken x).regWords x).2) := by
  change execRegReq k s = _
  unfold execRegReq
  rw [hx]
  dsimp only
  rw [if_neg (by simp [on]), if_neg (by simp [good]), if_neg (by simp [whole]; omega)]
  rfl

theorem regReq_write_refused (write : bitOf (byteAt x.payload 6) 0 = true) (off : s.host.regWrEn = false) :
    exec (.regReq k) s = .next ((s.taken x).regReply x.hdr (natAt x.payload 4 2) 1 []) := by
  rw [exec_regReq on hx good whole some_ most]
  rw [if_pos write, if_pos (by simpa using off)]
  exact congrArg Host.Outcome.next (regAnswer_of_alive (s := s.taken x) on _ _ _ _)

theorem regReq_write_misaligned (write : bitOf (byteAt x.payload 6) 0 = true) (en : s.host.regWrEn = true)
    (mis : x.hdr.opx.toNat % 4 ≠ 0) :
    exec (.regReq k) s = .next ((s.taken x).regReply x.hdr (natAt x.payload 4 2) 0 []) := by
  rw [exec_regReq on hx good whole some_ most]
  rw [if_pos write, if_neg (by simpa using en), 
    if_neg (t := (s.taken x).regWritten x) (by simpa using mis)]
  exact congrArg Host.Outcome.next (regAnswer_of_alive (s := s.taken x) on _ _ _ _)

theorem regReq_read_misaligned (read : bitOf (byteAt x.payload 6) 0 = false) (mis : x.hdr.opx.toNat % 4 ≠ 0) :
    exec (.regReq k) s = .next ((s.taken x).regReply x.hdr (natAt x.payload 4 2) 0 (zeros (natAt x.payload 0 4))) := by
  rw [exec_regReq on hx good whole some_ most]
  rw [if_neg (by simp [read]), if_pos (by simpa using mis)]
  exact congrArg Host.Outcome.next (regAnswer_of_alive (s := s.taken x) on _ _ _ _)

theorem regReq_read (read : bitOf (byteAt x.payload 6) 0 = false) (aligned : x.hdr.opx.toNat % 4 = 0) :
    exec (.regReq k) s = .next (((s.taken x).regWords x).1.regReply x.hdr (natAt x.payload 4 2) 0
      ((s.taken x).regWords x).2) := by
  rw [exec_regReq on hx good whole some_ most]
  rw [if_neg (by simp [read]), if_neg (by simp [aligned])]
  refine congrArg Host.Outcome.next (regAnswer_of_alive ?_ _ _ _ _)
  exact (regWords_readFrame _ x).alive.trans on

theorem regReq_read_replies (read : bitOf (byteAt x.payload 6) 0 = false) (aligned : x.hdr.opx.toNat % 4 = 0) :
    Answers (.regReq k) s fun t => ∃ (u : State) (data : List Byte), data.length = natAt x.payload 0 4
      ∧ t = u.regReply x.hdr (natAt x.payload 4 2) 0 data ∧ ∀ y ∈ u.core.inbox, ¬ (y.id = x.id ∧ y.copy = x.copy) := by
  refine ⟨_, regReq_read on hx good whole some_ most read aligned, _, _, ?_, rfl, ?_⟩
  · refine (readWords_length ..).trans ?_
    omega
  · rw [(regWords_readFrame _ x).core]
    exact taken_inbox s x

end

/-- One word written to GRIST_LEN. -/
theorem regWritten_gristLen {x : InFrame} (on : s.alive = true) (local_ : s.host.remote = false)
    (one : natAt x.payload 0 4 = 4) (at_ : x.hdr.opx.toNat = 0x10010) :
    (s.regWritten x).grist = { s.grist with len := word (natAt x.payload 8 4) } ∧ (s.regWritten x).hbm = s.hbm
      ∧ (s.regWritten x).host = s.host ∧ (s.regWritten x).alive = true := by
  have stored := write32_eq_blockSet (v := word (natAt x.payload 8 4))
    (remoteEntered_mayWrite on (portOf s.host.holder)) gristLen_plain.block gristLen_plain.notMsix gristLen_plain.has
    (gristLen_plain.notPair _) (gristLen_plain.notCommand _ _ _) gristLen_plain.notTun gristLen_plain.notSq
  have words : (List.range (4 / 4)).map (fun i => word (natAt x.payload (8 + 4 * i) 4)) = [word (natAt x.payload 8 4)] := rfl
  unfold State.regWritten
  rw [asRemote_eq, at_, one, words]
  dsimp only [writeWords]
  rw [stored]
  have host := remoteLeft_host (t := s.remoteEntered.blockSet .grist 0x10 (word (natAt x.payload 8 4))) local_ rfl
  rw [remoteLeft_eq, host, remoteEntered_eq]
  exact ⟨rfl, rfl, rfl, on⟩

/-- The word of FTC_DIG_CFG. -/
theorem regWords_digCfg {x : InFrame} (warm : s.power.warm = false) (local_ : s.host.remote = false)
    (one : natAt x.payload 0 4 = 4) (at_ : x.hdr.opx.toNat = 0x20200) :
    s.regWords x = (s, leBytes 4 s.time.digCfg.toNat) := by
  have awake : s.remoteEntered.silent 0x20200 = false := by
    rw [remoteEntered_eq]
    unfold State.silent
    simp [blockOf, Bar0Block.kettle, warm]
  have value : s.remoteEntered.regRead 0x20200 = s.time.digCfg.toNat := by
    rw [remoteEntered_eq, regRead_of_pairOf_eq_none (b := .ftc) (o := 0x200) rfl rfl]
    exact Nat.mod_eq_of_lt s.time.digCfg.isLt
  have read : s.remoteEntered.read32 (portOf s.host.holder) 0x20200 = (s.remoteEntered, s.time.digCfg.toNat) := by
    rw [read32_of_answering rfl awake, ← value]
    exact readAnswer_plain (b := .ftc) (o := 0x200) rfl rfl
  have left : s.remoteLeft s.remoteEntered = s := by
    rw [remoteLeft_eq, remoteLeft_host local_ rfl, remoteEntered_eq]
  unfold State.regWords
  rw [asRemote_eq, at_, one]
  have words : readWords (portOf s.host.holder) (4 / 4) 0x20200 s.remoteEntered
      = (s.remoteEntered, leBytes 4 s.time.digCfg.toNat) := by
    change ((s.remoteEntered.read32 (portOf s.host.holder) 0x20200).1,
      leBytes 4 (s.remoteEntered.read32 (portOf s.host.holder) 0x20200).2 ++ []) = _
    rw [read, List.append_nil]
  rw [words, left]

section
variable {k : Nat} {x : InFrame} (on : s.alive = true) (hx : s.inboxFor k [0x10] = some x) (good : x.verdict = 0)
  (local_ : s.host.remote = false) (one : natAt x.payload 0 4 = 4)
include on hx good local_ one

/-- One word written to GRIST_LEN is stored (R340). -/
theorem regReq_writes_gristLen (write : bitOf (byteAt x.payload 6) 0 = true) (en : s.host.regWrEn = true)
    (at_ : x.hdr.opx.toNat = 0x10010) : Answers (.regReq k) s fun t =>
      t.grist.len = word (natAt x.payload 8 4) ∧ t.hbm = s.hbm ∧ t.host = s.host := by
  have run := exec_regReq on hx good (by omega) (by omega) (by omega)
  rw [if_pos write, if_neg (by simpa using en), if_pos (by simp [at_])] at run
  obtain ⟨grist, hbm, host, on⟩ := regWritten_gristLen (s := s.taken x) on local_ one at_
  rw [regAnswer_of_alive on] at run
  obtain ⟨grist', hbm', host', -⟩ := regReply_keeps ((s.taken x).regWritten x) x.hdr (natAt x.payload 4 2) 0 []
  refine ⟨_, run, ?_, hbm'.trans hbm, host'.trans host⟩
  rw [grist', grist]

/-- A word read from FTC_DIG_CFG is the one in force (R340). -/
theorem regReq_reads_digCfg (read : bitOf (byteAt x.payload 6) 0 = false) (at_ : x.hdr.opx.toNat = 0x20200)
    (warm : s.power.warm = false) : exec (.regReq k) s =
      .next ((s.taken x).regReply x.hdr (natAt x.payload 4 2) 0 (leBytes 4 s.time.digCfg.toNat)) := by
  have run := regReq_read on hx good (by omega) (by omega) (by omega) read (by omega)
  rwa [regWords_digCfg (s := s.taken x) warm local_ one at_] at run

end

/-- Settles O12: a remote access acts on the holder's port with empty latches, and puts back what it found there. -/
theorem remoteRegisterAccess : Obligations.RemoteRegisterAccess := by
  unfold Obligations.RemoteRegisterAccess
  intro s k x on local_ hx good
  refine ⟨fun len reply hlen whole some_ most hreply => ?_, fun read one at_ warm => ?_⟩
  · subst hlen hreply
    refine ⟨fun write => ⟨?_, ?_, ?_⟩, fun read => ⟨?_, ?_⟩⟩
    · exact regReq_write_refused on hx good whole some_ most write
    · exact regReq_write_misaligned on hx good whole some_ most write
    · exact fun en one at_ _ _ => regReq_writes_gristLen on hx good local_ one write en at_
    · exact regReq_read_misaligned on hx good whole some_ most read
    · exact regReq_read_replies on hx good whole some_ most read
  · have run := regReq_reads_digCfg on hx good local_ one read at_ warm
    obtain ⟨-, hbm, host, time⟩ := regReply_keeps (s.taken x) x.hdr (natAt x.payload 4 2) 0 (leBytes 4 s.time.digCfg.toNat)
    exact ⟨_, run, time, hbm, host, rfl⟩

end Sys2Proof.Machine


namespace Sys2Proof.Machine

/-! # Reads that a host completes (R325, R334 to R337, R402) -/

variable {s : State}

/-! ## One descriptor of a queue -/

/-- The descriptors `l` with `z` in the place of that of index `i`. -/
def updOp (l : List SqOp) (i : Nat) (z : SqOp) : List SqOp := l.map fun y => if y.index == i then z else y

theorem eq_of_length_filter {l : List SqOp} {i : Nat} {o : SqOp} (one : (l.filter (·.index == i)).length = 1)
    (found : l.find? (·.index == i) = some o) : ∀ y ∈ l, (y.index == i) = true → y = o := by
  intro y hy hi
  obtain ⟨z, only⟩ := List.length_eq_one_iff.1 one
  have mem (x : SqOp) (hx : x ∈ l) (h : (x.index == i) = true) : x = z := by
    have : x ∈ l.filter (·.index == i) := List.mem_filter.2 ⟨hx, h⟩
    rw [only] at this
    exact List.mem_singleton.1 this
  rw [mem y hy hi, mem o (List.mem_of_find?_eq_some found) (by simpa using List.find?_some found)]

/-- Queue `q` holds the descriptors `l` with `z` as that of index `i`, and belongs to port `h`. -/
structure State.OpIs (s : State) (q : Nat) (h : HostPort) (l : List SqOp) (i : Nat) (z : SqOp) : Prop where
  ops : (s.sq q).ops = updOp l i z
  port : (s.sq q).port = some h
  index : z.index = i
  mem : l.any (·.index == i) = true

section
variable {q i : Nat} {h : HostPort} {l : List SqOp} {o z : SqOp}

theorem find_updOp (index : z.index = i) (mem : l.any (·.index == i) = true) :
    (updOp l i z).find? (·.index == i) = some z := by
  unfold updOp
  induction l with
  | nil => nomatch mem
  | cons y l ih =>
    rw [List.map_cons]
    by_cases hy : (y.index == i) = true
    · rw [if_pos hy]
      exact List.find?_cons_of_pos (by simp [index])
    · rw [List.any_cons, Bool.eq_false_iff.2 hy, Bool.false_or] at mem
      rw [if_neg hy, List.find?_cons_of_neg (p := fun x : SqOp => x.index == i) hy]
      exact ih mem

/-- The descriptor is found by its index. -/
theorem State.OpIs.find (is : s.OpIs q h l i z) : (s.sq q).ops.find? (·.index == i) = some z := by
  rw [is.ops]
  exact find_updOp is.index is.mem

/-- A change of the descriptor. -/
theorem State.OpIs.modOp (is : s.OpIs q h l i z) {f : SqOp → SqOp} (kept : (f z).index = z.index) :
    (s.modOp q i f).OpIs q h l i (f z) := by
  obtain ⟨ops, port, index, mem⟩ := is
  unfold State.modOp
  refine ⟨?_, ?_, kept.trans index, mem⟩
  · rw [modSq_sq_same, ops]
    unfold updOp
    rw [List.map_map]
    refine List.map_congr_left fun y _ => ?_
    dsimp only [Function.comp_apply]
    split
    · rw [if_pos (by simp [index])]
    · rfl
  · rw [modSq_sq_same]
    exact port

/-- A change of the queue that leaves its descriptors and its port. -/
theorem State.OpIs.modSq (is : s.OpIs q h l i z) {f : StreamQ → StreamQ} (ops : ∀ x, (f x).ops = x.ops)
    (port : ∀ x, (f x).port = x.port) : (s.modSq q f).OpIs q h l i z := by
  refine ⟨?_, ?_, is.index, is.mem⟩
  · rw [modSq_sq_same, ops]
    exact is.ops
  · rw [modSq_sq_same, port]
    exact is.port

/-- The first change of the one descriptor of its index. -/
theorem modOp_opIs (port : (s.sq q).port = some h) (found : (s.sq q).ops.find? (·.index == i) = some o)
    (one : ((s.sq q).ops.filter (·.index == i)).length = 1) {f : SqOp → SqOp} (kept : (f o).index = o.index) :
    (s.modOp q i f).OpIs q h (s.sq q).ops i (f o) := by
  have index : o.index = i := by simpa using List.find?_some found
  have same := eq_of_length_filter one found
  unfold State.modOp
  refine ⟨?_, ?_, kept.trans index, ?_⟩
  · rw [modSq_sq_same]
    refine List.map_congr_left fun y hy => ?_
    split
    · next hi => rw [same y hy hi]
    · rfl
  · rw [modSq_sq_same]
    exact port
  · exact List.any_eq_true.2 ⟨o, List.mem_of_find?_eq_some found, by simp [index]⟩

/-- What leaves the queues leaves the descriptor. -/
theorem State.OpIs.congr {t : State} (is : s.OpIs q h l i z) (same : t.sqs = s.sqs) : t.OpIs q h l i z := by
  have sq : t.sq q = s.sq q := by
    unfold State.sq
    rw [same]
  exact ⟨sq ▸ is.ops, sq ▸ is.port, is.index, is.mem⟩

end

/-! ## Frames -/

theorem setInter_op_opx (s : State) (h : Header) : (s.setInter h).op = h.op ∧ (s.setInter h).opx = h.opx := by
  unfold State.setInter
  split
  · exact ⟨rfl, rfl⟩
  · split <;> exact ⟨rfl, rfl⟩

/-- A frame that leaves keeps its payload, its tail, its operation and its operand (R195). -/
theorem source_made (s : State) (f : SrcFrame) : ∃ g, (s.source f).made f.port g ∧ g.payload = f.payload ∧ g.tail = f.tail
    ∧ g.hdr.op = f.hdr.op ∧ g.hdr.opx = f.hdr.opx := by
  obtain ⟨op, opx⟩ := setInter_op_opx s { f.hdr with length := BitVec.ofNat 16 f.payload.length }
  refine ⟨{ f with hdr := (s.setInter { f.hdr with length := BitVec.ofNat 16 f.payload.length }).sealed }, ?_, rfl, rfl,
    op, opx⟩
  unfold State.source State.made
  extract_lets
  split
  · split
    · exact .inl (List.mem_append_right _ (List.mem_singleton.2 rfl))
    · refine .inr ?_
      show _ ∈ Tab.get [] (Tab.mod [] s.core.inject f.port (fun l => l ++ [_])) f.port
      rw [Tab.get_mod_same]
      exact List.mem_append_right _ (List.mem_singleton.2 rfl)
  · exact .inl (List.mem_append_right _ (List.mem_singleton.2 rfl))

theorem source_leaves (s : State) (f : SrcFrame) : (s.source f).sqs = s.sqs ∧ (s.source f).hbm = s.hbm
    ∧ (s.source f).host = s.host ∧ (s.source f).clk = s.clk := by
  obtain ⟨_, _, sent, -⟩ := source_frame s f
  rw [sent]
  exact ⟨rfl, rfl, rfl, rfl⟩

section
variable {q i : Nat} {h : HostPort} {l : List SqOp} {z : SqOp}

/-- The frame of a piece of a LOAD (R335). -/
theorem loadFrame_leaves (is : s.OpIs q h l i z) (o : SqOp) (hi : o.index = i) (off : Nat) (bs : List Byte) (bad : Bool) :
    (s.loadFrame q h o off bs bad).OpIs q h l i { z with frames := z.frames + 1, made := z.made + bs.length }
      ∧ (s.loadFrame q h o off bs bad).hbm = s.hbm
      ∧ ∃ f, (s.loadFrame q h o off bs bad).made (portMlt h) f ∧ f.payload = bs ∧ f.hdr.op = 0x04
        ∧ f.hdr.opx = BitVec.ofNat 64 (o.dev + off) ∧ f.tail.verdict = if bad then 3 else 0 := by
  have mod := is.modOp (f := fun o => { o with frames := o.frames + 1, made := o.made + bs.length }) rfl
  unfold State.loadFrame
  dsimp only
  rw [hi]
  have hbm : (s.modOp q i fun o => { o with frames := o.frames + 1, made := o.made + bs.length }).hbm = s.hbm := rfl
  generalize (s.modOp q i fun o => { o with frames := o.frames + 1, made := o.made + bs.length }) = u at *
  generalize hf : SrcFrame.mk .. = f
  obtain ⟨g, made, payload, tail, op, opx⟩ := source_made u f
  obtain ⟨sqs, same, -, -⟩ := source_leaves u f
  subst hf
  refine ⟨mod.congr sqs, same.trans hbm, g, made, payload, op, opx, ?_⟩
  rw [tail]
  cases bad <;> rfl

/-- The frame of a SEND whose next piece is its only one that has come (R335). -/
theorem sendFrames_leaves {bs : List Byte} (is : s.OpIs q h l i z) (got : z.got = [(z.made, bs)]) :
    (s.sendFrames q h i 1).OpIs q h l i { z with frames := z.frames + 1, made := z.made + bs.length, got := [] }
      ∧ (s.sendFrames q h i 1).hbm = s.hbm
      ∧ ∃ f, (s.sendFrames q h i 1).made (portMlt h) f ∧ f.payload = bs ∧ f.hdr.op = 0x01 := by
  unfold State.sendFrames State.sendFrames
  rw [is.find]
  dsimp only
  rw [got, List.find?_cons_of_pos (by simp)]
  dsimp only
  have next := is.modSq (f := fun x => { x with seqOut := ((s.sq q).seqOut + 1) % 2 ^ 32 }) (fun _ => rfl) fun _ => rfl
  have mod := next.modOp (f := fun o =>
    { o with frames := o.frames + 1, made := o.made + bs.length, got := o.got.filter fun g => g.1 != z.made }) rfl
  have none_ : z.got.filter (fun g => g.1 != z.made) = [] := by
    rw [got]
    exact List.filter_eq_nil_iff.2 (by simp)
  rw [none_] at mod
  have hbm : ((s.modSq q fun x => { x with seqOut := ((s.sq q).seqOut + 1) % 2 ^ 32 }).modOp q i fun o =>
    { o with frames := o.frames + 1, made := o.made + bs.length, got := o.got.filter fun g => g.1 != z.made }).hbm
      = s.hbm := rfl
  generalize ((s.modSq q fun x => { x with seqOut := ((s.sq q).seqOut + 1) % 2 ^ 32 }).modOp q i fun o =>
    { o with frames := o.frames + 1, made := o.made + bs.length, got := o.got.filter fun g => g.1 != z.made }) = u at *
  generalize hf : SrcFrame.mk .. = f
  obtain ⟨g, made, payload, -, op, -⟩ := source_made u f
  obtain ⟨sqs, same, -, -⟩ := source_leaves u f
  subst hf
  exact ⟨mod.congr sqs, same.trans hbm, g, made, payload, op⟩

/-- Without its next piece a SEND sends nothing (R335). -/
theorem sendFrames_of_none (is : s.OpIs q h l i z) (none_ : z.got.find? (fun g => g.1 == z.made) = none) (n : Nat) :
    s.sendFrames q h i n = s := by
  cases n with
  | zero => rfl
  | succ n =>
    unfold State.sendFrames
    rw [is.find]
    dsimp only
    rw [none_]

end

/-! ## What a read was for -/

/-- A read has ended: `v` is `s` but for the time, the reads outstanding and the ports' error status (R328). -/
structure State.ReadOver (s v : State) (r : HostRead) : Prop where
  sqs : v.sqs = s.sqs
  hbm : v.hbm = s.hbm
  grist : v.grist = s.grist
  sec : v.sec = s.sec
  power : v.power = s.power
  held : v.core.held = s.core.held
  inject : v.core.inject = s.core.inject
  reads : ∀ x ∈ v.host.reads, x.id ≠ r.id

/-- What issued the read takes its end. -/
def State.served (s : State) (r : HostRead) (c : HostCpl) : State :=
  match r.what with
  | .descriptors q first n => s.descData q first n c
  | .opData q i off => s.opData q i off c
  | .firmware off => s.fwData off r.len c

/-- The read `r` is no longer outstanding. -/
def State.unread (s : State) (r : HostRead) : State :=
  s.modHost fun h => { h with reads := h.reads.filter fun x => x.id != r.id }

theorem unread_reads (s : State) (r : HostRead) : ∀ x ∈ (s.unread r).host.reads, x.id ≠ r.id := by
  intro x hx
  simpa using (List.mem_filter.1 hx).2

/-- The error status of the port as a completion leaves it (R325). -/
def State.completed (s : State) (p : HostPort) (c : HostCpl) : State :=
  match c with | .poisoned _ => s.aerAdvisory p 12 | _ => s

/-- A read that is completed is over. -/
theorem completed_over (s : State) (p : HostPort) (r : HostRead) (c : HostCpl) : s.ReadOver ((s.completed p c).unread r) r
    ∧ ((s.completed p c).unread r).core = s.core ∧ ((s.completed p c).unread r).clk = s.clk := by
  have same : ∃ h, s.completed p c = { s with host := h } := by
    unfold State.completed State.aerAdvisory State.modPort
    split
    · split
      · exact ⟨_, rfl⟩
      · split <;> exact ⟨_, rfl⟩
    · exact ⟨_, rfl⟩
  have reads := unread_reads (s.completed p c) r
  obtain ⟨h, same⟩ := same
  rw [same] at reads ⊢
  exact ⟨⟨rfl, rfl, rfl, rfl, rfl, rfl, rfl, reads⟩, rfl, rfl⟩

/-- A read that has timed out is over. -/
theorem timedOut_over (s : State) (p : HostPort) (r : HostRead) (due : Nat) : s.ReadOver (((s.after due).aerError p 14).unread r) r := by
  have reads := unread_reads ((s.after due).aerError p 14) r
  obtain ⟨n, k, g, c, later⟩ := after_later s due
  rw [later] at reads ⊢
  have same : ∃ h, (s.later n k g c).aerError p 14 = { s.later n k g c with host := h } := by
    unfold State.aerError State.modPort
    split <;> exact ⟨_, rfl⟩
  obtain ⟨h, same⟩ := same
  rw [same] at reads ⊢
  exact ⟨rfl, rfl, rfl, rfl, rfl, rfl, rfl, reads⟩

section
variable {k : Nat} {r : HostRead} {p : HostPort} (hr : s.read? k = some r) (hp : p = portOf r.port)
  (reach : s.portConfig p = true)
include hr hp reach

theorem exec_hostReadCompletion (c : HostCpl) :
    exec (.hostReadCompletion k c) s = .next (((s.completed p c).unread r).served r c) := by
  change execHostReadCompletion k c s = _
  unfold execHostReadCompletion
  rw [hr]
  dsimp only
  rw [← hp, flushPosted_of_nil (posted_of_config reach), if_pos reach]
  rfl

theorem exec_hostCompletionTimeout (on : (s.port p).pci.cplOff = false) : exec (.hostCompletionTimeout k) s =
    .next ((((s.after (r.at_ + cplTicks (s.port p).pci.cplRange)).aerError p 14).unread r).served r .error) := by
  have up : s.on = true := by
    unfold State.portConfig at reach
    simp only [Bool.and_eq_true] at reach
    exact reach.1.1.1
  change execHostCompletionTimeout k s = _
  unfold execHostCompletionTimeout
  rw [hr]
  dsimp only
  rw [← hp, if_neg (by simp [up, on])]
  rfl

/-- A completion ends its read for what issued it (R328). -/
theorem hostReadCompletion_serves (c : HostCpl) : ∃ v, exec (.hostReadCompletion k c) s = .next (v.served r c)
    ∧ s.ReadOver v r ∧ v.core = s.core ∧ v.clk = s.clk :=
  ⟨_, exec_hostReadCompletion hr hp reach c, completed_over s p r c⟩

/-- A timeout ends its read as an error (R325). -/
theorem hostCompletionTimeout_serves (on : (s.port p).pci.cplOff = false) :
    ∃ v, exec (.hostCompletionTimeout k) s = .next (v.served r .error) ∧ s.ReadOver v r :=
  ⟨_, exec_hostCompletionTimeout hr hp reach on, timedOut_over s p r _⟩

/-- Each end without data: an error or a timeout. -/
theorem error_serves (on : (s.port p).pci.cplOff = false) :
    ∀ c ∈ [Instr.hostReadCompletion k .error, .hostCompletionTimeout k], ∃ v, exec c s = .next (v.served r .error)
      ∧ s.ReadOver v r := by
  intro c hc
  simp only [List.mem_cons, List.not_mem_nil, or_false] at hc
  obtain rfl | rfl := hc
  · obtain ⟨v, run, ended, -⟩ := hostReadCompletion_serves hr hp reach .error
    exact ⟨v, run, ended⟩
  · exact hostCompletionTimeout_serves hr hp reach on

/-- Each end without good data: an error, poisoned data or a timeout. -/
theorem bad_serves (on : (s.port p).pci.cplOff = false) (bs : List Byte) :
    ∀ c ∈ [Instr.hostReadCompletion k .error, .hostReadCompletion k (.poisoned bs), .hostCompletionTimeout k],
      ∃ v x, exec c s = .next (v.served r x) ∧ s.ReadOver v r ∧ (x = .error ∨ x = .poisoned bs) := by
  intro c hc
  simp only [List.mem_cons, List.not_mem_nil, or_false] at hc
  obtain rfl | rfl | rfl := hc
  · obtain ⟨v, run, ended, -⟩ := hostReadCompletion_serves hr hp reach .error
    exact ⟨v, _, run, ended, .inl rfl⟩
  · obtain ⟨v, run, ended, -⟩ := hostReadCompletion_serves hr hp reach (.poisoned bs)
    exact ⟨v, _, run, ended, .inr rfl⟩
  · obtain ⟨v, run, ended⟩ := hostCompletionTimeout_serves hr hp reach on
    exact ⟨v, _, run, ended, .inl rfl⟩

end

/-! ## Data of descriptors (R335, R337) -/

theorem State.ReadOver.sq {v : State} {r : HostRead} (h : s.ReadOver v r) (q : Nat) : v.sq q = s.sq q := by
  unfold State.sq
  rw [h.sqs]

/-- The descriptor once one of its reads has ended. -/
def SqOp.read (o : SqOp) : SqOp := { o with reads := o.reads - 1 }

/-- Bytes of the piece at offset `off` of a LOAD, and of a SEND or an RWRITE (R335). -/
def SqOp.piece (o : SqOp) (off : Nat) : Nat :=
  if o.op == 1 then min (o.len - off) (4096 - (o.dev + off) % 4096) else min 4096 (o.len - off)

/-- What the end of a read for descriptor `o`, which stands in the queue, leads to (R335, R337). -/
def State.opTaken (s : State) (q : Nat) (p : HostPort) (off : Nat) (o : SqOp) (c : HostCpl) : State :=
  match o.op, c with
  | 1, .data bs => s.loadFrame q p o off (fit (o.piece off) bs) false
  | 1, .poisoned bs => (s.modOp q o.index fun o => { o with fail := 10 }).loadFrame q p o off (fit (o.piece off) bs) true
  | 3, .data bs => (s.modOp q o.index fun x => { x with got := x.got ++ [(off, fit (o.piece off) bs)] }).sendFrames q p
      o.index (o.got.length + 1)
  | 6, .data bs => s.modOp q o.index fun x => { x with got := [(0, fit (o.piece off) bs)] }
  | 6, _ => s.modOp q o.index (SqOp.finish 10 0)
  | _, _ => s.modOp q o.index fun o => { o with fail := 10 }

section
variable {q i off : Nat} {h : HostPort} {o : SqOp} (port : (s.sq q).port = some h)
  (found : (s.sq q).ops.find? (fun y => y.index == i) = some o)
  (one : ((s.sq q).ops.filter (fun y => y.index == i)).length = 1)
include port found one

theorem modOp_read : (s.modOp q i SqOp.read).OpIs q h (s.sq q).ops i o.read := modOp_opIs port found one rfl

theorem opData_eq (c : HostCpl) : s.opData q i off c = (s.modOp q i SqOp.read).opTaken q h off o.read c := by
  have is := modOp_read port found one
  have e : (s.modOp q i fun o => { o with reads := o.reads - 1 }) = s.modOp q i SqOp.read := rfl
  unfold State.opData State.opTaken
  dsimp only
  rw [e, is.port, is.find, is.index]
  rfl

end

section
variable {q i off : Nat} {h : HostPort} {l : List SqOp} {o : SqOp} (is : s.OpIs q h l i o)
include is

/-- Good data of a LOAD leaves as the frame of its piece (R335). -/
theorem opTaken_load (op : o.op = 1) (bs : List Byte) :
    (s.opTaken q h off o (.data bs)).OpIs q h l i { o with frames := o.frames + 1, made := o.made + o.piece off }
      ∧ (s.opTaken q h off o (.data bs)).hbm = s.hbm
      ∧ ∃ f, (s.opTaken q h off o (.data bs)).made (portMlt h) f ∧ f.payload = fit (o.piece off) bs ∧ f.hdr.op = 0x04
        ∧ f.hdr.opx = BitVec.ofNat 64 (o.dev + off) ∧ f.tail.verdict = 0 := by
  have taken : s.opTaken q h off o (.data bs) = s.loadFrame q h o off (fit (o.piece off) bs) false := by
    unfold State.opTaken
    rw [op]
    rfl
  have leaves := loadFrame_leaves is o is.index off (fit (o.piece off) bs) false
  rw [fit_length] at leaves
  rw [taken]
  exact leaves

/-- Poisoned data of a LOAD leaves with a poisoned tail (R335). -/
theorem opTaken_load_poisoned (op : o.op = 1) (bs : List Byte) :
    (s.opTaken q h off o (.poisoned bs)).OpIs q h l i
        { o with fail := 10, frames := o.frames + 1, made := o.made + o.piece off }
      ∧ (s.opTaken q h off o (.poisoned bs)).hbm = s.hbm
      ∧ ∃ f, (s.opTaken q h off o (.poisoned bs)).made (portMlt h) f ∧ f.payload = fit (o.piece off) bs
        ∧ f.tail.verdict = 3 := by
  have taken : s.opTaken q h off o (.poisoned bs) =
      (s.modOp q i fun o => { o with fail := 10 }).loadFrame q h o off (fit (o.piece off) bs) true := by
    unfold State.opTaken
    rw [op, is.index]
    rfl
  obtain ⟨ops, hbm, f, made, payload, -, -, tail⟩ :=
    loadFrame_leaves (is.modOp (f := fun o => { o with fail := 10 }) rfl) o is.index off (fit (o.piece off) bs) true
  rw [fit_length] at ops
  rw [taken]
  exact ⟨ops, hbm, f, made, payload, tail⟩

/-- Data of a SEND that is not next in order is kept (R335). -/
theorem opTaken_send_kept (op : o.op = 3) (later : off ≠ o.made) (none_ : o.got.find? (fun g => g.1 == o.made) = none)
    (bs : List Byte) : (s.opTaken q h off o (.data bs)).OpIs q h l i { o with got := o.got ++ [(off, fit (o.piece off) bs)] }
      ∧ (s.opTaken q h off o (.data bs)).core = s.core ∧ (s.opTaken q h off o (.data bs)).hbm = s.hbm := by
  have mod := is.modOp (f := fun x => { x with got := x.got ++ [(off, fit (o.piece off) bs)] }) rfl
  have still : (o.got ++ [(off, fit (o.piece off) bs)]).find? (fun g => g.1 == o.made) = none := by
    rw [List.find?_append, none_, Option.none_or, List.find?_cons_of_neg (by simpa using later)]
    rfl
  have taken : s.opTaken q h off o (.data bs) = s.modOp q i fun x => { x with got := x.got ++ [(off, fit (o.piece off) bs)] } := by
    unfold State.opTaken
    rw [op, is.index]
    exact sendFrames_of_none mod still _
  rw [taken]
  exact ⟨mod, rfl, rfl⟩

/-- Data of a SEND that is next in order leaves in a frame (R335). -/
theorem opTaken_send_leaves (op : o.op = 3) (next : off = o.made) (none_ : o.got = []) (bs : List Byte) :
    (s.opTaken q h off o (.data bs)).OpIs q h l i { o with frames := o.frames + 1, made := o.made + o.piece off }
      ∧ (s.opTaken q h off o (.data bs)).hbm = s.hbm
      ∧ ∃ f, (s.opTaken q h off o (.data bs)).made (portMlt h) f ∧ f.payload = fit (o.piece off) bs ∧ f.hdr.op = 0x01 := by
  have mod := is.modOp (f := fun x => { x with got := x.got ++ [(off, fit (o.piece off) bs)] }) rfl
  have taken : s.opTaken q h off o (.data bs) =
      (s.modOp q i fun x => { x with got := x.got ++ [(off, fit (o.piece off) bs)] }).sendFrames q h i 1 := by
    unfold State.opTaken
    rw [op, is.index, none_]
    rfl
  obtain ⟨ops, hbm, f, made, payload, op⟩ := sendFrames_leaves (bs := fit (o.piece off) bs) mod (by rw [none_, next]; rfl)
  rw [fit_length] at ops
  rw [taken]
  refine ⟨?_, hbm, f, made, payload, op⟩
  have kept : { o with frames := o.frames + 1, made := o.made + o.piece off, got := [] }
      = { o with frames := o.frames + 1, made := o.made + o.piece off } := by rw [← none_]
  rw [← kept]
  exact ops

/-- A LOAD or SEND without data, and a SEND with poisoned data, will complete with STATUS 10 (R337). -/
theorem opTaken_fails {c : HostCpl} (op : o.op = 1 ∧ c = .error ∨ o.op = 3 ∧ ∀ bs, c ≠ .data bs) :
    (s.opTaken q h off o c).OpIs q h l i { o with fail := 10 } ∧ (s.opTaken q h off o c).core = s.core
      ∧ (s.opTaken q h off o c).hbm = s.hbm := by
  have taken : s.opTaken q h off o c = s.modOp q i fun o => { o with fail := 10 } := by
    unfold State.opTaken
    rw [is.index]
    obtain ⟨op, rfl⟩ | ⟨op, bad⟩ := op
    · rw [op]
      rfl
    · rw [op]
      cases c with
      | data bs => exact absurd rfl (bad bs)
      | poisoned | error => rfl
  rw [taken]
  exact ⟨is.modOp rfl, rfl, rfl⟩

/-- Data of an RWRITE is kept for its request (R335). -/
theorem opTaken_rwrite (op : o.op = 6) (bs : List Byte) :
    (s.opTaken q h off o (.data bs)).OpIs q h l i { o with got := [(0, fit (o.piece off) bs)] }
      ∧ (s.opTaken q h off o (.data bs)).hbm = s.hbm := by
  have taken : s.opTaken q h off o (.data bs) = s.modOp q i fun x => { x with got := [(0, fit (o.piece off) bs)] } := by
    unfold State.opTaken
    rw [op, is.index]
    rfl
  rw [taken]
  exact ⟨is.modOp rfl, rfl⟩

/-- An RWRITE without good data completes with STATUS 10 (R337). -/
theorem opTaken_rwrite_fails (op : o.op = 6) {c : HostCpl} (bad : ∀ bs, c ≠ .data bs) :
    (s.opTaken q h off o c).OpIs q h l i (SqOp.finish 10 0 o) ∧ (s.opTaken q h off o c).hbm = s.hbm := by
  have taken : s.opTaken q h off o c = s.modOp q i (SqOp.finish 10 0) := by
    unfold State.opTaken
    rw [op, is.index]
    cases c with
    | data bs => exact absurd rfl (bad bs)
    | poisoned | error => rfl
  rw [taken]
  exact ⟨is.modOp rfl, rfl⟩

end

theorem loadFrame_keeps (s : State) (q : Nat) (p : HostPort) (o : SqOp) (off : Nat) (bs : List Byte) (bad : Bool) :
    (s.loadFrame q p o off bs bad).host = s.host ∧ (s.loadFrame q p o off bs bad).clk = s.clk := by
  unfold State.loadFrame
  dsimp only
  generalize SrcFrame.mk .. = f
  obtain ⟨-, -, host, clk⟩ := source_leaves
    (s.modOp q o.index fun o => { o with frames := o.frames + 1, made := o.made + bs.length }) f
  exact ⟨host, clk⟩

theorem opData_keeps (s : State) (q i off : Nat) {c : HostCpl} (bad : ∀ bs, c ≠ .data bs) :
    (s.opData q i off c).host = s.host ∧ (s.opData q i off c).clk = s.clk := by
  unfold State.opData
  dsimp only
  split
  · split
    · exact absurd rfl (bad _)
    · exact loadFrame_keeps ..
    · exact absurd rfl (bad _)
    · exact absurd rfl (bad _)
    · exact ⟨rfl, rfl⟩
    · exact ⟨rfl, rfl⟩
  · exact ⟨rfl, rfl⟩

theorem fwFails_keeps (s : State) (code : Nat) (p : HostPort) :
    (s.fwFails code).port p = s.port p ∧ (s.fwFails code).clk = s.clk := by
  cases p
  · exact ⟨rfl, rfl⟩
  · exact ⟨rfl, rfl⟩

/-! ## Descriptors (R334) -/

section
variable {q first n : Nat} (live : (s.sq q).phase = .running ∨ (s.sq q).phase = .waiting)
include live

/-- Good descriptors join their queue behind the earlier ones (R334). -/
theorem descData_joins (bs : List Byte) :
    ((s.descData q first n (.data bs)).sq q).ops = (s.sq q).ops ++ (List.range n).map (fun i =>
          { index := (first + i) % 65536, desc := sliceB bs (64 * i) 64,
            status := if sqDescBad (s.sq q).version (s.queueField q 1 1 == 1) (sliceB bs (64 * i) 64) then some 1 else none })
      ∧ ((s.descData q first n (.data bs)).sq q).fetching = 0
      ∧ (s.descData q first n (.data bs)).host = s.host ∧ (s.descData q first n (.data bs)).hbm = s.hbm := by
  have sq := modSq_sq_same s q fun x => { x with fetching := 0 }
  unfold State.descData
  dsimp only
  rw [sq, if_neg (by obtain h | h := live <;> simp [h])]
  refine ⟨?_, ?_, rfl, rfl⟩
  · rw [modSq_sq_same, sq]
    rfl
  · rw [modSq_sq_same, sq]

/-- Without good data one descriptor joins that is complete with STATUS 10 (R337). -/
theorem descData_fails {c : HostCpl} (bad : ∀ bs, c ≠ .data bs) :
    (∃ d, ((s.descData q first n c).sq q).ops = (s.sq q).ops ++ [{ index := first, desc := d, status := some 10 }])
      ∧ ((s.descData q first n c).sq q).fetching = 0
      ∧ (s.descData q first n c).host = s.host ∧ (s.descData q first n c).hbm = s.hbm := by
  have sq := modSq_sq_same s q fun x => { x with fetching := 0 }
  unfold State.descData
  dsimp only
  rw [sq, if_neg (by obtain h | h := live <;> simp [h])]
  cases c with
  | data bs => exact absurd rfl (bad bs)
  | poisoned | error =>
    dsimp only
    rw [useFree_sq, modSq_sq_same, sq]
    exact ⟨⟨_, rfl⟩, rfl, rfl, rfl⟩

end

/-! ## Firmware (R402) -/

section
variable {off len : Nat} (load : s.sec.loadPort ≠ 0) (step : s.power.step = 4)
include load step

/-- Firmware data is stored at its offset, and the next reads leave (R402). -/
theorem fwData_stores (more : len < s.sec.loading) (bs : List Byte) :
    (s.fwData off len (.data bs)).sec.parts = Tab.set [] s.sec.parts off (fit len bs)
      ∧ (s.fwData off len (.data bs)).sec.loading = s.sec.loading - len
      ∧ (s.fwData off len (.data bs)).sec.loadPort = s.sec.loadPort
      ∧ (s.fwData off len (.data bs)).power = s.power ∧ (s.fwData off len (.data bs)).hbm = s.hbm := by
  have rest : ¬ s.sec.loading - len = 0 := by omega
  unfold State.fwData
  dsimp only
  rw [if_neg (by simp [load, step])]
  obtain ⟨_, _, _, reads⟩ := fwReads_frame 1 (s.modSec fun x =>
    { x with parts := Tab.set [] x.parts off (fit len bs), loading := x.loading - len })
  rw [if_pos (by simpa using rest), reads]
  exact ⟨rfl, rfl, rfl, rfl, rfl⟩

/-- After the last of its data the image is verified (R394, R402). -/
theorem fwData_last (last : len = s.sec.loading) (bs : List Byte) :
    (s.fwData off len (.data bs)).sec.image = (Tab.set [] s.sec.parts off (fit len bs)).flatMap (·.2)
      ∧ (s.fwData off len (.data bs)).sec.loadPort = s.sec.loadPort
      ∧ (s.fwData off len (.data bs)).power.step = 5 ∧ (s.fwData off len (.data bs)).power.stepAt = s.now
      ∧ (s.fwData off len (.data bs)).hbm = s.hbm := by
  unfold State.fwData
  dsimp only
  rw [if_neg (by simp [load, step]), if_neg (by simp [last])]
  exact ⟨rfl, rfl, rfl, rfl, rfl⟩

/-- Without good data the load ends with code 8 (R402). -/
theorem fwData_fails {c : HostCpl} (bad : ∀ bs, c ≠ .data bs) :
    (s.fwData off len c).sec.code = 8 ∧ (s.fwData off len c).sec.loadPort = 0 ∧ (s.fwData off len c).sec.parts = []
      ∧ (∀ x ∈ (s.fwData off len c).host.reads, x ∈ s.host.reads) ∧ (s.fwData off len c).hbm = s.hbm := by
  have fails : s.fwData off len c = s.fwFails 8 := by
    unfold State.fwData
    rw [if_neg (by simp [load, step])]
    cases c with
    | data bs => exact absurd rfl (bad bs)
    | poisoned | error => rfl
  rw [fails]
  exact ⟨rfl, rfl, rfl, fun x hx => List.mem_of_mem_filter hx, rfl⟩

end

/-! ## The ports and the time -/

/-- The end of a read without good data leaves the ports and the time. -/
theorem served_keeps (s : State) (r : HostRead) {c : HostCpl} (bad : ∀ bs, c ≠ .data bs) (p : HostPort) :
    (s.served r c).port p = s.port p ∧ (s.served r c).clk = s.clk := by
  unfold State.served
  cases r.what with
  | descriptors q first n =>
    have desc : (s.descData q first n c).host = s.host ∧ (s.descData q first n c).clk = s.clk := by
      unfold State.descData
      dsimp only
      split
      · exact ⟨rfl, rfl⟩
      · cases c with
        | data bs => exact absurd rfl (bad bs)
        | poisoned | error => exact ⟨rfl, rfl⟩
    exact ⟨port_eq_of_host_eq desc.1 p, desc.2⟩
  | opData q i off =>
    have data : (s.opData q i off c).host = s.host ∧ (s.opData q i off c).clk = s.clk := opData_keeps s q i off bad
    exact ⟨port_eq_of_host_eq data.1 p, data.2⟩
  | firmware off =>
    dsimp only
    unfold State.fwData
    split
    · exact ⟨rfl, rfl⟩
    · cases c with
      | data bs => exact absurd rfl (bad bs)
      | poisoned | error => exact fwFails_keeps s 8 p

/-- What the end of a read for a descriptor finds: the descriptor with one read less. -/
theorem served_opData {v : State} {r : HostRead} {q i off : Nat} {h : HostPort} {o : SqOp} (ended : s.ReadOver v r)
    (what : r.what = .opData q i off) (port : (s.sq q).port = some h)
    (found : (s.sq q).ops.find? (fun y => y.index == i) = some o)
    (one : ((s.sq q).ops.filter (fun y => y.index == i)).length = 1) (c : HostCpl) :
    ∃ u : State, v.served r c = u.opTaken q h off o.read c ∧ u.OpIs q h (s.sq q).ops i o.read ∧ u.core = v.core ∧ u.hbm = s.hbm := by
  have sq := ended.sq q
  rw [← sq] at port found one ⊢
  refine ⟨v.modOp q i SqOp.read, ?_, modOp_read port found one, rfl, ended.hbm⟩
  unfold State.served
  rw [what]
  exact opData_eq port found one c

theorem piece_of_load {o : SqOp} {n off : Nat} (op : o.op = 1) (hn : n = min (o.len - off) (4096 - (o.dev + off) % 4096)) :
    n = o.read.piece off := hn.trans (if_pos (beq_iff_eq.2 op)).symm

theorem piece_of_not_load {o : SqOp} {n off : Nat} (op : o.op ≠ 1) (hn : n = min 4096 (o.len - off)) :
    n = o.read.piece off := hn.trans (if_neg fun h => op (eq_of_beq h)).symm

theorem served_descriptors {r : HostRead} {q first n : Nat} (what : r.what = .descriptors q first n) (c : HostCpl) :
    s.served r c = s.descData q first n c := by
  unfold State.served
  rw [what]

theorem served_firmware {r : HostRead} {off : Nat} (what : r.what = .firmware off) (c : HostCpl) :
    s.served r c = s.fwData off r.len c := by
  unfold State.served
  rw [what]

theorem unread_port (s : State) (r : HostRead) (p : HostPort) : (s.unread r).port p = s.port p := by
  cases p <;> rfl

/-- A timeout sets its bit of the AER status, no earlier than its range (R325). -/
theorem timedOut_spec (s : State) (p : HostPort) (due : Nat) :
    (((s.after due).aerError p 14).port p).aer = (s.port p).aer ||| word (2 ^ 14)
      ∧ ((s.after due).aerError p 14).now = max s.now due := by
  have now := after_now s due
  obtain ⟨n, k, g, c, later⟩ := after_later s due
  rw [later] at now ⊢
  unfold State.aerError
  rw [modPort_port_same, modPort_now, now]
  exact ⟨rfl, rfl⟩

/-- Poisoned data sets its bits of the AER status (R325). -/
theorem completed_poisoned (local_ : s.host.remote = false) (p : HostPort) (bs : List Byte) :
    ((s.completed p (.poisoned bs)).port p).aer = (s.port p).aer ||| word (2 ^ 12)
      ∧ ((s.completed p (.poisoned bs)).port p).aerCor = (s.port p).aerCor ||| word (2 ^ 13) := by
  unfold State.completed State.aerAdvisory
  dsimp only
  rw [if_neg (by simp [local_]), modPort_port_same]
  exact ⟨rfl, rfl⟩

/-- Settles O28: what ends a read leaves the queues and the load as they were, so that its issuer decides alone. -/
theorem hostCompletions : Obligations.HostCompletions := by
  unfold Obligations.HostCompletions
  intro s k r p hr hp reach on
  refine ⟨?_, fun bs local_ => ?_, fun q first n what live => ⟨fun bs => ?_, fun c hc => ?_⟩,
    fun q i off o h m what port found hm upd hupd one => ⟨fun bs n op hn => ⟨?_, ?_⟩, fun bs n op hn => ⟨?_, ?_, ?_⟩,
      fun op c hc => ?_, fun op => ⟨fun bs => ?_, fun bs c hc => ?_⟩⟩,
    fun off what load step => ⟨fun bs more => ?_, fun bs last => ?_, fun bs c hc => ?_⟩⟩
  · obtain ⟨aer, now⟩ := timedOut_spec s p (r.at_ + cplTicks (s.port p).pci.cplRange)
    have run := exec_hostCompletionTimeout hr hp reach on
    generalize (s.after (r.at_ + cplTicks (s.port p).pci.cplRange)).aerError p 14 = u at *
    obtain ⟨port, clk⟩ := served_keeps (u.unread r) r (c := .error) (fun _ => nofun) p
    refine ⟨_, run, ?_, ?_⟩
    · rw [port, unread_port, aer]
    · exact (congrArg Clocks.ticks clk).trans now
  · obtain ⟨aer, cor⟩ := completed_poisoned local_ p bs
    obtain ⟨port, -⟩ := served_keeps ((s.completed p (.poisoned bs)).unread r) r (c := .poisoned bs) (fun _ => nofun) p
    refine ⟨_, exec_hostReadCompletion hr hp reach (.poisoned bs), ?_, ?_⟩
    · rw [port, unread_port, aer]
    · rw [port, unread_port, cor]
  · obtain ⟨v, run, ended, -⟩ := hostReadCompletion_serves hr hp reach (.data bs)
    have sq := ended.sq q
    have field : v.queueField q 1 1 = s.queueField q 1 1 := by
      unfold State.queueField State.field State.sec_
      rw [ended.grist]
    obtain ⟨ops, fetching, host, hbm⟩ := descData_joins (s := v) (first := first) (n := n) (sq ▸ live) bs
    rw [served_descriptors what] at run
    rw [sq, field] at ops
    exact ⟨_, run, ops, fetching, host ▸ ended.reads, hbm.trans ended.hbm⟩
  · obtain ⟨v, run, ended⟩ := error_serves hr hp reach on c hc
    have sq := ended.sq q
    obtain ⟨ops, fetching, host, hbm⟩ :=
      descData_fails (s := v) (first := first) (n := n) (sq ▸ live) (c := .error) fun _ => nofun
    rw [served_descriptors what] at run
    rw [sq] at ops
    exact ⟨_, run, ops, fetching, host ▸ ended.reads, hbm.trans ended.hbm⟩
  · obtain ⟨v, run, ended, -⟩ := hostReadCompletion_serves hr hp reach (.data bs)
    obtain ⟨u, served, is, -, hbm⟩ := served_opData ended what port found one (.data bs)
    obtain ⟨new, same, made⟩ := opTaken_load (off := off) is op bs
    rw [served] at run
    rw [piece_of_load op hn]
    exact ⟨_, run, hm ▸ hupd ▸ new.ops, same.trans hbm, made⟩
  · obtain ⟨v, run, ended, -⟩ := hostReadCompletion_serves hr hp reach (.poisoned bs)
    obtain ⟨u, served, is, -, hbm⟩ := served_opData ended what port found one (.poisoned bs)
    obtain ⟨new, same, made⟩ := opTaken_load_poisoned (off := off) is op bs
    rw [served] at run
    rw [piece_of_load op hn]
    exact ⟨_, run, hm ▸ hupd ▸ new.ops, same.trans hbm, made⟩
  · intro later none_
    obtain ⟨v, run, ended, core, -⟩ := hostReadCompletion_serves hr hp reach (.data bs)
    obtain ⟨u, served, is, same, hbm⟩ := served_opData ended what port found one (.data bs)
    obtain ⟨new, still, kept⟩ := opTaken_send_kept (off := off) is op later none_ bs
    rw [served] at run
    rw [piece_of_not_load (by omega) hn]
    exact ⟨_, run, hm ▸ hupd ▸ new.ops, still.trans (same.trans core), kept.trans hbm⟩
  · intro next none_ some_
    obtain ⟨v, run, ended, -⟩ := hostReadCompletion_serves hr hp reach (.data bs)
    obtain ⟨u, served, is, -, hbm⟩ := served_opData ended what port found one (.data bs)
    obtain ⟨new, same, made⟩ := opTaken_send_leaves (off := off) is op next none_ bs
    rw [served] at run
    rw [piece_of_not_load (by omega) hn]
    exact ⟨_, run, hm ▸ hupd ▸ new.ops, same.trans hbm, made⟩
  · obtain ⟨v, run, ended, core, -⟩ := hostReadCompletion_serves hr hp reach (.poisoned bs)
    obtain ⟨u, served, is, same, hbm⟩ := served_opData ended what port found one (.poisoned bs)
    obtain ⟨new, still, kept⟩ := opTaken_fails (off := off) (c := .poisoned bs) is (.inr ⟨op, fun _ => nofun⟩)
    rw [served] at run
    exact ⟨_, run, hm ▸ hupd ▸ new.ops, still.trans (same.trans core), kept.trans hbm⟩
  · obtain ⟨v, run, ended⟩ := error_serves hr hp reach on c hc
    obtain ⟨u, served, is, same, hbm⟩ := served_opData ended what port found one .error
    obtain ⟨new, still, kept⟩ := opTaken_fails (off := off) (c := .error) is
      (op.imp (fun op => ⟨op, rfl⟩) fun op => ⟨op, fun _ => nofun⟩)
    have core := still.trans same
    rw [served] at run
    exact ⟨_, run, hm ▸ hupd ▸ new.ops, (congrArg Core.held core).trans ended.held,
      (congrArg Core.inject core).trans ended.inject, kept.trans hbm⟩
  · obtain ⟨v, run, ended, -⟩ := hostReadCompletion_serves hr hp reach (.data bs)
    obtain ⟨u, served, is, -, hbm⟩ := served_opData ended what port found one (.data bs)
    obtain ⟨new, same⟩ := opTaken_rwrite (off := off) is op bs
    rw [served] at run
    rw [piece_of_not_load (by omega) rfl]
    exact ⟨_, run, hm ▸ hupd ▸ new.ops, same.trans hbm⟩
  · obtain ⟨v, x, run, ended, bad⟩ := bad_serves hr hp reach on bs c hc
    obtain ⟨u, served, is, -, hbm⟩ := served_opData ended what port found one x
    obtain ⟨new, same⟩ := opTaken_rwrite_fails (off := off) (c := x) is op (by obtain rfl | rfl := bad <;> exact fun _ => nofun)
    rw [served] at run
    exact ⟨_, run, hm ▸ hupd ▸ new.ops, same.trans hbm⟩
  · obtain ⟨v, run, ended, -⟩ := hostReadCompletion_serves hr hp reach (.data bs)
    have sec := ended.sec
    obtain ⟨parts, loading, port, power, hbm⟩ := fwData_stores (s := v) (off := off) (sec ▸ load) (ended.power ▸ step)
      (sec ▸ more) bs
    rw [served_firmware what] at run
    rw [sec] at parts loading port
    exact ⟨_, run, parts, loading, port, (congrArg Power.step (power.trans ended.power)).trans step, hbm.trans ended.hbm⟩
  · obtain ⟨v, run, ended, -, clk⟩ := hostReadCompletion_serves hr hp reach (.data bs)
    have sec := ended.sec
    obtain ⟨image, port, step, at_, hbm⟩ := fwData_last (s := v) (off := off) (sec ▸ load) (ended.power ▸ step)
      (sec ▸ last) bs
    rw [served_firmware what] at run
    rw [sec] at image port
    exact ⟨_, run, image, port, step, at_.trans (congrArg Clocks.ticks clk), hbm.trans ended.hbm⟩
  · obtain ⟨v, x, run, ended, bad⟩ := bad_serves hr hp reach on bs c hc
    have sec := ended.sec
    obtain ⟨code, port, parts, reads, hbm⟩ := fwData_fails (s := v) (off := off) (len := r.len) (sec ▸ load)
      (ended.power ▸ step) (c := x) (by obtain rfl | rfl := bad <;> exact fun _ => nofun)
    rw [served_firmware what] at run
    exact ⟨_, run, code, port, parts, fun y hy => ended.reads y (reads y hy), hbm.trans ended.hbm⟩

end Sys2Proof.Machine


namespace Sys2Proof.Machine

/-! # The exchange of time over the links (R302 to R305) -/

variable {s : State}

/-! ## What flits that come and go can change -/

/-- The operation leaves the time, HBM, and of link port `p` its state and the time of its last exchange; what
has left the package stays. -/
structure State.FlitKept (s t : State) (p : Nat) : Prop where
  time : t.time = s.time
  clk : t.clk = s.clk
  hbm : t.hbm = s.hbm
  at_ : (t.link p).timeAt = (s.link p).timeAt
  phase : (t.link p).phase = (s.link p).phase
  out : ∃ more, t.out = more ++ s.out

namespace State.FlitKept
variable {t u : State} {p : Nat}

theorem refl (s : State) (p : Nat) : s.FlitKept s p := ⟨rfl, rfl, rfl, rfl, rfl, [], rfl⟩

theorem trans (h : s.FlitKept t p) (g : t.FlitKept u p) : s.FlitKept u p := by
  obtain ⟨more, out⟩ := h.out
  obtain ⟨more', out'⟩ := g.out
  exact ⟨g.time.trans h.time, g.clk.trans h.clk, g.hbm.trans h.hbm, g.at_.trans h.at_, g.phase.trans h.phase,
    more' ++ more, by rw [out', out, List.append_assoc]⟩

end State.FlitKept

section
variable (s : State) (p : Nat)

theorem modLink_flitKept {f : Link → Link} (at_ : ∀ l, (f l).timeAt = l.timeAt) (phase : ∀ l, (f l).phase = l.phase) :
    s.FlitKept (s.modLink p f) p :=
  ⟨rfl, rfl, rfl, by rw [modLink_link_same, at_], by rw [modLink_link_same, phase], [], rfl⟩

theorem modLane_flitKept (i : Nat) (f : Lane → Lane) : s.FlitKept (s.modLane p i f) p :=
  modLink_flitKept s p (fun _ => rfl) fun _ => rfl

theorem emit_flitKept (o : Output) : s.FlitKept (s.emit o) p := ⟨rfl, rfl, rfl, rfl, rfl, [o], rfl⟩

theorem raise_flitKept (src detail : Nat) : s.FlitKept (s.raise src detail) p := ⟨rfl, rfl, rfl, rfl, rfl, [], rfl⟩

theorem sendSlot_flitKept (i : Nat) (flit : Nat → Output) : s.FlitKept (s.sendSlot p i flit) p := by
  unfold State.sendSlot
  refine (modLink_flitKept s p ?_ ?_).trans (emit_flitKept _ p _)
  · exact fun _ => rfl
  · exact fun _ => rfl

theorem sendFlit_flitKept (flit : List Byte) : s.FlitKept (s.sendFlit p flit) p := by
  unfold State.sendFlit
  dsimp only
  refine (modLink_flitKept s p ?_ ?_).trans (sendSlot_flitKept _ p _ _)
  · exact fun _ => rfl
  · exact fun _ => rfl

theorem modHealth_flitKept (f : Health → Health) : s.FlitKept (s.modHealth f) p := ⟨rfl, rfl, rfl, rfl, rfl, [], rfl⟩

theorem resend_flitKept (i num : Nat) (flit : List Byte) : s.FlitKept (s.resend p i num flit) p := by
  unfold State.resend
  dsimp only
  refine ((modLink_flitKept s p ?_ ?_).trans (sendSlot_flitKept _ p _ _)).trans
    ((modHealth_flitKept _ p _).trans (raise_flitKept _ p _ _))
  · exact fun _ => rfl
  · exact fun _ => rfl

theorem drainTx_flitKept (n : Nat) : s.FlitKept (s.drainTx p n) p := by
  induction n generalizing s with
  | zero => exact .refl s p
  | succ n ih =>
    unfold State.drainTx
    extract_lets l
    split
    · exact .refl s p
    · split
      · split
        · exact (resend_flitKept s p _ _ _).trans (ih _)
        · exact .refl s p
      · split
        · split
          · exact (sendFlit_flitKept s p _).trans (ih _)
          · exact .refl s p
        · exact .refl s p

theorem ackWord_flitKept (i w : Nat) : s.FlitKept (s.ackWord p i w) p := by
  unfold State.ackWord
  extract_lets want x known rest nak cnt s1
  split
  · exact .refl s p
  · have lane : s.FlitKept s1 p := modLane_flitKept s p i _
    clear_value s1
    refine lane.trans (modLink_flitKept s1 p ?_ ?_)
    · exact fun _ => rfl
    · exact fun _ => rfl

theorem codeword_flitKept (x : FlitSlot) : s.FlitKept (s.codeword p x).1 p := by
  unfold State.codeword
  extract_lets l s1
  split
  · exact modLane_flitKept s p _ _
  · have found : s.FlitKept s1 p := by
      unfold s1
      split
      · exact .refl s p
      · refine ((modLink_flitKept s p ?_ ?_).trans (modLane_flitKept _ p _ _)).trans (raise_flitKept _ p _ _)
        · exact fun _ => rfl
        · exact fun _ => rfl
      · refine (modLink_flitKept s p ?_ ?_).trans (raise_flitKept _ p _ _)
        · exact fun _ => rfl
        · exact fun _ => rfl
    clear_value s1
    exact found.trans (modLane_flitKept s1 p _ _)

end

/-! ## Sending -/

theorem sendSlot_spec (s : State) (p i : Nat) (flit : Nat → Output) :
    (s.sendSlot p i flit).out = flit ((s.link p).slotHeader i) :: s.out
      ∧ ((s.sendSlot p i flit).link p).txWait = (s.link p).txWait ∧ ((s.sendSlot p i flit).link p).reTx = (s.link p).reTx := by
  have link := modLink_link_same s p fun l => { l with lanes := Tab.mod {} l.lanes i fun x => { x with txSlots := x.txSlots + 1 } }
  have same : (s.sendSlot p i flit).link p = (s.modLink p fun l =>
    { l with lanes := Tab.mod {} l.lanes i fun x => { x with txSlots := x.txSlots + 1 } }).link p := rfl
  rw [same, link]
  exact ⟨rfl, rfl, rfl⟩

/-- The counts of flits since the last control flit and the last credit flit, as one of SUBTYPE `sub` leaves them. -/
def Link.counted (l : Link) (sub : Nat) : Link :=
  { l with sinceCtl := 0, sinceCred := if sub == 0 then 0 else l.sinceCred + 1 }

/-- The control flit itself has left in the next slot of its lane (R257, R259). -/
def State.controlSent (s : State) (p sub : Nat) (body : List Byte) : State :=
  (s.modLink p (·.counted sub)).sendSlot p (s.link p).txLane fun h =>
    .control p h (sealFlit ((s.link p).acks ++ fit 28 body ++ [BitVec.ofNat 8 sub, 4#8]))

theorem controlOut_eq (s : State) (p sub : Nat) (body : List Byte) : s.controlOut p sub body =
    (s.controlSent p sub body).drainTx p ((s.controlSent p sub body).link p).waiting := rfl

theorem controlSent_spec (s : State) (p sub : Nat) (body : List Byte) : s.FlitKept (s.controlSent p sub body) p
    ∧ (s.controlSent p sub body).out = .control p ((s.link p).slotHeader (s.link p).txLane)
        (sealFlit ((s.link p).acks ++ fit 28 body ++ [BitVec.ofNat 8 sub, 4#8])) :: s.out
    ∧ ((s.controlSent p sub body).link p).waiting = (s.link p).waiting := by
  unfold State.controlSent
  generalize sealFlit ((s.link p).acks ++ fit 28 body ++ [BitVec.ofNat 8 sub, 4#8]) = flit
  have counted : s.FlitKept (s.modLink p (·.counted sub)) p := modLink_flitKept s p (fun _ => rfl) fun _ => rfl
  have link := modLink_link_same s p (·.counted sub)
  have out : (s.modLink p (·.counted sub)).out = s.out := rfl
  generalize s.modLink p (·.counted sub) = u at *
  obtain ⟨sent, wait, again⟩ := sendSlot_spec u p (s.link p).txLane fun h => .control p h flit
  rw [link, out] at sent
  refine ⟨counted.trans (sendSlot_flitKept u p _ _), sent, ?_⟩
  unfold Link.waiting
  rw [wait, again, link]
  rfl

/-- A control flit leaves in the next slot of its lane, and what waited for it follows (R257, R259). -/
theorem controlOut_leaves (s : State) (p sub : Nat) (body : List Byte) : s.FlitKept (s.controlOut p sub body) p
    ∧ ∃ more, (s.controlOut p sub body).out = more ++ .control p ((s.link p).slotHeader (s.link p).txLane)
        (sealFlit ((s.link p).acks ++ fit 28 body ++ [BitVec.ofNat 8 sub, 4#8])) :: s.out
      ∧ ((s.link p).txWait = [] → (s.link p).reTx = [] → more = []) := by
  obtain ⟨kept, sent, waiting⟩ := controlSent_spec s p sub body
  rw [controlOut_eq, waiting]
  generalize s.controlSent p sub body = v at *
  have drained := drainTx_flitKept v p (s.link p).waiting
  obtain ⟨more, drain⟩ := drained.out
  refine ⟨kept.trans drained, more, drain.trans (congrArg (more ++ ·) sent), fun none_ idle => ?_⟩
  have still : (s.link p).waiting = 0 := by
    unfold Link.waiting
    rw [none_, idle]
    rfl
  rw [still] at drain
  exact List.self_eq_append_left.1 drain

/-- TIME_EXCHANGE_SEND (R302). -/
theorem timeExchangeSend_sends (on : s.alive = true) {p : Fin 14} (up : (s.link p).phase = .up) {o : State}
    (ho : o = s.dwell (s.link p).timeAt 4000000) : Answers (.timeExchangeSend p) s fun t =>
      (∃ more, t.out = more ++ .control p ((s.link p).slotHeader (s.link p).txLane)
          (sealFlit ((s.link p).acks ++ fit 28 (timeBytes (o.timeFlit p)) ++ [1#8, 4#8])) :: s.out
        ∧ ((s.link p).txWait = [] → (s.link p).reTx = [] → more = []))
      ∧ (t.link p).timeAt = t.now ∧ t.now = o.now ∧ t.time.ftc = o.time.ftc := by
  have run : exec (.timeExchangeSend p) s =
      .next ((o.modLink p fun l => { l with timeAt := o.now }).controlOut p 1 (timeBytes (o.timeFlit p))) := by
    change execTimeExchangeSend p s = _
    unfold execTimeExchangeSend
    dsimp only
    rw [if_neg (by simp [on, up]), ← ho]
  have links : o.links = s.links ∧ o.out = s.out := by
    obtain ⟨n, k, g, c, later⟩ := dwell_later s (s.link p).timeAt 4000000
    rw [ho, later]
    exact ⟨rfl, rfl⟩
  generalize timeBytes (o.timeFlit p) = body at run ⊢
  have link : o.link p = s.link p := by
    unfold State.link
    rw [links.1]
  have stamped := modLink_link_same o p fun l => { l with timeAt := o.now }
  have same : (o.modLink p fun l => { l with timeAt := o.now }).out = o.out
      ∧ (o.modLink p fun l => { l with timeAt := o.now }).clk = o.clk
      ∧ (o.modLink p fun l => { l with timeAt := o.now }).time = o.time := ⟨rfl, rfl, rfl⟩
  generalize (o.modLink p fun l => { l with timeAt := o.now }) = u at *
  obtain ⟨out, clk, time⟩ := same
  obtain ⟨kept, sent⟩ := controlOut_leaves u p 1 body
  rw [stamped, link, out, links.2] at sent
  have now : (u.controlOut p 1 body).now = o.now := congrArg Clocks.ticks (kept.clk.trans clk)
  refine ⟨_, run, sent, ?_, now, congrArg TimeSt.ftc (kept.time.trans time)⟩
  rw [kept.at_, stamped, now]

/-! ## Receiving -/

/-- A control flit on a lane that the port does not hear is none. -/
theorem controlIn_unheard {p sub : Nat} {x : FlitSlot} {flit : List Byte} {act : List Byte → State → State}
    (deaf : s.laneHears p x.lane = false) : s.controlIn p x flit sub act = s := by
  unfold State.controlIn
  rw [if_pos (by simp [deaf])]

/-- A control flit in a bad codeword, with a bad CRC, or of another kind, does nothing but count (R259). -/
theorem controlIn_dropped {p sub : Nat} {x : FlitSlot} {flit : List Byte} {act : List Byte → State → State} {o : State}
    {ok : Bool} (hears : s.laneHears p x.lane = true) (code : s.codeword p x = (o, ok))
    (bad : ok = false ∨ flitGood flit = false ∨ flitKind flit ≠ 1 ∨ byteAt flit 60 ≠ sub) :
    s.controlIn p x flit sub act = o := by
  unfold State.controlIn
  rw [if_neg (by simp [hears]), code]
  exact if_pos (by simpa [or_assoc] using bad)

theorem ackWords_flitKept (s : State) (p : Nat) (flit : List Byte) (l : List Nat) :
    s.FlitKept (l.foldl (fun s i => s.ackWord p i (natAt flit (2 * i) 2)) s) p := by
  induction l generalizing s with
  | nil => exact .refl s p
  | cons i l ih => exact (ackWord_flitKept s p i _).trans (ih _)

/-- A good control flit acts, behind its acknowledgement words, in a state with the time and the HBM of before. -/
theorem controlIn_acts {p sub : Nat} {x : FlitSlot} {flit : List Byte} {act : List Byte → State → State} {o : State}
    {ok : Bool} (hears : s.laneHears p x.lane = true) (code : s.codeword p x = (o, ok)) (fine : ok = true)
    (good : flitGood flit = true) (kind : flitKind flit = 1) (subtype : byteAt flit 60 = sub) :
    ∃ u, s.FlitKept u p ∧ s.controlIn p x flit sub act = act (sliceB flit 0x20 28) u := by
  have kept := codeword_flitKept s p x
  rw [code] at kept
  unfold State.controlIn
  rw [if_neg (by simp [hears]), code]
  dsimp only
  rw [if_neg (by simp [fine, good, kind, subtype])]
  split
  · exact ⟨o, kept, rfl⟩
  · have acked := ackWords_flitKept o p flit (o.link p).trainedLanes
    generalize (o.link p).trainedLanes.foldl (fun s i => s.ackWord p i (natAt flit (2 * i) 2)) o = v at *
    exact ⟨_, kept.trans (acked.trans (drainTx_flitKept v p _)), rfl⟩

/-! ## What a port knows of its neighbour (R303) -/

/-- What the time logic keeps for each port: what its neighbour sent, when, and the offset and delay. -/
def TimeSt.ports (t : TimeSt) : Tab TimeFlit × Tab (Nat × Nat) × Tab Int × Tab Int :=
  (t.portNb, t.portRx, t.portOfs, t.portDly)

theorem ports_of_unlocked {t u : TimeSt} (h : t.unlocked = u.unlocked) : t.ports = u.ports :=
  (congrArg TimeSt.ports h :)

theorem timePhase_ports (s : State) (ph : TimePhase) : (s.timePhase ph).time.ports = s.time.ports :=
  ports_of_unlocked (timePhase_unlocked s ph)

theorem chooseParent_ports (s : State) : s.chooseParent.time.ports = s.time.ports := by
  unfold State.chooseParent
  split
  · rfl
  extract_lets roots s1
  have conflict : s1.time.ports = s.time.ports := by
    unfold s1
    split <;> rfl
  clear_value s1
  split
  · exact conflict
  · dsimp only
    split
    · exact (timePhase_ports ..).trans conflict
    · exact (timePhase_ports ..).trans conflict
    · exact conflict

theorem exchange_ports (s : State) (theta : Int) : (s.exchange theta).time.ports = s.time.ports := by
  obtain ⟨n, b, first⟩ := firstStep_unlocked s theta
  unfold State.exchange
  dsimp only
  generalize s.firstStep theta = u at *
  rw [ports_of_unlocked (lockStep_unlocked _ theta), ports_of_unlocked (servoStep_unlocked _ theta)]
  have heard : (u.modTime fun t => { t with heardAt := u.now }).time.ports = u.time.ports := rfl
  exact heard.trans (ports_of_unlocked (u := s.time.shifted n b) first)

/-- What port `p` sent and when is kept (R303). -/
def TimeSt.noted (t : TimeSt) (p : Nat) (f : TimeFlit) (now : Nat) : TimeSt :=
  { t with portRx := Tab.put t.portRx p (f.tx.toNat, now), portNb := Tab.put t.portNb p f }

/-- Theta and delay of port `p` are kept (R303). -/
def TimeSt.measured (t : TimeSt) (p : Nat) (theta delay : Int) : TimeSt :=
  { t with portOfs := Tab.set 0 t.portOfs p theta, portDly := Tab.set 0 t.portDly p delay }

/-- How far the flit's way back, and out, took by the counts of both ends (R303). -/
def timeBack (f : TimeFlit) (now : Nat) : Int := (now : Int) - f.tx.toNat
@[inherit_doc timeBack] def timeOut (f : TimeFlit) : Int := (f.echoRx.toNat : Int) - f.echoTx.toNat

theorem timeIn_eq {p : Nat} {f : TimeFlit} (up : (s.link p).phase = .up) : s.timeIn p f =
    (let w := (s.modTime (·.noted p f s.time.ftc)).chooseParent
    let theta := Int.tdiv (timeBack f s.time.ftc - timeOut f) 2
    let v := w.modTime (·.measured p theta (Int.tdiv (timeOut f + timeBack f s.time.ftc) 2))
    if f.echoTx == 0 then w else if v.time.parent == some p && !v.timeRoot then v.exchange theta else v) := by
  unfold State.timeIn
  rw [if_neg (by simp [up])]
  rfl

/-- A good time flit is kept with its arrival, and gives theta and delay (R303). -/
theorem timeIn_spec {p : Nat} {f : TimeFlit} (up : (s.link p).phase = .up) :
    Tab.get {} (s.timeIn p f).time.portNb p = f ∧ Tab.get (0, 0) (s.timeIn p f).time.portRx p = (f.tx.toNat, s.time.ftc)
      ∧ (s.timeIn p f).hbm = s.hbm
      ∧ (f.echoTx ≠ 0 → Tab.get 0 (s.timeIn p f).time.portOfs p = Int.tdiv (timeBack f s.time.ftc - timeOut f) 2
        ∧ Tab.get 0 (s.timeIn p f).time.portDly p = Int.tdiv (timeOut f + timeBack f s.time.ftc) 2) := by
  rw [timeIn_eq up]
  have ports := chooseParent_ports (s.modTime (·.noted p f s.time.ftc))
  have frame := (modTime_timeFrame s (·.noted p f s.time.ftc)).trans (chooseParent_timeFrame _)
  generalize (s.modTime (·.noted p f s.time.ftc)).chooseParent = w at *
  have nb : w.time.portNb = Tab.put s.time.portNb p f := (congrArg (·.1) ports :)
  have rx : w.time.portRx = Tab.put s.time.portRx p (f.tx.toNat, s.time.ftc) := (congrArg (·.2.1) ports :)
  generalize Int.tdiv (timeBack f s.time.ftc - timeOut f) 2 = theta
  generalize Int.tdiv (timeOut f + timeBack f s.time.ftc) 2 = delay
  dsimp only
  by_cases none_ : f.echoTx = 0
  · rw [if_pos (by simp [none_]), nb, rx]
    exact ⟨Tab.get_put_same .., Tab.get_put_same .., frame.hbm, fun some_ => absurd none_ some_⟩
  · rw [if_neg (by simpa using none_)]
    obtain ⟨t, ht⟩ : ∃ t, (if (w.modTime (·.measured p theta delay)).time.parent == some p
        && !(w.modTime (·.measured p theta delay)).timeRoot then (w.modTime (·.measured p theta delay)).exchange theta
        else w.modTime (·.measured p theta delay)) = t := ⟨_, rfl⟩
    have end_ : t.time.ports = (w.time.measured p theta delay).ports ∧ t.hbm = w.hbm := by
      rw [← ht]
      split
      · exact ⟨exchange_ports .., (exchange_timeFrame _ theta).hbm⟩
      · exact ⟨rfl, rfl⟩
    rw [ht]
    obtain ⟨ports, hbm⟩ := end_
    have nb' : t.time.portNb = w.time.portNb := (congrArg (·.1) ports :)
    have rx' : t.time.portRx = w.time.portRx := (congrArg (·.2.1) ports :)
    have ofs : t.time.portOfs = Tab.set 0 w.time.portOfs p theta := (congrArg (·.2.2.1) ports :)
    have dly : t.time.portDly = Tab.set 0 w.time.portDly p delay := (congrArg (·.2.2.2) ports :)
    rw [nb', nb, rx', rx, ofs, dly]
    exact ⟨Tab.get_put_same .., Tab.get_put_same .., hbm.trans frame.hbm, fun _ => ⟨Tab.get_set_same .., Tab.get_set_same ..⟩⟩

/-- TIME_EXCHANGE_RECEIVE of a good time flit at a port that is up (R302, R303). -/
theorem timeExchangeReceive_keeps {p : Fin 14} {x : FlitSlot} {flit : List Byte} {o : State} {ok : Bool} {f : TimeFlit}
    (up : (s.link p).phase = .up) (hears : s.laneHears p x.lane = true) (code : s.codeword p x = (o, ok))
    (hf : f = timeFrom (sliceB flit 0x20 28)) (fine : ok = true) (good : flitGood flit = true) (kind : flitKind flit = 1)
    (subtype : byteAt flit 60 = 1) : Answers (.timeExchangeReceive p x flit) s fun t =>
      Tab.get {} t.time.portNb p = f ∧ Tab.get (0, 0) t.time.portRx p = (f.tx.toNat, s.time.ftc) ∧ t.hbm = s.hbm
      ∧ (f.echoTx ≠ 0 → Tab.get 0 t.time.portOfs p = Int.tdiv (timeBack f s.time.ftc - timeOut f) 2
        ∧ Tab.get 0 t.time.portDly p = Int.tdiv (timeOut f + timeBack f s.time.ftc) 2) := by
  obtain ⟨u, kept, acts⟩ := controlIn_acts (act := fun b s => s.timeIn p (timeFrom b)) hears code fine good kind subtype
  have run : exec (.timeExchangeReceive p x flit) s = .next (u.timeIn p f) :=
    congrArg Host.Outcome.next (acts.trans (by rw [hf]))
  have spec := timeIn_spec (f := f) (kept.phase.trans up)
  rw [kept.time, kept.hbm] at spec
  exact ⟨_, run, spec⟩

end Sys2Proof.Machine


namespace Sys2Proof.Machine

/-! # The source of the root (R299, R300) -/

variable {s : State}

/-! ## PTP (R300) -/

section
variable {m : PtpSync} (ptp : s.ptpOn = true) (hears : s.ptpHears m.domain = true)
  (master : s.time.ptpMaster.getD m.masterId = m.masterId) (first : m.followUp = false)
include ptp hears master first

/-- The Sync of a two-step master waits for its Follow_Up (R300). -/
theorem exec_ptpSync_twoStep (two : m.twoStep = true) : exec (.ptpSync m) s = .next (s.modTime fun t =>
    { t with ptpMaster := some m.masterId, ptpReqAt := none, ptpWait := some (m.arrival : Int), srcAt := s.now }) := by
  change execPtpSync m s = _
  unfold execPtpSync
  dsimp only
  rw [if_neg (by simp [ptp, hears, master]), if_pos (by simp [two, first]), first]
  rfl

/-- The time state once a Sync has given the offset `ofs` (R300). -/
def TimeSt.synced (t : TimeSt) (m : PtpSync) (ofs : Int) : TimeSt :=
  { t with ptpMaster := some m.masterId, ptpReqAt := none, ptpWait := none,
           ptpSync := some (m.masterTicks, (m.arrival : Int)), ptpOfs := ofs }

/-- The Sync of a one-step master is an event of the source (R300). -/
theorem exec_ptpSync_oneStep (one : m.twoStep = false) : exec (.ptpSync m) s =
    .next ((s.modTime (·.synced m ((m.arrival : Int) - m.masterTicks - s.time.ptpDelay))).sourceEvent
      ((m.arrival : Int) - m.masterTicks - s.time.ptpDelay) 40 true) := by
  change execPtpSync m s = _
  unfold execPtpSync
  dsimp only
  rw [if_neg (by simp [ptp, hears, master]), if_neg (by simp [one]), first]
  rfl

end

/-- The time state after an event of the source, but for the lock and the servo: the count may have stepped. -/
theorem sourceEvent_shifts (s : State) (ofs : Int) (bound : Nat) (step : Bool) : ∃ n b,
    (s.sourceEvent ofs bound step).time.unlocked = ({ s.time with srcAt := s.now }.shifted n b).unlocked := by
  rw [sourceEvent_unlocked]
  unfold State.sourceSteered
  rw [servoStep_unlocked]
  have heard := sourceHeard_unlocked s
  split
  · obtain ⟨n, b, first⟩ := firstStep_unlocked s.sourceHeard ofs
    refine ⟨n, b, first.trans ?_⟩
    have shifted (x : TimeSt) : (x.shifted n b).unlocked = (x.unlocked.shifted n b).unlocked := rfl
    rw [shifted, heard, ← shifted]
  · exact ⟨s.time.ftc, s.time.stepped, heard.trans (congrArg TimeSt.unlocked
      (TimeSt.shifted_self { s.time with srcAt := s.now }).symm)⟩

/-- A Sync of a one-step master steers the root by its offset (R299, R300). -/
theorem ptpSync_steers {m : PtpSync} (ptp : s.ptpOn = true) (hears : s.ptpHears m.domain = true)
    (master : s.time.ptpMaster.getD m.masterId = m.masterId) (first : m.followUp = false) (one : m.twoStep = false) {ofs : Int}
    (hofs : ofs = (m.arrival : Int) - m.masterTicks - s.time.ptpDelay) : Answers (.ptpSync m) s fun t =>
      t.time.ptpOfs = ofs ∧ t.time.ptpMaster = some m.masterId
      ∧ t.time.ptpSync = some (m.masterTicks, (m.arrival : Int) + ((t.time.ftc : Int) - s.time.ftc)) ∧ t.time.srcAt = s.now
      ∧ (40 < ofs.natAbs → t.time.phase = .acquiring)
      ∧ (ofs.natAbs ≤ 40 → s.time.phase = .acquiring → 15 ≤ s.time.inLock → t.time.phase = .locked) := by
  have run := exec_ptpSync_oneStep ptp hears master first one
  rw [← hofs] at run
  obtain ⟨n, b, same⟩ := sourceEvent_shifts (s.modTime (·.synced m ofs)) ofs 40 true
  refine ⟨_, run, (congrArg TimeSt.ptpOfs same :), (congrArg TimeSt.ptpMaster same :), ?_, (congrArg TimeSt.srcAt same :),
    sourceEvent_acquires, fun within acq count => sourceEvent_locks within acq count⟩
  have ftc : ((s.modTime (·.synced m ofs)).sourceEvent ofs 40 true).time.ftc = n := (congrArg TimeSt.ftc same :)
  rw [ftc]
  exact (congrArg TimeSt.ptpSync same :)

theorem exec_ptpDelayReqSend (ptp : s.ptpOn = true) (sync : s.time.ptpSync.isSome = true) (none_ : s.time.ptpReqAt = none) :
    exec .ptpDelayReqSend s =
      .next ((s.modTime fun t => { t with ptpReqAt := some (t.ftc : Int) }).emit (.delayReq s.time.ftc)) := by
  change execPtpDelayReqSend s = _
  unfold execPtpDelayReqSend
  rw [if_neg (by simp [ptp, none_, Option.isSome_iff_ne_none.1 sync])]

/-- The delay response gives the delay to the master (R300). -/
theorem exec_ptpDelayResp {t1 d m r : Nat} {t2 t3 : Int} (ptp : s.ptpOn = true) (sync : s.time.ptpSync = some (t1, t2))
    (req : s.time.ptpReqAt = some t3) (hears : s.ptpHears d = true) (master : s.time.ptpMaster = some m) :
    exec (.ptpDelayResp d m r) s = .next (s.modTime fun t => { t with
      ptpDelay := Int.tdiv ((t2 - (t1 : Int)) + ((r : Int) - t3)) 2, ptpReqAt := none, ptpSync := none }) := by
  change execPtpDelayResp d m r s = _
  unfold execPtpDelayResp
  rw [sync, req]
  dsimp only
  rw [if_neg (by simp [ptp, hears, master])]

/-! ## Silence (R299, R305) -/

/-- Entering another state than LOCKED from LOCKED is reported (R305). -/
theorem timePhase_fault (s : State) {ph : TimePhase} (new : s.time.phase ≠ ph) :
    (s.time.phase = .locked → (s.timePhase ph).fault.raised = s.fault.raised ++ [(s.timePhase ph).faultRec 1769 0])
    ∧ (s.time.phase ≠ .locked → (s.timePhase ph).fault = s.fault) := by
  unfold State.timePhase
  dsimp only
  rw [if_neg (by simpa using new)]
  refine ⟨fun locked => ?_, fun other => ?_⟩
  · rw [if_pos (by simp [locked]), raise_eq]
    rfl
  · rw [if_neg (by simpa using other)]
    rfl

/-- The root forgets its master (R299). -/
def TimeSt.masterless (t : TimeSt) : TimeSt := { t with ptpMaster := none, ptpWait := none, ptpSync := none, ptpReqAt := none }

theorem sourceSilent_holds (on : s.on = true) (root : s.timeRoot = true) (source : s.timeSource ≠ 0)
    (new : s.time.phase ≠ .holdover) : Answers .sourceSilent s fun t =>
      t.time.phase = .holdover ∧ t.time.ptpMaster = none ∧ t.now = max s.now (s.time.srcAt + 12000000000)
      ∧ (s.time.phase = .locked → t.fault.raised = s.fault.raised ++ [t.faultRec 1769 0])
      ∧ (s.time.phase ≠ .locked → t.fault = s.fault) := by
  have run : exec .sourceSilent s =
      .next (((s.after (s.time.srcAt + 12000000000)).modTime TimeSt.masterless).timePhase .holdover) := by
    change execSourceSilent s = _
    unfold execSourceSilent
    rw [if_neg (by simp [on, root, source, new])]
    rfl
  have now := after_now s (s.time.srcAt + 12000000000)
  obtain ⟨n, k, g, c, later⟩ := after_later s (s.time.srcAt + 12000000000)
  rw [later] at run now
  generalize s.time.srcAt + 12000000000 = due at now ⊢
  have phase : ((s.later n k g c).modTime TimeSt.masterless).time.phase = s.time.phase := rfl
  have fault : ((s.later n k g c).modTime TimeSt.masterless).fault = s.fault := rfl
  have master : ((s.later n k g c).modTime TimeSt.masterless).time.ptpMaster = none := rfl
  have same : ((s.later n k g c).modTime TimeSt.masterless).clk = (s.later n k g c).clk := rfl
  generalize (s.later n k g c).modTime TimeSt.masterless = u at *
  obtain ⟨locked, other⟩ := timePhase_fault u (ph := .holdover) (phase ▸ new)
  rw [phase, fault] at locked other
  have kept := timePhase_unlocked u .holdover
  refine ⟨_, run, timePhase_phase u _, ?_, ?_, locked, other⟩
  · exact (congrArg TimeSt.ptpMaster kept).trans master
  · exact (timePhase_timeFrame u .holdover).now.trans ((congrArg Clocks.ticks same).trans now)

/-! ## PPS_IN (R299, R301) -/

/-- An edge of PPS_IN steers the root by its offset from the second (R299, R301). -/
theorem ppsInEdge_steers (on : s.on = true) (root : s.timeRoot = true) (source : s.timeSource = 2) {ofs : Int}
    (hofs : ofs = if s.time.ftc % second < second / 2 then ((s.time.ftc % second : Nat) : Int)
      else (s.time.ftc % second : Nat) - second) : Answers .ppsInEdge s fun t =>
      t.time.ppsIn = BitVec.ofNat 64 s.time.ftc ∧ t.time.srcAt = s.now ∧ (8 < ofs.natAbs → t.time.phase = .acquiring)
      ∧ (ofs.natAbs ≤ 8 → s.time.phase = .acquiring → 15 ≤ s.time.inLock → t.time.phase = .locked) := by
  have run := exec_ppsInEdge on
  rw [if_neg (by simp [root, source]), ← hofs] at run
  have same := (sourceEvent_unlocked (s.modTime fun t => { t with ppsIn := BitVec.ofNat 64 s.time.ftc }) ofs 8 false).trans
    (sourceSteered_unlocked ..)
  exact ⟨_, run, (congrArg TimeSt.ppsIn same :), (congrArg TimeSt.srcAt same :), sourceEvent_acquires,
    fun within acq count => sourceEvent_locks within acq count⟩

/-! ## The parent (R304, R305) -/

theorem timePhase_history (s : State) (ph : TimePhase) : (s.timePhase ph).time.history = s.time.history := by
  unfold State.timePhase
  dsimp only
  split
  · rfl
  · split <;> rfl

/-- A state of time that follows a parent (R304). -/
def State.followed (s : State) : State :=
  match s.time.phase with | .free => s.timePhase .acquiring | .holdover => s.timePhase .acquiring | _ => s

theorem followed_spec (s : State) : s.followed.time.portNb = s.time.portNb ∧ s.followed.time.adj = s.time.adj
    ∧ s.followed.time.history = s.time.history ∧ s.followed.time.parent = s.time.parent
    ∧ (s.time.phase = .acquiring ∨ s.time.phase = .locked → s.followed.time.phase = s.time.phase) := by
  have enters : (s.timePhase .acquiring).time.portNb = s.time.portNb ∧ (s.timePhase .acquiring).time.adj = s.time.adj
      ∧ (s.timePhase .acquiring).time.history = s.time.history ∧ (s.timePhase .acquiring).time.parent = s.time.parent :=
    ⟨(congrArg TimeSt.portNb (timePhase_unlocked s .acquiring) :), timePhase_adj .., timePhase_history ..,
      (congrArg TimeSt.parent (timePhase_unlocked s .acquiring) :)⟩
  obtain ⟨nb, adj, history, parent⟩ := enters
  unfold State.followed
  cases h : s.time.phase with
  | free => exact ⟨nb, adj, history, parent, fun other => by simp at other⟩
  | holdover => exact ⟨nb, adj, history, parent, fun other => by simp at other⟩
  | acquiring => exact ⟨rfl, rfl, rfl, rfl, fun _ => h⟩
  | locked => exact ⟨rfl, rfl, rfl, rfl, fun _ => h⟩

/-- The parent chosen for a state of time that follows (R304). -/
def TimeSt.adopts (t : TimeSt) (p : Nat) (f : TimeFlit) (now : Nat) : TimeSt :=
  { t with heardAt := if t.parent == some p then t.heardAt else now, parent := some p, depth := f.depth.toNat + 1,
           rootId := f.root.toNat }

/-- The choice of a parent leaves what is known of the neighbours, the rate and its history; without one it shows
none, and with one it leaves a state that follows (R304). -/
theorem chooseParent_spec (s : State) (node : s.timeRoot = false) : s.chooseParent.time.portNb = s.time.portNb
    ∧ s.chooseParent.time.adj = s.time.adj ∧ s.chooseParent.time.history = s.time.history
    ∧ (s.chooseParent.time.parent = none → s.chooseParent.time.depth = 0x3F)
    ∧ (s.time.portNb = [] → s.chooseParent.time.parent = none)
    ∧ (s.time.phase = .acquiring ∨ s.time.phase = .locked → s.chooseParent.time.phase = s.time.phase) := by
  unfold State.chooseParent
  rw [if_neg (by simp [node])]
  extract_lets roots s1
  have conflict : s1.time.portNb = s.time.portNb ∧ s1.time.adj = s.time.adj ∧ s1.time.history = s.time.history
      ∧ s1.time.phase = s.time.phase := by
    unfold s1
    split <;> exact ⟨rfl, rfl, rfl, rfl⟩
  clear_value s1
  obtain ⟨nb, adj, history, phase⟩ := conflict
  split
  · exact ⟨nb, adj, history, fun _ => rfl, fun _ => rfl, fun _ => phase⟩
  · next p f best =>
    have chosen (h : s.time.portNb = []) : False := by
      have none_ : s1.eligible = [] := by
        unfold State.eligible State.timeNeighbours
        rw [nb, h]
        rfl
      rw [none_] at best
      exact nomatch best
    obtain ⟨nb', adj', history', parent, phase'⟩ := followed_spec (s1.modTime (·.adopts p f s1.now))
    suffices all : ∀ t : State, t = (s1.modTime (·.adopts p f s1.now)).followed → t.time.portNb = s.time.portNb
        ∧ t.time.adj = s.time.adj ∧ t.time.history = s.time.history ∧ (t.time.parent = none → t.time.depth = 0x3F)
        ∧ (s.time.portNb = [] → t.time.parent = none)
        ∧ (s.time.phase = .acquiring ∨ s.time.phase = .locked → t.time.phase = s.time.phase) from all _ rfl
    rintro _ rfl
    refine ⟨nb'.trans nb, adj'.trans adj, history'.trans history, fun none_ => ?_, fun h => (chosen h).elim, fun follows => ?_⟩
    · rw [parent] at none_
      exact nomatch none_
    · exact (phase' (phase ▸ follows)).trans phase

/-- The time state in which the parent that was silent is forgotten (R305). -/
def State.parentLost (s : State) : State :=
  match s.time.parent with
  | some p => s.modTime fun t => { t with portNb := t.portNb.drop p, parent := none }
  | none => s

/-- The rate of HOLDOVER: the mean of the last ones (R305). -/
def TimeSt.meanAdj (t : TimeSt) : Int :=
  if t.history.isEmpty then t.adj else Int.tdiv (t.history.foldl (· + ·) 0) t.history.length

theorem exec_parentTimeout (on : s.on = true) (node : s.timeRoot = false)
    (follows : s.time.phase = .acquiring ∨ s.time.phase = .locked) : exec .parentTimeout s =
      (let u := (s.after (s.time.heardAt + 12000000)).parentLost.chooseParent
      .next (if u.time.parent.isSome then u else (u.modTime fun t => { t with adj := u.time.meanAdj }).timePhase .holdover)) := by
  change execParentTimeout s = _
  unfold execParentTimeout
  dsimp only
  rw [if_neg (by obtain h | h := follows <;> simp [on, node, h])]
  obtain ⟨w, hw⟩ : ∃ w, w = s.after (s.time.heardAt + 12000000) := ⟨_, rfl⟩
  rw [← hw]
  exact (apply_ite Host.Outcome.next _ _ _).symm

/-- What is left when the silent parent is forgotten (R305). -/
theorem parentLost_spec (s : State) : s.TimeFrame s.parentLost ∧ s.parentLost.timeRoot = s.timeRoot
    ∧ s.parentLost.time.phase = s.time.phase ∧ s.parentLost.time.adj = s.time.adj
    ∧ s.parentLost.time.history = s.time.history ∧ (∀ p, s.time.parent = some p → s.parentLost.time.portNb = s.time.portNb.drop p)
    ∧ ((∀ e ∈ s.time.portNb, s.time.parent = some e.1) → s.parentLost.time.portNb = []) := by
  unfold State.parentLost
  cases h : s.time.parent with
  | none =>
    refine ⟨rfl, rfl, rfl, rfl, rfl, fun _ none_ => (nomatch none_), fun only => ?_⟩
    exact List.eq_nil_iff_forall_not_mem.2 fun e he => nomatch only e he
  | some p =>
    refine ⟨rfl, rfl, rfl, rfl, rfl, fun q same => by rw [Option.some.inj same]; rfl, fun only => ?_⟩
    refine List.filter_eq_nil_iff.2 fun e he => ?_
    simp [Option.some.inj (only e he)]

/-- A parent's silence leads to another parent, or to HOLDOVER (R305). -/
theorem parentTimeout_spec (on : s.on = true) (node : s.timeRoot = false)
    (follows : s.time.phase = .acquiring ∨ s.time.phase = .locked) : Answers .parentTimeout s fun t =>
      t.now = max s.now (s.time.heardAt + 12000000) ∧ t.hbm = s.hbm
      ∧ (t.time.parent = none → t.time.phase = .holdover ∧ t.time.depth = 0x3F
        ∧ (s.time.history = [] → t.time.adj = s.time.adj))
      ∧ (t.time.parent.isSome = true → t.time.phase = s.time.phase)
      ∧ (∀ p, s.time.parent = some p → t.time.portNb = s.time.portNb.drop p)
      ∧ ((∀ e ∈ s.time.portNb, s.time.parent = some e.1) → t.time.parent = none) := by
  have run := exec_parentTimeout on node follows
  have now := after_now s (s.time.heardAt + 12000000)
  obtain ⟨n, k, g, c, later⟩ := after_later s (s.time.heardAt + 12000000)
  dsimp only at run
  rw [later] at run now
  have lost := parentLost_spec (s.later n k g c)
  have same : (s.later n k g c).timeRoot = s.timeRoot ∧ (s.later n k g c).time.phase = s.time.phase
      ∧ (s.later n k g c).time.adj = s.time.adj ∧ (s.later n k g c).time.history = s.time.history
      ∧ (s.later n k g c).time.parent = s.time.parent ∧ (s.later n k g c).time.portNb = s.time.portNb
      ∧ (s.later n k g c).hbm = s.hbm := ⟨rfl, rfl, rfl, rfl, rfl, rfl, rfl⟩
  generalize s.later n k g c = w at *
  obtain ⟨root, phase, adj, history, parent, nb, hbm⟩ := same
  obtain ⟨frame, root', phase', adj', history', drops, only⟩ := lost
  rw [parent, nb] at drops only
  rw [phase] at phase'
  have chosen := chooseParent_spec w.parentLost (root'.trans (root.trans node))
  have frame := frame.trans (chooseParent_timeFrame w.parentLost)
  generalize w.parentLost = v at *
  generalize v.chooseParent = u at *
  obtain ⟨nb', adj'', history'', depth, orphan, kept⟩ := chosen
  rw [phase'] at kept
  by_cases some_ : u.time.parent.isSome = true
  · rw [if_pos some_] at run
    refine ⟨_, run, frame.now.trans now, frame.hbm.trans hbm, fun none_ => ?_, fun _ => kept follows,
      fun p hp => nb'.trans (drops p hp), fun all => orphan (only all)⟩
    rw [none_] at some_
    exact nomatch some_
  · rw [if_neg some_] at run
    have meant := (modTime_timeFrame u fun t => { t with adj := u.time.meanAdj }).trans
      (timePhase_timeFrame _ .holdover)
    have unlocked := timePhase_unlocked (u.modTime fun t => { t with adj := u.time.meanAdj }) .holdover
    have depth' := (congrArg TimeSt.depth unlocked :)
    have parent' : ((u.modTime fun t => { t with adj := u.time.meanAdj }).timePhase .holdover).time.parent = u.time.parent :=
      (congrArg TimeSt.parent unlocked :)
    have nb'' := (congrArg TimeSt.portNb unlocked :)
    have none_ : u.time.parent = none := Option.not_isSome_iff_eq_none.1 some_
    refine ⟨_, run, meant.now.trans (frame.now.trans now), meant.hbm.trans (frame.hbm.trans hbm),
      fun _ => ⟨timePhase_phase .., depth'.trans (depth none_), fun empty => ?_⟩, fun some' => ?_, fun p hp => ?_, fun _ => ?_⟩
    · have none_ : u.time.history = [] := history''.trans (history'.trans (history.trans empty))
      rw [timePhase_adj, State.modTime_time]
      change u.time.meanAdj = _
      unfold TimeSt.meanAdj
      rw [none_]
      exact adj''.trans (adj'.trans adj)
    · rw [parent'.trans none_] at some'
      exact nomatch some'
    · exact nb''.trans (nb'.trans (drops p hp))
    · exact parent'.trans none_

/-! ## Steps (R306) -/

theorem exec_ftcSet {p : HostPort} (hm : s.mayWrite p 0x20020 = true) : exec (.ftcSet p) s =
    .next (if s.timeRoot && s.mayStep && (s.timeSource == 0 || s.time.phase == .acquiring)
      then s.stepTo s.time.setTo.toNat else s) :=
  congrArg Host.Outcome.next (hostWrite_acts hm (blockOf_ne_tun (by decide)) _)

theorem stepTo_spec (s : State) (v : DWord) : (s.stepTo v.toNat).time.ftc = v.toNat ∧ (s.stepTo v.toNat).time.stepped = true
    ∧ (s.stepTo v.toNat).hbm = s.hbm :=
  ⟨Nat.mod_eq_of_lt v.isLt, rfl, rfl⟩

/-- Settles O56: what flits carry leaves the time as it was, and the lock and the servo leave what the ports have measured. -/
theorem fabricTime : Obligations.FabricTime := by
  unfold Obligations.FabricTime
  intro s on
  have up := on_of_alive on
  refine ⟨fun p link => ⟨fun o ho => timeExchangeSend_sends on link ho, fun x flit => ⟨fun deaf => ?_,
      fun o ok f hears code hf => ⟨fun bad => ?_, fun fine good kind subtype => ?_⟩⟩⟩,
    fun m ptp hears master first => ⟨exec_ptpSync_twoStep ptp hears master first, fun one ofs hofs =>
      ptpSync_steers ptp hears master first one hofs⟩,
    exec_ptpDelayReqSend, fun t1 t2 t3 d m r => exec_ptpDelayResp, sourceSilent_holds up, fun other => ?_,
    fun ofs root source hofs => ?_, fun node follows only => ?_, fun node follows => ?_, fun p hm => ⟨fun root still mode => ?_, fun no => ?_⟩⟩
  · exact congrArg Host.Outcome.next (controlIn_unheard deaf)
  · exact congrArg Host.Outcome.next (controlIn_dropped hears code bad)
  · exact timeExchangeReceive_keeps link hears code hf fine good kind subtype
  · rw [exec_ppsInEdge up, if_pos (by obtain h | h := other <;> simp [h])]
  · exact ppsInEdge_steers up root source hofs
  · obtain ⟨t, run, now, -, held, -, -, orphan⟩ := parentTimeout_spec up node follows
    have none_ := orphan only
    obtain ⟨phase, depth, rate⟩ := held none_
    exact ⟨t, run, phase, none_, depth, now, rate⟩
  · obtain ⟨t, run, now, hbm, held, other, drops, -⟩ := parentTimeout_spec up node follows
    exact ⟨t, run, now, fun none_ => (held none_).1, other, drops, hbm⟩
  · have run := exec_ftcSet hm
    rw [if_pos (by obtain h | h := mode <;> simp [root, still, h])] at run
    exact ⟨_, run, stepTo_spec s s.time.setTo⟩
  · rw [exec_ftcSet hm, if_neg (by obtain h | h | ⟨h, h'⟩ := no <;> simp [*])]

end Sys2Proof.Machine
